-- ==== Sys2Proof/Word.lean ====
section
/-! DEFINITION. Words, bit fields and sparse tables: the plainest data of the model. -/

namespace Sys2Proof

/-- One byte. -/
abbrev Byte := BitVec 8

/-- A register or data word of 32 bits. -/
abbrev Word := BitVec 32

/-- A sparse table: what stands at the listed keys, ascending, one entry a key. -/
structure Tab (α : Type) where
  cells : List (Nat × α)
  deriving DecidableEq, Repr

namespace Tab

variable {α : Type}

/-- The table with nothing listed. -/
def empty : Tab α := ⟨[]⟩

/-- The entry at key `k` of a list of cells, if one is listed. -/
def find (k : Nat) : List (Nat × α) → Option α
  | [] => none
  | (i, v) :: rest => if i = k then some v else find k rest

/-- The entry at key `k`, if one is listed. -/
def get? (t : Tab α) (k : Nat) : Option α := find k t.cells

/-- What stands at key `k`; `d` where nothing is listed. -/
def get (t : Tab α) (d : α) (k : Nat) : α := (t.get? k).getD d

/-- The cells with `v` put at `k`, keys kept ascending. -/
def put (k : Nat) (v : α) : List (Nat × α) → List (Nat × α)
  | [] => [(k, v)]
  | (i, w) :: rest =>
    if k < i then (k, v) :: (i, w) :: rest
    else if k = i then (k, v) :: rest
    else (i, w) :: put k v rest

/-- The table with `v` at key `k`. -/
def set (t : Tab α) (k : Nat) (v : α) : Tab α := ⟨put k v t.cells⟩

/-- The table with nothing listed at key `k`. -/
def erase (t : Tab α) (k : Nat) : Tab α := ⟨t.cells.filter fun c => c.1 ≠ k⟩

/-- The listed keys. -/
def keys (t : Tab α) : List Nat := t.cells.map (·.1)

/-- Every listed entry changed by `f`. -/
def mapVals (f : Nat → α → α) (t : Tab α) : Tab α := ⟨t.cells.map fun c => (c.1, f c.1 c.2)⟩

end Tab

/-- `n` raised by `k`, stopping at `top` (a saturating counter). -/
def satAdd (top n k : Nat) : Nat := min top (n + k)

/-- `n` raised by one, stopping at `top`. -/
def satInc (top n : Nat) : Nat := satAdd top n 1

/-- Bits `[hi:lo]` of `n`, as a number. -/
def bitsOf (n hi lo : Nat) : Nat := n / 2 ^ lo % 2 ^ (hi + 1 - lo)

/-- Bit `i` of `n`. -/
def bitAt (n i : Nat) : Bool := n.testBit i

/-- The number 1 or 0 for a flag. -/
def bit1 (b : Bool) : Nat := if b then 1 else 0

/-- `v` as a field of `width` bits standing at bit `lo`. -/
def fieldAt (v lo width : Nat) : Nat := v % 2 ^ width * 2 ^ lo

/-- `z` as an unsigned number of `w` bits (two's complement). -/
def toBits (w : Nat) (z : Int) : Nat := (z % (2 : Int) ^ w).toNat

/-- The low `w` bits of `n` read as two's complement. -/
def toSigned (w n : Nat) : Int :=
  let m := n % 2 ^ w
  if m < 2 ^ (w - 1) then (m : Int) else (m : Int) - (2 : Int) ^ w

/-- The little-endian number spelt by a list of bytes. -/
def leNat : List Byte → Nat
  | [] => 0
  | b :: rest => b.toNat + 256 * leNat rest

/-- The `n` bytes of `v`, little-endian. -/
def leBytes : Nat → Nat → List Byte
  | 0, _ => []
  | n + 1, v => BitVec.ofNat 8 v :: leBytes n (v / 256)

/-- `ceil (a / b)`. -/
def ceilDiv (a b : Nat) : Nat := (a + b - 1) / b

/-- The mask with bit `i` put to `b`. -/
def putBit (m i : Nat) (b : Bool) : Nat :=
  if m.testBit i = b then m else if b then m + 2 ^ i else m - 2 ^ i

/-- How many of the low `n` bits of `m` are 1. -/
def popCount (m : Nat) : Nat → Nat
  | 0 => 0
  | n + 1 => bit1 (m.testBit n) + popCount m n

end Sys2Proof
end

