-- ==== Sys2Proof/Syntax.lean ====
section
/-! DEFINITION. The commands the block takes: one constructor of `Instr` for each row of spec/opcode_table.json,
and the plain data that a command carries. A worker is coded (sled << 5) | site, as R85 and R367 code it. -/

namespace Sys2Proof

/-- A time domain (R44): a sled's frames, or the manager frame. -/
inductive Domain where
  | sled (s : Nat)
  | manager
  deriving DecidableEq, Repr

/-- A tick receiver (R35): of a site, a tile driver or a laser module. -/
inductive TickUnit where
  | site (w : Nat)
  | tile (t : Nat)
  | module (k : Nat)
  deriving DecidableEq, Repr

/-- A path on which registers are reached (R43): a host link or a management port. -/
inductive Path where
  | host (sled : Nat)
  | mgmt (port : Nat)
  deriving DecidableEq, Repr

/-- Where a command came from (R334): a queue pair of a host link, with the session of the pair and the command's number in it, a
management client, or a Scarab slot. -/
inductive Source where
  | host (link queue session number : Nat)
  | mgmt (client seq : Nat)
  | scarab (slot : Nat)
  deriving DecidableEq, Repr

/-- The stages of bring-up (Table 3.5). -/
inductive Stage where
  | a | b | c1 | c2 | c3 | d
  deriving DecidableEq, Repr

/-- A command record (Table 14.6) with the host data that was read for it (R333); `none` where that read failed. -/
structure Cmd where
  src    : Source
  op     : Nat
  flags  : Nat
  tag    : Nat
  addr   : Nat
  len    : Nat
  id     : Nat
  addr2  : Nat
  unit   : Nat
  limit  : Nat
  count  : Nat
  sel    : Nat
  window : Nat
  aux    : Nat
  nonce  : Nat
  rsvd   : Nat
  data   : Option (List Byte)
  data2  : Option (List Byte)
  deriving DecidableEq, Repr

/-- A calibration record (R288) as it is measured or handed over: header fields and payload. `check` is the stored CRC. -/
structure CalRec where
  kind    : Nat
  flags   : Nat
  index   : Nat
  length  : Nat
  gen     : Nat
  check   : Nat
  payload : List Byte
  deriving DecidableEq, Repr

/-- How a calibrated value is measured (R289): a gain by dither of amplitude `amp` on a Hadamard code, with the tap ratios of each of its windows,
correlated under R269 beside an unassigned (null) code; an offset from the codes of dark frames; a loss or a feedforward value from the
points of a sweep; and a value whose measurement the spec does not set out, with its count and its noise. -/
inductive RawMeas where
  | gain (code nullCode amp delay : Nat) (windows : List (List Int))
  | dark (codes : List Nat)
  | sweep (points : List (Int × Int))
  | value (v : Int) (n sigma : Nat)
  deriving DecidableEq, Repr

/-- The measurement of one field of a record at one temperature point (R289, R291). -/
structure FieldMeas where
  field : Nat
  point : Nat
  raw   : RawMeas
  deriving DecidableEq, Repr

/-- What a factory calibration measures for one record (R287, R296). -/
structure RecMeas where
  kind   : Nat
  index  : Nat
  fields : List FieldMeas
  deriving DecidableEq, Repr

/-- A part that carries loop cells (Table 11.1): a tile's driver, a laser module, a worker's ring engine. -/
inductive Engine where
  | tile (t : Nat)
  | module (k : Nat)
  | ring (w : Nat)
  deriving DecidableEq, Repr

/-- What a stage of bring-up finds: workers that do not answer or fail, drives that answer, factory records that cannot be
used (R19, R30, R63, R295). -/
structure StageReport where
  absent  : List Nat
  drives  : List (Nat × Nat)
  failed  : List Nat
  badCal  : List (Engine × Nat)
  deriving DecidableEq, Repr

/-- The receiving end of a wire: board link `j` of worker `w`, or its optical port `p` as the light of circuit `c` reaches it. -/
inductive WireEnd where
  | link (w j : Nat)
  | port (w p c : Nat)
  deriving DecidableEq, Repr

/-- What a tear or a settlement is about: a circuit, or a board link named at one of its ends. -/
inductive WireRef where
  | circuit (c : Nat)
  | link (w j : Nat)
  deriving DecidableEq, Repr

/-- The operands of one slot (Table 5.3), less UNIT and OP, which the row names. -/
structure Slot where
  issue : Nat
  fa    : Nat
  fb    : Nat
  ax    : Nat
  ox    : Nat
  ay    : Nat
  oy    : Nat
  len   : Nat
  aux   : Nat
  deriving DecidableEq, Repr

/-- What the cabling search hears at an L-port (R218): the port found on the transmit side and on the receive side,
coded as `CRK.PORTMAP_q` codes them, 3FFh for none. -/
structure Finding where
  q  : Nat
  tx : Nat
  rx : Nat
  deriving DecidableEq, Repr

/-- What is seen in a round of the cabling search (R218, R219): the ARG of the beacon that sniffer 560 + i reads, the ARG that a worker port
(coded as `CRK.PORTMAP_q` codes it) reports, and the frame means of an L-port's input tap, in 0.01 dB, frame by frame. -/
structure RoundSeen where
  sniffed : List (Nat × Nat)
  heard   : List (Nat × Nat)
  taps    : List (Nat × List Int)
  deriving DecidableEq, Repr

/-- A measurement of the leg pass (R213): starts and stops of an L-port's round trips, in 1/65,536 c of the port's clock, and the plane
transits of the two loop segments, in 1/64 c. -/
structure LegMeas where
  q     : Nat
  trips : List (Nat × Nat)
  seg1  : Nat
  seg2  : Nat
  deriving DecidableEq, Repr

/-- What an engine samples in one frame (R258): monitor channel means, temperature sensor codes, and laser sensor codes. -/
structure LoopMeas where
  chans   : Tab Nat
  therm   : List Nat
  sensors : Tab Nat
  budget  : Nat
  deriving DecidableEq, Repr

/-- The parts whose temperature is judged (Table 15.3). -/
inductive ThermalKind where
  | worker | dram | tile | module | hub
  deriving DecidableEq, Repr

/-- A BAR2 access (R331): a read of some bytes, with the bytes in error of those of its lines that have any, or a write. -/
inductive BarOp where
  | read (n : Nat) (errs : List (Nat × Nat))
  | write (bytes : List Byte)
  deriving DecidableEq, Repr

/-- A management datagram (R347, Table 14.12): its client, the port it came in on, the IPv4 address it is sent to (`none`: the port's IPv6
link-local address), its UDP port, MAGIC, SEQ, a space-3 address, words, and for COMMAND the record. `mc` is the manager cycle of the
frame in which it is carried out. -/
structure Datagram where
  client : Nat
  port   : Nat
  dest   : Option Nat
  udp    : Nat
  magic  : Nat
  mc     : Nat
  seq    : Nat
  addr   : Nat
  count  : Nat
  words  : List Nat
  cmd    : Option Cmd
  deriving DecidableEq, Repr

/-- A PTP message in transit (R350): 0 Sync, 1 Delay_Req, any other kind is forwarded unchanged; 0 Ethernet, 1 UDP/IPv4,
2 UDP/IPv6; ingress and egress timestamps and correctionField in 2^-16 ns. -/
structure PtpMsg where
  kind       : Nat
  transport  : Nat
  correction : Int
  ingress    : Nat
  egress     : Nat
  deriving DecidableEq, Repr

/-- A unit the service technician clears (R248): a tile, a plane fiber into the middle tile from an ingress tile, one out of it
to an egress tile, or a laser module. -/
inductive ServiceUnit where
  | tile (t : Nat)
  | fiberIn (i m : Nat)
  | fiberOut (m e : Nat)
  | module (k : Nat)
  deriving DecidableEq, Repr

/-- The commands of the block, one for each row of spec/opcode_table.json. -/
inductive Instr where
  -- states, ticks and barriers
  | busPowerUp (volts : Nat)
  | bringUpStageEnd (st : Stage) (rep : StageReport)
  | bringUpTimeout
  | pcieConfigRequest (link : Nat)
  | frameBoundary (s : Nat) (bus : List Nat)
  | managerBoundary
  | rwbApply (d : Domain)
  | seamPhase (s : Nat) (overrun : List (Nat × Nat × Nat))
  | tickEdge (u : TickUnit) (ofs : Int)
  | missingTick (u : TickUnit)
  | referenceLoss (d : Domain)
  | referenceReturn (d : Domain)
  | barrierTokenEmit (g w : Nat)
  | tokenArrival (g w sender barrier : Nat) (arrival : Int) (via : Option Nat)
  | barrierComplete (g w : Nat)
  | nop (c : Cmd)
  | doze (c : Cmd)
  | dozeAt (s : Nat)
  | wake (c : Cmd)
  | cancel (s : Nat)
  | dozeDrop
  | drop (s : Nat)
  | wakeSequenceStart
  | wakeSequenceStage (row : Nat) (selfTestFails : List (Nat × Nat))
  | wakeSequenceEnd
  | hold (c : Cmd)
  | sagRequest (s : Nat) (bus : List Nat)
  | sagRequestEnd (s : Nat) (bus : List Nat)
  | holdRequest (cause : Nat)
  | holdBroadcast (s : Nat)
  | sledHoldEntry (s : Nat)
  | busRecovered
  | holdDeadline
  | tickLossResume
  | resume (c : Cmd)
  | resumeMessage (s : Nat)
  | sledResumeStart (s : Nat)
  | powerDown (c : Cmd)
  | orderlyPowerDownStage (row : Nat)
  | enterService (c : Cmd)
  | leaveService (c : Cmd)
  | watchdogCheck
  | lockstepMismatch
  | thermalFault (k : ThermalKind) (part : Nat) (reading : Int)
  | thermalFaultClear (k : ThermalKind)
  | limpEntry
  | limp (s : Nat)
  | restartWarm (c : Cmd)
  | restartCold (c : Cmd)
  | restartLadderStage (selfTestOk : Bool)
  | wkrPdctlOnWrite (p : Path) (w value : Nat)
  | wkrPdctlForceWrite (p : Path) (w value : Nat)
  | powerDomainApply (w : Nat)
  -- images
  | imageLoad (c : Cmd)
  | imageValidation (bytes : List Byte)
  | placementEnd
  | imageActivate (c : Cmd)
  | drainTimeout
  | imageBoundary
  | activateAt (s : Nat)
  | passageEnd
  | imageDiscard (c : Cmd)
  | imageDeactivate (c : Cmd)
  | planePark
  -- Stag cores
  | wload (w n : Nat) (sl : Slot)
  | wswap (w n : Nat) (sl : Slot)
  | mac (w n : Nat) (sl : Slot)
  | drain (w n : Nat) (sl : Slot) (upsets : List (Nat × Nat × Nat))
  | mrd (w n : Nat) (sl : Slot) (errs : List (Nat × Nat))
  | mwr (w n : Nat) (sl : Slot)
  | lsend (w n : Nat) (sl : Slot)
  | osend (w n : Nat) (sl : Slot)
  | vld (w n : Nat) (sl : Slot)
  | vst (w n : Nat) (sl : Slot)
  | vadd (w n : Nat) (sl : Slot)
  | vsub (w n : Nat) (sl : Slot)
  | vmul (w n : Nat) (sl : Slot)
  | vfma (w n : Nat) (sl : Slot)
  | vmax (w n : Nat) (sl : Slot)
  | vmin (w n : Nat) (sl : Slot)
  | vcmpgt (w n : Nat) (sl : Slot)
  | vcvt (w n : Nat) (sl : Slot)
  | vexp (w n : Nat) (sl : Slot)
  | vrcp (w n : Nat) (sl : Slot)
  | vrsqrt (w n : Nat) (sl : Slot)
  | vtanh (w n : Nat) (sl : Slot)
  | vrsum (w n : Nat) (sl : Slot)
  | vrmax (w n : Nat) (sl : Slot)
  | vbcast (w n : Nat) (sl : Slot)
  | vperm (w n : Nat) (sl : Slot)
  | coreRetirementReport (w n : Nat)
  | logicalCoreRemap (w l : Nat)
  | memoryTemperatureReport (w unit : Nat) (temp : Int)
  | pageRetirement (w page : Nat)
  -- owners
  | ownerOpen (c : Cmd)
  | ownerSecretReceipt (w : Nat)
  | ownerOpenConfirm (w : Nat)
  | ownerOpenTimeout
  | ownerRelease (c : Cmd)
  | releaseDrainTimeout
  | eraseBoundary
  | erase (w : Nat)
  | eraseConfirm (w : Nat)
  | kemKey (c : Cmd)
  -- cocoons and the Mound
  | cocoonStore (c : Cmd)
  | cocoonLoad (c : Cmd)
  | chunkCheck (w k : Nat)
  | objectResident (w obj : Nat)
  | moundPromote (c : Cmd)
  | moundCopyEnd (w obj : Nat) (errs : List (Nat × Nat))
  | moundPin (c : Cmd)
  | moundUnpin (c : Cmd)
  | hostPinApply (w obj : Nat)
  | moundDrop (c : Cmd)
  | moundQuery (c : Cmd)
  | pubkeyAdd (c : Cmd)
  | pubkeyRemove (c : Cmd)
  | cocoonDelete (c : Cmd)
  -- links, circuits, ranging, cabling
  | flitReceive (e : WireEnd) (cycle : Nat) (errs : List (Nat × Byte))
  | creditDue (c : Nat)
  | circuitTear (c : Nat) (rxEnd : Bool)
  | settlement (r : WireRef) (rxEnd : Bool)
  | evCircuitTorn (r : WireRef)
  | laneLockLoss (w j : Nat)
  | linkRetrainTimeout (w j : Nat)
  | rangingSample (c : Nat) (start stop : Nat)
  | circuitUsable (c loss : Nat)
  | cableSearch (c : Cmd)
  | searchRound (seen : RoundSeen)
  | searchPassEnd
  | legGroup (meas : List LegMeas)
  | presenceContactOpen (q : Nat)
  | workerPortContactOpen (w p : Nat)
  | returnLight (k m : Nat)
  | glowRelease (k m : Nat)
  | presenceContactClose (q : Nat)
  | onePortCheck (q : Nat) (seen : RoundSeen) (meas : List LegMeas)
  | workerSilence (w : Nat)
  | workerSupplyFault (w : Nat)
  | stashCopyEnd (s : Nat)
  | spareReady (s : Nat)
  | moundReload (s obj : Nat)
  -- Lacewing and Glowworm
  | lacewingPlanBypass (c : Cmd)
  | lacewingPlanEvacuate (c : Cmd)
  | lacewingPlanRestore (c : Cmd)
  | planComplete
  | planExpiry
  | lacewingCommit (c : Cmd)
  | lacewingCancel (c : Cmd)
  | automaticRequest
  | waveApply (wave : Nat)
  | segmentFault (c seg excess : Nat)
  | tileDriverSilent (t : Nat)
  | tileSupplyFault (t : Nat)
  | lossOfLock (c loss : Nat)
  | laserFailure (k lam reason : Nat)
  | sevenLambdaSwitch (c : Nat) (rxEnd : Bool)
  | spareLaserLock (k : Nat)
  -- loop cells and calibration
  | loopCellFrame (e : Engine) (m : LoopMeas)
  | cellSequenceStep (e : Engine) (h : Nat)
  | cellLockChange (e : Engine) (h : Nat)
  | implausibilityDeclared (e : Engine) (h : Nat)
  | cellRetry (e : Engine) (h : Nat)
  | lightBudgetInvalid
  | sensorOpen (e : Engine) (input : Nat)
  | sensorRestored (e : Engine) (input : Nat)
  | loopTune (c : Cmd)
  | tuneEnd (e : Engine) (h : Nat)
  | traceTrigger (t : Nat)
  | wvlTrctlWrite (p : Path) (t value : Nat)
  | wvlTrselWrite (p : Path) (t i value : Nat)
  | coefficientWindowWrite (p : Path) (e : Engine) (h ofs : Nat) (bytes : List Byte) (mc : Nat)
  | calFactory (c : Cmd) (meas : List RecMeas)
  | calWrite (c : Cmd)
  | calApply (e : Engine)
  | fieldVerifyTile (c : Cmd)
  | fieldVerifyPort (c : Cmd)
  | verifyStart (port : Bool) (unit : Nat)
  | tileVerifyEnd (t ffDev gainDev snr segExcess : Nat) (lightLost : Bool)
  | portVerifyEnd (q swing rxSnr : Nat)
  -- the Scarab engine
  | scarabScan
  | scarabNop
  | end_
  | add (d a b : Nat)
  | sub (d a b : Nat)
  | and (d a b : Nat)
  | or (d a b : Nat)
  | xor (d a b : Nat)
  | shl (d a b : Nat)
  | shr (d a b : Nat)
  | sar (d a b : Nat)
  | min (d a b : Nat)
  | max (d a b : Nat)
  | mul (d a b : Nat)
  | mulh (d a b : Nat)
  | div (d a b : Nat)
  | slt (d a b : Nat)
  | addi (d a imm : Nat)
  | andi (d a imm : Nat)
  | ori (d a imm : Nat)
  | li (d imm : Nat)
  | lui (d imm : Nat)
  | ld (d a imm : Nat)
  | st (d a imm : Nat)
  | stp (d a imm : Nat)
  | in_ (d a imm : Nat)
  | out (a b : Nat)
  | cmd (a : Nat)
  | take (d e : Nat) (clearOvf : Bool)
  | spanRead (d n : Nat)
  | spanArm (a n : Nat)
  | spanStart (n : Nat)
  | spanStop (n : Nat)
  | time (d : Nat)
  | beq (a b target : Nat)
  | bne (a b target : Nat)
  | blt (a b target : Nat)
  | bge (a b target : Nat)
  | jmp (target : Nat)
  | call (target : Nat)
  | ret
  | loop (count last : Nat)
  | swap
  | bankCheckEnd
  | eventArrival (e n mc : Nat)
  | scbDoorbell (p : Path) (value mc : Nat)
  -- registers, host links, jobs
  | stgCvtWrite (p : Path) (w n value : Nat)
  | wkrMemdropWrite (p : Path) (w value : Nat)
  | registerWrite (p : Path) (offset value be mc : Nat)
  | latchedRead (p : Path) (offset mc : Nat)
  | bar2Access (link x : Nat) (op : BarOp) (mc : Nat)
  | sqtailDoorbell (link q value : Nat)
  | commandRecordArrival (link q : Nat) (c : Option Cmd) (mc : Nat)
  | cqheadDoorbell (link q value : Nat)
  | eqheadDoorbell (link value : Nat)
  | qcfgWrite (link q value : Nat)
  | eqcfgWrite (link value : Nat)
  | completionWrite (link : Nat)
  | eventRecordWrite (link : Nat)
  | linkUp (link gts width : Nat)
  | linkDown (link : Nat)
  | jobStart (c : Cmd)
  | jobFirstStep (g s : Nat)
  | jobEnd (g : Nat)
  | jobAbort (c : Cmd)
  | dataImport (c : Cmd)
  | dataExport (c : Cmd)
  | dataTransferEnd (tag : Nat)
  | stopTriggerReport (w g reason : Nat)
  | stop (s g : Nat)
  | rollbackDecision (g : Nat)
  | rollbackBoundary (s g : Nat)
  | strideReplay (g stride : Nat)
  | mirrorRestoreEnd (g : Nat)
  | regRead (d : Datagram)
  | regWrite (d : Datagram)
  | command (d : Datagram)
  | subscribe (d : Datagram)
  | unsubscribe (d : Datagram)
  | ptpTransit (m : PtpMsg)
  | syncMessage (domain transport : Nat) (theta rate : Int)
  | announceMessage (port domain transport : Nat) (dataset : List Nat)
  | syncTimeout
  | boardLinkRetrained (w j : Nat)
  | cocoonStoreWritten (id : Nat)
  | serviceClear (u : ServiceUnit)
  deriving DecidableEq, Repr

end Sys2Proof
end

