-- ==== Sys2Proof/Decode.lean ====
section
/-! DEFINITION. What words spell: the table's own words (none of its rows has bits), the words of the Scarab control program
(R309) and the slots of a frame program (R113). The decoders are total and refuse what the spec reserves. -/

namespace Sys2Proof

/-- The command that a word spells by the bits of spec/opcode_table.json. The table gives bits to none of its rows. -/
def decodeTableWord (_nbits _w : Nat) : Option Instr := none

/-! ## Scarab words (Tables 13.4 and 13.5) -/

/-- Opcode and operand fields of a Scarab word. -/
def scOp (w : Nat) : Nat := bitsOf w 31 26
def scD (w : Nat) : Nat := bitsOf w 25 20
def scA (w : Nat) : Nat := bitsOf w 19 14
def scB (w : Nat) : Nat := bitsOf w 13 8
def scImm (w : Nat) : Nat := bitsOf w 13 0

/-- An R word: three registers, bits [7:0] zero. -/
def scR (w : Nat) (f : Nat → Nat → Nat → Instr) : Option Instr :=
  if bitsOf w 7 0 = 0 then some (f (scD w) (scA w) (scB w)) else none

/-- The Scarab instruction a word spells (R309); `none` where the word does not decode. -/
def scarabDecode (w : Nat) : Option Instr :=
  if 2 ^ 32 ≤ w then none else
  match scOp w with
  | 0x00 => if bitsOf w 25 0 = 0 then some .scarabNop else none
  | 0x01 => if bitsOf w 25 0 = 0 then some .end_ else none
  | 0x02 => scR w .add
  | 0x03 => scR w .sub
  | 0x04 => scR w .and
  | 0x05 => scR w .or
  | 0x06 => scR w .xor
  | 0x07 => scR w .shl
  | 0x08 => scR w .shr
  | 0x09 => scR w .sar
  | 0x0A => scR w .min
  | 0x0B => scR w .max
  | 0x0C => scR w .mul
  | 0x0D => scR w .mulh
  | 0x0E => scR w .div
  | 0x0F => scR w .slt
  | 0x10 => some (.addi (scD w) (scA w) (scImm w))
  | 0x11 => some (.andi (scD w) (scA w) (scImm w))
  | 0x12 => some (.ori (scD w) (scA w) (scImm w))
  | 0x15 => some (.ld (scD w) (scA w) (scImm w))
  | 0x16 => some (.st (scD w) (scA w) (scImm w))
  | 0x17 => some (.stp (scD w) (scA w) (scImm w))
  | 0x18 => some (.in_ (scD w) (scA w) (scImm w))
  | 0x13 => some (.li (scD w) (bitsOf w 19 0))
  | 0x14 => some (.lui (scD w) (bitsOf w 19 0))
  | 0x19 => if scD w = 0 ∧ bitsOf w 7 0 = 0 then some (.out (scA w) (scB w)) else none
  | 0x1A => if scD w = 0 ∧ bitsOf w 13 0 = 0 then some (.cmd (scA w)) else none
  | 0x1B => if scA w = 0 ∧ bitsOf w 6 0 = 0 then some (.take (scD w) (scB w) (w.testBit 7)) else none
  | 0x1C =>
    if bitsOf w 7 0 = 0 then
      match bitsOf w 9 8 with
      | 0 => some (.spanRead (scD w) (bitsOf w 13 10))
      | 1 => some (.spanArm (scA w) (bitsOf w 13 10))
      | 2 => some (.spanStart (bitsOf w 13 10))
      | _ => some (.spanStop (bitsOf w 13 10))
    else none
  | 0x1D => if bitsOf w 19 0 = 0 then some (.time (scD w)) else none
  | 0x20 => some (.beq (scD w) (scA w) (scImm w))
  | 0x21 => some (.bne (scD w) (scA w) (scImm w))
  | 0x22 => some (.blt (scD w) (scA w) (scImm w))
  | 0x23 => some (.bge (scD w) (scA w) (scImm w))
  | 0x24 => if bitsOf w 25 14 = 0 then some (.jmp (scImm w)) else none
  | 0x25 => if bitsOf w 25 14 = 0 then some (.call (scImm w)) else none
  | 0x26 => if bitsOf w 25 0 = 0 then some .ret else none
  | 0x27 => some (.loop (bitsOf w 25 14) (scImm w))
  | 0x28 => if bitsOf w 25 0 = 0 then some .swap else none
  | _ => none

/-- A Scarab word built of an opcode and three register fields. -/
def scWord (op d a b : Nat) : Nat := op * 2 ^ 26 + d * 2 ^ 20 + a * 2 ^ 14 + b * 2 ^ 8

/-- A Scarab word built of an opcode, two register fields and a 14-bit field. -/
def scWordI (op d a imm : Nat) : Nat := op * 2 ^ 26 + d * 2 ^ 20 + a * 2 ^ 14 + imm

/-- The word of a Scarab instruction (Tables 13.4 and 13.5); `none` for a command that is no Scarab instruction. -/
def scarabEncode : Instr → Option Nat
  | .scarabNop => some 0
  | .end_ => some (scWord 0x01 0 0 0)
  | .add d a b => some (scWord 0x02 d a b)
  | .sub d a b => some (scWord 0x03 d a b)
  | .and d a b => some (scWord 0x04 d a b)
  | .or d a b => some (scWord 0x05 d a b)
  | .xor d a b => some (scWord 0x06 d a b)
  | .shl d a b => some (scWord 0x07 d a b)
  | .shr d a b => some (scWord 0x08 d a b)
  | .sar d a b => some (scWord 0x09 d a b)
  | .min d a b => some (scWord 0x0A d a b)
  | .max d a b => some (scWord 0x0B d a b)
  | .mul d a b => some (scWord 0x0C d a b)
  | .mulh d a b => some (scWord 0x0D d a b)
  | .div d a b => some (scWord 0x0E d a b)
  | .slt d a b => some (scWord 0x0F d a b)
  | .addi d a imm => some (scWordI 0x10 d a imm)
  | .andi d a imm => some (scWordI 0x11 d a imm)
  | .ori d a imm => some (scWordI 0x12 d a imm)
  | .ld d a imm => some (scWordI 0x15 d a imm)
  | .st d a imm => some (scWordI 0x16 d a imm)
  | .stp d a imm => some (scWordI 0x17 d a imm)
  | .in_ d a imm => some (scWordI 0x18 d a imm)
  | .li d imm => some (0x13 * 2 ^ 26 + d * 2 ^ 20 + imm)
  | .lui d imm => some (0x14 * 2 ^ 26 + d * 2 ^ 20 + imm)
  | .out a b => some (scWord 0x19 0 a b)
  | .cmd a => some (scWord 0x1A 0 a 0)
  | .take d e c => some (scWord 0x1B d 0 e + bit1 c * 2 ^ 7)
  | .spanRead d n => some (scWord 0x1C d 0 0 + n * 2 ^ 10)
  | .spanArm a n => some (scWord 0x1C 0 a 0 + n * 2 ^ 10 + 1 * 2 ^ 8)
  | .spanStart n => some (scWord 0x1C 0 0 0 + n * 2 ^ 10 + 2 * 2 ^ 8)
  | .spanStop n => some (scWord 0x1C 0 0 0 + n * 2 ^ 10 + 3 * 2 ^ 8)
  | .time d => some (scWord 0x1D d 0 0)
  | .beq a b target => some (scWordI 0x20 a b target)
  | .bne a b target => some (scWordI 0x21 a b target)
  | .blt a b target => some (scWordI 0x22 a b target)
  | .bge a b target => some (scWordI 0x23 a b target)
  | .jmp target => some (scWordI 0x24 0 0 target)
  | .call target => some (scWordI 0x25 0 0 target)
  | .ret => some (scWordI 0x26 0 0 0)
  | .loop count last => some (0x27 * 2 ^ 26 + count * 2 ^ 14 + last)
  | .swap => some (scWord 0x28 0 0 0)
  | _ => none

/-! ## Frame-program slots (Table 5.3) -/

/-- The unit an operation runs on (Tables 5.5 and 5.6): 1 Elytra, 2 vector, 3 memory mover, 4 link mover. -/
def unitOf (op : Nat) : Option Nat :=
  if 0x01 ≤ op ∧ op ≤ 0x04 then some 1
  else if 0x10 ≤ op ∧ op ≤ 0x21 then some 2
  else if op = 0x30 ∨ op = 0x31 then some 3
  else if op = 0x40 ∨ op = 0x41 then some 4
  else none

/-- The operation and operands of a slot, read as one little-endian number (R113); `none` for a reserved UNIT, OP or format, or a
UNIT that does not match its OP. -/
def slotDecode (v : Nat) : Option (Nat × Slot) :=
  let op := bitsOf v 111 104
  let sl : Slot :=
    { issue := bitsOf v 127 115, fa := bitsOf v 103 100, fb := bitsOf v 99 96, ax := bitsOf v 95 92, ox := bitsOf v 91 64
      ay := bitsOf v 63 60, oy := bitsOf v 59 32, len := bitsOf v 31 16, aux := bitsOf v 15 0 }
  if unitOf op = some (bitsOf v 114 112) ∧ sl.fa < 8 ∧ sl.fb < 8 then some (op, sl) else none

/-- The slot's 16-byte number (Table 5.3). -/
def slotEncode (op : Nat) (sl : Slot) : Nat :=
  sl.issue * 2 ^ 115 + (unitOf op).getD 0 * 2 ^ 112 + op * 2 ^ 104 + sl.fa * 2 ^ 100 + sl.fb * 2 ^ 96 + sl.ax * 2 ^ 92 +
    sl.ox * 2 ^ 64 + sl.ay * 2 ^ 60 + sl.oy * 2 ^ 32 + sl.len * 2 ^ 16 + sl.aux

/-- The core operation of an operation code on a core, less what the hardware may do to it. -/
def coreInstr (op w n : Nat) (sl : Slot) : Option Instr :=
  match op with
  | 0x01 => some (.wload w n sl)
  | 0x02 => some (.wswap w n sl)
  | 0x03 => some (.mac w n sl)
  | 0x10 => some (.vld w n sl)
  | 0x11 => some (.vst w n sl)
  | 0x12 => some (.vadd w n sl)
  | 0x13 => some (.vsub w n sl)
  | 0x14 => some (.vmul w n sl)
  | 0x15 => some (.vfma w n sl)
  | 0x16 => some (.vmax w n sl)
  | 0x17 => some (.vmin w n sl)
  | 0x18 => some (.vcmpgt w n sl)
  | 0x19 => some (.vcvt w n sl)
  | 0x1A => some (.vexp w n sl)
  | 0x1B => some (.vrcp w n sl)
  | 0x1C => some (.vrsqrt w n sl)
  | 0x1D => some (.vtanh w n sl)
  | 0x1E => some (.vrsum w n sl)
  | 0x1F => some (.vrmax w n sl)
  | 0x20 => some (.vbcast w n sl)
  | 0x21 => some (.vperm w n sl)
  | 0x31 => some (.mwr w n sl)
  | 0x40 => some (.lsend w n sl)
  | 0x41 => some (.osend w n sl)
  | 0x04 => some (.drain w n sl [])
  | 0x30 => some (.mrd w n sl [])
  | _ => none

end Sys2Proof
end

