-- ==== Sys2Proof/Machine/Sha3.lean ====
section
/-! DEFINITION. The hashes that the spec names by their standard (FIPS 202): SHA3-384 for the digests of images and cocoons (R82, R174 to
R178), and what ML-KEM and ML-DSA are built on (R94, R158, R176). The permutation is written from the definitions of that standard:
its offsets and constants are computed, not listed. -/

namespace Sys2Proof.Machine

/-- The state as five sheets of five lanes: lane y of sheet x; a lane is a number below 2^64. -/
abbrev Sheets := List (List Nat)

/-- Lane (x, y), both taken modulo 5. -/
def laneAt (a : Sheets) (x y : Nat) : Nat := (a.getD (x % 5) []).getD (y % 5) 0

/-- Every lane computed anew. -/
def eachLane (f : Nat → Nat → Nat) : Sheets := (List.range 5).map fun x => (List.range 5).map (f x)

/-- A lane turned left by `k` places. -/
def turn (k v : Nat) : Nat := v * 2 ^ (k % 64) % 2 ^ 64 + v / 2 ^ (64 - k % 64)

/-- Exclusive or of numbers. -/
def xorAll (l : List Nat) : Nat := l.foldl Nat.xor 0

/-- How far step ρ turns each lane: the walk (x, y) → (y, 2x + 3y) from (1, 0), the t-th lane on it by (t + 1)(t + 2) / 2; lane (0, 0)
stays. -/
def rhoTurn (x y : Nat) : Nat → Nat → Nat × Nat → Nat
  | 0, _, _ => 0
  | fuel + 1, t, at_ =>
    if at_ = (x, y) then (t + 1) * (t + 2) / 2 % 64 else rhoTurn x y fuel (t + 1) (at_.2, (2 * at_.1 + 3 * at_.2) % 5)

/-- The shift register behind step ι. -/
def iotaStep (r : Nat) : Nat := let d := 2 * r; if 256 ≤ d then Nat.xor d 0x171 else d

/-- The register after `n` steps. -/
def iotaReg : Nat → Nat
  | 0 => 1
  | n + 1 => iotaStep (iotaReg n)

/-- The constant of round `i`: its bit 2^j − 1 is the register's low bit after j + 7i steps. -/
def roundConst (i : Nat) : Nat :=
  (List.range 7).foldl (fun v j => v + iotaReg ((j + 7 * i) % 255) % 2 * 2 ^ (2 ^ j - 1)) 0

/-- One round: θ spreads the columns' parities, ρ and π move the lanes, χ mixes the rows, ι adds the constant. -/
def permRound (a : Sheets) (i : Nat) : Sheets :=
  let parity := a.map xorAll
  let spread := eachLane fun x y =>
    Nat.xor (laneAt a x y) (Nat.xor (parity.getD ((x + 4) % 5) 0) (turn 1 (parity.getD ((x + 1) % 5) 0)))
  let moved := eachLane fun x y => turn (rhoTurn ((x + 3 * y) % 5) x 24 0 (1, 0)) (laneAt spread (x + 3 * y) x)
  eachLane fun x y =>
    let mixed := Nat.xor (laneAt moved x y) (Nat.land (2 ^ 64 - 1 - laneAt moved (x + 1) y) (laneAt moved (x + 2) y))
    if x = 0 ∧ y = 0 then Nat.xor mixed (roundConst i) else mixed

/-- The permutation of 24 rounds. -/
def permute (a : Sheets) : Sheets := (List.range 24).foldl permRound a

/-- A block of bytes added to the state: lane number x + 5y takes eight bytes. -/
def addBlock (a : Sheets) (block : List Byte) : Sheets :=
  eachLane fun x y => Nat.xor (laneAt a x y) (leNat ((block.drop (8 * (x + 5 * y))).take 8))

/-- The first bytes of the state. -/
def readBlock (a : Sheets) (rate : Nat) : List Byte :=
  ((List.range 25).flatMap fun i => leBytes 8 (laneAt a (i % 5) (i / 5))).take rate

/-- A padded message taken in, `n` blocks of it. -/
def soak (rate : Nat) : Nat → Sheets → List Byte → Sheets
  | 0, a, _ => a
  | n + 1, a, m => soak rate n (permute (addBlock a (m.take rate))) (m.drop rate)

/-- `n` blocks given out. -/
def squeeze (rate : Nat) : Nat → Sheets → List Byte
  | 0, _ => []
  | n + 1, a => readBlock a rate ++ squeeze rate n (permute a)

/-- The message filled up to whole blocks: the function's suffix first, the last byte's top bit set. -/
def padded (rate suffix : Nat) (m : List Byte) : List Byte :=
  let n := rate - m.length % rate
  m ++ (List.range n).map fun i => BitVec.ofNat 8 ((if i = 0 then suffix else 0) + if i + 1 = n then 0x80 else 0)

/-- A sponge of a rate in bytes, with its suffix, read out to `len` bytes. -/
def sponge (rate suffix len : Nat) (m : List Byte) : List Byte :=
  let p := padded rate suffix m
  (squeeze rate (ceilDiv len rate) (soak rate (p.length / rate) (eachLane fun _ _ => 0) p)).take len

/-- SHA3-384: 48 bytes. -/
def sha3_384 (m : List Byte) : List Byte := sponge 104 0x06 48 m

/-- SHA3-256: 32 bytes. -/
def sha3_256 (m : List Byte) : List Byte := sponge 136 0x06 32 m

/-- SHA3-512: 64 bytes. -/
def sha3_512 (m : List Byte) : List Byte := sponge 72 0x06 64 m

/-- SHAKE128, `len` bytes. -/
def shake128 (len : Nat) (m : List Byte) : List Byte := sponge 168 0x1F len m

/-- SHAKE256, `len` bytes. -/
def shake256 (len : Nat) (m : List Byte) : List Byte := sponge 136 0x1F len m

end Sys2Proof.Machine
end

