-- ==== Sys2Proof/Machine/MlKem.lean ====
section
/-! DEFINITION. ML-KEM-768 (FIPS 203), which the spec names by its standard (R157 to R159): the key pair made from a 64-byte seed and
decapsulation with implicit rejection. Polynomials have 256 coefficients modulo 3,329. -/

namespace Sys2Proof.Machine

/-- The modulus. -/
def kemQ : Nat := 3329

/-- `b ^ e` modulo `q`, by squaring. -/
def powMod (q b : Nat) : Nat → Nat → Nat
  | 0, _ => 1
  | fuel + 1, e => if e = 0 then 1 else let h := powMod q b fuel (e / 2); if e % 2 = 0 then h * h % q else h * h % q * b % q

/-- The low `n` bits of a number, reversed. -/
def revBits (n v : Nat) : Nat := (List.range n).foldl (fun r i => 2 * r + v / 2 ^ i % 2) 0

/-- The value at `x` of a polynomial, modulo `q`. -/
def polyAt (q x : Nat) (f : List Nat) : Nat := f.foldr (fun c v => (c + x * v) % q) 0

/-- Coefficient-wise sum modulo `q`. -/
def polyAdd (q : Nat) (f g : List Nat) : List Nat := List.zipWith (fun a b => (a + b) % q) f g

/-- Coefficient-wise difference modulo `q`. -/
def polySub (q : Nat) (f g : List Nat) : List Nat := List.zipWith (fun a b => (a + q - b % q) % q) f g

/-- The bits of bytes, from the lowest. -/
def bitsOfBytes (b : List Byte) : List Bool := b.flatMap fun x => (List.range 8).map x.toNat.testBit

/-- Numbers of `d` bits read from bits. -/
def unpackBits (d : Nat) (bits : List Bool) : List Nat :=
  (List.range (bits.length / d)).map fun i => ((bits.drop (d * i)).take d).foldr (fun b n => bit1 b + 2 * n) 0

/-- Numbers of `d` bits as bytes. -/
def packBits (d : Nat) (l : List Nat) : List Byte :=
  (unpackBits 8 (l.flatMap fun v => (List.range d).map v.testBit)).map (BitVec.ofNat 8)

/-- Numbers of `d` bits read from bytes. -/
def byteDecode (d : Nat) (b : List Byte) : List Nat := unpackBits d (bitsOfBytes b)

/-- The constant of the `i`-th quadratic factor X² − γ: 17 to the power of 2 rev(i) + 1. -/
def kemGamma (i : Nat) : Nat := powMod kemQ 17 9 (2 * revBits 7 i + 1)

/-- Even-numbered, and odd-numbered, entries. -/
def evens : List Nat → List Nat
  | a :: _ :: rest => a :: evens rest
  | l => l
def odds (l : List Nat) : List Nat := evens (l.drop 1)

/-- The transform of a polynomial: its remainder by each quadratic factor, two coefficients apiece. -/
def kemNtt (f : List Nat) : List Nat :=
  (List.range 128).flatMap fun i => [polyAt kemQ (kemGamma i) (evens f), polyAt kemQ (kemGamma i) (odds f)]

/-- The transform undone: 3,303 is the inverse of 128. -/
def kemUnntt (f : List Nat) : List Nat :=
  (List.range 128).flatMap fun j =>
    let at_ := fun (l : List Nat) =>
      (l.zipIdx.foldl (fun v c => v + c.1 * powMod kemQ (powMod kemQ (kemGamma c.2) 12 (kemQ - 2)) 8 j) 0) % kemQ * 3303 % kemQ
    [at_ (evens f), at_ (odds f)]

/-- Product of two transforms, factor by factor. -/
def kemTimes (f g : List Nat) : List Nat :=
  (List.range 128).flatMap fun i =>
    let a := f.getD (2 * i) 0
    let b := f.getD (2 * i + 1) 0
    let c := g.getD (2 * i) 0
    let d := g.getD (2 * i + 1) 0
    [(a * c + b * d % kemQ * kemGamma i) % kemQ, (a * d + b * c) % kemQ]

/-- The sum of the products of two vectors of transforms. -/
def kemDot (v w : List (List Nat)) : List Nat := (List.zipWith kemTimes v w).foldl (polyAdd kemQ) (List.replicate 256 0)

/-- Candidates of 12 bits below the modulus, from triples of bytes. -/
def kemAccept : List Byte → List Nat
  | a :: b :: c :: rest =>
    ([a.toNat + 256 * (b.toNat % 16), b.toNat / 16 + 16 * c.toNat].filter fun v => decide (v < kemQ)) ++ kemAccept rest
  | _ => []

/-- Entry (i, j) of the public matrix, drawn in the transformed domain. Six blocks hold more candidates than the standard's own bound. -/
def kemEntry (rho : List Byte) (i j : Nat) : List Nat :=
  (kemAccept (shake128 1008 (rho ++ [BitVec.ofNat 8 j, BitVec.ofNat 8 i]))).take 256

/-- A polynomial of small coefficients (η = 2) drawn from a seed and a counter. -/
def kemSmall (seed : List Byte) (n : Nat) : List Nat :=
  let bits := bitsOfBytes (shake256 128 (seed ++ [BitVec.ofNat 8 n]))
  (List.range 256).map fun i =>
    let b := fun (k : Nat) => bit1 (bits.getD (4 * i + k) false)
    (b 0 + b 1 + kemQ - b 2 - b 3) % kemQ

/-- Compression to `d` bits, and its approximate inverse. -/
def kemShrink (d x : Nat) : Nat := (2 * 2 ^ d * x + kemQ) / (2 * kemQ) % 2 ^ d
def kemGrow (d y : Nat) : Nat := (2 * kemQ * y + 2 ^ d) / (2 * 2 ^ d)

/-- The three counters from `n`. -/
def three (n : Nat) : List Nat := [n, n + 1, n + 2]

/-- A key pair: the transformed secret and the encapsulation key of 1,184 bytes. -/
structure KemPair where
  s  : List (List Nat)
  ek : List Byte
  z  : List Byte
  deriving DecidableEq, Repr

/-- The key pair made from a seed of 64 bytes. -/
def kemPairOf (seed : List Byte) : KemPair :=
  let g := sha3_512 (seed.take 32 ++ [3])
  let rho := g.take 32
  let s := (three 0).map fun n => kemNtt (kemSmall (g.drop 32) n)
  let e := (three 3).map fun n => kemNtt (kemSmall (g.drop 32) n)
  let t := (three 0).map fun i => polyAdd kemQ (kemDot ((three 0).map (kemEntry rho i)) s) (e.getD i [])
  { s := s, ek := t.flatMap (packBits 12) ++ rho, z := seed.drop 32 }

/-- A message of 32 bytes encrypted under an encapsulation key with given coins: 1,088 bytes. -/
def kemEncrypt (ek m coins : List Byte) : List Byte :=
  let t := (three 0).map fun i => byteDecode 12 ((ek.drop (384 * i)).take 384)
  let rho := ek.drop 1152
  let y := (three 0).map fun n => kemNtt (kemSmall coins n)
  let u := (three 0).map fun i => polyAdd kemQ (kemUnntt (kemDot ((three 0).map fun j => kemEntry rho j i) y)) (kemSmall coins (3 + i))
  let mu := (byteDecode 1 m).map (kemGrow 1)
  let v := polyAdd kemQ (polyAdd kemQ (kemUnntt (kemDot t y)) (kemSmall coins 6)) mu
  (u.flatMap fun f => packBits 10 (f.map (kemShrink 10))) ++ packBits 4 (v.map (kemShrink 4))

/-- The message in a ciphertext. -/
def kemDecrypt (k : KemPair) (c : List Byte) : List Byte :=
  let u := (three 0).map fun i => kemNtt ((byteDecode 10 ((c.drop (320 * i)).take 320)).map (kemGrow 10))
  let v := (byteDecode 4 (c.drop 960)).map (kemGrow 4)
  packBits 1 ((polySub kemQ v (kemUnntt (kemDot k.s u))).map (kemShrink 1))

/-- Decapsulation: the shared secret of 32 bytes; a ciphertext that is not the encryption of its message gives the rejection secret. -/
def kemOpen (k : KemPair) (c : List Byte) : List Byte :=
  let m := kemDecrypt k c
  let g := sha3_512 (m ++ sha3_256 k.ek)
  if kemEncrypt k.ek m (g.drop 32) = c then g.take 32 else shake256 32 (k.z ++ c)

end Sys2Proof.Machine
end

