-- ==== Sys2Proof/Machine/MlDsa.lean ====
section
/-! DEFINITION. Verification of ML-DSA-65 signatures (FIPS 204), which the spec names by its standard (R94, R176). Polynomials have 256
coefficients modulo 8,380,417. -/

namespace Sys2Proof.Machine

/-- The modulus. -/
def dsaQ : Nat := 8380417

/-- The `i`-th root of X^256 + 1 in the order of the transform. -/
def dsaRoot (i : Nat) : Nat := powMod dsaQ 1753 10 (2 * revBits 8 i + 1)

/-- The transform of a polynomial: its values at the roots. -/
def dsaNtt (f : List Nat) : List Nat := (List.range 256).map fun i => polyAt dsaQ (dsaRoot i) f

/-- The transform undone: 8,347,681 is the inverse of 256. -/
def dsaUnntt (f : List Nat) : List Nat :=
  let inv := (List.range 256).map fun i => powMod dsaQ (dsaRoot i) 24 (dsaQ - 2)
  (List.range 256).map fun j =>
    ((List.zipWith (fun c r => c * powMod dsaQ r 9 j) f inv).foldl (· + ·) 0) % dsaQ * 8347681 % dsaQ

/-- Product of two transforms. -/
def dsaTimes (f g : List Nat) : List Nat := List.zipWith (fun a b => a * b % dsaQ) f g

/-- Candidates of 23 bits below the modulus, from triples of bytes. -/
def dsaAccept : List Byte → List Nat
  | a :: b :: c :: rest =>
    let v := a.toNat + 256 * b.toNat + 65536 * (c.toNat % 128)
    if v < dsaQ then v :: dsaAccept rest else dsaAccept rest
  | _ => []

/-- Entry (r, s) of the public matrix, drawn in the transformed domain. Six blocks hold more candidates than the standard's own bound. -/
def dsaEntry (rho : List Byte) (r s : Nat) : List Nat :=
  (dsaAccept (shake128 1008 (rho ++ [BitVec.ofNat 8 s, BitVec.ofNat 8 r]))).take 256

/-- The challenge being drawn: places from `i` on take a sign each, at a place not above them that a byte names. -/
def dsaBall (signs : Nat) : Nat → Nat → List Byte → List Nat → List Nat
  | 0, _, _, c => c
  | fuel + 1, i, bytes, c =>
    if i = 256 then c
    else match bytes with
      | [] => c
      | b :: rest =>
        let j := b.toNat
        if i < j then dsaBall signs fuel i rest c
        else
          let moved := c.set i (c.getD j 0)
          dsaBall signs fuel (i + 1) rest (moved.set j (if signs.testBit (i - 207) then dsaQ - 1 else 1))

/-- The challenge of 49 signs drawn from its seed of 48 bytes. -/
def dsaChallenge (seed : List Byte) : List Nat :=
  let b := shake256 272 seed
  dsaBall (leNat (b.take 8)) 272 207 (b.drop 8) (List.replicate 256 0)

/-- The hints of one polynomial: places in rising order. -/
def risingBelow : List Nat → Bool
  | a :: b :: rest => decide (a < b) && risingBelow (b :: rest)
  | _ => true

/-- The hints of a signature, a list of places for each of six polynomials; `none` where they are not in canonical form. -/
def dsaHints (y : List Nat) : Option (List (List Nat)) :=
  let ends := 0 :: y.drop 55
  let parts := (List.range 6).map fun i => ((y.take (ends.getD (i + 1) 0)).drop (ends.getD i 0))
  if ((List.range 6).all fun i => decide (ends.getD i 0 ≤ ends.getD (i + 1) 0) && decide (ends.getD (i + 1) 0 ≤ 55)) &&
      parts.all risingBelow && ((y.take 55).drop (ends.getD 6 0)).all (· == 0)
  then some parts else none

/-- The high part of a coefficient, moved by its hint (γ2 = 261,888; 16 high parts). -/
def dsaHigh (hint : Bool) (r : Nat) : Nat :=
  let m := r % 523776
  let low : Int := if 261888 < m then (m : Int) - 523776 else m
  let top : Bool := (r : Int) - low == (dsaQ : Int) - 1
  let r1 := if top then 0 else ((r : Int) - low).toNat / 523776
  let r0 : Int := if top then low - 1 else low
  if hint then (if 0 < r0 then (r1 + 1) % 16 else (r1 + 15) % 16) else r1

/-- A signature of 3,309 bytes verifies over a message, with an empty context, under a public key of 1,952 bytes. -/
def mlDsaVerify (pk msg sig : List Byte) : Bool :=
  let rho := pk.take 32
  let t1 := (List.range 6).map fun i => byteDecode 10 ((pk.drop (32 + 320 * i)).take 320)
  let z := (List.range 5).map fun i =>
    (byteDecode 20 ((sig.drop (48 + 640 * i)).take 640)).map fun v => (2 ^ 19 + dsaQ - v) % dsaQ
  let small := z.all fun f => f.all fun v => decide (min v (dsaQ - v) < 2 ^ 19 - 196)
  match dsaHints ((sig.drop 3248).map (·.toNat)) with
  | none => false
  | some hs =>
    let mu := shake256 64 (shake256 64 pk ++ [0, 0] ++ msg)
    let c := dsaNtt (dsaChallenge (sig.take 48))
    let zh := z.map dsaNtt
    let w := (List.range 6).map fun r =>
      let az := ((List.range 5).map fun s => dsaTimes (dsaEntry rho r s) (zh.getD s [])).foldl (polyAdd dsaQ) (List.replicate 256 0)
      let ct := dsaTimes c (dsaNtt ((t1.getD r []).map (· * 2 ^ 13)))
      let hint := hs.getD r []
      (dsaUnntt (polySub dsaQ az ct)).zipIdx.map fun v => dsaHigh (hint.contains v.2) v.1
    pk.length == 1952 && sig.length == 3309 && small && shake256 48 (mu ++ w.flatMap (packBits 4)) == sig.take 48

end Sys2Proof.Machine
end

