-- ==== Sys2Proof/Config.lean ====
section
/-! DEFINITION. What the spec leaves open or hands over from outside: values nothing in the model can evaluate. Each is an
uninterpreted constant; a statement that mentions one holds whatever it is. -/

namespace Sys2Proof.Config

/-- Undefined contents of a core at a stride start (R125), by the epoch that names them, the kind of store and the place. -/
opaque freeWord : Nat → Nat → Nat → Word

/-- Undefined bytes of a core-store data area at a stride start (R125), by epoch and address. -/
opaque freeByte : Nat → Nat → Byte

/-- A byte read before the write to it is ready is the old one or the new one (R126): by a fresh number and the address. -/
opaque newByte : Nat → Nat → Bool

/-- The stored bits of a tier that has been without power, or of a fresh spare page (Table 0.11, R155): by what names the loss, and machine
address. -/
opaque lostByte : Nat → Nat → Byte

/-- What a read of a page gives whose owner has no live slot: by what the line was written under, and machine address. -/
opaque voidByte : Nat → Nat → Byte

/-- The XTS key pair of a generation, drawn by the worker's random bit generator when the slot is filled (R157). -/
opaque xtsKey : Nat → List Byte

/-- A byte of a bank of an image region (R98, R147) into which an image has been placed: the order of its parts there is not given. By
image ID and machine address. -/
opaque bankByte : Nat → Nat → Byte

/-- A line or flit with more bytes in error than its code detects (R153, R202), by a fresh number: what the decoder gives. -/
opaque miscorrect : Nat → Nat → Byte

/-- The seed of the ML-KEM-768 key pair of a generation, drawn by the manager at bring-up and cold restart (R158). -/
opaque kemSeed : Nat → List Byte

/-- VEXP, VRCP, VRSQRT and VTANH are accurate to 2 units in the last place (R122): the signed distance, in such units, of the
result from the value rounded to nearest; by operation code and operand. -/
opaque ulpError : Nat → Word → Int

/-- Which of the routes that a tile still offers the planner takes (R236 gives the middle tile, not the route inside a tile): by the planner's
inputs, the tile, and how many pairs of links are still to be routed. -/
opaque routePick : List (List Nat) → Nat → Nat → Nat

/-- Whether a rearrangement moves a circuit (R237): by the planner's inputs and the circuit. -/
opaque rearranged : List (List Nat) → Nat → Bool

/-- A calibrated value of a part as it is shipped, or one that no record kind of Table 12.1 holds (R287): part code, record kind, index, field,
temperature point. -/
opaque calValue : Nat → Nat → Nat → Nat → Nat → Int

/-- What a correlation measured with a dither amplitude stands for as a gain in Q4.20 (R289 gives no scale): the factor, in 2^-20. -/
opaque gainScale : Nat → Nat

/-- The value fitted to the points of a sweep, and the residual of the fit (R289 gives no curve): by record kind and field. -/
opaque sweepFit : Nat → Nat → List (Int × Int) → Int × Nat

/-- The tap pairs whose segment losses a part's factory set holds, coded as INDEX codes them (R287). -/
opaque segPairs : Nat → List Nat

/-- A byte of a copy in a calibration store as it is read (the order of records in it is not given): by part, the bytes of the records written to
the copy, and offset. -/
opaque calByte : Nat → List (List Byte) → Nat → Byte

/-- The receiver SNR limit of a quality class at a port, in 0.25 dB: worker, port, class. -/
opaque snrLimit : Nat → Nat → Nat → Nat

/-- The factory LOOPDEF values of a cell (R93): part code, cell, field. -/
opaque factoryLoop : Nat → Nat → Nat → Int

/-- Temperature in 1/128 °C that a thermistor code stands for, by tile, input and code (the characteristic is factory data). -/
opaque thermTemp : Nat → Nat → Nat → Int

/-- Laser power error that a back-facet code and a set-point stand for, in Q1.23 (R273): part, laser, code, set-point. -/
opaque laserError : Nat → Nat → Nat → Int → Int

/-- Drive code that a laser cell's power stands for under its calibration (R265): part, cell, power. -/
opaque laserDrive : Nat → Nat → Nat → Nat

/-- The word to which a RET goes that finds nothing to pop (R310 keeps a bounded program from it), by the scan cycle. -/
opaque strayWord : Nat → Nat

/-- What host data a command of the Scarab engine names (R312 sends it without a host link), by a fresh number and which of its two
addresses. -/
opaque scarabData : Nat → Nat → Option (List Byte)

/-- The IPv4 address that a management port has obtained by DHCP (R347). -/
opaque dhcpAddress : Nat → Nat

/-- Residual value of a command result that the spec leaves open, by a fresh number. -/
opaque openResult : Nat → Nat

/-- What a factory calibration measures on a part (R296), for a CAL_FACTORY decided from the intake. -/
opaque factoryMeas : Nat → Nat → List RecMeas

end Sys2Proof.Config
end

