-- ==== Sys2Proof/Machine/Aes.lean ====
section
/-! DEFINITION. AES-256 (FIPS 197) in the two modes that the spec names by their standard: XTS of IEEE 1619 for lines at rest (R165) and
GCM with 96-bit nonces and 128-bit tags (SP 800-38D) for cocoons and page transfers (R177, R346). -/

namespace Sys2Proof.Machine

/-! ## The cipher -/

/-- A byte of GF(2^8) times x. -/
def gfTwice (a : Nat) : Nat := Nat.xor (2 * a % 256) (a / 128 * 0x1B)

/-- Product in GF(2^8) with a factor below 16, by the factor's bits from the top. -/
def gfMul (a b : Nat) : Nat :=
  (List.range 4).foldl (fun p i => Nat.xor (gfTwice p) (if b.testBit (3 - i) then a else 0)) 0

/-- The substitution table of the cipher and the table that undoes it: the byte for value v is byte v of the number. -/
def sBox : Nat :=
  0x16bb54b00f2d99416842e6bf0d89a18cdf2855cee9871e9b948ed9691198f8e19e1dc186b95735610ef6034866b53e708a8bbd4b1f74dde8c6b4a61c2e2578ba08ae7a65eaf4566ca94ed58d6d37c8e779e4959162acd3c25c2406490a3a32e0db0b5ede14b8ee4688902a22dc4f816073195d643d7ea7c41744975fec130ccdd2f3ff1021dab6bcf5389d928f40a351a89f3c507f02f94585334d43fbaaefd0cf584c4a39becb6a5bb1fc20ed00d153842fe329b3d63b52a05a6e1b1a2c830975b227ebe28012079a059618c323c7041531d871f1e5a534ccf73f362693fdb7c072a49cafa2d4adf04759fa7dc982ca76abd7fe2b670130c56f6bf27b777c63
def unsBox : Nat :=
  0x7d0c2155631469e126d677ba7e042b17619953833cbbebc8b0f52aae4d3be0a0ef9cc9939f7ae52d0d4ab519a97f51605fec8027591012b131c7078833a8dd1ff45acd78fec0db9a2079d2c64b3e56fc1bbe18aa0e62b76f89c5291d711af1476edf751ce837f9e28535ade72274ac9673e6b4f0cecff297eadc674f4111913a6b8a130103bdafc1020f3fca8f1e2cd00645b3b80558e4f70ad3bc8c00abd890849d8da75746155edab9edfd5048706c92b6655dcc5ca4d41698688664f6f87225d18b6d49a25b76b224d92866a12e084ec3fa420b954cee3d23c2a632947b54cbe9dec444438e3487ff2f9b8239e37cfbd7f3819ea340bf38a53630d56a0952

/-- The byte substitution. -/
def subByte (a : Nat) : Nat := sBox / 256 ^ a % 256

/-- The substitution undone. -/
def unsubByte (a : Nat) : Nat := unsBox / 256 ^ a % 256

/-- Byte-wise exclusive or. -/
def xorBytes (a b : List Nat) : List Nat := List.zipWith Nat.xor a b

/-- The key schedule of a 256-bit key: 60 words of 4 bytes, `n` still to come. -/
def expandKey : Nat → List (List Nat) → List (List Nat)
  | 0, ws => ws
  | n + 1, ws =>
    let i := ws.length
    let last := ws.getD (i - 1) []
    let mixed :=
      if i % 8 = 0 then xorBytes ((last.drop 1 ++ last.take 1).map subByte) [2 ^ (i / 8 - 1), 0, 0, 0]
      else if i % 8 = 4 then last.map subByte
      else last
    expandKey n (ws ++ [xorBytes (ws.getD (i - 8) []) mixed])

/-- The 15 round keys of a key of 32 bytes. -/
def roundKeys (key : List Nat) : List (List Nat) :=
  let ws := expandKey 52 ((List.range 8).map fun i => (key.drop (4 * i)).take 4)
  (List.range 15).map fun r => ((ws.drop (4 * r)).take 4).flatten

/-- Rows shifted by `d` columns to the left for each row number; byte r + 4c stands in row r, column c. -/
def shiftRows (d : Nat) (s : List Nat) : List Nat :=
  (List.range 16).map fun i => s.getD (i % 4 + 4 * ((i / 4 + d * (i % 4)) % 4)) 0

/-- Columns mixed by the circulant of four factors. -/
def mixColumns (m0 m1 m2 m3 : Nat) : List Nat → List Nat
  | a :: b :: c :: d :: rest =>
    let row (w x y z : Nat) := Nat.xor (Nat.xor (gfMul a w) (gfMul b x)) (Nat.xor (gfMul c y) (gfMul d z))
    [row m0 m1 m2 m3, row m3 m0 m1 m2, row m2 m3 m0 m1, row m1 m2 m3 m0] ++ mixColumns m0 m1 m2 m3 rest
  | _ => []

/-- AES-256 on a block of 16 bytes. -/
def aesBlock (key : List Nat) (b : List Nat) : List Nat :=
  let ks := roundKeys key
  (List.range 14).foldl (init := xorBytes b (ks.getD 0 [])) fun s r =>
    let t := shiftRows 1 (s.map subByte)
    xorBytes (if r = 13 then t else mixColumns 2 3 1 1 t) (ks.getD (r + 1) [])

/-- AES-256 undone on a block. -/
def aesUnblock (key : List Nat) (b : List Nat) : List Nat :=
  let ks := roundKeys key
  (List.range 14).foldl (init := b) fun s r =>
    let t := xorBytes s (ks.getD (14 - r) [])
    let u := (shiftRows 3 (if r = 0 then t else mixColumns 14 11 13 9 t)).map unsubByte
    if r = 13 then xorBytes u (ks.getD 0 []) else u

/-! ## Bytes and blocks -/

/-- Bytes as numbers. -/
def nats (b : List Byte) : List Nat := b.map (·.toNat)

/-- Numbers as bytes. -/
def bytesOf (l : List Nat) : List Byte := l.map (BitVec.ofNat 8)

/-- A byte string cut or filled with zeros to `n` bytes. -/
def fixLen (n : Nat) (b : List Byte) : List Byte := (b ++ List.replicate n 0).take n

/-- The little-endian number of 16 bytes, and the bytes. -/
def le128 (l : List Nat) : Nat := l.foldr (fun b n => b + 256 * n) 0
def unle128 (n : Nat) : List Nat := (List.range 16).map fun i => n / 256 ^ i % 256

/-- The big-endian number of 16 bytes, and the bytes. -/
def be128 (l : List Nat) : Nat := l.foldl (fun n b => n * 256 + b) 0
def unbe128 (n : Nat) : List Nat := (unle128 n).reverse

/-! ## XTS (R165) -/

/-- A tweak carried to the next cipher block of the data unit. -/
def xtsNext (t : Nat) : Nat := if t < 2 ^ 127 then 2 * t else Nat.xor (2 * t - 2 ^ 128) 0x87

/-- The tweak value of cipher block `j` of a data unit. -/
def xtsTweak (key : List Byte) (tweak j : Nat) : Nat := xtsNext^[j] (le128 (aesBlock (nats (key.drop 32)) (unle128 tweak)))

/-- One cipher block of a data unit, encrypted or decrypted by `f`. -/
def xtsBlock (f : List Nat → List Nat → List Nat) (key : List Byte) (tweak j : Nat) (b : List Nat) : List Nat :=
  let t := unle128 (xtsTweak key tweak j)
  xorBytes (f (nats (key.take 32)) (xorBytes b t)) t

/-- A 64-byte line at byte `at_` of its page: cipher blocks at_/16 to at_/16 + 3 of the data unit (R165). -/
def xtsLine (f : List Nat → List Nat → List Nat) (key : List Byte) (tweak at_ : Nat) (line : List Byte) : List Byte :=
  bytesOf ((List.range 4).flatMap fun i => xtsBlock f key tweak (at_ / 16 + i) ((nats line).drop (16 * i) |>.take 16))

/-! ## GCM (R177, R346) -/

/-- Product in the field of GHASH, by the bits of `x` from the first. -/
def ghMul (x h : Nat) : Nat :=
  ((List.range 128).foldl (init := ((0, h) : Nat × Nat)) fun p i =>
    (if x.testBit (127 - i) then Nat.xor p.1 p.2 else p.1, if p.2 % 2 = 0 then p.2 / 2 else Nat.xor (p.2 / 2) (0xE1 * 2 ^ 120))).1

/-- Blocks of 16 bytes, the last filled with zeros. -/
def blocks16 (l : List Nat) : List (List Nat) :=
  (List.range (ceilDiv l.length 16)).map fun i => (((l.drop (16 * i)).take 16) ++ List.replicate 16 0).take 16

/-- GHASH of additional data and ciphertext with their lengths in bits. -/
def ghash (h : Nat) (aad ct : List Nat) : Nat :=
  (blocks16 aad ++ blocks16 ct ++ [unbe128 (8 * aad.length * 2 ^ 64 + 8 * ct.length)]).foldl (fun y b => ghMul (Nat.xor y (be128 b)) h) 0

/-- The key stream over a text, counting from 2. -/
def gcmStream (key nonce text : List Nat) : List Nat :=
  (List.range (ceilDiv text.length 16)).flatMap fun i =>
    xorBytes ((text.drop (16 * i)).take 16) (aesBlock key (nonce ++ (unbe128 (i + 2)).drop 12))

/-- The tag. -/
def gcmTag (key nonce aad ct : List Nat) : List Nat :=
  xorBytes (unbe128 (ghash (be128 (aesBlock key (List.replicate 16 0))) aad ct)) (aesBlock key (nonce ++ [0, 0, 0, 1]))

/-- AES-256-GCM sealing: key, nonce of 12 bytes, additional data, plaintext; ciphertext with its 16-byte tag. -/
def gcmSeal (key nonce aad pt : List Byte) : List Byte :=
  let ct := gcmStream (nats key) (nats nonce) (nats pt)
  bytesOf (ct ++ gcmTag (nats key) (nats nonce) (nats aad) ct)

/-- AES-256-GCM opening: ciphertext with its tag at the end; `none` where the tag fails. -/
def gcmOpen (key nonce aad sealed : List Byte) : Option (List Byte) :=
  let n := sealed.length - 16
  let ct := nats (sealed.take n)
  if 16 ≤ sealed.length ∧ gcmTag (nats key) (nats nonce) (nats aad) ct = nats (sealed.drop n) then
    some (bytesOf (gcmStream (nats key) (nats nonce) ct))
  else none

end Sys2Proof.Machine
end

