-- ==== Sys2Proof/Machine/State.lean ====
section
/-! DEFINITION. The state of the machine as plain data: every register, buffer, counter, queue and mode that the spec gives the
block, and the machine right after reset (the machine Off, every register field at the value of its Reset column). -/

namespace Sys2Proof.Machine

/-- Stops of the block that are faults. The spec names none: a block has no exception entry and every refusal it describes is a
completion, a status register or an ignored access. `none_` is never raised; it keeps the type inhabited (safe). -/
inductive Fault where
  /-- Raised by nothing. -/
  | none_
  deriving DecidableEq, Repr

/-- Stops of the block that are refusals. -/
inductive Refusal where
  /-- Raised by an arm of `exec` for a command without a meaning yet, by its mnemonic (safe: nothing is claimed of it). -/
  | notModelled (mnemonic : String)
  deriving DecidableEq, Repr

/-- The variants of Table 0.2. -/
inductive Variant where
  | tq16 | tq8 | tqB
  deriving DecidableEq, Repr

/-- The machine states of Table 3.1. -/
inductive MState where
  | off | bringUp | quiescent | loaded | running | passage | doze | hold | limp | service
  deriving DecidableEq, Repr

/-- What is fitted (R2, R5, R15, R30). -/
structure Fit where
  variant : Variant
  tierB   : Bool
  sig     : Bool
  absent  : List Nat        -- fitted workers that did not answer in stage A
  drives  : Tab Nat         -- drives answering, by sled; 8 where unlisted
  deriving DecidableEq, Repr

/-- The orderly power-down (Table 3.13) in progress: its first frame and how many of its rows are done. -/
structure PowerDown where
  start : Nat
  done  : Nat
  deriving DecidableEq, Repr

/-- A restart ladder (Table 13.8) in progress. -/
structure Restart where
  cold  : Bool
  start : Nat
  stage : Nat
  cmd   : Cmd
  deriving DecidableEq, Repr

/-- The first wake request that was accepted, with the WAKE commands that wait for its end. -/
structure WakeReq where
  frame : Nat
  cmds  : List Cmd
  deriving DecidableEq, Repr

/-- An agreed doze (R69): frame N and the DOZE command. -/
structure DozeAgreed where
  n   : Nat
  cmd : Cmd
  deriving DecidableEq, Repr

/-- The manager's own state (R59 to R81, R321, R364). -/
structure Mgr where
  mode       : MState
  age        : Nat
  cause      : Nat
  prev       : Nat
  frame      : Nat               -- manager frame count since the end of bring-up
  capFixed   : Bool              -- stage A has ended
  stagesDone : List Stage
  doze       : Option DozeAgreed
  dozePrev   : Nat               -- the state that was left when Doze was entered, to which the wake sequence returns (R73)
  wake       : Option WakeReq    -- accepted, cancel or wake sequence not yet done
  wakeStart  : Option Nat        -- first frame of the wake sequence
  wakeRow    : Nat
  holdReq    : Option Nat        -- cause of a hold request waiting for the manager boundary
  holdSent   : Bool              -- HOLD has been broadcast for it
  holdEntry  : Option Nat        -- manager frame of Hold entry
  holdCmds   : List Cmd
  sagDeadline : Option Nat       -- frame from which the deadline of R78 counts
  powerDown  : Option PowerDown
  limpReq    : Option Nat        -- cause of a Limp waiting for the next boundary
  limpPart   : Nat
  limpTemp   : Int
  restart    : Option Restart
  serviceCmd : Option Cmd
  parkDue    : Bool              -- the plane is to be parked at the next manager boundary (R249)
  thermal    : List Nat          -- kinds of thermal fault that persist (order of Table 15.3)
  reports    : List (List Nat)   -- retirement reports that wait for the next manager boundary: worker, core, logical, cause, role, cycle, j, handle
  imgPolReqSig : Bool
  lbMode     : Bool
  ipv4       : Tab Nat
  fresh      : Nat               -- the model's own counter for free values
  deriving DecidableEq, Repr

/-- One tick receiver (R35 to R41). -/
structure TickRx where
  locked   : Bool
  missing  : Nat          -- consecutive missing ticks, 0 to 17
  lastOfs  : Int
  phase    : Int          -- reference period taken as phase while acquiring
  run      : Nat          -- accepted edges in a row, at most 64 (R41, R79)
  accepted : Bool         -- an edge was accepted at the predicted boundary now open
  deriving DecidableEq, Repr

/-- The tick of one time domain (R38, R40, R42). -/
structure TickDom where
  refOk     : Bool
  refLost   : Bool
  refBack   : Bool         -- the reference has returned; REF_OK is set at the next boundary
  flywheel  : Bool
  faults    : Nat
  nowMask   : List Nat     -- receivers that counted a fault in the frame that runs
  nextMask  : List Nat     -- receivers that counted one at the boundary that comes next, in the frame it starts
  prevClean : Bool
  sinceEv   : Option Nat   -- boundaries since EV_TICK_FAULT was last raised, while faults continue
  seen      : Bool         -- a first boundary has passed
  deriving DecidableEq, Repr

/-- What the manager sends to a hub. -/
inductive Msg where
  | dozeAt (n : Nat)
  | cancel
  | drop
  | hold
  | resume (delay : Nat)
  | limp
  | stop (g : Nat)
  | activateAt (image : Nat)
  deriving DecidableEq, Repr

/-- A queue pair (Table 14.5). -/
structure Queue where
  sqBase  : Nat
  cqBase  : Nat
  enable  : Bool
  closing : Bool          -- ENABLE was cleared while commands are in flight (R332)
  cqLog   : Nat
  sqLog   : Nat
  vector  : Nat
  tail    : Nat
  cqHead  : Nat
  error   : Bool
  errCode : Nat
  sqHead  : Nat
  inflight : Nat
  cqTail  : Nat
  phase   : Bool
  toFetch : Nat           -- records whose fetch has been issued and that have not yet arrived
  session : Nat           -- names the time since ENABLE was last set
  number  : Nat           -- records fetched in this session
  ones    : List Nat      -- commands in flight, by number, that can produce one completion only from now on
  cqUsed  : Nat           -- entries of the completion ring written and not consumed
  deriving DecidableEq, Repr

/-- A completion on its way to its hub (Table 14.7). -/
structure Completion where
  cmd    : Cmd
  interim : Bool
  status : Nat
  frame  : Nat
  result : List (Nat × Nat)     -- (bytes, value) in order (R341)
  deriving DecidableEq, Repr

/-- An event record (Table 14.8 and Table 15.4). -/
structure EventRec where
  code    : Nat
  epoch   : Nat
  time    : Nat
  frame   : Nat
  payload : List Byte
  deriving DecidableEq, Repr

/-- A cocoon held in a sled's cocoon store, by its ID, with its bytes (R185). -/
structure StoredCocoon where
  id    : Nat
  bytes : List Byte
  deriving DecidableEq, Repr

/-- The spare site of a sled (R225 to R228). -/
structure Spare where
  inUse  : Bool
  site   : Nat
  phase  : Nat
  since  : Nat       -- manager frame D
  late   : Nat       -- frames by which Hold and Doze have put the copy off (R74)
  copied : Bool
  deriving DecidableEq, Repr

/-- A job group of an image (Table 4.4). -/
structure GroupDef where
  gid     : Nat
  log2    : Nat
  mirror  : Nat
  owner   : Nat
  spareOk : Bool
  deriving DecidableEq, Repr

/-- A board-link flow of an image (Table 4.4). -/
structure FlowDef where
  flow : Nat
  w    : Nat
  link : Nat
  gid  : Nat
  deriving DecidableEq, Repr

/-- A verify window of an image (Table 4.4). -/
structure WindowDef where
  kind   : Nat
  unit   : Nat
  gid    : Nat
  period : Nat
  start  : Nat
  length : Nat
  deriving DecidableEq, Repr

/-- A circuit entry of an image (Table 4.5). -/
structure CircDef where
  cid    : Nat
  src    : Nat
  dst    : Nat
  middle : Nat
  flags  : Nat
  budget : Nat
  qclass : Nat
  deriving DecidableEq, Repr

/-- An address register entry (Table 5.2). -/
structure ARegDef where
  base   : Nat
  step   : Int
  wrap   : Nat
  jobRel : Bool
  argSel : Nat
  deriving DecidableEq, Repr

/-- The binding of one logical core (R90, R111): its group and role, its step map, its address registers, its programs'
slots as 16-byte numbers, and the bytes of its schedule. -/
structure BindDef where
  w     : Nat
  core  : Nat
  gid   : Nat
  role  : Nat
  map   : List Nat
  aregs : List ARegDef
  progs : List (List Nat)
  bytes : List Byte
  deriving DecidableEq, Repr

/-- A region of a MEMORY section (R91). -/
structure RegionDef where
  w     : Nat
  space : Nat
  use   : Nat
  owner : Nat
  base  : Nat
  size  : Nat
  init  : List Byte
  deriving DecidableEq, Repr

/-- The parts of an image for one worker as the image stash of its sled holds them: schedules and memory initial data (R224). -/
structure StashPart where
  w       : Nat
  id      : Nat
  binds   : List BindDef
  regions : List RegionDef
  deriving DecidableEq, Repr

/-- One sled hub (R42, R43, R53, R75, R329 to R338, R363). -/
structure Hub where
  frame      : Nat
  step       : Nat
  slips      : Nat
  started    : Bool         -- a frame is running on the sled
  isSlip     : Bool
  applied    : Bool         -- ACTIVATE_AT has been applied: an image's steps run
  stepping   : Bool         -- the image's step 0 has started
  maxLead    : Int          -- largest lead reported at the present boundary
  leadSeen   : Bool
  held       : Bool
  stepAtHold : Nat
  resumeLeft : Option Nat   -- boundaries to pass before the first frame after Hold
  delay      : Nat          -- start delay the manager computed for the sled (R80)
  dropped    : Bool
  halted     : Bool         -- LIMP received
  selfRefresh : Bool
  lossHold   : Bool         -- a receiver counted its 17th missing tick: no frame starts (R39)
  dozeAt     : Option Nat
  bus        : Nat          -- the last sample, in 10 mV
  lowRun     : Nat          -- samples below 40 V in a row, at most 100 (R75)
  highRun    : Nat          -- samples at 42 V or more in a row, at most 4,096: 64 frames of 64 samples (R75, R78)
  stepGroups : List Nat     -- groups whose step the frame that runs carries on this sled (R112, R114)
  strideEnds : Tab (Nat × Nat)   -- by group: the stride that began last on this sled, and the frame that began it (R45, R47)
  holdReqOn  : Bool
  sags       : Nat
  holdPend   : Bool         -- the HOLD broadcast has been received
  inbox      : List Msg
  failed     : Nat
  spare      : Spare
  stash      : List StashPart       -- image stash (R224)
  outs       : List (Nat × Nat × Nat)   -- Scarab writes to its block on their way (R311): sled frame of their arrival, offset, value
  regions    : List RegionDef       -- the region tables of its workers, by the worker whose role they are (R166)
  store      : List StoredCocoon
  errCode    : Nat
  errOffset  : Nat
  refused    : Nat
  discards   : Nat
  linkUp     : Bool
  lostCpl    : Nat
  gts        : Nat
  width      : Nat
  bar2Base   : Nat
  queues     : Tab Queue
  eqBase     : Nat
  eqEnable   : Bool
  eqLog      : Nat
  eqHead     : Nat
  eqLost     : Nat
  eqTail     : Nat
  eqPhase    : Bool
  eqUsed     : Nat           -- entries of the event ring written and not consumed
  fetched    : Nat           -- records fetched in the present sled frame
  lastQueue  : Nat           -- queue pair of the last fetch, for the round-robin
  sessions   : Nat           -- sessions of queue pairs begun since reset
  seq        : Nat
  cpls       : List Completion
  evq        : List EventRec
  cplDue     : Nat           -- completions that had reached the hub at its last boundary and are still to be written (R335)
  evDue      : Nat           -- events that had reached the hub at its last boundary and are still to be written (R337)
  msiSent    : List Nat
  inRole     : List (Nat × Nat)     -- (failed site, spare site) in force
  deriving DecidableEq, Repr

/-- A key slot (R156, R157): the generation names the XTS key pair drawn when the slot was filled. -/
structure KeySlot where
  live   : Bool
  gen    : Nat
  secret : Nat
  deriving DecidableEq, Repr

/-- A Mound object on one worker (Table 8.6 and R195). `state` as Table 8.6 codes it. -/
structure MObj where
  state    : Nat
  kind     : Nat
  lane     : Nat
  owner    : Nat
  jobPins  : Nat
  hostPins : Nat
  pend     : Int         -- host pins waiting for the next boundary
  first    : Nat         -- first page, in its share
  secondary : Bool
  pages    : Nat
  cocoon   : Nat
  lastUse  : Nat
  digest   : Nat
  base     : Nat
  objLen   : Nat
  toFirst  : Nat         -- first page of a copy in progress
  deriving DecidableEq, Repr

/-- A wire flit as it is sent (Tables 9.1 and 9.2). `dark`: it was sent while a wavelength was missing and the port had not switched to 7-λ
mode, so that its bytes on that wavelength are lost (R251). -/
structure Flit where
  typ     : Nat
  id      : Nat
  cred    : Nat
  arg     : Nat
  payload : List Byte
  dark    : Bool
  deriving DecidableEq, Repr

/-- A ranging sample (R216): a value in 1/64 c, or one of the two misfire flags. -/
inductive Sample where
  | val (n : Nat)
  | subres
  | order
  deriving DecidableEq, Repr

/-- One end of a board link, as its worker keeps it (R206, Table 9.8). -/
structure Link where
  up      : Bool
  credit  : Nat
  fly     : Nat
  occ     : Nat
  inRet   : Nat
  owed    : Nat           -- credits that this end has still to return to the far end (R201)
  corr    : Nat
  uncorr  : Nat
  short   : Nat
  misroute : Nat
  discard : Nat
  lost    : Nat
  sent    : Nat
  landed  : Nat
  torn    : Bool
  cause   : Nat
  tornAt  : Nat
  settled : Bool
  downFor : Nat           -- sled frames since lock was lost
  wire    : List Flit     -- flits on the way from this end to the far end
  buf     : List Flit     -- flits that landed while no frame runs, kept in the receive buffer
  deriving DecidableEq, Repr

/-- One optical port (Table 9.8, Table 12.3, R255, R303). -/
structure Port where
  tx       : Option Nat   -- send circuit
  rx       : Option Nat
  occ      : Nat
  lost     : Nat
  corr     : Nat
  uncorr   : Nat
  short    : Nat
  misroute : Nat
  discard  : Nat
  contact  : Bool
  verResult : Nat
  swing    : Nat
  rxSnr    : Nat
  loopback : Bool
  buf      : List Flit    -- flits that landed while no frame runs, kept in the receive buffer
  deriving DecidableEq, Repr

/-- A weight buffer (R116): the format it was filled in and its bytes. -/
structure WBuf where
  fmt   : Nat
  bytes : List Byte
  deriving DecidableEq, Repr

/-- An accumulator row (R117): 64 lanes and the check accumulator. -/
structure AccRow where
  lanes : List Word
  chk   : Word
  deriving DecidableEq, Repr

/-- What an operation of a core has still to deliver (R123): the cycle from which it counts, the core whose operation it is, and
what it is: 0 bytes of the core's store, 1 bytes of a tier, 2 a flit for a board link, 3 a flit for an optical port, 4 a row that DRAIN
compares and writes. `unit` is the link or port, `id` the flow or circuit, `addr` the address, or a flit's ARG; of a DRAIN row `unit` is
its outcome (0 compared, 1 skipped, 2 mismatch) and `id` its conversions, 256 × NaNs + saturations. `issued` is the operation's ISSUE. -/
structure PendWrite where
  issued : Nat
  ready : Nat
  core  : Nat
  kind  : Nat
  unit  : Nat
  id    : Nat
  addr  : Nat
  bytes : List Byte
  deriving DecidableEq, Repr

/-- One physical Stag core (Tables 5.1, 5.9, 6.3). -/
structure StagCore where
  retired : Bool
  cause   : Nat
  skips   : Nat
  checks  : Nat
  faultCycle : Nat
  faultJ  : Nat
  nans    : Nat
  sats    : Nat
  stopped : Bool         -- failed in the present frame: it issues nothing further
  waiting : Bool         -- retired, its logical core waits for the rollback boundary
  areg    : Tab Nat
  buf0    : WBuf
  buf1    : WBuf
  useBuf1 : Bool
  shadowReady : Nat
  acc     : Tab AccRow
  vreg    : Tab (List Word)
  prog    : List Byte    -- the program area: the schedule that has been loaded into it (R111)
  cur     : Option Nat   -- the program of the step that the frame carries (R112); none where the core runs no step
  pos     : Nat          -- slots of that program that the sequencer has issued in the present frame (R114)
  store   : Tab Nat      -- bytes of the data area by address
  busy    : Tab Nat      -- by port: the cycle at which its occupancy ends
  epoch   : Nat          -- 0 until a stride has begun; then names the undefined contents of that stride
  deriving DecidableEq, Repr

/-- A LOOP record (Table 11.8), numbers as they are stored. -/
structure LoopRec where
  cell     : Nat
  order3   : Bool
  a1       : Int
  a2       : Int
  a3       : Int
  b0       : Int
  b1       : Int
  b2       : Int
  b3       : Int
  setpoint : Int
  dither   : Nat
  umin     : Nat
  umax     : Nat
  slew     : Nat
  emax     : Int
  locktol  : Int
  deriving DecidableEq, Repr

/-- When an RWB value was accepted (R55, R56): the frame count of the register's time domain, the manager cycle since frame 0 of the
manager, and which bytes of the field the Scarab engine wrote in that cycle. -/
structure Stamp where
  frame  : Nat
  at_    : Nat
  scarab : List Nat
  deriving DecidableEq, Repr

/-- A relay auto-tune in progress (R280). -/
structure Tune where
  amp     : Nat
  limit   : Nat
  frames  : Nat
  changes : List Nat      -- frames of the sign changes, latest first
  hi      : Int
  lo      : Int
  peaks   : List Int      -- peak-to-peak amplitudes, latest first
  lastPos : Bool
  since   : Nat           -- frame at which the cell entered TUNE
  cmd     : Cmd
  deriving DecidableEq, Repr

/-- One loop cell (Tables 11.3 and 11.9, R261 to R281). -/
structure Cell where
  mode    : Nat
  locked  : Bool
  sat     : Bool
  dacsat  : Bool
  impl    : Bool
  reason  : Nat
  retries : Nat
  result  : Nat
  code    : Nat
  dac     : Nat
  power   : Nat
  lastPower : Nat
  nextDac : Nat
  nextPower : Nat
  ff      : Nat
  rc      : LoopRec
  u1      : Int
  u2      : Int
  u3      : Int
  e1      : Int
  e2      : Int
  e3      : Int
  window  : List Int      -- tap ratios r of the last frames, latest first (R269)
  holdAt  : Option Nat    -- frame at which an implausibility put the cell into HOLD (R275)
  setupAt : Nat           -- frame S of the circuit sequence the cell follows (R261)
  within  : Nat
  beyond  : Nat
  cond    : List Nat      -- consecutive frames of each condition of Table 11.6
  satRun  : Nat
  lastRetry : Option Nat
  bumpless : Option Nat   -- previous mode, while forced OPEN for one frame (R267); plus 8 until that frame has begun
  latched : Option LoopRec
  latchAt : Stamp         -- when `latched` was accepted
  tune    : Option Tune
  tuneKu  : Nat
  tunePu  : Nat
  tuneA1  : Int
  tuneB0  : Int
  tuneB1  : Int
  epsLog  : List Nat      -- |ε| of the last 64 frames, latest first
  deriving DecidableEq, Repr

/-- A sensor input (R276, R277). -/
structure Sensor where
  isOpen  : Bool
  tag     : Bool
  code    : Nat
  openRun : Nat
  okRun   : Nat
  deriving DecidableEq, Repr

/-- A calibration store (R287, R288): the two copies, the seal, and what waits for the part's next boundary (R298). -/
structure Cal where
  sealed  : Bool
  gen     : Nat
  rejects : Nat
  copyA   : List CalRec
  copyB   : List CalRec
  inForce : List CalRec
  pending : Bool
  cmd     : Option Cmd
  deriving DecidableEq, Repr

/-- A field verify in progress or waiting (R300 to R304). -/
structure Verify where
  start   : Option Nat
  window  : Option Nat
  edgeWait : Bool
  cmd     : Cmd
  deriving DecidableEq, Repr

/-- One worker (Tables 3.7, 3.8, 5.10, 7.4, 7.5, 7.7, 8.7, 2.4). -/
structure Worker where
  failed   : Bool
  on       : Nat             -- WKR.PDCTL.ON in force
  latched  : Option (Nat × Bool)   -- latched ON and FORCE (R55)
  latchAt  : Stamp                 -- when they were accepted
  pdRefused : Nat
  pwr      : Nat
  dropPwr  : Nat             -- PWR at the doze drop (R71)
  cmap     : Tab (Option Nat)      -- logical to physical; the identity where unlisted
  cores    : Tab StagCore
  hot      : Bool
  hotNext  : Option Bool
  temps    : Tab Int
  sparesMin : Nat
  spares   : Tab Nat         -- spare pages left by stack or module; 255 where unlisted
  corr     : Nat
  uncorr   : Nat
  pageCorr : Tab Nat
  retireDue : List (Nat × Bool × Nat)    -- page, whether its content is lost, and the stack or module
  retiredPages : List Nat
  refreshRow : Nat
  voidWr   : Nat
  hostWr   : Nat
  keys     : Tab KeySlot
  objs     : Tab MObj
  denied   : Nat
  lost     : Tab Nat         -- by space: what names the stored bits of a tier that has been without power
  links    : Tab Link
  ports    : Tab Port
  inflight : List PendWrite
  wrlFail  : Bool
  lat      : Nat
  barrier  : Nat
  cells    : Tab Cell        -- ring engine
  cal      : Cal
  verify   : Tab Verify      -- by port
  flowsTo  : Option Nat      -- spare that has taken the worker's flows (R225)
  bank1    : Bool            -- active bank of the image region (R147)
  bankIds  : Nat × Nat       -- images whose parts stand in its two banks; 0 for none
  deriving DecidableEq, Repr

/-- A tear in progress on a circuit (R208, R209). -/
structure Tear where
  src       : Nat           -- the L-ports that the circuit had when it was torn
  dst       : Nat
  cause     : Nat
  frame     : Nat
  txDone    : Bool          -- the tear has been applied at the sender
  rxDone    : Bool
  txLeft    : Nat           -- started frames to the sender's settlement
  rxLeft    : Nat
  txSettled : Bool
  rxSettled : Bool
  reported  : Bool
  deriving DecidableEq, Repr

/-- One circuit (R205, R215, R243, R244, Tables 9.4, 10.8, 12.3). `state` as `LCW.CIRC_c.STATE` codes it. -/
structure Circ where
  state   : Nat
  src     : Nat
  dst     : Nat
  middle  : Nat
  barrier : Bool
  mirror  : Bool
  service : Bool
  budget  : Nat
  qclass  : Nat
  setupAt : Nat
  due     : Nat             -- frame at which it is DOWN if not usable
  samples : List Nat
  sampledAt : Nat           -- manager frame of its last sample, plus 1; 0 none
  retakes : Nat
  rejected : Bool
  flightSt : Nat
  flight  : Nat             -- F in 1/64 c
  window  : Nat
  credit  : Nat
  fly     : Nat
  occ     : Nat
  inRet   : Nat
  sent    : Nat
  landed  : Nat
  discard : Nat
  wire    : List Flit
  tear    : Option Tear
  loss    : Nat
  usableAt : Nat
  lockT   : Nat
  hits    : Nat
  hitTo   : Nat
  wasLocked : Bool
  tx7     : Bool
  rx7     : Bool
  swapTx  : Bool            -- its SRC is the other L-port of an adopted pair (R222)
  swapRx  : Bool
  txBack  : Bool            -- a spare has locked: return to 8 wavelengths at the next token (R253)
  queue7  : Nat
  deriving DecidableEq, Repr

/-- One L-port (Tables 9.6 and 9.8, R218, R255). -/
structure LPort where
  contact  : Bool
  result   : Nat
  txFound  : Nat
  rxFound  : Nat
  legValid : Bool
  leg      : Nat
  searched : Bool          -- a search or check has given it a result
  adopted  : Bool
  verifyBad : Bool
  checkDue : Option Nat    -- a one-port check is scheduled (R223), with the frame it was scheduled in
  checkRun : Option Nat    -- the frame in which the check that runs started
  changed  : Bool          -- the contact has changed state during the check
  repeats  : Nat
  deriving DecidableEq, Repr

/-- One element of a tile (R89, R233): 0 bar, 1 cross, 2 park, 3 unused, and its two dither codes. -/
structure Elem where
  st    : Nat
  codeA : Nat
  codeB : Nat
  deriving DecidableEq, Repr

/-- One tile and its Weevil driver (Tables 10.8, 11.9, 12.3). -/
structure Tile where
  failed   : Bool
  evacuated : Bool
  verifying : Bool
  excess   : Tab Nat        -- excess by circuit and segment (8·c + segment − 1), 0.1 dB (R248)
  elems    : Tab Elem
  cells    : Tab Cell
  therm    : Tab Sensor
  modelled : Bool
  temp     : Int
  tBase    : Int
  pBase    : Nat
  tMod     : Int            -- modelled temperature, 2^-12 of 1/128 °C
  steadyRef : Int           -- temperature from which the last frames have stayed within 0.1 °C, and their number (R291)
  steadyFor : Nat
  trsel0   : Nat
  trsel1   : Nat
  arm      : Bool
  trig     : Nat
  trCells  : Nat
  post     : Nat
  postLeft : Option Nat
  stopped  : Bool
  wrapped  : Bool
  next     : Nat
  trace    : Tab (List Byte)
  cal      : Cal
  outRange : Bool
  verRes   : Nat
  ffDev    : Nat
  gainDev  : Nat
  snr      : Nat
  faultLog : List (Nat × Nat)     -- frames and circuits of the faults in its own segments (R248)
  verify   : Option Verify
  deriving DecidableEq, Repr

/-- A spare laser being brought in (R253). -/
structure Sparing where
  lam   : Nat
  spare : Nat
  since : Nat
  deriving DecidableEq, Repr

/-- One laser module (Table 10.8, R250 to R256, R273). -/
structure Module where
  failed   : Bool
  live     : Nat
  sub8     : Nat
  sub9     : Nat
  degraded : Nat
  glow     : Nat            -- splitter outputs held at glow by the interlock
  ramp     : Tab Nat        -- outputs ramping, with the frame their ramp began
  cells    : Tab Cell
  sensors  : Tab Sensor
  power    : Int            -- power set-point per wavelength and fiber, 0.01 dBm
  glowAll  : Bool           -- every laser at glow level (Doze, Limp, failed)
  off      : Bool
  sparing  : List Sparing
  condemned : List Nat      -- lasers whose factory records cannot be used (R295)
  spareFrom : Tab Nat       -- spares brought in, with the frame of their lock (R274)
  cal      : Cal
  deriving DecidableEq, Repr

/-- A validated Tilquesy image, read into its parts (ch. 4). -/
structure Image where
  id       : Nat
  kind     : Nat
  baseId   : Nat
  adopt    : Bool
  groups   : List GroupDef
  flows    : List FlowDef
  windows  : List WindowDef
  hasCircs : Bool
  circs    : List CircDef
  tiles    : List (Nat × List Elem)
  binds    : List BindDef
  regions  : List RegionDef
  scarab   : List Nat
  hasScarab : Bool
  clear    : Bool
  loops    : List (Nat × List LoopRec)
  damaged  : Bool          -- an uncorrectable error has struck its staged bank (R154)
  deriving DecidableEq, Repr

/-- An image load in progress (R95). -/
structure ImgLoad where
  cmd   : Cmd
  since : Nat
  deriving DecidableEq, Repr

/-- An activation in progress (R99 to R102); `deact` for a deactivation (R106). -/
structure Activation where
  cmd      : Cmd
  deact    : Bool
  accepted : Nat
  replanTo : Option Nat     -- the re-plan of R101 ends at this frame
  boundary : Option Nat     -- image boundary, once passed
  planned  : Option Image      -- the image as the last re-plan left its circuits and tiles
  judged   : List Nat          -- what the last re-plan dealt with: tiles, 1,000 + workers, 2,000 + L-ports
  deriving DecidableEq, Repr

/-- The image slots and what is under way with them (Table 4.9). -/
structure Img where
  active   : Option Image
  staged   : Option Image
  valid    : Option Image      -- validated, being placed
  load     : Option ImgLoad
  act      : Option Activation
  lastCode : Nat
  lastOp   : Nat
  wirePart : Bool
  scarPart : Bool
  barred   : List Nat          -- groups barred until a later activation (R164)
  waitJobs : List Cmd          -- job starts that wait for a pending activation (R343)
  deriving DecidableEq, Repr

/-- An owner open in progress (R159). -/
structure Opening where
  owner   : Nat
  at_     : Nat
  secret  : Nat
  waiting : List Nat           -- workers that have not confirmed
  filled  : List Nat
  cmd     : Cmd
  deriving DecidableEq, Repr

/-- An owner release, or the erase window of a cold restart (R160, R161, R325). -/
structure Releasing where
  owners   : List Nat
  also     : Option Nat      -- owner of a cancelled open, whose filled slots are zeroized with the others (R159)
  single   : Bool
  accepted : Nat
  limit    : Nat
  force    : Bool
  erasing  : Bool
  e        : Nat
  waiting  : List Nat
  erased   : Nat
  cmd      : Option Cmd
  deriving DecidableEq, Repr

/-- The owners, as the manager keeps them (Table 7.7, R158, R342, R346). -/
structure Owners where
  live      : List Nat
  opening   : Option Opening
  releasing : Option Releasing
  kemGen    : Nat
  exports   : Tab Nat
  keyGen    : Nat              -- the last key generation drawn in the machine
  pubkeys   : List (Nat × List Byte)
  deriving DecidableEq, Repr

/-- A cocoon load in progress (R187 to R190). -/
structure MLoad where
  cmd      : Cmd
  obj      : Nat
  owner    : Nat
  cocoon   : Nat
  kind     : Nat
  digest   : Nat
  base     : Nat
  objLen   : Nat
  workers  : List Nat
  header   : List Byte
  chunks   : List (List Nat)   -- per chunk: lane, length, object offset, place in the cocoon
  hashes   : List Nat
  fromFlash : Bool
  rewrites : List Nat          -- workers whose spoiled object it rewrites in place (R199)
  passed   : List (Nat × Nat)  -- worker and chunk that passed check 10
  done     : List Nat          -- workers on which it is resident
  deriving DecidableEq, Repr

/-- A cocoon being written to the stores of named sleds (R186). -/
structure CStore where
  cmd   : Cmd
  id    : Nat
  sleds : List Nat
  bytes : List Byte
  deriving DecidableEq, Repr

/-- A data import or export in progress (R346). -/
structure Transfer where
  cmd    : Cmd
  import_ : Bool
  count  : Nat
  deriving DecidableEq, Repr

/-- A Mound promotion in progress. -/
structure Promote where
  cmd     : Cmd
  obj     : Nat
  waiting : List Nat
  deriving DecidableEq, Repr

/-- A host pin change accepted and waiting for its boundary on each worker (R193). -/
structure PinChange where
  cmd     : Cmd
  obj     : Nat
  add     : Bool
  waiting : List Nat
  deriving DecidableEq, Repr

/-- The Mound work under way. -/
structure MoundWork where
  loads    : List MLoad
  stores   : List CStore
  promotes : List Promote
  pins     : List PinChange
  transfers : List Transfer
  deriving DecidableEq, Repr

/-- A job (R343 to R345). -/
structure Job where
  cmd     : Cmd
  handle  : Nat
  image   : Nat
  steps   : Nat
  lastPos : Nat
  mound   : List Nat
  args    : List Nat
  j0      : Option Nat
  decided : Nat                -- manager frame of its decision
  stepAt  : Nat                -- step of the group that is job step 0; moves at a replay
  begun   : List Nat           -- sleds on which its first step has started
  replays : Tab Nat            -- replays of each job stride
  total   : Nat
  mirrorDone : Option Nat      -- last committed mirror stride
  toReplay : List Nat          -- job strides whose replay has still to be reported
  ran      : Nat               -- job steps that have started, at most
  deriving DecidableEq, Repr

/-- A job group at run time (R45 to R54, R356 to R361). -/
structure Group where
  queue    : List Job
  running  : Option Job
  lat      : Nat
  emitted  : Tab Nat                     -- by worker: barrier whose token it has emitted, plus 1
  tokens   : List (Nat × Nat × Nat × Int) -- receiver, sender, barrier, sender boundary seen by the receiver
  done     : Tab Nat                     -- by worker: barriers completed, plus 1
  failedAt : Tab Nat                     -- by worker: the barrier it marked failed, plus 1 (R51)
  stopped  : Bool
  stopSent : Bool
  sledsStopped : List Nat
  reason   : Nat
  lostWorker : Option Nat
  restoring : Option Nat                 -- end frame of a mirror restore
  restored : Bool
  jr       : Option Nat
  resumeStride : Nat
  aborting : Option Cmd
  abortReason : Nat
  deriving DecidableEq, Repr

/-- One entry of a disturbance report (Table 10.3). -/
structure Disturb where
  circuit : Nat
  hit     : Nat
  reason  : Nat
  tile    : Nat
  subject : Bool
  deriving DecidableEq, Repr

/-- A plan (R239 to R241): the new middle tile and element settings of each circuit it routes. -/
structure Plan where
  kind     : Nat                          -- 0 bypass, 1 evacuate, 2 restore, 3 switch-in, 4 re-plan
  unit     : Nat
  circs    : List Nat                     -- circuits it sets up, moves or disturbs
  asked    : List Nat                     -- circuits that the request names
  middles  : List (Nat × Nat)
  ends     : List (Nat × Nat × Nat)       -- circuit, source and destination L-port
  elems    : List (Nat × Nat × Elem)      -- tile, element, setting
  report   : List Disturb
  quiet    : Bool
  status   : Nat
  deriving DecidableEq, Repr

/-- A request the planner holds: its kind, unit, circuits, whether it is automatic, and its command. -/
structure PlanReq where
  kind  : Nat
  unit  : Nat
  circs : List Nat
  auto  : Bool
  quiet : Bool
  since : Nat
  cmd   : Option Cmd
  deriving DecidableEq, Repr

/-- An operation of the plane in progress: its commit frame, the waves still to apply, and the command to complete. -/
structure PlaneOp where
  commit : Nat
  wave   : Nat
  plan   : Plan
  pendingElems : List (Nat × Nat × Nat × Elem)   -- wave, tile, element, setting
  waveOf : List (Nat × Nat)                      -- circuit, wave
  cmd    : Option Cmd
  auto   : Bool
  deriving DecidableEq, Repr

/-- The Lacewing planner and the plane's common state (Table 10.8, R236 to R248, R371). -/
structure Plane where
  autoBypass : Bool
  quietOnly  : Bool
  ticket     : Nat
  st         : Nat                -- LCW.PLAN.STATE
  req        : Option PlanReq
  plan       : Option Plan
  planAt     : Nat                -- frame at which the plan was completed
  stamp      : Nat                -- counts changes of the inputs listed in R239
  planStamp  : Nat
  autos      : List PlanReq
  ops        : List PlaneOp
  fiberIn    : List (Nat × Nat)   -- failed plane fibers, ingress tile to middle tile
  fiberOut   : List (Nat × Nat)   -- failed plane fibers, middle tile to egress tile
  deriving DecidableEq, Repr

/-- The cabling search (R218 to R223). -/
structure Search where
  on        : Bool
  pass      : Nat
  pending   : List Nat
  todo      : List Nat          -- L-ports of the pass still to be checked
  marked    : List Nat
  found     : List Finding
  legPass   : Bool
  legTodo   : List Nat
  left      : Nat               -- manager frames that the round or leg group has still to run
  means     : Tab Int           -- last frame mean of an L-port's input tap, 0.01 dB
  cmd       : Option Cmd
  deriving DecidableEq, Repr

/-- A span timer (R319, R320). -/
structure Span where
  armed  : Bool
  desc   : Nat
  start  : Option Nat
  closed : Bool
  result : Nat
  deriving DecidableEq, Repr

/-- The Scarab engine (Tables 13.2 and 13.9). -/
structure Scarab where
  run      : Bool
  bank0    : Tab Nat
  bank1    : Tab Nat
  bank     : Bool
  g        : Tab Nat
  retained : Tab Nat
  volatile : Tab Nat
  input    : Tab Nat
  outq     : List (Nat × Nat)
  outs     : Nat
  cmdq     : List (List Nat)
  cmds     : Nat
  slots    : Tab (List Nat)
  latch    : Tab Nat
  live     : Tab Nat
  ovf      : Nat
  spans    : Tab Span
  count    : Nat                 -- the free-running 48-bit count at the last manager boundary
  pc       : Nat
  cyc      : Nat
  scanned  : Bool                -- the scan of the present manager frame has begun (R305)
  stack    : List Nat
  loops    : List (Nat × Nat × Nat × Nat)   -- first word, last word, iterations left, depth of the stack
  ended    : Bool
  halted   : Bool                -- the controller has stopped (R321)
  armed    : Bool
  armedAt  : Nat
  checking : Option Nat          -- manager frame in which the bank check began
  chkFail  : Bool
  staged   : Bool
  swaps    : Nat
  cancels  : Nat
  maxEnd   : Nat
  lastEnd  : Nat
  qFull    : Nat
  cmdFull  : Nat
  badOut   : Nat
  stpDrop  : Nat
  mail     : Tab Nat
  deriving DecidableEq, Repr

/-- Katydid (Table 14.13, R352 to R355). Rates are in parts per 10^9; offsets and the backlog in hundredths of a nanosecond. -/
structure Ktd where
  raw      : Nat         -- R at the last manager boundary
  tb       : Nat         -- T_b, 2^-16 ns
  rb       : Nat
  k        : Nat
  epoch    : Nat
  y        : Int
  backlog  : Int
  pending  : Option Int  -- θ referred to the next boundary
  locked   : Bool
  enable   : Bool
  transport : Nat
  domain   : Nat
  master   : Option (List Nat)   -- data set of the grandmaster followed
  boundT   : Nat
  boundEpoch : Nat
  boundFrame : Nat
  deriving DecidableEq, Repr

/-- What the machine puts out: writes to host memory, MSI-X messages, and answers to reads and datagrams. -/
inductive Out where
  | hostWrite (link addr : Nat) (bytes : List Byte)
  | msi (link vector : Nat)
  | reg (p : Path) (addr value : Nat)
  | bytes (link : Nat) (addr : Nat) (data : List Byte)
  | poisoned (link : Nat) (addr : Nat)
  | clientData (client addr : Nat) (data : List Byte)
  | pcie (link answer : Nat)
  | reply (client seq status : Nat) (words : List Nat)
  | cpl (client seq : Nat) (c : Completion)
  | event (client : Nat) (e : EventRec)
  | ptp (correction : Int) (checksum : Bool)
  deriving DecidableEq, Repr

/-- A latched register set of an access path (R43): the path, the address of the `_0` register, the values of the others. -/
structure Latch where
  path : Path
  base : Nat
  vals : List Nat
  deriving DecidableEq, Repr

/-- The host side as the manager keeps it (R334, R347, R348). -/
structure HostSide where
  intake    : List (Nat × Cmd)                 -- each with the manager cycle of its arrival (R334)
  subs      : List Nat
  seqs      : List (Nat × Nat × Option Out)    -- client, SEQ, the reply given
  latches   : List Latch
  out       : List Out
  nextHandle : Nat
  nextTicket : Nat
  deriving DecidableEq, Repr

/-- The light-budget input (R272, R273). -/
structure Light where
  valid   : Bool
  level   : Nat                 -- averaged b × 65,535
  history : List Nat            -- the last frames' b × 65,535, latest first
  agreed  : Nat                 -- level at the doze agreement
  noEdge  : Nat
  lastCode : Nat
  deriving DecidableEq, Repr

/-- The whole machine. -/
structure State where
  fit      : Fit
  mgr      : Mgr
  rxs      : Tab TickRx          -- by receiver number (see `rxKey`)
  doms     : Tab TickDom         -- by sled, 8 for the manager frame
  hubs     : Tab Hub
  workers  : Tab Worker
  mem      : List Host.Cell      -- tier contents by machine address
  keyTag   : Tab Nat             -- by tier line: the key generation it was written under
  circs    : Tab Circ
  lports   : Tab LPort
  tiles    : Tab Tile
  modules  : Tab Module
  img      : Img
  owners   : Owners
  mound    : MoundWork
  groups   : Tab Group
  plane    : Plane
  search   : Search
  scb      : Scarab
  ktd      : Ktd
  light    : Light
  host     : HostSide
  pending  : List Instr          -- the commands that wait, first in, first out
  deriving DecidableEq, Repr

/-- A manager that has no power: Off, PREV at its reset value 2h (R59). -/
def Mgr.init : Mgr :=
  { mode := .off, age := 0, cause := 0, prev := 2, frame := 0, capFixed := false, stagesDone := [], doze := none, dozePrev := 2, wake := none
    wakeStart := none, wakeRow := 0, holdReq := none, holdSent := false, holdEntry := none, holdCmds := [], sagDeadline := none, powerDown := none
    limpReq := none, limpPart := 0, limpTemp := 0, restart := none, serviceCmd := none, parkDue := false
    thermal := [], reports := [], imgPolReqSig := false, lbMode := false, ipv4 := Tab.empty, fresh := 1 }

/-- A receiver that has seen no edge. -/
def TickRx.init : TickRx :=
  { locked := false, missing := 0, lastOfs := 0, phase := 0, run := 0, accepted := false }

/-- A domain before its first boundary (Table 2.2, every field 0). -/
def TickDom.init : TickDom :=
  { refOk := false, refLost := false, refBack := false, flywheel := false, faults := 0, nowMask := [], nextMask := [], prevClean := true
    sinceEv := none, seen := false }

/-- A queue pair at its reset values; VECTOR resets to the pair's own number (Table 14.5). -/
def Queue.init (q : Nat) : Queue :=
  { sqBase := 0, cqBase := 0, enable := false, closing := false, cqLog := 0, sqLog := 0, vector := q, tail := 0, cqHead := 0
    error := false, errCode := 0, sqHead := 0, inflight := 0, cqTail := 0, phase := false, toFetch := 0
    session := 0, number := 0, ones := [], cqUsed := 0 }

/-- No spare in use. -/
def Spare.init : Spare := { inUse := false, site := 0, phase := 0, since := 0, late := 0, copied := false }

/-- A hub at its reset values. -/
def Hub.init : Hub :=
  { frame := 0, step := 0, slips := 0, started := false, isSlip := false, applied := false, stepping := false, maxLead := 0, leadSeen := false
    held := false, stepAtHold := 0, resumeLeft := none, delay := 0, dropped := false, halted := false
    selfRefresh := false, lossHold := false, dozeAt := none, bus := 0, lowRun := 0, highRun := 0, stepGroups := [], strideEnds := Tab.empty
    holdReqOn := false, sags := 0, holdPend := false
    inbox := [], failed := 0, spare := Spare.init, stash := [], outs := [], regions := [], store := [], errCode := 0, errOffset := 0, refused := 0
    discards := 0, linkUp := false, lostCpl := 0, gts := 0, width := 0, bar2Base := 0, queues := Tab.empty, eqBase := 0
    eqEnable := false, eqLog := 0, eqHead := 0, eqLost := 0, eqTail := 0, eqPhase := false, eqUsed := 0, fetched := 0, lastQueue := 63
    sessions := 0, seq := 0, cpls := [], evq := [], cplDue := 0, evDue := 0
    msiSent := [], inRole := [] }

/-- A slot that holds no key. -/
def KeySlot.init : KeySlot := { live := false, gen := 0, secret := 0 }

/-- No object. -/
def MObj.init : MObj :=
  { state := 0, kind := 0, lane := 0, owner := 0, jobPins := 0, hostPins := 0, pend := 0, first := 0, secondary := false
    pages := 0, cocoon := 0, lastUse := 0, digest := 0, base := 0, objLen := 0, toFirst := 0 }

/-- A board link before training: C at its reset value 80h (Table 9.8). -/
def Link.init : Link :=
  { up := false, credit := 128, fly := 0, occ := 0, inRet := 0, owed := 0, corr := 0, uncorr := 0, short := 0, misroute := 0, discard := 0
    lost := 0, sent := 0, landed := 0, torn := false, cause := 0, tornAt := 0, settled := true, downFor := 0, wire := [], buf := [] }

/-- An optical port without circuits. -/
def Port.init : Port :=
  { tx := none, rx := none, occ := 0, lost := 0, corr := 0, uncorr := 0, short := 0, misroute := 0, discard := 0, contact := true
    verResult := 0, swing := 0, rxSnr := 0, loopback := false, buf := [] }

/-- A weight buffer nothing has been loaded into. -/
def WBuf.init : WBuf := { fmt := 1, bytes := [] }

/-- A core as bring-up leaves it (Table 5.9). -/
def StagCore.init : StagCore :=
  { retired := false, cause := 0, skips := 0, checks := 0, faultCycle := 0, faultJ := 0, nans := 0, sats := 0, stopped := false
    waiting := false, areg := Tab.empty, buf0 := WBuf.init, buf1 := WBuf.init, useBuf1 := false, shadowReady := 0
    acc := Tab.empty, vreg := Tab.empty, prog := [], cur := none, pos := 0, store := Tab.empty, busy := Tab.empty
    epoch := 0 }

/-- A record whose every number is 0, but for the ranges of the power (the factory values are not in the spec). -/
def LoopRec.init : LoopRec :=
  { cell := 0, order3 := false, a1 := 0, a2 := 0, a3 := 0, b0 := 0, b1 := 0, b2 := 0, b3 := 0, setpoint := 0, dither := 0
    umin := 0, umax := 50000, slew := 65535, emax := 8388607, locktol := 0 }

/-- No value has been accepted. -/
def Stamp.init : Stamp := { frame := 0, at_ := 0, scarab := [] }

/-- A cell that is OFF. -/
def Cell.init : Cell :=
  { mode := 0, locked := false, sat := false, dacsat := false, impl := false, reason := 0, retries := 0, result := 0, code := 0
    dac := 0, power := 0, lastPower := 0, nextDac := 0, nextPower := 0, ff := 0, rc := LoopRec.init, u1 := 0, u2 := 0, u3 := 0
    e1 := 0, e2 := 0, e3 := 0, window := [], holdAt := none, setupAt := 0, within := 0, beyond := 0, cond := [0, 0, 0, 0, 0]
    satRun := 0, lastRetry := none, bumpless := none, latched := none, latchAt := Stamp.init, tune := none, tuneKu := 0, tunePu := 0, tuneA1 := 0
    tuneB0 := 0, tuneB1 := 0, epsLog := [] }

/-- A sensor that has converted nothing. -/
def Sensor.init : Sensor := { isOpen := false, tag := false, code := 0, openRun := 0, okRun := 0 }

/-- A store as it is shipped: the factory set sealed (R296), no field set. -/
def Cal.init : Cal :=
  { sealed := true, gen := 0, rejects := 0, copyA := [], copyB := [], inForce := [], pending := false, cmd := none }

/-- A worker at its reset values. -/
def Worker.init : Worker :=
  { failed := false, on := 4095, latched := none, latchAt := Stamp.init, pdRefused := 0, pwr := 0, dropPwr := 0, cmap := Tab.empty, cores := Tab.empty
    hot := false, hotNext := none, temps := Tab.empty, sparesMin := 255, spares := Tab.empty, corr := 0, uncorr := 0
    pageCorr := Tab.empty, retireDue := [], retiredPages := [], refreshRow := 0, voidWr := 0, hostWr := 0
    keys := Tab.empty, objs := Tab.empty, denied := 0, lost := Tab.empty, links := Tab.empty, ports := Tab.empty, inflight := []
    wrlFail := false, lat := 2, barrier := 16777215, cells := Tab.empty
    cal := Cal.init, verify := Tab.empty, flowsTo := none, bank1 := false, bankIds := (0, 0) }

/-- A circuit that does not exist. -/
def Circ.init : Circ :=
  { state := 0, src := 0, dst := 0, middle := 0, barrier := false, mirror := false, service := false, budget := 0, qclass := 0
    setupAt := 0, due := 0, samples := [], sampledAt := 0, retakes := 0, rejected := false, flightSt := 0, flight := 0, window := 0, credit := 0
    fly := 0, occ := 0, inRet := 0, sent := 0, landed := 0, discard := 0, wire := [], tear := none, loss := 0, usableAt := 0
    lockT := 0, hits := 0, hitTo := 0, wasLocked := false, tx7 := false, rx7 := false, swapTx := false, swapRx := false, txBack := false
    queue7 := 0 }

/-- An L-port no search has looked at (Table 9.8). -/
def LPort.init : LPort :=
  { contact := true, result := 0, txFound := 1023, rxFound := 1023, legValid := false, leg := 0, searched := false
    adopted := false, verifyBad := false, checkDue := none, checkRun := none, changed := false, repeats := 0 }

/-- A parked element (R233). -/
def Elem.init : Elem := { st := 2, codeA := 0, codeB := 0 }

/-- A tile at its reset values. -/
def Tile.init : Tile :=
  { failed := false, evacuated := false, verifying := false, excess := Tab.empty, elems := Tab.empty, cells := Tab.empty
    therm := Tab.empty, modelled := false, temp := 0, tBase := 0, pBase := 0, tMod := 0, steadyRef := 0, steadyFor := 0, trsel0 := 0, trsel1 := 0, arm := false
    trig := 0, trCells := 0, post := 0, postLeft := none, stopped := false, wrapped := false, next := 0, trace := Tab.empty
    cal := Cal.init, outRange := false, verRes := 0, ffDev := 0, gainDev := 0, snr := 0, faultLog := [], verify := none }

/-- A laser module at its reset values (Table 10.8), its set-point at glow level. -/
def Module.init : Module :=
  { failed := false, live := 255, sub8 := 15, sub9 := 15, degraded := 15, glow := 0, ramp := Tab.empty, cells := Tab.empty
    sensors := Tab.empty, power := -1000, glowAll := false, off := true, sparing := [], condemned := []
    spareFrom := Tab.empty, cal := Cal.init }

/-- No image (Table 4.9). -/
def Img.init : Img :=
  { active := none, staged := none, valid := none, load := none, act := none, lastCode := 0, lastOp := 0
    wirePart := false, scarPart := false, barred := [], waitJobs := [] }

/-- Owner 0 alone (Table 7.7). -/
def Owners.init : Owners :=
  { live := [0], opening := none, releasing := none, kemGen := 0, exports := Tab.empty, keyGen := 0, pubkeys := [] }

/-- No Mound work. -/
def MoundWork.init : MoundWork := { loads := [], stores := [], promotes := [], pins := [], transfers := [] }

/-- A job group with nothing to run; L reads 2 (Table 2.4). -/
def Group.init : Group :=
  { queue := [], running := none, lat := 2, emitted := Tab.empty, tokens := [], done := Tab.empty, failedAt := Tab.empty
    stopped := false, stopSent := false, sledsStopped := [], reason := 0, lostWorker := none, restoring := none
    restored := false, jr := none, resumeStride := 0, aborting := none, abortReason := 0 }

/-- The planner idle, AUTO_BYPASS at its reset value 1 (Table 10.8). -/
def Plane.init : Plane :=
  { autoBypass := true, quietOnly := false, ticket := 0, st := 0, req := none, plan := none, planAt := 0, stamp := 0
    planStamp := 0, autos := [], ops := [], fiberIn := [], fiberOut := [] }

/-- No search. -/
def Search.init : Search :=
  { on := false, pass := 0, pending := [], todo := [], marked := [], found := [], legPass := false, legTodo := [], left := 0
    means := Tab.empty, cmd := none }

/-- A span timer that is not armed. -/
def Span.init : Span := { armed := false, desc := 0, start := none, closed := false, result := 0 }

/-- The null program of R325: END at word 0, NOP elsewhere. -/
def nullProgram : Tab Nat := ⟨[(0, 0x04000000)]⟩

/-- The engine before its first scan. -/
def Scarab.init : Scarab :=
  { run := false, bank0 := nullProgram, bank1 := nullProgram, bank := false, g := Tab.empty, retained := Tab.empty
    volatile := Tab.empty, input := Tab.empty, outq := [], outs := 0, cmdq := [], cmds := 0, slots := Tab.empty
    latch := Tab.empty, live := Tab.empty, ovf := 0, spans := Tab.empty, count := 0, pc := 0, cyc := 0, scanned := false, stack := [], loops := []
    ended := true, halted := false, armed := false, armedAt := 0, checking := none, chkFail := false, staged := false
    swaps := 0, cancels := 0, maxEnd := 0, lastEnd := 0, qFull := 0, cmdFull := 0, badOut := 0, stpDrop := 0
    mail := Tab.empty }

/-- Katydid at its reset values (Table 14.13): K nominal, ENABLE 1, TRANSPORT 3h. -/
def Ktd.init : Ktd :=
  { raw := 0, tb := 0, rb := 0, k := 0x14000000000, epoch := 0, y := 0, backlog := 0, pending := none, locked := false
    enable := true, transport := 3, domain := 0, master := none, boundT := 0, boundEpoch := 0, boundFrame := 0 }

/-- The light-budget input, never valid: LEVEL reads FFFFh (R272). -/
def Light.init : Light :=
  { valid := false, level := 65535, history := [], agreed := 65535, noEdge := 0, lastCode := 0 }

/-- Nothing under way on the host side. -/
def HostSide.init : HostSide :=
  { intake := [], subs := [], seqs := [], latches := [], out := [], nextHandle := 1, nextTicket := 1 }

/-- A complete TQ-1/16 with tier B and signature verification. -/
def Fit.full16 : Fit := { variant := .tq16, tierB := true, sig := true, absent := [], drives := Tab.empty }

/-- The machine right after reset: a complete TQ-1/16 that is Off, every register field at the value of its Reset column,
nothing in memory and no command waiting. -/
def State.reset : State :=
  { fit := Fit.full16, mgr := Mgr.init, rxs := Tab.empty, doms := Tab.empty, hubs := Tab.empty, workers := Tab.empty, mem := []
    keyTag := Tab.empty, circs := Tab.empty, lports := Tab.empty, tiles := Tab.empty, modules := Tab.empty, img := Img.init
    owners := Owners.init, mound := MoundWork.init, groups := Tab.empty, plane := Plane.init, search := Search.init
    scb := Scarab.init, ktd := Ktd.init, light := Light.init, host := HostSide.init, pending := [] }

end Sys2Proof.Machine
end

