-- ==== Sys2Proof/Machine/Ops.lean ====
section
/-! DEFINITION. The shared operations of the block: what is fitted and how it is wired, access to the parts of the state, memory,
completions, events and event inputs. -/

namespace Sys2Proof

/-- FORCE of a command (Table 14.6). -/
def Cmd.force (c : Cmd) : Bool := c.flags.testBit 0

/-- Reserved bits zero, and NONCE zero for every command but DATA_IMPORT (Table 14.6). -/
def Cmd.fixedOk (c : Cmd) : Bool := c.rsvd == 0 && decide (c.flags < 8) && (c.nonce == 0 || c.op == 0x0058)

/-- QUIET_ONLY of a command. -/
def Cmd.quiet (c : Cmd) : Bool := c.flags.testBit 1

/-- STORE of a command. -/
def Cmd.store (c : Cmd) : Bool := c.flags.testBit 2

/-- The 2-byte entries of a list in host memory (Table 14.6). -/
def list16 : List Byte → List Nat
  | a :: b :: rest => (a.toNat + 256 * b.toNat) :: list16 rest
  | _ => []

/-- The worker list of a command (Table 14.6). -/
def Cmd.workers (c : Cmd) : List Nat := list16 (c.data2.getD [])

/-- The list at ADDR2 has arrived with COUNT entries. -/
def Cmd.listOk (c : Cmd) : Bool := c.data2.isSome && (c.data2.getD []).length == 2 * c.count

/-- A command that the Scarab engine may not send (R179). -/
def Cmd.fromScarab (c : Cmd) : Bool := match c.src with | .scarab _ => true | _ => false

end Sys2Proof

namespace Sys2Proof.Machine

/-- A little-endian field of a byte string. -/
def fieldLE (b : List Byte) (ofs n : Nat) : Nat := leNat ((b.drop ofs).take n)

/-- Bytes that must be zero. -/
def zeroAt (b : List Byte) (ofs n : Nat) : Bool := ((b.drop ofs).take n).all fun x => x == 0

/-! ## What is fitted (chapters 0 and 1) -/

/-- Sleds fitted (Table 0.2). -/
def Fit.sleds (f : Fit) : Nat := match f.variant with | .tq16 => 8 | .tq8 => 8 | .tqB => 1

/-- `CAP.SITES`: sites per sled, the spare included (Table 0.4). -/
def Fit.sites (f : Fit) : Nat := match f.variant with | .tq16 => 17 | .tq8 => 9 | .tqB => 17

/-- Lacewing fitted (Table 0.2). -/
def Fit.lacewing (f : Fit) : Bool := match f.variant with | .tqB => false | _ => true

/-- `CAP.STRICT` (Table 0.2). -/
def Fit.strict (f : Fit) : Bool := match f.variant with | .tq16 => true | _ => false

/-- The variant's code in `MGR.CAP` (Table 0.4). -/
def Fit.variantCode (f : Fit) : Nat := match f.variant with | .tq16 => 0 | .tq8 => 1 | .tqB => 2

/-- Site numbers of a sled (Table 1.1): W08 to W15 are absent on a TQ-1/8. -/
def Fit.siteList (f : Fit) : List Nat :=
  match f.variant with | .tq8 => [0, 1, 2, 3, 4, 5, 6, 7, 16] | _ => List.range 17

/-- A site number that is fitted. -/
def Fit.siteOk (f : Fit) (site : Nat) : Bool := f.siteList.contains site

/-- The sled of a worker code. -/
def sledOf (w : Nat) : Nat := w / 32

/-- The site of a worker code. -/
def siteOf (w : Nat) : Nat := w % 32

/-- The code of the worker at a sled and site. -/
def workerCode (sled site : Nat) : Nat := sled * 32 + site

/-- A worker code whose sled and site are fitted (R16). -/
def Fit.workerOk (f : Fit) (w : Nat) : Bool := decide (sledOf w < f.sleds) && f.siteOk (siteOf w)

/-- The fitted workers of a sled. -/
def Fit.sledWorkers (f : Fit) (sled : Nat) : List Nat := f.siteList.map (workerCode sled)

/-- The fitted sleds. -/
def Fit.sledList (f : Fit) : List Nat := List.range f.sleds

/-- Every fitted worker, in the order of R368. -/
def Fit.workers (f : Fit) : List Nat := f.sledList.flatMap f.sledWorkers

/-- The site index x of R17. -/
def Fit.siteIndex (f : Fit) (site : Nat) : Nat := if site = 16 then f.sites - 1 else site

/-- The site number at a site index. -/
def Fit.siteAt (f : Fit) (x : Nat) : Nat := if x = f.sites - 1 then 16 else x

/-- Board links of a worker (R17). -/
def Fit.links (f : Fit) : Nat := f.sites - 1

/-- The far end of board link `j` of worker `w`: the peer and the link it arrives on (R17). -/
def Fit.linkPeer (f : Fit) (w j : Nat) : Nat × Nat :=
  (workerCode (sledOf w) (f.siteAt ((f.siteIndex (siteOf w) + j + 1) % f.sites)), f.sites - 2 - j)

/-- The board link of worker `w` that leads to its sled's site `site` (R17). -/
def Fit.linkTo (f : Fit) (w site : Nat) : Nat :=
  (f.siteIndex site + f.sites - f.siteIndex (siteOf w) - 1) % f.sites

/-- Ingress, and egress, tiles in use (Table 1.1). -/
def Fit.edgeTiles (f : Fit) : Nat := match f.variant with | .tq16 => 36 | .tq8 => 18 | .tqB => 0

/-- Middle tiles in use (Table 1.1). -/
def Fit.middles (f : Fit) : Nat := match f.variant with | .tq16 => 32 | .tq8 => 16 | .tqB => 0

/-- Global tile numbers fitted (R27, R85). -/
def Fit.tileOk (f : Fit) (t : Nat) : Bool :=
  decide (t < f.edgeTiles) || (decide (36 ≤ t) && decide (t < 36 + f.middles)) ||
    (decide (68 ≤ t) && decide (t < 68 + f.edgeTiles))

/-- The fitted tiles in ascending global number. -/
def Fit.tiles (f : Fit) : List Nat := (List.range 104).filter f.tileOk

/-- Laser modules fitted (Table 1.1). -/
def Fit.moduleOk (f : Fit) (k : Nat) : Bool :=
  match f.variant with | .tq16 => decide (k < 35) | .tq8 => decide (k < 18) || k == 34 | .tqB => false

/-- The fitted laser modules. -/
def Fit.modules (f : Fit) : List Nat := (List.range 35).filter f.moduleOk

/-- N of R20: fitted workers with optical ports. -/
def Fit.nPorts (f : Fit) : Nat := match f.variant with | .tq16 => 136 | .tq8 => 72 | .tqB => 0

/-- Worker L-ports (Table 1.1). -/
def Fit.workerPorts (f : Fit) : Nat := 4 * f.nPorts

/-- An L-port of Table 1.1. -/
def Fit.lportOk (f : Fit) (q : Nat) : Bool :=
  f.lacewing && (decide (q < f.workerPorts) || (decide (544 ≤ q) && decide (q < 576)))

/-- The worker index k of R20. -/
def Fit.workerIndex (f : Fit) (w : Nat) : Nat := f.sites * sledOf w + f.siteIndex (siteOf w)

/-- The worker of a worker index. -/
def Fit.workerAt (f : Fit) (k : Nat) : Nat := workerCode (k / f.sites) (f.siteAt (k % f.sites))

/-- The L-port that port `p` of worker `w` is cabled to under the plan (R20). -/
def Fit.lportOf (f : Fit) (w p : Nat) : Nat := f.nPorts * p + f.workerIndex w

/-- The worker and port that L-port `q` belongs to under the plan (R20). -/
def Fit.lportOwner (f : Fit) (q : Nat) : Nat × Nat := (f.workerAt (q % f.nPorts), q / f.nPorts)

/-- The port code of `CRK.PORTMAP_q` (Table 9.8) that R20 plans for L-port `q`. -/
def Fit.planned (f : Fit) (q : Nat) : Nat := (q / f.nPorts) * 256 + q % f.nPorts

/-- The edge-tile number (0 to 35) and position at which L-port `q` enters and leaves the plane (R21). -/
def Fit.edgeOf (f : Fit) (q : Nat) : Nat × Nat :=
  match f.variant with
  | .tq8 => if q < 544 then (q / 16, q % 16) else if q < 560 then (q - 544, 16) else (q - 560, 17)
  | _ => (q / 16, q % 16)

/-- The laser module and splitter output that feed L-port `q` (R26); no output feeds a reflector (L-ports 544 to 559). -/
def feedOf (q : Nat) : Option (Nat × Nat) :=
  if q < 544 then some (q / 16, q % 16) else if 560 ≤ q then some (34, q - 560) else none

/-- L-port `q` is fed by module `k` (R26). -/
def fedBy (k q : Nat) : Bool := (feedOf q).any fun f => f.1 == k

/-- Links of a die of a tile (Table 10.1): 64 on a middle tile, else 32. -/
def dieLinks (t : Nat) : Nat := if 36 ≤ t ∧ t < 68 then 64 else 32

/-- n of a die (Table 10.1). -/
def dieLog (t : Nat) : Nat := if 36 ≤ t ∧ t < 68 then 6 else 5

/-- Elements of a tile (Table 10.1). -/
def tileElems (t : Nat) : Nat := (2 * dieLog t - 1) * (dieLinks t / 2)

/-- Heater loops in use on a tile (R25). -/
def tileHeaters (t : Nat) : Nat := 2 * tileElems t

/-! ## Access to the parts of the state -/

/-- The hub of a sled. -/
def State.hub (s : State) (k : Nat) : Hub := s.hubs.get Hub.init k

/-- The state with a hub's record changed. -/
def State.updHub (s : State) (k : Nat) (f : Hub → Hub) : State := { s with hubs := s.hubs.set k (f (s.hub k)) }

/-- The worker of a code. -/
def State.worker (s : State) (w : Nat) : Worker := s.workers.get Worker.init w

/-- The state with a worker's record changed. -/
def State.updWorker (s : State) (w : Nat) (f : Worker → Worker) : State :=
  { s with workers := s.workers.set w (f (s.worker w)) }

/-- The circuit of an ID. -/
def State.circ (s : State) (c : Nat) : Circ := s.circs.get Circ.init c

/-- The state with a circuit's record changed. -/
def State.updCirc (s : State) (c : Nat) (f : Circ → Circ) : State := { s with circs := s.circs.set c (f (s.circ c)) }

/-- An L-port. -/
def State.lport (s : State) (q : Nat) : LPort := s.lports.get LPort.init q

/-- The state with an L-port's record changed. -/
def State.updLPort (s : State) (q : Nat) (f : LPort → LPort) : State := { s with lports := s.lports.set q (f (s.lport q)) }

/-- A tile. -/
def State.tile (s : State) (t : Nat) : Tile := s.tiles.get Tile.init t

/-- The state with a tile's record changed. -/
def State.updTile (s : State) (t : Nat) (f : Tile → Tile) : State := { s with tiles := s.tiles.set t (f (s.tile t)) }

/-- A laser module. -/
def State.module (s : State) (k : Nat) : Module := s.modules.get Module.init k

/-- The state with a module's record changed. -/
def State.updModule (s : State) (k : Nat) (f : Module → Module) : State :=
  { s with modules := s.modules.set k (f (s.module k)) }

/-- A job group at run time. -/
def State.group (s : State) (g : Nat) : Group := s.groups.get Group.init g

/-- The state with a job group's record changed. -/
def State.updGroup (s : State) (g : Nat) (f : Group → Group) : State := { s with groups := s.groups.set g (f (s.group g)) }

/-- A time domain's tick record: the sled's number, or 8 for the manager frame. -/
def State.dom (s : State) (d : Nat) : TickDom := s.doms.get TickDom.init d

/-- The state with a domain's tick record changed. -/
def State.updDom (s : State) (d : Nat) (f : TickDom → TickDom) : State := { s with doms := s.doms.set d (f (s.dom d)) }

/-- The state with the manager's record changed. -/
def State.updMgr (s : State) (f : Mgr → Mgr) : State := { s with mgr := f s.mgr }

/-- The state with the planner's record changed. -/
def State.updPlane (s : State) (f : Plane → Plane) : State := { s with plane := f s.plane }

/-- The state with the Scarab record changed. -/
def State.updScb (s : State) (f : Scarab → Scarab) : State := { s with scb := f s.scb }

/-- The state with the image slots changed. -/
def State.updImg (s : State) (f : Img → Img) : State := { s with img := f s.img }

/-- The state with the owners' record changed. -/
def State.updOwners (s : State) (f : Owners → Owners) : State := { s with owners := f s.owners }

/-- The state with the Mound work changed. -/
def State.updMound (s : State) (f : MoundWork → MoundWork) : State := { s with mound := f s.mound }

/-- The state with the host side changed. -/
def State.updHost (s : State) (f : HostSide → HostSide) : State := { s with host := f s.host }

/-- The state with the search changed. -/
def State.updSearch (s : State) (f : Search → Search) : State := { s with search := f s.search }

/-- The state with the Katydid record changed. -/
def State.updKtd (s : State) (f : Ktd → Ktd) : State := { s with ktd := f s.ktd }

/-- A core of a worker. -/
def Worker.core (x : Worker) (n : Nat) : StagCore := x.cores.get StagCore.init n

/-- The worker with a core's record changed. -/
def Worker.updCore (x : Worker) (n : Nat) (f : StagCore → StagCore) : Worker :=
  { x with cores := x.cores.set n (f (x.core n)) }

/-- A core of the machine. -/
def State.core (s : State) (w n : Nat) : StagCore := (s.worker w).core n

/-- The state with a core's record changed. -/
def State.updCore (s : State) (w n : Nat) (f : StagCore → StagCore) : State := s.updWorker w fun x => x.updCore n f

/-- A board-link end. -/
def Worker.link (x : Worker) (j : Nat) : Link := x.links.get Link.init j

/-- The state with a board-link end changed. -/
def State.updLink (s : State) (w j : Nat) (f : Link → Link) : State :=
  s.updWorker w fun x => { x with links := x.links.set j (f (x.link j)) }

/-- An optical port. -/
def Worker.port (x : Worker) (p : Nat) : Port := x.ports.get Port.init p

/-- The state with an optical port changed. -/
def State.updPort (s : State) (w p : Nat) (f : Port → Port) : State :=
  s.updWorker w fun x => { x with ports := x.ports.set p (f (x.port p)) }

/-- A queue pair of a hub. -/
def Hub.queue (h : Hub) (q : Nat) : Queue := h.queues.get (Queue.init q) q

/-- The state with a queue pair changed. -/
def State.updQueue (s : State) (k q : Nat) (f : Queue → Queue) : State :=
  s.updHub k fun h => { h with queues := h.queues.set q (f (h.queue q)) }

/-- The physical core of a logical core; the identity at the end of bring-up (R18). -/
def Worker.physOf (x : Worker) (l : Nat) : Option Nat := x.cmap.get (some l) l

/-- The logical core mapped to a physical core. -/
def Worker.logicalOf (x : Worker) (n : Nat) : Option Nat := (List.range 48).find? fun l => x.physOf l == some n

/-- Power domain `n` of the worker is on. -/
def Worker.powered (x : Worker) (n : Nat) : Bool := x.pwr.testBit n

/-- The cluster domain of a physical core (R18). -/
def clusterOf (n : Nat) : Nat := 2 + n / 10

/-- A key slot. -/
def Worker.slot (x : Worker) (o : Nat) : KeySlot := x.keys.get KeySlot.init o

/-- Every `f k` applied in the order of the list. -/
def State.forEach (s : State) (l : List Nat) (f : State → Nat → State) : State := l.foldl f s

/-- A number not drawn before, and the state that has drawn it: it names a free value. -/
def State.draw (s : State) : Nat × State := (s.mgr.fresh, s.updMgr fun m => { m with fresh := m.fresh + 1 })

/-- A worker that is fitted, answered and has not been declared failed. -/
def State.workerUp (s : State) (w : Nat) : Bool :=
  s.fit.workerOk w && !s.fit.absent.contains w && !(s.worker w).failed

/-- The workers that are fitted and not failed (R159). -/
def State.liveWorkers (s : State) : List Nat := s.fit.workers.filter s.workerUp

/-- A sled in Hold, or dropped into Doze: transfers that work on it stand still (R74). -/
def State.paused (s : State) (ks : List Nat) : Bool := ks.any fun k => (s.hub k).held || (s.hub k).dropped

/-! ## The machine state (chapter 3) -/

/-- The code of a machine state (Table 3.1). -/
def MState.code : MState → Nat
  | .off => 0 | .bringUp => 1 | .quiescent => 2 | .loaded => 3 | .running => 4 | .passage => 5 | .doze => 6 | .hold => 7
  | .limp => 8 | .service => 9

/-- The machine state of a code. -/
def MState.ofCode : Nat → MState
  | 0 => .off | 1 => .bringUp | 3 => .loaded | 4 => .running | 5 => .passage | 6 => .doze | 7 => .hold | 8 => .limp
  | 9 => .service | _ => .quiescent

/-- States that PREV records the leaving of (Table 3.2). -/
def recordsPrev : MState → Bool
  | .doze => true | .hold => true | .limp => true | _ => false

/-- An edge at a live event count (R317): the count stops at 15 and OVF is set if it would pass it. -/
def Scarab.count1 (x : Scarab) (e n : Nat) : Scarab :=
  let sum := x.live.get 0 e + n
  { x with live := x.live.set e (min 15 sum), ovf := if 15 < sum then putBit x.ovf e true else x.ovf }

/-- Event inputs that count (Table 13.6): e20 to e31 are reserved and never count. -/
def inputCounts (e : Nat) : Bool := decide (e < 20) || (decide (32 ≤ e) && decide (e < 64))

/-- The result word of a timer that closes at `stop` (R320). -/
def Span.resultAt (t : Span) (stop : Nat) : Nat :=
  match t.start with
  | none => 2 ^ 31 + 2 ^ 29
  | some b => if stop = b then 2 ^ 31 + 2 ^ 30 else 2 ^ 31 + min ((stop + 2 ^ 48 - b) % 2 ^ 48) 0x1FFFFFFF

/-- A timer closed at a cycle (R320). -/
def Span.closeAt (t : Span) (now : Nat) : Span := { t with closed := true, result := t.resultAt now }

/-- What an arrival at input `e` at cycle `now` does to one timer (R319): it stamps the start, and then the stop; a timer that
has closed, or that takes the stamp from an instruction, is left alone. -/
def Span.onInput (t : Span) (e now : Nat) : Span :=
  if t.armed && !t.closed then
    let t1 := if !t.desc.testBit 6 && t.desc % 64 == e && t.start.isNone then { t with start := some now } else t
    if !t1.desc.testBit 14 && bitsOf t1.desc 13 8 == e then t1.closeAt now else t1
  else t

/-- Arrivals at an event input, with the span timers they stamp; a timer that closes arrives at its own input in turn. `fuel`
bounds the chain: each of the 16 timers closes once. -/
def Scarab.arrive (x : Scarab) (now : Nat) : Nat → Nat → Nat → Scarab
  | 0, _, _ => x
  | fuel + 1, e, n =>
    if inputCounts e && decide (0 < n) then
      let x1 := x.count1 e n
      (List.range 16).foldl (init := x1) fun y i =>
        let t := y.spans.get Span.init i
        let t' := t.onInput e now
        let y1 := { y with spans := y.spans.set i t' }
        if t'.closed && !t.closed then Scarab.arrive y1 now fuel (32 + i) 1 else y1
    else x

/-- `n` arrivals at event input `e`, `mc` manager cycles into the frame (R317, R319). -/
def State.arrive (s : State) (e n mc : Nat) : State := s.updScb fun x => x.arrive ((x.count + mc) % 2 ^ 48) 17 e n

/-- The machine state changed (R59): AGE restarts, CAUSE is kept only in Hold and Limp, and the change counts on e15; the planner sees
a new input (R239). A change to the same state is none. -/
def State.setMode (s : State) (m : MState) (cause : Nat) : State :=
  if s.mgr.mode = m then s.updMgr fun g => { g with cause := cause }
  else
    ((s.updMgr fun g =>
      { g with mode := m, age := 0, cause := cause, prev := if recordsPrev m then g.mode.code else g.prev }).updPlane
      fun p => { p with stamp := p.stamp + 1 }).arrive 15 1 0

/-! ## Events (R337, R367) -/

/-- Sixteen payload bytes built from (offset, size, value) fields. -/
def payload (fields : List (Nat × Nat × Nat)) : List Byte :=
  leBytes 16 (fields.foldl (fun n f => n + f.2.2 % 256 ^ f.2.1 * 256 ^ f.1) 0)

/-- Size in bytes of an event's first payload field, its unit (R367). -/
def unitSize (code : Nat) : Nat :=
  if code = 0x0004 then 2 else if code = 0x0006 then 8
  else if code = 0x0007 ∨ code = 0x0008 ∨ code = 0x0009 ∨ code = 0x000B ∨ code = 0x0012 then 1
  else if code = 0x0011 then 8 else 2

/-- The unit of an event (R367): its first payload field; for EV_HOLD_ENTERED the sled at offset 1. -/
def EventRec.unit (e : EventRec) : Nat :=
  if e.code = 0x000A then leNat ((e.payload.drop 1).take 1) else leNat (e.payload.take (unitSize e.code))

/-- Written before or together with: earlier frame, else lower code, else lower unit (R367). -/
def EventRec.le (a b : EventRec) : Bool :=
  decide (a.frame < b.frame) ||
    (a.frame == b.frame && (decide (a.code < b.code) || (a.code == b.code && decide (a.unit ≤ b.unit))))

/-- An event put into a hub's queue in the order of R367. -/
def insertEvent (e : EventRec) : List EventRec → List EventRec
  | [] => [e]
  | x :: rest => if x.le e then x :: insertEvent e rest else e :: x :: rest

/-- The Scarab input an event arrives at (Table 13.6). -/
def eventInput : Nat → Option Nat
  | 0x0009 => some 1 | 0x0007 => some 4 | 0x0008 => some 5 | 0x000C => some 6 | 0x000D => some 7 | 0x0005 => some 8
  | 0x0006 => some 9 | 0x0001 => some 12 | 0x0012 => some 17 | 0x0013 => some 18 | _ => none

/-- An event raised: recorded for every fitted hub and for every management subscriber, and counted at its Scarab input. -/
def State.raise (s : State) (code : Nat) (fields : List (Nat × Nat × Nat)) : State :=
  let e : EventRec :=
    { code := code, epoch := s.ktd.boundEpoch, time := s.ktd.boundT / 65536, frame := s.mgr.frame, payload := payload fields }
  let s1 := s.forEach s.fit.sledList fun st k => st.updHub k fun h => { h with evq := insertEvent e h.evq }
  let s2 := s1.updHost fun h => { h with out := h.out ++ h.subs.map fun c => Out.event c e }
  match eventInput code with
  | none => s2
  | some i => s2.arrive i 1 0

/-! ## Completions (R336, R341) -/

/-- Status codes (Table 14.10 and the chapters it names). -/
def stOk : Nat := 0x00
def stNotStaged : Nat := 0x12
def stDrainTimeout : Nat := 0x13
def stUnhealthy : Nat := 0x14
def stOwnerAbsent : Nat := 0x15
def stMoundPinned : Nat := 0x16
def stCircuitDown : Nat := 0x17
def stNoRoute : Nat := 0x30
def stWouldDisturb : Nat := 0x31
def stStalePlan : Nat := 0x32
def stBadCommand : Nat := 0x40
def stWrongState : Nat := 0x41
def stBusy : Nat := 0x42
def stHostFault : Nat := 0x43
def stBadOwner : Nat := 0x44
def stOwnerLive : Nat := 0x45
def stWrongImage : Nat := 0x46
def stSeqTooLong : Nat := 0x47
def stCancelled : Nat := 0x48
def stAborted : Nat := 0x49
def stNotReady : Nat := 0x4A
def stBadTag : Nat := 0x4B
def stCapMismatch : Nat := 0x08

/-- The bytes of RESULT (R341): the values in order, each in its size, little-endian, 16 bytes in all. -/
def resultBytes (r : List (Nat × Nat)) : List Byte :=
  ((r.flatMap fun (v : Nat × Nat) => leBytes v.1 v.2) ++ List.replicate 16 0).take 16

/-- A completion sent on its way (R335, R312, R348): to the carrying hub, to the Scarab slot's words with one arrival on e14, or
to the management client. -/
def State.send (s : State) (c : Completion) : State :=
  match c.cmd.src with
  | .host k _ _ _ => s.updHub k fun h => { h with cpls := h.cpls ++ [c] }
  | .mgmt cl seq =>
    s.updHost fun h =>
      { h with
        out := h.out ++ [Out.cpl cl seq c]
        seqs := h.seqs.map fun q => if q.1 = cl ∧ q.2.1 = seq then (cl, seq, some (Out.cpl cl seq c)) else q }
  | .scarab sl =>
    if c.interim then s
    else
      let rb := resultBytes c.result
      let ws : List Nat :=
        [c.cmd.tag, 0, c.status + c.cmd.op * 65536, c.frame, leNat (rb.take 4), leNat ((rb.drop 4).take 4),
          leNat ((rb.drop 8).take 4), leNat ((rb.drop 12).take 4)]
      (s.updScb fun x => { x with slots := x.slots.set sl ws }).arrive 14 1 0

/-- The final completion of a command. -/
def State.final (s : State) (c : Cmd) (status : Nat) (result : List (Nat × Nat) := []) : State :=
  s.send { cmd := c, interim := false, status := status, frame := s.mgr.frame, result := result }

/-- The interim completion of a command that was accepted (R336). -/
def State.interim (s : State) (c : Cmd) (result : List (Nat × Nat) := []) : State :=
  s.send { cmd := c, interim := true, status := 0, frame := s.mgr.frame, result := result }

/-- The final completion of a command that may be missing. -/
def State.final? (s : State) (c : Option Cmd) (status : Nat) (result : List (Nat × Nat) := []) : State :=
  match c with | none => s | some c => s.final c status result

/-- A message sent to every fitted hub. -/
def State.broadcast (s : State) (m : Msg) : State :=
  s.forEach s.fit.sledList fun st k => st.updHub k fun h => { h with inbox := h.inbox ++ [m] }

/-- The hub's inbox less the first message that `p` accepts. -/
def dropMsg (p : Msg → Bool) : List Msg → List Msg
  | [] => []
  | m :: rest => if p m then rest else m :: dropMsg p rest

/-- One line written by the machine to the outside. -/
def State.emit (s : State) (o : Out) : State := s.updHost fun h => { h with out := h.out ++ [o] }

/-! ## Memory (chapter 7) -/

/-- What a byte of memory that is not listed reads as. -/
def unlisted : Byte := 0

/-- The byte at an address of a memory. -/
def memGet (m : List Host.Cell) (a : Nat) : Byte := (Tab.find a m).getD unlisted

/-- A byte written into a memory in canonical form: the entry is taken out where the byte equals what an unlisted address reads. -/
def memPut (a : Nat) (b : Byte) : List Host.Cell → List Host.Cell
  | [] => if b = unlisted then [] else [(a, b)]
  | (i, x) :: rest =>
    if a < i then (if b = unlisted then (i, x) :: rest else (a, b) :: (i, x) :: rest)
    else if a = i then (if b = unlisted then rest else (a, b) :: rest)
    else (i, x) :: memPut a b rest

/-- Bytes written from an address up. -/
def memPutAll (a : Nat) : List Byte → List Host.Cell → List Host.Cell
  | [], m => m
  | b :: rest, m => memPutAll (a + 1) rest (memPut a b m)

/-- Addresses strictly rising. -/
def memRising : List Host.Cell → Bool
  | (a, _) :: (b, y) :: rest => decide (a < b) && memRising ((b, y) :: rest)
  | _ => true

/-- The canonical form of a memory: addresses strictly rising, no entry equal to what an unlisted address reads as. -/
def Memory.wf (m : List Host.Cell) : Bool := memRising m && m.all fun c => decide (c.2 ≠ unlisted)

/-- Fields of a machine address (Table 0.10). -/
def addrSpace (a : Nat) : Nat := bitsOf a 63 60
def addrSled (a : Nat) : Nat := bitsOf a 59 57
def addrSite (a : Nat) : Nat := bitsOf a 56 52
def addrOffset (a : Nat) : Nat := bitsOf a 51 0
def addrWorker (a : Nat) : Nat := workerCode (addrSled a) (addrSite a)

/-- The machine address of an offset in a space of a worker. -/
def machineAddr (space w off : Nat) : Nat := space * 2 ^ 60 + sledOf w * 2 ^ 57 + siteOf w * 2 ^ 52 + off

/-- Bytes of a tier on a worker (Table 7.1). -/
def tierSize (space : Nat) : Nat := if space = 0 then 2 ^ 38 else 2 ^ 40

/-- A tier address that names a fitted location (R11, R146). -/
def State.tierPresent (s : State) (a : Nat) : Bool :=
  (addrSpace a == 0 || (addrSpace a == 1 && s.fit.tierB)) && s.fit.workerOk (addrWorker a) &&
    decide (addrOffset a < tierSize (addrSpace a))

/-- The image region of tier A (R147). -/
def imageRegionBase : Nat := 0x3FF8000000

/-- The base of a bank of the image region. -/
def bankBase (bank1 : Bool) : Nat := if bank1 then 0x3FFC000000 else 0x3FF8000000

/-- The worker with the parts of an image put into a bank of its image region. -/
def Worker.setBank (x : Worker) (bank1 : Bool) (id : Nat) : Worker :=
  { x with bankIds := if bank1 then (x.bankIds.1, id) else (id, x.bankIds.2) }

/-- A bank of a worker's image region receives the parts of an image (R98, R147): what stood there is overwritten. -/
def State.writeBank (s : State) (w : Nat) (bank1 : Bool) (id : Nat) : State :=
  let lo := machineAddr 0 w (bankBase bank1)
  let inside := fun (a : Nat) => decide (lo ≤ a) && decide (a < lo + 0x4000000)
  ({ s with
      mem := s.mem.filter fun c => !inside c.1
      keyTag := ⟨s.keyTag.cells.filter fun c => !inside (c.1 * 64)⟩ } : State).updWorker w fun x => x.setBank bank1 id

/-- Primary and secondary share of a worker in a list of regions (R180): the tier A share is the primary where there is one. -/
def sharesIn (rs : List RegionDef) (w : Nat) : Option RegionDef × Option RegionDef :=
  let at_ := fun (space : Nat) => rs.find? fun r => r.w == w && r.space == space && r.use == 3
  match at_ 0 with
  | some a => (some a, at_ 1)
  | none => (at_ 1, none)

/-- The worker whose role in an image `w` plays: the failed worker it stands in for (R225), else itself. -/
def State.roleOf (s : State) (w : Nat) : Nat :=
  match (s.hub (sledOf w)).inRole.find? fun p => p.2 == siteOf w with
  | some p => workerCode (sledOf w) p.1
  | none => w

/-- The worker that plays the role an image gives to `w` (R225, R228). -/
def State.actorOf (s : State) (w : Nat) : Nat :=
  match (s.hub (sledOf w)).inRole.find? fun p => p.1 == siteOf w with
  | some p => workerCode (sledOf w) p.2
  | none => w

/-- The page of a Mound share that an object covers. -/
def MObj.covers (o : MObj) (secondary : Bool) (page : Nat) : Bool :=
  o.state != 0 && o.secondary == secondary && decide (o.first ≤ page) && decide (page < o.first + o.pages)

/-- The shares of a worker: primary, then secondary (R180). -/
def State.shares (s : State) (w : Nat) : Option RegionDef × Option RegionDef := sharesIn (s.hub (sledOf w)).regions (s.roleOf w)

/-- The object that holds a page of a share: one that is being loaded there takes it over only when no other holds it (R196). -/
def Worker.holder (x : Worker) (secondary : Bool) (page : Nat) : Option (Nat × MObj) :=
  (x.objs.cells.find? fun o => o.2.state != 1 && o.2.covers secondary page).orElse fun _ => x.objs.cells.find? fun o => o.2.covers secondary page

/-- The owner of the page at an offset of a space of a worker, by the worker's region table (R166). -/
def State.pageOwner (s : State) (w space off : Nat) : Nat :=
  match (s.hub (sledOf w)).regions.find? fun r =>
      r.w == s.roleOf w && r.space == space && decide (r.base ≤ off) && decide (off < r.base + r.size) with
  | none => 0
  | some r =>
    if r.use = 3 then
      match (s.worker w).holder (!((s.shares w).1 == some r)) ((off - r.base) / 4096) with
      | some o => o.2.owner
      | none => 0
    else r.owner

/-- The key generation in force for the page of a tier address; 0 where the owner's slot is not live. -/
def State.keyAt (s : State) (a : Nat) : Nat :=
  let k := (s.worker (addrWorker a)).slot (s.pageOwner (addrWorker a) (addrSpace a) (addrOffset a))
  if k.live then k.gen else 0

/-- The image whose parts a bank of the worker's image region holds at a tier-A address (R98, R147); 0 for none. -/
def State.bankImage (s : State) (a : Nat) : Nat :=
  let off := addrOffset a
  if addrSpace a = 0 ∧ imageRegionBase ≤ off ∧ off < 2 ^ 38 then
    let ids := (s.worker (addrWorker a)).bankIds
    if off < bankBase true then ids.1 else ids.2
  else 0

/-- What a line was last written under: a key generation, which carries its owner in the low byte; 0 where nothing has been written; a
number with the low byte 255 where the stored bits are open (the tier lost power, or the page is a fresh spare). -/
def State.tagAt (s : State) (line : Nat) : Nat :=
  s.keyTag.get ((s.worker (addrWorker (line * 64))).lost.get 0 (addrSpace (line * 64))) line

/-- The tweak of a page of an owner (Table 7.8). -/
def tweakOf (owner a : Nat) : Nat :=
  addrOffset a / 4096 + addrSpace a * 2 ^ 40 + siteOf (addrWorker a) * 2 ^ 48 + sledOf (addrWorker a) * 2 ^ 53 + owner * 2 ^ 64

/-- The XTS key pair of a generation (R157). -/
def xtsKeyOf (gen : Nat) : List Byte := fixLen 64 (Config.xtsKey gen)

/-- The stored bits of a line, less their check bytes (R165). A line never written holds what memory held: the unlisted byte. -/
def State.cipherLine (s : State) (line : Nat) : List Byte :=
  let a := line * 64
  let tag := s.tagAt line
  let plain := (List.range 64).map fun i => memGet s.mem (a + i)
  if tag = 0 then plain
  else if tag % 256 = 255 then (List.range 64).map fun i => Config.lostByte tag (a + i)
  else xtsLine aesBlock (xtsKeyOf tag) (tweakOf (tag % 256) a) (a % 4096) plain

/-- A byte of a tier, decrypted under the key in force for its page (R165, R170): what was written under that key; what its decryption gives
where the line was written under another, or where the slot is not live an open value; what placement put there in a bank of the
image region. -/
def State.tierByte (s : State) (a : Nat) : Byte :=
  let tag := s.tagAt (a / 64)
  let g := s.keyAt a
  if (s.keyTag.get? (a / 64)).isNone = true ∧ s.bankImage a ≠ 0 then Config.bankByte (s.bankImage a) a
  else if tag = 0 ∨ tag = g then memGet s.mem a
  else if g = 0 then Config.voidByte tag a
  else (xtsLine aesUnblock (xtsKeyOf g) (tweakOf (g % 256) a) (a / 64 * 64 % 4096) (s.cipherLine (a / 64))).getD (a % 64) 0

/-- `n` bytes of a tier from an address up. -/
def State.tierBytes (s : State) (a n : Nat) : List Byte := (List.range n).map fun i => s.tierByte (a + i)

/-- The stored ciphertext of a tier byte, which a host sees of owners' pages (R168). -/
def State.tierCipher (s : State) (a : Nat) : Byte := (s.cipherLine (a / 64)).getD (a % 64) 0

/-- One line written in full under the key in force; discarded and counted in VOIDWR where the owner's slot is not live (R169). -/
def State.writeLine (s : State) (line : Nat) (bytes : List Byte) : State :=
  let g := s.keyAt (line * 64)
  if g = 0 then
    s.updWorker (addrWorker (line * 64)) fun x => { x with voidWr := satInc 0xFFFF x.voidWr }
  else { s with mem := memPutAll (line * 64) bytes s.mem, keyTag := s.keyTag.set line g }

/-- Bytes written to a tier: every line they touch is read, merged and written (R331); a full line is simply written. -/
def State.tierWrite (s : State) (a : Nat) (bytes : List Byte) : State :=
  if bytes.isEmpty then s
  else
    let first := a / 64
    let last := (a + bytes.length - 1) / 64
    (List.range (last + 1 - first)).foldl (init := s) fun st i =>
      let line := first + i
      st.writeLine line <| (List.range 64).map fun j =>
        let x := line * 64 + j
        if a ≤ x ∧ x < a + bytes.length then bytes.getD (x - a) 0 else st.tierByte x

/-- A write that the machine makes under a stated key generation: loads, imports and placement write whole lines so. -/
def State.tierWriteKey (s : State) (g a : Nat) (bytes : List Byte) : State :=
  if g = 0 then s
  else
    { s with
      mem := memPutAll a bytes s.mem
      keyTag := (List.range (ceilDiv bytes.length 64)).foldl (fun t i => t.set (a / 64 + i) g) s.keyTag }

/-! ## Registers that report what is fitted (R5, R29, R30) -/

/-- `MGR.CAP` (Table 0.4). -/
def State.cap (s : State) : Nat :=
  if s.mgr.capFixed then
    s.fit.variantCode + s.fit.sleds * 2 ^ 4 + s.fit.sites * 2 ^ 8 + bit1 s.fit.lacewing * 2 ^ 13 + bit1 s.fit.strict * 2 ^ 14 +
      bit1 s.fit.lacewing * 2 ^ 15 + bit1 s.fit.tierB * 2 ^ 16 + bit1 s.fit.sig * 2 ^ 17
  else 0x0000000F

/-- `MGR.INV` (Table 1.5). -/
def State.inv (s : State) : Nat :=
  if s.mgr.capFixed then
    (2 ^ s.fit.sleds - 1) + (2 * s.fit.edgeTiles + s.fit.middles) * 2 ^ 8 + s.fit.modules.length * 2 ^ 16
  else 0

/-- SITEMASK of a sled: the fitted sites whose worker answered (R30). -/
def State.siteMask (s : State) (k : Nat) : Nat :=
  (s.fit.siteList.filter fun x => !s.fit.absent.contains (workerCode k x)).foldl (fun m x => m + 2 ^ x) 0

/-- `HUB.INV` of a sled (Table 1.6). -/
def State.hubInv (s : State) (k : Nat) : Nat :=
  if s.mgr.capFixed ∧ k < s.fit.sleds then s.siteMask k + s.fit.drives.get 8 k * 2 ^ 24 else 0

/-- `MGR.SEQMAX` (Table 7.7). -/
def State.seqMax (s : State) : Nat := if s.fit.tierB then 0x200000 else 0x40000

/-- ON bits of a worker that name domains with something to power (R32, R65, R68). -/
def Fit.domainMask (f : Fit) : Nat :=
  match f.variant, f.tierB with
  | .tqB, true => 0x9FF | .tqB, false => 0x8FF | _, true => 0xFFF | _, false => 0xEFF

end Sys2Proof.Machine
end

