-- ==== Sys2Proof/Machine/CalStore.lean ====
section
/-! DEFINITION. Calibration records (R287 to R295): their bytes and CHECK, the values in them with counts and noise, what is measured, the limits
of Table 12.2, and the values in force. -/

namespace Sys2Proof.Machine

/-! ## Rounding -/

/-- `a / b`, rounded to nearest, ties to even. -/
def roundNE (a : Int) (b : Nat) : Int :=
  let q := a / (b : Int)
  let r := a - q * (b : Int)
  if 2 * r < (b : Int) then q else if (b : Int) < 2 * r then q + 1 else if q % 2 = 0 then q else q + 1

/-- Integer square root, by bisection over `bits` bits. -/
def isqrt (x : Nat) : Nat → Nat → Nat
  | 0, r => r
  | k + 1, r => let r1 := r + 2 ^ k; isqrt x k (if r1 * r1 ≤ x then r1 else r)

/-- The square root of a quotient, to the nearest whole number. -/
def rootOf (a b : Nat) : Nat := (isqrt (4 * a / max 1 b) 80 0 + 1) / 2

/-- Chip of code `j` in frame `k`: row `j`, column `k mod 64` of the Sylvester Hadamard matrix (R268). -/
def chip (j k : Nat) : Int := if popCount (j &&& (k % 64)) 6 % 2 = 0 then 1 else -1

/-- The part code of an engine (R367). -/
def partOf : Engine → Nat
  | .tile t => t
  | .module k => 0x100 + k
  | .ring w => 0x8000 + w

/-- Cells in use in an engine (Table 11.1). -/
def engineCells : Engine → Nat
  | .tile t => tileHeaters t
  | .module _ => 20
  | .ring _ => 32

/-! ## The bytes of a record (R288) -/

/-- One bit of CRC-32C, reflected. -/
def crcBit (c : Nat) : Nat := if c % 2 = 1 then c / 2 ^^^ 0x82F63B78 else c / 2

/-- One byte of CRC-32C. -/
def crcByte (c : Nat) (b : Byte) : Nat :=
  crcBit (crcBit (crcBit (crcBit (crcBit (crcBit (crcBit (crcBit (c ^^^ b.toNat))))))))

/-- CRC-32C of bytes, polynomial 1EDC_6F41h. -/
def crc32c (b : List Byte) : Nat := (b.foldl crcByte 0xFFFFFFFF) ^^^ 0xFFFFFFFF

/-- Header bytes 0 to 11 of a record. -/
def recHead (r : CalRec) : List Byte :=
  leBytes 1 r.kind ++ leBytes 1 r.flags ++ leBytes 2 r.index ++ leBytes 4 r.length ++ leBytes 4 r.gen

/-- The CHECK that a record should carry (R288). -/
def recCrc (r : CalRec) : Nat := crc32c (recHead r ++ r.payload)

/-- A record whose CHECK verifies (R288). -/
def recSound (r : CalRec) : Bool := r.check == recCrc r

/-- A record as the machine stores it under a generation, with its CHECK. -/
def recStamp (r : CalRec) (gen : Nat) : CalRec :=
  let q := { r with gen := gen }
  { q with check := recCrc q }

/-- A LOOP record of 48 bytes (Table 11.8). -/
def LoopRec.ofBytes (b : List Byte) : LoopRec :=
  let s24 := fun ofs => toSigned 24 (fieldLE b ofs 3)
  { cell := fieldLE b 0 2, order3 := (fieldLE b 2 1).testBit 0, a1 := s24 4, a2 := s24 7, a3 := s24 0xA
    b0 := s24 0xD, b1 := s24 0x10, b2 := s24 0x13, b3 := s24 0x16, setpoint := s24 0x19
    dither := fieldLE b 0x1C 2, umin := fieldLE b 0x1E 2, umax := fieldLE b 0x20 2, slew := fieldLE b 0x22 2
    emax := s24 0x24, locktol := s24 0x27 }

/-- The bytes of a LOOP record. -/
def LoopRec.toBytes (r : LoopRec) : List Byte :=
  let s24 := fun z => leBytes 3 (toBits 24 z)
  leBytes 2 r.cell ++ leBytes 1 (bit1 r.order3) ++ leBytes 1 0 ++ s24 r.a1 ++ s24 r.a2 ++ s24 r.a3 ++ s24 r.b0 ++ s24 r.b1 ++
    s24 r.b2 ++ s24 r.b3 ++ s24 r.setpoint ++ leBytes 2 r.dither ++ leBytes 2 r.umin ++ leBytes 2 r.umax ++
    leBytes 2 r.slew ++ s24 r.emax ++ s24 r.locktol ++ leBytes 6 0

/-- Reserved bytes of a LOOP record are zero. -/
def loopRecReserved (b : List Byte) : Bool :=
  b.length == 48 && decide (fieldLE b 2 1 ≤ 1) && zeroAt b 3 1 && zeroAt b 0x2A 6

/-! ## The fields of a payload (Table 12.1, R289, Table 12.2) -/

/-- The bound on a value's noise (Table 12.2, R290): none, a signal-to-noise ratio of 64, or σ/√N at most so many steps. -/
inductive CalNoise where
  | free
  | ratio
  | atMost (steps : Nat)
  deriving DecidableEq, Repr

/-- A field of a payload: its bytes, whether it is signed, whether it is a measured value, which N and σ follow (R289), and its limits in fifths of
its step (Table 12.2): lowest and highest, of its magnitude where `mag` is set, and the largest change between adjacent points. -/
structure CalField where
  width  : Nat
  signed : Bool
  meas   : Bool
  mag    : Bool
  lo     : Option Int
  hi     : Option Int
  step   : Option Int
  noise  : CalNoise
  deriving DecidableEq, Repr

/-- A field without limits that is not measured. -/
def plainField (width : Nat) : CalField :=
  { width := width, signed := false, meas := false, mag := false, lo := none, hi := none, step := none, noise := .free }

/-- A measured field with its limits, in steps. -/
def measField (width : Nat) (lo hi : Int) (step : Option Int) (noise : CalNoise) : CalField :=
  { width := width, signed := false, meas := true, mag := false, lo := some (5 * lo), hi := some (5 * hi), step := step.map (5 * ·), noise := noise }

/-- A gain, Q4.20 (Table 12.2). -/
def gainField : CalField :=
  { width := 3, signed := true, meas := true, mag := true, lo := some 262144, hi := some 20971520, step := none, noise := .ratio }

/-- A coefficient of the crosstalk matrix, Q2.14: X_h,h or X_h,m (Table 12.2). -/
def matrixField (own : Bool) : CalField :=
  { width := 2, signed := true, meas := true, mag := !own, lo := if own then some 73728 else none, hi := some (if own then 90112 else 20480)
    step := none, noise := .atMost 4 }

/-- The fields of a kind's payload, those held once and those of each of the seven points, in the order of Table 12.1; a TILE record with the
constants of `refl` reflectors. -/
def calLayout (kind refl : Nat) : List CalField × List CalField :=
  let loss := measField 2 0 300 (some 20) (.atMost 2)
  match kind with
  | 1 =>
    ([measField 2 12800 25600 none (.atMost 32), gainField, plainField 1, plainField 2],
      List.replicate 3 (measField 2 0 50000 (some 2000) (.atMost 20)))
  | 2 => (List.replicate 8 (plainField 2) ++ matrixField true :: List.replicate 8 (matrixField false), [])
  | 3 =>
    ([], [measField 2 0 0xFFF (some 64) (.atMost 2),
      { measField 3 524288 2097152 none (.atMost 1024) with signed := true, step := some 262144 }])
  | 4 => ([], [loss])
  | 5 => ([], [loss])
  | 6 =>
    (List.replicate 8 (plainField 2) ++ [measField 2 1000 20000 none (.atMost 100), plainField 2] ++
      List.replicate refl (measField 2 0 32768 none (.atMost 1)), [])
  | 7 =>
    ([], [{ plainField 2 with meas := true }, measField 2 50 500 (some 20) (.atMost 1)] ++
      List.replicate 8 { measField 3 0 4194304 none (.atMost 2048) with signed := true, mag := true, step := some 2097152 })
  | 8 => ([measField 2 1100 1400 none (.atMost 2)], [])
  | 9 => ([], [{ plainField 2 with meas := true }, { plainField 3 with signed := true, meas := true, noise := .ratio }, plainField 1])
  | _ => ([], [])

/-- Bytes of a field. -/
def CalField.size (f : CalField) : Nat := f.width + if f.meas then 4 else 0

/-- Bytes of fields. -/
def fieldsSize (l : List CalField) : Nat := (l.map CalField.size).sum

/-- LENGTH of a kind's payload (R288): 48 bytes for a LOOPDEF record, else its fields once and at seven points. -/
def calLength (kind refl : Nat) : Nat :=
  if kind = 10 then 48 else fieldsSize (calLayout kind refl).1 + 7 * fieldsSize (calLayout kind refl).2

/-- A measured value with the count of its windows and its noise (R289). -/
structure CalVal where
  value : Int
  n     : Nat
  sigma : Nat
  deriving DecidableEq, Repr

/-- A value read at an offset of a payload. -/
def CalField.read (f : CalField) (b : List Byte) (ofs : Nat) : CalVal :=
  let v := fieldLE b ofs f.width
  { value := if f.signed then toSigned (8 * f.width) v else (v : Int)
    n := if f.meas then fieldLE b (ofs + f.width) 2 else 0, sigma := if f.meas then fieldLE b (ofs + f.width + 2) 2 else 0 }

/-- The bytes of a value. -/
def CalField.bytes (f : CalField) (v : CalVal) : List Byte :=
  leBytes f.width (toBits (8 * f.width) v.value) ++ if f.meas then leBytes 2 (min 0xFFFF v.n) ++ leBytes 2 (min 0xFFFF v.sigma) else []

/-- A field of a payload with its offset, at a point. -/
def calFieldAt (kind refl field point : Nat) : Option (CalField × Nat) :=
  let l := calLayout kind refl
  match l.1[field]? with
  | some f => some (f, fieldsSize (l.1.take field))
  | none =>
    let i := field - l.1.length
    (l.2[i]?).map fun f => (f, fieldsSize l.1 + point * fieldsSize l.2 + fieldsSize (l.2.take i))

/-- A value of a record. -/
def recVal (r : CalRec) (field point : Nat) : Option CalVal :=
  (calFieldAt r.kind 16 field point).map fun f => f.1.read r.payload f.2

/-- A value lies in its range (Table 12.2). -/
def CalField.inRange (f : CalField) (v : CalVal) : Bool :=
  let x := 5 * if f.mag then (v.value.natAbs : Int) else v.value
  f.lo.all (fun l => decide (l ≤ x)) && f.hi.all fun h => decide (x ≤ h)

/-- A value differs from that of the next point by no more than the step limit (R293). -/
def CalField.stepOk (f : CalField) (v w : CalVal) : Bool := f.step.all fun l => decide (5 * ((v.value - w.value).natAbs : Int) ≤ l)

/-- A value passes its noise bound (R290): |value| / (σ/√N) at least 64, or σ/√N within so many steps. -/
def CalField.quietOk (f : CalField) (v : CalVal) : Bool :=
  match f.noise with
  | .free => true
  | .ratio => decide (0 < v.n) && decide (4096 * v.sigma ^ 2 ≤ v.value.natAbs ^ 2 * v.n)
  | .atMost b => decide (0 < v.n) && decide (v.sigma ^ 2 ≤ b ^ 2 * v.n)

/-- Every field and point of a record's payload. -/
def recFields (kind refl : Nat) : List (Nat × Nat) :=
  let l := calLayout kind refl
  ((List.range l.1.length).map fun i => (i, 0)) ++
    (List.range 7).flatMap fun p => (List.range l.2.length).map fun i => (l.1.length + i, p)

/-- A record's values keep the ranges and steps of Table 12.2; a heater's feedforward is at most its UMAX (R293). -/
def recInLimits (refl : Nat) (r : CalRec) : Bool :=
  (recFields r.kind refl).all fun x =>
    match calFieldAt r.kind refl x.1 x.2, recVal r x.1 x.2 with
    | some f, some v =>
      f.1.inRange v && (x.2 == 6 || f.1.step.isNone || (recVal r x.1 (x.2 + 1)).all (f.1.stepOk v)) &&
        (r.kind != 1 || decide (x.1 < 4) || (recVal r 3 0).all fun u => decide (v.value ≤ u.value))
    | _, _ => true

/-- A record's values pass R290. -/
def recQuiet (refl : Nat) (r : CalRec) : Bool :=
  (recFields r.kind refl).all fun x =>
    match calFieldAt r.kind refl x.1 x.2, recVal r x.1 x.2 with
    | some f, some v => f.1.quietOk v
    | _, _ => true

/-- Record kinds of a part (Table 12.1). -/
def kindOk (e : Engine) (kind : Nat) : Bool :=
  match e with
  | .tile _ => decide (1 ≤ kind) && decide (kind ≤ 6) || kind == 10
  | .module _ => kind == 7 || kind == 8 || kind == 10
  | .ring _ => kind == 9 || kind == 10

/-- The reason a record is rejected for, where it is (R294): 1 check, 2 format, 3 limits, 4 statistics, 5 sealed. `refl` is the number of the
part's reflectors. -/
def calReject (refl : Nat) (e : Engine) (sealed_ : Bool) (r : CalRec) : Option Nat :=
  if !recSound r then some 1
  else if !(kindOk e r.kind && decide (r.flags ≤ 1) && r.length == r.payload.length && r.length == calLength r.kind refl &&
      (r.kind != 10 || (loopRecReserved r.payload && decide (r.index < engineCells e)))) then some 2
  else if sealed_ && r.flags == 1 then some 5
  else if !recInLimits refl r then some 3
  else if !recQuiet refl r then some 4
  else none

/-! ## Measurement (R289) -/

/-- A window of tap ratios correlated on a code. -/
def windowSum (code delay : Nat) (w : List Int) : Int :=
  (w.take 64).zipIdx.foldl (fun acc r => acc + chip code (r.2 + 64 - delay) * r.1) (0 : Int)

/-- The standard deviation of numbers, times `num / den`. -/
def spread (l : List Int) (num den : Nat) : Nat :=
  let n := l.length
  let var := ((n : Int) * (l.map fun x => x * x).sum - l.sum * l.sum).toNat
  min 0xFFFF (rootOf (var * num ^ 2) ((n * den) ^ 2))

/-- A field's measured value (R289): a gain is the correlation on its code, its noise the spread on the null code; an offset the mean of dark
frames, its noise their standard deviation; a loss or feedforward the fit of a sweep, its noise the residual. -/
def measVal (kind field : Nat) : RawMeas → CalVal
  | .gain code nullCode amp delay ws =>
    let den := 2 ^ 23 * 64 * amp
    let num := Config.gainScale amp
    let sum := (ws.map (windowSum code delay)).sum
    { value := if ws.isEmpty ∨ amp = 0 then 0 else roundNE (sum * (num : Int)) (den * ws.length), n := if amp = 0 then 0 else ws.length
      sigma := spread (ws.map (windowSum nullCode delay)) num den }
  | .dark codes =>
    { value := if codes.isEmpty then 0 else roundNE ((codes.sum : Nat) : Int) codes.length, n := codes.length
      sigma := spread (codes.map fun c => (c : Int)) 1 1 }
  | .sweep pts => { value := (Config.sweepFit kind field pts).1, n := pts.length, sigma := (Config.sweepFit kind field pts).2 }
  | .value v n sigma => { value := v, n := n, sigma := sigma }

/-- A factory record from its measurement (R287, R289): each field's value at each point, with its count and noise; a field that was not measured
is zero. -/
def recordOf (refl : Nat) (m : RecMeas) : CalRec :=
  let zero : CalVal := { value := 0, n := 0, sigma := 0 }
  let bytes := (recFields m.kind refl).flatMap fun x =>
    match calFieldAt m.kind refl x.1 x.2 with
    | none => []
    | some f =>
      f.1.bytes (((m.fields.find? fun y => y.field == x.1 && y.point == x.2).map fun y => measVal m.kind y.field y.raw).getD zero)
  recStamp { kind := m.kind, flags := 1, index := m.index, length := bytes.length, gen := 0, check := 0, payload := bytes } 0

/-! ## The store and the values in force (R288, R292) -/

/-- Reflectors on the tile of an engine (R21). -/
def Fit.reflectors (f : Fit) : Engine → Nat
  | .tile t => ((List.range 16).filter fun i => (f.edgeOf (544 + i)).1 == t).length
  | _ => 0

/-- The bytes of a record as they are stored (R288): header, CHECK, and payload padded to a multiple of 16 bytes. -/
def recBytes (r : CalRec) : List Byte :=
  recHead r ++ leBytes 4 r.check ++ r.payload ++ List.replicate ((16 - r.payload.length % 16) % 16) 0

/-- A byte of a store of `size` bytes: copy A stands in its lower half, copy B in its upper (R288). -/
def Cal.byte (c : Cal) (part size ofs : Nat) : Byte :=
  if ofs < size / 2 then Config.calByte part (c.copyA.map recBytes) ofs else Config.calByte part (c.copyB.map recBytes) (ofs - size / 2)

/-- The records of a store that are usable (R288): copy A's where their CHECK verifies, else copy B's. -/
def Cal.usable (c : Cal) : List CalRec :=
  let a := c.copyA.filter recSound
  a ++ c.copyB.filter fun r => recSound r && !a.any fun q => q.kind == r.kind && q.index == r.index

/-- The store as a power loss leaves it, and the values then in force: where CAL_WRITE's copies were still being written, the records that it
wrote to copy A last have a failing CHECK (R298). -/
def Cal.powerLost (c : Cal) : Cal :=
  let a := if c.cmd.isSome then c.copyA.map fun r => if r.kind = 10 ∧ r.gen = c.gen then { r with check := recCrc r + 1 } else r else c.copyA
  let d := { c with copyA := a, pending := false, cmd := none, rejects := 0 }
  { d with inForce := d.usable }

/-- A calibrated value in force: from the part's record, else as the part was shipped. -/
def Cal.val (c : Cal) (part kind index field point : Nat) : Int :=
  match (c.inForce.find? fun r => r.kind == kind && r.index == index).bind fun r => recVal r field point with
  | some v => v.value
  | none => Config.calValue part kind index field point

/-- The point of R292 at or below a temperature in 1/128 °C (0 for 30.0 °C, 6 for 60.0 °C) and what lies beyond it. -/
def calPoint (temp : Int) : Nat × Int :=
  if temp < 3840 then (0, 0)
  else if 7680 ≤ temp then (6, 0)
  else let i := ((temp - 3840) / 640).toNat; (i, temp - 3840 - 640 * (i : Int))

/-- A per-point quantity at a temperature (R292). -/
def Cal.at (c : Cal) (part kind index field : Nat) (temp : Int) : Int :=
  let p := calPoint temp
  let a := c.val part kind index field p.1
  if p.2 = 0 then a else a + roundNE ((c.val part kind index field (p.1 + 1) - a) * p.2) 640

end Sys2Proof.Machine
end

