-- ==== Sys2Proof/Machine/HostLink.lean ====
section
/-! DEFINITION. The host links (chapter 14): queue pairs, event rings, doorbells, the arrival of commands, and the writing of
completions and event records. -/

namespace Sys2Proof.Machine

/-! ## Fetching (R332, R333) -/

/-- Commands that produce an interim completion as well (Table 14.9). -/
def interimOps : List Nat :=
  [0x10, 0x11, 0x15, 0x16, 0x20, 0x21, 0x23, 0x32, 0x40, 0x41, 0x42, 0x50, 0x58, 0x59, 0x61, 0x63, 0x70, 0x72, 0x73]

/-- Entries of a submission ring. -/
def Queue.sqSize (q : Queue) : Nat := 2 ^ q.sqLog

/-- Entries of a completion ring. -/
def Queue.cqSize (q : Queue) : Nat := 2 ^ q.cqLog

/-- The completion ring has room for every completion that the commands in flight and one more can produce: two for a record that
has not been read (R333). -/
def Queue.hasRoom (q : Queue) : Bool := decide (q.cqUsed + 2 * (q.inflight + 1) ≤ q.cqSize + q.ones.length)

/-- The pair fetches: enabled, not stopped, a record is submitted, and there is room. -/
def Queue.fetchable (q : Queue) : Bool :=
  q.enable && !q.closing && !q.error && q.sqHead != q.tail && q.hasRoom

/-- The read of one record issued. -/
def Queue.fetch (q : Queue) : Queue :=
  { q with sqHead := (q.sqHead + 1) % q.sqSize, inflight := q.inflight + 1, toFetch := q.toFetch + 1, number := q.number + 1 }

/-- The next queue pair in turn after the last (round-robin) that fetches. -/
def Hub.nextQueue (h : Hub) : Option Nat :=
  ((List.range 64).map fun i => (h.lastQueue + 1 + i) % 64).find? fun q => (h.queue q).fetchable

/-- Reads of submitted records issued while the frame's 32 are not used up (R333). -/
def Hub.fetch (h : Hub) : Nat → Hub
  | 0 => h
  | fuel + 1 =>
    if h.linkUp && decide (h.fetched < 32) then
      match h.nextQueue with
      | none => h
      | some q =>
        Hub.fetch { h with queues := h.queues.set q (h.queue q).fetch, fetched := h.fetched + 1, lastQueue := q } fuel
    else h

/-- A hub that may have something to fetch now. -/
def State.fetch (s : State) (k : Nat) : State := s.updHub k fun h => h.fetch 32

/-- A sled boundary: what has reached the hub since the last one is to be written from here on (R335, R337). -/
def Hub.reached (h : Hub) : Hub := { h with cplDue := h.cpls.length, evDue := h.evq.length }

/-- A sled frame begins on a hub: what has reached it is written, and it may fetch 32 records and send a message on each vector again
(R333, R335). -/
def Hub.newFrame (h : Hub) : Hub := { h.reached with fetched := 0, msiSent := [] }.fetch 32

/-! ## Accesses of a host link (R64) -/

/-- A write that comes over a host link: nothing while the machine is Off or the link is down; discarded and counted in Bring-up. -/
def State.hostAccess (s : State) (k : Nat) (f : State → State) : State :=
  if s.fit.sleds ≤ k ∨ !(s.hub k).linkUp then s
  else match s.mgr.mode with
    | .off => s
    | .bringUp => s.updHub k fun h => { h with discards := satInc 0xFFFF h.discards }
    | _ => f s

/-- A queue pair that stops (R332). -/
def Queue.stop (q : Queue) (code : Nat) : Queue := { q with error := true, errCode := code }

/-! ## Doorbells (Table 14.5, R332, R333) -/

/-- SQTAIL of an enabled pair: an index beyond the ring stops the pair; else the records up to it are submitted. -/
def Queue.ringTail (q : Queue) (v : Nat) : Queue :=
  if !q.enable || q.closing || q.error then q
  else if v % 4096 < q.sqSize then { q with tail := v % 4096 } else q.stop 3

/-- SQTAIL of a link. -/
def State.sqtail (s : State) (k q v : Nat) : State := (s.updQueue k q fun x => x.ringTail v).fetch k

def execSqtailDoorbell (link q value : Nat) (s : State) : Host.Outcome State Fault Refusal :=
  if q < 64 then .next (s.hostAccess link fun st => st.sqtail link q value) else .next s

/-- Entries that a HEAD doorbell says are consumed: where the ring was full and HEAD is the same again, all of them. -/
def consumed (size used old new : Nat) : Nat :=
  let d := (new + size - old) % size
  if d = 0 ∧ used = size then size else min d used

/-- CQHEAD of an enabled pair: an index beyond the ring stops the pair; else the entries up to it are free. -/
def Queue.ringHead (q : Queue) (v : Nat) : Queue :=
  if !q.enable || q.error then q
  else if v % 4096 < q.cqSize then
    { q with cqHead := v % 4096, cqUsed := q.cqUsed - consumed q.cqSize q.cqUsed q.cqHead (v % 4096) }
  else q.stop 3

/-- CQHEAD of a link. -/
def State.cqhead (s : State) (k q v : Nat) : State := (s.updQueue k q fun x => x.ringHead v).fetch k

def execCqheadDoorbell (link q value : Nat) (s : State) : Host.Outcome State Fault Refusal :=
  if q < 64 then .next (s.hostAccess link fun st => st.cqhead link q value) else .next s

/-- EQHEAD: the entries up to it are free; an index beyond the ring is ignored. -/
def Hub.eqRing (h : Hub) (v : Nat) : Hub :=
  if h.eqEnable && decide (v % 4096 < 2 ^ h.eqLog) then
    { h with eqHead := v % 4096, eqUsed := h.eqUsed - consumed (2 ^ h.eqLog) h.eqUsed h.eqHead (v % 4096) }
  else h

def execEqheadDoorbell (link value : Nat) (s : State) : Host.Outcome State Fault Refusal :=
  .next (s.hostAccess link fun st => st.updHub link fun h => h.eqRing value)

/-! ## Configuration (R332) -/

/-- A ring size that is allowed. -/
def sizeOk (log : Nat) : Bool := decide (4 ≤ log) && decide (log ≤ 12)

/-- VECTOR as a QCFG write leaves it: a number above 63 is none. -/
def vectorOf (old v : Nat) : Nat := if bitsOf v 6 0 ≤ 63 then bitsOf v 6 0 else old

/-- A pair whose rings start anew as ENABLE is set. -/
def Queue.begin_ (q : Queue) (session : Nat) : Queue :=
  { q with
    enable := true, closing := false, tail := 0, cqHead := 0, sqHead := 0, inflight := 0, cqTail := 0, phase := false, toFetch := 0
    session := session, number := 0, ones := [], cqUsed := 0 }

/-- QCFG written (R332). While the pair is enabled its sizes keep; clearing ENABLE stops fetching, and it reads 1 until nothing is in
flight; setting it with a size outside 4 to 12 leaves it 0 and sets ERROR with ERRCODE 1. -/
def Hub.qcfg (h : Hub) (q v : Nat) : Hub :=
  let x := h.queue q
  let y := { x with vector := vectorOf x.vector v }
  if x.enable then
    let z := if v.testBit 31 then y else if x.inflight = 0 then { y with enable := false, closing := false } else { y with closing := true }
    { h with queues := h.queues.set q z }
  else
    let z := { y with cqLog := bitsOf v 19 16, sqLog := bitsOf v 11 8 }
    if v.testBit 31 then
      if sizeOk z.cqLog && sizeOk z.sqLog then
        { h with queues := h.queues.set q (z.begin_ (h.sessions + 1)), sessions := h.sessions + 1 }
      else { h with queues := h.queues.set q (z.stop 1) }
    else { h with queues := h.queues.set q z }

def execQcfgWrite (link q value : Nat) (s : State) : Host.Outcome State Fault Refusal :=
  if q < 64 then .next (s.hostAccess link fun st => st.updHub link fun h => h.qcfg q value) else .next s

/-- EQCFG written (R332). -/
def Hub.eqcfg (h : Hub) (v : Nat) : Hub :=
  if h.eqEnable then { h with eqEnable := v.testBit 31 }
  else
    let y := { h with eqLog := bitsOf v 11 8 }
    if v.testBit 31 && sizeOk y.eqLog then { y with eqEnable := true, eqTail := 0, eqHead := 0, eqPhase := false, eqUsed := 0 } else y

def execEqcfgWrite (link value : Nat) (s : State) : Host.Outcome State Fault Refusal :=
  .next (s.hostAccess link fun st => st.updHub link fun h => h.eqcfg value)

/-! ## Register writes (R56, R328, R332) -/

/-- The bits of the bytes that a write covers. -/
def byteMask (be : Nat) : Nat := ((List.range 4).filter fun i => be.testBit i).foldl (fun m i => m + 255 * 2 ^ (8 * i)) 0

/-- A value with the bytes that a write covers replaced. -/
def mergeBytes (old v be : Nat) : Nat := old - (old &&& byteMask be) + (v &&& byteMask be) % 2 ^ 32

/-- A queue, event-ring or BAR2 register of a hub block (R328). -/
def isLinkReg (o : Nat) : Bool := o == 0x40 || (decide (0x800 ≤ o) && decide (o < 0x814)) || (decide (0x1000 ≤ o) && decide (o < 0x1800))

/-- HUB.QCFG of a pair. -/
def Queue.cfgReg (q : Queue) : Nat := bit1 q.enable * 2 ^ 31 + q.cqLog * 2 ^ 16 + q.sqLog * 2 ^ 8 + q.vector

/-- A base register of a ring: `_0` holds [31:12], `_1` the upper half. -/
def putBase (old : Nat) (high : Bool) (v be : Nat) : Nat :=
  if high then old % 2 ^ 32 + mergeBytes (old / 2 ^ 32) v be * 2 ^ 32
  else mergeBytes (old % 2 ^ 32) v be / 4096 * 4096 + old / 2 ^ 32 * 2 ^ 32

/-- A queue, event-ring or BAR2 register written (R332). -/
def State.writeLinkReg (s : State) (k o v be : Nat) : State :=
  let h := s.hub k
  if o = 0x40 then s.updHub k fun h => { h with bar2Base := mergeBytes h.bar2Base v be % 2 ^ 28 }
  else if o = 0x800 ∨ o = 0x804 then
    if h.eqEnable then s else s.updHub k fun h => { h with eqBase := putBase h.eqBase (o == 0x804) v be }
  else if o = 0x808 then s.updHub k fun h => h.eqcfg (mergeBytes (bit1 h.eqEnable * 2 ^ 31 + h.eqLog * 2 ^ 8) v be)
  else if o = 0x80C then s.updHub k fun h => h.eqRing (mergeBytes 0 v be)
  else if 0x1000 ≤ o ∧ o < 0x1800 then
    let q := (o - 0x1000) / 32
    let x := h.queue q
    let r := o % 32
    if r = 0 ∨ r = 4 then (if x.enable then s else s.updQueue k q fun y => { y with sqBase := putBase y.sqBase (r == 4) v be })
    else if r = 8 ∨ r = 0xC then (if x.enable then s else s.updQueue k q fun y => { y with cqBase := putBase y.cqBase (r == 0xC) v be })
    else if r = 0x10 then s.updHub k fun h => h.qcfg q (mergeBytes x.cfgReg v be)
    else if r = 0x14 then s.sqtail k q (mergeBytes 0 v be)
    else if r = 0x18 then s.cqhead k q (mergeBytes 0 v be)
    else if r = 0x1C then
      s.updQueue k q fun y => { y with error := y.error && !((v &&& byteMask be).testBit 31) }
    else s
  else s

/-- The Scarab engine's writes to a hub block that had reached the hub before the frame that runs, applied in their order (R311). -/
def State.applyHubWrites (s : State) (k : Nat) : State :=
  let old := fun (w : Nat × Nat × Nat) => decide (w.1 < (s.hub k).frame)
  ((s.hub k).outs.filter old).foldl (fun st w => st.writeLinkReg k w.2.1 w.2.2 15)
    (s.updHub k fun h => { h with outs := h.outs.filter fun w => !old w })

/-! ## Commands on their way in (R333, R334) -/

/-- A record that has arrived takes its number; a command that produces one completion only is known from here. -/
def Queue.arrive (q : Queue) (op : Nat) : Queue :=
  { q with toFetch := q.toFetch - 1, ones := if interimOps.contains op then q.ones else (q.number + 1 - q.toFetch) :: q.ones }

/-- The arrival cycle of a command: no earlier than that of the last one of its queue pair, whose commands keep their ring order (R334). -/
def HostSide.cycleAfter (h : HostSide) (k q mc : Nat) : Nat :=
  h.intake.foldl (init := mc) fun n a => match a.2.src with | .host l p _ _ => if l = k ∧ p = q then max n a.1 else n | _ => n

/-- COMMAND_RECORD_ARRIVAL: a fetched record, with the host data it names, reaches the manager in manager cycle `mc`; `none` is a host
fault on the ring read, which stops the pair. -/
def execCommandRecordArrival (link q : Nat) (c : Option Cmd) (mc : Nat) (s : State) : Host.Outcome State Fault Refusal :=
  let x := (s.hub link).queue q
  if s.fit.sleds ≤ link ∨ 64 ≤ q ∨ !(s.hub link).linkUp ∨ x.toFetch = 0 then .next s
  else match c with
    | none =>
      .next <| s.updQueue link q fun y => { y with toFetch := y.toFetch - 1, inflight := y.inflight - 1 }.stop 2
    | some c =>
      let src := Source.host link q x.session (x.number + 1 - x.toFetch)
      .next <| (s.updQueue link q fun y => y.arrive c.op).updHost fun h =>
        { h with intake := h.intake ++ [(h.cycleAfter link q mc, { c with src := src })] }

/-! ## Completions and events on their way out (R335 to R338) -/

/-- A message on a vector, at most one a frame (R335). -/
def State.message (s : State) (k v : Nat) : State :=
  if (s.hub k).msiSent.contains v then s else (s.updHub k fun h => { h with msiSent := v :: h.msiSent }).emit (.msi k v)

/-- The bytes of a completion record (Table 14.7). -/
def completionBytes (c : Completion) (sqHead q : Nat) (phase : Bool) : List Byte :=
  leBytes 4 c.cmd.tag ++ leBytes 2 sqHead ++ leBytes 1 q ++ leBytes 1 (bit1 phase + 2 * bit1 c.interim) ++ leBytes 1 c.status ++
    leBytes 1 0 ++ leBytes 2 c.cmd.op ++ leBytes 4 (c.frame % 2 ^ 32) ++ resultBytes c.result

/-- A queue pair after a completion of the command numbered `n` was written: after its final one nothing of it is in flight, and a pair
being disabled ends when nothing is. -/
def Queue.written (q : Queue) (interim : Bool) (n : Nat) : Queue :=
  let y := { q with
    cqTail := (q.cqTail + 1) % q.cqSize, phase := if q.cqTail + 1 = q.cqSize then !q.phase else q.phase, cqUsed := q.cqUsed + 1 }
  if interim then { y with ones := n :: y.ones }
  else
    let z := { y with inflight := y.inflight - 1, ones := y.ones.filter fun m => m != n }
    if z.closing && z.inflight == 0 then { z with enable := false, closing := false } else z

/-- One completion written to its ring, with its message; discarded and counted in LOSTCPL where its link is down or has gone down since
the command was fetched (R338). The first pass of a ring writes PHASE 1. -/
def State.writeCompletion (s : State) (k : Nat) (c : Completion) : State :=
  match c.cmd.src with
  | .host _ q session n =>
    let x := (s.hub k).queue q
    if (s.hub k).linkUp && x.enable && x.session == session then
      let addr := x.cqBase + 32 * x.cqTail
      (((s.emit (.hostWrite k addr (completionBytes c (n % x.sqSize) q !x.phase))).updQueue k q fun y => y.written c.interim n).message
        k x.vector).fetch k
    else s.updHub k fun h => { h with lostCpl := satInc 0xFF h.lostCpl }
  | _ => s

/-- COMPLETION_WRITE: the hub writes the completion that has waited longest of those that had reached it at its last boundary (R335). -/
def execCompletionWrite (link : Nat) (s : State) : Host.Outcome State Fault Refusal :=
  match (s.hub link).cpls, (s.hub link).cplDue with
  | c :: rest, n + 1 => .next <| (s.updHub link fun h => { h with cpls := rest, cplDue := n }).writeCompletion link c
  | _, _ => .next s

/-- The bytes of an event record (Tables 14.8 and 15.4). -/
def eventBytes (e : EventRec) (seq : Nat) (phase : Bool) : List Byte :=
  leBytes 2 e.code ++ leBytes 2 e.epoch ++ leBytes 3 seq ++ leBytes 1 (bit1 phase) ++ leBytes 8 e.time ++ e.payload

/-- One event at its hub (R337): counted in SEQ; written where the ring is enabled and has room, lost and counted where it is full. -/
def State.writeEvent (s : State) (k : Nat) (e : EventRec) : State :=
  let h := s.hub k
  let s1 := s.updHub k fun x => { x with seq := (x.seq + 1) % 2 ^ 24 }
  if !h.linkUp then s1.updHub k fun x => { x with lostCpl := satInc 0xFF x.lostCpl }
  else if !h.eqEnable then s1
  else if 2 ^ h.eqLog ≤ h.eqUsed then s1.updHub k fun x => { x with eqLost := satInc 0xFFFF x.eqLost }
  else
    ((s1.emit (.hostWrite k (h.eqBase + 32 * h.eqTail) (eventBytes e h.seq !h.eqPhase))).updHub k fun x =>
      { x with
        eqTail := (x.eqTail + 1) % 2 ^ x.eqLog, eqUsed := x.eqUsed + 1
        eqPhase := if x.eqTail + 1 = 2 ^ x.eqLog then !x.eqPhase else x.eqPhase }).message k 64

/-- EVENT_RECORD_WRITE: the hub takes the next event in the order of R367, of those that had reached it at its last boundary (R337). -/
def execEventRecordWrite (link : Nat) (s : State) : Host.Outcome State Fault Refusal :=
  match (s.hub link).evq, (s.hub link).evDue with
  | e :: rest, n + 1 => .next <| (s.updHub link fun h => { h with evq := rest, evDue := n }).writeEvent link e
  | _, _ => .next s

/-! ## The link itself (R327, R332, R338) -/

/-- LINK_UP: the link has trained in Flit mode at a rate and a width; what the path had latched is gone (R43). -/
def execLinkUp (link gts width : Nat) (s : State) : Host.Outcome State Fault Refusal :=
  if s.fit.sleds ≤ link ∨ s.mgr.mode = .off ∨ (s.hub link).linkUp then .next s
  else
    .next <| (s.updHub link fun h => { h with linkUp := true, gts := gts % 256, width := width % 256 }).updHost fun h =>
      { h with latches := h.latches.filter fun l => !(l.path == Path.host link) }

/-- LINK_DOWN: every queue pair and the event ring of the link return to their reset values; SEQ keeps counting. -/
def execLinkDown (link : Nat) (s : State) : Host.Outcome State Fault Refusal :=
  if s.fit.sleds ≤ link ∨ !(s.hub link).linkUp then .next s
  else
    .next <| s.updHub link fun h =>
      { h with
        linkUp := false, gts := 0, width := 0, queues := Tab.empty, eqBase := 0, eqEnable := false, eqLog := 0, eqHead := 0, eqLost := 0
        eqTail := 0, eqPhase := false, eqUsed := 0 }

end Sys2Proof.Machine
end

