-- ==== Sys2Proof/Machine/Flags.lean ====
section
/-! DEFINITION. Decisions and counters that many commands share: how a command is checked and refused (R339, R340), who plays which
role of the active image, and the counters a fault raises. -/

namespace Sys2Proof.Machine

/-! ## Refusals of commands -/

/-- The states in which no command is decided (Table 3.4). -/
def MState.deaf : MState → Bool
  | .off => true | .bringUp => true | _ => false

/-- The refusal of a command whose governing rule accepts it in the states `ok` (Table 3.4, R340). -/
def stateRefusal (m : MState) (ok : List MState) : Option Nat :=
  if ok.contains m then none
  else match m with
    | .doze => some stBusy
    | .hold => some stBusy
    | .passage => if ok.contains .loaded then some stBusy else some stWrongState
    | _ => some stWrongState

/-- The status of the first check that fails. -/
def firstFail : List (Bool × Nat) → Option Nat
  | [] => none
  | (good, st) :: rest => if good then firstFail rest else some st

/-- The refusal of a command (R339): opcode, reserved bits and operand ranges; host data; the state; the governing rule's checks in
its order. -/
def State.refusal (s : State) (c : Cmd) (op : Nat) (ranges data : Bool) (ok : List MState) (checks : List (Bool × Nat)) :
    Option Nat :=
  if !(c.op == op && c.fixedOk && ranges) then some stBadCommand
  else if !data then some stHostFault
  else match stateRefusal s.mgr.mode ok with
    | some st => some st
    | none => firstFail checks

/-- A command decided: nothing where no command is decided, its refusal, or its effect. -/
def State.decideCmd (s : State) (c : Cmd) (op : Nat) (ranges data : Bool) (ok : List MState) (checks : List (Bool × Nat))
    (eff : State → State) : State :=
  if s.mgr.mode.deaf then s
  else match s.refusal c op ranges data ok checks with
    | some st => s.final c st
    | none => eff s

/-- The states of Table 3.4 that accept commands. -/
def everyState : List MState := [.quiescent, .loaded, .running, .passage, .doze, .hold, .limp, .service]

/-! ## Who plays which role of the active image -/

/-- The binding of a logical core of a worker in the active image (R90). -/
def State.bindOf (s : State) (w l : Nat) : Option BindDef :=
  match s.img.active with
  | none => none
  | some i => i.binds.find? fun b => b.w == s.roleOf w && b.core == l

/-- The schedule of a logical core in the active bank of a worker's image region (R129): the active image's, or, in a bank to which a stash
has been copied, the stash's (R224, R225). -/
def State.bankBind (s : State) (w l : Nat) : Option BindDef :=
  let ids := (s.worker w).bankIds
  let id := if (s.worker w).bank1 then ids.2 else ids.1
  if s.img.active.any fun i => i.id == id then s.bindOf w l
  else
    ((s.hub (sledOf w)).stash.find? fun p => p.id == id && p.w == s.roleOf w).bind fun p => p.binds.find? fun b => b.core == l

/-- The job group of a logical core of a worker. -/
def State.coreGroup (s : State) (w l : Nat) : Option Nat := (s.bindOf w l).map (·.gid)

/-- A group of an image. -/
def Image.group (i : Image) (g : Nat) : Option GroupDef := i.groups.find? fun d => d.gid == g

/-- A group of the active image. -/
def State.groupDef (s : State) (g : Nat) : Option GroupDef := s.img.active.bind fun i => i.group g

/-- The stride S of a group, in frames. -/
def GroupDef.stride (d : GroupDef) : Nat := 2 ^ d.log2

/-- The stride of a group of the active image; 8 where there is none. -/
def State.strideOf (s : State) (g : Nat) : Nat := match s.groupDef g with | some d => d.stride | none => 8

/-- The owner of a group of the active image. -/
def State.groupOwner (s : State) (g : Nat) : Nat := match s.groupDef g with | some d => d.owner | none => 0

/-- The workers an image binds for a group, each once, in ascending order. -/
def Image.groupWorkers (i : Image) (g : Nat) : List Nat :=
  ((i.binds.filter fun b => b.gid == g).map (·.w)).dedup.mergeSort (· ≤ ·)

/-- The workers that play a group's roles now (R225). -/
def State.participants (s : State) (g : Nat) : List Nat :=
  match s.img.active with | none => [] | some i => (i.groupWorkers g).map s.actorOf

/-- The sleds of a group. -/
def State.groupSleds (s : State) (g : Nat) : List Nat := ((s.participants g).map sledOf).dedup

/-- The groups that have a role on a worker. -/
def State.workerGroups (s : State) (w : Nat) : List Nat :=
  match s.img.active with
  | none => []
  | some i => ((i.binds.filter fun b => b.w == s.roleOf w).map (·.gid)).dedup

/-- The worker that carries the flows of a worker now: the spare, from the boundary at which it takes them (Table 9.7). -/
def State.flowActor (s : State) (w : Nat) : Nat := match (s.worker w).flowsTo with | some z => z | none => s.actorOf w

/-- The worker and port at an L-port: the ones found there for a SWAPPED pair that is adopted (R222), else those of the plan (R20). -/
def State.endOf (s : State) (q : Nat) : Nat × Nat :=
  let x := s.lport q
  if x.adopted && x.result == 2 && x.txFound != 1023 then (s.fit.workerAt (x.txFound % 256), x.txFound / 256)
  else s.fit.lportOwner q

/-- The groups that have a flow on a board link of a worker (R87). -/
def State.linkGroups (s : State) (w j : Nat) : List Nat :=
  match s.img.active with
  | none => []
  | some i =>
    ((i.flows.filter fun f =>
        let peer := (s.fit.linkPeer f.w f.link).1
        s.flowActor f.w == w && s.fit.linkTo w (siteOf (s.flowActor peer)) == j).map (·.gid)).dedup

/-- The groups a circuit serves: those with a role on both its workers, or, where none has, those of its sender (an entry of
CIRCUITS, R88, names no group). -/
def State.circGroups (s : State) (c : Nat) : List Nat :=
  let tx := s.workerGroups (s.endOf (s.circ c).src).1
  let both := tx.filter fun g => (s.workerGroups (s.endOf (s.circ c).dst).1).contains g
  if both.isEmpty then tx else both

/-- A circuit is one of a job group's: both its workers play roles of the group (R47). -/
def State.groupCircuit (s : State) (g c : Nat) : Bool :=
  (s.workerGroups (s.endOf (s.circ c).src).1).contains g && (s.workerGroups (s.endOf (s.circ c).dst).1).contains g

/-- The schedule of the logical core that is bound to a physical core stands in its program area, and its sequencer is at the start of the
program (R111, R129). -/
def State.loadProgram (s : State) (w n : Nat) : State :=
  match ((s.worker w).logicalOf n).bind (s.bankBind w) with
  | some b => s.updCore w n fun x => { x with prog := b.bytes, pos := 0 }
  | none => s

/-- The program areas of a worker's cores, of those in the clusters that `mask` names by their domains (Table 3.10, Table 4.8). -/
def State.loadPrograms (s : State) (w mask : Nat) : State :=
  s.forEach ((List.range 50).filter fun n => mask.testBit (clusterOf n)) fun st n => st.loadProgram w n

/-- The job step of a group on a sled (R112). -/
def State.jobStep (s : State) (g sled : Nat) : Nat :=
  match (s.group g).running with
  | some j => (s.hub sled).step - j.stepAt
  | none => 0

/-- A group runs a job, or is stopped and waits for its rollback (R366). -/
def State.groupRuns (s : State) (g : Nat) : Bool := (s.group g).running.isSome

/-- Groups with a running job. -/
def State.runningGroups (s : State) : List Nat := (List.range 32).filter s.groupRuns

/-- Groups with a running or a queued job. -/
def State.busyGroups (s : State) : List Nat := (List.range 32).filter fun g => s.groupRuns g || !(s.group g).queue.isEmpty

/-! ## The local side of a stop (R356) -/

/-- A worker of a sled sees a stop trigger: from the sled's next boundary the group starts no further step there. -/
def State.localTrigger (s : State) (sled g reason : Nat) : State :=
  if s.groupRuns g then
    s.updGroup g fun x =>
      { x with
        jr := none
        sledsStopped := if x.sledsStopped.contains sled then x.sledsStopped else x.sledsStopped ++ [sled]
        reason := if x.stopped || !x.sledsStopped.isEmpty then x.reason else reason }
  else s

/-- Several groups see a trigger on one sled. -/
def State.localTriggers (s : State) (sled : Nat) (gs : List Nat) (reason : Nat) : State :=
  s.forEach gs fun st g => st.localTrigger sled g reason

end Sys2Proof.Machine
end

