-- ==== Sys2Proof/Machine/Formats.lean ====
section
/-! DEFINITION. Number formats and arithmetic (chapter 6): exact values, one rounding, and the outcomes at the limits. A finite
value is held exactly, as a multiple of 2^-300, which every format and every product of two of them is. -/

namespace Sys2Proof.Machine

/-- A value of any format (R132): finite values as sign and magnitude in units of 2^-300. -/
inductive Fv where
  | nan
  | inf (neg : Bool)
  | fin (neg : Bool) (mag : Nat)
  deriving DecidableEq, Repr

/-- A binary float format: mantissa bits, bias, code of the largest finite magnitude, code of infinity where there is one, code of
the canonical NaN, and the width. -/
structure FloatFmt where
  man    : Nat
  bias   : Nat
  maxFin : Nat
  inf    : Option Nat
  nan    : Nat
  width  : Nat
  deriving DecidableEq, Repr

def fmtE4M3 : FloatFmt := { man := 3, bias := 7, maxFin := 0x7E, inf := none, nan := 0x7F, width := 8 }
def fmtE5M2 : FloatFmt := { man := 2, bias := 15, maxFin := 0x7B, inf := some 0x7C, nan := 0x7E, width := 8 }
def fmtBF16 : FloatFmt := { man := 7, bias := 127, maxFin := 0x7F7F, inf := some 0x7F80, nan := 0x7FC0, width := 16 }
def fmtF32 : FloatFmt := { man := 23, bias := 127, maxFin := 0x7F7FFFFF, inf := some 0x7F800000, nan := 0x7FC00000, width := 32 }

/-- The value of a float's bits (R132): an exponent field of zero is a subnormal. -/
def FloatFmt.decode (f : FloatFmt) (bits : Nat) : Fv :=
  let neg := bits.testBit (f.width - 1)
  let code := bits % 2 ^ (f.width - 1)
  if f.inf = some code then .inf neg
  else if f.maxFin < code then .nan
  else
    let e := code / 2 ^ f.man
    let m := code % 2 ^ f.man
    if e = 0 then .fin neg (m * 2 ^ (301 - f.bias - f.man))
    else .fin neg ((2 ^ f.man + m) * 2 ^ (300 + e - f.bias - f.man))

/-- `x / 2^k`, rounded to nearest, ties to even. -/
def roundShift (x k : Nat) : Nat :=
  let q := x / 2 ^ k
  let r := x % 2 ^ k
  if 2 * r < 2 ^ k then q else if 2 ^ k < 2 * r then q + 1 else if q % 2 = 0 then q else q + 1

/-- The magnitude code that `mag` (in units of 2^-sc) rounds to in one step, the exponent range taken as unbounded (R141). -/
def FloatFmt.roundCode (f : FloatFmt) (sc mag : Nat) : Nat :=
  let qs := sc + 1 - f.bias - f.man
  let u := max qs (Nat.log2 mag - f.man)
  if mag = 0 then 0 else (u - qs) * 2 ^ f.man + roundShift mag u

/-- The bits of a sign and a magnitude code. -/
def FloatFmt.bits (f : FloatFmt) (neg : Bool) (code : Nat) : Nat := code + bit1 neg * 2 ^ (f.width - 1)

/-- A conversion's outcome (R141, R145): the bits, and whether it counts under SATS or NANS. -/
structure Conv where
  bits : Nat
  sat  : Bool
  nan  : Bool
  deriving DecidableEq, Repr

/-- Conversion of a value to a float format (Table 6.2): beyond the largest finite value the result is that value; an infinity
meets the format's own infinity, or the largest value where there is none. -/
def FloatFmt.convert (f : FloatFmt) (v : Fv) : Conv :=
  match v with
  | .nan => { bits := f.nan, sat := false, nan := false }
  | .inf neg =>
    match f.inf with
    | some i => { bits := f.bits neg i, sat := false, nan := false }
    | none => { bits := f.bits neg f.maxFin, sat := true, nan := false }
  | .fin neg mag =>
    let c := f.roundCode 300 mag
    if f.maxFin < c then { bits := f.bits neg f.maxFin, sat := true, nan := false }
    else { bits := f.bits neg c, sat := false, nan := false }

/-- A magnitude in units of 2^-300 rounded to an integer, ties to even. -/
def roundInt (neg : Bool) (mag : Nat) : Int := if neg then -(roundShift mag 300 : Int) else roundShift mag 300

/-- An integer clamped to a range. -/
def clampInt (lo hi z : Int) : Int := max lo (min hi z)

/-- Conversion of a value to a two's complement format of `w` bits (Table 6.2). -/
def convertInt (w : Nat) (v : Fv) : Conv :=
  let hi : Int := 2 ^ (w - 1) - 1
  let lo : Int := -(2 ^ (w - 1))
  match v with
  | .nan => { bits := 0, sat := false, nan := true }
  | .inf neg => { bits := toBits w (if neg then lo else hi), sat := true, nan := false }
  | .fin neg mag =>
    let z := roundInt neg mag
    { bits := toBits w (clampInt lo hi z), sat := !(decide (lo ≤ z) && decide (z ≤ hi)), nan := false }

/-- The value of an integer. -/
def ofInt (z : Int) : Fv := .fin (decide (z < 0)) (z.natAbs * 2 ^ 300)

/-- Width in bits of an element of a format code (Table 6.1). -/
def fmtWidth (f : Nat) : Nat := match f with | 0 => 4 | 1 => 8 | 2 => 8 | 3 => 8 | 4 => 16 | 5 => 4 | _ => 32

/-- The float format of a code, for the float codes. -/
def floatOf (f : Nat) : Option FloatFmt :=
  match f with | 2 => some fmtE4M3 | 3 => some fmtE5M2 | 4 => some fmtBF16 | 7 => some fmtF32 | _ => none

/-- The value of an element's bits in a format (codes 0 to 4, 6, 7; a Q4B element as I4). -/
def decodeFmt (f bits : Nat) : Fv :=
  match floatOf f with
  | some ff => ff.decode bits
  | none => ofInt (toSigned (fmtWidth f) bits)

/-- Conversion of a value to a format (codes 0 to 4, 6, 7). -/
def convertFmt (f : Nat) (v : Fv) : Conv :=
  match floatOf f with
  | some ff => ff.convert v
  | none => convertInt (fmtWidth f) v

/-- The value of a lane: I32 for format 6, F32 for 7. -/
def laneVal (f : Nat) (x : Word) : Fv := decodeFmt f x.toNat

/-- The canonical NaN of F32 (R139). -/
def nan32 : Word := 0x7FC00000

/-- A finite exact value, signed, in units of 2^-300. -/
def signedMag (neg : Bool) (mag : Nat) : Int := if neg then -(mag : Int) else mag

/-- A finite value rounded once to F32 (R138): beyond the range it is an infinity. -/
def f32OfMag (neg : Bool) (mag : Nat) : Word :=
  let c := fmtF32.roundCode 300 mag
  BitVec.ofNat 32 (fmtF32.bits neg (if fmtF32.maxFin < c then 0x7F800000 else c))

/-- A value rounded once to F32 (R138, R139). -/
def f32Of (v : Fv) : Word :=
  match v with
  | .nan => nan32
  | .inf neg => BitVec.ofNat 32 (fmtF32.bits neg 0x7F800000)
  | .fin neg mag => f32OfMag neg mag

/-- An exact signed sum as a value; an exact zero is +0 (R138). -/
def ofExact (z : Int) : Fv := .fin (decide (z < 0)) z.natAbs

/-- Exact addition with the rules of IEEE 754 for special values and signed zeros. -/
def Fv.add (a b : Fv) : Fv :=
  match a, b with
  | .nan, _ => .nan
  | _, .nan => .nan
  | .inf x, .inf y => if x = y then .inf x else .nan
  | .inf x, _ => .inf x
  | _, .inf y => .inf y
  | .fin x m, .fin y n =>
    let z := signedMag x m + signedMag y n
    if z = 0 then .fin (x && y) 0 else ofExact z

/-- A value with its sign changed. -/
def Fv.neg : Fv → Fv
  | .nan => .nan
  | .inf x => .inf !x
  | .fin x m => .fin (!x) m

/-- Exact multiplication of two decoded values (R138, R139). -/
def Fv.mul (a b : Fv) : Fv :=
  match a, b with
  | .nan, _ => .nan
  | _, .nan => .nan
  | .inf x, .inf y => .inf (x != y)
  | .inf x, .fin y n => if n = 0 then .nan else .inf (x != y)
  | .fin x m, .inf y => if m = 0 then .nan else .inf (x != y)
  | .fin x m, .fin y n => .fin (x != y) (m * n / 2 ^ 300)

/-- F32 addition, subtraction, multiplication and fused multiply-add of lanes, one rounding each (R144). -/
def f32Add (a b : Word) : Word := f32Of ((laneVal 7 a).add (laneVal 7 b))
def f32Sub (a b : Word) : Word := f32Of ((laneVal 7 a).add (laneVal 7 b).neg)
def f32Mul (a b : Word) : Word := f32Of ((laneVal 7 a).mul (laneVal 7 b))
def f32Fma (a b c : Word) : Word := f32Of (((laneVal 7 a).mul (laneVal 7 b)).add (laneVal 7 c))

/-- The order of two values that are not NaN, as a number: magnitudes with sign; infinities beyond every finite value. -/
def Fv.rank : Fv → Int
  | .nan => 0
  | .inf neg => if neg then -(2 ^ 600) else 2 ^ 600
  | .fin neg mag => signedMag neg mag

/-- VMAX of two F32 lanes (R144): a NaN gives the canonical NaN; VMAX(+0, -0) is +0. -/
def f32Max (a b : Word) : Word :=
  match laneVal 7 a, laneVal 7 b with
  | .nan, _ => nan32
  | _, .nan => nan32
  | x, y => if x.rank < y.rank then b else if y.rank < x.rank then a else a &&& b

/-- VMIN of two F32 lanes (R144): VMIN(+0, -0) is -0. -/
def f32Min (a b : Word) : Word :=
  match laneVal 7 a, laneVal 7 b with
  | .nan, _ => nan32
  | _, .nan => nan32
  | x, y => if x.rank < y.rank then a else if y.rank < x.rank then b else a ||| b

/-- VCMPGT of two F32 lanes (R144): a comparison involving NaN gives 0. -/
def f32Gt (a b : Word) : Bool :=
  match laneVal 7 a, laneVal 7 b with
  | .nan, _ => false
  | _, .nan => false
  | x, y => decide (y.rank < x.rank)

/-- The pairwise sum of a list (R119): lanes 2n and 2n + 1 first, then the results in pairs, upward. -/
def pairwise {α : Type} (op : α → α → α) : List α → List α
  | a :: b :: rest => op a b :: pairwise op rest
  | l => l

/-- The list folded pairwise, `fuel` rounds. -/
def pairwiseAll {α : Type} (op : α → α → α) : Nat → List α → List α
  | 0, l => l
  | fuel + 1, l => pairwiseAll op fuel (pairwise op l)

/-- Six rounds reduce 64 lanes to one. -/
def reduce64 (op : Word → Word → Word) (l : List Word) : Word := (pairwiseAll op 6 l).headD 0

/-! ## Accurate to two units in the last place (R122) -/

/-- A word within two units in the last place of the value rounded to nearest. `code` is the magnitude's code. -/
def nearUlp (op : Nat) (x : Word) (neg : Bool) (code : Nat) : Word :=
  let err := clampInt (-2) 2 (Config.ulpError op x)
  let c := clampInt 0 0x7F800000 ((code : Int) + err)
  BitVec.ofNat 32 (fmtF32.bits neg c.toNat)

/-- 1 / a. -/
def f32Rcp (a : Word) : Word :=
  match laneVal 7 a with
  | .nan => nan32
  | .inf neg => BitVec.ofNat 32 (fmtF32.bits neg 0)
  | .fin neg mag =>
    if mag = 0 then BitVec.ofNat 32 (fmtF32.bits neg 0x7F800000)
    else nearUlp 0x1B a neg (min 0x7F800000 (fmtF32.roundCode 401 (2 ^ 700 / mag * 2 + bit1 (decide (2 ^ 700 % mag ≠ 0)))))

/-- 1 / √a. -/
def f32Rsqrt (a : Word) : Word :=
  match laneVal 7 a with
  | .nan => nan32
  | .inf neg => if neg then nan32 else 0
  | .fin neg mag =>
    if mag = 0 then BitVec.ofNat 32 (fmtF32.bits neg 0x7F800000)
    else if neg then nan32
    else nearUlp 0x1C a false (fmtF32.roundCode 401 (Nat.sqrt (2 ^ 1100 / mag) * 2 + 1))

/-- ln 2 in units of 2^-256. -/
def ln2Fix : Int :=
  80260960185991308862233904206310070533990667611589946606122867505419956976171

/-- e^r in units of 2^-256 for r in the same units, from 0 to ln 2, by its series. -/
def expSeries (r : Int) : Nat → Int → Int → Int
  | 0, _, acc => acc
  | fuel + 1, term, acc =>
    let k : Int := 64 - fuel
    let t := term * r / 2 ^ 256 / k
    expSeries r fuel t (acc + t)

/-- e^x for x in units of 2^-256: a mantissa in units of 2^-256 and a power of two. -/
def expFix (x : Int) : Nat × Int :=
  let k := x / ln2Fix
  let r := x - k * ln2Fix
  ((expSeries r 64 (2 ^ 256) (2 ^ 256)).toNat, k)

/-- The magnitude code nearest to `m × 2^(k - 256)`. -/
def codeOfScaled (m : Nat) (k : Int) : Nat :=
  if k < -200 then 0
  else if 200 < k then 0x7F800000
  else min 0x7F800000 (fmtF32.roundCode 456 (m * 2 ^ (k + 200).toNat))

/-- e^a. -/
def f32Exp (a : Word) : Word :=
  match laneVal 7 a with
  | .nan => nan32
  | .inf neg => if neg then 0 else 0x7F800000
  | .fin neg mag =>
    if 2 ^ 308 ≤ mag then (if neg then 0 else 0x7F800000)
    else
      let (m, k) := expFix (signedMag neg mag / 2 ^ 44)
      nearUlp 0x1A a false (codeOfScaled m k)

/-- tanh a. -/
def f32Tanh (a : Word) : Word :=
  match laneVal 7 a with
  | .nan => nan32
  | .inf neg => BitVec.ofNat 32 (fmtF32.bits neg 0x3F800000)
  | .fin neg mag =>
    if mag = 0 then a
    else if 2 ^ 304 ≤ mag then nearUlp 0x1D a neg 0x3F800000
    else if mag < 2 ^ 288 then
      let cube := mag * mag / 2 ^ 300 * mag / 2 ^ 300
      nearUlp 0x1D a neg (fmtF32.roundCode 300 (mag - cube / 3))
    else
      let (m, k) := expFix ((2 * mag : Int) / 2 ^ 44)
      let e := m * 2 ^ k.toNat
      nearUlp 0x1D a neg (fmtF32.roundCode 456 ((e - 2 ^ 256) * 2 ^ 456 / (e + 2 ^ 256)))

/-! ## Packing (R134) and Q4B blocks (R133, R143) -/

/-- The elements of `w` bits packed in bytes (R134). -/
def unpack (w : Nat) (bytes : List Byte) : List Nat :=
  match w with
  | 4 => bytes.flatMap fun b => [b.toNat % 16, b.toNat / 16]
  | 8 => bytes.map (·.toNat)
  | 16 => (List.range (bytes.length / 2)).map fun i => leNat ((bytes.drop (2 * i)).take 2)
  | _ => (List.range (bytes.length / 4)).map fun i => leNat ((bytes.drop (4 * i)).take 4)

/-- Pairs of 4-bit elements in bytes. -/
def packNibbles : List Nat → List Byte
  | a :: b :: rest => BitVec.ofNat 8 (a % 16 + b % 16 * 16) :: packNibbles rest
  | [a] => [BitVec.ofNat 8 (a % 16)]
  | [] => []

/-- Elements of `w` bits packed from the lowest address (R134). -/
def pack (w : Nat) (xs : List Nat) : List Byte :=
  match w with
  | 4 => packNibbles xs
  | 8 => xs.map fun x => BitVec.ofNat 8 x
  | 16 => xs.flatMap fun x => leBytes 2 x
  | _ => xs.flatMap fun x => leBytes 4 x

/-- The value of a Q4B element under its block exponent (R133). -/
def q4bVal (x elem : Nat) : Fv :=
  if x = 255 then .nan
  else
    let z := toSigned 4 elem
    .fin (decide (z < 0)) (z.natAbs * 2 ^ (300 + x - 127))

/-- A Q4B block of F32 lanes (R143): its exponent byte, and each element's bits with whether it was saturated. -/
def q4bEncode (lanes : List Word) : Nat × List Conv :=
  let vs := lanes.map (laneVal 7)
  let bad := vs.any fun v => match v with | .fin _ _ => false | _ => true
  let m := vs.foldl (fun acc v => match v with | .fin _ mag => max acc mag | _ => acc) 0
  if bad then (255, lanes.map fun _ => { bits := 0, sat := false, nan := false })
  else if m = 0 then (0, lanes.map fun _ => { bits := 0, sat := false, nan := false })
  else
    let x := (clampInt 0 254 ((Nat.log2 m : Int) - 300 + 125)).toNat
    (x, vs.map fun v =>
      match v with
      | .fin neg mag => convertInt 4 (.fin neg (mag * 2 ^ 127 / 2 ^ x))
      | _ => { bits := 0, sat := false, nan := false })

end Sys2Proof.Machine
end

