-- ==== Sys2Proof/Machine/Wire.lean ====
section
/-! DEFINITION. The wire flit (R200 to R202): its 272 bytes, its two Reed-Solomon codewords, and what a receiver decodes from them. -/

namespace Sys2Proof.Machine

/-! ## GF(2^8) and RS(136,132) (R200)

The spec names the code and no field polynomial or roots: x^8 + x^4 + x^3 + x^2 + 1 with the roots α^0 to α^3 are PRESUMED (log entry 104). -/

/-- A field element times α. -/
def rsTimes (a : Nat) : Nat := if a < 128 then 2 * a else 2 * a ^^^ 0x11D

/-- A field element times α^n. -/
def rsShift (n a : Nat) : Nat := n.repeat rsTimes a

/-- The product of field elements, over the low bits of the second. -/
def rsMul : Nat → Nat → Nat → Nat
  | 0, _, _ => 0
  | n + 1, a, b => (if b % 2 = 1 then a else 0) ^^^ (rsMul n (rsTimes a) (b / 2))

/-- One data byte taken into the division by (x + 1)(x + α)(x + α²)(x + α³). -/
def rsStep (r : Nat × Nat × Nat × Nat) (b : Byte) : Nat × Nat × Nat × Nat :=
  let q := r.1 ^^^ b.toNat
  (r.2.1 ^^^ rsMul 8 q 15, r.2.2.1 ^^^ rsMul 8 q 54, r.2.2.2 ^^^ rsMul 8 q 120, rsMul 8 q 64)

/-- The four check bytes of 132 data bytes. -/
def rsCheck (data : List Byte) : List Byte :=
  let r := data.foldl rsStep (0, 0, 0, 0)
  [BitVec.ofNat 8 r.1, BitVec.ofNat 8 r.2.1, BitVec.ofNat 8 r.2.2.1, BitVec.ofNat 8 r.2.2.2]

/-- The value of a codeword, its first byte the highest coefficient, at α^i. -/
def rsSyndrome (i : Nat) (w : List Byte) : Nat := w.foldl (fun acc b => rsShift i acc ^^^ b.toNat) 0

/-- The exponent below a bound at which α^e times `a` is `b`. -/
def rsLog (bound a b : Nat) : Option Nat := (List.range bound).find? fun e => rsShift e a == b

/-- What a decoder finds in a codeword (R202): 0 clean, 1 corrected, 2 detected. -/
def rsDecode (w : List Byte) : Nat × List Byte :=
  let s0 := rsSyndrome 0 w
  let s1 := rsSyndrome 1 w
  let s2 := rsSyndrome 2 w
  let s3 := rsSyndrome 3 w
  if s0 = 0 ∧ s1 = 0 ∧ s2 = 0 ∧ s3 = 0 then (0, w)
  else
    match if s0 = 0 then none else rsLog w.length s0 s1 with
    | none => (2, w)
    | some e =>
      if rsShift e s1 = s2 ∧ rsShift e s2 = s3 then
        let i := w.length - 1 - e
        (1, w.set i (w.getD i 0 ^^^ BitVec.ofNat 8 s0))
      else (2, w)

/-! ## The layout of a flit (Tables 9.1 and 9.2) -/

/-- The header of a flit. -/
def Flit.header (f : Flit) : Nat := f.typ % 16 * 2 ^ 60 + f.id % 4096 * 2 ^ 48 + f.cred % 16 * 2 ^ 44 + f.arg % 2 ^ 40

/-- The bytes of one codeword's data: the even-numbered ones of header and payload, or the odd-numbered. -/
def everyOther : Bool → List Byte → List Byte
  | _, [] => []
  | true, b :: rest => b :: everyOther false rest
  | false, _ :: rest => everyOther true rest

/-- Bytes put back in turn from two codewords. -/
def interleave : List Byte → List Byte → List Byte
  | a :: as, b :: bs => a :: b :: interleave as bs
  | _, _ => []

/-- The 272 bytes of a flit (R200). -/
def Flit.bytes (f : Flit) : List Byte :=
  let body := leBytes 8 f.header ++ f.payload
  body ++ rsCheck (everyOther true body) ++ rsCheck (everyOther false body)

/-- The flit that header and payload bytes spell. -/
def flitOf (b : List Byte) : Flit :=
  let h := fieldLE b 0 8
  { typ := bitsOf h 63 60, id := bitsOf h 59 48, cred := bitsOf h 47 44, arg := bitsOf h 39 0, payload := (b.drop 8).take 256, dark := false }

/-- What a receiver decodes from 272 bytes (R202): 0 clean, 1 corrected, 2 uncorrectable or a reserved TYPE; and the flit. -/
def decodeFlit (b : List Byte) : Nat × Flit :=
  let body := b.take 264
  let even := rsDecode (everyOther true body ++ (b.drop 264).take 4)
  let odd := rsDecode (everyOther false body ++ (b.drop 268).take 4)
  let f := flitOf (interleave (even.2.take 132) (odd.2.take 132))
  let worst := max even.1 odd.1
  (if 5 ≤ f.typ then 2 else worst, f)

/-- Bytes as they arrive: each error changes the byte at its position. -/
def garbled (errs : List (Nat × Byte)) (b : List Byte) : List Byte :=
  errs.foldl (fun l e => l.set e.1 (l.getD e.1 0 ^^^ e.2)) b

/-- What a receiver decodes of a flit that is sent, and the errors that it meets on the way. -/
def Flit.received (f : Flit) (errs : List (Nat × Byte)) : Nat × Flit :=
  if f.dark then (2, f) else decodeFlit (garbled errs f.bytes)

/-! ## Flits that carry no data (Table 9.3) -/

/-- A flit without payload. -/
def plainFlit (typ id arg : Nat) : Flit := { typ := typ, id := id, cred := 0, arg := arg, payload := List.replicate 256 0, dark := false }

/-- The IDLE flit. -/
def idleFlit : Flit := plainFlit 0 0 0

/-- The token flit of a barrier. -/
def tokenFlit (g b : Nat) : Flit := plainFlit 2 g (b % 2 ^ 24)

/-- The MARKER of a circuit's ranging sample. -/
def markerFlit (c n : Nat) : Flit := plainFlit 3 c (n % 2 ^ 16)

/-- The BEACON of a worker port: worker index and port (R20). -/
def beaconFlit (k p : Nat) : Flit := plainFlit 4 0 (k % 256 + p % 4 * 256)

/-- The BEACON that a sniffer transmitter sends to an L-port. -/
def snifferFlit (q : Nat) : Flit := plainFlit 4 0 (q % 1024 + 2 ^ 39)

/-- A DATA flit (R201): only the offset of its destination goes with it. -/
def dataFlit (id arg : Nat) (payload : List Byte) (dark : Bool) : Flit :=
  { typ := 1, id := id, cred := 0, arg := arg, payload := payload, dark := dark }

/-- The flit put on the wire of a board link, with as many of the credits owed as CRED holds (R201). -/
def Link.send (x : Link) (f : Flit) : Link :=
  let n := min 15 x.owed
  { x with owed := x.owed - n, wire := x.wire ++ [{ f with cred := n }] }

end Sys2Proof.Machine
end

