-- ==== Sys2Proof/Machine/Operands.lean ====
section
/-! DEFINITION. Operand forms of the Stag cores (chapter 5): addresses from address registers, core-store and register operands, what a
read finds before it is written, and what an operation has still to deliver. -/

namespace Sys2Proof.Machine

/-- Operand address: the offset is added to the machine address's offset field (R113). -/
def StagCore.operand (x : StagCore) (ar ofs : Nat) : Nat :=
  let a := x.areg.get 0 ar
  a / 2 ^ 52 * 2 ^ 52 + (addrOffset a + ofs) % 2 ^ 52

/-- Logical core and byte of a space-2 address; `none` where it names no store (R110). -/
def storePlace (a : Nat) : Option (Nat × Nat) :=
  let off := addrOffset a
  if addrSpace a = 2 ∧ bitsOf off 51 28 = 0 ∧ bitsOf off 27 22 < 48 then some (bitsOf off 27 22, bitsOf off 21 0) else none

/-- The data area of a core store. -/
def dataBase : Nat := 0x100000

/-- The byte of the own core store at which an operand of `len` bytes lies: it names the issuing worker and logical core, lies in
the data area and is aligned to 64 B (R110). -/
def State.ownStore (s : State) (w l a len : Nat) : Option Nat :=
  match storePlace a with
  | none => none
  | some (c, b) =>
    if c = l ∧ (addrWorker a = w ∨ addrWorker a = s.roleOf w) ∧ b % 64 = 0 ∧ dataBase ≤ b ∧ b + len ≤ 0x400000 then some b
    else none

/-- Line `i` of a tier operand on the core's own worker; `none` where it names no location of the tier (R16). A spare that plays a role
reads its own tiers by the offset (R225). -/
def State.ownLine (s : State) (w a i : Nat) : Option Nat :=
  let space := addrSpace a
  let off := addrOffset a + 64 * i
  if (addrWorker a = w ∨ addrWorker a = s.roleOf w) ∧ space < 2 ∧ s.tierPresent (machineAddr space w off) ∧ off % 64 = 0 ∧
      off < tierSize space then some (machineAddr space w off)
  else none

/-- The frame programs of a group may read a page (R167): it is the group's owner's or owner 0's. -/
def State.mayRead (s : State) (g a : Nat) : Bool :=
  let o := s.pageOwner (addrWorker a) (addrSpace a) (addrOffset a)
  o == 0 || o == s.groupOwner g

/-- The frame programs of a group may write a page (R167): it is the group's owner's. -/
def State.mayWrite (s : State) (g a : Nat) : Bool := s.pageOwner (addrWorker a) (addrSpace a) (addrOffset a) == s.groupOwner g

/-- An undefined word (R125): before the first stride of a core every register holds its reset value, zero. -/
def StagCore.undef (x : StagCore) (kind place : Nat) : Word := if x.epoch = 0 then 0 else Config.freeWord x.epoch kind place

/-- A byte of the core store as it stands. -/
def StagCore.byte (x : StagCore) (a : Nat) : Byte :=
  match x.store.get? a with
  | some v => BitVec.ofNat 8 v
  | none => if x.epoch = 0 then 0 else Config.freeByte x.epoch a

/-- A register of the vector unit. -/
def StagCore.reg (x : StagCore) (r : Nat) : List Word :=
  match x.vreg.get? r with
  | some l => l
  | none => (List.range 64).map fun k => x.undef 2 (r * 64 + k)

/-- A row of the accumulator store. -/
def StagCore.row (x : StagCore) (r : Nat) : AccRow :=
  match x.acc.get? r with
  | some a => a
  | none => { lanes := (List.range 64).map fun k => x.undef 1 (r * 65 + k), chk := x.undef 1 (r * 65 + 64) }

/-- A byte of a weight buffer. -/
def StagCore.weightByte (x : StagCore) (b : WBuf) (i : Nat) : Byte := b.bytes.getD i ((x.undef 3 i).setWidth 8)

/-- Bytes written to the core store. -/
def StagCore.putBytes (x : StagCore) (a : Nat) (bytes : List Byte) : StagCore :=
  { x with store := bytes.zipIdx.foldl (fun t b => t.set (a + b.2) b.1.toNat) x.store }

/-- A register written. -/
def StagCore.setReg (x : StagCore) (r : Nat) (v : List Word) : StagCore := { x with vreg := x.vreg.set r v }

/-! ## What is still to be delivered -/

/-- The pending write covers a byte. -/
def PendWrite.covers (p : PendWrite) (kind core a : Nat) : Bool :=
  p.kind == kind && (kind != 0 || p.core == core) && decide (p.addr ≤ a) && decide (a < p.addr + p.bytes.length)

/-- A byte that is read while writes to it are not ready is, for each, the old or the new one (R126). -/
def readPending (fresh kind core a : Nat) (old : Byte) (ps : List PendWrite) : Byte :=
  ps.foldl (fun b p => if p.covers kind core a && Config.newByte fresh a then p.bytes.getD (a - p.addr) b else b) old

/-- Bytes of the core store as a read at this moment finds them. -/
def State.storeBytes (s : State) (w n a len : Nat) : List Byte :=
  (List.range len).map fun i =>
    readPending s.mgr.fresh 0 n (a + i) ((s.core w n).byte (a + i)) (s.worker w).inflight

/-- Bytes of the core store at an operand; an operand that names no store reads 0 (R16). -/
def State.storeAt (s : State) (w n : Nat) (place : Option Nat) (len : Nat) : List Byte :=
  match place with | some a => s.storeBytes w n a len | none => List.replicate len 0

/-- Bytes of a tier as a core's read at this moment finds them. -/
def State.tierRead (s : State) (w a len : Nat) : List Byte :=
  (List.range len).map fun i => readPending s.mgr.fresh 1 0 (a + i) (s.tierByte (a + i)) (s.worker w).inflight

/-- A delivery put in the order of the cycles from which they count. -/
def insertPend (p : PendWrite) : List PendWrite → List PendWrite
  | [] => [p]
  | q :: rest => if q.ready ≤ p.ready then q :: insertPend p rest else p :: q :: rest

/-- A delivery added to a worker's. -/
def State.deliverAt (s : State) (w : Nat) (p : PendWrite) : State :=
  s.updWorker w fun x => { x with inflight := insertPend p x.inflight }

/-- Deliveries added. -/
def State.deliverAll (s : State) (w : Nat) (ps : List PendWrite) : State := ps.foldl (fun st p => st.deliverAt w p) s

/-- A delivery to an operand; one that names no store is discarded (R16). -/
def State.deliverTo (s : State) (w : Nat) (place : Option Nat) (p : Nat → PendWrite) : State :=
  match place with | some a => s.deliverAt w (p a) | none => s

/-- A circuit is live for its sender (R204, R208): usable, locked or hit, or torn with the tear not yet applied there. -/
def Circ.txLive (x : Circ) : Bool :=
  (decide (2 ≤ x.state) && decide (x.state ≤ 4)) || ((x.state == 5 || x.state == 6) && (match x.tear with | some t => !t.txDone | none => false))

/-- A circuit is live for its receiver (R203, R208). -/
def Circ.rxLive (x : Circ) : Bool :=
  (decide (2 ≤ x.state) && decide (x.state ≤ 4)) || ((x.state == 5 || x.state == 6) && (match x.tear with | some t => !t.rxDone | none => false))

/-- A send that finds no credit (R207): the core's job group starts no further step from the next boundary on. -/
def State.shortfall (s : State) (w : Nat) (p : PendWrite) : State :=
  s.localTriggers (sledOf w) ((((s.worker w).logicalOf p.core).bind (s.coreGroup w)).toList) 4

/-- The flit of a send leaves on a board link (R206, R207): without a credit it is not sent and counts under SHORT. -/
def State.departLink (s : State) (w : Nat) (p : PendWrite) : State :=
  if ((s.worker w).link p.unit).credit = 0 then
    (s.updLink w p.unit fun x => { x with short := satInc 0xFF x.short }).shortfall w p
  else
    s.updLink w p.unit fun x =>
      ({ x with credit := x.credit - 1, fly := x.fly + 1, sent := x.sent + 1 } : Link).send (dataFlit p.id p.addr p.bytes false)

/-- A circuit's port sends while one of its wavelengths is missing (R251). -/
def State.lambdaMissing (s : State) (c : Nat) : Bool := (feedOf (s.circ c).src).any fun f => !(s.module f.1).sparing.isEmpty

/-- A flit in 7-λ mode takes 16.384 c / 7; times in 1/7,000 c. -/
def flit7 : Nat := 16384

/-- The flit of a send leaves on an optical port (R206, R207): without a credit, or past the 4,096 flits of the 7-λ transmit queue
(R252), it is not sent and counts under SHORT. -/
def State.departPort (s : State) (w : Nat) (p : PendWrite) : State :=
  let c := s.circ p.id
  let now := p.ready * 7000
  let queued := max c.queue7 now + flit7
  if c.credit = 0 ∨ (c.tx7 = true ∧ now + 4096 * flit7 < queued) then
    (s.updPort w p.unit fun x => { x with short := satInc 0xFF x.short }).shortfall w p
  else
    s.updCirc p.id fun x =>
      { x with
        credit := x.credit - 1, fly := x.fly + 1, sent := x.sent + 1
        queue7 := if x.tx7 then queued else x.queue7
        wire := x.wire ++ [dataFlit p.id p.addr p.bytes (!x.tx7 && s.lambdaMissing p.id)] }

/-! ## Core failure (R121, R127, R130) -/

/-- The deliveries of a core that are not ready by a cycle are cancelled (R121, R127). -/
def State.cancelCore (s : State) (w n t : Nat) : State :=
  s.updWorker w fun x => { x with inflight := x.inflight.filter fun p => !(p.core == n && decide (t < p.ready)) }

/-- A core fails at a cycle: it issues nothing further, what it has not delivered is cancelled, it is retired with the cause, and
its job group stops on the sled. A retirement by the self-test gives cycle and j as 0. -/
def State.failCore (s : State) (w n cause cycle : Nat) : State :=
  let g := match (s.worker w).logicalOf n with | some l => s.coreGroup w l | none => none
  let j := match g with | some g => if cause = 3 then 0 else s.jobStep g (sledOf w) | none => 0
  let s1 := (s.cancelCore w n cycle).updCore w n fun x =>
    { x with retired := true, cause := cause, stopped := true, faultCycle := cycle, faultJ := j }
  match g with
  | some g => s1.localTrigger (sledOf w) g 1
  | none => s1

/-- A row that DRAIN compares (R119, R120, R145): its conversions count under `STG.CVT`, and it counts as compared or as skipped. -/
def StagCore.countRow (x : StagCore) (outcome convs : Nat) : StagCore :=
  { x with
    sats := satAdd 0xFFFF x.sats (convs % 256)
    nans := satAdd 0xFFFF x.nans (convs / 256)
    skips := if outcome = 1 then satInc 0xFFFF x.skips else x.skips
    checks := if outcome = 1 then x.checks else (x.checks + 1) % 2 ^ 32 }

/-- A DRAIN row at the cycle at which it is compared and written; on a mismatch the core fails there (R121). -/
def State.drainCommit (s : State) (w : Nat) (p : PendWrite) : State :=
  let s1 := s.updCore w p.core fun x => (x.putBytes p.addr p.bytes).countRow p.unit p.id
  if p.unit = 2 then s1.failCore w p.core 1 p.ready else s1

/-- What a core has still to deliver is cancelled: the core failed in this frame before it was ready (R121). -/
def State.cancelled (s : State) (w : Nat) (p : PendWrite) : Bool :=
  (s.core w p.core).stopped && decide ((s.core w p.core).faultCycle < p.ready)

/-- One delivery takes effect. -/
def State.commit (s : State) (w : Nat) (p : PendWrite) : State :=
  if s.cancelled w p then s
  else match p.kind with
    | 0 => s.updCore w p.core fun x => x.putBytes p.addr p.bytes
    | 1 => s.tierWrite p.addr p.bytes
    | 2 => s.departLink w p
    | 3 => s.departPort w p
    | _ => s.drainCommit w p

/-- Everything of a worker that is ready by a cycle takes effect, in the order of the cycles. -/
def State.flush (s : State) (w t : Nat) : State :=
  let ready := (s.worker w).inflight.filter fun p => decide (p.ready ≤ t)
  let s1 := s.updWorker w fun x => { x with inflight := x.inflight.filter fun p => !decide (p.ready ≤ t) }
  ready.foldl (fun st p => st.commit w p) s1

/-! ## The program of a step (R111, R112, R114) -/

/-- The program of job step `j` in a core schedule: the step map's entry j mod MAPLEN (Table 5.2, R112). -/
def progIndex (c : List Byte) (j : Nat) : Nat := fieldLE c (0x20 + 8 * fieldLE c 0 2 + j % fieldLE c 2 2) 1

/-- Slots of a program of a core schedule. -/
def progSlots (c : List Byte) (p : Nat) : Nat := fieldLE c (0x24 + 8 * p) 2

/-- Slot `k` of a program of a core schedule: its operation and operands. -/
def progSlot (c : List Byte) (p k : Nat) : Option (Nat × Slot) :=
  if k < progSlots c p then slotDecode (fieldLE c (fieldLE c (0x20 + 8 * p) 4 + 16 * k) 16) else none

/-- The slot that a core's sequencer issues next in the frame. -/
def StagCore.nextSlot (x : StagCore) : Option (Nat × Slot) := x.cur.bind fun p => progSlot x.prog p x.pos

/-- A core runs a frame program: its worker is up, PD1 and its cluster are on, it is mapped, it has not failed, and its sled runs a
started frame that carries a step of its group. -/
def State.coreRuns (s : State) (w n : Nat) : Bool :=
  s.workerUp w && decide (n < 50) && (s.worker w).powered 1 && (s.worker w).powered (clusterOf n) && !(s.core w n).retired &&
    !(s.core w n).stopped && ((s.worker w).logicalOf n).isSome && (s.hub (sledOf w)).started && (s.core w n).cur.isSome

/-- The cycle of the next slot of a core that runs. -/
def State.nextIssue (s : State) (w n : Nat) : Option Nat := if s.coreRuns w n then (s.core w n).nextSlot.map (·.2.issue) else none

/-- A core of a worker has slots of the frame still to issue: cycle 8,128 has not come (R114). -/
def State.slotsLeft (s : State) (w : Nat) : Bool := (s.worker w).cores.cells.any fun c => (s.nextIssue w c.1).isSome

/-! ## Issuing a slot (R114) -/

/-- The cycle at which the occupancy of a port ends: of a unit of the core, or of a board link (6 + j) or optical port (22 + p) over
all cores of the worker (Table 5.5). -/
def State.portBusy (s : State) (w n port : Nat) : Nat :=
  if port < 6 then (s.core w n).busy.get 0 port
  else (s.worker w).cores.cells.foldl (fun m c => max m (c.2.busy.get 0 port)) 0

/-- A slot issues on a port: the core runs, the slot is the next of its program, no core of the worker has an earlier one to issue, the
cycle lies in the work phase, and the port's occupancy has ended. -/
def State.canIssue (s : State) (w n port op : Nat) (sl : Slot) : Bool :=
  s.coreRuns w n && (s.core w n).nextSlot == some (op, sl) &&
    ((s.worker w).cores.cells.all fun c => match s.nextIssue w c.1 with | some t => decide (sl.issue ≤ t) | none => true) &&
    decide (64 ≤ sl.issue) && decide (sl.issue ≤ 8127) && decide (s.portBusy w n port ≤ sl.issue)

/-- A slot issued: what is ready by then takes effect, the port is occupied, the sequencer goes to the program's next slot, the operation
runs, and its number is drawn. A slot that is not the next one, or that validation rejects (`ok` false), does not occur. -/
def State.issue (s : State) (w n port occ op : Nat) (sl : Slot) (ok : Bool) (run : State → State) : State :=
  let f := s.flush w sl.issue
  if f.canIssue w n port op sl && ok then
    (run (f.updCore w n fun x => { x with busy := x.busy.set port (sl.issue + occ), pos := x.pos + 1 })).draw.2
  else s

/-- The logical core of a physical core; 63 for none. -/
def State.logicalNo (s : State) (w n : Nat) : Nat := ((s.worker w).logicalOf n).getD 63

/-- Counts of conversions added to `STG.CVT` (R145). -/
def StagCore.countConv (x : StagCore) (cs : List Conv) : StagCore :=
  { x with
    sats := satAdd 0xFFFF x.sats (cs.countP (·.sat))
    nans := satAdd 0xFFFF x.nans (cs.countP (·.nan)) }

end Sys2Proof.Machine
end

