-- ==== Sys2Proof/Machine/Routes.lean ====
section
/-! DEFINITION. The wiring of the Lacewing plane: links of a die, the path that light takes through a tile's elements, and the tiles that
a circuit passes (R21, R23, R229 to R232). -/

namespace Sys2Proof.Machine

/-- The low `b` bits of a link rotated right by one. -/
def rotR (b x : Nat) : Nat :=
  let low := x % 2 ^ b
  x - low + (low / 2 + low % 2 * 2 ^ (b - 1))

/-- The low `b` bits of a link rotated left by one. -/
def rotL (b x : Nat) : Nat :=
  let low := x % 2 ^ b
  x - low + (low * 2 % 2 ^ b + low / 2 ^ (b - 1))

/-- The die link of a position (R231). -/
def posLink (t p : Nat) : Nat :=
  let n := dieLinks t
  if p < n / 2 then 2 * p else 2 * (p - n / 2) + 1

/-- Columns of a die (Table 10.1). -/
def dieColumns (t : Nat) : Nat := 2 * dieLog t - 1

/-- The input link of column `c + 1` that output link `x` of column `c` feeds (R230). -/
def nextLink (t c x : Nat) : Nat :=
  let n := dieLog t
  if c < n - 1 then rotR (n - c) x else rotL (c + 3 - n) x

/-- The element of a column that takes an input link (R229). -/
def elemAt (t c x : Nat) : Nat := dieLinks t / 2 * c + x / 2

/-- The output link of an element for an input link and a setting; `none` where it is parked or unused (R229, R233). -/
def throughElem (st x : Nat) : Option Nat :=
  if st = 0 then some x else if st = 1 then some (if x % 2 = 0 then x + 1 else x - 1) else none

/-- The way of light that enters column `c` on link `x`, through `fuel` columns: element and output link in each. -/
def tileWalk (t : Nat) (elems : Tab Elem) : Nat → Nat → Nat → List (Nat × Nat)
  | 0, _, _ => []
  | fuel + 1, c, x =>
    let e := elemAt t c x
    match throughElem (elems.get Elem.init e).st x with
    | none => []
    | some y => (e, y) :: tileWalk t elems fuel (c + 1) (nextLink t c y)

/-- The way of light through a tile from an input link. -/
def tilePath (t : Nat) (elems : Tab Elem) (x : Nat) : List (Nat × Nat) := tileWalk t elems (dieColumns t) 0 x

/-- Tiles a circuit passes, with its input and output positions: ingress, middle, egress (R21, R23). -/
def Fit.hops (f : Fit) (src middle dst : Nat) : List (Nat × Nat × Nat) :=
  let i := f.edgeOf src
  let e := f.edgeOf dst
  [(i.1, i.2, middle), (36 + middle, i.1, e.1), (68 + e.1, middle, e.2)]

/-- The hops of a circuit. -/
def State.circHops (s : State) (c : Nat) : List (Nat × Nat × Nat) :=
  let x := s.circ c
  s.fit.hops x.src x.middle x.dst

/-- A circuit that exists and is not DOWN or torn (it is being set up, live, or suspended). -/
def Circ.standing (x : Circ) : Bool := x.state != 0 && x.state != 5 && x.state != 6

/-- A circuit whose route is set in the plane: being set up, live, or suspended. -/
def Circ.routed (x : Circ) : Bool := x.standing

/-- The routes through a tile: circuit, input link, and the way through the elements. -/
def State.tileRoutes (s : State) (t : Nat) : List (Nat × Nat × List (Nat × Nat)) :=
  (s.circs.cells.filter fun c => c.2.routed).flatMap fun c =>
    (s.circHops c.1).filterMap fun h =>
      if h.1 = t then
        let x := posLink t h.2.1
        some (c.1, x, tilePath t (s.tile t).elems x)
      else none

/-- Circuits routed through a tile. -/
def State.tileCircs (s : State) (t : Nat) : List Nat := (s.tileRoutes t).map (·.1)

/-- Circuits that pass a laser module's splitter outputs: those it feeds at the sender, and at the receiver (R26, R251). -/
def State.moduleCircs (s : State) (k : Nat) : List Nat :=
  (s.circs.cells.filter fun c => c.2.standing && (fedBy k c.2.src || fedBy k c.2.dst)).map (·.1)

/-- Monitor channels that a route's light passes in a tile (R232): input tap, mid tap, output tap. -/
def routeTaps (t x : Nat) (path : List (Nat × Nat)) : Nat × Option Nat × Option Nat :=
  let n := dieLinks t
  (x, (path[dieLog t - 1]?).map fun p => n + p.2, (path[dieColumns t - 1]?).map fun p => 2 * n + p.2)

/-- A heater cell whose element goes to park, or that is jumped open-loop: OPEN, its trim and lock gone, its retries forgotten. -/
def Cell.rest (x : Cell) : Cell :=
  { x with
    mode := 1, locked := false, retries := 0, u1 := 0, u2 := 0, u3 := 0, e1 := 0, e2 := 0, e3 := 0, window := [], within := 0
    beyond := 0, cond := [0, 0, 0, 0, 0], satRun := 0, holdAt := none, lastRetry := none, bumpless := none }

/-- An input of the planner has changed (R239). -/
def State.planInput (s : State) : State := s.updPlane fun p => { p with stamp := p.stamp + 1 }

/-- An element that loses its last route: park, its cells OPEN and their retries forgotten (R233, Table 11.4); a cell in TUNE stays under service
control. -/
def Tile.parkElem (x : Tile) (e : Nat) : Tile :=
  let rest := fun (t : Tab Cell) (h : Nat) => match t.get? h with | some c => if c.mode = 5 then t else t.set h c.rest | none => t
  { x with elems := x.elems.set e Elem.init, cells := rest (rest x.cells (2 * e)) (2 * e + 1) }

/-- The elements that carried a torn circuit's route alone go to park; in Limp the cells hold (R260). -/
def State.parkRoute (s : State) (c : Nat) : State :=
  if s.mgr.mode = .limp then s
  else
    (s.circHops c).foldl (init := s) fun st h =>
      let kept := (st.tileRoutes h.1).flatMap fun r => r.2.2.map (·.1)
      let mine := (tilePath h.1 (s.tile h.1).elems (posLink h.1 h.2.1)).map (·.1)
      (mine.filter fun e => !kept.contains e).foldl (fun a e => a.updTile h.1 fun x => x.parkElem e) st

/-- A plane parked at a manager boundary (R249): every element in park. -/
def State.parkPlane (s : State) : State :=
  ({ s with
    tiles := s.tiles.mapVals fun _ x =>
      { x with elems := Tab.empty, evacuated := false, cells := x.cells.mapVals fun _ c => c.rest } } : State).planInput

end Sys2Proof.Machine
end

