-- ==== Sys2Proof/Machine/Faults.lean ====
section
/-! DEFINITION. What a fault does to the machine as a whole: a group stopped by the manager (R356), a circuit or a board link torn
(R208, R212), a worker declared failed (R362, Table 9.7), and a page marked for retirement (R155). -/

namespace Sys2Proof.Machine

/-- The manager stops a group: STOP goes to its sleds (R356). A group that has stopped already keeps its reason. -/
def State.stopGroup (s : State) (g reason : Nat) : State :=
  if s.groupRuns g then
    let s1 := s.updGroup g fun x =>
      { x with
        stopped := true, stopSent := true, jr := none
        reason := if x.stopped || !x.sledsStopped.isEmpty then x.reason else reason }
    if (s.group g).stopSent then s1
    else s1.forEach (s.groupSleds g) fun st k => st.updHub k fun h => { h with inbox := h.inbox ++ [Msg.stop g] }
  else s

/-- Several groups stopped. -/
def State.stopGroups (s : State) (gs : List Nat) (reason : Nat) : State := s.forEach gs fun st g => st.stopGroup g reason

/-- A circuit torn by decision of the manager (R208): its two ends apply it at their own boundaries; its groups stop (R356), and its
elements are parked. For cause 1h the manager decides at its first boundary after the report of the end that has lost its domain. -/
def State.tearCircuit (s : State) (c cause : Nat) : State :=
  if (s.circ c).standing then
    let gs := s.circGroups c
    let s1 := s.updCirc c fun x =>
      { x with
        state := 6
        tear := some { src := x.src, dst := x.dst, cause := cause, frame := if cause = 1 then s.mgr.frame + 1 else s.mgr.frame, txDone := false, rxDone := false, txLeft := 0, rxLeft := 0,
                       txSettled := false, rxSettled := false, reported := false } }
    ((s1.parkRoute c).stopGroups gs 3).planInput
  else s

/-- Several circuits torn. -/
def State.tearCircuits (s : State) (cs : List Nat) (cause : Nat) : State := s.forEach cs fun st c => st.tearCircuit c cause

/-- Circuits that stand on an L-port. -/
def State.circsOfLPort (s : State) (q : Nat) : List Nat :=
  (s.circs.cells.filter fun c => c.2.standing && (c.2.src == q || c.2.dst == q)).map (·.1)

/-- The L-ports of a worker under the cabling plan. -/
def Fit.lportsOf (f : Fit) (w : Nat) : List Nat := if f.lacewing then (List.range 4).map (f.lportOf w) else []

/-- Circuits that stand on a worker's ports. -/
def State.circsOfWorker (s : State) (w : Nat) : List Nat :=
  let mine := fun (q : Nat) => decide (q < s.fit.workerPorts) && (s.endOf q).1 == w
  (s.circs.cells.filter fun c => c.2.standing && (mine c.2.src || mine c.2.dst)).map (·.1)

/-- One end of a board link torn at its boundary: settlement comes in the frame that starts there (R209). -/
def State.tearLinkEnd (s : State) (w j cause : Nat) : State :=
  s.updLink w j fun x =>
    { x with up := false, torn := true, cause := cause, tornAt := s.mgr.frame, settled := false, downFor := 0 }

/-- A board link torn at both its ends (R212). -/
def State.tearLink (s : State) (w j cause : Nat) : State :=
  let p := s.fit.linkPeer w j
  (s.tearLinkEnd w j cause).tearLinkEnd p.1 p.2 cause

/-- The board links of a worker. -/
def Fit.linkList (f : Fit) : List Nat := List.range f.links

/-- An L-port on which circuits may be set up (R22, R221, R303): found CONFIRMED, or SWAPPED and adopted, and with no failed verify. -/
def State.lportPassed (s : State) (q : Nat) : Bool :=
  let x := s.lport q
  x.searched && x.contact && !x.verifyBad && (x.result == 0 || (x.result == 2 && x.adopted))

/-- An L-port on which circuits may stand (R214, R217): one that may be set up on, with a valid leg. -/
def State.lportConfirmed (s : State) (q : Nat) : Bool := s.lportPassed q && (s.lport q).legValid

/-- A worker has a part in the active image of its own: cores, memory or flows. -/
def State.inActive (s : State) (w : Nat) : Bool :=
  s.img.active.any fun i => (i.binds.any fun b => b.w == w) || (i.regions.any fun r => r.w == w) || i.flows.any fun f => f.w == w

/-- The spare site of a sled can take a role (R225): it answered, is up, holds no role of its own or of another, and its four ports are
CONFIRMED (on a machine without Lacewing there are no ports to confirm). -/
def State.spareFree (s : State) (sled : Nat) : Bool :=
  let sp := workerCode sled 16
  s.workerUp sp && !s.inActive sp && (s.hub sled).spare.phase == 0 && !(s.hub sled).spare.inUse && (s.hub sled).inRole.isEmpty &&
    (s.fit.lportsOf sp).all s.lportConfirmed

/-- Switch-in starts (R225): phase 1, and the failed worker's circuits are to be planned onto the spare's L-ports. -/
def State.startSwitchIn (s : State) (w : Nat) (circs : List Nat) : State :=
  let sled := sledOf w
  let s1 := s.updHub sled fun h =>
    { h with spare := { inUse := false, site := siteOf w, phase := 1, since := s.mgr.frame, late := 0, copied := false } }
  if circs.isEmpty then s1
  else s1.updPlane fun p =>
    { p with
      autos := p.autos ++ [{ kind := 3, unit := w, circs := circs, auto := true, quiet := false, since := s.mgr.frame, cmd := none }] }

/-- A worker declared failed (R362, R363, Table 9.7): every domain off, its keys lost, its circuits and links torn with cause 4h, its
groups stopped with reason 6; switch-in starts where a spare is free. -/
def State.declareFailed (s : State) (w : Nat) : State :=
  if s.workerUp w then
    let circs := s.circsOfWorker w
    let gs := s.workerGroups w
    let s1 := s.updWorker w fun x =>
      { x with failed := true, pwr := 0, keys := Tab.empty, inflight := [], latched := none }
    let s2 := s1.updHub (sledOf w) fun h => { h with failed := putBit h.failed (siteOf w) true }
    let s3 := (s2.forEach s.fit.linkList fun st j => st.tearLink w j 4).tearCircuits circs 4
    let s4 := (s3.stopGroups gs 6).forEach gs fun st g =>
      st.updGroup g fun x => { x with lostWorker := if x.lostWorker.isNone then some w else x.lostWorker }
    let s5 := (s4.arrive 11 1 0).planInput
    if siteOf w ≠ 16 ∧ s.spareFree (sledOf w) then s5.startSwitchIn w circs else s5
  else s

/-! ## Jobs that end (R193, R344, R345, R358) -/

/-- Running jobs whose Mound list names an object on a worker and whose first step has started on its sled (R193). -/
def State.jobRefs (s : State) (w obj : Nat) : Nat :=
  s.runningGroups.countP fun g =>
    match (s.group g).running with
    | some j => j.mound.contains obj && j.begun.contains (sledOf w) && (s.participants g).contains w
    | none => false

/-- The pin counts of a worker's objects brought to the jobs that name them (R193): an object of the secondary share has none (R194); a pin
cancels a demotion (R196); a spoiled object without pins is dropped (R199). -/
def State.syncPins (s : State) (w : Nat) : State :=
  s.updWorker w fun x =>
    { x with
      objs := ⟨x.objs.cells.filterMap fun o =>
        let n := if o.2.secondary then 0 else s.jobRefs w o.1
        if o.2.state = 6 ∧ n + o.2.hostPins = 0 then none
        else if o.2.state = 4 ∧ 0 < n then some (o.1, { o.2 with jobPins := n, state := 2, toFirst := 0 })
        else some (o.1, { o.2 with jobPins := n })⟩ }

/-- The objects of a load that has failed or ended early: their pages are freed on every listed worker; a spoiled object that was being
rewritten under pins keeps its pages and pins (R189, R199). -/
def State.freeLoad (s : State) (l : MLoad) : State :=
  s.forEach l.workers fun st w =>
    st.updWorker w fun x =>
      match x.objs.get? l.obj with
      | none => x
      | some o =>
        if o.cocoon = l.cocoon ∧ (o.state = 1 ∨ o.state = 2 ∨ o.state = 6) then
          { x with
            objs := if l.rewrites.contains w ∧ 0 < o.jobPins + o.hostPins then x.objs.set l.obj { o with state := 6 } else x.objs.erase l.obj }
        else x

/-- The largest `HUB.STEP` over a group's sleds. -/
def State.maxStep (s : State) (g : Nat) : Nat := (s.groupSleds g).foldl (fun m k => max m (s.hub k).step) 0

/-- The first stride start of a group at or after a step. -/
def State.strideAt (s : State) (g step : Nat) : Nat := ceilDiv step (s.strideOf g) * s.strideOf g

/-- An activation or deactivation that drains is pending (R99, R105). -/
def State.draining (s : State) : Bool :=
  match s.img.act with
  | none => false
  | some a => a.deact || (match s.img.staged with | some i => i.kind != 2 | none => true)

/-- A job may start (R99, R100, R343): in Loaded or Running, no drain, no doze agreed, and every hub has applied the last activation. -/
def State.jobsMayStart (s : State) : Bool :=
  (s.mgr.mode == .loaded || s.mgr.mode == .running) && s.mgr.doze.isNone && !s.draining &&
    s.fit.sledList.all fun k => (s.hub k).inbox.all fun m => match m with | .activateAt _ => false | _ => true

/-- The next queued job of a group that runs none becomes its running job, to start at J0 (R344). -/
def State.scheduleJob (s : State) (g : Nat) : State :=
  let x := s.group g
  match x.running, if s.jobsMayStart then x.queue else [] with
  | none, j :: rest =>
    let j0 := s.strideAt g (s.maxStep g + 2)
    s.updGroup g fun y => { y with queue := rest, running := some { j with j0 := some j0, stepAt := j0 } }
  | _, _ => s

/-- Job steps that have run. -/
def State.stepsRun (s : State) (g : Nat) : Nat :=
  match (s.group g).running with
  | none => 0
  | some j => min j.steps j.ran

/-- A group's job is over: its pins are removed on the sleds on which its first step had started, its stop is forgotten, and the next one is
scheduled. -/
def State.endJob (s : State) (g : Nat) : State :=
  match (s.group g).running with
  | none => s
  | some j =>
    let s1 := s.updGroup g fun y =>
      { y with
        running := none, stopped := false, stopSent := false, sledsStopped := [], reason := 0, lostWorker := none
        restoring := none, restored := false, jr := none, resumeStride := 0, aborting := none, abortReason := 0 }
    (s1.forEach ((s.participants g).filter fun w => j.begun.contains (sledOf w)) State.syncPins).scheduleJob g

/-- A group's running job is lost (R358, R361): EV_JOB_LOST, and its final completion carries 49h. -/
def State.loseJob (s : State) (g reason : Nat) : State :=
  match (s.group g).running with
  | none => s
  | some j =>
    let s1 := s.raise 0x0004 [(0, 2, j.handle), (2, 1, g), (3, 1, reason), (4, 1, s.groupOwner g), (8, 4, s.stepsRun g),
      (12, 2, ((s.group g).lostWorker).getD 0xFFFF)]
    (s1.final j.cmd stAborted).endJob g

/-- A switch-in ends without a role (R226): the spare is free again, and the jobs of the groups that lost the worker are lost. -/
def State.endSwitchIn (s : State) (k : Nat) : State :=
  let w := workerCode k (s.hub k).spare.site
  let gs := s.runningGroups.filter fun g => (s.group g).lostWorker == some w
  let s1 := ((s.updHub k fun h => { h with spare := Spare.init }).updWorker w fun x => { x with flowsTo := none }).updPlane fun p =>
    { p with autos := p.autos.filter fun r => !(r.kind == 3 && r.unit == w) }
  s1.forEach gs fun st g => st.loseJob g 5

/-- A group's job is to be aborted: its sleds stop, and when all have, it ends for this reason (1 forced activation, 2 forced release,
3 forced power-down, 255 JOB_ABORT). -/
def State.abortGroup (s : State) (g reason : Nat) : State :=
  if s.groupRuns g then (s.updGroup g fun x => { x with abortReason := reason }).stopGroup g 6 else s

/-- Every sled of a group has stopped. -/
def State.allStopped (s : State) (g : Nat) : Bool := (s.groupSleds g).all fun k => (s.group g).sledsStopped.contains k

/-- Queued jobs of the groups that `p` picks end with a status. -/
def State.dropQueued (s : State) (p : Nat → Bool) (status : Nat) : State :=
  s.forEach ((List.range 32).filter p) fun st g =>
    ((st.group g).queue.foldl (fun a j => a.final j.cmd status) st).updGroup g fun x => { x with queue := [] }

/-! ## Reads that need correction (R153, R154, R155) -/

/-- The page of a tier address within its worker: space and page index. -/
def pageOf (a : Nat) : Nat := addrSpace a * 2 ^ 40 + addrOffset a / 4096

/-- The stack or module a tier line lies in (R148): stacks 0 to 7, modules 8 to 23. -/
def bankUnit (a : Nat) : Nat :=
  let n := addrOffset a / 64
  if addrSpace a = 0 then n % 8 else 8 + n % 16

/-- A page marked for retirement at the next boundary, once, by the stack or module of the line that was read. -/
def Worker.markPage (x : Worker) (page : Nat) (lost : Bool) (unit : Nat) : Worker :=
  if x.retireDue.any fun p => p.1 == page then
    { x with retireDue := x.retireDue.map fun p => if p.1 = page then (page, p.2.1 || lost, p.2.2) else p }
  else { x with retireDue := x.retireDue ++ [(page, lost, unit)] }

/-- The image region's bank that holds the active image contains the address. -/
def Worker.inActiveBank (x : Worker) (a : Nat) : Bool :=
  addrSpace a == 0 && decide (bankBase x.bank1 ≤ addrOffset a) && decide (addrOffset a < bankBase x.bank1 + 0x4000000)

/-- The object of a worker whose pages hold a tier address. -/
def State.objectAt (s : State) (a : Nat) : Option Nat :=
  let w := addrWorker a
  let within : Option RegionDef → Bool → Option Nat := fun r sec =>
    match r with
    | some r =>
      if r.space = addrSpace a ∧ r.base ≤ addrOffset a ∧ addrOffset a < r.base + r.size then
        ((s.worker w).holder sec ((addrOffset a - r.base) / 4096)).map fun o => o.1
      else none
    | none => none
  (within (s.shares w).1 false).orElse fun _ => within (s.shares w).2 true

/-- An object marked spoiled on a worker (R199); it is dropped once its pin count is 0. -/
def State.spoil (s : State) (w obj : Nat) : State :=
  s.updWorker w fun x =>
    let o := x.objs.get MObj.init obj
    { x with
      objs := if o.jobPins + o.hostPins = 0 then x.objs.erase obj else x.objs.set obj { o with state := 6 } }

/-- A line read with `errs` bytes in error: up to 3 are corrected, 4 or 5 detected, which poisons the line. Answers the state and
whether the line is poisoned. -/
def State.lineErrors (s : State) (a errs : Nat) : State × Bool :=
  let w := addrWorker a
  let page := pageOf a
  if errs = 0 ∨ 5 < errs then (s, false)
  else if errs ≤ 3 then
    (s.updWorker w fun x =>
      let n := x.pageCorr.get 0 page + 1
      let y := { x with corr := satInc 0xFF x.corr, pageCorr := x.pageCorr.set page n }
      if 4 ≤ n then y.markPage page false (bankUnit a) else y, false)
  else
    let s1 := s.updWorker w fun x => { x with uncorr := satInc 0xFF x.uncorr }.markPage page true (bankUnit a)
    let s2 := match s.objectAt a with | some o => s1.spoil w o | none => s1
    let inBank := s.bankImage a != 0 && (s.img.staged.map (·.id)) == some (s.bankImage a)
    if (s.worker w).inActiveBank a && s.img.active.isSome then (s2.declareFailed w, true)
    else if inBank then (s2.updImg fun i => { i with staged := i.staged.map fun g => { g with damaged := true } }, true)
    else (s2, true)

end Sys2Proof.Machine
end

