-- ==== Sys2Proof/Machine/Cores.lean ====
section
/-! DEFINITION. The Stag cores (chapters 5 and 6): the Elytra array with its check column, the movers and the vector unit; one
meaning for each operation of Tables 5.5 and 5.6, and for the retirement and the remapping of a core. -/

namespace Sys2Proof

/-- The destination register of a vector operation: AUX[14:10] (R122). -/
def Slot.rd (sl : Slot) : Nat := bitsOf sl.aux 14 10

/-- The first source register: AUX[9:5]. -/
def Slot.ra (sl : Slot) : Nat := bitsOf sl.aux 9 5

/-- The second source register: AUX[4:0]. -/
def Slot.rb (sl : Slot) : Nat := bitsOf sl.aux 4 0

end Sys2Proof

namespace Sys2Proof.Machine

/-! ## The Elytra array -/

/-- Bytes of a weight block of a format (R135). -/
def weightLen (f : Nat) : Nat := if f = 4 then 8192 else if f = 5 then 4352 else 4096

/-- Depth of a weight block (Table 5.4). -/
def weightDepth (f : Nat) : Nat := if f = 0 ∨ f = 5 then 128 else 64

/-- Weight-port cycles of a load (Table 5.4). -/
def weightCycles (f : Nat) : Nat := if f = 4 then 128 else if f = 5 then 68 else 64

/-- The permitted pairs of weight and input formats (Table 5.4). -/
def pairOk (fw fx : Nat) : Bool :=
  (fw == 0 && fx == 0) || (fw == 1 && fx == 1) || ((fw == 2 || fw == 3) && (fx == 2 || fx == 3)) || (fw == 4 && fx == 4) ||
    (fw == 5 && fx == 5)

/-- WLOAD fills the shadow buffer, ready when its occupancy ends (R116). -/
def execWload (w n : Nat) (sl : Slot) (s : State) : Host.Outcome State Fault Refusal :=
  let len := weightLen sl.fa
  let b := s.ownStore w (s.logicalNo w n) ((s.core w n).operand sl.ax sl.ox) len
  .next <| s.issue w n 0 (weightCycles sl.fa) 0x01 sl (decide (sl.fa ≤ 5)) fun st =>
    let buf : WBuf := { fmt := sl.fa, bytes := st.storeAt w n b len }
    st.updCore w n fun x =>
      let y := { x with shadowReady := sl.issue + weightCycles sl.fa }
      if x.useBuf1 then { y with buf0 := buf } else { y with buf1 := buf }

/-- WSWAP exchanges the weight buffers (R116). -/
def execWswap (w n : Nat) (sl : Slot) (s : State) : Host.Outcome State Fault Refusal :=
  .next <| s.issue w n 1 1 0x02 sl (decide ((s.core w n).shadowReady ≤ sl.issue)) fun st =>
    st.updCore w n fun x => { x with useBuf1 := !x.useBuf1 }

/-- The weight buffer in use. -/
def StagCore.weights (x : StagCore) : WBuf := if x.useBuf1 then x.buf1 else x.buf0

/-- The weight elements' bits: output-major (R135). -/
def StagCore.weightBits (x : StagCore) : List (List Nat) :=
  let b := x.weights
  let rowLen := if b.fmt = 4 then 128 else 64
  (List.range 64).map fun o =>
    unpack (fmtWidth b.fmt) ((List.range rowLen).map fun i => x.weightByte b (rowLen * o + i))

/-- The exponent byte of depth block `k` of output `o` of a Q4B block (R135). -/
def StagCore.weightExp (x : StagCore) (o k : Nat) : Nat := (x.weightByte x.weights (4096 + 4 * o + k)).toNat

/-- An integer dot product. -/
def dot (a b : List Int) : Int := (List.zipWith (· * ·) a b).sum

/-- The exact sum of products of decoded values (R138, R139). -/
def dotFv (a b : List Fv) : Fv := (List.zipWith Fv.mul a b).foldl Fv.add (.fin false 0)

/-- Lists added position by position. -/
def addLists (rows : List (List Int)) (len : Nat) : List Int :=
  rows.foldl (fun acc r => List.zipWith (· + ·) acc r) (List.replicate len 0)

/-- Lists of values added position by position. -/
def addFvLists (rows : List (List Fv)) (len : Nat) : List Fv :=
  rows.foldl (fun acc r => List.zipWith Fv.add acc r) (List.replicate len (.fin false 0))

/-- The issue sum of one output in Q4B (R140): block dot products scaled by 2^(Xw + Xx - 254) and summed exactly; NaN where an
exponent is FFh. -/
def q4bSum (wBits xBits : List Nat) (wExp xExp : List Nat) : Fv :=
  if wExp.contains 255 || xExp.contains 255 then .nan
  else
    ofExact <| ((List.range 4).map fun k =>
      dot (((wBits.drop (32 * k)).take 32).map (toSigned 4)) (((xBits.drop (32 * k)).take 32).map (toSigned 4)) *
        (2 : Int) ^ (46 + wExp.getD k 0 + xExp.getD k 0)).sum

/-- One input vector streamed through the array: the 64 issue sums and the check column's, as words of the accumulator's format
(R119, R137 to R140). -/
def StagCore.issueSums (x : StagCore) (xBits xExp : List Nat) (fx : Nat) : List Word × Word :=
  let f := x.weights.fmt
  let depth := weightDepth f
  let ws := x.weightBits
  if f < 2 then
    let wi := ws.map fun r => r.map (toSigned (fmtWidth f))
    let xi := xBits.map (toSigned (fmtWidth fx))
    (wi.map fun r => BitVec.ofInt 32 (dot r xi), BitVec.ofInt 32 (dot (addLists wi depth) xi))
  else if f = 5 then
    let es := (List.range 64).map fun o => (List.range 4).map fun k => x.weightExp o k
    let decoded := List.zipWith (fun r e => r.zipIdx.map fun b => q4bVal (e.getD (b.2 / 32) 0) b.1) ws es
    let cs := (addFvLists decoded depth).map fun v => laneVal 7 (f32Of v)
    (List.zipWith (fun r e => f32Of (q4bSum r xBits e xExp)) ws es,
      f32Of (dotFv cs (xBits.zipIdx.map fun b => q4bVal (xExp.getD (b.2 / 32) 0) b.1)))
  else
    let wv := ws.map fun r => r.map (decodeFmt f)
    let xv := xBits.map (decodeFmt fx)
    (wv.map fun r => f32Of (dotFv r xv), f32Of (dotFv (addFvLists wv depth) xv))

/-- A row with an issue's sums added, or written where it is cleared (R117, R138). -/
def AccRow.accumulate (a : AccRow) (clear isInt : Bool) (sums : List Word × Word) : AccRow :=
  let op : Word → Word → Word := if isInt then (· + ·) else f32Add
  if clear then { lanes := sums.1, chk := sums.2 }
  else { lanes := List.zipWith op a.lanes sums.1, chk := op a.chk sums.2 }

/-- MAC streams LEN input vectors through the block in use into the rows from AUX[8:0] (R117, R136 to R140). -/
def execMac (w n : Nat) (sl : Slot) (s : State) : Host.Outcome State Fault Refusal :=
  let l := s.logicalNo w n
  let x := s.core w n
  let vec := if sl.fb = 4 then 128 else 64
  let row0 := sl.aux % 512
  let xa := s.ownStore w l (x.operand sl.ax sl.ox) (vec * sl.len)
  let ya := s.ownStore w l (x.operand sl.ay sl.oy) (4 * sl.len)
  let ok := pairOk x.weights.fmt sl.fb && decide (1 ≤ sl.len) && decide (row0 + sl.len ≤ 512)
  .next <| s.issue w n 1 (if sl.fb = 4 then 2 * sl.len else sl.len) 0x03 sl ok fun st =>
    let core := st.core w n
    let rows := (List.range sl.len).map fun i =>
      let xb := unpack (fmtWidth sl.fb) (st.storeAt w n (xa.map (· + vec * i)) vec)
      let xe := if sl.fb = 5 then (st.storeAt w n (ya.map (· + 4 * i)) 4).map (·.toNat) else []
      (row0 + i, (core.row (row0 + i)).accumulate (sl.aux.testBit 9) (decide (sl.fb < 2)) (core.issueSums xb xe sl.fb))
    st.updCore w n fun y => { y with acc := rows.foldl (fun t r => t.set r.1 r.2) y.acc }

/-- Magnitude of a finite value. -/
def Fv.mag : Fv → Nat
  | .fin _ m => m
  | _ => 0

/-- A float row that is not compared (R120): an accumulator or the check value is a NaN or an infinity. -/
def AccRow.skipped (a : AccRow) : Bool :=
  (a.chk :: a.lanes).any fun x => match laneVal 7 x with | .fin _ _ => false | _ => true

/-- The comparison of a row (R119). -/
def AccRow.matches (a : AccRow) (isInt : Bool) : Bool :=
  if isInt then a.lanes.foldl (· + ·) 0 == a.chk
  else
    match laneVal 7 (reduce64 f32Add a.lanes), laneVal 7 a.chk with
    | .fin x m, .fin y k =>
      let total := (a.lanes.map fun v => (laneVal 7 v).mag).sum
      decide ((signedMag x m - signedMag y k).natAbs * 1024 ≤ total + 1024 * 2 ^ 174)
    | _, _ => false

/-- A hardware upset of an accumulator row: bits of a lane, or of the check accumulator as lane 64, inverted. -/
def AccRow.upset (a : AccRow) (lane bits : Nat) : AccRow :=
  if lane = 64 then { a with chk := a.chk ^^^ BitVec.ofNat 32 bits }
  else { a with lanes := a.lanes.zipIdx.map fun v => if v.2 = lane then v.1 ^^^ BitVec.ofNat 32 bits else v.1 }

/-- One row of a DRAIN: its bytes, its conversions, whether it was compared, and whether it mismatched. -/
structure DrainRow where
  bytes   : List Byte
  convs   : List Conv
  skip    : Bool
  bad     : Bool
  deriving DecidableEq, Repr

/-- A row converted from FB to FA and compared (R118 to R120, R141). -/
def drainRow (fa fb : Nat) (a : AccRow) : DrainRow :=
  let cs := a.lanes.map fun v => convertFmt fa (laneVal fb v)
  let skip := fb == 7 && a.skipped
  { bytes := pack (fmtWidth fa) (cs.map (·.bits)), convs := cs, skip := skip, bad := !skip && !a.matches (fb == 6) }

/-- What a compared row of a DRAIN leaves to be delivered: its outcome and its conversions beside its bytes. -/
def DrainRow.pend (r : DrainRow) (issued ready core addr : Nat) : PendWrite :=
  { issued := issued, ready := ready, core := core, kind := 4, unit := if r.bad then 2 else if r.skip then 1 else 0
    id := 256 * r.convs.countP (·.nan) + r.convs.countP (·.sat), addr := addr, bytes := r.bytes }

/-- DRAIN converts and writes LEN rows from AUX[8:0] to the core store at Y and compares each at the cycle it is written (R118 to
R121). `upsets` are what faults have done to the accumulators (row, lane, bits); at the first mismatch the core fails, at the cycle of the
comparison. -/
def execDrain (w n : Nat) (sl : Slot) (upsets : List (Nat × Nat × Nat)) (s : State) : Host.Outcome State Fault Refusal :=
  let row0 := sl.aux % 512
  let rowLen := 8 * fmtWidth sl.fa
  let ya := s.ownStore w (s.logicalNo w n) ((s.core w n).operand sl.ay sl.oy) (rowLen * sl.len)
  let ok := decide (sl.fa < 8) && sl.fa != 5 && (sl.fb == 6 || sl.fb == 7) && decide (1 ≤ sl.len) && decide (row0 + sl.len ≤ 512)
  .next <| s.issue w n 2 sl.len 0x04 sl ok fun st =>
    let s1 := st.updCore w n fun x =>
      { x with acc := upsets.foldl (fun t u => t.set u.1 (({ x with acc := t }.row u.1).upset u.2.1 u.2.2)) x.acc }
    (List.range sl.len).foldl (init := s1) fun a i =>
      a.deliverTo w (ya.map (· + rowLen * i)) ((drainRow sl.fa sl.fb ((s1.core w n).row (row0 + i))).pend sl.issue (sl.issue + i + 8) n)

/-! ## The movers -/

/-- Where a line that a core reads comes from: nowhere (R16, it reads 0), a Mound that denies it (R183), or a tier address. -/
inductive LineSource where
  | absent
  | denied
  | tier (a : Nat)
  deriving DecidableEq, Repr

/-- The Mound line at an offset of space 4 as a worker's core reads it (R181, R183). -/
def State.moundLine (s : State) (w g off : Nat) : LineSource :=
  let obj := bitsOf off 43 32
  let byte := bitsOf off 31 0
  let o := (s.worker w).objs.get MObj.init obj
  let listed : Bool := match (s.group g).running with | some j => j.mound.contains obj | none => false
  match (s.shares w).1 with
  | none => .denied
  | some r =>
    if (o.state = 2 ∨ o.state = 4) ∧ !o.secondary ∧ listed = true ∧ byte < o.objLen ∧ (o.owner = 0 ∨ o.owner = s.groupOwner g) then
      .tier (machineAddr r.space w (r.base + o.first * 4096 + byte))
    else .denied

/-- Where line `i` of an MRD comes from: in space 4 a line beyond the objects is absent (R181); a tier line that does not exist, or whose
page the group may not read, is absent. -/
def State.mrdLine (s : State) (w g a i : Nat) : LineSource :=
  if addrSpace a = 4 then
    let off := addrOffset a + 64 * i
    if (addrWorker a = w ∨ addrWorker a = s.roleOf w) ∧ off < 2 ^ 44 ∧ off % 64 = 0 then s.moundLine w g off else .absent
  else match s.ownLine w a i with
    | some t => if s.mayRead g t then .tier t else .absent
    | none => .absent

/-- The tier an MRD or MWR at an address takes its counts from: tier B's channel where it is space 1, or a Mound whose primary
share lies there (R181). -/
def State.slowTier (s : State) (w a : Nat) : Bool :=
  if addrSpace a = 4 then
    match (s.shares w).1 with
    | some r => r.space == 1
    | none => false
  else addrSpace a == 1

/-- What one line of an MRD does: the state after its errors, and the line's bytes. -/
def State.readLine (s : State) (w g src errs : Nat) (line : LineSource) : State × List Byte :=
  match line with
  | .absent => (s, List.replicate 64 0)
  | .denied => (s.updWorker w fun x => { x with denied := satInc 0xFFFFFFFF x.denied }, List.replicate 64 0)
  | .tier a =>
    let data := s.tierRead w a 64
    let r := s.lineErrors a errs
    if r.2 then (r.1.localTrigger (sledOf w) g 2, (List.range 64).map fun i => Config.miscorrect s.mgr.fresh (src * 64 + i))
    else if 5 < errs then (r.1, (List.range 64).map fun i => Config.miscorrect s.mgr.fresh (src * 64 + i))
    else (r.1, data)

/-- MRD reads LEN lines of tier A, tier B or Mound into the core store (Table 5.5). `errs` gives the bytes in error of the lines
that have any. -/
def execMrd (w n : Nat) (sl : Slot) (errs : List (Nat × Nat)) (s : State) : Host.Outcome State Fault Refusal :=
  let x := s.core w n
  let a := x.operand sl.ax sl.ox
  let g := (s.coreGroup w (s.logicalNo w n)).getD 32
  let slow := s.slowTier w a
  let occ := if slow then 4 * sl.len else ceilDiv sl.len 4
  let ready := sl.issue + (if slow then 1536 + 4 * (sl.len - 1) else 448 + ceilDiv sl.len 4 - 1)
  let ya := s.ownStore w (s.logicalNo w n) (x.operand sl.ay sl.oy) (64 * sl.len)
  .next <| s.issue w n (if slow then 4 else 3) occ 0x30 sl (decide (1 ≤ sl.len)) fun st =>
    let r := (List.range sl.len).foldl (init := (st, ([] : List Byte))) fun acc i =>
      let e := ((errs.find? fun e => e.1 == i).map (·.2)).getD 0
      let q := acc.1.readLine w g i e (st.mrdLine w g a i)
      (q.1, acc.2 ++ q.2)
    r.1.deliverTo w ya fun b =>
      { issued := sl.issue, ready := ready, core := n, kind := 0, unit := 0, id := 0, addr := b, bytes := r.2 }

/-- The lines that an MWR of `len` lines writes: where all of them may be written, as one range from the first, else one by one those that
may. -/
def State.mwrRanges (s : State) (w g a len : Nat) : List (Nat × Nat × Nat) :=
  let lines := (List.range len).map fun i => (s.ownLine w a i).filter (s.mayWrite g)
  match lines with
  | some t :: rest => if rest.all (·.isSome) then [(t, 0, len)] else lines.zipIdx.filterMap fun l => l.1.map fun t => (t, l.2, 1)
  | _ => lines.zipIdx.filterMap fun l => l.1.map fun t => (t, l.2, 1)

/-- MWR writes LEN lines of the core store to a tier (Table 5.5), encrypted under the key of the page's owner when they are
written (R165). -/
def execMwr (w n : Nat) (sl : Slot) (s : State) : Host.Outcome State Fault Refusal :=
  let x := s.core w n
  let a := x.operand sl.ay sl.oy
  let g := (s.coreGroup w (s.logicalNo w n)).getD 32
  let slow := addrSpace a == 1
  let occ := if slow then 4 * sl.len else ceilDiv sl.len 4
  let ready := sl.issue + (if slow then 1280 + 4 * (sl.len - 1) else 320 + ceilDiv sl.len 4 - 1)
  let xa := s.ownStore w (s.logicalNo w n) (x.operand sl.ax sl.ox) (64 * sl.len)
  .next <| s.issue w n (if slow then 4 else 3) occ 0x31 sl (decide (1 ≤ sl.len)) fun st =>
    let data := st.storeAt w n xa (64 * sl.len)
    st.deliverAll w <| (st.mwrRanges w g a sl.len).map fun r =>
      { issued := sl.issue, ready := ready, core := n, kind := 1, unit := 0, id := 0, addr := r.1
        bytes := (data.drop (64 * r.2.1)).take (64 * r.2.2) }

/-- The board link on which a worker sends a flow of the active image now: the one R17 gives to the site that plays the peer's role
(R225). -/
def State.flowLink (s : State) (w flow : Nat) : Option Nat :=
  match s.img.active with
  | none => none
  | some i =>
    match i.flows.find? fun f => f.flow == flow && f.w == s.roleOf w with
    | none => none
    | some f => some (s.fit.linkTo w (siteOf (s.flowActor (s.fit.linkPeer f.w f.link).1)))

/-- LSEND sends LEN flits of 256 B on the flow AUX[11:0] to a peer's core store (Table 5.5, R204). -/
def execLsend (w n : Nat) (sl : Slot) (s : State) : Host.Outcome State Fault Refusal :=
  let x := s.core w n
  let xa := s.ownStore w (s.logicalNo w n) (x.operand sl.ax sl.ox) (256 * sl.len)
  match storePlace (x.operand sl.ay sl.oy), s.flowLink w (sl.aux % 4096) with
  | some (peerCore, byte), some j =>
    .next <| s.issue w n (6 + j) (ceilDiv (sl.len * 512) 125) 0x40 sl (decide (1 ≤ sl.len) && decide (byte % 64 = 0)) fun st =>
      if ((st.worker w).link j).up then
        st.deliverAll w <| (List.range sl.len).map fun i =>
          { issued := sl.issue, ready := sl.issue + 210 + i * 512 / 125, core := n, kind := 2, unit := j, id := sl.aux % 4096
            addr := (peerCore * 2 ^ 22 + byte + 256 * i) / 64, bytes := st.storeAt w n (xa.map (· + 256 * i)) 256 }
      else st.updLink w j fun l => { l with discard := satAdd 0xFFFFFFFF l.discard sl.len }
  | _, _ => .next s

/-- The optical port on which a worker sends a circuit. -/
def State.circPort (s : State) (w c : Nat) : Nat :=
  ((List.range 4).find? fun p => ((s.worker w).port p).tx == some c).getD (s.endOf (s.circ c).src).2

/-- A group may send a flit to an offset of tier A of a worker (R167): its four lines exist and are pages of the group's owner. -/
def State.maySend (s : State) (g d off : Nat) : Bool :=
  (List.range 4).all fun i =>
    let a := machineAddr 0 d (off + 64 * i)
    s.tierPresent a && s.mayWrite g a

/-- OSEND sends LEN flits on the circuit AUX[11:0] to a tier address at the receiving worker (Table 5.5, R204); on a port under verify
they are discarded (R303). A flit to a page that the group may not write is not sent. -/
def execOsend (w n : Nat) (sl : Slot) (s : State) : Host.Outcome State Fault Refusal :=
  let x := s.core w n
  let c := sl.aux % 4096
  let p := s.circPort w c
  let dst := x.operand sl.ay sl.oy
  let g := (s.coreGroup w (s.logicalNo w n)).getD 32
  let peer := (s.endOf (s.circ c).dst).1
  let xa := s.ownStore w (s.logicalNo w n) (x.operand sl.ax sl.ox) (256 * sl.len)
  let ok := decide (1 ≤ sl.len) && addrSpace dst == 0 && addrOffset dst % 64 == 0
  .next <| s.issue w n (22 + p) (ceilDiv (sl.len * 256) 125) 0x41 sl ok fun st =>
    if (st.circ c).txLive && ((st.worker w).port p).tx == some c && !((st.worker w).port p).loopback then
      st.deliverAll w <| ((List.range sl.len).filter fun i => st.maySend g peer (addrOffset dst + 256 * i)).map fun i =>
        { issued := sl.issue, ready := sl.issue + 24 + i * 256 / 125, core := n, kind := 3, unit := p, id := c
          addr := (addrOffset dst + 256 * i) / 64, bytes := st.storeAt w n (xa.map (· + 256 * i)) 256 }
    else
      (st.updPort w p fun o => { o with discard := satAdd 0xFFFF o.discard sl.len }).updCirc c fun y =>
        { y with discard := satAdd 0xFFFFFFFF y.discard sl.len }

/-! ## The vector unit -/

/-- The lane format is I32 or F32. -/
def laneFmt (f : Nat) : Bool := f == 6 || f == 7

/-- An operation of the vector port that writes one register from the core's registers. -/
def State.vecOp (s : State) (w n op : Nat) (sl : Slot) (occ : Nat) (ok : Bool) (f : StagCore → List Word) : State :=
  s.issue w n 5 occ op sl ok fun st => st.updCore w n fun x => x.setReg sl.rd (f x)

/-- A lane-wise operation of two registers: `fi` on I32 lanes, `ff` on F32 lanes (R122, R144). -/
def State.vecBin (s : State) (w n op : Nat) (sl : Slot) (fi ff : Word → Word → Word) : State :=
  s.vecOp w n op sl 1 (laneFmt sl.fa) fun x => List.zipWith (if sl.fa = 6 then fi else ff) (x.reg sl.ra) (x.reg sl.rb)

/-- A lane-wise F32 operation of one register (Table 5.6). -/
def State.vecUn (s : State) (w n op : Nat) (sl : Slot) (f : Word → Word) : State :=
  s.vecOp w n op sl 2 (sl.fa == 7) fun x => (x.reg sl.ra).map f

/-- The lane an element unpacks into (R142): integers sign-extended, floats exact in F32. -/
def laneOf (f bits : Nat) : Word :=
  if f = 0 ∨ f = 1 ∨ f = 6 then BitVec.ofInt 32 (toSigned (fmtWidth f) bits) else f32Of (decodeFmt f bits)

/-- VLD unpacks LEN registers from the core store at X into vd onward (R142). -/
def execVld (w n : Nat) (sl : Slot) (s : State) : Host.Outcome State Fault Refusal :=
  let regLen := 8 * fmtWidth sl.fa
  let xa := s.ownStore w (s.logicalNo w n) ((s.core w n).operand sl.ax sl.ox) (regLen * sl.len)
  let ok := decide (sl.fa < 8) && sl.fa != 5 && decide (1 ≤ sl.len) && decide (sl.rd + sl.len ≤ 32)
  .next <| s.issue w n 5 sl.len 0x10 sl ok fun st =>
    (List.range sl.len).foldl (init := st) fun a k =>
      let bits := unpack (fmtWidth sl.fa) (st.storeAt w n (xa.map (· + regLen * k)) regLen)
      a.updCore w n fun x => x.setReg (sl.rd + k) (bits.map (laneOf sl.fa))

/-- VST packs LEN registers from va onward into the core store at Y; FB is the lane type; FA = 5 writes Q4B blocks with their
exponents at X (R141, R143). -/
def execVst (w n : Nat) (sl : Slot) (s : State) : Host.Outcome State Fault Refusal :=
  let l := s.logicalNo w n
  let x := s.core w n
  let regLen := 8 * fmtWidth sl.fa
  let ok := decide (sl.fa < 8) && laneFmt sl.fb && !(sl.fa == 5 && sl.fb == 6) && decide (1 ≤ sl.len) && decide (sl.ra + sl.len ≤ 32)
  let ready := sl.issue + 4 + sl.len
  let ya := s.ownStore w l (x.operand sl.ay sl.oy) (regLen * sl.len)
  let xa := s.ownStore w l (x.operand sl.ax sl.ox) (2 * sl.len)
  let out := fun (bytes : List Byte) (addr : Nat) =>
    ({ issued := sl.issue, ready := ready, core := n, kind := 0, unit := 0, id := 0, addr := addr, bytes := bytes } : PendWrite)
  .next <| s.issue w n 5 sl.len 0x11 sl ok fun st =>
    (List.range sl.len).foldl (init := st) fun a k =>
      let lanes := (st.core w n).reg (sl.ra + k)
      if sl.fa = 5 then
        let b0 := q4bEncode (lanes.take 32)
        let b1 := q4bEncode (lanes.drop 32)
        let cs := b0.2 ++ b1.2
        ((a.deliverTo w (ya.map (· + 32 * k)) (out (pack 4 (cs.map (·.bits))))).deliverTo w (xa.map (· + 2 * k))
          (out [BitVec.ofNat 8 b0.1, BitVec.ofNat 8 b1.1])).updCore w n fun y => y.countConv cs
      else
        let cs := lanes.map fun v => convertFmt sl.fa (laneVal sl.fb v)
        (a.deliverTo w (ya.map (· + regLen * k)) (out (pack (fmtWidth sl.fa) (cs.map (·.bits))))).updCore w n fun y => y.countConv cs

/-- VADD: d = a + b. -/
def execVadd (w n : Nat) (sl : Slot) (s : State) : Host.Outcome State Fault Refusal := .next (s.vecBin w n 0x12 sl (· + ·) f32Add)

/-- VSUB: d = a - b. -/
def execVsub (w n : Nat) (sl : Slot) (s : State) : Host.Outcome State Fault Refusal := .next (s.vecBin w n 0x13 sl (· - ·) f32Sub)

/-- VMUL: d = a × b. -/
def execVmul (w n : Nat) (sl : Slot) (s : State) : Host.Outcome State Fault Refusal := .next (s.vecBin w n 0x14 sl (· * ·) f32Mul)

/-- VFMA: d = a × b + c in one rounding, c from LEN[4:0]. -/
def execVfma (w n : Nat) (sl : Slot) (s : State) : Host.Outcome State Fault Refusal :=
  .next <| s.vecOp w n 0x15 sl 1 (laneFmt sl.fa) fun x =>
    List.zipWith (fun (p : Word × Word) c => if sl.fa = 6 then p.1 * p.2 + c else f32Fma p.1 p.2 c)
      (List.zip (x.reg sl.ra) (x.reg sl.rb)) (x.reg (sl.len % 32))

/-- VMAX: d = max(a, b). -/
def execVmax (w n : Nat) (sl : Slot) (s : State) : Host.Outcome State Fault Refusal :=
  .next (s.vecBin w n 0x16 sl (fun a b => if a.toInt < b.toInt then b else a) f32Max)

/-- VMIN: d = min(a, b). -/
def execVmin (w n : Nat) (sl : Slot) (s : State) : Host.Outcome State Fault Refusal :=
  .next (s.vecBin w n 0x17 sl (fun a b => if b.toInt < a.toInt then b else a) f32Min)

/-- VCMPGT: d = 1 where a > b, else 0, in the lane type. -/
def execVcmpgt (w n : Nat) (sl : Slot) (s : State) : Host.Outcome State Fault Refusal :=
  .next (s.vecBin w n 0x18 sl (fun a b => if b.toInt < a.toInt then 1 else 0) fun a b => if f32Gt a b then 0x3F800000 else 0)

/-- VCVT: d = a converted from FB to FA, between lane types (R144), with its outcomes counted (R145). -/
def execVcvt (w n : Nat) (sl : Slot) (s : State) : Host.Outcome State Fault Refusal :=
  .next <| s.issue w n 5 1 0x19 sl (laneFmt sl.fa && laneFmt sl.fb) fun st =>
    let cs := ((st.core w n).reg sl.ra).map fun v => convertFmt sl.fa (laneVal sl.fb v)
    st.updCore w n fun x => (x.setReg sl.rd (cs.map fun c => BitVec.ofNat 32 c.bits)).countConv cs

/-- VEXP: d = e^a. -/
def execVexp (w n : Nat) (sl : Slot) (s : State) : Host.Outcome State Fault Refusal := .next (s.vecUn w n 0x1A sl f32Exp)

/-- VRCP: d = 1 / a. -/
def execVrcp (w n : Nat) (sl : Slot) (s : State) : Host.Outcome State Fault Refusal := .next (s.vecUn w n 0x1B sl f32Rcp)

/-- VRSQRT: d = 1 / √a. -/
def execVrsqrt (w n : Nat) (sl : Slot) (s : State) : Host.Outcome State Fault Refusal := .next (s.vecUn w n 0x1C sl f32Rsqrt)

/-- VTANH: d = tanh a. -/
def execVtanh (w n : Nat) (sl : Slot) (s : State) : Host.Outcome State Fault Refusal := .next (s.vecUn w n 0x1D sl f32Tanh)

/-- VRSUM: the sum of the 64 lanes of a in the pairwise order of R119, into every lane of d. -/
def execVrsum (w n : Nat) (sl : Slot) (s : State) : Host.Outcome State Fault Refusal :=
  .next <| s.vecOp w n 0x1E sl 1 (laneFmt sl.fa) fun x =>
    List.replicate 64 (reduce64 (if sl.fa = 6 then (· + ·) else f32Add) (x.reg sl.ra))

/-- VRMAX: the maximum of the 64 lanes of a, into every lane of d. -/
def execVrmax (w n : Nat) (sl : Slot) (s : State) : Host.Outcome State Fault Refusal :=
  .next <| s.vecOp w n 0x1F sl 1 (laneFmt sl.fa) fun x =>
    List.replicate 64 (reduce64 (if sl.fa = 6 then (fun a b => if a.toInt < b.toInt then b else a) else f32Max) (x.reg sl.ra))

/-- A lane as an operation of a lane type writes it: every NaN that is written is the canonical one (R139). -/
def canonLane (fa : Nat) (v : Word) : Word := if fa = 7 ∧ laneVal 7 v = .nan then BitVec.ofNat 32 fmtF32.nan else v

/-- VBCAST: lane LEN[5:0] of a, into every lane of d. -/
def execVbcast (w n : Nat) (sl : Slot) (s : State) : Host.Outcome State Fault Refusal :=
  .next <| s.vecOp w n 0x20 sl 1 (laneFmt sl.fa) fun x => List.replicate 64 (canonLane sl.fa ((x.reg sl.ra).getD (sl.len % 64) 0))

/-- VPERM: lane k of d = lane (b_k mod 64) of a. -/
def execVperm (w n : Nat) (sl : Slot) (s : State) : Host.Outcome State Fault Refusal :=
  .next <| s.vecOp w n 0x21 sl 1 (laneFmt sl.fa) fun x => (x.reg sl.rb).map fun k => canonLane sl.fa ((x.reg sl.ra).getD (k.toNat % 64) 0)

/-! ## Spares and remapping (R121, R128 to R131) -/

/-- A physical core that can take a logical core: healthy, powered, unmapped. -/
def Worker.freeCore (x : Worker) : Option Nat :=
  (List.range 50).find? fun n => !(x.core n).retired && x.powered (clusterOf n) && (x.logicalOf n).isNone

/-- Healthy, powered, unmapped physical cores (`WKR.SPARES`). -/
def Worker.freeCores (x : Worker) : Nat :=
  (List.range 50).countP fun n => !(x.core n).retired && x.powered (clusterOf n) && (x.logicalOf n).isNone

/-- The highest logical core that the active image does not bind and whose physical core is healthy and powered. -/
def State.exchangeCore (s : State) (w : Nat) : Option Nat :=
  (List.range 48).reverse.find? fun l =>
    (s.bindOf w l).isNone &&
      (match (s.worker w).physOf l with
        | some n => !((s.worker w).core n).retired && (s.worker w).powered (clusterOf n)
        | none => false)

/-- Logical core `l` of a worker, whose physical core is retired, mapped anew (R128): to a free core, by exchange with an unbound
logical core, to nothing where it is unbound; else the worker fails. The core that takes over a bound one has its program area loaded
(R129). -/
def State.remap (s : State) (w l : Nat) : State :=
  match (s.worker w).freeCore with
  | some n => (s.updWorker w fun x => { x with cmap := x.cmap.set l (some n) }).loadProgram w n
  | none =>
    if (s.bindOf w l).isNone then s.updWorker w fun x => { x with cmap := x.cmap.set l none }
    else match s.exchangeCore w with
      | some u =>
        let s1 := s.updWorker w fun x => { x with cmap := (x.cmap.set u none).set l (x.physOf u) }
        match (s.worker w).physOf u with | some n => s1.loadProgram w n | none => s1
      | none => s.declareFailed w

/-- The logical cores of a worker that wait for a physical core. -/
def Worker.unmapped (x : Worker) : List Nat := (List.range 48).filter fun l => (x.physOf l).isNone

/-- The report of a core's retirement reaches the manager (R121): EV_CORE_RETIRED is raised at its next boundary. -/
def execCoreRetirementReport (w n : Nat) (s : State) : Host.Outcome State Fault Refusal :=
  let x := s.core w n
  let l := (s.worker w).logicalOf n
  let role := match l.bind (s.bindOf w) with | some b => b.role | none => 0
  let g := l.bind (s.coreGroup w)
  let handle := if x.cause = 3 then 0xFFFF else match g.bind fun g => (s.group g).running with | some j => j.handle | none => 0xFFFF
  if x.retired ∧ s.workerUp w then
    let s1 := s.updMgr fun m =>
      { m with reports := m.reports ++ [[w, n, l.getD 0xFF, x.cause, role, if x.cause = 3 then 0 else x.faultCycle,
          if x.cause = 3 then 0 else x.faultJ, handle]] }
    match g with
    | some g => .next (if x.cause = 3 then s1 else s1.stopGroup g 1)
    | none => .next s1
  else .next s

/-- A logical core is remapped at a boundary: one whose physical core is retired, or the lowest of those that map to nothing while a core is free
(R128, R129). A bound core of a running group waits for its rollback boundary, which remaps it itself. -/
def execLogicalCoreRemap (w l : Nat) (s : State) : Host.Outcome State Fault Refusal :=
  let waits : Bool := match s.coreGroup w l with | some g => s.groupRuns g | none => false
  if s.workerUp w ∧ l < 48 ∧ !waits then
    match (s.worker w).physOf l with
    | some n => if ((s.worker w).core n).retired then .next (s.remap w l) else .next s
    | none =>
      match (s.worker w).freeCore with
      | some n =>
        if (s.worker w).unmapped.head? = some l then
          .next ((s.updWorker w fun x => { x with cmap := x.cmap.set l (some n) }).loadProgram w n)
        else .next s
      | none => .next s
  else .next s

end Sys2Proof.Machine
end

