-- ==== Sys2Proof/Machine/Links.lean ====
section
/-! DEFINITION. Board links, circuits, ranging and the cabling search (chapter 9), and the eye-safety interlock (R255, R256). -/

namespace Sys2Proof.Machine

/-! ## Flits (R200 to R207) -/

/-- Link credits counted at an end (R206, R207): a credit above the window is dropped and counts under SHORT. -/
def Link.addCredits (x : Link) (n : Nat) : Link :=
  if x.credit + n ≤ 128 then { x with credit := x.credit + n, inRet := x.inRet - n }
  else { x with credit := 128, inRet := x.inRet - n, short := satAdd 0xFF x.short (x.credit + n - 128) }

/-- A DATA flit of a board link reaches the peer core's store (R110, R201); no flit writes outside the data area. -/
def State.landLink (s : State) (w : Nat) (f : Flit) : State :=
  let a := f.arg % 2 ^ 16 * 64
  match (s.worker w).physOf (f.arg / 2 ^ 16 % 64) with
  | some n => if dataBase ≤ a ∧ a + 256 ≤ 0x400000 then s.updCore w n fun x => x.putBytes a f.payload else s
  | none => s

/-- A DATA flit of a circuit reaches tier A of the receiving worker (R149, R169, R201). -/
def State.landPort (s : State) (w : Nat) (f : Flit) : State := s.tierWrite (machineAddr 0 w (f.arg % 2 ^ 32 * 64)) f.payload

/-- The flow with this ID is one of the active image's on the link from `sender` to `w` (R203). -/
def State.flowOn (s : State) (sender w flow : Nat) : Bool :=
  match s.img.active with
  | none => false
  | some i => i.flows.any fun f =>
      f.flow == flow && s.flowActor f.w == sender && s.flowActor (s.fit.linkPeer f.w f.link).1 == w

/-- The groups with a flow on a board link, either way (R202). -/
def State.linkUsers (s : State) (w j : Nat) : List Nat :=
  let p := s.fit.linkPeer w j
  (s.linkGroups w j ++ s.linkGroups p.1 p.2).dedup

/-- A worker port transmits continuously (R201, R218): its beacon while L-ports are searched, else IDLE. -/
def State.portFiller (s : State) (c : Nat) : Flit :=
  let e := s.endOf (s.circ c).src
  let searched := (s.search.on && !s.search.legPass) || (s.lport (s.circ c).src).checkRun.isSome
  if searched then beaconFlit (s.fit.workerIndex e.1) e.2 else idleFlit

/-- The slot of a DATA flit that the receiving end of a board link has taken is free again: its credit is to be returned (R206). -/
def State.freeLinkSlot (s : State) (w j : Nat) : State :=
  let p := s.fit.linkPeer w j
  (s.updLink w j fun x => { x with owed := x.owed + 1 }).updLink p.1 p.2 fun x => { x with inRet := x.inRet + 1 }

/-- A board link's flit that the receiver cannot take (R202, R203): counted as uncorrectable, its slot freed, and every group with a flow on
the link stops. -/
def State.refuseLink (s : State) (w j : Nat) (data : Bool) : State :=
  let s1 := s.updLink w j fun x => { x with uncorr := satInc 0xFFFF x.uncorr }
  (if data then s1.freeLinkSlot w j else s1).localTriggers (sledOf w) (s.linkUsers w j) 3

/-- What arrives at the receiving end of a board link: the first flit on the wire, or IDLE with the credits owed. -/
def State.nextOnLink (s : State) (w j : Nat) : Flit :=
  let p := s.fit.linkPeer w j
  let x := (s.worker p.1).link p.2
  x.wire.headD { idleFlit with cred := min 15 x.owed }

/-- A flit taken off the wire of a board link. -/
def State.takeLink (s : State) (w j : Nat) : State :=
  let p := s.fit.linkPeer w j
  s.updLink p.1 p.2 fun x =>
    match x.wire with
    | [] => { x with owed := x.owed - min 15 x.owed }
    | f :: rest => { x with wire := rest, fly := if f.typ = 1 then x.fly - 1 else x.fly }

/-- A flit at the receiving end of a board link: what was sent, and what the decoder makes of it (R202, R203). A token that decodes is left
for its arrival. -/
def State.receiveLink (s : State) (w j : Nat) (sent : Flit) (err : Nat) (f : Flit) : State :=
  let p := s.fit.linkPeer w j
  let data := sent.typ == 1
  if err = 2 then (s.takeLink w j).refuseLink w j data
  else
    let corr := fun (st : State) => st.updLink w j fun x => { x with corr := if err = 1 then satInc 0xFFFF x.corr else x.corr }
    if sent.typ = 2 then corr s
    else
      let s1 := (corr (s.takeLink w j)).updLink w j fun x => x.addCredits f.cred
      if !data then s1
      else if !(f.typ == 1 && s.flowOn p.1 w f.id) then
        (s1.updLink w j fun x => { x with misroute := satInc 0xFF x.misroute }).refuseLink w j true
      else if (s.hub (sledOf w)).started then
        ((s1.landLink w f).updLink w j fun x => { x with landed := x.landed + 1 }).freeLinkSlot w j
      else s1.updLink w j fun x => { x with occ := x.occ + 1, buf := x.buf ++ [f] }

/-- The receive buffer's slot of a circuit flit is freed: its credit is in return (R206). -/
def Circ.freeSlot (x : Circ) : Circ := { x with inRet := x.inRet + 1 }

/-- A flit taken off a circuit's fiber. -/
def Circ.take (x : Circ) : Circ :=
  match x.wire with
  | [] => x
  | f :: rest => { x with wire := rest, fly := if f.typ = 1 then x.fly - 1 else x.fly }

/-- A circuit's flit that the receiving port cannot take (R202, R203): counted as uncorrectable, its slot freed, and the group of the port's
receive circuit stops. -/
def State.refusePort (s : State) (w p c : Nat) (data : Bool) : State :=
  let s1 := s.updPort w p fun x => { x with uncorr := satInc 0xFFFF x.uncorr }
  let s2 := if data then s1.updCirc c Circ.freeSlot else s1
  s2.localTriggers (sledOf w) (match ((s.worker w).port p).rx with | some r => s.circGroups r | none => []) 3

/-- A flit of circuit `c` at a port: what was sent, and what the decoder makes of it (R202, R203). Flits that cross a disturbance hit arrive
uncorrectable (R242). A token that decodes is left for its arrival. -/
def State.receivePort (s : State) (w p c : Nat) (sent : Flit) (err : Nat) (f : Flit) : State :=
  let data := sent.typ == 1
  if err = 2 ∨ (s.circ c).state = 4 then (s.updCirc c Circ.take).refusePort w p c data
  else
    let corr := fun (st : State) => st.updPort w p fun x => { x with corr := if err = 1 then satInc 0xFFFF x.corr else x.corr }
    if sent.typ = 2 then corr s
    else
      let s1 := corr (s.updCirc c Circ.take)
      if !data then s1
      else if !(f.typ == 1 && ((s.worker w).port p).rx == some f.id && (s.circ f.id).rxLive) then
        (s1.updPort w p fun x => { x with misroute := satInc 0xFF x.misroute }).refusePort w p c true
      else if (s.hub (sledOf w)).started then
        (s1.landPort w f).updCirc c fun x => { x.freeSlot with landed := x.landed + 1 }
      else
        (s1.updPort w p fun x => { x with occ := x.occ + 1, buf := x.buf ++ [f] }).updCirc c fun x => { x with occ := x.occ + 1 }

/-- The next wire flit arrives at a cycle of the receiver's frame, with errors in its bytes (R202, R203). What the worker's cores have written
by that cycle stands first (R150). A link or port that is not up or not powered receives nothing; flits that arrive on a port under
verify are lost (R303). -/
def execFlitReceive (e : WireEnd) (cycle : Nat) (errs : List (Nat × Byte)) (s : State) : Host.Outcome State Fault Refusal :=
  match e with
  | .link w j =>
    if s.workerUp w && decide (j < s.fit.links) && (s.worker w).powered 11 && ((s.worker w).link j).up then
      let f := s.nextOnLink w j
      let r := f.received errs
      .next ((s.flush w cycle).receiveLink w j f r.1 r.2)
    else .next s
  | .port w p c =>
    if s.workerUp w && decide (p < 4) && (s.worker w).powered (9 + p / 2) then
      if ((s.worker w).port p).loopback then .next (s.updCirc c Circ.take)
      else
        let f := (s.circ c).wire.headD (s.portFiller c)
        let r := f.received errs
        .next ((s.flush w cycle).receivePort w p c f r.1 r.2)
    else .next s

/-- What a sled's receive buffers kept through a Hold reaches memory at its first started frame (R77). -/
def State.drainBuffers (s : State) (sled : Nat) : State :=
  s.forEach (s.fit.sledWorkers sled) fun st w =>
    let x := st.worker w
    let s1 := x.links.cells.foldl (init := st) fun a l =>
      l.2.buf.foldl (fun b f => (b.landLink w f).freeLinkSlot w l.1) (a.updLink w l.1 fun y =>
        { y with landed := y.landed + y.buf.length, occ := 0, buf := [] })
    x.ports.cells.foldl (init := s1) fun a o =>
      let b := (o.2.buf.foldl (fun b f => b.landPort w f) a).updPort w o.1 fun y => { y with occ := 0, buf := [] }
      match o.2.rx with
      | none => b
      | some c => b.updCirc c fun y =>
          { y with landed := y.landed + o.2.buf.length, occ := 0, inRet := y.inRet + o.2.buf.length }

/-- A list of flits without its first DATA flit. -/
def dropData : List Flit → List Flit
  | [] => []
  | f :: rest => if f.typ = 1 then rest else f :: dropData rest

/-- The credit of a circuit's oldest flit is counted (R205, R206): it has landed, or, where it has not by its due cycle, it is lost. A flit
that stands in the receive buffer through a Hold keeps its credit until it lands. -/
def Circ.creditDue (x : Circ) : Circ :=
  if 0 < x.inRet then { x with credit := x.credit + 1, inRet := x.inRet - 1 }
  else if 0 < x.fly ∧ x.occ = 0 then { x with credit := x.credit + 1, fly := x.fly - 1, wire := dropData x.wire }
  else x

/-- The credit of a circuit's flit falls due (R205, R207): it is counted up to the window; one that would pass it is dropped and
counts under SHORT. -/
def execCreditDue (c : Nat) (s : State) : Host.Outcome State Fault Refusal :=
  let x := s.circ c
  let w := (s.endOf x.src).1
  if x.window = 0 then .next s
  else if x.credit < x.window then .next (s.updCirc c Circ.creditDue)
  else .next (s.updPort w (s.circPort w c) fun y => { y with short := satInc 0xFF y.short })

/-! ## Tears and settlement (R208 to R212) -/

/-- F plus 1,088 c, in 1/64 c. -/
def dueTime (flight : Nat) : Nat := flight + 1088 * 64

/-- The window of a circuit (Table 9.4). -/
def windowOf (flight : Nat) : Nat := min 52533 (ceilDiv (dueTime flight * 125) (64 * 256) + 1)

/-- L_c of R209. -/
def settleFrames (flight : Nat) : Nat := ceilDiv (dueTime flight) (64 * 8192) + 1

/-- The worker and port of one end of a circuit. -/
def State.circEnd (s : State) (c : Nat) (rx : Bool) : Nat × Nat := s.endOf (if rx then (s.circ c).dst else (s.circ c).src)

/-- The worker and port at an end of a circuit when it was torn; of one that is not torn, its present ones. -/
def State.tornEnd (s : State) (c : Nat) (rx : Bool) : Nat × Nat :=
  match (s.circ c).tear with
  | some t => s.endOf (if rx then t.dst else t.src)
  | none => s.circEnd c rx

/-- The port at one end of a circuit lets go of it. -/
def State.clearPort (s : State) (c : Nat) (rx : Bool) : State :=
  let e := s.tornEnd c rx
  s.updPort e.1 e.2 fun x =>
    if rx then (if x.rx = some c then { x with rx := none } else x) else (if x.tx = some c then { x with tx := none } else x)

/-- One end of a circuit applies its tear: it is not live there from this boundary, and settlement follows after L_c started frames,
two more at the receiver (R208, R209). -/
def State.applyTear (s : State) (c : Nat) (rx : Bool) : State :=
  let lc := settleFrames (s.circ c).flight
  (s.clearPort c rx).updCirc c fun x =>
    { x with
      tear := x.tear.map fun t =>
        if rx then { t with rxDone := true, rxLeft := lc + 2 } else { t with txDone := true, txLeft := lc } }

/-- An end of a circuit applies a tear at its first sled boundary after notice (R208), which comes after the manager's decision. -/
def execCircuitTear (c : Nat) (rxEnd : Bool) (s : State) : Host.Outcome State Fault Refusal :=
  match (s.circ c).tear with
  | none => .next s
  | some t => if (if rxEnd then t.rxDone else t.txDone) || decide (s.mgr.frame < t.frame) then .next s else .next (s.applyTear c rxEnd)

/-- The seam of a started frame has come for a worker: its sled runs a frame, and none of its cores has a slot to issue. -/
def State.inSeam (s : State) (w : Nat) : Bool := (s.hub (sledOf w)).started && !s.slotsLeft w

/-- In the seam of its settlement frame, a started one, an end sets its books and reports (R209). -/
def execSettlement (r : WireRef) (rxEnd : Bool) (s : State) : Host.Outcome State Fault Refusal :=
  match r with
  | .circuit c =>
    match (s.circ c).tear with
    | none => .next s
    | some t =>
      let e := s.tornEnd c rxEnd
      if !s.inSeam e.1 then .next s
      else if rxEnd then
        if t.rxDone && !t.rxSettled && t.rxLeft == 0 then
          .next <| (s.updPort e.1 e.2 fun x => { x with occ := 0, buf := [] }).updCirc c fun x =>
            { x with occ := 0, tear := some { t with rxSettled := true } }
        else .next s
      else if t.txDone && !t.txSettled && t.txLeft == 0 then
        .next <| s.updCirc c fun x =>
          { x with credit := x.window, fly := 0, inRet := 0, wire := [], tear := some { t with txSettled := true } }
      else .next s
  | .link w j =>
    let e := if rxEnd then s.fit.linkPeer w j else (w, j)
    let x := (s.worker e.1).link e.2
    if x.torn && !x.settled && s.inSeam e.1 then
      .next <| s.updLink e.1 e.2 fun y =>
        { y with credit := 128, fly := 0, occ := 0, inRet := 0, owed := 0, wire := [], buf := [], settled := true }
    else .next s

/-- EV_CIRCUIT_TORN for one flow of a torn board link (R210). -/
def State.raiseFlowTorn (s : State) (w j : Nat) (f : FlowDef) : State :=
  let p := s.fit.linkPeer w j
  let fwd := s.flowActor f.w == w
  let tx := if fwd then (s.worker w).link j else (s.worker p.1).link p.2
  let rx := if fwd then (s.worker p.1).link p.2 else (s.worker w).link j
  s.raise 0x0005 [(0, 2, f.flow), (2, 1, tx.cause), (3, 1, 128), (4, 4, tx.tornAt % 2 ^ 32), (8, 4, tx.sent - rx.landed),
    (12, 4, tx.discard)]

/-- The flows of the active image that a board link carries, either way. -/
def State.flowsOf (s : State) (w j : Nat) : List FlowDef :=
  match s.img.active with
  | none => []
  | some i =>
    let p := (s.fit.linkPeer w j).1
    i.flows.filter fun f =>
      let a := s.flowActor f.w
      let b := s.flowActor (s.fit.linkPeer f.w f.link).1
      (a == w && b == p) || (a == p && b == w)

/-- The active image has a circuit. -/
def State.inImage (s : State) (c : Nat) : Bool := match s.img.active with | some i => i.circs.any fun d => d.cid == c | none => false

/-- The records of circuits that no image has any more, but for tears still to be reported. -/
def State.clearCircs (s : State) : State :=
  { s with circs := ⟨s.circs.cells.filter fun c => match c.2.tear with | some t => !t.reported | none => c.2.standing⟩ }

/-- Both ends have reported, and the manager raises EV_CIRCUIT_TORN with the flits lost (R210). A torn circuit of no image is gone. -/
def execEvCircuitTorn (r : WireRef) (s : State) : Host.Outcome State Fault Refusal :=
  match r with
  | .circuit c =>
    let x := s.circ c
    match x.tear with
    | none => .next s
    | some t =>
      if t.txSettled && t.rxSettled && !t.reported then
        let lost := x.sent - x.landed
        let e := s.tornEnd c false
        let s1 := s.raise 0x0005 [(0, 2, c), (2, 1, t.cause), (4, 4, t.frame % 2 ^ 32), (8, 4, lost), (12, 4, x.discard)]
        .next <| ((s1.updPort e.1 e.2 fun y => { y with lost := satAdd 0xFFFFFFFF y.lost lost }).updCirc c fun y =>
          { y with
            sent := 0, landed := 0, discard := 0, tear := some { t with reported := true }
            state := if y.state = 6 ∧ !s.inImage c then 0 else y.state }).planInput
      else .next s
  | .link w j =>
    let p := s.fit.linkPeer w j
    let a := (s.worker w).link j
    let b := (s.worker p.1).link p.2
    if a.torn && a.settled && b.torn && b.settled then
      let s1 := (s.flowsOf w j).foldl (fun st f => st.raiseFlowTorn w j f) s
      let clear : Link → Link := fun y => { y with torn := false, sent := 0, landed := 0, discard := 0 }
      .next ((s1.updLink w j clear).updLink p.1 p.2 clear)
    else .next s

/-- A board link's lanes lose lock: it is torn at this boundary with cause 7h and retrains (R212). -/
def execLaneLockLoss (w j : Nat) (s : State) : Host.Outcome State Fault Refusal :=
  if s.workerUp w && decide (j < s.fit.links) && ((s.worker w).link j).up then
    .next ((s.tearLink w j 7).localTriggers (sledOf w) (s.linkUsers w j) 3)
  else .next s

/-- A board link is not up within 64 frames: the worker of the pair with the higher site index is declared failed (R212). -/
def execLinkRetrainTimeout (w j : Nat) (s : State) : Host.Outcome State Fault Refusal :=
  let p := s.fit.linkPeer w j
  let x := (s.worker w).link j
  if s.workerUp w && s.workerUp p.1 && decide (j < s.fit.links) && !x.up && x.cause == 7 && decide (64 ≤ x.downFor) then
    .next (s.declareFailed (if s.fit.siteIndex (siteOf w) < s.fit.siteIndex (siteOf p.1) then p.1 else w))
  else .next s

/-- A board link has trained again (R212): it is up at both ends, its books as settlement left them. -/
def execBoardLinkRetrained (w j : Nat) (s : State) : Host.Outcome State Fault Refusal :=
  let p := s.fit.linkPeer w j
  let a := (s.worker w).link j
  let b := (s.worker p.1).link p.2
  if s.workerUp w && s.workerUp p.1 && decide (j < s.fit.links) && !a.up && a.settled && b.settled && (s.worker w).powered 11 &&
      (s.worker p.1).powered 11 then
    let up : Link → Link := fun y => { y with up := true, downFor := 0, cause := 0 }
    .next ((s.updLink w j up).updLink p.1 p.2 up)
  else .next s

/-! ## Ranging and set-up (R215 to R217, R243) -/

/-- Frame at which ranging of a circuit begins (R215). -/
def Circ.rangeFrom (x : Circ) : Nat := x.setupAt + 12

/-- The flight time of a circuit from its samples (R215), once its four are taken. -/
def State.rangeDone (s : State) (c : Nat) : State :=
  let x := s.circ c
  let a := s.lport x.src
  let b := s.lport x.dst
  let f := a.leg + x.samples.foldl max 0 + b.leg
  if x.samples.length < 4 then s
  else if !a.legValid || !b.legValid then s.updCirc c fun y => { y with flightSt := 3, rejected := true }
  else s.updCirc c fun y =>
    { y with flight := f % 2 ^ 23, flightSt := if x.budget < f then 2 else 1, rejected := decide (x.budget < f) }

/-- Times of a tap are taken in 1/65,536 c: a resolution step of 1/64 c holds 1,024 of them. -/
def tapSteps : Nat := 1024

/-- A sample classified at its stop (R216): less than one resolution step after its start it is SUBRES, before its start ORDER. -/
def sampleOf (start stop : Nat) : Sample :=
  if stop < start then .order else if stop - start < tapSteps then .subres else .val ((stop - start) / tapSteps)

/-- In a ranging frame the sender emits a MARKER, and Cricket takes one plane-transit sample from the first it sees in the manager frame; a
flagged one is taken again in the next, and a fourth rejects the circuit (R215, R216). Circuits suspended in Doze are ranged in the wake
sequence (R72). -/
def execRangingSample (c start stop : Nat) (s : State) : Host.Outcome State Fault Refusal :=
  let y := s.circ c
  if (y.state = 1 ∨ (y.state = 7 ∧ s.mgr.wakeStart.isSome)) ∧ !y.rejected ∧ y.samples.length < 4 ∧ y.rangeFrom ≤ s.mgr.frame ∧
      y.sampledAt ≤ s.mgr.frame then
    let s1 := s.updCirc c fun z =>
      { z with sampledAt := s.mgr.frame + 1, wire := z.wire ++ [markerFlit c (z.samples.length + z.retakes)] }
    match sampleOf start stop with
    | .val n => .next ((s1.updCirc c fun z => { z with samples := z.samples ++ [n] }).rangeDone c)
    | _ =>
      if y.retakes < 3 then .next (s1.updCirc c fun z => { z with retakes := z.retakes + 1 })
      else .next (s1.updCirc c fun z => { z with rejected := true, flightSt := 3 })
  else .next s

/-- The usable limit of a quality class, 0.01 dB (Table 10.4). -/
def usableLimit (q : Nat) : Nat := 400 + 100 * q

/-- The lock limit of a quality class, 0.01 dB. -/
def lockLimit (q : Nat) : Nat := 350 + 100 * q

/-- A torn circuit whose settlement is outstanding at an L-port of this one (R211); its own last tear has been reported too. -/
def State.unsettledOn (s : State) (c q : Nat) (rx : Bool) : Bool :=
  s.circs.cells.any fun p =>
    match p.2.tear with
    | some t => (if rx then t.dst == q else t.src == q) && !(t.txSettled && t.rxSettled && (t.reported || p.1 != c))
    | none => false

/-- L of a group from the ranged flight times of its barrier circuits (R47). -/
def State.latOf (s : State) (g : Nat) : Nat :=
  let fs := (s.circs.cells.filter fun c =>
    c.2.barrier && c.2.standing && c.2.flightSt == 1 && s.groupCircuit g c.1).map fun c => c.2.flight
  match fs with
  | [] => 2
  | _ => ceilDiv (fs.foldl max 0) (64 * 8192) + 2

/-- L of a group computed and written to its participants. -/
def State.setLat (s : State) (g : Nat) : State :=
  let l := s.latOf g
  (s.updGroup g fun x => { x with lat := l }).forEach (s.participants g) fun st w => st.updWorker w fun x => { x with lat := l }

/-- The switch-in to which a circuit belongs, by its sled (R226): one of its ends is on the spare site there. -/
def State.switchInOf (s : State) (c : Nat) : List Nat :=
  ([s.circEnd c false, s.circEnd c true].filter fun e => siteOf e.1 == 16 && (s.hub (sledOf e.1)).spare.phase == 1).map fun e => sledOf e.1

/-- A circuit that fails is DOWN (R217). The ends of a torn one let go of it at their own boundaries (R208). A switch-in that it belongs to
ends (R226). -/
def State.downCircuit (s : State) (c : Nat) : State :=
  let s0 := if (s.circ c).tear.isSome then s else (s.clearPort c false).clearPort c true
  (s0.updCirc c fun x => { x with state := 5 }).forEach (s.switchInOf c) State.endSwitchIn |>.planInput

/-- A circuit becomes usable: its window, its books, its ports, and L of its groups (R205, R243). -/
def State.makeUsable (s : State) (c loss : Nat) : State :=
  let a := s.circEnd c false
  let b := s.circEnd c true
  let s1 := s.updCirc c fun y =>
    { y with
      state := 2, window := windowOf y.flight, credit := windowOf y.flight, fly := 0, occ := 0, inRet := 0, sent := 0, landed := 0
      discard := 0, wire := [], tear := none, loss := loss, usableAt := s.mgr.frame, lockT := 0, wasLocked := false, tx7 := false
      rx7 := false }
  let s2 := (s1.updPort a.1 a.2 fun x => { x with tx := some c }).updPort b.1 b.2 fun x => { x with rx := some c }
  let s3 := if (s.circ c).barrier then s2.forEach (s.circGroups c) fun st g => st.setLat g else s2
  s3.planInput

/-- At a manager boundary a circuit that has been ranged becomes usable where it meets its limit, waits for it until its deadline, or
is DOWN (R211, R217, R221, R243). A suspended one that fails in the wake sequence is DOWN at its end (R72). -/
def execCircuitUsable (c loss : Nat) (s : State) : Host.Outcome State Fault Refusal :=
  let x := s.circ c
  let s1 := s.updCirc c fun y => { y with loss := loss }
  let fits := !x.rejected && s.lportConfirmed x.src && s.lportConfirmed x.dst
  let ready := fits && decide (x.samples.length = 4 ∧ x.setupAt + 16 + x.retakes ≤ s.mgr.frame ∧ loss ≤ usableLimit x.qclass) &&
    !s.unsettledOn c x.src false && !s.unsettledOn c x.dst true
  if x.state = 7 ∧ s.mgr.wakeStart.isSome then
    if ready then .next (s.makeUsable c loss)
    else if fits then .next s1
    else .next (s1.updCirc c fun y => { y with rejected := true })
  else if x.state = 1 then
    if !fits then .next (s.downCircuit c)
    else if ready then .next (s.makeUsable c loss)
    else if x.due ≤ s.mgr.frame then .next (s1.downCircuit c)
    else .next s1
  else .next s

/-! ## The cabling search (R218 to R223) -/

/-- The worker L-ports. -/
def Fit.workerLPorts (f : Fit) : List Nat := if f.lacewing then List.range f.workerPorts else []

/-- Ports of one search round, and of one leg group (R214, R218). -/
def roundSize : Nat := 16

/-- Ports of one leg group (R214). -/
def Fit.legSize (f : Fit) : Nat := match f.variant with | .tq8 => 15 | _ => 16

/-- A one-port check runs. -/
def State.checkRunning (s : State) : Bool := s.lports.cells.any fun p => p.2.checkRun.isSome

/-- Manager frames of a search round, and of a leg group (R214, R218). -/
def roundFrames : Nat := 4

def legFrames : Nat := 16

/-- A full search started from a presence snapshot (R218). -/
def State.startSearch (s : State) (cmd : Option Cmd) : State :=
  let closed := s.fit.workerLPorts.filter fun q => (s.lport q).contact
  s.updSearch fun x =>
    { x with
      on := true, pass := 0, pending := closed, todo := closed, marked := [], found := [], legPass := false, legTodo := [], left := roundFrames
      means := Tab.empty, cmd := cmd }

/-- CABLE_SEARCH starts a full search (R218). -/
def State.cableSearch (s : State) (c : Cmd) : State :=
  s.decideCmd c 0x0063 true true [.quiescent]
    [(s.fit.lacewing, stCapMismatch), (!(s.search.on || s.checkRunning), stBusy)] fun st => (st.interim c).startSearch (some c)

def execCableSearch (c : Cmd) (s : State) : Host.Outcome State Fault Refusal := .next (s.cableSearch c)

/-- Frame means of an input tap, the last of the frames before among them, of which one differs from the one before it by more than 3.0 dB
(R219). -/
def tapJumps (last : Option Int) : List Int → Bool
  | [] => false
  | m :: rest => (last.any fun l => decide (300 < (m - l).natAbs)) || tapJumps (some m) rest

/-- What is found at the L-port that sniffer 560 + i checks (R218): the port that the beacon read there names, and the port that reports the
sniffer's beacon for the L-port. -/
def foundIn (r : RoundSeen) (i q : Nat) : Finding :=
  { q := q
    tx := match r.sniffed.find? fun h => h.1 == i with | some h => if h.2.testBit 39 then 1023 else h.2 % 1024 | none => 1023
    rx := match r.heard.find? fun h => h.2 == (snifferFlit q).arg with | some h => h.1 % 1024 | none => 1023 }

/-- A round of four frames checks up to 16 L-ports (R218), at the end of its last frame; L-ports at which a change is seen are marked
(R219). -/
def execSearchRound (seen : RoundSeen) (s : State) : Host.Outcome State Fault Refusal :=
  let x := s.search
  if x.on && !x.legPass && !x.todo.isEmpty && x.left == 0 then
    let now := x.todo.take roundSize
    let jumps := (seen.taps.filter fun t => decide (t.1 < s.fit.workerPorts) && tapJumps (x.means.get? t.1) t.2).map (·.1)
    .next <| s.updSearch fun y =>
      { y with
        todo := y.todo.drop roundSize
        found := (y.found.filter fun f => !now.contains f.q) ++ now.zipIdx.map fun q => foundIn seen q.2 q.1
        marked := y.marked ++ jumps.dedup.filter fun q => !y.marked.contains q
        left := roundFrames
        means := seen.taps.foldl (fun m t => match t.2.getLast? with | some v => m.set t.1 v | none => m) y.means }
  else .next s

/-- The finding of an L-port. -/
def findingOf (l : List Finding) (q : Nat) : Finding := (l.find? fun f => f.q == q).getD { q := q, tx := 1023, rx := 1023 }

/-- The L-port with which `q` is exchanged (Table 9.6). -/
def swapPartner (f : Fit) (l : List Finding) (q : Nat) : Option Nat :=
  let a := findingOf l q
  (l.find? fun b =>
    b.q != q && a.tx == f.planned b.q && a.rx == f.planned b.q && b.tx == f.planned q && b.rx == f.planned q).map (·.q)

/-- The result of an L-port (Table 9.6): 0 confirmed, 1 empty, 2 swapped, 3 mismatch, 4 unstable. -/
def classify (f : Fit) (l : List Finding) (unstable : List Nat) (contact : Bool) (q : Nat) : Nat :=
  let a := findingOf l q
  if unstable.contains q then 4
  else if !contact || (a.tx == 1023 && a.rx == 1023) then 1
  else if a.tx == f.planned q && a.rx == f.planned q then 0
  else if (swapPartner f l q).isSome then 2
  else 3

/-- The active image lets the planner adopt exchanged pairs (R222). -/
def State.adopts (s : State) : Bool := match s.img.active with | some i => i.adopt | none => false

/-- The event of an L-port's result (Table 9.6). -/
def State.raiseCabling (s : State) (q result repeats : Nat) (l : List Finding) : State :=
  let a := findingOf l q
  if result = 2 then
    match swapPartner s.fit l q with
    | some r => s.raise 0x000F [(0, 2, min q r), (2, 2, max q r), (4, 1, bit1 s.adopts)]
    | none => s
  else if result = 3 then s.raise 0x000E [(0, 2, q), (2, 2, s.fit.planned q), (4, 2, a.tx), (6, 2, a.rx)]
  else if result = 4 then s.raise 0x0010 [(0, 2, q), (2, 2, a.tx), (4, 2, a.rx), (6, 1, repeats)]
  else s

/-- An L-port's result recorded in `CRK.PORTMAP_q` (R220); an exchanged pair is adopted where the active image says so (R222). -/
def State.putResult (s : State) (q result : Nat) (l : List Finding) : State :=
  let a := findingOf l q
  s.updLPort q fun p =>
    { p with
      result := result, txFound := a.tx, rxFound := a.rx, searched := true, adopted := result == 2 && s.adopts
      legValid := false, leg := 0 }

/-- An L-port's result recorded, with its event (R220). -/
def State.recordResult (s : State) (q result repeats : Nat) (l : List Finding) : State :=
  (s.putResult q result l).raiseCabling q result repeats l

/-- A result of a full search recorded; the event of an exchanged pair is raised with its lower L-port (R220). -/
def State.searchResult (s : State) (q result : Nat) (l : List Finding) : State :=
  if result = 2 ∧ (swapPartner s.fit l q).any (fun r => decide (r < q)) then s.putResult q result l else s.recordResult q result 0 l

/-- A search ends: its command completes, and e19 counts (Table 13.6). -/
def State.endSearch (s : State) : State :=
  let c := s.search.cmd
  ((s.updSearch fun x => { x with on := false, legPass := false, legTodo := [], cmd := none }).final? c stOk).arrive 19 1 0

/-- A pass ends: changed L-ports are redone, up to pass 3, and then every L-port is classified and the leg pass begins (R214,
R219, R220). -/
def execSearchPassEnd (s : State) : Host.Outcome State Fault Refusal :=
  let x := s.search
  if x.on && !x.legPass && x.todo.isEmpty then
    if !x.marked.isEmpty ∧ x.pass < 3 then
      let again := x.marked.mergeSort (· ≤ ·)
      .next <| s.updSearch fun y => { y with pass := y.pass + 1, pending := again, todo := again, marked := [], left := roundFrames }
    else
      let res := s.fit.workerLPorts.map fun q => (q, classify s.fit x.found x.marked ((s.lport q).contact) q)
      let s1 := res.foldl (fun st r => st.searchResult r.1 r.2 x.found) s
      let legs := (res.filter fun r => r.2 == 0 || r.2 == 2).map (·.1)
      let s2 := (s1.updSearch fun y => { y with legPass := true, legTodo := legs, marked := [], pending := [], left := legFrames }).planInput
      .next (if legs.isEmpty then s2.endSearch else s2)
  else .next s

/-- The factory constant of reflector L-port 544 + i, in 1/64 c (R213, Table 12.1): from the TILE record of the tile it stands on. -/
def State.reflectorConst (s : State) (i : Nat) : Nat :=
  let t := (s.fit.edgeOf (544 + i)).1
  let before := ((List.range i).filter fun k => (s.fit.edgeOf (544 + k)).1 == t).length
  min (512 * 64) ((s.tile t).cal.val t 6 0 (10 + before) 0).toNat

/-- The first round trip, of the four that a group measures, that is no misfire (R214, R216). -/
def roundTripOf (m : LegMeas) : Option Nat :=
  (m.trips.take 4).findSome? fun t => match sampleOf t.1 t.2 with | .val n => some n | _ => none

/-- The leg of an L-port measured through reflector 544 + i (R213, R214): none above 1,023 63/64 c, none from flagged round trips. -/
def State.recordLeg (s : State) (m : LegMeas) (i : Nat) : State :=
  let loop := m.seg1 + m.seg2 + s.reflectorConst i
  let leg := (roundTripOf m).bind fun rt => if loop ≤ rt ∧ (rt - loop) / 2 ≤ 65535 then some ((rt - loop) / 2) else none
  s.updLPort m.q fun p => { p with legValid := leg.isSome, leg := leg.getD 0 }

/-- L-ports measured in one group, the i-th through reflector 544 + i. -/
def State.recordLegs (s : State) (meas : List LegMeas) (qs : List Nat) : State :=
  qs.zipIdx.foldl (init := s) fun st q => match meas.find? fun m => m.q == q.1 with | some m => st.recordLeg m q.2 | none => st

/-- A leg group of 16 frames measures its L-ports through the reflectors (R213, R214). -/
def execLegGroup (meas : List LegMeas) (s : State) : Host.Outcome State Fault Refusal :=
  let x := s.search
  if x.on && x.legPass && !x.legTodo.isEmpty && x.left == 0 then
    let rest := x.legTodo.drop s.fit.legSize
    let s1 := s.recordLegs meas (x.legTodo.take s.fit.legSize)
    let s2 := (s1.updSearch fun y => { y with legTodo := rest, left := legFrames }).planInput
    .next (if rest.isEmpty then s2.endSearch else s2)
  else .next s

/-! ## The interlock (R255, R256) -/

/-- Outputs held at glow over all modules (`GLW.EYE.GLOWS`). -/
def State.glows (s : State) : Nat := (s.modules.cells.map fun m => popCount m.2.glow 16).sum

/-- Splitter output `m` of module `k` taken to glow by the interlock; `GLW.EYE.TRIPPED` rises with the first (e3). -/
def State.toGlow (s : State) (k m : Nat) : State :=
  let s1 := s.updModule k fun x => { x with glow := putBit x.glow m true, ramp := x.ramp.erase m }
  if s.glows = 0 then s1.arrive 3 1 0 else s1

/-- The splitter output that feeds L-port `q`, if one does, taken to glow (R26, R255). -/
def State.glowFeed (s : State) (q : Nat) : State := match feedOf q with | some f => s.toGlow f.1 f.2 | none => s

/-- The interlock acts on an open contact at L-port `q` or at the worker port cabled to it (R255). -/
def State.interlock (s : State) (q : Nat) : State :=
  let s1 := s.glowFeed q
  match s.circs.cells.find? fun c => c.2.standing && c.2.dst == q with
  | some c => s1.glowFeed c.2.src
  | none => s1

/-- A change of an L-port's contact during the rounds of a search marks it for a redo (R219). -/
def State.markChange (s : State) (q : Nat) : State :=
  s.updSearch fun x =>
    if x.on && !x.legPass && !x.marked.contains q then { x with marked := x.marked ++ [q] } else x

/-- An L-port's contact reads open: its outputs go to glow, its circuits are torn with cause 3h, and it is unconfirmed until a check
passes (R223, R255). -/
def execPresenceContactOpen (q : Nat) (s : State) : Host.Outcome State Fault Refusal :=
  if s.fit.lportOk q && (s.lport q).contact && !(s.mgr.mode == .off) then
    let cs := s.circsOfLPort q
    let s1 := s.interlock q
    let s2 := (s1.updLPort q fun p =>
      { p with contact := false, searched := false, changed := true, checkDue := if p.checkRun.isSome then p.checkDue else none }).arrive 2 1 0
    let s3 := s2.tearCircuits cs 3
    .next (if q < s.fit.workerPorts then s3.markChange q else s3).planInput
  else .next s

/-- A worker port's contact opens: the interlock acts as for its L-port (R255). -/
def execWorkerPortContactOpen (w p : Nat) (s : State) : Host.Outcome State Fault Refusal :=
  if s.fit.lacewing && s.workerUp w && decide (p < 4) && ((s.worker w).port p).contact && !(s.mgr.mode == .off) then
    .next ((s.interlock (s.fit.lportOf w p)).updPort w p fun x => { x with contact := false })
  else .next s

/-- Return light above threshold takes a splitter output to glow (R255). -/
def execReturnLight (k m : Nat) (s : State) : Host.Outcome State Fault Refusal :=
  if s.fit.moduleOk k && decide (m < 16) && !(s.mgr.mode == .off) then .next (s.toGlow k m) else .next s

/-- The L-port a splitter output feeds (R26). -/
def fedPort (k m : Nat) : Nat := if k = 34 then 560 + m else 16 * k + m

/-- An output at glow may leave it: the contacts involved are closed and the check of R223 has passed (R256). -/
def State.glowClear (s : State) (k m : Nat) : Bool :=
  let q := fedPort k m
  let e := s.endOf q
  let closed := fun r => (s.lport r).contact && ((s.lport r).checkDue).isNone
  closed q && (k == 34 || (((s.worker e.1).port e.2).contact && (s.lport q).searched && ((s.lport q).result == 0 || (s.lport q).adopted))) &&
    (s.circs.cells.filter fun c => c.2.src == q && c.2.state != 0).all fun c => closed c.2.dst

/-- Contacts are closed, return light is low and the check has passed: the output ramps to its set-point over 64 manager frames
(R256). -/
def execGlowRelease (k m : Nat) (s : State) : Host.Outcome State Fault Refusal :=
  if s.fit.moduleOk k && decide (m < 16) && (s.module k).glow.testBit m && s.glowClear k m then
    .next <| s.updModule k fun x => { x with glow := putBit x.glow m false, ramp := x.ramp.set m s.mgr.frame }
  else .next s

/-- A contact closes (R223): during the rounds of a search the change marks the L-port; outside them a one-port check is scheduled, or,
where one runs for the L-port, the change is seen by it. -/
def execPresenceContactClose (q : Nat) (s : State) : Host.Outcome State Fault Refusal :=
  if s.fit.lportOk q && !(s.lport q).contact then
    let s1 := (s.updLPort q fun p => { p with contact := true }).arrive 2 1 0
    if q < s.fit.workerPorts then
      let e := s.endOf q
      let s2 := s1.updPort e.1 e.2 fun x => { x with contact := true }
      if s.search.on && !s.search.legPass then .next (s2.markChange q)
      else .next <| s2.updLPort q fun p =>
        if p.checkRun.isSome then { p with changed := true } else { p with checkDue := some s.mgr.frame, repeats := 0 }
    else .next s1
  else .next s

/-- Circuits of the plane on an edge tile, at its ingress or its egress (R24). -/
def State.edgeLoad (s : State) (i : Nat) (egress : Bool) : Nat :=
  s.circs.cells.countP fun c => c.2.standing && (s.fit.edgeOf (if egress then c.2.dst else c.2.src)).1 == i

/-- An L-port's edge tiles have room for a ranging or sniffer circuit (R24): on a half plane each carries at most 16 circuits. -/
def State.edgeRoom (s : State) (q : Nat) : Bool :=
  match s.fit.variant with
  | .tq8 => [false, true].all fun egress => decide (s.edgeLoad (s.fit.edgeOf q).1 egress < 16)
  | _ => true

/-- The one-port check of an L-port may start (R223): its sniffer and its reflector are free, and the tiles have room. -/
def State.checkMayStart (s : State) (q : Nat) : Bool :=
  !s.search.on && !s.checkRunning && (s.lport q).contact && (s.circsOfLPort 544).isEmpty && (s.circsOfLPort 560).isEmpty &&
    [q, 544, 560].all s.edgeRoom

/-- States in which one-port checks run (R223). -/
def MState.checks (m : MState) : Bool := !m.deaf && m != .doze && m != .hold && m != .limp

/-- At a manager boundary a scheduled one-port check starts, where it may (R223); those of several L-ports run one after the other, since
each needs the first sniffer. -/
def State.startChecks (s : State) : State :=
  if s.mgr.mode.checks then
    match s.lports.cells.find? fun p => p.2.checkDue.isSome && s.checkMayStart p.1 with
    | some p => s.updLPort p.1 fun x => { x with checkRun := some s.mgr.frame, changed := false }
    | none => s
  else s

/-- A frame of the cabling search is over. -/
def State.countSearch (s : State) : State := s.updSearch fun x => { x with left := x.left - 1 }

/-- The findings that `CRK.PORTMAP_q` holds of every worker L-port but one. -/
def State.storedFindings (s : State) (q : Nat) : List Finding :=
  (s.lports.cells.filter fun p => p.1 != q && p.2.searched).map fun p => { q := p.1, tx := p.2.txFound, rx := p.2.rxFound }

/-- The other L-ports whose class a check has changed (R220): of pairs that it has completed or broken up. -/
def State.reclassed (s : State) (q : Nat) (l : List Finding) : List (Nat × Nat) :=
  (s.lports.cells.filter fun p => p.1 != q && p.2.searched && (p.2.result == 2 || p.2.result == 3)).filterMap fun p =>
    let r := classify s.fit l [] p.2.contact p.1
    if r = p.2.result then none else some (p.1, r)

/-- A one-port check that has found a class (R220, R222, R223): it is recorded, the other port of a pair with it, and the legs are
measured. -/
def State.checkResult (s : State) (q : Nat) (l : List Finding) (meas : List LegMeas) : State :=
  let r := classify s.fit l [] (s.lport q).contact q
  let others := s.reclassed q l
  let s1 := s.recordResult q r 0 l
  let s2 := others.foldl (fun st o => if o.2 = 2 then st.putResult o.1 2 l else st.recordResult o.1 o.2 0 l) s1
  s2.recordLegs meas (((q, r) :: others).filter (fun o => o.2 == 0 || o.2 == 2) |>.map (·.1))

/-- A one-port check ends (R223): one round and one leg group after its start. A change repeats it; after three repeats the port is
UNSTABLE. -/
def execOnePortCheck (q : Nat) (seen : RoundSeen) (meas : List LegMeas) (s : State) : Host.Outcome State Fault Refusal :=
  let p := s.lport q
  match p.checkRun with
  | none => .next s
  | some f =>
    if s.mgr.mode.checks && decide (f + roundFrames + legFrames ≤ s.mgr.frame) then
      let moved := p.changed || seen.taps.any fun t => t.1 == q && tapJumps none t.2
      let l := foundIn seen 0 q :: s.storedFindings q
      if moved ∧ p.repeats < 3 then
        .next (s.updLPort q fun x => { x with repeats := x.repeats + 1, checkRun := some s.mgr.frame, changed := false })
      else
        let done := (s.updLPort q fun x => { x with checkDue := none, checkRun := none }).arrive 19 1 0
        .next (if moved then done.recordResult q 4 p.repeats l else done.checkResult q l meas).planInput
    else .next s

/-! ## Worker loss and the spare (R225 to R228, R362) -/

/-- A site management link is silent for 16 sled frames: the worker is declared failed (R362). -/
def execWorkerSilence (w : Nat) (s : State) : Host.Outcome State Fault Refusal :=
  if s.mgr.mode == .off then .next s else .next (s.declareFailed w)

/-- A worker package supply is outside limits for 8 µs: the worker is declared failed (R362). -/
def execWorkerSupplyFault (w : Nat) (s : State) : Host.Outcome State Fault Refusal :=
  if s.mgr.mode == .off then .next s else .next (s.declareFailed w)

/-- The stash has been copied to the active bank of the spare's image region, and at D + 821 the failed worker's flows move to the spare
(R224, Table 9.7). The copy stands still while the sled is in Hold or dropped (R74). -/
def execStashCopyEnd (k : Nat) (s : State) : Host.Outcome State Fault Refusal :=
  let sp := (s.hub k).spare
  let w := workerCode k sp.site
  let z := workerCode k 16
  if sp.phase = 1 ∧ !sp.copied ∧ !s.paused [k] ∧ s.workerUp z ∧ sp.since + sp.late + 821 ≤ s.mgr.frame then
    let s1 := (s.updHub k fun h => { h with spare := { h.spare with copied := true } }).updWorker w fun x => { x with flowsTo := some z }
    .next <| match (s.hub k).stash.find? fun p => p.w == w with
      | some p => s1.writeBank z (s.worker z).bank1 p.id
      | none => s1
  else .next s

/-- Mirror regions of a worker in the active image: C, H0, H1 (R360). -/
def State.mirrorRegions (s : State) (w : Nat) : List RegionDef :=
  match s.img.active with
  | none => []
  | some i => i.regions.filter fun r => r.w == s.roleOf w && r.use == 2

/-- Frames a mirror restore of a group takes at 20,480 B per frame per worker (R361). -/
def State.restoreFrames (s : State) (g : Nat) : Nat :=
  (s.participants g).foldl (fun m w => max m (match s.mirrorRegions w with | r :: _ => ceilDiv r.size 20480 | [] => 0)) 0

/-- A group's job after its worker was lost and the spare is in role: lost without a committed mirror (R361), else its restore
begins at the next boundary. -/
def State.afterSwitchIn (s : State) (g : Nat) : State :=
  match (s.group g).running with
  | none => s
  | some j =>
    match s.groupDef g, j.mirrorDone with
    | some d, some _ =>
      if d.mirror = 0xFFFF then s.loseJob g 4
      else s.updGroup g fun x => { x with restoring := some (s.mgr.frame + 1 + s.restoreFrames g) }
    | _, _ => s.loseJob g 4

/-- Strides a group's job has completed after its last committed mirror, and that mirror (R361). -/
def State.lostStrides (s : State) (g : Nat) : Nat × Nat :=
  match (s.group g).running with
  | none => (0, 0xFFFFFFFF)
  | some j =>
    match j.mirrorDone with
    | none => (0, 0xFFFFFFFF)
    | some m =>
      let base := j.stepAt / s.strideOf g
      let done := (s.participants g).foldl (fun n w => min n ((s.group g).done.get 0 w)) (2 ^ 32)
      (done - base - (m + 1), m)

/-- At D + 823 the spare is in role, its program areas loaded, and EV_WORKER_SPARED is raised (Table 9.7). A spare that has failed itself takes no role. -/
def execSpareReady (k : Nat) (s : State) : Host.Outcome State Fault Refusal :=
  let sp := (s.hub k).spare
  let w := workerCode k sp.site
  let z := workerCode k 16
  if sp.phase = 1 ∧ !s.workerUp z then .next (s.endSwitchIn k)
  else if sp.phase = 1 ∧ sp.copied ∧ sp.since + sp.late + 823 ≤ s.mgr.frame then
    let gs := s.runningGroups.filter fun g => (s.group g).lostWorker == some w
    let reload := !(s.worker w).objs.cells.isEmpty
    let s1 := s.updHub k fun h =>
      { h with
        spare := { h.spare with inUse := true, phase := if reload then 2 else 3 }
        inRole := h.inRole ++ [(sp.site, 16)] }
    let ev := fun (st : State) (handle lost mirror : Nat) =>
      st.raise 0x0003 [(0, 2, w), (2, 2, z), (4, 2, handle), (6, 2, lost), (8, 4, mirror), (12, 4, sp.since % 2 ^ 32)]
    let s2 := s1.loadPrograms z 0x7C
    let s3 := if gs.isEmpty then ev s2 0xFFFF 0 0xFFFFFFFF else
      gs.foldl (init := s2) fun st g =>
        let l := s.lostStrides g
        ev st (match (s.group g).running with | some j => j.handle | none => 0xFFFF) l.1 l.2
    .next (s3.forEach gs fun st g => st.afterSwitchIn g)
  else .next s

/-- At a manager boundary in Hold or Doze the stash copies and mirror restores that stand still come a frame later (R74). -/
def State.delayPaused (s : State) : State :=
  if s.mgr.mode = .hold ∨ s.mgr.mode = .doze then
    let s1 := s.forEach s.fit.sledList fun st k =>
      st.updHub k fun h => if h.spare.phase = 1 then { h with spare := { h.spare with late := h.spare.late + 1 } } else h
    s1.forEach s1.runningGroups fun st g => st.updGroup g fun x => { x with restoring := x.restoring.map (· + 1) }
  else s

end Sys2Proof.Machine
end

