-- ==== Sys2Proof/Machine/Ticks.lean ====
section
/-! DEFINITION. The frame, the tick and the barriers (chapter 2). -/

namespace Sys2Proof.Machine

/-! ## Tick receivers (R35 to R42, R368) -/

/-- The number of a receiver: a site's worker code, 1000 + t, 2000 + k. -/
def rxKey : TickUnit → Nat
  | .site w => w
  | .tile t => 1000 + t
  | .module k => 2000 + k

/-- The domain of a receiver: its sled, or 8 for the manager frame. -/
def rxDomain : TickUnit → Nat
  | .site w => sledOf w
  | _ => 8

/-- The number of a time domain. -/
def domainNo : Domain → Nat
  | .sled k => k
  | .manager => 8

/-- A receiver is counted while its unit is fitted, answered at bring-up and has not been declared failed (R368). -/
def State.counted (s : State) : TickUnit → Bool
  | .site w => s.workerUp w
  | .tile t => s.fit.tileOk t && !(s.tile t).failed
  | .module k => s.fit.moduleOk k && !(s.module k).failed

/-- The receivers of a domain, in the order of R368. -/
def Fit.receivers (f : Fit) (d : Nat) : List TickUnit :=
  if d = 8 then f.tiles.map .tile ++ f.modules.map .module else (f.sledWorkers d).map .site

/-- The counted receivers of a domain. -/
def State.countedRx (s : State) (d : Nat) : List TickUnit := (s.fit.receivers d).filter s.counted

/-- A receiver's record. -/
def State.rx (s : State) (u : TickUnit) : TickRx := s.rxs.get TickRx.init (rxKey u)

/-- The state with a receiver's record changed. -/
def State.updRx (s : State) (u : TickUnit) (f : TickRx → TickRx) : State := { s with rxs := s.rxs.set (rxKey u) (f (s.rx u)) }

/-- The bit that stands for a receiver in EV_TICK_FAULT's mask (Table 15.4): a site; a tile bus; 8 + k for a module. -/
def rxBit : TickUnit → Nat
  | .site w => siteOf w
  | .tile t => t % 8
  | .module k => 8 + k

/-- A number put into a list once. -/
def insertOnce (n : Nat) (l : List Nat) : List Nat := if l.contains n then l else l ++ [n]

/-- A counted receiver counts a fault (R37): the domain's total saturates. Rows of a boundary's window come before its boundary row; a
fault at cycles 0 to 32 of the window, or a missing tick, lies in the frame that the boundary starts. -/
def State.tickFault (s : State) (u : TickUnit) (next : Bool) : State :=
  s.updDom (rxDomain u) fun d =>
    { d with
      faults := satInc 0xFFFF d.faults
      nowMask := if next then d.nowMask else insertOnce (rxBit u) d.nowMask
      nextMask := if next then insertOnce (rxBit u) d.nextMask else d.nextMask }

/-- Edges are accepted in a domain: its reference is present (R40). -/
def TickDom.accepts (d : TickDom) : Bool := !d.refLost

/-- An edge at a receiver that is LOCKED (R36, R37): inside the window it is accepted once; else it is a fault. An edge that comes while
the reference is lost is not accepted (R40); that it counts as a tick fault is the model's choice (log entry 101). -/
def State.edgeLocked (s : State) (u : TickUnit) (ofs : Int) : State :=
  if (-32 ≤ ofs ∧ ofs ≤ 32) ∧ !(s.rx u).accepted ∧ (s.dom (rxDomain u)).accepts then
    s.updRx u fun r => { r with accepted := true, lastOfs := ofs, missing := 0, run := min 64 (r.run + 1) }
  else s.tickFault u (decide (0 ≤ ofs ∧ ofs ≤ 32))

/-- An accepted edge at a receiver that acquires its phase (R41): 512 reference periods after the last one it is the next of its run; any
other edge becomes the phase and is the first of a new run. The 64th in a row locks the receiver. An edge in the reference period of the
phase has offset 0. -/
def TickRx.acquire (r : TickRx) (ofs : Int) : TickRx :=
  let n := if 0 < r.run ∧ r.phase = ofs / 16 ∧ !r.accepted then r.run + 1 else 1
  { r with phase := ofs / 16, run := n, accepted := true, missing := 0, lastOfs := 0, locked := decide (64 ≤ n) }

/-- An edge at a receiver that acquires its phase; while the reference is lost no edge is accepted (R40). -/
def State.edgeAcquire (s : State) (u : TickUnit) (ofs : Int) : State :=
  if (s.dom (rxDomain u)).accepts then s.updRx u fun r => r.acquire ofs
  else s.tickFault u (decide (0 ≤ ofs ∧ ofs ≤ 32))

/-- A tick edge reaches a receiver, `ofs` core cycles after the predicted boundary (R36, R37, R41). A receiver that is not counted
takes no part in anything (R368). -/
def execTickEdge (u : TickUnit) (ofs : Int) (s : State) : Host.Outcome State Fault Refusal :=
  if s.counted u && !(s.mgr.mode == .off) then
    .next (if (s.rx u).locked then s.edgeLocked u ofs else s.edgeAcquire u ofs)
  else .next s

/-- A domain has entered a Hold for tick loss (R40): the manager frame with the manager, a sled at its own boundary. -/
def State.inTickHold (s : State) (d : Nat) : Bool := s.mgr.mode == .hold && s.mgr.cause == 2 && (d == 8 || (s.hub d).held)

/-- The receivers of a domain that counted a 17th missing tick re-acquire their phase (R40). -/
def State.loseLock (s : State) (d : Nat) : State :=
  ((s.countedRx d).filter fun u => (s.rx u).missing == 17).foldl
    (fun st u => st.updRx u fun r => { r with locked := false, run := 0 }) s

/-- A receiver counts its 17th consecutive missing tick (R39, R40): Hold is requested, and on a sled no frame starts at that boundary. The
receiver re-acquires its phase once its domain is in that Hold. -/
def State.tickLoss (s : State) (u : TickUnit) : State :=
  let d := rxDomain u
  let s1 :=
    if d = 8 then s.updMgr fun m => { m with holdReq := m.holdReq.orElse fun _ => some 2 }
    else
      let s2 := s.updHub d fun h => { h with lossHold := true }
      if (s.hub d).lossHold then s2 else s2.arrive 0 1 0
  if s1.inTickHold d then s1.loseLock d else s1

/-- A predicted boundary passes with no accepted edge (R37, R39, R40). A receiver that first acquires its phase, in Bring-up, counts none
(R41). -/
def execMissingTick (u : TickUnit) (s : State) : Host.Outcome State Fault Refusal :=
  if s.counted u && !(s.mgr.mode == .off) && !(s.rx u).accepted then
    let r := s.rx u
    let s1 := s.updRx u fun r => { r with missing := min 17 (r.missing + 1), run := 0 }
    if r.locked then
      let s2 := s1.tickFault u true
      .next (if r.missing = 16 then s2.tickLoss u else s2)
    else .next (if s.mgr.mode = .bringUp then s1 else s1.tickFault u true)
  else .next s

/-- A clock monitor detects the loss of its reference (R40): edges are no longer accepted, and REF_OK falls. -/
def execReferenceLoss (d : Domain) (s : State) : Host.Outcome State Fault Refusal :=
  if s.mgr.mode == .off then .next s
  else .next (s.updDom (domainNo d) fun x => { x with refOk := false, refLost := true, refBack := false })

/-- The reference returns: REF_OK is set at the next boundary (R40). -/
def execReferenceReturn (d : Domain) (s : State) : Host.Outcome State Fault Refusal :=
  if s.mgr.mode == .off then .next s else .next (s.updDom (domainNo d) fun x => { x with refBack := true })

/-- Largest consecutive missing count of a domain's counted receivers. -/
def State.missingOf (s : State) (d : Nat) : Nat := (s.countedRx d).foldl (fun m u => max m (s.rx u).missing) 0

/-- EV_TICK_FAULT of a domain (Table 15.4). -/
def State.raiseTickFault (s : State) (d : Nat) : State :=
  let x := s.dom d
  s.raise 0x0009 [(0, 1, if d = 8 then 0xFF else d), (1, 1, s.missingOf d), (4, 4, x.faults),
    (8, 8, x.nowMask.foldl (fun m b => m + 2 ^ b) 0)]

/-- The tick check in a domain's boundary phase (R38, R40, R42): FLYWHEEL, REF_OK, and EV_TICK_FAULT where the frame contained a
counted fault and the one before was clean, or 64 frames after the last event while faults continue. -/
def State.tickCheck (s : State) (d : Nat) : State :=
  let x := s.dom d
  let us := s.countedRx d
  let dirty := !x.nowMask.isEmpty
  let since := match x.sinceEv with | some n => n + 1 | none => 64
  let ev := dirty && (x.prevClean || decide (64 ≤ since))
  let s1 := if ev then s.raiseTickFault d else s
  let s2 := s1.updDom d fun y =>
    { y with
      flywheel := us.any fun u => !(s.rx u).accepted
      refOk := if x.refLost then x.refBack else true
      refLost := x.refLost && !x.refBack
      refBack := false
      nowMask := x.nextMask
      nextMask := []
      prevClean := !dirty
      sinceEv := if ev then some 0 else if dirty then some since else if x.sinceEv.isSome then some since else none
      seen := true }
  us.foldl (fun st u => st.updRx u fun r => { r with accepted := false }) s2

/-! ## A sled's boundary and its seam (R33, R53, R112, R125, R151) -/

/-- Address registers of a core at job step `j` (R112). -/
def aregValues (b : BindDef) (args : List Nat) (j : Nat) : Tab Nat :=
  ⟨b.aregs.zipIdx.map fun a =>
    let k := if a.1.wrap = 0 then j else j % a.1.wrap
    let base : Nat := a.1.base + (if a.1.jobRel then args.getD a.1.argSel 0 else 0)
    (a.2, toBits 64 ((base : Int) + a.1.step * (k : Int)))⟩

/-- A core's contents at the boundary that starts a stride: undefined from here on (R125). -/
def StagCore.newStride (x : StagCore) (epoch : Nat) : StagCore :=
  { x with
    epoch := epoch, acc := Tab.empty, vreg := Tab.empty, buf0 := { x.buf0 with bytes := [] }, buf1 := { x.buf1 with bytes := [] }
    store := ⟨x.store.cells.filter fun c => decide (c.1 < dataBase)⟩ }

/-- One bound core in the boundary phase of a step of its group's job: a new stride leaves its contents undefined, and its address
registers are set and its sequencer stands at the step's program (R112). -/
def State.startCore (s : State) (b : BindDef) (g : Nat) (job : Job) (w : Nat) : State :=
  match (s.worker w).physOf b.core with
  | none => s
  | some n =>
    let step := (s.hub (sledOf w)).step
    let j := step - job.stepAt
    let d := s.draw
    let s1 := if step % s.strideOf g = 0 then d.2.updCore w n fun x => x.newStride (d.1 + 1) else s
    s1.updCore w n fun x => { x with areg := aregValues b job.args j, shadowReady := 0, cur := some (progIndex x.prog j), pos := 0 }

/-- A group runs its job's steps on a sled in the frame that starts: the job's first step has come, its last has not passed, and the
group has not stopped there, or its restart step has come (R357). -/
def State.groupSteps (s : State) (g sled : Nat) : Option Job :=
  let x := s.group g
  match x.running with
  | none => none
  | some j =>
    let step := (s.hub sled).step
    if j.stepAt ≤ step ∧ step - j.stepAt < j.steps ∧ !x.sledsStopped.contains sled ∧ (!x.stopped ∨ x.jr.isSome) ∧ j.begun.contains sled ∧
        x.jr.getD 0 ≤ step then some j
    else none

/-- A step of the groups that run on a sled is noted: how far each job has come, and the last use of the objects it names (R195). -/
def State.noteStep (s : State) (sled : Nat) : State :=
  s.forEach (s.runningGroups) fun st g =>
    match st.groupSteps g sled with
    | none => st
    | some job =>
      let h := st.hub sled
      let s1 := st.updGroup g fun x => { x with running := x.running.map fun j => { j with ran := max j.ran (h.step - j.stepAt + 1) } }
      s1.forEach ((s1.participants g).filter fun w => sledOf w == sled) fun a w =>
        a.updWorker w fun x =>
          { x with objs := x.objs.mapVals fun o m => if job.mound.contains o then { m with lastUse := h.frame } else m }

/-- Every bound core of a sled started in a step. -/
def State.startCores (s : State) (sled : Nat) : State :=
  match s.img.active with
  | none => s
  | some i =>
    i.binds.foldl (init := s) fun st b =>
      let w := st.actorOf b.w
      if sledOf w = sled ∧ st.workerUp w then
        match st.groupSteps b.gid sled with
        | some job => st.startCore b b.gid job w
        | none => st
      else st

/-- At every boundary the refresh rate follows the last report (R152). -/
def Worker.takeRate (x : Worker) : Worker := { x with hot := x.hotNext.getD x.hot, hotNext := none }

/-- A worker at a boundary that starts a frame: units are free again, and a failed core's frame is over. -/
def Worker.startFrame (x : Worker) : Worker :=
  { x with
    cores := x.cores.mapVals fun _ c => { c with busy := Tab.empty, stopped := false, cur := none, pos := 0 }
    inflight := []
    links := x.links.mapVals fun _ l => if l.up then l else { l with downFor := l.downFor + 1 } }

/-- The settlement frames of the circuits that end on a sled come nearer by one started frame (R209); the times of
the 7-λ transmit queues of its ports count from the new frame. -/
def State.countSettlements (s : State) (sled : Nat) : State :=
  { s with
    circs := s.circs.mapVals fun _ x =>
      { x with
        queue7 := if sledOf (s.endOf x.src).1 = sled then x.queue7 - 8192 * 7000 else x.queue7
        tear := x.tear.map fun t =>
          let t1 := if t.txDone ∧ sledOf (s.endOf x.src).1 = sled then { t with txLeft := t.txLeft - 1 } else t
          if t.rxDone ∧ sledOf (s.endOf x.dst).1 = sled then { t1 with rxLeft := t1.rxLeft - 1 } else t1 } }

/-- A frame may start on a sled: it is neither held, dropped nor halted, and no receiver has just counted its 17th missing tick
(R39, R58, R71, R76, R365). -/
def Hub.mayStart (h : Hub) : Bool := !h.held && !h.dropped && !h.halted && !h.lossHold

/-- The counts of a hub at a boundary that starts a frame (R33, R45, R53): a slip frame where the largest lead at the last boundary
was 4,096 c or more. The step count itself does not wrap; `HUB.STEP` shows its low 32 bits (Table 2.3), and strides go on across the wrap. -/
def Hub.startFrame (h : Hub) : Hub :=
  let slip := h.leadSeen && decide (4096 * 64 ≤ h.maxLead)
  let base := { h with started := true, frame := (h.frame + 1) % 2 ^ 64, leadSeen := false, maxLead := 0, isSlip := slip }
  if slip then { base with slips := (h.slips + 1) % 2 ^ 32 }
  else if !h.applied then base
  else if h.stepping then { base with step := h.step + 1 }
  else { base with stepping := true }

/-- One sample of the 48 V bus (R75), in 10 mV. -/
def Hub.sample (h : Hub) (v : Nat) : Hub :=
  { h with
    bus := v
    lowRun := if v < 4000 then min 100 (h.lowRun + 1) else 0
    highRun := if 4200 ≤ v then min 4096 (h.highRun + 1) else 0 }

/-- The samples of the bus since the last command that brought some, oldest first. -/
def Hub.samples (h : Hub) (vs : List Nat) : Hub := vs.foldl Hub.sample h

/-- The groups that run a step on a sled in the frame that starts, and the groups whose stride begins there (R45, R112). -/
def State.stepHub (s : State) (k : Nat) : State :=
  let gs := s.runningGroups.filter fun g => (s.groupSteps g k).isSome
  let begin_ := (List.range 32).filter fun g => (s.groupDef g).isSome && (s.hub k).step % s.strideOf g == 0
  s.updHub k fun h =>
    { h with
      stepGroups := gs
      strideEnds := if h.applied && h.stepping then
          begin_.foldl (fun t g => t.set g (h.step / s.strideOf g, h.frame)) h.strideEnds
        else h.strideEnds }

/-- The seen edges of a sled's receivers are over; in Bring-up its boundaries start no frame (R41). -/
def State.clearEdges (s : State) (d : Nat) : State :=
  (s.countedRx d).foldl (fun st u => st.updRx u fun r => { r with accepted := false }) s

/-- A sled's predicted boundary (R33): the tick check, and a frame starts unless Hold, Doze, Limp or a 17th missing tick prevents it.
A sled that leaves Hold counts its boundaries without a started frame (R80). `bus` are the bus samples of the frame before (R75). -/
def execFrameBoundary (k : Nat) (bus : List Nat) (s : State) : Host.Outcome State Fault Refusal :=
  if s.mgr.mode = .off ∨ s.fit.sleds ≤ k then .next s
  else if s.mgr.mode = .bringUp then .next ((s.clearEdges k).updHub k fun h => (h.samples bus).reached)
  else
    let s1 := ((s.tickCheck k).updHub k fun h => (h.samples bus).newFrame).forEach (s.fit.sledWorkers k) fun st w => st.updWorker w Worker.takeRate
    if (s1.hub k).mayStart then
      let s2 := s1.updHub k Hub.startFrame
      let s3 := (s2.forEach (s.fit.sledWorkers k) fun st w => st.updWorker w Worker.startFrame).countSettlements k
      let s4 := s3.drainBuffers k
      .next (if (s4.hub k).isSlip then s4.updHub k fun h => { h with stepGroups := [] } else ((s4.stepHub k).startCores k).noteStep k)
    else
      .next <| s1.updHub k fun h =>
        { h with started := false, isSlip := false, stepGroups := [], resumeLeft := h.resumeLeft.map fun n => n - 1, delay := h.delay }

/-- The cores of a worker that have not ended by the seam (R127): a unit is busy, or something is not yet ready. -/
def Worker.lateCores (x : Worker) : List Nat :=
  (List.range 50).filter fun n =>
    !(x.core n).stopped && ((x.core n).busy.cells.any (fun b => decide (8128 < b.2)) ||
      x.inflight.any fun p => p.core == n && decide (8128 < p.ready))

/-- An operation that hangs, of those that a core issued at a cycle: what it had still to deliver is cancelled (R127). -/
def Worker.abandon (x : Worker) (n issued : Nat) : Worker :=
  { x with inflight := x.inflight.filter fun p => !(p.core == n && p.issued == issued) }

/-- Cycle 8,128 of a started frame (R33), which comes when every slot has issued (R114): refresh of every stack and module that has power
(R151), what is ready takes effect, and a core with a unit still busy fails with CAUSE 2 (R127). `overrun` names operations that a
hardware fault keeps from ending: worker, core, ISSUE cycle. -/
def execSeamPhase (k : Nat) (overrun : List (Nat × Nat × Nat)) (s : State) : Host.Outcome State Fault Refusal :=
  if (s.hub k).started && decide (k < s.fit.sleds) && (s.fit.sledWorkers k).all (fun w => !s.slotsLeft w) then
    .next <| s.forEach (s.fit.sledWorkers k) fun st w =>
      let hung := overrun.filter fun o => o.1 == w && decide (o.2.1 < 50) && !((st.worker w).core o.2.1).stopped
      let late := (st.worker w).lateCores ++ hung.map (·.2.1)
      let s1 := (st.updWorker w fun x => hung.foldl (fun y o => y.abandon o.2.1 o.2.2) x).flush w 8128
      let s2 := s1.updWorker w fun x =>
        if x.powered 7 || x.powered 8 then { x with refreshRow := (x.refreshRow + if x.hot then 32 else 16) % 65536 } else x
      s2.forEach (late.dedup.filter fun n => !(s1.core w n).stopped) fun a n => a.failCore w n 2 8128
  else .next s

/-! ## Barriers (R45 to R54, R360) -/

/-- A barrier of the group is pending at a worker: its token was emitted and it has not completed. -/
def State.barrierPending (s : State) (g w : Nat) : Bool := decide ((s.group g).done.get 0 w < (s.group g).emitted.get 0 w)

/-- The circuits of a group on which a worker sends tokens. -/
def State.barrierCircs (s : State) (g w : Nat) : List Nat :=
  (s.circs.cells.filter fun c => c.2.barrier && c.2.txLive && (s.endOf c.2.src).1 == w && s.groupCircuit g c.1).map (·.1)

/-- The board links of a worker that a job group uses (R45, R46): those to the group's other participants of the sled, and those that
carry one of its flows, in either direction. -/
def State.groupLinks (s : State) (g w : Nat) : List Nat :=
  s.fit.linkList.filter fun j =>
    let p := s.fit.linkPeer w j
    (s.participants g).contains p.1 || (s.linkGroups w j).contains g || (s.linkGroups p.1 p.2).contains g

/-- Cycle 8,128 of the frame has come for a worker: every slot has issued, and every flit that was ready has been queued (R46, R114). -/
def State.seamReached (s : State) (w : Nat) : Bool := !s.slotsLeft w && (s.worker w).inflight.all fun p => decide (8128 < p.ready)

/-- At cycle 8,128 of a stride's last step, a participant emits the token on its barrier circuits and on the board links the group
uses, after every flit it queued there (R46); a sender that waits for it returns to 8-λ mode (R253). -/
def execBarrierTokenEmit (g w : Nat) (s : State) : Host.Outcome State Fault Refusal :=
  let k := sledOf w
  let h := s.hub k
  let b := h.step / s.strideOf g
  if (s.participants g).contains w && s.workerUp w && h.started && !h.isSlip && (s.groupSteps g k).isSome &&
      (h.step + 1) % s.strideOf g == 0 && decide ((s.group g).emitted.get 0 w < b + 1) && s.seamReached w then
    let s1 := s.updGroup g fun x => { x with emitted := x.emitted.set w (b + 1) }
    let s2 := s1.forEach (s.barrierCircs g w) fun st c =>
      st.updCirc c fun x => { x with wire := x.wire ++ [tokenFlit g b], tx7 := if x.txBack then false else x.tx7 }
    .next <| s2.forEach ((s.groupLinks g w).filter fun j => ((s.worker w).link j).up) fun st j =>
      st.updLink w j fun x => x.send (tokenFlit g b)
  else .next s

/-- What has still to arrive from a sender, over circuit `via` or over its board link to `w`, in the order in which it was sent. -/
def State.wireTo (s : State) (w sender : Nat) : Option Nat → List Flit
  | none => if sledOf sender = sledOf w then ((s.worker sender).link (s.fit.linkTo sender (siteOf w))).wire else []
  | some c => if (s.endOf (s.circ c).src).1 = sender ∧ (s.endOf (s.circ c).dst).1 = w then (s.circ c).wire else []

/-- A token arrives `arrival` core cycles after the receiver's own stride-end boundary, over circuit `via` or a board link: the
sender's boundary is the arrival less the ranged flight time plus 64 c (R52). Within a sled the boundary is common. Circuits and links
deliver in order (R46): what was sent ahead of the token has arrived by then. -/
def execTokenArrival (g w sender barrier : Nat) (arrival : Int) (via : Option Nat) (s : State) :
    Host.Outcome State Fault Refusal :=
  if (s.participants g).contains w && (s.participants g).contains sender && s.workerUp w && w != sender &&
      ((s.wireTo w sender via).head?.map fun f => { f with cred := 0 }) == some (tokenFlit g barrier) then
    let bound : Int := match via with
      | some c => arrival * 64 - ((s.circ c).flight : Int) + 64 * 64
      | none => 0
    let s1 := s.updGroup g fun x => { x with tokens := x.tokens ++ [(w, sender, barrier, bound)] }
    match via with
    | none =>
      let j := s.fit.linkTo sender (siteOf w)
      let cred := (((s.worker sender).link j).wire.headD idleFlit).cred
      let p := s.fit.linkPeer sender j
      .next <| (s1.updLink sender j fun x => { x with wire := x.wire.drop 1 }).updLink p.1 p.2 fun x => x.addCredits cred
    | some c =>
      .next <| s1.updCirc c fun x =>
        { x with
          wire := x.wire.drop 1
          rx7 := if x.txBack && !x.tx7 then false else x.rx7
          txBack := if x.txBack && !x.tx7 then false else x.txBack }
  else .next s

/-- The sender boundaries a participant has for a barrier. -/
def Group.tokensOf (x : Group) (w b : Nat) : List (Nat × Int) :=
  (x.tokens.filter fun t => t.1 == w && t.2.2.1 == b % 2 ^ 24).map fun t => (t.2.1, t.2.2.2)

/-- The job stride of a barrier. -/
def State.strideOfBarrier (s : State) (g b : Nat) : Nat :=
  match (s.group g).running with
  | some j => b - j.stepAt / s.strideOf g
  | none => b

/-- Mirror interval of a group, where it has one (R360). -/
def GroupDef.interval (d : GroupDef) : Option Nat :=
  if d.mirror = 0xFFFF then none else if d.mirror = 0 then some 64 else some d.mirror

/-- A mirror commits when its stride's barrier has completed at every participant (R360). -/
def State.commitMirror (s : State) (g b : Nat) : State :=
  match (s.groupDef g).bind GroupDef.interval with
  | none => s
  | some m =>
    let i := s.strideOfBarrier g b
    if (i + 1) % m = 0 ∧ ((s.participants g).all fun w => decide (b + 1 ≤ (s.group g).done.get 0 w)) = true then
      s.updGroup g fun x => { x with running := x.running.map fun j => { j with mirrorDone := some i } }
    else s

/-- A participant whose group stopped on its sled before it emitted the token of the stride that it was in: that stride, if the barrier
has not been marked failed yet (R51). -/
def State.unsentBarrier (s : State) (g w : Nat) : Option Nat :=
  let x := s.group g
  match x.running with
  | none => none
  | some j =>
    let b := max (x.emitted.get 0 w) (j.stepAt / s.strideOf g)
    if x.sledsStopped.contains (sledOf w) ∧ j.begun.contains (sledOf w) ∧ x.failedAt.get 0 w ≤ x.done.get 0 w then some b else none

/-- The barrier whose completion boundary a participant comes to next. -/
def State.dueBarrier (s : State) (g w : Nat) : Option Nat :=
  if s.barrierPending g w then some ((s.group g).emitted.get 0 w - 1) else s.unsentBarrier g w

/-- The completion boundary of barrier `b` has come on a sled: L of its frames after the stride-end boundary (R47). -/
def State.barrierDue (s : State) (g sled b : Nat) : Bool :=
  let e := (s.hub sled).strideEnds.get (0, 0) g
  (s.hub sled).started && (decide (b + 1 < e.1) || (e.1 == b + 1 && decide (e.2 + (s.group g).lat ≤ (s.hub sled).frame)))

/-- A participant marks a barrier failed and stops its group at that boundary (R51). -/
def State.failBarrier (s : State) (g w b : Nat) : State :=
  let s1 := s.updGroup g fun y => { y with emitted := y.emitted.set w b, failedAt := y.failedAt.set w (b + 1) }
  let s2 := (s1.updWorker w fun y => { y with wrlFail := true }).updHub (sledOf w) fun h =>
    { h with stepGroups := h.stepGroups.filter fun x => x != g }
  (s2.arrive 13 1 0).localTrigger (sledOf w) g 5

/-- L frames after the stride-end boundary a barrier completes at a participant (R47, R49, R52), or fails where a token of another
participant is missing (R51). -/
def execBarrierComplete (g w : Nat) (s : State) : Host.Outcome State Fault Refusal :=
  match s.dueBarrier g w with
  | none => .next s
  | some b =>
    if s.workerUp w && (s.participants g).contains w && s.barrierDue g (sledOf w) b then
      let have_ := (s.group g).tokensOf w b
      let s1 := s.updGroup g fun y =>
        { y with tokens := y.tokens.filter fun t => !(t.1 == w && t.2.2.1 == b % 2 ^ 24) }
      if ((s.participants g).filter fun p => p != w).all (fun p => have_.any fun t => t.1 == p) && s.barrierPending g w then
        let lead := have_.foldl (fun m t => max m t.2) (have_.headD (0, 0)).2
        let s2 := (s1.updGroup g fun y => { y with done := y.done.set w (b + 1) }).updWorker w fun y =>
          { y with barrier := b % 2 ^ 24 }
        let s3 := s2.updHub (sledOf w) fun y =>
          { y with maxLead := if y.leadSeen then max y.maxLead lead else lead, leadSeen := true }
        .next (s3.commitMirror g b)
      else if ((s.participants g).filter fun p => p != w).all fun p => have_.any fun t => t.1 == p then .next s
      else .next (s1.failBarrier g w b)
    else .next s

end Sys2Proof.Machine
end

