-- ==== Sys2Proof/Machine/Owners.lean ====
section
/-! DEFINITION. Memory reports and page retirement, and the owners with their keys (chapter 7). -/

namespace Sys2Proof.Machine

/-! ## Refresh and retirement (R152, R155) -/

/-- A stack (0 to 7) or module (8 to 23) reports its temperature, in 1/128 °C: the refresh rate of the whole worker follows from the
next boundary (R152). -/
def execMemoryTemperatureReport (w unit : Nat) (temp : Int) (s : State) : Host.Outcome State Fault Refusal :=
  let fitted := decide (unit < 8) || (decide (unit < 24) && s.fit.tierB)
  if s.workerUp w && fitted && (s.worker w).powered (if unit < 8 then 7 else 8) then
    .next <| s.updWorker w fun x =>
      let temps := x.temps.set unit temp
      { x with temps := temps, hotNext := some (temps.cells.any fun t => decide (85 * 128 < t.2)) }
  else .next s

/-- A key generation never drawn before, for an owner; for 255 a number that names no key. -/
def State.newKey (s : State) (o : Nat) : Nat × State := ((s.owners.keyGen + 1) * 256 + o % 256, s.updOwners fun x => { x with keyGen := x.keyGen + 1 })

/-- The machine address of a page of a worker. -/
def pageAddr (w page : Nat) : Nat := machineAddr (page / 2 ^ 40) w (page % 2 ^ 40 * 4096)

/-- A page whose content was lost holds noise until it is written: its stored bits are open. -/
def State.losePage (s : State) (w page : Nat) : State :=
  let k := s.newKey 255
  let line := pageAddr w page / 64
  { k.2 with keyTag := (List.range 64).foldl (fun t i => t.set (line + i) k.1) k.2.keyTag }

/-- At a boundary a page due for retirement is mapped to a spare page of its stack or module (R155); with none left the worker is
declared failed. -/
def execPageRetirement (w page : Nat) (s : State) : Host.Outcome State Fault Refusal :=
  let x := s.worker w
  match x.retireDue.find? fun p => p.1 == page with
  | none => .next s
  | some p =>
    if s.workerUp w then
      let left := x.spares.get 255 p.2.2
      if left = 0 then .next (s.declareFailed w)
      else
        let s1 := s.updWorker w fun y =>
          { y with
            retireDue := y.retireDue.filter fun q => q.1 != page
            retiredPages := y.retiredPages ++ [page]
            spares := y.spares.set p.2.2 (left - 1)
            sparesMin := min y.sparesMin (left - 1)
            pageCorr := y.pageCorr.erase page }
        .next (if p.2.1 then s1.losePage w page else s1)
    else .next s

/-! ## Opening an owner (R156 to R159) -/

/-- Groups that run a job of an owner. -/
def State.ownerJobs (s : State) (o : Nat) : List Nat := s.runningGroups.filter fun g => s.groupOwner g == o

/-- An open or a release is in progress. -/
def State.ownerBusy (s : State) : Bool := s.owners.opening.isSome || s.owners.releasing.isSome

/-- The manager's ML-KEM key pair of a generation (R158). -/
def kemPair (gen : Nat) : KemPair := kemPairOf (fixLen 64 (Config.kemSeed gen))

/-- The owner secret that a ciphertext carries under the key pair of a generation (R157 to R159). -/
def kemSecret (gen : Nat) (ct : List Byte) : Nat := leNat (kemOpen (kemPair gen) ct)

/-- OWNER_OPEN (R159). -/
def State.ownerOpen (s : State) (c : Cmd) : State :=
  let ct := c.data.getD []
  s.decideCmd c 0x0031 (decide (c.unit < 256)) (c.data.isSome && ct.length == 1088) [.quiescent, .loaded, .running]
    [(c.unit != 0 && c.unit != 255, stBadOwner), (!s.owners.live.contains c.unit, stOwnerLive), (!s.ownerBusy, stBusy)] fun st =>
    st.updOwners fun o =>
      { o with
        opening := some { owner := c.unit, at_ := st.mgr.frame, secret := kemSecret o.kemGen ct, waiting := st.liveWorkers
                          filled := [], cmd := c } }

def execOwnerOpen (c : Cmd) (s : State) : Host.Outcome State Fault Refusal := .next (s.ownerOpen c)

/-- A worker receives the secret: it fills the slot from the first copy, under a key of its own (R157, R159, R170). -/
def execOwnerSecretReceipt (w : Nat) (s : State) : Host.Outcome State Fault Refusal :=
  match s.owners.opening with
  | none => .next s
  | some o =>
    if s.workerUp w ∧ o.waiting.contains w ∧ !o.filled.contains w then
      let k := s.newKey o.owner
      .next <| (k.2.updWorker w fun x =>
        { x with keys := x.keys.set o.owner { live := true, gen := k.1, secret := o.secret } }).updOwners fun y =>
          { y with opening := some { o with filled := o.filled ++ [w] } }
    else .next s

/-- A confirmation reaches the manager (R159). -/
def execOwnerOpenConfirm (w : Nat) (s : State) : Host.Outcome State Fault Refusal :=
  match s.owners.opening with
  | none => .next s
  | some o =>
    if o.filled.contains w then
      .next <| s.updOwners fun y => { y with opening := some { o with waiting := o.waiting.filter fun v => v != w } }
    else .next s

/-- The live owners with one more, ascending. -/
def insertOwner (o : Nat) (l : List Nat) : List Nat := if l.contains o then l else (o :: l).mergeSort (· ≤ ·)

/-- The owner of the open in progress goes live, and the command completes (R159). -/
def State.goLive (s : State) : State :=
  match s.owners.opening with
  | none => s
  | some o =>
    (s.updOwners fun y =>
      { y with live := insertOwner o.owner y.live, opening := none, exports := y.exports.set o.owner 0 }).final o.cmd stOk

/-- At a manager boundary after the last confirmation the owner goes live (R159). -/
def State.openBoundary (s : State) : State :=
  match s.owners.opening with
  | none => s
  | some o => if o.at_ < s.mgr.frame ∧ (o.waiting.all fun w => !s.workerUp w) = true then s.goLive else s

/-- At K + 16 workers that have not confirmed are declared failed, and the owner goes live on the rest (R159). -/
def execOwnerOpenTimeout (s : State) : Host.Outcome State Fault Refusal :=
  match s.owners.opening with
  | none => .next s
  | some o =>
    if o.at_ + 16 ≤ s.mgr.frame then .next (s.forEach o.waiting State.declareFailed).goLive else .next s

/-! ## Releasing an owner (R160 to R164, R197) -/

/-- OWNER_RELEASE (R160): no job of the owner is accepted any more, queued ones end with OWNER_ABSENT, and with FORCE the running ones
are aborted. -/
def State.ownerRelease (s : State) (c : Cmd) : State :=
  s.decideCmd c 0x0032 (decide (c.unit < 256) && decide (1 ≤ c.limit)) true [.quiescent, .loaded, .running]
    [(c.unit != 0 && c.unit != 255, stBadOwner), (!s.ownerBusy, stBusy), (s.owners.live.contains c.unit, stOwnerAbsent)] fun st =>
    let s1 := (st.interim c).updOwners fun o =>
      { o with
        releasing := some { owners := [c.unit], also := none, single := true, accepted := st.mgr.frame, limit := c.limit, force := c.force
                            erasing := false, e := 0, waiting := [], erased := 0, cmd := some c } }
    let s2 := s1.dropQueued (fun g => st.groupOwner g == c.unit) stOwnerAbsent
    if c.force then s2.forEach (st.ownerJobs c.unit) fun a g => a.abortGroup g 2 else s2

def execOwnerRelease (c : Cmd) (s : State) : Host.Outcome State Fault Refusal := .next (s.ownerRelease c)

/-- The owner's jobs have not drained D frames after acceptance: the release is abandoned (R160). -/
def execReleaseDrainTimeout (s : State) : Host.Outcome State Fault Refusal :=
  match s.owners.releasing with
  | none => .next s
  | some r =>
    if r.single ∧ !r.erasing ∧ !r.force ∧ r.accepted + r.limit ≤ s.mgr.frame ∧ (r.owners.any fun o => !(s.ownerJobs o).isEmpty) = true
    then .next ((s.updOwners fun o => { o with releasing := none }).final? r.cmd stDrainTimeout)
    else .next s

/-- Adapters of owners dropped on every worker, their host pins with them (R197). -/
def State.dropAdapters (s : State) (owners : List Nat) : State :=
  { s with
    workers := s.workers.mapVals fun _ x =>
      { x with objs := ⟨x.objs.cells.filter fun o => !(o.2.kind == 1 && owners.contains o.2.owner)⟩ } }

/-- The result of a failed load (R189): the lane and the chunk index, and the mask of R186 with STORE. A header check concerns no
lane, and what stands in its place is free. -/
def State.loadResult (s : State) (c : Cmd) (lane : Option Nat) (chunk : Nat) : List (Nat × Nat) :=
  [(1, lane.getD (Config.openResult s.mgr.fresh % 256)), (4, chunk)] ++ if c.store then [(1, 0)] else []

/-- Loads and promotions for owners end with OWNER_ABSENT (R197). -/
def State.endOwnerMoves (s : State) (owners : List Nat) : State :=
  let loads := s.mound.loads.filter fun l => owners.contains l.owner
  let moves := s.mound.promotes.filter fun p =>
    p.waiting.any fun w => owners.contains ((s.worker w).objs.get MObj.init p.obj).owner
  let s1 := loads.foldl (fun st l => ((st.freeLoad l).final l.cmd stOwnerAbsent (st.loadResult l.cmd none 0xFFFFFFFF)).draw.2) s
  let s2 := moves.foldl (fun st p => st.final p.cmd stOwnerAbsent) s1
  s2.updMound fun m =>
    { m with
      loads := m.loads.filter fun l => !owners.contains l.owner
      promotes := m.promotes.filter fun p => !moves.contains p }

/-- The erase boundary E (R161): the live bits are cleared, ERASE goes to every live worker, groups of the owner are barred until a
later activation (R164), and its adapters are dropped (R197). -/
def State.openErase (s : State) (r : Releasing) : State :=
  let ended := s.endOwnerMoves r.owners
  let barred : List Nat := match s.img.active with
    | some i => (i.groups.filter fun (d : GroupDef) => r.owners.contains d.owner).map fun d => d.gid
    | none => []
  ((ended.dropAdapters r.owners).updOwners fun o =>
    { o with
      live := o.live.filter fun v => !r.owners.contains v
      releasing := some { r with erasing := true, e := s.mgr.frame, waiting := s.liveWorkers, erased := 0 } }).updImg fun i =>
        { i with barred := i.barred ++ barred.filter fun g => !i.barred.contains g }

/-- At the first manager boundary with no running job of the owner, the erase window opens (R161). -/
def execEraseBoundary (s : State) : Host.Outcome State Fault Refusal :=
  match s.owners.releasing with
  | none => .next s
  | some r =>
    if !r.erasing ∧ (r.owners.all fun o => (s.ownerJobs o).isEmpty) = true then .next (s.openErase r) else .next s

/-- The slots that an erase window zeroizes: its owners', and those filled for an open that the window cancelled (R159). -/
def Releasing.slots (r : Releasing) : List Nat := r.owners ++ r.also.toList

/-- A worker zeroizes the slots at its first sled boundary after it received ERASE, whether or not a frame starts there (R161, R162). -/
def execErase (w : Nat) (s : State) : Host.Outcome State Fault Refusal :=
  match s.owners.releasing with
  | none => .next s
  | some r =>
    if r.erasing ∧ s.workerUp w ∧ r.waiting.contains w then
      .next <| s.updWorker w fun x => { x with keys := r.slots.foldl (fun t o => t.erase o) x.keys }
    else .next s

/-- A confirmation of the erase reaches the manager (R161). -/
def execEraseConfirm (w : Nat) (s : State) : Host.Outcome State Fault Refusal :=
  match s.owners.releasing with
  | none => .next s
  | some r =>
    if r.erasing ∧ r.waiting.contains w ∧ (r.slots.all fun o => !((s.worker w).slot o).live) = true then
      .next <| s.updOwners fun o =>
        { o with releasing := some { r with waiting := r.waiting.filter fun v => v != w, erased := r.erased + 1 } }
    else .next s

/-- At the first manager boundary after the last confirmation EV_OWNER_ERASED is raised, and the release completes (R161, R325). -/
def State.eraseDone (s : State) : State :=
  match s.owners.releasing with
  | none => s
  | some r =>
    if r.erasing ∧ r.e < s.mgr.frame ∧ (r.waiting.all fun w => !s.workerUp w) = true then
      let s1 := r.owners.foldl (init := s) fun st o =>
        if o = 0 then st
        else st.raise 0x0012 [(0, 1, o), (1, 1, bit1 r.force), (2, 2, r.erased), (4, 4, r.e % 2 ^ 32)]
      (s1.updOwners fun o => { o with releasing := none }).final? (if r.single then r.cmd else none) stOk
    else s

/-! ## KEM_KEY (R342) -/

/-- Result data of a command sent to where the command came from (R341, R348): to host memory, or to the management client; a Scarab
command has nowhere to put it. -/
def State.giveBack (s : State) (c : Cmd) (addr : Nat) (bytes : List Byte) : State :=
  match c.src with
  | .host k _ _ _ => s.emit (.hostWrite k addr bytes)
  | .mgmt cl _ => s.emit (.clientData cl addr bytes)
  | .scarab _ => s

/-- Bytes written to host memory for a command: the write goes out; where it fails (`data` is `none`) the command completes with 43h,
its effect on the machine standing (R339). -/
def State.writeBack (s : State) (c : Cmd) (addr : Nat) (bytes : List Byte) (result : List (Nat × Nat)) : State :=
  if c.data.isSome then (s.giveBack c addr bytes).final c stOk result else s.final c stHostFault

/-- KEM_KEY writes the encapsulation key; RESULT carries its generation (R342). -/
def State.kemKeyCmd (s : State) (c : Cmd) : State :=
  s.decideCmd c 0x0030 true true [.quiescent, .loaded, .running, .passage, .doze, .hold, .service] [] fun st =>
    st.writeBack c c.addr (kemPair st.owners.kemGen).ek [(4, st.owners.kemGen % 2 ^ 32)]

def execKemKey (c : Cmd) (s : State) : Host.Outcome State Fault Refusal := .next (s.kemKeyCmd c)

end Sys2Proof.Machine
end

