-- ==== Sys2Proof/Machine/Mound.lean ====
section
/-! DEFINITION. Cocoons and the Mound model store (chapter 8). -/

namespace Sys2Proof.Machine

/-! ## The cocoon (R174 to R177) -/

/-- Chunks of a cocoon. -/
def cocoonChunks (b : List Byte) : Nat := fieldLE b 0x1C 4

/-- Entry `k` of the chunk table (Table 8.2). -/
def chunkEntry (b : List Byte) (k : Nat) : List Byte := (b.drop (256 + 80 * k)).take 80

/-- End of the chunk table. -/
def tableEnd (b : List Byte) : Nat := 256 + 80 * cocoonChunks b

/-- End of the signature. -/
def sigEnd (b : List Byte) : Nat := tableEnd b + 3309

/-- LANE, LENGTH, OBJOFF and FILEOFF of an entry. -/
def entryFields (e : List Byte) : List Nat := [fieldLE e 0 1, fieldLE e 4 4, fieldLE e 8 8, fieldLE e 0x10 8]

/-- Ranges given as start and length share no place. -/
def disjointRanges : List (Nat × Nat) → Bool
  | [] => true
  | r :: rest => (rest.all fun q => decide (r.1 + r.2 ≤ q.1) || decide (q.1 + q.2 ≤ r.1)) && disjointRanges rest

/-- The header of Table 8.1. -/
def headerOk (b : List Byte) (len : Nat) : Bool :=
  decide (256 ≤ b.length) && fieldLE b 0 4 == 0x4F435154 && fieldLE b 4 2 == 1 && fieldLE b 6 2 == 0x100 &&
    fieldLE b 8 8 == len && fieldLE b 0x10 8 != 0 && decide (fieldLE b 0x18 1 ≤ 1) && decide (1 ≤ fieldLE b 0x19 1) &&
    decide (fieldLE b 0x19 1 ≤ 128) && decide (16 ≤ fieldLE b 0x1A 1) && decide (fieldLE b 0x1A 1 ≤ 24) &&
    zeroAt b 0x1B 1 && decide (1 ≤ cocoonChunks b) && decide (cocoonChunks b ≤ 2 ^ 24) &&
    decide (fieldLE b 0x20 8 ≤ 2 ^ 32) && zeroAt b 0x78 8 && zeroAt b 0xE0 32 &&
    (fieldLE b 0x18 1 == 1 || zeroAt b 0xB0 48)

/-- One chunk-table entry of Table 8.2, its reserved bytes among them. -/
def entryOk (b e : List Byte) : Bool :=
  match entryFields e with
  | [lane, length, objoff, fileoff] =>
    decide (lane < fieldLE b 0x19 1) && zeroAt e 1 3 && zeroAt e 0x18 8 && decide (1 ≤ length) &&
      decide (length ≤ 2 ^ fieldLE b 0x1A 1) && length % 64 == 0 && objoff % 64 == 0 &&
      decide (objoff + length ≤ fieldLE b 0x20 8) && fileoff % 4096 == 0 && decide (sigEnd b ≤ fileoff) &&
      decide (fileoff + length + 16 ≤ fieldLE b 8 8)
  | _ => false

/-- Check 1 of Table 8.4. -/
def cocoonOk (b : List Byte) (len : Nat) : Bool :=
  headerOk b len && decide (sigEnd b ≤ b.length) &&
    let es := (List.range (cocoonChunks b)).map (chunkEntry b)
    let fs := es.map entryFields
    es.all (entryOk b) && disjointRanges (fs.map fun f => (f.getD 3 0, f.getD 1 0 + 16)) &&
      (List.range (fieldLE b 0x19 1)).all (fun l =>
        disjointRanges ((fs.filter fun f => f.getD 0 0 == l).map fun f => (f.getD 2 0, f.getD 1 0))) &&
      fs.foldl (fun m f => max m (f.getD 3 0 + f.getD 1 0 + 16)) 0 == len

/-- The signed part of the header (R176). -/
def signedPart (b : List Byte) : List Byte := b.take 0x28 ++ (b.drop 0x80).take 0x60

/-- The 32 bytes of an owner secret (R157). -/
def secretBytes (secret : Nat) : List Byte := leBytes 32 secret

/-- The content key of a cocoon under an owner secret; `none` where the wrap tag fails (R177). -/
def unwrapCek (b : List Byte) (secret : Nat) : Option (List Byte) :=
  let kek := (sha3_384 (secretBytes secret ++ (b.drop 0x10).take 8 ++ [0x54, 0x51, 0x4B, 0x57])).take 32
  gcmOpen kek ((b.drop 0x38).take 12) (signedPart b) ((b.drop 0x48).take 48)

/-- The plaintext of chunk `k` from its ciphertext and tag; `none` where the tag fails (R177). -/
def openChunk (b cek : List Byte) (k : Nat) (ct : List Byte) : Option (List Byte) :=
  gcmOpen cek ((b.drop 0x44).take 4 ++ leBytes 8 k) ((b.drop 0x10).take 8 ++ (chunkEntry b k).take 24) ct

/-- The key ID of a public key (R178), as a little-endian number. -/
def keyId (key : List Byte) : Nat := leNat ((sha3_384 key).take 16)

/-! ## Shares and room (R180, R182, R195) -/

/-- Pages of a share. -/
def sharePages (r : Option RegionDef) : Nat := match r with | some r => r.size / 4096 | none => 0

/-- The first page of a run that has not been found yet: it lies in no share. -/
def noRun : Nat := 2 ^ 40

/-- Pages an object has or has been promised in a share as eviction counts them: (first, pages). An object that is being demoted gives up
its primary pages, and holds its pages in the secondary (R195). -/
def MObj.spans (o : MObj) (secondary : Bool) : List (Nat × Nat) :=
  let here := if o.secondary = secondary ∧ !(o.state == 4) then [(o.first, o.pages)] else []
  let copy := if (o.state = 4 ∧ secondary = true) ∨ (o.state = 5 ∧ secondary = false ∧ o.toFirst ≠ noRun) then [(o.toFirst, o.pages)] else []
  here ++ copy

/-- Pages that an object holds in a share: until its copy has ended, a demoted object holds its primary pages too (R196). -/
def MObj.held (o : MObj) (secondary : Bool) : List (Nat × Nat) :=
  (if o.secondary = secondary then [(o.first, o.pages)] else []) ++
    if (o.state = 4 ∧ secondary = true) ∨ (o.state = 5 ∧ secondary = false ∧ o.toFirst ≠ noRun) then [(o.toFirst, o.pages)] else []

/-- The lowest free run of pages in a share. -/
def firstFit (total need : Nat) (spans : List (Nat × Nat)) : Option Nat :=
  let starts := (0 :: spans.map fun r => r.1 + r.2).mergeSort (· ≤ ·)
  starts.find? fun a =>
    decide (a + need ≤ total) && spans.all fun r => decide (r.1 + r.2 ≤ a) || decide (a + need ≤ r.1)

/-- Spans of a worker in a share. -/
def Worker.spans (x : Worker) (secondary : Bool) : List (Nat × Nat) := x.objs.cells.flatMap fun o => o.2.spans secondary

/-- Pin count of an object (R193): at most 65,535. -/
def MObj.pins (o : MObj) : Nat := min 65535 (o.jobPins + o.hostPins)

/-- The object with the oldest last-use mark among those that `p` picks, the lower number on a tie (R195). -/
def Worker.oldest (x : Worker) (p : MObj → Bool) : Option (Nat × MObj) :=
  (x.objs.cells.filter fun o => p o.2).foldl (init := none) fun best o =>
    match best with
    | none => some o
    | some b => if o.2.lastUse < b.2.lastUse then some o else some b

/-- An object dropped: its table entry and pages are free. -/
def Worker.dropObj (x : Worker) (obj : Nat) : Worker := { x with objs := x.objs.erase obj }

/-- The inner loop of R195: room for a taken object in the secondary share, by dropping the oldest objects there. -/
def secondaryRoom (total need : Nat) : Nat → Worker → Worker × Option Nat
  | 0, x => (x, none)
  | fuel + 1, x =>
    match firstFit total need (x.spans true) with
    | some a => (x, some a)
    | none =>
      match x.oldest fun o => o.secondary && o.state == 3 with
      | some v => secondaryRoom total need fuel (x.dropObj v.1)
      | none => (x, none)

/-- The outer loop of R195: a free run in the primary share. -/
def primaryRoom (total : Nat) (second : Option RegionDef) (need : Nat) : Nat → Worker → Worker × Option Nat
  | 0, x => (x, none)
  | fuel + 1, x =>
    match firstFit total need (x.spans false) with
    | some a => (x, some a)
    | none =>
      match x.oldest fun o => !o.secondary && o.state == 2 && o.pins == 0 with
      | none => (x, none)
      | some v =>
        match second with
        | none => primaryRoom total second need fuel (x.dropObj v.1)
        | some r =>
          match secondaryRoom (sharePages (some r)) v.2.pages (x.objs.cells.length + 1) x with
          | (y, some a) =>
            primaryRoom total second need fuel
              { y with objs := y.objs.set v.1 { v.2 with state := 4, toFirst := a } }
          | (y, none) => primaryRoom total second need fuel (y.dropObj v.1)

/-- Room sought on a worker for `need` pages: the evictions made and the first page, where there is one. -/
def State.seek (s : State) (w need : Nat) : State × Option Nat :=
  let sh := s.shares w
  match sh.1 with
  | none => (s, none)
  | some r =>
    let x := s.worker w
    let y := primaryRoom (sharePages (some r)) sh.2 need (x.objs.cells.length + 1) x
    (s.updWorker w fun _ => y.1, y.2)

/-- A load or move is in progress on a worker (R184). -/
def State.moundBusy (s : State) (w : Nat) : Bool :=
  s.mound.loads.any (fun l => l.workers.contains w) ||
    (s.worker w).objs.cells.any fun o => o.2.state == 1 || o.2.state == 4 || o.2.state == 5

/-- A base with this digest resident on a worker. -/
def Worker.baseWith (x : Worker) (digest : Nat) : Option Nat :=
  (x.objs.cells.find? fun o => o.2.kind == 0 && o.2.digest == digest && decide (2 ≤ o.2.state) && decide (o.2.state ≤ 5)).map (·.1)

/-- A worker holds a base with this digest under another number that is not resident: loading, or spoiled (R188). -/
def Worker.baseElse (x : Worker) (digest obj : Nat) : Bool :=
  x.objs.cells.any fun o => o.1 != obj && o.2.kind == 0 && o.2.digest == digest && (o.2.state == 1 || o.2.state == 6)

/-! ## The cocoon store (R185, R186) -/

/-- Bytes a sled's cocoon store can still take: its drives less the image stash and what it holds. -/
def State.storeFree (s : State) (k : Nat) : Nat :=
  let h := s.hub k
  s.fit.drives.get 8 k * 7680000000000 - h.stash.length * 2 ^ 26 - (h.store.map fun c => c.bytes.length).sum

/-- Cocoons accepted for a sled's store and not yet written there. -/
def State.storeDue (s : State) (k : Nat) : List CStore := s.mound.stores.filter fun x => x.sleds.contains k

/-- A sled has room for a cocoon, beside those that are being written to it (R186). -/
def State.storeRoom (s : State) (k len : Nat) : Bool :=
  decide (len + ((s.storeDue k).map fun x => x.bytes.length).sum ≤ s.storeFree k) &&
    decide ((s.hub k).store.length + (s.storeDue k).length < 65535)

/-- A cocoon stored on a sled, in place of one with its ID. -/
def State.storePut (s : State) (k id : Nat) (bytes : List Byte) : State :=
  s.updHub k fun h => { h with store := (h.store.filter fun c => c.id != id) ++ [{ id := id, bytes := bytes }] }

/-- Sleds of a mask. -/
def maskList (m : Nat) : List Nat := (List.range 8).filter m.testBit

/-- A sled mask that names fitted sleds, at least one. -/
def Fit.maskOk (f : Fit) (m : Nat) : Bool := decide (0 < m) && decide (m < 2 ^ f.sleds)

/-- A load from flash, or a reload onto a spare (R227), is reading this cocoon. -/
def State.cocoonInUse (s : State) (id : Nat) : Bool :=
  (s.mound.loads.any fun l => l.fromFlash && l.cocoon == id) ||
    s.fit.sledList.any fun k =>
      (s.hub k).spare.phase == 2 && (s.worker (workerCode k (s.hub k).spare.site)).objs.cells.any fun o => o.2.cocoon == id

/-- The states in which the Mound commands are accepted (R184). -/
def moundStates : List MState := [.quiescent, .loaded, .running, .passage]

/-- COCOON_STORE (R186). -/
def State.cocoonStore (s : State) (c : Cmd) : State :=
  let b := c.data.getD []
  let id := fieldLE b 0x10 8
  s.decideCmd c 0x0040 (s.fit.maskOk c.sel) (c.data.isSome && b.length == c.len) moundStates
    [((maskList c.sel).all fun k => s.storeRoom k c.len, 0x2D), (!s.cocoonInUse id, stBusy)] fun st =>
    (st.interim c).updMound fun m => { m with stores := m.stores ++ [{ cmd := c, id := id, sleds := maskList c.sel, bytes := b }] }

def execCocoonStore (c : Cmd) (s : State) : Host.Outcome State Fault Refusal := .next (s.cocoonStore c)

/-- A cocoon has been written to every named sled (R186); the writing stands still while one of them is paused (R74). -/
def execCocoonStoreWritten (id : Nat) (s : State) : Host.Outcome State Fault Refusal :=
  match s.mound.stores.find? fun x => x.id == id with
  | none => .next s
  | some x =>
    if s.paused x.sleds then .next s
    else
      let s1 := s.forEach x.sleds fun st k => st.storePut k x.id x.bytes
      .next ((s1.updMound fun m => { m with stores := m.stores.erase x }).final x.cmd stOk)

/-- COCOON_DELETE (R186). -/
def State.cocoonDelete (s : State) (c : Cmd) : State :=
  s.decideCmd c 0x0049 (s.fit.maskOk c.sel) true moundStates
    [((maskList c.sel).any fun k => (s.hub k).store.any fun x => x.id == c.id, 0x22), (!s.cocoonInUse c.id, stBusy)] fun st =>
    (st.forEach (maskList c.sel) fun a k =>
      a.updHub k fun h => { h with store := h.store.filter fun x => x.id != c.id }).final c stOk

def execCocoonDelete (c : Cmd) (s : State) : Host.Outcome State Fault Refusal := .next (s.cocoonDelete c)

/-! ## COCOON_LOAD (R187 to R190, R195, R199) -/

/-- The bytes of a cocoon in a sled's store. -/
def State.stored (s : State) (k id : Nat) : List Byte :=
  match (s.hub k).store.find? fun x => x.id == id with | some x => x.bytes | none => []

/-- The bytes that a load reads for a worker: host memory's, or those in the store of the worker's sled (R185). -/
def State.laneBytes (s : State) (c : Cmd) (w : Nat) : List Byte := if c.sel = 0 then c.data.getD [] else s.stored (sledOf w) c.id

/-- The bytes of the cocoon whose header, table and signature the manager checks: those for the first listed worker. -/
def State.cocoonBytes (s : State) (c : Cmd) : List Byte :=
  if c.sel = 0 then c.data.getD [] else match c.workers with | [] => [] | w :: _ => s.stored (sledOf w) c.id

/-- Check 1 on every copy that the load reads: each is in order, and all agree up to the signature's end. -/
def State.copiesOk (s : State) (c : Cmd) : Bool :=
  let b := s.cocoonBytes c
  cocoonOk b (if c.sel = 0 then c.len else b.length) &&
    c.workers.all fun w =>
      let x := s.laneBytes c w
      cocoonOk x x.length && x.take (sigEnd b) == b.take (sigEnd b)

/-- Every sled of a list of workers holds a cocoon (R185). -/
def State.inFlash (s : State) (id : Nat) (ws : List Nat) : Bool :=
  ws.all fun w => (s.hub (sledOf w)).store.any fun x => x.id == id

/-- A worker that a load may name (check 3): up, and no spare site without a role. -/
def State.loadWorker (s : State) (w : Nat) : Bool :=
  s.workerUp w && (siteOf w != 16 || !(s.hub (sledOf w)).inRole.isEmpty)

/-- Check 4: the object number is free on a worker, or held by a spoiled object of the same cocoon. -/
def Worker.numberFree (x : Worker) (obj cocoon : Nat) : Bool :=
  match x.objs.get? obj with
  | none => true
  | some o => o.state == 6 && o.cocoon == cocoon

/-- The checks of COCOON_LOAD up to check 8, in order, a base's digest before check 4. -/
def State.loadChecks (s : State) (c : Cmd) : List (Bool × Nat) :=
  let ws := c.workers
  let b := s.cocoonBytes c
  let base := fieldLE b 0x18 1 == 0
  let digest := fieldLE b 0x80 48
  let key := s.owners.pubkeys.find? fun p => p.1 == fieldLE b 0x28 16
  [(!ws.any s.moundBusy, stBusy),
   (c.sel == 0 || s.inFlash c.id ws, 0x22),
   (s.copiesOk c, 0x20),
   (decide (1 ≤ c.aux) && decide (c.aux ≤ 254) && s.owners.live.contains c.aux, stOwnerAbsent),
   (ws.length == fieldLE b 0x19 1 && decide ws.Nodup && ws.all s.loadWorker, 0x26),
   (!(base && ws.all fun w => ((s.worker w).baseWith digest).isSome), 0x29),
   (!(base && ws.any fun w => ((s.worker w).baseWith digest).isSome || (s.worker w).baseElse digest c.unit), 0x28),
   (ws.all fun w => (s.worker w).numberFree c.unit (fieldLE b 0x10 8), 0x28),
   (!s.fit.sig || (sha3_384 ((b.drop 256).take (80 * cocoonChunks b))) == (b.drop 0x80).take 48, 0x21),
   (!s.fit.sig || key.isSome, 0x23),
   (!s.fit.sig || mlDsaVerify ((key.map (·.2)).getD []) (sha3_384 (signedPart b)) ((b.drop (tableEnd b)).take 3309), 0x07),
   (base || ws.all fun w => ((s.worker w).baseWith (fieldLE b 0xB0 48)).isSome, 0x2A)]

/-- The object entry of a lane while it loads: in place for a spoiled object, else in the run that was found (R199). -/
def loadingObj (b : List Byte) (owner lane first : Nat) (old : Option MObj) : MObj :=
  let kind := fieldLE b 0x18 1
  { MObj.init with
    state := 1, kind := kind, lane := lane, owner := if kind = 0 then 0 else owner
    jobPins := (old.map (·.jobPins)).getD 0, hostPins := (old.map (·.hostPins)).getD 0, pend := (old.map (·.pend)).getD 0
    first := (old.map (·.first)).getD first, pages := ceilDiv (fieldLE b 0x20 8) 4096, cocoon := fieldLE b 0x10 8
    digest := fieldLE b 0x80 48, base := fieldLE b 0xB0 48, objLen := fieldLE b 0x20 8 }

/-- Check 9 on the listed workers in lane order: room on each; the first lane without room ends it. -/
def State.placeLanes (s : State) (b : List Byte) (owner obj : Nat) : List (Nat × Nat) → State × Option Nat
  | [] => (s, none)
  | (w, lane) :: rest =>
    match (s.worker w).objs.get? obj with
    | some o => (s.updWorker w fun x => { x with objs := x.objs.set obj (loadingObj b owner lane 0 (some o)) }).placeLanes b owner obj rest
    | none =>
      match s.seek w (ceilDiv (fieldLE b 0x20 8) 4096) with
      | (s1, none) => (s1, some lane)
      | (s1, some a) =>
        (s1.updWorker w fun x => { x with objs := x.objs.set obj (loadingObj b owner lane a none) }).placeLanes b owner obj rest

/-- COCOON_LOAD (R187). -/
def State.cocoonLoad (s : State) (c : Cmd) : State :=
  let b := s.cocoonBytes c
  let ws := c.workers
  let op := c.op == 0x0041 && c.fixedOk && decide (c.sel ≤ 1) && decide (c.unit < 4096) &&
    decide (c.aux < 256)
  if s.mgr.mode.deaf then s
  else if !op then s.final c stBadCommand
  else if !(c.listOk && (c.sel == 1 || (c.data.isSome && b.length == c.len))) then s.final c stHostFault
  else match stateRefusal s.mgr.mode moundStates with
    | some st => s.final c st
    | none =>
      match firstFail (s.loadChecks c) with
      | some st =>
        if st = stBusy then s.final c st
        else if st = 0x29 then
          s.final c st [(2, ((ws.head?.bind fun w => (s.worker w).baseWith (fieldLE b 0x80 48))).getD 0)]
        else (s.final c st (s.loadResult c none 0xFFFFFFFF)).draw.2
      | none =>
        let ld : MLoad :=
          { cmd := c, obj := c.unit, owner := c.aux, cocoon := fieldLE b 0x10 8, kind := fieldLE b 0x18 1
            digest := fieldLE b 0x80 48, base := fieldLE b 0xB0 48, objLen := fieldLE b 0x20 8, workers := ws
            header := b.take (tableEnd b), chunks := (List.range (cocoonChunks b)).map fun k => entryFields (chunkEntry b k)
            hashes := (List.range (cocoonChunks b)).map fun k => fieldLE (chunkEntry b k) 0x20 48, fromFlash := c.sel == 1
            rewrites := ws.filter fun w => ((s.worker w).objs.get? c.unit).isSome, passed := [], done := [] }
        match s.placeLanes b c.aux c.unit ws.zipIdx with
        | (s1, some lane) => (s1.freeLoad ld).final c 0x27 (s.loadResult c (some lane) 0xFFFFFFFF)
        | (s1, none) => (s1.interim c).updMound fun m => { m with loads := m.loads ++ [ld] }

def execCocoonLoad (c : Cmd) (s : State) : Host.Outcome State Fault Refusal := .next (s.cocoonLoad c)

/-- A load fails: its objects' pages are freed on every listed worker, and it completes with the code (R189). -/
def State.failLoad (s : State) (l : MLoad) (code : Nat) (lane : Option Nat) (chunk : Nat) : State :=
  ((s.freeLoad l).updMound fun m => { m with loads := m.loads.erase l }).final l.cmd code (s.loadResult l.cmd lane chunk)

/-- The load that writes an object number on a worker. -/
def State.loadOn (s : State) (w obj : Nat) : Option MLoad := s.mound.loads.find? fun l => l.workers.contains w && l.obj == obj

/-- Transfers run on a worker's sled: it is neither held nor dropped (R190). -/
def State.moves (s : State) (w : Nat) : Bool :=
  s.workerUp w && !(s.hub (sledOf w)).held && !(s.hub (sledOf w)).dropped && !s.mgr.mode.deaf

/-- The run of a loading object is free: no other object holds pages of it, and none is still being demoted out of it. -/
def Worker.runFree (x : Worker) (obj : Nat) (o : MObj) : Bool :=
  x.objs.cells.all fun p =>
    p.1 == obj || p.2.secondary || decide (p.2.first + p.2.pages ≤ o.first) || decide (o.first + o.pages ≤ p.2.first)

/-- A demotion out of the run of a loading object was cancelled (R196). -/
def Worker.runLost (x : Worker) (obj : Nat) (o : MObj) : Bool :=
  x.objs.cells.any fun p =>
    p.1 != obj && !p.2.secondary && p.2.state != 4 && !decide (p.2.first + p.2.pages ≤ o.first) &&
      !decide (o.first + o.pages ≤ p.2.first)

/-- Space sought again on a worker for an object that waits for it (R196). -/
def State.seekAgain (s : State) (w obj : Nat) (o : MObj) (l : MLoad) : State :=
  match (s.updWorker w fun x => x.dropObj obj).seek w o.pages with
  | (s1, some a) => s1.updWorker w fun x => { x with objs := x.objs.set obj { o with first := a } }
  | (s1, none) => s1.failLoad l 0x27 (some o.lane) 0xFFFFFFFF

/-- Machine address of a byte of an object on a worker. -/
def State.objAddr (s : State) (w : Nat) (secondary : Bool) (first ofs : Nat) : Nat :=
  let r := if secondary then (s.shares w).2 else (s.shares w).1
  match r with
  | some r => machineAddr r.space w (r.base + first * 4096 + ofs)
  | none => 0

/-- The ciphertext and tag of chunk `k` as a load reads it for a worker (R175, R185). -/
def State.chunkBytes (s : State) (l : MLoad) (w k : Nat) : List Byte :=
  let f := l.chunks.getD k []
  ((s.laneBytes l.cmd w).drop (f.getD 3 0)).take (f.getD 1 0 + 16)

/-- A chunk arrives at its worker, which runs check 10 and writes the plaintext (R187, R177). A chunk waits while its pages are not
free yet. -/
def execChunkCheck (w k : Nat) (s : State) : Host.Outcome State Fault Refusal :=
  match s.mound.loads.find? fun l => l.workers.contains w && decide (k < l.chunks.length) &&
      l.workers[(l.chunks.getD k []).getD 0 0]? == some w with
  | none => .next s
  | some l =>
    let x := s.worker w
    let o := x.objs.get MObj.init l.obj
    if !s.moves w || o.state != 1 || l.passed.contains (w, k) then .next s
    else if x.runLost l.obj o then .next (s.seekAgain w l.obj o l)
    else if !x.runFree l.obj o then .next s
    else match unwrapCek l.header (x.slot l.owner).secret with
      | none => .next (s.failLoad l 0x24 (some o.lane) 0xFFFFFFFF)
      | some cek =>
        match openChunk l.header cek k (s.chunkBytes l w k) with
        | none => .next (s.failLoad l 0x25 (some o.lane) k)
        | some plain =>
          if s.fit.sig && leNat (sha3_384 plain) != l.hashes.getD k 0 then .next (s.failLoad l 0x25 (some o.lane) k)
          else
            let a := s.objAddr w false o.first ((l.chunks.getD k []).getD 2 0)
            .next <| (s.tierWriteKey (x.slot o.owner).gen a plain).updMound fun m =>
              { m with loads := m.loads.map fun y => if y = l then { y with passed := y.passed ++ [(w, k)] } else y }

/-- Lines of a lane object that no chunk covers (R175). -/
def laneGaps (chunks : List (List Nat)) (objLen lane : Nat) : List Nat :=
  (List.range (ceilDiv objLen 64)).filter fun n =>
    !chunks.any fun f => f.getD 0 0 == lane && decide (f.getD 2 0 ≤ 64 * n) && decide (64 * n < f.getD 2 0 + f.getD 1 0)

/-- The lines of a lane object that no chunk covers are zero (R175). -/
def State.zeroGaps (s : State) (w : Nat) (o : MObj) (chunks : List (List Nat)) : State :=
  (laneGaps chunks o.objLen o.lane).foldl (init := s) fun st n =>
    st.tierWriteKey ((s.worker w).slot o.owner).gen (s.objAddr w o.secondary o.first (64 * n)) (List.replicate 64 0)

/-- A load is complete: the store copies are kept where there is room, and it completes (R186, R189). -/
def State.loadDone (s : State) (l : MLoad) : State :=
  let len := (l.cmd.data.getD []).length
  let sleds := if l.cmd.store ∧ l.fromFlash = false then ((l.workers.map sledOf).dedup).filter fun k => s.storeRoom k len else []
  let s1 := s.forEach sleds fun st k => st.storePut k l.cocoon (l.cmd.data.getD [])
  (s1.updMound fun m => { m with loads := m.loads.filter fun y => y.cmd != l.cmd || y.obj != l.obj }).final l.cmd stOk
    (if l.cmd.store then [(1, sleds.foldl (fun m k => m + 2 ^ k) 0)] else [])

/-- A lane of a load that was resident is so no longer: it was spoiled and dropped while other lanes were still moving. -/
def State.laneLost (s : State) (l : MLoad) : Option Nat :=
  l.workers.findIdx? fun v =>
    l.done.contains v && !(match (s.worker v).objs.get? l.obj with | some o => o.state == 2 || o.state == 4 | none => false)

/-- At a worker's first boundary after its last chunk passed, the object is resident there (R189). With the last lane the load completes:
00h where the object is resident on every listed worker. -/
def execObjectResident (w obj : Nat) (s : State) : Host.Outcome State Fault Refusal :=
  match s.loadOn w obj with
  | none => .next s
  | some l =>
    let x := s.worker w
    let o := x.objs.get MObj.init obj
    let all := (List.range l.chunks.length).all fun k => (l.chunks.getD k []).getD 0 0 != o.lane || l.passed.contains (w, k)
    if s.moves w && o.state == 1 && all && x.runFree obj o then
      let s1 := s.zeroGaps w { o with secondary := false } l.chunks
      let s2 := s1.updWorker w fun y =>
        { y with objs := y.objs.set obj { o with state := 2, lastUse := (s.hub (sledOf w)).frame } }
      let l2 := { l with done := l.done ++ [w] }
      let s3 := s2.updMound fun m => { m with loads := m.loads.map fun y => if y = l then l2 else y }
      let s4 := s3.syncPins w
      .next <|
        if l.workers.all fun v => l2.done.contains v then
          match s4.laneLost l2 with
          | some lane => s4.failLoad l2 0x2B (some lane) 0xFFFFFFFF
          | none => s4.loadDone l2
        else s4
    else .next s

/-! ## Promotion and demotion (R194 to R196) -/

/-- MOUND_PROMOTE (R184, R195, R196): room is sought on every listed worker, in order. -/
def State.promoteLanes (s : State) (obj : Nat) : List Nat → State × Bool
  | [] => (s, true)
  | w :: rest =>
    let o := (s.worker w).objs.get MObj.init obj
    match (s.updWorker w fun x => { x with objs := x.objs.set obj { o with state := 5, toFirst := noRun } }).seek w o.pages with
    | (s1, some a) =>
      (s1.updWorker w fun x =>
        { x with objs := x.objs.set obj { o with state := 5, toFirst := a } }).promoteLanes obj rest
    | (s1, none) => (s1.updWorker w fun x => { x with objs := x.objs.set obj o }, false)

/-- Promotions of an object taken back on workers. -/
def State.unpromote (s : State) (obj : Nat) (ws : List Nat) : State :=
  s.forEach ws fun st w =>
    st.updWorker w fun x =>
      match x.objs.get? obj with
      | some o => if o.state = 5 then { x with objs := x.objs.set obj { o with state := 3 } } else x
      | none => x

/-- MOUND_PROMOTE (R196). -/
def State.moundPromote (s : State) (c : Cmd) : State :=
  let ws := c.workers.dedup
  s.decideCmd c 0x0042 (decide (c.unit < 4096)) c.listOk moundStates
    [(!ws.any s.moundBusy, stBusy), (ws.all fun w => ((s.worker w).objs.get MObj.init c.unit).state == 3, 0x2B)] fun st =>
    match st.promoteLanes c.unit ws with
    | (s1, true) =>
      let s2 := s1.interim c
      if ws.isEmpty then s2.final c stOk
      else s2.updMound fun m => { m with promotes := m.promotes ++ [{ cmd := c, obj := c.unit, waiting := ws }] }
    | (s1, false) => (s1.unpromote c.unit ws).final c 0x27

def execMoundPromote (c : Cmd) (s : State) : Host.Outcome State Fault Refusal := .next (s.moundPromote c)

/-- A promotion has ended on a worker; with its last one the command completes. -/
def State.promoted (s : State) (w obj : Nat) : State :=
  match s.mound.promotes.find? fun p => p.obj == obj && p.waiting.contains w with
  | none => s
  | some p =>
    let rest := p.waiting.filter fun v => v != w
    let s1 := s.updMound fun m =>
      { m with promotes := (m.promotes.map fun q => if q = p then { q with waiting := rest } else q).filter fun q => !q.waiting.isEmpty }
    if rest.isEmpty then s1.final p.cmd stOk else s1

/-- A lane copied from one share to the other, under its owner's key. -/
def State.copyLane (s : State) (w : Nat) (o : MObj) : State :=
  let n := o.pages * 4096
  s.tierWriteKey ((s.worker w).slot o.owner).gen (s.objAddr w (!o.secondary) o.toFirst 0)
    (s.tierBytes (s.objAddr w o.secondary o.first 0) n)

/-- The lines of a lane that its copy reads, with the bytes in error of those that have any: the state after them, and whether one could
not be corrected (R154). -/
def State.copyErrors (s : State) (w : Nat) (o : MObj) (errs : List (Nat × Nat)) : State × Bool :=
  (errs.filter fun e => decide (e.1 < 64 * o.pages)).foldl (init := (s, false)) fun p e =>
    let r := p.1.lineErrors (s.objAddr w o.secondary o.first (64 * e.1)) e.2
    (r.1, p.2 || r.2)

/-- A promotion of an object ends with a code; its other lanes go back. -/
def State.failPromote (s : State) (w obj code : Nat) : State :=
  match s.mound.promotes.find? fun p => p.obj == obj && p.waiting.contains w with
  | some p => ((s.unpromote obj p.waiting).updMound fun m => { m with promotes := m.promotes.erase p }).final p.cmd code
  | none => s

/-- The copy of a lane ends: a demoted object lies in the secondary share, a promoted one in the primary, from this boundary
(R195, R196). A promotion waits until its run is free, and is sought again where a demotion was cancelled. A copy that met a line it
could not correct has failed: the object is spoiled (R154, R199), and its promotion ends with NOT_RESIDENT. -/
def execMoundCopyEnd (w obj : Nat) (errs : List (Nat × Nat)) (s : State) : Host.Outcome State Fault Refusal :=
  match (s.worker w).objs.get? obj with
  | none => .next s
  | some o =>
    let dst := { o with first := o.toFirst, secondary := false }
    if !s.moves w then .next s
    else if o.state = 4 ∧ o.pins = 0 ∧ o.pend ≤ 0 then
      let r := s.copyErrors w o errs
      .next <|
        if r.2 then r.1
        else (r.1.copyLane w o).updWorker w fun x =>
          { x with objs := x.objs.set obj { o with state := 3, secondary := true, first := o.toFirst, toFirst := 0 } }
    else if o.state = 5 then
      if (s.worker w).runLost obj dst then
        match (s.updWorker w fun x => { x with objs := x.objs.set obj { o with toFirst := noRun } }).seek w o.pages with
        | (s1, some a) => .next (s1.updWorker w fun x => { x with objs := x.objs.set obj { o with toFirst := a } })
        | (s1, none) =>
          .next ((s1.updWorker w fun x => { x with objs := x.objs.set obj { o with state := 3, toFirst := 0 } }).failPromote w obj 0x27)
      else if !(s.worker w).runFree obj dst then .next s
      else
        let r := s.copyErrors w o errs
        .next <|
          if r.2 then r.1.failPromote w obj 0x2B
          else
            let s1 := (r.1.copyLane w o).updWorker w fun x =>
              { x with objs := x.objs.set obj { dst with state := 2, toFirst := 0, lastUse := (s.hub (sledOf w)).frame } }
            (s1.syncPins w).promoted w obj
    else .next s

/-! ## Pins, drops and the query (R193, R194, Table 8.6) -/

/-- Resident in the primary share (R192, R193): loaded, or being demoted and still readable there. -/
def MObj.inPrimary (o : MObj) : Bool := o.state == 2 || o.state == 4

/-- Resident in the primary share, spoiled or not (R193, R199). -/
def MObj.atPrimary (o : MObj) : Bool := o.inPrimary || (o.state == 6 && !o.secondary)

/-- A pin change accepted on the listed workers (R193). -/
def State.pinChange (s : State) (c : Cmd) (add : Bool) : State :=
  let ws := c.workers.dedup
  let s1 := s.forEach ws fun st w =>
    st.updWorker w fun x =>
      let o := x.objs.get MObj.init c.unit
      { x with objs := x.objs.set c.unit { o with pend := o.pend + if add then 1 else -1 } }
  if ws.isEmpty then s1.final c stOk
  else s1.updMound fun m => { m with pins := m.pins ++ [{ cmd := c, obj := c.unit, add := add, waiting := ws }] }

/-- MOUND_PIN (R193). -/
def State.moundPin (s : State) (c : Cmd) : State :=
  s.decideCmd c 0x0043 (decide (c.unit < 4096)) c.listOk moundStates
    [(c.workers.all fun w => ((s.worker w).objs.get MObj.init c.unit).atPrimary, 0x2B),
     (c.workers.all fun w =>
        let o := (s.worker w).objs.get MObj.init c.unit
        decide ((o.pins : Int) + o.pend < 65535), 0x2C)] fun st => st.pinChange c true

def execMoundPin (c : Cmd) (s : State) : Host.Outcome State Fault Refusal := .next (s.moundPin c)

/-- MOUND_UNPIN (R193). -/
def State.moundUnpin (s : State) (c : Cmd) : State :=
  s.decideCmd c 0x0044 (decide (c.unit < 4096)) c.listOk moundStates
    [(c.workers.all fun w =>
        let o := (s.worker w).objs.get MObj.init c.unit
        decide (0 < (o.hostPins : Int) + o.pend), 0x2B)] fun st => st.pinChange c false

def execMoundUnpin (c : Cmd) (s : State) : Host.Outcome State Fault Refusal := .next (s.moundUnpin c)

/-- A worker's pin change applied: the command completes with its last worker. -/
def State.pinned (s : State) (w obj : Nat) : State :=
  let mine := s.mound.pins.filter fun p => p.obj == obj && p.waiting == [w]
  let s1 := s.updMound fun m =>
    { m with
      pins := (m.pins.map fun p => if p.obj = obj then { p with waiting := p.waiting.filter fun v => v != w } else p).filter
        fun p => !p.waiting.isEmpty }
  mine.foldl (fun st p => st.final p.cmd stOk) s1

/-- At a worker's first boundary after the command was accepted its pending host pins are applied (R193); a pinned object is not
demoted (R194), and a spoiled one whose count is 0 is dropped (R199). -/
def execHostPinApply (w obj : Nat) (s : State) : Host.Outcome State Fault Refusal :=
  match (s.worker w).objs.get? obj with
  | none => .next (s.pinned w obj)
  | some o =>
    let o1 := { o with hostPins := ((o.hostPins : Int) + o.pend).toNat, pend := 0 }
    let o2 := if o1.state = 4 ∧ 0 < o1.pins then { o1 with state := 2, toFirst := 0 } else o1
    .next <| (s.updWorker w fun x =>
      { x with objs := if o2.state = 6 ∧ o2.pins = 0 then x.objs.erase obj else x.objs.set obj o2 }).pinned w obj

/-- MOUND_DROP (R194): refused with 28h where the object is pinned or a load of it is still in progress, with 2Bh where it is not there. -/
def State.moundDrop (s : State) (c : Cmd) : State :=
  s.decideCmd c 0x0045 (decide (c.unit < 4096)) c.listOk moundStates
    [(c.workers.all fun w => ((s.worker w).objs.get? c.unit).isSome, 0x2B),
     (c.workers.all fun w =>
        let o := (s.worker w).objs.get MObj.init c.unit
        o.pins == 0 && decide (o.pend ≤ 0) && o.state != 1 && (s.loadOn w c.unit).isNone, 0x28)] fun st =>
    (st.forEach c.workers fun a w => a.updWorker w fun x => x.dropObj c.unit).final c stOk

def execMoundDrop (c : Cmd) (s : State) : Host.Outcome State Fault Refusal := .next (s.moundDrop c)

/-- The entry of Table 8.6. -/
def MObj.entry (o : MObj) (obj : Nat) : List Byte :=
  leBytes 2 obj ++ leBytes 1 o.state ++ leBytes 1 o.kind ++ leBytes 1 o.lane ++ leBytes 1 o.owner ++ leBytes 2 o.pins ++
    leBytes 2 o.hostPins ++ leBytes 4 o.pages ++ leBytes 8 o.cocoon ++ leBytes 8 o.lastUse ++ leBytes 48 o.digest

/-- MOUND_QUERY writes the object's entry (R184, Table 8.6). -/
def State.moundQuery (s : State) (c : Cmd) : State :=
  s.decideCmd c 0x0046 (decide (c.unit < 4096) && s.fit.workerOk c.id) true everyState [] fun st =>
    st.writeBack c c.addr (((st.worker c.id).objs.get MObj.init c.unit).entry c.unit) []

def execMoundQuery (c : Cmd) (s : State) : Host.Outcome State Fault Refusal := .next (s.moundQuery c)

/-! ## Publisher keys (R178, R179) -/

/-- PUBKEY_ADD (R179). -/
def State.pubkeyAdd (s : State) (c : Cmd) : State :=
  let key := c.data.getD []
  let id := keyId key
  let here := s.owners.pubkeys.any fun p => p.1 == id
  s.decideCmd c 0x0047 (!c.fromScarab) (c.data.isSome && key.length == 1952) [.service]
    [(s.fit.sig, stCapMismatch), (here || decide (s.owners.pubkeys.length < 16), 0x27)] fun st =>
    (if here then st else st.updOwners fun o => { o with pubkeys := o.pubkeys ++ [(id, key)] }).final c stOk

def execPubkeyAdd (c : Cmd) (s : State) : Host.Outcome State Fault Refusal := .next (s.pubkeyAdd c)

/-- PUBKEY_REMOVE (R179): the key ID is ID followed by ADDR2 (Table 14.9). -/
def State.pubkeyRemove (s : State) (c : Cmd) : State :=
  s.decideCmd c 0x0048 (!c.fromScarab) true [.service] [(s.fit.sig, stCapMismatch)] fun st =>
    (st.updOwners fun o => { o with pubkeys := o.pubkeys.filter fun p => p.1 != c.id + c.addr2 * 2 ^ 64 }).final c stOk

def execPubkeyRemove (c : Cmd) (s : State) : Host.Outcome State Fault Refusal := .next (s.pubkeyRemove c)

/-! ## What the manager settles at its boundary -/

/-- Loads, promotions and pin changes that name a worker declared failed since: the load fails on that lane with LANE_MISMATCH, the
others go on without the worker. -/
def State.settleMound (s : State) : State :=
  let s1 := s.mound.loads.foldl (init := s) fun st l =>
    match l.workers.zipIdx.find? fun w => !st.workerUp w.1 with
    | some w => st.failLoad l 0x26 (some w.2) 0xFFFFFFFF
    | none => st
  let s2 := s1.mound.promotes.foldl (init := s1) fun st p =>
    (p.waiting.filter fun w => !s1.workerUp w || ((s1.worker w).objs.get MObj.init p.obj).state != 5).foldl
      (fun a w => a.promoted w p.obj) st
  s2.mound.pins.foldl (init := s2) fun st p =>
    (p.waiting.filter fun w => !s2.workerUp w).foldl (fun a w => a.pinned w p.obj) st

/-! ## Lanes of a failed worker (R227) -/

/-- An object lane written on a worker from the bytes of its cocoon (R175, R177): `none` where no live owner's secret opens the content key, or
a chunk's tag fails. -/
def State.reloadLane (s : State) (w : Nat) (o : MObj) (b : List Byte) : Option State :=
  let chunks := (List.range (cocoonChunks b)).map fun k => entryFields (chunkEntry b k)
  match s.owners.live.findSome? fun x => unwrapCek b ((s.worker w).slot x).secret with
  | none => none
  | some cek =>
    let write := fun (acc : Option State) (f : List Nat × Nat) =>
      if f.1.getD 0 0 ≠ o.lane then acc
      else acc.bind fun st =>
        (openChunk b cek f.2 ((b.drop (f.1.getD 3 0)).take (f.1.getD 1 0 + 16))).map fun plain =>
          st.tierWriteKey ((s.worker w).slot o.owner).gen (s.objAddr w o.secondary o.first (f.1.getD 2 0)) plain
    (chunks.zipIdx.foldl write (some s)).map fun st => st.zeroGaps w o chunks

/-- One object lane of the failed worker reloaded onto the spare from its sled's cocoon store (R227): resident where the store holds
its cocoon, absent where it does not. -/
def execMoundReload (k obj : Nat) (s : State) : Host.Outcome State Fault Refusal :=
  let w := workerCode k (s.hub k).spare.site
  let z := workerCode k 16
  match (s.worker w).objs.get? obj with
  | none => .next s
  | some o =>
    if (s.hub k).spare.phase = 2 ∧ s.moves z = true then
      let s1 := s.updWorker w fun x => { x with objs := x.objs.erase obj }
      let n := { o with state := 2, jobPins := 0, hostPins := 0, pend := 0, lastUse := (s.hub k).frame }
      let there := (s.hub k).store.any fun c => c.id == o.cocoon
      let s2 := match if there && o.state != 1 then s1.reloadLane z o (s.stored k o.cocoon) else none with
        | some t => (t.updWorker z fun x => { x with objs := x.objs.set obj n }).syncPins z
        | none => s1
      .next (if (s2.worker w).objs.cells.isEmpty then s2.updHub k fun h => { h with spare := { h.spare with phase := 3 } } else s2)
    else .next s

end Sys2Proof.Machine
end

