-- ==== Sys2Proof/Machine/Loops.lean ====
section
/-! DEFINITION. The loop cells of tile drivers, ring engines and laser modules (chapter 11), and the interpolation of calibrated values
(R292). -/

namespace Sys2Proof.Machine

/-- A number held in 24-bit two's complement: clamped (Table 11.5). -/
def clamp24 (z : Int) : Int := max (-8388608) (min 8388607 z)

/-! ## Engines and cells -/

/-- The engine of a part code. -/
def engineOf (part : Nat) : Option Engine :=
  if part < 0x100 then some (.tile part) else if part < 0x200 then some (.module (part - 0x100))
  else if 0x8000 ≤ part ∧ part < 0x9000 then some (.ring (part - 0x8000)) else none

/-- An engine that is fitted. -/
def Fit.engineOk (f : Fit) : Engine → Bool
  | .tile t => f.tileOk t
  | .module k => f.moduleOk k
  | .ring w => f.lacewing && f.workerOk w

/-- The calibration store of a part. -/
def State.cal (s : State) : Engine → Cal
  | .tile t => (s.tile t).cal
  | .module k => (s.module k).cal
  | .ring w => (s.worker w).cal

/-- The frame count an engine works in. -/
def State.engineFrame (s : State) : Engine → Nat
  | .ring w => (s.hub (sledOf w)).frame
  | _ => s.mgr.frame

/-- The LOOP parameters a part was shipped with. -/
def factoryRec (part h : Nat) : LoopRec :=
  let v := Config.factoryLoop part h
  { cell := h, order3 := decide (v 0 % 2 = 1), a1 := v 1, a2 := v 2, a3 := v 3, b0 := v 4, b1 := v 5, b2 := v 6, b3 := v 7
    setpoint := v 8, dither := (v 9).toNat, umin := (v 10).toNat, umax := min 50000 (v 11).toNat, slew := (v 12).toNat
    emax := v 13, locktol := v 14 }

/-- The mode of a cell that nothing has changed: OPEN for a heater, CLOSED for a laser in operation, OPEN for a ring; HOLD in Limp; OFF
for a heater of an unused element and for an engine without power (Table 11.4). -/
def State.restMode (s : State) (e : Engine) (h : Nat) : Nat :=
  match e with
  | .tile t =>
    if s.mgr.mode = .off ∨ (s.mgr.mode = .bringUp ∧ !s.mgr.stagesDone.contains .b) then 0
    else if s.mgr.mode = .limp then 4
    else if ((s.tile t).elems.get Elem.init (h / 2)).st = 3 then 0 else 1
  | .module k => if (s.module k).off then 0 else 3
  | .ring w => if (s.worker w).powered (9 + h / 16) then (if s.mgr.mode = .limp then 4 else 1) else 0

/-- The cells of an engine that have a record. -/
def State.engineTab (s : State) : Engine → Tab Cell
  | .tile t => (s.tile t).cells
  | .module k => (s.module k).cells
  | .ring w => (s.worker w).cells

/-- The default parameters of a cell: its LOOPDEF record in force, else those that the part was shipped with (R93, R295). -/
def Cal.loopRec (c : Cal) (part h : Nat) : LoopRec :=
  match c.inForce.find? fun r => r.kind == 10 && r.index == h with
  | some r => { LoopRec.ofBytes r.payload with cell := h }
  | none => factoryRec part h

/-- A cell. -/
def State.cell (s : State) (e : Engine) (h : Nat) : Cell :=
  (s.engineTab e).get { Cell.init with mode := s.restMode e h, rc := (s.cal e).loopRec (partOf e) h } h

/-- The state with an engine's cells changed. -/
def State.setTab (s : State) (e : Engine) (t : Tab Cell) : State :=
  match e with
  | .tile k => s.updTile k fun x => { x with cells := t }
  | .module k => s.updModule k fun x => { x with cells := t }
  | .ring w => s.updWorker w fun x => { x with cells := t }

/-- The state with a cell changed. -/
def State.updCell (s : State) (e : Engine) (h : Nat) (f : Cell → Cell) : State :=
  s.setTab e ((s.engineTab e).set h (f (s.cell e h)))

/-- Several cells changed. -/
def State.updCells (s : State) (e : Engine) (hs : List Nat) (f : Nat → Cell → Cell) : State :=
  s.forEach hs fun st h => st.updCell e h (f h)

/-! ## Sensors and temperature (R276 to R278) -/

/-- A conversion of an input (R276, R277). -/
def Sensor.convert (x : Sensor) (code : Nat) : Sensor :=
  if 0xFFF0 ≤ code then { x with tag := true, code := code, openRun := x.openRun + 1, okRun := 0 }
  else { x with tag := false, code := code, openRun := 0, okRun := x.okRun + 1 }

/-- The sensor inputs of an engine. -/
def State.sensors (s : State) : Engine → Tab Sensor
  | .tile t => (s.tile t).therm
  | .module k => (s.module k).sensors
  | .ring _ => Tab.empty

/-- The state with the sensor inputs of an engine changed. -/
def State.setSensors (s : State) (e : Engine) (t : Tab Sensor) : State :=
  match e with
  | .tile k => s.updTile k fun x => { x with therm := t }
  | .module k => s.updModule k fun x => { x with sensors := t }
  | .ring _ => s

/-- The conversions of a frame. -/
def State.convertSensors (s : State) (e : Engine) (codes : List (Nat × Nat)) : State :=
  s.setSensors e (codes.foldl (fun t c => t.set c.1 ((t.get Sensor.init c.1).convert c.2)) (s.sensors e))

/-- Temperatures of a tile's inputs that are used in this frame, ascending. -/
def Tile.temps (x : Tile) (t : Nat) : List Int :=
  ((x.therm.cells.filter fun c => !c.2.isOpen && !c.2.tag).map fun c => Config.thermTemp t c.1 c.2.code).mergeSort (· ≤ ·)

/-- Total heater power of a tile, in units. -/
def Tile.heat (x : Tile) : Nat := (x.cells.cells.map fun c => c.2.power).sum

/-- The model of R278, one frame on: `tMod` in 2^-12 of 1/128 °C. -/
def Tile.modelStep (x : Tile) (t : Nat) : Int :=
  let rth := x.cal.val t 6 0 8 0
  let target := x.tBase * 4096 + roundNE (rth * ((x.heat : Int) - (x.pBase : Int)) * 128 * 4096) 2000000000
  x.tMod + roundNE (target - x.tMod) 4096

/-- A tile's temperature for a frame (R278), and for how many frames it has stayed within 0.1 °C (R291). -/
def Tile.takeTemp (x : Tile) (t : Nat) : Tile :=
  let steady := fun (y : Tile) =>
    if 10 * (y.temp - y.steadyRef).natAbs < 128 then { y with steadyFor := y.steadyFor + 1 } else { y with steadyRef := y.temp, steadyFor := 0 }
  let known := fun (v : Int) => steady { x with temp := v, modelled := false, tBase := v, pBase := x.heat, tMod := v * 4096 }
  match x.temps t with
  | [] => let m := x.modelStep t; steady { x with modelled := true, tMod := m, temp := roundNE m 4096 }
  | [a] => known a
  | [a, b] => known (roundNE (a + b) 2)
  | [_, b, _] => known b
  | [_, b, c, _] => known (roundNE (b + c) 2)
  | a :: _ => known a

/-! ## Dither and the measured error (R268, R269) -/

/-- A tap ratio in Q1.23, clamped; where the input mean is 0 the spec states no ratio. -/
def tapRatio (fresh tap input : Nat) : Int :=
  if input = 0 then ((Config.openResult fresh % 8388608 : Nat) : Int)
  else min 8388607 (roundNE ((tap : Int) * 8388608) input)

/-- r of a heater in a frame: the ratios of every route through its element, mid tap for columns up to n − 1, output tap beyond. -/
def heaterRatio (fresh t h : Nat) (routes : List (Nat × Nat × List (Nat × Nat))) (chans : Tab Nat) : Int :=
  let e := h / 2
  let mine := routes.filter fun r => r.2.2.any fun p => p.1 == e
  min 8388607 <| mine.foldl (init := (0 : Int)) fun sum r =>
    let taps := routeTaps t r.2.1 r.2.2
    let tap := if e / (dieLinks t / 2) < dieLog t then taps.2.1 else taps.2.2
    match tap with
    | some k => sum + tapRatio fresh (chans.get 0 k) (chans.get 0 taps.1)
    | none => sum

/-- e of R269 from the window of ratios; with no dither amplitude the spec states no error. -/
def correlate (fresh code gain delay dither k : Nat) (neg : Bool) (window : List Int) : Int :=
  if dither = 0 then toSigned 24 (Config.openResult fresh)
  else
    let g : Int := if neg then -(gain : Int) else (gain : Int)
    let sum := (window.take 64).zipIdx.foldl (fun acc r => acc + chip code (k + 64 * 64 - delay - r.2) * r.1) (0 : Int)
    clamp24 (roundNE (g * sum) (2 ^ 20 * 64 * dither))

/-! ## The compensator (R262 to R265) -/

/-- Trim in units: u × 32,768, rounded. -/
def trimOf (u : Int) : Int := roundNE u 256

/-- u of R262 before saturation, rounded once to Q1.23. -/
def Cell.compensate (x : Cell) (eps : Int) : Int :=
  let r := x.rc
  let third := if r.order3 then r.a3 * x.u3 + r.b3 * x.e3 else 0
  roundNE (r.a1 * x.u1 + r.a2 * x.u2 + r.b0 * eps + r.b1 * x.e1 + r.b2 * x.e2 + third) (2 ^ 20)

/-- Power clamped to the cell's limits (R264). -/
def Cell.clampP (x : Cell) (p : Int) : Int := max (x.rc.umin : Int) (min (min 50000 x.rc.umax : Nat) p)

/-- What a cell works with in a frame: its frame, feedforward, chip and the chip before, the error, the ratio window's newest
value, and whether condition 3 of Table 11.6 holds. -/
structure CellIn where
  frame : Nat
  ff    : Nat
  chip  : Int
  prev  : Int
  err   : Int
  dark  : Bool

/-- A cell's new output power taken over; P of the frame before is kept for condition 1. -/
def Cell.output (x : Cell) (p : Int) : Cell := { x with lastPower := x.nextPower, nextPower := p.toNat }

/-- Counts of the conditions of Table 11.6, one frame on. -/
def Cell.supervise (x : Cell) (i : CellIn) (eps : Int) (clamped : Bool) (sat : Bool) : Cell :=
  let run := if sat then x.satRun + 1 else 0
  let step := ((x.nextPower : Int) - (x.lastPower : Int)).natAbs - ((i.chip - i.prev) * (x.rc.dither : Int)).natAbs
  let hold : List Bool :=
    [clamped, decide (x.rc.slew < step), x.mode == 3 && decide (x.rc.emax < (eps.natAbs : Int)), i.dark, decide (64 ≤ run)]
  { x with satRun := run, cond := hold.zipIdx.map fun b => if b.1 then x.cond.getD b.2 0 + 1 else 0 }

/-- The lock counts of R261. -/
def Cell.lockCount (x : Cell) (eps : Int) : Cell :=
  if (eps.natAbs : Int) ≤ x.rc.locktol then { x with within := x.within + 1, beyond := 0 }
  else { x with within := 0, beyond := x.beyond + 1 }

/-- A CLOSED cell's frame (R262 to R265). -/
def Cell.closedStep (x : Cell) (i : CellIn) : Cell :=
  let eps := clamp24 (x.rc.setpoint - i.err)
  let raw := x.compensate eps
  let u := clamp24 raw
  let dith := i.chip * (x.rc.dither : Int)
  let p := (i.ff : Int) + trimOf u + dith
  let pc := x.clampP p
  let kept := if pc = p then u else clamp24 ((pc - (i.ff : Int) - dith) * 256)
  let y := { x with u1 := kept, u2 := x.u1, u3 := x.u2, e1 := eps, e2 := x.e1, e3 := x.e2, sat := x.sat || raw != u
                    dacsat := x.dacsat || pc != p }
  ((y.output pc).supervise i eps (pc != p) (raw != u)).lockCount eps

/-- A PRIME cell's frame: feedforward, the held trim and dither. -/
def Cell.primeStep (x : Cell) (i : CellIn) : Cell :=
  let eps := clamp24 (x.rc.setpoint - i.err)
  let p := (i.ff : Int) + trimOf x.u1 + i.chip * (x.rc.dither : Int)
  let pc := x.clampP p
  { ({ x with dacsat := x.dacsat || pc != p }.output pc).supervise i eps (pc != p) false with e1 := eps }

/-- A sign change seen by the relay (R280): after the first two, each gives a period over two changes and the peak-to-peak of ε. -/
def Tune.sample (t : Tune) (k : Nat) (eps : Int) : Tune :=
  let pos := decide (0 < eps)
  let t1 := { t with frames := t.frames + 1 }
  if pos = t.lastPos then (if pos then { t1 with hi := max t.hi eps } else { t1 with lo := min t.lo eps })
  else
    { t1 with
      changes := k :: t.changes, peaks := (t.hi - t.lo) :: t.peaks, lastPos := pos
      hi := if pos then eps else t.hi, lo := if pos then t.lo else eps }

/-- A TUNE cell's frame: the relay output (R280). -/
def Cell.tuneStep (x : Cell) (i : CellIn) : Cell :=
  match x.tune with
  | none => x
  | some t =>
    let eps := clamp24 (x.rc.setpoint - i.err)
    let p := (i.ff : Int) + trimOf x.u1 + (if 0 < eps then (t.amp : Int) else -(t.amp : Int))
    let pc := x.clampP p
    { { x with tune := some (t.sample i.frame eps), dacsat := x.dacsat || pc != p }.output pc with e1 := eps }

/-- One cell's frame in its mode (Table 11.3). A cell forced OPEN for one frame keeps its output (R267). -/
def Cell.frame (x : Cell) (i : CellIn) : Cell :=
  let eps := if x.mode = 2 ∨ x.mode = 3 ∨ x.mode = 5 then (clamp24 (x.rc.setpoint - i.err)).natAbs else 0
  let y := { x with ff := i.ff, epsLog := (eps :: x.epsLog).take 64 }
  if x.bumpless.isSome then y.output x.nextPower
  else if x.mode = 1 then y.output i.ff
  else if x.mode = 2 then y.primeStep i
  else if x.mode = 3 then y.closedStep i
  else if x.mode = 4 then y.output x.nextPower
  else if x.mode = 5 then y.tuneStep i
  else y.output 0

/-- What happens at the boundary that starts a frame: the outputs are applied, and a bumpless open is over (R258, R267). -/
def Cell.boundary (x : Cell) : Cell :=
  let y := { x with dac := x.nextDac, power := x.nextPower }
  match y.bumpless with
  | some m => if 8 ≤ m then { y with bumpless := some (m - 8) } else { y with mode := m, bumpless := none }
  | none => y

/-! ## Crosstalk and current (R265, R271) -/

/-- The power applied to a heater of a tile (R271); a ring has no matrix. -/
def crosstalk (c : Cal) (t h : Nat) (cells : Nat → Nat) : Int :=
  let x := fun f => c.val t 2 h f 0
  roundNE (x 8 * (cells h : Int)) 16384 +
    (List.range 8).foldl (fun acc m => acc + roundNE (x (9 + m) * (cells (x m).toNat : Int)) 16384) 0

/-- The DAC code of a heater power, limited to 50,000 units, at resistance `r` in 1/64 Ω: √(p / R_h) to the nearest code. -/
def heaterDac (p : Int) (r : Nat) : Nat × Bool :=
  let q := min 50000 p.toNat
  (min 65535 ((isqrt (4 * q * 32 * 65535 ^ 2 / (100 * max 1 r)) 40 0 + 1) / 2), decide (50000 < p))

/-! ## A frame of each engine (R258) -/

/-- Feedforward of a heater for its element's setting at the tile's temperature. -/
def heaterFf (c : Cal) (t h : Nat) (st : Nat) (temp : Int) : Nat :=
  if st = 3 then 0 else (c.at t 1 h (if st = 0 then 4 else if st = 1 then 5 else 6) temp).toNat

/-- Dither code of a heater (R229). -/
def Tile.codeOf (x : Tile) (h : Nat) : Nat :=
  let e := x.elems.get Elem.init (h / 2)
  if h % 2 = 0 then e.codeA else e.codeB

/-- Any monitor code at full scale. -/
def fullScale (m : LoopMeas) : Bool := m.chans.cells.any fun c => decide (0xFFFF ≤ c.2)

/-- The condition on the input taps of the routes through a heater's element (Table 11.6, bit 3). -/
def inputDark (c : Cal) (t h : Nat) (routes : List (Nat × Nat × List (Nat × Nat))) (chans : Tab Nat) : Bool :=
  routes.any fun r =>
    r.2.2.any (fun p => p.1 == h / 2) && decide ((chans.get 0 r.2.1 : Int) * 100 < c.val t 3 r.2.1 2 0)

/-- One heater cell of a tile in a frame. -/
def State.heaterStep (s : State) (t : Nat) (routes : List (Nat × Nat × List (Nat × Nat))) (m : LoopMeas) (h : Nat) : Cell :=
  let x := s.tile t
  let k := s.mgr.frame
  let c0 := (s.cell (.tile t) h).boundary
  let code := x.codeOf h
  let r := heaterRatio s.mgr.fresh t h routes m.chans
  let c := { c0 with code := code, window := (r :: c0.window).take 64 }
  let g := x.cal.val t 1 h 1 0
  let err := correlate s.mgr.fresh code g.natAbs (x.cal.val t 1 h 2 0).toNat c.rc.dither k (decide (g < 0)) c.window
  let ch : Int := if code = 0 then 0 else chip code k
  c.frame { frame := k, ff := heaterFf x.cal t h ((x.elems.get Elem.init (h / 2)).st) x.temp, chip := ch
            prev := if code = 0 then 0 else chip code (k + 63), err := err
            dark := inputDark x.cal t h routes m.chans || fullScale m }

/-- The DAC code of a tile's heater from the powers of the frame; one that is OFF takes no current (R233, R271). -/
def heaterDrive (x : Cal) (t : Nat) (cells : Tab Cell) (h : Nat) (c : Cell) : Cell :=
  if c.mode = 0 then { c with nextDac := 0 }
  else
    let d := heaterDac (crosstalk x t h fun n => (cells.get Cell.init n).nextPower) (x.val t 1 h 0 0).toNat
    { c with nextDac := d.1, dacsat := c.dacsat || d.2 }

/-- 16 bytes of a trace entry (Table 11.7). -/
def traceEntry (frame h : Nat) (modelled : Bool) (chipPos : Bool) (c : Cell) : List Byte :=
  leBytes 4 frame ++
    leBytes 2 (h % 1024 + c.mode * 2 ^ 10 + bit1 c.locked * 2 ^ 13 + bit1 chipPos * 2 ^ 14 + bit1 modelled * 2 ^ 15) ++
    leBytes 3 (toBits 24 c.e1) ++ leBytes 3 (toBits 24 c.u1) ++ leBytes 2 c.nextPower ++
    leBytes 2 (toBits 24 (c.window.headD 0) / 128 % 65536)

/-- The cells traced on a tile (Table 11.9). -/
def Tile.traced (x : Tile) : List Nat :=
  [bitsOf x.trsel0 9 0, bitsOf x.trsel0 25 16, bitsOf x.trsel1 9 0, bitsOf x.trsel1 25 16].take (x.trCells + 1)

/-- One trace entry written to the ring. -/
def Tile.trace1 (x : Tile) (frame h : Nat) : Tile :=
  let entry := traceEntry frame h x.modelled (x.codeOf h != 0 && chip (x.codeOf h) frame == 1) (x.cells.get Cell.init h)
  { x with trace := x.trace.set x.next entry, next := (x.next + 1) % 4096, wrapped := x.wrapped || x.next == 4095 }

/-- Trace entries of a frame (R282): after the trigger, POST further frames; then STOPPED is set and ARM cleared. -/
def Tile.traceFrame (x : Tile) (frame : Nat) : Tile :=
  if x.arm then
    match x.postLeft with
    | some 0 => { x with arm := false, stopped := true, postLeft := none }
    | some (n + 1) =>
      let y := x.traced.foldl (fun a h => a.trace1 frame h) x
      if n = 0 then { y with arm := false, stopped := true, postLeft := none } else { y with postLeft := some n }
    | none => x.traced.foldl (fun a h => a.trace1 frame h) x
  else x

/-- A frame of a tile's driver. -/
def State.tileFrame (s : State) (t : Nat) (m : LoopMeas) : State :=
  let s1 := (s.convertSensors (.tile t) (m.therm.zipIdx.map fun c => (c.2, c.1))).updTile t fun x => x.takeTemp t
  let s2 := s1.updTile t fun x => { x with outRange := decide (x.temp < 3840) || decide (7680 ≤ x.temp) }
  let routes := s2.tileRoutes t
  let stepped : Tab Cell := ⟨(List.range (tileHeaters t)).map fun h => (h, s2.heaterStep t routes m h)⟩
  let s3 := s2.setTab (.tile t) (stepped.mapVals fun h c => heaterDrive (s2.tile t).cal t stepped h c)
  (s3.updTile t fun x => x.traceFrame s.mgr.frame).draw.2

/-- A cell runs the sequence that follows a retry (R275): `setupAt` is 12 frames before the frame of its PRIME. -/
def Cell.retrying (x : Cell) : Bool := match x.lastRetry with | some f => f + 1 == x.setupAt + 12 | none => false

/-- The mode of a ring cell in a frame (Table 11.4): CLOSED on a live receive circuit, but for the sequence after a retry; else OPEN.
It stays in HOLD after a declaration, in a port verify and in Limp; it is OFF where the port has no power. In Service it stays under
service control. -/
def State.ringMode (s : State) (w h : Nat) (c : Cell) : Nat :=
  let x := s.worker w
  let p := x.port (h / 8)
  if !x.powered (9 + h / 16) then 0
  else if c.mode = 5 ∨ s.mgr.mode = .service ∨ s.mgr.mode = .limp then c.mode
  else if c.mode = 4 ∧ (c.holdAt.isSome = true ∨ p.loopback = true) then c.mode
  else match p.rx with
    | some n =>
      if (s.circ n).rxLive then
        (if c.retrying && decide (s.engineFrame (.ring w) < c.setupAt + 76) then c.mode else 3)
      else 1
    | none => 1

/-- A ring cell held after a declaration is released, its retries forgotten, once its port has no receive circuit (R275). -/
def State.ringRelease (s : State) (w h : Nat) (c : Cell) : Cell :=
  if c.mode = 4 ∧ c.holdAt.isSome = true ∧ ((s.worker w).port (h / 8)).rx = none then c.rest else c

/-- A frame of a worker's ring engine: its own dither codes, its drop monitor in place of r, no crosstalk (R269, R271). -/
def State.ringFrame (s : State) (w : Nat) (m : LoopMeas) : State :=
  let e := Engine.ring w
  let k := s.engineFrame e
  let part := partOf e
  let temp := ((m.therm.headD 0 : Nat) : Int)
  let cal := (s.worker w).cal
  let cells : Tab Cell := ⟨(List.range 32).map fun h =>
    let c0 := s.ringRelease w h (s.cell e h).boundary
    let code := 56 + h % 8
    let c1 := { c0 with mode := s.ringMode w h c0, code := code, window := (((m.chans.get 0 h : Nat) : Int) :: c0.window).take 64 }
    let g := cal.at part 9 h 1 temp
    let err := correlate s.mgr.fresh code g.natAbs (cal.at part 9 h 2 temp).toNat c1.rc.dither k (decide (g < 0)) c1.window
    let c2 := c1.frame { frame := k, ff := (cal.at part 9 h 0 temp).toNat, chip := chip code k, prev := chip code (k + 63)
                         err := err, dark := fullScale m }
    let d := heaterDac c2.nextPower (cal.val part 9 h 3 0).toNat
    (h, { c2 with nextDac := d.1, dacsat := c2.dacsat || d.2 })⟩
  (s.setTab e cells).draw.2

/-- The set-point of R273 for a level, in 0.01 dBm. -/
def powerTarget (level : Nat) : Int := roundNE (1100 * (level : Int)) 65535 - 1000

/-- A module's power set-point in a frame (R273): it follows its target by at most 0.05 dB, is frozen in Hold, and is at glow level in
Doze, Limp and before bring-up has ended. -/
def State.powerStep (s : State) (x : Module) : Int :=
  let waking := match s.mgr.wakeStart with | some w => decide (w + 64 ≤ s.mgr.frame) | none => false
  let restarting := match s.mgr.restart with | some r => decide (16 ≤ s.mgr.frame - r.start) | none => false
  if x.glowAll then -1000
  else match s.mgr.mode with
    | .hold => x.power
    | .doze => if waking then x.power + max (-5) (min 5 (powerTarget s.light.level - x.power)) else -1000
    | .limp => if restarting then x.power + max (-5) (min 5 (powerTarget s.light.level - x.power)) else -1000
    | _ => x.power + max (-5) (min 5 (powerTarget s.light.level - x.power))

/-- The grid frequency that a laser of a module stands on (R253, R274): its own, or for a spare the one it takes over. -/
def Module.gridOf (x : Module) (n : Nat) : Option Nat :=
  if n < 8 then some n
  else match x.sparing.find? fun p => p.spare == n with
    | some p => some p.lam
    | none => let l := if n = 8 then x.sub8 else x.sub9; if l = 15 then none else some l

/-- The power set-point of a laser of a module (R273, R274): a spare stays at glow level until its lock, and then ramps by 0.05 dB a frame. -/
def Module.laserPower (x : Module) (frame n : Nat) : Int :=
  if n < 8 then x.power
  else match x.spareFrom.get? n with
    | some f => min x.power (-1000 + 5 * ((frame - f : Nat) : Int))
    | none => -1000

/-- The level of a splitter output, per wavelength in 0.01 dBm (R250, R255, R256): glow level where the interlock or a failure holds it there; after
its release a ramp to the set-point over 64 manager frames. -/
def Module.outputPower (x : Module) (frame m : Nat) : Int :=
  if x.glow.testBit m ∨ x.failed = true then min (-1000) x.power
  else match x.ramp.get? m with
    | some f => if frame < f + 64 then -1000 + (x.power + 1000) * ((frame - f : Nat) : Int) / 64 else x.power
    | none => x.power

/-- A frame of a laser module: power cells 0 to 9 from the back-facet monitors, wavelength cells 10 to 19 from the lockers, whose SETPOINT is the
calibrated locker error at the laser's grid frequency (R274). -/
def State.moduleFrame (s : State) (k : Nat) (m : LoopMeas) : State :=
  let e := Engine.module k
  let part := partOf e
  let s1 := s.convertSensors e m.sensors.cells
  let s2 := s1.updModule k fun x => { x with power := s1.powerStep x }
  let x := s2.module k
  let temp := ((m.therm.headD 0 : Nat) : Int)
  let cells : Tab Cell := ⟨(List.range 20).map fun h =>
    let c0 := (s2.cell e h).boundary
    let n := h % 10
    let aim := if h < 10 then c0.rc.setpoint else ((x.gridOf n).map fun g => x.cal.at part 7 n (2 + g) temp).getD c0.rc.setpoint
    let sn := x.sensors.get Sensor.init (2 * n + h / 10)
    let err := Config.laserError part h sn.code (x.laserPower s.mgr.frame n)
    let c := { c0 with rc := { c0.rc with setpoint := aim } }.frame
      { frame := s.mgr.frame, ff := (x.cal.at part 7 n (10 + h / 10) temp).toNat, chip := 0, prev := 0, err := clamp24 err, dark := false }
    (h, { c with nextDac := Config.laserDrive part h c.nextPower % 65536 })⟩
  s2.setTab e cells

/-! ## The light-budget input (R70, R272) -/

/-- A change of the averaged level by more than a tenth of full scale since the doze agreement. -/
def Light.changed (x : Light) : Bool := decide (65535 < 10 * ((x.level : Int) - (x.agreed : Int)).natAbs)

/-- A sample of the input: in analogue mode millivolts; in PWM mode 0 where no edge came in the frame, else 1 plus the duty of the last
complete period × 65,535. -/
def Light.sample (x : Light) (pwm : Bool) (v : Nat) : Light :=
  if pwm then
    if v = 0 then { x with noEdge := x.noEdge + 1, lastCode := v }
    else { x with noEdge := 0, lastCode := v, valid := true, level := min 65535 (v - 1) }
  else if 2600 < v then { x with lastCode := v }
  else
    let hist := (min 65535 (roundNE (65535 * (v : Int)) 2500).toNat :: x.history).take 256
    { x with lastCode := v, valid := true, history := hist
             level := (roundNE ((hist.sum : Nat) : Int) hist.length).toNat }

/-- The input sampled in a manager frame; in Hold it is ignored (R77). A change of more than 10 % is a wake request in the lead-in of a
doze and in Doze (R70). -/
def State.lightFrame (s : State) (v : Nat) : State :=
  if s.mgr.mode = .hold then s
  else
    let l := s.light.sample s.mgr.lbMode v
    let s1 := { s with light := l }
    if l.changed ∧ s.mgr.wake.isNone ∧ (s.mgr.doze.isSome ∨ s.mgr.mode = .doze) then
      s1.updMgr fun m => { m with wake := some { frame := m.frame, cmds := [] } }
    else s1

/-- An engine's frame schedule (R258). The light-budget input is sampled with the frame of module G00's place in the schedule, on every
machine. -/
def execLoopCellFrame (e : Engine) (m : LoopMeas) (s : State) : Host.Outcome State Fault Refusal :=
  if s.mgr.mode = .off then .next s
  else
    let s0 := if e = .module 0 then s.lightFrame m.budget else s
    if s.fit.engineOk e then
      match e with
      | .tile t => .next (s0.tileFrame t m)
      | .module k => .next (s0.moduleFrame k m)
      | .ring w => if s.workerUp w then .next (s0.ringFrame w m) else .next s0
    else .next s0

/-- The input is invalid: the last valid level is held, VALID falls and EV_SENSOR_OPEN is raised with the manager's input (R272). -/
def execLightBudgetInvalid (s : State) : Host.Outcome State Fault Refusal :=
  let l := s.light
  let bad := if s.mgr.lbMode then decide (391 ≤ l.noEdge) else decide (2600 < l.lastCode)
  if l.valid && bad then
    .next <| ({ s with light := { l with valid := false } }).raise 0x000C
      [(0, 2, 0xFF00), (2, 1, 0), (4, 2, l.lastCode), (8, 4, s.mgr.frame)]
  else .next s

/-! ## Sequences, locks and supervision (R261, R270, R275) -/

/-- States in which heater cells follow R261 and R275 (Table 11.4); in Doze from wake frame 1,088 on, in Limp in the restart ladder. -/
def State.loopsRun (s : State) : Bool :=
  match s.mgr.mode with
  | .off => false
  | .bringUp => false
  | .limp => s.mgr.restart.isSome
  | .doze => (match s.mgr.wakeStart with | some w => decide (w + 1088 ≤ s.mgr.frame) | none => false)
  | _ => true

/-- A heater's element carries a route. -/
def State.heaterRouted (s : State) (t h : Nat) : Bool :=
  let e := (s.tile t).elems.get Elem.init (h / 2)
  decide (e.st ≤ 1) && (s.tileRoutes t).any fun r => r.2.2.any fun p => p.1 == h / 2

/-- A cell follows the sequence of R261: a heater whose element carries a route; a ring or laser cell only after a retry (R275), a ring
cell while its port's receive circuit is live. -/
def State.inSequence (s : State) (e : Engine) (h : Nat) : Bool :=
  match e with
  | .tile t => s.heaterRouted t h
  | .ring w =>
    (s.cell e h).retrying && (match ((s.worker w).port (h / 8)).rx with | some c => (s.circ c).rxLive | none => false)
  | .module _ => (s.cell e h).retrying

/-- A step of a cell's sequence: PRIME at S + 12, CLOSED at S + 76 (R261); a code change runs PRIME for 64 frames (R270). -/
def execCellSequenceStep (e : Engine) (h : Nat) (s : State) : Host.Outcome State Fault Refusal :=
  let c := s.cell e h
  let k := s.engineFrame e
  if s.fit.engineOk e && decide (h < engineCells e) && s.loopsRun && s.inSequence e h then
    if c.mode = 1 ∧ c.bumpless = none ∧ c.setupAt + 12 ≤ k then
      .next (s.updCell e h fun x => { x with mode := 2, window := [], locked := false, within := 0, beyond := 0 })
    else if c.mode = 2 ∧ c.setupAt + 76 ≤ k then
      .next (s.updCell e h fun x => { x with mode := 3, e1 := 0, e2 := 0, e3 := 0, u2 := x.u1, u3 := x.u1 })
    else .next s
  else .next s

/-- A circuit is locked: all heater cells of its elements are LOCKED (R261). -/
def State.circLocked (s : State) (c : Nat) : Bool :=
  (s.circHops c).all fun hop =>
    let p := tilePath hop.1 (s.tile hop.1).elems (posLink hop.1 hop.2.1)
    p.length == dieColumns hop.1 && p.all fun e => (s.cell (.tile hop.1) (2 * e.1)).locked && (s.cell (.tile hop.1) (2 * e.1 + 1)).locked

/-- The circuits through a tile locked or usable again after one of its cells changed (R243, Table 10.8). -/
def State.judgeLock (s : State) (t : Nat) : State :=
  s.forEach (s.tileCircs t) fun st c =>
    let x := st.circ c
    if x.state = 2 ∧ st.circLocked c then
      (st.updCirc c fun y =>
        { y with
          state := 3, wasLocked := true
          lockT := if y.wasLocked then y.lockT else min 255 (st.mgr.frame - y.usableAt) }).planInput
    else if x.state = 3 ∧ !st.circLocked c then (st.updCirc c fun y => { y with state := 2 }).planInput
    else st

/-- LOCKED changes after 16 consecutive frames within, or beyond, the tolerance (R261). -/
def execCellLockChange (e : Engine) (h : Nat) (s : State) : Host.Outcome State Fault Refusal :=
  let c := s.cell e h
  let judged := fun (st : State) => match e with | .tile t => st.judgeLock t | _ => st
  if s.fit.engineOk e && decide (h < engineCells e) && c.mode == 3 then
    if !c.locked ∧ 16 ≤ c.within then .next (judged (s.updCell e h fun x => { x with locked := true }))
    else if c.locked ∧ 16 ≤ c.beyond then .next (judged (s.updCell e h fun x => { x with locked := false }))
    else .next s
  else .next s

/-- Reason mask of the conditions that have held for 8 frames (Table 11.6). -/
def Cell.reasons (x : Cell) : Nat := x.cond.zipIdx.foldl (fun m c => if 8 ≤ c.1 then m + 2 ^ c.2 else m) 0

/-- A condition that has held for 8 frames is declared: IMPL, the reason, HOLD, a counted retry within 1,024 frames of one, and
EV_LOOP_IMPLAUSIBLE (R275). -/
def execImplausibilityDeclared (e : Engine) (h : Nat) (s : State) : Host.Outcome State Fault Refusal :=
  let c := s.cell e h
  let k := s.engineFrame e
  if s.fit.engineOk e && decide (h < engineCells e) && s.loopsRun && (c.mode == 2 || c.mode == 3) && c.reasons != 0 then
    let again := match c.lastRetry with | some f => decide (k < f + 1024) | none => false
    let retries := if again then min 3 (c.retries + 1) else c.retries
    let value := if c.reasons = 4 then toBits 32 c.e1 else c.nextPower
    .next <| (s.updCell e h fun x =>
      { x with
        impl := true, reason := c.reasons, mode := 4, holdAt := some k, retries := retries, cond := [0, 0, 0, 0, 0] }).raise 0x000D
      [(0, 2, partOf e), (2, 2, h), (4, 1, c.reasons), (5, 1, retries), (8, 4, value), (12, 4, s.mgr.frame)]
  else .next s

/-- After 64 frames in HOLD the cell retries: OPEN for one frame, then PRIME and CLOSED; after the third counted retry it stays (R275). -/
def execCellRetry (e : Engine) (h : Nat) (s : State) : Host.Outcome State Fault Refusal :=
  let c := s.cell e h
  let k := s.engineFrame e
  match c.holdAt with
  | none => .next s
  | some f =>
    if s.loopsRun && c.mode == 4 && decide (f + 64 ≤ k) && decide (c.retries < 3) then
      .next <| s.updCell e h fun x =>
        { x with mode := 1, holdAt := none, lastRetry := some k, setupAt := k + 1 - 12, window := [] }
    else .next s

/-! ## Open sensors (R277, R279) -/

/-- The cells of laser `n`: power and wavelength. -/
def laserCells (n : Nat) : List Nat := [n, 10 + n]

/-- A laser cell whose input is declared open (R279): CLOSED, or in the sequence after a retry, it enters HOLD; one already in HOLD
retries no more while the input is open, unless its retries are spent. -/
def Cell.sensorHold (x : Cell) : Cell :=
  if x.mode = 3 ∨ x.mode = 2 ∨ (x.mode = 1 ∧ x.retrying = true) then { x with mode := 4 }
  else if x.mode = 4 ∧ x.retries < 3 then { x with holdAt := none }
  else x

/-- Two OPEN conversions in a row declare an input open (R277); a laser's cells go to HOLD (R279). -/
def execSensorOpen (e : Engine) (input : Nat) (s : State) : Host.Outcome State Fault Refusal :=
  let x := (s.sensors e).get Sensor.init input
  if s.fit.engineOk e && !x.isOpen && decide (2 ≤ x.openRun) then
    let s1 := s.setSensors e ((s.sensors e).set input { x with isOpen := true, okRun := 0 })
    let valid := ((s1.sensors e).cells.filter fun c => !c.2.isOpen).length
    let modelled := match e with | .tile t => valid == 0 && decide (t < 104) | _ => false
    let s2 := match e with
      | .module _ => s1.updCells e (laserCells (input / 2)) fun _ c => c.sensorHold
      | _ => s1
    .next <| s2.raise 0x000C
      [(0, 2, partOf e), (2, 1, input), (4, 2, x.code), (8, 4, s.mgr.frame), (12, 1, valid), (13, 1, bit1 modelled)]
  else .next s

/-- After 64 valid conversions in a row a declared input is used again (R277); a laser's cells return to CLOSED one frame later
(R279). -/
def execSensorRestored (e : Engine) (input : Nat) (s : State) : Host.Outcome State Fault Refusal :=
  let x := (s.sensors e).get Sensor.init input
  if s.fit.engineOk e && x.isOpen && decide (64 ≤ x.okRun) then
    let s1 := s.setSensors e ((s.sensors e).set input { x with isOpen := false })
    match e with
    | .module _ =>
      let other := (s1.sensors e).get Sensor.init (if input % 2 = 0 then input + 1 else input - 1)
      if other.isOpen then .next s1
      else .next <| s1.updCells e (laserCells (input / 2)) fun _ c =>
        if c.mode = 4 ∧ c.holdAt.isNone then { c with bumpless := some 3 } else c
    | _ => .next s1
  else .next s

/-! ## Relay auto-tune (R280, R281) -/

/-- The engine that a LOOP_TUNE or calibration command names, fitted. -/
def State.cmdEngine (s : State) (c : Cmd) : Option Engine :=
  match engineOf c.unit with
  | some e => if s.fit.engineOk e then some e else none
  | none => none

/-- A cell's element or laser carries a circuit other than a service circuit. -/
def State.cellInUse (s : State) (e : Engine) (h : Nat) : Bool :=
  let live := fun (c : Nat) => (s.circ c).standing && !(s.circ c).service
  match e with
  | .tile t => (s.tileRoutes t).any fun r => live r.1 && r.2.2.any fun p => p.1 == h / 2
  | .module k => (s.moduleCircs k).any live
  | .ring w => match ((s.worker w).port (h / 8)).rx with | some c => live c | none => false

/-- LOOP_TUNE (R280). -/
def State.loopTune (s : State) (c : Cmd) : State :=
  let cells := list16 (c.data.getD [])
  let e := s.cmdEngine c
  s.decideCmd c 0x0073
    (e.isSome && decide (c.count ≤ 64) && decide (1 ≤ c.aux) && decide (c.aux ≤ 4000) && decide (64 ≤ c.limit) && decide (c.limit ≤ 1024))
    (c.data.isSome && (c.data.getD []).length == 2 * c.count) [.service]
    [((e.elim false fun e => cells.all fun h => decide (h < engineCells e)), stBadCommand),
     ((e.elim false fun e => cells.all fun h => !s.cellInUse e h), stWrongState)] fun st =>
    match e with
    | none => st
    | some e =>
      let s1 := (st.interim c).updCells e cells fun _ x =>
        { x with
          mode := 5, result := 0, setupAt := match e with | .tile _ => x.setupAt | _ => 0
          tune := some { amp := c.aux, limit := c.limit, frames := 0, since := st.engineFrame e, changes := [], hi := 0, lo := 0, peaks := []
                         lastPos := decide (0 < x.e1), cmd := c } }
      if cells.isEmpty then s1.final c stOk else s1

def execLoopTune (c : Cmd) (s : State) : Host.Outcome State Fault Refusal := .next (s.loopTune c)

/-- Periods between every second sign change, latest first. -/
def tunePeriods : List Nat → List Nat
  | a :: b :: c :: rest => (a - c) :: tunePeriods (b :: c :: rest)
  | _ => []

/-- Four periods agree within 10 %. -/
def periodsAgree (ps : List Nat) : Bool :=
  ps.length == 4 && decide (10 * ps.foldl max 0 ≤ 11 * ps.foldl min (ps.headD 0)) && ps.all fun p => decide (0 < p)

/-- π × 10^14, rounded. -/
def piScaled : Nat := 314159265358979

/-- A number clamped to Q4.20. -/
def clampQ420 (z : Int) : Int := clamp24 z

/-- K_u, P_u, b0 and b1 of a tune (R280, R281), numbers as they are stored. -/
def tuneResult (amp sumP sumA : Nat) : Int × Nat × Int × Int :=
  let num : Nat := amp * 2 ^ 31 * 10 ^ 14 * 4
  let den : Nat := piScaled * sumA
  (clampQ420 (roundNE (num : Int) den), (roundNE (sumP : Int) 4).toNat,
    clampQ420 (roundNE (45 * (num : Int) * (10 * (sumP : Int) + 24)) (100 * den * (10 * sumP))),
    clampQ420 (-(roundNE (45 * (num : Int) * (10 * (sumP : Int) - 24)) (100 * den * (10 * sumP)))))

/-- A tuned cell returns to OPEN, with its result record once four periods agree, or RESULT 2 at the limit; the command completes with
the last of its cells (R280, R281). -/
def execTuneEnd (e : Engine) (h : Nat) (s : State) : Host.Outcome State Fault Refusal :=
  let c := s.cell e h
  match c.tune with
  | none => .next s
  | some t =>
    let ps := (tunePeriods t.changes).take 4
    let amps := (t.peaks.take 4).map fun a => a.natAbs
    let done := decide (6 ≤ t.changes.length) && periodsAgree ps && decide (0 < amps.sum)
    if done ∨ t.limit ≤ t.frames then
      let r := tuneResult t.amp ps.sum amps.sum
      let s1 := s.updCell e h fun x =>
        if done then { x with mode := 1, tune := none, result := 1, tuneKu := toBits 24 r.1, tunePu := r.2.1 % 65536
                              tuneA1 := 0x100000, tuneB0 := r.2.2.1, tuneB1 := r.2.2.2 }
        else { x with mode := 1, tune := none, result := 2 }
      let left := (s1.engineTab e).cells.any fun x => match x.2.tune with | some u => u.cmd == t.cmd | none => false
      .next (if left then s1 else s1.final t.cmd stOk)
    else .next s

/-- The LOOP_TUNE commands that have a cell in TUNE. -/
def State.tuneCmds (s : State) : List Cmd :=
  let cmds := fun (t : Tab Cell) => t.cells.filterMap fun (c : Nat × Cell) => c.2.tune.map fun u => u.cmd
  ((s.tiles.cells.flatMap fun x => cmds x.2.cells) ++ (s.modules.cells.flatMap fun x => cmds x.2.cells) ++
    s.workers.cells.flatMap fun x => cmds x.2.cells).dedup

/-- A heater or ring cell of an auto-tune that another state ends: OPEN. -/
def Cell.untune (x : Cell) : Cell := if x.tune.isSome then { x with mode := 1, tune := none } else x

/-- A laser cell where Service ends: CLOSED, but for one in HOLD, in the sequence after a retry, or turned off (Table 11.4). -/
def Cell.relight (x : Cell) : Cell :=
  { x with mode := if x.mode = 5 ∨ (x.mode = 1 ∧ x.retrying = false) then 3 else x.mode, tune := none }

/-- Service ends (Table 11.4): no cell is in TUNE any more, and laser cells are CLOSED. A LOOP_TUNE that was running completes with a STATUS
that the spec does not state. -/
def State.endTunes (s : State) : State :=
  let s1 : State :=
    { s with
      tiles := s.tiles.mapVals fun _ x => { x with cells := x.cells.mapVals fun _ c => c.untune }
      modules := s.modules.mapVals fun _ x => { x with cells := x.cells.mapVals fun _ c => c.relight }
      workers := s.workers.mapVals fun _ x => { x with cells := x.cells.mapVals fun _ c => c.untune } }
  s.tuneCmds.foldl (fun st c => (st.draw.2).final c (Config.openResult st.draw.1 % 256)) s1

/-! ## The trace buffer (R282) -/

/-- The trigger of `WVL.TRCTL.TRIG` holds on a tile. -/
def Tile.triggered (x : Tile) : Bool :=
  let impl := x.traced.any fun h => (x.cells.get Cell.init h).impl
  let open_ := x.therm.cells.any fun c => c.2.isOpen
  let sat := x.traced.any fun h => (x.cells.get Cell.init h).sat || (x.cells.get Cell.init h).dacsat
  match x.trig with
  | 1 => impl
  | 2 => open_
  | 3 => sat
  | 4 => impl || open_ || sat
  | _ => false

/-- The trigger fires: POST further frames are recorded (R282). -/
def execTraceTrigger (t : Nat) (s : State) : Host.Outcome State Fault Refusal :=
  let x := s.tile t
  if s.fit.tileOk t && x.arm && x.postLeft.isNone && x.triggered then
    .next <| s.updTile t fun y =>
      if y.post = 0 then { y with arm := false, stopped := true } else { y with postLeft := some y.post }
  else .next s

end Sys2Proof.Machine
end

