-- ==== Sys2Proof/Machine/Calib.lean ====
section
/-! DEFINITION. Factory calibration, calibration writes and field verify (chapter 12). -/

namespace Sys2Proof.Machine

/-! ## Writing calibration (R294 to R298) -/

/-- The state with a calibration store changed. -/
def State.updCal (s : State) (e : Engine) (f : Cal → Cal) : State :=
  match e with
  | .tile t => s.updTile t fun x => { x with cal := f x.cal }
  | .module k => s.updModule k fun x => { x with cal := f x.cal }
  | .ring w => s.updWorker w fun x => { x with cal := f x.cal }

/-- A record rejected: EV_CAL_REJECTED, and the part's counter (R294). -/
def State.rejectCal (s : State) (e : Engine) (r : CalRec) (reason : Nat) : State :=
  (s.updCal e fun c => { c with rejects := satInc 0xFF c.rejects }).raise 0x0013
    [(0, 2, partOf e), (2, 1, r.kind), (3, 1, reason), (4, 2, r.index), (8, 4, r.gen)]

/-- Records rejected, with their reasons. -/
def State.rejectAll (s : State) (e : Engine) (rs : List CalRec) : State :=
  rs.foldl (fun st r => match calReject (s.fit.reflectors e) e (s.cal e).sealed r with | some n => st.rejectCal e r n | none => st) s

/-- A part carries a circuit other than a service circuit. -/
def State.partInUse (s : State) (e : Engine) : Bool :=
  let live := fun (c : Nat) => (s.circ c).standing && !(s.circ c).service
  match e with
  | .tile t => (s.tileCircs t).any live
  | .module k => (s.moduleCircs k).any live
  | .ring w => (s.circsOfWorker w).any live

/-- The middle or edge tiles whose fibers end on a tile (R230, Table 12.1, kind 05h). -/
def Fit.upstream (f : Fit) (t : Nat) : List Nat :=
  if t < 36 then [] else if t < 68 then List.range f.edgeTiles else (List.range f.middles).map (36 + ·)

/-- The records of a part's factory set (R287): kind and index of each. -/
def Fit.factorySet (f : Fit) : Engine → List (Nat × Nat)
  | .tile t =>
    ((List.range (tileHeaters t)).flatMap fun h => [(1, h), (2, h)]) ++ ((List.range (3 * dieLinks t)).map fun c => (3, c)) ++
      ((Config.segPairs t).map fun p => (4, p)) ++ ((f.upstream t).map fun u => (5, u)) ++ [(6, 0)]
  | .module _ => ((List.range 10).map fun n => (7, n)) ++ (List.range 16).map fun m => (8, m)
  | .ring _ => (List.range 32).map fun h => (9, h)

/-- A factory measurement that yields the whole set, every record of it passing (R287, R293, R296). -/
def State.factoryPasses (s : State) (e : Engine) (recs : List CalRec) : Bool :=
  (s.fit.factorySet e).all (fun k => recs.any fun r => r.kind == k.1 && r.index == k.2) &&
    recs.all fun r => (calReject (s.fit.reflectors e) e false r).isNone

/-- The records that a measurement yields. -/
def State.measured (s : State) (e : Engine) (meas : List RecMeas) : List CalRec := meas.map (recordOf (s.fit.reflectors e))

/-- CAL_FACTORY with its measurement (R289, R296): the set is sealed when every record has passed; where one is rejected the set stays
unsealed, and the spec gives the completion no code. -/
def State.calFactory (s : State) (c : Cmd) (meas : List RecMeas) : State :=
  let e := s.cmdEngine c
  s.decideCmd c 0x0070 e.isSome true [.service]
    [(e.elim false fun e => !(s.cal e).sealed, stWrongState), (e.elim false fun e => !s.partInUse e, stWrongState)] fun st =>
    match e with
    | none => st
    | some e =>
      let recs := s.measured e meas
      let s1 := (st.interim c).rejectAll e recs
      if s.factoryPasses e recs then
        (s1.updCal e fun x => { x with sealed := true, copyA := recs ++ x.copyA.filter (·.kind == 10)
                                       copyB := recs ++ x.copyB.filter (·.kind == 10), pending := true }).final c stOk
      else (s1.final c (1 + Config.openResult s1.mgr.fresh % 255)).draw.2

def execCalFactory (c : Cmd) (meas : List RecMeas) (s : State) : Host.Outcome State Fault Refusal := .next (s.calFactory c meas)

/-- The records of CAL_WRITE: 16-byte headers and 48-byte payloads. -/
def calRecords : Nat → List Byte → List CalRec
  | 0, _ => []
  | n + 1, b =>
    { kind := fieldLE b 0 1, flags := fieldLE b 1 1, index := fieldLE b 2 2, length := fieldLE b 4 4, gen := fieldLE b 8 4
      check := fieldLE b 12 4, payload := (b.drop 16).take 48 } :: calRecords n (b.drop 64)

/-- Records put into a copy, in place of those of the same kind and index. -/
def putRecords (copy recs : List CalRec) : List CalRec :=
  (copy.filter fun r => !recs.any fun q => q.kind == r.kind && q.index == r.index) ++ recs

/-- CAL_WRITE (R297): every record is checked before any is written; those that pass go to copy B, then to copy A, under the next
generation, and the command completes when they apply. -/
def State.calWrite (s : State) (c : Cmd) : State :=
  let e := s.cmdEngine c
  s.decideCmd c 0x0071 (e.isSome && decide (c.count ≤ 1024)) (c.data.isSome && (c.data.getD []).length == 64 * c.count) [.service] []
    fun st =>
    match e with
    | none => st
    | some e =>
      let recs := calRecords c.count (c.data.getD [])
      let bad := fun (r : CalRec) => (calReject 0 e (st.cal e).sealed r).orElse fun _ => if r.kind = 10 then none else some 2
      let s1 := recs.foldl (fun a r => match bad r with | some n => a.rejectCal e r n | none => a) st
      let good := recs.filter fun r => (bad r).isNone
      if good.isEmpty then s1.final c stOk
      else
        let gen := ((st.cal e).gen + 1) % 2 ^ 32
        let kept := good.map fun r => recStamp r gen
        s1.updCal e fun x =>
          { x with gen := gen, copyB := putRecords x.copyB kept, copyA := putRecords x.copyA kept, pending := true, cmd := some c }

def execCalWrite (c : Cmd) (s : State) : Host.Outcome State Fault Refusal := .next (s.calWrite c)

/-- A LOOPDEF record reaches its cell: held under R266 where the cell is CLOSED or PRIME (R298). -/
def Cell.takeRec (x : Cell) (h frame at_ : Nat) (b : List Byte) : Cell :=
  let r := { LoopRec.ofBytes b with cell := h }
  if x.mode = 2 ∨ x.mode = 3 then { x with latched := some r, latchAt := { frame := frame, at_ := at_, scarab := [] } }
  else { x with rc := r, latched := none }

/-- New calibration values take effect together at the part's boundary, and the command that wrote them completes (R298). -/
def execCalApply (e : Engine) (s : State) : Host.Outcome State Fault Refusal :=
  let c := s.cal e
  if s.fit.engineOk e && c.pending then
    let defs := c.usable.filter fun r => r.kind == 10 && decide (r.index < engineCells e) && !c.inForce.contains r
    let s1 := defs.foldl (fun st r => st.updCell e r.index fun x => x.takeRec r.index (s.engineFrame e) 0 r.payload) s
    .next ((s1.updCal e fun x => { x with inForce := x.usable, pending := false, cmd := none }).final? c.cmd stOk)
  else .next s

/-! ## Field verify (R300 to R304) -/

/-- The window that a command names in the active image, for a unit: kind 1 for a tile, 2 for an L-port (Table 4.4). -/
def State.windowFor (s : State) (c : Cmd) : Option WindowDef :=
  match s.img.active with
  | none => none
  | some i => match i.windows[c.window]? with
    | some w => if w.kind = c.sel + 1 ∧ w.unit = c.unit then some w else none
    | none => none

/-- The window index of a command names a window of the active image, or none. -/
def State.windowIndexOk (s : State) (c : Cmd) : Bool :=
  c.window == 0xFF || (match s.img.active with | some i => decide (c.window < i.windows.length) | none => false)

/-- No doze has been agreed whose lead-in runs (R69, R300). -/
def State.noLeadIn (s : State) : Bool := s.mgr.doze.isNone

/-- A middle tile. -/
def isMiddle (t : Nat) : Bool := decide (36 ≤ t) && decide (t < 68)

/-- FIELD_VERIFY of a tile (R300, Table 12.4). -/
def State.verifyTile (s : State) (c : Cmd) : State :=
  let t := c.unit
  let mid := isMiddle t
  let ok : List MState := if mid then [.quiescent, .loaded, .running, .service] else [.quiescent, .service]
  s.decideCmd c 0x0072 (c.sel == 0 && decide (t < 104) && (!s.fit.lacewing || s.fit.tileOk t) && s.windowIndexOk c) true ok
    [(s.fit.lacewing, stCapMismatch), (s.noLeadIn, stBusy), ((s.tile t).verify.isNone, stBusy),
     (s.mgr.mode != .running || (s.windowFor c).isSome, stBusy),
     (s.mgr.mode == .running || !mid || (s.tileCircs t).isEmpty, stBusy)] fun st =>
    (st.interim c).updTile t fun x =>
      { x with verify := some { start := none, window := if (st.windowFor c).isSome then some c.window else none
                                edgeWait := !mid, cmd := c } }

def execFieldVerifyTile (c : Cmd) (s : State) : Host.Outcome State Fault Refusal := .next (s.verifyTile c)

/-- FIELD_VERIFY of a worker port (R300, R303). -/
def State.verifyPort (s : State) (c : Cmd) : State :=
  let e := s.endOf c.unit
  s.decideCmd c 0x0072 (c.sel == 1 && s.fit.lportOk c.unit && decide (c.unit < s.fit.workerPorts) && s.windowIndexOk c) true
    [.quiescent, .loaded, .running, .service]
    [(s.noLeadIn, stBusy), (((s.worker e.1).verify.get? e.2).isNone, stBusy),
     (s.mgr.mode != .running || (s.windowFor c).isSome, stBusy)] fun st =>
    (st.interim c).updWorker e.1 fun x =>
      { x with verify := x.verify.set e.2 { start := none, window := if (st.windowFor c).isSome then some c.window else none
                                            edgeWait := false, cmd := c } }

def execFieldVerifyPort (c : Cmd) (s : State) : Host.Outcome State Fault Refusal := .next (s.verifyPort c)

/-- A verify window begins: its group runs, and the group's lowest sled stands at the START step of the period, or, for a tile, whose
manager boundary may come later, at the step after it (R301, R303). -/
def State.windowOpen (s : State) (w : WindowDef) : Bool :=
  let k := (s.groupSleds w.gid).foldl min 8
  let m := (s.hub k).step % (max 1 w.period * s.strideOf w.gid)
  s.groupRuns w.gid && (m == w.start || (w.kind == 1 && decide (1 < w.length) && m == w.start + 1))

/-- A verify may start now: no doze lead-in, and where it has a window, that begins (R69, R301). -/
def State.verifyDue (s : State) (v : Verify) : Bool :=
  s.noLeadIn && v.start.isNone &&
    match v.window with
    | none => true
    | some n => match s.img.active with
      | some i => (i.windows[n]?).elim false s.windowOpen
      | none => true

/-- Ring cells of a port. -/
def ringCells (p : Nat) : List Nat := (List.range 8).map fun n => 8 * p + n

/-- A verify starts: a tile at a manager boundary, an edge tile once no circuit, ranging and sniffer circuits among them, uses it; a port at its sled's boundary, with its loopback
closed and its ring cells in HOLD (R301, R303). A middle tile that carries a live circuit at its window's start is BUSY. -/
def execVerifyStart (port : Bool) (unit : Nat) (s : State) : Host.Outcome State Fault Refusal :=
  if port then
    let e := s.endOf unit
    match (s.worker e.1).verify.get? e.2 with
    | none => .next s
    | some v =>
      if s.verifyDue v && s.workerUp e.1 && (s.hub (sledOf e.1)).started then
        let s1 := s.updWorker e.1 fun x =>
          { x with verify := x.verify.set e.2 { v with start := some (s.hub (sledOf e.1)).frame } }
        .next <| (s1.updPort e.1 e.2 fun x => { x with loopback := true }).updCells (.ring e.1) (ringCells e.2)
          fun _ c => { c with mode := 4, holdAt := none }
      else .next s
  else
    match (s.tile unit).verify with
    | none => .next s
    | some v =>
      if s.verifyDue v then
        if (s.tileCircs unit).isEmpty && (!v.edgeWait || (!s.search.on && !s.checkRunning)) then
          .next (s.updTile unit fun x => { x with verify := some { v with start := some s.mgr.frame }, verifying := true }).planInput
        else if v.edgeWait then .next s
        else .next ((s.updTile unit fun x => { x with verify := none }).final v.cmd stBusy)
      else .next s

/-- The grade of a tile verify (R302): 1 PASS, 2 MARGINAL, 3 FAIL. -/
def tileGrade (ffDev gainDev snr seg : Nat) : Nat :=
  if ffDev ≤ 1000 ∧ gainDev ≤ 10 ∧ 16 ≤ snr ∧ seg ≤ 30 then 1
  else if ffDev ≤ 2000 ∧ gainDev ≤ 20 ∧ 8 ≤ snr ∧ seg ≤ 60 then 2
  else 3

/-- After 320 frames a tile verify ends: the tile is parked and judged; FAIL declares it failed; lost light abandons the verify, which
leaves an evacuation standing (R301, R302, R370). Deviations in units and per cent, segment excess in 0.01 dB. -/
def execTileVerifyEnd (t ffDev gainDev snr segExcess : Nat) (lightLost : Bool) (s : State) : Host.Outcome State Fault Refusal :=
  match (s.tile t).verify with
  | none => .next s
  | some v =>
    match v.start with
    | none => .next s
    | some f =>
      if lightLost then
        .next ((s.updTile t fun x => { x with verify := none, verifying := false, verRes := 0 }).planInput.final v.cmd stOk)
      else if f + 320 ≤ s.mgr.frame then
        let g := tileGrade ffDev gainDev snr segExcess
        let s1 := (s.updTile t fun x =>
          { x with
            verify := none, verifying := false, verRes := g, ffDev := min 0xFFFF ffDev, gainDev := min 0xFF gainDev
            snr := min 0xFF snr, evacuated := false, failed := x.failed || g == 3, elems := Tab.empty
            cells := x.cells.mapVals fun _ c => c.rest }).planInput
        .next ((if g = 3 ∧ !(s.tile t).failed then s1.arrive 10 1 0 else s1).final v.cmd stOk)
      else .next s

/-- The grade of a port verify (R303). -/
def portGrade (swing snr limit : Nat) : Nat :=
  if 90 ≤ swing ∧ limit + 16 ≤ snr then 1 else if 80 ≤ swing ∧ limit + 8 ≤ snr then 2 else 3

/-- The class that a port's SNR is judged against: that of its receive circuit. -/
def State.portClass (s : State) (w p : Nat) : Nat :=
  match ((s.worker w).port p).rx with | some c => (s.circ c).qclass | none => 0

/-- After 64 sled frames a port verify ends: the loopback opens, the ring cells return to CLOSED, and RESULT is set; FAIL leaves the
L-port unconfirmed (R303). -/
def execPortVerifyEnd (q swing rxSnr : Nat) (s : State) : Host.Outcome State Fault Refusal :=
  let e := s.endOf q
  match (s.worker e.1).verify.get? e.2 with
  | none => .next s
  | some v =>
    match v.start with
    | none => .next s
    | some f =>
      if f + 64 ≤ (s.hub (sledOf e.1)).frame then
        let g := portGrade swing rxSnr (Config.snrLimit e.1 e.2 (s.portClass e.1 e.2))
        let s1 := (s.updWorker e.1 fun x => { x with verify := x.verify.erase e.2 }).updPort e.1 e.2 fun x =>
          { x with loopback := false, verResult := g, swing := min 0xFF swing, rxSnr := min 0xFF rxSnr }
        let s2 := (s1.updCells (.ring e.1) (ringCells e.2) fun _ c => { c with mode := 3 }).updLPort q fun x =>
          { x with verifyBad := g == 3 }
        .next ((s2.planInput).final v.cmd stOk)
      else .next s

/-- Port verifies of a sled's workers abandoned at its Hold entry (R304): the loopback opens, the ring cells are CLOSED from the next
boundary, and RESULT reads 0. -/
def State.abandonPortVerifies (s : State) (sled : Nat) : State :=
  s.forEach (s.fit.sledWorkers sled) fun st w =>
    (st.worker w).verify.cells.foldl (init := st) fun a v =>
      if v.2.start.isSome then
        let s1 := (a.updWorker w fun x => { x with verify := x.verify.erase v.1 }).updPort w v.1 fun x =>
          { x with loopback := false, verResult := 0 }
        (s1.updCells (.ring w) (ringCells v.1) fun _ c => { c with bumpless := some 3 }).final v.2.cmd stOk
      else a

end Sys2Proof.Machine
end

