-- ==== Sys2Proof/Machine/Plane.lean ====
section
/-! DEFINITION. The Lacewing planner, waves, loss localization, park, and the Glowworm lasers (chapter 10). -/

namespace Sys2Proof.Machine

/-! ## Wiring that a plan works on -/

/-- One circuit in the plane: its ID, its L-ports, and its middle tile (0 to 31). -/
structure Way where
  cid : Nat
  src : Nat
  mid : Nat
  dst : Nat
  deriving DecidableEq, Repr

/-- The circuits in the plane and the elements of its tiles. -/
structure Wiring where
  ways  : List Way
  elems : Tab (Tab Elem)
  deriving DecidableEq, Repr

/-- The elements of a tile. -/
def Wiring.tile (x : Wiring) (t : Nat) : Tab Elem := x.elems.get Tab.empty t

/-- The plane as it stands. -/
def State.wiring (s : State) : Wiring :=
  { ways := (s.circs.cells.filter fun c => c.2.standing).map fun c =>
      { cid := c.1, src := c.2.src, mid := c.2.middle, dst := c.2.dst }
    elems := ⟨s.tiles.cells.map fun c => (c.1, c.2.elems)⟩ }

/-- The plane as an image has it. -/
def Image.wiring (i : Image) : Wiring :=
  { ways := i.circs.map fun c => { cid := c.cid, src := c.src, mid := c.middle, dst := c.dst }
    elems := ⟨(i.tiles.map fun t => (t.1, (⟨t.2.zipIdx.map fun e => (e.2, e.1)⟩ : Tab Elem))).mergeSort fun a b => a.1 ≤ b.1⟩ }

/-- Tiles a way passes, with its positions. -/
def Fit.wayHops (f : Fit) (w : Way) : List (Nat × Nat × Nat) := f.hops w.src w.mid w.dst

/-- The routes of a wiring through a tile: circuit, input link, output link, and the way through the elements. -/
def Fit.waysOf (f : Fit) (x : Wiring) (t : Nat) : List (Nat × Nat × Nat × List (Nat × Nat)) :=
  x.ways.flatMap fun w => (f.wayHops w).filterMap fun h =>
    if h.1 = t then
      let a := posLink t h.2.1
      some (w.cid, a, posLink t h.2.2, tilePath t (x.tile t) a)
    else none

/-! ## Routes inside a tile (R236, R237) -/

/-- Every way from link `x` of column `c` to output link `y`, elements of `fixed` held: element, setting, output link. -/
def tileSearch (t : Nat) (fixed : Tab Nat) (y : Nat) : Nat → Nat → Nat → List (List (Nat × Nat × Nat))
  | 0, _, _ => []
  | fuel + 1, c, x =>
    let e := elemAt t c x
    let sets : List Nat := match fixed.get? e with | some st => [st] | none => [0, 1]
    sets.flatMap fun st =>
      match throughElem st x with
      | none => []
      | some o =>
        if fuel = 0 then (if o = y then [[(e, st, o)]] else [])
        else (tileSearch t fixed y fuel (c + 1) (nextLink t c o)).map fun p => (e, st, o) :: p

/-- What the planner works on (R369): the ways and elements that stand, the ways to be put, and what is unavailable. Its choices are functions of
these alone. -/
def State.planInputs (s : State) (old : Wiring) (put : List Way) : List (List Nat) :=
  let way := fun (w : Way) => [w.cid, w.src, w.mid, w.dst]
  old.ways.map way ++ [[]] ++ put.map way ++ [[]] ++
    (old.elems.cells.flatMap fun t => t.2.cells.map fun e => [t.1, e.1, e.2.st, e.2.codeA, e.2.codeB]) ++ [[]] ++
    (s.tiles.cells.map fun t => [t.1, bit1 t.2.failed, bit1 t.2.evacuated, bit1 t.2.verifying]) ++ [[]] ++
    (s.plane.fiberIn.map fun p => [p.1, p.2]) ++ [[]] ++ s.plane.fiberOut.map fun p => [p.1, p.2]

/-- A list begun at its `n`-th entry, counted round. -/
def rotated {α : Type} (n : Nat) (l : List α) : List α := l.drop (n % l.length) ++ l.take (n % l.length)

/-- Settings of the elements of ways fixed in a table. -/
def fixPath (fixed : Tab Nat) (p : List (Nat × Nat × Nat)) : Tab Nat := p.foldl (fun t e => t.set e.1 e.2.1) fixed

/-- Settings that carry every pair of links through a tile, elements of `fixed` held. Which of several routes is taken, the spec leaves
open. -/
def routeAll (t : Nat) (ins : List (List Nat)) : List (Nat × Nat) → Tab Nat → Option (Tab Nat)
  | [], fixed => some fixed
  | p :: rest, fixed =>
    (rotated (Config.routePick ins t rest.length) (tileSearch t fixed p.2 (dieColumns t) 0 p.1)).findSome?
      fun way => routeAll t ins rest (fixPath fixed way)

/-- The settings of the elements that routes pass. -/
def settingsOf (elems : Tab Elem) (routes : List (Nat × Nat × Nat × List (Nat × Nat))) : Tab Nat :=
  routes.foldl (fun t r => r.2.2.2.foldl (fun u p => u.set p.1 (elems.get Elem.init p.1).st) t) Tab.empty

/-- A tile's elements after a plan: routes that keep their links are held; with `free` they are moved too where the new ones find no
way. Elements that carried a route and carry none afterwards park (R233). -/
def Fit.planTile (f : Fit) (ins : List (List Nat)) (old new : Wiring) (movable : Nat → Bool) (free : Bool) (t : Nat) : Option (Tab Elem) :=
  let was : List (Nat × Nat × Nat × List (Nat × Nat)) := f.waysOf old t
  let is_ : List (Nat × Nat × Nat × List (Nat × Nat)) := f.waysOf { new with elems := old.elems } t
  let kept := was.filter fun r => is_.any fun q => q.1 == r.1 && q.2.1 == r.2.1 && q.2.2.1 == r.2.2.1
  let links := fun (l : List (Nat × Nat × Nat × List (Nat × Nat))) => l.map fun r => (r.2.1, r.2.2.1)
  let added := is_.filter fun q => !kept.any fun r => q.1 == r.1
  let elems := old.tile t
  let first := routeAll t ins (links added) (settingsOf elems kept)
  let found : Option (Tab Nat) := match first with
    | some x => some x
    | none =>
      if free then
        let still := kept.filter fun r => !movable r.1
        routeAll t ins (links (is_.filter fun q => !still.any fun r => q.1 == r.1)) (settingsOf elems still)
      else none
  found.map fun x =>
    let left := (was.flatMap fun r => r.2.2.2.map (·.1)).filter fun e => (x.get? e).isNone
    let parked := left.foldl (fun (y : Tab Elem) e => y.set e Elem.init) elems
    x.cells.foldl (fun (y : Tab Elem) c => y.set c.1 { elems.get Elem.init c.1 with st := c.2 }) parked

/-- Every tile's elements after a plan. -/
def Fit.planTiles (f : Fit) (ins : List (List Nat)) (old new : Wiring) (movable : Nat → Bool) (free : Bool) : Option Wiring :=
  (f.tiles.foldl (fun (acc : Option (Tab (Tab Elem))) t =>
    acc.bind fun tab =>
      if (f.waysOf old t).isEmpty && (f.waysOf new t).isEmpty then some tab
      else (f.planTile ins old new movable free t).map fun e => tab.set t e) (some old.elems)).map
    fun tab => { new with elems := tab }

/-! ## Dither codes (R234, R235) -/

/-- Monitor channels that an element's heaters reach in a tile (R234). -/
def tapsReached (t : Nat) (routes : List (Nat × Nat × Nat × List (Nat × Nat))) (e : Nat) : List Nat :=
  routes.flatMap fun r =>
    match r.2.2.2.findIdx? fun p => p.1 == e with
    | none => []
    | some i =>
      let taps := routeTaps t r.2.1 r.2.2.2
      (if i < dieLog t then taps.2.1.toList else []) ++ taps.2.2.toList

/-- The code of a heater in a table of elements. -/
def heaterCode (elems : Tab Elem) (h : Nat) : Nat :=
  let e := elems.get Elem.init (h / 2)
  if h % 2 = 0 then e.codeA else e.codeB

/-- The elements with a heater's code changed. -/
def setHeaterCode (elems : Tab Elem) (h code : Nat) : Tab Elem :=
  let e := elems.get Elem.init (h / 2)
  elems.set (h / 2) (if h % 2 = 0 then { e with codeA := code } else { e with codeB := code })

/-- The elements on routes, ascending. -/
def routedElems (routes : List (Nat × Nat × Nat × List (Nat × Nat))) : List Nat :=
  (routes.flatMap fun r => r.2.2.2.map (·.1)).dedup.mergeSort (· ≤ ·)

/-- The heaters of elements. -/
def heatersOf (l : List Nat) : List Nat := l.flatMap fun e => [2 * e, 2 * e + 1]

/-- Heaters of `l` that share a monitor with `h`. -/
def sharing (taps : Tab (List Nat)) (l : List Nat) (h : Nat) : List Nat :=
  l.filter fun g => g != h && (taps.get [] (g / 2)).any fun c => (taps.get [] (h / 2)).contains c

/-- The heaters of `wait` coloured greedily in ascending order. -/
def colour (taps : Tab (List Nat)) (all : List Nat) : List Nat → Tab Elem → Tab Elem
  | [], elems => elems
  | h :: rest, elems =>
    let used := ((sharing taps all h).filter fun g => !rest.contains g).map (heaterCode elems)
    let code := ((List.range 64).drop 1).find? fun c => !used.contains c
    colour taps all rest (setHeaterCode elems h (code.getD 63))

/-- A tile's codes after a plan: newly routed heaters are coloured, and heaters that keep a route but now share a monitor with a
heater of the same code (R235). -/
def Fit.colourTile (f : Fit) (old new : Wiring) (t : Nat) : Tab Elem :=
  let before := routedElems (f.waysOf old t)
  let routes := f.waysOf new t
  let after := routedElems routes
  let taps : Tab (List Nat) := ⟨after.map fun e => (e, tapsReached t routes e)⟩
  let elems := new.tile t
  let stay := heatersOf (after.filter before.contains)
  let clash := stay.filter fun h => (sharing taps stay h).any fun g => heaterCode elems g == heaterCode elems h
  let fresh := heatersOf (after.filter fun e => !before.contains e)
  colour taps (heatersOf after) ((fresh ++ clash).mergeSort (· ≤ ·)) elems

/-- Every changed tile coloured. -/
def Fit.colourAll (f : Fit) (old new : Wiring) : Wiring :=
  { new with
    elems := f.tiles.foldl (fun (tab : Tab (Tab Elem)) t =>
      if (f.waysOf new t).isEmpty then tab else tab.set t (f.colourTile old { new with elems := tab } t)) new.elems }

/-! ## Choice of middle tiles (R236, R237, R369) -/

/-- A middle tile is unavailable to one of a circuit's edge tiles (R236). -/
def State.middleBad (s : State) (m i e : Nat) : Bool :=
  let x := s.tile (36 + m)
  x.failed || x.evacuated || x.verifying || s.plane.fiberIn.contains (i, m) || s.plane.fiberOut.contains (m, e)

/-- The middle tiles that a way may take: the one its image entry names first, then ascending (R369). -/
def State.candidates (s : State) (bar : List (Nat × Nat)) (entry : Nat → Option Nat) (w : Way) : List Nat :=
  let a := (s.fit.edgeOf w.src).1
  let b := (s.fit.edgeOf w.dst).1
  ((entry w.cid).toList ++ List.range s.fit.middles).filter fun m =>
    decide (m < s.fit.middles) && !s.middleBad m a b && !bar.contains (w.cid, m)

/-- No other way takes the same output of the ingress tile, or the same input of the egress tile, to a middle tile. -/
def Fit.middleFree (f : Fit) (others : List Way) (w : Way) (m : Nat) : Bool :=
  others.all fun o =>
    !(o.mid == m && ((f.edgeOf o.src).1 == (f.edgeOf w.src).1 || (f.edgeOf o.dst).1 == (f.edgeOf w.dst).1))

/-- Middle tiles chosen in order, each the first that qualifies (R369). -/
def Fit.chooseMiddles (f : Fit) (cands : Way → List Nat) : List Way → List Way → Option (List Way)
  | [], done => some done
  | w :: rest, done =>
    match (cands w).find? fun m => f.middleFree done w m with
    | none => none
    | some m => f.chooseMiddles cands rest (done ++ [{ w with mid := m }])

/-- Middle tiles chosen with rearrangement: where a choice blocks a later circuit, the next is tried (R237). -/
def Fit.rearrange (f : Fit) (cands : Way → List Nat) : List Way → List Way → Option (List Way)
  | [], done => some done
  | w :: rest, done =>
    (cands w).findSome? fun m => if f.middleFree done w m then f.rearrange cands rest (done ++ [{ w with mid := m }]) else none

/-- Strictness holds (R236): CAP.STRICT, and no edge tile has more than one unavailable middle tile; one that the request evacuates, `out`,
counts as unavailable. -/
def State.strictNow (s : State) (out : Option Nat) : Bool :=
  let ms := List.range s.fit.middles
  let bad := fun (m i e : Nat) => s.middleBad m i e || out == some m
  s.fit.strict && (List.range s.fit.edgeTiles).all fun e =>
    decide ((ms.filter fun m => bad m e 99).length ≤ 1) && decide ((ms.filter fun m => bad m 99 e).length ≤ 1)

/-- The ways in ascending circuit ID. -/
def sortWays (l : List Way) : List Way := l.mergeSort fun a b => a.cid ≤ b.cid

/-- No other circuit uses the L-ports of a way in its direction (R236). -/
def portsFree (others : List Way) (w : Way) : Bool := others.all fun o => o.src != w.src && o.dst != w.dst

/-- Ways put on middle tiles with other circuits rearranged (R237, R369): those that `pick` takes of the ones that may move, all in ascending
circuit ID. -/
def State.routeWide (s : State) (old : Wiring) (put others : List Way) (cands : Way → List Nat) (movable pick : Nat → Bool)
    (ins : List (List Nat)) : Option Wiring :=
  let mov := others.filter fun w => movable w.cid && pick w.cid
  let stay := others.filter fun w => !(movable w.cid && pick w.cid)
  (s.fit.rearrange cands (sortWays (put ++ mov)) stay).bind fun ws =>
    s.fit.planTiles ins old { old with ways := sortWays ws } movable true

/-- A wiring with ways put in or moved, off the middle tile `out` that is being evacuated: the wiring after it, or `none` where there is no
route. Which circuits a rearrangement moves the spec leaves open; where the ones picked do not make way, all that may move do. -/
def State.route (s : State) (old : Wiring) (put : List Way) (bar : List (Nat × Nat)) (entry : Nat → Option Nat)
    (movable : Nat → Bool) (out : Option Nat) : Option Wiring :=
  let moved := put.map (·.cid)
  let others := old.ways.filter fun w => !moved.contains w.cid
  let cands := s.candidates bar entry
  let ins := s.planInputs old put
  if !(put.all fun w => portsFree others w) then none
  else
    let plain := (s.fit.chooseMiddles cands (sortWays put) others).bind fun ws =>
      s.fit.planTiles ins old { old with ways := sortWays ws } movable false
    let wide := fun (pick : Nat → Bool) => s.routeWide old put others cands movable pick ins
    let found := match plain with
      | some x => some x
      | none => if s.strictNow out then none else (wide (Config.rearranged ins)).orElse fun _ => wide fun _ => true
    found.map fun x => s.fit.colourAll old x

/-! ## The disturbance report (R241, Table 10.3) -/

/-- The path of a way through a tile with the settings it meets. -/
def Fit.wayElems (f : Fit) (x : Wiring) (w : Way) : List (Nat × List (Nat × Elem)) :=
  (f.wayHops w).map fun h =>
    (h.1, (tilePath h.1 (x.tile h.1) (posLink h.1 h.2.1)).map fun p => (p.1, (x.tile h.1).get Elem.init p.1))

/-- The first tile of a way that a plan changes. -/
def firstChanged (a b : List (Nat × List (Nat × Elem))) : Option Nat :=
  ((a.zip b).find? fun p => p.1 != p.2).map fun p => p.2.1

/-- The entry of a live circuit that a plan changes; its HIT, 1 to 12 frames, is the machine's. -/
def Fit.disturbance (f : Fit) (old new : Wiring) (subject : Nat → Bool) (seed : Nat) (w : Way) : Option Disturb :=
  match new.ways.find? fun x => x.cid == w.cid with
  | none => none
  | some v =>
    let a := f.wayElems old w
    let b := f.wayElems new v
    let bare := fun (l : List (Nat × List (Nat × Elem))) => l.map fun h => h.2.map fun e => (e.1, e.2.st)
    match firstChanged a b with
    | none => none
    | some t =>
      some { circuit := w.cid, hit := 1 + Config.openResult (seed * 4096 + w.cid) % 12
             reason := if v.mid ≠ w.mid then 2 else if bare a ≠ bare b then 1 else 3, tile := t, subject := subject w.cid }

/-- A live circuit (R241): usable, locked or in a hit. -/
def Circ.live (x : Circ) : Bool := x.state == 2 || x.state == 3 || x.state == 4

/-- The bytes of an entry. -/
def Disturb.bytes (d : Disturb) : List Byte :=
  leBytes 2 d.circuit ++ leBytes 1 d.hit ++ leBytes 1 d.reason ++ leBytes 1 d.tile ++ leBytes 1 (bit1 d.subject) ++ leBytes 2 0

/-- The bytes of a report. -/
def reportBytes (l : List Disturb) : List Byte := leBytes 2 l.length ++ leBytes 6 0 ++ l.flatMap Disturb.bytes

/-- Elements that differ between two wirings. -/
def Fit.elemChanges (f : Fit) (old new : Wiring) : List (Nat × Nat × Elem) :=
  f.tiles.flatMap fun t =>
    let a := old.tile t
    (((new.tile t).cells.filter fun c => a.get Elem.init c.1 != c.2).map fun c => (t, c.1, c.2))

/-! ## Requests and plans (R239 to R241) -/

/-- The middle tile that the active image names for a circuit. -/
def State.entryMiddle (s : State) (c : Nat) : Option Nat :=
  s.img.active.bind fun i => (i.circs.find? fun d => d.cid == c).map (·.middle)

/-- A circuit that a RESTORE sets up again: DOWN, or torn. -/
def Circ.isDown (x : Circ) : Bool := x.state == 5 || x.state == 6

/-- The worker at an end of a circuit under the plan of R20. -/
def Fit.wireWorker (f : Fit) (q : Nat) : Option Nat := if q < f.workerPorts then some (f.lportOwner q).1 else none

/-- The L-port that a switch-in puts in place of a failed worker's (R225). -/
def State.spareLPort (s : State) (w q : Nat) : Nat :=
  let e := s.endOf q
  if q < s.fit.workerPorts ∧ e.1 = w then s.fit.lportOf (workerCode (sledOf w) 16) e.2 else q

/-- The other L-port of an exchanged pair (R222). -/
def State.pairOf (s : State) (q : Nat) : Option Nat :=
  let x := s.lport q
  if x.searched && x.result == 2 && x.txFound != 1023 then some (s.fit.nPorts * (x.txFound / 256) + x.txFound % 256) else none

/-- The circuits a request sets up or moves, with their ends. -/
def State.requestWays (s : State) (r : PlanReq) : List Way :=
  let way := fun (c : Nat) => let x := s.circ c; ({ cid := c, src := x.src, mid := x.middle, dst := x.dst } : Way)
  let all := s.circs.cells.map (·.1)
  let ids : List Nat :=
    if r.kind = 0 ∧ r.unit ≠ 0xFFFF ∧ !r.auto then all.filter fun c => (s.circ c).state != 0 && (s.circ c).middle == r.unit - 36
    else if r.kind = 1 then all.filter fun c => (s.circ c).standing && (s.circ c).middle == r.unit - 36
    else if r.kind = 2 then
      (if r.circs.isEmpty then all else r.circs).filter fun c => (s.circ c).isDown && (s.entryMiddle c).isSome
    else r.circs.filter fun c => (s.circ c).state != 0
  (ids.dedup.map way).map fun w =>
    let x := s.circ w.cid
    let pair := fun (q : Nat) (done : Bool) => if (s.lport q).adopted && !done then (s.pairOf q).getD q else q
    if r.kind = 3 then { w with src := s.spareLPort r.unit w.src, dst := s.spareLPort r.unit w.dst }
    else { w with src := pair w.src x.swapTx, dst := pair w.dst x.swapRx }

/-- An L-port is in use by the cabling search, the leg pass or a one-port check (R236). -/
def State.lportSearched (s : State) (q : Nat) : Bool :=
  let x := s.search
  (x.on && (if x.legPass then (x.legTodo.take s.fit.legSize).contains q || (decide (544 ≤ q) && decide (q < 560))
    else (x.todo.take roundSize).contains q || decide (560 ≤ q))) ||
    (s.lport q).checkRun.isSome || (s.checkRunning && (q == 544 || q == 560))

/-- The ends of a way are confirmed: no circuit is set up on others (R22, R221). -/
def State.wayConfirmed (s : State) (w : Way) : Bool := s.lportPassed w.src && s.lportPassed w.dst

/-- A request needs an L-port that a search uses: it waits, for as long as its planning may take (R236, R239). -/
def State.planWaits (s : State) (r : PlanReq) : Bool :=
  r.kind != 4 && decide (s.mgr.frame < r.since + 8) && (s.requestWays r).any fun w => s.lportSearched w.src || s.lportSearched w.dst

/-- Middle tiles that moved circuits leave: a bypass leaves the present one, and an evacuation keeps every circuit off its tile. -/
def State.barOf (s : State) (r : PlanReq) (put : List Way) (all : List Way) : List (Nat × Nat) :=
  if r.kind = 0 then (put.filter fun w => (s.circ w.cid).standing || s.middleBad w.mid 99 99).map fun w => (w.cid, w.mid)
  else if r.kind = 1 then (put ++ all).map fun w => (w.cid, r.unit - 36)
  else []

/-- The plan of a request on the plane as it stands. Circuits whose L-ports are not confirmed are not set up (R22); a request for an L-port that
a search still uses finds no route. -/
def State.makePlan (s : State) (r : PlanReq) (seed : Nat) : Plan :=
  let old := s.wiring
  let all := s.requestWays r
  let put := all.filter s.wayConfirmed
  let asked := all.map (·.cid)
  let ids := put.map (·.cid)
  let fails := fun (st : Nat) (rep : List Disturb) =>
    ({ kind := r.kind, unit := r.unit, circs := ids, asked := asked, middles := [], ends := [], elems := [], report := rep, quiet := r.quiet
       status := st } : Plan)
  let out := if r.kind = 1 then some (r.unit - 36) else none
  match if put.any fun w => s.lportSearched w.src || s.lportSearched w.dst then none
    else s.route old put (s.barOf r put old.ways) s.entryMiddle (fun c => (s.circ c).live) out with
  | none => fails stNoRoute []
  | some new =>
    let report := (old.ways.filter fun w => (s.circ w.cid).live).filterMap (s.fit.disturbance old new ids.contains seed)
    if r.quiet && report.any fun d => !d.subject then fails stWouldDisturb report
    else
      let sets := ids ++ (report.map (·.circuit)).filter fun c => !ids.contains c
      { kind := r.kind, unit := r.unit, circs := sets.mergeSort (· ≤ ·), asked := asked
        middles := (new.ways.filter fun w => sets.contains w.cid).map fun w => (w.cid, w.mid)
        ends := (new.ways.filter fun w => sets.contains w.cid).map fun w => (w.cid, w.src, w.dst)
        elems := s.fit.elemChanges old new, report := report, quiet := r.quiet, status := stOk }

/-- One of the plane's requests is computed, held or committed (R239). -/
def State.planBusy (s : State) : Bool := s.plane.st != 0

/-- LACEWING_PLAN (R239): shared by its three kinds. -/
def State.lacewingPlan (s : State) (c : Cmd) (kind : Nat) (ranges : Bool) : State :=
  s.decideCmd c 0x0060 (c.sel == kind && ranges && decide (c.count ≤ 4096)) (c.count == 0 || (c.data.isSome && (c.data.getD []).length == 2 * c.count))
    [.quiescent, .loaded, .running] [(s.fit.lacewing, stCapMismatch), (!s.planBusy, stBusy)] fun st =>
    let ids := if c.count = 0 then [] else list16 (c.data.getD [])
    let s1 := if kind = 2 ∧ c.unit ≠ 0xFFFF then (st.updTile c.unit fun x => { x with evacuated := false }).planInput else st
    s1.updPlane fun p =>
      { p with
        st := 1
        req := some { kind := kind, unit := c.unit, circs := ids.mergeSort (· ≤ ·), auto := false, quiet := c.quiet, since := st.mgr.frame
                      cmd := some c } }

/-- The circuit IDs that a command lists are in range. -/
def idsOk (c : Cmd) : Bool := (list16 (c.data.getD [])).all fun i => decide (i < 4096)

/-- BYPASS names a middle tile with COUNT = 0, or a list of circuits with UNIT = FFFFh (R239). -/
def State.planBypass (s : State) (c : Cmd) : State :=
  s.lacewingPlan c 0 (if c.unit = 0xFFFF then idsOk c && decide (0 < c.count) else c.count == 0 && isMiddle c.unit && (!s.fit.lacewing || s.fit.tileOk c.unit))

def execLacewingPlanBypass (c : Cmd) (s : State) : Host.Outcome State Fault Refusal := .next (s.planBypass c)

/-- EVACUATE names a middle tile (R239). -/
def State.planEvacuate (s : State) (c : Cmd) : State :=
  s.lacewingPlan c 1 (c.count == 0 && isMiddle c.unit && (!s.fit.lacewing || s.fit.tileOk c.unit))

def execLacewingPlanEvacuate (c : Cmd) (s : State) : Host.Outcome State Fault Refusal := .next (s.planEvacuate c)

/-- RESTORE names circuits, and an evacuated middle tile or FFFFh (R239, R370). -/
def State.planRestore (s : State) (c : Cmd) : State :=
  s.lacewingPlan c 2 (idsOk c && (c.unit == 0xFFFF || (isMiddle c.unit && (!s.fit.lacewing || (s.fit.tileOk c.unit && (s.tile c.unit).evacuated)))))

def execLacewingPlanRestore (c : Cmd) (s : State) : Host.Outcome State Fault Refusal := .next (s.planRestore c)

/-! ## Waves (R245) -/

/-- A quarter of a tile's heater rating, in units of 0.5 µW. -/
def quarterRating (t : Nat) : Nat := if isMiddle t then 8800000 else 3600000

/-- Waves that an operation may take (R245, R247): four in a passage, else two. -/
def Plan.waves (p : Plan) : Nat := if p.kind = 5 then 4 else 2

/-- The earliest of `n` waves in which every tile of a change has room; the last where none has. -/
def earliestWave (used : List (Nat × Nat × Nat)) (need : List (Nat × Nat)) (n : Nat) : Nat :=
  let room := fun (w : Nat) =>
    need.all fun t => decide (((used.filter fun u => u.1 == w && u.2.1 == t.1).map fun u => u.2.2).sum + t.2 ≤ quarterRating t.1)
  ((List.range n).find? room).getD (n - 1)

/-- The calibrated heater power of an element in a setting, in units: that of its two heaters (R245). -/
def Tile.elemPower (x : Tile) (t e st : Nat) : Nat := heaterFf x.cal t (2 * e) st x.temp + heaterFf x.cal t (2 * e + 1) st x.temp

/-- The power step of an element change: the difference of its calibrated heater powers (R245). -/
def State.stepPower (s : State) (t e st : Nat) : Nat :=
  let x := s.tile t
  (((x.elemPower t e st : Nat) : Int) - ((x.elemPower t e (x.elems.get Elem.init e).st : Nat) : Int)).natAbs

/-- Power steps of changes, summed by tile. -/
def State.powerNeed (s : State) (l : List (Nat × Nat × Elem)) : List (Nat × Nat) :=
  (l.map (·.1)).dedup.map fun t => (t, ((l.filter fun e => e.1 == t).map fun e => s.stepPower t e.2.1 e.2.2.st).sum)

/-- Waves as they fill: the wave of each circuit, the changes with their waves, and the power steps by wave and tile. -/
structure WaveFill where
  circs : List (Nat × Nat)
  elems : List (Nat × Nat × Nat × Elem)
  used  : List (Nat × Nat × Nat)

/-- Changes put into the earliest wave that has room for them. -/
def State.fillWave (s : State) (n : Nat) (acc : WaveFill) (c : Option Nat) (mine : List (Nat × Nat × Elem)) : WaveFill :=
  let need := s.powerNeed mine
  let w := earliestWave acc.used need n
  { circs := acc.circs ++ (c.map fun c => (c, w)).toList, elems := acc.elems ++ mine.map fun e => (w, e)
    used := acc.used ++ need.map fun t => (w, t) }

/-- The changes of a plan placed in waves, circuit by circuit in ascending ID, then those of no circuit one by one: the wave of each circuit and
of each element. A change belongs to the circuit whose new path passes the element, else to the one whose old path did. -/
def State.placeWaves (s : State) (p : Plan) : List (Nat × Nat) × List (Nat × Nat × Nat × Elem) :=
  let old := s.wiring
  let new : Wiring :=
    { ways := p.ends.map fun e => { cid := e.1, src := e.2.1, mid := ((p.middles.find? fun m => m.1 == e.1).map (·.2)).getD 0, dst := e.2.2 }
      elems := p.elems.foldl (fun (t : Tab (Tab Elem)) e => t.set e.1 ((t.get Tab.empty e.1).set e.2.1 e.2.2)) old.elems }
  let touch : Wiring → Nat → List (Nat × Nat) := fun x c =>
    match x.ways.find? fun w => w.cid == c with
    | none => []
    | some w => (s.fit.wayElems x w).flatMap fun h => h.2.map fun e => (h.1, e.1)
  let claim := fun (l : List (Nat × Nat × Elem)) (c : Nat) =>
    let mine := touch new c ++ (touch old c).filter fun e => !(p.circs.any fun d => (touch new d).contains e)
    l.filter fun e => mine.contains (e.1, e.2.1)
  let free := fun (acc : WaveFill) (l : List (Nat × Nat × Elem)) => l.filter fun e => !acc.elems.any fun d => d.2.1 == e.1 && d.2.2.1 == e.2.1
  let placed := p.circs.foldl (fun acc c => s.fillWave p.waves acc (some c) (free acc (claim p.elems c))) { circs := [], elems := [], used := [] }
  let full := (free placed p.elems).foldl (fun acc e => s.fillWave p.waves acc none [e]) placed
  (full.circs, full.elems)

/-- An operation of the plane from a plan: its waves count from frame `commit`. -/
def State.addOp (s : State) (p : Plan) (commit : Nat) (cmd : Option Cmd) (auto : Bool) : State :=
  let w := s.placeWaves p
  s.updPlane fun x =>
    { x with
      ops := x.ops ++ [{ commit := commit, wave := 0, plan := p, pendingElems := w.2, waveOf := w.1, cmd := cmd, auto := auto }] }

/-- A plan being committed: at frame `commit` its operation begins. -/
def State.startOp (s : State) (p : Plan) (commit : Nat) (cmd : Option Cmd) (auto : Bool) : State :=
  (s.addOp p commit cmd auto).updPlane fun x => { x with st := 3, req := none, plan := none }

/-- The circuits of a request whose plan has failed: torn ones are DOWN (R240, R226). -/
def State.planFailed (s : State) (r : PlanReq) : State :=
  let s1 := s.forEach (r.circs.filter fun c => (s.circ c).state == 6) State.downCircuit
  if r.kind = 3 ∧ (s.hub (sledOf r.unit)).spare.phase = 1 then s1.endSwitchIn (sledOf r.unit) else s1

/-- Workers an image uses (R90): it binds cores of them, names them in a flow or as an end of a circuit, or gives them memory. -/
def Image.used (i : Image) (f : Fit) : List Nat :=
  (i.binds.map (·.w) ++ i.flows.map (·.w) ++ i.regions.map (·.w) ++ (i.circs.flatMap fun c => [c.src, c.dst]).filterMap f.wireWorker).dedup

/-- The image lets the planner adopt exchanged pairs (R222); a wiring-only image goes by its base. -/
def State.adoptsFor (s : State) (i : Image) : Bool := if i.kind = 0 then i.adopt else s.adopts

/-- A worker that an image uses and that cannot serve it as itself (R101, R128, R228): it is down, a spare plays its role, or a core that
the image binds on it has no physical core. -/
def State.lostFor (s : State) (i : Image) (w : Nat) : Bool :=
  !s.workerUp w || s.actorOf w != w || i.binds.any fun b => b.w == w && ((s.worker w).physOf b.core).isNone

/-- The workers that an image uses and that have failed for it. -/
def State.failedUsed (s : State) (i : Image) : List Nat := (i.used s.fit).filter (s.lostFor i)

/-- What keeps a circuit of an image from being set up as its entry has it (R101, R222, R225): a failed middle tile, a failed worker at an
end, an exchanged pair that is adopted. Tiles are coded as such, workers from 1,000, L-ports from 2,000. -/
def State.replanNeeds (s : State) (i : Image) : List Nat :=
  (i.circs.flatMap fun c =>
    (if (s.tile (36 + c.middle)).failed then [36 + c.middle] else []) ++
    [c.src, c.dst].flatMap fun q =>
      (match s.fit.wireWorker q with | some w => if s.lostFor i w then [1000 + w] else [] | none => []) ++
      (if s.adoptsFor i && (s.pairOf q).isSome then [2000 + q] else [])).dedup

/-- The L-port at which an image's circuit ends: its own, its pair's, or the spare's. -/
def State.imageEnd (s : State) (i : Image) (q : Nat) : Nat :=
  match s.fit.wireWorker q with
  | none => q
  | some w =>
    if s.lostFor i w then s.fit.lportOf (workerCode (sledOf w) 16) (s.fit.lportOwner q).2
    else if s.adoptsFor i then (s.pairOf q).getD q
    else q

/-- An image as the re-plan of R101 leaves it: circuits whose middle tile has failed, or whose ends have moved, are routed over the healthy
tiles; where there is no route the image stays as it is. -/
def State.replanned (s : State) (i : Image) : Image :=
  let old := i.wiring
  let moved := fun (w : Way) => { w with src := s.imageEnd i w.src, dst := s.imageEnd i w.dst }
  let bad := fun (w : Way) => (s.tile (36 + w.mid)).failed || moved w != w
  let kept : Wiring := { old with ways := old.ways.filter fun w => !bad w }
  match s.route kept ((old.ways.filter bad).map moved) [] (fun c => (i.circs.find? fun d => d.cid == c).map (·.middle)) (fun _ => true) none with
  | none => i
  | some new =>
    let circs := i.circs.map fun d =>
      match new.ways.find? fun w => w.cid == d.cid with | some w => { d with middle := w.mid, src := w.src, dst := w.dst } | none => d
    let tiles := s.fit.tiles.map fun t => (t, (List.range (tileElems t)).map fun e => (new.tile t).get Elem.init e)
    { i with circs := circs, tiles := tiles }

/-- The re-plan of the staged image ends (R101). -/
def State.replanStaged (s : State) : State :=
  match s.img.staged with
  | none => s
  | some i =>
    s.updImg fun x =>
      { x with act := x.act.map fun a => { a with replanTo := none, planned := some (s.replanned i), judged := s.replanNeeds i } }

/-- The frame at which an automatic plan commits: the next one, or, in a passage, that of the passage's next wave (R245, R246). -/
def State.nextWave (s : State) : Nat :=
  match s.mgr.mode, s.img.act.bind (·.boundary) with
  | .passage, some b => b + ceilDiv (s.mgr.frame + 1 - b) 96 * 96
  | _, _ => s.mgr.frame + 1

/-- The plan of an automatic request is ready: its report is posted as events, and it commits at the next manager boundary (R241,
R247). -/
def State.automaticPlan (s : State) (r : PlanReq) (p : Plan) (ticket : Nat) : State :=
  if p.status = stOk then
    let at_ := s.nextWave
    let s1 := p.report.foldl (init := s) fun st d =>
      st.raise 0x0006 [(0, 8, leNat d.bytes), (8, 2, ticket), (10, 4, at_ % 2 ^ 32)]
    (s1.updPlane fun x => { x with ticket := ticket, planStamp := x.stamp, planAt := s.mgr.frame }).startOp p at_ none true
  else ((s.planFailed r).updPlane fun x => { x with st := 0, req := none, plan := none })

/-- Planning ends (R239): the plan is held with its ticket and its report is written, or the request fails. -/
def execPlanComplete (s : State) : Host.Outcome State Fault Refusal :=
  match s.plane.req with
  | none => .next s
  | some r =>
    if s.plane.st = 1 ∧ s.planWaits r = false then
      let seed := s.mgr.fresh
      let s1 := s.draw.2
      if r.kind = 4 then
        let s2 := s1.replanStaged
        .next (s2.updPlane fun x => { x with st := 0, req := none, plan := none })
      else
        let p := s.makePlan r seed
        let ticket := s.host.nextTicket
        let s2 := if p.status = stOk then s1.updHost fun h => { h with nextTicket := h.nextTicket % 65535 + 1 } else s1
        if r.auto then .next (s2.automaticPlan r p ticket)
        else
          match r.cmd with
          | none => .next (s1.updPlane fun x => { x with st := 0, req := none })
          | some c =>
            let wrote := if c.data2.isSome then s2.giveBack c c.addr2 (reportBytes p.report) else s2
            let code := if c.data2.isSome then p.status else stHostFault
            if p.status = stOk then
              .next <| (wrote.updPlane fun x =>
                { x with st := 2, ticket := ticket, req := some r, plan := some p, planAt := s.mgr.frame, planStamp := x.stamp }).final
                  c code [(2, ticket)]
            else .next ((wrote.updPlane fun x => { x with st := 0, req := none, plan := none }).final c code)
    else .next s

/-- The held plan forgotten. -/
def State.dropPlan (s : State) : State := s.updPlane fun x => { x with st := 0, req := none, plan := none }

/-- A held plan not committed within 64 manager frames is discarded (R239). -/
def execPlanExpiry (s : State) : Host.Outcome State Fault Refusal :=
  if s.plane.st = 2 ∧ s.plane.planAt + 64 ≤ s.mgr.frame then .next s.dropPlan else .next s

/-- LACEWING_COMMIT applies the held plan at the next manager boundary (R239, R247). -/
def State.lacewingCommit (s : State) (c : Cmd) : State :=
  let held := s.plane.st == 2 && s.plane.ticket == c.id
  s.decideCmd c 0x0061 true true [.quiescent, .loaded, .running]
    [(s.fit.lacewing, stCapMismatch), (held, stStalePlan), (s.plane.stamp == s.plane.planStamp, stStalePlan)] fun st =>
    match st.plane.plan with
    | none => st
    | some p => (st.interim c).startOp p (st.mgr.frame + 1) (some c) false

def execLacewingCommit (c : Cmd) (s : State) : Host.Outcome State Fault Refusal := .next (s.lacewingCommit c)

/-- LACEWING_CANCEL discards the held plan (R239). -/
def State.lacewingCancel (s : State) (c : Cmd) : State :=
  s.decideCmd c 0x0062 true true [.quiescent, .loaded, .running]
    [(s.fit.lacewing, stCapMismatch), (s.plane.st == 2 && s.plane.ticket == c.id, stStalePlan)] fun st => st.dropPlan.final c stOk

def execLacewingCancel (c : Cmd) (s : State) : Host.Outcome State Fault Refusal := .next (s.lacewingCancel c)

/-- An automatic request is decided (R371): a host plan being computed is abandoned with BUSY, a held one discarded; one being
committed goes first. -/
def execAutomaticRequest (s : State) : Host.Outcome State Fault Refusal :=
  let m := s.mgr.mode
  let ladder := match s.mgr.restart with | some r => decide (80 ≤ s.mgr.frame - r.start) && !r.cold | none => false
  let open_ := m == .quiescent || m == .loaded || m == .running || m == .passage || (m == .limp && ladder)
  match s.plane.autos with
  | [] => .next s
  | r :: rest =>
    let mine := match s.plane.req with | some q => q.auto | none => false
    if open_ ∧ s.plane.st ≠ 3 ∧ !mine then
      let s1 := match s.plane.st, s.plane.req with | 1, some q => s.final? q.cmd stBusy | _, _ => s
      .next <| s1.updPlane fun x =>
        { x with st := 1, req := some { r with since := s.mgr.frame, quiet := x.quietOnly }, plan := none, autos := rest }
    else .next s

/-- A heater cell whose element is set anew jumps open-loop to the calibrated value (R243); one of an unused element is OFF (Table 11.4). -/
def Cell.jump (x : Cell) (frame st : Nat) : Cell := { x.rest with setupAt := frame, mode := if st = 3 then 0 else 1 }

/-- One element changed in a wave: new settings jump open-loop, and a code change alone runs PRIME with the trim held (R242, R243,
R270). -/
def State.changeElem (s : State) (t e : Nat) (new : Elem) : State :=
  let old := (s.tile t).elems.get Elem.init e
  let recode := fun (c : Cell) => if c.mode = 3 then { c with mode := 2, locked := false, setupAt := s.mgr.frame - 12, within := 0, beyond := 0 } else c
  let change := fun (same : Bool) (c : Cell) => if old.st ≠ new.st then c.jump s.mgr.frame new.st else if same then c else recode c
  ((s.updTile t fun x => { x with elems := x.elems.set e new }).updCell (.tile t) (2 * e) (change (old.codeA == new.codeA))).updCell (.tile t)
    (2 * e + 1) (change (old.codeB == new.codeB))

/-- Every element on the route of a circuit that is set up jumps (R243); one that carries another circuit's route already keeps that one's
sequence (R261). -/
def State.jumpRoute (s : State) (c : Nat) : State :=
  (s.circHops c).foldl (init := s) fun st h =>
    let routes := st.tileRoutes h.1
    let mine := (routes.filter fun r => r.1 == c).flatMap fun r => r.2.2.map (·.1)
    let kept := (routes.filter fun r => r.1 != c).flatMap fun r => r.2.2.map (·.1)
    (mine.filter fun e => !kept.contains e).foldl (init := st) fun a e =>
      a.updCells (.tile h.1) [2 * e, 2 * e + 1] fun _ x => x.jump st.mgr.frame 0

/-- A circuit's wave: a live one that the report lists is hit, any other is set up (R242, R243). -/
def State.waveCirc (s : State) (p : Plan) (due c : Nat) : State :=
  let mid := ((p.middles.find? fun m => m.1 == c).map (·.2)).getD (s.circ c).middle
  let ends := ((p.ends.find? fun e => e.1 == c).map (·.2)).getD ((s.circ c).src, (s.circ c).dst)
  if (s.circ c).live then
    match p.report.find? fun d => d.circuit == c with
    | none => s
    | some d =>
      if d.reason = 3 then s
      else s.updCirc c fun x => { x with state := 4, middle := mid, hits := satInc 0xFF x.hits, hitTo := s.mgr.frame + d.hit }
  else
    (s.updCirc c fun x =>
      { x with
        state := 1, middle := mid, src := ends.1, dst := ends.2, setupAt := s.mgr.frame, due := due, samples := [], sampledAt := 0, retakes := 0
        rejected := false, flightSt := 0, loss := 0, wasLocked := false, lockT := 0
        swapTx := x.swapTx || (ends.1 != x.src && (s.pairOf ends.1).isSome), swapRx := x.swapRx || (ends.2 != x.dst && (s.pairOf ends.2).isSome) }).jumpRoute c

/-- The commit boundary of an operation: the planner is free again, and an evacuated tile is out of use (R370). -/
def State.commitOp (s : State) (p : Plan) : State :=
  let s1 := s.updPlane fun x => { x with st := 0, req := none, plan := none }
  if p.kind = 1 then s1.updTile p.unit fun x => { x with evacuated := true } else s1

/-- The circuits that a plan was asked for and does not set up, since an L-port of theirs is not confirmed, are DOWN (R221). -/
def State.downUnset (s : State) (p : Plan) : State :=
  s.forEach (p.asked.filter fun c => !p.circs.contains c && !(s.circ c).standing && (s.circ c).state != 5) State.downCircuit

/-- A wave of an operation applied (R245): at frame 96·w after its commit. An automatic plan whose inputs have changed before its
commit is planned again (R371). -/
def execWaveApply (wave : Nat) (s : State) : Host.Outcome State Fault Refusal :=
  match s.plane.ops.find? fun o => o.wave == wave && decide (wave < 4) && decide (o.commit + 96 * wave ≤ s.mgr.frame) with
  | none => .next s
  | some o =>
    if wave = 0 ∧ o.auto ∧ s.plane.stamp ≠ s.plane.planStamp then
      .next <| s.updPlane fun x =>
        { x with
          st := 1, ops := x.ops.filter fun q => q != o
          req := some { kind := o.plan.kind, unit := o.plan.unit, circs := o.plan.asked, auto := true, quiet := o.plan.quiet
                        since := s.mgr.frame, cmd := none } }
    else
      let s0 := if wave = 0 then s.downUnset o.plan else s
      let s1 := if wave = 0 ∧ o.plan.kind < 5 then s0.commitOp o.plan else s0
      let now := o.pendingElems.filter fun e => e.1 == wave
      let s2 := now.foldl (fun st e => st.changeElem e.2.1 e.2.2.1 e.2.2.2) s1
      let due := match s.mgr.mode, s.img.act.bind (·.boundary) with
        | .passage, some b => b + 400
        | _, _ => o.commit + if o.plan.kind = 5 then 400 else 151
      let s3 := s2.forEach ((o.waveOf.filter fun w => w.2 == wave).map (·.1)) fun st c => st.waveCirc o.plan due c
      let s4 := s3.forEach ((now.map fun e => e.2.1).dedup) State.judgeLock
      .next <| (s4.updPlane fun x =>
        { x with
          ops := x.ops.map fun q =>
            if q = o then { q with wave := wave + 1, pendingElems := q.pendingElems.filter fun e => e.1 != wave } else q }).planInput

/-- Circuits of an operation that are still to come: their wave has not been applied, or they are being set up. -/
def State.opPending (s : State) (o : PlaneOp) : Bool :=
  (o.waveOf.any fun w => decide (o.wave ≤ w.2)) || !o.pendingElems.isEmpty || o.plan.circs.any fun c => (s.circ c).state == 1

/-- Operations that have ended at a manager boundary complete, with the number of their circuits that are DOWN (R217, R239); circuits
whose hit has passed carry light again (R242). -/
def State.settleOps (s : State) : State :=
  let done := s.plane.ops.filter fun o => decide (0 < o.wave) && !s.opPending o
  let s1 := done.foldl (init := s) fun st o =>
    st.final? o.cmd stOk [(2, ((o.plan.asked ++ o.plan.circs).dedup.filter fun c => (st.circ c).isDown).length)]
  let s2 := s1.updPlane fun x => { x with ops := x.ops.filter fun o => !done.contains o }
  let back := (s2.circs.cells.filter fun c => c.2.state == 4 && decide (c.2.hitTo ≤ s2.mgr.frame)).map (·.1)
  s2.forEach back fun st c => (st.updCirc c fun x => { x with state := 2 }).planInput

/-! ## Loss localization (R244, R248) -/

/-- An automatic BYPASS arises (R248), where `LCW.POLICY` allows it; else the torn circuits are DOWN. -/
def State.autoBypass (s : State) (unit : Nat) (circs : List Nat) : State :=
  if !s.plane.autoBypass then s.forEach (circs.filter fun c => (s.circ c).state == 6) State.downCircuit
  else if circs.isEmpty then s
  else s.updPlane fun p =>
    { p with autos := p.autos ++ [{ kind := 0, unit := unit, circs := circs, auto := true, quiet := false, since := s.mgr.frame, cmd := none }] }

/-- A tile declared failed (R248): its circuits are torn with cause 6h, e10 counts, a verify of it ends, and a middle tile's circuits are
bypassed; an edge tile's are DOWN. -/
def State.failTile (s : State) (t : Nat) : State :=
  if s.fit.tileOk t && !(s.tile t).failed then
    let cs := (s.tileCircs t).dedup
    let v := (s.tile t).verify
    let s1 := (s.updTile t fun x => { x with failed := true, verify := none, verifying := false }).planInput.arrive 10 1 0
    let s2 := match v with | some v => s1.final v.cmd stOk | none => s1
    let s3 := s2.tearCircuits cs 6
    if isMiddle t then s3.autoBypass t cs else s3.forEach cs State.downCircuit
  else s

/-- The tile that a segment of a circuit is reported on (R248): its own, or the one downstream of a plane fiber. -/
def State.segmentTile (s : State) (c seg : Nat) : Nat :=
  let h := s.circHops c
  let i := if seg ≤ 2 then 0 else if seg ≤ 5 then 1 else 2
  ((h[i]?).map (·.1)).getD 0

/-- The other circuits of a tile faulted in its own segments within 64 manager frames. -/
def Tile.faultsWith (x : Tile) (frame c : Nat) : List (Nat × Nat) :=
  (x.faultLog.filter fun l => decide (frame < l.1 + 64) && l.2 != c) ++ [(frame, c)]

/-- The excess of a segment as it is reported (R248): above 1.0 dB for 8 frames, in 0.1 dB; else it is gone. -/
def Tile.reportExcess (x : Tile) (c seg excess : Nat) : Tile :=
  { x with excess := if 100 < excess then x.excess.set (8 * c + seg - 1) (excess / 10) else x.excess.erase (8 * c + seg - 1) }

/-- A segment's excess, in 0.01 dB, has stood for 8 frames (R248): above 1.0 dB it is reported, and above 3.0 dB the segment is faulted and its
unit is blamed. -/
def execSegmentFault (c seg excess : Nat) (s : State) : Host.Outcome State Fault Refusal :=
  let x := s.circ c
  if x.standing ∧ x.state ≠ 7 ∧ 1 ≤ seg ∧ seg ≤ 8 then
    let t := s.segmentTile c seg
    let s1 := s.updTile t fun y => y.reportExcess c seg excess
    if excess ≤ 300 then .next s1
    else if seg = 3 then
      let i := (s.fit.edgeOf x.src).1
      let s2 := (s1.updPlane fun p => { p with fiberIn := if p.fiberIn.contains (i, x.middle) then p.fiberIn else p.fiberIn ++ [(i, x.middle)] }).planInput
      .next ((s2.tearCircuit c 6).autoBypass 0xFFFF [c])
    else if seg = 6 then
      let e := (s.fit.edgeOf x.dst).1
      let s2 := (s1.updPlane fun p => { p with fiberOut := if p.fiberOut.contains (x.middle, e) then p.fiberOut else p.fiberOut ++ [(x.middle, e)] }).planInput
      .next ((s2.tearCircuit c 6).autoBypass 0xFFFF [c])
    else
      let log := (s.tile t).faultsWith s.mgr.frame c
      let s2 := s1.updTile t fun y => { y with faultLog := log }
      if 2 ≤ log.length then .next (s2.failTile t)
      else if isMiddle t then .next (s2.autoBypass 0xFFFF [c])
      else .next s2
  else .next s

/-- A tile driver misses its status reply in two consecutive manager frames (R248). -/
def execTileDriverSilent (t : Nat) (s : State) : Host.Outcome State Fault Refusal :=
  if s.mgr.mode == .off then .next s else .next (s.failTile t)

/-- A supply of a tile lies outside its limits for 8 µs (R248). -/
def execTileSupplyFault (t : Nat) (s : State) : Host.Outcome State Fault Refusal :=
  if s.mgr.mode == .off then .next s else .next (s.failTile t)

/-- A circuit's plane loss has stood above its lock limit for 64 frames while locked, or 3.0 dB above its usable limit for 8 frames: it is
torn with cause 6h (R244). In Limp no loss is judged: the loops are frozen. -/
def execLossOfLock (c loss : Nat) (s : State) : Host.Outcome State Fault Refusal :=
  let x := s.circ c
  if s.mgr.mode ≠ .limp ∧ x.live ∧ ((x.state = 3 ∧ lockLimit x.qclass < loss) ∨ usableLimit x.qclass + 300 < loss) then
    .next ((s.updCirc c fun y => { y with loss := loss }).tearCircuit c 6)
  else .next s

/-! ## Park (R249) -/

/-- The plane is parked at the manager boundary after the decision that asked for it. -/
def execPlanePark (s : State) : Host.Outcome State Fault Refusal :=
  if s.mgr.parkDue then .next (s.parkPlane.updMgr fun m => { m with parkDue := false }) else .next s

/-! ## Lasers (R251 to R254) -/

/-- The first of the 16 L-ports that a module feeds. -/
def moduleBase (k : Nat) : Nat := if k = 34 then 560 else 16 * k

/-- The circuits that a module's L-ports send on. -/
def State.fedCircs (s : State) (k : Nat) : List Nat :=
  (s.circs.cells.filter fun c => c.2.standing && fedBy k c.2.src).map (·.1)

/-- A module that has no spare left (R254): every laser at glow level, and the circuits it feeds are torn with cause 6h. -/
def State.failModule (s : State) (k : Nat) : State :=
  (s.updModule k fun x => { x with failed := true, glowAll := true, sparing := [] }).planInput.tearCircuits (s.fedCircs k) 6

/-- Spares of a module that replace nothing, are not being brought in, and can be used (R251, R295). -/
def Module.sparesFree (x : Module) : List Nat :=
  [8, 9].filter fun n => !(x.sparing.any fun p => p.spare == n) && (if n = 8 then x.sub8 else x.sub9) == 15 && !x.condemned.contains n

/-- A fixed laser, or the spare that replaces it, fails (R251, R254): it is turned off, EV_LAMBDA_DEGRADED is raised, the senders it feeds go to 7-λ
mode at their boundaries, and a spare starts. -/
def State.laserFails (s : State) (k lam reason : Nat) : State :=
  let x := s.module k
  let free := x.sparesFree
  let stood := if x.sub8 = lam then 8 else if x.sub9 = lam then 9 else lam
  let off := fun (m : Module) =>
    { m with cells := (laserCells lam ++ laserCells stood).foldl (fun t h => t.set h { s.cell (.module k) h with mode := 0 }) m.cells }
  let s1 := (s.updModule k fun m => off { m with live := putBit m.live lam false, degraded := lam }).raise 0x0007
    [(0, 1, k), (1, 1, lam), (2, 2, moduleBase k), (4, 4, s.mgr.frame % 2 ^ 32), (8, 1, reason), (9, 1, free.length - 1)]
  match free with
  | [] => s1.failModule k
  | n :: _ =>
    s1.updModule k fun m =>
      { m with
        sparing := m.sparing ++ [{ lam := lam, spare := n, since := s.mgr.frame }]
        cells := (laserCells n).foldl (fun t h => t.set h { s.cell (.module k) h with mode := 3 }) m.cells }

/-- The input that a failure is read from (R251) is declared open, or its conversion was: an open wire is no low power and no lost lock (R279).
Reason 1 is power, 2 lock (Table 15.2). -/
def State.laserBlind (s : State) (k lam reason : Nat) : Bool :=
  let x := s.module k
  let n := if x.sub8 = lam then 8 else if x.sub9 = lam then 9 else lam
  let y := x.sensors.get Sensor.init (2 * n + (reason - 1))
  y.isOpen || y.tag

/-- A laser has failed for two manager frames (R251, R254). -/
def execLaserFailure (k lam reason : Nat) (s : State) : Host.Outcome State Fault Refusal :=
  let x := s.module k
  if s.fit.moduleOk k && !x.failed && decide (lam < 8) && x.live.testBit lam && !(s.mgr.mode == .off) && (reason == 1 || reason == 2) &&
      !s.laserBlind k lam reason then
    .next (s.laserFails k lam reason)
  else .next s

/-- An end of a circuit whose module has lost a wavelength switches to 7-λ mode at its first sled boundary after notice (R251, R252);
only circuits that carry traffic do. -/
def execSevenLambdaSwitch (c : Nat) (rxEnd : Bool) (s : State) : Host.Outcome State Fault Refusal :=
  let x := s.circ c
  if x.live && ((feedOf x.src).any fun f => !(s.module f.1).sparing.isEmpty) && !(if rxEnd then x.rx7 else x.tx7) then
    .next (s.updCirc c fun y => if rxEnd then { y with rx7 := true } else { y with tx7 := true, txBack := false })
  else .next s

/-- The spare has locked on the missing frequency (R253): EV_LASER_SPARED, and the senders return to 8-λ mode with their next token. -/
def execSpareLaserLock (k : Nat) (s : State) : Host.Outcome State Fault Refusal :=
  match (s.module k).sparing with
  | [] => .next s
  | p :: rest =>
    let s1 := (s.updModule k fun m =>
      { m with
        live := putBit m.live p.lam true, sparing := rest, degraded := match rest with | q :: _ => q.lam | [] => 15
        sub8 := if p.spare = 8 then p.lam else m.sub8, sub9 := if p.spare = 9 then p.lam else m.sub9
        spareFrom := m.spareFrom.set p.spare s.mgr.frame }).raise 0x0008
      [(0, 1, k), (1, 1, p.lam), (2, 1, p.spare), (4, 4, p.since % 2 ^ 32), (8, 4, s.mgr.frame % 2 ^ 32)]
    if rest.isEmpty then .next (s1.forEach (s.fedCircs k) fun st c => st.updCirc c fun y => { y with txBack := y.tx7 })
    else .next s1

/-! ## Service (R248, R254) -/

/-- In Service the technician clears a failed tile, plane fiber or module: it is available again. -/
def execServiceClear (u : ServiceUnit) (s : State) : Host.Outcome State Fault Refusal :=
  if s.mgr.mode = .service then
    match u with
    | .tile t => .next (s.updTile t fun x => { x with failed := false, excess := Tab.empty, faultLog := [] }).planInput
    | .fiberIn i m => .next (s.updPlane fun p => { p with fiberIn := p.fiberIn.filter fun q => q != (i, m) }).planInput
    | .fiberOut m e => .next (s.updPlane fun p => { p with fiberOut := p.fiberOut.filter fun q => q != (m, e) }).planInput
    | .module k =>
      .next (s.updModule k fun x =>
        { x with
          failed := false, live := 255, sub8 := 15, sub9 := 15, degraded := 15, glowAll := false, sparing := []
          condemned := [], spareFrom := Tab.empty }).planInput
  else .next s

end Sys2Proof.Machine
end

