-- ==== Sys2Proof/Machine/States.lean ====
section
/-! DEFINITION. Machine states, power domains, doze, Hold, power-down, Service, Limp and the restarts (chapter 3, R321 to R326, R364 to
R366). -/

namespace Sys2Proof.Machine

/-! ## Bring-up (R60, R63, R64) -/

/-- The 48 V bus stands at `volts` (10 mV) at every hub: at 42 V or more a machine that is Off enters Bring-up (Table 3.3). -/
def execBusPowerUp (volts : Nat) (s : State) : Host.Outcome State Fault Refusal :=
  if s.mgr.mode = .off ∧ 4200 ≤ volts then
    .next <| (s.forEach s.fit.sledList fun st k => st.updHub k fun h => { h with bus := volts }).updMgr fun m =>
      { m with mode := .bringUp, age := 0, cause := 0 }
  else .next s

/-- The stages that bring-up has (Table 3.5); a TQ-1B has no C1 or C2. -/
def Fit.stages (f : Fit) : List Stage := if f.lacewing then [.a, .b, .c1, .c2, .c3, .d] else [.a, .b, .c3, .d]

/-- The stages before stage C ends. -/
def Fit.stagesC (f : Fit) : List Stage := f.stages.filter fun x => x != .d

/-- Every worker that answered. -/
def State.answering (s : State) : List Nat := s.fit.workers.filter fun w => !s.fit.absent.contains w

/-- The volatile items of Scarab cleared (R307). -/
def Scarab.clearVolatile (x : Scarab) : Scarab :=
  { x with g := Tab.empty, volatile := Tab.empty, latch := Tab.empty, live := Tab.empty, ovf := 0, spans := Tab.empty }

/-- A new ML-KEM key pair (R158). -/
def State.newKem (s : State) : State := s.updOwners fun o => { o with kemGen := o.kemGen + 1 }

/-- Slot 0 filled with a fresh key in every worker that is not failed (R156). -/
def State.fillSlot0 (s : State) : State :=
  s.forEach s.liveWorkers fun st w =>
    let k := st.newKey 0
    k.2.updWorker w fun x => { x with keys := x.keys.set 0 { live := true, gen := k.1, secret := 0 } }

/-- A factory record that cannot be used (R295): the tile is failed; the laser is treated as failed from the end of bring-up; the port is left
unconfirmed. -/
def State.badCalibration (s : State) (b : Engine × Nat) : State :=
  match b.1 with
  | .tile t => ((s.updTile t fun x => { x with failed := true }).arrive 10 1 0).planInput
  | .module k => s.updModule k fun x => { x with condemned := (x.condemned ++ [b.2 % 10]).dedup }
  | .ring w => s.updLPort (s.fit.lportOf w (b.2 % 4)) fun p => { p with verifyBad := true }

/-- The sites that hold no answering worker are treated as failed workers (R31, R362, R363): their bits of `HUB.FAILED`, and e11. -/
def State.failMissing (s : State) : State :=
  s.forEach (s.fit.workers.filter s.fit.absent.contains) fun st w =>
    (st.updHub (sledOf w) fun h => { h with failed := putBit h.failed (siteOf w) true }).arrive 11 1 0

/-- Stage A: parts inventoried, PD0 on, the key pair made, Scarab scanning (R5, R31, R63, R306, R307). -/
def State.endStageA (s : State) (rep : StageReport) : State :=
  let fit := { s.fit with absent := rep.absent.filter s.fit.workerOk, drives := ⟨(rep.drives.filter fun d => decide (d.1 < s.fit.sleds))⟩ }
  let s1 := ({ s with fit := fit } : State).updMgr fun m => { m with capFixed := true }
  let s2 := s1.forEach s1.answering fun st w => st.updWorker w fun x => { x with on := fit.domainMask, pwr := 1 }
  s2.failMissing.newKem.updScb fun x => { x.clearVolatile with retained := Tab.empty, run := true }

/-- Domains of a worker switched on. -/
def State.switchOn (s : State) (w mask : Nat) : State := s.updWorker w fun x => { x with pwr := x.pwr ||| mask }

/-- The board links of a worker whose both ends have PD11 on come up. -/
def State.trainLinks (s : State) (w : Nat) : State :=
  s.forEach s.fit.linkList fun st j =>
    let p := st.fit.linkPeer w j
    if st.workerUp w && st.workerUp p.1 && (st.worker w).powered 11 && (st.worker p.1).powered 11 then
      let up : Link → Link := fun y => { y with up := true, downFor := 0, cause := 0 }
      (st.updLink w j up).updLink p.1 p.2 up
    else st

/-- Every tick receiver that is counted is LOCKED (R41). -/
def State.allLocked (s : State) : Bool :=
  (s.countedRx 8 ++ s.fit.sledList.flatMap s.countedRx).all fun u => (s.rx u).locked

/-- A tile's temperature lies within 30.0 to 60.0 °C and has stood within 0.1 °C over the last 195,313 manager frames (R291). -/
def Tile.settled (x : Tile) : Bool := decide (3840 ≤ x.temp) && decide (x.temp ≤ 7680) && decide (195313 ≤ x.steadyFor)

/-- A stage may end: those before it have ended; for B every counted receiver is LOCKED (R41, Table 3.5), for D the cabling search with its
leg pass has ended. -/
def State.stageReady (s : State) (x : Stage) : Bool :=
  s.fit.stages.contains x && !s.mgr.stagesDone.contains x &&
    match x with
    | .a => true
    | .b => s.mgr.stagesDone.contains .a && s.allLocked
    | .c2 => s.mgr.stagesDone.contains .b && s.fit.tiles.all fun t => (s.tile t).settled
    | .d => s.fit.stagesC.all s.mgr.stagesDone.contains && !s.search.on
    | _ => s.mgr.stagesDone.contains .b

/-- The full search of stage D starts when stage C has ended (R218). -/
def State.afterStageC (s : State) : State :=
  if s.fit.lacewing ∧ (s.fit.stagesC.all s.mgr.stagesDone.contains) = true then s.startSearch none else s

/-- A stage of bring-up ends (R63). -/
def execBringUpStageEnd (x : Stage) (rep : StageReport) (s : State) : Host.Outcome State Fault Refusal :=
  if s.mgr.mode = .bringUp ∧ s.stageReady x = true then
    let s1 := match x with
      | .a => s.endStageA rep
      | .b => (s.forEach s.answering fun st w => st.switchOn w 0x802).forEach s.answering State.trainLinks
      | .c1 => s.forEach s.fit.modules fun st k => st.updModule k fun m => { m with off := false }
      | .c2 => s
      | .c3 => (s.forEach (s.answering.filter fun w => !rep.failed.contains w) fun st w => st.switchOn w s.fit.domainMask).forEach rep.failed
          State.declareFailed
      | .d => s.updMgr fun m => { m with parkDue := s.fit.lacewing }
    let s2 := rep.badCal.foldl State.badCalibration s1
    let s3 := s2.updMgr fun m => { m with stagesDone := m.stagesDone ++ [x] }
    .next (if x = .d then s3 else s3.afterStageC)
  else .next s

/-- 45 s have passed since Off was left, and a stage has not ended (R63). -/
def execBringUpTimeout (s : State) : Host.Outcome State Fault Refusal :=
  if s.mgr.mode = .bringUp ∧ (s.fit.stages.all s.mgr.stagesDone.contains) = false then .next (s.updMgr fun m => { m with limpReq := m.limpReq.orElse fun _ => some 7 }) else .next s

/-- Lasers whose factory records cannot be used are treated as failed under R251 from the end of bring-up (R295); the reason of the event is not
given. -/
def State.failCondemned (s : State) : State :=
  s.fit.modules.foldl (init := s) fun st k =>
    ((st.module k).condemned.filter fun n => n < 8).foldl (init := st) fun a n =>
      let d := a.draw
      d.2.laserFails k n (1 + Config.openResult d.1 % 2)

/-- At the first manager boundary after the last stage has ended the machine is Quiescent (Table 3.3), unless a counted receiver is not
LOCKED (R41); manager frames and each link's SEQ count from here (R337), and owner 0's key is in its slot (R156). -/
def State.finishBringUp (s : State) : State :=
  if s.mgr.mode = .bringUp ∧ (s.fit.stages.all s.mgr.stagesDone.contains) = true ∧ s.allLocked = true then
    let s1 := s.failCondemned.fillSlot0.forEach s.fit.sledList fun st k => st.updHub k fun h => { h with seq := 0 }
    (s1.setMode .quiescent 0).updMgr fun m => { m with frame := 0 }
  else s

/-- A PCIe configuration request (R64): no answer while Off; answer 1, Configuration Request Retry Status, in Bring-up; else normal. -/
def execPcieConfigRequest (link : Nat) (s : State) : Host.Outcome State Fault Refusal :=
  if s.fit.sleds ≤ link then .next s
  else match s.mgr.mode with
    | .off => .next s
    | .bringUp => .next (s.emit (.pcie link 1))
    | _ => .next (s.emit (.pcie link 0))

/-- NOP completes at its decision (R336). -/
def State.nopCmd (s : State) (c : Cmd) : State := s.decideCmd c 0x0000 true true everyState [] fun st => st.final c stOk

def execNop (c : Cmd) (s : State) : Host.Outcome State Fault Refusal := .next (s.nopCmd c)

/-! ## Doze (R69 to R74) -/

/-- A field verify is in progress. -/
def State.verifying (s : State) : Bool :=
  (s.tiles.cells.any fun t => t.2.verify.isSome) || s.workers.cells.any fun w => !w.2.verify.cells.isEmpty

/-- DOZE (R69): agreed at this boundary where its conditions hold, else refused with BUSY. -/
def State.dozeCmd (s : State) (c : Cmd) : State :=
  let ok := (s.mgr.mode == .quiescent || s.mgr.mode == .loaded) && s.busyGroups.isEmpty && s.img.waitJobs.isEmpty &&
    s.img.act.isNone && !s.verifying && s.mgr.doze.isNone
  s.decideCmd c 0x0010 true true [.quiescent, .loaded, .running, .service] [(ok, stBusy)] fun st =>
    let s1 := (st.interim c).updMgr fun m => { m with doze := some { n := m.frame, cmd := c } }
    ({ s1 with light := { s1.light with agreed := s1.light.level } } : State).broadcast (.dozeAt st.mgr.frame)

def execDoze (c : Cmd) (s : State) : Host.Outcome State Fault Refusal := .next (s.dozeCmd c)

/-- A hub receives DOZE_AT (R69). -/
def execDozeAt (k : Nat) (s : State) : Host.Outcome State Fault Refusal :=
  match (s.hub k).inbox.find? fun m => match m with | .dozeAt _ => true | _ => false with
  | some (.dozeAt n) =>
    .next <| s.updHub k fun h =>
      { h with inbox := dropMsg (fun m => match m with | .dozeAt _ => true | _ => false) h.inbox, dozeAt := some n }
  | _ => .next s

/-- WAKE (R70, R73): a wake request in the lead-in of a doze and in Doze; elsewhere it asks for no transition. -/
def State.wakeCmd (s : State) (c : Cmd) : State :=
  let ok : List MState := if s.mgr.doze.isSome then [.quiescent, .loaded, .doze] else [.doze]
  s.decideCmd c 0x0011 true true ok [] fun st =>
    (st.interim c).updMgr fun m =>
      { m with wake := some (match m.wake with
          | some w => { w with cmds := w.cmds ++ [c] }
          | none => { frame := m.frame, cmds := [c] }) }

def execWake (c : Cmd) (s : State) : Host.Outcome State Fault Refusal := .next (s.wakeCmd c)

/-- Commands that end together. -/
def State.finalAll (s : State) (cs : List Cmd) (status : Nat) (result : List (Nat × Nat) := []) : State :=
  cs.foldl (fun st c => st.final c status result) s

/-- The WAKE commands that wait. -/
def State.wakeCmds (s : State) : List Cmd := match s.mgr.wake with | some w => w.cmds | none => []

/-- The doze agreed is cancelled: CANCEL goes to every hub and DOZE ends with CANCELLED. -/
def State.cancelDoze (s : State) : State :=
  match s.mgr.doze with
  | none => s
  | some d => ((s.updMgr fun m => { m with doze := none }).broadcast .cancel).final d.cmd stCancelled

/-- At the boundary after a wake request of the lead-in the doze is cancelled (R70). -/
def State.settleDoze (s : State) : State :=
  match s.mgr.doze, s.mgr.wake with
  | some d, some w =>
    if s.mgr.mode ≠ .doze ∧ w.frame ≤ d.n + 3 ∧ w.frame < s.mgr.frame then
      (s.cancelDoze.finalAll w.cmds stOk).updMgr fun m => { m with wake := none }
    else s
  | _, _ => s

/-- A hub receives CANCEL and discards DOZE_AT (R70). -/
def execCancel (k : Nat) (s : State) : Host.Outcome State Fault Refusal :=
  if (s.hub k).inbox.contains .cancel then
    .next (s.updHub k fun h => { h with inbox := dropMsg (fun m => m == .cancel) h.inbox, dozeAt := none })
  else .next s

/-- Heater cells of every tile held open-loop (Table 11.4). -/
def State.openHeaters (s : State) : State :=
  { s with tiles := s.tiles.mapVals fun _ x => { x with cells := x.cells.mapVals fun _ c => if c.mode = 0 then c else c.rest } }

/-- In the boundary phase of frame N + 4, with no wake request accepted in frames N to N + 3, DROP is sent and the machine is in Doze
(R71); a wake request accepted from frame N + 4 on waits for the wake sequence (R73). -/
def execDozeDrop (s : State) : Host.Outcome State Fault Refusal :=
  match s.mgr.doze with
  | none => .next s
  | some d =>
    if (s.mgr.mode = .quiescent ∨ s.mgr.mode = .loaded) ∧ d.n + 4 ≤ s.mgr.frame ∧ (s.mgr.wake.all fun w => decide (d.n + 4 ≤ w.frame)) = true then
      .next ((((s.broadcast .drop).setMode .doze 0).updMgr fun m => { m with dozePrev := s.mgr.mode.code }).openHeaters.final d.cmd stOk)
    else .next s

/-- A circuit suspended at the drop (R72): both ends' books at C = W with nothing in flight. -/
def Circ.suspend (x : Circ) : Circ :=
  if x.live then
    { x with state := 7, credit := x.window, fly := 0, occ := 0, inRet := 0, samples := [], sampledAt := 0, retakes := 0, rejected := false }
  else x

/-- A core whose cluster loses its power keeps nothing but its retirement, which PD1 holds (Table 0.11); `epoch` names what it holds once it
is on again. -/
def StagCore.powerOff (x : StagCore) (epoch : Nat) : StagCore :=
  { StagCore.init with
    retired := x.retired, cause := x.cause, faultCycle := x.faultCycle, faultJ := x.faultJ, waiting := x.waiting, epoch := epoch }

/-- The cores of the clusters that `mask` names by their domains lose their power. -/
def Worker.coresOff (x : Worker) (mask epoch : Nat) : Worker :=
  ((List.range 50).filter fun n => mask.testBit (clusterOf n)).foldl (fun y n => y.updCore n fun c => c.powerOff epoch) x

/-- The ring cells of the ports that PD9 or PD10 powers lose their state (Table 0.11). -/
def Worker.ringOff (x : Worker) (mask : Nat) : Worker :=
  { x with cells := ⟨x.cells.cells.filter fun c => !mask.testBit (9 + c.1 / 16)⟩ }

/-- A worker at the drop: PD1 to PD6, PD9, PD10 and PD11 off, its links down with their books clear (R12, R71). -/
def Worker.drop (x : Worker) (epoch : Nat) : Worker :=
  { ((x.coresOff 0x7C epoch).ringOff 0x600) with
    dropPwr := x.pwr, pwr := x.pwr &&& 0x181, inflight := []
    links := x.links.mapVals fun _ l => { l with up := false, credit := 128, fly := 0, occ := 0, inRet := 0 } }

/-- A hub applies DROP at its next sled boundary (R71, R72). -/
def execDrop (k : Nat) (s : State) : Host.Outcome State Fault Refusal :=
  if (s.hub k).inbox.contains .drop then
    let s1 := s.updHub k fun h =>
      { h with
        inbox := dropMsg (fun m => m == .drop) h.inbox, dozeAt := none, dropped := true, started := false, isSlip := false
        stepGroups := [], selfRefresh := true }
    let s2 := s1.forEach (s.fit.sledWorkers k) fun st w =>
      let d := st.draw
      d.2.updWorker w fun x => x.drop (d.1 + 1)
    .next { s2 with circs := s2.circs.mapVals fun _ x => if sledOf (s.endOf x.src).1 = k then x.suspend else x }
  else .next s

/-- The wake sequence starts at the later of the next manager boundary and that of frame N + 6 (R73). -/
def execWakeSequenceStart (s : State) : Host.Outcome State Fault Refusal :=
  match s.mgr.wake, s.mgr.doze with
  | some w, some d =>
    if s.mgr.mode = .doze ∧ s.mgr.wakeStart.isNone ∧ w.frame < s.mgr.frame ∧ d.n + 6 ≤ s.mgr.frame then
      .next (s.updMgr fun m => { m with wakeStart := some m.frame, wakeRow := 0 })
    else .next s
  | _, _ => .next s

/-- First wake frames of the actions of Table 3.10. -/
def wakeRows : List Nat := [0, 32, 64, 576, 1024, 1088, 1600, 2032]

/-- Suspended circuits are ranged from this frame (R72), and their heater cells go to PRIME four frames later. -/
def State.rangeSuspended (s : State) (start : Nat) : State :=
  { s with
    circs := s.circs.mapVals fun _ x =>
      if x.state = 7 then
        { x with setupAt := s.mgr.frame - 12, due := start + 2031, samples := [], sampledAt := 0, retakes := 0, rejected := false, flightSt := 0 }
      else x
    tiles := s.tiles.mapVals fun _ x =>
      { x with cells := x.cells.mapVals fun _ c => if c.mode = 0 then c else { c with setupAt := s.mgr.frame - 8 } } }

/-- A core that fails the check-column self-test is retired with CAUSE 3 and remapped (R130). -/
def State.selfTestFail (s : State) (w n : Nat) : State :=
  if s.workerUp w ∧ n < 50 ∧ !(s.core w n).retired ∧ (s.worker w).powered (clusterOf n) then
    let s1 := s.updCore w n fun x => { x with retired := true, cause := 3, faultCycle := 0, faultJ := 0 }
    match (s.worker w).logicalOf n with
    | none => s1
    | some l =>
      let role := match s.bindOf w l with | some b => b.role | none => 0
      (s1.updMgr fun m => { m with reports := m.reports ++ [[w, n, l, 3, role, 0, 0, 0xFFFF]] }).remap w l
  else s

/-- A sequencer at reset (Table 3.10): nothing issued, nothing under way. -/
def StagCore.resetSequencer (x : StagCore) : StagCore := { x with pos := 0, busy := Tab.empty, stopped := false, areg := Tab.empty }

/-- PD1 on and the sequencers reset (Table 3.10, wake frames 0 to 31). -/
def State.wakeControl (s : State) : State :=
  s.forEach s.liveWorkers fun st w =>
    (st.switchOn w 2).updWorker w fun x => { x with inflight := [], cores := x.cores.mapVals fun _ c => c.resetSequencer }

/-- Domains of every worker that were on at the drop are switched on again. -/
def State.wakeDomains (s : State) (mask : Nat) : State :=
  s.forEach s.liveWorkers fun st w => st.switchOn w ((st.worker w).dropPwr &&& mask)

/-- Groups with a job that waits for the end of the wake sequence (R73). -/
def State.wakingGroups (s : State) : List Nat :=
  (List.range 32).filter fun g => (s.group g).running.isNone && !(s.group g).queue.isEmpty

/-- Step counts aligned across sleds (Table 3.10), so that the first step after the sequence is a stride start of every group whose job waits for
it (R73, R344). -/
def State.alignSteps (s : State) : State :=
  let top := s.fit.sledList.foldl (fun m k => max m (s.hub k).step) 0
  let stride := s.wakingGroups.foldl (fun l g => Nat.lcm l (max 1 (s.strideOf g))) 1
  let step := ceilDiv (top + 1) stride * stride - 1
  s.forEach s.fit.sledList fun st k => st.updHub k fun h => { h with step := step }

/-- The first step of a waking job is that of each sled's first frame after the sequence (R73). -/
def State.startWaking (s : State) : State :=
  if s.jobsMayStart then
    s.forEach s.wakingGroups fun st g =>
      st.updGroup g fun y =>
        match y.queue with
        | [] => y
        | j :: rest => { y with queue := rest, running := some { j with j0 := some (s.maxStep g + 1), stepAt := s.maxStep g + 1 } }
  else s

/-- A frame range of the wake sequence begins (R73, Table 3.10). -/
def execWakeSequenceStage (row : Nat) (fails : List (Nat × Nat)) (s : State) : Host.Outcome State Fault Refusal :=
  match s.mgr.wakeStart, wakeRows[row]? with
  | some w, some f =>
    if s.mgr.mode = .doze ∧ row = s.mgr.wakeRow ∧ w + f ≤ s.mgr.frame then
      let s1 :=
        if row = 0 then s.wakeControl
        else if row = 1 then s.forEach s.fit.sledList fun st k => st.updHub k fun h => { h with selfRefresh := false }
        else if row = 2 then (s.wakeDomains 0x800).forEach s.liveWorkers State.trainLinks
        else if row = 3 then (s.wakeDomains 0x7C).forEach s.liveWorkers fun st w => st.loadPrograms w ((s.worker w).dropPwr &&& 0x7C)
        else if row = 4 then s.wakeDomains 0x600
        else if row = 5 then s.rangeSuspended w
        else if row = 6 then fails.foldl (fun st x => st.selfTestFail x.1 x.2) s
        else s.alignSteps
      .next (s1.updMgr fun m => { m with wakeRow := row + 1 })
    else .next s
  | _, _ => .next s

/-- Suspended circuits that are not usable at the end of the wake sequence are DOWN (R72). -/
def State.downSuspended (s : State) : State :=
  s.forEach ((s.circs.cells.filter fun c => c.2.state == 7).map (·.1)) State.downCircuit

/-- After exactly 2,048 frames the machine is back in PREV (R73); the wake requests report the circuits that are DOWN (R72). -/
def execWakeSequenceEnd (s : State) : Host.Outcome State Fault Refusal :=
  match s.mgr.wakeStart with
  | none => .next s
  | some w =>
    if s.mgr.mode = .doze ∧ w + 2048 ≤ s.mgr.frame ∧ s.mgr.wakeRow = 8 then
      let downs := (s.circs.cells.filter fun c => c.2.state == 7).length  -- those that failed R217 are still in state 7 here
      let s1 := s.downSuspended
      let s2 := s1.forEach s.fit.sledList fun st k => st.updHub k fun h => { h with dropped := false, selfRefresh := false }
      let s3 := s2.setMode (MState.ofCode s.mgr.prev) 0
      .next ((s3.finalAll s.wakeCmds stOk [(2, downs)]).updMgr fun m =>
        { m with doze := none, wake := none, wakeStart := none, wakeRow := 0 }).startWaking
    else .next s

/-! ## Hold (R75 to R80) -/

/-- The states from which Hold is entered (Table 3.3). -/
def MState.holdable : MState → Bool
  | .quiescent => true | .loaded => true | .running => true | .passage => true | .doze => true | _ => false

/-- HOLD (R60): a hold request, or in Hold nothing. -/
def State.holdCmd (s : State) (c : Cmd) : State :=
  s.decideCmd c 0x0012 true true [.quiescent, .loaded, .running, .passage, .hold] [] fun st =>
    if st.mgr.mode = .hold then st.final c stOk
    else st.updMgr fun m => { m with holdReq := m.holdReq.orElse fun _ => some 3, holdCmds := m.holdCmds ++ [c] }

def execHold (c : Cmd) (s : State) : Host.Outcome State Fault Refusal := .next (s.holdCmd c)

/-- 100 consecutive samples of a hub's bus below 40 V raise its sag request (R75). `bus` are the samples since the last that a command
brought; after a request has ended it takes a further 100. -/
def execSagRequest (k : Nat) (bus : List Nat) (s : State) : Host.Outcome State Fault Refusal :=
  if k < s.fit.sleds ∧ s.mgr.mode ≠ .off then
    let s1 := s.updHub k fun h => h.samples bus
    if 100 ≤ (s1.hub k).lowRun ∧ !(s.hub k).holdReqOn then
      .next ((s1.updHub k fun h => { h with holdReqOn := true, sags := satInc 0xFF h.sags }).arrive 0 1 0)
    else .next s1
  else .next s

/-- A hub's sag request ends (R75). -/
def Hub.endSag (h : Hub) : Hub := { h with holdReqOn := false, lowRun := 0 }

/-- Every sample of a hub has read at least 42 V for 64 frames of 64 samples: its sag request ends (R75). -/
def execSagRequestEnd (k : Nat) (bus : List Nat) (s : State) : Host.Outcome State Fault Refusal :=
  if k < s.fit.sleds ∧ s.mgr.mode ≠ .off then
    let s1 := s.updHub k fun h => h.samples bus
    if 4096 ≤ (s1.hub k).highRun ∧ (s1.hub k).holdReqOn then .next (s1.updHub k Hub.endSag) else .next s1
  else .next s

/-- The condition behind a hold request stands: a sag request, a 17th missing tick, or a HOLD command. -/
def State.holdCause (s : State) (cause : Nat) : Bool :=
  if cause = 1 then s.fit.sledList.any fun k => (s.hub k).holdReqOn
  else if cause = 2 then s.mgr.holdReq == some 2 || s.fit.sledList.any fun k => (s.hub k).lossHold
  else cause == 3 && s.mgr.holdReq == some 3

/-- A hold request reaches the manager (R76): it broadcasts HOLD and enters Hold at its next boundary. In Limp a sag only starts the
deadline of R78. -/
def execHoldRequest (cause : Nat) (s : State) : Host.Outcome State Fault Refusal :=
  if s.holdCause cause = true then
    if s.mgr.mode.holdable ∧ !s.mgr.holdSent then
      .next ((s.updMgr fun m => { m with holdReq := m.holdReq.orElse fun _ => some cause, holdSent := true }).broadcast .hold)
    else if s.mgr.mode = .limp ∧ cause = 1 then
      .next (s.updMgr fun m => { m with sagDeadline := m.sagDeadline.orElse fun _ => some m.frame })
    else .next s
  else .next s

/-- The manager enters Hold at its boundary after the broadcast (R61, R76): an agreed doze is cancelled, and wake requests are
overtaken. -/
def State.enterHold (s : State) : State :=
  match s.mgr.holdReq with
  | none => s
  | some cause =>
    if s.mgr.holdSent ∧ s.mgr.mode.holdable ∧ s.mgr.limpReq.isNone then
      let s1 := if s.mgr.mode = .doze then s else s.cancelDoze
      let s2 := (s1.finalAll s.wakeCmds stWrongState).setMode .hold cause
      let s3 := (s2.finalAll s.mgr.holdCmds stOk).updMgr fun m =>
        { m with
          holdReq := none, holdSent := false, holdCmds := [], holdEntry := some m.frame, wake := none, wakeStart := none, wakeRow := 0
          sagDeadline := if cause = 1 then some m.frame else none }
      if cause = 2 then (8 :: s3.fit.sledList.filter fun k => (s3.hub k).held).foldl State.loseLock s3 else s3
    else s

/-- A hub receives the HOLD broadcast (R76). -/
def execHoldBroadcast (k : Nat) (s : State) : Host.Outcome State Fault Refusal :=
  if (s.hub k).inbox.contains .hold then
    .next (s.updHub k fun h => { h with inbox := dropMsg (fun m => m == .hold) h.inbox, holdPend := !h.held })
  else .next s

/-- A sled's first boundary after its own request or the broadcast: no frame starts, memory is in self-refresh, port verifies are
abandoned and EV_HOLD_ENTERED is raised (R76, R304). -/
def execSledHoldEntry (k : Nat) (s : State) : Host.Outcome State Fault Refusal :=
  let h := s.hub k
  if k < s.fit.sleds ∧ !h.held ∧ (h.holdPend || h.holdReqOn || h.lossHold) ∧ (s.mgr.mode.holdable || s.mgr.mode == .hold) then
    let inHold := s.mgr.mode == .hold
    let cause := if inHold then s.mgr.cause else s.mgr.holdReq.getD (if h.holdReqOn then 1 else 2)
    let s1 := (s.updHub k fun x =>
      { x with held := true, started := false, isSlip := false, stepGroups := [], stepAtHold := x.step, selfRefresh := true, holdPend := false
               resumeLeft := none }).abandonPortVerifies k
    .next <| (if cause = 2 then s1.loseLock k else s1).raise 0x000A [(0, 1, cause), (1, 1, k), (2, 1, if inHold then s.mgr.prev else s.mgr.mode.code), (4, 4, h.step),
      (8, 4, h.frame % 2 ^ 32)]
  else .next s

/-- The state to which Hold returns: PREV, but Loaded where Hold was entered in a passage (R77). -/
def State.afterHold (s : State) : MState :=
  let p := MState.ofCode s.mgr.prev
  if p = .passage then .loaded else p

/-- RESUME is sent to every hub with its start delay, and STATE returns to PREV (R80); groups that lost a domain to FORCE are aborted
(R67). In Doze PREV is again the state that was left for it. A tick loss that stands asks for Hold again (R39). -/
def State.resume (s : State) : State :=
  let steps := s.fit.sledList.map fun k => (s.hub k).stepAtHold
  let low := steps.foldl min (steps.headD 0)
  let lost := fun (d : Nat) => (s.countedRx d).any fun u => (s.rx u).missing == 17
  let s1 := s.forEach s.fit.sledList fun st k =>
    st.updHub k fun h => { h with inbox := h.inbox ++ [.resume (h.stepAtHold - low)], lossHold := lost k }
  let s2 := (s1.setMode s.afterHold 0).updMgr fun m =>
    { m with
      prev := if s.afterHold = .doze then m.dozePrev else m.prev
      holdEntry := none, sagDeadline := none
      holdReq := if lost 8 then some 2 else none }
  s2.forEach ((List.range 32).filter fun g => (s2.group g).abortReason == 3) fun st g => st.loseJob g 3

/-- Every hub has read at least 42 V for 64 frames, by the deadline (R78): in Hold the manager resumes; in Limp the deadline is over. -/
def execBusRecovered (s : State) : Host.Outcome State Fault Refusal :=
  match s.mgr.sagDeadline with
  | none => .next s
  | some f =>
    if s.mgr.frame ≤ f + 3125 ∧ s.mgr.powerDown.isNone ∧ (s.fit.sledList.all fun k => decide (4096 ≤ (s.hub k).highRun)) = true then
      let s1 := s.forEach s.fit.sledList fun st k => st.updHub k fun h => if h.holdReqOn then h.endSag else h
      if s.mgr.mode = .hold ∧ s.mgr.cause = 1 then .next s1.resume
      else if s.mgr.mode = .limp then .next (s1.updMgr fun m => { m with sagDeadline := none })
      else .next s
    else .next s

/-- A power-down ladder that starts at a boundary. -/
def State.startPowerDown (s : State) (at_ : Nat) : State :=
  s.updMgr fun m => { m with powerDown := m.powerDown.orElse fun _ => some { start := at_, done := 0 } }

/-- The bus has not recovered 3,125 frames after the Hold entry, or in Limp after the request: the orderly power-down begins (R78). -/
def execHoldDeadline (s : State) : Host.Outcome State Fault Refusal :=
  match s.mgr.sagDeadline with
  | none => .next s
  | some f =>
    if (s.mgr.mode = .hold ∨ s.mgr.mode = .limp) ∧ f + 3125 ≤ s.mgr.frame ∧ s.mgr.powerDown.isNone then
      .next (s.startPowerDown s.mgr.frame)
    else .next s

/-- Every counted receiver has again 64 consecutive accepted edges (R79); an orderly power-down that has been ordered goes on. -/
def execTickLossResume (s : State) : Host.Outcome State Fault Refusal :=
  let us := s.countedRx 8 ++ s.fit.sledList.flatMap s.countedRx
  if s.mgr.mode = .hold ∧ s.mgr.cause = 2 ∧ s.mgr.powerDown.isNone ∧
      (us.all fun u => (s.rx u).locked && decide (64 ≤ (s.rx u).run)) = true then .next s.resume
  else .next s

/-- RESUME ends a Hold that HOLD began (R79, R80). -/
def State.resumeCmd (s : State) (c : Cmd) : State :=
  s.decideCmd c 0x0013 true true [.hold] [(s.mgr.cause == 3, stWrongState), (s.mgr.powerDown.isNone, stWrongState)] fun st =>
    st.resume.final c stOk

def execResume (c : Cmd) (s : State) : Host.Outcome State Fault Refusal := .next (s.resumeCmd c)

/-- A hub receives RESUME (R80): 32 boundaries to leave self-refresh, then its start delay. -/
def execResumeMessage (k : Nat) (s : State) : Host.Outcome State Fault Refusal :=
  match (s.hub k).inbox.find? fun m => match m with | .resume _ => true | _ => false with
  | some (.resume d) =>
    .next <| s.updHub k fun h =>
      { h with
        inbox := dropMsg (fun m => match m with | .resume _ => true | _ => false) h.inbox, delay := d
        resumeLeft := if h.held then some (32 + d) else none }
  | _ => .next s

/-- After its boundaries without a started frame the sled's next boundary starts one (R80). -/
def execSledResumeStart (k : Nat) (s : State) : Host.Outcome State Fault Refusal :=
  if (s.hub k).held ∧ (s.hub k).resumeLeft = some 0 then
    .next (s.updHub k fun h => { h with held := false, selfRefresh := h.dropped, resumeLeft := none })
  else .next s

/-! ## Power-down and Service (R60, R79, R81) -/

/-- POWER_DOWN starts the orderly power-down at the next manager boundary (R79). -/
def State.powerDownCmd (s : State) (c : Cmd) : State :=
  s.decideCmd c 0x0014 true true [.quiescent, .hold] [] fun st => (st.startPowerDown (st.mgr.frame + 1)).final c stOk

def execPowerDown (c : Cmd) (s : State) : Host.Outcome State Fault Refusal := .next (s.powerDownCmd c)

/-- First frames of the rows of Table 3.13. -/
def powerDownRows : List Nat := [0, 16, 32, 64, 192]

/-- What a machine that goes Off keeps: what is fitted, the number of KEM key pairs, the publisher keys, the cocoon stores and image stashes, the
calibration stores, and the model's own counters and queues. -/
def State.offState (s : State) : State :=
  { State.reset with
    fit := { s.fit with absent := [], drives := Tab.empty }
    mgr := { Mgr.init with fresh := s.mgr.fresh }
    hubs := s.hubs.mapVals fun _ h => { Hub.init with store := h.store, stash := h.stash }
    workers := s.workers.mapVals fun _ x => { Worker.init with cal := x.cal.powerLost, lost := x.lost }
    tiles := s.tiles.mapVals fun _ x => { Tile.init with cal := x.cal.powerLost }
    modules := s.modules.mapVals fun _ x => { Module.init with cal := x.cal.powerLost }
    owners := { Owners.init with kemGen := s.owners.kemGen, keyGen := s.owners.keyGen, pubkeys := s.owners.pubkeys }
    host := { HostSide.init with out := s.host.out }
    mem := s.mem
    keyTag := s.keyTag
    pending := s.pending }

/-- The contents of a tier of a worker lost (Table 0.11): what its bits are from here on is open. -/
def State.loseTier (s : State) (w space : Nat) : State :=
  let k := s.newKey 255
  let s1 := k.2.updWorker w fun x => { x with lost := x.lost.set space k.1, bankIds := if space = 0 then (0, 0) else x.bankIds }
  { s1 with
    mem := s1.mem.filter fun c => !(addrSpace c.1 == space && addrWorker c.1 == w)
    keyTag := ⟨s1.keyTag.cells.filter fun c => !(addrSpace (c.1 * 64) == space && addrWorker (c.1 * 64) == w)⟩ }

/-- A frame range of the orderly power-down is reached (R81, Table 3.13). -/
def execOrderlyPowerDownStage (row : Nat) (s : State) : Host.Outcome State Fault Refusal :=
  match s.mgr.powerDown, powerDownRows[row]? with
  | some p, some f =>
    if row = p.done ∧ p.start + f ≤ s.mgr.frame then
      let s1 := s.updMgr fun m => { m with powerDown := some { p with done := row + 1 } }
      if row = 0 then
        let s2 := s1.forEach s.fit.sledList fun st k => st.updHub k fun h => if h.holdReqOn then h.endSag else h
        .next { s2 with modules := s2.modules.mapVals fun _ x => { x with off := true } }
      else if row = 1 then
        let s2 := s1.parkPlane
        .next { s2 with tiles := s2.tiles.mapVals fun _ x => { x with cells := x.cells.mapVals fun _ c => { c with mode := 0, nextDac := 0, nextPower := 0 } } }
      else if row = 2 then .next { s1 with workers := s1.workers.mapVals fun _ x => { x with pwr := x.pwr &&& 0x181 } }
      else if row = 3 then
        let s2 := s1.forEach s.answering fun st w => (st.loseTier w 0).loseTier w 1
        .next { s2 with workers := s2.workers.mapVals fun _ x => { x with pwr := x.pwr &&& 1 } }
      else .next s.offState
    else .next s
  | _, _ => .next s

/-- ENTER_SERVICE takes the machine from Quiescent to Service at the next manager boundary. -/
def State.enterServiceCmd (s : State) (c : Cmd) : State :=
  s.decideCmd c 0x0017 true true [.quiescent] [(s.mgr.serviceCmd.isNone, stBusy)] fun st =>
    st.updMgr fun m => { m with serviceCmd := some c }

def execEnterService (c : Cmd) (s : State) : Host.Outcome State Fault Refusal := .next (s.enterServiceCmd c)

/-- LEAVE_SERVICE parks the tiles and returns the machine to Quiescent at the next manager boundary. -/
def State.leaveServiceCmd (s : State) (c : Cmd) : State :=
  s.decideCmd c 0x0018 true true [.service] [(s.mgr.serviceCmd.isNone, stBusy)] fun st =>
    st.updMgr fun m => { m with serviceCmd := some c, parkDue := st.fit.lacewing }

def execLeaveService (c : Cmd) (s : State) : Host.Outcome State Fault Refusal := .next (s.leaveServiceCmd c)

/-- At a manager boundary a change to or from Service takes effect (Table 3.3, R249); overtaken by another trigger it is refused
(R61). -/
def State.settleService (s : State) : State :=
  match s.mgr.serviceCmd with
  | none => s
  | some c =>
    let s1 := s.updMgr fun m => { m with serviceCmd := none }
    if c.op = 0x0017 ∧ s.mgr.mode = .quiescent then (s1.setMode .service 0).final c stOk
    else if c.op = 0x0018 ∧ s.mgr.mode = .service then
      let s2 := if s.mgr.parkDue then s1.parkPlane.updMgr fun m => { m with parkDue := false } else s1
      (s2.endTunes.setMode .quiescent 0).final c stOk
    else s1.final c stWrongState

/-! ## Limp (R321, R322, R364, R365) -/

/-- The scan's queued writes and commands discarded, and the controller stopped (R313, R321). -/
def Scarab.stop (x : Scarab) : Scarab := { x with halted := true, run := false, outq := [], cmdq := [], outs := 0, cmds := 0 }

/-- The checker sees a mismatch (R313, R321). -/
def execLockstepMismatch (s : State) : Host.Outcome State Fault Refusal :=
  if s.mgr.mode = .off ∨ s.mgr.mode = .limp then .next s
  else .next ((s.updScb Scarab.stop).updMgr fun m => { m with limpReq := m.limpReq.orElse fun _ => some 5 })

/-- The threshold of a kind of part, in 1/128 °C (Table 15.3). -/
def thermalLimit : ThermalKind → Int
  | .worker => 105 * 128 | .dram => 95 * 128 | .tile => 65 * 128 | .module => 70 * 128 | .hub => 100 * 128

/-- The place of a kind in Table 15.3. -/
def thermalCode : ThermalKind → Nat
  | .worker => 0 | .dram => 1 | .tile => 2 | .module => 3 | .hub => 4

/-- A reading has stood above its threshold for 64 manager frames (R364). `part` is the part's code (R367). -/
def execThermalFault (k : ThermalKind) (part : Nat) (reading : Int) (s : State) : Host.Outcome State Fault Refusal :=
  if s.mgr.mode ≠ .off ∧ thermalLimit k < reading then
    .next <| s.updMgr fun m =>
      { m with
        thermal := if m.thermal.contains (thermalCode k) then m.thermal else m.thermal ++ [thermalCode k]
        limpReq := if m.mode = .limp then m.limpReq else m.limpReq.orElse fun _ => some 6
        limpPart := if m.mode ≠ .limp ∧ m.limpReq.isNone then part else m.limpPart
        limpTemp := if m.mode ≠ .limp ∧ m.limpReq.isNone then reading else m.limpTemp }
  else .next s

/-- Every reading of a kind has stayed 10 °C below its threshold for 64 frames: the fault no longer persists (R364). -/
def execThermalFaultClear (k : ThermalKind) (s : State) : Host.Outcome State Fault Refusal :=
  .next (s.updMgr fun m => { m with thermal := m.thermal.filter fun x => x != thermalCode k })

/-- The planner at Limp entry (R371): a host plan being computed ends with CANCELLED, a held one is discarded, an automatic one waits. -/
def State.plannerLimp (s : State) : State :=
  match s.plane.st, s.plane.req with
  | 1, some r =>
    if r.auto then s.dropPlan.updPlane fun p => { p with autos := r :: p.autos } else s.dropPlan.final? r.cmd stCancelled
  | 2, _ => s.dropPlan
  | _, _ => s

/-- Heater and ring cells hold their last outputs (Table 13.7). -/
def State.holdCells (s : State) : State :=
  let held : Tab Cell → Tab Cell := fun t => t.mapVals fun _ c => { c with mode := 4, holdAt := none, tune := none }
  { s with
    tiles := s.tiles.mapVals fun _ x => { x with cells := held x.cells }
    workers := s.workers.mapVals fun _ x => { x with cells := held x.cells } }

/-- Commands that Limp overtakes (R61): a doze is cancelled; HOLD, WAKE and changes to Service are refused. -/
def State.overtaken (s : State) : State :=
  let s1 := if s.mgr.mode = .doze then s else s.cancelDoze
  let s2 := s1.finalAll (s.wakeCmds ++ s.mgr.holdCmds ++ s.mgr.serviceCmd.toList) stWrongState
  s2.updMgr fun m =>
    { m with doze := none, wake := none, wakeStart := none, wakeRow := 0, holdReq := none, holdSent := false, holdCmds := [], serviceCmd := none }

/-- At the manager boundary after detection the safe outputs are driven, LIMP is sent, every running group stops and EV_LIMP_ENTERED
is raised (R321, R365). A bus-sag Hold's deadline goes on (R78). -/
def State.enterLimp (s : State) : State :=
  match s.mgr.limpReq with
  | none => s
  | some cause =>
    if s.mgr.mode = .off ∨ s.mgr.mode = .limp then s
    else
      let prev := s.mgr.mode.code
      let s1 := (s.overtaken.plannerLimp.setMode .limp cause).endTunes.holdCells
      let s2 := (s1.updScb fun x => { x.stop with armed := false, checking := none }).broadcast .limp
      let s3 := s2.stopGroups s.runningGroups 7
      (s3.raise 0x000B [(0, 1, cause), (1, 1, prev), (2, 2, if cause = 6 then s.mgr.limpPart else 0xFFFF),
          (4, 2, s.scb.lastEnd), (8, 4, s.mgr.frame % 2 ^ 32), (12, 2, if cause = 6 then toBits 16 s.mgr.limpTemp else 0)]).updMgr
        fun m => { m with limpReq := none, holdEntry := none }

/-- LIMP_ENTRY. The manager boundary does the same, before every other transition (R61). -/
def execLimpEntry (s : State) : Host.Outcome State Fault Refusal := .next s.enterLimp

/-- A hub receives LIMP: it starts no frame from its next boundary, with memory in self-refresh (R365). -/
def execLimp (k : Nat) (s : State) : Host.Outcome State Fault Refusal :=
  if (s.hub k).inbox.contains .limp then
    .next <| s.updHub k fun h =>
      { h with inbox := dropMsg (fun m => m == .limp) h.inbox, halted := true, started := false, isSlip := false, selfRefresh := true
               resumeLeft := none }
  else .next s

/-! ## Restarts (R323 to R326, R366) -/

/-- A restart accepted: its ladder begins and the volatile items are cleared (Table 13.8). -/
def State.beginRestart (s : State) (c : Cmd) (cold : Bool) : State :=
  ((s.interim c).updMgr fun m => { m with restart := some { cold := cold, start := m.frame, stage := 0, cmd := c } }).updScb Scarab.clearVolatile

/-- RESTART_WARM (R323). -/
def State.restartWarm (s : State) (c : Cmd) : State :=
  s.decideCmd c 0x0015 true true [.limp]
    [(s.mgr.restart.isNone, stWrongState), (s.img.active.isSome, stWrongState), (s.mgr.thermal.isEmpty, stUnhealthy)] fun st =>
    st.beginRestart c false

def execRestartWarm (c : Cmd) (s : State) : Host.Outcome State Fault Refusal := .next (s.restartWarm c)

/-- The erase window of a cold restart opens at its acceptance (R325): an owner open ends with CANCELLED. -/
def State.coldErase (s : State) : State :=
  let gone := s.owners.live.filter fun o => o != 0
  let s1 := match s.owners.opening with | some o => s.final o.cmd stCancelled | none => s
  let old : Option Cmd := match s.owners.releasing with | some r => if r.single then r.cmd else none | none => none
  let more : List Nat := match s.owners.releasing with | some r => if r.erasing then r.owners.filter fun o => !gone.contains o else [] | none => []
  (s1.updOwners fun o => { o with opening := none }).openErase
    { owners := (gone ++ more).mergeSort (· ≤ ·), also := s.owners.opening.map (·.owner), single := old.isSome, accepted := s.mgr.frame, limit := 0, force := true, erasing := true
      e := s.mgr.frame, waiting := [], erased := 0, cmd := old }

/-- RESTART_COLD (R325): every owner erased, every circuit torn with cause 5h, the plane parked, automatic plans dropped. -/
def State.restartCold (s : State) (c : Cmd) : State :=
  s.decideCmd c 0x0016 true true [.limp] [(s.mgr.restart.isNone, stWrongState)] fun st =>
    let s1 := (st.beginRestart c true).coldErase
    let s2 := (s1.tearCircuits (s1.circs.cells.map (·.1)) 5).parkPlane
    s2.updPlane fun p => { p with autos := [], req := none, plan := none, st := 0, ops := [] }

def execRestartCold (c : Cmd) (s : State) : Host.Outcome State Fault Refusal := .next (s.restartCold c)

/-- Frame 16 of a cold restart: both banks hold the null program, no image, no Mound object, no job (R325, R366). A load or an activation
that ends here leaves its code in LASTCODE and LASTOP (R97). -/
def State.coldClear (s : State) : State :=
  let s1 := s.forEach s.runningGroups fun st g => st.loseJob g 8
  let s2 := s1.dropQueued (fun _ => true) stWrongImage
  let s3 := (s2.mound.loads.map (·.cmd) ++ s2.mound.promotes.map (·.cmd) ++ s2.mound.pins.map (·.cmd)).foldl (fun st c => st.final c stCancelled) s2
  let s4 := match s3.img.load with | some l => s3.final l.cmd stCancelled | none => s3
  let s5 := match s4.img.act with | some a => s4.final a.cmd stCancelled | none => s4
  let ended : Nat := if s.img.act.any fun a => !a.deact then 2 else if s.img.load.isSome then 1 else 0
  let s6 : State :=
    { s5.clearCircs with
      img := { Img.init with
        lastCode := if ended = 0 then s5.img.lastCode else stCancelled
        lastOp := if ended = 0 then s5.img.lastOp else ended }
      mound := { MoundWork.init with stores := s5.mound.stores }
      workers := s5.workers.mapVals fun _ x => { x with objs := Tab.empty }
      groups := Tab.empty }
  ((s6.forEach s.fit.sledList fun st k => st.updHub k fun h => { h with regions := [] }).updScb fun x =>
    { x.clearVolatile with bank0 := nullProgram, bank1 := nullProgram, retained := Tab.empty, staged := false, armed := false, checking := none
                           halted := false, run := true }).newKem.fillSlot0

/-- Frame 16 of a warm restart: scans run again, and heater and ring cells are PRIME with their trim held. -/
def State.warmPrime (s : State) : State :=
  let prime : Cell → Cell := fun c => { c with mode := 2, setupAt := s.mgr.frame - 12, window := [], locked := false, within := 0, beyond := 0 }
  let s1 : State :=
    { s with
      tiles := s.tiles.mapVals fun t x => { x with cells := x.cells.mapVals fun h c => if s.heaterRouted t h then prime c else { c with mode := 1 } }
      workers := s.workers.mapVals fun _ x => { x with cells := x.cells.mapVals fun _ c => prime c } }
  s1.updScb fun x => { x with halted := false, run := true }

/-- Frame 80: the sleds start frames again. A sled that was in Doze or Hold at Limp entry has its domains as they were at the drop. -/
def State.restartSleds (s : State) : State :=
  let s1 := s.forEach s.fit.sledList fun st k =>
    let woken := if (st.hub k).dropped then
        st.forEach (st.fit.sledWorkers k) fun a w => (a.switchOn w (a.worker w).dropPwr).trainLinks w
      else st
    woken.updHub k fun h => { h with halted := false, held := false, dropped := false, selfRefresh := false, holdPend := false, resumeLeft := none }
  { s1 with
    circs := s1.circs.mapVals fun _ x => if x.state = 7 then { x with state := 2 } else x
    workers := s1.workers.mapVals fun _ x => { x with cells := x.cells.mapVals fun _ c => if c.mode = 2 then { c with mode := 3 } else c }
    tiles := s1.tiles.mapVals fun _ x => { x with cells := x.cells.mapVals fun _ c => if c.mode = 2 then { c with mode := 3 } else c } }

/-- Frames 16 and 80 of a restart ladder (Table 13.8, R324, R366). -/
def execRestartLadderStage (selfTestOk : Bool) (s : State) : Host.Outcome State Fault Refusal :=
  match s.mgr.restart with
  | none => .next s
  | some r =>
    if r.stage = 0 ∧ r.start + 16 ≤ s.mgr.frame then
      if selfTestOk then
        let s1 := s.updMgr fun m => { m with restart := some { r with stage := 1 } }
        .next (if r.cold then s1.coldClear else s1.warmPrime)
      else .next ((s.updMgr fun m => { m with restart := none }).final r.cmd stUnhealthy)
    else if r.stage = 1 ∧ r.start + 80 ≤ s.mgr.frame then
      let s1 := s.restartSleds.updMgr fun m => { m with restart := none }
      if r.cold then
        let s2 := s1.forEach s.fit.sledList fun st k =>
          st.updHub k fun h => { h with applied := false, stepping := false }
        .next ((s2.setMode .quiescent 0).final r.cmd stOk)
      else .next ((s1.setMode (if s1.runningGroups.isEmpty then .loaded else .running) 0).final r.cmd stOk)
    else .next s

/-! ## Power domains (R65 to R68) -/

/-- A logical core that the active image binds is mapped to a physical core of the cluster (Table 3.6, R68). -/
def State.clusterUsed (s : State) (w n : Nat) : Bool :=
  (List.range 48).any fun l =>
    (s.bindOf w l).isSome && (match (s.worker w).physOf l with | some p => clusterOf p == n | none => false)

/-- Groups that have a bound core in a cluster, or for PD11 a flow on a link of the worker. -/
def State.domainGroups (s : State) (w n : Nat) : List Nat :=
  if n = 11 then (s.fit.linkList.flatMap fun j => (s.flowsOf w j).map (·.gid)).dedup
  else ((List.range 48).filterMap fun l =>
    match (s.worker w).physOf l with | some p => if clusterOf p = n then s.coreGroup w l else none | none => none).dedup

/-- A board link of the worker carries a flow of the active image. -/
def State.carriesFlow (s : State) (w : Nat) : Bool := s.fit.linkList.any fun j => !(s.flowsOf w j).isEmpty

/-- A request for a domain is refused (Table 3.6, R65, R67, R68): `lift` is FORCE in Hold, `bad` FORCE outside Hold. -/
def State.domainRefused (s : State) (w n : Nat) (want lift bad : Bool) : Bool :=
  bad || n == 1 ||
    ((n == 7 || n == 8) && (s.mgr.mode != .quiescent || (!want && !(s.worker w).objs.cells.isEmpty))) ||
    (!want && decide (2 ≤ n) && decide (n ≤ 6) && !lift && s.clusterUsed w n) || (!want && n == 11 && !lift && s.carriesFlow w)

/-- A domain switched off: circuits on its ports are torn with cause 1h (R66), its links torn, what its cores and memory held is gone. -/
def State.domainOff (s : State) (w n : Nat) (lift : Bool) : State :=
  let gs := s.domainGroups w n
  let s1 := s.updWorker w fun x => { x with pwr := putBit x.pwr n false }
  if n = 9 ∨ n = 10 then
    (([2 * (n - 9), 2 * (n - 9) + 1] : List Nat)).foldl (init := s1.updWorker w fun x => x.ringOff (2 ^ n)) fun st p =>
      s.circs.cells.foldl (init := st) fun a c =>
        let sends := c.2.standing && s.endOf c.2.src == (w, p)
        let takes := c.2.standing && s.endOf c.2.dst == (w, p)
        let b := if sends then (a.tearCircuit c.1 1).applyTear c.1 false else a
        if takes then (b.tearCircuit c.1 1).applyTear c.1 true else b
  else if n = 11 then
    let s2 := s1.forEach s.fit.linkList fun st j => if ((st.worker w).link j).up then st.tearLink w j 1 else st
    if lift then s2.forEach (gs.filter s.groupRuns) fun st g => st.updGroup g fun x => { x with abortReason := 3 } else s2
  else if n = 7 then s1.loseTier w 0
  else if n = 8 then s1.loseTier w 1
  else
    let d := s1.draw
    let s2 := d.2.updWorker w fun x => x.coresOff (2 ^ n) (d.1 + 1)
    if lift then s2.forEach (gs.filter s.groupRuns) fun st g => st.updGroup g fun x => { x with abortReason := 3 } else s2

/-- One domain of a request applied. -/
def State.domainApply (s : State) (w n : Nat) (want lift bad : Bool) : State :=
  let have_ := (s.worker w).powered n
  if want = have_ ∨ !s.fit.domainMask.testBit n ∨ n = 0 then s
  else if s.domainRefused w n want lift bad then s.updWorker w fun x => { x with pdRefused := putBit x.pdRefused n true }
  else if want then
    let s1 := s.switchOn w (2 ^ n)
    if n = 11 then s1.trainLinks w else s1.loadPrograms w (2 ^ n)
  else s.domainOff w n lift

/-- The latched request of a worker evaluated and applied (R65): ON returns to what is powered. -/
def State.applyDomains (s : State) (w : Nat) : State :=
  match (s.worker w).latched with
  | none => s
  | some (on, force) =>
    let hold := s.mgr.mode == .hold
    let s1 := ((List.range 12)).foldl (init := s) fun st n => st.domainApply w n (on.testBit n) (force && hold) (force && !hold)
    s1.updWorker w fun x => { x with latched := none, on := x.pwr ||| 1 }

/-- The latched coefficients of a unit's cells that are neither CLOSED nor PRIME take effect, where they were accepted before frame `now`
(R55, R266); a cell that was latched when it entered TUNE is tuned with its present ones (R280). -/
def Cell.applyLatched (x : Cell) (now : Nat) : Cell :=
  match x.latched with
  | some r =>
    if x.mode = 2 ∨ x.mode = 3 ∨ now ≤ x.latchAt.frame ∨ (x.tune.any fun t => decide (x.latchAt.frame < t.since)) = true then x
    else { x with rc := r, latched := none }
  | none => x

/-- A worker's latched RWB values applied, those of its power domains first: values accepted in the frame that runs wait for the next
boundary (R55). -/
def State.applyWorkerRwb (s : State) (w : Nat) : State :=
  let now := (s.hub (sledOf w)).frame
  (if s.workerUp w && decide ((s.worker w).latchAt.frame < now) then s.applyDomains w else s).updWorker w fun x =>
    { x with cells := x.cells.mapVals fun _ c => c.applyLatched now }

/-- All latched RWB fields of a domain applied together, at a boundary at which a frame starts (R55 to R58), with the Scarab engine's writes to
the sled's hub (R311). -/
def State.rwbApply (s : State) (d : Domain) : State :=
  match d with
  | .sled k =>
    if (s.hub k).started ∧ k < s.fit.sleds then (s.forEach (s.fit.sledWorkers k) State.applyWorkerRwb).applyHubWrites k else s
  | .manager =>
    if s.mgr.mode.deaf then s
    else
      { s with
        tiles := s.tiles.mapVals fun _ x => { x with cells := x.cells.mapVals fun _ c => c.applyLatched s.mgr.frame }
        modules := s.modules.mapVals fun _ x => { x with cells := x.cells.mapVals fun _ c => c.applyLatched s.mgr.frame } }

def execRwbApply (d : Domain) (s : State) : Host.Outcome State Fault Refusal := .next (s.rwbApply d)

/-- At a worker's boundary its request is applied. Where a frame starts, every latched RWB field of the sled's time domain is applied with
it (R57); in Hold, a request with FORCE alone is (R58, R67). -/
def execPowerDomainApply (w : Nat) (s : State) : Host.Outcome State Fault Refusal :=
  let forced := match (s.worker w).latched with | some (_, f) => f | none => false
  if !s.workerUp w then .next s
  else if (s.hub (sledOf w)).started then .next (s.rwbApply (.sled (sledOf w)))
  else if s.mgr.mode = .hold ∧ forced = true then .next (s.applyDomains w)
  else .next s

end Sys2Proof.Machine
end

