-- ==== Sys2Proof/Machine/Bank.lean ====
section
/-! DEFINITION. The static check of a Scarab program (R309, R310, R315): its words decode, it is bounded, and its worst-case scan. -/

namespace Sys2Proof.Machine

/-- Manager cycles of an instruction (Table 13.5); of a branch that is not taken; of a LOOP less its iterations. -/
def scarabCost : Instr → Nat
  | .mul _ _ _ => 2
  | .mulh _ _ _ => 2
  | .div _ _ _ => 18
  | .ld _ _ _ => 2
  | .st _ _ _ => 2
  | .stp _ _ _ => 2
  | .in_ _ _ _ => 2
  | .cmd _ => 4
  | .spanRead _ _ => 2
  | .spanArm _ _ => 2
  | .spanStart _ => 2
  | .spanStop _ => 2
  | .jmp _ => 2
  | .call _ => 2
  | .ret => 2
  | _ => 1

/-- The iterations of a LOOP: a count of 0 means 4,096. -/
def loopCount (n : Nat) : Nat := if n = 0 then 4096 else n

/-- The target of a branch or JMP. -/
def branchTarget : Instr → Option Nat
  | .beq _ _ t => some t
  | .bne _ _ t => some t
  | .blt _ _ t => some t
  | .bge _ _ t => some t
  | .jmp t => some t
  | _ => none

/-- A word of a program, its instruction, and the end words of the LOOP bodies it lies in, innermost first. -/
structure BankWord where
  addr : Nat
  ins  : Instr
  ctx  : List Nat
  deriving DecidableEq, Repr

/-- The rules of R310 on the word itself: branches go forward and stay in their body; bodies are nested or disjoint, to a depth
of 4. -/
def wordBounded (i : Nat) (ins : Instr) (ctx : List Nat) : Bool :=
  (match branchTarget ins with
    | some t => decide (i < t) && (match ctx with | e :: _ => decide (t ≤ e) | [] => true)
    | none => true) &&
  (match ins with
    | .loop _ e => decide (i < e) && decide (ctx.length < 4) && (match ctx with | f :: _ => decide (e ≤ f) | [] => true)
    | _ => true)

/-- The words of a program from word `i`, each with its bodies; `none` where a word does not decode or breaks a rule. -/
def bankWords (bank : Tab Nat) : Nat → Nat → List Nat → Option (List BankWord)
  | 0, _, _ => some []
  | n + 1, i, open_ =>
    let ctx := open_.filter fun e => decide (i ≤ e)
    match scarabDecode (bank.get 0 i) with
    | none => none
    | some ins =>
      if wordBounded i ins ctx then
        (bankWords bank n (i + 1) (match ins with | .loop _ e => e :: ctx | _ => ctx)).map fun l => { addr := i, ins := ins, ctx := ctx } :: l
      else none

/-- The paths from a word: the largest sum of counts, whether one leaves the innermost body at its end, and whether one reaches RET. -/
structure Walk where
  top   : Nat
  exits : Bool
  rets  : Bool
  deriving DecidableEq, Repr

/-- The words already judged, from the last to the first: their bodies and their paths; `none` where a path leaves the bank or calls
too deep. -/
abbrev WalkTab := Tab (List Nat × Option Walk)

/-- The end of a body has been reached. -/
def Walk.exit : Walk := { top := 0, exits := true, rets := false }

/-- Two paths of which either may be taken. -/
def Walk.join (a b : Walk) : Walk := { top := max a.top b.top, exits := a.exits || b.exits, rets := a.rets || b.rets }

/-- A path that, where it leaves its body, goes on as another. -/
def Walk.andThen (a b : Walk) : Walk :=
  if a.exits then { top := a.top + b.top, exits := b.exits, rets := a.rets || b.rets } else a

/-- The paths at a word in bodies `ctx`: at the end of the innermost one they leave it. -/
def pathAt (tab : WalkTab) (ctx : List Nat) (t : Nat) : Option Walk :=
  if (match ctx with | e :: _ => t == e + 1 | [] => false) then some Walk.exit else (tab.get? t).bind (·.2)

/-- A path from inside bodies `inner` followed until it is no deeper than `depth` bodies. -/
def climb (tab : WalkTab) (depth : Nat) : List Nat → Walk → Option Walk
  | [], w => some w
  | e :: rest, w =>
    if rest.length + 1 ≤ depth ∨ !w.exits then some w
    else (pathAt tab rest (e + 1)).bind fun x => climb tab depth rest (w.andThen x)

/-- The paths from a target as they look from `depth` bodies. -/
def pathFrom (tab : WalkTab) (ctx : List Nat) (t : Nat) : Option Walk :=
  if (match ctx with | e :: _ => t == e + 1 | [] => false) then some Walk.exit
  else match tab.get? t with
    | none => none
    | some (inner, r) => r.bind fun w => climb tab ctx.length inner w

/-- A path that starts with an instruction of `c` cycles. -/
def Walk.after (w : Walk) (c : Nat) : Walk := { w with top := w.top + c }

/-- The paths from a word (R310): a LOOP costs 1 + count × (1 + body), a CALL 2 + the callee up to its RET. -/
def wordPaths (callee : Nat → Option Walk) (tab : WalkTab) (x : BankWord) : Option Walk :=
  let next := pathAt tab x.ctx (x.addr + 1)
  match x.ins with
  | .end_ => some { top := 1, exits := false, rets := false }
  | .ret => some { top := 2, exits := false, rets := true }
  | .jmp t => (pathFrom tab x.ctx t).map fun w => w.after 2
  | .call t => (callee t).bind fun f =>
      if f.rets then next.map fun w => w.after (2 + f.top) else some { top := 2 + f.top, exits := false, rets := false }
  | .loop n e => ((tab.get? (x.addr + 1)).bind (·.2)).bind fun b =>
      let whole : Walk := { b with top := 1 + loopCount n * (1 + b.top) }
      if b.exits then (pathAt tab x.ctx (e + 1)).map whole.andThen else some whole
  | ins => match branchTarget ins with
    | some t => (pathFrom tab x.ctx t).bind fun w => next.map fun v => (w.after 2).join (v.after 1)
    | none => next.map fun w => w.after (scarabCost ins)

/-- Every word of a program judged, for calls answered by `callee`. -/
def bankPaths (callee : Nat → Option Walk) (ws : List BankWord) : WalkTab :=
  ws.foldr (fun x tab => ⟨(x.addr, (x.ctx, wordPaths callee tab x)) :: tab.cells⟩) Tab.empty

/-- The paths of a callee from its first word to its RET. -/
def calleeOf (tab : WalkTab) (t : Nat) : Option Walk :=
  match tab.get? t with
  | none => none
  | some (ctx, r) => r.bind fun w => climb tab 0 ctx w

/-- A program judged with paths of at most `n` CALLs. -/
def bankJudged (ws : List BankWord) : Nat → WalkTab
  | 0 => bankPaths (fun _ => none) ws
  | n + 1 => bankPaths (calleeOf (bankJudged ws n)) ws

/-- One past the last word of a bank that is listed; NOPs run from there out of the bank. -/
def bankTop (bank : Tab Nat) : Nat := (bank.cells.map fun c => c.1 + 1).foldl max 0

/-- The worst-case scan of a program, from word 0 to END (R310); `none` where a word does not decode or the program is not bounded. -/
def bankWorst (bank : Tab Nat) : Option Nat :=
  (bankWords bank (bankTop bank) 0 []).bind fun ws => (pathAt (bankJudged ws 8) [] 0).map (·.top)

/-- The check of R92 and R315. -/
def bankOk (bank : Tab Nat) : Bool := match bankWorst bank with | some n => decide (n ≤ 3583) | none => false

end Sys2Proof.Machine
end

