-- ==== Sys2Proof/Machine/Slots.lean ====
section
/-! DEFINITION. Static timing of frame programs (R110 to R118, R124, R125, Table 5.8, R50): what each slot occupies, reads and writes, and
the first slot of an image's schedules that breaks a check. -/

namespace Sys2Proof.Machine

/-- A range that a slot reads, or writes by a cycle: of the core stores (space 2, the core's number in the range) or a tier of a worker.
`arg` is the job argument that the address is relative to; over the arguments that keep it inside its region it may lie anywhere in
the home range, which is the range itself where there is no argument. -/
structure Touch where
  issue   : Nat
  ready   : Nat
  w       : Nat
  space   : Nat
  lo      : Nat
  len     : Nat
  arg     : Option Nat
  homeLo  : Nat
  homeLen : Nat
  deriving DecidableEq, Repr

/-- The two ranges share a byte for some job arguments: at the same argument as they stand, else anywhere in their homes. -/
def Touch.meets (a b : Touch) : Bool :=
  a.w == b.w && a.space == b.space &&
    (if a.arg = b.arg then decide (a.lo < b.lo + b.len) && decide (b.lo < a.lo + a.len)
     else decide (a.homeLo < b.homeLo + b.homeLen) && decide (b.homeLo < a.homeLo + a.homeLen))

/-- What one slot of a core does in a step (Tables 5.5 and 5.6). -/
structure SlotUse where
  ok     : Bool
  port   : Nat
  occ    : Nat
  fin    : Nat
  reads  : List Touch
  writes : List Touch
  rregs  : List Nat
  wregs  : List (Nat × Nat)
  deriving DecidableEq, Repr

/-- An image as validation step 15 sees it: the machine, the circuits and what the schedules work on. -/
structure Sched where
  fit     : Fit
  groups  : List GroupDef
  flows   : List FlowDef
  circs   : List CircDef
  regions : List RegionDef
  binds   : List BindDef
  deriving DecidableEq, Repr

/-- The address of an operand at job step `j` with every job argument 0, and the argument it is relative to (R112). -/
def BindDef.operand (b : BindDef) (j ar ofs : Nat) : Nat × Option Nat :=
  let a := { StagCore.init with areg := aregValues b [] j }.operand ar ofs
  (a, match b.aregs[ar]? with | some r => if r.jobRel then some r.argSel else none | none => none)

/-- The region in which an address with argument 0 lies. -/
def Sched.regionAt (x : Sched) (a : Nat) : Option RegionDef :=
  x.regions.find? fun r => r.w == addrWorker a && r.space == addrSpace a && decide (r.base ≤ addrOffset a) && decide (addrOffset a < r.base + r.size)

/-- The range an operand names. The home of one relative to an argument is the data area of the core store that its address with
argument 0 names, or the region in which that address lies. -/
def Sched.touch (x : Sched) (a : Nat × Option Nat) (issue ready len : Nat) : Touch :=
  let off := addrOffset a.1
  let home : Nat × Nat :=
    if a.2.isNone then (off, len)
    else if addrSpace a.1 = 2 then (off / 2 ^ 22 * 2 ^ 22 + dataBase, 0x300000)
    else match x.regionAt a.1 with | some r => (r.base, r.size) | none => (off, len)
  { issue := issue, ready := ready, w := addrWorker a.1, space := addrSpace a.1, lo := off, len := len, arg := a.2, homeLo := home.1
    homeLen := home.2 }

/-- An operand of `len` bytes in the data area of a store, aligned (R110); one relative to an argument fits the area. -/
def dataOk (byte len : Nat) (rel : Bool) : Bool :=
  byte % 64 == 0 && (if rel then decide (len ≤ 0x300000) else decide (dataBase ≤ byte) && decide (byte + len ≤ 0x400000))

/-- A core-store operand: it names the issuing core, lies in the data area and is aligned (R110). -/
def BindDef.storeOk (b : BindDef) (a : Nat × Option Nat) (len : Nat) : Bool :=
  addrSpace a.1 == 2 && addrWorker a.1 == b.w &&
    match storePlace a.1 with
    | some (c, byte) => c == b.core && dataOk byte len a.2.isSome
    | none => false

/-- Every line of a range lies in a region of the worker and space that `p` admits (Table 5.8). -/
def Sched.inRegions (x : Sched) (w space off lines : Nat) (p : RegionDef → Bool) : Bool :=
  (List.range lines).all fun i =>
    x.regions.any fun r => r.w == w && r.space == space && p r && decide (r.base ≤ off + 64 * i) && decide (off + 64 * i + 64 ≤ r.base + r.size)

/-- A tier or Mound operand of a worker: aligned, inside its regions, with pages that the group may use (R110, R167, R181). One relative
to an argument is judged by the region in which its address with argument 0 lies, and fits it. -/
def Sched.tierOk (x : Sched) (w : Nat) (a : Nat × Option Nat) (lines : Nat) (spaces : List Nat) (p : RegionDef → Bool) : Bool :=
  spaces.contains (addrSpace a.1) && addrWorker a.1 == w && (addrSpace a.1 != 4 || bitsOf (addrOffset a.1) 51 44 == 0) &&
    addrOffset a.1 % 64 == 0 &&
    (if a.2.isSome then (match x.regionAt a.1 with | some r => p r && decide (64 * lines ≤ r.size) | none => false)
     else x.inRegions w (addrSpace a.1) (addrOffset a.1) lines p)

/-- The owner of a group. -/
def Sched.owner (x : Sched) (g : Nat) : Nat := ((x.groups.find? fun d => d.gid == g).map (·.owner)).getD 0

/-- Pages that a group's MRD may read. -/
def Sched.mayRead (x : Sched) (g : Nat) (r : RegionDef) : Bool :=
  r.space == 4 || (r.use != 3 && (r.owner == 0 || r.owner == x.owner g))

/-- Pages that a group may write. -/
def Sched.mayWrite (x : Sched) (g : Nat) (r : RegionDef) : Bool := r.use != 3 && r.owner == x.owner g

/-- The tier whose counts an address takes (R181). -/
def Sched.slow (x : Sched) (w a : Nat) : Bool :=
  if addrSpace a = 4 then !(x.regions.any fun r => r.w == w && r.use == 3 && r.space == 0) else addrSpace a == 1

/-- The workers that an image binds for a group. -/
def Sched.groupWorkers (x : Sched) (g : Nat) : List Nat := ((x.binds.filter fun b => b.gid == g).map (·.w)).dedup

/-- Cycles from issue to ready of a vector operation that writes one register (Table 5.6). -/
def vecReady (op : Nat) : Nat :=
  if op = 0x15 then 6 else if 0x16 ≤ op ∧ op ≤ 0x18 then 2 else if 0x1A ≤ op ∧ op ≤ 0x1D then 12
  else if op = 0x1E then 10 else if op = 0x1F then 8 else if op = 0x20 then 2 else 4

/-- The source registers of such an operation (R122). -/
def vecSources (op : Nat) (sl : Slot) : List Nat :=
  if op = 0x15 then [sl.ra, sl.rb, sl.len % 32]
  else if (0x12 ≤ op ∧ op ≤ 0x18) ∨ op = 0x21 then [sl.ra, sl.rb]
  else [sl.ra]

/-- Formats that a vector operation takes. -/
def vecFormats (op : Nat) (sl : Slot) : Bool :=
  if 0x1A ≤ op ∧ op ≤ 0x1D then sl.fa == 7 else if op = 0x19 then laneFmt sl.fa && laneFmt sl.fb else laneFmt sl.fa

/-- A slot that occupies a port and touches no memory. -/
def SlotUse.plain (ok : Bool) (port occ fin : Nat) : SlotUse :=
  { ok := ok, port := port, occ := occ, fin := fin, reads := [], writes := [], rregs := [], wregs := [] }

/-- What a slot of a bound core does at job step `j`. Ports are numbered as the cores number them: 0 weights, 1 array, 2 drain, 3 and 4
the movers' channels, 5 vector, 6 + j a board link, 22 + p an optical port. -/
def Sched.slotUse (x : Sched) (b : BindDef) (j op : Nat) (sl : Slot) : SlotUse :=
  let t := sl.issue
  let ax := b.operand j sl.ax sl.ox
  let ay := b.operand j sl.ay sl.oy
  match op with
  | 0x01 =>
    let occ := weightCycles sl.fa
    { SlotUse.plain (decide (sl.fa ≤ 5) && b.storeOk ax (weightLen sl.fa)) 0 occ (t + occ) with reads := [x.touch ax t 0 (weightLen sl.fa)] }
  | 0x02 => SlotUse.plain true 1 1 (t + 1)
  | 0x03 =>
    let k := if sl.fb = 4 then 2 else 1
    let vec := if sl.fb = 4 then 128 else 64
    let exps := sl.fb == 5
    { SlotUse.plain (decide (1 ≤ sl.len) && decide (sl.aux % 512 + sl.len ≤ 512) && b.storeOk ax (vec * sl.len) &&
          (!exps || b.storeOk ay (4 * sl.len))) 1 (k * sl.len) (t + k * (sl.len - 1) + 96) with
      reads := x.touch ax t 0 (vec * sl.len) :: if exps then [x.touch ay t 0 (4 * sl.len)] else [] }
  | 0x04 =>
    let row := 8 * fmtWidth sl.fa
    { SlotUse.plain (sl.fa != 5 && laneFmt sl.fb && decide (1 ≤ sl.len) && decide (sl.aux % 512 + sl.len ≤ 512) &&
          b.storeOk ay (row * sl.len)) 2 sl.len (t + sl.len + 7) with
      writes := (List.range sl.len).map fun i => x.touch (ay.1 + row * i, ay.2) t (t + i + 8) row }
  | 0x30 =>
    let slow := x.slow b.w ax.1
    let n := sl.len
    let ready := if slow then t + 1536 + 4 * (n - 1) else t + 448 + ceilDiv n 4 - 1
    { SlotUse.plain (decide (1 ≤ n) && x.tierOk b.w ax n [0, 1, 4] (x.mayRead b.gid) && b.storeOk ay (64 * n)) (if slow then 4 else 3)
          (if slow then 4 * n else ceilDiv n 4) ready with
      reads := [x.touch ax t 0 (64 * n)], writes := [x.touch ay t ready (64 * n)] }
  | 0x31 =>
    let slow := addrSpace ay.1 == 1
    let n := sl.len
    let ready := if slow then t + 1280 + 4 * (n - 1) else t + 320 + ceilDiv n 4 - 1
    { SlotUse.plain (decide (1 ≤ n) && x.tierOk b.w ay n [0, 1] (x.mayWrite b.gid) && b.storeOk ax (64 * n)) (if slow then 4 else 3)
          (if slow then 4 * n else ceilDiv n 4) ready with
      reads := [x.touch ax t 0 (64 * n)], writes := [x.touch ay t ready (64 * n)] }
  | 0x40 =>
    let flow := x.flows.find? fun f => f.flow == sl.aux % 4096 && f.w == b.w && f.gid == b.gid
    match flow with
    | none => SlotUse.plain false 6 0 0
    | some f =>
      let peer := (x.fit.linkPeer b.w f.link).1
      let there : Bool := match storePlace ay.1 with | some (_, byte) => dataOk byte (256 * sl.len) ay.2.isSome | none => false
      let last := t + 210 + (sl.len - 1) * 512 / 125
      let occ := ceilDiv (sl.len * 512) 125
      { SlotUse.plain (decide (1 ≤ sl.len) && b.storeOk ax (256 * sl.len) && addrSpace ay.1 == 2 && addrWorker ay.1 == peer && there)
            (6 + f.link) occ (max (t + occ) last) with
        reads := [x.touch ax t 0 (256 * sl.len)]
        writes := (List.range sl.len).map fun i => x.touch (ay.1 + 256 * i, ay.2) t (t + 210 + i * 512 / 125) 256 }
  | 0x41 =>
    match x.circs.find? fun c => c.cid == sl.aux % 4096 && x.fit.wireWorker c.src == some b.w with
    | none => SlotUse.plain false 22 0 0
    | some c =>
      let mine : Bool := match x.fit.wireWorker c.dst with
        | some d => (x.groupWorkers b.gid).contains d && x.tierOk d ay (4 * sl.len) [0] (x.mayWrite b.gid)
        | none => false
      let occ := ceilDiv (sl.len * 256) 125
      { SlotUse.plain (decide (1 ≤ sl.len) && b.storeOk ax (256 * sl.len) && mine) (22 + (x.fit.lportOwner c.src).2) occ
            (max (t + occ) (t + 24 + (sl.len - 1) * 256 / 125)) with
        reads := [x.touch ax t 0 (256 * sl.len)] }
  | 0x10 =>
    let len := 8 * fmtWidth sl.fa * sl.len
    { SlotUse.plain (sl.fa != 5 && decide (1 ≤ sl.len) && decide (sl.rd + sl.len ≤ 32) && b.storeOk ax len) 5 sl.len (t + 5 + sl.len) with
      reads := [x.touch ax t 0 len], wregs := (List.range sl.len).map fun k => (sl.rd + k, t + 6 + k) }
  | 0x11 =>
    let len := 8 * fmtWidth sl.fa * sl.len
    let q4 := sl.fa == 5
    let ready := t + 4 + sl.len
    { SlotUse.plain (laneFmt sl.fb && !(q4 && sl.fb == 6) && decide (1 ≤ sl.len) && decide (sl.ra + sl.len ≤ 32) && b.storeOk ay len &&
          (!q4 || b.storeOk ax (2 * sl.len))) 5 sl.len ready with
      writes := x.touch ay t ready len :: if q4 then [x.touch ax t ready (2 * sl.len)] else []
      rregs := (List.range sl.len).map fun k => sl.ra + k }
  | _ =>
    let occ := if 0x1A ≤ op ∧ op ≤ 0x1D then 2 else 1
    { SlotUse.plain (vecFormats op sl) 5 occ (t + vecReady op) with
      rregs := vecSources op sl, wregs := [(sl.rd, t + vecReady op)] }

/-- What a core has done so far in a step, and what it carries from step to step of a stride. -/
structure Trail where
  last   : Nat
  ports  : Tab Nat
  writes : List Touch
  regs   : Tab Nat
  rows   : Tab Nat
  shadow : Nat              -- cycle at which the shadow buffer is ready
  kinds  : Tab Nat          -- rows written in the stride, with their lane format
  inUse  : Option Nat       -- formats of the two weight buffers
  other  : Option Nat
  deriving DecidableEq, Repr

/-- Parts of ranges that a written range does not cover. -/
def uncovered (parts : List (Nat × Nat)) (lo len : Nat) : List (Nat × Nat) :=
  parts.flatMap fun p =>
    (if p.1 < lo then [(p.1, min p.2 (lo - p.1))] else []) ++
      (if lo + len < p.1 + p.2 then [(max p.1 (lo + len), p.1 + p.2 - max p.1 (lo + len))] else [])

/-- The parts of a read that writes ready by its issue do not cover: those at the same argument, or fixed ones that cover its home. -/
def Touch.leftBy (r : Touch) (ws : List Touch) : List (Nat × Nat) :=
  let before := ws.filter fun w => w.w == r.w && w.space == r.space && decide (w.ready ≤ r.issue)
  let cut := fun (arg : Option Nat) (lo len : Nat) => (before.filter fun w => w.arg == arg).foldl (fun ps w => uncovered ps w.lo w.len) [(lo, len)]
  if (cut none r.homeLo r.homeLen).isEmpty then [] else cut r.arg r.lo r.len

/-- A core-store range that is read in the first step of a stride has been written before in the step (R125). -/
def Trail.covered (x : Trail) (r : Touch) : Bool := (r.leftBy x.writes).isEmpty

/-- The checks of Table 5.8 on the weights, the accumulators and the registers of a slot. -/
def Trail.unitsOk (x : Trail) (first : Bool) (op : Nat) (sl : Slot) (u : SlotUse) : Bool :=
  let row := fun i => sl.aux % 512 + i
  let known := fun i => (x.kinds.get? (row i)).isSome
  (match op with
    | 0x02 => decide (x.shadow ≤ sl.issue) && (!first || x.other.isSome)
    | 0x03 =>
      (match x.inUse with | some fw => pairOk fw sl.fb | none => false) &&
        (sl.aux.testBit 9 || (List.range sl.len).all fun i =>
          decide (x.rows.get 0 (row i) ≤ sl.issue + (if sl.fb = 4 then 2 else 1) * i) && (!first || known i))
    | 0x04 =>
      (List.range sl.len).all fun i =>
        decide (x.rows.get 0 (row i) ≤ sl.issue + i) && (!first || known i) && x.kinds.get sl.fb (row i) == sl.fb
    | _ => true) &&
  u.rregs.all fun r => decide (x.regs.get 0 r ≤ sl.issue) && (!first || (x.regs.get? r).isSome)

/-- The checks of Table 5.8 on the memory a slot reads. -/
def Trail.readsOk (x : Trail) (first : Bool) (sl : Slot) (u : SlotUse) : Bool :=
  u.reads.all fun r =>
    (x.writes.all fun w => !(w.meets r && decide (w.issue < sl.issue) && decide (sl.issue < w.ready))) &&
      (!first || r.space != 2 || x.covered r)

/-- One slot checked and taken in; `none` where it breaks a check. -/
def Trail.slot (x : Trail) (first : Bool) (op : Nat) (sl : Slot) (u : SlotUse) : Option Trail :=
  if u.ok && decide (64 ≤ sl.issue) && decide (sl.issue ≤ 8127) && decide (x.last ≤ sl.issue) && decide (x.ports.get 0 u.port ≤ sl.issue) &&
      decide (max (sl.issue + u.occ) u.fin ≤ 8128) && x.unitsOk first op sl u && x.readsOk first sl u then
    let y := { x with
      last := sl.issue, ports := x.ports.set u.port (sl.issue + u.occ), writes := x.writes ++ u.writes
      regs := u.wregs.foldl (fun t r => t.set r.1 r.2) x.regs }
    some <| match op with
      | 0x01 => { y with other := some sl.fa, shadow := sl.issue + u.occ }
      | 0x02 => { y with inUse := x.other, other := x.inUse }
      | 0x03 =>
        let k := if sl.fb = 4 then 2 else 1
        { y with
          rows := (List.range sl.len).foldl (fun t i => t.set (sl.aux % 512 + i) (sl.issue + k * i + 96)) y.rows
          kinds := (List.range sl.len).foldl (fun t i => t.set (sl.aux % 512 + i) (if sl.fb < 2 then 6 else 7)) y.kinds }
      | _ => y
  else none

/-- The slots of a program that decode, in order. -/
def slotsOf (prog : List Nat) : List (Option (Nat × Slot)) := prog.map slotDecode

/-- The program of a core at a job step. -/
def BindDef.progAt (b : BindDef) (j : Nat) : Nat := b.map.getD (j % b.map.length) 0

/-- Everything a core writes at a job step: to its own worker, and to peers over its links. -/
def Sched.writesAt (x : Sched) (b : BindDef) (j : Nat) : List Touch :=
  (slotsOf (b.progs.getD (b.progAt j) [])).flatMap fun o =>
    match o with
    | some (op, sl) => (x.slotUse b j op sl).writes
    | none => []

/-- The slots of a step taken in order; the number of the first that breaks a check. -/
def Sched.runSlots (x : Sched) (b : BindDef) (j : Nat) (first : Bool) : Nat → List (Option (Nat × Slot)) → Trail → Nat ⊕ Trail
  | _, [], t => .inr t
  | k, none :: _, _ => .inl k
  | k, some (op, sl) :: rest, t =>
    match t.slot first op sl (x.slotUse b j op sl) with
    | none => .inl k
    | some t' => x.runSlots b j first (k + 1) rest t'

/-- Job steps over which a core's checks repeat: the step map, the wraps and the stride, up to 65,536. -/
def BindDef.period (b : BindDef) (stride : Nat) : Nat :=
  min 65536 ((b.aregs.filter fun r => r.wrap != 0).foldl (fun p r => Nat.lcm p r.wrap) (Nat.lcm b.map.length stride))

/-- The stride of a group. -/
def Sched.stride (x : Sched) (g : Nat) : Nat := ((x.groups.find? fun d => d.gid == g).map (·.stride)).getD 8

/-- The steps of a core checked from job step `j` on: the program and slot of the first break. -/
def Sched.runSteps (x : Sched) (b : BindDef) : Nat → Nat → Trail → Option (Nat × Nat)
  | 0, _, _ => none
  | n + 1, j, t =>
    let first := j % x.stride b.gid == 0
    let others := (x.binds.filter fun c => c.gid == b.gid && !(c.w == b.w && c.core == b.core)).flatMap fun c =>
      (x.writesAt c j).filter fun w => w.w == b.w
    let t0 : Trail :=
      { last := 64, ports := Tab.empty, writes := others, regs := Tab.empty, rows := Tab.empty, shadow := 0
        kinds := if first then Tab.empty else t.kinds, inUse := if first then none else t.inUse, other := if first then none else t.other }
    let p := b.progAt j
    match x.runSlots b j first 0 (slotsOf (b.progs.getD p [])) t0 with
    | .inl k => some (p, k)
    | .inr t' => x.runSteps b n (j + 1) t'

/-- The first slot of a core that breaks a check of Table 5.8 within its core. -/
def Sched.coreBreak (x : Sched) (b : BindDef) : Option (Nat × Nat) :=
  x.runSteps b (b.period (x.stride b.gid)) 0
    { last := 64, ports := Tab.empty, writes := [], regs := Tab.empty, rows := Tab.empty, shadow := 0, kinds := Tab.empty, inUse := none
      other := none }

/-- The sends of a core's program: slot number, port, issue cycle and occupancy. -/
def Sched.sendsOf (x : Sched) (b : BindDef) (p : Nat) : List (Nat × Nat × Nat × Nat) :=
  (slotsOf (b.progs.getD p [])).zipIdx.filterMap fun o =>
    match o.1 with
    | some (op, sl) =>
      if op = 0x40 ∨ op = 0x41 then
        let u := x.slotUse b 0 op sl
        some (o.2, u.port, sl.issue, u.occ)
      else none
    | none => none

/-- Two programs of two cores may run in one frame: at one step of their group, or, in different groups, at any time. -/
def BindDef.together (b c : BindDef) (p q : Nat) : Bool :=
  if b.gid = c.gid then (List.range (Nat.lcm b.map.length c.map.length)).any fun j => b.progAt j == p && c.progAt j == q
  else b.map.contains p && c.map.contains q

/-- The first send of a core whose link or port an earlier core of the worker occupies (Table 5.8). -/
def Sched.portBreak (x : Sched) (b : BindDef) : Option (Nat × Nat) :=
  let before := (x.binds.takeWhile fun c => !(c.w == b.w && c.core == b.core)).filter fun c => c.w == b.w
  (List.range b.progs.length).findSome? fun p =>
    (x.sendsOf b p).findSome? fun s =>
      if before.any fun c => (List.range c.progs.length).any fun q =>
          b.together c p q && (x.sendsOf c q).any fun o =>
            o.2.1 == s.2.1 && decide (o.2.2.1 < s.2.2.1 + s.2.2.2) && decide (s.2.2.1 < o.2.2.1 + o.2.2.2)
      then some (p, s.1) else none

/-- L of a group from the largest budget declared on its barrier circuits (R48). -/
def Sched.lBudget (x : Sched) (g : Nat) : Nat :=
  let ws := x.groupWorkers g
  let mine := fun (q : Nat) => match x.fit.wireWorker q with | some w => ws.contains w | none => false
  ceilDiv (((x.circs.filter fun c => c.flags.testBit 0 && mine c.src && mine c.dst).map (·.budget)).foldl max 0) (64 * 8192) + 2

/-- What a core sends over circuits at a job step: the ranges written at the receiving workers. -/
def Sched.opticalAt (x : Sched) (b : BindDef) (j : Nat) : List Touch :=
  (slotsOf (b.progs.getD (b.progAt j) [])).flatMap fun o =>
    match o with
    | some (op, sl) => if op = 0x41 then [x.touch (b.operand j sl.ay sl.oy) sl.issue 0 (256 * sl.len)] else []
    | none => []

/-- Job steps over which the checks of a group repeat: all its cores' step maps and wraps, and `unit` steps; up to 65,536. -/
def Sched.jointPeriod (x : Sched) (g unit : Nat) : Nat :=
  min 65536 ((x.binds.filter fun c => c.gid == g).foldl (fun p c => Nat.lcm p (c.period unit)) unit)

/-- The first read of a core that falls before the barrier that covers what it reads completes, by L_budget (R50). -/
def Sched.readBreak (x : Sched) (b : BindDef) : Option (Nat × Nat) :=
  let stride := x.stride b.gid
  let l := x.lBudget b.gid
  let peers := x.binds.filter fun c => c.gid == b.gid
  (List.range (x.jointPeriod b.gid stride + stride + l)).findSome? fun j =>
    let p := b.progAt j
    let from_ := (j - l) / stride * stride
    let sent := (List.range (j + 1 - from_)).flatMap fun i =>
      if j < ((from_ + i) / stride + 1) * stride + l then peers.flatMap fun c => x.opticalAt c (from_ + i) else []
    if sent.isEmpty then none
    else (slotsOf (b.progs.getD p [])).zipIdx.findSome? fun o =>
      match o.1 with
      | some (0x30, sl) => if ((x.slotUse b j 0x30 sl).reads.any fun r => sent.any r.meets) then some (p, o.2) else none
      | _ => none

/-! ## The author rules of replay (R359) -/

/-- Strides of a group's mirror interval (R360); `none` without mirrors. -/
def GroupDef.mirrorEvery (g : GroupDef) : Option Nat :=
  if g.mirror = 0xFFFF then none else if g.mirror = 0 then some 64 else some g.mirror

/-- A job stride is a mirror stride (R360). -/
def isMirrorStride (m : Option Nat) (i : Nat) : Bool := match m with | some m => (i + 1) % m == 0 | none => false

/-- The mirror interval of a group of the image. -/
def Sched.mirrorEvery (x : Sched) (g : Nat) : Option Nat := (x.groups.find? fun d => d.gid == g).bind (·.mirrorEvery)

/-- The cores bound for a group. -/
def Sched.team (x : Sched) (g : Nat) : List BindDef := x.binds.filter fun b => b.gid == g

/-- The tier ranges that the slots of a core write at a job step, over its own channels or over circuits: program, slot and range. -/
def Sched.tierWrites (x : Sched) (b : BindDef) (j : Nat) : List ((Nat × Nat) × Touch) :=
  let p := b.progAt j
  (slotsOf (b.progs.getD p [])).zipIdx.flatMap fun o =>
    match o.1 with
    | some (op, sl) =>
      if op = 0x31 then (x.slotUse b j op sl).writes.map fun t => ((p, o.2), t)
      else if op = 0x41 then [((p, o.2), x.touch (b.operand j sl.ay sl.oy) sl.issue 0 (256 * sl.len))]
      else []
    | none => []

/-- The tier ranges that the slots of a core read at a job step. -/
def Sched.tierReads (x : Sched) (b : BindDef) (j : Nat) : List ((Nat × Nat) × Touch) :=
  let p := b.progAt j
  (slotsOf (b.progs.getD p [])).zipIdx.flatMap fun o =>
    match o.1 with
    | some (op, sl) => if op = 0x30 then (x.slotUse b j op sl).reads.map fun t => ((p, o.2), t) else []
    | none => []

/-- What a read leaves that its own stride has not written before it: the writes of earlier steps of the stride are all ready, those of
its own step by their cycle. -/
def Sched.readFirst (x : Sched) (g stride j : Nat) (r : Touch) : List Touch :=
  let earlier := (List.range (j % stride)).flatMap fun i =>
    (x.team g).flatMap fun c => (x.tierWrites c (j - j % stride + i)).filterMap fun t => if t.2.ready = 0 then none else some { t.2 with ready := 0 }
  let now := (x.team g).flatMap fun c => (x.tierWrites c j).filterMap fun t => if t.2.ready = 0 then none else some t.2
  (r.leftBy (earlier ++ now)).map fun p =>
    { r with lo := p.1, len := p.2, homeLo := if r.arg.isSome then r.homeLo else p.1, homeLen := if r.arg.isSome then r.homeLen else p.2 }

/-- The ranges that a stride reads before it writes them, by the cores of a group. -/
def Sched.strideReads (x : Sched) (g stride i : Nat) : List Touch :=
  (List.range stride).flatMap fun k =>
    (x.team g).flatMap fun c => (x.tierReads c (i * stride + k)).flatMap fun r => x.readFirst g stride (i * stride + k) r.2

/-- A range that a stride reads first meets a condition of R359's second rule: an earlier stride after the last mirror stride wrote it, it
lies in the worker's checkpoint region, or the group never writes it. -/
def Sched.firstReadOk (x : Sched) (g stride period i : Nat) (r : Touch) : Bool :=
  let m := x.mirrorEvery g
  let since := ((List.range i).reverse.takeWhile fun k => !isMirrorStride m k).flatMap fun k =>
    (List.range stride).flatMap fun n => (x.team g).flatMap fun c => (x.tierWrites c (k * stride + n)).map fun t => { t.2 with ready := 0 }
  let checkpoint := x.regions.find? fun d => d.w == r.w && d.use == 2 && d.owner == x.owner g
  (r.leftBy since).isEmpty ||
    (match checkpoint with
      | some d => d.space == r.space && decide (d.base ≤ r.homeLo) && decide (r.homeLo + r.homeLen ≤ d.base + d.size)
      | none => false) ||
    (List.range period).all fun n => (x.team g).all fun c => (x.tierWrites c n).all fun t => !t.2.meets r

/-- The first slot of a core that breaks an author rule of R359: a write, in a stride or before its barrier has completed, to a range that
the stride reads first; or such a read that meets no condition. -/
def Sched.authorBreak (x : Sched) (b : BindDef) : Option (Nat × Nat) :=
  let g := b.gid
  let stride := x.stride g
  let l := x.lBudget g
  let unit := match x.mirrorEvery g with | some m => m * stride | none => stride
  let period := x.jointPeriod g unit
  (List.range (period + stride + l)).findSome? fun j =>
    let open_ := (List.range (j / stride + 1)).filter fun i => decide (j < (i + 1) * stride + l)
    ((x.tierWrites b j).findSome? fun t =>
      if open_.any fun i => (x.strideReads g stride i).any t.2.meets then some t.1 else none).orElse
    fun _ => (x.tierReads b j).findSome? fun t =>
      if (x.readFirst g stride j t.2).all (x.firstReadOk g stride period (j / stride)) then none else some t.1

/-- The first slot of a core that breaks a check of validation step 15. -/
def Sched.breakOf (x : Sched) (b : BindDef) : Option (Nat × Nat) :=
  (((x.coreBreak b).orElse fun _ => x.portBreak b).orElse fun _ => x.readBreak b).orElse fun _ => x.authorBreak b

/-! ## The mirror rules that schedules keep (R360) -/

/-- The checkpoint and holding banks of a worker of a group: its USE = 2 regions of the owner, in MEMORY entry order. -/
def Sched.mirrorRegions (x : Sched) (g w : Nat) : List RegionDef := x.regions.filter fun r => r.w == w && r.use == 2 && r.owner == x.owner g

/-- The MIRROR circuit of a worker. -/
def Sched.mirrorCirc (x : Sched) (w : Nat) : Option CircDef :=
  x.circs.find? fun c => c.flags.testBit 1 && x.fit.wireWorker c.src == some w

/-- A line of a send holds the line of C at the same relative offset: a read of the core put it there in the stride, up to the step of the
send. -/
def BindDef.carries (b : BindDef) (stride j srcLo cLine : Nat) (c : RegionDef) : Bool :=
  (List.range (j % stride + 1)).any fun i =>
    (slotsOf (b.progs.getD (b.progAt (j - i)) [])).any fun o =>
      match o with
      | some (0x30, sl) =>
        let from_ := b.operand (j - i) sl.ax sl.ox
        let into := b.operand (j - i) sl.ay sl.oy
        from_.2.isNone && into.2.isNone && addrSpace from_.1 == c.space && addrWorker from_.1 == c.w &&
          (List.range sl.len).any fun k => addrOffset from_.1 + 64 * k == cLine && addrOffset into.1 + 64 * k == srcLo
      | _ => false

/-- The lines of C, by number, that a worker sends in job stride `i` over its MIRROR circuit into a bank, at the same relative offsets. -/
def Sched.mirrorSent (x : Sched) (g w i : Nat) (cid : Nat) (c h : RegionDef) : List Nat :=
  let stride := x.stride g
  (List.range stride).flatMap fun n =>
    let j := i * stride + n
    ((x.team g).filter fun b => b.w == w).flatMap fun b =>
      (slotsOf (b.progs.getD (b.progAt j) [])).flatMap fun o =>
        match o with
        | some (0x41, sl) =>
          let src := b.operand j sl.ax sl.ox
          let dst := b.operand j sl.ay sl.oy
          if sl.aux % 4096 = cid ∧ src.2 = none ∧ dst.2 = none ∧ addrSpace dst.1 = h.space ∧ addrWorker dst.1 = h.w then
            (List.range (4 * sl.len)).filterMap fun k =>
              let at_ := addrOffset dst.1 + 64 * k
              if h.base ≤ at_ ∧ at_ < h.base + h.size ∧ b.carries stride j (addrOffset src.1 + 64 * k) (c.base + (at_ - h.base)) c then
                some ((at_ - h.base) / 64)
              else none
          else []
        | _ => []

/-- The schedules of a group with a mirror interval keep R360: C is written only in mirror strides, and mirror stride number n sends the
whole of C over the MIRROR circuit into bank H(n mod 2) at the same relative offsets. -/
def Sched.mirrorKept (x : Sched) (g : Nat) : Bool :=
  match x.mirrorEvery g with
  | none => true
  | some m =>
    let stride := x.stride g
    let period := (x.team g).foldl (fun p c => Nat.lcm p (c.period stride)) (2 * m * stride)
    (x.groupWorkers g).all fun w =>
      match x.mirrorRegions g w, x.mirrorCirc w with
      | c :: _, some way =>
        let whole : Touch :=
          { issue := 0, ready := 0, w := w, space := c.space, lo := c.base, len := c.size, arg := none, homeLo := c.base, homeLen := c.size }
        ((List.range period).all fun j =>
          isMirrorStride (some m) (j / stride) || (x.team g).all fun b => (x.tierWrites b j).all fun t => !t.2.meets whole) &&
        match x.fit.wireWorker way.dst with
        | none => false
        | some d =>
          (List.range (period / (m * stride))).all fun n =>
            match (x.mirrorRegions g d)[1 + n % 2]? with
            | none => false
            | some h =>
              let sent := x.mirrorSent g w ((n + 1) * m - 1) way.cid c h
              (List.range (c.size / 64)).all sent.contains
      | _, _ => false

end Sys2Proof.Machine
end

