-- ==== Sys2Proof/Machine/ImageParts.lean ====
section
/-! DEFINITION. Validation of a Tilquesy image (chapter 4): the checks of Table 4.6 in their order, each with the code, the section and
the byte at which it fails, and the image read into its parts. -/

namespace Sys2Proof.Machine

/-- A rejection (R97): the code, the index of the section-table entry (FFFFh for the header and the table), the byte offset. -/
abbrev Reject := Nat × Nat × Nat

/-- The header or the table. -/
def inHeader : Nat := 0xFFFF

/-- The first check of a list that does not hold. -/
def firstBad (l : List (Bool × Reject)) : Option Reject := (l.find? fun c => !c.1).map (·.2)

/-- The first rejection of a list of checks. -/
def firstReject {α : Type} (l : List α) (f : α → Option Reject) : Option Reject := l.findSome? f

/-- A section: its place in the table and its entry (Table 4.2), and its bytes. -/
structure Sect where
  idx   : Nat
  typ   : Nat
  inst  : Nat
  flags : Nat
  off   : Nat
  len   : Nat
  entry : List Byte
  bytes : List Byte
  deriving DecidableEq, Repr

/-- A field of a section. -/
def Sect.field (x : Sect) (ofs n : Nat) : Nat := fieldLE x.bytes ofs n

/-- Sections of an image by its SECTIONS field. -/
def imageSects (b : List Byte) : List Sect :=
  (List.range (fieldLE b 0x1C 2)).map fun i =>
    let e := (b.drop (256 + 80 * i)).take 80
    let off := fieldLE e 8 8
    let len := fieldLE e 0x10 8
    { idx := i, typ := fieldLE e 0 2, inst := fieldLE e 2 2, flags := fieldLE e 4 4, off := off, len := len, entry := e
      bytes := (b.drop off).take len }

/-- Sections of a type. -/
def ofType (ss : List Sect) (t : Nat) : List Sect := ss.filter fun x => x.typ == t

/-- KIND of an image (Table 4.1). -/
def imageKind (b : List Byte) : Nat := fieldLE b 0x18 1

/-! ## Checks 1 to 5: header and table (R82 to R84) -/

/-- What HDR_DIGEST covers (R83). -/
def headerSpan (b : List Byte) : List Byte := b.take 0x50 ++ (b.drop 256).take (80 * fieldLE b 0x1C 2)

/-- Checks 1 to 4 of Table 4.6. -/
def checkHeader (b : List Byte) : Option Reject :=
  firstBad
    [(fieldLE b 0 4 == 0x4D495154, (0x01, inHeader, 0)), (fieldLE b 4 2 == 1, (0x02, inHeader, 4)),
     (fieldLE b 6 2 == 0x100, (0x02, inHeader, 6)),
     (decide (256 ≤ b.length) && fieldLE b 8 8 == b.length && decide (b.length ≤ 0x20000000), (0x03, inHeader, 8)),
     (fieldLE b 0x10 8 != 0, (0x03, inHeader, 0x10))]

/-- HDR_DIGEST is right. -/
def checkHeaderDigest (b : List Byte) : Option Reject :=
  if sha3_384 (headerSpan b) = (b.drop 0x50).take 48 then none else some (0x04, inHeader, 0x50)

/-- One entry of the section table: reserved bits and bytes, alignment, bounds, and no overlap with an earlier one. -/
def checkEntry (b : List Byte) (ss : List Sect) (x : Sect) : Option Reject :=
  let bad := fun (o : Nat) => (0x05, x.idx, o)
  firstBad
    [(decide (x.flags ≤ 1), bad 4), (zeroAt x.entry 0x18 8, bad 0x18),
     (x.off % 4096 == 0 && decide (256 + 80 * fieldLE b 0x1C 2 ≤ x.off), bad 8),
     (decide (16 ≤ x.len) && decide (x.off + x.len ≤ b.length), bad 0x10),
     ((ss.take x.idx).all fun y => decide (x.off + x.len ≤ y.off) || decide (y.off + y.len ≤ x.off), bad 8)]

/-- Check 5 of Table 4.6, with the reserved bytes of the header (R83). -/
def checkTable (b : List Byte) (ss : List Sect) : Option Reject :=
  let bad := fun (o : Nat) => (0x05, inHeader, o)
  let n := fieldLE b 0x1C 2
  ((firstBad
    [(zeroAt b 0x1E 2, bad 0x1E), (zeroAt b 0x29 39, bad 0x29), (fieldLE b 0x1A 2 / 16 == 0, bad 0x1A),
     (decide (1 ≤ n) && decide (n ≤ 1024) && decide (256 + 80 * n ≤ b.length), bad 0x1C)]).orElse
    fun _ => firstReject ss (checkEntry b ss)).orElse
    fun _ => firstBad [((ss.map fun x => x.off + x.len).foldl max 0 == b.length, bad 8)]

/-! ## Checks 6 to 10 -/

/-- What fails of a SIGNATURE section under R94, as the offset of its field: the key ID is not registered, the length is wrong, or the
signature does not verify. -/
def State.signatureFault (s : State) (b : List Byte) (x : Sect) : Option Nat :=
  match s.owners.pubkeys.find? fun k => k.1 == x.field 0 16 with
  | none => some 0
  | some k =>
    if x.field 16 2 ≠ 3309 ∨ x.len < 18 + 3309 then some 16
    else if mlDsaVerify k.2 ((b.drop 0x50).take 48) ((x.bytes.drop 18).take 3309) then none else some 18

/-- Check 6 of Table 4.6 (R94). -/
def State.checkSignature (s : State) (b : List Byte) (ss : List Sect) : Option Reject :=
  if !s.fit.sig then none
  else match ofType ss 8 with
    | [] => if s.mgr.imgPolReqSig then some (0x07, inHeader, 0x50) else none
    | l => firstReject l fun x => (s.signatureFault b x).map fun o => (0x07, x.idx, o)

/-- Check 7 of Table 4.6. -/
def checkDigests (ss : List Sect) : Option Reject :=
  firstReject ss fun x => if sha3_384 x.bytes = (x.entry.drop 0x20).take 48 then none else some (0x06, x.idx, 0)

/-- The unit of a LOOP section (Table 4.3). -/
def loopUnit (inst : Nat) : Option Engine :=
  if inst ≤ 103 then some (.tile inst)
  else if 0x100 ≤ inst ∧ inst < 0x100 + 35 then some (.module (inst - 0x100))
  else if 0x8000 ≤ inst ∧ inst < 0x8100 ∧ inst % 32 ≤ 16 then some (.ring (inst - 0x8000))
  else none

/-- An instance is in the range of its type (Table 4.3, R85). -/
def instanceOk (kind : Nat) (x : Sect) : Bool :=
  if x.typ = 3 then decide (x.inst ≤ 103)
  else if x.typ = 4 ∨ x.typ = 5 then decide (x.inst < 256) && decide (x.inst % 32 ≤ 16)
  else if x.typ = 7 then match loopUnit x.inst with | some (.tile _) => true | some _ => kind == 0 | none => false
  else if x.typ = 9 then true
  else x.inst == 0

/-- Types that an image of a kind may hold (Table 4.3). -/
def typesOf (kind : Nat) : List Nat :=
  if kind = 0 then [1, 2, 3, 4, 5, 6, 7, 8, 9] else if kind = 1 then [2, 3, 7, 8, 9] else [6, 8, 9]

/-- Types that an image of a kind must hold. -/
def neededTypes (kind : Nat) : List Nat := if kind = 0 then [1, 6] else if kind = 1 then [2] else [6]

/-- One section against Table 4.3 and R86. -/
def checkSect (kind : Nat) (ss : List Sect) (x : Sect) : Option Reject :=
  if x.typ = 0 ∨ 9 < x.typ then (if x.flags = 1 then none else some (0x09, x.idx, 0))
  else firstBad
    [((typesOf kind).contains x.typ, (0x09, x.idx, 0)), (instanceOk kind x, (0x09, x.idx, 2)),
     (x.typ == 9 || (ss.take x.idx).all fun y => !(y.typ == x.typ && y.inst == x.inst), (0x09, x.idx, 2))]

/-- Check 8 of Table 4.6: the section set. -/
def State.checkSet (s : State) (b : List Byte) (ss : List Sect) : Option Reject :=
  let kind := imageKind b
  let mask := fieldLE b 0x28 1
  let insts := fun (t : Nat) => (ofType ss t).map (·.inst)
  let hasCircs := !(ofType ss 2).isEmpty
  if 2 < kind then some (0x09, inHeader, 0x18)
  else
    ((firstReject ss (checkSect kind ss)).orElse fun _ => firstBad
      [((neededTypes kind).all fun t => !(ofType ss t).isEmpty, (0x09, inHeader, 0x1C)),
       (hasCircs || (ofType ss 3).isEmpty, (0x09, ((ofType ss 3).head?.map (·.idx)).getD 0, 0)),
       (!hasCircs || s.fit.tiles.all (insts 3).contains, (0x09, inHeader, 0x1C))]).orElse
    fun _ => firstReject (ss.filter fun x => x.typ == 4 || x.typ == 5) fun x =>
      if (insts (9 - x.typ)).contains x.inst && mask.testBit (x.inst / 32) then none else some (0x09, x.idx, 2)

/-- Check 9 of Table 4.6 (R4, R14, R16). -/
def State.checkCap (s : State) (b : List Byte) (ss : List Sect) : Option Reject :=
  let f := s.fit
  let needs := fieldLE b 0x1A 2
  (firstBad
    [(fieldLE b 0x19 1 == f.variantCode, (stCapMismatch, inHeader, 0x19)),
     ((!needs.testBit 0 || f.tierB) && (!needs.testBit 1 || f.lacewing) && (!needs.testBit 2 || f.lacewing) && (!needs.testBit 3 || f.strict),
       (stCapMismatch, inHeader, 0x1A)),
     (decide (fieldLE b 0x28 1 < 2 ^ f.sleds), (stCapMismatch, inHeader, 0x28))]).orElse
  fun _ => firstReject ss fun x =>
    if x.typ = 2 then (if f.lacewing then none else some (stCapMismatch, x.idx, 0))
    else
      let ok := if x.typ = 3 then f.tileOk x.inst else if x.typ = 4 ∨ x.typ = 5 then f.workerOk x.inst
        else if x.typ = 7 then (match loopUnit x.inst with | some e => f.engineOk e | none => false) else true
      if ok then none else some (stCapMismatch, x.idx, 2)

/-- The ID of the active full image; 0 where there is none. -/
def State.activeId (s : State) : Nat := match s.img.active with | some i => i.id | none => 0

/-- BASE_ID fits the active image (R104, R105): full images name none. -/
def State.baseOk (s : State) (kind base : Nat) : Bool :=
  if kind = 0 then base == 0
  else if kind = 1 then s.img.active.isSome && base == s.activeId
  else base == 0 || (s.img.active.isSome && base == s.activeId)

/-- Check 10 of Table 4.6. -/
def State.checkBase (s : State) (b : List Byte) : Option Reject :=
  if s.baseOk (imageKind b) (fieldLE b 0x20 8) then none else some (0x11, inHeader, 0x20)

/-! ## Check 11: STRUCTURE (R31, R87, R360) -/

/-- GROUPS, FLOWS and WINDOWS of a STRUCTURE section. -/
def structCounts (x : Sect) : Nat × Nat × Nat := (x.field 4 2, x.field 6 2, x.field 8 2)

/-- The job groups of a STRUCTURE section. -/
def structGroups (x : Sect) : List GroupDef :=
  (List.range (structCounts x).1).map fun i =>
    let o := 16 + 16 * i
    { gid := x.field o 1, log2 := x.field (o + 1) 1, mirror := x.field (o + 2) 2, owner := x.field (o + 4) 1
      spareOk := (x.field (o + 5) 1).testBit 0 }

/-- Where the flows begin. -/
def flowsAt (x : Sect) : Nat := 16 + 16 * (structCounts x).1

/-- The flows. -/
def structFlows (x : Sect) : List FlowDef :=
  (List.range (structCounts x).2.1).map fun i =>
    let o := flowsAt x + 8 * i
    { flow := x.field o 2, w := workerCode (x.field (o + 2) 1) (x.field (o + 3) 1), link := x.field (o + 4) 1, gid := x.field (o + 5) 1 }

/-- Where the verify windows begin. -/
def windowsAt (x : Sect) : Nat := flowsAt x + 8 * (structCounts x).2.1

/-- The verify windows. -/
def structWindows (x : Sect) : List WindowDef :=
  (List.range (structCounts x).2.2).map fun i =>
    let o := windowsAt x + 16 * i
    { kind := x.field o 1, unit := x.field (o + 2) 2, gid := x.field (o + 4) 1, period := x.field (o + 6) 2, start := x.field (o + 8) 4
      length := x.field (o + 12) 2 }

/-- One job group entry (Table 4.4). -/
def checkGroup (x : Sect) (i : Nat) (g : GroupDef) : Option Reject :=
  let o := 16 + 16 * i
  let bad := fun (n : Nat) => (0x0A, x.idx, o + n)
  firstBad
    [(decide (g.gid ≤ 31) && ((structGroups x).take i).all fun h => h.gid != g.gid, bad 0), (decide (3 ≤ g.log2) && decide (g.log2 ≤ 10), bad 1),
     (decide (g.mirror ≤ 4096) || g.mirror == 0xFFFF, bad 2), (decide (1 ≤ g.owner) && decide (g.owner ≤ 254), bad 4),
     (decide (x.field (o + 5) 1 ≤ 1), bad 5), (zeroAt x.bytes (o + 6) 10, bad 6)]

/-- One flow entry: its worker is used and has the link (R17, R90), and its number fits a flit's 12-bit ID. -/
def checkFlow (f : Fit) (used : List Nat) (x : Sect) (i : Nat) (d : FlowDef) : Option Reject :=
  let o := flowsAt x + 8 * i
  let bad := fun (n : Nat) => (0x0A, x.idx, o + n)
  firstBad
    [(decide (d.flow ≤ 4095) && ((structFlows x).take i).all fun h => h.flow != d.flow, bad 0),
     (decide (x.field (o + 3) 1 ≤ 16) && f.workerOk d.w && used.contains d.w, bad 2), (decide (d.link < f.links), bad 4),
     ((structGroups x).any fun g => g.gid == d.gid, bad 5), (zeroAt x.bytes (o + 6) 2, bad 6)]

/-- One verify-window entry. -/
def checkWindow (f : Fit) (x : Sect) (i : Nat) (d : WindowDef) : Option Reject :=
  let o := windowsAt x + 16 * i
  let bad := fun (n : Nat) => (0x0A, x.idx, o + n)
  let g := (structGroups x).find? fun g => g.gid == d.gid
  firstBad
    [(d.kind == 1 || d.kind == 2, bad 0),
     (if d.kind = 1 then isMiddle d.unit && f.tileOk d.unit else decide (d.unit < f.workerPorts), bad 2), (g.isSome, bad 4),
     (decide (1 ≤ d.period), bad 6), (decide (d.start < d.period * (match g with | some g => g.stride | none => 1)), bad 8),
     (decide ((if d.kind = 1 then 320 else 64) ≤ d.length), bad 12),
     (zeroAt x.bytes (o + 1) 1 && zeroAt x.bytes (o + 5) 1 && zeroAt x.bytes (o + 14) 2, bad 1)]

/-- No worker is used on a sled whose W16 and that site are both absent (R31). -/
def State.checkAbsent (s : State) (ss : List Sect) : Option Reject :=
  firstReject (ofType ss 4) fun x =>
    if s.fit.absent.contains x.inst && s.fit.absent.contains (workerCode (sledOf x.inst) 16) then some (0x0A, x.idx, 0) else none

/-- The regions of a MEMORY section (R91). -/
def memRegions (x : Sect) : List RegionDef :=
  (List.range (min (x.field 0 4) ((x.len - 16) / 32))).map fun i =>
    let o := 16 + 32 * i
    { w := x.inst, space := x.field o 1, use := x.field (o + 1) 1, owner := x.field (o + 2) 1, base := x.field (o + 4) 8, size := x.field (o + 12) 8
      init := (x.bytes.drop (x.field (o + 20) 4)).take (x.field (o + 24) 4) }

/-- The circuit entries of a CIRCUITS section (Table 4.5). -/
def sectCircs (x : Sect) : List CircDef :=
  (List.range (min (x.field 0 2) ((x.len - 16) / 32))).map fun i =>
    let o := 16 + 32 * i
    { cid := x.field o 2, src := x.field (o + 2) 2, dst := x.field (o + 4) 2, middle := x.field (o + 6) 1, flags := x.field (o + 7) 1
      budget := x.field (o + 8) 4, qclass := x.field (o + 12) 1 }

/-- The circuits of an image. -/
def imageCircs (ss : List Sect) : List CircDef := (ofType ss 2).flatMap sectCircs

/-- Length, group and role of a binding entry. -/
def bindEntry (x : Sect) (l : Nat) : Nat × Nat × Nat := (x.field (16 * l + 4) 4, x.field (16 * l + 8) 1, x.field (16 * l + 9) 1)

/-- The workers that SCHEDULE sections bind for a group. -/
def boundWorkers (ss : List Sect) (g : Nat) : List Nat :=
  ((ofType ss 4).filter fun x => (List.range 48).any fun l => (bindEntry x l).1 != 0 && (bindEntry x l).2.1 == g).map (·.inst)

/-- A bound core of a SCHEDULE section: its section, where its schedule lies, and the offsets of its programs. -/
structure CoreSched where
  idx  : Nat
  base : Nat
  offs : List Nat
  bind : BindDef
  deriving DecidableEq, Repr

/-- Start of the step map, of the address registers, and of the programs of a schedule (Table 5.2). -/
def schedPlaces (c : List Byte) : Nat × Nat × Nat :=
  let dirEnd := 0x20 + 8 * fieldLE c 0 2
  let ar := (dirEnd + fieldLE c 2 2 + 15) / 16 * 16
  (dirEnd, ar, ar + 16 * fieldLE c 4 1)

/-- An address-register entry (Table 5.2). -/
def aregOf (c : List Byte) (o : Nat) : ARegDef :=
  { base := fieldLE c o 8, step := toSigned 32 (fieldLE c (o + 8) 4), wrap := fieldLE c (o + 12) 2, jobRel := (fieldLE c (o + 14) 1).testBit 0
    argSel := fieldLE c (o + 15) 1 }

/-- The schedule of a bound core read into its parts. -/
def coreSched (x : Sect) (l : Nat) : CoreSched :=
  let base := x.field (16 * l) 4
  let c := (x.bytes.drop base).take (x.field (16 * l + 4) 4)
  let p := schedPlaces c
  let progs := (List.range (fieldLE c 0 2)).map fun i => (fieldLE c (0x20 + 8 * i) 4, fieldLE c (0x24 + 8 * i) 2)
  { idx := x.idx, base := base, offs := progs.map (·.1)
    bind :=
      { w := x.inst, core := l, gid := x.field (16 * l + 8) 1, role := x.field (16 * l + 9) 1
        map := (List.range (fieldLE c 2 2)).map fun i => fieldLE c (p.1 + i) 1
        aregs := (List.range (fieldLE c 4 1)).map fun i => aregOf c (p.2.1 + 16 * i)
        progs := progs.map fun q => (List.range q.2).map fun k => fieldLE c (q.1 + 16 * k) 16
        bytes := c } }

/-- The bound cores of a SCHEDULE section. -/
def sectCores (x : Sect) : List CoreSched := ((List.range 48).filter fun l => (bindEntry x l).1 != 0).map (coreSched x)

/-- The bound cores of an image, by worker and core. -/
def imageCores (ss : List Sect) : List CoreSched := (ofType ss 4).flatMap sectCores

/-- What the schedules of an image work on. -/
def State.schedOf (s : State) (ss : List Sect) : Sched :=
  { fit := s.fit, groups := (ofType ss 1).flatMap structGroups, flows := (ofType ss 1).flatMap structFlows, circs := imageCircs ss
    regions := (ofType ss 5).flatMap memRegions, binds := (imageCores ss).map (·.bind) }

/-- The worker that keeps the mirror of a worker of a group: the far end of its one MIRROR circuit (R360). -/
def Fit.mirrorOf (f : Fit) (cs : List CircDef) (w : Nat) : Option Nat :=
  match cs.filter fun c => c.flags.testBit 1 && f.wireWorker c.src == some w with
  | [c] => f.wireWorker c.dst
  | _ => none

/-- The mirror rules of R360 for a group: three USE = 2 regions of the owner, of equal size, H0 and H1 in space 0; one MIRROR circuit to
another sled; the holders one to one. -/
def State.mirrorOk (s : State) (ss : List Sect) (g : GroupDef) : Bool :=
  let ws := boundWorkers ss g.gid
  let cs := imageCircs ss
  let hs := ws.map fun w => s.fit.mirrorOf cs w
  g.mirror == 0xFFFF || (s.fit.lacewing && decide hs.Nodup &&
    ws.all fun w =>
      (match (((ofType ss 5).filter fun x => x.inst == w).flatMap memRegions).filter fun r => r.use == 2 && r.owner == g.owner with
        | [c, h0, h1] => c.size == h0.size && c.size == h1.size && h0.space == 0 && h1.space == 0
        | _ => false) &&
      match s.fit.mirrorOf cs w with | some h => ws.contains h && sledOf h != sledOf w | none => false)

/-- Check 11 of Table 4.6. -/
def State.checkStructure (s : State) (ss : List Sect) : Option Reject :=
  firstReject (ofType ss 1) fun x =>
    let c := structCounts x
    let bad := fun (n : Nat) => (0x0A, x.idx, n)
    let used := (ofType ss 4).map (·.inst)
    (((((firstBad
      [(decide (x.field 0 4 ≤ 1), bad 0), (decide (1 ≤ c.1) && decide (c.1 ≤ 32), bad 4), (decide (c.2.1 ≤ 4096), bad 6),
       (decide (c.2.2 ≤ 16), bad 8), (zeroAt x.bytes 10 6, bad 10), (decide (windowsAt x + 16 * c.2.2 ≤ x.len), bad x.len)]).orElse
      fun _ => firstReject (structGroups x).zipIdx fun g => checkGroup x g.2 g.1).orElse
      fun _ => firstReject (structFlows x).zipIdx fun d => checkFlow s.fit used x d.2 d.1).orElse
      fun _ => firstReject (structWindows x).zipIdx fun d => checkWindow s.fit x d.2 d.1).orElse
      fun _ => s.checkAbsent ss).orElse
      fun _ => firstReject (structGroups x).zipIdx fun g =>
        if s.mirrorOk ss g.1 && (s.schedOf ss).mirrorKept g.1.gid then none else some (bad (16 + 16 * g.2 + 2))

/-! ## Checks 12 and 13: wiring and budgets (R24, R48, R88, R89, R104, R217) -/

/-- The elements of a TILESTATE section. -/
def sectElems (x : Sect) : List Elem :=
  (List.range (tileElems x.inst)).map fun e => { st := x.field (4 * e) 1, codeA := x.field (4 * e + 1) 1, codeB := x.field (4 * e + 2) 1 }

/-- The tiles of an image. -/
def imageTiles (ss : List Sect) : List (Nat × List Elem) := (ofType ss 3).map fun x => (x.inst, sectElems x)

/-- One circuit entry (Table 4.5): earlier entries are `prior`. -/
def Fit.checkCirc (f : Fit) (x : Sect) (i : Nat) (prior : List CircDef) (c : CircDef) : Option Reject :=
  let o := 16 + 32 * i
  let bad := fun (n : Nat) => (0x0B, x.idx, o + n)
  let half := f.variant == .tq8
  let in_ := fun (d : CircDef) => (f.edgeOf d.src).1
  let out := fun (d : CircDef) => (f.edgeOf d.dst).1
  firstBad
    [(decide (c.cid ≤ 4095) && prior.all fun d => d.cid != c.cid, bad 0), (f.lportOk c.src && prior.all fun d => d.src != c.src, bad 2),
     (f.lportOk c.dst && prior.all fun d => d.dst != c.dst, bad 4), (decide (c.middle < f.middles), bad 6), (decide (c.flags ≤ 7), bad 7),
     (decide (c.qclass ≤ 3), bad 12), (zeroAt x.bytes (o + 13) 19, bad 13),
     (!half || decide (((prior.filter fun d => in_ d == in_ c)).length < 16), bad 2),
     (!half || decide (((prior.filter fun d => out d == out c)).length < 16), bad 4)]

/-- One element of a TILESTATE section (R89). -/
def checkElem (x : Sect) (e : Nat) (v : Elem) : Option Reject :=
  let bad := fun (n : Nat) => (0x0B, x.idx, 4 * e + n)
  firstBad
    [(decide (v.st ≤ 3), bad 0), (decide (v.codeA ≤ 63) && (decide (v.st < 2) || v.codeA == 0), bad 1),
     (decide (v.codeB ≤ 63) && (decide (v.st < 2) || v.codeB == 0), bad 2), (x.field (4 * e + 3) 1 == 0, bad 3)]

/-- A wiring of circuits and tiles. -/
def wiringOf (cs : List CircDef) (ts : List (Nat × List Elem)) : Wiring :=
  { ways := cs.map fun c => { cid := c.cid, src := c.src, mid := c.middle, dst := c.dst }
    elems := ⟨(ts.map fun t => (t.1, (⟨t.2.zipIdx.map fun e => (e.2, e.1)⟩ : Tab Elem))).mergeSort fun a b => a.1 ≤ b.1⟩ }

/-- A way reaches DST from SRC through 29 elements (R89): in each of its tiles the path passes every column and leaves at the hop's
output. -/
def Fit.wayTraced (f : Fit) (x : Wiring) (w : Way) : Bool :=
  (f.wayHops w).all fun h =>
    let p := tilePath h.1 (x.tile h.1) (posLink h.1 h.2.1)
    p.length == dieColumns h.1 && (p.getLast?.map (·.2)) == some (posLink h.1 h.2.2)

/-- Elements that lie on a route through a tile. -/
def Fit.onRoutes (f : Fit) (x : Wiring) (t : Nat) : List Nat := routedElems (f.waysOf x t)

/-- Heaters of a tile that share a tap monitor carry different codes (R89, R234). -/
def Fit.codesOk (f : Fit) (x : Wiring) (t h : Nat) : Bool :=
  let routes := f.waysOf x t
  let on := routedElems routes
  let taps : Tab (List Nat) := ⟨on.map fun e => (e, tapsReached t routes e)⟩
  (sharing taps (heatersOf on) h).all fun g => heaterCode (x.tile t) g != heaterCode (x.tile t) h

/-- The elements of a tile against the routes that pass it (R89). -/
def Fit.checkTile (f : Fit) (x : Wiring) (sec : Sect) : Option Reject :=
  let t := sec.inst
  let on := f.onRoutes x t
  (firstReject (sectElems sec).zipIdx fun e =>
    let bad := fun (n : Nat) => (0x0B, sec.idx, 4 * e.2 + n)
    if on.contains e.2 then firstBad [(decide (e.1.st < 2), bad 0), (e.1.codeA != 0, bad 1), (e.1.codeB != 0, bad 2)]
    else firstBad [(decide (2 ≤ e.1.st), bad 0)]).orElse
  fun _ => firstReject (heatersOf on) fun h =>
    if f.codesOk x t h then none else some (0x0B, sec.idx, 4 * (h / 2) + 1 + h % 2)

/-- The circuits that frame programs of an image name. -/
def Image.namedCircs (i : Image) : List Nat :=
  (i.binds.flatMap fun b => b.progs.flatMap fun p => p.filterMap fun v =>
    match slotDecode v with | some (0x41, sl) => some (sl.aux % 4096) | _ => none).dedup

/-- A wiring-only image keeps every circuit that the active schedule names, with its ends and flags (R104). -/
def State.checkNamed (s : State) (x : Sect) : Option Reject :=
  match s.img.active with
  | none => none
  | some i => firstReject i.namedCircs fun c =>
    match i.circs.find? fun d => d.cid == c, (sectCircs x).findIdx? fun d => d.cid == c with
    | some d, some n =>
      let e := ((sectCircs x)[n]?).getD d
      if e.src = d.src ∧ e.dst = d.dst ∧ e.flags = d.flags then none else some (0x0B, x.idx, 16 + 32 * n)
    | _, _ => some (0x0B, x.idx, 0)

/-- Check 12 of Table 4.6. -/
def State.checkWiring (s : State) (b : List Byte) (ss : List Sect) : Option Reject :=
  firstReject (ofType ss 2) fun x =>
    let cs := sectCircs x
    let w := wiringOf cs (imageTiles ss)
    ((((((firstBad
      [(decide (x.field 0 2 ≤ 576) && decide (16 + 32 * x.field 0 2 ≤ x.len), (0x0B, x.idx, 0)), (zeroAt x.bytes 2 14, (0x0B, x.idx, 2))]).orElse
      fun _ => firstReject cs.zipIdx fun c => s.fit.checkCirc x c.2 (cs.take c.2) c.1).orElse
      fun _ => firstReject (ofType ss 3) fun t => if 4 * tileElems t.inst ≤ t.len then none else some (0x0B, t.idx, t.len)).orElse
      fun _ => firstReject (ofType ss 3) fun t => firstReject (sectElems t).zipIdx fun e => checkElem t e.2 e.1).orElse
      fun _ => firstReject w.ways.zipIdx fun v => if s.fit.wayTraced w v.1 then none else some (0x0B, x.idx, 16 + 32 * v.2)).orElse
      fun _ => firstReject (ofType ss 3) (s.fit.checkTile w)).orElse
      fun _ => if imageKind b = 1 then s.checkNamed x else none

/-- Check 13 of Table 4.6: no budget above 13 frames, and L_budget + 2 ≤ S for every group (R48, R217). -/
def Sched.checkBudgets (x : Sched) (sec : Sect) : Option Reject :=
  (firstReject (sectCircs sec).zipIdx fun c => if c.1.budget ≤ 106496 * 64 then none else some (0x0C, sec.idx, 16 + 32 * c.2 + 8)).orElse
  fun _ => firstReject x.groups fun g => if x.lBudget g.gid + 2 ≤ g.stride then none else some (0x0C, sec.idx, 16)

/-! ## Check 14: MEMORY (R91, R147, R166, R180) -/

/-- The end of what a space holds: the tiers of Table 7.1 less the image region, or the offsets of a Mound window. -/
def spaceEnd (space : Nat) : Nat := if space = 0 then imageRegionBase else if space = 1 then 2 ^ 40 else 2 ^ 44

/-- One region entry; earlier ones of the worker are `prior`. -/
def Fit.checkRegion (f : Fit) (x : Sect) (i : Nat) (prior : List RegionDef) (r : RegionDef) : Option Reject :=
  let o := 16 + 32 * i
  let bad := fun (n : Nat) => (0x0E, x.idx, o + n)
  let initOff := x.field (o + 20) 4
  let initLen := x.field (o + 24) 4
  firstBad
    [(r.space == 0 || (r.space == 1 && f.tierB) || r.space == 4, bad 0), (decide (r.use ≤ 3) && (r.space != 4 || r.use == 3), bad 1),
     (decide (r.owner ≤ 254) && (r.use != 3 || r.owner == 0), bad 2), (zeroAt x.bytes (o + 3) 1, bad 3),
     (r.base % 4096 == 0 && decide (r.base + r.size ≤ spaceEnd r.space), bad 4), (r.size % 4096 == 0, bad 12),
     (prior.all fun q => q.space != r.space || decide (r.base + r.size ≤ q.base) || decide (q.base + q.size ≤ r.base), bad 4),
     (r.use != 3 || r.space == 4 || prior.all fun q => q.use != 3 || q.space != r.space, bad 0),
     (initLen == 0 || decide (initOff + initLen ≤ x.len), bad 20), (initLen == 0 || (r.space != 4 && decide (initLen ≤ r.size)), bad 24),
     (zeroAt x.bytes (o + 28) 4, bad 28)]

/-- Check 14 of Table 4.6. -/
def State.checkMemory (s : State) (ss : List Sect) : Option Reject :=
  firstReject (ofType ss 5) fun x =>
    let rs := memRegions x
    let sched := ((ofType ss 4).filter fun y => y.inst == x.inst).map (·.len)
    ((firstBad
      [(decide (x.field 0 4 ≤ 240) && decide (16 + 32 * x.field 0 4 ≤ x.len), (0x0E, x.idx, 0)), (zeroAt x.bytes 4 12, (0x0E, x.idx, 4))]).orElse
      fun _ => firstReject rs.zipIdx fun r => s.fit.checkRegion x r.2 (rs.take r.2) r.1).orElse
      fun _ => if sched.sum + (rs.map fun r => r.init.length).sum ≤ 64 * 2 ^ 20 then none else some (0x0E, x.idx, 0)

/-! ## Check 15: SCHEDULE (R90, R111, R113, R124) -/

/-- One binding entry (R90, R111). -/
def checkBind (groups : List GroupDef) (x : Sect) (l : Nat) : Option Reject :=
  let o := 16 * l
  let bad := fun (n : Nat) => (0x0D, x.idx, o + n)
  let e := bindEntry x l
  let r := zeroAt x.bytes (o + 10) 6
  if e.1 = 0 then firstBad [(r, bad 10), (e.2.1 == 0 && e.2.2 == 0, bad 8)]
  else firstBad
    [(r, bad 10), (groups.any fun g => g.gid == e.2.1, bad 8), (e.2.2 != 255, bad 9), (decide (e.1 ≤ 0x100000), bad 4),
     (decide (x.field o 4 + e.1 ≤ x.len), bad 0)]

/-- The layout of a core schedule (Table 5.2). -/
def checkLayout (k : CoreSched) : Option Reject :=
  let c := k.bind.bytes
  let bad := fun (n : Nat) => (0x0D, k.idx, k.base + n)
  let n := fieldLE c 0 2
  let m := fieldLE c 2 2
  let p := schedPlaces c
  ((((firstBad
    [(decide (32 ≤ c.length) && decide (1 ≤ n) && decide (n ≤ 256), bad 0),
     (decide (1 ≤ m) && decide (m ≤ 4096) && 2 ^ Nat.log2 m == m, bad 2), (decide (fieldLE c 4 1 ≤ 16), bad 4), (zeroAt c 5 27, bad 5),
     (decide (p.2.2 ≤ c.length), bad 0x20)]).orElse
    fun _ => firstReject k.bind.map.zipIdx fun e => if e.1 < n then none else some (bad (p.1 + e.2))).orElse
    fun _ => firstReject (List.range (p.2.1 - p.1 - m)) fun i => if zeroAt c (p.1 + m + i) 1 then none else some (bad (p.1 + m + i))).orElse
    fun _ => firstReject k.bind.aregs.zipIdx fun r =>
      let o := p.2.1 + 16 * r.2
      firstBad [(r.1.step % 64 == 0, bad (o + 8)), (decide (fieldLE c (o + 14) 1 ≤ 1), bad (o + 14)), (decide (r.1.argSel ≤ 15), bad (o + 15))]).orElse
    fun _ => firstReject (List.range n) fun i =>
      let o := 0x20 + 8 * i
      let off := fieldLE c o 4
      let slots := fieldLE c (o + 4) 2
      firstBad [(zeroAt c (o + 6) 2, bad (o + 6)), (decide (slots ≤ 2048) && decide (p.2.2 ≤ off) && decide (off + 16 * slots ≤ c.length), bad o)]

/-- Every slot of a core decodes (R113). -/
def checkSlots (k : CoreSched) : Option Reject :=
  firstReject k.bind.progs.zipIdx fun p => firstReject p.1.zipIdx fun v =>
    if (slotDecode v.1).isSome then none else some (0x0D, k.idx, k.base + k.offs.getD p.2 0 + 16 * v.2)

/-- The timing of a core's slots (R124). -/
def Sched.checkTiming (x : Sched) (k : CoreSched) : Option Reject :=
  (x.breakOf k.bind).map fun b => (0x0D, k.idx, k.base + k.offs.getD b.1 0 + 16 * b.2)

/-- What the schedules of the base image work on, with the circuits of a wiring-only image (R104). -/
def State.baseSched (s : State) (ss : List Sect) : Sched :=
  match s.img.active with
  | none => s.schedOf ss
  | some i => { fit := s.fit, groups := i.groups, flows := i.flows, circs := imageCircs ss, regions := i.regions, binds := i.binds }

/-- Check 15 of Table 4.6 on a full image. -/
def State.checkSchedule (s : State) (ss : List Sect) : Option Reject :=
  let x := s.schedOf ss
  (firstReject (ofType ss 4) fun sec =>
    ((if 768 ≤ sec.len then none else some (0x0D, sec.idx, sec.len)).orElse
      fun _ => firstReject (List.range 48) (checkBind x.groups sec)).orElse
      fun _ => firstReject (sectCores sec) fun k => (checkLayout k).orElse fun _ => checkSlots k).orElse
  fun _ => firstReject (imageCores ss) x.checkTiming

/-- Check 15 of a wiring-only image, on the base image's schedules (R104): a read that its budgets make fall too early. -/
def Sched.checkRebased (x : Sched) (sec : Sect) : Option Reject :=
  if x.binds.any fun b => (x.readBreak b).isSome then some (0x0D, sec.idx, 0) else none

/-! ## Checks 16 and 17 -/

/-- The words of a SCARAB section (R92). -/
def scarabWords (x : Sect) : List Nat := (List.range (min (x.field 0 4) ((x.len - 16) / 4))).map fun i => x.field (16 + 4 * i) 4

/-- A program as it stands in a bank: NOP beyond its words. -/
def bankOf (words : List Nat) : Tab Nat := ⟨(words.zipIdx.map fun w => (w.2, w.1)).filter fun c => c.2 != 0⟩

/-- Check 16 of Table 4.6 (R92, R309, R310). -/
def checkScarab (ss : List Sect) : Option Reject :=
  firstReject (ofType ss 6) fun x =>
    let ws := scarabWords x
    ((firstBad
      [(decide (x.field 0 4 ≤ 16384) && decide (16 + 4 * x.field 0 4 ≤ x.len), (0x0F, x.idx, 0)), (decide (x.field 4 1 ≤ 1), (0x0F, x.idx, 4)),
       (zeroAt x.bytes 5 11, (0x0F, x.idx, 5))]).orElse
      fun _ => firstReject ws.zipIdx fun w => if (scarabDecode w.1).isSome then none else some (0x0F, x.idx, 16 + 4 * w.2)).orElse
      fun _ => if bankOk (bankOf ws) then none else some (0x0F, x.idx, 16)

/-- The bytes of a record of a LOOP section (R284). -/
def loopBytes (x : Sect) (i : Nat) : List Byte := (x.bytes.drop (16 + 48 * i)).take 48

/-- The records of a LOOP section. -/
def sectLoops (x : Sect) : List LoopRec := (List.range (min (x.field 0 2) ((x.len - 16) / 48))).map fun i => LoopRec.ofBytes (loopBytes x i)

/-- KIND of a LOOP section of an engine (R284). -/
def loopKind : Engine → Nat
  | .tile _ => 0
  | .module _ => 1
  | .ring _ => 2

/-- One record of a LOOP section (R285). -/
def checkLoop (e : Engine) (routed : List Nat) (x : Sect) (i : Nat) (prior : List LoopRec) (r : LoopRec) : Option Reject :=
  let o := 16 + 48 * i
  let bad := fun (n : Nat) => (0x10, x.idx, o + n)
  firstBad
    [(decide (r.cell < engineCells e) && prior.all fun q => q.cell != r.cell, bad 0), (loopRecReserved (loopBytes x i), bad 2),
     (r.order3 || r.a3 == 0, bad 0x0A), (r.order3 || r.b3 == 0, bad 0x16), (decide (r.a1.natAbs + r.a2.natAbs + r.a3.natAbs ≤ 2 ^ 20), bad 4),
     (decide (r.umin ≤ r.umax), bad 0x1E), (decide (r.umax ≤ 50000), bad 0x20),
     (decide (r.dither ≤ (match e with | .tile _ => 2000 | .module _ => 0 | .ring _ => 200)), bad 0x1C),
     ((match e with | .tile _ => r.dither != 0 || !routed.contains (r.cell / 2) | _ => true), bad 0x1C),
     (decide (r.locktol ≤ r.emax), bad 0x27)]

/-- Check 17 of Table 4.6 (R284, R285). -/
def State.checkLoops (s : State) (ss : List Sect) : Option Reject :=
  let w := wiringOf (imageCircs ss) (imageTiles ss)
  firstReject (ofType ss 7) fun x =>
    match loopUnit x.inst with
    | none => none
    | some e =>
      let rs := sectLoops x
      let routed := match e with | .tile t => s.fit.onRoutes w t | _ => []
      (firstBad
        [(decide (16 + 48 * x.field 0 2 ≤ x.len), (0x10, x.idx, 0)), (x.field 2 1 == loopKind e, (0x10, x.idx, 2)),
         (zeroAt x.bytes 3 13, (0x10, x.idx, 3))]).orElse
        fun _ => firstReject rs.zipIdx fun r => checkLoop e routed x r.2 (rs.take r.2) r.1

/-! ## The whole validation (R96) -/

/-- Checks 11 to 17 as they apply to a kind of image. -/
def State.checkParts (s : State) (b : List Byte) (ss : List Sect) : Option Reject :=
  let budgets := fun (x : Sched) => firstReject (ofType ss 2) x.checkBudgets
  if imageKind b = 0 then
    ((((((s.checkStructure ss).orElse fun _ => s.checkWiring b ss).orElse fun _ => budgets (s.schedOf ss)).orElse fun _ => s.checkMemory ss).orElse
      fun _ => s.checkSchedule ss).orElse fun _ => checkScarab ss).orElse fun _ => s.checkLoops ss
  else if imageKind b = 1 then
    (((s.checkWiring b ss).orElse fun _ => budgets (s.baseSched ss)).orElse
      fun _ => firstReject (ofType ss 2) (s.baseSched ss).checkRebased).orElse fun _ => s.checkLoops ss
  else checkScarab ss

/-- The first failure of the checks of Table 4.6. -/
def State.validate (s : State) (b : List Byte) : Option Reject :=
  (checkHeader b).orElse fun _ => (checkHeaderDigest b).orElse fun _ =>
    let ss := imageSects b
    (((((((checkTable b ss).orElse fun _ => s.checkSignature b ss).orElse fun _ => checkDigests ss).orElse fun _ => s.checkSet b ss).orElse
      fun _ => s.checkCap b ss).orElse fun _ => s.checkBase b)).orElse fun _ => s.checkParts b ss

/-- A valid image read into its parts. -/
def imageOf (b : List Byte) : Image :=
  let ss := imageSects b
  let st := ofType ss 1
  let sc := ofType ss 6
  { id := fieldLE b 0x10 8, kind := imageKind b, baseId := fieldLE b 0x20 8
    adopt := st.any fun x => (x.field 0 4).testBit 0
    groups := st.flatMap structGroups, flows := st.flatMap structFlows, windows := st.flatMap structWindows
    hasCircs := !(ofType ss 2).isEmpty, circs := imageCircs ss, tiles := imageTiles ss, binds := (imageCores ss).map (·.bind)
    regions := (ofType ss 5).flatMap memRegions, scarab := sc.flatMap scarabWords, hasScarab := !sc.isEmpty
    clear := sc.any fun x => x.field 4 1 == 1
    loops := (ofType ss 7).map fun x => (x.inst, sectLoops x), damaged := false }

end Sys2Proof.Machine
end

