-- ==== Sys2Proof/Machine/Images.lean ====
section
/-! DEFINITION. Images at run time: loading and placing one, activating it, the image boundary and the passage, discarding and
deactivating (chapter 4). -/

namespace Sys2Proof.Machine

/-- PHASE of `MGR.IMGSTAT` (Table 4.9): 0 idle, 1 loading (and validating), 3 placing, 4 draining, 5 re-planning, 6 in passage. -/
def State.imgPhase (s : State) : Nat :=
  match s.img.act with
  | some a =>
    if a.deact then 4
    else if a.boundary.isSome then 6
    else if !s.draining then 0
    else if a.replanTo.isSome then 5 else 4
  | none => if s.img.valid.isSome then 3 else if s.img.load.isSome then 1 else 0

/-! ## Load, validation, placement (R95 to R98) -/

/-- IMAGE_LOAD is accepted where nothing is staged, loading or being activated (R95); a deactivation does not keep it out. -/
def State.imageLoad (s : State) (c : Cmd) : State :=
  s.decideCmd c 0x0020 true true [.quiescent, .loaded, .running, .passage]
    [(s.img.staged.isNone && s.img.load.isNone && s.img.act.all (·.deact), stBusy)] fun st =>
    (st.interim c).updImg fun x => { x with load := some { cmd := c, since := st.mgr.frame }, valid := none }

def execImageLoad (c : Cmd) (s : State) : Host.Outcome State Fault Refusal := .next (s.imageLoad c)

/-- LASTCODE and LASTOP after a load (1) or an activation (2) that completes (R97). -/
def State.lastImage (s : State) (code op : Nat) : State := s.updImg fun x => { x with lastCode := code, lastOp := op }

/-- The image has been transferred and is validated (R96): accepted, or rejected with its code, section and offset (R97). -/
def execImageValidation (bytes : List Byte) (s : State) : Host.Outcome State Fault Refusal :=
  match s.img.load, s.img.valid with
  | some l, none =>
    match s.validate bytes with
    | none => .next (s.updImg fun x => { x with valid := some (imageOf bytes) })
    | some r =>
      .next (((s.updImg fun x => { x with load := none }).lastImage r.1 1).final l.cmd r.1 [(2, r.2.1), (4, r.2.2)])
  | _, _ => .next s

/-- The staged bank of a worker's image region receives the image's parts (Table 4.7). -/
def State.placeBank (s : State) (id w : Nat) : State := s.writeBank w (!(s.worker w).bank1) id

/-- The workers for which an image brings schedules and memory. -/
def Image.placed (i : Image) : List Nat := ((i.binds.map (·.w)) ++ i.regions.map (·.w)).dedup

/-- The Scarab shadow bank receives a placed program, and an armed swap is over (R98, R315). -/
def Scarab.place (x : Scarab) (words : List Nat) : Scarab :=
  if x.bank then { x with bank0 := bankOf words, staged := true, armed := false, checking := none }
  else { x with bank1 := bankOf words, staged := true, armed := false, checking := none }

/-- What the stash keeps of an image for one worker (R224): its schedules and its initial data. -/
def Image.stashPart (i : Image) (w : Nat) : StashPart :=
  { w := w, id := i.id, binds := i.binds.filter fun b => b.w == w, regions := i.regions.filter fun r => r.w == w }

/-- Placement ends (R98, R224): banks, stash and shadow bank are written, the image is staged, and IMAGE_LOAD completes. It stands still
while a sled it writes to is in Hold or dropped (R74). -/
def execPlacementEnd (s : State) : Host.Outcome State Fault Refusal :=
  match s.img.load, s.img.valid with
  | some l, some i =>
    if s.paused (i.placed.map sledOf) then .next s else
    let s1 := s.forEach i.placed fun st w => st.placeBank i.id w
    let s2 := if i.kind = 0 then s1.forEach s.fit.sledList fun st k =>
        st.updHub k fun h => { h with stash := (i.placed.filter fun w => sledOf w == k).map i.stashPart }
      else s1
    let s3 := if i.hasScarab then s2.updScb fun x => x.place i.scarab else s2
    .next (((s3.updImg fun x => { x with staged := some i, valid := none, load := none }).lastImage 0 1).final l.cmd stOk)
  | _, _ => .next s

/-! ## Activation: acceptance, drain and health (R99, R101, R108) -/

/-- The re-plan of the staged image is asked for (R101): within 160 frames. -/
def State.askReplan (s : State) : State :=
  (s.updImg fun x => { x with act := x.act.map fun a => { a with replanTo := some (s.mgr.frame + 160) } }).updPlane fun p =>
    { p with
      autos := p.autos ++ [{ kind := 4, unit := 0xFFFF, circs := [], auto := true, quiet := false, since := s.mgr.frame, cmd := none }] }

/-- What the staged image needs to have re-planned that no re-plan has dealt with. -/
def State.replanOpen (s : State) (a : Activation) (i : Image) : Bool :=
  i.kind != 2 && (s.replanNeeds i).any fun n => !a.judged.contains n

/-- IMAGE_ACTIVATE (R99, R108): the drain begins, and the staged image is held against the machine's health. -/
def State.imageActivate (s : State) (c : Cmd) : State :=
  s.decideCmd c 0x0021 (decide (1 ≤ c.limit)) true [.quiescent, .loaded, .running]
    [(s.img.act.isNone, stBusy), ((s.img.staged.map (·.id)) == some c.id, stNotStaged)] fun st =>
    let a : Activation := { cmd := c, deact := false, accepted := st.mgr.frame, replanTo := none, boundary := none, planned := none, judged := [] }
    let s1 := (st.interim c).updImg fun x => { x with act := some a }
    match st.img.staged with
    | some i => if st.replanOpen a i then s1.askReplan else s1
    | none => s1

def execImageActivate (c : Cmd) (s : State) : Host.Outcome State Fault Refusal := .next (s.imageActivate c)

/-- No DATA flit and no token is on a wire. -/
def State.wiresEmpty (s : State) : Bool :=
  let empty := fun (l : List Flit) => l.all fun f => f.typ != 1 && f.typ != 2
  (s.circs.cells.all fun c => empty c.2.wire) && s.workers.cells.all fun w => w.2.links.cells.all fun l => empty l.2.wire

/-- The drain is complete (R99): no job runs, every emitted barrier has completed (a participant that is down completes none), every flit
sent has landed. -/
def State.drained (s : State) : Bool :=
  s.runningGroups.isEmpty && ((List.range 32).all fun g => (s.participants g).all fun w => !s.workerUp w || !s.barrierPending g w) && s.wiresEmpty

/-- An activation ends without its image boundary (R99, R101): the image stays staged. -/
def State.abandonAct (s : State) (a : Activation) (code : Nat) : State :=
  let s1 := (s.updImg fun x => { x with act := none }).updPlane fun p => { p with autos := p.autos.filter fun r => r.kind != 4 }
  (if a.deact then s1 else s1.lastImage code 2).final a.cmd code

/-- D frames after acceptance the drain is not complete (R99): the activation is abandoned, or with FORCE the running jobs are aborted. -/
def execDrainTimeout (s : State) : Host.Outcome State Fault Refusal :=
  match s.img.act with
  | none => .next s
  | some a =>
    if s.draining && a.boundary.isNone && decide (a.accepted + a.cmd.limit ≤ s.mgr.frame) && !s.drained then
      if a.cmd.force then
        .next (s.forEach (s.runningGroups.filter fun g => (s.group g).abortReason == 0) fun st g => st.abortGroup g 1)
      else .next (s.abandonAct a stDrainTimeout)
    else .next s

/-- The spare site may stand in for a failed worker of an image (R101): the worker's job groups all allow it, and the spare is up, plays
no other role, is used by the image for nothing else, and has a physical core for each core it is to take. -/
def State.spareAllowed (s : State) (i : Image) (w : Nat) : Bool :=
  let gs := ((i.binds.filter fun b => b.w == w).map (·.gid) ++ (i.flows.filter fun f => f.w == w).map (·.gid)).dedup
  let z := workerCode (sledOf w) 16
  !gs.isEmpty && (gs.all fun g => match i.group g with | some d => d.spareOk | none => false) && siteOf w != 16 && s.workerUp z &&
    ((s.hub (sledOf w)).inRole.all fun p => p.1 == siteOf w) &&
    ((s.hub (sledOf w)).spare.phase != 1 || (s.hub (sledOf w)).spare.site == siteOf w) &&
    (i.binds.all fun b => b.w != w || ((s.worker z).physOf b.core).isSome) &&
    (i.used s.fit).all fun v => v == w || sledOf v != sledOf w || (!s.lostFor i v && siteOf v != 16)

/-- The machine is healthy enough for an image (R101): its staged banks are whole and its failed workers have a spare. A
wiring-only image moves no worker: a failed one must have its spare in role. -/
def State.healthy (s : State) (i : Image) : Bool :=
  if i.kind = 0 then !i.damaged && (s.failedUsed i).all (s.spareAllowed i)
  else if i.kind = 1 then (s.failedUsed i).all fun w => s.actorOf w != w && s.workerUp (s.actorOf w)
  else true

/-- The key slots of an image's regions are live (R101). -/
def State.ownersThere (s : State) (i : Image) : Bool := i.regions.all fun r => r.owner == 0 || s.owners.live.contains r.owner

/-! ## The Mound at an image boundary (R198) -/

/-- The page of a new share at which a run of pages of an old share lies, where it lies wholly inside it. -/
def rebase (old new : Option RegionDef) (first pages : Nat) : Option Nat :=
  match old, new with
  | some a, some b =>
    let lo := a.base + first * 4096
    if a.space = b.space ∧ b.base ≤ lo ∧ lo + pages * 4096 ≤ b.base + b.size then some ((lo - b.base) / 4096) else none
  | _, _ => none

/-- An object at an image boundary (R198): kept at its pages inside the new primary share, or, from the secondary, inside the new
secondary; `none` where it is dropped. A copy whose target is not kept is given up. -/
def MObj.refit (o : MObj) (old new : Option RegionDef × Option RegionDef) : Option MObj :=
  if o.secondary then
    match rebase old.2 new.1 o.first o.pages, rebase old.2 new.2 o.first o.pages with
    | some f, _ => some { o with secondary := false, first := f, toFirst := 0, state := if o.state = 3 ∨ o.state = 5 then 2 else o.state }
    | none, some f =>
      if o.state = 5 then
        match rebase old.1 new.1 o.toFirst o.pages with
        | some t => some { o with first := f, toFirst := t }
        | none => some { o with first := f, toFirst := 0, state := 3 }
      else some { o with first := f }
    | none, none => none
  else
    match rebase old.1 new.1 o.first o.pages with
    | none => none
    | some f =>
      if o.state = 4 then
        match rebase old.2 new.2 o.toFirst o.pages with
        | some t => some { o with first := f, toFirst := t }
        | none => some { o with first := f, toFirst := 0, state := 2 }
      else some { o with first := f }

/-- Every object with a host pin lies inside the new primary share (R101, R198). -/
def State.pinsFit (s : State) (i : Image) : Bool :=
  s.fit.workers.all fun w =>
    let old := s.shares w
    let new := sharesIn i.regions (s.roleOf w)
    (s.worker w).objs.cells.all fun o =>
      o.2.hostPins == 0 || (rebase (if o.2.secondary then old.2 else old.1) new.1 o.2.first o.2.pages).isSome

/-- The workers of a sled take the region tables of an image, and their objects are fitted to the new shares (R166, R198); a load that loses
an object ends with MOUND_FULL. -/
def State.takeRegions (s : State) (k : Nat) (i : Image) : State :=
  let s1 := s.forEach (s.fit.sledWorkers k) fun st w =>
    let old := s.shares w
    let new := sharesIn i.regions (s.roleOf w)
    if (st.worker w).objs.cells.isEmpty then st
    else st.updWorker w fun x =>
      { x with objs := ⟨x.objs.cells.filterMap fun o => (o.2.refit old new).map fun p => (o.1, p)⟩ }
  let s2 := s1.updHub k fun h => { h with regions := i.regions.filter fun r => sledOf r.w == k }
  (s2.mound.loads.filter fun l => l.workers.any fun w => sledOf w == k).foldl (init := s2) fun st l =>
    match l.workers.findIdx? fun w => sledOf w == k && ((st.worker w).objs.get? l.obj).isNone with
    | some lane => st.failLoad l 0x27 (some lane) 0xFFFFFFFF
    | none => st

/-! ## Wiring at an image boundary (R102, R104, R222) -/

/-- An element of a tile of an image; parked where the image has no entry. -/
def Image.elem (i : Image) (t e : Nat) : Elem :=
  match i.tiles.find? fun x => x.1 == t with | some x => x.2.getD e Elem.init | none => Elem.init

/-- Elements that the image's tile states change from how the plane stands. -/
def State.tileChanges (s : State) (i : Image) : List (Nat × Nat × Elem) :=
  s.fit.tiles.flatMap fun t =>
    (List.range (tileElems t)).filterMap fun e =>
      let v := i.elem t e
      if (s.tile t).elems.get Elem.init e = v then none else some (t, e, v)

/-- The circuit stands as the image's entry has it, and its path's elements keep state and codes (R102). -/
def State.keeps (s : State) (i : Image) (d : CircDef) : Bool :=
  let x := s.circ d.cid
  let w : Way := { cid := d.cid, src := d.src, mid := d.middle, dst := d.dst }
  (match s.img.active with | some a => a.circs.contains d | none => false) && x.live && x.src == d.src && x.dst == d.dst &&
    x.middle == d.middle && s.fit.wayElems s.wiring w == s.fit.wayElems i.wiring w

/-- The TILESTATE entries of two images agree on the tiles that are fitted. -/
def Fit.sameTiles (f : Fit) (a i : Image) : Bool :=
  a.tiles == i.tiles || f.tiles.all fun t => (List.range (tileElems t)).all fun e => a.elem t e == i.elem t e

/-- The wiring of the image differs from the active wiring (R102): an entry of a circuit or of a tile state differs, or one of the two has
circuits and the other none. -/
def State.wiringDiffers (s : State) (i : Image) : Bool :=
  match s.img.active with
  | none => i.hasCircs
  | some a =>
    a.hasCircs != i.hasCircs ||
      (i.hasCircs && !(a.circs.all i.circs.contains && i.circs.all a.circs.contains && s.fit.sameTiles a i))

/-- A circuit torn at the image boundary at both its ends; no flit is in flight (R102). -/
def State.tearNow (s : State) (c cause : Nat) : State :=
  if (s.circ c).standing then ((s.tearCircuit c cause).applyTear c false).applyTear c true else s

/-- The record of a circuit to be set up takes its entry's flags, budget and class (Table 4.5). -/
def Circ.entry (x : Circ) (d : CircDef) : Circ :=
  { x with
    barrier := d.flags.testBit 0, mirror := d.flags.testBit 1, service := d.flags.testBit 2, budget := d.budget, qclass := d.qclass
    state := if x.state = 6 then 6 else 0, swapTx := false, swapRx := false }

/-- The plan of a passage: the circuits to set up from the placed tile states, those at unconfirmed L-ports left out (R22, R221), and every
element that changes. -/
def State.passagePlan (s : State) (i : Image) (ids : List Nat) : Plan :=
  let ds := i.circs.filter fun d => ids.contains d.cid && s.lportPassed d.src && s.lportPassed d.dst
  { kind := 5, unit := 0xFFFF, circs := (ds.map (·.cid)).mergeSort (· ≤ ·), asked := ids, middles := ds.map fun d => (d.cid, d.middle)
    ends := ds.map fun d => (d.cid, d.src, d.dst), elems := s.tileChanges i, report := [], quiet := false, status := stOk }

/-- Operations of the plane that an image boundary overtakes end with it. -/
def State.endOps (s : State) : State :=
  (s.plane.ops.foldl (init := s) fun st o => st.final? o.cmd stOk [(2, ((o.plan.asked ++ o.plan.circs).dedup.filter fun c => (st.circ c).isDown).length)]).updPlane
    fun p => { p with ops := [], st := if p.st = 3 then 0 else p.st }

/-- The wiring set to an image's at the image boundary (R102, R246): circuits that keep their place stay live, every other live one is
torn with cause 2h, and the new ones are set up in waves from this frame. -/
def State.rewire (s : State) (i : Image) : State :=
  let kept := (i.circs.filter (s.keeps i)).map (·.cid)
  let fresh := (i.circs.filter fun d => !kept.contains d.cid).map (·.cid)
  let gone := (s.circs.cells.map (·.1)).filter fun c => !kept.contains c && decide (c < 4096)
  let plan := s.passagePlan i fresh
  let s1 := s.forEach gone fun st c => st.tearNow c 2
  let s2 : State := s1.forEach (gone.filter fun c => !fresh.contains c) fun st c =>
    st.updCirc c fun x => if x.tear.isSome then x else Circ.init
  let s3 := i.circs.foldl (init := s2) fun st d => if kept.contains d.cid then st else st.updCirc d.cid fun x => x.entry d
  (s3.endOps).addOp plan s.mgr.frame none false

/-- Exchanged pairs are adopted, or not, as the image says (R222). -/
def State.adoptLPorts (s : State) (i : Image) : State :=
  { s with lports := s.lports.mapVals fun _ q => { q with adopted := q.result == 2 && q.searched && s.adoptsFor i } }

/-- Exchanged pairs adopted as the image says; its circuits note the ends that were exchanged (R222). -/
def State.adoptPairs (s : State) (i : Image) : State :=
  let on := s.adoptsFor i
  i.circs.foldl (init := s.adoptLPorts i) fun st d =>
    st.updCirc d.cid fun x => { x with swapTx := on && (s.pairOf d.src).isSome, swapRx := on && (s.pairOf d.dst).isSome }

/-! ## Loop parameters, Scarab, groups (R93, R103, R267, R316) -/

/-- A cell takes an image's record by a bumpless open (R267). -/
def Cell.takeLoop (x : Cell) (r : LoopRec) : Cell :=
  { x with
    rc := r, latched := none, latchAt := Stamp.init, u2 := x.u1, u3 := x.u1, e1 := 0, e2 := 0, e3 := 0
    bumpless := if x.mode = 0 then none else some ((x.bumpless.getD x.mode) % 8 + 8), mode := if x.mode = 0 then 0 else 1 }

/-- The records of the LOOP sections of the engines that `p` picks. -/
def State.takeLoops (s : State) (i : Image) (p : Engine → Bool) : State :=
  i.loops.foldl (init := s) fun st u =>
    match loopUnit u.1 with
    | none => st
    | some e => if p e then u.2.foldl (fun a r => a.updCell e r.cell fun x => x.takeLoop r) st else st

/-- A bank swap (R316): the banks exchange roles, the new shadow is a copy of the new active bank, the volatile items are cleared. -/
def Scarab.swapBanks (x : Scarab) : Scarab :=
  let act := if x.bank then x.bank0 else x.bank1
  { x.clearVolatile with
    bank := !x.bank, bank0 := act, bank1 := act, swaps := satInc 0xFF x.swaps, staged := false, armed := false, checking := none }

/-- The placed program becomes active at an image boundary (Table 4.8). -/
def State.swapProgram (s : State) (i : Image) : State :=
  s.updScb fun x => let y := x.swapBanks; if i.clear then { y with retained := Tab.empty } else y

/-- The job groups replaced (R100, R103): queued jobs that name another image end with WRONG_IMAGE. -/
def State.replaceGroups (s : State) (id : Nat) (declared : Nat → Bool) : State :=
  s.forEach (List.range 32) fun st g =>
    let q := (st.group g).queue
    let stays := fun (j : Job) => j.image == id && declared g
    let s1 := (q.filter fun j => !stays j).foldl (fun a j => a.final j.cmd stWrongImage) st
    if (s1.groups.get? g).isNone then s1 else s1.updGroup g fun _ => { Group.init with queue := q.filter stays }

/-- A spare takes the role of a failed worker at activation (R101, R228); a switch-in for that worker that has begun is over. -/
def State.standIn (s : State) (w : Nat) : State :=
  if s.actorOf w ≠ w then s
  else
    (s.updHub (sledOf w) fun h =>
      { h with
        spare := { inUse := true, site := siteOf w, phase := 3, since := s.mgr.frame, late := 0, copied := true }
        inRole := h.inRole ++ [(siteOf w, 16)] }).updPlane fun p => { p with autos := p.autos.filter fun r => !(r.kind == 3 && r.unit == w) }

/-! ## The image boundary (R100 to R105) -/

/-- An activation completes (R97, R341). -/
def State.endAct (s : State) (a : Activation) (downs : Nat) : State :=
  ((s.updImg fun x => { x with act := none }).lastImage 0 2).final a.cmd stOk [(2, downs)]

/-- The state after an image boundary: Passage where the wiring differs, else Loaded, and the activation completes (R102). -/
def State.intoImage (s : State) (a : Activation) (differs : Bool) : State :=
  if differs then (s.setMode .passage 0).updImg fun x => { x with act := some { a with boundary := some s.mgr.frame } }
  else (s.setMode .loaded 0).endAct a 0

/-- L of every group written to its workers (R47, R104). -/
def State.setLats (s : State) (i : Image) : State := s.forEach (i.groups.map (·.gid)) State.setLat

/-- A full image at its boundary. -/
def State.takeFull (s : State) (a : Activation) (i : Image) : State :=
  let differs := s.wiringDiffers i
  let s1 := s.forEach (s.failedUsed i) State.standIn
  let s2 := if differs then (s1.adoptLPorts i).rewire i else s1
  let s3 := s2.updImg fun x => { x with active := some i, staged := none, wirePart := false, scarPart := false, barred := [] }
  let s4 := (s3.adoptPairs i).replaceGroups i.id fun g => (i.group g).isSome
  let s5 := s4.takeLoops i fun e => match e with | .ring _ => false | _ => true
  let s6 := (s5.swapProgram i).broadcast (.activateAt i.id)
  (s6.setLats i).intoImage a differs

/-- A wiring-only image at its boundary (R104): wiring and tile-loop parameters alone. -/
def State.takeWiring (s : State) (a : Activation) (i base : Image) : State :=
  let differs := s.wiringDiffers i
  let s1 := if differs then (s.adoptLPorts i).rewire i else s
  let s2 := s1.updImg fun x =>
    { x with active := some { base with circs := i.circs, tiles := i.tiles, hasCircs := true }, staged := none, wirePart := true }
  let s3 := (s2.adoptPairs i).takeLoops i fun e => match e with | .tile _ => true | _ => false
  (s3.setLats base).intoImage a differs

/-- A Scarab-only image at its boundary (R105): the bank swap, and nothing else. -/
def State.takeScarab (s : State) (a : Activation) (i : Image) : State :=
  ((s.swapProgram i).updImg fun x => { x with staged := none, scarPart := true }).endAct a 0

/-- The refusals of R101 at the boundary, in the order the rule names them. -/
def State.actRefusal (s : State) (i : Image) : Option Nat :=
  firstFail
    [(s.healthy i, stUnhealthy), (i.kind != 0 || s.ownersThere i, stOwnerAbsent), (i.kind != 0 || s.pinsFit i, stMoundPinned),
     (s.baseOk i.kind i.baseId, 0x11)]

/-- The first manager boundary at which the drain and the re-plan are complete (R100 to R102, R104, R105). A Scarab-only image waits for
neither. -/
def execImageBoundary (s : State) : Host.Outcome State Fault Refusal :=
  match s.img.act, s.img.staged with
  | some a, some i =>
    let open_ := s.mgr.mode == .quiescent || s.mgr.mode == .loaded || s.mgr.mode == .running
    if a.deact || a.boundary.isSome || decide (s.mgr.frame ≤ a.accepted) then .next s
    else if i.kind = 2 then
      if s.mgr.mode.deaf || s.mgr.mode == .limp then .next s
      else match s.actRefusal i with
        | some code => .next (s.abandonAct a code)
        | none => .next (s.takeScarab a i)
    else if !open_ || s.mgr.doze.isSome || !s.drained || a.replanTo.isSome then .next s
    else match s.actRefusal i with
      | some code => .next (s.abandonAct a code)
      | none =>
        if s.replanOpen a i then .next s.askReplan
        else
          let img := a.planned.getD i
          match i.kind, s.img.active with
          | 0, _ => .next (s.takeFull a img)
          | _, some base => .next (s.takeWiring a img base)
          | _, none => .next s
  | _, _ => .next s

/-- The cluster domains in which an image binds a core of a worker (R68), as a mask. -/
def State.boundClusters (s : State) (i : Image) (w : Nat) : Nat :=
  (i.binds.filter fun b => b.w == w).foldl (init := 0) fun m b =>
    match (s.worker (s.actorOf w)).physOf b.core with
    | some p => putBit m (clusterOf p) true
    | none => m

/-- A worker's part of an image at its sled's boundary (R68, R100, R103): banks exchanged, barriers counted anew, the clusters of bound cores
powered and their schedules loaded into the program areas, initial data written. -/
def State.activateWorker (s : State) (i : Image) (w : Nat) : State :=
  let z := s.actorOf w
  let on := s.boundClusters i w
  let s1 := s.updWorker z fun x =>
    { (if z = w then x else x.setBank (!x.bank1) i.id) with bank1 := !x.bank1, barrier := 16777215, pwr := x.pwr ||| on, on := x.on ||| on }
  let s2 := s1.loadPrograms z 0x7C
  (i.regions.filter fun r => r.w == w && decide (r.space < 2)).foldl (fun st r => st.tierWrite (machineAddr r.space z r.base) r.init) s2

/-- A hub applies ACTIVATE_AT at its first sled boundary after receipt (R45, R100): `HUB.STEP` is 0 in the frame that starts there, or, where
none or a slip frame starts, in the first frame after; ring loops take their parameters. -/
def execActivateAt (k : Nat) (s : State) : Host.Outcome State Fault Refusal :=
  let mine := fun (m : Msg) => match m with | .activateAt _ => true | _ => false
  match (s.hub k).inbox.find? mine, s.img.active with
  | some _, some i =>
    let runs := (s.hub k).started && !(s.hub k).isSlip
    let s1 := s.updHub k fun h =>
      { h with inbox := dropMsg mine h.inbox, step := 0, applied := true, stepping := runs, stepGroups := [], strideEnds := Tab.empty }
    let s2 := if runs then s1.stepHub k else s1
    let s3 := (s2.takeRegions k i).forEach (i.placed.filter fun w => sledOf w == k) fun st w => st.activateWorker i w
    .next (s3.takeLoops i fun e => match e with | .ring w => sledOf w == k | _ => false)
  | some _, none => .next (s.updHub k fun h => { h with inbox := dropMsg mine h.inbox })
  | none, _ => .next s

/-- A circuit is usable with its quality class met (R102). -/
def Circ.usable (x : Circ) : Bool := x.live

/-- The passage ends (R77, R102, R104): every circuit of the image is usable, or the 400th frame has come and the others are DOWN. A passage
that a Hold has met goes on in it, and after the resume into Loaded. -/
def execPassageEnd (s : State) : Host.Outcome State Fault Refusal :=
  match s.img.act, s.img.active with
  | some a, some i =>
    match a.boundary with
    | none => .next s
    | some b =>
      let here := s.mgr.mode == .passage || s.mgr.mode == .hold || s.mgr.mode == .loaded
      let late := (i.circs.map (·.cid)).filter fun c => !(s.circ c).usable
      if here && !a.deact && (late.isEmpty || decide (b + 400 ≤ s.mgr.frame)) then
        let s1 := s.forEach (late.filter fun c => (s.circ c).state != 5) State.downCircuit
        let s2 := (s1.setLats i).endAct a late.length
        .next (if s.mgr.mode = .passage then s2.setMode .loaded 0 else s2)
      else .next s
  | _, _ => .next s

/-! ## Discard and deactivation (R106, R316) -/

/-- IMAGE_DISCARD empties the staged slot; a placed program stays in the shadow bank, and STP is allowed again (R106, R316). An
activation of the image is pending until its command completes. -/
def State.imageDiscard (s : State) (c : Cmd) : State :=
  let pending := match s.img.act with | some a => !a.deact && a.cmd.id == c.id | none => false
  s.decideCmd c 0x0022 true true [.quiescent, .loaded, .running, .passage]
    [(!pending, stBusy), ((s.img.staged.map (·.id)) == some c.id, stNotStaged)] fun st =>
    ((st.updImg fun x => { x with staged := none }).updScb fun x => { x with staged := false }).final c stOk

def execImageDiscard (c : Cmd) (s : State) : Host.Outcome State Fault Refusal := .next (s.imageDiscard c)

/-- IMAGE_DEACTIVATE drains as an activation does (R106, R108). -/
def State.imageDeactivate (s : State) (c : Cmd) : State :=
  s.decideCmd c 0x0023 (decide (1 ≤ c.limit)) true [.loaded, .running] [(s.img.act.isNone, stBusy)] fun st =>
    (st.interim c).updImg fun x =>
      { x with
        act := some { cmd := c, deact := true, accepted := st.mgr.frame, replanTo := none, boundary := none, planned := none, judged := [] } }

def execImageDeactivate (c : Cmd) (s : State) : Host.Outcome State Fault Refusal := .next (s.imageDeactivate c)

/-- The active image removed (R106): its groups and queued jobs are gone, steps stop, and Mound objects stay where they are. The Scarab program stays, and
SCARPART goes on telling where it came from. -/
def State.removeImage (s : State) : State :=
  let s1 := s.replaceGroups 0 fun _ => false
  let s2 := s1.forEach s.fit.sledList fun st k =>
    st.updHub k fun h =>
      { h with
        applied := false, stepping := false, stepGroups := [], strideEnds := Tab.empty
        regions := h.regions.filter fun r => r.use == 3 && decide (r.space < 2) }
  ({ s2.clearCircs with lports := s2.lports.mapVals fun _ q => { q with adopted := false } } : State).updImg fun x =>
    { x with active := none, wirePart := false, barred := [] }

/-- A deactivation at a manager boundary (R106, R249, Table 3.3): drained, its circuits are torn with cause 5h and the plane is parked; at
the 16th boundary the machine is Quiescent. -/
def State.settleDeact (s : State) : State :=
  match s.img.act with
  | none => s
  | some a =>
    if !a.deact then s
    else match a.boundary with
      | none =>
        if s.mgr.mode = .loaded ∧ s.drained = true ∧ a.accepted < s.mgr.frame then
          ((s.tearCircuits (s.circs.cells.map (·.1)) 5).updMgr fun m => { m with parkDue := s.fit.lacewing }).updImg fun x =>
            { x with act := some { a with boundary := some s.mgr.frame } }
        else s
      | some b =>
        if s.mgr.mode = .loaded ∧ b + 16 ≤ s.mgr.frame then
          let s1 := if s.mgr.parkDue then s.parkPlane.updMgr fun m => { m with parkDue := false } else s
          ((s1.removeImage.setMode .quiescent 0).updImg fun x => { x with act := none }).final a.cmd stOk
        else s

end Sys2Proof.Machine
end

