-- ==== Sys2Proof/Machine/Scarab.lean ====
section
/-! DEFINITION. The Scarab engine (chapter 13): the scan, one definition for each instruction, bank swaps, event inputs, span timers. A
scan begins with SCARAB_SCAN; each instruction row executes where the word at the program counter spells it. -/

namespace Sys2Proof.Machine

/-! ## The engine -/

/-- The word of the active bank at a program address (R308). -/
def Scarab.word (x : Scarab) (a : Nat) : Nat := (if x.bank then x.bank1 else x.bank0).get 0 (a % 16384)

/-- A register; g0 reads 0. -/
def Scarab.reg (x : Scarab) (r : Nat) : Nat := if r = 0 then 0 else x.g.get 0 r % 2 ^ 32

/-- A register written; writes to g0 are discarded. -/
def Scarab.setReg (x : Scarab) (r v : Nat) : Scarab := if r = 0 then x else { x with g := x.g.set r (v % 2 ^ 32) }

/-- A register as a signed number. -/
def Scarab.sreg (x : Scarab) (r : Nat) : Int := toSigned 32 (x.reg r)

/-- A data word: the retained region below 1000h, the volatile region from there (Table 13.2). -/
def Scarab.dataWord (x : Scarab) (a : Nat) : Nat :=
  let i := a % 16384
  (if i < 4096 then x.retained else x.volatile).get 0 i

/-- A data word written. -/
def Scarab.setData (x : Scarab) (a v : Nat) : Scarab :=
  let i := a % 16384
  if i < 4096 then { x with retained := x.retained.set i (v % 2 ^ 32) } else { x with volatile := x.volatile.set i (v % 2 ^ 32) }

/-- The free-running count at a scan cycle (R305, R319). -/
def Scarab.now (x : Scarab) : Nat := (x.count + 32 + x.cyc) % 2 ^ 48

/-- A scan is running: the engine scans, this scan has not ended, and the watchdog has not stopped it. -/
def Scarab.scanning (x : Scarab) : Bool := x.run && !x.halted && !x.ended && decide (x.cyc < 3584)

/-- The instruction that the engine executes next; `none` where no scan is running. -/
def Scarab.next (x : Scarab) : Option Instr := if x.scanning then scarabDecode (x.word x.pc) else none

/-- The flow of the program reaches word `n` in order: at the end of a LOOP body the iteration is counted, at one cycle (R310). `fuel`
bounds the bodies that end at one word. -/
def Scarab.flow (x : Scarab) (n : Nat) : Nat → Scarab
  | 0 => { x with pc := n % 16384 }
  | fuel + 1 =>
    match x.loops with
    | (first, last, left, depth) :: rest =>
      if n = last + 1 ∧ depth = x.stack.length then
        if 1 < left then { x with loops := (first, last, left - 1, depth) :: rest, pc := first, cyc := x.cyc + 1 }
        else Scarab.flow { x with loops := rest, cyc := x.cyc + 1 } n fuel
      else { x with pc := n % 16384 }
    | [] => { x with pc := n % 16384 }

/-- The next word in order. -/
def Scarab.advance (x : Scarab) : Scarab := x.flow (x.pc + 1) 5

/-- An instruction executed where it is the next one: its effect sees the cycle of its issue, then its cycles pass. -/
def State.scarabRun (s : State) (i : Instr) (f : Scarab → Scarab) : State :=
  if s.scb.next = some i then s.updScb fun x => let y := f x; { y with cyc := y.cyc + scarabCost i } else s

/-- An instruction that goes on to the next word. -/
def State.scarabOp (s : State) (i : Instr) (f : Scarab → Scarab) : State := s.scarabRun i fun x => (f x).advance

/-- An instruction that writes a register with a number it computes. -/
def State.scarabSet (s : State) (i : Instr) (d : Nat) (v : Scarab → Int) : State := s.scarabOp i fun x => x.setReg d (toBits 32 (v x))

/-- SCARAB_SCAN: at mc 32 the one run of the manager frame begins at word 0 of the active bank (R305). -/
def execScarabScan (s : State) : Host.Outcome State Fault Refusal :=
  if s.scb.run && !s.scb.halted && !s.scb.scanned && !(s.mgr.mode == .off) && !(s.mgr.mode == .limp) then
    .next <| s.updScb fun x =>
      { x with scanned := true, pc := 0, cyc := 0, stack := [], loops := [], ended := false, outq := [], outs := 0, cmdq := [], cmds := 0 }
  else .next s

/-! ## Arithmetic and logic (Table 13.5) -/

def execScarabNop (s : State) : Host.Outcome State Fault Refusal := .next (s.scarabOp .scarabNop id)

/-- END ends the run (R309, R321). -/
def execEnd (s : State) : Host.Outcome State Fault Refusal :=
  .next (s.scarabRun .end_ fun x => { x with ended := true, lastEnd := x.cyc, maxEnd := max x.maxEnd x.cyc })

def execAdd (d a b : Nat) (s : State) : Host.Outcome State Fault Refusal :=
  .next (s.scarabSet (.add d a b) d fun x => x.reg a + x.reg b)

def execSub (d a b : Nat) (s : State) : Host.Outcome State Fault Refusal :=
  .next (s.scarabSet (.sub d a b) d fun x => (x.reg a : Int) - x.reg b)

def execAnd (d a b : Nat) (s : State) : Host.Outcome State Fault Refusal :=
  .next (s.scarabSet (.and d a b) d fun x => (x.reg a &&& x.reg b : Nat))

def execOr (d a b : Nat) (s : State) : Host.Outcome State Fault Refusal :=
  .next (s.scarabSet (.or d a b) d fun x => (x.reg a ||| x.reg b : Nat))

def execXor (d a b : Nat) (s : State) : Host.Outcome State Fault Refusal :=
  .next (s.scarabSet (.xor d a b) d fun x => (x.reg a ^^^ x.reg b : Nat))

def execShl (d a b : Nat) (s : State) : Host.Outcome State Fault Refusal :=
  .next (s.scarabSet (.shl d a b) d fun x => (x.reg a * 2 ^ (x.reg b % 32) : Nat))

def execShr (d a b : Nat) (s : State) : Host.Outcome State Fault Refusal :=
  .next (s.scarabSet (.shr d a b) d fun x => (x.reg a / 2 ^ (x.reg b % 32) : Nat))

def execSar (d a b : Nat) (s : State) : Host.Outcome State Fault Refusal :=
  .next (s.scarabSet (.sar d a b) d fun x => (x.sreg a).fdiv (2 ^ (x.reg b % 32) : Nat))

def execMin (d a b : Nat) (s : State) : Host.Outcome State Fault Refusal :=
  .next (s.scarabSet (.min d a b) d fun x => min (x.sreg a) (x.sreg b))

def execMax (d a b : Nat) (s : State) : Host.Outcome State Fault Refusal :=
  .next (s.scarabSet (.max d a b) d fun x => max (x.sreg a) (x.sreg b))

def execMul (d a b : Nat) (s : State) : Host.Outcome State Fault Refusal :=
  .next (s.scarabSet (.mul d a b) d fun x => (x.reg a * x.reg b : Nat))

def execMulh (d a b : Nat) (s : State) : Host.Outcome State Fault Refusal :=
  .next (s.scarabSet (.mulh d a b) d fun x => (x.sreg a * x.sreg b).fdiv (2 ^ 32))

/-- DIV rounds toward zero; a divisor of 0 gives 0; −2^31 / −1 gives −2^31. -/
def scarabDiv (a b : Int) : Int := if b = 0 then 0 else a.tdiv b

def execDiv (d a b : Nat) (s : State) : Host.Outcome State Fault Refusal :=
  .next (s.scarabSet (.div d a b) d fun x => scarabDiv (x.sreg a) (x.sreg b))

def execSlt (d a b : Nat) (s : State) : Host.Outcome State Fault Refusal :=
  .next (s.scarabSet (.slt d a b) d fun x => if x.sreg a < x.sreg b then 1 else 0)

def execAddi (d a imm : Nat) (s : State) : Host.Outcome State Fault Refusal :=
  .next (s.scarabSet (.addi d a imm) d fun x => x.reg a + toSigned 14 imm)

def execAndi (d a imm : Nat) (s : State) : Host.Outcome State Fault Refusal :=
  .next (s.scarabSet (.andi d a imm) d fun x => (x.reg a &&& imm : Nat))

def execOri (d a imm : Nat) (s : State) : Host.Outcome State Fault Refusal :=
  .next (s.scarabSet (.ori d a imm) d fun x => (x.reg a ||| imm : Nat))

def execLi (d imm : Nat) (s : State) : Host.Outcome State Fault Refusal :=
  .next (s.scarabSet (.li d imm) d fun _ => toSigned 20 imm)

def execLui (d imm : Nat) (s : State) : Host.Outcome State Fault Refusal :=
  .next (s.scarabSet (.lui d imm) d fun _ => (imm * 4096 : Nat))

/-! ## Memory, input image, outputs (R308, R311, R312, R314) -/

/-- The sum of a register and a signed immediate, as an address. -/
def Scarab.addr (x : Scarab) (a imm : Nat) : Nat := toBits 32 ((x.reg a : Int) + toSigned 14 imm)

def execLd (d a imm : Nat) (s : State) : Host.Outcome State Fault Refusal :=
  .next (s.scarabOp (.ld d a imm) fun x => x.setReg d (x.dataWord (x.addr a imm)))

def execSt (d a imm : Nat) (s : State) : Host.Outcome State Fault Refusal :=
  .next (s.scarabOp (.st d a imm) fun x => x.setData (x.addr a imm) (x.reg d))

/-- The shadow bank written. -/
def Scarab.setShadow (x : Scarab) (a v : Nat) : Scarab :=
  if x.bank then { x with bank0 := x.bank0.set (a % 16384) v } else { x with bank1 := x.bank1.set (a % 16384) v }

/-- STP writes the shadow bank; it is discarded while the bank holds a placed program, and ends a swap whose check has begun (R314,
R315). -/
def Scarab.stp (x : Scarab) (a v : Nat) : Scarab :=
  if x.staged then { x with stpDrop := satInc 0xFF x.stpDrop }
  else
    let y := x.setShadow a v
    if x.checking.isSome then { y with armed := false, checking := none, cancels := satInc 0xFF y.cancels } else y

def execStp (d a imm : Nat) (s : State) : Host.Outcome State Fault Refusal :=
  .next (s.scarabOp (.stp d a imm) fun x => x.stp (x.addr a imm) (x.reg d))

def execIn (d a imm : Nat) (s : State) : Host.Outcome State Fault Refusal :=
  .next (s.scarabOp (.in_ d a imm) fun x => x.setReg d (x.input.get 0 (x.addr a imm % 1024)))

/-- OUT queues a write; the 257th and later of a scan are discarded (R311). -/
def execOut (a b : Nat) (s : State) : Host.Outcome State Fault Refusal :=
  .next (s.scarabOp (.out a b) fun x =>
    if 256 ≤ x.outs then { x with qFull := satInc 0xFF x.qFull }
    else { x with outq := x.outq ++ [(x.reg a, x.reg b)], outs := x.outs + 1 })

/-- CMD posts the 16 words at data[a]; the fifth and later of a scan are discarded (R312). -/
def execCmd (a : Nat) (s : State) : Host.Outcome State Fault Refusal :=
  .next (s.scarabOp (.cmd a) fun x =>
    if 4 ≤ x.cmds then { x with cmdFull := satInc 0xFF x.cmdFull }
    else { x with cmdq := x.cmdq ++ [(List.range 16).map fun i => x.dataWord (x.reg a + i)], cmds := x.cmds + 1 })

/-! ## Events, spans, time (R318 to R320) -/

/-- TAKE reads a latch and its OVF flag, and clears the latch, and OVF where it says so (R318). -/
def execTake (d e : Nat) (clearOvf : Bool) (s : State) : Host.Outcome State Fault Refusal :=
  .next (s.scarabOp (.take d e clearOvf) fun x =>
    let y := x.setReg d (x.latch.get 0 e % 16 + 16 * bit1 (x.ovf.testBit e))
    { y with latch := y.latch.erase e, ovf := if clearOvf then putBit y.ovf e false else y.ovf })

/-- A span timer. -/
def Scarab.span (x : Scarab) (n : Nat) : Span := x.spans.get Span.init n

/-- The result word of a timer: 0 while it has not closed. -/
def Span.word (t : Span) : Nat := if t.closed then t.result else 0

def execSpanRead (d n : Nat) (s : State) : Host.Outcome State Fault Refusal :=
  .next (s.scarabOp (.spanRead d n) fun x => x.setReg d (x.span n).word)

/-- A timer armed with the descriptor of a register; what it held is gone. -/
def execSpanArm (a n : Nat) (s : State) : Host.Outcome State Fault Refusal :=
  .next (s.scarabOp (.spanArm a n) fun x =>
    { x with spans := x.spans.set n { armed := true, desc := x.reg a, start := none, closed := false, result := 0 } })

/-- The start stamped by instruction, where the descriptor says so. -/
def Span.begin_ (t : Span) (now : Nat) : Span :=
  if t.armed && !t.closed && t.desc.testBit 6 && t.start.isNone then { t with start := some now } else t

def execSpanStart (n : Nat) (s : State) : Host.Outcome State Fault Refusal :=
  .next (s.scarabOp (.spanStart n) fun x => { x with spans := x.spans.set n ((x.span n).begin_ x.now) })

/-- The stop stamped by instruction, where the descriptor says so: the timer closes and raises its event. -/
def Scarab.spanStop (x : Scarab) (n : Nat) : Scarab :=
  let t := x.span n
  if t.armed && !t.closed && t.desc.testBit 14 then
    Scarab.arrive { x with spans := x.spans.set n (t.closeAt x.now) } x.now 17 (32 + n) 1
  else x

def execSpanStop (n : Nat) (s : State) : Host.Outcome State Fault Refusal :=
  .next (s.scarabOp (.spanStop n) fun x => x.spanStop n)

def execTime (d : Nat) (s : State) : Host.Outcome State Fault Refusal := .next (s.scarabOp (.time d) fun x => x.setReg d x.cyc)

/-! ## Flow (R310) -/

/-- A branch: 2 cycles where it is taken, 1 where it is not. -/
def State.scarabBranch (s : State) (i : Instr) (target : Nat) (p : Scarab → Bool) : State :=
  s.scarabRun i fun x => if p x then { x with pc := target % 16384, cyc := x.cyc + 1 } else x.advance

def execBeq (a b target : Nat) (s : State) : Host.Outcome State Fault Refusal :=
  .next (s.scarabBranch (.beq a b target) target fun x => x.reg a == x.reg b)

def execBne (a b target : Nat) (s : State) : Host.Outcome State Fault Refusal :=
  .next (s.scarabBranch (.bne a b target) target fun x => x.reg a != x.reg b)

def execBlt (a b target : Nat) (s : State) : Host.Outcome State Fault Refusal :=
  .next (s.scarabBranch (.blt a b target) target fun x => decide (x.sreg a < x.sreg b))

def execBge (a b target : Nat) (s : State) : Host.Outcome State Fault Refusal :=
  .next (s.scarabBranch (.bge a b target) target fun x => decide (x.sreg b ≤ x.sreg a))

def execJmp (target : Nat) (s : State) : Host.Outcome State Fault Refusal :=
  .next (s.scarabRun (.jmp target) fun x => { x with pc := target % 16384 })

def execCall (target : Nat) (s : State) : Host.Outcome State Fault Refusal :=
  .next (s.scarabRun (.call target) fun x => { x with stack := (x.pc + 1) :: x.stack, pc := target % 16384 })

/-- RET with nothing to pop goes to a word that the spec leaves open. -/
def Scarab.ret (x : Scarab) : Scarab :=
  match x.stack with
  | r :: rest => Scarab.flow { x with stack := rest } r 5
  | [] => { x with pc := Config.strayWord x.cyc % 16384 }

def execRet (s : State) : Host.Outcome State Fault Refusal := .next (s.scarabRun .ret Scarab.ret)

/-- LOOP runs the words after it, up to its end word, `count` times. -/
def execLoop (count last : Nat) (s : State) : Host.Outcome State Fault Refusal :=
  .next (s.scarabRun (.loop count last) fun x =>
    { x with loops := (x.pc + 1, last, loopCount count, x.stack.length) :: x.loops, pc := (x.pc + 1) % 16384 })

/-! ## Bank swaps (R315, R316) -/

/-- SWAP arms a swap; it is ignored, and counted, while the shadow bank holds a placed program. -/
def execSwap (s : State) : Host.Outcome State Fault Refusal :=
  .next (s.scarabOp .swap fun x =>
    if x.staged then { x with cancels := satInc 0xFF x.cancels }
    else if x.armed then x
    else { x with armed := true, armedAt := s.mgr.frame })

/-- The shadow bank. -/
def Scarab.shadow (x : Scarab) : Tab Nat := if x.bank then x.bank0 else x.bank1

/-- The check of the shadow bank begins at the boundary after the scan that armed it. -/
def Scarab.beginCheck (x : Scarab) (frame : Nat) : Scarab :=
  if x.armed && x.checking.isNone && decide (x.armedAt < frame) then { x with checking := some frame } else x

/-- The boundary after the 16 frames of the check: the banks swap, or CHKFAIL is set. -/
def execBankCheckEnd (s : State) : Host.Outcome State Fault Refusal :=
  match s.scb.checking with
  | none => .next s
  | some f =>
    if f + 16 ≤ s.mgr.frame then
      .next <| s.updScb fun x => if bankOk x.shadow then x.swapBanks else { x with armed := false, checking := none, chkFail := true }
    else .next s

/-! ## Event inputs (R317, R319) -/

/-- `n` arrivals at an event input in manager cycle `mc` of the frame. -/
def execEventArrival (e n mc : Nat) (s : State) : Host.Outcome State Fault Refusal := .next (s.arrive e n mc)

/-- Live counts move to the latches at mc 0 of a boundary. -/
def Scarab.moveLatches (x : Scarab) : Scarab :=
  x.live.cells.foldl (init := { x with live := Tab.empty }) fun y c =>
    let sum := y.latch.get 0 c.1 + c.2
    { y with latch := y.latch.set c.1 (min 15 sum), ovf := if 15 < sum then putBit y.ovf c.1 true else y.ovf }

end Sys2Proof.Machine
end

