-- ==== Sys2Proof/Machine/Ktd.lean ====
section
/-! DEFINITION. Katydid time and the transparent clock (chapter 14, R350 to R355). -/

namespace Sys2Proof.Machine

/-! ## Reading the time (R352) -/

/-- T after `mc` manager cycles since the last manager boundary, in 2^−16 ns. -/
def Ktd.time (x : Ktd) (mc : Nat) : Nat := x.tb + (x.raw + mc - x.rb) * x.k / 2 ^ 24

/-- K nominal: 1.25 ns in 2^−40 ns. -/
def kNom : Nat := 0x14000000000

/-- What of the backlog one frame absorbs (R354): all of it, at most 500 ppm of 5.12 µs, which is 2.56 ns. -/
def Ktd.share (x : Ktd) : Int := max (-256) (min 256 x.backlog)

/-- y + s in parts per 10^9, cut toward 0: 2.56 ns in a frame are 500,000. -/
def Ktd.rate (x : Ktd) : Int := x.y - (x.share * 1953125).tdiv 1000

/-- K for a frame (R354): K_nom × (1 + y + s), rounded toward K_nom × (1 + y). The product is taken over 512,000,000,000. -/
def Ktd.rateK (x : Ktd) : Nat :=
  let num : Int := kNom * (512000000000 + x.y * 512 - x.share * 1000000)
  (if 0 < x.share then -((-num) / 512000000000) else num / 512000000000).toNat

/-- A measured offset applied at its boundary (R354): slewed up to 1 ms, and backward of any size once EPOCH is FFFFh; else a step, and
whether it was one. -/
def Ktd.applyOffset (x : Ktd) : Ktd × Bool :=
  match x.pending with
  | none => (x, false)
  | some th =>
    let y := { x with pending := none }
    if th.natAbs ≤ 100000000 ∨ (0 < th ∧ x.epoch = 0xFFFF) then ({ y with backlog := th }, false)
    else if 0 < th then ({ y with epoch := x.epoch + 1, tb := x.tb - th.toNat * 65536 / 100, backlog := 0 }, true)
    else ({ y with tb := x.tb + th.natAbs * 65536 / 100, backlog := 0 }, true)

/-- A manager boundary (R352, R354): T_b and R_b move up, the frame that ends has absorbed its share of the backlog, the offset that was
referred to the boundary is applied, and K is set for the frame. -/
def Ktd.boundary (x : Ktd) (frame : Nat) : Ktd × Bool :=
  let a := { x with tb := x.time 4096, raw := x.raw + 4096, rb := x.raw + 4096, backlog := x.backlog - x.share }
  let b := a.applyOffset
  ({ b.1 with k := b.1.rateK, boundT := b.1.tb, boundEpoch := b.1.epoch, boundFrame := frame }, b.2)

/-! ## The slave function (R353) -/

/-- A message that the slave function takes: of its domain, over a transport that it is set to (0 Ethernet, 1 UDP/IPv4). -/
def State.ptpTakes (s : State) (domain transport : Nat) : Bool :=
  s.mgr.capFixed && !(s.mgr.mode == .off) && s.ktd.enable && domain == s.ktd.domain && decide (transport < 2) &&
    s.ktd.transport.testBit transport

/-- SYNC_MESSAGE of the followed grandmaster: the rate correction, and the offset referred to the next manager boundary. -/
def execSyncMessage (domain transport : Nat) (theta rate : Int) (s : State) : Host.Outcome State Fault Refusal :=
  if s.ptpTakes domain transport && s.ktd.master.isSome then
    .next <| s.updKtd fun x => { x with y := max (-100000) (min 100000 rate), pending := some theta, locked := true }
  else .next s

/-- One data set is better than another: lower at the first place at which they differ. -/
def betterMaster : List Nat → List Nat → Bool
  | [], _ => false
  | _ :: _, [] => true
  | a :: as, b :: bs => decide (a < b) || (a == b && betterMaster as bs)

/-- ANNOUNCE_MESSAGE on either port: the better grandmaster is followed, and what the one that is followed says of itself replaces what it
said before; a data set ends with its clock's identity. -/
def execAnnounceMessage (port domain transport : Nat) (dataset : List Nat) (s : State) : Host.Outcome State Fault Refusal :=
  if s.ptpTakes domain transport && decide (port < 2) then
    .next <| s.updKtd fun x =>
      match x.master with
      | none => { x with master := some dataset }
      | some d => if betterMaster dataset d || dataset.getLast? == d.getLast? then { x with master := some dataset } else x
  else .next s

/-- SYNC_TIMEOUT: after 8 intervals without a Sync the function is in holdover; K keeps the last y. -/
def execSyncTimeout (s : State) : Host.Outcome State Fault Refusal := .next (s.updKtd fun x => { x with locked := false })

/-! ## The transparent clock (R350) -/

/-- The correction field as the message leaves: the residence time is added to Sync and Delay_Req over Ethernet and UDP/IPv4. -/
def ptpCorrection (m : PtpMsg) : Int :=
  if m.kind < 2 ∧ m.transport < 2 then m.correction + ((m.egress : Int) - (m.ingress : Int)) else m.correction

/-- PTP_TRANSIT: from the end of stage A on, a message passes between the ports; on UDP/IPv4 a corrected one gets a new checksum. -/
def execPtpTransit (m : PtpMsg) (s : State) : Host.Outcome State Fault Refusal :=
  if s.mgr.capFixed && !(s.mgr.mode == .off) then
    .next (s.emit (.ptp (ptpCorrection m) (decide (m.kind < 2) && m.transport == 1)))
  else .next s

end Sys2Proof.Machine
end

