-- ==== Sys2Proof/Machine/RegRead.lean ====
section
/-! DEFINITION. Where registers stand (R11, R16, R328, R330, Tables 14.2 and 14.4) and what they read as (the register tables of every
chapter). -/

namespace Sys2Proof.Machine

/-- A register block. -/
inductive Block where
  | mgr
  | hub (k : Nat)
  | scb
  | crk
  | glw
  | lcw
  | ktd
  | worker (w : Nat)
  | workerCal (w : Nat)
  | ring (w : Nat)
  | tile (t : Nat)
  | module (k : Nat)
  deriving DecidableEq, Repr

/-! ## Addresses -/

/-- A worker block that answers: fitted, answering, not failed (R16, R228). -/
def State.workerBlock (s : State) (w ofs : Nat) : Option (Block × Nat) := if s.workerUp w then some (.worker w, ofs) else none

/-- The block and offset of a BAR0 offset (Table 14.2) on the link of a sled, the alias of the own hub's block aside. -/
def State.barPlace (s : State) (a : Nat) : Option (Block × Nat) :=
  if a < 0x10000 then some (.mgr, a)
  else if a < 0x20000 then none
  else if a < 0x40000 then some (.scb, a - 0x20000)
  else if a < 0x50000 then some (.crk, a - 0x40000)
  else if a < 0x60000 then some (.glw, a - 0x50000)
  else if a < 0x80000 then some (.lcw, a - 0x60000)
  else if a < 0x90000 then some (.ktd, a - 0x80000)
  else if 0x100000 ≤ a ∧ a < 0x100000 + 0x10000 * s.fit.sleds then some (.hub ((a - 0x100000) / 0x10000), a % 0x10000)
  else if 0x400000 ≤ a then
    let n := (a - 0x400000) / 0x10000
    if n / 17 < 8 then s.workerBlock (workerCode (n / 17) (n % 17)) (a % 0x10000) else none
  else none

/-- A BAR0 offset as the host link of sled `k` carries it (R328). -/
def State.linkPlace (s : State) (k a : Nat) : Option (Block × Nat) :=
  if 0x10000 ≤ a ∧ a < 0x20000 then some (.hub k, a - 0x10000) else if a < 2 ^ 24 then s.barPlace a else none

/-- The block and offset of a machine address in space 3 (R330, Table 14.4). A ring block starts at 10_0000h and reaches as far as the
offsets at which R286 puts its registers (log 17). -/
def State.spacePlace (s : State) (a : Nat) : Option (Block × Nat) :=
  let site := addrSite a
  let sled := addrSled a
  let ofs := addrOffset a
  if addrSpace a != 3 then none
  else if site ≤ 16 then
    if ofs < 0x10000 then s.workerBlock (workerCode sled site) ofs
    else if 0x200000 ≤ ofs ∧ ofs < 0x210000 ∧ (s.workerUp (workerCode sled site) = true) then
      some (.workerCal (workerCode sled site), ofs - 0x200000)
    else if 0x100000 ≤ ofs ∧ ofs < 0x140000 ∧ s.fit.lacewing = true ∧ s.workerUp (workerCode sled site) = true then
      some (.ring (workerCode sled site), ofs - 0x100000)
    else none
  else if site = 17 then (if sled < s.fit.sleds ∧ ofs < 0x10000 then some (.hub sled, ofs) else none)
  else if sled ≠ 0 then none
  else if site = 24 then (if ofs < 0x100000 then s.barPlace ofs else none)
  else if site = 25 then
    let t := ofs / 2 ^ 24
    if t < 104 ∧ s.fit.tileOk t = true then some (.tile t, ofs % 2 ^ 24) else none
  else if site = 26 then
    let k := ofs / 2 ^ 24
    if ofs % 2 ^ 24 < 2 ^ 20 ∧ s.fit.moduleOk k = true then some (.module k, ofs % 2 ^ 24) else none
  else none

/-- A register place as an access path names it: a BAR0 offset on a host link, a machine address on a management port. -/
def State.pathPlace (s : State) (p : Path) (a : Nat) : Option (Block × Nat) :=
  match p with
  | .host k => s.linkPlace k a
  | .mgmt _ => s.spacePlace a

/-! ## The manager, hub and Katydid blocks -/

/-- TICKSTAT of a domain (Table 2.2). -/
def State.tickStat (s : State) (d : Nat) : Nat :=
  let x := s.dom d
  let rs := s.countedRx d
  let locked := if rs.isEmpty then x.seen else rs.all fun u => (s.rx u).locked
  let last := match rs with | u :: _ => (s.rx u).lastOfs | [] => 0
  bit1 locked * 2 ^ 31 + bit1 x.refOk * 2 ^ 30 + bit1 x.flywheel * 2 ^ 29 + s.missingOf d * 2 ^ 24 + toBits 8 last * 2 ^ 16 + x.faults

/-- MGR.STATE (Table 3.2). -/
def State.stateReg (s : State) : Nat :=
  min 0xFFFF s.mgr.age * 2 ^ 16 + s.mgr.cause * 2 ^ 8 + s.mgr.prev * 2 ^ 4 + s.mgr.mode.code

/-- MGR.IMGSTAT (Table 4.9). -/
def State.imgStat (s : State) : Nat :=
  s.img.lastCode * 2 ^ 24 + s.img.lastOp * 2 ^ 22 + s.imgPhase * 2 ^ 8 + bit1 s.img.wirePart * 8 + bit1 s.img.scarPart * 4 +
    bit1 s.img.staged.isSome * 2 + bit1 s.img.active.isSome

/-- The ID of an image, 0 for none. -/
def imageId : Option Image → Nat
  | some i => i.id
  | none => 0

/-- A mask register of owners: bit b of word m is owner 32m + b. -/
def maskWord (l : List Nat) (m : Nat) : Nat := ((List.range 32).filter fun b => l.contains (32 * m + b)).foldl (fun n b => n + 2 ^ b) 0

/-- MGR.OWNERSTAT (Table 7.7). -/
def State.ownerStat (s : State) : Nat :=
  let o := s.owners
  let part : Nat × Nat × Nat := match o.opening, o.releasing with
    | some x, _ => (0, x.owner, 1)
    | none, some r => if r.erasing then (1, if r.single then r.owners.headD 255 else 255, 3) else (0, r.owners.headD 255, 2)
    | none, none => (0, 255, 0)
  part.1 * 2 ^ 31 + part.2.1 * 2 ^ 16 + part.2.2 * 2 ^ 12 + o.live.length

/-- MGR.LBUDGET (Table 11.9). -/
def State.lbudget (s : State) : Nat := bit1 s.mgr.lbMode * 2 ^ 31 + bit1 s.light.valid * 2 ^ 30 + s.light.level

/-- The manager block. -/
def State.mgrReg (s : State) (o : Nat) : Option Nat :=
  if o = 0 then some s.cap
  else if o = 4 then some s.inv
  else if o = 8 then some (s.tickStat 8)
  else if o = 0xC then some s.stateReg
  else if o = 0x40 then some s.imgStat
  else if o = 0x44 then some (bit1 (s.mgr.imgPolReqSig && s.fit.sig))
  else if o = 0x48 then some (imageId s.img.active % 2 ^ 32)
  else if o = 0x4C then some (imageId s.img.active / 2 ^ 32)
  else if o = 0x50 then some (imageId s.img.staged % 2 ^ 32)
  else if o = 0x54 then some (imageId s.img.staged / 2 ^ 32)
  else if 0x80 ≤ o ∧ o < 0xA0 then some (maskWord s.owners.live ((o - 0x80) / 4))
  else if o = 0xA0 then some s.ownerStat
  else if o = 0xA4 then some s.seqMax
  else if o = 0xC0 then some s.lbudget
  else if o = 0xD0 ∨ o = 0xD4 then some (s.mgr.ipv4.get 0 ((o - 0xD0) / 4))
  else none

/-- HUB.SUPPLY (Table 3.11). -/
def Hub.supply (h : Hub) : Nat := bit1 h.holdReqOn * 2 ^ 31 + h.sags * 2 ^ 16 + h.bus

/-- HUB.SPARE (Table 9.8). -/
def Hub.spareReg (h : Hub) : Nat := bit1 h.spare.inUse * 2 ^ 31 + h.spare.site * 2 ^ 16 + h.spare.phase * 2 ^ 12

/-- HUB.QSTAT of a pair. -/
def Queue.statReg (q : Queue) : Nat := bit1 q.error * 2 ^ 31 + q.errCode * 2 ^ 28 + q.sqHead * 2 ^ 16 + q.inflight

/-- The registers of a queue pair (Table 14.5); doorbells read 0. -/
def Queue.reg (q : Queue) (o : Nat) : Option Nat :=
  if o = 0 then some (q.sqBase % 2 ^ 32)
  else if o = 4 then some (q.sqBase / 2 ^ 32)
  else if o = 8 then some (q.cqBase % 2 ^ 32)
  else if o = 0xC then some (q.cqBase / 2 ^ 32)
  else if o = 0x10 then some q.cfgReg
  else if o = 0x14 ∨ o = 0x18 then some 0
  else if o = 0x1C then some q.statReg
  else none

/-- A hub block. -/
def State.hubReg (s : State) (k o : Nat) : Option Nat :=
  let h := s.hub k
  if o = 0 then some (s.hubInv k)
  else if o = 0x10 then some (s.tickStat k)
  else if o = 0x14 then some (h.step % 2 ^ 32)
  else if o = 0x18 then some (h.frame % 2 ^ 32)
  else if o = 0x1C then some (h.frame / 2 ^ 32 % 2 ^ 32)
  else if o = 0x20 then some (h.slips % 2 ^ 32)
  else if o = 0x24 then some h.supply
  else if o = 0x28 then some h.spareReg
  else if o = 0x2C then some h.failed
  else if o = 0x30 then some (h.errCode * 2 ^ 24 + h.errOffset)
  else if o = 0x34 then some (h.refused * 2 ^ 16 + h.discards)
  else if o = 0x38 then some (bit1 h.linkUp * 2 ^ 31 + h.lostCpl * 2 ^ 16 + h.gts * 2 ^ 8 + h.width)
  else if o = 0x40 then some h.bar2Base
  else if o = 0x48 then some (s.storeFree k / 2 ^ 20)
  else if o = 0x4C then some h.store.length
  else if o = 0x800 then some (h.eqBase % 2 ^ 32)
  else if o = 0x804 then some (h.eqBase / 2 ^ 32)
  else if o = 0x808 then some (bit1 h.eqEnable * 2 ^ 31 + h.eqLog * 2 ^ 8)
  else if o = 0x80C then some 0
  else if o = 0x810 then some (h.eqLost * 2 ^ 16 + h.eqTail)
  else if 0x1000 ≤ o ∧ o < 0x1800 then (h.queue ((o - 0x1000) / 32)).reg (o % 32)
  else none

/-- The three time registers of a time T and an epoch (Table 14.13). -/
def timeWords (t epoch : Nat) : List Nat :=
  let ns := t / 65536
  [ns % 1000000000, ns / 1000000000 % 2 ^ 32, epoch * 2 ^ 16 + ns / 1000000000 / 2 ^ 32 % 2 ^ 16]

/-- The Katydid block, `mc` manager cycles into the manager frame. -/
def State.ktdReg (s : State) (mc o : Nat) : Option Nat :=
  let x := s.ktd
  if o < 0xC ∧ o % 4 = 0 then some ((timeWords (x.time mc) x.epoch).getD (o / 4) 0)
  else if 0x10 ≤ o ∧ o < 0x1C ∧ o % 4 = 0 then some ((timeWords x.boundT x.boundEpoch).getD ((o - 0x10) / 4) 0)
  else if o = 0x1C then some (x.boundFrame % 2 ^ 32)
  else if o = 0x20 then some (bit1 x.locked * 2 ^ 31 + bit1 (x.backlog != 0) * 2 ^ 30 + toBits 24 x.rate)
  else if o = 0x24 then some (bit1 x.enable * 2 ^ 31 + x.transport * 2 ^ 8 + x.domain)
  else none

/-! ## The Scarab, Cricket, Lacewing and Glowworm blocks -/

/-- SCB.STAT (Table 13.9). -/
def Scarab.stat (x : Scarab) : Nat :=
  bit1 x.run * 2 ^ 31 + bit1 x.armed * 2 ^ 30 + bit1 x.checking.isSome * 2 ^ 29 + bit1 x.chkFail * 2 ^ 28 + bit1 x.bank * 2 ^ 27 +
    bit1 x.staged * 2 ^ 26 + x.swaps * 2 ^ 16 + x.cancels * 2 ^ 8

/-- The Scarab block. -/
def State.scbReg (s : State) (o : Nat) : Option Nat :=
  let x := s.scb
  if o = 0 then some x.stat
  else if o = 4 then some (min 0xFFFF x.maxEnd * 2 ^ 16 + min 0xFFFF x.lastEnd)
  else if o = 8 then some (x.qFull * 2 ^ 24 + x.cmdFull * 2 ^ 16 + x.badOut * 2 ^ 8 + x.stpDrop)
  else if o = 0xC then some (x.ovf % 2 ^ 32)
  else if o = 0x10 then some (x.ovf / 2 ^ 32 % 2 ^ 32)
  else if o = 0x14 then some 0
  else if 0x40 ≤ o ∧ o < 0x80 then some (x.mail.get 0 ((o - 0x40) / 4))
  else if 0x10000 ≤ o ∧ o < 0x14000 then some (x.retained.get 0 ((o - 0x10000) / 4))
  else none

/-- The Cricket block (Table 9.8). -/
def State.crkReg (s : State) (o : Nat) : Option Nat :=
  if o < 0x4000 then
    let x := s.circ (o / 4)
    some (x.flightSt * 2 ^ 30 + x.retakes * 2 ^ 28 + x.flight % 2 ^ 23)
  else if 0x4000 ≤ o ∧ o < 0x4000 + 4 * 576 then
    let q := (o - 0x4000) / 4
    if s.fit.lportOk q then
      let x := s.lport q
      some (bit1 x.legValid * 2 ^ 31 + x.leg)
    else none
  else if 0x6000 ≤ o ∧ o < 0x6000 + 4 * 576 then
    let q := (o - 0x6000) / 4
    if s.fit.lportOk q then
      let x := s.lport q
      some (x.result * 2 ^ 29 + x.rxFound * 2 ^ 16 + x.txFound)
    else none
  else none

/-- A plane fiber of a tile has failed (R248). -/
def State.fiberFailed (s : State) (t : Nat) : Bool :=
  if t < 36 then s.plane.fiberIn.any fun f => f.1 == t
  else if t < 68 then (s.plane.fiberIn.any fun f => f.2 == t - 36) || s.plane.fiberOut.any fun f => f.1 == t - 36
  else s.plane.fiberOut.any fun f => f.2 == t - 68

/-- The largest excess on a tile, of circuits that stand (R248, Table 10.8). -/
def State.excessOn (s : State) (t : Nat) : Nat :=
  ((s.tile t).excess.cells.filter fun c => (s.circ (c.1 / 8)).standing).foldl (fun m c => max m c.2) 0

/-- LCW.TILE_t (Table 10.8). -/
def State.tileReg (s : State) (t : Nat) : Nat :=
  let x := s.tile t
  let st := if x.failed then 3 else if x.evacuated || x.verifying then 1 else if s.fiberFailed t then 2 else 0
  st * 2 ^ 30 + (s.tileCircs t).length * 2 ^ 16 + min 255 (s.excessOn t)

/-- LCW.CIRC_c (Table 10.8). -/
def Circ.reg (x : Circ) : Nat := x.state * 2 ^ 29 + x.qclass * 2 ^ 27 + x.middle * 2 ^ 16 + min 0xFFFF x.loss

/-- |ε| of a cell in LOCKTOL/16 units; FFh where LOCKTOL is not positive and ε is not 0. -/
def Cell.worst (x : Cell) : Nat :=
  let e := x.epsLog.foldl max 0
  if x.rc.locktol ≤ 0 then (if e = 0 then 0 else 255) else min 255 (e * 16 / x.rc.locktol.toNat)

/-- Heater cells of a circuit: tile and heater, two for each element of its routes. -/
def State.circHeaters (s : State) (c : Nat) : List (Nat × Nat) :=
  (s.circHops c).flatMap fun h => (tilePath h.1 (s.tile h.1).elems (posLink h.1 h.2.1)).flatMap fun e => [(h.1, 2 * e.1), (h.1, 2 * e.1 + 1)]

/-- LCW.QUAL_c (Table 12.3): 0 for a circuit that is absent. -/
def State.qualReg (s : State) (c : Nat) : Nat :=
  let x := s.circ c
  if x.state = 0 then 0
  else
    let worst := (s.circHeaters c).foldl (fun m h => max m (s.cell (.tile h.1) h.2).worst) 0
    toBits 8 (((usableLimit x.qclass : Int) - (x.loss : Int)) / 10) * 2 ^ 24 + min 255 x.lockT * 2 ^ 16 + min 255 x.hits * 2 ^ 8 + worst

/-- The Lacewing block. -/
def State.lcwReg (s : State) (o : Nat) : Option Nat :=
  let p := s.plane
  if !s.fit.lacewing then none
  else if o = 0 then some (bit1 p.autoBypass * 2 + bit1 p.quietOnly)
  else if o = 4 then
    let count := if p.st = 2 ∨ p.st = 3 then (match p.plan with | some q => q.report.length | none => 0) else 0
    let ticket := if p.st = 2 ∨ p.st = 3 then p.ticket else 0
    some (ticket % 2 ^ 16 * 2 ^ 16 + p.st * 2 ^ 12 + min 1023 count)
  else if 0x100 ≤ o ∧ o < 0x100 + 4 * 104 then
    if s.fit.tileOk ((o - 0x100) / 4) then some (s.tileReg ((o - 0x100) / 4)) else none
  else if 0x1000 ≤ o ∧ o < 0x5000 then some (s.circ ((o - 0x1000) / 4)).reg
  else if 0x5000 ≤ o ∧ o < 0x9000 then some (s.qualReg ((o - 0x5000) / 4))
  else none

/-- GLW.EYE (Table 10.8). -/
def State.eyeReg (s : State) : Nat := bit1 (decide (0 < s.glows)) * 2 ^ 31 + min 0xFFFF s.glows

/-- GLW.MOD_k (Table 10.8). -/
def Module.reg (x : Module) : Nat :=
  bit1 x.failed * 2 ^ 31 + x.live * 2 ^ 16 + x.sub8 * 2 ^ 12 + x.sub9 * 2 ^ 8 + x.degraded * 2 ^ 4

/-- The Glowworm block. -/
def State.glwReg (s : State) (o : Nat) : Option Nat :=
  if !s.fit.lacewing then none
  else if o = 0 then some s.eyeReg
  else if 0x100 ≤ o ∧ o < 0x100 + 4 * 35 then
    if s.fit.moduleOk ((o - 0x100) / 4) then some (s.module ((o - 0x100) / 4)).reg else none
  else if 0x200 ≤ o ∧ o < 0x200 + 4 * 35 then
    let x := s.module ((o - 0x200) / 4)
    if s.fit.moduleOk ((o - 0x200) / 4) then some (if x.failed then 0xFFFF else x.glow) else none
  else none

/-! ## Worker blocks -/

/-- WKR.PDCTL (Table 3.7): the latched request where there is one; bit 0 reads 1, bits of domains that power nothing read 0. -/
def State.pdctl (s : State) (w : Nat) : Nat :=
  let x := s.worker w
  let v : Nat × Bool := x.latched.getD (x.on, false)
  ((v.1 ||| 1) &&& s.fit.domainMask) + bit1 v.2 * 2 ^ 31

/-- WKR.CMAP_m (Table 5.10). -/
def Worker.cmapReg (x : Worker) (m : Nat) : Nat :=
  (List.range 4).foldl (init := 0) fun n b =>
    n + (match x.physOf (4 * m + b) with | some p => 0x80 + p | none => 0x3F) * 2 ^ (8 * b)

/-- Physical cores that are healthy, powered and unmapped (WKR.SPARES). -/
def Worker.spareCores (x : Worker) : List Nat :=
  (List.range 50).filter fun n => !(x.core n).retired && x.powered (clusterOf n) && (x.logicalOf n).isNone

/-- Retired physical cores of a range as a mask. -/
def Worker.retiredMask (x : Worker) (lo n : Nat) : Nat :=
  ((List.range n).filter fun i => (x.core (lo + i)).retired).foldl (fun m i => m + 2 ^ i) 0

/-- WRL.STAT (Table 2.4). -/
def State.wrlStat (s : State) (w : Nat) : Nat :=
  let x := s.worker w
  bit1 x.wrlFail * 2 ^ 31 + bit1 ((List.range 32).any fun g => s.barrierPending g w) * 2 ^ 30 + x.lat * 2 ^ 26 + x.barrier % 2 ^ 24

/-- WKR.MEMSTAT (Table 7.4). -/
def Worker.memStat (x : Worker) : Nat := bit1 (x.hot && x.powered 7) * 2 ^ 31 + x.sparesMin * 2 ^ 16 + x.uncorr * 2 ^ 8 + x.corr

/-- Pages of a share that objects hold. -/
def usedPages (spans : List (Nat × Nat)) : Nat := (spans.map (·.2)).sum

/-- MND.STAT (Table 8.7): state 1 is loading, 4 and 5 are moves. -/
def Worker.mndStat (x : Worker) : Nat :=
  let st := x.objs.cells.map fun o => o.2.state
  bit1 (st.contains 1) * 2 ^ 31 + bit1 (st.contains 4 || st.contains 5) * 2 ^ 30 + (st.filter fun v => v != 0).length

/-- A circuit is live on a port. -/
def State.liveOn (s : State) (c : Option Nat) : Bool := match c with | some c => (s.circ c).live | none => false

/-- The registers of optical port `p` (Tables 9.8 and 12.3). -/
def State.optReg (s : State) (w p o : Nat) : Option Nat :=
  let y := (s.worker w).port p
  if o = 0 then
    some (bit1 (s.liveOn y.tx) * 2 ^ 31 + bit1 (s.lportConfirmed (s.fit.lportOf w p)) * 2 ^ 30 + y.tx.getD 0 * 2 ^ 16 +
      (match y.tx with | some c => min 0xFFFF (s.circ c).credit | none => 0))
  else if o = 4 then some (bit1 (s.liveOn y.rx) * 2 ^ 31 + y.rx.getD 0 * 2 ^ 16 + min 1023 y.occ)
  else if o = 8 then some (min 0xFFFFFFFF y.lost)
  else if o = 0xC then some (y.uncorr * 2 ^ 16 + y.corr)
  else if o = 0x10 then some (y.short * 2 ^ 24 + y.misroute * 2 ^ 16 + y.discard)
  else if o = 0x14 then some (y.verResult * 2 ^ 30 + y.swing * 2 ^ 8 + y.rxSnr)
  else none

/-- The registers of physical core `n` (Tables 5.9 and 6.3, STG.CHECKS, STG.FAULT_AT). -/
def Worker.stgReg (x : Worker) (n o : Nat) : Option Nat :=
  let c := x.core n
  let l := x.logicalOf n
  if o = 0 then some (bit1 c.retired * 2 ^ 31 + bit1 l.isSome * 2 ^ 30 + c.cause * 2 ^ 27 + l.getD 255 * 2 ^ 16 + c.skips)
  else if o = 4 then some (c.checks % 2 ^ 32)
  else if o = 8 then some (c.faultCycle * 2 ^ 19 + c.faultJ % 2 ^ 19)
  else if o = 0xC then some (c.nans * 2 ^ 16 + c.sats)
  else none

/-- The power domain of a register of a worker block (Table 0.11). -/
def workerDomain (o : Nat) : Nat :=
  if 0x4000 ≤ o then clusterOf ((o - 0x4000) / 0x100)
  else if o = 0x100 ∨ o = 0x104 ∨ (0x300 ≤ o ∧ o < 0x330) then 0
  else 1

/-- A worker block's registers with every domain on. -/
def State.workerVal (s : State) (w o : Nat) : Option Nat :=
  let x := s.worker w
  if o = 0x100 then some (s.pdctl w)
  else if o = 0x104 then some (x.pdRefused * 2 ^ 16 + (x.pwr &&& s.fit.domainMask))
  else if 0x200 ≤ o ∧ o < 0x230 then some (x.cmapReg ((o - 0x200) / 4))
  else if o = 0x230 then some (x.retiredMask 0 32)
  else if o = 0x234 then some (x.retiredMask 32 18)
  else if o = 0x238 then some (min 15 x.spareCores.length)
  else if o = 0x300 then some x.memStat
  else if o = 0x304 then some (x.voidWr * 2 ^ 16 + x.hostWr)
  else if 0x310 ≤ o ∧ o < 0x330 then some (maskWord ((List.range 256).filter fun k => (x.slot k).live) ((o - 0x310) / 4))
  else if o = 0x400 then some (sharePages (s.shares w).1 - usedPages (x.objs.cells.flatMap fun v => v.2.held false))
  else if o = 0x404 then some (sharePages (s.shares w).2 - usedPages (x.objs.cells.flatMap fun v => v.2.held true))
  else if o = 0x408 then some x.mndStat
  else if o = 0x40C then some x.denied
  else if 0x500 ≤ o ∧ o < 0x580 then
    let j := (o - 0x500) / 8
    if j < s.fit.links then
      let l := x.link j
      if o % 8 = 0 then some (bit1 l.up * 2 ^ 31 + l.credit % 256 * 2 ^ 16 + l.occ % 256 * 2 ^ 8)
      else some (l.uncorr * 2 ^ 16 + l.corr)
    else none
  else if 0x580 ≤ o ∧ o < 0x600 then (if s.fit.lacewing then s.optReg w ((o - 0x580) / 32) ((o - 0x580) % 32) else none)
  else if o = 0x1040 then some (s.wrlStat w)
  else if 0x4000 ≤ o ∧ o < 0x4000 + 0x100 * 50 then x.stgReg ((o - 0x4000) / 0x100) (o % 0x100)
  else none

/-- A worker block: registers of a domain that is off read 0 (R12). -/
def State.workerReg (s : State) (w o : Nat) : Option Nat :=
  (s.workerVal w o).map fun v => if (s.worker w).powered (workerDomain o) then v else 0

/-! ## Tile and module blocks -/

/-- WVL.CELL_STAT_h (Table 11.9). -/
def Cell.stat (x : Cell) : Nat :=
  x.mode * 2 ^ 29 + bit1 x.locked * 2 ^ 28 + bit1 x.sat * 2 ^ 27 + bit1 x.dacsat * 2 ^ 26 + bit1 x.impl * 2 ^ 25 + x.reason * 2 ^ 20 +
    x.retries * 2 ^ 18 + x.result * 2 ^ 16 + x.code

/-- The 64 bytes of a cell's coefficient window: the record as latched, and the tune result record (R266, R281, Table 11.9). -/
def Cell.window64 (x : Cell) : List Byte :=
  let r := x.latched.getD x.rc
  r.toBytes ++ leBytes 3 (toBits 24 x.tuneA1) ++ leBytes 3 (toBits 24 x.tuneB0) ++ leBytes 3 (toBits 24 x.tuneB1) ++
    leBytes 3 x.tuneKu ++ leBytes 2 x.tunePu ++ leBytes 1 x.result ++ leBytes 1 0

/-- The word at an offset of a list of bytes. -/
def wordAt (b : List Byte) (o : Nat) : Nat := leNat ((b.drop o).take 4)

/-- A ring engine's cell is powered: cells 0 to 15 by PD9, the others by PD10 (Table 0.11). -/
def State.cellPowered (s : State) (e : Engine) (h : Nat) : Bool :=
  match e with
  | .ring w => s.workerUp w && (s.worker w).powered (9 + h / 16)
  | _ => true

/-- The cells' registers and coefficient windows of an engine (R286); those of a cell without power read 0 (R12). -/
def State.cellReg (s : State) (e : Engine) (top o : Nat) : Option Nat :=
  if 0x20000 ≤ o ∧ o < 0x20000 + 8 * top then
    let h := (o - 0x20000) / 8
    if h < engineCells e ∧ s.cellPowered e h = true then
      let x := s.cell e h
      some (if o % 8 = 0 then x.stat else x.dac * 2 ^ 16 + x.power % 2 ^ 16)
    else some 0
  else if 0x30000 ≤ o ∧ o < 0x30000 + 64 * top then
    let h := (o - 0x30000) / 64
    if h < engineCells e ∧ s.cellPowered e h = true then some (wordAt (s.cell e h).window64 (o % 64)) else some 0
  else none

/-- Bytes of a part's calibration store (chapter 12). -/
def calSize : Engine → Nat
  | .tile _ => 0x800000
  | .module _ => 0x40000
  | .ring _ => 0x10000

/-- A word of a calibration store's window (R288, R299). -/
def State.calWord (s : State) (e : Engine) (o : Nat) : Nat :=
  leNat ((List.range 4).map fun i => (s.cal e).byte (partOf e) (calSize e) (o + i))

/-- WVL.TEMP (Table 11.9). -/
def Tile.tempReg (x : Tile) : Nat :=
  let open_ := ((List.range 4).filter fun i => (x.therm.get Sensor.init i).isOpen).foldl (fun m i => m + 2 ^ i) 0
  bit1 x.modelled * 2 ^ 31 + open_ * 2 ^ 27 + toBits 16 x.temp

/-- WVL.TRCTL (Table 11.9). -/
def Tile.trctl (x : Tile) : Nat := bit1 x.arm * 2 ^ 31 + x.trig * 2 ^ 28 + x.trCells * 2 ^ 26 + x.post * 2 ^ 12

/-- A Weevil driver's block (Tables 11.9 and 12.3). -/
def State.wvlReg (s : State) (t o : Nat) : Option Nat :=
  let x := s.tile t
  if o = 0 then some x.tempReg
  else if 4 ≤ o ∧ o < 0x14 then
    let y := x.therm.get Sensor.init ((o - 4) / 4)
    some (bit1 y.isOpen * 2 ^ 31 + bit1 y.tag * 2 ^ 30 + y.code % 2 ^ 16)
  else if o = 0x20 then some x.trsel0
  else if o = 0x24 then some x.trsel1
  else if o = 0x28 then some x.trctl
  else if o = 0x2C then some (bit1 x.stopped * 2 ^ 31 + bit1 x.wrapped * 2 ^ 30 + x.next)
  else if o = 0x30 then
    some (bit1 x.cal.sealed * 2 ^ 31 + bit1 x.outRange * 2 ^ 30 + x.verRes * 2 ^ 28 + min 255 x.cal.rejects * 2 ^ 16 + x.cal.gen % 2 ^ 16)
  else if o = 0x34 then some (min 0xFFFF x.ffDev * 2 ^ 16 + min 255 x.gainDev * 2 ^ 8 + min 255 x.snr)
  else if 0x80000 ≤ o ∧ o < 0x90000 then some (wordAt (x.trace.get [] ((o - 0x80000) / 16)) (o % 16))
  else if 0x800000 ≤ o then some (s.calWord (.tile t) (o - 0x800000))
  else s.cellReg (.tile t) 768 o

/-- A GLM-10 module's block (R286, Table 14.4). -/
def State.glmReg (s : State) (k o : Nat) : Option Nat :=
  if 0x40000 ≤ o ∧ o < 0x80000 then some (s.calWord (.module k) (o - 0x40000)) else s.cellReg (.module k) 20 o

/-! ## One register -/

/-- The word a register reads as, `mc` manager cycles into the manager frame; `none` where no register stands there (R8, R16). -/
def State.regVal (s : State) (mc : Nat) (b : Block) (o : Nat) : Option Nat :=
  if o % 4 ≠ 0 then none
  else match b with
    | .mgr => s.mgrReg o
    | .hub k => s.hubReg k o
    | .scb => s.scbReg o
    | .crk => s.crkReg o
    | .glw => s.glwReg o
    | .lcw => s.lcwReg o
    | .ktd => s.ktdReg mc o
    | .worker w => s.workerReg w o
    | .workerCal w => some (s.calWord (.ring w) o)
    | .ring w => s.cellReg (.ring w) 32 o
    | .tile t => s.wvlReg t o
    | .module k => s.glmReg k o

/-- Registers that latch others of their set when they are read (R43): how many higher words follow. -/
def latchSet (b : Block) (o : Nat) : Option (Nat × Nat) :=
  match b with
  | .hub _ => if o = 0x18 ∨ o = 0x1C then some (0x18, 2) else none
  | .mgr => if o = 0x48 ∨ o = 0x4C then some (0x48, 2) else if o = 0x50 ∨ o = 0x54 then some (0x50, 2) else none
  | .worker _ => if o = 0x230 ∨ o = 0x234 then some (0x230, 2) else none
  | .ktd => if o < 0xC then some (0, 3) else if 0x10 ≤ o ∧ o < 0x1C then some (0x10, 3) else none
  | _ => none

/-- A number that names a block and an offset, for the latches. -/
def blockKey (b : Block) (o : Nat) : Nat :=
  let n := match b with
    | .mgr => 0 | .scb => 1 | .crk => 2 | .glw => 3 | .lcw => 4 | .ktd => 5 | .hub k => 16 + k | .worker w => 256 + w
    | .workerCal w => 512 + w | .ring w => 768 + w | .tile t => 1024 + t | .module k => 2048 + k
  n * 2 ^ 24 + o

/-- A register read on a path (R43): the `_0` word of a set latches the higher words; a higher word gives what the path has latched, and
its live value where it has latched nothing. -/
def State.readReg (s : State) (p : Path) (mc : Nat) (b : Block) (o : Nat) : Nat × State :=
  let live : Nat → Nat := fun x => (s.regVal mc b x).getD 0
  match latchSet b o with
  | none => (live o, s)
  | some (base, n) =>
    let key := blockKey b base
    if o = base then
      let l : Latch := { path := p, base := key, vals := (List.range (n - 1)).map fun i => live (base + 4 * (i + 1)) }
      (live o, s.updHost fun h => { h with latches := l :: h.latches.filter fun x => !(x.path == p && x.base == key) })
    else match s.host.latches.find? fun x => x.path == p && x.base == key with
      | some l => (l.vals.getD ((o - base) / 4 - 1) 0, s)
      | none => (live o, s)

/-- A read at a place that may hold no register, which reads 0. -/
def State.readAt (s : State) (p : Path) (mc : Nat) (pl : Option (Block × Nat)) : Nat × State :=
  match pl with
  | none => (0, s)
  | some (b, o) => s.readReg p mc b o

end Sys2Proof.Machine
end

