-- ==== Sys2Proof/Machine/Registers.lean ====
section
/-! DEFINITION. Register writes and the accesses of a host link (Tables 0.7, 3.4, 14.5a, R8, R9, R55, R56, R168, R329 to R331), with the
rows of the registers that have their own, and the delivery of the Scarab engine's writes and commands (R311 to R313, R321). -/

namespace Sys2Proof.Machine

/-! ## Merging (R56, Table 0.7) -/

/-- Bits of a W1C field that are left after a write of `v`. -/
def clearBits (old v : Nat) : Nat := old - (old &&& v)

/-! ## Which writes are refused (Table 3.4, R9, R329) -/

/-- A register of a worker, a tile driver or a laser module: the column "Worker and tile registers" of Table 3.4. -/
def Block.isPart : Block → Bool
  | .worker _ => true
  | .workerCal _ => true
  | .ring _ => true
  | .tile _ => true
  | .module _ => true
  | _ => false

/-- An RWQ register: MGR.IMGPOL, MGR.LBUDGET, MGR.IPV4_p, KTD.PTPCFG. -/
def isRwq (b : Block) (o : Nat) : Bool :=
  match b with
  | .mgr => o == 0x44 || o == 0xC0 || o == 0xD0 || o == 0xD4
  | .ktd => o == 0x24
  | _ => false

/-- The refusal of a write in the present state; 0 for none. In Limp the registers by which a host submits commands stay writable. -/
def State.gate (s : State) (b : Block) (o : Nat) : Nat :=
  match s.mgr.mode with
  | .limp => (match b with | .hub _ => if isLinkReg o then 0 else stWrongState | _ => stWrongState)
  | .doze =>
    if b.isPart then
      (match b with | .worker _ => if workerDomain o = 0 then 0 else stBusy | .workerCal _ => 0 | _ => stBusy)
    else if isRwq b o then stWrongState else 0
  | .hold =>
    if b.isPart then (match b with | .worker _ => if o = 0x100 then 0 else stBusy | _ => stBusy)
    else if isRwq b o then stWrongState else 0
  | .quiescent => 0
  | .bringUp => if b.isPart || isRwq b o then stWrongState else 0
  | _ => if isRwq b o then stWrongState else 0

/-! ## What a write does -/

/-- Manager cycles from the first manager frame to cycle `mc` of the present one. -/
def State.cycleAt (s : State) (mc : Nat) : Nat := s.mgr.frame * 4096 + mc

/-- WKR.PDCTL written: merged into the latched value; a later write replaces an earlier one (R55, R56, R65, R68). -/
def State.writePdctl (s : State) (w v be mc : Nat) : State :=
  let m := mergeBytes (s.pdctl w) v be
  s.updWorker w fun x =>
    { x with
      latched := some (((m % 4096) ||| 1) &&& s.fit.domainMask, m.testBit 31)
      latchAt := { frame := (s.hub (sledOf w)).frame, at_ := s.cycleAt mc, scarab := [] } }

/-- A W1C-all register written: a field is cleared whole where its lowest bit is written 1 (Tables 6.3 and 7.5). -/
def StagCore.clearCvt (x : StagCore) (v : Nat) : StagCore :=
  { x with sats := if v.testBit 0 then 0 else x.sats, nans := if v.testBit 16 then 0 else x.nans }

/-- WKR.MEMDROP written. -/
def Worker.clearDrop (x : Worker) (v : Nat) : Worker :=
  { x with hostWr := if v.testBit 0 then 0 else x.hostWr, voidWr := if v.testBit 16 then 0 else x.voidWr }

/-- A worker-block register written; writes to a domain that is off are ignored (R12). -/
def State.writeWorker (s : State) (w o v be mc : Nat) : State :=
  let m := v &&& byteMask be
  if !(s.worker w).powered (workerDomain o) then s
  else if o = 0x100 then s.writePdctl w v be mc
  else if o = 0x104 then s.updWorker w fun x => { x with pdRefused := clearBits x.pdRefused (bitsOf m 27 16) }
  else if o = 0x304 then s.updWorker w fun x => x.clearDrop m
  else if o = 0x1040 then s.updWorker w fun x => { x with wrlFail := x.wrlFail && !m.testBit 31 }
  else if 0x4000 ≤ o ∧ o < 0x4000 + 0x100 * 50 ∧ o % 0x100 = 0xC then s.updCore w ((o - 0x4000) / 0x100) fun x => x.clearCvt m
  else s

/-- The trace ring starts again at entry 0 (R283). -/
def Tile.restartRing (x : Tile) : Tile := { x with next := 0, wrapped := false, stopped := false, postLeft := none }

/-- WVL.TRCTL written (R282, R283). -/
def Tile.writeTrctl (x : Tile) (v be : Nat) : Tile :=
  let m := mergeBytes x.trctl v be
  { x.restartRing with arm := m.testBit 31, trig := bitsOf m 30 28, trCells := bitsOf m 27 26, post := bitsOf m 23 12 }

/-- WVL.TRSEL_i written: cells in [9:0] and [25:16]. -/
def Tile.writeTrsel (x : Tile) (i v be : Nat) : Tile :=
  let f : Nat → Nat := fun old => let m := mergeBytes old v be; m % 1024 + bitsOf m 25 16 * 2 ^ 16
  if i = 0 then { x.restartRing with trsel0 := f x.trsel0 } else { x.restartRing with trsel1 := f x.trsel1 }

/-- The sticky flags of a cell written (W1C). -/
def Cell.clearFlags (x : Cell) (m : Nat) : Cell :=
  { x with sat := x.sat && !m.testBit 27, dacsat := x.dacsat && !m.testBit 26, impl := x.impl && !m.testBit 25 }

/-- Bytes written into a cell's coefficient window (R266): merged into what is latched, else into what is in force; bytes 30h up are
read-only. Of two writes accepted in one manager cycle, the Scarab engine's is the later (R56): a write of another origin leaves the
bytes that the engine wrote in that cycle. `frame` is the frame of the cell's time domain, `at_` the manager cycle, `scb` whether the
engine writes. -/
def Cell.writeWindow (x : Cell) (h ofs : Nat) (bytes : List Byte) (frame at_ : Nat) (scb : Bool) : Cell :=
  let old := (x.latched.getD x.rc).toBytes
  let mine : List Nat := if x.latched.isSome ∧ x.latchAt.at_ = at_ then x.latchAt.scarab else []
  let takes : Nat → Bool := fun i => decide (ofs ≤ i) && decide (i < ofs + bytes.length) && (scb || !mine.contains i)
  let new := old.zipIdx.map fun b => if takes b.2 then bytes.getD (b.2 - ofs) 0 else b.1
  let scarab := if scb then (mine ++ (List.range bytes.length).map fun i => ofs + i).dedup else mine
  if ofs < 48 then
    { x with latched := some { LoopRec.ofBytes new with cell := h }, latchAt := { frame := frame, at_ := at_, scarab := scarab } }
  else x

/-- The frame count of the time domain of an engine's cells (R55). -/
def State.cellFrame (s : State) (e : Engine) : Nat :=
  match e with | .ring w => (s.hub (sledOf w)).frame | _ => s.mgr.frame

/-- A coefficient window written; a cell without an actuator ignores it (R25, R257). -/
def State.writeWindow (s : State) (e : Engine) (h ofs : Nat) (bytes : List Byte) (mc : Nat) (scb : Bool) : State :=
  if s.fit.engineOk e && decide (h < engineCells e) && s.cellPowered e h then
    s.updCell e h fun x => x.writeWindow h ofs bytes (s.cellFrame e) (s.cycleAt mc) scb
  else s

/-- Registers of an engine's cells written; those of a cell without power ignore it (R12). -/
def State.writeCells (s : State) (e : Engine) (o v be mc : Nat) (scb : Bool) : State :=
  if 0x20000 ≤ o ∧ o < 0x30000 ∧ o % 8 = 0 ∧ (o - 0x20000) / 8 < engineCells e then
    let h := (o - 0x20000) / 8
    if s.cellPowered e h then s.updCell e h fun x => x.clearFlags (v &&& byteMask be) else s
  else if 0x30000 ≤ o ∧ o < 0x40000 then
    (List.range 4).foldl (init := s) fun st i =>
      if be.testBit i then st.writeWindow e ((o - 0x30000) / 64) (o % 64 + i) [BitVec.ofNat 8 (v / 256 ^ i)] mc scb else st
  else s

/-- SCB.DOORBELL: one arrival at e(48 + n) for each bit set (R317). -/
def State.ringDoorbell (s : State) (v mc : Nat) : State :=
  s.forEach ((List.range 16).filter v.testBit) fun st n => st.arrive (48 + n) 1 mc

/-- A register written under its access types (Table 0.7, R8). `own` is the sled whose own link carries the write, `mc` the manager
cycle in which the block accepts it, `scb` whether the Scarab engine writes it. -/
def State.writeReg (s : State) (own : Option Nat) (b : Block) (o v be mc : Nat) (scb : Bool) : State :=
  let m := v &&& byteMask be
  match b with
  | .mgr =>
    if o = 0x44 then s.updMgr fun g => { g with imgPolReqSig := (mergeBytes (bit1 g.imgPolReqSig) v be).testBit 0 }
    else if o = 0xC0 then s.updMgr fun g => { g with lbMode := (mergeBytes (bit1 g.lbMode * 2 ^ 31) v be).testBit 31 }
    else if o = 0xD0 ∨ o = 0xD4 then
      s.updMgr fun g => { g with ipv4 := g.ipv4.set ((o - 0xD0) / 4) (mergeBytes (g.ipv4.get 0 ((o - 0xD0) / 4)) v be) }
    else s
  | .hub k => if own = some k ∧ isLinkReg o = true then s.writeLinkReg k o v be else s
  | .scb =>
    if o = 0 then s.updScb fun x => { x with chkFail := x.chkFail && !m.testBit 28 }
    else if o = 0xC then s.updScb fun x => { x with ovf := clearBits x.ovf m }
    else if o = 0x10 then s.updScb fun x => { x with ovf := clearBits x.ovf (m * 2 ^ 32) }
    else if o = 0x14 then s.ringDoorbell (m % 2 ^ 16) mc
    else if 0x40 ≤ o ∧ o < 0x80 then
      s.updScb fun x => { x with mail := x.mail.set ((o - 0x40) / 4) (mergeBytes (x.mail.get 0 ((o - 0x40) / 4)) v be) }
    else s
  | .lcw =>
    if o = 0 then
      let z := mergeBytes (bit1 s.plane.autoBypass * 2 + bit1 s.plane.quietOnly) v be
      s.updPlane fun p => { p with autoBypass := z.testBit 1, quietOnly := z.testBit 0 }
    else s
  | .ktd =>
    if o = 0x24 then
      let z := mergeBytes (bit1 s.ktd.enable * 2 ^ 31 + s.ktd.transport * 2 ^ 8 + s.ktd.domain) v be
      s.updKtd fun x =>
        let same := x.enable == z.testBit 31 && x.transport == bitsOf z 9 8 && x.domain == z % 256
        { x with
          enable := z.testBit 31, transport := bitsOf z 9 8, domain := z % 256, locked := x.locked && same
          master := if same then x.master else none }
    else s
  | .worker w => s.writeWorker w o v be mc
  | .tile t =>
    if o = 0x20 then s.updTile t fun x => x.writeTrsel 0 v be
    else if o = 0x24 then s.updTile t fun x => x.writeTrsel 1 v be
    else if o = 0x28 then s.updTile t fun x => x.writeTrctl v be
    else s.writeCells (.tile t) o v be mc scb
  | .module k => s.writeCells (.module k) o v be mc scb
  | .ring w => s.writeCells (.ring w) o v be mc scb
  | _ => s

/-- A write that has reached its block: ignored where no register stands there, refused with a status, or done. -/
def State.regWrite1 (s : State) (own : Option Nat) (b : Block) (o v be mc : Nat) (scb : Bool) : Nat × State :=
  if (s.regVal 0 b o).isNone then (0, s)
  else
    let g := s.gate b o
    if g ≠ 0 then (g, s) else (0, s.writeReg own b o v be mc scb)

/-! ## Refusals recorded (R329) -/

/-- A refused write recorded at the hub that carries it. -/
def State.recordRefusal (s : State) (k code ofs : Nat) : State :=
  s.updHub k fun h => { h with errCode := code, errOffset := ofs % 2 ^ 24, refused := satInc 0xFFFF h.refused }

/-- The BAR0 offset of a block's register; none where the block lies outside BAR0. -/
def barOffset : Block → Nat → Option Nat
  | .mgr, o => some o
  | .scb, o => some (0x20000 + o)
  | .crk, o => some (0x40000 + o)
  | .glw, o => some (0x50000 + o)
  | .lcw, o => some (0x60000 + o)
  | .ktd, o => some (0x80000 + o)
  | .hub k, o => some (0x100000 + 0x10000 * k + o)
  | .worker w, o => some (0x400000 + 0x10000 * (17 * sledOf w + siteOf w) + o)
  | _, _ => none

/-- A refusal recorded for a register; the offset of one outside BAR0 is not given, and is free. -/
def State.recordAt (s : State) (k code : Nat) (ofs : Option Nat) : State :=
  match ofs with
  | some o => s.recordRefusal k code o
  | none =>
    let d := s.draw
    d.2.recordRefusal k code (Config.openResult d.1)

/-- A write of a word to a block over a host link. -/
def State.hostWrite1 (s : State) (k : Nat) (b : Block) (o v be mc : Nat) (ofs : Option Nat) : State :=
  let r := s.regWrite1 (some k) b o v be mc false
  if r.1 ≠ 0 then r.2.recordAt k r.1 ofs else r.2

/-- A management port answers a request: from the end of bring-up (R348). -/
def State.mgmtOpen (s : State) (port : Nat) : Bool := decide (port < 2) && !s.mgr.mode.deaf

/-- The write of a word at a place over a path; a place that holds no block ignores it, and an access in Bring-up is discarded and
counted whatever it names (R64). -/
def State.rowWrite (s : State) (p : Path) (pl : Option (Block × Nat)) (v mc : Nat) : State :=
  match p with
  | .host k =>
    s.hostAccess k fun st =>
      match pl with
      | none => st
      | some (b, o) => st.hostWrite1 k b o v 15 mc (barOffset b o)
  | .mgmt port =>
    if s.mgmtOpen port then
      match pl with
      | none => s
      | some (b, o) => (s.regWrite1 none b o v 15 mc false).2
    else s

/-! ## The rows -/

/-- REGISTER_WRITE (R329): the write of some bytes of a word. -/
def execRegisterWrite (p : Path) (offset value be mc : Nat) (s : State) : Host.Outcome State Fault Refusal :=
  match p with
  | .host k =>
    .next <| s.hostAccess k fun st =>
      match st.linkPlace k offset with
      | none => st
      | some (b, o) => st.hostWrite1 k b o value be mc (some offset)
  | .mgmt port =>
    if s.mgmtOpen port then
      match s.spacePlace offset with
      | none => .next s
      | some (b, o) => .next (s.regWrite1 none b o value be mc false).2
    else .next s

/-- LATCHED_READ (R43): a read of a register, with what it latches. In Bring-up a host read gets Unsupported Request (answer 2). -/
def execLatchedRead (p : Path) (offset mc : Nat) (s : State) : Host.Outcome State Fault Refusal :=
  match p with
  | .host k =>
    if s.fit.sleds ≤ k ∨ !(s.hub k).linkUp ∨ s.mgr.mode = .off then .next s
    else if s.mgr.mode = .bringUp then .next (s.emit (.pcie k 2))
    else
      let r := s.readAt p mc (s.linkPlace k offset)
      .next (r.2.emit (.reg p offset r.1))
  | .mgmt port =>
    if s.mgmtOpen port then
      let r := s.readAt p mc (s.spacePlace offset)
      .next (r.2.emit (.reg p offset r.1))
    else .next s

/-- WKR.PDCTL written with FORCE as the value has it (R65). -/
def execWkrPdctlOnWrite (p : Path) (w value : Nat) (s : State) : Host.Outcome State Fault Refusal :=
  .next (s.rowWrite p (s.workerBlock w 0x100) value 0)

/-- WKR.PDCTL written with FORCE = 1 (R67). -/
def execWkrPdctlForceWrite (p : Path) (w value : Nat) (s : State) : Host.Outcome State Fault Refusal :=
  .next (s.rowWrite p (s.workerBlock w 0x100) (value ||| 2 ^ 31) 0)

/-- STG.CVT of a physical core written (R145). -/
def execStgCvtWrite (p : Path) (w n value : Nat) (s : State) : Host.Outcome State Fault Refusal :=
  .next (s.rowWrite p (if n < 50 then s.workerBlock w (0x4000 + 0x100 * n + 0xC) else none) value 0)

/-- WKR.MEMDROP written (Table 7.5). -/
def execWkrMemdropWrite (p : Path) (w value : Nat) (s : State) : Host.Outcome State Fault Refusal :=
  .next (s.rowWrite p (s.workerBlock w 0x304) value 0)

/-- WVL.TRCTL written (R283). -/
def execWvlTrctlWrite (p : Path) (t value : Nat) (s : State) : Host.Outcome State Fault Refusal :=
  .next (s.rowWrite p (if s.fit.tileOk t then some (.tile t, 0x28) else none) value 0)

/-- WVL.TRSEL_i written (R283). -/
def execWvlTrselWrite (p : Path) (t i value : Nat) (s : State) : Host.Outcome State Fault Refusal :=
  .next (s.rowWrite p (if s.fit.tileOk t && decide (i < 2) then some (.tile t, 0x20 + 4 * i) else none) value 0)

/-- The block in which an engine's registers stand, for the refusals of Table 3.4. -/
def engineBlock : Engine → Block
  | .tile t => .tile t
  | .module k => .module k
  | .ring w => .ring w

/-- A coefficient window written over a path (R266, R286); that of an engine that is not fitted is ignored (R16). -/
def State.windowAccess (s : State) (k : Option Nat) (e : Engine) (h ofs : Nat) (bytes : List Byte) (mc : Nat) : State :=
  let g := s.gate (engineBlock e) 0x30000
  if !s.fit.engineOk e then s
  else if g ≠ 0 then (match k with | some k => s.recordAt k g none | none => s)
  else s.writeWindow e h ofs bytes mc false

/-- COEFFICIENT_WINDOW_WRITE (R266). -/
def execCoefficientWindowWrite (p : Path) (e : Engine) (h ofs : Nat) (bytes : List Byte) (mc : Nat) (s : State) :
    Host.Outcome State Fault Refusal :=
  match p with
  | .host k => .next <| s.hostAccess k fun st => st.windowAccess (some k) e h ofs bytes mc
  | .mgmt port => if s.mgmtOpen port then .next (s.windowAccess none e h ofs bytes mc) else .next s

/-- SCB.DOORBELL written, `mc` manager cycles into the frame (R317). -/
def execScbDoorbell (p : Path) (value mc : Nat) (s : State) : Host.Outcome State Fault Refusal :=
  let ring : State → State := fun st => st.ringDoorbell (value % 2 ^ 16) mc
  match p with
  | .host k =>
    .next <| s.hostAccess k fun st =>
      let g := st.gate .scb 0x14
      if g ≠ 0 then st.recordAt k g (some 0x20014) else ring st
  | .mgmt port => if s.mgmtOpen port && s.gate .scb 0x14 == 0 then .next (ring s) else .next s

/-! ## BAR2 (R331, Table 14.5a) -/

/-- A tier location that answers the host: it exists, its worker is up, and its tier is powered (R12, R16, R146). -/
def State.tierAnswers (s : State) (a : Nat) : Bool :=
  s.tierPresent a && s.workerUp (addrWorker a) && (s.worker (addrWorker a)).powered (if addrSpace a = 0 then 7 else 8)

/-- A byte that a host reads from a tier (R168): plaintext of owner 0's pages, the stored ciphertext of others; 0 where nothing is. -/
def State.hostByte (s : State) (a : Nat) : Byte :=
  if !s.tierAnswers a then 0
  else if s.pageOwner (addrWorker a) (addrSpace a) (addrOffset a) = 0 then s.tierByte a else s.tierCipher a

/-- The bytes of one line of an access that starts at `a` with `n` bytes. -/
def lineBytes (a n line : Nat) : List Nat := (List.range 64).filterMap fun j =>
  let x := line * 64 + j
  if a ≤ x ∧ x < a + n then some x else none

/-- A tier read by the host: the errors of its lines are corrected or found; with one that cannot be corrected the completion is
poisoned (R153, R154); beyond five bytes the decoder's answer is free. -/
def State.hostTierRead (s : State) (k a n : Nat) (errs : List (Nat × Nat)) : State :=
  let lines := (List.range (if n = 0 then 0 else (a + n - 1) / 64 - a / 64 + 1)).map fun i => a / 64 + i
  let r := lines.zipIdx.foldl (init := (s, false, ([] : List Byte))) fun acc l =>
    let e := ((errs.find? fun e => e.1 == l.2).map (·.2)).getD 0
    if s.tierAnswers (l.1 * 64) then
      let q := acc.1.lineErrors (l.1 * 64) e
      let data := (lineBytes a n l.1).map fun x => if 5 < e then Config.miscorrect s.mgr.fresh x else s.hostByte x
      (q.1, acc.2.1 || q.2, acc.2.2 ++ data)
    else (acc.1, acc.2.1, acc.2.2 ++ (lineBytes a n l.1).map fun _ => 0)
  let s1 := if errs.isEmpty then r.1 else r.1.draw.2
  if r.2.1 then s1.emit (.poisoned k a) else s1.emit (.bytes k a r.2.2)

/-- A tier write by the host (R168): lines of owner 0's pages are written; lines of others' are discarded and counted in HOSTWR. -/
def State.hostTierWrite (s : State) (a : Nat) (bytes : List Byte) : State :=
  let n := bytes.length
  let lines := (List.range (if n = 0 then 0 else (a + n - 1) / 64 - a / 64 + 1)).map fun i => a / 64 + i
  s.forEach lines fun st l =>
    if !st.tierAnswers (l * 64) then st
    else if st.pageOwner (addrWorker (l * 64)) (addrSpace (l * 64)) (addrOffset (l * 64)) = 0 then
      let xs := lineBytes a n l
      st.tierWrite (xs.headD 0) (xs.map fun x => bytes.getD (x - a) 0)
    else st.updWorker (addrWorker (l * 64)) fun x => { x with hostWr := satInc 0xFFFF x.hostWr }

/-- Registers read through BAR2 (space 3), word by word. -/
def State.hostRegRead (s : State) (k a n mc : Nat) : State :=
  let words := (List.range (if n = 0 then 0 else (a + n - 1) / 4 - a / 4 + 1)).map fun i => (a / 4 + i) * 4
  let r := words.foldl (init := (s, ([] : List Byte))) fun acc x =>
    let q := acc.1.readAt (.host k) mc (acc.1.spacePlace x)
    (q.2, acc.2 ++ leBytes 4 q.1)
  r.1.emit (.bytes k a ((r.2.drop (a % 4)).take n))

/-- Registers written through BAR2 (space 3): "as a BAR0 access to the same block". -/
def State.hostRegWrite (s : State) (k a : Nat) (bytes : List Byte) (mc : Nat) : State :=
  let n := bytes.length
  let words := (List.range (if n = 0 then 0 else (a + n - 1) / 4 - a / 4 + 1)).map fun i => (a / 4 + i) * 4
  s.forEach words fun st x =>
    match st.spacePlace x with
    | none => st
    | some (b, o) =>
      let part := (List.range 4).map fun i => (decide (a ≤ x + i) && decide (x + i < a + n), bytes.getD (x + i - a) 0)
      let be := part.zipIdx.foldl (fun m p => m + bit1 p.1.1 * 2 ^ p.2) 0
      let v := leNat (part.map fun p => if p.1 then p.2 else 0)
      st.hostWrite1 k b o v be mc (barOffset b o)

/-- BAR2_ACCESS: an access at window offset `x` (R331). Answers: 2 Unsupported Request, 3 Completer Abort. -/
def execBar2Access (link x : Nat) (op : BarOp) (mc : Nat) (s : State) : Host.Outcome State Fault Refusal :=
  if s.fit.sleds ≤ link ∨ !(s.hub link).linkUp ∨ s.mgr.mode = .off then .next s
  else
    let a := (s.hub link).bar2Base * 2 ^ 36 + x % 2 ^ 36
    match op with
    | .read n errs =>
      if s.mgr.mode = .bringUp then .next (s.emit (.pcie link 2))
      else if addrSpace a = 3 then .next (s.hostRegRead link a n mc)
      else if addrSpace a < 2 then
        if s.mgr.mode = .doze ∨ s.mgr.mode = .hold then .next (s.emit (.pcie link 3)) else .next (s.hostTierRead link a n errs)
      else .next (s.emit (.pcie link 2))
    | .write bytes =>
      if s.mgr.mode = .bringUp then .next (s.updHub link fun h => { h with discards := satInc 0xFFFF h.discards })
      else if addrSpace a = 3 then .next (s.hostRegWrite link a bytes mc)
      else if addrSpace a < 2 then
        if s.mgr.mode = .doze ∨ s.mgr.mode = .hold then .next (s.recordAt link stBusy none) else .next (s.hostTierWrite a bytes)
      else .next s

/-! ## Delivery of the Scarab engine's writes and commands (R311 to R313, R321) -/

/-- The block that an OUT address names, if it is one that OUT may name (R311). -/
def State.outPlace (s : State) (a : Nat) : Option (Block × Nat) :=
  match bitsOf a 31 30 with
  | 0 =>
    if bitsOf a 29 24 ≠ 0 then none
    else match s.barPlace (bitsOf a 23 0) with
      | some (.mgr, o) => some (.mgr, o)
      | some (.lcw, o) => if s.fit.lacewing then some (.lcw, o) else none
      | some (.glw, o) => if s.fit.lacewing then some (.glw, o) else none
      | some (.hub k, o) => some (.hub k, o)
      | _ => none
  | 1 =>
    let t := bitsOf a 29 23
    if bitsOf a 22 20 = 0 ∧ t < 104 ∧ s.fit.tileOk t = true then some (.tile t, bitsOf a 19 0) else none
  | 2 =>
    let k := bitsOf a 29 24
    if bitsOf a 23 20 = 0 ∧ s.fit.moduleOk k = true then some (.module k, bitsOf a 19 0) else none
  | _ => none

/-- One queued write delivered: discarded and counted in BADOUT where its address or target is not allowed, or where it names an RWQ
register outside Quiescent; one to a hub block travels to its hub (R311). -/
def State.deliverOut (s : State) (a v mc : Nat) : State :=
  let bad : State := s.updScb fun x => { x with badOut := satInc 0xFF x.badOut }
  match s.outPlace a with
  | none => bad
  | some (.hub k, o) => s.updHub k fun h => { h with outs := h.outs ++ [(h.frame, o, v)] }
  | some (b, o) => if isRwq b o && s.mgr.mode != .quiescent then bad else (s.regWrite1 none b o v 15 mc true).2

/-- A command record read out of its bytes (Table 14.6). -/
def Cmd.ofBytes (src : Source) (b : List Byte) (data data2 : Option (List Byte)) : Cmd :=
  { src := src, op := fieldLE b 0 2, flags := fieldLE b 2 2, tag := fieldLE b 4 4, addr := fieldLE b 8 8, len := fieldLE b 0x10 8
    id := fieldLE b 0x18 8, addr2 := fieldLE b 0x20 8, unit := fieldLE b 0x28 2, limit := fieldLE b 0x2A 2, count := fieldLE b 0x2C 2
    sel := fieldLE b 0x2E 1, window := fieldLE b 0x2F 1, aux := fieldLE b 0x30 2, nonce := fieldLE b 0x32 4
    rsvd := fieldLE b 0x36 10, data := data, data2 := data2 }

/-- A command that the program posted in slot `n`, taken in as one from a management port is (R312); what host data it names the spec
does not say, and it is free. -/
def State.postCmd (s : State) (n : Nat) (words : List Nat) : State :=
  let d := s.draw
  let c := Cmd.ofBytes (.scarab n) (words.flatMap (leBytes 4)) (Config.scarabData d.1 0) (Config.scarabData d.1 1)
  d.2.updHost fun h => { h with intake := h.intake ++ [(3616 + n, c)] }

/-- The writes and commands of a scan that has ended, delivered and posted in their order, one write per manager cycle from 3,616 on (R305, R313,
Table 13.1). -/
def State.deliver (s : State) : State :=
  let outs := s.scb.outq
  let cmds := s.scb.cmdq
  let s1 := s.updScb fun x => { x with outq := [], cmdq := [] }
  let s2 := outs.zipIdx.foldl (fun st o => st.deliverOut o.1.1 o.1.2 (3616 + o.2)) s1
  cmds.zipIdx.foldl (fun st c => st.postCmd c.2 c.1) s2

/-- WATCHDOG_CHECK at scan cycle 3,584 (R313, R321): after END the scan's writes and commands go out; without END it is an overrun, the
controller stops, and Limp follows with CAUSE 4h. -/
def execWatchdogCheck (s : State) : Host.Outcome State Fault Refusal :=
  if !s.scb.run || s.scb.halted then .next s
  else if s.scb.ended then .next s.deliver
  else if 3584 ≤ s.scb.cyc then
    .next ((s.updScb Scarab.stop).updMgr fun m => { m with limpReq := m.limpReq.orElse fun _ => some 4 })
  else .next s

end Sys2Proof.Machine
end

