-- ==== Sys2Proof/Machine/Jobs.lean ====
section
/-! DEFINITION. Jobs, stops and rollbacks, mirrors, and owner data in and out (R343 to R346, R356 to R361). -/

namespace Sys2Proof.Machine

/-! ## Starting a job (R343, R344) -/

/-- The fields of a job descriptor (Table 14.11). -/
structure JobDesc where
  image   : Nat
  group   : Nat
  nmound  : Nat
  last    : Nat
  steps   : Nat
  mound   : List Nat
  args    : List Nat
  deriving DecidableEq, Repr

/-- A job descriptor read out of its bytes. -/
def JobDesc.ofBytes (b : List Byte) : JobDesc :=
  let n := fieldLE b 9 1
  { image := fieldLE b 0 8, group := fieldLE b 8 1, nmound := n, last := fieldLE b 0xC 4, steps := fieldLE b 0x10 4
    mound := (List.range (min 8 n)).map fun i => fieldLE b (0x20 + 2 * i) 2
    args := (List.range 16).map fun i => fieldLE b (0x40 + 8 * i) 8 }

/-- Ranges of a descriptor: at most 8 objects, unused entries zero, LASTPOS in 21 bits. -/
def descOk (b : List Byte) : Bool :=
  let n := fieldLE b 9 1
  b.length == 256 && decide (n ≤ 8) && decide (fieldLE b 0xC 4 < 2 ^ 21) && zeroAt b (0x20 + 2 * n) (16 - 2 * n) &&
    (JobDesc.ofBytes b).mound.all fun o => decide (o < 4096)

/-- Workers of a group that have a Mound window: a region of space 4 (R180). -/
def State.moundWorkers (s : State) (g : Nat) : List Nat :=
  let ws : List RegionDef := match s.img.active with | some i => i.regions.filter (fun (r : RegionDef) => r.space == 4) | none => []
  (s.participants g).filter fun w => ws.any fun r => r.w == s.roleOf w

/-- A listed object may be named by a job of a group on a worker (R192). -/
def State.objectFits (s : State) (w g : Nat) (list : List Nat) (o : Nat) : Bool :=
  let t := (s.worker w).objs
  let m := t.get MObj.init o
  m.inPrimary && !m.secondary &&
    (m.kind == 0 || ((m.owner == 0 || m.owner == s.groupOwner g) &&
      list.any fun b => (t.get MObj.init b).kind == 0 && (t.get MObj.init b).inPrimary && (t.get MObj.init b).digest == m.base))

/-- The Mound list of a job start (R192). -/
def State.moundFits (s : State) (g : Nat) (list : List Nat) : Bool :=
  (s.moundWorkers g).all fun w => list.all (s.objectFits w g list)

/-- Every listed object is still resident at J0 (R344). -/
def State.moundStill (s : State) (g : Nat) (list : List Nat) : Bool :=
  (s.moundWorkers g).all fun w => list.all fun o => ((s.worker w).objs.get MObj.init o).inPrimary

/-- The circuits that a request or an operation of the plane deals with. -/
def State.planned (s : State) : List Nat :=
  s.plane.autos.flatMap (·.circs) ++ (match s.plane.req with | some r => r.circs | none => []) ++
    (match s.plane.plan with | some p => p.circs | none => []) ++ s.plane.ops.flatMap fun o => o.plan.circs

/-- A circuit of the group is DOWN: rejected or late, or torn with nothing on its way to set it up again (R240, R248). -/
def State.groupDown (s : State) (g : Nat) : Bool :=
  s.circs.cells.any fun c =>
    (s.circGroups c.1).contains g && (c.2.state == 5 || (c.2.state == 6 && !s.planned.contains c.1))

/-- The owner may start jobs: it is live, and no release of it has been accepted (R160). -/
def State.ownerStarts (s : State) (o : Nat) : Bool :=
  s.owners.live.contains o && (match s.owners.releasing with | some r => !r.owners.contains o | none => true)

/-- The checks of R343 from the second on. -/
def State.jobChecks (s : State) (b : List Byte) : List (Bool × Nat) :=
  let d := JobDesc.ofBytes b
  [(s.img.active.isSome && d.image == s.activeId, stWrongImage),
   (descOk b && (s.groupDef d.group).isSome && decide (0 < d.steps) && d.steps % s.strideOf d.group == 0, stBadCommand),
   (s.ownerStarts (s.groupOwner d.group) && !s.img.barred.contains d.group, stOwnerAbsent),
   (decide (d.last + 1 ≤ s.seqMax), stSeqTooLong),
   (!s.groupDown d.group, stCircuitDown),
   (s.moundFits d.group d.mound, 0x2B),
   (decide ((s.group d.group).queue.length < 16), stBusy)]

/-- A job as it is accepted. -/
def JobDesc.job (d : JobDesc) (c : Cmd) (handle frame : Nat) : Job :=
  { cmd := c, handle := handle, image := d.image, steps := d.steps, lastPos := d.last, mound := d.mound, args := d.args, j0 := none
    decided := frame, stepAt := 0, begun := [], replays := Tab.empty, total := 0, mirrorDone := none, toReplay := [], ran := 0 }

/-- A wake request by a job start (R70). -/
def State.wakeByJob (s : State) : State :=
  if s.mgr.doze.isSome then
    s.updMgr fun m => { m with wake := some (m.wake.getD { frame := m.frame, cmds := [] }) }
  else s

/-- A job accepted: it is queued, and starts at once where its group is free. The interim completion carries its handle, and J0 where it
is fixed; a J0 that is not fixed yet is free. -/
def State.acceptJob (s : State) (c : Cmd) (b : List Byte) : State :=
  let d := JobDesc.ofBytes b
  let h := s.host.nextHandle
  let s1 := (s.updHost fun x => { x with nextHandle := (h + 1) % 0xFFFF }).wakeByJob
  let s2 := (s1.updGroup d.group fun x => { x with queue := x.queue ++ [d.job c h s.mgr.frame] }).scheduleJob d.group
  match (s2.group d.group).running with
  | some j =>
    if j.handle = h ∧ j.begun.isEmpty then s2.interim c [(2, h), (4, j.j0.getD 0)]
    else
      let f := s2.draw
      f.2.interim c [(2, h), (4, Config.openResult f.1)]
  | none =>
    let f := s2.draw
    f.2.interim c [(2, h), (4, Config.openResult f.1)]

/-- JOB_START (R343): during a pending activation it waits for it. -/
def State.jobStart (s : State) (c : Cmd) : State :=
  s.decideCmd c 0x0050 true c.data.isSome [.loaded, .running, .doze] [] fun st =>
    if st.draining then st.updImg fun i => { i with waitJobs := i.waitJobs ++ [c] }
    else match firstFail (st.jobChecks (c.data.getD [])) with
      | some code => st.final c code
      | none => st.acceptJob c (c.data.getD [])

/-- JOB_START has its own refusals of a state: 41h in Quiescent and Service, 42h in Passage and Hold (R343). -/
def execJobStart (c : Cmd) (s : State) : Host.Outcome State Fault Refusal := .next (s.jobStart c)

/-- Starts that waited for an activation are decided once it is over (R100, R343). -/
def State.settleWaiting (s : State) : State :=
  if s.draining || s.mgr.mode == .passage || s.mgr.mode == .hold then s
  else
    let cs := s.img.waitJobs
    cs.foldl (fun st c => st.jobStart c) (s.updImg fun i => { i with waitJobs := [] })

/-- The boundary of a job's first step on a sled (R193, R344): its pins are applied there and its cores start; where a listed object is no
longer resident the job does not start. -/
def execJobFirstStep (g k : Nat) (s : State) : Host.Outcome State Fault Refusal :=
  let h := s.hub k
  match (s.group g).running with
  | none => .next s
  | some j =>
    if h.started ∧ !h.isSlip ∧ h.step = j.stepAt ∧ (s.groupSleds g).contains k ∧ !j.begun.contains k ∧
        !(s.group g).sledsStopped.contains k ∧ (s.group g).abortReason = 0 then
      if j.begun.isEmpty ∧ !(s.moundStill g j.mound) then .next ((s.final j.cmd 0x2B).endJob g)
      else
        let ws := (s.participants g).filter fun w => sledOf w == k
        let s1 := s.updGroup g fun x => { x with running := x.running.map fun y => { y with begun := y.begun ++ [k] } }
        let s2 := s1.forEach ws State.syncPins
        let binds : List BindDef := match s2.img.active with | some i => i.binds.filter (fun (b : BindDef) => b.gid == g) | none => []
        let s3 := binds.foldl (init := s2) fun (st : State) (b : BindDef) =>
          let w := st.actorOf b.w
          if sledOf w = k ∧ st.workerUp w then st.startCore b g j w else st
        .next (s3.noteStep k)
    else .next s

/-- A job ends when its last step has run and the barrier of its last stride has completed at every participant (R345). -/
def execJobEnd (g : Nat) (s : State) : Host.Outcome State Fault Refusal :=
  match (s.group g).running with
  | none => .next s
  | some j =>
    if decide (j.steps ≤ j.ran) &&
        ((s.participants g).all fun w => decide ((j.stepAt + j.steps) / s.strideOf g ≤ (s.group g).done.get 0 w)) then
      .next ((s.final j.cmd stOk [(4, j.steps), (2, j.total)]).endJob g)
    else .next s

/-! ## Aborting (R345) -/

/-- A group whose job is being aborted and whose every sled has stopped: the job ends, with EV_JOB_LOST where it was forced. -/
def State.finishAbort (s : State) (g : Nat) : State :=
  let x := s.group g
  if x.abortReason ≠ 0 ∧ s.allStopped g = true then
    match x.running with
    | none => s
    | some j =>
      let s1 := if x.abortReason = 255 then (s.final j.cmd stCancelled).endJob g else s.loseJob g x.abortReason
      s1.final? x.aborting stOk
  else s

/-- The groups whose running job has this handle. -/
def State.groupOfHandle (s : State) (h : Nat) : Option Nat :=
  s.runningGroups.find? fun g => match (s.group g).running with | some j => j.handle == h | none => false

/-- The groups that have queued a job with this handle. -/
def State.queueOfHandle (s : State) (h : Nat) : Option Nat :=
  (List.range 32).find? fun g => (s.group g).queue.any fun j => j.handle == h

/-- JOB_ABORT: a queued job is taken out at once; a running one stops at each sled's next boundary. -/
def State.jobAbort (s : State) (c : Cmd) : State :=
  s.decideCmd c 0x0051 true true [.quiescent, .loaded, .running, .passage, .service] [] fun st =>
    match st.groupOfHandle c.id, st.queueOfHandle c.id with
    | some g, _ =>
      if (st.group g).abortReason ≠ 0 then st.final c stBusy
      else
        let s1 := (st.updGroup g fun x => { x with aborting := some c }).abortGroup g 255
        s1.finishAbort g
    | none, some g =>
      let out := (st.group g).queue.filter fun j => j.handle == c.id
      let s1 := st.updGroup g fun x => { x with queue := x.queue.filter fun j => j.handle != c.id }
      (out.foldl (fun a j => a.final j.cmd stCancelled) s1).final c stOk
    | none, none => st.final c stBadCommand

def execJobAbort (c : Cmd) (s : State) : Host.Outcome State Fault Refusal := .next (s.jobAbort c)

/-! ## Stops and rollbacks (R356 to R358) -/

/-- STOP_TRIGGER_REPORT: a worker that sees a trigger stops its group on its sled and reports it; STOP goes to the group's sleds. -/
def execStopTriggerReport (w g reason : Nat) (s : State) : Host.Outcome State Fault Refusal :=
  if (s.participants g).contains w && s.groupRuns g then .next ((s.localTrigger (sledOf w) g reason).stopGroup g reason) else .next s

/-- STOP at a sled: from this boundary the sled starts no further step of the group. -/
def execStop (k g : Nat) (s : State) : Host.Outcome State Fault Refusal :=
  if (s.hub k).inbox.contains (.stop g) then
    let s1 := s.updHub k fun h => { h with inbox := dropMsg (fun m => m == .stop g) h.inbox }
    let s2 := s1.updGroup g fun x =>
      { x with sledsStopped := if x.running.isNone || x.sledsStopped.contains k then x.sledsStopped else x.sledsStopped ++ [k] }
    .next (s2.finishAbort g)
  else .next s

/-- A circuit of the group is being mended: it is set up, or torn while a request or an operation of the plane deals with it. -/
def State.mending (s : State) (g : Nat) : Bool :=
  s.circs.cells.any fun c =>
    (s.circGroups c.1).contains g && (c.2.state == 1 || (c.2.state == 6 && s.planned.contains c.1))

/-- A repair that the group needs has not ended (R357). -/
def State.repairing (s : State) (g : Nat) : Bool :=
  let x := s.group g
  let list := match x.running with | some j => j.mound | none => []
  s.mending g || x.restoring.isSome ||
    ((s.groupSleds g).any fun k => let p := (s.hub k).spare.phase; x.lostWorker.any fun w => sledOf w == k && (p == 1 || p == 2)) ||
    (s.moundWorkers g).any fun w => list.any fun o =>
      let st := ((s.worker w).objs.get MObj.init o).state
      st == 6 || st == 1

/-- No barrier of the group is pending at a participant that is up. -/
def State.barriersOver (s : State) (g : Nat) : Bool := (s.participants g).all fun w => !s.workerUp w || !s.barrierPending g w

/-- Job strides of the running job whose barrier has completed at every participant. -/
def State.stridesDone (s : State) (g : Nat) (j : Job) : Nat :=
  ((s.participants g).foldl (fun n w => min n ((s.group g).done.get 0 w)) (2 ^ 48)) - j.stepAt / s.strideOf g

/-- The job stride from which the group replays (R357, R361). -/
def State.resumeFrom (s : State) (g : Nat) (j : Job) : Nat :=
  if (s.group g).restored then (match j.mirrorDone with | some m => m + 1 | none => 0) else s.stridesDone g j

/-- A worker of the group neither healthy nor replaced, or a circuit of it that no repair sets up (R358). -/
def State.lossReason (s : State) (g : Nat) (j : Job) (strides : List Nat) : Option Nat :=
  if (s.participants g).any fun w => !s.workerUp w then some 5
  else if s.groupDown g then some 6
  else if strides.any fun i => decide (8 ≤ j.replays.get 0 i) then some 7
  else none

/-- The job strides that a replay from a stride runs again: those that had begun since, and those of an earlier replay that a second stop
came before. -/
def Job.replayList (j : Job) (stride from_ : Nat) : List Nat :=
  let begun := (List.range (ceilDiv j.ran stride - from_)).map fun i => from_ + i
  begun ++ j.toReplay.filter fun i => decide (from_ ≤ i) && !begun.contains i

/-- ROLLBACK_DECISION (R357, R358): the restart step, the resume stride, and the job strides that are replayed; or the job is lost. -/
def execRollbackDecision (g : Nat) (s : State) : Host.Outcome State Fault Refusal :=
  let x := s.group g
  match x.running with
  | none => .next s
  | some j =>
    if (s.mgr.mode == .running || s.mgr.mode == .loaded) && (x.stopped || !x.sledsStopped.isEmpty) && s.allStopped g && x.jr.isNone &&
        x.abortReason == 0 && s.barriersOver g && !s.repairing g then
      let n := s.strideOf g
      let from_ := s.resumeFrom g j
      let strides := j.replayList n from_
      match s.lossReason g j strides with
      | some r => .next (s.loseJob g r)
      | none =>
        let jr := s.strideAt g (s.maxStep g + 3)
        .next <| s.updGroup g fun y =>
          { y with
            jr := some jr, resumeStride := from_, restored := false, lostWorker := none, tokens := []
            done := (s.participants g).foldl (fun t w => t.set w (jr / n)) y.done
            emitted := (s.participants g).foldl (fun t w => t.set w (jr / n)) y.emitted
            running := some { j with stepAt := jr - from_ * n, toReplay := strides, ran := from_ * n } }
    else .next s

/-- The bound cores of a group on a sled whose physical core is retired or missing, remapped (R128, R129). -/
def State.remapGroup (s : State) (g k : Nat) : State :=
  match s.img.active with
  | none => s
  | some i =>
    (i.binds.filter fun b => b.gid == g).foldl (init := s) fun st b =>
      let w := st.actorOf b.w
      if sledOf w = k ∧ st.workerUp w then
        match (st.worker w).physOf b.core with
        | some n => if (st.core w n).retired then st.remap w b.core else st
        | none => st.remap w b.core
      else st

/-- ROLLBACK_BOUNDARY: the boundary that starts step J_r − 1 on a sled; remaps apply, and the group starts again from the next one. -/
def execRollbackBoundary (k g : Nat) (s : State) : Host.Outcome State Fault Refusal :=
  let h := s.hub k
  match (s.group g).jr with
  | none => .next s
  | some jr =>
    if h.started ∧ !h.isSlip ∧ h.step + 1 = jr ∧ (s.group g).sledsStopped.contains k then
      let s1 := s.updGroup g fun x =>
        let left := x.sledsStopped.filter fun m => m != k
        if left.isEmpty then { x with sledsStopped := [], stopped := false, stopSent := false } else { x with sledsStopped := left }
      .next (s1.remapGroup g k)
    else .next s

/-- STRIDE_REPLAY: at J_r one EV_STRIDE_REPLAYED for each job stride replayed. -/
def execStrideReplay (g stride : Nat) (s : State) : Host.Outcome State Fault Refusal :=
  let x := s.group g
  match x.running with
  | none => .next s
  | some j =>
    let jr := j.stepAt + x.resumeStride * s.strideOf g
    if j.toReplay.contains stride ∧ jr ≤ s.maxStep g then
      let n := j.replays.get 0 stride + 1
      let j' : Job :=
        { j with replays := j.replays.set stride n, total := j.total + 1, toReplay := j.toReplay.filter fun i => i != stride }
      let s1 := s.updGroup g fun y => { y with running := some j' }
      .next <| s1.raise 0x0002
        [(0, 2, j.handle), (2, 1, g), (3, 1, x.reason), (4, 4, stride), (8, 2, n), (10, 2, j.total + 1), (12, 4, jr)]
    else .next s

/-! ## Mirrors (R360, R361) -/

/-- The worker that holds a worker's mirror: the receiver of its MIRROR circuit. -/
def State.mirrorHolder (s : State) (w : Nat) : Option Nat :=
  (s.circs.cells.find? fun c => c.2.mirror && (s.endOf c.2.src).1 == w).map fun c => (s.endOf c.2.dst).1

/-- The bank of the last committed mirror: H0 or H1 by the parity of its number. -/
def GroupDef.bankOf (d : GroupDef) (stride : Nat) : Nat :=
  match d.interval with
  | some m => ((stride + 1) / m - 1) % 2
  | none => 0

/-- One worker's checkpoint region filled from its holder's bank. -/
def State.restoreWorker (s : State) (d : GroupDef) (stride w : Nat) : State :=
  match s.mirrorHolder w with
  | none => s
  | some h =>
    match (s.mirrorRegions w)[0]?, (s.mirrorRegions h)[1 + d.bankOf stride]? with
    | some c, some b =>
      s.tierWrite (machineAddr c.space w c.base) (s.tierBytes (machineAddr b.space h b.base) (min c.size b.size))
    | _, _ => s

/-- MIRROR_RESTORE_END: every worker of the group has its checkpoint again, and the group may resume. -/
def execMirrorRestoreEnd (g : Nat) (s : State) : Host.Outcome State Fault Refusal :=
  let x := s.group g
  match x.restoring, x.running, s.groupDef g with
  | some f, some j, some d =>
    if f ≤ s.mgr.frame ∧ (s.mgr.mode = .running ∨ s.mgr.mode = .loaded) then
      let s1 := s.forEach (s.participants g) fun st w => st.restoreWorker d (j.mirrorDone.getD 0) w
      .next (s1.updGroup g fun y => { y with restoring := none, restored := true })
    else .next s
  | _, _, _ => .next s

/-! ## Owner data (R346) -/

/-- Page addresses of a transfer. -/
def transferPages (c : Cmd) : List Nat := (List.range (c.len / 4096)).map fun i => c.id + 4096 * i

/-- Operand ranges of DATA_IMPORT and DATA_EXPORT. -/
def State.transferRanges (s : State) (c : Cmd) : Bool :=
  decide (1 ≤ c.unit) && decide (c.unit ≤ 254) && c.id % 4096 == 0 && decide (0 < c.len) && c.len % 4096 == 0 &&
    decide (c.len ≤ 2 ^ 26) && decide (addrSpace c.id < 2) && s.tierPresent c.id && s.tierPresent (c.id + c.len - 1)

/-- Every page of a transfer belongs to its owner, and the owner is live. -/
def State.transferOwned (s : State) (c : Cmd) : Bool :=
  s.owners.live.contains c.unit &&
    (transferPages c).all fun a => s.pageOwner (addrWorker a) (addrSpace a) (addrOffset a) == c.unit

/-- The key of a transfer: 32 bytes of SHA3-384 over the owner's secret and four ASCII bytes, "TQDI" or "TQDX". -/
def transferKey (secret : Nat) (import_ : Bool) : List Byte :=
  (sha3_384 (secretBytes secret ++ [0x54, 0x51, 0x44, if import_ then 0x49 else 0x58])).take 32

/-- The nonce of page `i` of a transfer. -/
def transferNonce (prefix_ i : Nat) : List Byte := leBytes 4 prefix_ ++ leBytes 8 i

/-- The additional data of a page. -/
def transferAad (owner a : Nat) : List Byte := leBytes 1 owner ++ leBytes 8 a

/-- DATA_IMPORT decided. -/
def State.dataImport (s : State) (c : Cmd) : State :=
  let sized : Bool := match c.data with | some b => b.length == c.len / 4096 * 4112 | none => false
  s.decideCmd c 0x0058 (s.transferRanges c) sized [.loaded, .running] [(s.transferOwned c, stOwnerAbsent)] fun st =>
    (st.interim c).updMound fun m => { m with transfers := m.transfers ++ [{ cmd := c, import_ := true, count := 0 }] }

def execDataImport (c : Cmd) (s : State) : Host.Outcome State Fault Refusal := .next (s.dataImport c)

/-- DATA_EXPORT decided; it takes the owner's next export count. A management port carries at most 8,192 bytes back (R348). -/
def State.dataExport (s : State) (c : Cmd) : State :=
  let fits : Bool := match c.src with | .mgmt _ _ => decide (c.len / 4096 * 4112 ≤ 8192) | _ => true
  s.decideCmd c 0x0059 (s.transferRanges c && fits) true [.loaded, .running] [(s.transferOwned c, stOwnerAbsent)] fun st =>
    let n := st.owners.exports.get 0 c.unit
    ((st.interim c).updOwners fun o => { o with exports := o.exports.set c.unit (n + 1) }).updMound fun m =>
      { m with transfers := m.transfers ++ [{ cmd := c, import_ := false, count := n }] }

def execDataExport (c : Cmd) (s : State) : Host.Outcome State Fault Refusal := .next (s.dataExport c)

/-- The pages of an import, opened; `none` for one whose tag fails. -/
def State.openPages (s : State) (c : Cmd) : List (Nat × Option (List Byte)) :=
  let secret := fun a => ((s.worker (addrWorker a)).slot c.unit).secret
  (transferPages c).zipIdx.map fun p =>
    (p.1, gcmOpen (transferKey (secret p.1) true) (transferNonce c.nonce p.2) (transferAad c.unit p.1)
      (((c.data.getD []).drop (4112 * p.2)).take 4112))

/-- The pages of an export, sealed. -/
def State.sealPages (s : State) (c : Cmd) (count : Nat) : List Byte :=
  let secret := fun a => ((s.worker (addrWorker a)).slot c.unit).secret
  (transferPages c).zipIdx.flatMap fun p =>
    gcmSeal (transferKey (secret p.1) false) (transferNonce count p.2) (transferAad c.unit p.1) (s.tierBytes p.1 4096)

/-- The end of a transfer. -/
def State.endTransfer (s : State) (t : Transfer) : State :=
  let c := t.cmd
  let s1 := s.updMound fun m => { m with transfers := m.transfers.filter fun u => u != t }
  if t.import_ then
    let ps := s.openPages c
    if ps.any fun p => p.2.isNone then s1.final c stBadTag
    else (ps.foldl (fun st p => st.tierWrite p.1 (p.2.getD [])) s1).final c stOk
  else if c.data.isSome then (s1.giveBack c c.addr (s.sealPages c t.count)).final c stOk [(4, t.count)]
  else s1.final c stHostFault

/-- DATA_TRANSFER_END: the transfer of a command's tag has moved its pages. -/
def execDataTransferEnd (tag : Nat) (s : State) : Host.Outcome State Fault Refusal :=
  match s.mound.transfers.find? fun t => t.cmd.tag == tag with
  | none => .next s
  | some t => if s.mgr.mode.deaf ∨ s.mgr.mode = .doze ∨ s.mgr.mode = .hold then .next s else .next (s.endTransfer t)

end Sys2Proof.Machine
end

