-- ==== Sys2Proof/Machine/Mgmt.lean ====
section
/-! DEFINITION. The management ports (chapter 14, R347 to R349, Table 14.12). -/

namespace Sys2Proof.Machine

/-- A reply sent and remembered with its SEQ; the client's last 64 requests are kept (R348). -/
def State.remember (s : State) (d : Datagram) (r : Option Out) : State :=
  let s1 := match r with | some o => s.emit o | none => s
  s1.updHost fun h =>
    let mine := (h.seqs.filter fun q => q.1 == d.client) ++ [(d.client, d.seq, r)]
    { h with seqs := (h.seqs.filter fun q => q.1 != d.client) ++ mine.drop (mine.length - 64) }

/-- A reply to a request. -/
def State.reply (s : State) (d : Datagram) (status : Nat) (words : List Nat := []) : State :=
  s.remember d (some (.reply d.client d.seq status words))

/-- The IPv4 address of a management port (R347): `MGR.IPV4_p` where it is not zero, else what it has obtained by DHCP. -/
def State.portAddress (s : State) (p : Nat) : Nat := if s.mgr.ipv4.get 0 p = 0 then Config.dhcpAddress p else s.mgr.ipv4.get 0 p

/-- A datagram is a request to a management port (R347, Table 14.12): to one of the port's two addresses, at UDP port 4,117, with MAGIC. -/
def State.isRequest (s : State) (d : Datagram) : Bool :=
  decide (d.port < 2) && d.udp == 4117 && d.magic == 0x514D &&
    (match d.dest with | none => true | some a => a == s.portAddress d.port)

/-- A request (R348): nothing while Off or where it is none; one that repeats a SEQ gets the earlier reply and nothing is done; in Bring-up it is answered
4Ah; in Limp 41h unless it is one that Limp serves. -/
def State.request (s : State) (d : Datagram) (inLimp : Bool) (f : State → State) : State :=
  if s.mgr.mode = .off ∨ !s.isRequest d then s
  else match s.host.seqs.find? fun q => q.1 == d.client && q.2.1 == d.seq with
    | some q => (match q.2.2 with | some o => s.emit o | none => s)
    | none =>
      if s.mgr.mode = .bringUp then s.reply d stNotReady
      else if s.mgr.mode = .limp ∧ !inLimp then s.reply d stWrongState
      else f s

/-- REG_READ: 1 to 256 words of space 3. -/
def State.mgmtRead (s : State) (d : Datagram) : State :=
  if d.count = 0 ∨ 256 < d.count then s.reply d stBadCommand
  else
    let r := (List.range d.count).foldl (init := (s, ([] : List Nat))) fun acc i =>
      let q := acc.1.readAt (.mgmt d.port) d.mc (acc.1.spacePlace (d.addr + 4 * i))
      (q.2, acc.2 ++ [q.1])
    r.1.reply d stOk r.2

def execRegRead (d : Datagram) (s : State) : Host.Outcome State Fault Refusal := .next (s.request d true fun st => st.mgmtRead d)

/-- REG_WRITE: words of space 3, each under its register's access types; the reply carries the first refusal. -/
def State.mgmtWrite (s : State) (d : Datagram) : State :=
  if d.words.isEmpty ∨ 256 < d.words.length then s.reply d stBadCommand
  else
    let r := d.words.zipIdx.foldl (init := (s, 0)) fun acc w =>
      match acc.1.spacePlace (d.addr + 4 * w.2) with
      | none => acc
      | some (b, o) =>
        let q := acc.1.regWrite1 none b o w.1 15 d.mc false
        (q.2, if acc.2 = 0 then q.1 else acc.2)
    r.1.reply d r.2

def execRegWrite (d : Datagram) (s : State) : Host.Outcome State Fault Refusal := .next (s.request d false fun st => st.mgmtWrite d)

/-- Bytes of data that came with a command. -/
def commandDataSize (c : Cmd) : Nat := (c.data.getD []).length + (c.data2.getD []).length

/-- COMMAND: the record goes to the manager's intake; its replies are its completions. One that needs more than 8,192 bytes is refused. -/
def State.mgmtCommand (s : State) (d : Datagram) : State :=
  match d.cmd with
  | none => s.reply d stBadCommand
  | some c =>
    if 8192 < commandDataSize c then s.reply d stBadCommand
    else (s.remember d none).updHost fun h => { h with intake := h.intake ++ [(d.mc, { c with src := .mgmt d.client d.seq })] }

def execCommand (d : Datagram) (s : State) : Host.Outcome State Fault Refusal := .next (s.request d false fun st => st.mgmtCommand d)

/-- SUBSCRIBE: up to four subscribers are held. -/
def execSubscribe (d : Datagram) (s : State) : Host.Outcome State Fault Refusal :=
  .next <| s.request d true fun st =>
    if st.host.subs.contains d.client then st.reply d stOk
    else if 4 ≤ st.host.subs.length then st.reply d stBusy
    else (st.updHost fun h => { h with subs := h.subs ++ [d.client] }).reply d stOk

/-- UNSUBSCRIBE. -/
def execUnsubscribe (d : Datagram) (s : State) : Host.Outcome State Fault Refusal :=
  .next <| s.request d true fun st => (st.updHost fun h => { h with subs := h.subs.filter fun c => c != d.client }).reply d stOk

end Sys2Proof.Machine
end

