-- ==== Sys2Proof/Machine/Boundary.lean ====
section
/-! DEFINITION. The manager boundary (R33, R44, R61, R305, R312, R317, R334, R352): time and the tick, the transitions that are due in the
order of R61, what the manager settles, the commands of its intake, and the Scarab input image. -/

namespace Sys2Proof.Machine

/-! ## Commands of the intake (R312, R334, R348) -/

/-- LACEWING_PLAN by its SEL (Table 14.9). -/
def State.planCmd (s : State) (c : Cmd) : State :=
  if c.sel = 1 then s.planEvacuate c else if c.sel = 2 then s.planRestore c else s.planBypass c

/-- FIELD_VERIFY by its SEL (Table 14.9). -/
def State.verifyCmd (s : State) (c : Cmd) : State := if c.sel = 1 then s.verifyPort c else s.verifyTile c

/-- CAL_FACTORY as the intake decides it: what the measurement yields is free. -/
def State.factoryCmd (s : State) (c : Cmd) : State :=
  let part := match s.cmdEngine c with | some e => partOf e | none => 0
  let d := s.draw
  d.2.calFactory c (Config.factoryMeas part d.1)

/-- States, restarts and images by opcode (Table 14.9); `none` for any other opcode. -/
def State.decideState (s : State) (c : Cmd) : Option State :=
  match c.op with
  | 0x00 => some (s.nopCmd c) | 0x10 => some (s.dozeCmd c) | 0x11 => some (s.wakeCmd c) | 0x12 => some (s.holdCmd c)
  | 0x13 => some (s.resumeCmd c) | 0x14 => some (s.powerDownCmd c) | 0x15 => some (s.restartWarm c)
  | 0x16 => some (s.restartCold c) | 0x17 => some (s.enterServiceCmd c) | 0x18 => some (s.leaveServiceCmd c)
  | 0x20 => some (s.imageLoad c) | 0x21 => some (s.imageActivate c) | 0x22 => some (s.imageDiscard c)
  | 0x23 => some (s.imageDeactivate c) | _ => none

/-- Owners, the Cocoon and the Mound by opcode. -/
def State.decideStore (s : State) (c : Cmd) : Option State :=
  match c.op with
  | 0x30 => some (s.kemKeyCmd c) | 0x31 => some (s.ownerOpen c) | 0x32 => some (s.ownerRelease c)
  | 0x40 => some (s.cocoonStore c) | 0x41 => some (s.cocoonLoad c) | 0x42 => some (s.moundPromote c)
  | 0x43 => some (s.moundPin c) | 0x44 => some (s.moundUnpin c) | 0x45 => some (s.moundDrop c) | 0x46 => some (s.moundQuery c)
  | 0x47 => some (s.pubkeyAdd c) | 0x48 => some (s.pubkeyRemove c) | 0x49 => some (s.cocoonDelete c) | _ => none

/-- Jobs, data, the plane and calibration by opcode. -/
def State.decideWork (s : State) (c : Cmd) : Option State :=
  match c.op with
  | 0x50 => some (s.jobStart c) | 0x51 => some (s.jobAbort c) | 0x58 => some (s.dataImport c) | 0x59 => some (s.dataExport c)
  | 0x60 => some (s.planCmd c) | 0x61 => some (s.lacewingCommit c) | 0x62 => some (s.lacewingCancel c)
  | 0x63 => some (s.cableSearch c) | 0x70 => some (s.factoryCmd c) | 0x71 => some (s.calWrite c)
  | 0x72 => some (s.verifyCmd c) | 0x73 => some (s.loopTune c) | _ => none

/-- One command decided by its opcode; an opcode that Table 14.9 does not list is refused with 40h (R339). -/
def State.decideByOp (s : State) (c : Cmd) : State :=
  match s.decideState c, s.decideStore c, s.decideWork c with
  | some t, _, _ => t
  | none, some t, _ => t
  | none, none, some t => t
  | none, none, none => if s.mgr.mode.deaf then s else s.final c stBadCommand

/-- Where a command stands among those that arrive in one manager cycle (R334): Scarab first, then the host links in ascending sled
order, then management. -/
def sourceRank : Source → Nat
  | .scarab _ => 0
  | .host k _ _ _ => 1 + k
  | .mgmt _ _ => 9

/-- One arrival goes before another: an earlier cycle, or the same cycle and a lower rank. -/
def arrivesBefore (a b : Nat × Cmd) : Bool := decide (a.1 < b.1) || (a.1 == b.1 && decide (sourceRank a.2.src < sourceRank b.2.src))

/-- An arrival put behind those that do not go after it. -/
def insertArrival (a : Nat × Cmd) : List (Nat × Cmd) → List (Nat × Cmd)
  | [] => [a]
  | b :: rest => if arrivesBefore a b then a :: b :: rest else b :: insertArrival a rest

/-- The intake in the order in which it is decided (R334): arrivals that tie in cycle and rank keep the order in which they came. -/
def arrivalOrder (l : List (Nat × Cmd)) : List (Nat × Cmd) := l.foldl (fun acc a => insertArrival a acc) []

/-- Every command of the intake decided, in the order of arrival (R334). -/
def State.takeIntake (s : State) : State :=
  (arrivalOrder s.host.intake).foldl (fun st c => st.decideByOp c.2) (s.updHost fun h => { h with intake := [] })

/-! ## Time, the tick and the event latches -/

/-- Frame and AGE counted on (R59); in Bring-up no frame is counted, since frames count from its end (Table 13.3). -/
def Mgr.newFrame (m : Mgr) : Mgr :=
  { m with frame := if m.mode = .bringUp then m.frame else m.frame + 1, age := min 0xFFFF (m.age + 1) }

/-- Scarab's free-running count goes on, and live counts move to the latches (R317, R319). -/
def Scarab.newFrame (x : Scarab) : Scarab := { x with count := (x.count + 4096) % 2 ^ 48, scanned := false }.moveLatches

/-- Katydid's boundary (R352, R354), with EV_TIME_STEP where the offset is a step. -/
def State.timeBoundary (s : State) : State :=
  if s.mgr.capFixed then
    let th := s.ktd.pending.getD 0
    let r := s.ktd.boundary s.mgr.frame
    let s1 := s.updKtd fun _ => r.1
    if r.2 then s1.raise 0x0011 [(0, 8, toBits 64 (th.tdiv 100)), (8, 2, r.1.epoch), (12, 4, s.mgr.frame)] else s1
  else s

/-- EV_CORE_RETIRED for every report that has arrived since the last boundary (R121, R367). -/
def State.raiseReports (s : State) : State :=
  s.mgr.reports.foldl (init := s.updMgr fun m => { m with reports := [] }) fun st r =>
    let at_ : Nat → Nat := fun i => r.getD i 0
    st.raise 0x0001
      [(0, 2, at_ 0), (2, 1, at_ 1), (3, 1, at_ 2), (4, 1, at_ 3), (5, 1, at_ 4), (6, 2, at_ 5), (8, 4, at_ 6), (12, 2, at_ 7)]

/-! ## Transitions and what the manager settles -/

/-- Loaded becomes Running at the boundary after a job has been accepted, and Running becomes Loaded once no job runs (Table 3.3). -/
def State.settleRunning (s : State) : State :=
  let due := s.runningGroups.any fun g => match (s.group g).running with | some j => decide (j.decided < s.mgr.frame) | none => false
  if s.mgr.mode = .loaded ∧ due = true then s.setMode .running 0
  else if s.mgr.mode = .running ∧ s.runningGroups.isEmpty = true then s.setMode .loaded 0
  else s

/-- The transitions of one boundary, in the order Limp, Hold, wake, others (R61). -/
def State.transitions (s : State) : State :=
  s.enterLimp.enterHold.settleDoze.finishBringUp.settleService.settleDeact.settleRunning

/-- What the manager settles at a boundary: owner opens and erases, Mound work, plane operations, aborts, waiting starts. -/
def State.settle (s : State) : State :=
  let s1 := s.openBoundary.eraseDone.settleMound.settleOps.settleWaiting.startChecks
  let s2 := s1.forEach (List.range 32) State.finishAbort
  s2.forEach (List.range 32) State.scheduleJob

/-! ## The Scarab input image (Table 13.3) -/

/-- Words of the input image, from a first word on. -/
def inputAt (base : Nat) (n : Nat) (f : Nat → Nat) : List (Nat × Nat) := (List.range n).map fun i => (base + i, f i)

/-- Presence contacts of L-ports 32m to 32m + 31. -/
def State.contactWord (s : State) (m : Nat) : Nat :=
  (List.range 32).foldl (init := 0) fun n b =>
    let q := 32 * m + b
    if s.fit.lportOk q && (s.lport q).contact then n + 2 ^ b else n

/-- The input image of a boundary; `slots` are the completion records that stood before it. -/
def State.inputImage (s : State) (slots : Tab (List Nat)) : Tab Nat :=
  let sled := fun (k v : Nat) => if k < s.fit.sleds then v else 0
  let ws : List (Nat × Nat) :=
    [(0, s.mgr.frame % 2 ^ 32), (1, s.mgr.frame / 2 ^ 32 % 2 ^ 32), (2, s.stateReg), (3, s.tickStat 8)] ++
      inputAt 4 8 (fun k => sled k (s.tickStat k)) ++ inputAt 12 8 (fun k => sled k (s.hub k).supply) ++
      [(20, s.lbudget), (21, s.scb.stat)] ++ inputAt 32 18 s.contactWord ++
      inputAt 64 104 (fun t => if s.fit.tileOk t then (s.tile t).tempReg else 0) ++
      inputAt 192 104 (fun t => if s.fit.tileOk t then s.tileReg t else 0) ++
      inputAt 320 35 (fun k => if s.fit.moduleOk k then (s.module k).reg else 0) ++
      [(356, if s.fit.lacewing then s.eyeReg else 0)] ++ inputAt 384 16 (fun i => s.scb.mail.get 0 i) ++
      inputAt 400 32 (fun i => ((slots.get [] (i / 8))[i % 8]?).getD 0)
  ⟨ws.filter fun w => w.2 != 0⟩

/-- The input image refreshed, and the check of an armed swap begun (R305, R315). -/
def State.refreshScarab (s : State) (slots : Tab (List Nat)) : State :=
  let img := s.inputImage slots
  s.updScb fun x => { x with input := img }.beginCheck s.mgr.frame

/-! ## The row -/

/-- MANAGER_BOUNDARY: a manager frame starts. Rows that take effect at this boundary follow it. -/
def execManagerBoundary (s : State) : Host.Outcome State Fault Refusal :=
  if s.mgr.mode = .off then .next s
  else
    let slots := s.scb.slots
    let s1 := (s.updMgr Mgr.newFrame).updScb Scarab.newFrame
    let s2 := (s1.timeBoundary.tickCheck 8).raiseReports.countSearch.delayPaused
    .next (s2.transitions.settle.takeIntake.refreshScarab slots)

end Sys2Proof.Machine
end

