-- ==== Sys2Proof/Machine/Dispatch.lean ====
section
/-! DEFINITION. One arm for each command: the call of its meaning, or its rejection by name. -/

namespace Sys2Proof.Machine

def exec (i : Instr) (s : State) : Host.Outcome State Fault Refusal :=
  match i with
  | .busPowerUp volts => Sys2Proof.Machine.execBusPowerUp volts s
  | .bringUpStageEnd st rep => Sys2Proof.Machine.execBringUpStageEnd st rep s
  | .bringUpTimeout => Sys2Proof.Machine.execBringUpTimeout s
  | .pcieConfigRequest link => Sys2Proof.Machine.execPcieConfigRequest link s
  | .frameBoundary k bus => Sys2Proof.Machine.execFrameBoundary k bus s
  | .managerBoundary => Sys2Proof.Machine.execManagerBoundary s
  | .rwbApply d => Sys2Proof.Machine.execRwbApply d s
  | .seamPhase k overrun => Sys2Proof.Machine.execSeamPhase k overrun s
  | .tickEdge u ofs => Sys2Proof.Machine.execTickEdge u ofs s
  | .missingTick u => Sys2Proof.Machine.execMissingTick u s
  | .referenceLoss d => Sys2Proof.Machine.execReferenceLoss d s
  | .referenceReturn d => Sys2Proof.Machine.execReferenceReturn d s
  | .barrierTokenEmit g w => Sys2Proof.Machine.execBarrierTokenEmit g w s
  | .tokenArrival g w sender barrier arrival via => Sys2Proof.Machine.execTokenArrival g w sender barrier arrival via s
  | .barrierComplete g w => Sys2Proof.Machine.execBarrierComplete g w s
  | .nop c => Sys2Proof.Machine.execNop c s
  | .doze c => Sys2Proof.Machine.execDoze c s
  | .dozeAt k => Sys2Proof.Machine.execDozeAt k s
  | .wake c => Sys2Proof.Machine.execWake c s
  | .cancel k => Sys2Proof.Machine.execCancel k s
  | .dozeDrop => Sys2Proof.Machine.execDozeDrop s
  | .drop k => Sys2Proof.Machine.execDrop k s
  | .wakeSequenceStart => Sys2Proof.Machine.execWakeSequenceStart s
  | .wakeSequenceStage row selfTestFails => Sys2Proof.Machine.execWakeSequenceStage row selfTestFails s
  | .wakeSequenceEnd => Sys2Proof.Machine.execWakeSequenceEnd s
  | .hold c => Sys2Proof.Machine.execHold c s
  | .sagRequest k bus => Sys2Proof.Machine.execSagRequest k bus s
  | .sagRequestEnd k bus => Sys2Proof.Machine.execSagRequestEnd k bus s
  | .holdRequest cause => Sys2Proof.Machine.execHoldRequest cause s
  | .holdBroadcast k => Sys2Proof.Machine.execHoldBroadcast k s
  | .sledHoldEntry k => Sys2Proof.Machine.execSledHoldEntry k s
  | .busRecovered => Sys2Proof.Machine.execBusRecovered s
  | .holdDeadline => Sys2Proof.Machine.execHoldDeadline s
  | .tickLossResume => Sys2Proof.Machine.execTickLossResume s
  | .resume c => Sys2Proof.Machine.execResume c s
  | .resumeMessage k => Sys2Proof.Machine.execResumeMessage k s
  | .sledResumeStart k => Sys2Proof.Machine.execSledResumeStart k s
  | .powerDown c => Sys2Proof.Machine.execPowerDown c s
  | .orderlyPowerDownStage row => Sys2Proof.Machine.execOrderlyPowerDownStage row s
  | .enterService c => Sys2Proof.Machine.execEnterService c s
  | .leaveService c => Sys2Proof.Machine.execLeaveService c s
  | .watchdogCheck => Sys2Proof.Machine.execWatchdogCheck s
  | .lockstepMismatch => Sys2Proof.Machine.execLockstepMismatch s
  | .thermalFault k part reading => Sys2Proof.Machine.execThermalFault k part reading s
  | .thermalFaultClear k => Sys2Proof.Machine.execThermalFaultClear k s
  | .limpEntry => Sys2Proof.Machine.execLimpEntry s
  | .limp k => Sys2Proof.Machine.execLimp k s
  | .restartWarm c => Sys2Proof.Machine.execRestartWarm c s
  | .restartCold c => Sys2Proof.Machine.execRestartCold c s
  | .restartLadderStage selfTestOk => Sys2Proof.Machine.execRestartLadderStage selfTestOk s
  | .wkrPdctlOnWrite p w value => Sys2Proof.Machine.execWkrPdctlOnWrite p w value s
  | .wkrPdctlForceWrite p w value => Sys2Proof.Machine.execWkrPdctlForceWrite p w value s
  | .powerDomainApply w => Sys2Proof.Machine.execPowerDomainApply w s
  | .imageLoad c => Sys2Proof.Machine.execImageLoad c s
  | .imageValidation bytes => Sys2Proof.Machine.execImageValidation bytes s
  | .placementEnd => Sys2Proof.Machine.execPlacementEnd s
  | .imageActivate c => Sys2Proof.Machine.execImageActivate c s
  | .drainTimeout => Sys2Proof.Machine.execDrainTimeout s
  | .imageBoundary => Sys2Proof.Machine.execImageBoundary s
  | .activateAt k => Sys2Proof.Machine.execActivateAt k s
  | .passageEnd => Sys2Proof.Machine.execPassageEnd s
  | .imageDiscard c => Sys2Proof.Machine.execImageDiscard c s
  | .imageDeactivate c => Sys2Proof.Machine.execImageDeactivate c s
  | .planePark => Sys2Proof.Machine.execPlanePark s
  | .wload w n sl => Sys2Proof.Machine.execWload w n sl s
  | .wswap w n sl => Sys2Proof.Machine.execWswap w n sl s
  | .mac w n sl => Sys2Proof.Machine.execMac w n sl s
  | .drain w n sl upsets => Sys2Proof.Machine.execDrain w n sl upsets s
  | .mrd w n sl errs => Sys2Proof.Machine.execMrd w n sl errs s
  | .mwr w n sl => Sys2Proof.Machine.execMwr w n sl s
  | .lsend w n sl => Sys2Proof.Machine.execLsend w n sl s
  | .osend w n sl => Sys2Proof.Machine.execOsend w n sl s
  | .vld w n sl => Sys2Proof.Machine.execVld w n sl s
  | .vst w n sl => Sys2Proof.Machine.execVst w n sl s
  | .vadd w n sl => Sys2Proof.Machine.execVadd w n sl s
  | .vsub w n sl => Sys2Proof.Machine.execVsub w n sl s
  | .vmul w n sl => Sys2Proof.Machine.execVmul w n sl s
  | .vfma w n sl => Sys2Proof.Machine.execVfma w n sl s
  | .vmax w n sl => Sys2Proof.Machine.execVmax w n sl s
  | .vmin w n sl => Sys2Proof.Machine.execVmin w n sl s
  | .vcmpgt w n sl => Sys2Proof.Machine.execVcmpgt w n sl s
  | .vcvt w n sl => Sys2Proof.Machine.execVcvt w n sl s
  | .vexp w n sl => Sys2Proof.Machine.execVexp w n sl s
  | .vrcp w n sl => Sys2Proof.Machine.execVrcp w n sl s
  | .vrsqrt w n sl => Sys2Proof.Machine.execVrsqrt w n sl s
  | .vtanh w n sl => Sys2Proof.Machine.execVtanh w n sl s
  | .vrsum w n sl => Sys2Proof.Machine.execVrsum w n sl s
  | .vrmax w n sl => Sys2Proof.Machine.execVrmax w n sl s
  | .vbcast w n sl => Sys2Proof.Machine.execVbcast w n sl s
  | .vperm w n sl => Sys2Proof.Machine.execVperm w n sl s
  | .coreRetirementReport w n => Sys2Proof.Machine.execCoreRetirementReport w n s
  | .logicalCoreRemap w l => Sys2Proof.Machine.execLogicalCoreRemap w l s
  | .memoryTemperatureReport w unit temp => Sys2Proof.Machine.execMemoryTemperatureReport w unit temp s
  | .pageRetirement w page => Sys2Proof.Machine.execPageRetirement w page s
  | .ownerOpen c => Sys2Proof.Machine.execOwnerOpen c s
  | .ownerSecretReceipt w => Sys2Proof.Machine.execOwnerSecretReceipt w s
  | .ownerOpenConfirm w => Sys2Proof.Machine.execOwnerOpenConfirm w s
  | .ownerOpenTimeout => Sys2Proof.Machine.execOwnerOpenTimeout s
  | .ownerRelease c => Sys2Proof.Machine.execOwnerRelease c s
  | .releaseDrainTimeout => Sys2Proof.Machine.execReleaseDrainTimeout s
  | .eraseBoundary => Sys2Proof.Machine.execEraseBoundary s
  | .erase w => Sys2Proof.Machine.execErase w s
  | .eraseConfirm w => Sys2Proof.Machine.execEraseConfirm w s
  | .kemKey c => Sys2Proof.Machine.execKemKey c s
  | .cocoonStore c => Sys2Proof.Machine.execCocoonStore c s
  | .cocoonLoad c => Sys2Proof.Machine.execCocoonLoad c s
  | .chunkCheck w k => Sys2Proof.Machine.execChunkCheck w k s
  | .objectResident w obj => Sys2Proof.Machine.execObjectResident w obj s
  | .moundPromote c => Sys2Proof.Machine.execMoundPromote c s
  | .moundCopyEnd w obj errs => Sys2Proof.Machine.execMoundCopyEnd w obj errs s
  | .moundPin c => Sys2Proof.Machine.execMoundPin c s
  | .moundUnpin c => Sys2Proof.Machine.execMoundUnpin c s
  | .hostPinApply w obj => Sys2Proof.Machine.execHostPinApply w obj s
  | .moundDrop c => Sys2Proof.Machine.execMoundDrop c s
  | .moundQuery c => Sys2Proof.Machine.execMoundQuery c s
  | .pubkeyAdd c => Sys2Proof.Machine.execPubkeyAdd c s
  | .pubkeyRemove c => Sys2Proof.Machine.execPubkeyRemove c s
  | .cocoonDelete c => Sys2Proof.Machine.execCocoonDelete c s
  | .flitReceive e cycle errs => Sys2Proof.Machine.execFlitReceive e cycle errs s
  | .creditDue c => Sys2Proof.Machine.execCreditDue c s
  | .circuitTear c rxEnd => Sys2Proof.Machine.execCircuitTear c rxEnd s
  | .settlement r rxEnd => Sys2Proof.Machine.execSettlement r rxEnd s
  | .evCircuitTorn r => Sys2Proof.Machine.execEvCircuitTorn r s
  | .laneLockLoss w j => Sys2Proof.Machine.execLaneLockLoss w j s
  | .linkRetrainTimeout w j => Sys2Proof.Machine.execLinkRetrainTimeout w j s
  | .rangingSample c start stop => Sys2Proof.Machine.execRangingSample c start stop s
  | .circuitUsable c loss => Sys2Proof.Machine.execCircuitUsable c loss s
  | .cableSearch c => Sys2Proof.Machine.execCableSearch c s
  | .searchRound seen => Sys2Proof.Machine.execSearchRound seen s
  | .searchPassEnd => Sys2Proof.Machine.execSearchPassEnd s
  | .legGroup meas => Sys2Proof.Machine.execLegGroup meas s
  | .presenceContactOpen q => Sys2Proof.Machine.execPresenceContactOpen q s
  | .workerPortContactOpen w p => Sys2Proof.Machine.execWorkerPortContactOpen w p s
  | .returnLight k m => Sys2Proof.Machine.execReturnLight k m s
  | .glowRelease k m => Sys2Proof.Machine.execGlowRelease k m s
  | .presenceContactClose q => Sys2Proof.Machine.execPresenceContactClose q s
  | .onePortCheck q seen meas => Sys2Proof.Machine.execOnePortCheck q seen meas s
  | .workerSilence w => Sys2Proof.Machine.execWorkerSilence w s
  | .workerSupplyFault w => Sys2Proof.Machine.execWorkerSupplyFault w s
  | .stashCopyEnd k => Sys2Proof.Machine.execStashCopyEnd k s
  | .spareReady k => Sys2Proof.Machine.execSpareReady k s
  | .moundReload k obj => Sys2Proof.Machine.execMoundReload k obj s
  | .lacewingPlanBypass c => Sys2Proof.Machine.execLacewingPlanBypass c s
  | .lacewingPlanEvacuate c => Sys2Proof.Machine.execLacewingPlanEvacuate c s
  | .lacewingPlanRestore c => Sys2Proof.Machine.execLacewingPlanRestore c s
  | .planComplete => Sys2Proof.Machine.execPlanComplete s
  | .planExpiry => Sys2Proof.Machine.execPlanExpiry s
  | .lacewingCommit c => Sys2Proof.Machine.execLacewingCommit c s
  | .lacewingCancel c => Sys2Proof.Machine.execLacewingCancel c s
  | .automaticRequest => Sys2Proof.Machine.execAutomaticRequest s
  | .waveApply wave => Sys2Proof.Machine.execWaveApply wave s
  | .segmentFault c seg excess => Sys2Proof.Machine.execSegmentFault c seg excess s
  | .tileDriverSilent t => Sys2Proof.Machine.execTileDriverSilent t s
  | .tileSupplyFault t => Sys2Proof.Machine.execTileSupplyFault t s
  | .lossOfLock c loss => Sys2Proof.Machine.execLossOfLock c loss s
  | .laserFailure k lam reason => Sys2Proof.Machine.execLaserFailure k lam reason s
  | .sevenLambdaSwitch c rxEnd => Sys2Proof.Machine.execSevenLambdaSwitch c rxEnd s
  | .spareLaserLock k => Sys2Proof.Machine.execSpareLaserLock k s
  | .loopCellFrame e m => Sys2Proof.Machine.execLoopCellFrame e m s
  | .cellSequenceStep e h => Sys2Proof.Machine.execCellSequenceStep e h s
  | .cellLockChange e h => Sys2Proof.Machine.execCellLockChange e h s
  | .implausibilityDeclared e h => Sys2Proof.Machine.execImplausibilityDeclared e h s
  | .cellRetry e h => Sys2Proof.Machine.execCellRetry e h s
  | .lightBudgetInvalid => Sys2Proof.Machine.execLightBudgetInvalid s
  | .sensorOpen e input => Sys2Proof.Machine.execSensorOpen e input s
  | .sensorRestored e input => Sys2Proof.Machine.execSensorRestored e input s
  | .loopTune c => Sys2Proof.Machine.execLoopTune c s
  | .tuneEnd e h => Sys2Proof.Machine.execTuneEnd e h s
  | .traceTrigger t => Sys2Proof.Machine.execTraceTrigger t s
  | .wvlTrctlWrite p t value => Sys2Proof.Machine.execWvlTrctlWrite p t value s
  | .wvlTrselWrite p t n value => Sys2Proof.Machine.execWvlTrselWrite p t n value s
  | .coefficientWindowWrite p e h ofs bytes mc => Sys2Proof.Machine.execCoefficientWindowWrite p e h ofs bytes mc s
  | .calFactory c meas => Sys2Proof.Machine.execCalFactory c meas s
  | .calWrite c => Sys2Proof.Machine.execCalWrite c s
  | .calApply e => Sys2Proof.Machine.execCalApply e s
  | .fieldVerifyTile c => Sys2Proof.Machine.execFieldVerifyTile c s
  | .fieldVerifyPort c => Sys2Proof.Machine.execFieldVerifyPort c s
  | .verifyStart port unit => Sys2Proof.Machine.execVerifyStart port unit s
  | .tileVerifyEnd t ffDev gainDev snr segExcess lightLost => Sys2Proof.Machine.execTileVerifyEnd t ffDev gainDev snr segExcess lightLost s
  | .portVerifyEnd q swing rxSnr => Sys2Proof.Machine.execPortVerifyEnd q swing rxSnr s
  | .scarabScan => Sys2Proof.Machine.execScarabScan s
  | .scarabNop => Sys2Proof.Machine.execScarabNop s
  | .end_ => Sys2Proof.Machine.execEnd s
  | .add d a b => Sys2Proof.Machine.execAdd d a b s
  | .sub d a b => Sys2Proof.Machine.execSub d a b s
  | .and d a b => Sys2Proof.Machine.execAnd d a b s
  | .or d a b => Sys2Proof.Machine.execOr d a b s
  | .xor d a b => Sys2Proof.Machine.execXor d a b s
  | .shl d a b => Sys2Proof.Machine.execShl d a b s
  | .shr d a b => Sys2Proof.Machine.execShr d a b s
  | .sar d a b => Sys2Proof.Machine.execSar d a b s
  | .min d a b => Sys2Proof.Machine.execMin d a b s
  | .max d a b => Sys2Proof.Machine.execMax d a b s
  | .mul d a b => Sys2Proof.Machine.execMul d a b s
  | .mulh d a b => Sys2Proof.Machine.execMulh d a b s
  | .div d a b => Sys2Proof.Machine.execDiv d a b s
  | .slt d a b => Sys2Proof.Machine.execSlt d a b s
  | .addi d a imm => Sys2Proof.Machine.execAddi d a imm s
  | .andi d a imm => Sys2Proof.Machine.execAndi d a imm s
  | .ori d a imm => Sys2Proof.Machine.execOri d a imm s
  | .li d imm => Sys2Proof.Machine.execLi d imm s
  | .lui d imm => Sys2Proof.Machine.execLui d imm s
  | .ld d a imm => Sys2Proof.Machine.execLd d a imm s
  | .st d a imm => Sys2Proof.Machine.execSt d a imm s
  | .stp d a imm => Sys2Proof.Machine.execStp d a imm s
  | .in_ d a imm => Sys2Proof.Machine.execIn d a imm s
  | .out a b => Sys2Proof.Machine.execOut a b s
  | .cmd a => Sys2Proof.Machine.execCmd a s
  | .take d e clearOvf => Sys2Proof.Machine.execTake d e clearOvf s
  | .spanRead d n => Sys2Proof.Machine.execSpanRead d n s
  | .spanArm a n => Sys2Proof.Machine.execSpanArm a n s
  | .spanStart n => Sys2Proof.Machine.execSpanStart n s
  | .spanStop n => Sys2Proof.Machine.execSpanStop n s
  | .time d => Sys2Proof.Machine.execTime d s
  | .beq a b target => Sys2Proof.Machine.execBeq a b target s
  | .bne a b target => Sys2Proof.Machine.execBne a b target s
  | .blt a b target => Sys2Proof.Machine.execBlt a b target s
  | .bge a b target => Sys2Proof.Machine.execBge a b target s
  | .jmp target => Sys2Proof.Machine.execJmp target s
  | .call target => Sys2Proof.Machine.execCall target s
  | .ret => Sys2Proof.Machine.execRet s
  | .loop count last => Sys2Proof.Machine.execLoop count last s
  | .swap => Sys2Proof.Machine.execSwap s
  | .bankCheckEnd => Sys2Proof.Machine.execBankCheckEnd s
  | .eventArrival e n mc => Sys2Proof.Machine.execEventArrival e n mc s
  | .scbDoorbell p value mc => Sys2Proof.Machine.execScbDoorbell p value mc s
  | .stgCvtWrite p w n value => Sys2Proof.Machine.execStgCvtWrite p w n value s
  | .wkrMemdropWrite p w value => Sys2Proof.Machine.execWkrMemdropWrite p w value s
  | .registerWrite p offset value be mc => Sys2Proof.Machine.execRegisterWrite p offset value be mc s
  | .latchedRead p offset mc => Sys2Proof.Machine.execLatchedRead p offset mc s
  | .bar2Access link x op mc => Sys2Proof.Machine.execBar2Access link x op mc s
  | .sqtailDoorbell link q value => Sys2Proof.Machine.execSqtailDoorbell link q value s
  | .commandRecordArrival link q c mc => Sys2Proof.Machine.execCommandRecordArrival link q c mc s
  | .cqheadDoorbell link q value => Sys2Proof.Machine.execCqheadDoorbell link q value s
  | .eqheadDoorbell link value => Sys2Proof.Machine.execEqheadDoorbell link value s
  | .qcfgWrite link q value => Sys2Proof.Machine.execQcfgWrite link q value s
  | .eqcfgWrite link value => Sys2Proof.Machine.execEqcfgWrite link value s
  | .completionWrite link => Sys2Proof.Machine.execCompletionWrite link s
  | .eventRecordWrite link => Sys2Proof.Machine.execEventRecordWrite link s
  | .linkUp link gts width => Sys2Proof.Machine.execLinkUp link gts width s
  | .linkDown link => Sys2Proof.Machine.execLinkDown link s
  | .jobStart c => Sys2Proof.Machine.execJobStart c s
  | .jobFirstStep g k => Sys2Proof.Machine.execJobFirstStep g k s
  | .jobEnd g => Sys2Proof.Machine.execJobEnd g s
  | .jobAbort c => Sys2Proof.Machine.execJobAbort c s
  | .dataImport c => Sys2Proof.Machine.execDataImport c s
  | .dataExport c => Sys2Proof.Machine.execDataExport c s
  | .dataTransferEnd tag => Sys2Proof.Machine.execDataTransferEnd tag s
  | .stopTriggerReport w g reason => Sys2Proof.Machine.execStopTriggerReport w g reason s
  | .stop k g => Sys2Proof.Machine.execStop k g s
  | .rollbackDecision g => Sys2Proof.Machine.execRollbackDecision g s
  | .rollbackBoundary k g => Sys2Proof.Machine.execRollbackBoundary k g s
  | .strideReplay g stride => Sys2Proof.Machine.execStrideReplay g stride s
  | .mirrorRestoreEnd g => Sys2Proof.Machine.execMirrorRestoreEnd g s
  | .regRead d => Sys2Proof.Machine.execRegRead d s
  | .regWrite d => Sys2Proof.Machine.execRegWrite d s
  | .command d => Sys2Proof.Machine.execCommand d s
  | .subscribe d => Sys2Proof.Machine.execSubscribe d s
  | .unsubscribe d => Sys2Proof.Machine.execUnsubscribe d s
  | .ptpTransit m => Sys2Proof.Machine.execPtpTransit m s
  | .syncMessage domain transport theta rate => Sys2Proof.Machine.execSyncMessage domain transport theta rate s
  | .announceMessage port domain transport dataset => Sys2Proof.Machine.execAnnounceMessage port domain transport dataset s
  | .syncTimeout => Sys2Proof.Machine.execSyncTimeout s
  | .boardLinkRetrained w j => Sys2Proof.Machine.execBoardLinkRetrained w j s
  | .cocoonStoreWritten id => Sys2Proof.Machine.execCocoonStoreWritten id s
  | .serviceClear u => Sys2Proof.Machine.execServiceClear u s

end Sys2Proof.Machine
end

