-- ==== Sys2Proof/Safety.lean ====
section
/-! DEFINITION. What counts as a safe run, and the shapes in which statements about commands are made: a command completes with a
property of the next state; an instruction of the Scarab engine, or a slot of a core, does one thing and leaves the rest. -/

namespace Sys2Proof.Machine

/-- `k` steps from `s` all answer next states. -/
def runsSafely : Nat → State → Prop
  | 0, _ => True
  | k + 1, s => ∃ t, step s = .next t ∧ runsSafely k t

/-- The command completes: `exec` answers a next state, and `P` holds of it. -/
def Completes (i : Instr) (s : State) (P : State → Prop) : Prop := ∃ t, exec i s = .next t ∧ P t

/-- What a Scarab instruction that goes on to the next word leaves of the engine, with its cycles passed (Table 13.5). -/
def State.scarabNext (s : State) (i : Instr) : Scarab := { s.scb.advance with cyc := s.scb.advance.cyc + scarabCost i }

/-- A Scarab register as a 32-bit word. -/
def State.scReg (s : State) (r : Nat) : Word := BitVec.ofNat 32 (s.scb.reg r)

/-- A Scarab data address: a register plus a signed 14-bit immediate (Table 13.5). -/
def State.scAddr (s : State) (a imm : Nat) : Nat := (s.scReg a + (BitVec.ofNat 14 imm).signExtend 32).toNat

/-- Where it is the next instruction of a running scan, the command writes `v` into register `d` (g0 discards it), goes on to the next
word and leaves every other register and everything else of the machine. -/
def ScarabWrites (i : Instr) (d : Nat) (v : Word) (s : State) : Prop :=
  s.scb.next = some i → Completes i s fun t =>
    (∀ r, t.scb.reg r = if r = d ∧ d ≠ 0 then v.toNat else s.scb.reg r) ∧ t = { s with scb := { s.scarabNext i with g := t.scb.g } }

/-- A host link over which the host reaches its hub: fitted, up, and the machine neither Off nor in Bring-up (R64). -/
def State.hostReady (s : State) (k : Nat) : Prop :=
  k < s.fit.sleds ∧ (s.hub k).linkUp = true ∧ s.mgr.mode ≠ .off ∧ s.mgr.mode ≠ .bringUp

/-- A path over which registers are reached: a host link, or a management port that answers. -/
def State.reaches (s : State) : Path → Prop
  | .host k => s.hostReady k
  | .mgmt port => s.mgmtOpen port = true

/-- Nothing but hub `k` has changed. -/
def OnlyHub (k : Nat) (s t : State) : Prop := t = { s with hubs := t.hubs } ∧ ∀ j, j ≠ k → t.hub j = s.hub j

/-- Nothing but queue pair `q` of hub `k` has changed in what the host wrote to it: bases, sizes, doorbells, errors. -/
def OnlyPair (k q : Nat) (s t : State) : Prop :=
  OnlyHub k s t ∧ ∀ p, p ≠ q →
    ((t.hub k).queue p).tail = ((s.hub k).queue p).tail ∧ ((t.hub k).queue p).cqHead = ((s.hub k).queue p).cqHead ∧
    ((t.hub k).queue p).enable = ((s.hub k).queue p).enable ∧ ((t.hub k).queue p).error = ((s.hub k).queue p).error

/-- The token of the barrier that a participant comes to next has been emitted there, and L frames of its sled have passed since the
stride-end boundary (R47). -/
def State.barrierComes (s : State) (g w b : Nat) : Prop :=
  s.barrierPending g w = true ∧ b + 1 = (s.group g).emitted.get 0 w ∧ s.workerUp w = true ∧ w ∈ s.participants g ∧
    s.barrierDue g (sledOf w) b = true

/-- No bound core of a group on a sled is retired or without a physical core: there is nothing to remap (R128). -/
def State.coresWhole (s : State) (g k : Nat) : Prop :=
  ∀ i, s.img.active = some i → ∀ b ∈ i.binds, b.gid = g → sledOf (s.actorOf b.w) = k →
    ∃ n, (s.worker (s.actorOf b.w)).physOf b.core = some n ∧ (s.core (s.actorOf b.w) n).retired = false

/-- A slot of an opcode issues on a port of a core, once what is ready by its cycle has taken effect (R114). -/
def State.slotIssues (s : State) (w n port op : Nat) (sl : Slot) : Prop := (s.flush w sl.issue).canIssue w n port op sl = true

/-- Where it issues on the vector port, the command writes `v` into register RD of its core, and leaves the core's other registers, its
accumulators and its address registers; with nothing of the worker ready by then, it leaves everything else of the machine but the
model's counter of free values. -/
def VecWrites (i : Instr) (w n op : Nat) (sl : Slot) (v : List Word) (s : State) : Prop :=
  s.slotIssues w n 5 op sl → Completes i s fun t =>
    (t.core w n).reg sl.rd = v ∧ (∀ r, r ≠ sl.rd → (t.core w n).reg r = (s.core w n).reg r) ∧
    (t.core w n).acc = (s.core w n).acc ∧ (t.core w n).areg = (s.core w n).areg ∧
    ((∀ p ∈ (s.worker w).inflight, sl.issue < p.ready) →
      t = { s with workers := t.workers, mgr := { s.mgr with fresh := s.mgr.fresh + 1 } })

/-- A participant has the token of every other participant for a barrier. -/
def State.tokensIn (s : State) (g w b : Nat) : Prop :=
  ∀ p ∈ s.participants g, p ≠ w → ∃ z, (w, p, b % 2 ^ 24, z) ∈ (s.group g).tokens

/-- A command record of an opcode whose reserved bits are as Table 14.6 has them. -/
def IsCmd (c : Cmd) (op : Nat) : Prop := c.op = op ∧ c.fixedOk = true

/-- The first message of a kind in a hub's inbox, with what stands before it and after it. -/
def FirstMsg (s : State) (k : Nat) (kind : Msg → Bool) (pre : List Msg) (m : Msg) (rest : List Msg) : Prop :=
  (s.hub k).inbox = pre ++ m :: rest ∧ kind m = true ∧ ∀ x ∈ pre, kind x = false

/-- Every fitted hub has received a message. -/
def Reached (t : State) (m : Msg) : Prop := ∀ k, k < t.fit.sleds → m ∈ (t.hub k).inbox

/-- Kinds of message. -/
def Msg.isDozeAt : Msg → Bool | .dozeAt _ => true | _ => false
def Msg.isResume : Msg → Bool | .resume _ => true | _ => false
def Msg.isActivate : Msg → Bool | .activateAt _ => true | _ => false

/-- What a Hold that ends leaves: the state it returns to, and RESUME with its start delay in every hub's inbox (R80). -/
def Resumed (s t : State) : Prop :=
  t.mgr.mode = s.afterHold ∧ t.mgr.holdEntry = none ∧ t.mem = s.mem ∧
    ∃ low, (∀ k, k < s.fit.sleds → low ≤ (s.hub k).stepAtHold ∧ Msg.resume ((s.hub k).stepAtHold - low) ∈ (t.hub k).inbox) ∧
      ∃ k, k < s.fit.sleds ∧ (s.hub k).stepAtHold = low

end Sys2Proof.Machine
end

