-- ==== Sys2Proof/WellFormed.lean ====
section
/-! DEFINITION. Well-formed commands: every operand that the spec gives a field or a range lies in it. -/

namespace Sys2Proof

/-- A worker code of a sled 0 to 7 and a site 0 to 16 (R16, R85). -/
def codeOk (w : Nat) : Bool := decide (w / 32 < 8) && decide (w % 32 < 17)

/-- Every field of a command record fits its place (Table 14.6). -/
def Cmd.wf (c : Cmd) : Bool :=
  decide (c.op < 2 ^ 16) && decide (c.flags < 2 ^ 16) && decide (c.tag < 2 ^ 32) && decide (c.addr < 2 ^ 64) && decide (c.len < 2 ^ 64) &&
    decide (c.id < 2 ^ 64) && decide (c.addr2 < 2 ^ 64) && decide (c.unit < 2 ^ 16) && decide (c.limit < 2 ^ 16) &&
    decide (c.count < 2 ^ 16) && decide (c.sel < 2 ^ 8) && decide (c.window < 2 ^ 8) && decide (c.aux < 2 ^ 16) &&
    decide (c.nonce < 2 ^ 32) && decide (c.rsvd < 2 ^ 80)

/-- Every field of a slot fits its place, and its formats are not reserved (Table 5.3). -/
def Slot.wf (sl : Slot) : Bool :=
  decide (sl.issue < 2 ^ 13) && decide (sl.fa < 8) && decide (sl.fb < 8) && decide (sl.ax < 2 ^ 4) && decide (sl.ox < 2 ^ 28) &&
    decide (sl.ay < 2 ^ 4) && decide (sl.oy < 2 ^ 28) && decide (sl.len < 2 ^ 16) && decide (sl.aux < 2 ^ 16)

/-- A path names a host link of a sled or one of the two management ports. -/
def Path.wf : Path → Bool
  | .host k => decide (k < 8)
  | .mgmt p => decide (p < 2)

/-- An engine of a tile, a laser module or a worker (R16). -/
def Engine.wf : Engine → Bool
  | .tile t => decide (t < 104)
  | .module k => decide (k < 35)
  | .ring w => codeOk w

/-- A tick receiver of a site, a tile or a laser module (R16). -/
def TickUnit.wf : TickUnit → Bool
  | .site w => codeOk w
  | .tile t => decide (t < 104)
  | .module k => decide (k < 35)

/-- A time domain of a sled 0 to 7, or the manager's. -/
def Domain.wf : Domain → Bool
  | .sled k => decide (k < 8)
  | .manager => true

/-- A wire end of a worker: one of its board links or of its four optical ports. -/
def WireEnd.wf : WireEnd → Bool
  | .link w j => codeOk w && decide (j < 16)
  | .port w p c => codeOk w && decide (p < 4) && decide (c < 4096)

/-- A circuit, or a board link of a worker. -/
def WireRef.wf : WireRef → Bool
  | .circuit c => decide (c < 4096)
  | .link w j => codeOk w && decide (j < 16)

/-- A datagram on one of the two ports whose header fields fit their places (Table 14.12). -/
def Datagram.wf (d : Datagram) : Bool :=
  decide (d.port < 2) && (match d.dest with | some a => decide (a < 2 ^ 32) | none => true) && decide (d.udp < 2 ^ 16) &&
    decide (d.magic < 2 ^ 16) && decide (d.mc < 4096) && decide (d.seq < 2 ^ 32) && d.words.all (fun v => decide (v < 2 ^ 32)) &&
    (match d.cmd with | some c => c.wf | none => true)

/-- A unit that can be cleared (R248). -/
def ServiceUnit.wf : ServiceUnit → Bool
  | .tile t => decide (t < 104)
  | .fiberIn i m => decide (i < 104) && decide (m < 104)
  | .fiberOut m e => decide (m < 104) && decide (e < 104)
  | .module k => decide (k < 35)

/-- A well-formed command. -/
def Instr.wf : Instr → Bool
  | .busPowerUp _ => true
  | .bringUpStageEnd _ _ => true
  | .bringUpTimeout => true
  | .pcieConfigRequest link => decide (link < 8)
  | .frameBoundary s _ => decide (s < 8)
  | .managerBoundary => true
  | .rwbApply d => d.wf
  | .seamPhase s _ => decide (s < 8)
  | .tickEdge u _ => u.wf
  | .missingTick u => u.wf
  | .referenceLoss d => d.wf
  | .referenceReturn d => d.wf
  | .barrierTokenEmit g w => decide (g < 32) && codeOk w
  | .tokenArrival g w sender _ _ _ => decide (g < 32) && codeOk w && codeOk sender
  | .barrierComplete g w => decide (g < 32) && codeOk w
  | .nop c => c.wf
  | .doze c => c.wf
  | .dozeAt s => decide (s < 8)
  | .wake c => c.wf
  | .cancel s => decide (s < 8)
  | .dozeDrop => true
  | .drop s => decide (s < 8)
  | .wakeSequenceStart => true
  | .wakeSequenceStage _ _ => true
  | .wakeSequenceEnd => true
  | .hold c => c.wf
  | .sagRequest s _ => decide (s < 8)
  | .sagRequestEnd s _ => decide (s < 8)
  | .holdRequest _ => true
  | .holdBroadcast s => decide (s < 8)
  | .sledHoldEntry s => decide (s < 8)
  | .busRecovered => true
  | .holdDeadline => true
  | .tickLossResume => true
  | .resume c => c.wf
  | .resumeMessage s => decide (s < 8)
  | .sledResumeStart s => decide (s < 8)
  | .powerDown c => c.wf
  | .orderlyPowerDownStage _ => true
  | .enterService c => c.wf
  | .leaveService c => c.wf
  | .watchdogCheck => true
  | .lockstepMismatch => true
  | .thermalFault _ _ _ => true
  | .thermalFaultClear _ => true
  | .limpEntry => true
  | .limp s => decide (s < 8)
  | .restartWarm c => c.wf
  | .restartCold c => c.wf
  | .restartLadderStage _ => true
  | .wkrPdctlOnWrite p w value => p.wf && codeOk w && decide (value < 2 ^ 32)
  | .wkrPdctlForceWrite p w value => p.wf && codeOk w && decide (value < 2 ^ 32)
  | .powerDomainApply w => codeOk w
  | .imageLoad c => c.wf
  | .imageValidation _ => true
  | .placementEnd => true
  | .imageActivate c => c.wf
  | .drainTimeout => true
  | .imageBoundary => true
  | .activateAt s => decide (s < 8)
  | .passageEnd => true
  | .imageDiscard c => c.wf
  | .imageDeactivate c => c.wf
  | .planePark => true
  | .wload w n sl => codeOk w && decide (n < 50) && sl.wf
  | .wswap w n sl => codeOk w && decide (n < 50) && sl.wf
  | .mac w n sl => codeOk w && decide (n < 50) && sl.wf
  | .drain w n sl _ => codeOk w && decide (n < 50) && sl.wf
  | .mrd w n sl _ => codeOk w && decide (n < 50) && sl.wf
  | .mwr w n sl => codeOk w && decide (n < 50) && sl.wf
  | .lsend w n sl => codeOk w && decide (n < 50) && sl.wf
  | .osend w n sl => codeOk w && decide (n < 50) && sl.wf
  | .vld w n sl => codeOk w && decide (n < 50) && sl.wf
  | .vst w n sl => codeOk w && decide (n < 50) && sl.wf
  | .vadd w n sl => codeOk w && decide (n < 50) && sl.wf
  | .vsub w n sl => codeOk w && decide (n < 50) && sl.wf
  | .vmul w n sl => codeOk w && decide (n < 50) && sl.wf
  | .vfma w n sl => codeOk w && decide (n < 50) && sl.wf
  | .vmax w n sl => codeOk w && decide (n < 50) && sl.wf
  | .vmin w n sl => codeOk w && decide (n < 50) && sl.wf
  | .vcmpgt w n sl => codeOk w && decide (n < 50) && sl.wf
  | .vcvt w n sl => codeOk w && decide (n < 50) && sl.wf
  | .vexp w n sl => codeOk w && decide (n < 50) && sl.wf
  | .vrcp w n sl => codeOk w && decide (n < 50) && sl.wf
  | .vrsqrt w n sl => codeOk w && decide (n < 50) && sl.wf
  | .vtanh w n sl => codeOk w && decide (n < 50) && sl.wf
  | .vrsum w n sl => codeOk w && decide (n < 50) && sl.wf
  | .vrmax w n sl => codeOk w && decide (n < 50) && sl.wf
  | .vbcast w n sl => codeOk w && decide (n < 50) && sl.wf
  | .vperm w n sl => codeOk w && decide (n < 50) && sl.wf
  | .coreRetirementReport w n => codeOk w && decide (n < 50)
  | .logicalCoreRemap w l => codeOk w && decide (l < 48)
  | .memoryTemperatureReport w _ _ => codeOk w
  | .pageRetirement w _ => codeOk w
  | .ownerOpen c => c.wf
  | .ownerSecretReceipt w => codeOk w
  | .ownerOpenConfirm w => codeOk w
  | .ownerOpenTimeout => true
  | .ownerRelease c => c.wf
  | .releaseDrainTimeout => true
  | .eraseBoundary => true
  | .erase w => codeOk w
  | .eraseConfirm w => codeOk w
  | .kemKey c => c.wf
  | .cocoonStore c => c.wf
  | .cocoonLoad c => c.wf
  | .chunkCheck w _ => codeOk w
  | .objectResident w obj => codeOk w && decide (obj < 4096)
  | .moundPromote c => c.wf
  | .moundCopyEnd w obj _ => codeOk w && decide (obj < 4096)
  | .moundPin c => c.wf
  | .moundUnpin c => c.wf
  | .hostPinApply w obj => codeOk w && decide (obj < 4096)
  | .moundDrop c => c.wf
  | .moundQuery c => c.wf
  | .pubkeyAdd c => c.wf
  | .pubkeyRemove c => c.wf
  | .cocoonDelete c => c.wf
  | .flitReceive e cycle errs => e.wf && decide (cycle < 8192) && errs.all fun x => decide (x.1 < 272)
  | .creditDue c => decide (c < 4096)
  | .circuitTear c _ => decide (c < 4096)
  | .settlement r _ => r.wf
  | .evCircuitTorn r => r.wf
  | .laneLockLoss w j => codeOk w && decide (j < 16)
  | .linkRetrainTimeout w j => codeOk w && decide (j < 16)
  | .rangingSample c _ _ => decide (c < 4096)
  | .circuitUsable c _ => decide (c < 4096)
  | .cableSearch c => c.wf
  | .searchRound _ => true
  | .searchPassEnd => true
  | .legGroup _ => true
  | .presenceContactOpen q => decide (q < 576)
  | .workerPortContactOpen w p => codeOk w && decide (p < 4)
  | .returnLight k _ => decide (k < 35)
  | .glowRelease k _ => decide (k < 35)
  | .presenceContactClose q => decide (q < 576)
  | .onePortCheck q _ _ => decide (q < 576)
  | .workerSilence w => codeOk w
  | .workerSupplyFault w => codeOk w
  | .stashCopyEnd s => decide (s < 8)
  | .spareReady s => decide (s < 8)
  | .moundReload s obj => decide (s < 8) && decide (obj < 4096)
  | .lacewingPlanBypass c => c.wf
  | .lacewingPlanEvacuate c => c.wf
  | .lacewingPlanRestore c => c.wf
  | .planComplete => true
  | .planExpiry => true
  | .lacewingCommit c => c.wf
  | .lacewingCancel c => c.wf
  | .automaticRequest => true
  | .waveApply _ => true
  | .segmentFault c _ _ => decide (c < 4096)
  | .tileDriverSilent t => decide (t < 104)
  | .tileSupplyFault t => decide (t < 104)
  | .lossOfLock c _ => decide (c < 4096)
  | .laserFailure k _ _ => decide (k < 35)
  | .sevenLambdaSwitch c _ => decide (c < 4096)
  | .spareLaserLock k => decide (k < 35)
  | .loopCellFrame e _ => e.wf
  | .cellSequenceStep e _ => e.wf
  | .cellLockChange e _ => e.wf
  | .implausibilityDeclared e _ => e.wf
  | .cellRetry e _ => e.wf
  | .lightBudgetInvalid => true
  | .sensorOpen e _ => e.wf
  | .sensorRestored e _ => e.wf
  | .loopTune c => c.wf
  | .tuneEnd e _ => e.wf
  | .traceTrigger t => decide (t < 104)
  | .wvlTrctlWrite p t value => p.wf && decide (t < 104) && decide (value < 2 ^ 32)
  | .wvlTrselWrite p t i value => p.wf && decide (t < 104) && decide (i < 2) && decide (value < 2 ^ 32)
  | .coefficientWindowWrite p e _ _ _ mc => p.wf && e.wf && decide (mc < 4096)
  | .calFactory c _ => c.wf
  | .calWrite c => c.wf
  | .calApply e => e.wf
  | .fieldVerifyTile c => c.wf
  | .fieldVerifyPort c => c.wf
  | .verifyStart _ _ => true
  | .tileVerifyEnd t _ _ _ _ _ => decide (t < 104)
  | .portVerifyEnd q _ _ => decide (q < 576)
  | .scarabScan => true
  | .scarabNop => true
  | .end_ => true
  | .add d a b => decide (d < 64) && decide (a < 64) && decide (b < 64)
  | .sub d a b => decide (d < 64) && decide (a < 64) && decide (b < 64)
  | .and d a b => decide (d < 64) && decide (a < 64) && decide (b < 64)
  | .or d a b => decide (d < 64) && decide (a < 64) && decide (b < 64)
  | .xor d a b => decide (d < 64) && decide (a < 64) && decide (b < 64)
  | .shl d a b => decide (d < 64) && decide (a < 64) && decide (b < 64)
  | .shr d a b => decide (d < 64) && decide (a < 64) && decide (b < 64)
  | .sar d a b => decide (d < 64) && decide (a < 64) && decide (b < 64)
  | .min d a b => decide (d < 64) && decide (a < 64) && decide (b < 64)
  | .max d a b => decide (d < 64) && decide (a < 64) && decide (b < 64)
  | .mul d a b => decide (d < 64) && decide (a < 64) && decide (b < 64)
  | .mulh d a b => decide (d < 64) && decide (a < 64) && decide (b < 64)
  | .div d a b => decide (d < 64) && decide (a < 64) && decide (b < 64)
  | .slt d a b => decide (d < 64) && decide (a < 64) && decide (b < 64)
  | .addi d a imm => decide (d < 64) && decide (a < 64) && decide (imm < 2 ^ 14)
  | .andi d a imm => decide (d < 64) && decide (a < 64) && decide (imm < 2 ^ 14)
  | .ori d a imm => decide (d < 64) && decide (a < 64) && decide (imm < 2 ^ 14)
  | .li d imm => decide (d < 64) && decide (imm < 2 ^ 20)
  | .lui d imm => decide (d < 64) && decide (imm < 2 ^ 20)
  | .ld d a imm => decide (d < 64) && decide (a < 64) && decide (imm < 2 ^ 14)
  | .st d a imm => decide (d < 64) && decide (a < 64) && decide (imm < 2 ^ 14)
  | .stp d a imm => decide (d < 64) && decide (a < 64) && decide (imm < 2 ^ 14)
  | .in_ d a imm => decide (d < 64) && decide (a < 64) && decide (imm < 2 ^ 14)
  | .out a b => decide (a < 64) && decide (b < 64)
  | .cmd a => decide (a < 64)
  | .take d e _ => decide (d < 64) && decide (e < 64)
  | .spanRead d n => decide (d < 64) && decide (n < 16)
  | .spanArm a n => decide (a < 64) && decide (n < 16)
  | .spanStart n => decide (n < 16)
  | .spanStop n => decide (n < 16)
  | .time d => decide (d < 64)
  | .beq a b target => decide (a < 64) && decide (b < 64) && decide (target < 2 ^ 14)
  | .bne a b target => decide (a < 64) && decide (b < 64) && decide (target < 2 ^ 14)
  | .blt a b target => decide (a < 64) && decide (b < 64) && decide (target < 2 ^ 14)
  | .bge a b target => decide (a < 64) && decide (b < 64) && decide (target < 2 ^ 14)
  | .jmp target => decide (target < 2 ^ 14)
  | .call target => decide (target < 2 ^ 14)
  | .ret => true
  | .loop count last => decide (count < 4096) && decide (last < 2 ^ 14)
  | .swap => true
  | .bankCheckEnd => true
  | .eventArrival e _ _ => decide (e < 64)
  | .scbDoorbell p value _ => p.wf && decide (value < 2 ^ 32)
  | .stgCvtWrite p w n value => p.wf && codeOk w && decide (n < 50) && decide (value < 2 ^ 32)
  | .wkrMemdropWrite p w value => p.wf && codeOk w && decide (value < 2 ^ 32)
  | .registerWrite p _ value be mc => p.wf && decide (value < 2 ^ 32) && decide (be < 16) && decide (mc < 4096)
  | .latchedRead p _ _ => p.wf
  | .bar2Access link _ _ mc => decide (link < 8) && decide (mc < 4096)
  | .sqtailDoorbell link q value => decide (link < 8) && decide (q < 64) && decide (value < 2 ^ 32)
  | .commandRecordArrival link q c mc =>
    decide (link < 8) && decide (q < 64) && decide (mc < 4096) && (match c with | some r => r.wf | none => true)
  | .cqheadDoorbell link q value => decide (link < 8) && decide (q < 64) && decide (value < 2 ^ 32)
  | .eqheadDoorbell link value => decide (link < 8) && decide (value < 2 ^ 32)
  | .qcfgWrite link q value => decide (link < 8) && decide (q < 64) && decide (value < 2 ^ 32)
  | .eqcfgWrite link value => decide (link < 8) && decide (value < 2 ^ 32)
  | .completionWrite link => decide (link < 8)
  | .eventRecordWrite link => decide (link < 8)
  | .linkUp link _ _ => decide (link < 8)
  | .linkDown link => decide (link < 8)
  | .jobStart c => c.wf
  | .jobFirstStep g s => decide (g < 32) && decide (s < 8)
  | .jobEnd g => decide (g < 32)
  | .jobAbort c => c.wf
  | .dataImport c => c.wf
  | .dataExport c => c.wf
  | .dataTransferEnd _ => true
  | .stopTriggerReport w g _ => codeOk w && decide (g < 32)
  | .stop s g => decide (s < 8) && decide (g < 32)
  | .rollbackDecision g => decide (g < 32)
  | .rollbackBoundary s g => decide (s < 8) && decide (g < 32)
  | .strideReplay g _ => decide (g < 32)
  | .mirrorRestoreEnd g => decide (g < 32)
  | .regRead d => d.wf
  | .regWrite d => d.wf
  | .command d => d.wf
  | .subscribe d => d.wf
  | .unsubscribe d => d.wf
  | .ptpTransit _ => true
  | .syncMessage domain transport _ _ => decide (domain < 256) && decide (transport < 2)
  | .announceMessage _ domain transport _ => decide (domain < 256) && decide (transport < 2)
  | .syncTimeout => true
  | .boardLinkRetrained w j => codeOk w && decide (j < 16)
  | .cocoonStoreWritten _ => true
  | .serviceClear u => u.wf

end Sys2Proof
end

