-- ==== Sys2Proof/Certificates/Slice0/Obligations.lean ====
section
/-! DEFINITION. The statements for the provers. -/

open Sys2Proof Sys2Proof.Machine

/-- A step runs the command at the front of the queue with the queue's rest. On an empty queue the block idles, which is the model's choice
(log entry 3). -/
def Obligations.StepsRunTheFront : Prop :=
  ∀ s : State, (∀ c rest, s.pending = c :: rest → step s = exec c { s with pending := rest }) ∧ (s.pending = [] → step s = .next s)

/-- R59, R63, R159, R325, Tables 3.2, 10.8, 14.5, 14.13: after reset the machine is Off with PREV 2h, owner 0 alone is live, both Scarab banks
hold the null program, AUTO_BYPASS is 1, a queue pair's VECTOR is its number, K is nominal with TRANSPORT 3h, and no command waits. That
memory lists nothing and that the machine is a complete TQ-1/16 are the model's choices (log entries 1, 2). -/
def Obligations.ResetLeavesTheMachineOff : Prop :=
  State.reset.mgr.mode = .off ∧ State.reset.mgr.prev = 2 ∧ State.reset.owners.live = [0] ∧ State.reset.plane.autoBypass = true ∧
  (∀ b w, w < 16384 → scarabDecode ({ State.reset.scb with bank := b }.word w) = some (if w = 0 then Instr.end_ else .scarabNop)) ∧
  (∀ k q, ((State.reset.hub k).queue q).vector = q ∧ ((State.reset.hub k).queue q).enable = false) ∧
  State.reset.ktd.k = 0x14000000000 ∧ State.reset.ktd.enable = true ∧ State.reset.ktd.transport = 3 ∧ State.reset.mem = [] ∧
  State.reset.pending = [] ∧ State.reset.fit.variant = .tq16

/-- Memory is in its canonical form at reset. -/
def Obligations.MemoryStartsCanonical : Prop := Memory.wf State.reset.mem = true

/-- Every step keeps memory in its canonical form: addresses strictly rising, and no byte listed that an unlisted address reads as. -/
def Obligations.MemoryStaysCanonical : Prop :=
  ∀ s t : State, Memory.wf s.mem = true → step s = .next t → Memory.wf t.mem = true

/-- Every command completes: none faults and none is refused by the model, and none changes the queue of the commands that wait. -/
def Obligations.EveryCommandCompletes : Prop := ∀ (c : Instr) (s : State), Completes c s fun t => t.pending = s.pending

/-- R339, R340, Table 3.4: a manager command whose opcode or reserved bits are wrong is refused with 40h before anything else is looked at;
one that its rule does not accept in the present state is refused with 42h in Doze and Hold, and in Passage where it accepts Loaded, and
with 41h elsewhere. In Off and Bring-up no command is decided. -/
def Obligations.CommandsAreRefused : Prop :=
  ∀ (s : State) (c : Cmd) (meas : List RecMeas),
    let rows : List (Instr × Nat) :=
      [(.nop c, 0x00), (.doze c, 0x10), (.wake c, 0x11), (.hold c, 0x12), (.resume c, 0x13), (.powerDown c, 0x14), (.restartWarm c, 0x15),
       (.restartCold c, 0x16), (.enterService c, 0x17), (.leaveService c, 0x18), (.imageLoad c, 0x20), (.imageActivate c, 0x21),
       (.imageDiscard c, 0x22), (.imageDeactivate c, 0x23), (.kemKey c, 0x30), (.ownerOpen c, 0x31), (.ownerRelease c, 0x32),
       (.cocoonStore c, 0x40), (.cocoonLoad c, 0x41), (.moundPromote c, 0x42), (.moundPin c, 0x43), (.moundUnpin c, 0x44),
       (.moundDrop c, 0x45), (.moundQuery c, 0x46), (.pubkeyAdd c, 0x47), (.pubkeyRemove c, 0x48), (.cocoonDelete c, 0x49),
       (.jobStart c, 0x50), (.jobAbort c, 0x51), (.dataImport c, 0x58), (.dataExport c, 0x59), (.lacewingPlanBypass c, 0x60),
       (.lacewingPlanEvacuate c, 0x60), (.lacewingPlanRestore c, 0x60), (.lacewingCommit c, 0x61), (.lacewingCancel c, 0x62),
       (.cableSearch c, 0x63), (.calFactory c meas, 0x70), (.calWrite c, 0x71), (.fieldVerifyTile c, 0x72), (.fieldVerifyPort c, 0x72),
       (.loopTune c, 0x73)]
    let stateful : List (Instr × Nat × List MState) :=
      [(.resume c, 0x13, [.hold]), (.powerDown c, 0x14, [.quiescent, .hold]), (.restartWarm c, 0x15, [.limp]), (.restartCold c, 0x16, [.limp]),
       (.enterService c, 0x17, [.quiescent]), (.leaveService c, 0x18, [.service]),
       (.imageLoad c, 0x20, [.quiescent, .loaded, .running, .passage]), (.imageDiscard c, 0x22, [.quiescent, .loaded, .running, .passage]),
       (.lacewingCommit c, 0x61, [.quiescent, .loaded, .running]), (.lacewingCancel c, 0x62, [.quiescent, .loaded, .running]),
       (.cableSearch c, 0x63, [.quiescent])]
    let m := s.mgr.mode
    (m = .off ∨ m = .bringUp → ∀ r ∈ rows, Completes r.1 s fun t => t = s) ∧
    (m ≠ .off → m ≠ .bringUp → ∀ r ∈ rows, ¬IsCmd c r.2 → Completes r.1 s fun t => t = s.final c 0x40) ∧
    (m ≠ .off → m ≠ .bringUp → ∀ r ∈ stateful, IsCmd c r.2.1 → m ∉ r.2.2 → Completes r.1 s fun t =>
      t = s.final c (if m = .doze ∨ m = .hold ∨ (m = .passage ∧ MState.loaded ∈ r.2.2) then 0x42 else 0x41))

/-- R309, Tables 13.4 and 13.5: words of each format, written out by bit fields, decode to the instructions they spell; a reserved opcode and
a 1 in a bit that the format marks as zero do not decode. -/
def Obligations.ScarabWordsDecode : Prop :=
  scarabDecode 0x00000000 = some .scarabNop ∧ scarabDecode 0x04000000 = some .end_ ∧ scarabDecode 0x08108300 = some (.add 1 2 3) ∧
  scarabDecode 0x4010BFFF = some (.addi 1 2 0x3FFF) ∧ scarabDecode 0x4C1FFFFF = some (.li 1 0xFFFFF) ∧
  scarabDecode 0x80104005 = some (.beq 1 1 5) ∧ scarabDecode 0x90000007 = some (.jmp 7) ∧ scarabDecode 0x9C00C010 = some (.loop 3 16) ∧
  scarabDecode 0x6C100180 = some (.take 1 1 true) ∧ scarabDecode 0x70004900 = some (.spanArm 1 2) ∧
  scarabDecode 0x08108301 = none ∧ scarabDecode 0x78000000 = none ∧ scarabDecode 0x90100007 = none

/-- R309, Table 13.4: every well-formed Scarab instruction is spelled by a 32-bit word that decodes to it. -/
def Obligations.ScarabWordsReturn : Prop :=
  ∀ (i : Instr) (w : Nat), i.wf = true → scarabEncode i = some w → w < 2 ^ 32 ∧ scarabDecode w = some i

/-- R113, Table 5.3: every well-formed slot of an operation is spelled by 16 bytes that decode to it, and no other 16 bytes do; a UNIT that is
not the operation's does not decode. -/
def Obligations.SlotsReturn : Prop :=
  (∀ (op : Nat) (sl : Slot), (unitOf op).isSome = true → sl.wf = true →
    slotEncode op sl < 2 ^ 128 ∧ slotDecode (slotEncode op sl) = some (op, sl)) ∧
  (∀ (v op : Nat) (sl : Slot), v < 2 ^ 128 → slotDecode v = some (op, sl) → slotEncode op sl = v) ∧
  ∀ v : Nat, unitOf (bitsOf v 111 104) ≠ some (bitsOf v 114 112) → slotDecode v = none

/-- R305, R308 to R312, R315: an instruction of the Scarab engine changes nothing but the engine, and where it is not the next instruction of
a running scan it does not occur. -/
def Obligations.ScarabKeepsToItself : Prop :=
  ∀ (i : Instr) (s : State), (scarabEncode i).isSome = true →
    (Completes i s fun t => t = { s with scb := t.scb } ∧ t.scb.count = s.scb.count ∧ t.scb.mail = s.scb.mail ∧ t.scb.input = s.scb.input) ∧
    (s.scb.next ≠ some i → exec i s = .next s)

/-- R309, Table 13.5: each register instruction writes the 32-bit result of its operation into `d`, g0 discarding it, takes its cycles, goes
on to the next word, and leaves every other register and the rest of the machine. Table 13.5: the products, the quotient and the
immediates that are not sign-extended. MUL keeps the low and MULH the high 32 bits of the product, DIV rounds toward zero with 0 for a
divisor of 0, and ANDI, ORI and LUI take their immediate as it stands. -/
def Obligations.ScarabComputes : Prop :=
  (∀ (s : State) (d a b imm : Nat),
     ScarabWrites (.add d a b) d (s.scReg a + s.scReg b) s ∧
     ScarabWrites (.sub d a b) d (s.scReg a - s.scReg b) s ∧
     ScarabWrites (.and d a b) d (s.scReg a &&& s.scReg b) s ∧
     ScarabWrites (.or d a b) d (s.scReg a ||| s.scReg b) s ∧
     ScarabWrites (.xor d a b) d (s.scReg a ^^^ s.scReg b) s ∧
     ScarabWrites (.shl d a b) d (s.scReg a <<< ((s.scReg b).toNat % 32)) s ∧
     ScarabWrites (.shr d a b) d (s.scReg a >>> ((s.scReg b).toNat % 32)) s ∧
     ScarabWrites (.sar d a b) d ((s.scReg a).sshiftRight ((s.scReg b).toNat % 32)) s ∧
     ScarabWrites (.min d a b) d (if (s.scReg b).slt (s.scReg a) then s.scReg b else s.scReg a) s ∧
     ScarabWrites (.max d a b) d (if (s.scReg a).slt (s.scReg b) then s.scReg b else s.scReg a) s ∧
     ScarabWrites (.slt d a b) d (if (s.scReg a).slt (s.scReg b) then 1 else 0) s ∧
     ScarabWrites (.addi d a imm) d (s.scReg a + (BitVec.ofNat 14 imm).signExtend 32) s ∧
     ScarabWrites (.li d imm) d ((BitVec.ofNat 20 imm).signExtend 32) s) ∧
  (∀ (s : State) (d a b imm : Nat),
     ScarabWrites (.mul d a b) d (s.scReg a * s.scReg b) s ∧
     ScarabWrites (.mulh d a b) d (((s.scReg a).signExtend 64 * (s.scReg b).signExtend 64).extractLsb' 32 32) s ∧
     ScarabWrites (.div d a b) d (if s.scReg b = 0 then 0 else (s.scReg a).sdiv (s.scReg b)) s ∧
     (imm < 2 ^ 14 → ScarabWrites (.andi d a imm) d (s.scReg a &&& (BitVec.ofNat 14 imm).zeroExtend 32) s) ∧
     (imm < 2 ^ 14 → ScarabWrites (.ori d a imm) d (s.scReg a ||| (BitVec.ofNat 14 imm).zeroExtend 32) s) ∧
     (imm < 2 ^ 20 → ScarabWrites (.lui d imm) d ((BitVec.ofNat 20 imm).zeroExtend 32 <<< 12) s))

/-- R308, R314, R319, R320, Table 13.5: LD, IN, SPAN READ and TIME write what they read into `d`: a data word, an input word, the result word
of a timer (0 while it has not closed), the cycle of the scan. R318: TAKE writes the latch of an input, with its OVF flag in bit 4, into
`d` and clears the latch; it clears the OVF flag where its C bit says so. Every other latch and flag stays. -/
def Obligations.ScarabReadsItsSources : Prop :=
  (∀ (s : State) (d a imm n : Nat),
     ScarabWrites (.ld d a imm) d (BitVec.ofNat 32 (s.scb.dataWord (s.scAddr a imm))) s ∧
     ScarabWrites (.in_ d a imm) d (BitVec.ofNat 32 (s.scb.input.get 0 (s.scAddr a imm % 1024))) s ∧
     ScarabWrites (.spanRead d n) d (BitVec.ofNat 32 (if (s.scb.span n).closed then (s.scb.span n).result else 0)) s ∧
     ScarabWrites (.time d) d (BitVec.ofNat 32 s.scb.cyc) s) ∧
  (∀ (s : State) (d e : Nat) (c : Bool), s.scb.next = some (.take d e c) → Completes (.take d e c) s fun t =>
     (∀ r, t.scb.reg r = if r = d ∧ d ≠ 0 then s.scb.latch.get 0 e % 16 + (if s.scb.ovf.testBit e then 16 else 0) else s.scb.reg r) ∧
     (∀ f, t.scb.latch.get 0 f = if f = e then 0 else s.scb.latch.get 0 f) ∧
     (∀ f, t.scb.ovf.testBit f = if f = e ∧ c = true then false else s.scb.ovf.testBit f) ∧
     t = { s with scb := { s.scarabNext (.take d e c) with g := t.scb.g, latch := t.scb.latch, ovf := t.scb.ovf } })

/-- R308, R314, R315, Table 13.5: ST writes a data word; STP writes a word of the shadow bank, or, while the bank holds a placed program, is
discarded and counted; a program store during the check of an armed swap ends the swap and is counted in CANCELS. -/
def Obligations.ScarabStores : Prop :=
  ∀ (s : State) (d a imm : Nat),
    (s.scb.next = some (.st d a imm) → Completes (.st d a imm) s fun t =>
      (∀ k, t.scb.dataWord k = if k % 16384 = s.scAddr a imm % 16384 then s.scb.reg d else s.scb.dataWord k) ∧
      t = { s with scb := { s.scarabNext (.st d a imm) with retained := t.scb.retained, volatile := t.scb.volatile } }) ∧
    (s.scb.next = some (.stp d a imm) → s.scb.staged = false → Completes (.stp d a imm) s fun t =>
      (∀ k, t.scb.shadow.get 0 k = if k = s.scAddr a imm % 16384 then s.scb.reg d else s.scb.shadow.get 0 k) ∧
      (if s.scb.bank then t.scb.bank1 = s.scb.bank1 else t.scb.bank0 = s.scb.bank0) ∧
      t = { s with scb := { s.scarabNext (.stp d a imm) with
        bank0 := t.scb.bank0, bank1 := t.scb.bank1
        armed := if s.scb.checking.isSome then false else s.scb.armed, checking := none
        cancels := if s.scb.checking.isSome then min 255 (s.scb.cancels + 1) else s.scb.cancels } }) ∧
    (s.scb.next = some (.stp d a imm) → s.scb.staged = true → Completes (.stp d a imm) s fun t =>
      t = { s with scb := { s.scarabNext (.stp d a imm) with stpDrop := min 255 (s.scb.stpDrop + 1) } })

/-- R311, R312: OUT queues a write of a register's value to the address in another, up to 256 a scan; CMD posts the 16 words at the data
address in a register, up to 4 a scan; what comes beyond is discarded and counted. R319, R320: SPAN ARM arms a timer with a descriptor and
clears what it held; SPAN START stamps the start of an armed, open timer whose descriptor takes its start from the instruction; SPAN STOP
closes one whose descriptor takes its stop from it, with the cycles since the start as its result, and counts on the timer's own input. -/
def Obligations.ScarabSendsAndMeasures : Prop :=
  (∀ (s : State) (a b : Nat),
     (s.scb.next = some (.out a b) → Completes (.out a b) s fun t =>
       t = { s with scb :=
         if s.scb.outs < 256 then
           { s.scarabNext (.out a b) with outq := s.scb.outq ++ [(s.scb.reg a, s.scb.reg b)], outs := s.scb.outs + 1 }
         else { s.scarabNext (.out a b) with qFull := min 255 (s.scb.qFull + 1) } }) ∧
     (s.scb.next = some (.cmd a) → Completes (.cmd a) s fun t =>
       t = { s with scb :=
         if s.scb.cmds < 4 then
           { s.scarabNext (.cmd a) with
             cmdq := s.scb.cmdq ++ [(List.range 16).map fun i => s.scb.dataWord (s.scb.reg a + i)], cmds := s.scb.cmds + 1 }
         else { s.scarabNext (.cmd a) with cmdFull := min 255 (s.scb.cmdFull + 1) } })) ∧
  (∀ (s : State) (a n : Nat),
     (s.scb.next = some (.spanArm a n) → Completes (.spanArm a n) s fun t =>
       t.scb.span n = { armed := true, desc := s.scb.reg a, start := none, closed := false, result := 0 } ∧
       (∀ m, m ≠ n → t.scb.span m = s.scb.span m) ∧ t = { s with scb := { s.scarabNext (.spanArm a n) with spans := t.scb.spans } }) ∧
     (s.scb.next = some (.spanStart n) → Completes (.spanStart n) s fun t =>
       t.scb.span n =
         { s.scb.span n with
           start := if (s.scb.span n).armed && !(s.scb.span n).closed && (s.scb.span n).desc.testBit 6 && (s.scb.span n).start.isNone
             then some s.scb.now else (s.scb.span n).start } ∧
       (∀ m, m ≠ n → t.scb.span m = s.scb.span m) ∧ t = { s with scb := { s.scarabNext (.spanStart n) with spans := t.scb.spans } }) ∧
     (n < 16 → s.scb.next = some (.spanStop n) → (s.scb.span n).armed = true → (s.scb.span n).closed = false →
       (s.scb.span n).desc.testBit 14 = true → Completes (.spanStop n) s fun t =>
         (t.scb.span n).closed = true ∧ (t.scb.span n).result = (s.scb.span n).resultAt s.scb.now ∧
         t = { s with scb := { s.scarabNext (.spanStop n) with spans := t.scb.spans, live := t.scb.live, ovf := t.scb.ovf } }))

/-- R305: SCARAB_SCAN begins the one run of a frame at word 0 of the active bank, with nothing queued and its call and loop stacks empty. R309,
R310, Table 13.5: NOP goes on; END ends the run and records its cycle; a taken branch goes to its target in 2 cycles and one that is not
taken goes on in 1; JMP and CALL go to their target, CALL with the next word pushed; LOOP enters its body with its count (0 for 4,096). -/
def Obligations.ScarabFlow : Prop :=
  (∀ s : State, s.scb.run = true → s.scb.halted = false → s.mgr.mode ≠ .off → s.mgr.mode ≠ .limp →
     (s.scb.scanned = true → Completes .scarabScan s fun t => t = s) ∧
     (s.scb.scanned = false → Completes .scarabScan s fun t => t = { s with scb := { s.scb with
       scanned := true, pc := 0, cyc := 0, stack := [], loops := [], ended := false, outq := [], outs := 0, cmdq := [], cmds := 0 } })) ∧
  (∀ (s : State) (a b n m : Nat),
     let taken : Scarab := { s.scb with pc := n % 16384, cyc := s.scb.cyc + 2 }
     (s.scb.next = some .scarabNop → Completes .scarabNop s fun t => t = { s with scb := s.scarabNext .scarabNop }) ∧
     (s.scb.next = some .end_ → Completes .end_ s fun t =>
       t = { s with scb := { s.scb with
         ended := true, lastEnd := s.scb.cyc, maxEnd := max s.scb.maxEnd s.scb.cyc, cyc := s.scb.cyc + 1 } }) ∧
     (s.scb.next = some (.beq a b n) → Completes (.beq a b n) s fun t =>
       t = { s with scb := if s.scb.reg a = s.scb.reg b then taken else s.scarabNext (.beq a b n) }) ∧
     (s.scb.next = some (.bne a b n) → Completes (.bne a b n) s fun t =>
       t = { s with scb := if s.scb.reg a = s.scb.reg b then s.scarabNext (.bne a b n) else taken }) ∧
     (s.scb.next = some (.blt a b n) → Completes (.blt a b n) s fun t =>
       t = { s with scb := if (s.scReg a).slt (s.scReg b) then taken else s.scarabNext (.blt a b n) }) ∧
     (s.scb.next = some (.bge a b n) → Completes (.bge a b n) s fun t =>
       t = { s with scb := if (s.scReg a).slt (s.scReg b) then s.scarabNext (.bge a b n) else taken }) ∧
     (s.scb.next = some (.jmp n) → Completes (.jmp n) s fun t => t = { s with scb := taken }) ∧
     (s.scb.next = some (.call n) → Completes (.call n) s fun t =>
       t = { s with scb := { taken with stack := (s.scb.pc + 1) :: s.scb.stack } }) ∧
     (s.scb.next = some (.loop m n) → Completes (.loop m n) s fun t =>
       t = { s with scb := { s.scb with
         loops := (s.scb.pc + 1, n, if m = 0 then 4096 else m, s.scb.stack.length) :: s.scb.loops
         pc := (s.scb.pc + 1) % 16384, cyc := s.scb.cyc + 1 } }) ∧
     (∀ rest, s.scb.next = some .ret → s.scb.stack = n :: rest → (∀ l ∈ s.scb.loops, l.2.1 + 1 ≠ n) →
       Completes .ret s fun t => t = { s with scb := { taken with stack := rest } }))

/-- R314 to R316: SWAP arms a swap unless a placed program stands in the shadow bank; after 16 frames of checking the banks exchange roles,
the new shadow is a copy of the new active bank, SWAPS counts and the volatile items are cleared, or CHKFAIL is set and the swap is given
up. R317: arrivals at an input below 20 raise its live count, which stops at 15 with OVF set where it would pass it; the other counts of
those inputs stay, and nothing but the engine changes. R305, R313, R321: at cycle 3,584 a scan that has reached END delivers its writes
and posts its commands; without END it is an overrun, which stops the controller and requests Limp with CAUSE 4h. -/
def Obligations.ScarabSwapsAndIsWatched : Prop :=
  (∀ s : State,
     (s.scb.next = some .swap → Completes .swap s fun t =>
       t = { s with scb :=
         if s.scb.staged then { s.scarabNext .swap with cancels := min 255 (s.scb.cancels + 1) }
         else if s.scb.armed then s.scarabNext .swap
         else { s.scarabNext .swap with armed := true, armedAt := s.mgr.frame } }) ∧
     (∀ f, s.scb.checking = some f → f + 16 ≤ s.mgr.frame → bankOk s.scb.shadow = true → Completes .bankCheckEnd s fun t =>
       t.scb.bank = !s.scb.bank ∧ t.scb.bank0 = s.scb.shadow ∧ t.scb.bank1 = s.scb.shadow ∧ t.scb.swaps = min 255 (s.scb.swaps + 1) ∧
       t.scb.armed = false ∧ t.scb.checking = none ∧ t.scb.volatile = Tab.empty ∧ t.scb.retained = s.scb.retained ∧
       t = { s with scb := t.scb }) ∧
     (∀ f, s.scb.checking = some f → f + 16 ≤ s.mgr.frame → bankOk s.scb.shadow = false → Completes .bankCheckEnd s fun t =>
       t = { s with scb := { s.scb with armed := false, checking := none, chkFail := true } })) ∧
  (∀ (s : State) (e n mc : Nat), e < 20 → 0 < n → Completes (.eventArrival e n mc) s fun t =>
     t.scb.live.get 0 e = min 15 (s.scb.live.get 0 e + n) ∧
     t.scb.ovf.testBit e = (s.scb.ovf.testBit e || decide (15 < s.scb.live.get 0 e + n)) ∧
     (∀ f, f < 32 → f ≠ e → t.scb.live.get 0 f = s.scb.live.get 0 f ∧ t.scb.ovf.testBit f = s.scb.ovf.testBit f) ∧
     t = { s with scb := { s.scb with live := t.scb.live, ovf := t.scb.ovf, spans := t.scb.spans } }) ∧
  (∀ s : State, s.scb.run = true → s.scb.halted = false →
     (s.scb.ended = true → Completes .watchdogCheck s fun t =>
       t.scb.outq = [] ∧ t.scb.cmdq = [] ∧ t.mem = s.mem ∧ t.pending = s.pending ∧ t.mgr.limpReq = s.mgr.limpReq ∧
       ∃ more, t.host.intake = s.host.intake ++ more ∧
         more.map (fun x => (x.1, x.2.src)) = (List.range s.scb.cmdq.length).map fun n => (3616 + n, Source.scarab n)) ∧
     (s.scb.ended = false → 3584 ≤ s.scb.cyc → Completes .watchdogCheck s fun t =>
       t.mgr.limpReq = some (s.mgr.limpReq.getD 4) ∧ t.scb.run = false ∧ t.scb.halted = true ∧
       t = { s with scb := t.scb, mgr := { s.mgr with limpReq := t.mgr.limpReq } }))

/-- R332, R333: SQTAIL and CQHEAD of an enabled pair take the written index; one outside the ring stops the pair with ERRCODE 3. EQHEAD of an
enabled event ring takes its index. R332: setting ENABLE with ring sizes of 2^4 to 2^12 starts the rings at their beginning; with another
size ENABLE stays 0 and the pair stops with ERRCODE 1; clearing ENABLE takes effect when nothing is in flight. An event ring is enabled
likewise. -/
def Obligations.HostQueuesAreDriven : Prop :=
  (∀ (s : State) (k q v : Nat), s.hostReady k → q < 64 →
     let x := (s.hub k).queue q
     (x.enable = true → x.closing = false → x.error = false → Completes (.sqtailDoorbell k q v) s fun t =>
       OnlyPair k q s t ∧
       (if v % 4096 < 2 ^ x.sqLog then ((t.hub k).queue q).tail = v % 4096 ∧ ((t.hub k).queue q).error = false
        else (t.hub k).queue q = { x with error := true, errCode := 3 })) ∧
     (x.enable = true → x.error = false → Completes (.cqheadDoorbell k q v) s fun t =>
       OnlyPair k q s t ∧
       (if v % 4096 < 2 ^ x.cqLog then ((t.hub k).queue q).cqHead = v % 4096 ∧ ((t.hub k).queue q).error = false
        else (t.hub k).queue q = { x with error := true, errCode := 3 })) ∧
     ((s.hub k).eqEnable = true → v % 4096 < 2 ^ (s.hub k).eqLog → Completes (.eqheadDoorbell k v) s fun t =>
       OnlyHub k s t ∧ t.hub k = { s.hub k with eqHead := v % 4096, eqUsed := (t.hub k).eqUsed })) ∧
  (∀ (s : State) (k q v : Nat), s.hostReady k → q < 64 →
     let x := (s.hub k).queue q
     let sized : Prop := 4 ≤ bitsOf v 19 16 ∧ bitsOf v 19 16 ≤ 12 ∧ 4 ≤ bitsOf v 11 8 ∧ bitsOf v 11 8 ≤ 12
     (x.enable = false → v.testBit 31 = true → sized → Completes (.qcfgWrite k q v) s fun t =>
       let y := (t.hub k).queue q
       OnlyPair k q s t ∧ y.enable = true ∧ y.cqLog = bitsOf v 19 16 ∧ y.sqLog = bitsOf v 11 8 ∧ y.tail = 0 ∧ y.sqHead = 0 ∧ y.cqHead = 0 ∧
       y.cqTail = 0 ∧ y.inflight = 0 ∧ y.sqBase = x.sqBase ∧ y.cqBase = x.cqBase) ∧
     (x.enable = false → v.testBit 31 = true → ¬sized → Completes (.qcfgWrite k q v) s fun t =>
       OnlyPair k q s t ∧ ((t.hub k).queue q).enable = false ∧ ((t.hub k).queue q).error = true ∧ ((t.hub k).queue q).errCode = 1) ∧
     (x.enable = true → v.testBit 31 = false → Completes (.qcfgWrite k q v) s fun t =>
       let y := (t.hub k).queue q
       OnlyPair k q s t ∧ y.enable = decide (x.inflight ≠ 0) ∧ y.closing = decide (x.inflight ≠ 0) ∧
       y.cqLog = x.cqLog ∧ y.sqLog = x.sqLog) ∧
     ((s.hub k).eqEnable = false → v.testBit 31 = true → 4 ≤ bitsOf v 11 8 → bitsOf v 11 8 ≤ 12 → Completes (.eqcfgWrite k v) s fun t =>
       OnlyHub k s t ∧ t.hub k =
         { s.hub k with eqEnable := true, eqLog := bitsOf v 11 8, eqTail := 0, eqHead := 0, eqPhase := false, eqUsed := 0 }))

/-- R333, R334: a fetched record that arrives joins the manager's intake under the pair and number it was fetched as, in no earlier a cycle
than its pair's last; a host fault on its read stops the pair with ERRCODE 2. R335, R338: of the completions that had reached a hub at its
boundary the one that has waited longest is written to its completion ring at CQTAIL; where its link is down, or its pair has been enabled
anew or not at all since it was fetched, it is discarded and counted in LOSTCPL. R337: of the events that had reached the hub at its boundary
the next takes the link's SEQ, which counts modulo 2^24 whether or not it is written; it is written at the tail of an enabled ring that has
room, lost and counted in EQLOST where the ring is full, and dropped where the ring is not enabled.
R327, R332, R338: a link that trains reads UP with its rate and width; a link that goes down returns its queue pairs and its event ring to
their reset values, and SEQ keeps counting. -/
def Obligations.HostRingsAreServed : Prop :=
  (∀ (s : State) (k q mc : Nat) (c : Cmd), k < s.fit.sleds → q < 64 → (s.hub k).linkUp = true → 0 < ((s.hub k).queue q).toFetch →
     let x := (s.hub k).queue q
     Completes (.commandRecordArrival k q (some c) mc) s (fun t =>
       (∃ n, mc ≤ n ∧ ((∀ a ∈ s.host.intake, ∀ y z, a.2.src = .host k q y z → a.1 ≤ mc) → n = mc) ∧
         (∀ a ∈ s.host.intake, ∀ y z, a.2.src = .host k q y z → a.1 ≤ n) ∧
         t.host = { s.host with
           intake := s.host.intake ++ [(n, { c with src := .host k q x.session (x.number + 1 - x.toFetch) })] }) ∧
       ((t.hub k).queue q).toFetch + 1 = x.toFetch ∧ OnlyPair k q s { t with host := s.host }) ∧
     Completes (.commandRecordArrival k q none mc) s (fun t =>
       (t.hub k).queue q = { x with toFetch := x.toFetch - 1, inflight := x.inflight - 1, error := true, errCode := 2 } ∧
       OnlyHub k s t ∧ ∀ p, p ≠ q → (t.hub k).queue p = (s.hub k).queue p)) ∧
  (∀ (s : State) (k l q e n : Nat) (c : Completion) (rest : List Completion),
     (s.hub k).cpls = c :: rest → (s.hub k).cplDue ≠ 0 →
     c.cmd.src = .host l q e n →
     let x := (s.hub k).queue q
     ((s.hub k).linkUp = true → x.enable = true → x.session = e → Completes (.completionWrite k) s fun t =>
       (∃ more, t.host.out =
         s.host.out ++ Out.hostWrite k (x.cqBase + 32 * x.cqTail) (completionBytes c (n % 2 ^ x.sqLog) q !x.phase) :: more) ∧
       (t.hub k).cpls = rest ∧ t = { s with hubs := t.hubs, host := { s.host with out := t.host.out } } ∧
       ∀ j, j ≠ k → t.hub j = s.hub j) ∧
     ((s.hub k).linkUp = false ∨ x.enable = false ∨ x.session ≠ e → Completes (.completionWrite k) s fun t =>
       OnlyHub k s t ∧ t.hub k =
         { s.hub k with cpls := rest, cplDue := (s.hub k).cplDue - 1, lostCpl := min 255 ((s.hub k).lostCpl + 1) })) ∧
  (∀ (s : State) (k : Nat) (e : EventRec) (rest : List EventRec), (s.hub k).evq = e :: rest → (s.hub k).evDue ≠ 0 →
     (s.hub k).linkUp = true →
     let h := s.hub k
     (h.eqEnable = false → Completes (.eventRecordWrite k) s fun t =>
       OnlyHub k s t ∧ t.hub k = { h with evq := rest, evDue := h.evDue - 1, seq := (h.seq + 1) % 2 ^ 24 }) ∧
     (h.eqEnable = true → h.eqUsed < 2 ^ h.eqLog → Completes (.eventRecordWrite k) s fun t =>
       (∃ more, t.host.out = s.host.out ++ Out.hostWrite k (h.eqBase + 32 * h.eqTail) (eventBytes e h.seq !h.eqPhase) :: more) ∧
       (t.hub k).evq = rest ∧ (t.hub k).seq = (h.seq + 1) % 2 ^ 24 ∧ (t.hub k).eqTail = (h.eqTail + 1) % 2 ^ h.eqLog ∧
       (t.hub k).eqLost = h.eqLost ∧ t = { s with hubs := t.hubs, host := { s.host with out := t.host.out } }) ∧
     (h.eqEnable = true → 2 ^ h.eqLog ≤ h.eqUsed → Completes (.eventRecordWrite k) s fun t =>
       OnlyHub k s t ∧ t.hub k = { h with evq := rest, evDue := h.evDue - 1, seq := (h.seq + 1) % 2 ^ 24, eqLost := min 65535 (h.eqLost + 1) })) ∧
  (∀ (s : State) (k g w : Nat), k < s.fit.sleds →
     (s.mgr.mode ≠ .off → (s.hub k).linkUp = false → Completes (.linkUp k g w) s fun t =>
       OnlyHub k s { t with host := s.host } ∧ t.hub k = { s.hub k with linkUp := true, gts := g % 256, width := w % 256 } ∧
       t.host = { s.host with latches := t.host.latches } ∧ ∀ l ∈ t.host.latches, l.path ≠ .host k) ∧
     ((s.hub k).linkUp = true → Completes (.linkDown k) s fun t =>
       OnlyHub k s t ∧ (t.hub k).linkUp = false ∧ (∀ q, (t.hub k).queue q = Queue.init q) ∧ (t.hub k).eqEnable = false ∧
       (t.hub k).eqTail = 0 ∧ (t.hub k).eqHead = 0 ∧ (t.hub k).eqLost = 0 ∧ (t.hub k).seq = (s.hub k).seq))

/-- R36, R37: at a locked receiver an edge within 32 c of the predicted boundary is accepted and clears its missing count; one outside the
window is a counted fault and leaves the receiver as it was. R41: a receiver that acquires its phase counts edges that come 512 reference
periods apart, and locks at the 64th in a row; any other edge becomes the phase and restarts the count at 1. R40: a lost reference clears
REF_OK and its return is noted; while it is lost a receiver accepts no edge (that the edge counts as a tick fault is the model's choice, log
entry 101). R37, R39, R40: a locked receiver counts a missing tick, and its domain a fault; at the 17th in a row no frame starts on a sled,
while on the manager frame a Hold is requested, and the receiver loses its lock once its domain is in the Hold for tick loss. -/
def Obligations.TicksAreJudged : Prop :=
  (∀ (s : State) (u : TickUnit) (ofs : Int), s.counted u = true → s.mgr.mode ≠ .off →
     let r := s.rx u
     let d := rxDomain u
     (r.locked = true →
       (-32 ≤ ofs → ofs ≤ 32 → r.accepted = false → (s.dom d).refLost = false → Completes (.tickEdge u ofs) s fun t =>
         t.rx u = { r with accepted := true, lastOfs := ofs, missing := 0, run := min 64 (r.run + 1) } ∧
         (∀ v, rxKey v ≠ rxKey u → t.rx v = s.rx v) ∧ t = { s with rxs := t.rxs }) ∧
       (ofs < -32 ∨ 32 < ofs → Completes (.tickEdge u ofs) s fun t =>
         (t.dom d).faults = min 65535 ((s.dom d).faults + 1) ∧ (∀ e, e ≠ d → t.dom e = s.dom e) ∧ t = { s with doms := t.doms })) ∧
     (r.locked = false → (s.dom d).refLost = false → Completes (.tickEdge u ofs) s fun t =>
       (∀ v, rxKey v ≠ rxKey u → t.rx v = s.rx v) ∧ t = { s with rxs := t.rxs } ∧ (t.rx u).accepted = true ∧
       (0 < r.run → r.phase = ofs / 16 → r.accepted = false →
         (t.rx u).run = r.run + 1 ∧ (t.rx u).phase = r.phase ∧ (t.rx u).locked = decide (64 ≤ r.run + 1)) ∧
       (r.run = 0 ∨ r.phase ≠ ofs / 16 ∨ r.accepted = true →
         (t.rx u).run = 1 ∧ (t.rx u).phase = ofs / 16 ∧ (t.rx u).locked = false)) ∧
     ((s.dom d).refLost = true → Completes (.tickEdge u ofs) s fun t =>
       t.rxs = s.rxs ∧ (t.dom d).faults = min 65535 ((s.dom d).faults + 1) ∧ (∀ e, e ≠ d → t.dom e = s.dom e) ∧
       t = { s with doms := t.doms }) ∧
     (r.accepted = false → r.locked = true → Completes (.missingTick u) s fun t =>
       (t.rx u).missing = min 17 (r.missing + 1) ∧ (t.dom d).faults = min 65535 ((s.dom d).faults + 1) ∧
       (r.missing ≠ 16 → (t.rx u).locked = true ∧ t = { s with rxs := t.rxs, doms := t.doms }) ∧
       (r.missing = 16 → (t.rx u).locked = (!s.inTickHold d) ∧
         (if d = 8 then t.mgr = { s.mgr with holdReq := some (s.mgr.holdReq.getD 2) } else (t.hub d).lossHold = true ∧ t.mgr = s.mgr) ∧
         t = { s with rxs := t.rxs, doms := t.doms, mgr := t.mgr, hubs := t.hubs, scb := t.scb }))) ∧
  (∀ (s : State) (d : Domain), s.mgr.mode ≠ .off →
     (Completes (.referenceLoss d) s fun t =>
       t.dom (domainNo d) = { s.dom (domainNo d) with refOk := false, refLost := true, refBack := false } ∧
       (∀ e, e ≠ domainNo d → t.dom e = s.dom e) ∧ t = { s with doms := t.doms }) ∧
     (Completes (.referenceReturn d) s fun t =>
       t.dom (domainNo d) = { s.dom (domainNo d) with refBack := true } ∧
       (∀ e, e ≠ domainNo d → t.dom e = s.dom e) ∧ t = { s with doms := t.doms }))

/-- R37: at a locked receiver an edge outside the window, and a second edge inside it, changes no receiver and counts as a tick fault; a
predicted boundary with no accepted edge counts as a missing tick, also where every edge was ignored. -/
def Obligations.TickFaultsAreCounted : Prop :=
  ∀ (s : State) (u : TickUnit) (ofs : Int), s.counted u = true → s.mgr.mode ≠ .off → (s.rx u).locked = true →
    (ofs < -32 ∨ 32 < ofs ∨ (s.rx u).accepted = true → Completes (.tickEdge u ofs) s fun t =>
      (t.dom (rxDomain u)).faults = min 65535 ((s.dom (rxDomain u)).faults + 1) ∧ t.rxs = s.rxs ∧
      (∀ d, d ≠ rxDomain u → t.dom d = s.dom d) ∧ t = { s with doms := t.doms } ∧
      ((s.rx u).accepted = false → Completes (.missingTick u) t fun v => (v.rx u).missing = min 17 ((s.rx u).missing + 1))) ∧
    ((s.rx u).accepted = false → Completes (.missingTick u) s fun t => (t.rx u).missing = min 17 ((s.rx u).missing + 1))

/-- R33, R39, R53, R58: at a sled's boundary a frame starts, with FRAME counted, unless Hold, Doze, Limp or a 17th missing tick prevents it;
it is a slip frame, which counts in SLIPS and not in STEP, where the largest lead was 4,096 c or more; else STEP counts while an image
runs. A boundary that starts none counts towards the boundaries that a sled passes as it leaves Hold (R80). R152: at every boundary each
worker takes the refresh rate of the last temperature report. R127, R151: at cycle 8,128 of a started frame, when every slot has issued, a
core with an operation that does not end fails with CAUSE 2 at that cycle (one that a DRAIN mismatch has stopped before then has failed
already), and the refresh row advances by 16, or by 32 while it is hot, on every worker whose PD7 or PD8 is on. -/
def Obligations.FramesStart : Prop :=
  (∀ (s : State) (k : Nat) (bus : List Nat), k < s.fit.sleds → s.mgr.mode ≠ .off → s.mgr.mode ≠ .bringUp →
     let h := s.hub k
     let slip : Prop := h.leadSeen = true ∧ 4096 * 64 ≤ h.maxLead
     (h.held = false → h.dropped = false → h.halted = false → h.lossHold = false → Completes (.frameBoundary k bus) s fun t =>
       (t.hub k).started = true ∧ (t.hub k).frame = (h.frame + 1) % 2 ^ 64 ∧
       (slip → (t.hub k).isSlip = true ∧ (t.hub k).slips = (h.slips + 1) % 2 ^ 32 ∧ (t.hub k).step = h.step) ∧
       (¬slip → (t.hub k).isSlip = false ∧ (t.hub k).slips = h.slips ∧
         (t.hub k).step = if h.applied = true ∧ h.stepping = true then h.step + 1 else h.step) ∧
       (∀ w ∈ s.fit.sledWorkers k, (t.worker w).hot = (s.worker w).hotNext.getD (s.worker w).hot) ∧
       ∀ j, j ≠ k → (t.hub j).frame = (s.hub j).frame ∧ (t.hub j).step = (s.hub j).step) ∧
     (h.held = true ∨ h.dropped = true ∨ h.halted = true ∨ h.lossHold = true → Completes (.frameBoundary k bus) s fun t =>
       (t.hub k).started = false ∧ (t.hub k).frame = h.frame ∧ (t.hub k).step = h.step ∧ (t.hub k).slips = h.slips ∧
       (t.hub k).resumeLeft = h.resumeLeft.map (fun n => n - 1) ∧
       ∀ w, t.worker w = if w ∈ s.fit.sledWorkers k then
         { s.worker w with hot := (s.worker w).hotNext.getD (s.worker w).hot, hotNext := none } else s.worker w)) ∧
  (∀ (s : State) (k : Nat) (late : List (Nat × Nat × Nat)), k < s.fit.sleds → (s.hub k).started = true →
     (∀ w ∈ s.fit.sledWorkers k, s.slotsLeft w = false) → Completes (.seamPhase k late) s fun t =>
       (∀ o ∈ late, o.1 ∈ s.fit.sledWorkers k → o.2.1 < 50 → (s.core o.1 o.2.1).stopped = false →
         (∀ p ∈ (s.worker o.1).inflight, p.core = o.2.1 → p.unit ≠ 2 ∨ p.kind < 4) →
         (t.core o.1 o.2.1).retired = true ∧ (t.core o.1 o.2.1).cause = 2 ∧ (t.core o.1 o.2.1).faultCycle = 8128) ∧
       (∀ w ∈ s.fit.sledWorkers k, (s.worker w).powered 7 = true ∨ (s.worker w).powered 8 = true →
         (t.worker w).refreshRow = ((s.worker w).refreshRow + if (s.worker w).hot then 32 else 16) % 65536) ∧
       t = { s with workers := t.workers, circs := t.circs, groups := t.groups, mem := t.mem, keyTag := t.keyTag })

/-- R46: at cycle 8,128 of a stride's last step, when every flit that was ready has left, a participant emits the token of the barrier that
closes the stride on each of its barrier circuits and on each board link that is up and that its group uses, once. R46, R52: a token that
is the next to arrive on its circuit or board link is taken from it and kept with the sender's stride-end boundary: over a circuit the
arrival less the ranged flight time plus 64 c, over a board link the sled's own. R47, R54: a barrier that is due completes at a participant
that has every other participant's token; WRL.STAT.BARRIER takes its number modulo 2^24. R51: a participant that lacks another's token when
its barrier is due, whether or not it has emitted its own, marks it failed: FAIL is set, and its group starts no further step on the
sled. -/
def Obligations.BarriersRun : Prop :=
  (∀ (s : State) (g w p b c : Nat) (a : Int), w ∈ s.participants g → s.workerUp w = true →
     let h := s.hub (sledOf w)
     let j := s.fit.linkTo p (siteOf w)
     (h.started = true → h.isSlip = false → (s.groupSteps g (sledOf w)).isSome = true → (h.step + 1) % s.strideOf g = 0 →
       (s.group g).emitted.get 0 w ≤ h.step / s.strideOf g → s.slotsLeft w = false →
       (∀ x ∈ (s.worker w).inflight, 8128 < x.ready) → Completes (.barrierTokenEmit g w) s fun t =>
         (t.group g).emitted.get 0 w = h.step / s.strideOf g + 1 ∧
         (∀ d ∈ s.barrierCircs g w, tokenFlit g (h.step / s.strideOf g) ∈ (t.circ d).wire) ∧
         (∀ d, d ∉ s.barrierCircs g w → t.circ d = s.circ d) ∧
         (∀ i ∈ s.groupLinks g w, ((s.worker w).link i).up = true →
           ∃ f ∈ ((t.worker w).link i).wire, { f with cred := 0 } = tokenFlit g (h.step / s.strideOf g)) ∧
         t = { s with groups := t.groups, circs := t.circs, workers := t.workers }) ∧
     (p ∈ s.participants g → p ≠ w →
       (∀ rest, (s.circ c).wire = tokenFlit g b :: rest → (s.endOf (s.circ c).src).1 = p → (s.endOf (s.circ c).dst).1 = w →
         Completes (.tokenArrival g w p b a (some c)) s fun t =>
           (t.group g).tokens = (s.group g).tokens ++ [(w, p, b, a * 64 - ((s.circ c).flight : Int) + 64 * 64)] ∧
           (t.circ c).wire = rest ∧ (∀ d, d ≠ c → t.circ d = s.circ d) ∧ t = { s with groups := t.groups, circs := t.circs }) ∧
       (∀ rest n, ((s.worker p).link j).wire = { tokenFlit g b with cred := n } :: rest → sledOf p = sledOf w →
         Completes (.tokenArrival g w p b a none) s fun t =>
           (t.group g).tokens = (s.group g).tokens ++ [(w, p, b, 0)] ∧ ((t.worker p).link j).wire = rest ∧
           t = { s with groups := t.groups, workers := t.workers }))) ∧
  (∀ (s : State) (g w b : Nat), s.barrierComes g w b → s.tokensIn g w b → Completes (.barrierComplete g w) s fun t =>
     (t.group g).done.get 0 w = b + 1 ∧ (t.worker w).barrier = b % 2 ^ 24 ∧ (t.worker w).wrlFail = (s.worker w).wrlFail ∧
     t = { s with groups := t.groups, workers := t.workers, hubs := t.hubs }) ∧
  (∀ (s : State) (g w b : Nat), s.dueBarrier g w = some b → s.workerUp w = true → w ∈ s.participants g →
     s.barrierDue g (sledOf w) b = true → ¬s.tokensIn g w b → Completes (.barrierComplete g w) s fun t =>
       (t.worker w).wrlFail = true ∧ (t.group g).emitted.get 0 w = b ∧ t.groupSteps g (sledOf w) = none ∧
       g ∉ (t.hub (sledOf w)).stepGroups ∧ (t.group g).done.get 0 w = (s.group g).done.get 0 w)

/-- R33, R59, R305, Table 13.3: a manager boundary starts a frame: outside Bring-up the manager's frame counts on, the whole intake is taken,
and Scarab's input image shows the frame, the state and the machine's tick as they now stand. -/
def Obligations.ManagerFramesStart : Prop :=
  ∀ s : State, s.mgr.mode ≠ .off → Completes .managerBoundary s fun t =>
    (s.mgr.mode ≠ .bringUp → t.mgr.frame = s.mgr.frame + 1) ∧ t.host.intake = [] ∧ t.pending = s.pending ∧
    t.scb.input.get 0 0 = t.mgr.frame % 2 ^ 32 ∧ t.scb.input.get 0 2 = t.stateReg ∧ t.scb.input.get 0 3 = t.tickStat 8

/-- R60, R63, R64, Tables 3.3 and 3.5: 42 V at the bus takes a machine that is Off into Bring-up; a stage that is due ends and is noted, stage
A fixing the capability registers; 45 s in which a stage has not ended ask for Limp with cause 7h; a configuration request is answered with
retry in Bring-up and normally afterwards. R336: NOP completes with STATUS 00h at its decision and changes nothing else. Table 3.3, R60:
ENTER_SERVICE in Quiescent and LEAVE_SERVICE in Service are noted for the next manager boundary, LEAVE_SERVICE with the parking of a fitted
plane. -/
def Obligations.BringUpAndServiceRun : Prop :=
  (∀ (s : State) (v k : Nat) (x : Stage) (rep : StageReport),
     (s.mgr.mode = .off → 4200 ≤ v → Completes (.busPowerUp v) s fun t =>
       t.mgr.mode = .bringUp ∧ (∀ j, j < s.fit.sleds → (t.hub j).bus = v) ∧ t = { s with mgr := t.mgr, hubs := t.hubs }) ∧
     (s.mgr.mode = .bringUp → s.stageReady x = true → Completes (.bringUpStageEnd x rep) s fun t =>
       t.mgr.mode = .bringUp ∧ t.mgr.stagesDone = s.mgr.stagesDone ++ [x] ∧ (x = .a → t.mgr.capFixed = true) ∧ t.mem = s.mem) ∧
     (s.mgr.mode = .bringUp → (∃ y ∈ s.fit.stages, y ∉ s.mgr.stagesDone) → Completes .bringUpTimeout s fun t =>
       t = { s with mgr := { s.mgr with limpReq := some (s.mgr.limpReq.getD 7) } }) ∧
     (k < s.fit.sleds → s.mgr.mode ≠ .off → Completes (.pcieConfigRequest k) s fun t =>
       t = s.emit (.pcie k (if s.mgr.mode = .bringUp then 1 else 0)))) ∧
  (∀ (s : State) (c : Cmd), IsCmd c 0 → s.mgr.mode ≠ .off → s.mgr.mode ≠ .bringUp → Completes (.nop c) s fun t => t = s.final c 0) ∧
  (∀ (s : State) (c : Cmd), s.mgr.serviceCmd = none →
     (IsCmd c 0x17 → s.mgr.mode = .quiescent → Completes (.enterService c) s fun t =>
       t = { s with mgr := { s.mgr with serviceCmd := some c } }) ∧
     (IsCmd c 0x18 → s.mgr.mode = .service → Completes (.leaveService c) s fun t =>
       t = { s with mgr := { s.mgr with serviceCmd := some c, parkDue := s.fit.lacewing } }))

/-- R69: DOZE in Quiescent or Loaded with no job running, queued or waiting for an activation, no activation and no field verify is agreed:
frame N is the present one, DOZE_AT goes to every hub, and the interim completion is sent; a hub that receives it notes N. R70, R71, R73:
WAKE in Doze, or in Quiescent or Loaded once a doze is agreed, is noted as a wake request; a hub that receives CANCEL discards DOZE_AT; at
frame N + 4 with no wake request the machine drops into Doze: DROP goes to every hub and DOZE completes. R71, R72: a sled that receives
DROP switches PD1 to PD6 and PD9 to PD11 off and starts no frame, and the live circuits that its workers send on are suspended. R73,
Table 3.10: the wake sequence starts at the later of the boundary after the wake request and that of frame N + 6, passes the rows of Table
3.10 in order (PD1; self-refresh left; the links; the clusters; the optical ports; ranging; the self-test; the step counts aligned), each of
the domains as it was at the drop, and 2,048 frames after its start the machine is back in PREV, the circuits that are still suspended are
DOWN, and the WAKE commands complete. -/
def Obligations.DozeRuns : Prop :=
  (∀ (s : State) (c : Cmd) (k n : Nat) (pre rest : List Msg),
     (IsCmd c 0x10 → s.mgr.mode = .quiescent ∨ s.mgr.mode = .loaded →
       (∀ g, g < 32 → (s.group g).running = none ∧ (s.group g).queue = []) → s.img.waitJobs = [] → s.img.act = none →
       s.verifying = false → s.mgr.doze = none → Completes (.doze c) s fun t =>
         t.mgr.doze = some { n := s.mgr.frame, cmd := c } ∧ Reached t (.dozeAt s.mgr.frame) ∧ t.mgr.mode = s.mgr.mode ∧
         t.light = { s.light with agreed := s.light.level } ∧
         t = { s.interim c with mgr := t.mgr, hubs := t.hubs, light := t.light }) ∧
     (FirstMsg s k Msg.isDozeAt pre (.dozeAt n) rest → Completes (.dozeAt k) s fun t =>
       OnlyHub k s t ∧ t.hub k = { s.hub k with inbox := pre ++ rest, dozeAt := some n })) ∧
  (∀ (s : State) (c : Cmd) (k : Nat) (d : DozeAgreed) (pre rest : List Msg),
     (IsCmd c 0x11 → s.mgr.mode = .doze ∨ (s.mgr.doze.isSome = true ∧ (s.mgr.mode = .quiescent ∨ s.mgr.mode = .loaded)) →
       Completes (.wake c) s fun t =>
         (∃ w, t.mgr.wake = some w ∧ c ∈ w.cmds ∧ (∀ v, s.mgr.wake = some v → w = { v with cmds := v.cmds ++ [c] }) ∧
           (s.mgr.wake = none → w.frame = s.mgr.frame)) ∧
         t = { s.interim c with mgr := { (s.interim c).mgr with wake := t.mgr.wake } }) ∧
     (FirstMsg s k (fun m => m == .cancel) pre .cancel rest → Completes (.cancel k) s fun t =>
       OnlyHub k s t ∧ t.hub k = { s.hub k with inbox := pre ++ rest, dozeAt := none }) ∧
     (s.mgr.doze = some d → s.mgr.mode = .quiescent ∨ s.mgr.mode = .loaded → d.n + 4 ≤ s.mgr.frame → s.mgr.wake = none →
       Completes .dozeDrop s fun t =>
         t.mgr.mode = .doze ∧ t.mgr.prev = s.mgr.mode.code ∧ Reached t .drop ∧
         (∀ l q e m, d.cmd.src = .host l q e m → ∃ y ∈ (t.hub l).cpls, y.cmd = d.cmd ∧ y.interim = false ∧ y.status = 0) ∧
         t.workers = s.workers ∧ t.mem = s.mem ∧ t.circs = s.circs) ∧
     (FirstMsg s k (fun m => m == .drop) pre .drop rest → Completes (.drop k) s fun t =>
       (t.hub k).dropped = true ∧ (t.hub k).started = false ∧ (t.hub k).inbox = pre ++ rest ∧
       (∀ w ∈ s.fit.sledWorkers k, (t.worker w).pwr = (s.worker w).pwr &&& 0x181 ∧ (t.worker w).dropPwr = (s.worker w).pwr) ∧
       (∀ w, w ∉ s.fit.sledWorkers k → t.worker w = s.worker w) ∧
       (∀ x, (s.circ x).live = true → sledOf (s.endOf (s.circ x).src).1 = k → (t.circ x).state = 7) ∧
       t = { s with hubs := t.hubs, workers := t.workers, circs := t.circs, mgr := { s.mgr with fresh := t.mgr.fresh } })) ∧
  (∀ (s : State) (w : WakeReq) (d : DozeAgreed) (b row f : Nat) (bad : List (Nat × Nat)), s.mgr.mode = .doze →
     (s.mgr.wake = some w → s.mgr.doze = some d → s.mgr.wakeStart = none → w.frame < s.mgr.frame → d.n + 6 ≤ s.mgr.frame →
       Completes .wakeSequenceStart s fun t => t = { s with mgr := { s.mgr with wakeStart := some s.mgr.frame, wakeRow := 0 } }) ∧
     (s.mgr.wakeStart = some b → s.mgr.wakeRow = row → wakeRows[row]? = some f → b + f ≤ s.mgr.frame →
       Completes (.wakeSequenceStage row bad) s fun t =>
         t.mgr.wakeRow = row + 1 ∧ t.mgr.mode = .doze ∧ t.mem = s.mem ∧
         (∀ x ∈ s.liveWorkers, ∀ n, (row = 0 ∧ n = 1) ∨ ((row = 2 ∧ n = 11) ∨ (row = 3 ∧ 2 ≤ n ∧ n ≤ 6) ∨ (row = 4 ∧ (n = 9 ∨ n = 10))) ∧
             (s.worker x).dropPwr.testBit n = true → (t.worker x).powered n = true) ∧
         (row = 1 → ∀ i, i < s.fit.sleds → (t.hub i).selfRefresh = false) ∧
         (row = 5 → ∀ x, (s.circ x).state = 7 → (t.circ x).setupAt = s.mgr.frame - 12 ∧ (t.circ x).due = b + 2031) ∧
         (row = 6 → ∀ x n, bad = [(x, n)] → s.workerUp x = true → n < 50 → (s.core x n).retired = false →
           (s.worker x).powered (clusterOf n) = true → (t.core x n).retired = true ∧ (t.core x n).cause = 3) ∧
         (row = 7 → ∀ i j, i < s.fit.sleds → j < s.fit.sleds → (t.hub i).step = (t.hub j).step)) ∧
     (s.mgr.wakeStart = some b → s.mgr.wakeRow = 8 → b + 2048 ≤ s.mgr.frame → Completes .wakeSequenceEnd s fun t =>
       t.mgr.mode = MState.ofCode s.mgr.prev ∧ t.mgr.doze = none ∧ t.mgr.wake = none ∧ t.mgr.wakeStart = none ∧
       (∀ k, k < s.fit.sleds → (t.hub k).dropped = false) ∧ (∀ x, (s.circ x).state = 7 → (t.circ x).state = 5) ∧
       (∀ v, s.mgr.wake = some v → ∀ c ∈ v.cmds, ∀ l q e m, c.src = .host l q e m →
         ∃ y ∈ (t.hub l).cpls, y.cmd = c ∧ y.interim = false ∧ y.status = 0) ∧ t.mem = s.mem))

/-- R75, R76: 100 samples below 40 V in a row raise a hub's sag request, which counts in SAGS, and 4,096 samples (64 frames) of 42 V or
more end it, the samples of the command counted on from those before it; HOLD asks for a Hold with cause 3h; a hold request that stands is
broadcast to every hub, and a hub that receives it enters Hold at its next boundary. R76: at a sled's first boundary after its own request
or the broadcast no frame starts, the step count is kept, memory is in self-refresh, and EV_HOLD_ENTERED is raised. R80: after RESUME the
sled has 32 boundaries and its start delay to pass, and once they are over it is free to start frames. -/
def Obligations.HoldsAreEntered : Prop :=
  (∀ (s : State) (c : Cmd) (k cause : Nat) (bus : List Nat) (pre rest : List Msg),
     let h := (s.hub k).samples bus
     (IsCmd c 0x12 → s.mgr.mode = .quiescent ∨ s.mgr.mode = .loaded ∨ s.mgr.mode = .running ∨ s.mgr.mode = .passage →
       Completes (.hold c) s fun t =>
         t = { s with mgr := { s.mgr with holdReq := some (s.mgr.holdReq.getD 3), holdCmds := s.mgr.holdCmds ++ [c] } }) ∧
     (IsCmd c 0x12 → s.mgr.mode = .hold → Completes (.hold c) s fun t => t = s.final c 0) ∧
     (k < s.fit.sleds → s.mgr.mode ≠ .off → (s.hub k).holdReqOn = false →
       (100 ≤ h.lowRun → Completes (.sagRequest k bus) s fun t =>
         t.hub k = { h with holdReqOn := true, sags := min 255 ((s.hub k).sags + 1) } ∧ OnlyHub k s { t with scb := s.scb } ∧
         t = { s with hubs := t.hubs, scb := t.scb }) ∧
       (100 ≤ bus.length → (∀ v ∈ bus, v < 4000) → 100 ≤ h.lowRun) ∧
       (h.lowRun < 100 → Completes (.sagRequest k bus) s fun t => t.hub k = h ∧ OnlyHub k s t)) ∧
     (k < s.fit.sleds → s.mgr.mode ≠ .off → (s.hub k).holdReqOn = true →
       (4096 ≤ h.highRun → Completes (.sagRequestEnd k bus) s fun t =>
         t.hub k = { h with holdReqOn := false, lowRun := 0 } ∧ OnlyHub k s t) ∧
       (4096 ≤ bus.length → (∀ v ∈ bus, 4200 ≤ v) → 4096 ≤ h.highRun) ∧
       (h.highRun < 4096 → Completes (.sagRequestEnd k bus) s fun t => t.hub k = h ∧ OnlyHub k s t)) ∧
     (s.holdCause cause = true → s.mgr.mode.holdable = true → s.mgr.holdSent = false → Completes (.holdRequest cause) s fun t =>
       t.mgr = { s.mgr with holdReq := some (s.mgr.holdReq.getD cause), holdSent := true } ∧ Reached t .hold ∧
       t = { s with mgr := t.mgr, hubs := t.hubs }) ∧
     (FirstMsg s k (fun m => m == .hold) pre .hold rest → Completes (.holdBroadcast k) s fun t =>
       OnlyHub k s t ∧ t.hub k = { s.hub k with inbox := pre ++ rest, holdPend := !(s.hub k).held })) ∧
  (∀ (s : State) (k d : Nat) (pre rest : List Msg),
     (k < s.fit.sleds → (s.hub k).held = false → (s.hub k).holdPend = true ∨ (s.hub k).holdReqOn = true ∨ (s.hub k).lossHold = true →
       s.mgr.mode.holdable = true ∨ s.mgr.mode = .hold → Completes (.sledHoldEntry k) s fun t =>
         (t.hub k).held = true ∧ (t.hub k).started = false ∧ (t.hub k).stepAtHold = (s.hub k).step ∧ (t.hub k).step = (s.hub k).step ∧
         (t.hub k).frame = (s.hub k).frame ∧ (t.hub k).selfRefresh = true ∧
         (∀ i, i < s.fit.sleds → ∃ v ∈ (t.hub i).evq, v.code = 0x0A) ∧ t.mem = s.mem ∧ t.circs = s.circs) ∧
     (FirstMsg s k Msg.isResume pre (.resume d) rest → Completes (.resumeMessage k) s fun t =>
       OnlyHub k s t ∧ t.hub k =
         { s.hub k with inbox := pre ++ rest, delay := d, resumeLeft := if (s.hub k).held then some (32 + d) else none }) ∧
     ((s.hub k).held = true → (s.hub k).resumeLeft = some 0 → Completes (.sledResumeStart k) s fun t =>
       OnlyHub k s t ∧ t.hub k = { s.hub k with held := false, selfRefresh := (s.hub k).dropped, resumeLeft := none }))

/-- R78, R79: a bus-sag Hold ends when every hub has read 42 V or more for 64 frames by the deadline, a tick-loss Hold when every counted
receiver is locked again with 64 accepted edges in a row, a commanded one on RESUME, each unless a power-down has begun. R77, R80: the
machine returns to PREV (to Loaded from a passage), and RESUME goes to every hub with a start delay of its step at the Hold less the
lowest. R78: a bus that has not recovered at the deadline starts the orderly power-down. R79, R81, Table 3.13: POWER_DOWN completes and the
ladder starts at the next boundary; its rows pass in order at their frames: lasers off and sag requests over; plane parked; core domains
off; memory off with the contents of both tiers lost; and at frame 192 the machine is Off. -/
def Obligations.HoldEnds : Prop :=
  (∀ (s : State) (c : Cmd) (f : Nat), s.mgr.powerDown = none →
     (s.mgr.mode = .hold → s.mgr.cause = 1 → s.mgr.sagDeadline = some f → s.mgr.frame ≤ f + 3125 →
       (∀ k, k < s.fit.sleds → 4096 ≤ (s.hub k).highRun) → Completes .busRecovered s (Resumed s)) ∧
     (s.mgr.mode = .hold → s.mgr.cause = 2 → (∀ d u, u ∈ s.countedRx d → (s.rx u).locked = true ∧ 64 ≤ (s.rx u).run) →
       Completes .tickLossResume s (Resumed s)) ∧
     (IsCmd c 0x13 → s.mgr.mode = .hold → s.mgr.cause = 3 → Completes (.resume c) s (Resumed s)) ∧
     (s.mgr.mode = .hold ∨ s.mgr.mode = .limp → s.mgr.sagDeadline = some f → f + 3125 ≤ s.mgr.frame → Completes .holdDeadline s fun t =>
       t = { s with mgr := { s.mgr with powerDown := some { start := s.mgr.frame, done := 0 } } })) ∧
  (∀ (s : State) (c : Cmd) (p : PowerDown) (row f : Nat),
     (IsCmd c 0x14 → s.mgr.mode = .quiescent ∨ s.mgr.mode = .hold → Completes (.powerDown c) s fun t =>
       t = ({ s with mgr :=
         { s.mgr with powerDown := some (s.mgr.powerDown.getD { start := s.mgr.frame + 1, done := 0 }) } } : State).final c 0) ∧
     (s.mgr.powerDown = some p → p.done = row → powerDownRows[row]? = some f → p.start + f ≤ s.mgr.frame →
       Completes (.orderlyPowerDownStage row) s fun t =>
         (row < 4 → t.mgr = { s.mgr with powerDown := some { p with done := row + 1 } }) ∧ (row ≠ 3 → t.mem = s.mem) ∧
         (row = 0 → (∀ m ∈ t.modules.cells, m.2.off = true) ∧ ∀ k, k < s.fit.sleds → (t.hub k).holdReqOn = false) ∧
         (row = 1 → ∀ x, (t.tile x).elems = Tab.empty ∧ (t.tile x).evacuated = false) ∧
         (row = 2 → ∀ w, (t.worker w).pwr = (s.worker w).pwr &&& 0x181) ∧
         (row = 3 → (∀ w, (t.worker w).pwr = (s.worker w).pwr &&& 1) ∧
           ∀ x ∈ t.mem, addrSpace x.1 < 2 → addrWorker x.1 ∉ s.answering) ∧
         (row = 4 → t.mgr.mode = .off ∧ ∀ w, (t.worker w).pwr = 0)))

/-- R321, R364: a lockstep mismatch stops the controller, discards what its scan had queued and asks for Limp with cause 5h; a reading above
its threshold asks for Limp with cause 6h and persists until it is cleared. R321, R365: at Limp entry STATE and CAUSE change, the
controller stops, LIMP goes to every hub and every running group stops with reason 7, while owner keys and tier contents are kept; a hub
that receives LIMP starts no further frame. -/
def Obligations.LimpIsEntered : Prop :=
  (∀ (s : State) (k : ThermalKind) (part : Nat) (z : Int), s.mgr.mode ≠ .off →
     (s.mgr.mode ≠ .limp → Completes .lockstepMismatch s fun t =>
       t.mgr = { s.mgr with limpReq := some (s.mgr.limpReq.getD 5) } ∧
       t = { s with mgr := t.mgr, scb := { s.scb with halted := true, run := false, outq := [], cmdq := [], outs := 0, cmds := 0 } }) ∧
     (thermalLimit k < z → Completes (.thermalFault k part z) s fun t =>
       thermalCode k ∈ t.mgr.thermal ∧ (s.mgr.mode ≠ .limp → t.mgr.limpReq = some (s.mgr.limpReq.getD 6)) ∧
       (s.mgr.mode = .limp → t.mgr.limpReq = s.mgr.limpReq) ∧ t = { s with mgr := t.mgr }) ∧
     (Completes (.thermalFaultClear k) s fun t =>
       (∀ x, x ∈ t.mgr.thermal ↔ x ∈ s.mgr.thermal ∧ x ≠ thermalCode k) ∧ t = { s with mgr := { s.mgr with thermal := t.mgr.thermal } })) ∧
  (∀ (s : State) (cause k : Nat) (pre rest : List Msg),
     (s.mgr.limpReq = some cause → s.mgr.mode ≠ .off → s.mgr.mode ≠ .limp → Completes .limpEntry s fun t =>
       t.mgr.mode = .limp ∧ t.mgr.cause = cause ∧ t.mgr.prev = s.mgr.mode.code ∧ t.mgr.limpReq = none ∧ t.scb.halted = true ∧
       t.scb.run = false ∧ Reached t .limp ∧ (∀ g, g < 32 → s.groupRuns g = true → (t.group g).stopped = true ∧
         ((s.group g).stopped = false → (s.group g).sledsStopped = [] → (t.group g).reason = 7)) ∧ t.owners = s.owners ∧
       t.mem = s.mem ∧ t.keyTag = s.keyTag ∧ ∀ i, i < s.fit.sleds → ∃ v ∈ (t.hub i).evq, v.code = 0x0B) ∧
     (FirstMsg s k (fun m => m == .limp) pre .limp rest → Completes (.limp k) s fun t =>
       OnlyHub k s t ∧ t.hub k =
         { s.hub k with
           inbox := pre ++ rest, halted := true, started := false, isSlip := false, selfRefresh := true, resumeLeft := none }))

/-- R323 to R326, R366, Table 13.8: RESTART_WARM is accepted in Limp with an active image and no fault that persists, RESTART_COLD in Limp; at
frame 80 a warm restart ends in Running where a group waits for its rollback, else in Loaded, a cold one in Quiescent, with every sled
starting frames again; a failed self-test ends the ladder with UNHEALTHY. -/
def Obligations.RestartsRun : Prop :=
  ∀ (s : State) (c : Cmd) (r : Restart) (ok : Bool),
    (IsCmd c 0x15 → s.mgr.mode = .limp → s.mgr.restart = none → s.img.active.isSome = true → s.mgr.thermal = [] →
      Completes (.restartWarm c) s fun t =>
        t.mgr = { s.mgr with restart := some { cold := false, start := s.mgr.frame, stage := 0, cmd := c } } ∧
        t = { s.interim c with mgr := t.mgr, scb := t.scb }) ∧
    (IsCmd c 0x16 → s.mgr.mode = .limp → s.mgr.restart = none → Completes (.restartCold c) s fun t =>
      t.mgr.restart = some { cold := true, start := s.mgr.frame, stage := 0, cmd := c } ∧ t.mgr.mode = .limp ∧
      (∀ o, o ∈ t.owners.live → o = 0) ∧ t.plane.autos = [] ∧ t.plane.req = none ∧ t.plane.plan = none) ∧
    (s.mgr.restart = some r → r.stage = 0 → r.start + 16 ≤ s.mgr.frame → Completes (.restartLadderStage false) s fun t =>
      t = { s with mgr := { s.mgr with restart := none } }.final r.cmd 0x14) ∧
    (s.mgr.restart = some r → r.stage = 0 → r.start + 16 ≤ s.mgr.frame → Completes (.restartLadderStage true) s fun t =>
      t.mgr.restart = some { r with stage := 1 } ∧ t.scb.halted = false ∧ t.scb.run = true ∧
      (r.cold = true → t.img.active = none ∧ t.img.staged = none ∧ (∀ g, t.group g = Group.init) ∧ t.scb.bank0 = nullProgram ∧
        t.scb.bank1 = nullProgram)) ∧
    (s.mgr.restart = some r → r.stage = 1 → r.start + 80 ≤ s.mgr.frame → Completes (.restartLadderStage ok) s fun t =>
      t.mgr.restart = none ∧
      t.mgr.mode = (if r.cold then .quiescent else if s.runningGroups.isEmpty then .loaded else .running) ∧
      ∀ k, k < s.fit.sleds → (t.hub k).halted = false ∧ (t.hub k).held = false ∧ (t.hub k).dropped = false)

/-- R324: a restart of either kind starts with the self-test of manager frames 0 to 15 after acceptance; where it fails the restart ends, the
machine stays in Limp, and the completion carries UNHEALTHY. -/
def Obligations.RestartsStartWithASelfTest : Prop :=
  ∀ (s : State) (r : Restart) (ok : Bool), s.mgr.mode = .limp → s.mgr.restart = some r → r.stage = 0 →
    (s.mgr.frame < r.start + 16 → Completes (.restartLadderStage ok) s fun t => t = s) ∧
    (r.start + 16 ≤ s.mgr.frame → Completes (.restartLadderStage false) s fun t =>
      t.mgr.restart = none ∧ t.mgr.mode = .limp ∧ t = ({ s with mgr := { s.mgr with restart := none } } : State).final r.cmd 0x14)

/-- R55, R57, R58, R65, Table 3.6: the latched request of a worker's PDCTL, accepted in an earlier frame, is applied at a boundary at which
a frame starts on its sled, with every other latched RWB field of the sled: what it asks for of PD2 to PD6 and PD9 to PD11, without FORCE, of
the domains that the variant has is switched on; PD9 and PD10, and a cluster that no bound core uses, are switched off where it does not
ask for them; PD0 stays on, ON reads back what is powered, and nothing stays latched. R67: in Hold, where no frame starts, a request with
FORCE is applied all the same. R55, R266: the manager frame's domain applies the latched coefficients, accepted in an earlier frame, of every
tile's and module's cells that are neither CLOSED nor PRIME nor in a TUNE that began after them. -/
def Obligations.DomainsAreApplied : Prop :=
  (∀ (s : State) (w on n : Nat) (force : Bool), s.workerUp w = true → (s.worker w).latched = some (on, force) →
     ((s.hub (sledOf w)).started = true → (s.worker w).latchAt.frame < (s.hub (sledOf w)).frame →
       ∀ i, i = Instr.powerDomainApply w ∨ i = .rwbApply (.sled (sledOf w)) → Completes i s fun t =>
         (t.worker w).latched = none ∧ (t.worker w).on = (t.worker w).pwr ||| 1 ∧
         (force = false → (2 ≤ n ∧ n ≤ 6) ∨ (9 ≤ n ∧ n ≤ 11) → s.fit.domainMask.testBit n = true → on.testBit n = true →
           (t.worker w).powered n = true) ∧
         (n = 9 ∨ n = 10 ∨ (2 ≤ n ∧ n ≤ 6 ∧ s.clusterUsed w n = false) → s.fit.domainMask.testBit n = true → force = false →
           on.testBit n = false → (t.worker w).powered n = false) ∧
         ((s.worker w).powered 0 = true → (t.worker w).powered 0 = true)) ∧
     ((s.hub (sledOf w)).started = false → s.mgr.mode = .hold → force = true → Completes (.powerDomainApply w) s fun t =>
       (t.worker w).latched = none ∧ (t.worker w).on = (t.worker w).pwr ||| 1 ∧
       ((2 ≤ n ∧ n ≤ 6) ∨ (9 ≤ n ∧ n ≤ 11) → s.fit.domainMask.testBit n = true → (t.worker w).powered n = on.testBit n))) ∧
  (∀ s : State, s.mgr.mode ≠ .off → s.mgr.mode ≠ .bringUp → Completes (.rwbApply .manager) s fun t =>
     (∀ m h, let c := (s.tile m).cells.get Cell.init h
       (∀ r, c.latched = some r → c.mode ≠ 2 → c.mode ≠ 3 → c.latchAt.frame < s.mgr.frame →
         (∀ z, c.tune = some z → z.since ≤ c.latchAt.frame) →
         (t.tile m).cells.get Cell.init h = { c with rc := r, latched := none }) ∧
       (c.latched = none ∨ c.mode = 2 ∨ c.mode = 3 ∨ s.mgr.frame ≤ c.latchAt.frame → (t.tile m).cells.get Cell.init h = c)) ∧
     (∀ m h, let c := (s.module m).cells.get Cell.init h
       (∀ r, c.latched = some r → c.mode ≠ 2 → c.mode ≠ 3 → c.latchAt.frame < s.mgr.frame →
         (∀ z, c.tune = some z → z.since ≤ c.latchAt.frame) →
         (t.module m).cells.get Cell.init h = { c with rc := r, latched := none }) ∧
       (c.latched = none ∨ c.mode = 2 ∨ c.mode = 3 ∨ s.mgr.frame ≤ c.latchAt.frame → (t.module m).cells.get Cell.init h = c)) ∧
     t = { s with tiles := t.tiles, modules := t.modules })

/-- R95 to R98, R106: IMAGE_LOAD with nothing staged, loading or being activated begins a load; an image that validation rejects ends it with
the code, section and offset found, an accepted one is placed on sleds that are neither in Hold nor dropped (R74), staged in the banks that
are not active, and completes it; and IMAGE_DISCARD of the staged image, where no activation of it is pending, empties the staged slot. In
which states IMAGE_DISCARD is accepted, and that a deactivation keeps no load out, is the model's choice (log entries 102, 103). -/
def Obligations.ImagesAreLoaded : Prop :=
  ∀ (s : State) (c : Cmd) (bytes : List Byte) (l : ImgLoad) (i : Image) (r : Nat × Nat × Nat),
    let open_ : Prop := s.mgr.mode = .quiescent ∨ s.mgr.mode = .loaded ∨ s.mgr.mode = .running ∨ s.mgr.mode = .passage
    (IsCmd c 0x20 → open_ → s.img.staged = none → s.img.load = none → (∀ a, s.img.act = some a → a.deact = true) →
      Completes (.imageLoad c) s fun t =>
      t = { s.interim c with img := { s.img with load := some { cmd := c, since := s.mgr.frame }, valid := none } }) ∧
    (s.img.load = some l → s.img.valid = none → s.validate bytes = none → Completes (.imageValidation bytes) s fun t =>
      t = { s with img := { s.img with valid := some (imageOf bytes) } }) ∧
    (s.img.load = some l → s.img.valid = none → s.validate bytes = some r → Completes (.imageValidation bytes) s fun t =>
      t = ({ s with img := { s.img with load := none, lastCode := r.1, lastOp := 1 } } : State).final l.cmd r.1 [(2, r.2.1), (4, r.2.2)]) ∧
    (s.img.load = some l → s.img.valid = some i → s.paused (i.placed.map sledOf) = false → Completes .placementEnd s fun t =>
      t.img = { s.img with staged := some i, valid := none, load := none, lastCode := 0, lastOp := 1 } ∧
      (∀ w ∈ i.placed, (t.worker w).bankIds =
        if (s.worker w).bank1 then (i.id, (s.worker w).bankIds.2) else ((s.worker w).bankIds.1, i.id)) ∧
      (∀ w, (t.worker w).bank1 = (s.worker w).bank1) ∧ t.mgr = s.mgr ∧ t.circs = s.circs ∧ t.groups = s.groups) ∧
    (IsCmd c 0x22 → open_ → (∀ a, s.img.act = some a → a.deact = true ∨ a.cmd.id ≠ c.id) → s.img.staged = some i → i.id = c.id → Completes (.imageDiscard c) s fun t =>
      t = ({ s with img := { s.img with staged := none }, scb := { s.scb with staged := false } } : State).final c 0)

/-- R99, R101, R106: IMAGE_ACTIVATE of the staged image, and IMAGE_DEACTIVATE, begin a drain; where it is not complete D frames after
acceptance it is abandoned with 13h, the image staged still, or with FORCE the running jobs are aborted. -/
def Obligations.ActivationsDrain : Prop :=
  ∀ (s : State) (c : Cmd) (i : Image) (a : Activation), 1 ≤ c.limit →
    (IsCmd c 0x21 → s.mgr.mode = .quiescent ∨ s.mgr.mode = .loaded ∨ s.mgr.mode = .running → s.img.act = none → s.img.staged = some i →
      i.id = c.id → Completes (.imageActivate c) s fun t =>
        ∃ z, t.img = { s.img with act := some z } ∧ z.cmd = c ∧ z.deact = false ∧ z.accepted = s.mgr.frame ∧ z.boundary = none ∧
          t = { s.interim c with img := t.img, plane := t.plane }) ∧
    (IsCmd c 0x23 → s.mgr.mode = .loaded ∨ s.mgr.mode = .running → s.img.act = none → Completes (.imageDeactivate c) s fun t =>
      ∃ z, t.img = { s.img with act := some z } ∧ z.cmd = c ∧ z.deact = true ∧ z.accepted = s.mgr.frame ∧ z.boundary = none ∧
        t = { s.interim c with img := t.img }) ∧
    (s.img.act = some a → s.draining = true → a.boundary = none → a.accepted + a.cmd.limit ≤ s.mgr.frame → s.drained = false →
      (a.cmd.force = false → Completes .drainTimeout s fun t =>
        t.img = (if a.deact then { s.img with act := none } else { s.img with act := none, lastCode := 0x13, lastOp := 2 }) ∧
        t.mgr = s.mgr ∧ t.groups = s.groups ∧ t.circs = s.circs ∧ t.mem = s.mem) ∧
      (a.cmd.force = true → Completes .drainTimeout s fun t =>
        t.img = s.img ∧ t.mem = s.mem ∧
        ∀ g ∈ s.runningGroups, (s.group g).abortReason = 0 → (t.group g).abortReason = 1 ∧ (t.group g).stopped = true))

/-- R100 to R105: at the first boundary at which all is complete a full image becomes active with ACTIVATE_AT to every hub, in Passage where
the wiring differs, else Loaded; a wiring-only image gives its wiring to the active one; a Scarab-only image swaps the program banks and
changes no state; an image that R101 refuses stays staged. R45, R100, R102, R103: a hub that applies ACTIVATE_AT starts at step 0 with its
workers on the new bank and their barriers counted anew; a passage ends, and the machine is Loaded, when every circuit is usable, or at
its 400th frame, when the others are DOWN. -/
def Obligations.ImagesAreActivated : Prop :=
  (∀ (s : State) (a : Activation) (i base : Image) (code : Nat),
     s.img.act = some a → s.img.staged = some i → a.deact = false → a.boundary = none → a.accepted < s.mgr.frame → a.replanTo = none →
     s.drained = true → s.mgr.doze = none → s.mgr.mode = .quiescent ∨ s.mgr.mode = .loaded ∨ s.mgr.mode = .running →
     let v := a.planned.getD i
     (s.actRefusal i = none → i.kind = 0 → s.replanOpen a i = false → Completes .imageBoundary s fun t =>
       t.img.active = some v ∧ t.img.staged = none ∧ t.mgr.mode = (if s.wiringDiffers v then .passage else .loaded) ∧
       Reached t (.activateAt v.id)) ∧
     (s.actRefusal i = none → i.kind = 1 → s.replanOpen a i = false → s.img.active = some base → Completes .imageBoundary s fun t =>
       t.img.active = some { base with circs := v.circs, tiles := v.tiles, hasCircs := true } ∧ t.img.staged = none ∧
       t.img.wirePart = true ∧ t.mgr.mode = (if s.wiringDiffers v then .passage else .loaded)) ∧
     (s.actRefusal i = none → i.kind = 2 → Completes .imageBoundary s fun t =>
       t.scb.bank = !s.scb.bank ∧ t.scb.swaps = min 255 (s.scb.swaps + 1) ∧ t.img.active = s.img.active ∧ t.img.staged = none ∧
       t.mgr = s.mgr ∧ t.groups = s.groups ∧ t.circs = s.circs) ∧
     (s.actRefusal i = some code → i.kind ≤ 2 → Completes .imageBoundary s fun t =>
       t.img.staged = some i ∧ t.img.act = none ∧ t.img.lastCode = code ∧ t.img.active = s.img.active ∧ t.mgr = s.mgr)) ∧
  (∀ (s : State) (k n b : Nat) (i : Image) (a : Activation) (pre rest : List Msg), s.img.active = some i →
     (FirstMsg s k Msg.isActivate pre (.activateAt n) rest → Completes (.activateAt k) s fun t =>
       (t.hub k).step = 0 ∧ (t.hub k).applied = true ∧ (t.hub k).inbox = pre ++ rest ∧
       (∀ j, j ≠ k → (t.hub j).step = (s.hub j).step ∧ (t.hub j).applied = (s.hub j).applied ∧ (t.hub j).inbox = (s.hub j).inbox) ∧
       (∀ w ∈ i.placed, sledOf w = k → s.actorOf w = w → (∀ v ∈ i.placed, s.actorOf v = w → v = w) →
         (t.worker w).bank1 = (!(s.worker w).bank1) ∧ (t.worker w).barrier = 0xFFFFFF) ∧ t.mgr = s.mgr ∧ t.groups = s.groups) ∧
     (s.img.act = some a → a.deact = false → a.boundary = some b → s.mgr.mode = .passage →
       (∀ d ∈ i.circs, (s.circ d.cid).live = true) ∨ b + 400 ≤ s.mgr.frame → Completes .passageEnd s fun t =>
         t.mgr.mode = .loaded ∧ t.img.act = none ∧ t.img.active = some i ∧
         ∀ d ∈ i.circs, (s.circ d.cid).live = false → (t.circ d.cid).state = 5))

/-- R122, R144, Table 5.6: a vector operation writes register RD from registers RA and RB: I32 lanes wrap modulo 2^32, F32 lanes are rounded
once; comparisons give 1 or 0 of the lane type. R119, R144, R145, Table 5.6: reductions and broadcasts give every lane one value, a
permutation takes each lane from the one that b names (a NaN that they write being the canonical one, R139), and a conversion between lane
types counts what it clamps and the NaNs it meets. -/
def Obligations.VectorUnitComputes : Prop :=
  (∀ (s : State) (w n : Nat) (sl : Slot),
     let a := (s.core w n).reg sl.ra
     let b := (s.core w n).reg sl.rb
     let c := (s.core w n).reg (sl.len % 32)
     (sl.fa = 6 →
       VecWrites (.vadd w n sl) w n 0x12 sl (List.zipWith (fun x y => x + y) a b) s ∧
       VecWrites (.vsub w n sl) w n 0x13 sl (List.zipWith (fun x y => x - y) a b) s ∧
       VecWrites (.vmul w n sl) w n 0x14 sl (List.zipWith (fun x y => x * y) a b) s ∧
       VecWrites (.vfma w n sl) w n 0x15 sl (List.zipWith (fun x y => x + y) (List.zipWith (fun x y => x * y) a b) c) s ∧
       VecWrites (.vmax w n sl) w n 0x16 sl (List.zipWith (fun x y => BitVec.ofInt 32 (max x.toInt y.toInt)) a b) s ∧
       VecWrites (.vmin w n sl) w n 0x17 sl (List.zipWith (fun x y => BitVec.ofInt 32 (min x.toInt y.toInt)) a b) s ∧
       VecWrites (.vcmpgt w n sl) w n 0x18 sl (List.zipWith (fun x y => if y.toInt < x.toInt then 1 else 0) a b) s) ∧
     (sl.fa = 7 →
       VecWrites (.vadd w n sl) w n 0x12 sl (List.zipWith (fun x y => f32Of ((laneVal 7 x).add (laneVal 7 y))) a b) s ∧
       VecWrites (.vsub w n sl) w n 0x13 sl (List.zipWith (fun x y => f32Of ((laneVal 7 x).add (laneVal 7 y).neg)) a b) s ∧
       VecWrites (.vmul w n sl) w n 0x14 sl (List.zipWith (fun x y => f32Of ((laneVal 7 x).mul (laneVal 7 y))) a b) s ∧
       VecWrites (.vfma w n sl) w n 0x15 sl (List.zipWith (fun p z => f32Fma p.1 p.2 z) (List.zip a b) c) s ∧
       VecWrites (.vmax w n sl) w n 0x16 sl (List.zipWith f32Max a b) s ∧ VecWrites (.vmin w n sl) w n 0x17 sl (List.zipWith f32Min a b) s ∧
       VecWrites (.vcmpgt w n sl) w n 0x18 sl (List.zipWith (fun x y => if f32Gt x y then 0x3F800000 else 0) a b) s ∧
       VecWrites (.vexp w n sl) w n 0x1A sl (a.map f32Exp) s ∧ VecWrites (.vrcp w n sl) w n 0x1B sl (a.map f32Rcp) s ∧
       VecWrites (.vrsqrt w n sl) w n 0x1C sl (a.map f32Rsqrt) s ∧ VecWrites (.vtanh w n sl) w n 0x1D sl (a.map f32Tanh) s)) ∧
  (∀ (s : State) (w n : Nat) (sl : Slot), sl.fa = 6 ∨ sl.fa = 7 →
     let a := (s.core w n).reg sl.ra
     let b := (s.core w n).reg sl.rb
     VecWrites (.vrsum w n sl) w n 0x1E sl
       (List.replicate 64 (reduce64 (if sl.fa = 6 then fun x y => x + y else f32Add) a)) s ∧
     VecWrites (.vrmax w n sl) w n 0x1F sl
       (List.replicate 64 (reduce64 (if sl.fa = 6 then fun x y => BitVec.ofInt 32 (max x.toInt y.toInt) else f32Max) a)) s ∧
     VecWrites (.vbcast w n sl) w n 0x20 sl (List.replicate 64 (canonLane sl.fa (a.getD (sl.len % 64) 0))) s ∧
     VecWrites (.vperm w n sl) w n 0x21 sl (b.map fun x => canonLane sl.fa (a.getD (x.toNat % 64) 0)) s ∧
     (sl.fb = 6 ∨ sl.fb = 7 →
       let cs := a.map fun x => convertFmt sl.fa (laneVal sl.fb x)
       VecWrites (.vcvt w n sl) w n 0x19 sl (cs.map fun z => BitVec.ofNat 32 z.bits) s ∧
       (s.slotIssues w n 5 0x19 sl → Completes (.vcvt w n sl) s fun t =>
         (t.core w n).sats = min 65535 (((s.flush w sl.issue).core w n).sats + cs.countP fun z => z.sat) ∧
         (t.core w n).nans = min 65535 (((s.flush w sl.issue).core w n).nans + cs.countP fun z => z.nan))))

/-- R116 to R121, R135 to R141, Table 5.5: WLOAD fills the shadow weight buffer and WSWAP exchanges the two; MAC accumulates the sums of LEN
input vectors into its rows; DRAIN delivers converted rows, each 8 cycles after its turn, and compares them there: rows that match are
counted, and at the first mismatch the core is retired with cause 1 in the cycle of the comparison. -/
def Obligations.MatrixUnitMultiplies : Prop :=
  (∀ (s : State) (w n : Nat) (sl : Slot),
     let c := s.core w n
     let l := s.logicalNo w n
     let now := s.flush w sl.issue
     let vec := if sl.fb = 4 then 128 else 64
     let row0 := sl.aux % 512
     let xa := s.ownStore w l (c.operand sl.ax sl.ox) (vec * sl.len)
     let ya := s.ownStore w l (c.operand sl.ay sl.oy) (4 * sl.len)
     (sl.fa ≤ 5 → s.slotIssues w n 0 0x01 sl → Completes (.wload w n sl) s fun t =>
       (if c.useBuf1 then (t.core w n).buf0 else (t.core w n).buf1) =
         { fmt := sl.fa, bytes := now.storeAt w n (s.ownStore w l (c.operand sl.ax sl.ox) (weightLen sl.fa)) (weightLen sl.fa) } ∧
       (t.core w n).weights = c.weights ∧ (t.core w n).shadowReady = sl.issue + weightCycles sl.fa ∧ (t.core w n).acc = c.acc) ∧
     (c.shadowReady ≤ sl.issue → s.slotIssues w n 1 0x02 sl → Completes (.wswap w n sl) s fun t =>
       (t.core w n).weights = (if c.useBuf1 then c.buf0 else c.buf1) ∧ (t.core w n).buf0 = c.buf0 ∧ (t.core w n).buf1 = c.buf1 ∧
       (t.core w n).acc = c.acc ∧ (t.core w n).vreg = c.vreg) ∧
     (pairOk c.weights.fmt sl.fb = true → 1 ≤ sl.len → row0 + sl.len ≤ 512 → s.slotIssues w n 1 0x03 sl →
       Completes (.mac w n sl) s fun t =>
         (∀ i, i < sl.len → (t.core w n).row (row0 + i) = (c.row (row0 + i)).accumulate (sl.aux.testBit 9) (decide (sl.fb < 2))
           (c.issueSums (unpack (fmtWidth sl.fb) (now.storeAt w n (xa.map (· + vec * i)) vec))
             (if sl.fb = 5 then (now.storeAt w n (ya.map (· + 4 * i)) 4).map (·.toNat) else []) sl.fb)) ∧
         (∀ r, r < row0 ∨ row0 + sl.len ≤ r → (t.core w n).row r = c.row r) ∧
         (t.core w n).vreg = c.vreg ∧ (t.core w n).weights = c.weights)) ∧
  (∀ (s : State) (w n : Nat) (sl : Slot), sl.fa < 8 → sl.fa ≠ 5 → sl.fb = 6 ∨ sl.fb = 7 → 1 ≤ sl.len → sl.aux % 512 + sl.len ≤ 512 →
     s.slotIssues w n 2 0x04 sl →
     let c := s.core w n
     let len := 8 * fmtWidth sl.fa
     let out (i : Nat) := drainRow sl.fa sl.fb (c.row (sl.aux % 512 + i))
     let counted (i : Nat) (k : Nat) := if (out i).skip then k else (k + 1) % 2 ^ 32
     let skipped (i : Nat) (k : Nat) := if (out i).skip then min 65535 (k + 1) else k
     Completes (.drain w n sl []) s fun t =>
       (t.core w n).acc = c.acc ∧ (t.core w n).retired = false ∧
       (∀ y, s.ownStore w (s.logicalNo w n) (c.operand sl.ay sl.oy) (len * sl.len) = some y →
         (∀ i, i < sl.len → (out i).pend sl.issue (sl.issue + i + 8) n (y + len * i) ∈ (t.worker w).inflight) ∧
         ((s.worker w).inflight = [] → (∀ i, i < sl.len → (out i).bad = false) →
           let u := (t.flush w (sl.issue + sl.len + 7)).core w n
           u.retired = false ∧ u.checks = (List.range sl.len).foldl (fun k i => counted i k) c.checks ∧
           u.skips = (List.range sl.len).foldl (fun k i => skipped i k) c.skips) ∧
         (∀ b, (s.worker w).inflight = [] → b < sl.len → (out b).bad = true → (∀ i, i < b → (out i).bad = false) →
           let u := (t.flush w (sl.issue + sl.len + 7)).core w n
           u.retired = true ∧ u.cause = 1 ∧ u.stopped = true ∧ u.faultCycle = sl.issue + b + 8)))

/-- R142, R143, R165, R167, R181, R183, R204, Table 5.5: MRD reads lines of a tier or of the Mound into the core's store, a denied Mound line
reading zeros and counting, a line that the group may not read or that does not exist reading zeros; MWR, LSEND and OSEND take what the
store holds when they issue, and neither writes nor sends to a page that the group may not write; VLD unpacks and VST packs registers,
VST in Q4B with its exponents; a send on a link or circuit that is not live is discarded and counted. -/
def Obligations.MoversMoveData : Prop :=
  ∀ (s : State) (w n q b j : Nat) (sl : Slot), 1 ≤ sl.len →
    let c := s.core w n
    let l := s.logicalNo w n
    let g := (s.coreGroup w l).getD 32
    let src := c.operand sl.ax sl.ox
    let dst := c.operand sl.ay sl.oy
    let now := s.flush w sl.issue
    let old := (now.worker w).inflight
    let reg := 8 * fmtWidth sl.fa
    let cid := sl.aux % 4096
    let port := s.circPort w cid
    let slow := s.slowTier w src
    let lineOf (i : Nat) := match now.mrdLine w g src i with | .tier a => now.tierRead w a 64 | _ => List.replicate 64 (0 : Byte)
    let from_ (len : Nat) := s.ownStore w l src len
    (s.slotIssues w n (if slow then 4 else 3) 0x30 sl → Completes (.mrd w n sl []) s fun t =>
      (∀ y, s.ownStore w l dst (64 * sl.len) = some y → (t.worker w).inflight = insertPend
        { issued := sl.issue, core := n, kind := 0, unit := 0, id := 0, addr := y, bytes := (List.range sl.len).flatMap lineOf
          ready := sl.issue + if slow then 1536 + 4 * (sl.len - 1) else 448 + ceilDiv sl.len 4 - 1 } old) ∧
      (s.ownStore w l dst (64 * sl.len) = none → (t.worker w).inflight = old) ∧
      (t.worker w).denied = ((List.range sl.len).filter fun i => now.mrdLine w g src i == .denied).foldl
        (fun k _ => min 0xFFFFFFFF (k + 1)) (now.worker w).denied ∧ t.mem = now.mem) ∧
    (s.slotIssues w n (if addrSpace dst = 1 then 4 else 3) 0x31 sl → Completes (.mwr w n sl) s fun t =>
      (∀ y, (∀ i, i < sl.len → now.ownLine w dst i = some (y + 64 * i) ∧ now.mayWrite g (y + 64 * i) = true) →
        ∃ p ∈ (t.worker w).inflight, p.kind = 1 ∧ p.core = n ∧ p.addr = y ∧ p.bytes = now.storeAt w n (from_ (64 * sl.len)) (64 * sl.len)) ∧
      (∀ p ∈ (t.worker w).inflight, p ∈ old ∨ (p.kind = 1 ∧ ∃ i, i < sl.len ∧ now.ownLine w dst i = some p.addr ∧
        now.mayWrite g p.addr = true)) ∧ t.mem = now.mem) ∧
    (storePlace dst = some (q, b) → b % 64 = 0 → s.flowLink w cid = some j → s.slotIssues w n (6 + j) 0x40 sl →
      Completes (.lsend w n sl) s fun t =>
        if ((now.worker w).link j).up = true then
          ∀ i, i < sl.len → ∃ p ∈ (t.worker w).inflight, p.kind = 2 ∧ p.core = n ∧ p.unit = j ∧ p.id = cid ∧
            p.ready = sl.issue + 210 + i * 512 / 125 ∧ p.addr = (q * 2 ^ 22 + b + 256 * i) / 64 ∧
            p.bytes = now.storeAt w n ((from_ (256 * sl.len)).map (· + 256 * i)) 256
        else ((t.worker w).link j).discard = min 0xFFFFFFFF (((now.worker w).link j).discard + sl.len) ∧ (t.worker w).inflight = old) ∧
    (addrSpace dst = 0 → addrOffset dst % 64 = 0 → s.slotIssues w n (22 + port) 0x41 sl → Completes (.osend w n sl) s fun t =>
      if (now.circ cid).txLive = true ∧ ((now.worker w).port port).tx = some cid ∧ ((now.worker w).port port).loopback = false then
        (∀ i, i < sl.len → now.maySend g (s.endOf (s.circ cid).dst).1 (addrOffset dst + 256 * i) = true →
          ∃ p ∈ (t.worker w).inflight, p.kind = 3 ∧ p.core = n ∧ p.unit = port ∧ p.id = cid ∧ p.ready = sl.issue + 24 + i * 256 / 125 ∧
            p.addr = (addrOffset dst + 256 * i) / 64 ∧ p.bytes = now.storeAt w n ((from_ (256 * sl.len)).map (· + 256 * i)) 256) ∧
        (∀ p ∈ (t.worker w).inflight, p ∈ old ∨ ∃ i, i < sl.len ∧ p.addr = (addrOffset dst + 256 * i) / 64 ∧
          now.maySend g (s.endOf (s.circ cid).dst).1 (addrOffset dst + 256 * i) = true)
      else (t.circ cid).discard = min 0xFFFFFFFF ((now.circ cid).discard + sl.len) ∧ (t.worker w).inflight = old) ∧
    (sl.fa < 8 → sl.fa ≠ 5 → sl.rd + sl.len ≤ 32 → s.slotIssues w n 5 0x10 sl → Completes (.vld w n sl) s fun t =>
      (∀ i, i < sl.len → (t.core w n).reg (sl.rd + i) =
        (unpack (fmtWidth sl.fa) (now.storeAt w n ((from_ (reg * sl.len)).map (· + reg * i)) reg)).map (laneOf sl.fa)) ∧
      ∀ r, r < sl.rd ∨ sl.rd + sl.len ≤ r → (t.core w n).reg r = c.reg r) ∧
    (sl.fa < 8 → sl.fb = 7 ∨ (sl.fb = 6 ∧ sl.fa ≠ 5) → sl.ra + sl.len ≤ 32 → s.slotIssues w n 5 0x11 sl → Completes (.vst w n sl) s fun t =>
      (∀ y, s.ownStore w l dst (reg * sl.len) = some y →
        (sl.fa ≠ 5 → ∀ i, i < sl.len → ∃ p ∈ (t.worker w).inflight, p.kind = 0 ∧ p.core = n ∧ p.addr = y + reg * i ∧
          p.ready = sl.issue + 4 + sl.len ∧
          p.bytes = pack (fmtWidth sl.fa) ((c.reg (sl.ra + i)).map fun v => (convertFmt sl.fa (laneVal sl.fb v)).bits)) ∧
        (sl.fa = 5 → ∀ i, i < sl.len → ∃ p ∈ (t.worker w).inflight, p.kind = 0 ∧ p.core = n ∧ p.addr = y + 32 * i ∧
          p.ready = sl.issue + 4 + sl.len ∧
          p.bytes = pack 4 (((q4bEncode ((c.reg (sl.ra + i)).take 32)).2 ++ (q4bEncode ((c.reg (sl.ra + i)).drop 32)).2).map (·.bits)))) ∧
      (∀ x, sl.fa = 5 → from_ (2 * sl.len) = some x → ∀ i, i < sl.len → ∃ p ∈ (t.worker w).inflight, p.kind = 0 ∧ p.core = n ∧
        p.addr = x + 2 * i ∧ p.ready = sl.issue + 4 + sl.len ∧
        p.bytes = [BitVec.ofNat 8 (q4bEncode ((c.reg (sl.ra + i)).take 32)).1, BitVec.ofNat 8 (q4bEncode ((c.reg (sl.ra + i)).drop 32)).1]) ∧
      (t.core w n).vreg = c.vreg)

/-- R121, R128, R129: the report of a retired core's worker reaches the manager and stops the core's group; a logical core of no running group
whose core is retired is mapped to a free core; where none is free, to none if it is unbound, and if it is bound to the core of the highest
unbound logical core that has a healthy one, or, where there is none, the worker is declared failed; the lowest logical core that maps to
nothing takes a core that is free. R152: a fitted, powered stack or module reports its temperature, and the worker's refresh rate follows, from
its next boundary, whether any of them reads above 85 °C. R155: a page that is due is retired onto a spare page of its stack or module,
which has one fewer; with none left the worker is declared failed. -/
def Obligations.FailedCoresAndPagesAreReplaced : Prop :=
  (∀ (s : State) (w n l f : Nat), s.workerUp w = true →
     let waits : Prop := ∃ g, s.coreGroup w l = some g ∧ s.groupRuns g = true
     ((s.core w n).retired = true → Completes (.coreRetirementReport w n) s fun t =>
       (∃ r, t.mgr = { s.mgr with reports := s.mgr.reports ++ [r] } ∧ r.getD 0 0 = w ∧ r.getD 1 0 = n ∧ r.getD 3 0 = (s.core w n).cause) ∧
       (∀ m g, (s.worker w).logicalOf n = some m → s.coreGroup w m = some g → s.groupRuns g = true → (s.core w n).cause ≠ 3 →
         (t.group g).stopped = true) ∧ t.workers = s.workers) ∧
     (l < 48 → ¬waits → (s.worker w).physOf l = some n → (s.core w n).retired = true →
       ((s.worker w).freeCore = some f → Completes (.logicalCoreRemap w l) s fun t =>
         (t.worker w).physOf l = some f ∧ (∀ m, m ≠ l → (t.worker w).physOf m = (s.worker w).physOf m) ∧ t = { s with workers := t.workers }) ∧
       ((s.worker w).freeCore = none → s.bindOf w l = none → Completes (.logicalCoreRemap w l) s fun t =>
         (t.worker w).physOf l = none ∧ (∀ m, m ≠ l → (t.worker w).physOf m = (s.worker w).physOf m) ∧ t = { s with workers := t.workers }) ∧
       (∀ u, (s.worker w).freeCore = none → s.bindOf w l ≠ none → s.exchangeCore w = some u → Completes (.logicalCoreRemap w l) s fun t =>
         (t.worker w).physOf l = (s.worker w).physOf u ∧ (t.worker w).physOf u = none ∧
         (∀ m, m ≠ l → m ≠ u → (t.worker w).physOf m = (s.worker w).physOf m) ∧ t = { s with workers := t.workers }) ∧
       ((s.worker w).freeCore = none → s.bindOf w l ≠ none → s.exchangeCore w = none → Completes (.logicalCoreRemap w l) s fun t =>
         t.workerUp w = false)) ∧
     (l < 48 → ¬waits → (s.worker w).physOf l = none → (∀ m, m < l → (s.worker w).physOf m ≠ none) → (s.worker w).freeCore = some f →
       Completes (.logicalCoreRemap w l) s fun t =>
         (t.worker w).physOf l = some f ∧ (∀ m, m ≠ l → (t.worker w).physOf m = (s.worker w).physOf m) ∧
         t = { s with workers := t.workers })) ∧
  (∀ (s : State) (w u : Nat) (z : Int), s.workerUp w = true → u < 8 ∨ (u < 24 ∧ s.fit.tierB = true) →
     (s.worker w).powered (if u < 8 then 7 else 8) = true → Completes (.memoryTemperatureReport w u z) s fun t =>
       (t.worker w).temps.get 0 u = z ∧ (∀ v, v ≠ u → (t.worker w).temps.get 0 v = (s.worker w).temps.get 0 v) ∧
       (t.worker w).hotNext = some ((t.worker w).temps.cells.any fun x => decide (85 * 128 < x.2)) ∧
       t.worker w = { s.worker w with temps := (t.worker w).temps, hotNext := (t.worker w).hotNext } ∧
       (∀ v, v ≠ w → t.worker v = s.worker v) ∧ t = { s with workers := t.workers }) ∧
  (∀ (s : State) (w page : Nat) (lost : Bool) (m : Nat), s.workerUp w = true →
     (s.worker w).retireDue.find? (fun p => p.1 == page) = some (page, lost, m) →
     (0 < (s.worker w).spares.get 255 m → Completes (.pageRetirement w page) s fun t =>
       page ∈ (t.worker w).retiredPages ∧ (t.worker w).spares.get 255 m + 1 = (s.worker w).spares.get 255 m ∧
       (∀ p ∈ (t.worker w).retireDue, p.1 ≠ page) ∧ (t.worker w).failed = false ∧ t.mem = s.mem ∧
       (lost = false → t = { s with workers := t.workers })) ∧
     ((s.worker w).spares.get 255 m = 0 → Completes (.pageRetirement w page) s fun t =>
       (t.worker w).failed = true ∧ (t.worker w).pwr = 0 ∧ (t.worker w).keys = Tab.empty ∧
       (t.hub (sledOf w)).failed.testBit (siteOf w) = true))

/-- R158, R159: OWNER_OPEN of an owner that is not live decapsulates the ciphertext and waits for every worker that is not failed; a worker
fills the slot with the secret under a key never used before and its confirmation is noted; at K + 16 the workers that have not confirmed
are failed, and the owner is live. -/
def Obligations.OwnersOpen : Prop :=
  ∀ (s : State) (c : Cmd) (ct : List Byte) (o : Opening) (w : Nat),
    (IsCmd c 0x31 → 1 ≤ c.unit → c.unit ≤ 254 → c.data = some ct → ct.length = 1088 →
      s.mgr.mode = .quiescent ∨ s.mgr.mode = .loaded ∨ s.mgr.mode = .running → c.unit ∉ s.owners.live → s.owners.opening = none →
      s.owners.releasing = none → Completes (.ownerOpen c) s fun t =>
        let k : Opening :=
          { owner := c.unit, at_ := s.mgr.frame, secret := kemSecret s.owners.kemGen ct, waiting := s.liveWorkers, filled := []
            cmd := c }
        t = { s with owners := { s.owners with opening := some k } }) ∧
    (s.owners.opening = some o → s.workerUp w = true → w ∈ o.waiting → w ∉ o.filled → Completes (.ownerSecretReceipt w) s fun t =>
      (t.worker w).slot o.owner = { live := true, gen := (s.owners.keyGen + 1) * 256 + o.owner % 256, secret := o.secret } ∧
      t.owners.keyGen = s.owners.keyGen + 1 ∧ t.owners.opening = some { o with filled := o.filled ++ [w] } ∧
      (∀ n, n ≠ o.owner → (t.worker w).slot n = (s.worker w).slot n) ∧ (∀ v, v ≠ w → t.worker v = s.worker v) ∧
      t = { s with workers := t.workers, owners := t.owners }) ∧
    (s.owners.opening = some o → w ∈ o.filled → Completes (.ownerOpenConfirm w) s fun t =>
      t = { s with owners := { s.owners with opening := some { o with waiting := o.waiting.filter fun v => v != w } } }) ∧
    (s.owners.opening = some o → o.at_ + 16 ≤ s.mgr.frame → Completes .ownerOpenTimeout s fun t =>
      o.owner ∈ t.owners.live ∧ t.owners.opening = none ∧ (∀ v ∈ o.waiting, t.workerUp v = false) ∧ t.mem = s.mem)

/-- R160: OWNER_RELEASE of a live owner begins its release; where the owner's jobs have not drained D frames after acceptance the release
without FORCE is abandoned with 13h and the owner stays live. R161 to R164: once the owner has no running job its live bit is cleared,
ERASE goes to every live worker and its groups are barred until a later activation; a worker zeroizes the slots, those filled for an open
that the erase cancelled among them, and its confirmation is counted. -/
def Obligations.OwnersAreReleased : Prop :=
  (∀ (s : State) (c : Cmd) (r : Releasing),
     (IsCmd c 0x32 → 1 ≤ c.unit → c.unit ≤ 254 → 1 ≤ c.limit → s.mgr.mode = .quiescent ∨ s.mgr.mode = .loaded ∨ s.mgr.mode = .running →
       s.owners.opening = none → s.owners.releasing = none → c.unit ∈ s.owners.live → Completes (.ownerRelease c) s fun t =>
         let k : Releasing :=
           { owners := [c.unit], also := none, single := true, accepted := s.mgr.frame, limit := c.limit, force := c.force, erasing := false, e := 0
             waiting := [], erased := 0, cmd := some c }
         t.owners = { s.owners with releasing := some k } ∧
         (∀ g, g < 32 → s.groupOwner g = c.unit → (t.group g).queue = []) ∧ t.mem = s.mem ∧ t.keyTag = s.keyTag) ∧
     (s.owners.releasing = some r → r.single = true → r.erasing = false → r.force = false → r.accepted + r.limit ≤ s.mgr.frame →
       (∃ o ∈ r.owners, s.ownerJobs o ≠ []) → Completes .releaseDrainTimeout s fun t =>
         t = ({ s with owners := { s.owners with releasing := none } } : State).final? r.cmd 0x13)) ∧
  (∀ (s : State) (r : Releasing) (w : Nat), s.owners.releasing = some r →
     (r.erasing = false → (∀ o ∈ r.owners, s.ownerJobs o = []) → Completes .eraseBoundary s fun t =>
       t.owners.live = s.owners.live.filter (fun o => !r.owners.contains o) ∧
       t.owners.releasing = some { r with erasing := true, e := s.mgr.frame, waiting := s.liveWorkers, erased := 0 } ∧
       (∀ i d, s.img.active = some i → d ∈ i.groups → d.owner ∈ r.owners → d.gid ∈ t.img.barred) ∧ t.mem = s.mem) ∧
     (r.erasing = true → s.workerUp w = true → w ∈ r.waiting → Completes (.erase w) s fun t =>
       (∀ o ∈ r.slots, ((t.worker w).slot o).live = false) ∧
       (∀ o, o ∉ r.slots → (t.worker w).slot o = (s.worker w).slot o) ∧ (∀ v, v ≠ w → t.worker v = s.worker v) ∧
       t = { s with workers := t.workers }) ∧
     (r.erasing = true → w ∈ r.waiting → (∀ o ∈ r.slots, ((s.worker w).slot o).live = false) → Completes (.eraseConfirm w) s fun t =>
       t = { s with owners := { s.owners with releasing := some { r with waiting := r.waiting.filter fun v => v != w, erased := r.erased + 1 } } }))

/-- R342: KEM_KEY writes the encapsulation key of the present key pair to the host and returns the pair's number. R165, R169, R170: a line
written under the live key of its page's owner reads back as written and leaves every other line; one written where the slot is not live
is discarded and counted in VOIDWR. -/
def Obligations.LinesAreWrittenUnderKeys : Prop :=
  (∀ (s : State) (c : Cmd) (d : List Byte), IsCmd c 0x30 → s.mgr.mode ≠ .off → s.mgr.mode ≠ .bringUp → s.mgr.mode ≠ .limp → c.data = some d →
     Completes (.kemKey c) s fun t =>
       t = (s.giveBack c c.addr (kemPair s.owners.kemGen).ek).final c 0 [(4, s.owners.kemGen % 2 ^ 32)]) ∧
  (∀ (s : State) (line : Nat) (b : List Byte), b.length = 64 →
     (s.keyAt (line * 64) ≠ 0 → Memory.wf s.mem = true →
       (∀ i, i < 64 → memGet (s.writeLine line b).mem (line * 64 + i) = b.getD i 0) ∧
       (∀ a, a / 64 ≠ line → memGet (s.writeLine line b).mem a = memGet s.mem a ∧
         (s.writeLine line b).keyTag.get 0 (a / 64) = s.keyTag.get 0 (a / 64)) ∧
       (s.writeLine line b).keyTag.get 0 line = s.keyAt (line * 64) ∧
       s.writeLine line b = { s with mem := (s.writeLine line b).mem, keyTag := (s.writeLine line b).keyTag }) ∧
     (s.keyAt (line * 64) = 0 →
       ((s.writeLine line b).worker (addrWorker (line * 64))).voidWr = min 65535 ((s.worker (addrWorker (line * 64))).voidWr + 1) ∧
       s.writeLine line b = { s with workers := (s.writeLine line b).workers }))

/-- R178, R179, R185, R186: COCOON_STORE is accepted where every named sled has room, and puts the cocoon into each store when it has been
written while none of these sleds is paused, in place of one with its ID; COCOON_DELETE takes it out; PUBKEY_ADD and PUBKEY_REMOVE, in
Service, change the registered keys. That a PUBKEY_REMOVE of a key that is not registered completes with 00h is the model's choice (log
entry 112). -/
def Obligations.CocoonsAreStored : Prop :=
  ∀ (s : State) (c : Cmd) (b key : List Byte) (id : Nat) (x : CStore),
    (IsCmd c 0x40 → s.mgr.mode ∈ moundStates → s.fit.maskOk c.sel = true → c.data = some b → b.length = c.len →
      s.cocoonInUse (fieldLE b 0x10 8) = false → (∀ k ∈ maskList c.sel, s.storeRoom k c.len = true) → Completes (.cocoonStore c) s fun t =>
        let y : CStore := { cmd := c, id := fieldLE b 0x10 8, sleds := maskList c.sel, bytes := b }
        t = { s.interim c with mound := { s.mound with stores := s.mound.stores ++ [y] } }) ∧
    (s.mound.stores.find? (fun y => y.id == id) = some x → s.paused x.sleds = false → Completes (.cocoonStoreWritten id) s fun t =>
      (∀ k ∈ x.sleds, ∀ y ∈ (t.hub k).store, y.id = x.id → y.bytes = x.bytes) ∧
      (∀ k ∈ x.sleds, ∃ y ∈ (t.hub k).store, y.id = x.id) ∧ t.mound = { s.mound with stores := s.mound.stores.erase x } ∧
      t.workers = s.workers ∧ t.mem = s.mem ∧ t.mgr = s.mgr) ∧
    (IsCmd c 0x49 → s.mgr.mode ∈ moundStates → s.fit.maskOk c.sel = true → s.cocoonInUse c.id = false →
      (∃ k ∈ maskList c.sel, ∃ y ∈ (s.hub k).store, y.id = c.id) → Completes (.cocoonDelete c) s fun t =>
        (∀ k ∈ maskList c.sel, ∀ y ∈ (t.hub k).store, y.id ≠ c.id) ∧ t.mound = s.mound ∧ t.workers = s.workers ∧ t.mem = s.mem) ∧
    (IsCmd c 0x47 → s.mgr.mode = .service → s.fit.sig = true → c.fromScarab = false → c.data = some key → key.length = 1952 →
      (∃ p ∈ s.owners.pubkeys, p.1 = keyId key) ∨ s.owners.pubkeys.length < 16 → Completes (.pubkeyAdd c) s fun t =>
        (∃ p ∈ t.owners.pubkeys, p.1 = keyId key) ∧ (∀ p ∈ s.owners.pubkeys, p ∈ t.owners.pubkeys) ∧
        t = ({ s with owners := { s.owners with pubkeys := t.owners.pubkeys } } : State).final c 0) ∧
    (IsCmd c 0x48 → s.mgr.mode = .service → s.fit.sig = true → c.fromScarab = false → Completes (.pubkeyRemove c) s fun t =>
      (∀ p ∈ t.owners.pubkeys, p.1 ≠ c.id + c.addr2 * 2 ^ 64) ∧
      t = ({ s with owners := { s.owners with pubkeys := t.owners.pubkeys } } : State).final c 0)

/-- R187 to R190, R199: COCOON_LOAD that passes its checks and finds room begins loading its object on every listed worker; a chunk that is
authentic is written under the owner's key and noted; one whose tag fails, or, with signatures fitted, whose digest differs from its entry,
ends the load with 25h, and a content key that the owner's secret does not open ends it with 24h. With its last chunk the object is
resident on the worker, and with the last lane the load is done; that a lane which is resident no longer by then ends it with 2Bh is the
model's choice (log entry 117). -/
def Obligations.CocoonsAreLoaded : Prop :=
  ∀ (s : State) (c : Cmd) (w k obj : Nat) (cek plain : List Byte) (l : MLoad),
    let b := s.cocoonBytes c
    let o := (s.worker w).objs.get MObj.init obj
    let ct := s.chunkBytes l w k
    let l2 : MLoad := { l with done := l.done ++ [w] }
    (IsCmd c 0x41 → s.mgr.mode ∈ moundStates → c.sel ≤ 1 → c.unit < 4096 → c.aux < 256 → c.listOk = true →
      c.sel = 1 ∨ (c.data.isSome = true ∧ b.length = c.len) → firstFail (s.loadChecks c) = none →
      (s.placeLanes b c.aux c.unit c.workers.zipIdx).2 = none → Completes (.cocoonLoad c) s fun t =>
        (∀ v ∈ c.workers, ((t.worker v).objs.get? c.unit).map (·.state) = some 1) ∧
        (∃ x, t.mound.loads = s.mound.loads ++ [x] ∧ x.cmd = c ∧ x.obj = c.unit ∧ x.workers = c.workers ∧ x.passed = [] ∧ x.done = []) ∧
        t.mem = s.mem ∧ t.keyTag = s.keyTag) ∧
    (s.mound.loads.find? (fun x => x.workers.contains w && decide (k < x.chunks.length) &&
        x.workers[(x.chunks.getD k []).getD 0 0]? == some w) = some l → l.obj = obj → s.moves w = true → o.state = 1 → (w, k) ∉ l.passed →
      (s.worker w).runLost obj o = false → (s.worker w).runFree obj o = true →
      (unwrapCek l.header ((s.worker w).slot l.owner).secret = none → Completes (.chunkCheck w k) s fun t =>
        t = s.failLoad l 0x24 (some o.lane) 0xFFFFFFFF) ∧
      (unwrapCek l.header ((s.worker w).slot l.owner).secret = some cek →
        (openChunk l.header cek k ct = none ∨
            (openChunk l.header cek k ct = some plain ∧ s.fit.sig = true ∧ leNat (sha3_384 plain) ≠ l.hashes.getD k 0) →
          Completes (.chunkCheck w k) s fun t => t = s.failLoad l 0x25 (some o.lane) k) ∧
        (openChunk l.header cek k ct = some plain → s.fit.sig = false ∨ leNat (sha3_384 plain) = l.hashes.getD k 0 →
          Completes (.chunkCheck w k) s fun t =>
            (∃ y ∈ t.mound.loads, y.obj = obj ∧ y.passed = l.passed ++ [(w, k)]) ∧
            t = { s.tierWriteKey ((s.worker w).slot o.owner).gen (s.objAddr w false o.first ((l.chunks.getD k []).getD 2 0)) plain with
                  mound := t.mound }))) ∧
    (s.loadOn w obj = some l → s.moves w = true → o.state = 1 → (s.worker w).runFree obj o = true →
      (∀ n, n < l.chunks.length → (l.chunks.getD n []).getD 0 0 = o.lane → (w, n) ∈ l.passed) →
      ((∃ v ∈ l.workers, v ∉ l2.done) ∨
          (∀ v ∈ l.workers, v ≠ w → v ∈ l.done → ∃ z, (s.worker v).objs.get? obj = some z ∧ (z.state = 2 ∨ z.state = 4)) →
        Completes (.objectResident w obj) s fun t =>
          (t.worker w).objs.get? obj = some { o with
            state := 2, lastUse := (s.hub (sledOf w)).frame, jobPins := if o.secondary then 0 else s.jobRefs w obj } ∧
          (∀ v, v ≠ w → t.worker v = s.worker v) ∧ t.mem = (s.zeroGaps w { o with secondary := false } l.chunks).mem ∧
          ((∃ v ∈ l.workers, v ∉ l2.done) → l2 ∈ t.mound.loads) ∧
          ((∀ v ∈ l.workers, v ∈ l2.done) → ∀ y ∈ t.mound.loads, y.cmd ≠ l.cmd ∨ y.obj ≠ l.obj)) ∧
      ((∀ v ∈ l.workers, v ∈ l2.done) → (∃ v ∈ l.workers, v ≠ w ∧ v ∈ l.done ∧ (s.worker v).objs.get? obj = none) →
        Completes (.objectResident w obj) s fun t => ∃ u lane, t = State.failLoad u l2 0x2B (some lane) 0xFFFFFFFF))

/-- R154, R193 to R196, R199, Table 8.6: MOUND_PROMOTE of objects in the secondary share begins their copies; a copy that ends puts the
object into the other share, and one that meets a line it cannot correct does not; MOUND_PIN and MOUND_UNPIN change the pending host pins,
applied at the worker's boundary, where a pinned object is no longer demoted; MOUND_DROP frees an unpinned object that no load is writing;
MOUND_QUERY gives its entry. That an uncorrectable line ends the promotion with 2Bh is the model's choice (log entry 117). -/
def Obligations.ObjectsMoveAndArePinned : Prop :=
  ∀ (s : State) (c : Cmd) (w obj : Nat) (errs : List (Nat × Nat)) (o : MObj), c.unit < 4096 →
    let n := ((o.hostPins : Int) + o.pend).toNat
    let held : Prop := o.state = 4 ∧ 0 < o.jobPins + n
    let r := s.copyErrors w o errs
    let dst : MObj := { o with first := o.toFirst, secondary := false }
    (c.listOk = true → c.workers ≠ [] → s.mgr.mode ∈ moundStates →
      (IsCmd c 0x42 → (∀ v ∈ c.workers, s.moundBusy v = false ∧ ((s.worker v).objs.get MObj.init c.unit).state = 3) →
        (s.promoteLanes c.unit c.workers.dedup).2 = true → Completes (.moundPromote c) s fun t =>
          (∀ v ∈ c.workers, ((t.worker v).objs.get? c.unit).map (·.state) = some 5) ∧
          (∃ p ∈ t.mound.promotes, p.cmd = c ∧ p.obj = c.unit ∧ p.waiting = c.workers.dedup) ∧ t.mem = s.mem) ∧
      (IsCmd c 0x43 → (∀ v ∈ c.workers, ((s.worker v).objs.get MObj.init c.unit).atPrimary = true ∧
          (((s.worker v).objs.get MObj.init c.unit).pins : Int) + ((s.worker v).objs.get MObj.init c.unit).pend < 65535) →
        Completes (.moundPin c) s fun t =>
          (∀ v ∈ c.workers, ((t.worker v).objs.get MObj.init c.unit).pend = ((s.worker v).objs.get MObj.init c.unit).pend + 1) ∧
          t = { s with workers := t.workers, mound := t.mound }) ∧
      (IsCmd c 0x44 → (∀ v ∈ c.workers,
          0 < (((s.worker v).objs.get MObj.init c.unit).hostPins : Int) + ((s.worker v).objs.get MObj.init c.unit).pend) →
        Completes (.moundUnpin c) s fun t =>
          (∀ v ∈ c.workers, ((t.worker v).objs.get MObj.init c.unit).pend = ((s.worker v).objs.get MObj.init c.unit).pend - 1) ∧
          t = { s with workers := t.workers, mound := t.mound }) ∧
      (IsCmd c 0x45 → (∀ v ∈ c.workers, ((s.worker v).objs.get? c.unit).isSome = true ∧
          ((s.worker v).objs.get MObj.init c.unit).pins = 0 ∧ ((s.worker v).objs.get MObj.init c.unit).pend ≤ 0 ∧
          ((s.worker v).objs.get MObj.init c.unit).state ≠ 1 ∧ s.loadOn v c.unit = none) → Completes (.moundDrop c) s fun t =>
          (∀ v ∈ c.workers, (t.worker v).objs.get? c.unit = none) ∧ t = ({ s with workers := t.workers } : State).final c 0)) ∧
    (IsCmd c 0x46 → s.fit.workerOk c.id = true → s.mgr.mode ∈ everyState → Completes (.moundQuery c) s fun t =>
      t = s.writeBack c c.addr (((s.worker c.id).objs.get MObj.init c.unit).entry c.unit) []) ∧
    ((s.worker w).objs.get? obj = some o →
      (s.moves w = true → o.state = 4 → o.pins = 0 → o.pend ≤ 0 →
        (r.2 = false → Completes (.moundCopyEnd w obj errs) s fun t =>
          (t.worker w).objs.get? obj = some { o with state := 3, secondary := true, first := o.toFirst, toFirst := 0 } ∧
          t = { r.1.copyLane w o with workers := t.workers }) ∧
        (r.2 = true → Completes (.moundCopyEnd w obj errs) s fun t => t = r.1)) ∧
      (s.moves w = true → o.state = 5 → (s.worker w).runLost obj dst = false → (s.worker w).runFree obj dst = true →
        (r.2 = false → Completes (.moundCopyEnd w obj errs) s fun t =>
          (t.worker w).objs.get? obj =
            some { dst with state := 2, toFirst := 0, lastUse := (s.hub (sledOf w)).frame, jobPins := s.jobRefs w obj } ∧
          t.mem = (r.1.copyLane w o).mem) ∧
        (r.2 = true → Completes (.moundCopyEnd w obj errs) s fun t => t = r.1.failPromote w obj 0x2B)) ∧
      Completes (.hostPinApply w obj) s fun t =>
        (o.state = 6 → o.jobPins + n = 0 → (t.worker w).objs.get? obj = none) ∧
        (o.state ≠ 6 ∨ 0 < o.jobPins + n → ∃ z, (t.worker w).objs.get? obj = some z ∧ z.hostPins = n ∧ z.pend = 0 ∧
          z.jobPins = o.jobPins ∧ (held → z.state = 2) ∧ (¬held → z.state = o.state)) ∧ t.mem = s.mem)

/-- R17: board link j of the worker at site index x leads to the worker of its sled at site index (x + j + 1) mod SITES, where it arrives on
board link SITES − 2 − j, and back from there. -/
def Obligations.BoardLinksLeadToPeers : Prop :=
  ∀ (f : Fit) (w j : Nat), f.siteOk (siteOf w) = true → j ≤ f.sites - 2 →
    let p := f.linkPeer w j
    f.siteOk (siteOf p.1) = true ∧ f.siteIndex (siteOf p.1) = (f.siteIndex (siteOf w) + j + 1) % f.sites ∧ p.2 = f.sites - 2 - j ∧
    sledOf p.1 = sledOf w ∧ f.linkPeer p.1 p.2 = (w, j) ∧ f.linkTo w (siteOf p.1) = j

/-- R150, R201 to R207, R242: with what the receiving worker has ready by that cycle done, the flit at the head of a wire is taken: a DATA
flit of one of the link's flows, clean or corrected, reaches the core's data area in a started frame and its slot is freed; one of the
port's live circuit reaches tier A. One that the decoder cannot correct, or that crosses a disturbance hit, counts as uncorrectable, and one
of no flow of the link counts as misrouted too; the groups of the link, or of the port's receive circuit, stop on that sled. A circuit's
credit that falls due is counted up to the window, and counts under SHORT where it would pass it. That flits of a circuit in a hit are
uncorrectable, and that a credit waits while its flit is in the receive buffer, are the model's choices (log entries 120 and 121). -/
def Obligations.FlitsAndCredits : Prop :=
  ∀ (s : State) (w j n c cycle : Nat) (errs : List (Nat × Byte)), s.workerUp w = true →
    let s0 := s.flush w cycle
    let x := (s0.worker w).link j
    let y := (s0.worker w).port j
    let p := s.fit.linkPeer w j
    (j < s.fit.links → (s.worker w).powered 11 = true → ((s.worker w).link j).up = true →
      let r := (s.nextOnLink w j).received errs
      let a := r.2.arg % 2 ^ 16 * 64
      ((s.nextOnLink w j).typ = 1 → r.1 ≠ 2 → r.2.typ = 1 → s0.flowOn p.1 w r.2.id = true → (s0.hub (sledOf w)).started = true →
        (s0.worker w).physOf (r.2.arg / 2 ^ 16 % 64) = some n → dataBase ≤ a → a + 256 ≤ 0x400000 →
        Completes (.flitReceive (.link w j) cycle errs) s fun t =>
          (∀ i, i < r.2.payload.length → (t.core w n).store.get 0 (a + i) = (r.2.payload.getD i 0).toNat) ∧
          ((t.worker w).link j).landed = x.landed + 1 ∧ ((t.worker w).link j).credit = min 128 (x.credit + r.2.cred) ∧
          ((t.worker w).link j).corr = (if r.1 = 1 then min 65535 (x.corr + 1) else x.corr) ∧
          ((t.worker p.1).link p.2).wire = ((s0.worker p.1).link p.2).wire.tail ∧
          ((t.worker p.1).link p.2).inRet = ((s0.worker p.1).link p.2).inRet + 1 ∧ t = { s0 with workers := t.workers }) ∧
      (r.1 = 2 → Completes (.flitReceive (.link w j) cycle errs) s fun t =>
          ((t.worker w).link j).uncorr = min 65535 (x.uncorr + 1) ∧ (∀ v m, t.core v m = s0.core v m) ∧
          (∀ g ∈ s0.linkUsers w j, s0.groupRuns g = true → sledOf w ∈ (t.group g).sledsStopped) ∧
          t = { s0 with workers := t.workers, groups := t.groups }) ∧
      ((s.nextOnLink w j).typ = 1 → r.1 ≠ 2 → ¬(r.2.typ = 1 ∧ s0.flowOn p.1 w r.2.id = true) →
        Completes (.flitReceive (.link w j) cycle errs) s fun t =>
          ((t.worker w).link j).misroute = min 255 (x.misroute + 1) ∧ ((t.worker w).link j).uncorr = min 65535 (x.uncorr + 1) ∧
          (∀ v m, t.core v m = s0.core v m) ∧
          (∀ g ∈ s0.linkUsers w j, s0.groupRuns g = true → sledOf w ∈ (t.group g).sledsStopped) ∧
          t = { s0 with workers := t.workers, groups := t.groups })) ∧
    (j < 4 → (s.worker w).powered (9 + j / 2) = true → ((s.worker w).port j).loopback = false →
      let sent := (s.circ c).wire.headD (s.portFiller c)
      let r := sent.received errs
      (sent.typ = 1 → r.1 ≠ 2 → (s0.circ c).state ≠ 4 → r.2.typ = 1 → y.rx = some r.2.id → (s0.circ r.2.id).rxLive = true →
        (s0.hub (sledOf w)).started = true → Completes (.flitReceive (.port w j c) cycle errs) s fun t =>
          t.mem = (s0.tierWrite (machineAddr 0 w (r.2.arg % 2 ^ 32 * 64)) r.2.payload).mem ∧
          (t.circ c).landed = (s0.circ c).landed + 1 ∧ (t.circ c).inRet = (s0.circ c).inRet + 1 ∧
          (t.circ c).wire = (s0.circ c).wire.tail ∧ ∀ d, d ≠ c → t.circ d = s0.circ d) ∧
      (r.1 = 2 ∨ (s0.circ c).state = 4 → Completes (.flitReceive (.port w j c) cycle errs) s fun t =>
          ((t.worker w).port j).uncorr = min 65535 (y.uncorr + 1) ∧ t.mem = s0.mem ∧ (t.circ c).wire = (s0.circ c).wire.tail ∧
          (∀ q, y.rx = some q → ∀ g ∈ s0.circGroups q, s0.groupRuns g = true → sledOf w ∈ (t.group g).sledsStopped) ∧
          t = { s0 with workers := t.workers, groups := t.groups, circs := t.circs })) ∧
    ((s.circ c).window ≠ 0 → (s.circ c).credit < (s.circ c).window → Completes (.creditDue c) s fun t =>
      (0 < (s.circ c).inRet → t.circ c = { s.circ c with credit := (s.circ c).credit + 1, inRet := (s.circ c).inRet - 1 }) ∧
      ((s.circ c).inRet = 0 → 0 < (s.circ c).fly → (s.circ c).occ = 0 → t.circ c =
        { s.circ c with credit := (s.circ c).credit + 1, fly := (s.circ c).fly - 1, wire := dropData (s.circ c).wire }) ∧
      ((s.circ c).inRet = 0 → (s.circ c).fly = 0 ∨ 0 < (s.circ c).occ → t.circ c = s.circ c) ∧
      (∀ d, d ≠ c → t.circ d = s.circ d) ∧ t = { s with circs := t.circs }) ∧
    ((s.circ c).window ≠ 0 → (s.circ c).window ≤ (s.circ c).credit → Completes (.creditDue c) s fun t =>
      let e := (s.endOf (s.circ c).src).1
      ((t.worker e).port (s.circPort e c)).short = min 255 (((s.worker e).port (s.circPort e c)).short + 1) ∧
      t = { s with workers := t.workers })

/-- R208 to R210: an end of a circuit applies its tear once the manager has decided it: it lets go of the circuit at its port and settles
L_c started frames later, two more at the receiver; in the seam of that frame settlement puts the window back and clears what was in
flight or in the buffer; when both ends have settled EV_CIRCUIT_TORN is raised with the flits lost. R212: a board link whose lanes lose
lock is down and torn at both ends with cause 7h; settlement sets an end's books; it is up at both ends when it has trained again, and where
it is not up in 64 frames the worker of the pair with the higher site index is declared failed. -/
def Obligations.WiresAreTorn : Prop :=
  (∀ (s : State) (c : Nat) (b : Bool) (z : Tear), (s.circ c).tear = some z →
     let e := s.tornEnd c b
     let a := s.tornEnd c false
     let l := settleFrames (s.circ c).flight
     ((if b then z.rxDone else z.txDone) = false → z.frame ≤ s.mgr.frame → Completes (.circuitTear c b) s fun t =>
       (t.circ c).tear = some (if b then { z with rxDone := true, rxLeft := l + 2 } else { z with txDone := true, txLeft := l }) ∧
       (if b then ((t.worker e.1).port e.2).rx ≠ some c else ((t.worker e.1).port e.2).tx ≠ some c) ∧
       (∀ d, d ≠ c → t.circ d = s.circ d) ∧ t = { s with workers := t.workers, circs := t.circs }) ∧
     (z.txDone = true → z.txSettled = false → z.txLeft = 0 → s.inSeam a.1 = true → Completes (.settlement (.circuit c) false) s fun t =>
       t.circ c = { s.circ c with
         credit := (s.circ c).window, fly := 0, inRet := 0, wire := [], tear := some { z with txSettled := true } } ∧
       (∀ d, d ≠ c → t.circ d = s.circ d) ∧ t = { s with circs := t.circs }) ∧
     (z.rxDone = true → z.rxSettled = false → z.rxLeft = 0 → s.inSeam (s.tornEnd c true).1 = true →
       Completes (.settlement (.circuit c) true) s fun t =>
         t.circ c = { s.circ c with occ := 0, tear := some { z with rxSettled := true } } ∧
         (let p := s.tornEnd c true
          ((t.worker p.1).port p.2).occ = 0 ∧ ((t.worker p.1).port p.2).buf = []) ∧ t = { s with workers := t.workers, circs := t.circs }) ∧
     (z.txSettled = true → z.rxSettled = true → z.reported = false → Completes (.evCircuitTorn (.circuit c)) s fun t =>
       (∀ k, k < s.fit.sleds → ∃ v ∈ (t.hub k).evq, v.code = 5 ∧ v.payload = payload [(0, 2, c), (2, 1, z.cause), (4, 4, z.frame % 2 ^ 32),
         (8, 4, (s.circ c).sent - (s.circ c).landed), (12, 4, (s.circ c).discard)]) ∧
       ((t.worker a.1).port a.2).lost = min 0xFFFFFFFF (((s.worker a.1).port a.2).lost + ((s.circ c).sent - (s.circ c).landed)) ∧
       (t.circ c).tear = some { z with reported := true } ∧ (t.circ c).sent = 0 ∧ (t.circ c).landed = 0 ∧ t.mem = s.mem)) ∧
  (∀ (s : State) (w j : Nat) (b : Bool), s.workerUp w = true → j < s.fit.links →
     let p := s.fit.linkPeer w j
     let e := if b then p else (w, j)
     let x := (s.worker w).link j
     let y := (s.worker e.1).link e.2
     (x.up = true → Completes (.laneLockLoss w j) s fun t =>
       ((t.worker w).link j).up = false ∧ ((t.worker w).link j).torn = true ∧ ((t.worker w).link j).cause = 7 ∧
       ((t.worker p.1).link p.2).up = false ∧ ((t.worker p.1).link p.2).torn = true ∧ ((t.worker p.1).link p.2).cause = 7 ∧
       (∀ g ∈ s.linkUsers w j, s.groupRuns g = true → sledOf w ∈ (t.group g).sledsStopped) ∧
       t = { s with workers := t.workers, groups := t.groups }) ∧
     (y.torn = true → y.settled = false → s.inSeam e.1 = true → Completes (.settlement (.link w j) b) s fun t =>
       (t.worker e.1).link e.2 =
         { y with credit := 128, fly := 0, occ := 0, inRet := 0, owed := 0, wire := [], buf := [], settled := true } ∧
       (∀ v, v ≠ e.1 → t.worker v = s.worker v) ∧ t = { s with workers := t.workers }) ∧
     (x.torn = true → x.settled = true → ((s.worker p.1).link p.2).torn = true → ((s.worker p.1).link p.2).settled = true →
       Completes (.evCircuitTorn (.link w j)) s fun t =>
         ((t.worker w).link j).torn = false ∧ ((t.worker p.1).link p.2).torn = false ∧ t.mem = s.mem ∧
         ∀ f ∈ s.flowsOf w j, ∀ k, k < s.fit.sleds → ∃ v ∈ (t.hub k).evq, v.code = 5) ∧
     (s.workerUp p.1 = true → x.up = false → x.settled = true → ((s.worker p.1).link p.2).settled = true → (s.worker w).powered 11 = true →
       (s.worker p.1).powered 11 = true → Completes (.boardLinkRetrained w j) s fun t =>
         ((t.worker w).link j).up = true ∧ ((t.worker p.1).link p.2).up = true ∧ t = { s with workers := t.workers }) ∧
     (s.workerUp p.1 = true → x.up = false → x.cause = 7 → 64 ≤ x.downFor → Completes (.linkRetrainTimeout w j) s fun t =>
       t.workerUp (if s.fit.siteIndex (siteOf w) < s.fit.siteIndex (siteOf p.1) then p.1 else w) = false ∧ t.mem = s.mem))

/-- R205, R215 to R217, R243: in a ranging frame a circuit that is being set up sends a MARKER and one sample is kept, its flight time is the
two legs and the largest of four samples, and one over its budget rejects it; a flagged sample is taken again, the fourth such rejects; a
circuit that has been ranged and meets its limit becomes usable with its window; one that is rejected, whose L-port is not confirmed, or
that has not met its limit by its deadline is DOWN. That a sample of less than 1/64 c after its start is SUBRES, counted in steps of
1/65,536 c, is the model's reading (log entry 122). -/
def Obligations.CircuitsAreRanged : Prop :=
  ∀ (s : State) (c start stop loss : Nat), (s.circ c).state = 1 →
    let x := s.circ c
    let n := (stop - start) / 1024
    let f := (s.lport x.src).leg + (x.samples ++ [n]).foldl max 0 + (s.lport x.dst).leg
    let y : Circ := { x with sampledAt := s.mgr.frame + 1, wire := x.wire ++ [markerFlit c (x.samples.length + x.retakes)] }
    let fits : Prop := x.rejected = false ∧ s.lportConfirmed x.src = true ∧ s.lportConfirmed x.dst = true
    let ranged : Prop := x.samples.length = 4 ∧ x.setupAt + 16 + x.retakes ≤ s.mgr.frame
    (x.rejected = false → x.samples.length < 4 → x.setupAt + 12 ≤ s.mgr.frame → x.sampledAt ≤ s.mgr.frame →
      Completes (.rangingSample c start stop) s fun t =>
        (start + 1024 ≤ stop →
          (t.circ c).samples = x.samples ++ [n] ∧ (t.circ c).sampledAt = y.sampledAt ∧ (t.circ c).wire = y.wire ∧
          (x.samples.length < 3 → t.circ c = { y with samples := x.samples ++ [n] }) ∧
          (x.samples.length = 3 → (s.lport x.src).legValid = true → (s.lport x.dst).legValid = true →
            (t.circ c).flight = f % 2 ^ 23 ∧ (t.circ c).rejected = decide (x.budget < f))) ∧
        (stop < start + 1024 →
          t.circ c = if x.retakes < 3 then { y with retakes := x.retakes + 1 } else { y with rejected := true, flightSt := 3 }) ∧
        (∀ d, d ≠ c → t.circ d = s.circ d) ∧ t = { s with circs := t.circs }) ∧
    (fits → ranged → loss ≤ 400 + 100 * x.qclass → s.unsettledOn c x.src false = false → s.unsettledOn c x.dst true = false →
      Completes (.circuitUsable c loss) s fun t =>
        (t.circ c).state = 2 ∧ (t.circ c).window = windowOf x.flight ∧ (t.circ c).credit = windowOf x.flight ∧ (t.circ c).loss = loss ∧
        ((t.worker (s.circEnd c false).1).port (s.circEnd c false).2).tx = some c ∧
        ((t.worker (s.circEnd c true).1).port (s.circEnd c true).2).rx = some c ∧ ∀ d, d ≠ c → t.circ d = s.circ d) ∧
    (¬fits ∨ (400 + 100 * x.qclass < loss ∧ x.due ≤ s.mgr.frame) → Completes (.circuitUsable c loss) s fun t =>
      (t.circ c).state = 5 ∧ (∀ d, d ≠ c → t.circ d = s.circ d) ∧ t.mem = s.mem)

/-- R213, R214, R218 to R223: CABLE_SEARCH begins with every worker L-port whose contact is closed; a round looks at 16 of them, and marks an
L-port whose input tap jumps; a pass that ends with changes redoes the changed ones up to pass 3, and otherwise gives every worker L-port the
result of Table 9.6; a leg is half the round trip less the plane's part and the reflector's constant; a one-port check that has run its
frames gives one L-port its result, and the other port of a pair its own, or is repeated on a change, up to three times, and then UNSTABLE.
Which reflector and which of the round trips count, and how long a check runs, are the model's choices (log entries 122 and 123). -/
def Obligations.CablingIsSearched : Prop :=
  ∀ (s : State) (cmd : Cmd) (seen : RoundSeen) (meas : List LegMeas) (z : LegMeas) (q i from_ rt : Nat),
    let x := s.search
    let p := s.lport q
    let l := foundIn seen 0 q :: s.storedFindings q
    let moved : Prop := p.changed = true ∨ ∃ t ∈ seen.taps, t.1 = q ∧ tapJumps none t.2 = true
    let plane := z.seg1 + z.seg2 + s.reflectorConst i
    (IsCmd cmd 0x63 → s.mgr.mode = .quiescent → s.fit.lacewing = true → x.on = false → s.checkRunning = false →
      Completes (.cableSearch cmd) s fun t =>
        t.search.on = true ∧ t.search.legPass = false ∧ t.search.cmd = some cmd ∧
        (∀ q, q ∈ t.search.todo ↔ q < s.fit.workerPorts ∧ (s.lport q).contact = true) ∧ t = { s.interim cmd with search := t.search }) ∧
    (x.on = true → x.legPass = false → x.todo ≠ [] → x.left = 0 → Completes (.searchRound seen) s fun t =>
      t.search.todo = x.todo.drop 16 ∧ (∀ i, i < 16 → ∀ r, x.todo[i]? = some r → foundIn seen i r ∈ t.search.found) ∧
      (∀ r ∈ x.marked, r ∈ t.search.marked) ∧
      (∀ h ∈ seen.taps, h.1 < s.fit.workerPorts → tapJumps (x.means.get? h.1) h.2 = true → h.1 ∈ t.search.marked) ∧
      t = { s with search := t.search }) ∧
    (x.on = true → x.legPass = false → x.todo = [] → x.marked ≠ [] → x.pass < 3 → Completes .searchPassEnd s fun t =>
      t.search.pass = x.pass + 1 ∧ (∀ q, q ∈ t.search.todo ↔ q ∈ x.marked) ∧ t.search.marked = [] ∧ t = { s with search := t.search }) ∧
    (x.on = true → x.legPass = false → x.todo = [] → x.marked = [] ∨ 3 ≤ x.pass → Completes .searchPassEnd s fun t =>
      (∀ q ∈ s.fit.workerLPorts, (t.lport q).searched = true ∧
        (t.lport q).result = classify s.fit x.found x.marked (s.lport q).contact q) ∧
      (t.search.on = true → t.search.legPass = true) ∧ t.mem = s.mem) ∧
    (x.on = true → x.legPass = true → x.legTodo ≠ [] → x.left = 0 → Completes (.legGroup meas) s fun t =>
      t.search.legTodo = x.legTodo.drop s.fit.legSize ∧
      ((x.legTodo.take s.fit.legSize).Nodup → (x.legTodo.take s.fit.legSize)[i]? = some q → meas.find? (fun m => m.q == q) = some z →
        roundTripOf z = some rt → plane ≤ rt → (rt - plane) / 2 ≤ 65535 →
          (t.lport q).legValid = true ∧ (t.lport q).leg = (rt - plane) / 2)) ∧
    (p.checkRun = some from_ → s.mgr.mode.checks = true → from_ + 20 ≤ s.mgr.frame →
      (¬moved → Completes (.onePortCheck q seen meas) s fun t =>
        (t.lport q).checkDue = none ∧ (t.lport q).checkRun = none ∧ (t.lport q).searched = true ∧
        (t.lport q).result = classify s.fit l [] p.contact q ∧
        (((s.reclassed q l).map (·.1)).Nodup → ∀ o ∈ s.reclassed q l, (t.lport o.1).result = o.2)) ∧
      (moved → p.repeats < 3 → Completes (.onePortCheck q seen meas) s fun t =>
        t.lport q = { p with repeats := p.repeats + 1, checkRun := some s.mgr.frame, changed := false } ∧
        t = { s with lports := t.lports }) ∧
      (moved → 3 ≤ p.repeats → Completes (.onePortCheck q seen meas) s fun t =>
        (t.lport q).checkDue = none ∧ (t.lport q).checkRun = none ∧ (t.lport q).result = 4))

/-- R26, R223, R255, R256: an open contact or return light takes the splitter output to glow, and an open L-port's circuits are torn; an
output leaves glow when the contacts are closed and the check has passed; a contact that closes outside a search schedules a check, or is
seen by the one that runs. That the interlock takes a worker port by the cabling plan is the model's choice (log entry 124). -/
def Obligations.InterlockActs : Prop :=
  ∀ (s : State) (q w p k m : Nat) (f : Nat × Nat), s.mgr.mode ≠ .off →
    (s.fit.lportOk q = true → (s.lport q).contact = true → Completes (.presenceContactOpen q) s fun t =>
      (t.lport q).contact = false ∧ (feedOf q = some f → (t.module f.1).glow.testBit f.2 = true) ∧
      (∀ c, (s.circ c).standing = true → (s.circ c).src = q ∨ (s.circ c).dst = q → (t.circ c).state = 6) ∧ t.mem = s.mem) ∧
    (s.fit.lacewing = true → s.workerUp w = true → p < 4 → ((s.worker w).port p).contact = true →
      Completes (.workerPortContactOpen w p) s fun t =>
        ((t.worker w).port p).contact = false ∧
        (feedOf (s.fit.lportOf w p) = some f → (t.module f.1).glow.testBit f.2 = true) ∧
        t = { s with workers := t.workers, modules := t.modules, scb := t.scb }) ∧
    (s.fit.moduleOk k = true → m < 16 → Completes (.returnLight k m) s fun t =>
      (t.module k).glow.testBit m = true ∧ (∀ i, i ≠ m → (t.module k).glow.testBit i = (s.module k).glow.testBit i) ∧
      (∀ i, i ≠ k → t.module i = s.module i) ∧ t = { s with modules := t.modules, scb := t.scb }) ∧
    (s.fit.moduleOk k = true → m < 16 → (s.module k).glow.testBit m = true → s.glowClear k m = true → Completes (.glowRelease k m) s fun t =>
      (t.module k).glow.testBit m = false ∧ (t.module k).ramp.get 0 m = s.mgr.frame ∧
      (∀ i, i ≠ k → t.module i = s.module i) ∧ t = { s with modules := t.modules }) ∧
    (s.fit.lportOk q = true → (s.lport q).contact = false → Completes (.presenceContactClose q) s fun t =>
      (t.lport q).contact = true ∧
      (s.search.on = false → q < s.fit.workerPorts →
        ((s.lport q).checkRun = none → (t.lport q).checkDue = some s.mgr.frame) ∧
        ((s.lport q).checkRun.isSome = true → (t.lport q).changed = true)) ∧
      t.modules = s.modules ∧ t.circs = s.circs)

/-- R224 to R228, R362, Table 9.7: a worker that is silent or loses its supply is declared failed, and its sled's spare, where free, begins
its switch-in; 821 frames later, those in which its sled stood still not counted, the stash has been copied to the spare's image region and
the failed worker's flows move; at 823 the spare is in role with EV_WORKER_SPARED, and one that has failed itself by then takes no role; a
lane's object is reloaded from the bytes of its cocoon in the sled's store where it holds the cocoon. With which owner's secret a lane is
opened again is the model's choice (log entry 125). -/
def Obligations.WorkersAreReplaced : Prop :=
  ∀ (s : State) (w k obj : Nat) (o : MObj),
    let sp := (s.hub k).spare
    let v := workerCode k sp.site
    let z := workerCode k 16
    let s1 := s.updWorker v fun x => { x with objs := x.objs.erase obj }
    let held : Prop := ((s.hub k).store.any fun c => c.id == o.cocoon) = true ∧ o.state ≠ 1
    (s.workerUp w = true → s.mgr.mode ≠ .off → ∀ i, i = Instr.workerSilence w ∨ i = .workerSupplyFault w → Completes i s fun t =>
      (t.worker w).failed = true ∧ (t.worker w).pwr = 0 ∧ (t.worker w).keys = Tab.empty ∧
      (t.hub (sledOf w)).failed.testBit (siteOf w) = true ∧ t.mem = s.mem ∧
      (siteOf w ≠ 16 → s.spareFree (sledOf w) = true → (t.hub (sledOf w)).spare =
        { inUse := false, site := siteOf w, phase := 1, since := s.mgr.frame, late := 0, copied := false })) ∧
    (sp.phase = 1 → sp.copied = false → s.paused [k] = false → s.workerUp z = true → sp.since + sp.late + 821 ≤ s.mgr.frame →
      Completes (.stashCopyEnd k) s fun t =>
        (t.hub k).spare = { sp with copied := true } ∧ (t.worker v).flowsTo = some z ∧
        t = { s with hubs := t.hubs, workers := t.workers, mem := t.mem, keyTag := t.keyTag } ∧
        (∀ p, (s.hub k).stash.find? (fun x => x.w == v) = some p →
          t.mem = (s.writeBank z (s.worker z).bank1 p.id).mem ∧ t.keyTag = (s.writeBank z (s.worker z).bank1 p.id).keyTag)) ∧
    (sp.phase = 1 → sp.copied = true → s.workerUp z = true → sp.since + sp.late + 823 ≤ s.mgr.frame → Completes (.spareReady k) s fun t =>
      (t.hub k).spare.inUse = true ∧ (sp.site, 16) ∈ (t.hub k).inRole ∧
      ∀ i, i < s.fit.sleds → ∃ e ∈ (t.hub i).evq, e.code = 3) ∧
    (sp.phase = 1 → s.workerUp z = false → Completes (.spareReady k) s fun t => (t.hub k).spare.phase = 0 ∧ (t.hub k).inRole = (s.hub k).inRole) ∧
    (sp.phase = 2 → sp.site ≠ 16 → s.moves z = true → (s.worker v).objs.get? obj = some o → Completes (.moundReload k obj) s fun t =>
      (t.worker v).objs.get? obj = none ∧
      (∀ u, held → s1.reloadLane z o (s.stored k o.cocoon) = some u → t.mem = u.mem ∧ (t.worker z).objs.get? obj =
        some { o with
          state := 2, jobPins := if o.secondary then 0 else s.jobRefs z obj, hostPins := 0, pend := 0, lastUse := (s.hub k).frame }) ∧
      (¬held ∨ s1.reloadLane z o (s.stored k o.cocoon) = none → t.worker z = s.worker z ∧ t.mem = s.mem) ∧
      t = { s with hubs := t.hubs, workers := t.workers, mem := t.mem, keyTag := t.keyTag })

/-- R239, R247, R370, R371: LACEWING_PLAN begins a plan by its kind; planning that ends holds the plan under a ticket, or fails; the held plan
is committed, cancelled, or discarded after 64 frames; an automatic request comes before the host's. That planning waits for an L-port that a
search uses, for up to 8 frames, is the model's choice (log entry 126). -/
def Obligations.PlansAreMadeAndCommitted : Prop :=
  ∀ (s : State) (c : Cmd) (p : Plan) (r : PlanReq) (rest : List PlanReq),
    let open_ : Prop := s.mgr.mode = .quiescent ∨ s.mgr.mode = .loaded ∨ s.mgr.mode = .running
    let asked (k : Nat) (ids : List Nat) : Plane :=
      { s.plane with
        st := 1
        req := some { kind := k, unit := c.unit, circs := ids, auto := false, quiet := c.quiet, since := s.mgr.frame, cmd := some c } }
    let q := s.makePlan r s.mgr.fresh
    let idle : Plane := { s.plane with st := 0, req := none, plan := none }
    (IsCmd c 0x60 → open_ → s.fit.lacewing = true → s.plane.st = 0 →
      (c.count = 0 → isMiddle c.unit = true → s.fit.tileOk c.unit = true →
        (c.sel = 0 → Completes (.lacewingPlanBypass c) s fun t => t = { s with plane := asked 0 [] }) ∧
        (c.sel = 1 → Completes (.lacewingPlanEvacuate c) s fun t => t = { s with plane := asked 1 [] }) ∧
        (c.sel = 2 → c.data = none → (s.tile c.unit).evacuated = true → Completes (.lacewingPlanRestore c) s fun t =>
          (t.tile c.unit).evacuated = false ∧ t.plane.st = 1 ∧ t = { s with plane := t.plane, tiles := t.tiles })) ∧
      (∀ d, 0 < c.count → c.count ≤ 4096 → c.unit = 0xFFFF → c.data = some d → d.length = 2 * c.count → idsOk c = true →
        (c.sel = 0 → Completes (.lacewingPlanBypass c) s fun t => t = { s with plane := asked 0 ((list16 d).mergeSort (· ≤ ·)) }) ∧
        (c.sel = 2 → Completes (.lacewingPlanRestore c) s fun t => t = { s with plane := asked 2 ((list16 d).mergeSort (· ≤ ·)) }))) ∧
    (s.plane.req = some r → s.plane.st = 1 → s.planWaits r = false → r.kind ≠ 4 → r.auto = false → r.cmd = some c → c.data2.isSome = true →
      Completes .planComplete s fun t =>
        if q.status = 0 then
          t.plane = { s.plane with st := 2, ticket := s.host.nextTicket, plan := some q, planAt := s.mgr.frame, planStamp := s.plane.stamp } ∧
          t.host.nextTicket = s.host.nextTicket % 65535 + 1
        else t.plane = idle ∧ t.host.nextTicket = s.host.nextTicket) ∧
    (s.plane.st = 2 → s.plane.planAt + 64 ≤ s.mgr.frame → Completes .planExpiry s fun t => t = { s with plane := idle }) ∧
    (IsCmd c 0x61 → open_ → s.fit.lacewing = true → s.plane.st = 2 → s.plane.ticket = c.id → s.plane.stamp = s.plane.planStamp →
      s.plane.plan = some p → Completes (.lacewingCommit c) s fun t =>
        t.plane.st = 3 ∧ t.plane.plan = none ∧ (∃ o ∈ t.plane.ops, o.plan = p ∧ o.commit = s.mgr.frame + 1 ∧ o.wave = 0 ∧ o.cmd = some c) ∧
        t = { s.interim c with plane := t.plane }) ∧
    (IsCmd c 0x62 → open_ → s.fit.lacewing = true → s.plane.st = 2 → s.plane.ticket = c.id → Completes (.lacewingCancel c) s fun t =>
      t = ({ s with plane := idle } : State).final c 0) ∧
    (s.plane.autos = r :: rest → s.plane.st ≠ 3 → (∀ x, s.plane.req = some x → x.auto = false) → open_ ∨ s.mgr.mode = .passage →
      Completes .automaticRequest s fun t =>
        t.plane = { s.plane with
          st := 1, req := some { r with since := s.mgr.frame, quiet := s.plane.quietOnly }, plan := none, autos := rest } ∧
        (s.plane.st ≠ 1 → t = { s with plane := t.plane }) ∧
        ∀ x, s.plane.st = 1 → s.plane.req = some x → t = { s.final? x.cmd 0x42 with plane := t.plane })

/-- R221, R242, R243, R245, R249, R371: a wave that is due changes its elements; a circuit of it that is not live is set up from this frame,
and a live one that the report lists is in a hit; a circuit that the plan was asked for and could not set up is DOWN; an automatic plan whose
inputs have changed before its commit is planned again; a parked plane has every element parked. That the circuits not set up are DOWN at
wave 0 is the model's choice (log entry 138). -/
def Obligations.WavesAreApplied : Prop :=
  ∀ (s : State) (wave : Nat) (o : PlaneOp),
    (s.plane.ops.find? (fun q => q.wave == wave && decide (wave < 4) && decide (q.commit + 96 * wave ≤ s.mgr.frame)) = some o →
      (wave ≠ 0 ∨ o.auto = false ∨ s.plane.stamp = s.plane.planStamp → Completes (.waveApply wave) s fun t =>
        (∀ x ∈ o.pendingElems, x.1 = wave →
          (∀ y ∈ o.pendingElems, y.1 = wave → y.2.1 = x.2.1 → y.2.2.1 = x.2.2.1 → y = x) →
          (t.tile x.2.1).elems.get Elem.init x.2.2.1 = x.2.2.2) ∧
        (∀ c, (c, wave) ∈ o.waveOf → (s.circ c).live = false → (t.circ c).state = 1 ∧ (t.circ c).setupAt = s.mgr.frame) ∧
        (∀ c d, (c, wave) ∈ o.waveOf → (s.circ c).live = true → o.plan.report.find? (fun z => z.circuit == c) = some d → d.reason ≠ 3 →
          (t.circ c).state = 4 ∧ (t.circ c).hitTo = s.mgr.frame + d.hit) ∧
        (∀ c ∈ o.plan.asked, wave = 0 → c ∉ o.plan.circs → (s.circ c).standing = false → (∀ n, (c, n) ∉ o.waveOf) → (t.circ c).state = 5) ∧
        (∃ q ∈ t.plane.ops, q.wave = wave + 1 ∧ q.plan = o.plan) ∧
        (wave ≠ 0 ∨ (∀ c ∈ o.plan.asked, c ∈ o.plan.circs ∨ (s.circ c).standing = true ∨ (s.circ c).state = 5) →
          t = { s with tiles := t.tiles, circs := t.circs, plane := t.plane })) ∧
      (wave = 0 → o.auto = true → s.plane.stamp ≠ s.plane.planStamp → Completes (.waveApply wave) s fun t =>
        t.plane.st = 1 ∧ o ∉ t.plane.ops ∧
        (∃ r, t.plane.req = some r ∧ r.kind = o.plan.kind ∧ r.circs = o.plan.asked ∧ r.auto = true) ∧ t = { s with plane := t.plane })) ∧
    (s.mgr.parkDue = true → Completes .planePark s fun t =>
      (∀ x, (t.tile x).elems = Tab.empty ∧ (t.tile x).evacuated = false) ∧ t.mgr = { s.mgr with parkDue := false } ∧
      t = { s with tiles := t.tiles, mgr := t.mgr, plane := t.plane })

/-- R244, R248: loss above a limit tears a circuit with cause 6h; excess in a segment is reported, and above 3 dB on a plane fiber takes the
fiber out of use and tears the circuit; a tile whose driver is silent or whose supply is out of limits is failed and its circuits are
torn; in Service the technician clears a failed unit. R251 to R254, R279: a fixed laser whose power or lock fails, read from an input that is
not open, is no longer live, and EV_LAMBDA_DEGRADED is raised; a spare starts for it, or with none left the module fails with every laser at glow and its circuits are torn; an end of a circuit
it feeds goes to 7-λ mode; a spare that locks makes the wavelength live again, with EV_LASER_SPARED. -/
def Obligations.PlaneFaultsAreHandled : Prop :=
  (∀ (s : State) (c x seg excess loss i m : Nat),
     let y := s.circ c
     (s.mgr.mode ≠ .limp → y.live = true → (y.state = 3 ∧ 350 + 100 * y.qclass < loss) ∨ 700 + 100 * y.qclass < loss →
       Completes (.lossOfLock c loss) s fun t =>
         (t.circ c).state = 6 ∧ (∃ z, (t.circ c).tear = some z ∧ z.cause = 6) ∧ ∀ d, d ≠ c → t.circ d = s.circ d) ∧
     (y.standing = true → y.state ≠ 7 → 1 ≤ seg → seg ≤ 8 →
       (excess ≤ 300 → Completes (.segmentFault c seg excess) s fun t =>
         t.tile (s.segmentTile c seg) = { s.tile (s.segmentTile c seg) with
           excess := if 100 < excess then (s.tile (s.segmentTile c seg)).excess.set (8 * c + seg - 1) (excess / 10)
             else (s.tile (s.segmentTile c seg)).excess.erase (8 * c + seg - 1) } ∧
         (∀ z, z ≠ s.segmentTile c seg → t.tile z = s.tile z) ∧ t = { s with tiles := t.tiles }) ∧
       (300 < excess → seg = 3 → Completes (.segmentFault c seg excess) s fun t =>
         ((s.fit.edgeOf y.src).1, y.middle) ∈ t.plane.fiberIn ∧ (t.circ c).state = (if s.plane.autoBypass then 6 else 5)) ∧
       (300 < excess → seg = 6 → Completes (.segmentFault c seg excess) s fun t =>
         (y.middle, (s.fit.edgeOf y.dst).1) ∈ t.plane.fiberOut ∧ (t.circ c).state = (if s.plane.autoBypass then 6 else 5)) ∧
       (300 < excess → seg ≠ 3 → seg ≠ 6 → s.fit.tileOk (s.segmentTile c seg) = true →
         2 ≤ ((s.tile (s.segmentTile c seg)).faultsWith s.mgr.frame c).length → Completes (.segmentFault c seg excess) s fun t =>
           (t.tile (s.segmentTile c seg)).failed = true)) ∧
     (s.mgr.mode ≠ .off → s.fit.tileOk x = true → (s.tile x).failed = false → ∀ r, r = Instr.tileDriverSilent x ∨ r = .tileSupplyFault x →
       Completes r s fun t =>
         (t.tile x).failed = true ∧ (t.tile x).verify = none ∧ t.mem = s.mem ∧
         ∀ d ∈ s.tileCircs x, (s.circ d).standing = true → (t.circ d).state = if isMiddle x ∧ s.plane.autoBypass then 6 else 5) ∧
     (s.mgr.mode = .service →
       Completes (.serviceClear (.tile x)) s (fun t =>
         t.tile x = { s.tile x with failed := false, excess := Tab.empty, faultLog := [] } ∧ (∀ z, z ≠ x → t.tile z = s.tile z) ∧
         t = { s with tiles := t.tiles, plane := t.plane }) ∧
       Completes (.serviceClear (.fiberIn i m)) s (fun t =>
         (i, m) ∉ t.plane.fiberIn ∧ (∀ f, f ≠ (i, m) → (f ∈ t.plane.fiberIn ↔ f ∈ s.plane.fiberIn)) ∧ t = { s with plane := t.plane }) ∧
       Completes (.serviceClear (.fiberOut m i)) s (fun t =>
         (m, i) ∉ t.plane.fiberOut ∧ (∀ f, f ≠ (m, i) → (f ∈ t.plane.fiberOut ↔ f ∈ s.plane.fiberOut)) ∧ t = { s with plane := t.plane }) ∧
       Completes (.serviceClear (.module x)) s (fun t =>
         (t.module x).failed = false ∧ (t.module x).live = 255 ∧ (t.module x).degraded = 15 ∧ (∀ z, z ≠ x → t.module z = s.module z) ∧
         t = { s with modules := t.modules, plane := t.plane }))) ∧
  (∀ (s : State) (k lam reason c : Nat) (b : Bool) (p : Sparing) (rest : List Sparing), s.fit.moduleOk k = true →
     let x := s.module k
     (x.failed = false → lam < 8 → x.live.testBit lam = true → s.mgr.mode ≠ .off → reason = 1 ∨ reason = 2 → s.laserBlind k lam reason = false →
       Completes (.laserFailure k lam reason) s fun t =>
       (t.module k).live.testBit lam = false ∧ (t.module k).degraded = lam ∧
       (∀ i, i < s.fit.sleds → ∃ e ∈ (t.hub i).evq, e.code = 7) ∧
       (∀ n l, x.sparesFree = n :: l → (t.module k).failed = false ∧ { lam := lam, spare := n, since := s.mgr.frame } ∈ (t.module k).sparing) ∧
       (x.sparesFree = [] → (t.module k).failed = true ∧ (t.module k).glowAll = true ∧
         ∀ d, (s.circ d).standing = true → fedBy k (s.circ d).src = true → (t.circ d).state = 6)) ∧
     (x.sparing = p :: rest → Completes (.spareLaserLock k) s fun t =>
       (t.module k).live.testBit p.lam = true ∧ (t.module k).sparing = rest ∧
       (p.spare = 8 → (t.module k).sub8 = p.lam) ∧ (p.spare = 9 → (t.module k).sub9 = p.lam) ∧
       ∀ i, i < s.fit.sleds → ∃ e ∈ (t.hub i).evq, e.code = 8) ∧
     ((s.circ c).live = true → fedBy k (s.circ c).src = true → x.sparing ≠ [] → (if b then (s.circ c).rx7 else (s.circ c).tx7) = false →
       Completes (.sevenLambdaSwitch c b) s fun t =>
         t.circ c = (if b then { s.circ c with rx7 := true } else { s.circ c with tx7 := true, txBack := false }) ∧
         (∀ d, d ≠ c → t.circ d = s.circ d) ∧ t = { s with circs := t.circs }))

/-- R258, R262 to R265, R273: at a frame of its engine a cell's outputs of the frame before are applied; a cell that is OFF puts out nothing,
one in HOLD its last power; a CLOSED one moves its history on and stays within its power limits; a module's power set-point moves by at
most 0.05 dB. R261, R270, R275: a cell that follows the sequence, a heater whose element is routed among them, goes from OPEN to PRIME at
S + 12 and to CLOSED at S + 76; LOCKED changes after 16
frames within or beyond the tolerance; a condition that has held for 8 frames puts the cell into HOLD and raises EV_LOOP_IMPLAUSIBLE;
after 64 frames it retries. -/
def Obligations.LoopCellsRun : Prop :=
  (∀ (s : State) (e : Engine) (m : LoopMeas) (h : Nat), s.mgr.mode ≠ .off → s.fit.engineOk e = true → h < engineCells e →
     (∀ w, e = .ring w → s.workerUp w = true) → Completes (.loopCellFrame e m) s fun t =>
       let c := s.cell e h
       let d := t.cell e h
       d.dac = c.nextDac ∧ d.power = c.nextPower ∧
       (c.bumpless = none → d.mode = 0 → d.nextPower = 0) ∧
       (c.bumpless = none → d.mode = 4 → d.nextPower = c.nextPower) ∧
       (c.bumpless = none → d.mode = 3 →
         d.u2 = c.u1 ∧ d.u3 = c.u2 ∧ d.e2 = c.e1 ∧ d.e3 = c.e2 ∧ d.e1.natAbs ≤ 8388608 ∧ d.u1.natAbs ≤ 8388608 ∧
         d.nextPower ≤ max d.rc.umin (min 50000 d.rc.umax) ∧ d.rc.umin ≤ d.nextPower) ∧
       (∀ k, e = .module k → (s.module k).glowAll = false → s.mgr.mode = .quiescent ∨ s.mgr.mode = .loaded ∨ s.mgr.mode = .running →
         ((t.module k).power - (s.module k).power).natAbs ≤ 5)) ∧
  (∀ (s : State) (e : Engine) (h : Nat), s.fit.engineOk e = true → h < engineCells e →
     let c := s.cell e h
     let k := s.engineFrame e
     (∀ x, e = .tile x → s.inSequence e h = s.heaterRouted x h) ∧
     (s.loopsRun = true → s.inSequence e h = true →
       (c.mode = 1 → c.bumpless = none → c.setupAt + 12 ≤ k → Completes (.cellSequenceStep e h) s fun t =>
         (t.cell e h).mode = 2 ∧ (∀ g, g ≠ h → t.cell e g = s.cell e g) ∧
         t = { s with tiles := t.tiles, modules := t.modules, workers := t.workers }) ∧
       (c.mode = 2 → c.setupAt + 76 ≤ k → Completes (.cellSequenceStep e h) s fun t =>
         (t.cell e h).mode = 3 ∧ (∀ g, g ≠ h → t.cell e g = s.cell e g) ∧
         t = { s with tiles := t.tiles, modules := t.modules, workers := t.workers })) ∧
     (c.mode = 3 → c.locked = false → 16 ≤ c.within → Completes (.cellLockChange e h) s fun t =>
       t.cell e h = { c with locked := true } ∧ ∀ g, g ≠ h → t.cell e g = s.cell e g) ∧
     (c.mode = 3 → c.locked = true → 16 ≤ c.beyond → Completes (.cellLockChange e h) s fun t =>
       t.cell e h = { c with locked := false } ∧ ∀ g, g ≠ h → t.cell e g = s.cell e g) ∧
     (s.loopsRun = true → c.mode = 2 ∨ c.mode = 3 → c.reasons ≠ 0 → Completes (.implausibilityDeclared e h) s fun t =>
       (t.cell e h).mode = 4 ∧ (t.cell e h).impl = true ∧ (t.cell e h).reason = c.reasons ∧ (t.cell e h).holdAt = some k ∧
       (t.cell e h).nextPower = c.nextPower ∧ (∀ i, i < s.fit.sleds → ∃ v ∈ (t.hub i).evq, v.code = 0x0D)) ∧
     (∀ f, c.holdAt = some f → s.loopsRun = true → c.mode = 4 → f + 64 ≤ k → c.retries < 3 → Completes (.cellRetry e h) s fun t =>
       (t.cell e h).mode = 1 ∧ (t.cell e h).holdAt = none ∧
       (t.cell e h).lastRetry = some k ∧ ∀ g, g ≠ h → t.cell e g = s.cell e g))

/-- R272, R277, R279, R282: an input that has converted OPEN twice in a row is declared open, with EV_SENSOR_OPEN, and its laser's CLOSED
cells hold; after 64 valid conversions it is used again; the light-budget input that is invalid keeps its level; a trace trigger starts
the POST frames, or stops the trace where POST is 0. R280, R281: LOOP_TUNE, in Service on cells that carry nothing in use, puts its cells
into TUNE; a cell whose periods agree returns to OPEN with RESULT 1, and one that reaches its limit without them with RESULT 2. -/
def Obligations.CellsAreJudgedAndTuned : Prop :=
  (∀ (s : State) (e : Engine) (n x : Nat),
     let i := (s.sensors e).get Sensor.init n
     (s.fit.engineOk e = true → (∀ w, e ≠ .ring w) →
       (i.isOpen = false → 2 ≤ i.openRun → Completes (.sensorOpen e n) s fun t =>
         ((t.sensors e).get Sensor.init n).isOpen = true ∧ (∀ g, g ≠ n → (t.sensors e).get Sensor.init g = (s.sensors e).get Sensor.init g) ∧
         (∀ k, e = .module k → ∀ h ∈ laserCells (n / 2), (s.cell e h).mode = 3 → (t.cell e h).mode = 4) ∧
         ∀ k, k < s.fit.sleds → ∃ v ∈ (t.hub k).evq, v.code = 0x0C) ∧
       (i.isOpen = true → 64 ≤ i.okRun → Completes (.sensorRestored e n) s fun t =>
         ((t.sensors e).get Sensor.init n).isOpen = false ∧ (∀ g, g ≠ n → (t.sensors e).get Sensor.init g = (s.sensors e).get Sensor.init g) ∧
         t = { s with tiles := t.tiles, modules := t.modules })) ∧
     (s.light.valid = true → (if s.mgr.lbMode then 391 ≤ s.light.noEdge else 2600 < s.light.lastCode) → Completes .lightBudgetInvalid s fun t =>
       t.light = { s.light with valid := false } ∧ ∀ k, k < s.fit.sleds → ∃ v ∈ (t.hub k).evq, v.code = 0x0C) ∧
     (s.fit.tileOk x = true → (s.tile x).arm = true → (s.tile x).postLeft = none → (s.tile x).triggered = true →
       Completes (.traceTrigger x) s fun t =>
         t.tile x = (if (s.tile x).post = 0 then { s.tile x with arm := false, stopped := true }
           else { s.tile x with postLeft := some (s.tile x).post }) ∧
         (∀ y, y ≠ x → t.tile y = s.tile y) ∧ t = { s with tiles := t.tiles })) ∧
  (∀ (s : State) (c : Cmd) (e : Engine) (h : Nat) (d : List Byte) (z : Tune),
     (IsCmd c 0x73 → s.mgr.mode = .service → s.cmdEngine c = some e → c.count ≤ 64 → 1 ≤ c.aux → c.aux ≤ 4000 → 64 ≤ c.limit →
       c.limit ≤ 1024 → c.data = some d → d.length = 2 * c.count → (∀ g ∈ list16 d, g < engineCells e ∧ s.cellInUse e g = false) →
       Completes (.loopTune c) s fun t =>
         (∀ g ∈ list16 d, (t.cell e g).mode = 5 ∧ (t.cell e g).result = 0 ∧
           ∃ y, (t.cell e g).tune = some y ∧ y.amp = c.aux ∧ y.limit = c.limit ∧ y.frames = 0 ∧ y.cmd = c) ∧
         ∀ g, g ∉ list16 d → t.cell e g = s.cell e g) ∧
     ((s.cell e h).tune = some z →
       (z.limit ≤ z.frames → z.changes.length < 6 ∨ periodsAgree ((tunePeriods z.changes).take 4) = false → Completes (.tuneEnd e h) s fun t =>
         t.cell e h = { s.cell e h with mode := 1, tune := none, result := 2 } ∧ ∀ g, g ≠ h → t.cell e g = s.cell e g) ∧
       (6 ≤ z.changes.length → periodsAgree ((tunePeriods z.changes).take 4) = true → 0 < ((z.peaks.take 4).map fun a => a.natAbs).sum →
         Completes (.tuneEnd e h) s fun t =>
           (t.cell e h).mode = 1 ∧ (t.cell e h).tune = none ∧ (t.cell e h).result = 1 ∧ (t.cell e h).tuneA1 = 0x100000 ∧
           ∀ g, g ≠ h → t.cell e g = s.cell e g)))

/-- R289, R293, R294, R296 to R298: CAL_FACTORY on a part whose factory set is not sealed stores and seals the set that it has measured where
that is whole and every record passes, and leaves it unsealed where it is not; CAL_WRITE puts passing records into both copies under the
next generation, and counts those it rejects; what is written applies together at the part's boundary. R300 to R304: FIELD_VERIFY is
accepted for a tile or a worker port that is not under verify, in Running where a window is named for it; one that is due starts, a port's
with its loopback closed and its ring cells in HOLD, and a middle tile's that meets a live circuit ends BUSY; after 320 frames a tile is
parked and graded, a FAIL failing it; after 64 frames a port is graded and back in use. The layout of a payload is the model's
(log entry 130). -/
def Obligations.CalibrationIsKept : Prop :=
  (∀ (s : State) (c : Cmd) (e : Engine) (meas : List RecMeas) (d : List Byte),
     let recs := s.measured e meas
     (s.mgr.mode = .service → s.cmdEngine c = some e →
       (IsCmd c 0x70 → (s.cal e).sealed = false → s.partInUse e = false →
         (s.factoryPasses e recs = true → Completes (.calFactory c meas) s fun t =>
           t = ((s.interim c).updCal e fun x => { x with
             sealed := true, copyA := recs ++ x.copyA.filter (·.kind == 10), copyB := recs ++ x.copyB.filter (·.kind == 10)
             pending := true }).final c 0) ∧
         (s.factoryPasses e recs = false → Completes (.calFactory c meas) s fun t =>
           (t.cal e).sealed = false ∧ (t.cal e).copyA = (s.cal e).copyA ∧ (t.cal e).copyB = (s.cal e).copyB)) ∧
       (IsCmd c 0x71 → 0 < c.count → c.count ≤ 1024 → c.data = some d → d.length = 64 * c.count →
         ((∀ r ∈ calRecords c.count d, r.kind = 10 ∧ calReject 0 e (s.cal e).sealed r = none) → Completes (.calWrite c) s fun t =>
           let gen := ((s.cal e).gen + 1) % 2 ^ 32
           let kept := (calRecords c.count d).map fun r => recStamp r gen
           t = s.updCal e fun x =>
             { x with gen := gen, copyB := putRecords x.copyB kept, copyA := putRecords x.copyA kept, pending := true, cmd := some c }) ∧
         ((∀ r ∈ calRecords c.count d, r.kind ≠ 10) → Completes (.calWrite c) s fun t =>
           t.cal e = { s.cal e with rejects := min 255 ((s.cal e).rejects + c.count) }))) ∧
     (s.fit.engineOk e = true → (s.cal e).pending = true → Completes (.calApply e) s fun t =>
       t.cal e = { s.cal e with inForce := (s.cal e).usable, pending := false, cmd := none } ∧ t.mgr = s.mgr ∧ t.circs = s.circs)) ∧
  (∀ (s : State) (c : Cmd) (x q a b n : Nat) (lost : Bool) (v : Verify) (f : Nat),
     let p := s.endOf q
     let inWindow : Prop := s.mgr.mode = .running ∧ (s.windowFor c).isSome = true
     (IsCmd c 0x72 → s.windowIndexOk c = true → s.mgr.doze = none →
       (c.sel = 0 → s.fit.lacewing = true → c.unit < 104 → s.fit.tileOk c.unit = true → (s.tile c.unit).verify = none →
         (isMiddle c.unit = false ∧ (s.mgr.mode = .quiescent ∨ s.mgr.mode = .service)) ∨ (isMiddle c.unit = true ∧ (inWindow ∨
           (s.tileCircs c.unit = [] ∧ (s.mgr.mode = .quiescent ∨ s.mgr.mode = .loaded ∨ s.mgr.mode = .service)))) →
         Completes (.fieldVerifyTile c) s fun t =>
           (∃ z, (t.tile c.unit).verify = some z ∧ z.start = none ∧ z.cmd = c) ∧ (∀ y, y ≠ c.unit → t.tile y = s.tile y) ∧
           t = { s.interim c with tiles := t.tiles }) ∧
       (c.sel = 1 → s.fit.lportOk c.unit = true → c.unit < s.fit.workerPorts →
         s.mgr.mode = .quiescent ∨ s.mgr.mode = .loaded ∨ s.mgr.mode = .service ∨ inWindow →
         (s.worker (s.endOf c.unit).1).verify.get? (s.endOf c.unit).2 = none → Completes (.fieldVerifyPort c) s fun t =>
           (∃ z, (t.worker (s.endOf c.unit).1).verify.get? (s.endOf c.unit).2 = some z ∧ z.start = none ∧ z.cmd = c) ∧
           t = { s.interim c with workers := t.workers })) ∧
     ((s.tile x).verify = some v → s.verifyDue v = true →
       (s.tileCircs x = [] → v.edgeWait = false ∨ (s.search.on = false ∧ s.checkRunning = false) → Completes (.verifyStart false x) s fun t =>
         t.tile x = { s.tile x with verify := some { v with start := some s.mgr.frame }, verifying := true } ∧
         t = { s with tiles := t.tiles, plane := t.plane }) ∧
       (s.tileCircs x ≠ [] → v.edgeWait = false → Completes (.verifyStart false x) s fun t =>
         t.tile x = { s.tile x with verify := none } ∧ t = ({ s with tiles := t.tiles } : State).final v.cmd 0x42)) ∧
     ((s.worker p.1).verify.get? p.2 = some v → s.verifyDue v = true → s.workerUp p.1 = true → (s.hub (sledOf p.1)).started = true →
       Completes (.verifyStart true q) s fun t =>
         ((t.worker p.1).port p.2).loopback = true ∧ (∀ h ∈ ringCells p.2, (t.cell (.ring p.1) h).mode = 4) ∧
         (t.worker p.1).verify.get? p.2 = some { v with start := some (s.hub (sledOf p.1)).frame } ∧ t = { s with workers := t.workers }) ∧
     ((s.tile x).verify = some v → v.start = some f → lost = true ∨ f + 320 ≤ s.mgr.frame → Completes (.tileVerifyEnd x a b n q lost) s fun t =>
       (t.tile x).verify = none ∧ (t.tile x).verifying = false ∧ (∀ y, y ≠ x → t.tile y = s.tile y) ∧ t.circs = s.circs ∧
       (if lost then (t.tile x).verRes = 0 ∧ (t.tile x).failed = (s.tile x).failed ∧ (t.tile x).elems = (s.tile x).elems
        else (t.tile x).verRes = tileGrade a b n q ∧ (t.tile x).elems = Tab.empty ∧
          (tileGrade a b n q = 3 → (t.tile x).failed = true) ∧ (tileGrade a b n q ≠ 3 → (t.tile x).failed = (s.tile x).failed))) ∧
     ((s.worker p.1).verify.get? p.2 = some v → v.start = some f → f + 64 ≤ (s.hub (sledOf p.1)).frame →
       Completes (.portVerifyEnd q a b) s fun t =>
         ((t.worker p.1).port p.2).loopback = false ∧ (t.worker p.1).verify.get? p.2 = none ∧
         ((t.worker p.1).port p.2).verResult = portGrade a b (Config.snrLimit p.1 p.2 (s.portClass p.1 p.2)) ∧
         (t.lport q).verifyBad = decide (((t.worker p.1).port p.2).verResult = 3) ∧
         ∀ h ∈ ringCells p.2, (t.cell (.ring p.1) h).mode = 3))

/-- R65, R68, R145, R283, R317, Tables 6.3 and 7.5: WKR.PDCTL is latched for the next boundary, domain PD0 always on, and with FORCE set by
its own row; the conversion and drop counters are cleared by writing 1; the trace control starts its ring again; a doorbell write is one
arrival at e(48 + n) for each bit. R8, R43, R56, R266, R329: a write that reaches a register is done under its access types, and one that
the state refuses is recorded at the carrying hub; a mailbox word reads back; reading the low word of a set latches the high one for the
path, which a later read of the high word gives; a coefficient write waits for the boundary of the cell's next frame. -/
def Obligations.RegistersAreAccessed : Prop :=
  (∀ (s : State) (p : Path) (w n x i v mc : Nat), s.reaches p →
     let from_ : Stamp := { frame := (s.hub (sledOf w)).frame, at_ := s.cycleAt 0, scarab := [] }
     (s.workerUp w = true →
       ((s.worker w).powered 0 = true → s.gate (.worker w) 0x100 = 0 →
         Completes (.wkrPdctlOnWrite p w v) s (fun t =>
           t.worker w = { s.worker w with
             latched := some (((v % 4096) ||| 1) &&& s.fit.domainMask, v.testBit 31), latchAt := from_ } ∧
           (∀ y, y ≠ w → t.worker y = s.worker y) ∧ t = { s with workers := t.workers }) ∧
         Completes (.wkrPdctlForceWrite p w v) s fun t =>
           t.worker w = { s.worker w with
             latched := some (((v % 4096) ||| 1) &&& s.fit.domainMask, true), latchAt := from_ } ∧
           (∀ y, y ≠ w → t.worker y = s.worker y) ∧ t = { s with workers := t.workers }) ∧
       (n < 50 → (s.worker w).powered (clusterOf n) = true → s.gate (.worker w) (0x4000 + 0x100 * n + 0xC) = 0 →
         Completes (.stgCvtWrite p w n v) s fun t =>
           t.core w n = { s.core w n with
             sats := if v.testBit 0 then 0 else (s.core w n).sats, nans := if v.testBit 16 then 0 else (s.core w n).nans } ∧
           (∀ m, m ≠ n → t.core w m = s.core w m) ∧ t = { s with workers := t.workers }) ∧
       ((s.worker w).powered 0 = true → s.gate (.worker w) 0x304 = 0 → Completes (.wkrMemdropWrite p w v) s fun t =>
         t.worker w = { s.worker w with
           hostWr := if v.testBit 0 then 0 else (s.worker w).hostWr, voidWr := if v.testBit 16 then 0 else (s.worker w).voidWr } ∧
         (∀ y, y ≠ w → t.worker y = s.worker y) ∧ t = { s with workers := t.workers })) ∧
     (s.fit.tileOk x = true → s.gate (.tile x) 0x28 = 0 →
       Completes (.wvlTrctlWrite p x v) s (fun t =>
         t.tile x = { s.tile x with
           next := 0, wrapped := false, stopped := false, postLeft := none, arm := v.testBit 31, trig := bitsOf v 30 28
           trCells := bitsOf v 27 26, post := bitsOf v 23 12 } ∧
         (∀ y, y ≠ x → t.tile y = s.tile y) ∧ t = { s with tiles := t.tiles }) ∧
       (i < 2 → s.gate (.tile x) (0x20 + 4 * i) = 0 → Completes (.wvlTrselWrite p x i v) s fun t =>
         (if i = 0 then (t.tile x).trsel0 else (t.tile x).trsel1) = v % 1024 + bitsOf v 25 16 * 2 ^ 16 ∧
         (t.tile x).next = 0 ∧ (t.tile x).stopped = false ∧ (t.tile x).arm = (s.tile x).arm ∧
         (∀ y, y ≠ x → t.tile y = s.tile y) ∧ t = { s with tiles := t.tiles })) ∧
     (s.gate .scb 0x14 = 0 → Completes (.scbDoorbell p v mc) s fun t =>
       (∀ b, b < 16 → t.scb.live.get 0 (48 + b) = if v.testBit b then min 15 (s.scb.live.get 0 (48 + b) + 1) else s.scb.live.get 0 (48 + b)) ∧
       t.scb.mail = s.scb.mail ∧ t = { s with scb := t.scb })) ∧
  (∀ (s : State) (k a v be mc port o i h ofs : Nat) (b : Block) (e : Engine) (bytes : List Byte) (l : Latch) (p : Path),
     (s.hostReady k → s.linkPlace k a = some (b, o) → (s.regVal 0 b o).isSome = true →
       (s.gate b o = 0 → Completes (.registerWrite (.host k) a v be mc) s fun t => t = s.writeReg (some k) b o v be mc false) ∧
       (s.gate b o ≠ 0 → Completes (.registerWrite (.host k) a v be mc) s fun t =>
         (t.hub k).errCode = s.gate b o ∧ (t.hub k).errOffset = a % 2 ^ 24 ∧ (t.hub k).refused = min 65535 ((s.hub k).refused + 1) ∧
         OnlyHub k s t)) ∧
     (s.mgmtOpen port = true → s.spacePlace a = some (.scb, 0x40 + 4 * i) → i < 16 → s.gate .scb (0x40 + 4 * i) = 0 →
       Completes (.registerWrite (.mgmt port) a v 15 mc) s fun t =>
         t.scb.mail.get 0 i % 2 ^ 32 = v % 2 ^ 32 ∧ (∀ j, j ≠ i → t.scb.mail.get 0 j = s.scb.mail.get 0 j) ∧
         t = { s with scb := { s.scb with mail := t.scb.mail } }) ∧
     (s.hostReady k → s.linkPlace k a = some (b, o) → latchSet b o = none → Completes (.latchedRead (.host k) a mc) s fun t =>
       t = s.emit (.reg (.host k) a ((s.regVal mc b o).getD 0))) ∧
     (s.hostReady k → s.linkPlace k a = some (.hub i, 0x18) → Completes (.latchedRead (.host k) a mc) s fun t =>
       t.host.out = s.host.out ++ [.reg (.host k) a ((s.regVal mc (.hub i) 0x18).getD 0)] ∧
       { path := .host k, base := blockKey (.hub i) 0x18, vals := [(s.regVal mc (.hub i) 0x1C).getD 0] } ∈ t.host.latches ∧
       t = { s with host := { s.host with out := t.host.out, latches := t.host.latches } }) ∧
     (s.hostReady k → s.linkPlace k a = some (.hub i, 0x1C) →
       s.host.latches.find? (fun x => x.path == .host k && x.base == blockKey (.hub i) 0x18) = some l →
       Completes (.latchedRead (.host k) a mc) s fun t => t = s.emit (.reg (.host k) a (l.vals.getD 0 0))) ∧
     (s.reaches p → s.fit.engineOk e = true → h < engineCells e → s.cellPowered e h = true → s.gate (engineBlock e) 0x30000 = 0 → ofs < 48 →
       Completes (.coefficientWindowWrite p e h ofs bytes mc) s fun t =>
         (t.cell e h).latchAt.frame = s.cellFrame e ∧ (t.cell e h).rc = (s.cell e h).rc ∧ (t.cell e h).mode = (s.cell e h).mode ∧ (t.cell e h).latched.isSome = true ∧
         ∀ g, g ≠ h → t.cell e g = s.cell e g))

/-- R168, R331, Table 14.5a: through BAR2 a host writes and reads owner 0's lines in the clear; its writes to other owners' pages are
discarded and counted in HOSTWR; in Doze and Hold a tier read is completed with Completer Abort and a write refused, and in Bring-up a
read is an Unsupported Request and a write counted as discarded. R347, R348, Table 14.12: a management request is answered with its SEQ
and a status: 4Ah in Bring-up, 41h in Limp for REG_WRITE and COMMAND; one that repeats a SEQ is answered with the earlier reply and not
acted on. REG_READ answers the words, REG_WRITE writes one, COMMAND hands its record to the intake, SUBSCRIBE holds up to four
subscribers. R350, R353: from the end of stage A a message passes the transparent clock, its residence time added for Sync and Delay_Req
over Ethernet and UDP/IPv4; Katydid follows the better grandmaster, takes y clamped to 100 ppm and the offset from a Sync of its domain over
a transport that it is set to, and loses its lock after 8 intervals without one. That a datagram to another address or UDP port is
ignored, and how a grandmaster is known again, are the model's choices (log entries 143 and 144). -/
def Obligations.OutsidersAreServed : Prop :=
  (∀ (s : State) (k x n mc : Nat) (b : List Byte) (errs : List (Nat × Nat)), k < s.fit.sleds → (s.hub k).linkUp = true →
     let a := (s.hub k).bar2Base * 2 ^ 36 + x % 2 ^ 36
     (addrSpace a < 2 → s.mgr.mode ∉ [.off, .bringUp, .doze, .hold] → a % 64 = 0 → s.tierAnswers a = true →
       (b.length = 64 → s.pageOwner (addrWorker a) (addrSpace a) (addrOffset a) = 0 → Completes (.bar2Access k x (.write b) mc) s fun t =>
         t = s.tierWrite a b) ∧
       (b.length = 64 → s.pageOwner (addrWorker a) (addrSpace a) (addrOffset a) ≠ 0 → Completes (.bar2Access k x (.write b) mc) s fun t =>
         (t.worker (addrWorker a)).hostWr = min 65535 ((s.worker (addrWorker a)).hostWr + 1) ∧ t = { s with workers := t.workers }) ∧
       ((∀ i, i < 64 → s.tierAnswers (a + i) = true ∧ s.pageOwner (addrWorker (a + i)) (addrSpace (a + i)) (addrOffset (a + i)) = 0) →
         Completes (.bar2Access k x (.read 64 []) mc) s fun t => t = s.emit (.bytes k a (s.tierBytes a 64)))) ∧
     (addrSpace a < 2 → s.mgr.mode = .doze ∨ s.mgr.mode = .hold →
       Completes (.bar2Access k x (.read n errs) mc) s (fun t => t = s.emit (.pcie k 3)) ∧
       Completes (.bar2Access k x (.write b) mc) s fun t =>
         (t.hub k).errCode = 0x42 ∧ (t.hub k).refused = min 65535 ((s.hub k).refused + 1) ∧ t.mem = s.mem ∧ t.workers = s.workers) ∧
     (s.mgr.mode = .bringUp →
       Completes (.bar2Access k x (.read n errs) mc) s (fun t => t = s.emit (.pcie k 2)) ∧
       Completes (.bar2Access k x (.write b) mc) s fun t =>
         (t.hub k).discards = min 65535 ((s.hub k).discards + 1) ∧ OnlyHub k s t)) ∧
  (∀ (s : State) (d : Datagram), s.isRequest d = true → s.mgr.mode ≠ .off →
     let new : Prop := ∀ x ∈ s.host.seqs, ¬(x.1 = d.client ∧ x.2.1 = d.seq)
     let open_ : Prop := s.mgr.mode ≠ .bringUp ∧ s.mgr.mode ≠ .limp
     let said (status : Nat) (ws : List Nat) (t : State) : Prop :=
       t.host.out = s.host.out ++ [.reply d.client d.seq status ws] ∧
       (d.client, d.seq, some (.reply d.client d.seq status ws)) ∈ t.host.seqs ∧
       (∀ x ∈ s.host.seqs, x.1 ≠ d.client → x ∈ t.host.seqs)
     let only (status : Nat) (t : State) : Prop := said status [] t ∧ t = { s with host := { s.host with out := t.host.out, seqs := t.host.seqs } }
     let all (P : State → Prop) : Prop :=
       Completes (.regRead d) s P ∧ Completes (.regWrite d) s P ∧ Completes (.command d) s P ∧ Completes (.subscribe d) s P ∧
       Completes (.unsubscribe d) s P
     (new → s.mgr.mode = .bringUp → all (only 0x4A)) ∧
     (new → s.mgr.mode = .limp → Completes (.regWrite d) s (only 0x41) ∧ Completes (.command d) s (only 0x41)) ∧
     (∀ pre o rest, s.host.seqs = pre ++ (d.client, d.seq, some o) :: rest → (∀ x ∈ pre, ¬(x.1 = d.client ∧ x.2.1 = d.seq)) →
       all fun t => t = { s with host := { s.host with out := s.host.out ++ [o] } }) ∧
     (new → s.mgr.mode ≠ .bringUp → d.count = 1 → Completes (.regRead d) s fun t =>
       (∀ b o, s.spacePlace d.addr = some (b, o) → latchSet b o = none → said 0 [(s.regVal d.mc b o).getD 0] t) ∧
       (s.spacePlace d.addr = none → said 0 [0] t) ∧
       t = { s with host := { s.host with out := t.host.out, seqs := t.host.seqs, latches := t.host.latches } }) ∧
     (∀ b o v, new → open_ → d.words = [v] → s.spacePlace d.addr = some (b, o) → (s.regVal 0 b o).isSome = true →
       (s.gate b o ≠ 0 → Completes (.regWrite d) s (only (s.gate b o))) ∧
       (s.gate b o = 0 → Completes (.regWrite d) s fun t =>
         t.host.out = (s.writeReg none b o v 15 d.mc false).host.out ++ [.reply d.client d.seq 0 []] ∧
         t = { s.writeReg none b o v 15 d.mc false with host := t.host })) ∧
     (∀ c, new → open_ → d.cmd = some c → commandDataSize c ≤ 8192 → Completes (.command d) s fun t =>
       t.host.intake = s.host.intake ++ [(d.mc, { c with src := .mgmt d.client d.seq })] ∧ (d.client, d.seq, none) ∈ t.host.seqs ∧
       t = { s with host := { s.host with intake := t.host.intake, seqs := t.host.seqs } }) ∧
     (∀ c, new → open_ → d.cmd = some c → 8192 < commandDataSize c → Completes (.command d) s (only 0x40)) ∧
     (new → s.mgr.mode ≠ .bringUp → d.client ∉ s.host.subs →
       (s.host.subs.length < 4 → Completes (.subscribe d) s fun t =>
         said 0 [] t ∧ t = { s with host := { s.host with out := t.host.out, seqs := t.host.seqs, subs := s.host.subs ++ [d.client] } }) ∧
       (4 ≤ s.host.subs.length → Completes (.subscribe d) s (only 0x42))) ∧
     (new → s.mgr.mode ≠ .bringUp → Completes (.unsubscribe d) s fun t =>
       said 0 [] t ∧ (∀ c, c ∈ t.host.subs ↔ c ∈ s.host.subs ∧ c ≠ d.client) ∧
       t = { s with host := { s.host with out := t.host.out, seqs := t.host.seqs, subs := t.host.subs } })) ∧
  (∀ (s : State) (d : Datagram), s.isRequest d = false → ∀ i : Instr,
     i = .regRead d ∨ i = .regWrite d ∨ i = .command d ∨ i = .subscribe d ∨ i = .unsubscribe d → Completes i s fun t => t = s) ∧
  (∀ (s : State) (m : PtpMsg) (n tr : Nat) (th y : Int) (ds : List Nat), s.mgr.mode ≠ .off → s.mgr.capFixed = true →
     (Completes (.ptpTransit m) s fun t =>
       t = { s with host := { s.host with out := s.host.out ++
         [.ptp (if m.kind < 2 ∧ m.transport < 2 then m.correction + (m.egress - m.ingress : Int) else m.correction)
           (decide (m.kind < 2) && decide (m.transport = 1))] } }) ∧
     (s.ktd.enable = true → tr < 2 → s.ktd.transport.testBit tr = true →
       (s.ktd.master.isSome = true → Completes (.syncMessage s.ktd.domain tr th y) s fun t =>
         t.ktd.y = max (-100000) (min 100000 y) ∧ t.ktd.pending = some th ∧ t.ktd.locked = true ∧
         t = { s with ktd := { s.ktd with y := t.ktd.y, pending := t.ktd.pending, locked := t.ktd.locked } }) ∧
       (n < 2 → Completes (.announceMessage n s.ktd.domain tr ds) s fun t =>
         (s.ktd.master = none → t.ktd.master = some ds) ∧
         (∀ old, s.ktd.master = some old → ds.getLast? = old.getLast? → t.ktd.master = some ds) ∧
         (∀ old, s.ktd.master = some old → ds.length = old.length → ds.getLast? ≠ old.getLast? →
           t.ktd.master = some (if ds < old then ds else old)) ∧
         t = { s with ktd := { s.ktd with master := t.ktd.master } })) ∧
     (Completes .syncTimeout s fun t => t = { s with ktd := { s.ktd with locked := false } }))

/-- R99, R343 to R345: JOB_START that passes its checks queues the job under the next handle; during a drain it waits; at J0 its first step
starts on each sled with its pins; after its last step and barrier it completes; JOB_ABORT takes a queued job out and stops a running one.
R346: DATA_IMPORT and DATA_EXPORT of an owner's pages are accepted, an export under the owner's next count; an import whose every page is
authentic is written, and one with a page that is not leaves memory as it was and ends with 4Bh; an export gives its sealed pages back.
R356 to R358, R361, R366: a trigger stops the group on its sled and sends STOP to the others; a sled that receives STOP is stopped; once
all have stopped and the repairs are over the rollback is decided for a step at least 3 ahead, or the job is lost; at the boundary before
it each sled is free again, and at it each replayed stride is reported. -/
def Obligations.JobsRun : Prop :=
  (∀ (s : State) (c : Cmd) (b : List Byte) (g k h code : Nat) (j : Job),
     let d := JobDesc.ofBytes b
     (IsCmd c 0x50 → c.data = some b → s.mgr.mode = .loaded ∨ s.mgr.mode = .running →
       (s.draining = true → Completes (.jobStart c) s fun t => t = { s with img := { s.img with waitJobs := s.img.waitJobs ++ [c] } }) ∧
       (s.draining = false → firstFail (s.jobChecks b) = some code → Completes (.jobStart c) s fun t => t = s.final c code) ∧
       (s.draining = false → firstFail (s.jobChecks b) = none → Completes (.jobStart c) s fun t =>
         t.host.nextHandle = (s.host.nextHandle + 1) % 0xFFFF ∧
         (∃ x, (x ∈ (t.group d.group).queue ∨ (t.group d.group).running = some x) ∧ x.handle = s.host.nextHandle ∧ x.cmd = c ∧
           x.steps = d.steps ∧ x.mound = d.mound ∧ x.args = d.args) ∧
         (∀ f, f ≠ d.group → t.group f = s.group f) ∧ t.mem = s.mem ∧ t.workers = s.workers)) ∧
     ((s.group g).running = some j →
       ((s.hub k).started = true → (s.hub k).isSlip = false → (s.hub k).step = j.stepAt → k ∈ s.groupSleds g → k ∉ j.begun →
         k ∉ (s.group g).sledsStopped → (s.group g).abortReason = 0 → s.moundStill g j.mound = true → Completes (.jobFirstStep g k) s fun t =>
           (∃ y, (t.group g).running = some y ∧ y.begun = j.begun ++ [k] ∧ y.handle = j.handle ∧ y.stepAt = j.stepAt) ∧
           t.host = s.host ∧ t.hubs = s.hubs ∧ t.mem = s.mem) ∧
       (j.steps ≤ j.ran → (∀ w ∈ s.participants g, (j.stepAt + j.steps) / s.strideOf g ≤ (s.group g).done.get 0 w) →
         Completes (.jobEnd g) s fun t =>
           (∀ x, (t.group g).running = some x → ∃ q ∈ (s.group g).queue, x.handle = q.handle ∧ x.cmd = q.cmd) ∧
           (∀ l q n m, j.cmd.src = .host l q n m → ∃ y ∈ (t.hub l).cpls, y.cmd = j.cmd ∧ y.interim = false ∧ y.status = 0 ∧
             y.result = [(4, j.steps), (2, j.total)]) ∧ t.mem = s.mem)) ∧
     (IsCmd c 0x51 → s.mgr.mode = .quiescent ∨ s.mgr.mode = .loaded ∨ s.mgr.mode = .running ∨ s.mgr.mode = .passage →
       (s.groupOfHandle c.id = some h → (s.group h).abortReason = 0 → s.allStopped h = false → Completes (.jobAbort c) s fun t =>
         (t.group h).abortReason = 255 ∧ (t.group h).stopped = true ∧ (t.group h).running = (s.group h).running ∧ t.mem = s.mem) ∧
       (s.groupOfHandle c.id = none → s.queueOfHandle c.id = some h → Completes (.jobAbort c) s fun t =>
         (t.group h).queue = (s.group h).queue.filter (fun x => x.handle != c.id) ∧ (t.group h).running = (s.group h).running ∧
         t.mem = s.mem) ∧
       (s.groupOfHandle c.id = none → s.queueOfHandle c.id = none → Completes (.jobAbort c) s fun t => t = s.final c 0x40))) ∧
  (∀ (s : State) (c : Cmd) (b : List Byte) (tag : Nat) (z : Transfer),
     (s.mgr.mode = .loaded ∨ s.mgr.mode = .running → s.transferRanges c = true → s.transferOwned c = true →
       (IsCmd c 0x58 → c.data = some b → b.length = c.len / 4096 * 4112 → Completes (.dataImport c) s fun t =>
         t = { s.interim c with mound := { s.mound with transfers := s.mound.transfers ++ [{ cmd := c, import_ := true, count := 0 }] } }) ∧
       (IsCmd c 0x59 → (∀ cl q, c.src = .mgmt cl q → c.len / 4096 * 4112 ≤ 8192) → Completes (.dataExport c) s fun t =>
         let n := s.owners.exports.get 0 c.unit
         t.mound = { s.mound with transfers := s.mound.transfers ++ [{ cmd := c, import_ := false, count := n }] } ∧
         t.owners.exports.get 0 c.unit = n + 1 ∧ (∀ o, o ≠ c.unit → t.owners.exports.get 0 o = s.owners.exports.get 0 o) ∧
         t = { s.interim c with mound := t.mound, owners := { s.owners with exports := t.owners.exports } })) ∧
     (s.mound.transfers.find? (fun u => u.cmd.tag == tag) = some z → s.mgr.mode ∉ [.off, .bringUp, .doze, .hold] →
       (z.import_ = true → (∃ p ∈ s.openPages z.cmd, p.2 = none) → Completes (.dataTransferEnd tag) s fun t =>
         t = ({ s with mound := { s.mound with transfers := s.mound.transfers.filter fun u => u != z } } : State).final z.cmd 0x4B) ∧
       (z.import_ = true → (∀ p ∈ s.openPages z.cmd, p.2.isSome = true) → Completes (.dataTransferEnd tag) s fun t =>
         t.mem = ((s.openPages z.cmd).foldl (fun u p => u.tierWrite p.1 (p.2.getD [])) s).mem ∧ z ∉ t.mound.transfers) ∧
       (z.import_ = false → z.cmd.data.isSome = true → Completes (.dataTransferEnd tag) s fun t =>
         z ∉ t.mound.transfers ∧ t.mem = s.mem ∧ t.keyTag = s.keyTag ∧
         ∀ l q n m, z.cmd.src = .host l q n m → Out.hostWrite l z.cmd.addr (s.sealPages z.cmd z.count) ∈ t.host.out))) ∧
  (∀ (s : State) (g w k n reason : Nat) (j : Job) (d : GroupDef), (s.group g).running = some j →
     let x := s.group g
     let strides := j.replayList (s.strideOf g) (s.resumeFrom g j)
     (w ∈ s.participants g → Completes (.stopTriggerReport w g reason) s fun t =>
       sledOf w ∈ (t.group g).sledsStopped ∧ (t.group g).stopped = true ∧ (t.group g).running = some j ∧
       (x.stopped = false → x.sledsStopped = [] → (t.group g).reason = reason) ∧
       (x.stopSent = false → ∀ i ∈ s.groupSleds g, Msg.stop g ∈ (t.hub i).inbox) ∧ t = { s with groups := t.groups, hubs := t.hubs }) ∧
     (Msg.stop g ∈ (s.hub k).inbox → x.abortReason = 0 → Completes (.stop k g) s fun t =>
       k ∈ (t.group g).sledsStopped ∧ (t.hub k).inbox = dropMsg (fun m => m == .stop g) (s.hub k).inbox ∧
       t = { s with groups := t.groups, hubs := t.hubs }) ∧
     (s.mgr.mode = .running ∨ s.mgr.mode = .loaded → x.stopped = true → s.allStopped g = true → x.jr = none → x.abortReason = 0 →
       s.barriersOver g = true → s.repairing g = false →
       (s.lossReason g j strides = none → Completes (.rollbackDecision g) s fun t =>
         (t.group g).jr = some (s.strideAt g (s.maxStep g + 3)) ∧ (t.group g).resumeStride = s.resumeFrom g j ∧
         (∃ y, (t.group g).running = some y ∧ y.toReplay = strides ∧ y.handle = j.handle) ∧ t = { s with groups := t.groups }) ∧
       (∀ r, s.lossReason g j strides = some r → Completes (.rollbackDecision g) s fun t =>
         (∀ i, i < s.fit.sleds → ∃ e ∈ (t.hub i).evq, e.code = 4) ∧
         ∀ y, (t.group g).running = some y → ∃ q ∈ x.queue, y.handle = q.handle)) ∧
     (∀ jr, x.jr = some jr → (s.hub k).started = true → (s.hub k).isSlip = false → (s.hub k).step + 1 = jr → k ∈ x.sledsStopped →
       Completes (.rollbackBoundary k g) s fun t => k ∉ (t.group g).sledsStopped ∧
         (x.sledsStopped = [k] → s.coresWhole g k → (t.group g).stopped = false ∧ (t.group g).stopSent = false ∧ t = { s with groups := t.groups })) ∧
     (n ∈ j.toReplay → j.stepAt + x.resumeStride * s.strideOf g ≤ s.maxStep g → Completes (.strideReplay g n) s fun t =>
       (∃ y, (t.group g).running = some y ∧ y.replays.get 0 n = j.replays.get 0 n + 1 ∧ y.total = j.total + 1 ∧ n ∉ y.toReplay) ∧
       (∀ i, i < s.fit.sleds → ∃ e ∈ (t.hub i).evq, e.code = 2) ∧ ∀ f, f ≠ g → t.group f = s.group f) ∧
     (∀ f, x.restoring = some f → s.groupDef g = some d → f ≤ s.mgr.frame → s.mgr.mode = .running ∨ s.mgr.mode = .loaded →
       Completes (.mirrorRestoreEnd g) s fun t =>
         t.group g = { x with restoring := none, restored := true } ∧ (∀ i, i ≠ g → t.group i = s.group i) ∧ t.hubs = s.hubs))
end

