-- ==== Sys2Proof/Laws/Tab.lean ====
section
/-! SUPPORT. Laws of the sparse tables: what is read after an entry is set or erased. -/

namespace Sys2Proof.Tab

variable {α : Type}

theorem find_put (k i : Nat) (v : α) (l : List (Nat × α)) : find i (put k v l) = if i = k then some v else find i l := by
  induction l with
  | nil => by_cases h : k = i <;> simp [put, find, h, eq_comm]
  | cons c rest ih =>
    obtain ⟨j, w⟩ := c
    by_cases h1 : k < j
    · simp only [put, h1, if_true, find, eq_comm]
    · by_cases h2 : k = j
      · subst h2
        simp only [put, lt_irrefl, if_true, if_false, find]
        by_cases h : k = i <;> simp [h, eq_comm]
      · simp only [put, h1, h2, if_false, find, ih]
        by_cases h3 : j = i
        · subst h3; simp [Ne.symm h2]
        · simp [h3]

/-- The entry at the key that was set. -/
@[simp] theorem get?_set_self (t : Tab α) (k : Nat) (v : α) : (t.set k v).get? k = some v := by
  simp [get?, set, find_put]

/-- The entry at another key than the one that was set. -/
theorem get?_set (t : Tab α) (k i : Nat) (v : α) : (t.set k v).get? i = if i = k then some v else t.get? i := by
  simp [get?, set, find_put]

@[simp] theorem get?_set_ne (t : Tab α) {k i : Nat} (v : α) (h : i ≠ k) : (t.set k v).get? i = t.get? i := by
  rw [get?_set, if_neg h]

@[simp] theorem get_set_self (t : Tab α) (d : α) (k : Nat) (v : α) : (t.set k v).get d k = v := by
  simp [get]

theorem get_set (t : Tab α) (d : α) (k i : Nat) (v : α) : (t.set k v).get d i = if i = k then v else t.get d i := by
  unfold get
  rw [get?_set]
  split <;> rfl

@[simp] theorem get_set_ne (t : Tab α) (d : α) {k i : Nat} (v : α) (h : i ≠ k) : (t.set k v).get d i = t.get d i := by
  rw [get_set, if_neg h]

@[simp] theorem get?_empty (k : Nat) : (Tab.empty : Tab α).get? k = none := rfl

@[simp] theorem get_empty (d : α) (k : Nat) : (Tab.empty : Tab α).get d k = d := rfl

theorem find_filter_ne (k i : Nat) (l : List (Nat × α)) :
    find i (l.filter fun c => decide (c.1 ≠ k)) = if i = k then none else find i l := by
  induction l with
  | nil => simp [find]
  | cons c rest ih =>
    obtain ⟨j, w⟩ := c
    by_cases h : j = k
    · subst h
      simp only [ne_eq, not_true_eq_false, decide_false, Bool.false_eq_true, not_false_eq_true, List.filter_cons_of_neg, find]
      rw [ih]
      by_cases h2 : i = j
      · simp [h2]
      · simp [h2, Ne.symm h2]
    · rw [List.filter_cons_of_pos (by simpa using h)]
      simp only [find, ih]
      by_cases h2 : j = i
      · subst h2; simp [h]
      · simp [h2]

/-- Nothing stands at the key that was erased, and every other key keeps its entry. -/
theorem get?_erase (t : Tab α) (k i : Nat) : (t.erase k).get? i = if i = k then none else t.get? i := by
  simp only [get?, erase]
  exact find_filter_ne k i t.cells

@[simp] theorem get?_erase_self (t : Tab α) (k : Nat) : (t.erase k).get? k = none := by rw [get?_erase, if_pos rfl]

theorem find_map (f : Nat → α → α) (i : Nat) (l : List (Nat × α)) :
    find i (l.map fun c => (c.1, f c.1 c.2)) = (find i l).map (f i) := by
  induction l with
  | nil => rfl
  | cons c rest ih =>
    obtain ⟨j, w⟩ := c
    by_cases h : j = i
    · subst h; simp [find]
    · simp [find, h, ih]

/-- What stands at a key after every entry has been changed. -/
@[simp] theorem get?_mapVals (f : Nat → α → α) (t : Tab α) (i : Nat) : (t.mapVals f).get? i = (t.get? i).map (f i) := by
  simp [get?, mapVals, find_map]

theorem get_mapVals (f : Nat → α → α) (t : Tab α) (d : α) (i : Nat) (h : f i d = d) : (t.mapVals f).get d i = f i (t.get d i) := by
  unfold get
  rw [get?_mapVals]
  cases t.get? i with
  | none => simpa using h.symm
  | some v => rfl

end Sys2Proof.Tab
end

