-- ==== Sys2Proof/Laws/State.lean ====
section
/-! SUPPORT. Laws of the state: what every field, and every part read by its number, is after one part has been changed. What they
say of memory and of the queue stands in Laws/MemoryKept.lean and Laws/Pending.lean. -/

set_option linter.unusedVariables false

namespace Sys2Proof.Machine


/-! ## updHub -/

@[simp] theorem State.updHub_fit (s : State) (k : Nat) (f : Hub → Hub) : (s.updHub k f).fit = s.fit := rfl
@[simp] theorem State.updHub_mgr (s : State) (k : Nat) (f : Hub → Hub) : (s.updHub k f).mgr = s.mgr := rfl
@[simp] theorem State.updHub_rxs (s : State) (k : Nat) (f : Hub → Hub) : (s.updHub k f).rxs = s.rxs := rfl
@[simp] theorem State.updHub_doms (s : State) (k : Nat) (f : Hub → Hub) : (s.updHub k f).doms = s.doms := rfl
theorem State.updHub_hubs (s : State) (k : Nat) (f : Hub → Hub) : (s.updHub k f).hubs = s.hubs.set k (f (s.hub k)) := rfl
@[simp] theorem State.updHub_workers (s : State) (k : Nat) (f : Hub → Hub) : (s.updHub k f).workers = s.workers := rfl
@[simp] theorem State.updHub_keyTag (s : State) (k : Nat) (f : Hub → Hub) : (s.updHub k f).keyTag = s.keyTag := rfl
@[simp] theorem State.updHub_circs (s : State) (k : Nat) (f : Hub → Hub) : (s.updHub k f).circs = s.circs := rfl
@[simp] theorem State.updHub_lports (s : State) (k : Nat) (f : Hub → Hub) : (s.updHub k f).lports = s.lports := rfl
@[simp] theorem State.updHub_tiles (s : State) (k : Nat) (f : Hub → Hub) : (s.updHub k f).tiles = s.tiles := rfl
@[simp] theorem State.updHub_modules (s : State) (k : Nat) (f : Hub → Hub) : (s.updHub k f).modules = s.modules := rfl
@[simp] theorem State.updHub_img (s : State) (k : Nat) (f : Hub → Hub) : (s.updHub k f).img = s.img := rfl
@[simp] theorem State.updHub_owners (s : State) (k : Nat) (f : Hub → Hub) : (s.updHub k f).owners = s.owners := rfl
@[simp] theorem State.updHub_mound (s : State) (k : Nat) (f : Hub → Hub) : (s.updHub k f).mound = s.mound := rfl
@[simp] theorem State.updHub_groups (s : State) (k : Nat) (f : Hub → Hub) : (s.updHub k f).groups = s.groups := rfl
@[simp] theorem State.updHub_plane (s : State) (k : Nat) (f : Hub → Hub) : (s.updHub k f).plane = s.plane := rfl
@[simp] theorem State.updHub_search (s : State) (k : Nat) (f : Hub → Hub) : (s.updHub k f).search = s.search := rfl
@[simp] theorem State.updHub_scb (s : State) (k : Nat) (f : Hub → Hub) : (s.updHub k f).scb = s.scb := rfl
@[simp] theorem State.updHub_ktd (s : State) (k : Nat) (f : Hub → Hub) : (s.updHub k f).ktd = s.ktd := rfl
@[simp] theorem State.updHub_light (s : State) (k : Nat) (f : Hub → Hub) : (s.updHub k f).light = s.light := rfl
@[simp] theorem State.updHub_host (s : State) (k : Nat) (f : Hub → Hub) : (s.updHub k f).host = s.host := rfl
@[simp] theorem State.updHub_hub_self (s : State) (k : Nat) (f : Hub → Hub) : (s.updHub k f).hub k = f (s.hub k) := Tab.get_set_self _ _ _ _
@[simp] theorem State.updHub_hub_ne (s : State) {k i : Nat} (f : Hub → Hub) (h : i ≠ k) : (s.updHub k f).hub i = s.hub i := Tab.get_set_ne _ _ _ h
theorem State.updHub_hub (s : State) (k i : Nat) (f : Hub → Hub) : (s.updHub k f).hub i = if i = k then f (s.hub k) else s.hub i := Tab.get_set _ _ _ _ _
@[simp] theorem State.updHub_worker (s : State) (k i : Nat) (f : Hub → Hub) : (s.updHub k f).worker i = s.worker i := rfl
@[simp] theorem State.updHub_circ (s : State) (k i : Nat) (f : Hub → Hub) : (s.updHub k f).circ i = s.circ i := rfl
@[simp] theorem State.updHub_lport (s : State) (k i : Nat) (f : Hub → Hub) : (s.updHub k f).lport i = s.lport i := rfl
@[simp] theorem State.updHub_tile (s : State) (k i : Nat) (f : Hub → Hub) : (s.updHub k f).tile i = s.tile i := rfl
@[simp] theorem State.updHub_module (s : State) (k i : Nat) (f : Hub → Hub) : (s.updHub k f).module i = s.module i := rfl
@[simp] theorem State.updHub_group (s : State) (k i : Nat) (f : Hub → Hub) : (s.updHub k f).group i = s.group i := rfl
@[simp] theorem State.updHub_dom (s : State) (k i : Nat) (f : Hub → Hub) : (s.updHub k f).dom i = s.dom i := rfl

/-! ## updWorker -/

@[simp] theorem State.updWorker_fit (s : State) (k : Nat) (f : Worker → Worker) : (s.updWorker k f).fit = s.fit := rfl
@[simp] theorem State.updWorker_mgr (s : State) (k : Nat) (f : Worker → Worker) : (s.updWorker k f).mgr = s.mgr := rfl
@[simp] theorem State.updWorker_rxs (s : State) (k : Nat) (f : Worker → Worker) : (s.updWorker k f).rxs = s.rxs := rfl
@[simp] theorem State.updWorker_doms (s : State) (k : Nat) (f : Worker → Worker) : (s.updWorker k f).doms = s.doms := rfl
@[simp] theorem State.updWorker_hubs (s : State) (k : Nat) (f : Worker → Worker) : (s.updWorker k f).hubs = s.hubs := rfl
theorem State.updWorker_workers (s : State) (k : Nat) (f : Worker → Worker) : (s.updWorker k f).workers = s.workers.set k (f (s.worker k)) := rfl
@[simp] theorem State.updWorker_keyTag (s : State) (k : Nat) (f : Worker → Worker) : (s.updWorker k f).keyTag = s.keyTag := rfl
@[simp] theorem State.updWorker_circs (s : State) (k : Nat) (f : Worker → Worker) : (s.updWorker k f).circs = s.circs := rfl
@[simp] theorem State.updWorker_lports (s : State) (k : Nat) (f : Worker → Worker) : (s.updWorker k f).lports = s.lports := rfl
@[simp] theorem State.updWorker_tiles (s : State) (k : Nat) (f : Worker → Worker) : (s.updWorker k f).tiles = s.tiles := rfl
@[simp] theorem State.updWorker_modules (s : State) (k : Nat) (f : Worker → Worker) : (s.updWorker k f).modules = s.modules := rfl
@[simp] theorem State.updWorker_img (s : State) (k : Nat) (f : Worker → Worker) : (s.updWorker k f).img = s.img := rfl
@[simp] theorem State.updWorker_owners (s : State) (k : Nat) (f : Worker → Worker) : (s.updWorker k f).owners = s.owners := rfl
@[simp] theorem State.updWorker_mound (s : State) (k : Nat) (f : Worker → Worker) : (s.updWorker k f).mound = s.mound := rfl
@[simp] theorem State.updWorker_groups (s : State) (k : Nat) (f : Worker → Worker) : (s.updWorker k f).groups = s.groups := rfl
@[simp] theorem State.updWorker_plane (s : State) (k : Nat) (f : Worker → Worker) : (s.updWorker k f).plane = s.plane := rfl
@[simp] theorem State.updWorker_search (s : State) (k : Nat) (f : Worker → Worker) : (s.updWorker k f).search = s.search := rfl
@[simp] theorem State.updWorker_scb (s : State) (k : Nat) (f : Worker → Worker) : (s.updWorker k f).scb = s.scb := rfl
@[simp] theorem State.updWorker_ktd (s : State) (k : Nat) (f : Worker → Worker) : (s.updWorker k f).ktd = s.ktd := rfl
@[simp] theorem State.updWorker_light (s : State) (k : Nat) (f : Worker → Worker) : (s.updWorker k f).light = s.light := rfl
@[simp] theorem State.updWorker_host (s : State) (k : Nat) (f : Worker → Worker) : (s.updWorker k f).host = s.host := rfl
@[simp] theorem State.updWorker_hub (s : State) (k i : Nat) (f : Worker → Worker) : (s.updWorker k f).hub i = s.hub i := rfl
@[simp] theorem State.updWorker_worker_self (s : State) (k : Nat) (f : Worker → Worker) : (s.updWorker k f).worker k = f (s.worker k) := Tab.get_set_self _ _ _ _
@[simp] theorem State.updWorker_worker_ne (s : State) {k i : Nat} (f : Worker → Worker) (h : i ≠ k) : (s.updWorker k f).worker i = s.worker i := Tab.get_set_ne _ _ _ h
theorem State.updWorker_worker (s : State) (k i : Nat) (f : Worker → Worker) : (s.updWorker k f).worker i = if i = k then f (s.worker k) else s.worker i := Tab.get_set _ _ _ _ _
@[simp] theorem State.updWorker_circ (s : State) (k i : Nat) (f : Worker → Worker) : (s.updWorker k f).circ i = s.circ i := rfl
@[simp] theorem State.updWorker_lport (s : State) (k i : Nat) (f : Worker → Worker) : (s.updWorker k f).lport i = s.lport i := rfl
@[simp] theorem State.updWorker_tile (s : State) (k i : Nat) (f : Worker → Worker) : (s.updWorker k f).tile i = s.tile i := rfl
@[simp] theorem State.updWorker_module (s : State) (k i : Nat) (f : Worker → Worker) : (s.updWorker k f).module i = s.module i := rfl
@[simp] theorem State.updWorker_group (s : State) (k i : Nat) (f : Worker → Worker) : (s.updWorker k f).group i = s.group i := rfl
@[simp] theorem State.updWorker_dom (s : State) (k i : Nat) (f : Worker → Worker) : (s.updWorker k f).dom i = s.dom i := rfl

/-! ## updCirc -/

@[simp] theorem State.updCirc_fit (s : State) (k : Nat) (f : Circ → Circ) : (s.updCirc k f).fit = s.fit := rfl
@[simp] theorem State.updCirc_mgr (s : State) (k : Nat) (f : Circ → Circ) : (s.updCirc k f).mgr = s.mgr := rfl
@[simp] theorem State.updCirc_rxs (s : State) (k : Nat) (f : Circ → Circ) : (s.updCirc k f).rxs = s.rxs := rfl
@[simp] theorem State.updCirc_doms (s : State) (k : Nat) (f : Circ → Circ) : (s.updCirc k f).doms = s.doms := rfl
@[simp] theorem State.updCirc_hubs (s : State) (k : Nat) (f : Circ → Circ) : (s.updCirc k f).hubs = s.hubs := rfl
@[simp] theorem State.updCirc_workers (s : State) (k : Nat) (f : Circ → Circ) : (s.updCirc k f).workers = s.workers := rfl
@[simp] theorem State.updCirc_keyTag (s : State) (k : Nat) (f : Circ → Circ) : (s.updCirc k f).keyTag = s.keyTag := rfl
theorem State.updCirc_circs (s : State) (k : Nat) (f : Circ → Circ) : (s.updCirc k f).circs = s.circs.set k (f (s.circ k)) := rfl
@[simp] theorem State.updCirc_lports (s : State) (k : Nat) (f : Circ → Circ) : (s.updCirc k f).lports = s.lports := rfl
@[simp] theorem State.updCirc_tiles (s : State) (k : Nat) (f : Circ → Circ) : (s.updCirc k f).tiles = s.tiles := rfl
@[simp] theorem State.updCirc_modules (s : State) (k : Nat) (f : Circ → Circ) : (s.updCirc k f).modules = s.modules := rfl
@[simp] theorem State.updCirc_img (s : State) (k : Nat) (f : Circ → Circ) : (s.updCirc k f).img = s.img := rfl
@[simp] theorem State.updCirc_owners (s : State) (k : Nat) (f : Circ → Circ) : (s.updCirc k f).owners = s.owners := rfl
@[simp] theorem State.updCirc_mound (s : State) (k : Nat) (f : Circ → Circ) : (s.updCirc k f).mound = s.mound := rfl
@[simp] theorem State.updCirc_groups (s : State) (k : Nat) (f : Circ → Circ) : (s.updCirc k f).groups = s.groups := rfl
@[simp] theorem State.updCirc_plane (s : State) (k : Nat) (f : Circ → Circ) : (s.updCirc k f).plane = s.plane := rfl
@[simp] theorem State.updCirc_search (s : State) (k : Nat) (f : Circ → Circ) : (s.updCirc k f).search = s.search := rfl
@[simp] theorem State.updCirc_scb (s : State) (k : Nat) (f : Circ → Circ) : (s.updCirc k f).scb = s.scb := rfl
@[simp] theorem State.updCirc_ktd (s : State) (k : Nat) (f : Circ → Circ) : (s.updCirc k f).ktd = s.ktd := rfl
@[simp] theorem State.updCirc_light (s : State) (k : Nat) (f : Circ → Circ) : (s.updCirc k f).light = s.light := rfl
@[simp] theorem State.updCirc_host (s : State) (k : Nat) (f : Circ → Circ) : (s.updCirc k f).host = s.host := rfl
@[simp] theorem State.updCirc_hub (s : State) (k i : Nat) (f : Circ → Circ) : (s.updCirc k f).hub i = s.hub i := rfl
@[simp] theorem State.updCirc_worker (s : State) (k i : Nat) (f : Circ → Circ) : (s.updCirc k f).worker i = s.worker i := rfl
@[simp] theorem State.updCirc_circ_self (s : State) (k : Nat) (f : Circ → Circ) : (s.updCirc k f).circ k = f (s.circ k) := Tab.get_set_self _ _ _ _
@[simp] theorem State.updCirc_circ_ne (s : State) {k i : Nat} (f : Circ → Circ) (h : i ≠ k) : (s.updCirc k f).circ i = s.circ i := Tab.get_set_ne _ _ _ h
theorem State.updCirc_circ (s : State) (k i : Nat) (f : Circ → Circ) : (s.updCirc k f).circ i = if i = k then f (s.circ k) else s.circ i := Tab.get_set _ _ _ _ _
@[simp] theorem State.updCirc_lport (s : State) (k i : Nat) (f : Circ → Circ) : (s.updCirc k f).lport i = s.lport i := rfl
@[simp] theorem State.updCirc_tile (s : State) (k i : Nat) (f : Circ → Circ) : (s.updCirc k f).tile i = s.tile i := rfl
@[simp] theorem State.updCirc_module (s : State) (k i : Nat) (f : Circ → Circ) : (s.updCirc k f).module i = s.module i := rfl
@[simp] theorem State.updCirc_group (s : State) (k i : Nat) (f : Circ → Circ) : (s.updCirc k f).group i = s.group i := rfl
@[simp] theorem State.updCirc_dom (s : State) (k i : Nat) (f : Circ → Circ) : (s.updCirc k f).dom i = s.dom i := rfl

/-! ## updLPort -/

@[simp] theorem State.updLPort_fit (s : State) (k : Nat) (f : LPort → LPort) : (s.updLPort k f).fit = s.fit := rfl
@[simp] theorem State.updLPort_mgr (s : State) (k : Nat) (f : LPort → LPort) : (s.updLPort k f).mgr = s.mgr := rfl
@[simp] theorem State.updLPort_rxs (s : State) (k : Nat) (f : LPort → LPort) : (s.updLPort k f).rxs = s.rxs := rfl
@[simp] theorem State.updLPort_doms (s : State) (k : Nat) (f : LPort → LPort) : (s.updLPort k f).doms = s.doms := rfl
@[simp] theorem State.updLPort_hubs (s : State) (k : Nat) (f : LPort → LPort) : (s.updLPort k f).hubs = s.hubs := rfl
@[simp] theorem State.updLPort_workers (s : State) (k : Nat) (f : LPort → LPort) : (s.updLPort k f).workers = s.workers := rfl
@[simp] theorem State.updLPort_keyTag (s : State) (k : Nat) (f : LPort → LPort) : (s.updLPort k f).keyTag = s.keyTag := rfl
@[simp] theorem State.updLPort_circs (s : State) (k : Nat) (f : LPort → LPort) : (s.updLPort k f).circs = s.circs := rfl
theorem State.updLPort_lports (s : State) (k : Nat) (f : LPort → LPort) : (s.updLPort k f).lports = s.lports.set k (f (s.lport k)) := rfl
@[simp] theorem State.updLPort_tiles (s : State) (k : Nat) (f : LPort → LPort) : (s.updLPort k f).tiles = s.tiles := rfl
@[simp] theorem State.updLPort_modules (s : State) (k : Nat) (f : LPort → LPort) : (s.updLPort k f).modules = s.modules := rfl
@[simp] theorem State.updLPort_img (s : State) (k : Nat) (f : LPort → LPort) : (s.updLPort k f).img = s.img := rfl
@[simp] theorem State.updLPort_owners (s : State) (k : Nat) (f : LPort → LPort) : (s.updLPort k f).owners = s.owners := rfl
@[simp] theorem State.updLPort_mound (s : State) (k : Nat) (f : LPort → LPort) : (s.updLPort k f).mound = s.mound := rfl
@[simp] theorem State.updLPort_groups (s : State) (k : Nat) (f : LPort → LPort) : (s.updLPort k f).groups = s.groups := rfl
@[simp] theorem State.updLPort_plane (s : State) (k : Nat) (f : LPort → LPort) : (s.updLPort k f).plane = s.plane := rfl
@[simp] theorem State.updLPort_search (s : State) (k : Nat) (f : LPort → LPort) : (s.updLPort k f).search = s.search := rfl
@[simp] theorem State.updLPort_scb (s : State) (k : Nat) (f : LPort → LPort) : (s.updLPort k f).scb = s.scb := rfl
@[simp] theorem State.updLPort_ktd (s : State) (k : Nat) (f : LPort → LPort) : (s.updLPort k f).ktd = s.ktd := rfl
@[simp] theorem State.updLPort_light (s : State) (k : Nat) (f : LPort → LPort) : (s.updLPort k f).light = s.light := rfl
@[simp] theorem State.updLPort_host (s : State) (k : Nat) (f : LPort → LPort) : (s.updLPort k f).host = s.host := rfl
@[simp] theorem State.updLPort_hub (s : State) (k i : Nat) (f : LPort → LPort) : (s.updLPort k f).hub i = s.hub i := rfl
@[simp] theorem State.updLPort_worker (s : State) (k i : Nat) (f : LPort → LPort) : (s.updLPort k f).worker i = s.worker i := rfl
@[simp] theorem State.updLPort_circ (s : State) (k i : Nat) (f : LPort → LPort) : (s.updLPort k f).circ i = s.circ i := rfl
@[simp] theorem State.updLPort_lport_self (s : State) (k : Nat) (f : LPort → LPort) : (s.updLPort k f).lport k = f (s.lport k) := Tab.get_set_self _ _ _ _
@[simp] theorem State.updLPort_lport_ne (s : State) {k i : Nat} (f : LPort → LPort) (h : i ≠ k) : (s.updLPort k f).lport i = s.lport i := Tab.get_set_ne _ _ _ h
theorem State.updLPort_lport (s : State) (k i : Nat) (f : LPort → LPort) : (s.updLPort k f).lport i = if i = k then f (s.lport k) else s.lport i := Tab.get_set _ _ _ _ _
@[simp] theorem State.updLPort_tile (s : State) (k i : Nat) (f : LPort → LPort) : (s.updLPort k f).tile i = s.tile i := rfl
@[simp] theorem State.updLPort_module (s : State) (k i : Nat) (f : LPort → LPort) : (s.updLPort k f).module i = s.module i := rfl
@[simp] theorem State.updLPort_group (s : State) (k i : Nat) (f : LPort → LPort) : (s.updLPort k f).group i = s.group i := rfl
@[simp] theorem State.updLPort_dom (s : State) (k i : Nat) (f : LPort → LPort) : (s.updLPort k f).dom i = s.dom i := rfl

/-! ## updTile -/

@[simp] theorem State.updTile_fit (s : State) (k : Nat) (f : Tile → Tile) : (s.updTile k f).fit = s.fit := rfl
@[simp] theorem State.updTile_mgr (s : State) (k : Nat) (f : Tile → Tile) : (s.updTile k f).mgr = s.mgr := rfl
@[simp] theorem State.updTile_rxs (s : State) (k : Nat) (f : Tile → Tile) : (s.updTile k f).rxs = s.rxs := rfl
@[simp] theorem State.updTile_doms (s : State) (k : Nat) (f : Tile → Tile) : (s.updTile k f).doms = s.doms := rfl
@[simp] theorem State.updTile_hubs (s : State) (k : Nat) (f : Tile → Tile) : (s.updTile k f).hubs = s.hubs := rfl
@[simp] theorem State.updTile_workers (s : State) (k : Nat) (f : Tile → Tile) : (s.updTile k f).workers = s.workers := rfl
@[simp] theorem State.updTile_keyTag (s : State) (k : Nat) (f : Tile → Tile) : (s.updTile k f).keyTag = s.keyTag := rfl
@[simp] theorem State.updTile_circs (s : State) (k : Nat) (f : Tile → Tile) : (s.updTile k f).circs = s.circs := rfl
@[simp] theorem State.updTile_lports (s : State) (k : Nat) (f : Tile → Tile) : (s.updTile k f).lports = s.lports := rfl
theorem State.updTile_tiles (s : State) (k : Nat) (f : Tile → Tile) : (s.updTile k f).tiles = s.tiles.set k (f (s.tile k)) := rfl
@[simp] theorem State.updTile_modules (s : State) (k : Nat) (f : Tile → Tile) : (s.updTile k f).modules = s.modules := rfl
@[simp] theorem State.updTile_img (s : State) (k : Nat) (f : Tile → Tile) : (s.updTile k f).img = s.img := rfl
@[simp] theorem State.updTile_owners (s : State) (k : Nat) (f : Tile → Tile) : (s.updTile k f).owners = s.owners := rfl
@[simp] theorem State.updTile_mound (s : State) (k : Nat) (f : Tile → Tile) : (s.updTile k f).mound = s.mound := rfl
@[simp] theorem State.updTile_groups (s : State) (k : Nat) (f : Tile → Tile) : (s.updTile k f).groups = s.groups := rfl
@[simp] theorem State.updTile_plane (s : State) (k : Nat) (f : Tile → Tile) : (s.updTile k f).plane = s.plane := rfl
@[simp] theorem State.updTile_search (s : State) (k : Nat) (f : Tile → Tile) : (s.updTile k f).search = s.search := rfl
@[simp] theorem State.updTile_scb (s : State) (k : Nat) (f : Tile → Tile) : (s.updTile k f).scb = s.scb := rfl
@[simp] theorem State.updTile_ktd (s : State) (k : Nat) (f : Tile → Tile) : (s.updTile k f).ktd = s.ktd := rfl
@[simp] theorem State.updTile_light (s : State) (k : Nat) (f : Tile → Tile) : (s.updTile k f).light = s.light := rfl
@[simp] theorem State.updTile_host (s : State) (k : Nat) (f : Tile → Tile) : (s.updTile k f).host = s.host := rfl
@[simp] theorem State.updTile_hub (s : State) (k i : Nat) (f : Tile → Tile) : (s.updTile k f).hub i = s.hub i := rfl
@[simp] theorem State.updTile_worker (s : State) (k i : Nat) (f : Tile → Tile) : (s.updTile k f).worker i = s.worker i := rfl
@[simp] theorem State.updTile_circ (s : State) (k i : Nat) (f : Tile → Tile) : (s.updTile k f).circ i = s.circ i := rfl
@[simp] theorem State.updTile_lport (s : State) (k i : Nat) (f : Tile → Tile) : (s.updTile k f).lport i = s.lport i := rfl
@[simp] theorem State.updTile_tile_self (s : State) (k : Nat) (f : Tile → Tile) : (s.updTile k f).tile k = f (s.tile k) := Tab.get_set_self _ _ _ _
@[simp] theorem State.updTile_tile_ne (s : State) {k i : Nat} (f : Tile → Tile) (h : i ≠ k) : (s.updTile k f).tile i = s.tile i := Tab.get_set_ne _ _ _ h
theorem State.updTile_tile (s : State) (k i : Nat) (f : Tile → Tile) : (s.updTile k f).tile i = if i = k then f (s.tile k) else s.tile i := Tab.get_set _ _ _ _ _
@[simp] theorem State.updTile_module (s : State) (k i : Nat) (f : Tile → Tile) : (s.updTile k f).module i = s.module i := rfl
@[simp] theorem State.updTile_group (s : State) (k i : Nat) (f : Tile → Tile) : (s.updTile k f).group i = s.group i := rfl
@[simp] theorem State.updTile_dom (s : State) (k i : Nat) (f : Tile → Tile) : (s.updTile k f).dom i = s.dom i := rfl

/-! ## updModule -/

@[simp] theorem State.updModule_fit (s : State) (k : Nat) (f : Module → Module) : (s.updModule k f).fit = s.fit := rfl
@[simp] theorem State.updModule_mgr (s : State) (k : Nat) (f : Module → Module) : (s.updModule k f).mgr = s.mgr := rfl
@[simp] theorem State.updModule_rxs (s : State) (k : Nat) (f : Module → Module) : (s.updModule k f).rxs = s.rxs := rfl
@[simp] theorem State.updModule_doms (s : State) (k : Nat) (f : Module → Module) : (s.updModule k f).doms = s.doms := rfl
@[simp] theorem State.updModule_hubs (s : State) (k : Nat) (f : Module → Module) : (s.updModule k f).hubs = s.hubs := rfl
@[simp] theorem State.updModule_workers (s : State) (k : Nat) (f : Module → Module) : (s.updModule k f).workers = s.workers := rfl
@[simp] theorem State.updModule_keyTag (s : State) (k : Nat) (f : Module → Module) : (s.updModule k f).keyTag = s.keyTag := rfl
@[simp] theorem State.updModule_circs (s : State) (k : Nat) (f : Module → Module) : (s.updModule k f).circs = s.circs := rfl
@[simp] theorem State.updModule_lports (s : State) (k : Nat) (f : Module → Module) : (s.updModule k f).lports = s.lports := rfl
@[simp] theorem State.updModule_tiles (s : State) (k : Nat) (f : Module → Module) : (s.updModule k f).tiles = s.tiles := rfl
theorem State.updModule_modules (s : State) (k : Nat) (f : Module → Module) : (s.updModule k f).modules = s.modules.set k (f (s.module k)) := rfl
@[simp] theorem State.updModule_img (s : State) (k : Nat) (f : Module → Module) : (s.updModule k f).img = s.img := rfl
@[simp] theorem State.updModule_owners (s : State) (k : Nat) (f : Module → Module) : (s.updModule k f).owners = s.owners := rfl
@[simp] theorem State.updModule_mound (s : State) (k : Nat) (f : Module → Module) : (s.updModule k f).mound = s.mound := rfl
@[simp] theorem State.updModule_groups (s : State) (k : Nat) (f : Module → Module) : (s.updModule k f).groups = s.groups := rfl
@[simp] theorem State.updModule_plane (s : State) (k : Nat) (f : Module → Module) : (s.updModule k f).plane = s.plane := rfl
@[simp] theorem State.updModule_search (s : State) (k : Nat) (f : Module → Module) : (s.updModule k f).search = s.search := rfl
@[simp] theorem State.updModule_scb (s : State) (k : Nat) (f : Module → Module) : (s.updModule k f).scb = s.scb := rfl
@[simp] theorem State.updModule_ktd (s : State) (k : Nat) (f : Module → Module) : (s.updModule k f).ktd = s.ktd := rfl
@[simp] theorem State.updModule_light (s : State) (k : Nat) (f : Module → Module) : (s.updModule k f).light = s.light := rfl
@[simp] theorem State.updModule_host (s : State) (k : Nat) (f : Module → Module) : (s.updModule k f).host = s.host := rfl
@[simp] theorem State.updModule_hub (s : State) (k i : Nat) (f : Module → Module) : (s.updModule k f).hub i = s.hub i := rfl
@[simp] theorem State.updModule_worker (s : State) (k i : Nat) (f : Module → Module) : (s.updModule k f).worker i = s.worker i := rfl
@[simp] theorem State.updModule_circ (s : State) (k i : Nat) (f : Module → Module) : (s.updModule k f).circ i = s.circ i := rfl
@[simp] theorem State.updModule_lport (s : State) (k i : Nat) (f : Module → Module) : (s.updModule k f).lport i = s.lport i := rfl
@[simp] theorem State.updModule_tile (s : State) (k i : Nat) (f : Module → Module) : (s.updModule k f).tile i = s.tile i := rfl
@[simp] theorem State.updModule_module_self (s : State) (k : Nat) (f : Module → Module) : (s.updModule k f).module k = f (s.module k) := Tab.get_set_self _ _ _ _
@[simp] theorem State.updModule_module_ne (s : State) {k i : Nat} (f : Module → Module) (h : i ≠ k) : (s.updModule k f).module i = s.module i := Tab.get_set_ne _ _ _ h
theorem State.updModule_module (s : State) (k i : Nat) (f : Module → Module) : (s.updModule k f).module i = if i = k then f (s.module k) else s.module i := Tab.get_set _ _ _ _ _
@[simp] theorem State.updModule_group (s : State) (k i : Nat) (f : Module → Module) : (s.updModule k f).group i = s.group i := rfl
@[simp] theorem State.updModule_dom (s : State) (k i : Nat) (f : Module → Module) : (s.updModule k f).dom i = s.dom i := rfl

/-! ## updGroup -/

@[simp] theorem State.updGroup_fit (s : State) (k : Nat) (f : Group → Group) : (s.updGroup k f).fit = s.fit := rfl
@[simp] theorem State.updGroup_mgr (s : State) (k : Nat) (f : Group → Group) : (s.updGroup k f).mgr = s.mgr := rfl
@[simp] theorem State.updGroup_rxs (s : State) (k : Nat) (f : Group → Group) : (s.updGroup k f).rxs = s.rxs := rfl
@[simp] theorem State.updGroup_doms (s : State) (k : Nat) (f : Group → Group) : (s.updGroup k f).doms = s.doms := rfl
@[simp] theorem State.updGroup_hubs (s : State) (k : Nat) (f : Group → Group) : (s.updGroup k f).hubs = s.hubs := rfl
@[simp] theorem State.updGroup_workers (s : State) (k : Nat) (f : Group → Group) : (s.updGroup k f).workers = s.workers := rfl
@[simp] theorem State.updGroup_keyTag (s : State) (k : Nat) (f : Group → Group) : (s.updGroup k f).keyTag = s.keyTag := rfl
@[simp] theorem State.updGroup_circs (s : State) (k : Nat) (f : Group → Group) : (s.updGroup k f).circs = s.circs := rfl
@[simp] theorem State.updGroup_lports (s : State) (k : Nat) (f : Group → Group) : (s.updGroup k f).lports = s.lports := rfl
@[simp] theorem State.updGroup_tiles (s : State) (k : Nat) (f : Group → Group) : (s.updGroup k f).tiles = s.tiles := rfl
@[simp] theorem State.updGroup_modules (s : State) (k : Nat) (f : Group → Group) : (s.updGroup k f).modules = s.modules := rfl
@[simp] theorem State.updGroup_img (s : State) (k : Nat) (f : Group → Group) : (s.updGroup k f).img = s.img := rfl
@[simp] theorem State.updGroup_owners (s : State) (k : Nat) (f : Group → Group) : (s.updGroup k f).owners = s.owners := rfl
@[simp] theorem State.updGroup_mound (s : State) (k : Nat) (f : Group → Group) : (s.updGroup k f).mound = s.mound := rfl
theorem State.updGroup_groups (s : State) (k : Nat) (f : Group → Group) : (s.updGroup k f).groups = s.groups.set k (f (s.group k)) := rfl
@[simp] theorem State.updGroup_plane (s : State) (k : Nat) (f : Group → Group) : (s.updGroup k f).plane = s.plane := rfl
@[simp] theorem State.updGroup_search (s : State) (k : Nat) (f : Group → Group) : (s.updGroup k f).search = s.search := rfl
@[simp] theorem State.updGroup_scb (s : State) (k : Nat) (f : Group → Group) : (s.updGroup k f).scb = s.scb := rfl
@[simp] theorem State.updGroup_ktd (s : State) (k : Nat) (f : Group → Group) : (s.updGroup k f).ktd = s.ktd := rfl
@[simp] theorem State.updGroup_light (s : State) (k : Nat) (f : Group → Group) : (s.updGroup k f).light = s.light := rfl
@[simp] theorem State.updGroup_host (s : State) (k : Nat) (f : Group → Group) : (s.updGroup k f).host = s.host := rfl
@[simp] theorem State.updGroup_hub (s : State) (k i : Nat) (f : Group → Group) : (s.updGroup k f).hub i = s.hub i := rfl
@[simp] theorem State.updGroup_worker (s : State) (k i : Nat) (f : Group → Group) : (s.updGroup k f).worker i = s.worker i := rfl
@[simp] theorem State.updGroup_circ (s : State) (k i : Nat) (f : Group → Group) : (s.updGroup k f).circ i = s.circ i := rfl
@[simp] theorem State.updGroup_lport (s : State) (k i : Nat) (f : Group → Group) : (s.updGroup k f).lport i = s.lport i := rfl
@[simp] theorem State.updGroup_tile (s : State) (k i : Nat) (f : Group → Group) : (s.updGroup k f).tile i = s.tile i := rfl
@[simp] theorem State.updGroup_module (s : State) (k i : Nat) (f : Group → Group) : (s.updGroup k f).module i = s.module i := rfl
@[simp] theorem State.updGroup_group_self (s : State) (k : Nat) (f : Group → Group) : (s.updGroup k f).group k = f (s.group k) := Tab.get_set_self _ _ _ _
@[simp] theorem State.updGroup_group_ne (s : State) {k i : Nat} (f : Group → Group) (h : i ≠ k) : (s.updGroup k f).group i = s.group i := Tab.get_set_ne _ _ _ h
theorem State.updGroup_group (s : State) (k i : Nat) (f : Group → Group) : (s.updGroup k f).group i = if i = k then f (s.group k) else s.group i := Tab.get_set _ _ _ _ _
@[simp] theorem State.updGroup_dom (s : State) (k i : Nat) (f : Group → Group) : (s.updGroup k f).dom i = s.dom i := rfl

/-! ## updDom -/

@[simp] theorem State.updDom_fit (s : State) (k : Nat) (f : TickDom → TickDom) : (s.updDom k f).fit = s.fit := rfl
@[simp] theorem State.updDom_mgr (s : State) (k : Nat) (f : TickDom → TickDom) : (s.updDom k f).mgr = s.mgr := rfl
@[simp] theorem State.updDom_rxs (s : State) (k : Nat) (f : TickDom → TickDom) : (s.updDom k f).rxs = s.rxs := rfl
theorem State.updDom_doms (s : State) (k : Nat) (f : TickDom → TickDom) : (s.updDom k f).doms = s.doms.set k (f (s.dom k)) := rfl
@[simp] theorem State.updDom_hubs (s : State) (k : Nat) (f : TickDom → TickDom) : (s.updDom k f).hubs = s.hubs := rfl
@[simp] theorem State.updDom_workers (s : State) (k : Nat) (f : TickDom → TickDom) : (s.updDom k f).workers = s.workers := rfl
@[simp] theorem State.updDom_keyTag (s : State) (k : Nat) (f : TickDom → TickDom) : (s.updDom k f).keyTag = s.keyTag := rfl
@[simp] theorem State.updDom_circs (s : State) (k : Nat) (f : TickDom → TickDom) : (s.updDom k f).circs = s.circs := rfl
@[simp] theorem State.updDom_lports (s : State) (k : Nat) (f : TickDom → TickDom) : (s.updDom k f).lports = s.lports := rfl
@[simp] theorem State.updDom_tiles (s : State) (k : Nat) (f : TickDom → TickDom) : (s.updDom k f).tiles = s.tiles := rfl
@[simp] theorem State.updDom_modules (s : State) (k : Nat) (f : TickDom → TickDom) : (s.updDom k f).modules = s.modules := rfl
@[simp] theorem State.updDom_img (s : State) (k : Nat) (f : TickDom → TickDom) : (s.updDom k f).img = s.img := rfl
@[simp] theorem State.updDom_owners (s : State) (k : Nat) (f : TickDom → TickDom) : (s.updDom k f).owners = s.owners := rfl
@[simp] theorem State.updDom_mound (s : State) (k : Nat) (f : TickDom → TickDom) : (s.updDom k f).mound = s.mound := rfl
@[simp] theorem State.updDom_groups (s : State) (k : Nat) (f : TickDom → TickDom) : (s.updDom k f).groups = s.groups := rfl
@[simp] theorem State.updDom_plane (s : State) (k : Nat) (f : TickDom → TickDom) : (s.updDom k f).plane = s.plane := rfl
@[simp] theorem State.updDom_search (s : State) (k : Nat) (f : TickDom → TickDom) : (s.updDom k f).search = s.search := rfl
@[simp] theorem State.updDom_scb (s : State) (k : Nat) (f : TickDom → TickDom) : (s.updDom k f).scb = s.scb := rfl
@[simp] theorem State.updDom_ktd (s : State) (k : Nat) (f : TickDom → TickDom) : (s.updDom k f).ktd = s.ktd := rfl
@[simp] theorem State.updDom_light (s : State) (k : Nat) (f : TickDom → TickDom) : (s.updDom k f).light = s.light := rfl
@[simp] theorem State.updDom_host (s : State) (k : Nat) (f : TickDom → TickDom) : (s.updDom k f).host = s.host := rfl
@[simp] theorem State.updDom_hub (s : State) (k i : Nat) (f : TickDom → TickDom) : (s.updDom k f).hub i = s.hub i := rfl
@[simp] theorem State.updDom_worker (s : State) (k i : Nat) (f : TickDom → TickDom) : (s.updDom k f).worker i = s.worker i := rfl
@[simp] theorem State.updDom_circ (s : State) (k i : Nat) (f : TickDom → TickDom) : (s.updDom k f).circ i = s.circ i := rfl
@[simp] theorem State.updDom_lport (s : State) (k i : Nat) (f : TickDom → TickDom) : (s.updDom k f).lport i = s.lport i := rfl
@[simp] theorem State.updDom_tile (s : State) (k i : Nat) (f : TickDom → TickDom) : (s.updDom k f).tile i = s.tile i := rfl
@[simp] theorem State.updDom_module (s : State) (k i : Nat) (f : TickDom → TickDom) : (s.updDom k f).module i = s.module i := rfl
@[simp] theorem State.updDom_group (s : State) (k i : Nat) (f : TickDom → TickDom) : (s.updDom k f).group i = s.group i := rfl
@[simp] theorem State.updDom_dom_self (s : State) (k : Nat) (f : TickDom → TickDom) : (s.updDom k f).dom k = f (s.dom k) := Tab.get_set_self _ _ _ _
@[simp] theorem State.updDom_dom_ne (s : State) {k i : Nat} (f : TickDom → TickDom) (h : i ≠ k) : (s.updDom k f).dom i = s.dom i := Tab.get_set_ne _ _ _ h
theorem State.updDom_dom (s : State) (k i : Nat) (f : TickDom → TickDom) : (s.updDom k f).dom i = if i = k then f (s.dom k) else s.dom i := Tab.get_set _ _ _ _ _

/-! ## updRx -/

@[simp] theorem State.updRx_fit (s : State) (u : TickUnit) (f : TickRx → TickRx) : (s.updRx u f).fit = s.fit := rfl
@[simp] theorem State.updRx_mgr (s : State) (u : TickUnit) (f : TickRx → TickRx) : (s.updRx u f).mgr = s.mgr := rfl
theorem State.updRx_rxs (s : State) (u : TickUnit) (f : TickRx → TickRx) : (s.updRx u f).rxs = s.rxs.set (rxKey u) (f (s.rx u)) := rfl
@[simp] theorem State.updRx_doms (s : State) (u : TickUnit) (f : TickRx → TickRx) : (s.updRx u f).doms = s.doms := rfl
@[simp] theorem State.updRx_hubs (s : State) (u : TickUnit) (f : TickRx → TickRx) : (s.updRx u f).hubs = s.hubs := rfl
@[simp] theorem State.updRx_workers (s : State) (u : TickUnit) (f : TickRx → TickRx) : (s.updRx u f).workers = s.workers := rfl
@[simp] theorem State.updRx_keyTag (s : State) (u : TickUnit) (f : TickRx → TickRx) : (s.updRx u f).keyTag = s.keyTag := rfl
@[simp] theorem State.updRx_circs (s : State) (u : TickUnit) (f : TickRx → TickRx) : (s.updRx u f).circs = s.circs := rfl
@[simp] theorem State.updRx_lports (s : State) (u : TickUnit) (f : TickRx → TickRx) : (s.updRx u f).lports = s.lports := rfl
@[simp] theorem State.updRx_tiles (s : State) (u : TickUnit) (f : TickRx → TickRx) : (s.updRx u f).tiles = s.tiles := rfl
@[simp] theorem State.updRx_modules (s : State) (u : TickUnit) (f : TickRx → TickRx) : (s.updRx u f).modules = s.modules := rfl
@[simp] theorem State.updRx_img (s : State) (u : TickUnit) (f : TickRx → TickRx) : (s.updRx u f).img = s.img := rfl
@[simp] theorem State.updRx_owners (s : State) (u : TickUnit) (f : TickRx → TickRx) : (s.updRx u f).owners = s.owners := rfl
@[simp] theorem State.updRx_mound (s : State) (u : TickUnit) (f : TickRx → TickRx) : (s.updRx u f).mound = s.mound := rfl
@[simp] theorem State.updRx_groups (s : State) (u : TickUnit) (f : TickRx → TickRx) : (s.updRx u f).groups = s.groups := rfl
@[simp] theorem State.updRx_plane (s : State) (u : TickUnit) (f : TickRx → TickRx) : (s.updRx u f).plane = s.plane := rfl
@[simp] theorem State.updRx_search (s : State) (u : TickUnit) (f : TickRx → TickRx) : (s.updRx u f).search = s.search := rfl
@[simp] theorem State.updRx_scb (s : State) (u : TickUnit) (f : TickRx → TickRx) : (s.updRx u f).scb = s.scb := rfl
@[simp] theorem State.updRx_ktd (s : State) (u : TickUnit) (f : TickRx → TickRx) : (s.updRx u f).ktd = s.ktd := rfl
@[simp] theorem State.updRx_light (s : State) (u : TickUnit) (f : TickRx → TickRx) : (s.updRx u f).light = s.light := rfl
@[simp] theorem State.updRx_host (s : State) (u : TickUnit) (f : TickRx → TickRx) : (s.updRx u f).host = s.host := rfl
@[simp] theorem State.updRx_rx_self (s : State) (u : TickUnit) (f : TickRx → TickRx) : (s.updRx u f).rx u = f (s.rx u) := Tab.get_set_self _ _ _ _
@[simp] theorem State.updRx_hub (s : State) (u : TickUnit) (i : Nat) (f : TickRx → TickRx) : (s.updRx u f).hub i = s.hub i := rfl
@[simp] theorem State.updRx_worker (s : State) (u : TickUnit) (i : Nat) (f : TickRx → TickRx) : (s.updRx u f).worker i = s.worker i := rfl
@[simp] theorem State.updRx_circ (s : State) (u : TickUnit) (i : Nat) (f : TickRx → TickRx) : (s.updRx u f).circ i = s.circ i := rfl
@[simp] theorem State.updRx_lport (s : State) (u : TickUnit) (i : Nat) (f : TickRx → TickRx) : (s.updRx u f).lport i = s.lport i := rfl
@[simp] theorem State.updRx_tile (s : State) (u : TickUnit) (i : Nat) (f : TickRx → TickRx) : (s.updRx u f).tile i = s.tile i := rfl
@[simp] theorem State.updRx_module (s : State) (u : TickUnit) (i : Nat) (f : TickRx → TickRx) : (s.updRx u f).module i = s.module i := rfl
@[simp] theorem State.updRx_group (s : State) (u : TickUnit) (i : Nat) (f : TickRx → TickRx) : (s.updRx u f).group i = s.group i := rfl
@[simp] theorem State.updRx_dom (s : State) (u : TickUnit) (i : Nat) (f : TickRx → TickRx) : (s.updRx u f).dom i = s.dom i := rfl

/-! ## updMgr -/

@[simp] theorem State.updMgr_fit (s : State) (f : Mgr → Mgr) : (s.updMgr f).fit = s.fit := rfl
@[simp] theorem State.updMgr_mgr (s : State) (f : Mgr → Mgr) : (s.updMgr f).mgr = f s.mgr := rfl
@[simp] theorem State.updMgr_rxs (s : State) (f : Mgr → Mgr) : (s.updMgr f).rxs = s.rxs := rfl
@[simp] theorem State.updMgr_doms (s : State) (f : Mgr → Mgr) : (s.updMgr f).doms = s.doms := rfl
@[simp] theorem State.updMgr_hubs (s : State) (f : Mgr → Mgr) : (s.updMgr f).hubs = s.hubs := rfl
@[simp] theorem State.updMgr_workers (s : State) (f : Mgr → Mgr) : (s.updMgr f).workers = s.workers := rfl
@[simp] theorem State.updMgr_keyTag (s : State) (f : Mgr → Mgr) : (s.updMgr f).keyTag = s.keyTag := rfl
@[simp] theorem State.updMgr_circs (s : State) (f : Mgr → Mgr) : (s.updMgr f).circs = s.circs := rfl
@[simp] theorem State.updMgr_lports (s : State) (f : Mgr → Mgr) : (s.updMgr f).lports = s.lports := rfl
@[simp] theorem State.updMgr_tiles (s : State) (f : Mgr → Mgr) : (s.updMgr f).tiles = s.tiles := rfl
@[simp] theorem State.updMgr_modules (s : State) (f : Mgr → Mgr) : (s.updMgr f).modules = s.modules := rfl
@[simp] theorem State.updMgr_img (s : State) (f : Mgr → Mgr) : (s.updMgr f).img = s.img := rfl
@[simp] theorem State.updMgr_owners (s : State) (f : Mgr → Mgr) : (s.updMgr f).owners = s.owners := rfl
@[simp] theorem State.updMgr_mound (s : State) (f : Mgr → Mgr) : (s.updMgr f).mound = s.mound := rfl
@[simp] theorem State.updMgr_groups (s : State) (f : Mgr → Mgr) : (s.updMgr f).groups = s.groups := rfl
@[simp] theorem State.updMgr_plane (s : State) (f : Mgr → Mgr) : (s.updMgr f).plane = s.plane := rfl
@[simp] theorem State.updMgr_search (s : State) (f : Mgr → Mgr) : (s.updMgr f).search = s.search := rfl
@[simp] theorem State.updMgr_scb (s : State) (f : Mgr → Mgr) : (s.updMgr f).scb = s.scb := rfl
@[simp] theorem State.updMgr_ktd (s : State) (f : Mgr → Mgr) : (s.updMgr f).ktd = s.ktd := rfl
@[simp] theorem State.updMgr_light (s : State) (f : Mgr → Mgr) : (s.updMgr f).light = s.light := rfl
@[simp] theorem State.updMgr_host (s : State) (f : Mgr → Mgr) : (s.updMgr f).host = s.host := rfl
@[simp] theorem State.updMgr_hub (s : State) (i : Nat) (f : Mgr → Mgr) : (s.updMgr f).hub i = s.hub i := rfl
@[simp] theorem State.updMgr_worker (s : State) (i : Nat) (f : Mgr → Mgr) : (s.updMgr f).worker i = s.worker i := rfl
@[simp] theorem State.updMgr_circ (s : State) (i : Nat) (f : Mgr → Mgr) : (s.updMgr f).circ i = s.circ i := rfl
@[simp] theorem State.updMgr_lport (s : State) (i : Nat) (f : Mgr → Mgr) : (s.updMgr f).lport i = s.lport i := rfl
@[simp] theorem State.updMgr_tile (s : State) (i : Nat) (f : Mgr → Mgr) : (s.updMgr f).tile i = s.tile i := rfl
@[simp] theorem State.updMgr_module (s : State) (i : Nat) (f : Mgr → Mgr) : (s.updMgr f).module i = s.module i := rfl
@[simp] theorem State.updMgr_group (s : State) (i : Nat) (f : Mgr → Mgr) : (s.updMgr f).group i = s.group i := rfl
@[simp] theorem State.updMgr_dom (s : State) (i : Nat) (f : Mgr → Mgr) : (s.updMgr f).dom i = s.dom i := rfl

/-! ## updPlane -/

@[simp] theorem State.updPlane_fit (s : State) (f : Plane → Plane) : (s.updPlane f).fit = s.fit := rfl
@[simp] theorem State.updPlane_mgr (s : State) (f : Plane → Plane) : (s.updPlane f).mgr = s.mgr := rfl
@[simp] theorem State.updPlane_rxs (s : State) (f : Plane → Plane) : (s.updPlane f).rxs = s.rxs := rfl
@[simp] theorem State.updPlane_doms (s : State) (f : Plane → Plane) : (s.updPlane f).doms = s.doms := rfl
@[simp] theorem State.updPlane_hubs (s : State) (f : Plane → Plane) : (s.updPlane f).hubs = s.hubs := rfl
@[simp] theorem State.updPlane_workers (s : State) (f : Plane → Plane) : (s.updPlane f).workers = s.workers := rfl
@[simp] theorem State.updPlane_keyTag (s : State) (f : Plane → Plane) : (s.updPlane f).keyTag = s.keyTag := rfl
@[simp] theorem State.updPlane_circs (s : State) (f : Plane → Plane) : (s.updPlane f).circs = s.circs := rfl
@[simp] theorem State.updPlane_lports (s : State) (f : Plane → Plane) : (s.updPlane f).lports = s.lports := rfl
@[simp] theorem State.updPlane_tiles (s : State) (f : Plane → Plane) : (s.updPlane f).tiles = s.tiles := rfl
@[simp] theorem State.updPlane_modules (s : State) (f : Plane → Plane) : (s.updPlane f).modules = s.modules := rfl
@[simp] theorem State.updPlane_img (s : State) (f : Plane → Plane) : (s.updPlane f).img = s.img := rfl
@[simp] theorem State.updPlane_owners (s : State) (f : Plane → Plane) : (s.updPlane f).owners = s.owners := rfl
@[simp] theorem State.updPlane_mound (s : State) (f : Plane → Plane) : (s.updPlane f).mound = s.mound := rfl
@[simp] theorem State.updPlane_groups (s : State) (f : Plane → Plane) : (s.updPlane f).groups = s.groups := rfl
@[simp] theorem State.updPlane_plane (s : State) (f : Plane → Plane) : (s.updPlane f).plane = f s.plane := rfl
@[simp] theorem State.updPlane_search (s : State) (f : Plane → Plane) : (s.updPlane f).search = s.search := rfl
@[simp] theorem State.updPlane_scb (s : State) (f : Plane → Plane) : (s.updPlane f).scb = s.scb := rfl
@[simp] theorem State.updPlane_ktd (s : State) (f : Plane → Plane) : (s.updPlane f).ktd = s.ktd := rfl
@[simp] theorem State.updPlane_light (s : State) (f : Plane → Plane) : (s.updPlane f).light = s.light := rfl
@[simp] theorem State.updPlane_host (s : State) (f : Plane → Plane) : (s.updPlane f).host = s.host := rfl
@[simp] theorem State.updPlane_hub (s : State) (i : Nat) (f : Plane → Plane) : (s.updPlane f).hub i = s.hub i := rfl
@[simp] theorem State.updPlane_worker (s : State) (i : Nat) (f : Plane → Plane) : (s.updPlane f).worker i = s.worker i := rfl
@[simp] theorem State.updPlane_circ (s : State) (i : Nat) (f : Plane → Plane) : (s.updPlane f).circ i = s.circ i := rfl
@[simp] theorem State.updPlane_lport (s : State) (i : Nat) (f : Plane → Plane) : (s.updPlane f).lport i = s.lport i := rfl
@[simp] theorem State.updPlane_tile (s : State) (i : Nat) (f : Plane → Plane) : (s.updPlane f).tile i = s.tile i := rfl
@[simp] theorem State.updPlane_module (s : State) (i : Nat) (f : Plane → Plane) : (s.updPlane f).module i = s.module i := rfl
@[simp] theorem State.updPlane_group (s : State) (i : Nat) (f : Plane → Plane) : (s.updPlane f).group i = s.group i := rfl
@[simp] theorem State.updPlane_dom (s : State) (i : Nat) (f : Plane → Plane) : (s.updPlane f).dom i = s.dom i := rfl

/-! ## updScb -/

@[simp] theorem State.updScb_fit (s : State) (f : Scarab → Scarab) : (s.updScb f).fit = s.fit := rfl
@[simp] theorem State.updScb_mgr (s : State) (f : Scarab → Scarab) : (s.updScb f).mgr = s.mgr := rfl
@[simp] theorem State.updScb_rxs (s : State) (f : Scarab → Scarab) : (s.updScb f).rxs = s.rxs := rfl
@[simp] theorem State.updScb_doms (s : State) (f : Scarab → Scarab) : (s.updScb f).doms = s.doms := rfl
@[simp] theorem State.updScb_hubs (s : State) (f : Scarab → Scarab) : (s.updScb f).hubs = s.hubs := rfl
@[simp] theorem State.updScb_workers (s : State) (f : Scarab → Scarab) : (s.updScb f).workers = s.workers := rfl
@[simp] theorem State.updScb_keyTag (s : State) (f : Scarab → Scarab) : (s.updScb f).keyTag = s.keyTag := rfl
@[simp] theorem State.updScb_circs (s : State) (f : Scarab → Scarab) : (s.updScb f).circs = s.circs := rfl
@[simp] theorem State.updScb_lports (s : State) (f : Scarab → Scarab) : (s.updScb f).lports = s.lports := rfl
@[simp] theorem State.updScb_tiles (s : State) (f : Scarab → Scarab) : (s.updScb f).tiles = s.tiles := rfl
@[simp] theorem State.updScb_modules (s : State) (f : Scarab → Scarab) : (s.updScb f).modules = s.modules := rfl
@[simp] theorem State.updScb_img (s : State) (f : Scarab → Scarab) : (s.updScb f).img = s.img := rfl
@[simp] theorem State.updScb_owners (s : State) (f : Scarab → Scarab) : (s.updScb f).owners = s.owners := rfl
@[simp] theorem State.updScb_mound (s : State) (f : Scarab → Scarab) : (s.updScb f).mound = s.mound := rfl
@[simp] theorem State.updScb_groups (s : State) (f : Scarab → Scarab) : (s.updScb f).groups = s.groups := rfl
@[simp] theorem State.updScb_plane (s : State) (f : Scarab → Scarab) : (s.updScb f).plane = s.plane := rfl
@[simp] theorem State.updScb_search (s : State) (f : Scarab → Scarab) : (s.updScb f).search = s.search := rfl
@[simp] theorem State.updScb_scb (s : State) (f : Scarab → Scarab) : (s.updScb f).scb = f s.scb := rfl
@[simp] theorem State.updScb_ktd (s : State) (f : Scarab → Scarab) : (s.updScb f).ktd = s.ktd := rfl
@[simp] theorem State.updScb_light (s : State) (f : Scarab → Scarab) : (s.updScb f).light = s.light := rfl
@[simp] theorem State.updScb_host (s : State) (f : Scarab → Scarab) : (s.updScb f).host = s.host := rfl
@[simp] theorem State.updScb_hub (s : State) (i : Nat) (f : Scarab → Scarab) : (s.updScb f).hub i = s.hub i := rfl
@[simp] theorem State.updScb_worker (s : State) (i : Nat) (f : Scarab → Scarab) : (s.updScb f).worker i = s.worker i := rfl
@[simp] theorem State.updScb_circ (s : State) (i : Nat) (f : Scarab → Scarab) : (s.updScb f).circ i = s.circ i := rfl
@[simp] theorem State.updScb_lport (s : State) (i : Nat) (f : Scarab → Scarab) : (s.updScb f).lport i = s.lport i := rfl
@[simp] theorem State.updScb_tile (s : State) (i : Nat) (f : Scarab → Scarab) : (s.updScb f).tile i = s.tile i := rfl
@[simp] theorem State.updScb_module (s : State) (i : Nat) (f : Scarab → Scarab) : (s.updScb f).module i = s.module i := rfl
@[simp] theorem State.updScb_group (s : State) (i : Nat) (f : Scarab → Scarab) : (s.updScb f).group i = s.group i := rfl
@[simp] theorem State.updScb_dom (s : State) (i : Nat) (f : Scarab → Scarab) : (s.updScb f).dom i = s.dom i := rfl

/-! ## updImg -/

@[simp] theorem State.updImg_fit (s : State) (f : Img → Img) : (s.updImg f).fit = s.fit := rfl
@[simp] theorem State.updImg_mgr (s : State) (f : Img → Img) : (s.updImg f).mgr = s.mgr := rfl
@[simp] theorem State.updImg_rxs (s : State) (f : Img → Img) : (s.updImg f).rxs = s.rxs := rfl
@[simp] theorem State.updImg_doms (s : State) (f : Img → Img) : (s.updImg f).doms = s.doms := rfl
@[simp] theorem State.updImg_hubs (s : State) (f : Img → Img) : (s.updImg f).hubs = s.hubs := rfl
@[simp] theorem State.updImg_workers (s : State) (f : Img → Img) : (s.updImg f).workers = s.workers := rfl
@[simp] theorem State.updImg_keyTag (s : State) (f : Img → Img) : (s.updImg f).keyTag = s.keyTag := rfl
@[simp] theorem State.updImg_circs (s : State) (f : Img → Img) : (s.updImg f).circs = s.circs := rfl
@[simp] theorem State.updImg_lports (s : State) (f : Img → Img) : (s.updImg f).lports = s.lports := rfl
@[simp] theorem State.updImg_tiles (s : State) (f : Img → Img) : (s.updImg f).tiles = s.tiles := rfl
@[simp] theorem State.updImg_modules (s : State) (f : Img → Img) : (s.updImg f).modules = s.modules := rfl
@[simp] theorem State.updImg_img (s : State) (f : Img → Img) : (s.updImg f).img = f s.img := rfl
@[simp] theorem State.updImg_owners (s : State) (f : Img → Img) : (s.updImg f).owners = s.owners := rfl
@[simp] theorem State.updImg_mound (s : State) (f : Img → Img) : (s.updImg f).mound = s.mound := rfl
@[simp] theorem State.updImg_groups (s : State) (f : Img → Img) : (s.updImg f).groups = s.groups := rfl
@[simp] theorem State.updImg_plane (s : State) (f : Img → Img) : (s.updImg f).plane = s.plane := rfl
@[simp] theorem State.updImg_search (s : State) (f : Img → Img) : (s.updImg f).search = s.search := rfl
@[simp] theorem State.updImg_scb (s : State) (f : Img → Img) : (s.updImg f).scb = s.scb := rfl
@[simp] theorem State.updImg_ktd (s : State) (f : Img → Img) : (s.updImg f).ktd = s.ktd := rfl
@[simp] theorem State.updImg_light (s : State) (f : Img → Img) : (s.updImg f).light = s.light := rfl
@[simp] theorem State.updImg_host (s : State) (f : Img → Img) : (s.updImg f).host = s.host := rfl
@[simp] theorem State.updImg_hub (s : State) (i : Nat) (f : Img → Img) : (s.updImg f).hub i = s.hub i := rfl
@[simp] theorem State.updImg_worker (s : State) (i : Nat) (f : Img → Img) : (s.updImg f).worker i = s.worker i := rfl
@[simp] theorem State.updImg_circ (s : State) (i : Nat) (f : Img → Img) : (s.updImg f).circ i = s.circ i := rfl
@[simp] theorem State.updImg_lport (s : State) (i : Nat) (f : Img → Img) : (s.updImg f).lport i = s.lport i := rfl
@[simp] theorem State.updImg_tile (s : State) (i : Nat) (f : Img → Img) : (s.updImg f).tile i = s.tile i := rfl
@[simp] theorem State.updImg_module (s : State) (i : Nat) (f : Img → Img) : (s.updImg f).module i = s.module i := rfl
@[simp] theorem State.updImg_group (s : State) (i : Nat) (f : Img → Img) : (s.updImg f).group i = s.group i := rfl
@[simp] theorem State.updImg_dom (s : State) (i : Nat) (f : Img → Img) : (s.updImg f).dom i = s.dom i := rfl

/-! ## updOwners -/

@[simp] theorem State.updOwners_fit (s : State) (f : Owners → Owners) : (s.updOwners f).fit = s.fit := rfl
@[simp] theorem State.updOwners_mgr (s : State) (f : Owners → Owners) : (s.updOwners f).mgr = s.mgr := rfl
@[simp] theorem State.updOwners_rxs (s : State) (f : Owners → Owners) : (s.updOwners f).rxs = s.rxs := rfl
@[simp] theorem State.updOwners_doms (s : State) (f : Owners → Owners) : (s.updOwners f).doms = s.doms := rfl
@[simp] theorem State.updOwners_hubs (s : State) (f : Owners → Owners) : (s.updOwners f).hubs = s.hubs := rfl
@[simp] theorem State.updOwners_workers (s : State) (f : Owners → Owners) : (s.updOwners f).workers = s.workers := rfl
@[simp] theorem State.updOwners_keyTag (s : State) (f : Owners → Owners) : (s.updOwners f).keyTag = s.keyTag := rfl
@[simp] theorem State.updOwners_circs (s : State) (f : Owners → Owners) : (s.updOwners f).circs = s.circs := rfl
@[simp] theorem State.updOwners_lports (s : State) (f : Owners → Owners) : (s.updOwners f).lports = s.lports := rfl
@[simp] theorem State.updOwners_tiles (s : State) (f : Owners → Owners) : (s.updOwners f).tiles = s.tiles := rfl
@[simp] theorem State.updOwners_modules (s : State) (f : Owners → Owners) : (s.updOwners f).modules = s.modules := rfl
@[simp] theorem State.updOwners_img (s : State) (f : Owners → Owners) : (s.updOwners f).img = s.img := rfl
@[simp] theorem State.updOwners_owners (s : State) (f : Owners → Owners) : (s.updOwners f).owners = f s.owners := rfl
@[simp] theorem State.updOwners_mound (s : State) (f : Owners → Owners) : (s.updOwners f).mound = s.mound := rfl
@[simp] theorem State.updOwners_groups (s : State) (f : Owners → Owners) : (s.updOwners f).groups = s.groups := rfl
@[simp] theorem State.updOwners_plane (s : State) (f : Owners → Owners) : (s.updOwners f).plane = s.plane := rfl
@[simp] theorem State.updOwners_search (s : State) (f : Owners → Owners) : (s.updOwners f).search = s.search := rfl
@[simp] theorem State.updOwners_scb (s : State) (f : Owners → Owners) : (s.updOwners f).scb = s.scb := rfl
@[simp] theorem State.updOwners_ktd (s : State) (f : Owners → Owners) : (s.updOwners f).ktd = s.ktd := rfl
@[simp] theorem State.updOwners_light (s : State) (f : Owners → Owners) : (s.updOwners f).light = s.light := rfl
@[simp] theorem State.updOwners_host (s : State) (f : Owners → Owners) : (s.updOwners f).host = s.host := rfl
@[simp] theorem State.updOwners_hub (s : State) (i : Nat) (f : Owners → Owners) : (s.updOwners f).hub i = s.hub i := rfl
@[simp] theorem State.updOwners_worker (s : State) (i : Nat) (f : Owners → Owners) : (s.updOwners f).worker i = s.worker i := rfl
@[simp] theorem State.updOwners_circ (s : State) (i : Nat) (f : Owners → Owners) : (s.updOwners f).circ i = s.circ i := rfl
@[simp] theorem State.updOwners_lport (s : State) (i : Nat) (f : Owners → Owners) : (s.updOwners f).lport i = s.lport i := rfl
@[simp] theorem State.updOwners_tile (s : State) (i : Nat) (f : Owners → Owners) : (s.updOwners f).tile i = s.tile i := rfl
@[simp] theorem State.updOwners_module (s : State) (i : Nat) (f : Owners → Owners) : (s.updOwners f).module i = s.module i := rfl
@[simp] theorem State.updOwners_group (s : State) (i : Nat) (f : Owners → Owners) : (s.updOwners f).group i = s.group i := rfl
@[simp] theorem State.updOwners_dom (s : State) (i : Nat) (f : Owners → Owners) : (s.updOwners f).dom i = s.dom i := rfl

/-! ## updMound -/

@[simp] theorem State.updMound_fit (s : State) (f : MoundWork → MoundWork) : (s.updMound f).fit = s.fit := rfl
@[simp] theorem State.updMound_mgr (s : State) (f : MoundWork → MoundWork) : (s.updMound f).mgr = s.mgr := rfl
@[simp] theorem State.updMound_rxs (s : State) (f : MoundWork → MoundWork) : (s.updMound f).rxs = s.rxs := rfl
@[simp] theorem State.updMound_doms (s : State) (f : MoundWork → MoundWork) : (s.updMound f).doms = s.doms := rfl
@[simp] theorem State.updMound_hubs (s : State) (f : MoundWork → MoundWork) : (s.updMound f).hubs = s.hubs := rfl
@[simp] theorem State.updMound_workers (s : State) (f : MoundWork → MoundWork) : (s.updMound f).workers = s.workers := rfl
@[simp] theorem State.updMound_keyTag (s : State) (f : MoundWork → MoundWork) : (s.updMound f).keyTag = s.keyTag := rfl
@[simp] theorem State.updMound_circs (s : State) (f : MoundWork → MoundWork) : (s.updMound f).circs = s.circs := rfl
@[simp] theorem State.updMound_lports (s : State) (f : MoundWork → MoundWork) : (s.updMound f).lports = s.lports := rfl
@[simp] theorem State.updMound_tiles (s : State) (f : MoundWork → MoundWork) : (s.updMound f).tiles = s.tiles := rfl
@[simp] theorem State.updMound_modules (s : State) (f : MoundWork → MoundWork) : (s.updMound f).modules = s.modules := rfl
@[simp] theorem State.updMound_img (s : State) (f : MoundWork → MoundWork) : (s.updMound f).img = s.img := rfl
@[simp] theorem State.updMound_owners (s : State) (f : MoundWork → MoundWork) : (s.updMound f).owners = s.owners := rfl
@[simp] theorem State.updMound_mound (s : State) (f : MoundWork → MoundWork) : (s.updMound f).mound = f s.mound := rfl
@[simp] theorem State.updMound_groups (s : State) (f : MoundWork → MoundWork) : (s.updMound f).groups = s.groups := rfl
@[simp] theorem State.updMound_plane (s : State) (f : MoundWork → MoundWork) : (s.updMound f).plane = s.plane := rfl
@[simp] theorem State.updMound_search (s : State) (f : MoundWork → MoundWork) : (s.updMound f).search = s.search := rfl
@[simp] theorem State.updMound_scb (s : State) (f : MoundWork → MoundWork) : (s.updMound f).scb = s.scb := rfl
@[simp] theorem State.updMound_ktd (s : State) (f : MoundWork → MoundWork) : (s.updMound f).ktd = s.ktd := rfl
@[simp] theorem State.updMound_light (s : State) (f : MoundWork → MoundWork) : (s.updMound f).light = s.light := rfl
@[simp] theorem State.updMound_host (s : State) (f : MoundWork → MoundWork) : (s.updMound f).host = s.host := rfl
@[simp] theorem State.updMound_hub (s : State) (i : Nat) (f : MoundWork → MoundWork) : (s.updMound f).hub i = s.hub i := rfl
@[simp] theorem State.updMound_worker (s : State) (i : Nat) (f : MoundWork → MoundWork) : (s.updMound f).worker i = s.worker i := rfl
@[simp] theorem State.updMound_circ (s : State) (i : Nat) (f : MoundWork → MoundWork) : (s.updMound f).circ i = s.circ i := rfl
@[simp] theorem State.updMound_lport (s : State) (i : Nat) (f : MoundWork → MoundWork) : (s.updMound f).lport i = s.lport i := rfl
@[simp] theorem State.updMound_tile (s : State) (i : Nat) (f : MoundWork → MoundWork) : (s.updMound f).tile i = s.tile i := rfl
@[simp] theorem State.updMound_module (s : State) (i : Nat) (f : MoundWork → MoundWork) : (s.updMound f).module i = s.module i := rfl
@[simp] theorem State.updMound_group (s : State) (i : Nat) (f : MoundWork → MoundWork) : (s.updMound f).group i = s.group i := rfl
@[simp] theorem State.updMound_dom (s : State) (i : Nat) (f : MoundWork → MoundWork) : (s.updMound f).dom i = s.dom i := rfl

/-! ## updHost -/

@[simp] theorem State.updHost_fit (s : State) (f : HostSide → HostSide) : (s.updHost f).fit = s.fit := rfl
@[simp] theorem State.updHost_mgr (s : State) (f : HostSide → HostSide) : (s.updHost f).mgr = s.mgr := rfl
@[simp] theorem State.updHost_rxs (s : State) (f : HostSide → HostSide) : (s.updHost f).rxs = s.rxs := rfl
@[simp] theorem State.updHost_doms (s : State) (f : HostSide → HostSide) : (s.updHost f).doms = s.doms := rfl
@[simp] theorem State.updHost_hubs (s : State) (f : HostSide → HostSide) : (s.updHost f).hubs = s.hubs := rfl
@[simp] theorem State.updHost_workers (s : State) (f : HostSide → HostSide) : (s.updHost f).workers = s.workers := rfl
@[simp] theorem State.updHost_keyTag (s : State) (f : HostSide → HostSide) : (s.updHost f).keyTag = s.keyTag := rfl
@[simp] theorem State.updHost_circs (s : State) (f : HostSide → HostSide) : (s.updHost f).circs = s.circs := rfl
@[simp] theorem State.updHost_lports (s : State) (f : HostSide → HostSide) : (s.updHost f).lports = s.lports := rfl
@[simp] theorem State.updHost_tiles (s : State) (f : HostSide → HostSide) : (s.updHost f).tiles = s.tiles := rfl
@[simp] theorem State.updHost_modules (s : State) (f : HostSide → HostSide) : (s.updHost f).modules = s.modules := rfl
@[simp] theorem State.updHost_img (s : State) (f : HostSide → HostSide) : (s.updHost f).img = s.img := rfl
@[simp] theorem State.updHost_owners (s : State) (f : HostSide → HostSide) : (s.updHost f).owners = s.owners := rfl
@[simp] theorem State.updHost_mound (s : State) (f : HostSide → HostSide) : (s.updHost f).mound = s.mound := rfl
@[simp] theorem State.updHost_groups (s : State) (f : HostSide → HostSide) : (s.updHost f).groups = s.groups := rfl
@[simp] theorem State.updHost_plane (s : State) (f : HostSide → HostSide) : (s.updHost f).plane = s.plane := rfl
@[simp] theorem State.updHost_search (s : State) (f : HostSide → HostSide) : (s.updHost f).search = s.search := rfl
@[simp] theorem State.updHost_scb (s : State) (f : HostSide → HostSide) : (s.updHost f).scb = s.scb := rfl
@[simp] theorem State.updHost_ktd (s : State) (f : HostSide → HostSide) : (s.updHost f).ktd = s.ktd := rfl
@[simp] theorem State.updHost_light (s : State) (f : HostSide → HostSide) : (s.updHost f).light = s.light := rfl
@[simp] theorem State.updHost_host (s : State) (f : HostSide → HostSide) : (s.updHost f).host = f s.host := rfl
@[simp] theorem State.updHost_hub (s : State) (i : Nat) (f : HostSide → HostSide) : (s.updHost f).hub i = s.hub i := rfl
@[simp] theorem State.updHost_worker (s : State) (i : Nat) (f : HostSide → HostSide) : (s.updHost f).worker i = s.worker i := rfl
@[simp] theorem State.updHost_circ (s : State) (i : Nat) (f : HostSide → HostSide) : (s.updHost f).circ i = s.circ i := rfl
@[simp] theorem State.updHost_lport (s : State) (i : Nat) (f : HostSide → HostSide) : (s.updHost f).lport i = s.lport i := rfl
@[simp] theorem State.updHost_tile (s : State) (i : Nat) (f : HostSide → HostSide) : (s.updHost f).tile i = s.tile i := rfl
@[simp] theorem State.updHost_module (s : State) (i : Nat) (f : HostSide → HostSide) : (s.updHost f).module i = s.module i := rfl
@[simp] theorem State.updHost_group (s : State) (i : Nat) (f : HostSide → HostSide) : (s.updHost f).group i = s.group i := rfl
@[simp] theorem State.updHost_dom (s : State) (i : Nat) (f : HostSide → HostSide) : (s.updHost f).dom i = s.dom i := rfl

/-! ## updSearch -/

@[simp] theorem State.updSearch_fit (s : State) (f : Search → Search) : (s.updSearch f).fit = s.fit := rfl
@[simp] theorem State.updSearch_mgr (s : State) (f : Search → Search) : (s.updSearch f).mgr = s.mgr := rfl
@[simp] theorem State.updSearch_rxs (s : State) (f : Search → Search) : (s.updSearch f).rxs = s.rxs := rfl
@[simp] theorem State.updSearch_doms (s : State) (f : Search → Search) : (s.updSearch f).doms = s.doms := rfl
@[simp] theorem State.updSearch_hubs (s : State) (f : Search → Search) : (s.updSearch f).hubs = s.hubs := rfl
@[simp] theorem State.updSearch_workers (s : State) (f : Search → Search) : (s.updSearch f).workers = s.workers := rfl
@[simp] theorem State.updSearch_keyTag (s : State) (f : Search → Search) : (s.updSearch f).keyTag = s.keyTag := rfl
@[simp] theorem State.updSearch_circs (s : State) (f : Search → Search) : (s.updSearch f).circs = s.circs := rfl
@[simp] theorem State.updSearch_lports (s : State) (f : Search → Search) : (s.updSearch f).lports = s.lports := rfl
@[simp] theorem State.updSearch_tiles (s : State) (f : Search → Search) : (s.updSearch f).tiles = s.tiles := rfl
@[simp] theorem State.updSearch_modules (s : State) (f : Search → Search) : (s.updSearch f).modules = s.modules := rfl
@[simp] theorem State.updSearch_img (s : State) (f : Search → Search) : (s.updSearch f).img = s.img := rfl
@[simp] theorem State.updSearch_owners (s : State) (f : Search → Search) : (s.updSearch f).owners = s.owners := rfl
@[simp] theorem State.updSearch_mound (s : State) (f : Search → Search) : (s.updSearch f).mound = s.mound := rfl
@[simp] theorem State.updSearch_groups (s : State) (f : Search → Search) : (s.updSearch f).groups = s.groups := rfl
@[simp] theorem State.updSearch_plane (s : State) (f : Search → Search) : (s.updSearch f).plane = s.plane := rfl
@[simp] theorem State.updSearch_search (s : State) (f : Search → Search) : (s.updSearch f).search = f s.search := rfl
@[simp] theorem State.updSearch_scb (s : State) (f : Search → Search) : (s.updSearch f).scb = s.scb := rfl
@[simp] theorem State.updSearch_ktd (s : State) (f : Search → Search) : (s.updSearch f).ktd = s.ktd := rfl
@[simp] theorem State.updSearch_light (s : State) (f : Search → Search) : (s.updSearch f).light = s.light := rfl
@[simp] theorem State.updSearch_host (s : State) (f : Search → Search) : (s.updSearch f).host = s.host := rfl
@[simp] theorem State.updSearch_hub (s : State) (i : Nat) (f : Search → Search) : (s.updSearch f).hub i = s.hub i := rfl
@[simp] theorem State.updSearch_worker (s : State) (i : Nat) (f : Search → Search) : (s.updSearch f).worker i = s.worker i := rfl
@[simp] theorem State.updSearch_circ (s : State) (i : Nat) (f : Search → Search) : (s.updSearch f).circ i = s.circ i := rfl
@[simp] theorem State.updSearch_lport (s : State) (i : Nat) (f : Search → Search) : (s.updSearch f).lport i = s.lport i := rfl
@[simp] theorem State.updSearch_tile (s : State) (i : Nat) (f : Search → Search) : (s.updSearch f).tile i = s.tile i := rfl
@[simp] theorem State.updSearch_module (s : State) (i : Nat) (f : Search → Search) : (s.updSearch f).module i = s.module i := rfl
@[simp] theorem State.updSearch_group (s : State) (i : Nat) (f : Search → Search) : (s.updSearch f).group i = s.group i := rfl
@[simp] theorem State.updSearch_dom (s : State) (i : Nat) (f : Search → Search) : (s.updSearch f).dom i = s.dom i := rfl

/-! ## updKtd -/

@[simp] theorem State.updKtd_fit (s : State) (f : Ktd → Ktd) : (s.updKtd f).fit = s.fit := rfl
@[simp] theorem State.updKtd_mgr (s : State) (f : Ktd → Ktd) : (s.updKtd f).mgr = s.mgr := rfl
@[simp] theorem State.updKtd_rxs (s : State) (f : Ktd → Ktd) : (s.updKtd f).rxs = s.rxs := rfl
@[simp] theorem State.updKtd_doms (s : State) (f : Ktd → Ktd) : (s.updKtd f).doms = s.doms := rfl
@[simp] theorem State.updKtd_hubs (s : State) (f : Ktd → Ktd) : (s.updKtd f).hubs = s.hubs := rfl
@[simp] theorem State.updKtd_workers (s : State) (f : Ktd → Ktd) : (s.updKtd f).workers = s.workers := rfl
@[simp] theorem State.updKtd_keyTag (s : State) (f : Ktd → Ktd) : (s.updKtd f).keyTag = s.keyTag := rfl
@[simp] theorem State.updKtd_circs (s : State) (f : Ktd → Ktd) : (s.updKtd f).circs = s.circs := rfl
@[simp] theorem State.updKtd_lports (s : State) (f : Ktd → Ktd) : (s.updKtd f).lports = s.lports := rfl
@[simp] theorem State.updKtd_tiles (s : State) (f : Ktd → Ktd) : (s.updKtd f).tiles = s.tiles := rfl
@[simp] theorem State.updKtd_modules (s : State) (f : Ktd → Ktd) : (s.updKtd f).modules = s.modules := rfl
@[simp] theorem State.updKtd_img (s : State) (f : Ktd → Ktd) : (s.updKtd f).img = s.img := rfl
@[simp] theorem State.updKtd_owners (s : State) (f : Ktd → Ktd) : (s.updKtd f).owners = s.owners := rfl
@[simp] theorem State.updKtd_mound (s : State) (f : Ktd → Ktd) : (s.updKtd f).mound = s.mound := rfl
@[simp] theorem State.updKtd_groups (s : State) (f : Ktd → Ktd) : (s.updKtd f).groups = s.groups := rfl
@[simp] theorem State.updKtd_plane (s : State) (f : Ktd → Ktd) : (s.updKtd f).plane = s.plane := rfl
@[simp] theorem State.updKtd_search (s : State) (f : Ktd → Ktd) : (s.updKtd f).search = s.search := rfl
@[simp] theorem State.updKtd_scb (s : State) (f : Ktd → Ktd) : (s.updKtd f).scb = s.scb := rfl
@[simp] theorem State.updKtd_ktd (s : State) (f : Ktd → Ktd) : (s.updKtd f).ktd = f s.ktd := rfl
@[simp] theorem State.updKtd_light (s : State) (f : Ktd → Ktd) : (s.updKtd f).light = s.light := rfl
@[simp] theorem State.updKtd_host (s : State) (f : Ktd → Ktd) : (s.updKtd f).host = s.host := rfl
@[simp] theorem State.updKtd_hub (s : State) (i : Nat) (f : Ktd → Ktd) : (s.updKtd f).hub i = s.hub i := rfl
@[simp] theorem State.updKtd_worker (s : State) (i : Nat) (f : Ktd → Ktd) : (s.updKtd f).worker i = s.worker i := rfl
@[simp] theorem State.updKtd_circ (s : State) (i : Nat) (f : Ktd → Ktd) : (s.updKtd f).circ i = s.circ i := rfl
@[simp] theorem State.updKtd_lport (s : State) (i : Nat) (f : Ktd → Ktd) : (s.updKtd f).lport i = s.lport i := rfl
@[simp] theorem State.updKtd_tile (s : State) (i : Nat) (f : Ktd → Ktd) : (s.updKtd f).tile i = s.tile i := rfl
@[simp] theorem State.updKtd_module (s : State) (i : Nat) (f : Ktd → Ktd) : (s.updKtd f).module i = s.module i := rfl
@[simp] theorem State.updKtd_group (s : State) (i : Nat) (f : Ktd → Ktd) : (s.updKtd f).group i = s.group i := rfl
@[simp] theorem State.updKtd_dom (s : State) (i : Nat) (f : Ktd → Ktd) : (s.updKtd f).dom i = s.dom i := rfl

/-! ## withPending -/

@[simp] theorem State.withPending_fit (s : State) (q : List Instr) : (s.withPending q).fit = s.fit := rfl
@[simp] theorem State.withPending_mgr (s : State) (q : List Instr) : (s.withPending q).mgr = s.mgr := rfl
@[simp] theorem State.withPending_rxs (s : State) (q : List Instr) : (s.withPending q).rxs = s.rxs := rfl
@[simp] theorem State.withPending_doms (s : State) (q : List Instr) : (s.withPending q).doms = s.doms := rfl
@[simp] theorem State.withPending_hubs (s : State) (q : List Instr) : (s.withPending q).hubs = s.hubs := rfl
@[simp] theorem State.withPending_workers (s : State) (q : List Instr) : (s.withPending q).workers = s.workers := rfl
@[simp] theorem State.withPending_mem (s : State) (q : List Instr) : (s.withPending q).mem = s.mem := rfl
@[simp] theorem State.withPending_keyTag (s : State) (q : List Instr) : (s.withPending q).keyTag = s.keyTag := rfl
@[simp] theorem State.withPending_circs (s : State) (q : List Instr) : (s.withPending q).circs = s.circs := rfl
@[simp] theorem State.withPending_lports (s : State) (q : List Instr) : (s.withPending q).lports = s.lports := rfl
@[simp] theorem State.withPending_tiles (s : State) (q : List Instr) : (s.withPending q).tiles = s.tiles := rfl
@[simp] theorem State.withPending_modules (s : State) (q : List Instr) : (s.withPending q).modules = s.modules := rfl
@[simp] theorem State.withPending_img (s : State) (q : List Instr) : (s.withPending q).img = s.img := rfl
@[simp] theorem State.withPending_owners (s : State) (q : List Instr) : (s.withPending q).owners = s.owners := rfl
@[simp] theorem State.withPending_mound (s : State) (q : List Instr) : (s.withPending q).mound = s.mound := rfl
@[simp] theorem State.withPending_groups (s : State) (q : List Instr) : (s.withPending q).groups = s.groups := rfl
@[simp] theorem State.withPending_plane (s : State) (q : List Instr) : (s.withPending q).plane = s.plane := rfl
@[simp] theorem State.withPending_search (s : State) (q : List Instr) : (s.withPending q).search = s.search := rfl
@[simp] theorem State.withPending_scb (s : State) (q : List Instr) : (s.withPending q).scb = s.scb := rfl
@[simp] theorem State.withPending_ktd (s : State) (q : List Instr) : (s.withPending q).ktd = s.ktd := rfl
@[simp] theorem State.withPending_light (s : State) (q : List Instr) : (s.withPending q).light = s.light := rfl
@[simp] theorem State.withPending_host (s : State) (q : List Instr) : (s.withPending q).host = s.host := rfl
@[simp] theorem State.withPending_pending (s : State) (q : List Instr) : (s.withPending q).pending = q := rfl
@[simp] theorem State.withPending_hub (s : State) (q : List Instr) (i : Nat) : (s.withPending q).hub i = s.hub i := rfl
@[simp] theorem State.withPending_worker (s : State) (q : List Instr) (i : Nat) : (s.withPending q).worker i = s.worker i := rfl
@[simp] theorem State.withPending_circ (s : State) (q : List Instr) (i : Nat) : (s.withPending q).circ i = s.circ i := rfl
@[simp] theorem State.withPending_lport (s : State) (q : List Instr) (i : Nat) : (s.withPending q).lport i = s.lport i := rfl
@[simp] theorem State.withPending_tile (s : State) (q : List Instr) (i : Nat) : (s.withPending q).tile i = s.tile i := rfl
@[simp] theorem State.withPending_module (s : State) (q : List Instr) (i : Nat) : (s.withPending q).module i = s.module i := rfl
@[simp] theorem State.withPending_group (s : State) (q : List Instr) (i : Nat) : (s.withPending q).group i = s.group i := rfl
@[simp] theorem State.withPending_dom (s : State) (q : List Instr) (i : Nat) : (s.withPending q).dom i = s.dom i := rfl

/-! ## Parts of a worker and of a hub -/

@[simp] theorem Worker.updCore_core_self (x : Worker) (n : Nat) (f : StagCore → StagCore) : (x.updCore n f).core n = f (x.core n) :=
  Tab.get_set_self _ _ _ _

@[simp] theorem Worker.updCore_core_ne (x : Worker) {n i : Nat} (f : StagCore → StagCore) (h : i ≠ n) :
    (x.updCore n f).core i = x.core i := Tab.get_set_ne _ _ _ h

@[simp] theorem State.updCore_core_self (s : State) (w n : Nat) (f : StagCore → StagCore) : (s.updCore w n f).core w n = f (s.core w n) := by
  simp [State.updCore, State.core]

/-- The core that is changed is one core of one worker. -/
theorem State.updCore_core (s : State) (w n v i : Nat) (f : StagCore → StagCore) :
    (s.updCore w n f).core v i = if v = w ∧ i = n then f (s.core w n) else s.core v i := by
  by_cases hv : v = w
  · subst hv
    by_cases hi : i = n
    · subst hi; simp
    · simp [State.updCore, State.core, hi]
  · simp [State.updCore, State.core, hv]

@[simp] theorem State.updCore_flight (s : State) (w n v : Nat) (f : StagCore → StagCore) :
    ((s.updCore w n f).worker v).inflight = (s.worker v).inflight := by
  by_cases h : v = w
  · subst h; simp [State.updCore, Worker.updCore]
  · simp [State.updCore, h]

@[simp] theorem State.updLink_link_self (s : State) (w j : Nat) (f : Link → Link) :
    ((s.updLink w j f).worker w).link j = f ((s.worker w).link j) := by
  simp [State.updLink, Worker.link]

@[simp] theorem State.updLink_link_ne (s : State) (w : Nat) {j i : Nat} (f : Link → Link) (h : i ≠ j) :
    ((s.updLink w j f).worker w).link i = (s.worker w).link i := by
  simp [State.updLink, Worker.link, h]

@[simp] theorem State.updPort_port_self (s : State) (w p : Nat) (f : Port → Port) :
    ((s.updPort w p f).worker w).port p = f ((s.worker w).port p) := by
  simp [State.updPort, Worker.port]

@[simp] theorem State.updPort_port_ne (s : State) (w : Nat) {p i : Nat} (f : Port → Port) (h : i ≠ p) :
    ((s.updPort w p f).worker w).port i = (s.worker w).port i := by
  simp [State.updPort, Worker.port, h]

@[simp] theorem State.updQueue_queue_self (s : State) (k q : Nat) (f : Queue → Queue) :
    ((s.updQueue k q f).hub k).queue q = f ((s.hub k).queue q) := by
  simp [State.updQueue, Hub.queue]

@[simp] theorem State.updQueue_queue_ne (s : State) (k : Nat) {q i : Nat} (f : Queue → Queue) (h : i ≠ q) :
    ((s.updQueue k q f).hub k).queue i = (s.hub k).queue i := by
  simp [State.updQueue, Hub.queue, h]

/-- A free value is named by a number that only grows. -/
@[simp] theorem State.draw_fst (s : State) : s.draw.1 = s.mgr.fresh := rfl

@[simp] theorem State.draw_fresh (s : State) : s.draw.2.mgr.fresh = s.mgr.fresh + 1 := rfl

@[simp] theorem State.draw_workers (s : State) : s.draw.2.workers = s.workers := rfl

/-! ## Messages and completions -/

/-- A message to every fitted hub stands last in each one's inbox. -/
theorem State.forEach_hub (s : State) (f : Hub → Hub) (l : List Nat) (hl : l.Nodup) (k : Nat) :
    (s.forEach l fun st j => st.updHub j f).hub k = if k ∈ l then f (s.hub k) else s.hub k := by
  induction l generalizing s with
  | nil => rfl
  | cons j l ih =>
    have hj : j ∉ l := (List.nodup_cons.mp hl).1
    show ((s.updHub j f).forEach l fun st j => st.updHub j f).hub k = _
    rw [ih _ (List.nodup_cons.mp hl).2]
    by_cases h : k = j
    · subst h; simp [hj]
    · simp [h]

/-- What a broadcast does: the message stands last in the inbox of every fitted hub, and nothing else of a hub changes. -/
theorem State.broadcast_hub (s : State) (m : Msg) (k : Nat) :
    (s.broadcast m).hub k = if k < s.fit.sleds then { s.hub k with inbox := (s.hub k).inbox ++ [m] } else s.hub k := by
  unfold State.broadcast
  have hb := s.forEach_hub (fun h => { h with inbox := h.inbox ++ [m] }) s.fit.sledList List.nodup_range k
  simpa [Fit.sledList] using hb

/-- A final completion of a host command stands last among the completions its hub carries. -/
theorem State.final_host (s : State) (c : Cmd) (status : Nat) (r : List (Nat × Nat)) (k q t p : Nat) (h : c.src = .host k q t p) :
    ((s.final c status r).hub k).cpls =
      (s.hub k).cpls ++ [{ cmd := c, interim := false, status := status, frame := s.mgr.frame, result := r }] := by
  simp [State.final, State.send, h]

end Sys2Proof.Machine
end

