-- ==== Sys2Proof/Laws/Commands.lean ====
section
/-! SUPPORT. What deciding a command does (R339, R340): the refusals in their order, and the effect where every check passes. -/

namespace Sys2Proof.Machine

/-- Nothing is decided while the machine is Off or in Bring-up. -/
theorem State.decideCmd_deaf (s : State) (c : Cmd) (op : Nat) (rg dt : Bool) (ok : List MState) (ch : List (Bool × Nat))
    (eff : State → State) (h : s.mgr.mode.deaf = true) : s.decideCmd c op rg dt ok ch eff = s := by
  simp [State.decideCmd, h]

/-- A refused command completes with the status of its refusal and has no other effect. -/
theorem State.decideCmd_refused (s : State) (c : Cmd) (op : Nat) (rg dt : Bool) (ok : List MState) (ch : List (Bool × Nat))
    (eff : State → State) (st : Nat) (h : s.mgr.mode.deaf = false) (hr : s.refusal c op rg dt ok ch = some st) :
    s.decideCmd c op rg dt ok ch eff = s.final c st := by
  simp [State.decideCmd, h, hr]

/-- A command that nothing refuses has its effect. -/
theorem State.decideCmd_accepted (s : State) (c : Cmd) (op : Nat) (rg dt : Bool) (ok : List MState) (ch : List (Bool × Nat))
    (eff : State → State) (h : s.mgr.mode.deaf = false) (hr : s.refusal c op rg dt ok ch = none) :
    s.decideCmd c op rg dt ok ch eff = eff s := by
  simp [State.decideCmd, h, hr]

/-- Everything that deciding a command can do. -/
theorem State.decideCmd_cases (s : State) (c : Cmd) (op : Nat) (rg dt : Bool) (ok : List MState) (ch : List (Bool × Nat))
    (eff : State → State) :
    (s.mgr.mode.deaf = true ∧ s.decideCmd c op rg dt ok ch eff = s) ∨
    (∃ st, s.mgr.mode.deaf = false ∧ s.refusal c op rg dt ok ch = some st ∧ s.decideCmd c op rg dt ok ch eff = s.final c st) ∨
    (s.mgr.mode.deaf = false ∧ s.refusal c op rg dt ok ch = none ∧ s.decideCmd c op rg dt ok ch eff = eff s) := by
  by_cases h : s.mgr.mode.deaf = true
  · exact .inl ⟨h, s.decideCmd_deaf c op rg dt ok ch eff h⟩
  · have h' : s.mgr.mode.deaf = false := by simpa using h
    cases hr : s.refusal c op rg dt ok ch with
    | some st => exact .inr (.inl ⟨st, h', rfl, s.decideCmd_refused c op rg dt ok ch eff st h' hr⟩)
    | none => exact .inr (.inr ⟨h', rfl, s.decideCmd_accepted c op rg dt ok ch eff h' hr⟩)

/-- A command is accepted exactly where every check passes. -/
theorem State.refusal_eq_none (s : State) (c : Cmd) (op : Nat) (rg dt : Bool) (ok : List MState) (ch : List (Bool × Nat)) :
    s.refusal c op rg dt ok ch = none ↔
      c.op = op ∧ c.fixedOk = true ∧ rg = true ∧ dt = true ∧ stateRefusal s.mgr.mode ok = none ∧ firstFail ch = none := by
  unfold State.refusal
  by_cases h1 : c.op = op <;> by_cases h2 : c.fixedOk = true <;> cases rg <;> cases dt <;>
    cases h3 : stateRefusal s.mgr.mode ok <;> simp [h1, h2]

/-- The first check is the opcode, the reserved bits and the ranges. -/
theorem State.refusal_bad (s : State) (c : Cmd) (op : Nat) (rg dt : Bool) (ok : List MState) (ch : List (Bool × Nat))
    (h : (c.op == op && c.fixedOk && rg) = false) : s.refusal c op rg dt ok ch = some stBadCommand := by
  simp [State.refusal, h]

/-- Where the first two checks pass, the state is judged before the governing rule's own checks. -/
theorem State.refusal_state (s : State) (c : Cmd) (op st : Nat) (ok : List MState) (ch : List (Bool × Nat)) (hop : c.op = op)
    (hf : c.fixedOk = true) (h : stateRefusal s.mgr.mode ok = some st) : s.refusal c op true true ok ch = some st := by
  simp [State.refusal, hop, hf, h]

theorem stateRefusal_ok (m : MState) (ok : List MState) (h : ok.contains m = true) : stateRefusal m ok = none := if_pos h

/-- The checks of a rule pass exactly where each of them does. -/
theorem firstFail_eq_none (l : List (Bool × Nat)) : firstFail l = none ↔ ∀ x ∈ l, x.1 = true := by
  induction l with
  | nil => simp [firstFail]
  | cons x l ih =>
    obtain ⟨g, st⟩ := x
    cases g <;> simp [firstFail, ih]

end Sys2Proof.Machine
end

