-- ==== Sys2Proof/Laws/Memory.lean ====
section
/-! SUPPORT. Laws of memory: what a byte reads as after bytes are written, and that every memory operation keeps the canonical form. -/

namespace Sys2Proof.Machine

/-- Every address of a memory is at or above a bound. -/
def memFrom (a : Nat) (m : List Host.Cell) : Prop := ∀ c ∈ m, a ≤ c.1

/-- The canonical form, by its first entry: it holds no unlisted byte, the rest lies above it, and the rest is canonical. -/
theorem memory_wf_cons (c : Host.Cell) (m : List Host.Cell) :
    Memory.wf (c :: m) = true ↔ c.2 ≠ unlisted ∧ memFrom (c.1 + 1) m ∧ Memory.wf m = true := by
  induction m generalizing c with
  | nil => simp [Memory.wf, memRising, memFrom]
  | cons d rest ih =>
    obtain ⟨a, x⟩ := c
    obtain ⟨b, y⟩ := d
    have hd := ih (b, y)
    simp only [Memory.wf, memRising, memFrom, List.all_cons, Bool.and_eq_true, decide_eq_true_eq, List.mem_cons, forall_eq_or_imp] at hd ⊢
    constructor
    · rintro ⟨⟨h1, h2⟩, h3, h4, h5⟩
      obtain ⟨_, h6, _⟩ := hd.mp ⟨h2, h4, h5⟩
      exact ⟨h3, ⟨h1, fun e he => le_trans (by omega) (h6 e he)⟩, h2, h4, h5⟩
    · rintro ⟨h1, ⟨h2, _⟩, h3, h4, h5⟩
      exact ⟨⟨h2, h3⟩, h1, h4, h5⟩

@[simp] theorem memory_wf_nil : Memory.wf [] = true := rfl

/-- A byte put into a memory leaves every address at or above a bound that it and the memory respect. -/
theorem memFrom_memPut (k a : Nat) (b : Byte) (m : List Host.Cell) (ha : k ≤ a) (hm : memFrom k m) : memFrom k (memPut a b m) := by
  induction m with
  | nil => unfold memPut; split <;> simp [memFrom, ha]
  | cons c rest ih =>
    obtain ⟨i, x⟩ := c
    simp only [memFrom, List.mem_cons, forall_eq_or_imp] at hm ⊢
    unfold memPut
    (repeat' split) <;> intro e he <;> try simp only [List.mem_cons] at he
    · rcases he with rfl | he
      · exact hm.1
      · exact hm.2 e he
    · rcases he with rfl | rfl | he
      · exact ha
      · exact hm.1
      · exact hm.2 e he
    · exact hm.2 e he
    · rcases he with rfl | he
      · exact ha
      · exact hm.2 e he
    · rcases he with rfl | he
      · exact hm.1
      · exact ih hm.2 e he

/-- Putting a byte keeps the canonical form. -/
theorem memory_wf_memPut (a : Nat) (b : Byte) (m : List Host.Cell) (h : Memory.wf m = true) : Memory.wf (memPut a b m) = true := by
  induction m with
  | nil =>
    unfold memPut
    split
    · rfl
    · rename_i hb
      exact (memory_wf_cons _ _).mpr ⟨hb, by simp [memFrom], rfl⟩
  | cons c rest ih =>
    obtain ⟨i, x⟩ := c
    obtain ⟨h1, h2, h3⟩ := (memory_wf_cons _ _).mp h
    unfold memPut
    (repeat' split)
    · exact h
    · rename_i hlt hb
      refine (memory_wf_cons _ _).mpr ⟨hb, ?_, h⟩
      intro e he
      rcases List.mem_cons.mp he with rfl | he
      · exact hlt
      · exact le_trans (by simp only at hlt ⊢; omega) (h2 e he)
    · exact h3
    · rename_i heq hb
      subst heq
      exact (memory_wf_cons _ _).mpr ⟨hb, h2, h3⟩
    · rename_i hlt hne
      exact (memory_wf_cons _ _).mpr ⟨h1, memFrom_memPut _ _ _ _ (by simp only at hlt hne ⊢; omega) h2, ih h3⟩

/-- Writing bytes keeps the canonical form. -/
theorem memory_wf_memPutAll (a : Nat) (l : List Byte) (m : List Host.Cell) (h : Memory.wf m = true) :
    Memory.wf (memPutAll a l m) = true := by
  induction l generalizing a m with
  | nil => exact h
  | cons b rest ih => exact ih (a + 1) _ (memory_wf_memPut a b m h)

/-- Taking entries out keeps the canonical form. -/
theorem memory_wf_filter (p : Host.Cell → Bool) (m : List Host.Cell) (h : Memory.wf m = true) : Memory.wf (m.filter p) = true := by
  induction m with
  | nil => rfl
  | cons c rest ih =>
    obtain ⟨h1, h2, h3⟩ := (memory_wf_cons _ _).mp h
    rw [List.filter_cons]
    split
    · exact (memory_wf_cons _ _).mpr ⟨h1, fun e he => h2 e (List.mem_of_mem_filter he), ih h3⟩
    · exact ih h3

/-- Nothing is found below the bound of a memory. -/
theorem memGet_of_memFrom (a : Nat) (m : List Host.Cell) (h : memFrom (a + 1) m) : memGet m a = unlisted := by
  have hf : Tab.find a m = none := by
    induction m with
    | nil => rfl
    | cons c rest ih =>
      obtain ⟨i, x⟩ := c
      simp only [memFrom, List.mem_cons, forall_eq_or_imp] at h
      have hi : i ≠ a := by have := h.1; omega
      simp only [Tab.find, if_neg hi]
      exact ih h.2
  simp [memGet, hf]

/-- Read after write, one byte: the address written reads the byte, every other address what it read before. -/
theorem memGet_memPut (a i : Nat) (b : Byte) (m : List Host.Cell) (h : Memory.wf m = true) :
    memGet (memPut a b m) i = if i = a then b else memGet m i := by
  induction m with
  | nil =>
    unfold memPut
    by_cases hb : b = unlisted
    · subst hb; by_cases hi : i = a <;> simp [memGet, Tab.find, hi]
    · by_cases hi : i = a
      · subst hi; simp [memGet, Tab.find, hb]
      · simp [memGet, Tab.find, hb, hi, Ne.symm hi]
  | cons c rest ih =>
    obtain ⟨j, x⟩ := c
    obtain ⟨h1, h2, h3⟩ := (memory_wf_cons _ _).mp h
    have hr := ih h3
    unfold memPut
    by_cases hlt : a < j
    · rw [if_pos hlt]
      by_cases hb : b = unlisted
      · rw [if_pos hb]
        by_cases hi : i = a
        · subst hi
          rw [if_pos rfl, hb]
          refine memGet_of_memFrom _ _ ?_
          intro e he
          rcases List.mem_cons.mp he with rfl | he
          · exact hlt
          · exact le_trans (by simp only at hlt ⊢; omega) (h2 e he)
        · rw [if_neg hi]
      · rw [if_neg hb]
        by_cases hi : i = a
        · subst hi; simp [memGet, Tab.find]
        · simp [memGet, Tab.find, hi, Ne.symm hi]
    · rw [if_neg hlt]
      by_cases hj : a = j
      · subst hj
        rw [if_pos rfl]
        by_cases hb : b = unlisted
        · rw [if_pos hb]
          by_cases hi : i = a
          · subst hi
            rw [if_pos rfl, hb]
            exact memGet_of_memFrom _ _ h2
          · rw [if_neg hi]; simp [memGet, Tab.find, Ne.symm hi]
        · rw [if_neg hb]
          by_cases hi : i = a
          · subst hi; simp [memGet, Tab.find]
          · simp [memGet, Tab.find, hi, Ne.symm hi]
      · rw [if_neg hj]
        by_cases hi : j = i
        · subst hi
          rw [if_neg (Ne.symm hj)]; simp [memGet, Tab.find]
        · simp only [memGet, Tab.find, if_neg hi] at hr ⊢
          exact hr

/-- Read after write of several bytes. -/
theorem memGet_memPutAll (a i : Nat) (l : List Byte) (m : List Host.Cell) (h : Memory.wf m = true) :
    memGet (memPutAll a l m) i = if a ≤ i ∧ i < a + l.length then l.getD (i - a) 0 else memGet m i := by
  induction l generalizing a m with
  | nil => simp [memPutAll]
  | cons b rest ih =>
    rw [memPutAll, ih (a + 1) _ (memory_wf_memPut a b m h), memGet_memPut _ _ _ _ h]
    by_cases hi : i = a
    · subst hi
      rw [if_neg (by omega), if_pos rfl, if_pos ⟨le_refl _, by simp⟩]
      simp
    · by_cases hin : a + 1 ≤ i ∧ i < a + 1 + rest.length
      · rw [if_pos hin, if_pos (by simp only [List.length_cons]; omega)]
        obtain ⟨k, hk⟩ : ∃ k, i - a = k + 1 := ⟨i - a - 1, by omega⟩
        have hk' : i - (a + 1) = k := by omega
        rw [hk, hk']
        simp
      · rw [if_neg hin, if_neg hi, if_neg (by simp only [List.length_cons]; omega)]

end Sys2Proof.Machine
end

