-- ==== Sys2Proof/Laws/MemoryKept.lean ====
section
/-! SUPPORT. The operations of the machine that leave memory as it is: one lemma for each. Those that write memory are in Laws/MemoryWritten.lean. -/

set_option linter.unusedSimpArgs false
set_option linter.unusedTactic false
set_option linter.unreachableTactic false

namespace Sys2Proof.Machine

@[simp] theorem foldl_mem {α : Type} (f : State → α → State) (h : ∀ s a, (f s a).mem = s.mem) (l : List α) (s : State) :
    (l.foldl f s).mem = s.mem := by
  induction l generalizing s with
  | nil => rfl
  | cons a l ih => rw [List.foldl_cons, ih, h]
theorem foldl_pair_mem {α β : Type} (f : State × β → α → State × β) (h : ∀ s a, (f s a).1.mem = s.1.mem) (l : List α) (s : State × β) :
    (l.foldl f s).1.mem = s.1.mem := by
  induction l generalizing s with
  | nil => rfl
  | cons a l ih => rw [List.foldl_cons, ih, h]

@[simp] theorem State.updHub_mem (s : State) (k : Nat) (f : Hub → Hub) : (State.updHub s k f).mem = s.mem := by
  simp [State.updHub]

@[simp] theorem State.updWorker_mem (s : State) (w : Nat) (f : Worker → Worker) : (State.updWorker s w f).mem = s.mem := by
  simp [State.updWorker]

@[simp] theorem State.updCirc_mem (s : State) (c : Nat) (f : Circ → Circ) : (State.updCirc s c f).mem = s.mem := by
  simp [State.updCirc]

@[simp] theorem State.updLPort_mem (s : State) (q : Nat) (f : LPort → LPort) : (State.updLPort s q f).mem = s.mem := by
  simp [State.updLPort]

@[simp] theorem State.updTile_mem (s : State) (t : Nat) (f : Tile → Tile) : (State.updTile s t f).mem = s.mem := by
  simp [State.updTile]

@[simp] theorem State.updModule_mem (s : State) (k : Nat) (f : Module → Module) : (State.updModule s k f).mem = s.mem := by
  simp [State.updModule]

@[simp] theorem State.updGroup_mem (s : State) (g : Nat) (f : Group → Group) : (State.updGroup s g f).mem = s.mem := by
  simp [State.updGroup]

@[simp] theorem State.updDom_mem (s : State) (d : Nat) (f : TickDom → TickDom) : (State.updDom s d f).mem = s.mem := by
  simp [State.updDom]

@[simp] theorem State.updMgr_mem (s : State) (f : Mgr → Mgr) : (State.updMgr s f).mem = s.mem := by
  simp [State.updMgr]

@[simp] theorem State.updPlane_mem (s : State) (f : Plane → Plane) : (State.updPlane s f).mem = s.mem := by
  simp [State.updPlane]

@[simp] theorem State.updScb_mem (s : State) (f : Scarab → Scarab) : (State.updScb s f).mem = s.mem := by
  simp [State.updScb]

@[simp] theorem State.updImg_mem (s : State) (f : Img → Img) : (State.updImg s f).mem = s.mem := by
  simp [State.updImg]

@[simp] theorem State.updOwners_mem (s : State) (f : Owners → Owners) : (State.updOwners s f).mem = s.mem := by
  simp [State.updOwners]

@[simp] theorem State.updMound_mem (s : State) (f : MoundWork → MoundWork) : (State.updMound s f).mem = s.mem := by
  simp [State.updMound]

@[simp] theorem State.updHost_mem (s : State) (f : HostSide → HostSide) : (State.updHost s f).mem = s.mem := by
  simp [State.updHost]

@[simp] theorem State.updSearch_mem (s : State) (f : Search → Search) : (State.updSearch s f).mem = s.mem := by
  simp [State.updSearch]

@[simp] theorem State.updKtd_mem (s : State) (f : Ktd → Ktd) : (State.updKtd s f).mem = s.mem := by
  simp [State.updKtd]

@[simp] theorem State.updCore_mem (s : State) (w n : Nat) (f : StagCore → StagCore) : (State.updCore s w n f).mem = s.mem := by
  simp [State.updCore]

@[simp] theorem State.updLink_mem (s : State) (w j : Nat) (f : Link → Link) : (State.updLink s w j f).mem = s.mem := by
  simp [State.updLink]

@[simp] theorem State.updPort_mem (s : State) (w p : Nat) (f : Port → Port) : (State.updPort s w p f).mem = s.mem := by
  simp [State.updPort]

@[simp] theorem State.updQueue_mem (s : State) (k q : Nat) (f : Queue → Queue) : (State.updQueue s k q f).mem = s.mem := by
  simp [State.updQueue]

@[simp] theorem State.forEach_mem (s : State) (l : List Nat) (f : State → Nat → State) (hf : ∀ s a, (f s a).mem = s.mem) : (State.forEach s l f).mem = s.mem := by
  simp [State.forEach, apply_ite State.mem, hf]

@[simp] theorem State.draw_mem (s : State) : (State.draw s).2.mem = s.mem := by
  simp [State.draw]

@[simp] theorem State.arrive_mem (s : State) (e n mc : Nat) : (State.arrive s e n mc).mem = s.mem := by
  simp [State.arrive]

@[simp] theorem State.setMode_mem (s : State) (m : MState) (cause : Nat) : (State.setMode s m cause).mem = s.mem := by
  unfold State.setMode
  split <;> simp

@[simp] theorem State.raise_mem (s : State) (code : Nat) (fields : List (Nat × Nat × Nat)) : (State.raise s code fields).mem = s.mem := by
  unfold State.raise
  split <;> simp

@[simp] theorem State.send_mem (s : State) (c : Completion) : (State.send s c).mem = s.mem := by
  unfold State.send
  (repeat' split) <;> simp

@[simp] theorem State.final_mem (s : State) (c : Cmd) (status : Nat) (result : List (Nat × Nat)) : (State.final s c status result).mem = s.mem := by
  simp [State.final]

@[simp] theorem State.interim_mem (s : State) (c : Cmd) (result : List (Nat × Nat)) : (State.interim s c result).mem = s.mem := by
  simp [State.interim]

@[simp] theorem State.finalQ_mem (s : State) (c : Option Cmd) (status : Nat) (result : List (Nat × Nat)) : (State.final? s c status result).mem = s.mem := by
  unfold State.final?
  split <;> simp

@[simp] theorem State.broadcast_mem (s : State) (m : Msg) : (State.broadcast s m).mem = s.mem := by
  simp [State.broadcast]

@[simp] theorem State.emit_mem (s : State) (o : Out) : (State.emit s o).mem = s.mem := by
  simp [State.emit]

@[simp] theorem State.fetch_mem (s : State) (k : Nat) : (State.fetch s k).mem = s.mem := by
  simp [State.fetch]

@[simp] theorem State.hostAccess_mem (s : State) (k : Nat) (f : State → State) (hf : ∀ s, (f s).mem = s.mem) : (State.hostAccess s k f).mem = s.mem := by
  unfold State.hostAccess
  try dsimp only
  repeat' (first | (simp [apply_ite State.mem, hf]; done) | (dsimp only; split) | split | (refine foldl_mem _ (fun _ _ => ?_) _ _))

@[simp] theorem State.sqtail_mem (s : State) (k q v : Nat) : (State.sqtail s k q v).mem = s.mem := by
  simp [State.sqtail]

@[simp] theorem State.cqhead_mem (s : State) (k q v : Nat) : (State.cqhead s k q v).mem = s.mem := by
  simp [State.cqhead]

@[simp] theorem State.writeLinkReg_mem (s : State) (k o v be : Nat) : (State.writeLinkReg s k o v be).mem = s.mem := by
  simp [State.writeLinkReg, apply_ite State.mem]

@[simp] theorem State.applyHubWrites_mem (s : State) (k : Nat) : (State.applyHubWrites s k).mem = s.mem := by
  unfold State.applyHubWrites
  exact (foldl_mem _ (fun _ _ => by simp) _ _).trans (by simp)

@[simp] theorem State.message_mem (s : State) (k v : Nat) : (State.message s k v).mem = s.mem := by
  unfold State.message
  split <;> simp

@[simp] theorem State.writeCompletion_mem (s : State) (k : Nat) (c : Completion) : (State.writeCompletion s k c).mem = s.mem := by
  unfold State.writeCompletion
  dsimp only
  (repeat' split) <;> simp [apply_ite State.mem]

@[simp] theorem State.writeEvent_mem (s : State) (k : Nat) (e : EventRec) : (State.writeEvent s k e).mem = s.mem := by
  simp [State.writeEvent, apply_ite State.mem]

@[simp] theorem State.decideCmd_mem (s : State) (c : Cmd) (op : Nat) (ranges data : Bool) (ok : List MState) (checks : List (Bool × Nat)) (eff : State → State) (heff : ∀ s, (eff s).mem = s.mem) : (State.decideCmd s c op ranges data ok checks eff).mem = s.mem := by
  unfold State.decideCmd
  try dsimp only
  repeat' (first | (simp [apply_ite State.mem, heff]; done) | (dsimp only; split) | split | (refine foldl_mem _ (fun _ _ => ?_) _ _))

@[simp] theorem State.loadProgram_mem (s : State) (w n : Nat) : (State.loadProgram s w n).mem = s.mem := by
  unfold State.loadProgram
  (repeat' split) <;> simp

@[simp] theorem State.loadPrograms_mem (s : State) (w mask : Nat) : (State.loadPrograms s w mask).mem = s.mem := by
  simp [State.loadPrograms]

@[simp] theorem State.localTrigger_mem (s : State) (sled g reason : Nat) : (State.localTrigger s sled g reason).mem = s.mem := by
  unfold State.localTrigger
  split <;> simp

@[simp] theorem State.localTriggers_mem (s : State) (sled : Nat) (gs : List Nat) (reason : Nat) : (State.localTriggers s sled gs reason).mem = s.mem := by
  simp [State.localTriggers]

@[simp] theorem State.deliverAt_mem (s : State) (w : Nat) (p : PendWrite) : (State.deliverAt s w p).mem = s.mem := by
  simp [State.deliverAt]

@[simp] theorem State.deliverAll_mem (s : State) (w : Nat) (ps : List PendWrite) : (State.deliverAll s w ps).mem = s.mem := by
  simp [State.deliverAll]

@[simp] theorem State.deliverTo_mem (s : State) (w : Nat) (place : Option Nat) (p : Nat → PendWrite) : (State.deliverTo s w place p).mem = s.mem := by
  unfold State.deliverTo
  (repeat' split) <;> simp

@[simp] theorem State.shortfall_mem (s : State) (w : Nat) (p : PendWrite) : (State.shortfall s w p).mem = s.mem := by
  simp [State.shortfall]

@[simp] theorem State.departLink_mem (s : State) (w : Nat) (p : PendWrite) : (State.departLink s w p).mem = s.mem := by
  simp [State.departLink, apply_ite State.mem]

@[simp] theorem State.departPort_mem (s : State) (w : Nat) (p : PendWrite) : (State.departPort s w p).mem = s.mem := by
  simp [State.departPort, apply_ite State.mem]

@[simp] theorem State.cancelCore_mem (s : State) (w n t : Nat) : (State.cancelCore s w n t).mem = s.mem := by
  simp [State.cancelCore]

@[simp] theorem State.failCore_mem (s : State) (w n cause cycle : Nat) : (State.failCore s w n cause cycle).mem = s.mem := by
  unfold State.failCore
  dsimp only
  (repeat' split) <;> simp [apply_ite State.mem]

@[simp] theorem State.drainCommit_mem (s : State) (w : Nat) (p : PendWrite) : (State.drainCommit s w p).mem = s.mem := by
  simp [State.drainCommit, apply_ite State.mem]

@[simp] theorem State.planInput_mem (s : State) : (State.planInput s).mem = s.mem := by
  simp [State.planInput]

@[simp] theorem State.parkRoute_mem (s : State) (c : Nat) : (State.parkRoute s c).mem = s.mem := by
  simp [State.parkRoute, apply_ite State.mem]

@[simp] theorem State.parkPlane_mem (s : State) : (State.parkPlane s).mem = s.mem := by
  simp [State.parkPlane]

@[simp] theorem State.stopGroup_mem (s : State) (g reason : Nat) : (State.stopGroup s g reason).mem = s.mem := by
  simp [State.stopGroup, apply_ite State.mem]

@[simp] theorem State.stopGroups_mem (s : State) (gs : List Nat) (reason : Nat) : (State.stopGroups s gs reason).mem = s.mem := by
  simp [State.stopGroups]

@[simp] theorem State.tearCircuit_mem (s : State) (c cause : Nat) : (State.tearCircuit s c cause).mem = s.mem := by
  unfold State.tearCircuit
  split <;> simp

@[simp] theorem State.tearCircuits_mem (s : State) (cs : List Nat) (cause : Nat) : (State.tearCircuits s cs cause).mem = s.mem := by
  simp [State.tearCircuits]

@[simp] theorem State.tearLinkEnd_mem (s : State) (w j cause : Nat) : (State.tearLinkEnd s w j cause).mem = s.mem := by
  simp [State.tearLinkEnd]

@[simp] theorem State.tearLink_mem (s : State) (w j cause : Nat) : (State.tearLink s w j cause).mem = s.mem := by
  simp [State.tearLink]

@[simp] theorem State.startSwitchIn_mem (s : State) (w : Nat) (circs : List Nat) : (State.startSwitchIn s w circs).mem = s.mem := by
  unfold State.startSwitchIn
  split <;> simp

@[simp] theorem State.declareFailed_mem (s : State) (w : Nat) : (State.declareFailed s w).mem = s.mem := by
  simp [State.declareFailed, apply_ite State.mem]

@[simp] theorem State.syncPins_mem (s : State) (w : Nat) : (State.syncPins s w).mem = s.mem := by
  simp [State.syncPins]

@[simp] theorem State.freeLoad_mem (s : State) (l : MLoad) : (State.freeLoad s l).mem = s.mem := by
  simp [State.freeLoad]

@[simp] theorem State.scheduleJob_mem (s : State) (g : Nat) : (State.scheduleJob s g).mem = s.mem := by
  unfold State.scheduleJob
  dsimp only
  (repeat' split) <;> simp [apply_ite State.mem]

@[simp] theorem State.endJob_mem (s : State) (g : Nat) : (State.endJob s g).mem = s.mem := by
  unfold State.endJob
  split <;> simp

@[simp] theorem State.loseJob_mem (s : State) (g reason : Nat) : (State.loseJob s g reason).mem = s.mem := by
  unfold State.loseJob
  split <;> simp

@[simp] theorem State.endSwitchIn_mem (s : State) (k : Nat) : (State.endSwitchIn s k).mem = s.mem := by
  simp [State.endSwitchIn]

@[simp] theorem State.abortGroup_mem (s : State) (g reason : Nat) : (State.abortGroup s g reason).mem = s.mem := by
  unfold State.abortGroup
  split <;> simp

@[simp] theorem State.dropQueued_mem (s : State) (p : Nat → Bool) (status : Nat) : (State.dropQueued s p status).mem = s.mem := by
  simp [State.dropQueued]

@[simp] theorem State.spoil_mem (s : State) (w obj : Nat) : (State.spoil s w obj).mem = s.mem := by
  simp [State.spoil]

@[simp] theorem State.lineErrors_mem (s : State) (a errs : Nat) : (State.lineErrors s a errs).1.mem = s.mem := by
  unfold State.lineErrors
  dsimp only
  (repeat' split) <;> simp [apply_ite State.mem]

@[simp] theorem State.readLine_mem (s : State) (w g src errs : Nat) (line : LineSource) : (State.readLine s w g src errs line).1.mem = s.mem := by
  unfold State.readLine
  dsimp only
  (repeat' split) <;> simp [apply_ite State.mem]

@[simp] theorem State.remap_mem (s : State) (w l : Nat) : (State.remap s w l).mem = s.mem := by
  unfold State.remap
  (repeat' split) <;> simp

@[simp] theorem State.landLink_mem (s : State) (w : Nat) (f : Flit) : (State.landLink s w f).mem = s.mem := by
  unfold State.landLink
  dsimp only
  (repeat' split) <;> simp [apply_ite State.mem]

@[simp] theorem State.freeLinkSlot_mem (s : State) (w j : Nat) : (State.freeLinkSlot s w j).mem = s.mem := by
  simp [State.freeLinkSlot]

@[simp] theorem State.refuseLink_mem (s : State) (w j : Nat) (data : Bool) : (State.refuseLink s w j data).mem = s.mem := by
  simp [State.refuseLink, apply_ite State.mem]

@[simp] theorem State.takeLink_mem (s : State) (w j : Nat) : (State.takeLink s w j).mem = s.mem := by
  simp [State.takeLink]

@[simp] theorem State.receiveLink_mem (s : State) (w j : Nat) (sent : Flit) (err : Nat) (f : Flit) : (State.receiveLink s w j sent err f).mem = s.mem := by
  simp [State.receiveLink, apply_ite State.mem]

@[simp] theorem State.refusePort_mem (s : State) (w p c : Nat) (data : Bool) : (State.refusePort s w p c data).mem = s.mem := by
  simp [State.refusePort, apply_ite State.mem]

@[simp] theorem State.clearPort_mem (s : State) (c : Nat) (rx : Bool) : (State.clearPort s c rx).mem = s.mem := by
  simp [State.clearPort]

@[simp] theorem State.applyTear_mem (s : State) (c : Nat) (rx : Bool) : (State.applyTear s c rx).mem = s.mem := by
  simp [State.applyTear]

@[simp] theorem State.raiseFlowTorn_mem (s : State) (w j : Nat) (f : FlowDef) : (State.raiseFlowTorn s w j f).mem = s.mem := by
  simp [State.raiseFlowTorn]

@[simp] theorem State.clearCircs_mem (s : State) : (State.clearCircs s).mem = s.mem := by
  simp [State.clearCircs]

@[simp] theorem State.rangeDone_mem (s : State) (c : Nat) : (State.rangeDone s c).mem = s.mem := by
  simp [State.rangeDone, apply_ite State.mem]

@[simp] theorem State.setLat_mem (s : State) (g : Nat) : (State.setLat s g).mem = s.mem := by
  simp [State.setLat]

@[simp] theorem State.downCircuit_mem (s : State) (c : Nat) : (State.downCircuit s c).mem = s.mem := by
  simp [State.downCircuit, apply_ite State.mem]

@[simp] theorem State.makeUsable_mem (s : State) (c loss : Nat) : (State.makeUsable s c loss).mem = s.mem := by
  unfold State.makeUsable
  split <;> simp

@[simp] theorem State.startSearch_mem (s : State) (cmd : Option Cmd) : (State.startSearch s cmd).mem = s.mem := by
  simp [State.startSearch]

@[simp] theorem State.cableSearch_mem (s : State) (c : Cmd) : (State.cableSearch s c).mem = s.mem := by
  simp [State.cableSearch]

@[simp] theorem State.raiseCabling_mem (s : State) (q result repeats : Nat) (l : List Finding) : (State.raiseCabling s q result repeats l).mem = s.mem := by
  unfold State.raiseCabling
  (repeat' split) <;> simp

@[simp] theorem State.putResult_mem (s : State) (q result : Nat) (l : List Finding) : (State.putResult s q result l).mem = s.mem := by
  simp [State.putResult]

@[simp] theorem State.recordResult_mem (s : State) (q result repeats : Nat) (l : List Finding) : (State.recordResult s q result repeats l).mem = s.mem := by
  simp [State.recordResult]

@[simp] theorem State.searchResult_mem (s : State) (q result : Nat) (l : List Finding) : (State.searchResult s q result l).mem = s.mem := by
  simp [State.searchResult, apply_ite State.mem]

@[simp] theorem State.endSearch_mem (s : State) : (State.endSearch s).mem = s.mem := by
  simp [State.endSearch]

@[simp] theorem State.recordLeg_mem (s : State) (m : LegMeas) (i : Nat) : (State.recordLeg s m i).mem = s.mem := by
  unfold State.recordLeg
  dsimp only
  (repeat' split) <;> simp [apply_ite State.mem]

@[simp] theorem State.recordLegs_mem (s : State) (meas : List LegMeas) (qs : List Nat) : (State.recordLegs s meas qs).mem = s.mem := by
  unfold State.recordLegs
  try dsimp only
  repeat' (first | (simp [apply_ite State.mem]; done) | (dsimp only; split) | split | (refine foldl_mem _ (fun _ _ => ?_) _ _))

@[simp] theorem State.toGlow_mem (s : State) (k m : Nat) : (State.toGlow s k m).mem = s.mem := by
  unfold State.toGlow
  split <;> simp

@[simp] theorem State.glowFeed_mem (s : State) (q : Nat) : (State.glowFeed s q).mem = s.mem := by
  unfold State.glowFeed
  (repeat' split) <;> simp

@[simp] theorem State.interlock_mem (s : State) (q : Nat) : (State.interlock s q).mem = s.mem := by
  unfold State.interlock
  split <;> simp

@[simp] theorem State.markChange_mem (s : State) (q : Nat) : (State.markChange s q).mem = s.mem := by
  simp [State.markChange]

@[simp] theorem State.startChecks_mem (s : State) : (State.startChecks s).mem = s.mem := by
  unfold State.startChecks
  (repeat' split) <;> simp

@[simp] theorem State.countSearch_mem (s : State) : (State.countSearch s).mem = s.mem := by
  simp [State.countSearch]

@[simp] theorem State.checkResult_mem (s : State) (q : Nat) (l : List Finding) (meas : List LegMeas) : (State.checkResult s q l meas).mem = s.mem := by
  simp [State.checkResult, apply_ite State.mem]

@[simp] theorem State.afterSwitchIn_mem (s : State) (g : Nat) : (State.afterSwitchIn s g).mem = s.mem := by
  unfold State.afterSwitchIn
  (repeat' split) <;> simp

@[simp] theorem State.delayPaused_mem (s : State) : (State.delayPaused s).mem = s.mem := by
  simp [State.delayPaused, apply_ite State.mem]

@[simp] theorem State.updRx_mem (s : State) (u : TickUnit) (f : TickRx → TickRx) : (State.updRx s u f).mem = s.mem := by
  simp [State.updRx]

@[simp] theorem State.tickFault_mem (s : State) (u : TickUnit) (next : Bool) : (State.tickFault s u next).mem = s.mem := by
  simp [State.tickFault]

@[simp] theorem State.edgeLocked_mem (s : State) (u : TickUnit) (ofs : Int) : (State.edgeLocked s u ofs).mem = s.mem := by
  unfold State.edgeLocked
  split <;> simp

@[simp] theorem State.edgeAcquire_mem (s : State) (u : TickUnit) (ofs : Int) : (State.edgeAcquire s u ofs).mem = s.mem := by
  simp [State.edgeAcquire, apply_ite State.mem]

@[simp] theorem State.loseLock_mem (s : State) (d : Nat) : (State.loseLock s d).mem = s.mem := by
  simp [State.loseLock]

@[simp] theorem State.tickLoss_mem (s : State) (u : TickUnit) : (State.tickLoss s u).mem = s.mem := by
  simp [State.tickLoss, apply_ite State.mem]

@[simp] theorem State.raiseTickFault_mem (s : State) (d : Nat) : (State.raiseTickFault s d).mem = s.mem := by
  simp [State.raiseTickFault]

@[simp] theorem State.tickCheck_mem (s : State) (d : Nat) : (State.tickCheck s d).mem = s.mem := by
  simp [State.tickCheck, apply_ite State.mem]

@[simp] theorem State.startCore_mem (s : State) (b : BindDef) (g : Nat) (job : Job) (w : Nat) : (State.startCore s b g job w).mem = s.mem := by
  unfold State.startCore
  dsimp only
  (repeat' split) <;> simp [apply_ite State.mem]

@[simp] theorem State.noteStep_mem (s : State) (sled : Nat) : (State.noteStep s sled).mem = s.mem := by
  unfold State.noteStep
  try dsimp only
  repeat' (first | (simp [apply_ite State.mem]; done) | (dsimp only; split) | split | (refine foldl_mem _ (fun _ _ => ?_) _ _))

@[simp] theorem State.startCores_mem (s : State) (sled : Nat) : (State.startCores s sled).mem = s.mem := by
  unfold State.startCores
  try dsimp only
  repeat' (first | (simp [apply_ite State.mem]; done) | (dsimp only; split) | split | (refine foldl_mem _ (fun _ _ => ?_) _ _))

@[simp] theorem State.countSettlements_mem (s : State) (sled : Nat) : (State.countSettlements s sled).mem = s.mem := by
  simp [State.countSettlements]

@[simp] theorem State.stepHub_mem (s : State) (k : Nat) : (State.stepHub s k).mem = s.mem := by
  simp [State.stepHub]

@[simp] theorem State.clearEdges_mem (s : State) (d : Nat) : (State.clearEdges s d).mem = s.mem := by
  simp [State.clearEdges]

@[simp] theorem State.commitMirror_mem (s : State) (g b : Nat) : (State.commitMirror s g b).mem = s.mem := by
  unfold State.commitMirror
  dsimp only
  (repeat' split) <;> simp [apply_ite State.mem]

@[simp] theorem State.failBarrier_mem (s : State) (g w b : Nat) : (State.failBarrier s g w b).mem = s.mem := by
  simp [State.failBarrier]

@[simp] theorem State.newKey_mem (s : State) (o : Nat) : (State.newKey s o).2.mem = s.mem := by
  simp [State.newKey]

@[simp] theorem State.losePage_mem (s : State) (w page : Nat) : (State.losePage s w page).mem = s.mem := by
  simp [State.losePage]

@[simp] theorem State.ownerOpen_mem (s : State) (c : Cmd) : (State.ownerOpen s c).mem = s.mem := by
  simp [State.ownerOpen]

@[simp] theorem State.goLive_mem (s : State) : (State.goLive s).mem = s.mem := by
  unfold State.goLive
  split <;> simp

@[simp] theorem State.openBoundary_mem (s : State) : (State.openBoundary s).mem = s.mem := by
  unfold State.openBoundary
  (repeat' split) <;> simp

@[simp] theorem State.ownerRelease_mem (s : State) (c : Cmd) : (State.ownerRelease s c).mem = s.mem := by
  unfold State.ownerRelease
  split <;> simp

@[simp] theorem State.dropAdapters_mem (s : State) (owners : List Nat) : (State.dropAdapters s owners).mem = s.mem := by
  simp [State.dropAdapters]

@[simp] theorem State.endOwnerMoves_mem (s : State) (owners : List Nat) : (State.endOwnerMoves s owners).mem = s.mem := by
  simp [State.endOwnerMoves]

@[simp] theorem State.openErase_mem (s : State) (r : Releasing) : (State.openErase s r).mem = s.mem := by
  simp [State.openErase]

@[simp] theorem State.eraseDone_mem (s : State) : (State.eraseDone s).mem = s.mem := by
  unfold State.eraseDone
  dsimp only
  (repeat' split) <;> simp [apply_ite State.mem]

@[simp] theorem State.giveBack_mem (s : State) (c : Cmd) (addr : Nat) (bytes : List Byte) : (State.giveBack s c addr bytes).mem = s.mem := by
  unfold State.giveBack
  split <;> simp

@[simp] theorem State.writeBack_mem (s : State) (c : Cmd) (addr : Nat) (bytes : List Byte) (result : List (Nat × Nat)) : (State.writeBack s c addr bytes result).mem = s.mem := by
  unfold State.writeBack
  split <;> simp

@[simp] theorem State.kemKeyCmd_mem (s : State) (c : Cmd) : (State.kemKeyCmd s c).mem = s.mem := by
  simp [State.kemKeyCmd]

@[simp] theorem State.seek_mem (s : State) (w need : Nat) : (State.seek s w need).1.mem = s.mem := by
  unfold State.seek
  dsimp only
  (repeat' split) <;> simp [apply_ite State.mem]

@[simp] theorem State.storePut_mem (s : State) (k id : Nat) (bytes : List Byte) : (State.storePut s k id bytes).mem = s.mem := by
  simp [State.storePut]

@[simp] theorem State.cocoonStore_mem (s : State) (c : Cmd) : (State.cocoonStore s c).mem = s.mem := by
  simp [State.cocoonStore]

@[simp] theorem State.cocoonDelete_mem (s : State) (c : Cmd) : (State.cocoonDelete s c).mem = s.mem := by
  simp [State.cocoonDelete]

theorem State.placeLanes_mem (s : State) (b : List Byte) (owner obj : Nat) (l : List (Nat × Nat)) :
    (s.placeLanes b owner obj l).1.mem = s.mem := by
  induction l generalizing s with
  | nil => rfl
  | cons x rest ih =>
    unfold State.placeLanes
    split
    · rw [ih]; simp
    · have hk := State.seek_mem s x.1 (ceilDiv (fieldLE b 0x20 8) 4096)
      split
      · rename_i s1 h
        rw [h] at hk
        exact hk
      · rename_i s1 a h
        rw [h] at hk
        rw [ih]; simpa using hk

@[simp] theorem State.cocoonLoad_mem (s : State) (c : Cmd) : (State.cocoonLoad s c).mem = s.mem := by
  unfold State.cocoonLoad
  have hk := State.placeLanes_mem s (s.cocoonBytes c) c.aux c.unit c.workers.zipIdx
  dsimp only
  repeat' (first | (simp; done) | split)
  all_goals
    rename_i h
    rw [h] at hk
    simpa using hk

@[simp] theorem State.failLoad_mem (s : State) (l : MLoad) (code : Nat) (lane : Option Nat) (chunk : Nat) : (State.failLoad s l code lane chunk).mem = s.mem := by
  simp [State.failLoad]

@[simp] theorem State.seekAgain_mem (s : State) (w obj : Nat) (o : MObj) (l : MLoad) : (State.seekAgain s w obj o l).mem = s.mem := by
  unfold State.seekAgain
  have hk := State.seek_mem (s.updWorker w fun x => x.dropObj obj) w o.pages
  split
  · rename_i s1 a h
    rw [h] at hk
    simpa using hk
  · rename_i s1 h
    rw [h] at hk
    simpa using hk

@[simp] theorem State.loadDone_mem (s : State) (l : MLoad) : (State.loadDone s l).mem = s.mem := by
  simp [State.loadDone]

theorem State.promoteLanes_mem (s : State) (obj : Nat) (l : List Nat) : (s.promoteLanes obj l).1.mem = s.mem := by
  induction l generalizing s with
  | nil => rfl
  | cons w rest ih =>
    unfold State.promoteLanes
    dsimp only
    have hk := State.seek_mem
      (s.updWorker w fun x => { x with objs := x.objs.set obj { (s.worker w).objs.get MObj.init obj with state := 5, toFirst := noRun } })
      w ((s.worker w).objs.get MObj.init obj).pages
    split
    · rename_i s1 a h
      rw [h] at hk
      rw [ih]; simpa using hk
    · rename_i s1 h
      rw [h] at hk
      simpa using hk

@[simp] theorem State.unpromote_mem (s : State) (obj : Nat) (ws : List Nat) : (State.unpromote s obj ws).mem = s.mem := by
  simp [State.unpromote]

@[simp] theorem State.moundPromote_mem (s : State) (c : Cmd) : (State.moundPromote s c).mem = s.mem := by
  unfold State.moundPromote
  dsimp only
  refine State.decideCmd_mem _ _ _ _ _ _ _ _ (fun st => ?_)
  have hk := State.promoteLanes_mem st c.unit c.workers.dedup
  split
  · rename_i s1 h
    rw [h] at hk
    split <;> simpa using hk
  · rename_i s1 h
    rw [h] at hk
    simpa using hk

@[simp] theorem State.promoted_mem (s : State) (w obj : Nat) : (State.promoted s w obj).mem = s.mem := by
  unfold State.promoted
  dsimp only
  (repeat' split) <;> simp [apply_ite State.mem]

@[simp] theorem State.copyErrors_mem (s : State) (w : Nat) (o : MObj) (errs : List (Nat × Nat)) : (State.copyErrors s w o errs).1.mem = s.mem := by
  unfold State.copyErrors
  exact foldl_pair_mem _ (fun u x => by simp) _ _

@[simp] theorem State.failPromote_mem (s : State) (w obj code : Nat) : (State.failPromote s w obj code).mem = s.mem := by
  unfold State.failPromote
  (repeat' split) <;> simp

@[simp] theorem State.pinChange_mem (s : State) (c : Cmd) (add : Bool) : (State.pinChange s c add).mem = s.mem := by
  simp [State.pinChange, apply_ite State.mem]

@[simp] theorem State.moundPin_mem (s : State) (c : Cmd) : (State.moundPin s c).mem = s.mem := by
  simp [State.moundPin]

@[simp] theorem State.moundUnpin_mem (s : State) (c : Cmd) : (State.moundUnpin s c).mem = s.mem := by
  simp [State.moundUnpin]

@[simp] theorem State.pinned_mem (s : State) (w obj : Nat) : (State.pinned s w obj).mem = s.mem := by
  simp [State.pinned]

@[simp] theorem State.moundDrop_mem (s : State) (c : Cmd) : (State.moundDrop s c).mem = s.mem := by
  simp [State.moundDrop]

@[simp] theorem State.moundQuery_mem (s : State) (c : Cmd) : (State.moundQuery s c).mem = s.mem := by
  simp [State.moundQuery]

@[simp] theorem State.pubkeyAdd_mem (s : State) (c : Cmd) : (State.pubkeyAdd s c).mem = s.mem := by
  simp [State.pubkeyAdd, apply_ite State.mem]

@[simp] theorem State.pubkeyRemove_mem (s : State) (c : Cmd) : (State.pubkeyRemove s c).mem = s.mem := by
  simp [State.pubkeyRemove]

@[simp] theorem State.settleMound_mem (s : State) : (State.settleMound s).mem = s.mem := by
  unfold State.settleMound
  dsimp only
  refine (foldl_mem _ (fun st p => ?_) _ _).trans ((foldl_mem _ (fun st p => ?_) _ _).trans (foldl_mem _ (fun st l => ?_) _ _))
  · simp
  · simp
  · split <;> simp

@[simp] theorem State.setTab_mem (s : State) (e : Engine) (t : Tab Cell) : (State.setTab s e t).mem = s.mem := by
  unfold State.setTab
  split <;> simp

@[simp] theorem State.updCell_mem (s : State) (e : Engine) (h : Nat) (f : Cell → Cell) : (State.updCell s e h f).mem = s.mem := by
  simp [State.updCell]

@[simp] theorem State.updCells_mem (s : State) (e : Engine) (hs : List Nat) (f : Nat → Cell → Cell) : (State.updCells s e hs f).mem = s.mem := by
  simp [State.updCells]

@[simp] theorem State.setSensors_mem (s : State) (e : Engine) (t : Tab Sensor) : (State.setSensors s e t).mem = s.mem := by
  unfold State.setSensors
  split <;> simp

@[simp] theorem State.convertSensors_mem (s : State) (e : Engine) (codes : List (Nat × Nat)) : (State.convertSensors s e codes).mem = s.mem := by
  simp [State.convertSensors]

@[simp] theorem State.tileFrame_mem (s : State) (t : Nat) (m : LoopMeas) : (State.tileFrame s t m).mem = s.mem := by
  simp [State.tileFrame]

@[simp] theorem State.ringFrame_mem (s : State) (w : Nat) (m : LoopMeas) : (State.ringFrame s w m).mem = s.mem := by
  simp [State.ringFrame]

@[simp] theorem State.moduleFrame_mem (s : State) (k : Nat) (m : LoopMeas) : (State.moduleFrame s k m).mem = s.mem := by
  simp [State.moduleFrame]

@[simp] theorem State.lightFrame_mem (s : State) (v : Nat) : (State.lightFrame s v).mem = s.mem := by
  simp [State.lightFrame, apply_ite State.mem]

@[simp] theorem State.judgeLock_mem (s : State) (t : Nat) : (State.judgeLock s t).mem = s.mem := by
  simp [State.judgeLock, apply_ite State.mem]

@[simp] theorem State.loopTune_mem (s : State) (c : Cmd) : (State.loopTune s c).mem = s.mem := by
  unfold State.loopTune
  dsimp only
  (repeat' split) <;> simp [apply_ite State.mem]

@[simp] theorem State.endTunes_mem (s : State) : (State.endTunes s).mem = s.mem := by
  unfold State.endTunes
  exact foldl_mem _ (fun st c => by simp) _ _

@[simp] theorem State.updCal_mem (s : State) (e : Engine) (f : Cal → Cal) : (State.updCal s e f).mem = s.mem := by
  unfold State.updCal
  split <;> simp

@[simp] theorem State.rejectCal_mem (s : State) (e : Engine) (r : CalRec) (reason : Nat) : (State.rejectCal s e r reason).mem = s.mem := by
  simp [State.rejectCal]

@[simp] theorem State.rejectAll_mem (s : State) (e : Engine) (rs : List CalRec) : (State.rejectAll s e rs).mem = s.mem := by
  unfold State.rejectAll
  try dsimp only
  repeat' (first | (simp [apply_ite State.mem]; done) | (dsimp only; split) | split | (refine foldl_mem _ (fun _ _ => ?_) _ _))

@[simp] theorem State.calFactory_mem (s : State) (c : Cmd) (meas : List RecMeas) : (State.calFactory s c meas).mem = s.mem := by
  unfold State.calFactory
  dsimp only
  (repeat' split) <;> simp [apply_ite State.mem]

@[simp] theorem State.calWrite_mem (s : State) (c : Cmd) : (State.calWrite s c).mem = s.mem := by
  unfold State.calWrite
  dsimp only
  refine State.decideCmd_mem _ _ _ _ _ _ _ _ (fun st => ?_)
  split
  · rfl
  · split
    · refine (State.final_mem _ _ _ _).trans (foldl_mem _ (fun a r => ?_) _ _)
      (repeat' split) <;> simp
    · refine (State.updCal_mem _ _ _).trans (foldl_mem _ (fun a r => ?_) _ _)
      (repeat' split) <;> simp

@[simp] theorem State.verifyTile_mem (s : State) (c : Cmd) : (State.verifyTile s c).mem = s.mem := by
  simp [State.verifyTile]

@[simp] theorem State.verifyPort_mem (s : State) (c : Cmd) : (State.verifyPort s c).mem = s.mem := by
  simp [State.verifyPort]

@[simp] theorem State.abandonPortVerifies_mem (s : State) (sled : Nat) : (State.abandonPortVerifies s sled).mem = s.mem := by
  simp [State.abandonPortVerifies, apply_ite State.mem]

@[simp] theorem State.lacewingPlan_mem (s : State) (c : Cmd) (kind : Nat) (ranges : Bool) : (State.lacewingPlan s c kind ranges).mem = s.mem := by
  simp [State.lacewingPlan, apply_ite State.mem]

@[simp] theorem State.planBypass_mem (s : State) (c : Cmd) : (State.planBypass s c).mem = s.mem := by
  simp [State.planBypass]

@[simp] theorem State.planEvacuate_mem (s : State) (c : Cmd) : (State.planEvacuate s c).mem = s.mem := by
  simp [State.planEvacuate]

@[simp] theorem State.planRestore_mem (s : State) (c : Cmd) : (State.planRestore s c).mem = s.mem := by
  simp [State.planRestore]

@[simp] theorem State.addOp_mem (s : State) (p : Plan) (commit : Nat) (cmd : Option Cmd) (auto : Bool) : (State.addOp s p commit cmd auto).mem = s.mem := by
  simp [State.addOp]

@[simp] theorem State.startOp_mem (s : State) (p : Plan) (commit : Nat) (cmd : Option Cmd) (auto : Bool) : (State.startOp s p commit cmd auto).mem = s.mem := by
  simp [State.startOp]

@[simp] theorem State.planFailed_mem (s : State) (r : PlanReq) : (State.planFailed s r).mem = s.mem := by
  unfold State.planFailed
  split <;> simp

@[simp] theorem State.replanStaged_mem (s : State) : (State.replanStaged s).mem = s.mem := by
  unfold State.replanStaged
  split <;> simp

@[simp] theorem State.automaticPlan_mem (s : State) (r : PlanReq) (p : Plan) (ticket : Nat) : (State.automaticPlan s r p ticket).mem = s.mem := by
  unfold State.automaticPlan
  split <;> simp

@[simp] theorem State.dropPlan_mem (s : State) : (State.dropPlan s).mem = s.mem := by
  simp [State.dropPlan]

@[simp] theorem State.lacewingCommit_mem (s : State) (c : Cmd) : (State.lacewingCommit s c).mem = s.mem := by
  unfold State.lacewingCommit
  try dsimp only
  repeat' (first | (simp [apply_ite State.mem]; done) | split | (refine State.decideCmd_mem _ _ _ _ _ _ _ _ (fun _ => ?_)))

@[simp] theorem State.lacewingCancel_mem (s : State) (c : Cmd) : (State.lacewingCancel s c).mem = s.mem := by
  simp [State.lacewingCancel]

@[simp] theorem State.changeElem_mem (s : State) (t e : Nat) (new : Elem) : (State.changeElem s t e new).mem = s.mem := by
  simp [State.changeElem]

@[simp] theorem State.jumpRoute_mem (s : State) (c : Nat) : (State.jumpRoute s c).mem = s.mem := by
  simp [State.jumpRoute]

@[simp] theorem State.waveCirc_mem (s : State) (p : Plan) (due c : Nat) : (State.waveCirc s p due c).mem = s.mem := by
  unfold State.waveCirc
  (repeat' split) <;> simp

@[simp] theorem State.commitOp_mem (s : State) (p : Plan) : (State.commitOp s p).mem = s.mem := by
  unfold State.commitOp
  split <;> simp

@[simp] theorem State.downUnset_mem (s : State) (p : Plan) : (State.downUnset s p).mem = s.mem := by
  simp [State.downUnset]

@[simp] theorem State.settleOps_mem (s : State) : (State.settleOps s).mem = s.mem := by
  simp [State.settleOps]

@[simp] theorem State.autoBypass_mem (s : State) (unit : Nat) (circs : List Nat) : (State.autoBypass s unit circs).mem = s.mem := by
  simp [State.autoBypass, apply_ite State.mem]

@[simp] theorem State.failTile_mem (s : State) (t : Nat) : (State.failTile s t).mem = s.mem := by
  unfold State.failTile
  dsimp only
  (repeat' split) <;> simp [apply_ite State.mem]

@[simp] theorem State.failModule_mem (s : State) (k : Nat) : (State.failModule s k).mem = s.mem := by
  simp [State.failModule]

@[simp] theorem State.laserFails_mem (s : State) (k lam reason : Nat) : (State.laserFails s k lam reason).mem = s.mem := by
  unfold State.laserFails
  dsimp only
  (repeat' split) <;> simp [apply_ite State.mem]

@[simp] theorem State.newKem_mem (s : State) : (State.newKem s).mem = s.mem := by
  simp [State.newKem]

@[simp] theorem State.fillSlot0_mem (s : State) : (State.fillSlot0 s).mem = s.mem := by
  simp [State.fillSlot0]

@[simp] theorem State.badCalibration_mem (s : State) (b : Engine × Nat) : (State.badCalibration s b).mem = s.mem := by
  unfold State.badCalibration
  split <;> simp

@[simp] theorem State.failMissing_mem (s : State) : (State.failMissing s).mem = s.mem := by
  simp [State.failMissing]

@[simp] theorem State.endStageA_mem (s : State) (rep : StageReport) : (State.endStageA s rep).mem = s.mem := by
  simp [State.endStageA]

@[simp] theorem State.switchOn_mem (s : State) (w mask : Nat) : (State.switchOn s w mask).mem = s.mem := by
  simp [State.switchOn]

@[simp] theorem State.trainLinks_mem (s : State) (w : Nat) : (State.trainLinks s w).mem = s.mem := by
  simp [State.trainLinks, apply_ite State.mem]

@[simp] theorem State.afterStageC_mem (s : State) : (State.afterStageC s).mem = s.mem := by
  unfold State.afterStageC
  split <;> simp

@[simp] theorem State.failCondemned_mem (s : State) : (State.failCondemned s).mem = s.mem := by
  simp [State.failCondemned]

@[simp] theorem State.finishBringUp_mem (s : State) : (State.finishBringUp s).mem = s.mem := by
  unfold State.finishBringUp
  split <;> simp

@[simp] theorem State.nopCmd_mem (s : State) (c : Cmd) : (State.nopCmd s c).mem = s.mem := by
  simp [State.nopCmd]

@[simp] theorem State.dozeCmd_mem (s : State) (c : Cmd) : (State.dozeCmd s c).mem = s.mem := by
  simp [State.dozeCmd]

@[simp] theorem State.wakeCmd_mem (s : State) (c : Cmd) : (State.wakeCmd s c).mem = s.mem := by
  simp [State.wakeCmd]

@[simp] theorem State.finalAll_mem (s : State) (cs : List Cmd) (status : Nat) (result : List (Nat × Nat)) : (State.finalAll s cs status result).mem = s.mem := by
  simp [State.finalAll]

@[simp] theorem State.cancelDoze_mem (s : State) : (State.cancelDoze s).mem = s.mem := by
  unfold State.cancelDoze
  split <;> simp

@[simp] theorem State.settleDoze_mem (s : State) : (State.settleDoze s).mem = s.mem := by
  unfold State.settleDoze
  (repeat' split) <;> simp

@[simp] theorem State.openHeaters_mem (s : State) : (State.openHeaters s).mem = s.mem := by
  simp [State.openHeaters]

@[simp] theorem State.rangeSuspended_mem (s : State) (start : Nat) : (State.rangeSuspended s start).mem = s.mem := by
  simp [State.rangeSuspended]

@[simp] theorem State.selfTestFail_mem (s : State) (w n : Nat) : (State.selfTestFail s w n).mem = s.mem := by
  unfold State.selfTestFail
  (repeat' split) <;> simp

@[simp] theorem State.wakeControl_mem (s : State) : (State.wakeControl s).mem = s.mem := by
  simp [State.wakeControl]

@[simp] theorem State.wakeDomains_mem (s : State) (mask : Nat) : (State.wakeDomains s mask).mem = s.mem := by
  simp [State.wakeDomains]

@[simp] theorem State.alignSteps_mem (s : State) : (State.alignSteps s).mem = s.mem := by
  simp [State.alignSteps]

@[simp] theorem State.startWaking_mem (s : State) : (State.startWaking s).mem = s.mem := by
  simp [State.startWaking, apply_ite State.mem]

@[simp] theorem State.downSuspended_mem (s : State) : (State.downSuspended s).mem = s.mem := by
  simp [State.downSuspended]

@[simp] theorem State.holdCmd_mem (s : State) (c : Cmd) : (State.holdCmd s c).mem = s.mem := by
  simp [State.holdCmd, apply_ite State.mem]

@[simp] theorem State.enterHold_mem (s : State) : (State.enterHold s).mem = s.mem := by
  unfold State.enterHold
  (repeat' split) <;> simp

@[simp] theorem State.resume_mem (s : State) : (State.resume s).mem = s.mem := by
  simp [State.resume]

@[simp] theorem State.startPowerDown_mem (s : State) (at_ : Nat) : (State.startPowerDown s at_).mem = s.mem := by
  simp [State.startPowerDown]

@[simp] theorem State.resumeCmd_mem (s : State) (c : Cmd) : (State.resumeCmd s c).mem = s.mem := by
  simp [State.resumeCmd]

@[simp] theorem State.powerDownCmd_mem (s : State) (c : Cmd) : (State.powerDownCmd s c).mem = s.mem := by
  simp [State.powerDownCmd]

@[simp] theorem State.offState_mem (s : State) : (State.offState s).mem = s.mem := by
  simp [State.offState]

@[simp] theorem State.enterServiceCmd_mem (s : State) (c : Cmd) : (State.enterServiceCmd s c).mem = s.mem := by
  simp [State.enterServiceCmd]

@[simp] theorem State.leaveServiceCmd_mem (s : State) (c : Cmd) : (State.leaveServiceCmd s c).mem = s.mem := by
  simp [State.leaveServiceCmd]

@[simp] theorem State.settleService_mem (s : State) : (State.settleService s).mem = s.mem := by
  unfold State.settleService
  (repeat' split) <;> simp

@[simp] theorem State.plannerLimp_mem (s : State) : (State.plannerLimp s).mem = s.mem := by
  unfold State.plannerLimp
  (repeat' split) <;> simp

@[simp] theorem State.holdCells_mem (s : State) : (State.holdCells s).mem = s.mem := by
  simp [State.holdCells]

@[simp] theorem State.overtaken_mem (s : State) : (State.overtaken s).mem = s.mem := by
  unfold State.overtaken
  split <;> simp

@[simp] theorem State.enterLimp_mem (s : State) : (State.enterLimp s).mem = s.mem := by
  unfold State.enterLimp
  (repeat' split) <;> simp

@[simp] theorem State.beginRestart_mem (s : State) (c : Cmd) (cold : Bool) : (State.beginRestart s c cold).mem = s.mem := by
  simp [State.beginRestart]

@[simp] theorem State.restartWarm_mem (s : State) (c : Cmd) : (State.restartWarm s c).mem = s.mem := by
  simp [State.restartWarm]

@[simp] theorem State.coldErase_mem (s : State) : (State.coldErase s).mem = s.mem := by
  unfold State.coldErase
  split <;> simp

@[simp] theorem State.restartCold_mem (s : State) (c : Cmd) : (State.restartCold s c).mem = s.mem := by
  simp [State.restartCold]

@[simp] theorem State.coldClear_mem (s : State) : (State.coldClear s).mem = s.mem := by
  unfold State.coldClear
  dsimp only
  (repeat' split) <;> simp [apply_ite State.mem]

@[simp] theorem State.warmPrime_mem (s : State) : (State.warmPrime s).mem = s.mem := by
  simp [State.warmPrime]

@[simp] theorem State.restartSleds_mem (s : State) : (State.restartSleds s).mem = s.mem := by
  simp [State.restartSleds, apply_ite State.mem]

@[simp] theorem State.imageLoad_mem (s : State) (c : Cmd) : (State.imageLoad s c).mem = s.mem := by
  simp [State.imageLoad]

@[simp] theorem State.lastImage_mem (s : State) (code op : Nat) : (State.lastImage s code op).mem = s.mem := by
  simp [State.lastImage]

@[simp] theorem State.askReplan_mem (s : State) : (State.askReplan s).mem = s.mem := by
  simp [State.askReplan]

@[simp] theorem State.imageActivate_mem (s : State) (c : Cmd) : (State.imageActivate s c).mem = s.mem := by
  unfold State.imageActivate
  try dsimp only
  repeat' (first | (simp [apply_ite State.mem]; done) | split | (refine State.decideCmd_mem _ _ _ _ _ _ _ _ (fun _ => ?_)))

@[simp] theorem State.abandonAct_mem (s : State) (a : Activation) (code : Nat) : (State.abandonAct s a code).mem = s.mem := by
  unfold State.abandonAct
  split <;> simp

@[simp] theorem State.takeRegions_mem (s : State) (k : Nat) (i : Image) : (State.takeRegions s k i).mem = s.mem := by
  unfold State.takeRegions
  try dsimp only
  repeat' (first | (simp [apply_ite State.mem]; done) | (dsimp only; split) | split | (refine State.forEach_mem _ _ _ (fun _ _ => ?_)) | (refine (foldl_mem _ (fun _ _ => ?_) _ _).trans ?_))

@[simp] theorem State.tearNow_mem (s : State) (c cause : Nat) : (State.tearNow s c cause).mem = s.mem := by
  unfold State.tearNow
  split <;> simp

@[simp] theorem State.endOps_mem (s : State) : (State.endOps s).mem = s.mem := by
  simp [State.endOps]

@[simp] theorem State.rewire_mem (s : State) (i : Image) : (State.rewire s i).mem = s.mem := by
  simp [State.rewire, apply_ite State.mem]

@[simp] theorem State.adoptLPorts_mem (s : State) (i : Image) : (State.adoptLPorts s i).mem = s.mem := by
  simp [State.adoptLPorts]

@[simp] theorem State.adoptPairs_mem (s : State) (i : Image) : (State.adoptPairs s i).mem = s.mem := by
  simp [State.adoptPairs]

@[simp] theorem State.takeLoops_mem (s : State) (i : Image) (p : Engine → Bool) : (State.takeLoops s i p).mem = s.mem := by
  unfold State.takeLoops
  try dsimp only
  repeat' (first | (simp [apply_ite State.mem]; done) | (dsimp only; split) | split | (refine foldl_mem _ (fun _ _ => ?_) _ _))

@[simp] theorem State.swapProgram_mem (s : State) (i : Image) : (State.swapProgram s i).mem = s.mem := by
  simp [State.swapProgram]

@[simp] theorem State.replaceGroups_mem (s : State) (id : Nat) (declared : Nat → Bool) : (State.replaceGroups s id declared).mem = s.mem := by
  simp [State.replaceGroups, apply_ite State.mem]

@[simp] theorem State.standIn_mem (s : State) (w : Nat) : (State.standIn s w).mem = s.mem := by
  unfold State.standIn
  split <;> simp

@[simp] theorem State.endAct_mem (s : State) (a : Activation) (downs : Nat) : (State.endAct s a downs).mem = s.mem := by
  simp [State.endAct]

@[simp] theorem State.intoImage_mem (s : State) (a : Activation) (differs : Bool) : (State.intoImage s a differs).mem = s.mem := by
  unfold State.intoImage
  split <;> simp

@[simp] theorem State.setLats_mem (s : State) (i : Image) : (State.setLats s i).mem = s.mem := by
  simp [State.setLats]

@[simp] theorem State.takeFull_mem (s : State) (a : Activation) (i : Image) : (State.takeFull s a i).mem = s.mem := by
  simp [State.takeFull, apply_ite State.mem]

@[simp] theorem State.takeWiring_mem (s : State) (a : Activation) (i base : Image) : (State.takeWiring s a i base).mem = s.mem := by
  simp [State.takeWiring, apply_ite State.mem]

@[simp] theorem State.takeScarab_mem (s : State) (a : Activation) (i : Image) : (State.takeScarab s a i).mem = s.mem := by
  simp [State.takeScarab]

@[simp] theorem State.imageDiscard_mem (s : State) (c : Cmd) : (State.imageDiscard s c).mem = s.mem := by
  simp [State.imageDiscard]

@[simp] theorem State.imageDeactivate_mem (s : State) (c : Cmd) : (State.imageDeactivate s c).mem = s.mem := by
  simp [State.imageDeactivate]

@[simp] theorem State.removeImage_mem (s : State) : (State.removeImage s).mem = s.mem := by
  simp [State.removeImage]

@[simp] theorem State.settleDeact_mem (s : State) : (State.settleDeact s).mem = s.mem := by
  unfold State.settleDeact
  (repeat' split) <;> simp

@[simp] theorem State.scarabRun_mem (s : State) (i : Instr) (f : Scarab → Scarab) : (State.scarabRun s i f).mem = s.mem := by
  unfold State.scarabRun
  split <;> simp

@[simp] theorem State.scarabOp_mem (s : State) (i : Instr) (f : Scarab → Scarab) : (State.scarabOp s i f).mem = s.mem := by
  simp [State.scarabOp]

@[simp] theorem State.scarabSet_mem (s : State) (i : Instr) (d : Nat) (v : Scarab → Int) : (State.scarabSet s i d v).mem = s.mem := by
  simp [State.scarabSet]

@[simp] theorem State.scarabBranch_mem (s : State) (i : Instr) (target : Nat) (p : Scarab → Bool) : (State.scarabBranch s i target p).mem = s.mem := by
  simp [State.scarabBranch]

@[simp] theorem State.readReg_mem (s : State) (p : Path) (mc : Nat) (b : Block) (o : Nat) : (State.readReg s p mc b o).2.mem = s.mem := by
  unfold State.readReg
  dsimp only
  (repeat' split) <;> simp [apply_ite State.mem]

@[simp] theorem State.readAt_mem (s : State) (p : Path) (mc : Nat) (pl : Option (Block × Nat)) : (State.readAt s p mc pl).2.mem = s.mem := by
  unfold State.readAt
  split <;> simp

@[simp] theorem State.writePdctl_mem (s : State) (w v be mc : Nat) : (State.writePdctl s w v be mc).mem = s.mem := by
  simp [State.writePdctl]

@[simp] theorem State.writeWorker_mem (s : State) (w o v be mc : Nat) : (State.writeWorker s w o v be mc).mem = s.mem := by
  simp [State.writeWorker, apply_ite State.mem]

@[simp] theorem State.writeWindow_mem (s : State) (e : Engine) (h ofs : Nat) (bytes : List Byte) (mc : Nat) (scb : Bool) : (State.writeWindow s e h ofs bytes mc scb).mem = s.mem := by
  unfold State.writeWindow
  split <;> simp

@[simp] theorem State.writeCells_mem (s : State) (e : Engine) (o v be mc : Nat) (scb : Bool) : (State.writeCells s e o v be mc scb).mem = s.mem := by
  simp [State.writeCells, apply_ite State.mem]

@[simp] theorem State.ringDoorbell_mem (s : State) (v mc : Nat) : (State.ringDoorbell s v mc).mem = s.mem := by
  simp [State.ringDoorbell]

@[simp] theorem State.writeReg_mem (s : State) (own : Option Nat) (b : Block) (o v be mc : Nat) (scb : Bool) : (State.writeReg s own b o v be mc scb).mem = s.mem := by
  unfold State.writeReg
  (repeat' split) <;> simp

@[simp] theorem State.regWrite1_mem (s : State) (own : Option Nat) (b : Block) (o v be mc : Nat) (scb : Bool) : (State.regWrite1 s own b o v be mc scb).2.mem = s.mem := by
  unfold State.regWrite1
  dsimp only
  (repeat' split) <;> simp [apply_ite State.mem]

@[simp] theorem State.recordRefusal_mem (s : State) (k code ofs : Nat) : (State.recordRefusal s k code ofs).mem = s.mem := by
  simp [State.recordRefusal]

@[simp] theorem State.recordAt_mem (s : State) (k code : Nat) (ofs : Option Nat) : (State.recordAt s k code ofs).mem = s.mem := by
  unfold State.recordAt
  split <;> simp

@[simp] theorem State.hostWrite1_mem (s : State) (k : Nat) (b : Block) (o v be mc : Nat) (ofs : Option Nat) : (State.hostWrite1 s k b o v be mc ofs).mem = s.mem := by
  simp [State.hostWrite1, apply_ite State.mem]

@[simp] theorem State.rowWrite_mem (s : State) (p : Path) (pl : Option (Block × Nat)) (v mc : Nat) : (State.rowWrite s p pl v mc).mem = s.mem := by
  unfold State.rowWrite
  (repeat' split) <;> simp

@[simp] theorem State.windowAccess_mem (s : State) (k : Option Nat) (e : Engine) (h ofs : Nat) (bytes : List Byte) (mc : Nat) : (State.windowAccess s k e h ofs bytes mc).mem = s.mem := by
  unfold State.windowAccess
  dsimp only
  (repeat' split) <;> simp [apply_ite State.mem]

@[simp] theorem State.hostTierRead_mem (s : State) (k a n : Nat) (errs : List (Nat × Nat)) : (State.hostTierRead s k a n errs).mem = s.mem := by
  unfold State.hostTierRead
  dsimp only
  have hk : ∀ (f : State × Bool × List Byte → Nat × Nat → State × Bool × List Byte) (l : List (Nat × Nat)) (u : State × Bool × List Byte),
      (∀ u x, (f u x).1.mem = u.1.mem) → (l.foldl f u).1.mem = u.1.mem := fun f l u h => foldl_pair_mem f h l u
  generalize hl : List.foldl _ _ _ = r
  have hr : r.1.mem = s.mem := by
    rw [← hl]
    refine hk _ _ _ (fun u x => ?_)
    split <;> simp
  (repeat' split) <;> simp [hr]

@[simp] theorem State.hostRegRead_mem (s : State) (k a n mc : Nat) : (State.hostRegRead s k a n mc).mem = s.mem := by
  unfold State.hostRegRead
  dsimp only
  simp only [State.emit_mem]
  exact foldl_pair_mem _ (fun u x => by simp) _ _

@[simp] theorem State.hostRegWrite_mem (s : State) (k a : Nat) (bytes : List Byte) (mc : Nat) : (State.hostRegWrite s k a bytes mc).mem = s.mem := by
  unfold State.hostRegWrite
  try dsimp only
  repeat' (first | (simp [apply_ite State.mem]; done) | (dsimp only; split) | split | (refine foldl_mem _ (fun _ _ => ?_) _ _))

@[simp] theorem State.deliverOut_mem (s : State) (a v mc : Nat) : (State.deliverOut s a v mc).mem = s.mem := by
  unfold State.deliverOut
  (repeat' split) <;> simp

@[simp] theorem State.postCmd_mem (s : State) (n : Nat) (words : List Nat) : (State.postCmd s n words).mem = s.mem := by
  simp [State.postCmd]

@[simp] theorem State.deliver_mem (s : State) : (State.deliver s).mem = s.mem := by
  simp [State.deliver]

@[simp] theorem State.wakeByJob_mem (s : State) : (State.wakeByJob s).mem = s.mem := by
  unfold State.wakeByJob
  split <;> simp

@[simp] theorem State.acceptJob_mem (s : State) (c : Cmd) (b : List Byte) : (State.acceptJob s c b).mem = s.mem := by
  unfold State.acceptJob
  dsimp only
  (repeat' split) <;> simp [apply_ite State.mem]

@[simp] theorem State.jobStart_mem (s : State) (c : Cmd) : (State.jobStart s c).mem = s.mem := by
  unfold State.jobStart
  try dsimp only
  repeat' (first | (simp [apply_ite State.mem]; done) | split | (refine State.decideCmd_mem _ _ _ _ _ _ _ _ (fun _ => ?_)))

@[simp] theorem State.settleWaiting_mem (s : State) : (State.settleWaiting s).mem = s.mem := by
  unfold State.settleWaiting
  split <;> simp

@[simp] theorem State.finishAbort_mem (s : State) (g : Nat) : (State.finishAbort s g).mem = s.mem := by
  unfold State.finishAbort
  dsimp only
  (repeat' split) <;> simp [apply_ite State.mem]

@[simp] theorem State.jobAbort_mem (s : State) (c : Cmd) : (State.jobAbort s c).mem = s.mem := by
  unfold State.jobAbort
  try dsimp only
  repeat' (first | (simp [apply_ite State.mem]; done) | split | (refine State.decideCmd_mem _ _ _ _ _ _ _ _ (fun _ => ?_)))

@[simp] theorem State.remapGroup_mem (s : State) (g k : Nat) : (State.remapGroup s g k).mem = s.mem := by
  unfold State.remapGroup
  try dsimp only
  repeat' (first | (simp [apply_ite State.mem]; done) | (dsimp only; split) | split | (refine foldl_mem _ (fun _ _ => ?_) _ _))

@[simp] theorem State.dataImport_mem (s : State) (c : Cmd) : (State.dataImport s c).mem = s.mem := by
  simp [State.dataImport]

@[simp] theorem State.dataExport_mem (s : State) (c : Cmd) : (State.dataExport s c).mem = s.mem := by
  simp [State.dataExport]

@[simp] theorem State.remember_mem (s : State) (d : Datagram) (r : Option Out) : (State.remember s d r).mem = s.mem := by
  unfold State.remember
  split <;> simp

@[simp] theorem State.reply_mem (s : State) (d : Datagram) (status : Nat) (words : List Nat) : (State.reply s d status words).mem = s.mem := by
  simp [State.reply]

@[simp] theorem State.request_mem (s : State) (d : Datagram) (inLimp : Bool) (f : State → State) (hf : ∀ s, (f s).mem = s.mem) : (State.request s d inLimp f).mem = s.mem := by
  unfold State.request
  try dsimp only
  repeat' (first | (simp [apply_ite State.mem, hf]; done) | (dsimp only; split) | split | (refine foldl_mem _ (fun _ _ => ?_) _ _))

@[simp] theorem State.mgmtRead_mem (s : State) (d : Datagram) : (State.mgmtRead s d).mem = s.mem := by
  unfold State.mgmtRead
  split
  · simp
  · dsimp only
    simp only [State.reply_mem]
    exact foldl_pair_mem _ (fun u x => by simp) _ _

@[simp] theorem State.mgmtWrite_mem (s : State) (d : Datagram) : (State.mgmtWrite s d).mem = s.mem := by
  unfold State.mgmtWrite
  split
  · simp
  · dsimp only
    simp only [State.reply_mem]
    refine foldl_pair_mem _ (fun u x => ?_) _ _
    split
    · rfl
    · simp

@[simp] theorem State.mgmtCommand_mem (s : State) (d : Datagram) : (State.mgmtCommand s d).mem = s.mem := by
  unfold State.mgmtCommand
  (repeat' split) <;> simp

@[simp] theorem State.planCmd_mem (s : State) (c : Cmd) : (State.planCmd s c).mem = s.mem := by
  simp [State.planCmd, apply_ite State.mem]

@[simp] theorem State.verifyCmd_mem (s : State) (c : Cmd) : (State.verifyCmd s c).mem = s.mem := by
  unfold State.verifyCmd
  split <;> simp

@[simp] theorem State.factoryCmd_mem (s : State) (c : Cmd) : (State.factoryCmd s c).mem = s.mem := by
  simp [State.factoryCmd]

theorem State.decideState_mem (s : State) (c : Cmd) : ∀ t, State.decideState s c = some t → t.mem = s.mem := by
  unfold State.decideState
  split <;> simp

theorem State.decideStore_mem (s : State) (c : Cmd) : ∀ t, State.decideStore s c = some t → t.mem = s.mem := by
  unfold State.decideStore
  split <;> simp

theorem State.decideWork_mem (s : State) (c : Cmd) : ∀ t, State.decideWork s c = some t → t.mem = s.mem := by
  unfold State.decideWork
  split <;> simp

@[simp] theorem State.decideByOp_mem (s : State) (c : Cmd) : (State.decideByOp s c).mem = s.mem := by
  unfold State.decideByOp
  split
  · exact State.decideState_mem s c _ (by assumption)
  · exact State.decideStore_mem s c _ (by assumption)
  · exact State.decideWork_mem s c _ (by assumption)
  · split <;> simp

@[simp] theorem State.takeIntake_mem (s : State) : (State.takeIntake s).mem = s.mem := by
  simp [State.takeIntake]

@[simp] theorem State.timeBoundary_mem (s : State) : (State.timeBoundary s).mem = s.mem := by
  simp [State.timeBoundary, apply_ite State.mem]

@[simp] theorem State.raiseReports_mem (s : State) : (State.raiseReports s).mem = s.mem := by
  simp [State.raiseReports]

@[simp] theorem State.settleRunning_mem (s : State) : (State.settleRunning s).mem = s.mem := by
  simp [State.settleRunning, apply_ite State.mem]

@[simp] theorem State.transitions_mem (s : State) : (State.transitions s).mem = s.mem := by
  simp [State.transitions]

@[simp] theorem State.settle_mem (s : State) : (State.settle s).mem = s.mem := by
  simp [State.settle]

@[simp] theorem State.refreshScarab_mem (s : State) (slots : Tab (List Nat)) : (State.refreshScarab s slots).mem = s.mem := by
  simp [State.refreshScarab]

end Sys2Proof.Machine
end

