-- ==== Sys2Proof/Laws/MemoryWritten.lean ====
section
/-! SUPPORT. The operations of the machine that write memory keep its canonical form. -/

namespace Sys2Proof.Machine

/-- An operation repeated keeps the canonical form where each turn does. -/
theorem foldl_memWf {α : Type} (f : State → α → State) (h : ∀ s a, Memory.wf s.mem = true → Memory.wf (f s a).mem = true) (l : List α)
    (s : State) (hs : Memory.wf s.mem = true) : Memory.wf (l.foldl f s).mem = true := by
  induction l generalizing s with
  | nil => exact hs
  | cons a l ih => exact ih _ (h s a hs)

theorem State.writeLine_memWf (s : State) (line : Nat) (b : List Byte) (h : Memory.wf s.mem = true) :
    Memory.wf (s.writeLine line b).mem = true := by
  unfold State.writeLine
  dsimp only
  split
  · simpa using h
  · exact memory_wf_memPutAll _ _ _ h

theorem State.tierWrite_memWf (s : State) (a : Nat) (b : List Byte) (h : Memory.wf s.mem = true) :
    Memory.wf (s.tierWrite a b).mem = true := by
  unfold State.tierWrite
  split
  · exact h
  · exact foldl_memWf _ (fun st i hs => st.writeLine_memWf _ _ hs) _ _ h

theorem State.tierWriteKey_memWf (s : State) (g a : Nat) (b : List Byte) (h : Memory.wf s.mem = true) :
    Memory.wf (s.tierWriteKey g a b).mem = true := by
  unfold State.tierWriteKey
  split
  · exact h
  · exact memory_wf_memPutAll _ _ _ h

theorem State.loseTier_memWf (s : State) (w space : Nat) (h : Memory.wf s.mem = true) : Memory.wf (s.loseTier w space).mem = true :=
  memory_wf_filter _ _ h

theorem State.commit_memWf (s : State) (w : Nat) (p : PendWrite) (h : Memory.wf s.mem = true) : Memory.wf (s.commit w p).mem = true := by
  unfold State.commit
  split
  · exact h
  · split
    · simpa using h
    · exact s.tierWrite_memWf _ _ h
    · simpa using h
    · simpa using h
    · simpa using h

theorem State.flush_memWf (s : State) (w t : Nat) (h : Memory.wf s.mem = true) : Memory.wf (s.flush w t).mem = true := by
  unfold State.flush
  exact foldl_memWf _ (fun st p hs => st.commit_memWf w p hs) _ _ (by simpa using h)

/-- Issuing a slot keeps the form where the operation does. -/
theorem State.issue_memWf (s : State) (w n port occ op : Nat) (sl : Slot) (ok : Bool) (run : State → State)
    (hr : ∀ u, Memory.wf u.mem = true → Memory.wf (run u).mem = true) (h : Memory.wf s.mem = true) :
    Memory.wf (s.issue w n port occ op sl ok run).mem = true := by
  unfold State.issue
  dsimp only
  split
  · simp only [State.draw_mem]
    exact hr _ (by simpa using s.flush_memWf w sl.issue h)
  · exact h

theorem State.vecOp_memWf (s : State) (w n op : Nat) (sl : Slot) (occ : Nat) (ok : Bool) (f : StagCore → List Word)
    (h : Memory.wf s.mem = true) : Memory.wf (s.vecOp w n op sl occ ok f).mem = true :=
  s.issue_memWf _ _ _ _ _ _ _ _ (fun u hu => by simpa using hu) h

theorem State.vecBin_memWf (s : State) (w n op : Nat) (sl : Slot) (fi ff : Word → Word → Word) (h : Memory.wf s.mem = true) :
    Memory.wf (s.vecBin w n op sl fi ff).mem = true :=
  s.vecOp_memWf _ _ _ _ _ _ _ h

theorem State.vecUn_memWf (s : State) (w n op : Nat) (sl : Slot) (f : Word → Word) (h : Memory.wf s.mem = true) :
    Memory.wf (s.vecUn w n op sl f).mem = true :=
  s.vecOp_memWf _ _ _ _ _ _ _ h

/-- A visit of every element of a list keeps the canonical form where each visit does. -/
theorem State.forEach_memWf (s : State) (l : List Nat) (f : State → Nat → State)
    (h : ∀ u a, Memory.wf u.mem = true → Memory.wf (f u a).mem = true) (hs : Memory.wf s.mem = true) :
    Memory.wf (s.forEach l f).mem = true := foldl_memWf _ h _ _ hs

theorem State.copyLane_memWf (s : State) (w : Nat) (o : MObj) (h : Memory.wf s.mem = true) : Memory.wf (s.copyLane w o).mem = true :=
  s.tierWriteKey_memWf _ _ _ h

theorem State.landPort_memWf (s : State) (w : Nat) (f : Flit) (h : Memory.wf s.mem = true) : Memory.wf (s.landPort w f).mem = true :=
  s.tierWrite_memWf _ _ h

theorem State.zeroGaps_memWf (s : State) (w : Nat) (o : MObj) (cs : List (List Nat)) (h : Memory.wf s.mem = true) :
    Memory.wf (s.zeroGaps w o cs).mem = true := by
  unfold State.zeroGaps
  exact foldl_memWf _ (fun st n hs => st.tierWriteKey_memWf _ _ _ hs) _ _ h

theorem State.writeBank_memWf (s : State) (w : Nat) (b : Bool) (id : Nat) (h : Memory.wf s.mem = true) :
    Memory.wf (s.writeBank w b id).mem = true := by
  unfold State.writeBank
  simpa using memory_wf_filter _ _ h

theorem State.placeBank_memWf (s : State) (id w : Nat) (h : Memory.wf s.mem = true) : Memory.wf (s.placeBank id w).mem = true :=
  s.writeBank_memWf _ _ _ h

theorem State.receivePort_memWf (s : State) (w p c : Nat) (sent : Flit) (err : Nat) (f : Flit) (h : Memory.wf s.mem = true) :
    Memory.wf (s.receivePort w p c sent err f).mem = true := by
  unfold State.receivePort
  dsimp only
  repeat' split
  all_goals first
    | simpa using h
    | (simp only [State.updCirc_mem]; exact State.landPort_memWf _ _ _ (by simpa using h))

theorem State.drainBuffers_memWf (s : State) (sled : Nat) (h : Memory.wf s.mem = true) : Memory.wf (s.drainBuffers sled).mem = true := by
  unfold State.drainBuffers
  refine State.forEach_memWf _ _ _ (fun u w hu => ?_) h
  dsimp only
  refine foldl_memWf _ (fun a o ha => ?_) _ _ (foldl_memWf _ (fun a l ha => ?_) _ _ hu)
  · have hb : Memory.wf ((o.2.buf.foldl (fun b f => b.landPort w f) a).updPort w o.1 fun y => { y with occ := 0, buf := [] }).mem = true := by
      simpa using foldl_memWf _ (fun b f hb => State.landPort_memWf b w f hb) _ _ ha
    split
    · exact hb
    · simpa using hb
  · simpa using ha

theorem State.domainOff_memWf (s : State) (w n : Nat) (lift : Bool) (h : Memory.wf s.mem = true) :
    Memory.wf (s.domainOff w n lift).mem = true := by
  have abort : ∀ (l : List Nat) (u : State), Memory.wf u.mem = true →
      Memory.wf (u.forEach l fun st g => st.updGroup g fun x => { x with abortReason := 3 }).mem = true :=
    fun l u hu => State.forEach_memWf _ _ _ (fun v g hv => by simpa using hv) hu
  unfold State.domainOff
  dsimp only
  split
  · refine foldl_memWf _ (fun st p hs => foldl_memWf _ (fun a c ha => ?_) _ _ hs) _ _ (by simpa using h)
    split <;> (try simp only [State.applyTear_mem, State.tearCircuit_mem]) <;> split <;> simpa using ha
  · split
    · have h2 : Memory.wf ((s.updWorker w fun x => { x with pwr := putBit x.pwr n false }).forEach s.fit.linkList fun st j =>
          if ((st.worker w).link j).up then st.tearLink w j 1 else st).mem = true := by
        refine State.forEach_memWf _ _ _ (fun u j hu => ?_) (by simpa using h)
        split
        · simpa using hu
        · exact hu
      split
      · exact abort _ _ h2
      · exact h2
    · split
      · exact State.loseTier_memWf _ _ _ (by simpa using h)
      · split
        · exact State.loseTier_memWf _ _ _ (by simpa using h)
        · split
          · exact abort _ _ (by simpa using h)
          · simpa using h

theorem State.domainApply_memWf (s : State) (w n : Nat) (want lift bad : Bool) (h : Memory.wf s.mem = true) :
    Memory.wf (s.domainApply w n want lift bad).mem = true := by
  unfold State.domainApply
  dsimp only
  split
  · exact h
  · split
    · simpa using h
    · split
      · split <;> simpa using h
      · exact s.domainOff_memWf _ _ _ h

theorem State.applyDomains_memWf (s : State) (w : Nat) (h : Memory.wf s.mem = true) : Memory.wf (s.applyDomains w).mem = true := by
  unfold State.applyDomains
  split
  · exact h
  · simpa using foldl_memWf _ (fun st n hs => st.domainApply_memWf _ _ _ _ _ hs) _ _ h

theorem State.applyWorkerRwb_memWf (s : State) (w : Nat) (h : Memory.wf s.mem = true) : Memory.wf (s.applyWorkerRwb w).mem = true := by
  unfold State.applyWorkerRwb
  dsimp only
  split
  · simpa using s.applyDomains_memWf w h
  · simpa using h

theorem State.rwbApply_memWf (s : State) (d : Domain) (h : Memory.wf s.mem = true) : Memory.wf (s.rwbApply d).mem = true := by
  unfold State.rwbApply
  split
  · split
    · simpa using State.forEach_memWf _ _ _ (fun st w hs => st.applyWorkerRwb_memWf w hs) h
    · exact h
  · split <;> exact h

theorem State.activateWorker_memWf (s : State) (i : Image) (w : Nat) (h : Memory.wf s.mem = true) :
    Memory.wf (s.activateWorker i w).mem = true := by
  unfold State.activateWorker
  exact foldl_memWf _ (fun st r hs => st.tierWrite_memWf _ _ hs) _ _ (by simpa using h)

theorem State.hostTierWrite_memWf (s : State) (a : Nat) (bytes : List Byte) (h : Memory.wf s.mem = true) :
    Memory.wf (s.hostTierWrite a bytes).mem = true := by
  unfold State.hostTierWrite
  refine State.forEach_memWf _ _ _ (fun st l hs => ?_) h
  dsimp only
  split
  · exact hs
  · split
    · exact st.tierWrite_memWf _ _ hs
    · simpa using hs

theorem State.restoreWorker_memWf (s : State) (d : GroupDef) (stride w : Nat) (h : Memory.wf s.mem = true) :
    Memory.wf (s.restoreWorker d stride w).mem = true := by
  unfold State.restoreWorker
  split
  · exact h
  · split
    · exact s.tierWrite_memWf _ _ h
    · exact h

theorem State.endTransfer_memWf (s : State) (t : Transfer) (h : Memory.wf s.mem = true) : Memory.wf (s.endTransfer t).mem = true := by
  unfold State.endTransfer
  dsimp only
  split
  · split
    · simpa using h
    · simpa using foldl_memWf _ (fun st p hs => st.tierWrite_memWf p.1 (p.2.getD []) hs) _ _ (by simpa using h)
  · split <;> simpa using h

theorem State.reloadLane_memWf (s : State) (w : Nat) (o : MObj) (b : List Byte) (h : Memory.wf s.mem = true) :
    ∀ t, s.reloadLane w o b = some t → Memory.wf t.mem = true := by
  intro t ht
  unfold State.reloadLane at ht
  dsimp only at ht
  split at ht
  · cases ht
  · have hq := Option.map_eq_some_iff.mp ht
    clear ht
    obtain ⟨u, hu, rfl⟩ := hq
    refine State.zeroGaps_memWf _ _ _ _ ?_
    revert u
    generalize hl : (List.map _ _).zipIdx = l
    clear hl
    suffices hg : ∀ acc : Option State, (∀ u, acc = some u → Memory.wf u.mem = true) → ∀ u, l.foldl _ acc = some u → Memory.wf u.mem = true from
      fun u hu => hg (some s) (fun v hv => by cases hv; exact h) u hu
    induction l with
    | nil => exact fun acc ha u hu => ha u hu
    | cons x l ih =>
      intro acc ha
      refine ih _ (fun u hu => ?_)
      dsimp only at hu
      split at hu
      · exact ha u hu
      · obtain ⟨v, hv, hm⟩ := Option.bind_eq_some_iff.mp hu
        obtain ⟨p, -, rfl⟩ := Option.map_eq_some_iff.mp hm
        exact v.tierWriteKey_memWf _ _ _ (ha v hv)

end Sys2Proof.Machine
end

