-- ==== Sys2Proof/Laws/Pending.lean ====
section
/-! SUPPORT. Every operation of the machine leaves the queue of waiting commands: one lemma for each operation. -/

set_option linter.unusedSimpArgs false
set_option linter.unusedTactic false
set_option linter.unreachableTactic false

namespace Sys2Proof.Machine

@[simp] theorem foldl_pending {α : Type} (f : State → α → State) (h : ∀ s a, (f s a).pending = s.pending) (l : List α) (s : State) :
    (l.foldl f s).pending = s.pending := by
  induction l generalizing s with
  | nil => rfl
  | cons a l ih => rw [List.foldl_cons, ih, h]
theorem foldl_pair_pending {α β : Type} (f : State × β → α → State × β) (h : ∀ s a, (f s a).1.pending = s.1.pending) (l : List α) (s : State × β) :
    (l.foldl f s).1.pending = s.1.pending := by
  induction l generalizing s with
  | nil => rfl
  | cons a l ih => rw [List.foldl_cons, ih, h]

@[simp] theorem State.updHub_pending (s : State) (k : Nat) (f : Hub → Hub) : (State.updHub s k f).pending = s.pending := by
  simp [State.updHub]

@[simp] theorem State.updWorker_pending (s : State) (w : Nat) (f : Worker → Worker) : (State.updWorker s w f).pending = s.pending := by
  simp [State.updWorker]

@[simp] theorem State.updCirc_pending (s : State) (c : Nat) (f : Circ → Circ) : (State.updCirc s c f).pending = s.pending := by
  simp [State.updCirc]

@[simp] theorem State.updLPort_pending (s : State) (q : Nat) (f : LPort → LPort) : (State.updLPort s q f).pending = s.pending := by
  simp [State.updLPort]

@[simp] theorem State.updTile_pending (s : State) (t : Nat) (f : Tile → Tile) : (State.updTile s t f).pending = s.pending := by
  simp [State.updTile]

@[simp] theorem State.updModule_pending (s : State) (k : Nat) (f : Module → Module) : (State.updModule s k f).pending = s.pending := by
  simp [State.updModule]

@[simp] theorem State.updGroup_pending (s : State) (g : Nat) (f : Group → Group) : (State.updGroup s g f).pending = s.pending := by
  simp [State.updGroup]

@[simp] theorem State.updDom_pending (s : State) (d : Nat) (f : TickDom → TickDom) : (State.updDom s d f).pending = s.pending := by
  simp [State.updDom]

@[simp] theorem State.updMgr_pending (s : State) (f : Mgr → Mgr) : (State.updMgr s f).pending = s.pending := by
  simp [State.updMgr]

@[simp] theorem State.updPlane_pending (s : State) (f : Plane → Plane) : (State.updPlane s f).pending = s.pending := by
  simp [State.updPlane]

@[simp] theorem State.updScb_pending (s : State) (f : Scarab → Scarab) : (State.updScb s f).pending = s.pending := by
  simp [State.updScb]

@[simp] theorem State.updImg_pending (s : State) (f : Img → Img) : (State.updImg s f).pending = s.pending := by
  simp [State.updImg]

@[simp] theorem State.updOwners_pending (s : State) (f : Owners → Owners) : (State.updOwners s f).pending = s.pending := by
  simp [State.updOwners]

@[simp] theorem State.updMound_pending (s : State) (f : MoundWork → MoundWork) : (State.updMound s f).pending = s.pending := by
  simp [State.updMound]

@[simp] theorem State.updHost_pending (s : State) (f : HostSide → HostSide) : (State.updHost s f).pending = s.pending := by
  simp [State.updHost]

@[simp] theorem State.updSearch_pending (s : State) (f : Search → Search) : (State.updSearch s f).pending = s.pending := by
  simp [State.updSearch]

@[simp] theorem State.updKtd_pending (s : State) (f : Ktd → Ktd) : (State.updKtd s f).pending = s.pending := by
  simp [State.updKtd]

@[simp] theorem State.updCore_pending (s : State) (w n : Nat) (f : StagCore → StagCore) : (State.updCore s w n f).pending = s.pending := by
  simp [State.updCore]

@[simp] theorem State.updLink_pending (s : State) (w j : Nat) (f : Link → Link) : (State.updLink s w j f).pending = s.pending := by
  simp [State.updLink]

@[simp] theorem State.updPort_pending (s : State) (w p : Nat) (f : Port → Port) : (State.updPort s w p f).pending = s.pending := by
  simp [State.updPort]

@[simp] theorem State.updQueue_pending (s : State) (k q : Nat) (f : Queue → Queue) : (State.updQueue s k q f).pending = s.pending := by
  simp [State.updQueue]

@[simp] theorem State.forEach_pending (s : State) (l : List Nat) (f : State → Nat → State) (hf : ∀ s a, (f s a).pending = s.pending) : (State.forEach s l f).pending = s.pending := by
  simp [State.forEach, apply_ite State.pending, hf]

@[simp] theorem State.draw_pending (s : State) : (State.draw s).2.pending = s.pending := by
  simp [State.draw]

@[simp] theorem State.arrive_pending (s : State) (e n mc : Nat) : (State.arrive s e n mc).pending = s.pending := by
  simp [State.arrive]

@[simp] theorem State.setMode_pending (s : State) (m : MState) (cause : Nat) : (State.setMode s m cause).pending = s.pending := by
  unfold State.setMode
  split <;> simp

@[simp] theorem State.raise_pending (s : State) (code : Nat) (fields : List (Nat × Nat × Nat)) : (State.raise s code fields).pending = s.pending := by
  unfold State.raise
  split <;> simp

@[simp] theorem State.send_pending (s : State) (c : Completion) : (State.send s c).pending = s.pending := by
  unfold State.send
  (repeat' split) <;> simp

@[simp] theorem State.final_pending (s : State) (c : Cmd) (status : Nat) (result : List (Nat × Nat)) : (State.final s c status result).pending = s.pending := by
  simp [State.final]

@[simp] theorem State.interim_pending (s : State) (c : Cmd) (result : List (Nat × Nat)) : (State.interim s c result).pending = s.pending := by
  simp [State.interim]

@[simp] theorem State.finalQ_pending (s : State) (c : Option Cmd) (status : Nat) (result : List (Nat × Nat)) : (State.final? s c status result).pending = s.pending := by
  unfold State.final?
  split <;> simp

@[simp] theorem State.broadcast_pending (s : State) (m : Msg) : (State.broadcast s m).pending = s.pending := by
  simp [State.broadcast]

@[simp] theorem State.emit_pending (s : State) (o : Out) : (State.emit s o).pending = s.pending := by
  simp [State.emit]

@[simp] theorem State.writeBank_pending (s : State) (w : Nat) (bank1 : Bool) (id : Nat) : (State.writeBank s w bank1 id).pending = s.pending := by
  simp [State.writeBank]

@[simp] theorem State.writeLine_pending (s : State) (line : Nat) (bytes : List Byte) : (State.writeLine s line bytes).pending = s.pending := by
  simp [State.writeLine, apply_ite State.pending]

@[simp] theorem State.tierWrite_pending (s : State) (a : Nat) (bytes : List Byte) : (State.tierWrite s a bytes).pending = s.pending := by
  unfold State.tierWrite
  split <;> simp

@[simp] theorem State.tierWriteKey_pending (s : State) (g a : Nat) (bytes : List Byte) : (State.tierWriteKey s g a bytes).pending = s.pending := by
  unfold State.tierWriteKey
  split <;> simp

@[simp] theorem State.fetch_pending (s : State) (k : Nat) : (State.fetch s k).pending = s.pending := by
  simp [State.fetch]

@[simp] theorem State.hostAccess_pending (s : State) (k : Nat) (f : State → State) (hf : ∀ s, (f s).pending = s.pending) : (State.hostAccess s k f).pending = s.pending := by
  unfold State.hostAccess
  try dsimp only
  repeat' (first | (simp [apply_ite State.pending, hf]; done) | (dsimp only; split) | split | (refine foldl_pending _ (fun _ _ => ?_) _ _))

@[simp] theorem State.sqtail_pending (s : State) (k q v : Nat) : (State.sqtail s k q v).pending = s.pending := by
  simp [State.sqtail]

@[simp] theorem State.cqhead_pending (s : State) (k q v : Nat) : (State.cqhead s k q v).pending = s.pending := by
  simp [State.cqhead]

@[simp] theorem State.writeLinkReg_pending (s : State) (k o v be : Nat) : (State.writeLinkReg s k o v be).pending = s.pending := by
  simp [State.writeLinkReg, apply_ite State.pending]

@[simp] theorem State.applyHubWrites_pending (s : State) (k : Nat) : (State.applyHubWrites s k).pending = s.pending := by
  unfold State.applyHubWrites
  exact (foldl_pending _ (fun _ _ => by simp) _ _).trans (by simp)

@[simp] theorem State.message_pending (s : State) (k v : Nat) : (State.message s k v).pending = s.pending := by
  unfold State.message
  split <;> simp

@[simp] theorem State.writeCompletion_pending (s : State) (k : Nat) (c : Completion) : (State.writeCompletion s k c).pending = s.pending := by
  unfold State.writeCompletion
  dsimp only
  (repeat' split) <;> simp [apply_ite State.pending]

@[simp] theorem State.writeEvent_pending (s : State) (k : Nat) (e : EventRec) : (State.writeEvent s k e).pending = s.pending := by
  simp [State.writeEvent, apply_ite State.pending]

@[simp] theorem State.decideCmd_pending (s : State) (c : Cmd) (op : Nat) (ranges data : Bool) (ok : List MState) (checks : List (Bool × Nat)) (eff : State → State) (heff : ∀ s, (eff s).pending = s.pending) : (State.decideCmd s c op ranges data ok checks eff).pending = s.pending := by
  unfold State.decideCmd
  try dsimp only
  repeat' (first | (simp [apply_ite State.pending, heff]; done) | (dsimp only; split) | split | (refine foldl_pending _ (fun _ _ => ?_) _ _))

@[simp] theorem State.loadProgram_pending (s : State) (w n : Nat) : (State.loadProgram s w n).pending = s.pending := by
  unfold State.loadProgram
  (repeat' split) <;> simp

@[simp] theorem State.loadPrograms_pending (s : State) (w mask : Nat) : (State.loadPrograms s w mask).pending = s.pending := by
  simp [State.loadPrograms]

@[simp] theorem State.localTrigger_pending (s : State) (sled g reason : Nat) : (State.localTrigger s sled g reason).pending = s.pending := by
  unfold State.localTrigger
  split <;> simp

@[simp] theorem State.localTriggers_pending (s : State) (sled : Nat) (gs : List Nat) (reason : Nat) : (State.localTriggers s sled gs reason).pending = s.pending := by
  simp [State.localTriggers]

@[simp] theorem State.deliverAt_pending (s : State) (w : Nat) (p : PendWrite) : (State.deliverAt s w p).pending = s.pending := by
  simp [State.deliverAt]

@[simp] theorem State.deliverAll_pending (s : State) (w : Nat) (ps : List PendWrite) : (State.deliverAll s w ps).pending = s.pending := by
  simp [State.deliverAll]

@[simp] theorem State.deliverTo_pending (s : State) (w : Nat) (place : Option Nat) (p : Nat → PendWrite) : (State.deliverTo s w place p).pending = s.pending := by
  unfold State.deliverTo
  (repeat' split) <;> simp

@[simp] theorem State.shortfall_pending (s : State) (w : Nat) (p : PendWrite) : (State.shortfall s w p).pending = s.pending := by
  simp [State.shortfall]

@[simp] theorem State.departLink_pending (s : State) (w : Nat) (p : PendWrite) : (State.departLink s w p).pending = s.pending := by
  simp [State.departLink, apply_ite State.pending]

@[simp] theorem State.departPort_pending (s : State) (w : Nat) (p : PendWrite) : (State.departPort s w p).pending = s.pending := by
  simp [State.departPort, apply_ite State.pending]

@[simp] theorem State.cancelCore_pending (s : State) (w n t : Nat) : (State.cancelCore s w n t).pending = s.pending := by
  simp [State.cancelCore]

@[simp] theorem State.failCore_pending (s : State) (w n cause cycle : Nat) : (State.failCore s w n cause cycle).pending = s.pending := by
  unfold State.failCore
  dsimp only
  (repeat' split) <;> simp [apply_ite State.pending]

@[simp] theorem State.drainCommit_pending (s : State) (w : Nat) (p : PendWrite) : (State.drainCommit s w p).pending = s.pending := by
  simp [State.drainCommit, apply_ite State.pending]

@[simp] theorem State.commit_pending (s : State) (w : Nat) (p : PendWrite) : (State.commit s w p).pending = s.pending := by
  unfold State.commit
  (repeat' split) <;> simp

@[simp] theorem State.flush_pending (s : State) (w t : Nat) : (State.flush s w t).pending = s.pending := by
  simp [State.flush]

@[simp] theorem State.issue_pending (s : State) (w n port occ op : Nat) (sl : Slot) (ok : Bool) (run : State → State) (hrun : ∀ s, (run s).pending = s.pending) : (State.issue s w n port occ op sl ok run).pending = s.pending := by
  simp [State.issue, apply_ite State.pending, hrun]

@[simp] theorem State.planInput_pending (s : State) : (State.planInput s).pending = s.pending := by
  simp [State.planInput]

@[simp] theorem State.parkRoute_pending (s : State) (c : Nat) : (State.parkRoute s c).pending = s.pending := by
  simp [State.parkRoute, apply_ite State.pending]

@[simp] theorem State.parkPlane_pending (s : State) : (State.parkPlane s).pending = s.pending := by
  simp [State.parkPlane]

@[simp] theorem State.stopGroup_pending (s : State) (g reason : Nat) : (State.stopGroup s g reason).pending = s.pending := by
  simp [State.stopGroup, apply_ite State.pending]

@[simp] theorem State.stopGroups_pending (s : State) (gs : List Nat) (reason : Nat) : (State.stopGroups s gs reason).pending = s.pending := by
  simp [State.stopGroups]

@[simp] theorem State.tearCircuit_pending (s : State) (c cause : Nat) : (State.tearCircuit s c cause).pending = s.pending := by
  unfold State.tearCircuit
  split <;> simp

@[simp] theorem State.tearCircuits_pending (s : State) (cs : List Nat) (cause : Nat) : (State.tearCircuits s cs cause).pending = s.pending := by
  simp [State.tearCircuits]

@[simp] theorem State.tearLinkEnd_pending (s : State) (w j cause : Nat) : (State.tearLinkEnd s w j cause).pending = s.pending := by
  simp [State.tearLinkEnd]

@[simp] theorem State.tearLink_pending (s : State) (w j cause : Nat) : (State.tearLink s w j cause).pending = s.pending := by
  simp [State.tearLink]

@[simp] theorem State.startSwitchIn_pending (s : State) (w : Nat) (circs : List Nat) : (State.startSwitchIn s w circs).pending = s.pending := by
  unfold State.startSwitchIn
  split <;> simp

@[simp] theorem State.declareFailed_pending (s : State) (w : Nat) : (State.declareFailed s w).pending = s.pending := by
  simp [State.declareFailed, apply_ite State.pending]

@[simp] theorem State.syncPins_pending (s : State) (w : Nat) : (State.syncPins s w).pending = s.pending := by
  simp [State.syncPins]

@[simp] theorem State.freeLoad_pending (s : State) (l : MLoad) : (State.freeLoad s l).pending = s.pending := by
  simp [State.freeLoad]

@[simp] theorem State.scheduleJob_pending (s : State) (g : Nat) : (State.scheduleJob s g).pending = s.pending := by
  unfold State.scheduleJob
  dsimp only
  (repeat' split) <;> simp [apply_ite State.pending]

@[simp] theorem State.endJob_pending (s : State) (g : Nat) : (State.endJob s g).pending = s.pending := by
  unfold State.endJob
  split <;> simp

@[simp] theorem State.loseJob_pending (s : State) (g reason : Nat) : (State.loseJob s g reason).pending = s.pending := by
  unfold State.loseJob
  split <;> simp

@[simp] theorem State.endSwitchIn_pending (s : State) (k : Nat) : (State.endSwitchIn s k).pending = s.pending := by
  simp [State.endSwitchIn]

@[simp] theorem State.abortGroup_pending (s : State) (g reason : Nat) : (State.abortGroup s g reason).pending = s.pending := by
  unfold State.abortGroup
  split <;> simp

@[simp] theorem State.dropQueued_pending (s : State) (p : Nat → Bool) (status : Nat) : (State.dropQueued s p status).pending = s.pending := by
  simp [State.dropQueued]

@[simp] theorem State.spoil_pending (s : State) (w obj : Nat) : (State.spoil s w obj).pending = s.pending := by
  simp [State.spoil]

@[simp] theorem State.lineErrors_pending (s : State) (a errs : Nat) : (State.lineErrors s a errs).1.pending = s.pending := by
  unfold State.lineErrors
  dsimp only
  (repeat' split) <;> simp [apply_ite State.pending]

@[simp] theorem State.readLine_pending (s : State) (w g src errs : Nat) (line : LineSource) : (State.readLine s w g src errs line).1.pending = s.pending := by
  unfold State.readLine
  dsimp only
  (repeat' split) <;> simp [apply_ite State.pending]

@[simp] theorem State.vecOp_pending (s : State) (w n op : Nat) (sl : Slot) (occ : Nat) (ok : Bool) (f : StagCore → List Word) : (State.vecOp s w n op sl occ ok f).pending = s.pending := by
  simp [State.vecOp]

@[simp] theorem State.vecBin_pending (s : State) (w n op : Nat) (sl : Slot) (fi ff : Word → Word → Word) : (State.vecBin s w n op sl fi ff).pending = s.pending := by
  simp [State.vecBin]

@[simp] theorem State.vecUn_pending (s : State) (w n op : Nat) (sl : Slot) (f : Word → Word) : (State.vecUn s w n op sl f).pending = s.pending := by
  simp [State.vecUn]

@[simp] theorem State.remap_pending (s : State) (w l : Nat) : (State.remap s w l).pending = s.pending := by
  unfold State.remap
  (repeat' split) <;> simp

@[simp] theorem State.landLink_pending (s : State) (w : Nat) (f : Flit) : (State.landLink s w f).pending = s.pending := by
  unfold State.landLink
  dsimp only
  (repeat' split) <;> simp [apply_ite State.pending]

@[simp] theorem State.landPort_pending (s : State) (w : Nat) (f : Flit) : (State.landPort s w f).pending = s.pending := by
  simp [State.landPort]

@[simp] theorem State.freeLinkSlot_pending (s : State) (w j : Nat) : (State.freeLinkSlot s w j).pending = s.pending := by
  simp [State.freeLinkSlot]

@[simp] theorem State.refuseLink_pending (s : State) (w j : Nat) (data : Bool) : (State.refuseLink s w j data).pending = s.pending := by
  simp [State.refuseLink, apply_ite State.pending]

@[simp] theorem State.takeLink_pending (s : State) (w j : Nat) : (State.takeLink s w j).pending = s.pending := by
  simp [State.takeLink]

@[simp] theorem State.receiveLink_pending (s : State) (w j : Nat) (sent : Flit) (err : Nat) (f : Flit) : (State.receiveLink s w j sent err f).pending = s.pending := by
  simp [State.receiveLink, apply_ite State.pending]

@[simp] theorem State.refusePort_pending (s : State) (w p c : Nat) (data : Bool) : (State.refusePort s w p c data).pending = s.pending := by
  simp [State.refusePort, apply_ite State.pending]

@[simp] theorem State.receivePort_pending (s : State) (w p c : Nat) (sent : Flit) (err : Nat) (f : Flit) : (State.receivePort s w p c sent err f).pending = s.pending := by
  simp [State.receivePort, apply_ite State.pending]

@[simp] theorem State.drainBuffers_pending (s : State) (sled : Nat) : (State.drainBuffers s sled).pending = s.pending := by
  unfold State.drainBuffers
  refine State.forEach_pending _ _ _ (fun st w => ?_)
  dsimp only
  refine (foldl_pending _ (fun a o => ?_) _ _).trans (foldl_pending _ (fun a l => ?_) _ _)
  · split <;> simp
  · simp

@[simp] theorem State.clearPort_pending (s : State) (c : Nat) (rx : Bool) : (State.clearPort s c rx).pending = s.pending := by
  simp [State.clearPort]

@[simp] theorem State.applyTear_pending (s : State) (c : Nat) (rx : Bool) : (State.applyTear s c rx).pending = s.pending := by
  simp [State.applyTear]

@[simp] theorem State.raiseFlowTorn_pending (s : State) (w j : Nat) (f : FlowDef) : (State.raiseFlowTorn s w j f).pending = s.pending := by
  simp [State.raiseFlowTorn]

@[simp] theorem State.clearCircs_pending (s : State) : (State.clearCircs s).pending = s.pending := by
  simp [State.clearCircs]

@[simp] theorem State.rangeDone_pending (s : State) (c : Nat) : (State.rangeDone s c).pending = s.pending := by
  simp [State.rangeDone, apply_ite State.pending]

@[simp] theorem State.setLat_pending (s : State) (g : Nat) : (State.setLat s g).pending = s.pending := by
  simp [State.setLat]

@[simp] theorem State.downCircuit_pending (s : State) (c : Nat) : (State.downCircuit s c).pending = s.pending := by
  simp [State.downCircuit, apply_ite State.pending]

@[simp] theorem State.makeUsable_pending (s : State) (c loss : Nat) : (State.makeUsable s c loss).pending = s.pending := by
  unfold State.makeUsable
  split <;> simp

@[simp] theorem State.startSearch_pending (s : State) (cmd : Option Cmd) : (State.startSearch s cmd).pending = s.pending := by
  simp [State.startSearch]

@[simp] theorem State.cableSearch_pending (s : State) (c : Cmd) : (State.cableSearch s c).pending = s.pending := by
  simp [State.cableSearch]

@[simp] theorem State.raiseCabling_pending (s : State) (q result repeats : Nat) (l : List Finding) : (State.raiseCabling s q result repeats l).pending = s.pending := by
  unfold State.raiseCabling
  (repeat' split) <;> simp

@[simp] theorem State.putResult_pending (s : State) (q result : Nat) (l : List Finding) : (State.putResult s q result l).pending = s.pending := by
  simp [State.putResult]

@[simp] theorem State.recordResult_pending (s : State) (q result repeats : Nat) (l : List Finding) : (State.recordResult s q result repeats l).pending = s.pending := by
  simp [State.recordResult]

@[simp] theorem State.searchResult_pending (s : State) (q result : Nat) (l : List Finding) : (State.searchResult s q result l).pending = s.pending := by
  simp [State.searchResult, apply_ite State.pending]

@[simp] theorem State.endSearch_pending (s : State) : (State.endSearch s).pending = s.pending := by
  simp [State.endSearch]

@[simp] theorem State.recordLeg_pending (s : State) (m : LegMeas) (i : Nat) : (State.recordLeg s m i).pending = s.pending := by
  unfold State.recordLeg
  dsimp only
  (repeat' split) <;> simp [apply_ite State.pending]

@[simp] theorem State.recordLegs_pending (s : State) (meas : List LegMeas) (qs : List Nat) : (State.recordLegs s meas qs).pending = s.pending := by
  unfold State.recordLegs
  try dsimp only
  repeat' (first | (simp [apply_ite State.pending]; done) | (dsimp only; split) | split | (refine foldl_pending _ (fun _ _ => ?_) _ _))

@[simp] theorem State.toGlow_pending (s : State) (k m : Nat) : (State.toGlow s k m).pending = s.pending := by
  unfold State.toGlow
  split <;> simp

@[simp] theorem State.glowFeed_pending (s : State) (q : Nat) : (State.glowFeed s q).pending = s.pending := by
  unfold State.glowFeed
  (repeat' split) <;> simp

@[simp] theorem State.interlock_pending (s : State) (q : Nat) : (State.interlock s q).pending = s.pending := by
  unfold State.interlock
  split <;> simp

@[simp] theorem State.markChange_pending (s : State) (q : Nat) : (State.markChange s q).pending = s.pending := by
  simp [State.markChange]

@[simp] theorem State.startChecks_pending (s : State) : (State.startChecks s).pending = s.pending := by
  unfold State.startChecks
  (repeat' split) <;> simp

@[simp] theorem State.countSearch_pending (s : State) : (State.countSearch s).pending = s.pending := by
  simp [State.countSearch]

@[simp] theorem State.checkResult_pending (s : State) (q : Nat) (l : List Finding) (meas : List LegMeas) : (State.checkResult s q l meas).pending = s.pending := by
  simp [State.checkResult, apply_ite State.pending]

@[simp] theorem State.afterSwitchIn_pending (s : State) (g : Nat) : (State.afterSwitchIn s g).pending = s.pending := by
  unfold State.afterSwitchIn
  (repeat' split) <;> simp

@[simp] theorem State.delayPaused_pending (s : State) : (State.delayPaused s).pending = s.pending := by
  simp [State.delayPaused, apply_ite State.pending]

@[simp] theorem State.updRx_pending (s : State) (u : TickUnit) (f : TickRx → TickRx) : (State.updRx s u f).pending = s.pending := by
  simp [State.updRx]

@[simp] theorem State.tickFault_pending (s : State) (u : TickUnit) (next : Bool) : (State.tickFault s u next).pending = s.pending := by
  simp [State.tickFault]

@[simp] theorem State.edgeLocked_pending (s : State) (u : TickUnit) (ofs : Int) : (State.edgeLocked s u ofs).pending = s.pending := by
  unfold State.edgeLocked
  split <;> simp

@[simp] theorem State.edgeAcquire_pending (s : State) (u : TickUnit) (ofs : Int) : (State.edgeAcquire s u ofs).pending = s.pending := by
  simp [State.edgeAcquire, apply_ite State.pending]

@[simp] theorem State.loseLock_pending (s : State) (d : Nat) : (State.loseLock s d).pending = s.pending := by
  simp [State.loseLock]

@[simp] theorem State.tickLoss_pending (s : State) (u : TickUnit) : (State.tickLoss s u).pending = s.pending := by
  simp [State.tickLoss, apply_ite State.pending]

@[simp] theorem State.raiseTickFault_pending (s : State) (d : Nat) : (State.raiseTickFault s d).pending = s.pending := by
  simp [State.raiseTickFault]

@[simp] theorem State.tickCheck_pending (s : State) (d : Nat) : (State.tickCheck s d).pending = s.pending := by
  simp [State.tickCheck, apply_ite State.pending]

@[simp] theorem State.startCore_pending (s : State) (b : BindDef) (g : Nat) (job : Job) (w : Nat) : (State.startCore s b g job w).pending = s.pending := by
  unfold State.startCore
  dsimp only
  (repeat' split) <;> simp [apply_ite State.pending]

@[simp] theorem State.noteStep_pending (s : State) (sled : Nat) : (State.noteStep s sled).pending = s.pending := by
  unfold State.noteStep
  try dsimp only
  repeat' (first | (simp [apply_ite State.pending]; done) | (dsimp only; split) | split | (refine foldl_pending _ (fun _ _ => ?_) _ _))

@[simp] theorem State.startCores_pending (s : State) (sled : Nat) : (State.startCores s sled).pending = s.pending := by
  unfold State.startCores
  try dsimp only
  repeat' (first | (simp [apply_ite State.pending]; done) | (dsimp only; split) | split | (refine foldl_pending _ (fun _ _ => ?_) _ _))

@[simp] theorem State.countSettlements_pending (s : State) (sled : Nat) : (State.countSettlements s sled).pending = s.pending := by
  simp [State.countSettlements]

@[simp] theorem State.stepHub_pending (s : State) (k : Nat) : (State.stepHub s k).pending = s.pending := by
  simp [State.stepHub]

@[simp] theorem State.clearEdges_pending (s : State) (d : Nat) : (State.clearEdges s d).pending = s.pending := by
  simp [State.clearEdges]

@[simp] theorem State.commitMirror_pending (s : State) (g b : Nat) : (State.commitMirror s g b).pending = s.pending := by
  unfold State.commitMirror
  dsimp only
  (repeat' split) <;> simp [apply_ite State.pending]

@[simp] theorem State.failBarrier_pending (s : State) (g w b : Nat) : (State.failBarrier s g w b).pending = s.pending := by
  simp [State.failBarrier]

@[simp] theorem State.newKey_pending (s : State) (o : Nat) : (State.newKey s o).2.pending = s.pending := by
  simp [State.newKey]

@[simp] theorem State.losePage_pending (s : State) (w page : Nat) : (State.losePage s w page).pending = s.pending := by
  simp [State.losePage]

@[simp] theorem State.ownerOpen_pending (s : State) (c : Cmd) : (State.ownerOpen s c).pending = s.pending := by
  simp [State.ownerOpen]

@[simp] theorem State.goLive_pending (s : State) : (State.goLive s).pending = s.pending := by
  unfold State.goLive
  split <;> simp

@[simp] theorem State.openBoundary_pending (s : State) : (State.openBoundary s).pending = s.pending := by
  unfold State.openBoundary
  (repeat' split) <;> simp

@[simp] theorem State.ownerRelease_pending (s : State) (c : Cmd) : (State.ownerRelease s c).pending = s.pending := by
  unfold State.ownerRelease
  split <;> simp

@[simp] theorem State.dropAdapters_pending (s : State) (owners : List Nat) : (State.dropAdapters s owners).pending = s.pending := by
  simp [State.dropAdapters]

@[simp] theorem State.endOwnerMoves_pending (s : State) (owners : List Nat) : (State.endOwnerMoves s owners).pending = s.pending := by
  simp [State.endOwnerMoves]

@[simp] theorem State.openErase_pending (s : State) (r : Releasing) : (State.openErase s r).pending = s.pending := by
  simp [State.openErase]

@[simp] theorem State.eraseDone_pending (s : State) : (State.eraseDone s).pending = s.pending := by
  unfold State.eraseDone
  dsimp only
  (repeat' split) <;> simp [apply_ite State.pending]

@[simp] theorem State.giveBack_pending (s : State) (c : Cmd) (addr : Nat) (bytes : List Byte) : (State.giveBack s c addr bytes).pending = s.pending := by
  unfold State.giveBack
  split <;> simp

@[simp] theorem State.writeBack_pending (s : State) (c : Cmd) (addr : Nat) (bytes : List Byte) (result : List (Nat × Nat)) : (State.writeBack s c addr bytes result).pending = s.pending := by
  unfold State.writeBack
  split <;> simp

@[simp] theorem State.kemKeyCmd_pending (s : State) (c : Cmd) : (State.kemKeyCmd s c).pending = s.pending := by
  simp [State.kemKeyCmd]

@[simp] theorem State.seek_pending (s : State) (w need : Nat) : (State.seek s w need).1.pending = s.pending := by
  unfold State.seek
  dsimp only
  (repeat' split) <;> simp [apply_ite State.pending]

@[simp] theorem State.storePut_pending (s : State) (k id : Nat) (bytes : List Byte) : (State.storePut s k id bytes).pending = s.pending := by
  simp [State.storePut]

@[simp] theorem State.cocoonStore_pending (s : State) (c : Cmd) : (State.cocoonStore s c).pending = s.pending := by
  simp [State.cocoonStore]

@[simp] theorem State.cocoonDelete_pending (s : State) (c : Cmd) : (State.cocoonDelete s c).pending = s.pending := by
  simp [State.cocoonDelete]

theorem State.placeLanes_pending (s : State) (b : List Byte) (owner obj : Nat) (l : List (Nat × Nat)) :
    (s.placeLanes b owner obj l).1.pending = s.pending := by
  induction l generalizing s with
  | nil => rfl
  | cons x rest ih =>
    unfold State.placeLanes
    split
    · rw [ih]; simp
    · have hk := State.seek_pending s x.1 (ceilDiv (fieldLE b 0x20 8) 4096)
      split
      · rename_i s1 h
        rw [h] at hk
        exact hk
      · rename_i s1 a h
        rw [h] at hk
        rw [ih]; simpa using hk

@[simp] theorem State.cocoonLoad_pending (s : State) (c : Cmd) : (State.cocoonLoad s c).pending = s.pending := by
  unfold State.cocoonLoad
  have hk := State.placeLanes_pending s (s.cocoonBytes c) c.aux c.unit c.workers.zipIdx
  dsimp only
  repeat' (first | (simp; done) | split)
  all_goals
    rename_i h
    rw [h] at hk
    simpa using hk

@[simp] theorem State.failLoad_pending (s : State) (l : MLoad) (code : Nat) (lane : Option Nat) (chunk : Nat) : (State.failLoad s l code lane chunk).pending = s.pending := by
  simp [State.failLoad]

@[simp] theorem State.seekAgain_pending (s : State) (w obj : Nat) (o : MObj) (l : MLoad) : (State.seekAgain s w obj o l).pending = s.pending := by
  unfold State.seekAgain
  have hk := State.seek_pending (s.updWorker w fun x => x.dropObj obj) w o.pages
  split
  · rename_i s1 a h
    rw [h] at hk
    simpa using hk
  · rename_i s1 h
    rw [h] at hk
    simpa using hk

@[simp] theorem State.zeroGaps_pending (s : State) (w : Nat) (o : MObj) (chunks : List (List Nat)) : (State.zeroGaps s w o chunks).pending = s.pending := by
  simp [State.zeroGaps]

@[simp] theorem State.loadDone_pending (s : State) (l : MLoad) : (State.loadDone s l).pending = s.pending := by
  simp [State.loadDone]

theorem State.promoteLanes_pending (s : State) (obj : Nat) (l : List Nat) : (s.promoteLanes obj l).1.pending = s.pending := by
  induction l generalizing s with
  | nil => rfl
  | cons w rest ih =>
    unfold State.promoteLanes
    dsimp only
    have hk := State.seek_pending
      (s.updWorker w fun x => { x with objs := x.objs.set obj { (s.worker w).objs.get MObj.init obj with state := 5, toFirst := noRun } })
      w ((s.worker w).objs.get MObj.init obj).pages
    split
    · rename_i s1 a h
      rw [h] at hk
      rw [ih]; simpa using hk
    · rename_i s1 h
      rw [h] at hk
      simpa using hk

@[simp] theorem State.unpromote_pending (s : State) (obj : Nat) (ws : List Nat) : (State.unpromote s obj ws).pending = s.pending := by
  simp [State.unpromote]

@[simp] theorem State.moundPromote_pending (s : State) (c : Cmd) : (State.moundPromote s c).pending = s.pending := by
  unfold State.moundPromote
  dsimp only
  refine State.decideCmd_pending _ _ _ _ _ _ _ _ (fun st => ?_)
  have hk := State.promoteLanes_pending st c.unit c.workers.dedup
  split
  · rename_i s1 h
    rw [h] at hk
    split <;> simpa using hk
  · rename_i s1 h
    rw [h] at hk
    simpa using hk

@[simp] theorem State.promoted_pending (s : State) (w obj : Nat) : (State.promoted s w obj).pending = s.pending := by
  unfold State.promoted
  dsimp only
  (repeat' split) <;> simp [apply_ite State.pending]

@[simp] theorem State.copyLane_pending (s : State) (w : Nat) (o : MObj) : (State.copyLane s w o).pending = s.pending := by
  simp [State.copyLane]

@[simp] theorem State.copyErrors_pending (s : State) (w : Nat) (o : MObj) (errs : List (Nat × Nat)) : (State.copyErrors s w o errs).1.pending = s.pending := by
  unfold State.copyErrors
  exact foldl_pair_pending _ (fun u x => by simp) _ _

@[simp] theorem State.failPromote_pending (s : State) (w obj code : Nat) : (State.failPromote s w obj code).pending = s.pending := by
  unfold State.failPromote
  (repeat' split) <;> simp

@[simp] theorem State.pinChange_pending (s : State) (c : Cmd) (add : Bool) : (State.pinChange s c add).pending = s.pending := by
  simp [State.pinChange, apply_ite State.pending]

@[simp] theorem State.moundPin_pending (s : State) (c : Cmd) : (State.moundPin s c).pending = s.pending := by
  simp [State.moundPin]

@[simp] theorem State.moundUnpin_pending (s : State) (c : Cmd) : (State.moundUnpin s c).pending = s.pending := by
  simp [State.moundUnpin]

@[simp] theorem State.pinned_pending (s : State) (w obj : Nat) : (State.pinned s w obj).pending = s.pending := by
  simp [State.pinned]

@[simp] theorem State.moundDrop_pending (s : State) (c : Cmd) : (State.moundDrop s c).pending = s.pending := by
  simp [State.moundDrop]

@[simp] theorem State.moundQuery_pending (s : State) (c : Cmd) : (State.moundQuery s c).pending = s.pending := by
  simp [State.moundQuery]

@[simp] theorem State.pubkeyAdd_pending (s : State) (c : Cmd) : (State.pubkeyAdd s c).pending = s.pending := by
  simp [State.pubkeyAdd, apply_ite State.pending]

@[simp] theorem State.pubkeyRemove_pending (s : State) (c : Cmd) : (State.pubkeyRemove s c).pending = s.pending := by
  simp [State.pubkeyRemove]

@[simp] theorem State.settleMound_pending (s : State) : (State.settleMound s).pending = s.pending := by
  unfold State.settleMound
  dsimp only
  refine (foldl_pending _ (fun st p => ?_) _ _).trans ((foldl_pending _ (fun st p => ?_) _ _).trans (foldl_pending _ (fun st l => ?_) _ _))
  · simp
  · simp
  · split <;> simp

@[simp] theorem State.setTab_pending (s : State) (e : Engine) (t : Tab Cell) : (State.setTab s e t).pending = s.pending := by
  unfold State.setTab
  split <;> simp

@[simp] theorem State.updCell_pending (s : State) (e : Engine) (h : Nat) (f : Cell → Cell) : (State.updCell s e h f).pending = s.pending := by
  simp [State.updCell]

@[simp] theorem State.updCells_pending (s : State) (e : Engine) (hs : List Nat) (f : Nat → Cell → Cell) : (State.updCells s e hs f).pending = s.pending := by
  simp [State.updCells]

@[simp] theorem State.setSensors_pending (s : State) (e : Engine) (t : Tab Sensor) : (State.setSensors s e t).pending = s.pending := by
  unfold State.setSensors
  split <;> simp

@[simp] theorem State.convertSensors_pending (s : State) (e : Engine) (codes : List (Nat × Nat)) : (State.convertSensors s e codes).pending = s.pending := by
  simp [State.convertSensors]

@[simp] theorem State.tileFrame_pending (s : State) (t : Nat) (m : LoopMeas) : (State.tileFrame s t m).pending = s.pending := by
  simp [State.tileFrame]

@[simp] theorem State.ringFrame_pending (s : State) (w : Nat) (m : LoopMeas) : (State.ringFrame s w m).pending = s.pending := by
  simp [State.ringFrame]

@[simp] theorem State.moduleFrame_pending (s : State) (k : Nat) (m : LoopMeas) : (State.moduleFrame s k m).pending = s.pending := by
  simp [State.moduleFrame]

@[simp] theorem State.lightFrame_pending (s : State) (v : Nat) : (State.lightFrame s v).pending = s.pending := by
  simp [State.lightFrame, apply_ite State.pending]

@[simp] theorem State.judgeLock_pending (s : State) (t : Nat) : (State.judgeLock s t).pending = s.pending := by
  simp [State.judgeLock, apply_ite State.pending]

@[simp] theorem State.loopTune_pending (s : State) (c : Cmd) : (State.loopTune s c).pending = s.pending := by
  unfold State.loopTune
  dsimp only
  (repeat' split) <;> simp [apply_ite State.pending]

@[simp] theorem State.endTunes_pending (s : State) : (State.endTunes s).pending = s.pending := by
  unfold State.endTunes
  exact foldl_pending _ (fun st c => by simp) _ _

@[simp] theorem State.updCal_pending (s : State) (e : Engine) (f : Cal → Cal) : (State.updCal s e f).pending = s.pending := by
  unfold State.updCal
  split <;> simp

@[simp] theorem State.rejectCal_pending (s : State) (e : Engine) (r : CalRec) (reason : Nat) : (State.rejectCal s e r reason).pending = s.pending := by
  simp [State.rejectCal]

@[simp] theorem State.rejectAll_pending (s : State) (e : Engine) (rs : List CalRec) : (State.rejectAll s e rs).pending = s.pending := by
  unfold State.rejectAll
  try dsimp only
  repeat' (first | (simp [apply_ite State.pending]; done) | (dsimp only; split) | split | (refine foldl_pending _ (fun _ _ => ?_) _ _))

@[simp] theorem State.calFactory_pending (s : State) (c : Cmd) (meas : List RecMeas) : (State.calFactory s c meas).pending = s.pending := by
  unfold State.calFactory
  dsimp only
  (repeat' split) <;> simp [apply_ite State.pending]

@[simp] theorem State.calWrite_pending (s : State) (c : Cmd) : (State.calWrite s c).pending = s.pending := by
  unfold State.calWrite
  dsimp only
  refine State.decideCmd_pending _ _ _ _ _ _ _ _ (fun st => ?_)
  split
  · rfl
  · split
    · refine (State.final_pending _ _ _ _).trans (foldl_pending _ (fun a r => ?_) _ _)
      (repeat' split) <;> simp
    · refine (State.updCal_pending _ _ _).trans (foldl_pending _ (fun a r => ?_) _ _)
      (repeat' split) <;> simp

@[simp] theorem State.verifyTile_pending (s : State) (c : Cmd) : (State.verifyTile s c).pending = s.pending := by
  simp [State.verifyTile]

@[simp] theorem State.verifyPort_pending (s : State) (c : Cmd) : (State.verifyPort s c).pending = s.pending := by
  simp [State.verifyPort]

@[simp] theorem State.abandonPortVerifies_pending (s : State) (sled : Nat) : (State.abandonPortVerifies s sled).pending = s.pending := by
  simp [State.abandonPortVerifies, apply_ite State.pending]

@[simp] theorem State.lacewingPlan_pending (s : State) (c : Cmd) (kind : Nat) (ranges : Bool) : (State.lacewingPlan s c kind ranges).pending = s.pending := by
  simp [State.lacewingPlan, apply_ite State.pending]

@[simp] theorem State.planBypass_pending (s : State) (c : Cmd) : (State.planBypass s c).pending = s.pending := by
  simp [State.planBypass]

@[simp] theorem State.planEvacuate_pending (s : State) (c : Cmd) : (State.planEvacuate s c).pending = s.pending := by
  simp [State.planEvacuate]

@[simp] theorem State.planRestore_pending (s : State) (c : Cmd) : (State.planRestore s c).pending = s.pending := by
  simp [State.planRestore]

@[simp] theorem State.addOp_pending (s : State) (p : Plan) (commit : Nat) (cmd : Option Cmd) (auto : Bool) : (State.addOp s p commit cmd auto).pending = s.pending := by
  simp [State.addOp]

@[simp] theorem State.startOp_pending (s : State) (p : Plan) (commit : Nat) (cmd : Option Cmd) (auto : Bool) : (State.startOp s p commit cmd auto).pending = s.pending := by
  simp [State.startOp]

@[simp] theorem State.planFailed_pending (s : State) (r : PlanReq) : (State.planFailed s r).pending = s.pending := by
  unfold State.planFailed
  split <;> simp

@[simp] theorem State.replanStaged_pending (s : State) : (State.replanStaged s).pending = s.pending := by
  unfold State.replanStaged
  split <;> simp

@[simp] theorem State.automaticPlan_pending (s : State) (r : PlanReq) (p : Plan) (ticket : Nat) : (State.automaticPlan s r p ticket).pending = s.pending := by
  unfold State.automaticPlan
  split <;> simp

@[simp] theorem State.dropPlan_pending (s : State) : (State.dropPlan s).pending = s.pending := by
  simp [State.dropPlan]

@[simp] theorem State.lacewingCommit_pending (s : State) (c : Cmd) : (State.lacewingCommit s c).pending = s.pending := by
  unfold State.lacewingCommit
  try dsimp only
  repeat' (first | (simp [apply_ite State.pending]; done) | split | (refine State.decideCmd_pending _ _ _ _ _ _ _ _ (fun _ => ?_)))

@[simp] theorem State.lacewingCancel_pending (s : State) (c : Cmd) : (State.lacewingCancel s c).pending = s.pending := by
  simp [State.lacewingCancel]

@[simp] theorem State.changeElem_pending (s : State) (t e : Nat) (new : Elem) : (State.changeElem s t e new).pending = s.pending := by
  simp [State.changeElem]

@[simp] theorem State.jumpRoute_pending (s : State) (c : Nat) : (State.jumpRoute s c).pending = s.pending := by
  simp [State.jumpRoute]

@[simp] theorem State.waveCirc_pending (s : State) (p : Plan) (due c : Nat) : (State.waveCirc s p due c).pending = s.pending := by
  unfold State.waveCirc
  (repeat' split) <;> simp

@[simp] theorem State.commitOp_pending (s : State) (p : Plan) : (State.commitOp s p).pending = s.pending := by
  unfold State.commitOp
  split <;> simp

@[simp] theorem State.downUnset_pending (s : State) (p : Plan) : (State.downUnset s p).pending = s.pending := by
  simp [State.downUnset]

@[simp] theorem State.settleOps_pending (s : State) : (State.settleOps s).pending = s.pending := by
  simp [State.settleOps]

@[simp] theorem State.autoBypass_pending (s : State) (unit : Nat) (circs : List Nat) : (State.autoBypass s unit circs).pending = s.pending := by
  simp [State.autoBypass, apply_ite State.pending]

@[simp] theorem State.failTile_pending (s : State) (t : Nat) : (State.failTile s t).pending = s.pending := by
  unfold State.failTile
  dsimp only
  (repeat' split) <;> simp [apply_ite State.pending]

@[simp] theorem State.failModule_pending (s : State) (k : Nat) : (State.failModule s k).pending = s.pending := by
  simp [State.failModule]

@[simp] theorem State.laserFails_pending (s : State) (k lam reason : Nat) : (State.laserFails s k lam reason).pending = s.pending := by
  unfold State.laserFails
  dsimp only
  (repeat' split) <;> simp [apply_ite State.pending]

@[simp] theorem State.newKem_pending (s : State) : (State.newKem s).pending = s.pending := by
  simp [State.newKem]

@[simp] theorem State.fillSlot0_pending (s : State) : (State.fillSlot0 s).pending = s.pending := by
  simp [State.fillSlot0]

@[simp] theorem State.badCalibration_pending (s : State) (b : Engine × Nat) : (State.badCalibration s b).pending = s.pending := by
  unfold State.badCalibration
  split <;> simp

@[simp] theorem State.failMissing_pending (s : State) : (State.failMissing s).pending = s.pending := by
  simp [State.failMissing]

@[simp] theorem State.endStageA_pending (s : State) (rep : StageReport) : (State.endStageA s rep).pending = s.pending := by
  simp [State.endStageA]

@[simp] theorem State.switchOn_pending (s : State) (w mask : Nat) : (State.switchOn s w mask).pending = s.pending := by
  simp [State.switchOn]

@[simp] theorem State.trainLinks_pending (s : State) (w : Nat) : (State.trainLinks s w).pending = s.pending := by
  simp [State.trainLinks, apply_ite State.pending]

@[simp] theorem State.afterStageC_pending (s : State) : (State.afterStageC s).pending = s.pending := by
  unfold State.afterStageC
  split <;> simp

@[simp] theorem State.failCondemned_pending (s : State) : (State.failCondemned s).pending = s.pending := by
  simp [State.failCondemned]

@[simp] theorem State.finishBringUp_pending (s : State) : (State.finishBringUp s).pending = s.pending := by
  unfold State.finishBringUp
  split <;> simp

@[simp] theorem State.nopCmd_pending (s : State) (c : Cmd) : (State.nopCmd s c).pending = s.pending := by
  simp [State.nopCmd]

@[simp] theorem State.dozeCmd_pending (s : State) (c : Cmd) : (State.dozeCmd s c).pending = s.pending := by
  simp [State.dozeCmd]

@[simp] theorem State.wakeCmd_pending (s : State) (c : Cmd) : (State.wakeCmd s c).pending = s.pending := by
  simp [State.wakeCmd]

@[simp] theorem State.finalAll_pending (s : State) (cs : List Cmd) (status : Nat) (result : List (Nat × Nat)) : (State.finalAll s cs status result).pending = s.pending := by
  simp [State.finalAll]

@[simp] theorem State.cancelDoze_pending (s : State) : (State.cancelDoze s).pending = s.pending := by
  unfold State.cancelDoze
  split <;> simp

@[simp] theorem State.settleDoze_pending (s : State) : (State.settleDoze s).pending = s.pending := by
  unfold State.settleDoze
  (repeat' split) <;> simp

@[simp] theorem State.openHeaters_pending (s : State) : (State.openHeaters s).pending = s.pending := by
  simp [State.openHeaters]

@[simp] theorem State.rangeSuspended_pending (s : State) (start : Nat) : (State.rangeSuspended s start).pending = s.pending := by
  simp [State.rangeSuspended]

@[simp] theorem State.selfTestFail_pending (s : State) (w n : Nat) : (State.selfTestFail s w n).pending = s.pending := by
  unfold State.selfTestFail
  (repeat' split) <;> simp

@[simp] theorem State.wakeControl_pending (s : State) : (State.wakeControl s).pending = s.pending := by
  simp [State.wakeControl]

@[simp] theorem State.wakeDomains_pending (s : State) (mask : Nat) : (State.wakeDomains s mask).pending = s.pending := by
  simp [State.wakeDomains]

@[simp] theorem State.alignSteps_pending (s : State) : (State.alignSteps s).pending = s.pending := by
  simp [State.alignSteps]

@[simp] theorem State.startWaking_pending (s : State) : (State.startWaking s).pending = s.pending := by
  simp [State.startWaking, apply_ite State.pending]

@[simp] theorem State.downSuspended_pending (s : State) : (State.downSuspended s).pending = s.pending := by
  simp [State.downSuspended]

@[simp] theorem State.holdCmd_pending (s : State) (c : Cmd) : (State.holdCmd s c).pending = s.pending := by
  simp [State.holdCmd, apply_ite State.pending]

@[simp] theorem State.enterHold_pending (s : State) : (State.enterHold s).pending = s.pending := by
  unfold State.enterHold
  (repeat' split) <;> simp

@[simp] theorem State.resume_pending (s : State) : (State.resume s).pending = s.pending := by
  simp [State.resume]

@[simp] theorem State.startPowerDown_pending (s : State) (at_ : Nat) : (State.startPowerDown s at_).pending = s.pending := by
  simp [State.startPowerDown]

@[simp] theorem State.resumeCmd_pending (s : State) (c : Cmd) : (State.resumeCmd s c).pending = s.pending := by
  simp [State.resumeCmd]

@[simp] theorem State.powerDownCmd_pending (s : State) (c : Cmd) : (State.powerDownCmd s c).pending = s.pending := by
  simp [State.powerDownCmd]

@[simp] theorem State.offState_pending (s : State) : (State.offState s).pending = s.pending := by
  simp [State.offState]

@[simp] theorem State.loseTier_pending (s : State) (w space : Nat) : (State.loseTier s w space).pending = s.pending := by
  simp [State.loseTier]

@[simp] theorem State.enterServiceCmd_pending (s : State) (c : Cmd) : (State.enterServiceCmd s c).pending = s.pending := by
  simp [State.enterServiceCmd]

@[simp] theorem State.leaveServiceCmd_pending (s : State) (c : Cmd) : (State.leaveServiceCmd s c).pending = s.pending := by
  simp [State.leaveServiceCmd]

@[simp] theorem State.settleService_pending (s : State) : (State.settleService s).pending = s.pending := by
  unfold State.settleService
  (repeat' split) <;> simp

@[simp] theorem State.plannerLimp_pending (s : State) : (State.plannerLimp s).pending = s.pending := by
  unfold State.plannerLimp
  (repeat' split) <;> simp

@[simp] theorem State.holdCells_pending (s : State) : (State.holdCells s).pending = s.pending := by
  simp [State.holdCells]

@[simp] theorem State.overtaken_pending (s : State) : (State.overtaken s).pending = s.pending := by
  unfold State.overtaken
  split <;> simp

@[simp] theorem State.enterLimp_pending (s : State) : (State.enterLimp s).pending = s.pending := by
  unfold State.enterLimp
  (repeat' split) <;> simp

@[simp] theorem State.beginRestart_pending (s : State) (c : Cmd) (cold : Bool) : (State.beginRestart s c cold).pending = s.pending := by
  simp [State.beginRestart]

@[simp] theorem State.restartWarm_pending (s : State) (c : Cmd) : (State.restartWarm s c).pending = s.pending := by
  simp [State.restartWarm]

@[simp] theorem State.coldErase_pending (s : State) : (State.coldErase s).pending = s.pending := by
  unfold State.coldErase
  split <;> simp

@[simp] theorem State.restartCold_pending (s : State) (c : Cmd) : (State.restartCold s c).pending = s.pending := by
  simp [State.restartCold]

@[simp] theorem State.coldClear_pending (s : State) : (State.coldClear s).pending = s.pending := by
  unfold State.coldClear
  dsimp only
  (repeat' split) <;> simp [apply_ite State.pending]

@[simp] theorem State.warmPrime_pending (s : State) : (State.warmPrime s).pending = s.pending := by
  simp [State.warmPrime]

@[simp] theorem State.restartSleds_pending (s : State) : (State.restartSleds s).pending = s.pending := by
  simp [State.restartSleds, apply_ite State.pending]

@[simp] theorem State.domainOff_pending (s : State) (w n : Nat) (lift : Bool) : (State.domainOff s w n lift).pending = s.pending := by
  unfold State.domainOff
  try dsimp only
  repeat' (first | (simp [apply_ite State.pending]; done) | (dsimp only; split) | split | (refine foldl_pending _ (fun _ _ => ?_) _ _))

@[simp] theorem State.domainApply_pending (s : State) (w n : Nat) (want lift bad : Bool) : (State.domainApply s w n want lift bad).pending = s.pending := by
  simp [State.domainApply, apply_ite State.pending]

@[simp] theorem State.applyDomains_pending (s : State) (w : Nat) : (State.applyDomains s w).pending = s.pending := by
  unfold State.applyDomains
  split <;> simp

@[simp] theorem State.applyWorkerRwb_pending (s : State) (w : Nat) : (State.applyWorkerRwb s w).pending = s.pending := by
  simp [State.applyWorkerRwb, apply_ite State.pending]

@[simp] theorem State.rwbApply_pending (s : State) (d : Domain) : (State.rwbApply s d).pending = s.pending := by
  unfold State.rwbApply
  (repeat' split) <;> simp

@[simp] theorem State.imageLoad_pending (s : State) (c : Cmd) : (State.imageLoad s c).pending = s.pending := by
  simp [State.imageLoad]

@[simp] theorem State.lastImage_pending (s : State) (code op : Nat) : (State.lastImage s code op).pending = s.pending := by
  simp [State.lastImage]

@[simp] theorem State.placeBank_pending (s : State) (id w : Nat) : (State.placeBank s id w).pending = s.pending := by
  simp [State.placeBank]

@[simp] theorem State.askReplan_pending (s : State) : (State.askReplan s).pending = s.pending := by
  simp [State.askReplan]

@[simp] theorem State.imageActivate_pending (s : State) (c : Cmd) : (State.imageActivate s c).pending = s.pending := by
  unfold State.imageActivate
  try dsimp only
  repeat' (first | (simp [apply_ite State.pending]; done) | split | (refine State.decideCmd_pending _ _ _ _ _ _ _ _ (fun _ => ?_)))

@[simp] theorem State.abandonAct_pending (s : State) (a : Activation) (code : Nat) : (State.abandonAct s a code).pending = s.pending := by
  unfold State.abandonAct
  split <;> simp

@[simp] theorem State.takeRegions_pending (s : State) (k : Nat) (i : Image) : (State.takeRegions s k i).pending = s.pending := by
  unfold State.takeRegions
  try dsimp only
  repeat' (first | (simp [apply_ite State.pending]; done) | (dsimp only; split) | split | (refine State.forEach_pending _ _ _ (fun _ _ => ?_)) | (refine (foldl_pending _ (fun _ _ => ?_) _ _).trans ?_))

@[simp] theorem State.tearNow_pending (s : State) (c cause : Nat) : (State.tearNow s c cause).pending = s.pending := by
  unfold State.tearNow
  split <;> simp

@[simp] theorem State.endOps_pending (s : State) : (State.endOps s).pending = s.pending := by
  simp [State.endOps]

@[simp] theorem State.rewire_pending (s : State) (i : Image) : (State.rewire s i).pending = s.pending := by
  simp [State.rewire, apply_ite State.pending]

@[simp] theorem State.adoptLPorts_pending (s : State) (i : Image) : (State.adoptLPorts s i).pending = s.pending := by
  simp [State.adoptLPorts]

@[simp] theorem State.adoptPairs_pending (s : State) (i : Image) : (State.adoptPairs s i).pending = s.pending := by
  simp [State.adoptPairs]

@[simp] theorem State.takeLoops_pending (s : State) (i : Image) (p : Engine → Bool) : (State.takeLoops s i p).pending = s.pending := by
  unfold State.takeLoops
  try dsimp only
  repeat' (first | (simp [apply_ite State.pending]; done) | (dsimp only; split) | split | (refine foldl_pending _ (fun _ _ => ?_) _ _))

@[simp] theorem State.swapProgram_pending (s : State) (i : Image) : (State.swapProgram s i).pending = s.pending := by
  simp [State.swapProgram]

@[simp] theorem State.replaceGroups_pending (s : State) (id : Nat) (declared : Nat → Bool) : (State.replaceGroups s id declared).pending = s.pending := by
  simp [State.replaceGroups, apply_ite State.pending]

@[simp] theorem State.standIn_pending (s : State) (w : Nat) : (State.standIn s w).pending = s.pending := by
  unfold State.standIn
  split <;> simp

@[simp] theorem State.endAct_pending (s : State) (a : Activation) (downs : Nat) : (State.endAct s a downs).pending = s.pending := by
  simp [State.endAct]

@[simp] theorem State.intoImage_pending (s : State) (a : Activation) (differs : Bool) : (State.intoImage s a differs).pending = s.pending := by
  unfold State.intoImage
  split <;> simp

@[simp] theorem State.setLats_pending (s : State) (i : Image) : (State.setLats s i).pending = s.pending := by
  simp [State.setLats]

@[simp] theorem State.takeFull_pending (s : State) (a : Activation) (i : Image) : (State.takeFull s a i).pending = s.pending := by
  simp [State.takeFull, apply_ite State.pending]

@[simp] theorem State.takeWiring_pending (s : State) (a : Activation) (i base : Image) : (State.takeWiring s a i base).pending = s.pending := by
  simp [State.takeWiring, apply_ite State.pending]

@[simp] theorem State.takeScarab_pending (s : State) (a : Activation) (i : Image) : (State.takeScarab s a i).pending = s.pending := by
  simp [State.takeScarab]

@[simp] theorem State.activateWorker_pending (s : State) (i : Image) (w : Nat) : (State.activateWorker s i w).pending = s.pending := by
  simp [State.activateWorker]

@[simp] theorem State.imageDiscard_pending (s : State) (c : Cmd) : (State.imageDiscard s c).pending = s.pending := by
  simp [State.imageDiscard]

@[simp] theorem State.imageDeactivate_pending (s : State) (c : Cmd) : (State.imageDeactivate s c).pending = s.pending := by
  simp [State.imageDeactivate]

@[simp] theorem State.removeImage_pending (s : State) : (State.removeImage s).pending = s.pending := by
  simp [State.removeImage]

@[simp] theorem State.settleDeact_pending (s : State) : (State.settleDeact s).pending = s.pending := by
  unfold State.settleDeact
  (repeat' split) <;> simp

@[simp] theorem State.scarabRun_pending (s : State) (i : Instr) (f : Scarab → Scarab) : (State.scarabRun s i f).pending = s.pending := by
  unfold State.scarabRun
  split <;> simp

@[simp] theorem State.scarabOp_pending (s : State) (i : Instr) (f : Scarab → Scarab) : (State.scarabOp s i f).pending = s.pending := by
  simp [State.scarabOp]

@[simp] theorem State.scarabSet_pending (s : State) (i : Instr) (d : Nat) (v : Scarab → Int) : (State.scarabSet s i d v).pending = s.pending := by
  simp [State.scarabSet]

@[simp] theorem State.scarabBranch_pending (s : State) (i : Instr) (target : Nat) (p : Scarab → Bool) : (State.scarabBranch s i target p).pending = s.pending := by
  simp [State.scarabBranch]

@[simp] theorem State.readReg_pending (s : State) (p : Path) (mc : Nat) (b : Block) (o : Nat) : (State.readReg s p mc b o).2.pending = s.pending := by
  unfold State.readReg
  dsimp only
  (repeat' split) <;> simp [apply_ite State.pending]

@[simp] theorem State.readAt_pending (s : State) (p : Path) (mc : Nat) (pl : Option (Block × Nat)) : (State.readAt s p mc pl).2.pending = s.pending := by
  unfold State.readAt
  split <;> simp

@[simp] theorem State.writePdctl_pending (s : State) (w v be mc : Nat) : (State.writePdctl s w v be mc).pending = s.pending := by
  simp [State.writePdctl]

@[simp] theorem State.writeWorker_pending (s : State) (w o v be mc : Nat) : (State.writeWorker s w o v be mc).pending = s.pending := by
  simp [State.writeWorker, apply_ite State.pending]

@[simp] theorem State.writeWindow_pending (s : State) (e : Engine) (h ofs : Nat) (bytes : List Byte) (mc : Nat) (scb : Bool) : (State.writeWindow s e h ofs bytes mc scb).pending = s.pending := by
  unfold State.writeWindow
  split <;> simp

@[simp] theorem State.writeCells_pending (s : State) (e : Engine) (o v be mc : Nat) (scb : Bool) : (State.writeCells s e o v be mc scb).pending = s.pending := by
  simp [State.writeCells, apply_ite State.pending]

@[simp] theorem State.ringDoorbell_pending (s : State) (v mc : Nat) : (State.ringDoorbell s v mc).pending = s.pending := by
  simp [State.ringDoorbell]

@[simp] theorem State.writeReg_pending (s : State) (own : Option Nat) (b : Block) (o v be mc : Nat) (scb : Bool) : (State.writeReg s own b o v be mc scb).pending = s.pending := by
  unfold State.writeReg
  (repeat' split) <;> simp

@[simp] theorem State.regWrite1_pending (s : State) (own : Option Nat) (b : Block) (o v be mc : Nat) (scb : Bool) : (State.regWrite1 s own b o v be mc scb).2.pending = s.pending := by
  unfold State.regWrite1
  dsimp only
  (repeat' split) <;> simp [apply_ite State.pending]

@[simp] theorem State.recordRefusal_pending (s : State) (k code ofs : Nat) : (State.recordRefusal s k code ofs).pending = s.pending := by
  simp [State.recordRefusal]

@[simp] theorem State.recordAt_pending (s : State) (k code : Nat) (ofs : Option Nat) : (State.recordAt s k code ofs).pending = s.pending := by
  unfold State.recordAt
  split <;> simp

@[simp] theorem State.hostWrite1_pending (s : State) (k : Nat) (b : Block) (o v be mc : Nat) (ofs : Option Nat) : (State.hostWrite1 s k b o v be mc ofs).pending = s.pending := by
  simp [State.hostWrite1, apply_ite State.pending]

@[simp] theorem State.rowWrite_pending (s : State) (p : Path) (pl : Option (Block × Nat)) (v mc : Nat) : (State.rowWrite s p pl v mc).pending = s.pending := by
  unfold State.rowWrite
  (repeat' split) <;> simp

@[simp] theorem State.windowAccess_pending (s : State) (k : Option Nat) (e : Engine) (h ofs : Nat) (bytes : List Byte) (mc : Nat) : (State.windowAccess s k e h ofs bytes mc).pending = s.pending := by
  unfold State.windowAccess
  dsimp only
  (repeat' split) <;> simp [apply_ite State.pending]

@[simp] theorem State.hostTierRead_pending (s : State) (k a n : Nat) (errs : List (Nat × Nat)) : (State.hostTierRead s k a n errs).pending = s.pending := by
  unfold State.hostTierRead
  dsimp only
  have hk : ∀ (f : State × Bool × List Byte → Nat × Nat → State × Bool × List Byte) (l : List (Nat × Nat)) (u : State × Bool × List Byte),
      (∀ u x, (f u x).1.pending = u.1.pending) → (l.foldl f u).1.pending = u.1.pending := fun f l u h => foldl_pair_pending f h l u
  generalize hl : List.foldl _ _ _ = r
  have hr : r.1.pending = s.pending := by
    rw [← hl]
    refine hk _ _ _ (fun u x => ?_)
    split <;> simp
  (repeat' split) <;> simp [hr]

@[simp] theorem State.hostTierWrite_pending (s : State) (a : Nat) (bytes : List Byte) : (State.hostTierWrite s a bytes).pending = s.pending := by
  simp [State.hostTierWrite, apply_ite State.pending]

@[simp] theorem State.hostRegRead_pending (s : State) (k a n mc : Nat) : (State.hostRegRead s k a n mc).pending = s.pending := by
  unfold State.hostRegRead
  dsimp only
  simp only [State.emit_pending]
  exact foldl_pair_pending _ (fun u x => by simp) _ _

@[simp] theorem State.hostRegWrite_pending (s : State) (k a : Nat) (bytes : List Byte) (mc : Nat) : (State.hostRegWrite s k a bytes mc).pending = s.pending := by
  unfold State.hostRegWrite
  try dsimp only
  repeat' (first | (simp [apply_ite State.pending]; done) | (dsimp only; split) | split | (refine foldl_pending _ (fun _ _ => ?_) _ _))

@[simp] theorem State.deliverOut_pending (s : State) (a v mc : Nat) : (State.deliverOut s a v mc).pending = s.pending := by
  unfold State.deliverOut
  (repeat' split) <;> simp

@[simp] theorem State.postCmd_pending (s : State) (n : Nat) (words : List Nat) : (State.postCmd s n words).pending = s.pending := by
  simp [State.postCmd]

@[simp] theorem State.deliver_pending (s : State) : (State.deliver s).pending = s.pending := by
  simp [State.deliver]

@[simp] theorem State.wakeByJob_pending (s : State) : (State.wakeByJob s).pending = s.pending := by
  unfold State.wakeByJob
  split <;> simp

@[simp] theorem State.acceptJob_pending (s : State) (c : Cmd) (b : List Byte) : (State.acceptJob s c b).pending = s.pending := by
  unfold State.acceptJob
  dsimp only
  (repeat' split) <;> simp [apply_ite State.pending]

@[simp] theorem State.jobStart_pending (s : State) (c : Cmd) : (State.jobStart s c).pending = s.pending := by
  unfold State.jobStart
  try dsimp only
  repeat' (first | (simp [apply_ite State.pending]; done) | split | (refine State.decideCmd_pending _ _ _ _ _ _ _ _ (fun _ => ?_)))

@[simp] theorem State.settleWaiting_pending (s : State) : (State.settleWaiting s).pending = s.pending := by
  unfold State.settleWaiting
  split <;> simp

@[simp] theorem State.finishAbort_pending (s : State) (g : Nat) : (State.finishAbort s g).pending = s.pending := by
  unfold State.finishAbort
  dsimp only
  (repeat' split) <;> simp [apply_ite State.pending]

@[simp] theorem State.jobAbort_pending (s : State) (c : Cmd) : (State.jobAbort s c).pending = s.pending := by
  unfold State.jobAbort
  try dsimp only
  repeat' (first | (simp [apply_ite State.pending]; done) | split | (refine State.decideCmd_pending _ _ _ _ _ _ _ _ (fun _ => ?_)))

@[simp] theorem State.remapGroup_pending (s : State) (g k : Nat) : (State.remapGroup s g k).pending = s.pending := by
  unfold State.remapGroup
  try dsimp only
  repeat' (first | (simp [apply_ite State.pending]; done) | (dsimp only; split) | split | (refine foldl_pending _ (fun _ _ => ?_) _ _))

@[simp] theorem State.restoreWorker_pending (s : State) (d : GroupDef) (stride w : Nat) : (State.restoreWorker s d stride w).pending = s.pending := by
  unfold State.restoreWorker
  (repeat' split) <;> simp

@[simp] theorem State.dataImport_pending (s : State) (c : Cmd) : (State.dataImport s c).pending = s.pending := by
  simp [State.dataImport]

@[simp] theorem State.dataExport_pending (s : State) (c : Cmd) : (State.dataExport s c).pending = s.pending := by
  simp [State.dataExport]

@[simp] theorem State.endTransfer_pending (s : State) (t : Transfer) : (State.endTransfer s t).pending = s.pending := by
  simp [State.endTransfer, apply_ite State.pending]

@[simp] theorem State.remember_pending (s : State) (d : Datagram) (r : Option Out) : (State.remember s d r).pending = s.pending := by
  unfold State.remember
  split <;> simp

@[simp] theorem State.reply_pending (s : State) (d : Datagram) (status : Nat) (words : List Nat) : (State.reply s d status words).pending = s.pending := by
  simp [State.reply]

@[simp] theorem State.request_pending (s : State) (d : Datagram) (inLimp : Bool) (f : State → State) (hf : ∀ s, (f s).pending = s.pending) : (State.request s d inLimp f).pending = s.pending := by
  unfold State.request
  try dsimp only
  repeat' (first | (simp [apply_ite State.pending, hf]; done) | (dsimp only; split) | split | (refine foldl_pending _ (fun _ _ => ?_) _ _))

@[simp] theorem State.mgmtRead_pending (s : State) (d : Datagram) : (State.mgmtRead s d).pending = s.pending := by
  unfold State.mgmtRead
  split
  · simp
  · dsimp only
    simp only [State.reply_pending]
    exact foldl_pair_pending _ (fun u x => by simp) _ _

@[simp] theorem State.mgmtWrite_pending (s : State) (d : Datagram) : (State.mgmtWrite s d).pending = s.pending := by
  unfold State.mgmtWrite
  split
  · simp
  · dsimp only
    simp only [State.reply_pending]
    refine foldl_pair_pending _ (fun u x => ?_) _ _
    split
    · rfl
    · simp

@[simp] theorem State.mgmtCommand_pending (s : State) (d : Datagram) : (State.mgmtCommand s d).pending = s.pending := by
  unfold State.mgmtCommand
  (repeat' split) <;> simp

@[simp] theorem State.planCmd_pending (s : State) (c : Cmd) : (State.planCmd s c).pending = s.pending := by
  simp [State.planCmd, apply_ite State.pending]

@[simp] theorem State.verifyCmd_pending (s : State) (c : Cmd) : (State.verifyCmd s c).pending = s.pending := by
  unfold State.verifyCmd
  split <;> simp

@[simp] theorem State.factoryCmd_pending (s : State) (c : Cmd) : (State.factoryCmd s c).pending = s.pending := by
  simp [State.factoryCmd]

theorem State.decideState_pending (s : State) (c : Cmd) : ∀ t, State.decideState s c = some t → t.pending = s.pending := by
  unfold State.decideState
  split <;> simp

theorem State.decideStore_pending (s : State) (c : Cmd) : ∀ t, State.decideStore s c = some t → t.pending = s.pending := by
  unfold State.decideStore
  split <;> simp

theorem State.decideWork_pending (s : State) (c : Cmd) : ∀ t, State.decideWork s c = some t → t.pending = s.pending := by
  unfold State.decideWork
  split <;> simp

@[simp] theorem State.decideByOp_pending (s : State) (c : Cmd) : (State.decideByOp s c).pending = s.pending := by
  unfold State.decideByOp
  split
  · exact State.decideState_pending s c _ (by assumption)
  · exact State.decideStore_pending s c _ (by assumption)
  · exact State.decideWork_pending s c _ (by assumption)
  · split <;> simp

@[simp] theorem State.takeIntake_pending (s : State) : (State.takeIntake s).pending = s.pending := by
  simp [State.takeIntake]

@[simp] theorem State.timeBoundary_pending (s : State) : (State.timeBoundary s).pending = s.pending := by
  simp [State.timeBoundary, apply_ite State.pending]

@[simp] theorem State.raiseReports_pending (s : State) : (State.raiseReports s).pending = s.pending := by
  simp [State.raiseReports]

@[simp] theorem State.settleRunning_pending (s : State) : (State.settleRunning s).pending = s.pending := by
  simp [State.settleRunning, apply_ite State.pending]

@[simp] theorem State.transitions_pending (s : State) : (State.transitions s).pending = s.pending := by
  simp [State.transitions]

@[simp] theorem State.settle_pending (s : State) : (State.settle s).pending = s.pending := by
  simp [State.settle]

@[simp] theorem State.refreshScarab_pending (s : State) (slots : Tab (List Nat)) : (State.refreshScarab s slots).pending = s.pending := by
  simp [State.refreshScarab]

end Sys2Proof.Machine
end

