-- ==== Sys2Proof/Laws/PerInstr.lean ====
section
/-! SUPPORT. A law made once for every constructor of Instr: the word of a command, where it has one, fits 32 bits. -/

set_option linter.unusedVariables false
set_option linter.unusedSimpArgs false

namespace Sys2Proof.Laws.Fits

/-- The word that a well-formed command spells for the Scarab engine, where it spells one, fits 32 bits (R309). -/
def Statement (i : Instr) : Prop := i.wf = true → ∀ w, scarabEncode i = some w → w < 2 ^ 32

/-- A command that spells no word. -/
theorem of_none {i : Instr} (h : scarabEncode i = none) : Statement i := by
  intro _ w hw
  rw [h] at hw
  cases hw

/-- A command that spells a word. -/
theorem of_some {i : Instr} {w : Nat} (he : scarabEncode i = some w) (h : i.wf = true → w < 2 ^ 32) : Statement i := by
  intro hi v hv
  rw [he] at hv
  cases hv
  exact h hi

theorem busPowerUp (volts : Nat) : Statement (.busPowerUp volts) := of_none rfl

theorem bringUpStageEnd (st : Stage) (rep : StageReport) : Statement (.bringUpStageEnd st rep) := of_none rfl

theorem bringUpTimeout  : Statement .bringUpTimeout := of_none rfl

theorem pcieConfigRequest (link : Nat) : Statement (.pcieConfigRequest link) := of_none rfl

theorem frameBoundary (s : Nat) (bus : List Nat) : Statement (.frameBoundary s bus) := of_none rfl

theorem managerBoundary  : Statement .managerBoundary := of_none rfl

theorem rwbApply (d : Domain) : Statement (.rwbApply d) := of_none rfl

theorem seamPhase (s : Nat) (overrun : List (Nat × Nat × Nat)) : Statement (.seamPhase s overrun) := of_none rfl

theorem tickEdge (u : TickUnit) (ofs : Int) : Statement (.tickEdge u ofs) := of_none rfl

theorem missingTick (u : TickUnit) : Statement (.missingTick u) := of_none rfl

theorem referenceLoss (d : Domain) : Statement (.referenceLoss d) := of_none rfl

theorem referenceReturn (d : Domain) : Statement (.referenceReturn d) := of_none rfl

theorem barrierTokenEmit (g w : Nat) : Statement (.barrierTokenEmit g w) := of_none rfl

theorem tokenArrival (g w sender barrier : Nat) (arrival : Int) (via : Option Nat) : Statement (.tokenArrival g w sender barrier arrival via) := of_none rfl

theorem barrierComplete (g w : Nat) : Statement (.barrierComplete g w) := of_none rfl

theorem nop (c : Cmd) : Statement (.nop c) := of_none rfl

theorem doze (c : Cmd) : Statement (.doze c) := of_none rfl

theorem dozeAt (s : Nat) : Statement (.dozeAt s) := of_none rfl

theorem wake (c : Cmd) : Statement (.wake c) := of_none rfl

theorem cancel (s : Nat) : Statement (.cancel s) := of_none rfl

theorem dozeDrop  : Statement .dozeDrop := of_none rfl

theorem drop (s : Nat) : Statement (.drop s) := of_none rfl

theorem wakeSequenceStart  : Statement .wakeSequenceStart := of_none rfl

theorem wakeSequenceStage (row : Nat) (selfTestFails : List (Nat × Nat)) : Statement (.wakeSequenceStage row selfTestFails) := of_none rfl

theorem wakeSequenceEnd  : Statement .wakeSequenceEnd := of_none rfl

theorem hold (c : Cmd) : Statement (.hold c) := of_none rfl

theorem sagRequest (s : Nat) (bus : List Nat) : Statement (.sagRequest s bus) := of_none rfl

theorem sagRequestEnd (s : Nat) (bus : List Nat) : Statement (.sagRequestEnd s bus) := of_none rfl

theorem holdRequest (cause : Nat) : Statement (.holdRequest cause) := of_none rfl

theorem holdBroadcast (s : Nat) : Statement (.holdBroadcast s) := of_none rfl

theorem sledHoldEntry (s : Nat) : Statement (.sledHoldEntry s) := of_none rfl

theorem busRecovered  : Statement .busRecovered := of_none rfl

theorem holdDeadline  : Statement .holdDeadline := of_none rfl

theorem tickLossResume  : Statement .tickLossResume := of_none rfl

theorem resume (c : Cmd) : Statement (.resume c) := of_none rfl

theorem resumeMessage (s : Nat) : Statement (.resumeMessage s) := of_none rfl

theorem sledResumeStart (s : Nat) : Statement (.sledResumeStart s) := of_none rfl

theorem powerDown (c : Cmd) : Statement (.powerDown c) := of_none rfl

theorem orderlyPowerDownStage (row : Nat) : Statement (.orderlyPowerDownStage row) := of_none rfl

theorem enterService (c : Cmd) : Statement (.enterService c) := of_none rfl

theorem leaveService (c : Cmd) : Statement (.leaveService c) := of_none rfl

theorem watchdogCheck  : Statement .watchdogCheck := of_none rfl

theorem lockstepMismatch  : Statement .lockstepMismatch := of_none rfl

theorem thermalFault (k : ThermalKind) (part : Nat) (reading : Int) : Statement (.thermalFault k part reading) := of_none rfl

theorem thermalFaultClear (k : ThermalKind) : Statement (.thermalFaultClear k) := of_none rfl

theorem limpEntry  : Statement .limpEntry := of_none rfl

theorem limp (s : Nat) : Statement (.limp s) := of_none rfl

theorem restartWarm (c : Cmd) : Statement (.restartWarm c) := of_none rfl

theorem restartCold (c : Cmd) : Statement (.restartCold c) := of_none rfl

theorem restartLadderStage (selfTestOk : Bool) : Statement (.restartLadderStage selfTestOk) := of_none rfl

theorem wkrPdctlOnWrite (p : Path) (w value : Nat) : Statement (.wkrPdctlOnWrite p w value) := of_none rfl

theorem wkrPdctlForceWrite (p : Path) (w value : Nat) : Statement (.wkrPdctlForceWrite p w value) := of_none rfl

theorem powerDomainApply (w : Nat) : Statement (.powerDomainApply w) := of_none rfl

theorem imageLoad (c : Cmd) : Statement (.imageLoad c) := of_none rfl

theorem imageValidation (bytes : List Byte) : Statement (.imageValidation bytes) := of_none rfl

theorem placementEnd  : Statement .placementEnd := of_none rfl

theorem imageActivate (c : Cmd) : Statement (.imageActivate c) := of_none rfl

theorem drainTimeout  : Statement .drainTimeout := of_none rfl

theorem imageBoundary  : Statement .imageBoundary := of_none rfl

theorem activateAt (s : Nat) : Statement (.activateAt s) := of_none rfl

theorem passageEnd  : Statement .passageEnd := of_none rfl

theorem imageDiscard (c : Cmd) : Statement (.imageDiscard c) := of_none rfl

theorem imageDeactivate (c : Cmd) : Statement (.imageDeactivate c) := of_none rfl

theorem planePark  : Statement .planePark := of_none rfl

theorem wload (w n : Nat) (sl : Slot) : Statement (.wload w n sl) := of_none rfl

theorem wswap (w n : Nat) (sl : Slot) : Statement (.wswap w n sl) := of_none rfl

theorem mac (w n : Nat) (sl : Slot) : Statement (.mac w n sl) := of_none rfl

theorem drain (w n : Nat) (sl : Slot) (upsets : List (Nat × Nat × Nat)) : Statement (.drain w n sl upsets) := of_none rfl

theorem mrd (w n : Nat) (sl : Slot) (errs : List (Nat × Nat)) : Statement (.mrd w n sl errs) := of_none rfl

theorem mwr (w n : Nat) (sl : Slot) : Statement (.mwr w n sl) := of_none rfl

theorem lsend (w n : Nat) (sl : Slot) : Statement (.lsend w n sl) := of_none rfl

theorem osend (w n : Nat) (sl : Slot) : Statement (.osend w n sl) := of_none rfl

theorem vld (w n : Nat) (sl : Slot) : Statement (.vld w n sl) := of_none rfl

theorem vst (w n : Nat) (sl : Slot) : Statement (.vst w n sl) := of_none rfl

theorem vadd (w n : Nat) (sl : Slot) : Statement (.vadd w n sl) := of_none rfl

theorem vsub (w n : Nat) (sl : Slot) : Statement (.vsub w n sl) := of_none rfl

theorem vmul (w n : Nat) (sl : Slot) : Statement (.vmul w n sl) := of_none rfl

theorem vfma (w n : Nat) (sl : Slot) : Statement (.vfma w n sl) := of_none rfl

theorem vmax (w n : Nat) (sl : Slot) : Statement (.vmax w n sl) := of_none rfl

theorem vmin (w n : Nat) (sl : Slot) : Statement (.vmin w n sl) := of_none rfl

theorem vcmpgt (w n : Nat) (sl : Slot) : Statement (.vcmpgt w n sl) := of_none rfl

theorem vcvt (w n : Nat) (sl : Slot) : Statement (.vcvt w n sl) := of_none rfl

theorem vexp (w n : Nat) (sl : Slot) : Statement (.vexp w n sl) := of_none rfl

theorem vrcp (w n : Nat) (sl : Slot) : Statement (.vrcp w n sl) := of_none rfl

theorem vrsqrt (w n : Nat) (sl : Slot) : Statement (.vrsqrt w n sl) := of_none rfl

theorem vtanh (w n : Nat) (sl : Slot) : Statement (.vtanh w n sl) := of_none rfl

theorem vrsum (w n : Nat) (sl : Slot) : Statement (.vrsum w n sl) := of_none rfl

theorem vrmax (w n : Nat) (sl : Slot) : Statement (.vrmax w n sl) := of_none rfl

theorem vbcast (w n : Nat) (sl : Slot) : Statement (.vbcast w n sl) := of_none rfl

theorem vperm (w n : Nat) (sl : Slot) : Statement (.vperm w n sl) := of_none rfl

theorem coreRetirementReport (w n : Nat) : Statement (.coreRetirementReport w n) := of_none rfl

theorem logicalCoreRemap (w l : Nat) : Statement (.logicalCoreRemap w l) := of_none rfl

theorem memoryTemperatureReport (w unit : Nat) (temp : Int) : Statement (.memoryTemperatureReport w unit temp) := of_none rfl

theorem pageRetirement (w page : Nat) : Statement (.pageRetirement w page) := of_none rfl

theorem ownerOpen (c : Cmd) : Statement (.ownerOpen c) := of_none rfl

theorem ownerSecretReceipt (w : Nat) : Statement (.ownerSecretReceipt w) := of_none rfl

theorem ownerOpenConfirm (w : Nat) : Statement (.ownerOpenConfirm w) := of_none rfl

theorem ownerOpenTimeout  : Statement .ownerOpenTimeout := of_none rfl

theorem ownerRelease (c : Cmd) : Statement (.ownerRelease c) := of_none rfl

theorem releaseDrainTimeout  : Statement .releaseDrainTimeout := of_none rfl

theorem eraseBoundary  : Statement .eraseBoundary := of_none rfl

theorem erase (w : Nat) : Statement (.erase w) := of_none rfl

theorem eraseConfirm (w : Nat) : Statement (.eraseConfirm w) := of_none rfl

theorem kemKey (c : Cmd) : Statement (.kemKey c) := of_none rfl

theorem cocoonStore (c : Cmd) : Statement (.cocoonStore c) := of_none rfl

theorem cocoonLoad (c : Cmd) : Statement (.cocoonLoad c) := of_none rfl

theorem chunkCheck (w k : Nat) : Statement (.chunkCheck w k) := of_none rfl

theorem objectResident (w obj : Nat) : Statement (.objectResident w obj) := of_none rfl

theorem moundPromote (c : Cmd) : Statement (.moundPromote c) := of_none rfl

theorem moundCopyEnd (w obj : Nat) (errs : List (Nat × Nat)) : Statement (.moundCopyEnd w obj errs) := of_none rfl

theorem moundPin (c : Cmd) : Statement (.moundPin c) := of_none rfl

theorem moundUnpin (c : Cmd) : Statement (.moundUnpin c) := of_none rfl

theorem hostPinApply (w obj : Nat) : Statement (.hostPinApply w obj) := of_none rfl

theorem moundDrop (c : Cmd) : Statement (.moundDrop c) := of_none rfl

theorem moundQuery (c : Cmd) : Statement (.moundQuery c) := of_none rfl

theorem pubkeyAdd (c : Cmd) : Statement (.pubkeyAdd c) := of_none rfl

theorem pubkeyRemove (c : Cmd) : Statement (.pubkeyRemove c) := of_none rfl

theorem cocoonDelete (c : Cmd) : Statement (.cocoonDelete c) := of_none rfl

theorem flitReceive (e : WireEnd) (cycle : Nat) (errs : List (Nat × Byte)) : Statement (.flitReceive e cycle errs) := of_none rfl

theorem creditDue (c : Nat) : Statement (.creditDue c) := of_none rfl

theorem circuitTear (c : Nat) (rxEnd : Bool) : Statement (.circuitTear c rxEnd) := of_none rfl

theorem settlement (r : WireRef) (rxEnd : Bool) : Statement (.settlement r rxEnd) := of_none rfl

theorem evCircuitTorn (r : WireRef) : Statement (.evCircuitTorn r) := of_none rfl

theorem laneLockLoss (w j : Nat) : Statement (.laneLockLoss w j) := of_none rfl

theorem linkRetrainTimeout (w j : Nat) : Statement (.linkRetrainTimeout w j) := of_none rfl

theorem rangingSample (c : Nat) (start stop : Nat) : Statement (.rangingSample c start stop) := of_none rfl

theorem circuitUsable (c loss : Nat) : Statement (.circuitUsable c loss) := of_none rfl

theorem cableSearch (c : Cmd) : Statement (.cableSearch c) := of_none rfl

theorem searchRound (seen : RoundSeen) : Statement (.searchRound seen) := of_none rfl

theorem searchPassEnd  : Statement .searchPassEnd := of_none rfl

theorem legGroup (meas : List LegMeas) : Statement (.legGroup meas) := of_none rfl

theorem presenceContactOpen (q : Nat) : Statement (.presenceContactOpen q) := of_none rfl

theorem workerPortContactOpen (w p : Nat) : Statement (.workerPortContactOpen w p) := of_none rfl

theorem returnLight (k m : Nat) : Statement (.returnLight k m) := of_none rfl

theorem glowRelease (k m : Nat) : Statement (.glowRelease k m) := of_none rfl

theorem presenceContactClose (q : Nat) : Statement (.presenceContactClose q) := of_none rfl

theorem onePortCheck (q : Nat) (seen : RoundSeen) (meas : List LegMeas) : Statement (.onePortCheck q seen meas) := of_none rfl

theorem workerSilence (w : Nat) : Statement (.workerSilence w) := of_none rfl

theorem workerSupplyFault (w : Nat) : Statement (.workerSupplyFault w) := of_none rfl

theorem stashCopyEnd (s : Nat) : Statement (.stashCopyEnd s) := of_none rfl

theorem spareReady (s : Nat) : Statement (.spareReady s) := of_none rfl

theorem moundReload (s obj : Nat) : Statement (.moundReload s obj) := of_none rfl

theorem lacewingPlanBypass (c : Cmd) : Statement (.lacewingPlanBypass c) := of_none rfl

theorem lacewingPlanEvacuate (c : Cmd) : Statement (.lacewingPlanEvacuate c) := of_none rfl

theorem lacewingPlanRestore (c : Cmd) : Statement (.lacewingPlanRestore c) := of_none rfl

theorem planComplete  : Statement .planComplete := of_none rfl

theorem planExpiry  : Statement .planExpiry := of_none rfl

theorem lacewingCommit (c : Cmd) : Statement (.lacewingCommit c) := of_none rfl

theorem lacewingCancel (c : Cmd) : Statement (.lacewingCancel c) := of_none rfl

theorem automaticRequest  : Statement .automaticRequest := of_none rfl

theorem waveApply (wave : Nat) : Statement (.waveApply wave) := of_none rfl

theorem segmentFault (c seg excess : Nat) : Statement (.segmentFault c seg excess) := of_none rfl

theorem tileDriverSilent (t : Nat) : Statement (.tileDriverSilent t) := of_none rfl

theorem tileSupplyFault (t : Nat) : Statement (.tileSupplyFault t) := of_none rfl

theorem lossOfLock (c loss : Nat) : Statement (.lossOfLock c loss) := of_none rfl

theorem laserFailure (k lam reason : Nat) : Statement (.laserFailure k lam reason) := of_none rfl

theorem sevenLambdaSwitch (c : Nat) (rxEnd : Bool) : Statement (.sevenLambdaSwitch c rxEnd) := of_none rfl

theorem spareLaserLock (k : Nat) : Statement (.spareLaserLock k) := of_none rfl

theorem loopCellFrame (e : Engine) (m : LoopMeas) : Statement (.loopCellFrame e m) := of_none rfl

theorem cellSequenceStep (e : Engine) (h : Nat) : Statement (.cellSequenceStep e h) := of_none rfl

theorem cellLockChange (e : Engine) (h : Nat) : Statement (.cellLockChange e h) := of_none rfl

theorem implausibilityDeclared (e : Engine) (h : Nat) : Statement (.implausibilityDeclared e h) := of_none rfl

theorem cellRetry (e : Engine) (h : Nat) : Statement (.cellRetry e h) := of_none rfl

theorem lightBudgetInvalid  : Statement .lightBudgetInvalid := of_none rfl

theorem sensorOpen (e : Engine) (input : Nat) : Statement (.sensorOpen e input) := of_none rfl

theorem sensorRestored (e : Engine) (input : Nat) : Statement (.sensorRestored e input) := of_none rfl

theorem loopTune (c : Cmd) : Statement (.loopTune c) := of_none rfl

theorem tuneEnd (e : Engine) (h : Nat) : Statement (.tuneEnd e h) := of_none rfl

theorem traceTrigger (t : Nat) : Statement (.traceTrigger t) := of_none rfl

theorem wvlTrctlWrite (p : Path) (t value : Nat) : Statement (.wvlTrctlWrite p t value) := of_none rfl

theorem wvlTrselWrite (p : Path) (t i value : Nat) : Statement (.wvlTrselWrite p t i value) := of_none rfl

theorem coefficientWindowWrite (p : Path) (e : Engine) (h ofs : Nat) (bytes : List Byte) (mc : Nat) : Statement (.coefficientWindowWrite p e h ofs bytes mc) := of_none rfl

theorem calFactory (c : Cmd) (meas : List RecMeas) : Statement (.calFactory c meas) := of_none rfl

theorem calWrite (c : Cmd) : Statement (.calWrite c) := of_none rfl

theorem calApply (e : Engine) : Statement (.calApply e) := of_none rfl

theorem fieldVerifyTile (c : Cmd) : Statement (.fieldVerifyTile c) := of_none rfl

theorem fieldVerifyPort (c : Cmd) : Statement (.fieldVerifyPort c) := of_none rfl

theorem verifyStart (port : Bool) (unit : Nat) : Statement (.verifyStart port unit) := of_none rfl

theorem tileVerifyEnd (t ffDev gainDev snr segExcess : Nat) (lightLost : Bool) : Statement (.tileVerifyEnd t ffDev gainDev snr segExcess lightLost) := of_none rfl

theorem portVerifyEnd (q swing rxSnr : Nat) : Statement (.portVerifyEnd q swing rxSnr) := of_none rfl

theorem scarabScan  : Statement .scarabScan := of_none rfl

theorem scarabNop  : Statement .scarabNop := of_some rfl fun _ => by
  decide

theorem end_  : Statement .end_ := of_some rfl fun _ => by
  decide

theorem add (d a b : Nat) : Statement (.add d a b) := of_some rfl fun h => by
  replace h : (decide (d < 64) && decide (a < 64) && decide (b < 64)) = true := h
  simp only [Bool.and_eq_true, decide_eq_true_eq] at h
  simp only [scWord, scWordI]
  omega

theorem sub (d a b : Nat) : Statement (.sub d a b) := of_some rfl fun h => by
  replace h : (decide (d < 64) && decide (a < 64) && decide (b < 64)) = true := h
  simp only [Bool.and_eq_true, decide_eq_true_eq] at h
  simp only [scWord, scWordI]
  omega

theorem and (d a b : Nat) : Statement (.and d a b) := of_some rfl fun h => by
  replace h : (decide (d < 64) && decide (a < 64) && decide (b < 64)) = true := h
  simp only [Bool.and_eq_true, decide_eq_true_eq] at h
  simp only [scWord, scWordI]
  omega

theorem or (d a b : Nat) : Statement (.or d a b) := of_some rfl fun h => by
  replace h : (decide (d < 64) && decide (a < 64) && decide (b < 64)) = true := h
  simp only [Bool.and_eq_true, decide_eq_true_eq] at h
  simp only [scWord, scWordI]
  omega

theorem xor (d a b : Nat) : Statement (.xor d a b) := of_some rfl fun h => by
  replace h : (decide (d < 64) && decide (a < 64) && decide (b < 64)) = true := h
  simp only [Bool.and_eq_true, decide_eq_true_eq] at h
  simp only [scWord, scWordI]
  omega

theorem shl (d a b : Nat) : Statement (.shl d a b) := of_some rfl fun h => by
  replace h : (decide (d < 64) && decide (a < 64) && decide (b < 64)) = true := h
  simp only [Bool.and_eq_true, decide_eq_true_eq] at h
  simp only [scWord, scWordI]
  omega

theorem shr (d a b : Nat) : Statement (.shr d a b) := of_some rfl fun h => by
  replace h : (decide (d < 64) && decide (a < 64) && decide (b < 64)) = true := h
  simp only [Bool.and_eq_true, decide_eq_true_eq] at h
  simp only [scWord, scWordI]
  omega

theorem sar (d a b : Nat) : Statement (.sar d a b) := of_some rfl fun h => by
  replace h : (decide (d < 64) && decide (a < 64) && decide (b < 64)) = true := h
  simp only [Bool.and_eq_true, decide_eq_true_eq] at h
  simp only [scWord, scWordI]
  omega

theorem min (d a b : Nat) : Statement (.min d a b) := of_some rfl fun h => by
  replace h : (decide (d < 64) && decide (a < 64) && decide (b < 64)) = true := h
  simp only [Bool.and_eq_true, decide_eq_true_eq] at h
  simp only [scWord, scWordI]
  omega

theorem max (d a b : Nat) : Statement (.max d a b) := of_some rfl fun h => by
  replace h : (decide (d < 64) && decide (a < 64) && decide (b < 64)) = true := h
  simp only [Bool.and_eq_true, decide_eq_true_eq] at h
  simp only [scWord, scWordI]
  omega

theorem mul (d a b : Nat) : Statement (.mul d a b) := of_some rfl fun h => by
  replace h : (decide (d < 64) && decide (a < 64) && decide (b < 64)) = true := h
  simp only [Bool.and_eq_true, decide_eq_true_eq] at h
  simp only [scWord, scWordI]
  omega

theorem mulh (d a b : Nat) : Statement (.mulh d a b) := of_some rfl fun h => by
  replace h : (decide (d < 64) && decide (a < 64) && decide (b < 64)) = true := h
  simp only [Bool.and_eq_true, decide_eq_true_eq] at h
  simp only [scWord, scWordI]
  omega

theorem div (d a b : Nat) : Statement (.div d a b) := of_some rfl fun h => by
  replace h : (decide (d < 64) && decide (a < 64) && decide (b < 64)) = true := h
  simp only [Bool.and_eq_true, decide_eq_true_eq] at h
  simp only [scWord, scWordI]
  omega

theorem slt (d a b : Nat) : Statement (.slt d a b) := of_some rfl fun h => by
  replace h : (decide (d < 64) && decide (a < 64) && decide (b < 64)) = true := h
  simp only [Bool.and_eq_true, decide_eq_true_eq] at h
  simp only [scWord, scWordI]
  omega

theorem addi (d a imm : Nat) : Statement (.addi d a imm) := of_some rfl fun h => by
  replace h : (decide (d < 64) && decide (a < 64) && decide (imm < 2 ^ 14)) = true := h
  simp only [Bool.and_eq_true, decide_eq_true_eq] at h
  simp only [scWord, scWordI]
  omega

theorem andi (d a imm : Nat) : Statement (.andi d a imm) := of_some rfl fun h => by
  replace h : (decide (d < 64) && decide (a < 64) && decide (imm < 2 ^ 14)) = true := h
  simp only [Bool.and_eq_true, decide_eq_true_eq] at h
  simp only [scWord, scWordI]
  omega

theorem ori (d a imm : Nat) : Statement (.ori d a imm) := of_some rfl fun h => by
  replace h : (decide (d < 64) && decide (a < 64) && decide (imm < 2 ^ 14)) = true := h
  simp only [Bool.and_eq_true, decide_eq_true_eq] at h
  simp only [scWord, scWordI]
  omega

theorem li (d imm : Nat) : Statement (.li d imm) := of_some rfl fun h => by
  replace h : (decide (d < 64) && decide (imm < 2 ^ 20)) = true := h
  simp only [Bool.and_eq_true, decide_eq_true_eq] at h
  omega

theorem lui (d imm : Nat) : Statement (.lui d imm) := of_some rfl fun h => by
  replace h : (decide (d < 64) && decide (imm < 2 ^ 20)) = true := h
  simp only [Bool.and_eq_true, decide_eq_true_eq] at h
  omega

theorem ld (d a imm : Nat) : Statement (.ld d a imm) := of_some rfl fun h => by
  replace h : (decide (d < 64) && decide (a < 64) && decide (imm < 2 ^ 14)) = true := h
  simp only [Bool.and_eq_true, decide_eq_true_eq] at h
  simp only [scWord, scWordI]
  omega

theorem st (d a imm : Nat) : Statement (.st d a imm) := of_some rfl fun h => by
  replace h : (decide (d < 64) && decide (a < 64) && decide (imm < 2 ^ 14)) = true := h
  simp only [Bool.and_eq_true, decide_eq_true_eq] at h
  simp only [scWord, scWordI]
  omega

theorem stp (d a imm : Nat) : Statement (.stp d a imm) := of_some rfl fun h => by
  replace h : (decide (d < 64) && decide (a < 64) && decide (imm < 2 ^ 14)) = true := h
  simp only [Bool.and_eq_true, decide_eq_true_eq] at h
  simp only [scWord, scWordI]
  omega

theorem in_ (d a imm : Nat) : Statement (.in_ d a imm) := of_some rfl fun h => by
  replace h : (decide (d < 64) && decide (a < 64) && decide (imm < 2 ^ 14)) = true := h
  simp only [Bool.and_eq_true, decide_eq_true_eq] at h
  simp only [scWord, scWordI]
  omega

theorem out (a b : Nat) : Statement (.out a b) := of_some rfl fun h => by
  replace h : (decide (a < 64) && decide (b < 64)) = true := h
  simp only [Bool.and_eq_true, decide_eq_true_eq] at h
  simp only [scWord, scWordI]
  omega

theorem cmd (a : Nat) : Statement (.cmd a) := of_some rfl fun h => by
  replace h : (decide (a < 64)) = true := h
  simp only [Bool.and_eq_true, decide_eq_true_eq] at h
  simp only [scWord, scWordI]
  omega

theorem take (d e : Nat) (clearOvf : Bool) : Statement (.take d e clearOvf) := of_some rfl fun h => by
  replace h : (decide (d < 64) && decide (e < 64)) = true := h
  simp only [Bool.and_eq_true, decide_eq_true_eq] at h
  cases clearOvf <;> simp [scWord, bit1] <;> omega

theorem spanRead (d n : Nat) : Statement (.spanRead d n) := of_some rfl fun h => by
  replace h : (decide (d < 64) && decide (n < 16)) = true := h
  simp only [Bool.and_eq_true, decide_eq_true_eq] at h
  simp only [scWord, scWordI]
  omega

theorem spanArm (a n : Nat) : Statement (.spanArm a n) := of_some rfl fun h => by
  replace h : (decide (a < 64) && decide (n < 16)) = true := h
  simp only [Bool.and_eq_true, decide_eq_true_eq] at h
  simp only [scWord, scWordI]
  omega

theorem spanStart (n : Nat) : Statement (.spanStart n) := of_some rfl fun h => by
  replace h : (decide (n < 16)) = true := h
  simp only [Bool.and_eq_true, decide_eq_true_eq] at h
  simp only [scWord, scWordI]
  omega

theorem spanStop (n : Nat) : Statement (.spanStop n) := of_some rfl fun h => by
  replace h : (decide (n < 16)) = true := h
  simp only [Bool.and_eq_true, decide_eq_true_eq] at h
  simp only [scWord, scWordI]
  omega

theorem time (d : Nat) : Statement (.time d) := of_some rfl fun h => by
  replace h : (decide (d < 64)) = true := h
  simp only [Bool.and_eq_true, decide_eq_true_eq] at h
  simp only [scWord, scWordI]
  omega

theorem beq (a b target : Nat) : Statement (.beq a b target) := of_some rfl fun h => by
  replace h : (decide (a < 64) && decide (b < 64) && decide (target < 2 ^ 14)) = true := h
  simp only [Bool.and_eq_true, decide_eq_true_eq] at h
  simp only [scWord, scWordI]
  omega

theorem bne (a b target : Nat) : Statement (.bne a b target) := of_some rfl fun h => by
  replace h : (decide (a < 64) && decide (b < 64) && decide (target < 2 ^ 14)) = true := h
  simp only [Bool.and_eq_true, decide_eq_true_eq] at h
  simp only [scWord, scWordI]
  omega

theorem blt (a b target : Nat) : Statement (.blt a b target) := of_some rfl fun h => by
  replace h : (decide (a < 64) && decide (b < 64) && decide (target < 2 ^ 14)) = true := h
  simp only [Bool.and_eq_true, decide_eq_true_eq] at h
  simp only [scWord, scWordI]
  omega

theorem bge (a b target : Nat) : Statement (.bge a b target) := of_some rfl fun h => by
  replace h : (decide (a < 64) && decide (b < 64) && decide (target < 2 ^ 14)) = true := h
  simp only [Bool.and_eq_true, decide_eq_true_eq] at h
  simp only [scWord, scWordI]
  omega

theorem jmp (target : Nat) : Statement (.jmp target) := of_some rfl fun h => by
  replace h : (decide (target < 2 ^ 14)) = true := h
  simp only [Bool.and_eq_true, decide_eq_true_eq] at h
  simp only [scWord, scWordI]
  omega

theorem call (target : Nat) : Statement (.call target) := of_some rfl fun h => by
  replace h : (decide (target < 2 ^ 14)) = true := h
  simp only [Bool.and_eq_true, decide_eq_true_eq] at h
  simp only [scWord, scWordI]
  omega

theorem ret  : Statement .ret := of_some rfl fun _ => by
  decide

theorem loop (count last : Nat) : Statement (.loop count last) := of_some rfl fun h => by
  replace h : (decide (count < 4096) && decide (last < 2 ^ 14)) = true := h
  simp only [Bool.and_eq_true, decide_eq_true_eq] at h
  omega

theorem swap  : Statement .swap := of_some rfl fun _ => by
  decide

theorem bankCheckEnd  : Statement .bankCheckEnd := of_none rfl

theorem eventArrival (e n mc : Nat) : Statement (.eventArrival e n mc) := of_none rfl

theorem scbDoorbell (p : Path) (value mc : Nat) : Statement (.scbDoorbell p value mc) := of_none rfl

theorem stgCvtWrite (p : Path) (w n value : Nat) : Statement (.stgCvtWrite p w n value) := of_none rfl

theorem wkrMemdropWrite (p : Path) (w value : Nat) : Statement (.wkrMemdropWrite p w value) := of_none rfl

theorem registerWrite (p : Path) (offset value be mc : Nat) : Statement (.registerWrite p offset value be mc) := of_none rfl

theorem latchedRead (p : Path) (offset mc : Nat) : Statement (.latchedRead p offset mc) := of_none rfl

theorem bar2Access (link x : Nat) (op : BarOp) (mc : Nat) : Statement (.bar2Access link x op mc) := of_none rfl

theorem sqtailDoorbell (link q value : Nat) : Statement (.sqtailDoorbell link q value) := of_none rfl

theorem commandRecordArrival (link q : Nat) (c : Option Cmd) (mc : Nat) : Statement (.commandRecordArrival link q c mc) := of_none rfl

theorem cqheadDoorbell (link q value : Nat) : Statement (.cqheadDoorbell link q value) := of_none rfl

theorem eqheadDoorbell (link value : Nat) : Statement (.eqheadDoorbell link value) := of_none rfl

theorem qcfgWrite (link q value : Nat) : Statement (.qcfgWrite link q value) := of_none rfl

theorem eqcfgWrite (link value : Nat) : Statement (.eqcfgWrite link value) := of_none rfl

theorem completionWrite (link : Nat) : Statement (.completionWrite link) := of_none rfl

theorem eventRecordWrite (link : Nat) : Statement (.eventRecordWrite link) := of_none rfl

theorem linkUp (link gts width : Nat) : Statement (.linkUp link gts width) := of_none rfl

theorem linkDown (link : Nat) : Statement (.linkDown link) := of_none rfl

theorem jobStart (c : Cmd) : Statement (.jobStart c) := of_none rfl

theorem jobFirstStep (g s : Nat) : Statement (.jobFirstStep g s) := of_none rfl

theorem jobEnd (g : Nat) : Statement (.jobEnd g) := of_none rfl

theorem jobAbort (c : Cmd) : Statement (.jobAbort c) := of_none rfl

theorem dataImport (c : Cmd) : Statement (.dataImport c) := of_none rfl

theorem dataExport (c : Cmd) : Statement (.dataExport c) := of_none rfl

theorem dataTransferEnd (tag : Nat) : Statement (.dataTransferEnd tag) := of_none rfl

theorem stopTriggerReport (w g reason : Nat) : Statement (.stopTriggerReport w g reason) := of_none rfl

theorem stop (s g : Nat) : Statement (.stop s g) := of_none rfl

theorem rollbackDecision (g : Nat) : Statement (.rollbackDecision g) := of_none rfl

theorem rollbackBoundary (s g : Nat) : Statement (.rollbackBoundary s g) := of_none rfl

theorem strideReplay (g stride : Nat) : Statement (.strideReplay g stride) := of_none rfl

theorem mirrorRestoreEnd (g : Nat) : Statement (.mirrorRestoreEnd g) := of_none rfl

theorem regRead (d : Datagram) : Statement (.regRead d) := of_none rfl

theorem regWrite (d : Datagram) : Statement (.regWrite d) := of_none rfl

theorem command (d : Datagram) : Statement (.command d) := of_none rfl

theorem subscribe (d : Datagram) : Statement (.subscribe d) := of_none rfl

theorem unsubscribe (d : Datagram) : Statement (.unsubscribe d) := of_none rfl

theorem ptpTransit (m : PtpMsg) : Statement (.ptpTransit m) := of_none rfl

theorem syncMessage (domain transport : Nat) (theta rate : Int) : Statement (.syncMessage domain transport theta rate) := of_none rfl

theorem announceMessage (port domain transport : Nat) (dataset : List Nat) : Statement (.announceMessage port domain transport dataset) := of_none rfl

theorem syncTimeout  : Statement .syncTimeout := of_none rfl

theorem boardLinkRetrained (w j : Nat) : Statement (.boardLinkRetrained w j) := of_none rfl

theorem cocoonStoreWritten (id : Nat) : Statement (.cocoonStoreWritten id) := of_none rfl

theorem serviceClear (u : ServiceUnit) : Statement (.serviceClear u) := of_none rfl

end Sys2Proof.Laws.Fits
end

