-- ==== Sys2Proof/Laws/Scarab.lean ====
section
/-! SUPPORT. Laws of the Scarab engine: registers and data words after a write, what the flow to the next word leaves, and what one
instruction does. -/

namespace Sys2Proof.Machine

/-! ## Registers and data -/

@[simp] theorem Scarab.reg_zero (x : Scarab) : x.reg 0 = 0 := rfl

theorem Scarab.reg_lt (x : Scarab) (r : Nat) : x.reg r < 2 ^ 32 := by
  unfold Scarab.reg
  split <;> omega

theorem Scarab.reg_word (s : State) (r : Nat) : (s.scReg r).toNat = s.scb.reg r := by
  simpa [State.scReg] using s.scb.reg_lt r

/-- A write to g0 is discarded; a write to another register is what that register reads (R308). -/
theorem Scarab.reg_setReg (x : Scarab) (d v r : Nat) :
    (x.setReg d v).reg r = if r = d ∧ d ≠ 0 then v % 2 ^ 32 else x.reg r := by
  unfold Scarab.setReg
  by_cases hd : d = 0
  · simp [hd]
  · by_cases hr : r = 0
    · subst hr; simp [Ne.symm hd]
    · by_cases h : r = d
      · subst h; simp [hd, Scarab.reg]
      · simp [hd, h, hr, Scarab.reg]

@[simp] theorem Scarab.setReg_pc (x : Scarab) (d v : Nat) : (x.setReg d v).pc = x.pc := by unfold Scarab.setReg; split <;> rfl

@[simp] theorem Scarab.setReg_cyc (x : Scarab) (d v : Nat) : (x.setReg d v).cyc = x.cyc := by unfold Scarab.setReg; split <;> rfl

/-- A register write changes the registers alone. -/
theorem Scarab.setReg_eq (x : Scarab) (d v : Nat) : x.setReg d v = { x with g := (x.setReg d v).g } := by
  unfold Scarab.setReg; split <;> rfl

/-- A data word after a data word was written: the address wraps at 16,384 words (R308). -/
theorem Scarab.dataWord_setData (x : Scarab) (a v b : Nat) :
    (x.setData a v).dataWord b = if b % 16384 = a % 16384 then v % 2 ^ 32 else x.dataWord b := by
  unfold Scarab.setData Scarab.dataWord
  by_cases h : b % 16384 = a % 16384
  · rw [h]; by_cases ha : a % 16384 < 4096 <;> simp [ha]
  · by_cases ha : a % 16384 < 4096 <;> by_cases hb : b % 16384 < 4096 <;> simp [ha, hb, h]

/-! ## The flow to the next word -/

/-- The flow to a word does not look at the registers. -/
theorem Scarab.flow_g (fuel n : Nat) (x : Scarab) (g : Tab Nat) :
    Scarab.flow { x with g := g } n fuel = { Scarab.flow x n fuel with g := g } := by
  induction fuel generalizing x n with
  | zero => rfl
  | succ k ih =>
    unfold Scarab.flow
    rcases x.loops with _ | ⟨⟨f, l, le, de⟩, rest⟩
    · rfl
    · dsimp only
      split_ifs
      · rfl
      · exact ih n { x with loops := rest, cyc := x.cyc + 1 }
      · rfl

/-- The flow to a word changes where the program stands: its counter, its loops, its cycles; nothing else. -/
theorem Scarab.flow_eq (fuel n : Nat) (x : Scarab) :
    Scarab.flow x n fuel =
      { x with pc := (Scarab.flow x n fuel).pc, loops := (Scarab.flow x n fuel).loops, cyc := (Scarab.flow x n fuel).cyc } := by
  induction fuel generalizing x n with
  | zero => rfl
  | succ k ih =>
    unfold Scarab.flow
    rcases x.loops with _ | ⟨⟨f, l, le, de⟩, rest⟩
    · rfl
    · dsimp only
      split_ifs
      · rfl
      · exact ih n { x with loops := rest, cyc := x.cyc + 1 }
      · rfl

theorem Scarab.advance_eq (x : Scarab) :
    x.advance = { x with pc := x.advance.pc, loops := x.advance.loops, cyc := x.advance.cyc } := Scarab.flow_eq _ _ _

/-- Going on to the next word after a register write is going on and writing the register. -/
theorem Scarab.advance_setReg (x : Scarab) (d v : Nat) : (x.setReg d v).advance = { x.advance with g := (x.setReg d v).g } := by
  unfold Scarab.advance
  rw [Scarab.setReg_pc]
  conv_lhs => rw [Scarab.setReg_eq]
  exact Scarab.flow_g _ _ _ _

/-- Without a loop that is being run, the next word in order is the next address. -/
theorem Scarab.advance_straight (x : Scarab) (h : x.loops = []) : x.advance = { x with pc := (x.pc + 1) % 16384 } := by
  simp [Scarab.advance, Scarab.flow, h]

/-! ## One instruction -/

/-- An instruction row that is not the next instruction of a running scan does nothing. -/
theorem State.scarabRun_idle (s : State) (i : Instr) (f : Scarab → Scarab) (h : s.scb.next ≠ some i) : s.scarabRun i f = s := if_neg h

/-- The next instruction of a running scan: its effect on the engine, then its cycles. -/
theorem State.scarabRun_next (s : State) (i : Instr) (f : Scarab → Scarab) (h : s.scb.next = some i) :
    s.scarabRun i f = { s with scb := { f s.scb with cyc := (f s.scb).cyc + scarabCost i } } := if_pos h

/-- No instruction of the engine touches anything of the machine but the engine. -/
theorem State.scarabRun_frame (s : State) (i : Instr) (f : Scarab → Scarab) :
    s.scarabRun i f = { s with scb := (s.scarabRun i f).scb } := by
  unfold State.scarabRun
  split <;> rfl

/-- What an instruction that computes a number for a register does: the register holds it as 32 bits, the program goes on, and
nothing else changes. -/
theorem State.scarabSet_writes (s : State) (i : Instr) (d : Nat) (v : Scarab → Int) (he : exec i s = .next (s.scarabSet i d v)) :
    ScarabWrites i d (BitVec.ofInt 32 (v s.scb)) s := by
  intro hn
  refine ⟨_, he, ?_, ?_⟩
  · intro r
    unfold State.scarabSet State.scarabOp
    rw [s.scarabRun_next _ _ hn]
    have hg := Scarab.advance_setReg s.scb d (toBits 32 (v s.scb))
    show ({ ((s.scb.setReg d (toBits 32 (v s.scb))).advance) with cyc := _ } : Scarab).reg r = _
    rw [hg]
    rw [show ({ ({ s.scb.advance with g := (s.scb.setReg d (toBits 32 (v s.scb))).g } : Scarab) with
        cyc := _ } : Scarab).reg r = (s.scb.setReg d (toBits 32 (v s.scb))).reg r from rfl]
    rw [Scarab.reg_setReg]
    have hm : toBits 32 (v s.scb) % 2 ^ 32 = (BitVec.ofInt 32 (v s.scb)).toNat := by
      rw [BitVec.toNat_ofInt]
      unfold toBits
      exact Nat.mod_eq_of_lt (by omega)
    rw [hm]
  · unfold State.scarabSet State.scarabOp
    rw [s.scarabRun_next _ _ hn, Scarab.advance_setReg]
    rfl

end Sys2Proof.Machine
end

