-- ==== Sys2Proof/Laws/Slots.lean ====
section
/-! SUPPORT. What issuing a slot of a core does. -/

namespace Sys2Proof.Machine

/-- A slot that cannot issue, or that validation rejects, does not occur. -/
theorem State.issue_idle (s : State) (w n port occ op : Nat) (sl : Slot) (ok : Bool) (run : State → State)
    (h : ((s.flush w sl.issue).canIssue w n port op sl && ok) = false) : s.issue w n port occ op sl ok run = s := by
  simp [State.issue, h]

/-- A slot that issues: what is ready takes effect, the port is occupied, the sequencer goes to the next slot, the operation runs, a free
value's number is drawn. -/
theorem State.issue_runs (s : State) (w n port occ op : Nat) (sl : Slot) (ok : Bool) (run : State → State)
    (h : ((s.flush w sl.issue).canIssue w n port op sl && ok) = true) :
    s.issue w n port occ op sl ok run =
      (run ((s.flush w sl.issue).updCore w n fun x =>
        { x with busy := x.busy.set port (sl.issue + occ), pos := x.pos + 1 })).draw.2 := by
  simp [State.issue, h]

/-- Where nothing of a worker is ready, nothing of it takes effect. -/
theorem State.flush_idle (s : State) (w t : Nat) (h : ∀ p ∈ (s.worker w).inflight, t < p.ready) :
    s.flush w t = s.updWorker w fun x => { x with inflight := x.inflight } := by
  have h1 : (s.worker w).inflight.filter (fun p => decide (p.ready ≤ t)) = [] := by
    simpa [List.filter_eq_nil_iff] using h
  have h2 : (s.worker w).inflight.filter (fun p => !decide (p.ready ≤ t)) = (s.worker w).inflight := by
    simpa [List.filter_eq_self] using h
  unfold State.flush
  simp only [h1, List.foldl_nil]
  unfold State.updWorker
  simp only [h2]

/-- A core register after a register was written. -/
theorem StagCore.reg_setReg (x : StagCore) (r i : Nat) (v : List Word) : (x.setReg r v).reg i = if i = r then v else x.reg i := by
  unfold StagCore.reg StagCore.setReg
  by_cases h : i = r
  · subst h; simp
  · simp [h, StagCore.undef]

@[simp] theorem StagCore.setReg_reg_self (x : StagCore) (r : Nat) (v : List Word) : (x.setReg r v).reg r = v := by
  simp [StagCore.reg_setReg]

@[simp] theorem StagCore.setReg_reg_ne (x : StagCore) {r i : Nat} (v : List Word) (h : i ≠ r) : (x.setReg r v).reg i = x.reg i := by
  simp [StagCore.reg_setReg, h]

/-- A delivery that is added stands among the worker's deliveries, with those that stood there. -/
theorem mem_insertPend (p q : PendWrite) (l : List PendWrite) : q ∈ insertPend p l ↔ q = p ∨ q ∈ l := by
  induction l with
  | nil => simp [insertPend]
  | cons a l ih =>
    unfold insertPend
    split
    · simp [ih, or_left_comm]
    · simp

theorem length_insertPend (p : PendWrite) (l : List PendWrite) : (insertPend p l).length = l.length + 1 := by
  induction l with
  | nil => rfl
  | cons a l ih => unfold insertPend; split <;> simp [ih]

end Sys2Proof.Machine
end

