-- ==== Sys2Proof/Tests/Slice0.lean ====
section
/-! SUPPORT. Checks of the model: ill-formed commands are refused, words spell what the spec's encodings say, one step on small machines
does what the spec's rules say, and the hypotheses of every statement are met somewhere. -/

namespace Sys2Proof.Machine.Tests

/- One test after the other: each evaluation waits for all that stands before it, and those that wait side by side fill the memory. -/
set_option Elab.async false

/-! ## Small machines -/

/-- The machine after reset, in another state. -/
def at_ (m : MState) : State := State.reset.updMgr fun g => { g with mode := m }

/-- A command record of an opcode, from queue pair 0 of host link 0, with COUNT, LIMIT and every other field 0. -/
def cmdT (op : Nat) : Cmd :=
  { src := .host 0 0 0 1, op := op, flags := 0, tag := 0, addr := 0, len := 0, id := 0, addr2 := 0, unit := 0, limit := 1, count := 0
    sel := 0, window := 0, aux := 0, nonce := 0, rsvd := 0, data := none, data2 := none }

/-- A scan that stands before one word. -/
def scanAt (w : Nat) : State := (at_ .quiescent).updScb fun x => { x with run := true, ended := false, bank0 := ⟨[(0, w)]⟩ }

/-- A slot that issues at the first cycle of the work phase. -/
def slotT : Slot := { issue := 64, fa := 7, fb := 7, ax := 0, ox := 0, ay := 0, oy := 0, len := 1, aux := 0 }

/-- A bound core of group 1. -/
def bindT (w : Nat) : BindDef := { w := w, core := 0, gid := 1, role := 0, map := [0], aregs := [], progs := [[]], bytes := [] }

/-- An image of two workers of sled 0 and one group with a stride of 8 frames. -/
def imgT : Image :=
  { id := 7, kind := 0, baseId := 0, adopt := false, groups := [{ gid := 1, log2 := 3, mirror := 0, owner := 1, spareOk := true }]
    flows := [], windows := [], hasCircs := false, circs := [], tiles := [], binds := [bindT 0, bindT 1], regions := [], scarab := []
    hasScarab := false, clear := false, loops := [], damaged := false }

/-- A job of 16 steps whose first step was frame 0. -/
def jobT : Job :=
  { cmd := cmdT 0x50, handle := 1, image := 7, steps := 16, lastPos := 0, mound := [], args := [], j0 := some 0, decided := 0, stepAt := 0
    begun := [0], replays := Tab.empty, total := 0, mirrorDone := none, toReplay := [], ran := 16 }

/-- A machine that runs the job in step 7 of sled 0. -/
def runT : State :=
  ((((at_ .running).updImg fun x => { x with active := some imgT }).updGroup 1 fun x => { x with running := some jobT }).updHub 0 fun h =>
    { h with started := true, applied := true, stepping := true, frame := 107, step := 7, linkUp := true }).updOwners fun o => { o with live := [0, 1] }

/-- A machine whose sled 0 runs frames and whose worker 0 has every domain on. -/
def coreT : State := runT.updWorker 0 fun x => { x with pwr := 4095 }

/-- The participants of group 1 where the image above is active and no spare plays a role. -/
theorem participantsT (s : State) (ha : s.img.active = some imgT) (hr : (s.hub 0).inRole = []) : s.participants 1 = [0, 1] := by
  simp [State.participants, ha, Image.groupWorkers, imgT, bindT, State.actorOf, sledOf, hr, List.mergeSort, List.dedup, List.pwFilter]

theorem runT_participants : runT.participants 1 = [0, 1] := participantsT _ rfl (by decide)

/-! ## Witnesses: every hypothesis of a statement is met somewhere -/

theorem test_witness_StepsRunTheFront :
    (State.reset.withPending [.dozeDrop]).pending = .dozeDrop :: [] ∧ State.reset.pending = [] := ⟨rfl, rfl⟩

theorem test_witness_MemoryStaysCanonical : Memory.wf State.reset.mem = true ∧ step State.reset = .next State.reset := ⟨rfl, rfl⟩

theorem test_witness_CommandsAreRefused :
    ((at_ .off).mgr.mode = .off ∧ (at_ .bringUp).mgr.mode = .bringUp) ∧
    ((at_ .limp).mgr.mode ≠ .off ∧ (at_ .limp).mgr.mode ≠ .bringUp ∧ ¬IsCmd { cmdT 0 with rsvd := 1 } 0 ∧ ¬IsCmd (cmdT 1) 0) ∧
    (IsCmd (cmdT 0x13) 0x13 ∧ (at_ .loaded).mgr.mode ∉ [MState.hold] ∧ (at_ .doze).mgr.mode ∉ [MState.hold] ∧
      IsCmd (cmdT 0x61) 0x61 ∧ (at_ .passage).mgr.mode ∉ [MState.quiescent, .loaded, .running]) := by
  unfold IsCmd; decide

theorem test_witness_ScarabWordsReturn :
    (Instr.loop 4095 16383).wf = true ∧ scarabEncode (.loop 4095 16383) = some 0x9FFFFFFF := by decide

theorem test_witness_SlotsReturn :
    (unitOf 0x40).isSome = true ∧ slotT.wf = true ∧ slotDecode (slotEncode 0x40 slotT) = some (0x40, slotT) ∧
      unitOf (bitsOf 0 111 104) ≠ some (bitsOf 0 114 112) := by decide

theorem test_witness_ScarabKeepsToItself : (scarabEncode .ret).isSome = true ∧ (scanAt 0).scb.next ≠ some .ret := by decide

theorem test_witness_ScarabComputes :
    (scanAt 0x08108300).scb.next = some (.add 1 2 3) ∧ (scanAt 0x4010BFFF).scb.next = some (.addi 1 2 0x3FFF) ∧
    (scanAt 0x30008300).scb.next = some (.mul 0 2 3) ∧ (scanAt 0x44103FFF).scb.next = some (.andi 1 0 0x3FFF) ∧
    (scanAt 0x501FFFFF).scb.next = some (.lui 1 0xFFFFF) ∧ 0x3FFF < 2 ^ 14 ∧ 0xFFFFF < 2 ^ 20 := by decide

theorem test_witness_ScarabReadsItsSources :
    (scanAt 0x5410BFFF).scb.next = some (.ld 1 2 0x3FFF) ∧ (scanAt 0x6C100180).scb.next = some (.take 1 1 true) := by decide

theorem test_witness_ScarabStores :
    (scanAt 0x58104000).scb.next = some (.st 1 1 0) ∧ ((scanAt 0x5C104000).scb.next = some (.stp 1 1 0) ∧
      (scanAt 0x5C104000).scb.staged = false) ∧
    (let s := (scanAt 0x5C104000).updScb fun x => { x with staged := true }; s.scb.next = some (.stp 1 1 0) ∧ s.scb.staged = true) := by
  decide

/-- A timer that is open and takes its stop from the instruction. -/
def spanS : State := (scanAt 0x70003F00).updScb fun x => { x with spans := ⟨[(15, ⟨true, 0x4000, some 5, false, 0⟩)]⟩ }

theorem test_witness_ScarabSendsAndMeasures :
    (scanAt 0x64004200).scb.next = some (.out 1 2) ∧ (scanAt 0x68004000).scb.next = some (.cmd 1) ∧
    (scanAt 0x70004900).scb.next = some (.spanArm 1 2) ∧ (scanAt 0x70000A00).scb.next = some (.spanStart 2) ∧
    (15 < 16 ∧ spanS.scb.next = some (.spanStop 15) ∧ (spanS.scb.span 15).armed = true ∧ (spanS.scb.span 15).closed = false ∧
      (spanS.scb.span 15).desc.testBit 14 = true) := by decide

theorem test_witness_ScarabFlow :
    (let s := scanAt 0; s.scb.run = true ∧ s.scb.halted = false ∧ s.mgr.mode ≠ .off ∧ s.mgr.mode ≠ .limp) ∧
    (scanAt 0).scb.next = some .scarabNop ∧ (scanAt 0x04000000).scb.next = some .end_ ∧ (scanAt 0x80104005).scb.next = some (.beq 1 1 5) ∧
    (scanAt 0x84104005).scb.next = some (.bne 1 1 5) ∧ (scanAt 0x88104005).scb.next = some (.blt 1 1 5) ∧
    (scanAt 0x8C104005).scb.next = some (.bge 1 1 5) ∧ (scanAt 0x90000007).scb.next = some (.jmp 7) ∧
    (scanAt 0x94003FFF).scb.next = some (.call 0x3FFF) ∧ (scanAt 0x9C00C010).scb.next = some (.loop 3 16) ∧
    (let s := (scanAt 0x98000000).updScb fun x => { x with stack := [9], loops := [(1, 20, 2, 1)] }
     s.scb.next = some .ret ∧ s.scb.stack = 9 :: [] ∧ ∀ l ∈ s.scb.loops, l.2.1 + 1 ≠ 9) := by decide

/-- A bank check in its 16th frame, over a bank. -/
def swapT (b : Tab Nat) : State := (State.reset.updMgr fun m => { m with frame := 16 }).updScb fun x => { x with checking := some 0, bank1 := b }

/-- R309, R325: the null program passes the check, a word with a reserved opcode does not. -/
theorem test_witness_bankOk : bankOk (swapT nullProgram).scb.shadow = true ∧ bankOk (swapT ⟨[(0, 0x78000000)]⟩).scb.shadow = false := by
  decide +kernel

theorem test_witness_ScarabSwapsAndIsWatched :
    (scanAt 0xA0000000).scb.next = some .swap ∧
    (swapT nullProgram).scb.checking = some 0 ∧ 0 + 16 ≤ (swapT nullProgram).mgr.frame ∧
    (19 < 20 ∧ 0 < 1) ∧
    (let s := (scanAt 0).updScb fun x => { x with ended := true }; s.scb.run = true ∧ s.scb.halted = false ∧ s.scb.ended = true) ∧
    (let s := (scanAt 0).updScb fun x => { x with cyc := 3584 }
     s.scb.run = true ∧ s.scb.halted = false ∧ s.scb.ended = false ∧ 3584 ≤ s.scb.cyc) := by decide

/-- A pair that is enabled with rings of 16 entries, on a link that is up. -/
def pairT : State :=
  ((at_ .quiescent).updHub 0 fun h => { h with linkUp := true, eqEnable := true, eqLog := 4 }).updQueue 0 63 fun x =>
    { x with enable := true, sqLog := 4, cqLog := 4, toFetch := 1, inflight := 1, number := 1 }

theorem test_witness_HostQueuesAreDriven :
    pairT.hostReady 0 ∧ 63 < 64 ∧
    (let x := (pairT.hub 0).queue 63; x.enable = true ∧ x.closing = false ∧ x.error = false ∧ 15 % 4096 < 2 ^ x.sqLog ∧ 15 % 4096 < 2 ^ x.cqLog) ∧
    ((pairT.hub 0).eqEnable = true ∧ 15 % 4096 < 2 ^ (pairT.hub 0).eqLog) ∧
    (let x := (pairT.hub 0).queue 0
     x.enable = false ∧ (0x800C0400).testBit 31 = true ∧ (4 ≤ bitsOf 0x800C0400 19 16 ∧ bitsOf 0x800C0400 19 16 ≤ 12 ∧
       4 ≤ bitsOf 0x800C0400 11 8 ∧ bitsOf 0x800C0400 11 8 ≤ 12) ∧
     (0x800C0300).testBit 31 = true ∧ ¬4 ≤ bitsOf 0x800C0300 11 8 ∧ (0x800D0400).testBit 31 = true ∧ ¬bitsOf 0x800D0400 19 16 ≤ 12) ∧
    (0x000C0400).testBit 31 = false ∧
    (let s := pairT.updHub 0 fun h => { h with eqEnable := false }; s.hostReady 0 ∧ (s.hub 0).eqEnable = false) := by
  unfold State.hostReady; decide

/-- A completion and an event that wait at hub 0. -/
def cplT : Completion := { cmd := { cmdT 0 with src := .host 0 63 0 1 }, interim := false, status := 0, frame := 0, result := [] }
def evT : EventRec := { code := 5, epoch := 0, time := 0, frame := 0, payload := [] }
def ringT : State := pairT.updHub 0 fun h => { h with cpls := [cplT], evq := [evT], cplDue := 1, evDue := 1 }

theorem test_witness_HostRingsAreServed :
    (0 < pairT.fit.sleds ∧ 63 < 64 ∧ (pairT.hub 0).linkUp = true ∧ 0 < ((pairT.hub 0).queue 63).toFetch) ∧
    ((ringT.hub 0).cpls = cplT :: [] ∧ (ringT.hub 0).cplDue ≠ 0 ∧ cplT.cmd.src = .host 0 63 0 1 ∧ (ringT.hub 0).linkUp = true ∧
      ((ringT.hub 0).queue 63).enable = true ∧ ((ringT.hub 0).queue 63).session = 0) ∧
    (let s := ringT.updHub 0 fun h => { h with linkUp := false }; (s.hub 0).cpls = cplT :: [] ∧ (s.hub 0).cplDue ≠ 0 ∧ (s.hub 0).linkUp = false) ∧
    ((ringT.hub 0).evq = evT :: [] ∧ (ringT.hub 0).evDue ≠ 0 ∧ (ringT.hub 0).linkUp = true ∧ (ringT.hub 0).eqEnable = true ∧
      (ringT.hub 0).eqUsed < 2 ^ (ringT.hub 0).eqLog) ∧
    (let s := ringT.updHub 0 fun h => { h with eqEnable := false }
     (s.hub 0).evq = evT :: [] ∧ (s.hub 0).evDue ≠ 0 ∧ (s.hub 0).linkUp = true ∧ (s.hub 0).eqEnable = false) ∧
    (let s := ringT.updHub 0 fun h => { h with eqUsed := 16 }
     (s.hub 0).evq = evT :: [] ∧ (s.hub 0).evDue ≠ 0 ∧ (s.hub 0).linkUp = true ∧ (s.hub 0).eqEnable = true ∧
       2 ^ (s.hub 0).eqLog ≤ (s.hub 0).eqUsed) ∧
    ((at_ .limp).mgr.mode ≠ .off ∧ ((at_ .limp).hub 7).linkUp = false ∧ 7 < (at_ .limp).fit.sleds) := by decide

/-- Receiver of worker 0 as stated, with the machine in Loaded. -/
def rxT (f : TickRx → TickRx) : State := (at_ .loaded).updRx (.site 0) f

theorem test_witness_TicksAreJudged :
    (let s := rxT fun r => { r with locked := true }
     s.counted (.site 0) = true ∧ s.mgr.mode ≠ .off ∧ (s.rx (.site 0)).locked = true ∧ (s.rx (.site 0)).accepted = false ∧
       (s.dom (rxDomain (.site 0))).refLost = false ∧ (-32 : Int) ≤ -32 ∧ (32 : Int) ≤ 32 ∧ (-33 : Int) < -32 ∧ (32 : Int) < 33 ∧
       (s.rx (.site 0)).missing ≠ 16) ∧
    (let s := rxT fun r => { r with run := 63, phase := 2 }
     (s.rx (.site 0)).locked = false ∧ (s.dom (rxDomain (.site 0))).refLost = false ∧ 0 < (s.rx (.site 0)).run ∧
       (s.rx (.site 0)).phase = 47 / 16 ∧ (s.rx (.site 0)).accepted = false ∧ (s.rx (.site 0)).phase ≠ 48 / 16) ∧
    (let s := rxT fun r => { r with run := 1, accepted := true }; (s.rx (.site 0)).locked = false ∧ (s.rx (.site 0)).accepted = true) ∧
    ((rxT id).rx (.site 0)).run = 0 ∧
    (let s := (at_ .limp).updDom 0 fun d => { d with refLost := true }
     s.counted (.site 0) = true ∧ s.mgr.mode ≠ .off ∧ (s.dom (rxDomain (.site 0))).refLost = true) ∧
    (let s := rxT fun r => { r with locked := true, missing := 16 }
     s.counted (.site 0) = true ∧ s.mgr.mode ≠ .off ∧ (s.rx (.site 0)).accepted = false ∧ (s.rx (.site 0)).locked = true ∧
       (s.rx (.site 0)).missing = 16 ∧ rxDomain (.site 0) ≠ 8) ∧
    (let s := (at_ .loaded).updRx (.tile 103) fun r => { r with locked := true, missing := 16 }
     s.counted (.tile 103) = true ∧ (s.rx (.tile 103)).locked = true ∧ (s.rx (.tile 103)).missing = 16 ∧ rxDomain (.tile 103) = 8) := by decide

theorem test_witness_TickFaultsAreCounted :
    let s := rxT fun r => { r with locked := true }
    let u := rxT fun r => { r with locked := true, accepted := true }
    s.counted (.site 0) = true ∧ s.mgr.mode ≠ .off ∧ (s.rx (.site 0)).locked = true ∧ ((33 : Int) < -32 ∨ (32 : Int) < 33) ∧
      (s.rx (.site 0)).accepted = false ∧ u.counted (.site 0) = true ∧ u.mgr.mode ≠ .off ∧ (u.rx (.site 0)).locked = true ∧
      (u.rx (.site 0)).accepted = true := by decide

theorem test_witness_FramesStart :
    (let h := runT.hub 0
     0 < runT.fit.sleds ∧ runT.mgr.mode ≠ .off ∧ runT.mgr.mode ≠ .bringUp ∧ h.held = false ∧ h.dropped = false ∧ h.halted = false ∧
       h.lossHold = false ∧ ¬(h.leadSeen = true ∧ 4096 * 64 ≤ h.maxLead) ∧ h.started = true ∧
       ∀ w ∈ runT.fit.sledWorkers 0, runT.slotsLeft w = false) ∧
    (let h := ((runT.updHub 0 fun h => { h with leadSeen := true, maxLead := 262144 }).hub 0); h.leadSeen = true ∧ 4096 * 64 ≤ h.maxLead) ∧
    ((runT.updHub 0 fun h => { h with held := true }).hub 0).held = true ∧
    ((0, 49, 64) ∈ [(0, 49, 64)] ∧ 0 ∈ coreT.fit.sledWorkers 0 ∧ (coreT.hub 0).started = true ∧ (49 : Nat) < 50 ∧
      (coreT.core 0 49).stopped = false ∧ (coreT.worker 0).inflight = [] ∧ (coreT.worker 0).powered 7 = true ∧
      ∀ w ∈ coreT.fit.sledWorkers 0, coreT.slotsLeft w = false) := by decide +kernel

/-- The token of barrier 0 of group 1 has been emitted by worker 0, and L frames have passed since the stride-end boundary; the token of
worker 1 is missing, or there. -/
def dueT : State :=
  (runT.updGroup 1 fun x => { x with emitted := ⟨[(0, 1)]⟩ }).updHub 0 fun h => { h with step := 10, strideEnds := ⟨[(1, (1, 105))]⟩ }
def tokT : State := dueT.updGroup 1 fun x => { x with tokens := [(0, 1, 0, 0)] }

theorem dueT_participants : dueT.participants 1 = [0, 1] := participantsT _ rfl (by decide)

theorem tokT_participants : tokT.participants 1 = [0, 1] := participantsT _ rfl (by decide)

/-- The last step of the group's first stride. -/
def lastStepT : State := runT.updHub 0 fun h => { h with stepGroups := [1], strideEnds := ⟨[(1, (0, 100))]⟩ }

/-- The token of barrier 0 on circuit 5 from worker 1 to worker 0, and on worker 1's board link to worker 0. -/
def tokenWireT : State :=
  (runT.updCirc 5 fun c => { c with state := 3, src := 409, dst := 0, wire := [tokenFlit 1 0] }).updWorker 1 fun x =>
    { x with links := ⟨[(15, { Link.init with up := true, wire := [{ tokenFlit 1 0 with cred := 3 }] })]⟩ }

theorem test_witness_BarriersRun :
    (0 ∈ lastStepT.participants 1 ∧ lastStepT.workerUp 0 = true ∧ (lastStepT.hub (sledOf 0)).started = true ∧
      (lastStepT.hub (sledOf 0)).isSlip = false ∧ ((lastStepT.hub (sledOf 0)).step + 1) % lastStepT.strideOf 1 = 0 ∧
      (lastStepT.group 1).emitted.get 0 0 ≤ (lastStepT.hub (sledOf 0)).step / lastStepT.strideOf 1 ∧ lastStepT.slotsLeft 0 = false ∧
      (∀ x ∈ (lastStepT.worker 0).inflight, 8128 < x.ready) ∧ (lastStepT.groupSteps 1 (sledOf 0)).isSome = true) ∧
    (0 ∈ tokenWireT.participants 1 ∧ 1 ∈ tokenWireT.participants 1 ∧ (1 : Nat) ≠ 0 ∧ tokenWireT.workerUp 0 = true ∧
      (tokenWireT.circ 5).wire = tokenFlit 1 0 :: [] ∧ (tokenWireT.endOf (tokenWireT.circ 5).src).1 = 1 ∧
      (tokenWireT.endOf (tokenWireT.circ 5).dst).1 = 0 ∧
      ((tokenWireT.worker 1).link (tokenWireT.fit.linkTo 1 (siteOf 0))).wire = { tokenFlit 1 0 with cred := 3 } :: [] ∧ sledOf 1 = sledOf 0) ∧
    (tokT.barrierComes 1 0 0 ∧ tokT.tokensIn 1 0 0) ∧
    (dueT.dueBarrier 1 0 = some 0 ∧ dueT.workerUp 0 = true ∧ 0 ∈ dueT.participants 1 ∧ dueT.barrierDue 1 (sledOf 0) 0 = true ∧
      ¬dueT.tokensIn 1 0 0) := by
  have hl : lastStepT.participants 1 = [0, 1] := participantsT _ rfl (by decide)
  have hw : tokenWireT.participants 1 = [0, 1] := participantsT _ rfl (by decide)
  refine ⟨⟨?_, by decide, by decide, by decide, by decide, by decide, by decide, by decide, ?_⟩, ⟨?_, ?_, by decide, by decide, ?_⟩,
    ⟨⟨by decide, by decide, by decide, ?_, by decide⟩, ?_⟩, by decide, by decide, ?_, by decide, ?_⟩
  · rw [hl]; decide
  · decide
  · rw [hw]; decide
  · rw [hw]; decide
  · decide +kernel
  · rw [tokT_participants]; decide
  · intro p hp hne
    rw [tokT_participants] at hp
    obtain rfl : p = 1 := by simpa [hne] using hp
    exact ⟨0, by decide⟩
  · rw [dueT_participants]; decide
  · intro h
    obtain ⟨z, hz⟩ := h 1 (by rw [dueT_participants]; decide) (by decide)
    have ht : (dueT.group 1).tokens = [] := by decide
    rw [ht] at hz
    cases hz

theorem test_witness_ManagerFramesStart : (at_ .bringUp).mgr.mode ≠ .off ∧ (at_ .limp).mgr.mode ≠ .off ∧ (at_ .limp).mgr.mode ≠ .bringUp := by
  decide

/-- A Scarab-only image of one word, END, laid out by Tables 4.1 to 4.3; its digests are SHA3-384 as FIPS 202 defines it, computed
outside the model. -/
def imgDigest : List Byte :=
    [0xc7, 0xff, 0x81, 0x59, 0x04, 0x3a, 0xe0, 0xb3, 0x8a, 0xc4, 0x56, 0xb4, 0x96, 0x98, 0xf7, 0x9e, 0x10, 0x99, 0x6a, 0xff, 0x91,
     0x11, 0xba, 0x79, 0x79, 0xc3, 0x23, 0xf1, 0x81, 0x90, 0xfe, 0x43, 0x1f, 0x84, 0xb9, 0xd0, 0x0d, 0x7b, 0xfb, 0xf4, 0xa5, 0x9a,
     0x0f, 0x96, 0x62, 0x6b, 0x38, 0xcd]

def sectDigest : List Byte :=
    [0xb8, 0xe5, 0xa7, 0x44, 0x51, 0xec, 0x5e, 0x15, 0x6b, 0xf0, 0x4f, 0xcd, 0xd1, 0xcd, 0xe7, 0xa2, 0x0c, 0x54, 0x49, 0xdc, 0xfb,
     0x8b, 0xaf, 0xed, 0x03, 0x19, 0x1a, 0x61, 0x60, 0x1b, 0xc7, 0xe7, 0x55, 0x20, 0xc1, 0xd0, 0x68, 0x62, 0xbf, 0x09, 0x91, 0xce,
     0x5a, 0x4a, 0x68, 0x38, 0x44, 0xc1]

def sectBytes : List Byte := leBytes 16 1 ++ leBytes 4 0x04000000

def okImage : List Byte :=
  leBytes 4 0x4D495154 ++ leBytes 2 1 ++ leBytes 2 0x100 ++ leBytes 8 4116 ++ leBytes 8 9 ++ leBytes 4 2 ++ leBytes 4 1 ++ leBytes 48 0 ++
    imgDigest ++ leBytes 128 0 ++
    (leBytes 8 6 ++ leBytes 8 4096 ++ leBytes 16 20 ++ sectDigest) ++ leBytes 3760 0 ++ sectBytes

/-- A stage report that found nothing. -/
def repT : StageReport := { absent := [], drives := [], failed := [], badCal := [] }

/-- A machine with one message at hub 7. -/
def mailT (m : Msg) : State := (at_ .loaded).updHub 7 fun h => { h with inbox := [m] }

theorem test_witness_BringUpAndServiceRun :
    ((at_ .off).mgr.mode = .off ∧ 4200 ≤ 4200) ∧ ((at_ .bringUp).mgr.mode = .bringUp ∧ (at_ .bringUp).stageReady .a = true) ∧
    (∃ y ∈ (at_ .bringUp).fit.stages, y ∉ (at_ .bringUp).mgr.stagesDone) ∧ (7 < (at_ .bringUp).fit.sleds ∧ (at_ .limp).mgr.mode ≠ .off) ∧
    (IsCmd (cmdT 0) 0 ∧ (at_ .limp).mgr.mode ≠ .bringUp) ∧ (at_ .quiescent).mgr.serviceCmd = none ∧
    (IsCmd (cmdT 0x17) 0x17 ∧ (at_ .quiescent).mgr.mode = .quiescent) ∧ (IsCmd (cmdT 0x18) 0x18 ∧ (at_ .service).mgr.mode = .service) := by
  unfold IsCmd; decide

theorem test_witness_DozeRuns :
    (let s := at_ .loaded
     IsCmd (cmdT 0x10) 0x10 ∧ (s.mgr.mode = .quiescent ∨ s.mgr.mode = .loaded) ∧
       (∀ g, g < 32 → (s.group g).running = none ∧ (s.group g).queue = []) ∧ s.img.waitJobs = [] ∧ s.img.act = none ∧
       s.verifying = false ∧ s.mgr.doze = none) ∧
    (let s := (at_ .loaded).updMgr fun m => { m with doze := some ⟨3, cmdT 0x10⟩ }
     s.mgr.doze.isSome = true ∧ s.mgr.mode = .loaded ∧ s.mgr.wake = none) ∧
    FirstMsg (mailT (.dozeAt 3)) 7 Msg.isDozeAt [] (.dozeAt 3) [] ∧
    (IsCmd (cmdT 0x11) 0x11 ∧ (at_ .doze).mgr.mode = .doze) ∧ FirstMsg (mailT .cancel) 7 (fun m => m == .cancel) [] .cancel [] ∧
    (let s := (at_ .quiescent).updMgr fun m => { m with doze := some ⟨3, cmdT 0x10⟩, frame := 7 }
     s.mgr.doze = some ⟨3, cmdT 0x10⟩ ∧ (s.mgr.mode = .quiescent ∨ s.mgr.mode = .loaded) ∧ 3 + 4 ≤ s.mgr.frame ∧ s.mgr.wake = none) ∧
    FirstMsg (mailT .drop) 7 (fun m => m == .drop) [] .drop [] ∧
    (let s := (at_ .doze).updMgr fun m => { m with doze := some ⟨3, cmdT 0x10⟩, wake := some ⟨8, []⟩, frame := 9 }
     s.mgr.mode = .doze ∧ s.mgr.wake = some ⟨8, []⟩ ∧ s.mgr.doze = some ⟨3, cmdT 0x10⟩ ∧ s.mgr.wakeStart = none ∧ 8 < s.mgr.frame ∧
       3 + 6 ≤ s.mgr.frame) ∧
    (let s := (at_ .doze).updMgr fun m => { m with wakeStart := some 9, wakeRow := 7, frame := 2041 }
     s.mgr.mode = .doze ∧ s.mgr.wakeStart = some 9 ∧ s.mgr.wakeRow = 7 ∧ wakeRows[7]? = some 2032 ∧ 9 + 2032 ≤ s.mgr.frame) ∧
    (let s := (at_ .doze).updMgr fun m => { m with wakeStart := some 9, wakeRow := 0, frame := 9 }
     s.mgr.wakeStart = some 9 ∧ s.mgr.wakeRow = 0 ∧ wakeRows[0]? = some 0 ∧ 9 + 0 ≤ s.mgr.frame) ∧
    (let s := (at_ .doze).updMgr fun m => { m with wakeStart := some 9, wakeRow := 8, frame := 2057 }
     s.mgr.mode = .doze ∧ s.mgr.wakeStart = some 9 ∧ s.mgr.wakeRow = 8 ∧ 9 + 2048 ≤ s.mgr.frame) := by
  unfold IsCmd FirstMsg; decide

theorem test_witness_HoldsAreEntered :
    (IsCmd (cmdT 0x12) 0x12 ∧ (at_ .passage).mgr.mode = .passage) ∧
    (let s := at_ .limp
     7 < s.fit.sleds ∧ s.mgr.mode ≠ .off ∧ (s.hub 7).holdReqOn = false ∧ ((s.hub 7).samples [3999]).lowRun < 100) ∧
    (let s := (at_ .doze).updHub 7 fun h => { h with lowRun := 99 }
     (s.hub 7).holdReqOn = false ∧ 100 ≤ ((s.hub 7).samples [3999]).lowRun ∧ ((s.hub 7).samples [4000]).lowRun < 100) ∧
    (100 ≤ (List.replicate 100 3999).length ∧ ∀ v ∈ List.replicate 100 3999, v < 4000) ∧
    (let s := (at_ .hold).updHub 7 fun h => { h with holdReqOn := true, highRun := 4095 }
     (s.hub 7).holdReqOn = true ∧ 4096 ≤ ((s.hub 7).samples [4200]).highRun ∧ ((s.hub 7).samples [4199]).highRun < 4096) ∧
    (4096 ≤ (List.replicate 4096 4200).length ∧ ∀ v ∈ List.replicate 4096 4200, 4200 ≤ v) ∧
    (let s := (at_ .doze).updHub 7 fun h => { h with holdReqOn := true }
     s.holdCause 1 = true ∧ s.mgr.mode.holdable = true ∧ s.mgr.holdSent = false) ∧
    FirstMsg (mailT .hold) 7 (fun m => m == .hold) [] .hold [] ∧
    (let s := (at_ .hold).updHub 7 fun h => { h with holdPend := true }
     7 < s.fit.sleds ∧ (s.hub 7).held = false ∧ (s.hub 7).holdPend = true ∧ s.mgr.mode = .hold) ∧
    (let s := (at_ .running).updHub 7 fun h => { h with lossHold := true }
     (s.hub 7).held = false ∧ (s.hub 7).lossHold = true ∧ s.mgr.mode.holdable = true) ∧
    FirstMsg (mailT (.resume 4)) 7 Msg.isResume [] (.resume 4) [] ∧
    (let s := (at_ .hold).updHub 7 fun h => { h with held := true, resumeLeft := some 0 }
     (s.hub 7).held = true ∧ (s.hub 7).resumeLeft = some 0) := by
  unfold IsCmd FirstMsg
  refine ⟨by decide, by decide, by decide, ⟨by simp, fun v h => by rw [List.eq_of_mem_replicate h]; decide⟩, by decide,
    ⟨by rw [List.length_replicate], fun v h => by rw [List.eq_of_mem_replicate h]⟩, by decide⟩

/-- A machine in Hold by a cause, whose buses have read 42 V or more for 64 frames. -/
def holdT (cause : Nat) : State :=
  (List.range 8).foldl (fun (s : State) k => s.updHub k fun h => { h with highRun := 4096 })
    ((at_ .hold).updMgr fun m => { m with cause := cause, holdEntry := some 0, sagDeadline := some 0, frame := 3125 })

/-- A machine of which no unit answers, in a tick-loss Hold. -/
def mute : State :=
  { (holdT 2) with
    fit := { (holdT 2).fit with variant := .tqB, absent := Fit.workers { Fit.full16 with variant := .tqB } } }

theorem mute_counts_none (d : Nat) (u : TickUnit) : u ∉ mute.countedRx d := by
  have h0 : ∀ x ∈ mute.fit.receivers 0, mute.counted x = false := by decide
  have h8 : mute.fit.receivers 8 = [] := by decide
  intro h
  rw [State.countedRx, List.mem_filter] at h
  obtain ⟨hu, hc⟩ := h
  have hs : mute.fit.variant = .tqB := rfl
  by_cases e8 : d = 8
  · subst e8; rw [h8] at hu; cases hu
  · by_cases e0 : d = 0
    · subst e0; rw [h0 u hu] at hc; cases hc
    · rw [Fit.receivers, if_neg e8] at hu
      obtain ⟨w, hw, rfl⟩ := List.mem_map.mp hu
      obtain ⟨x, hx, rfl⟩ := List.mem_map.mp hw
      have hx17 : x < 17 := by
        have : x ∈ List.range 17 := hx
        simpa using this
      have hk : sledOf (workerCode d x) = d := by unfold sledOf workerCode; omega
      have hu' : mute.workerUp (workerCode d x) = true := hc
      have hsl : mute.fit.sleds = 1 := rfl
      simp only [State.workerUp, Fit.workerOk, hk, hsl, Bool.and_eq_true, decide_eq_true_eq] at hu'
      omega

theorem test_witness_HoldEnds :
    ((holdT 1).mgr.mode = .hold ∧ (holdT 1).mgr.cause = 1 ∧ (holdT 1).mgr.sagDeadline = some 0 ∧ (holdT 1).mgr.frame ≤ 0 + 3125 ∧
      (holdT 1).mgr.powerDown = none ∧ ∀ k, k < (holdT 1).fit.sleds → 4096 ≤ ((holdT 1).hub k).highRun) ∧
    (mute.mgr.powerDown = none ∧ mute.mgr.mode = .hold ∧ mute.mgr.cause = 2 ∧
      ∀ d u, u ∈ mute.countedRx d → (mute.rx u).locked = true ∧ 64 ≤ (mute.rx u).run) ∧
    (IsCmd (cmdT 0x13) 0x13 ∧ (holdT 3).mgr.mode = .hold ∧ (holdT 3).mgr.cause = 3 ∧ (holdT 3).mgr.powerDown = none) ∧
    (let s := (at_ .limp).updMgr fun m => { m with sagDeadline := some 0, frame := 3125 }
     (s.mgr.mode = .hold ∨ s.mgr.mode = .limp) ∧ s.mgr.sagDeadline = some 0 ∧ 0 + 3125 ≤ s.mgr.frame ∧ s.mgr.powerDown = none) ∧
    (IsCmd (cmdT 0x14) 0x14 ∧ (at_ .quiescent).mgr.mode = .quiescent) ∧
    (let s := (at_ .quiescent).updMgr fun m => { m with powerDown := some ⟨5, 4⟩, frame := 197 }
     s.mgr.powerDown = some ⟨5, 4⟩ ∧ powerDownRows[4]? = some 192 ∧ 5 + 192 ≤ s.mgr.frame) ∧
    (∀ row, row < 5 → ∃ f, powerDownRows[row]? = some f) ∧
    (let s := (at_ .quiescent).updMgr fun m => { m with powerDown := some ⟨5, 0⟩, frame := 5 }
     s.mgr.powerDown = some ⟨5, 0⟩ ∧ powerDownRows[0]? = some 0 ∧ 5 + 0 ≤ s.mgr.frame) := by
  refine ⟨by decide +kernel, ⟨rfl, rfl, rfl, fun d u hu => absurd hu (mute_counts_none d u)⟩, ?_⟩
  unfold IsCmd
  refine ⟨by decide, by decide, by decide, by decide, fun row h => ?_, by decide⟩
  exact ⟨powerDownRows[row]'(by simpa [powerDownRows] using h), List.getElem?_eq_getElem _⟩

theorem test_witness_LimpIsEntered :
    (let s := at_ .running; s.mgr.mode ≠ .off ∧ s.mgr.mode ≠ .limp ∧ thermalLimit .dram < 95 * 128 + 1 ∧ (at_ .limp).mgr.mode = .limp) ∧
    (let s := (at_ .bringUp).updMgr fun m => { m with limpReq := some 7 }
     s.mgr.limpReq = some 7 ∧ s.mgr.mode ≠ .off ∧ s.mgr.mode ≠ .limp) ∧
    FirstMsg (mailT .limp) 7 (fun m => m == .limp) [] .limp [] := by
  unfold FirstMsg; decide

/-- A restart ladder at a stage, in Limp. -/
def ladderT (cold : Bool) (stage frame : Nat) : State :=
  (at_ .limp).updMgr fun m => { m with restart := some ⟨cold, 2, stage, cmdT 0x16⟩, frame := frame }

theorem test_witness_RestartsRun :
    (let s := (at_ .limp).updImg fun x => { x with active := some imgT }
     IsCmd (cmdT 0x15) 0x15 ∧ s.mgr.mode = .limp ∧ s.mgr.restart = none ∧ s.img.active.isSome = true ∧ s.mgr.thermal = []) ∧
    (IsCmd (cmdT 0x16) 0x16 ∧ (at_ .limp).mgr.mode = .limp ∧ (at_ .limp).mgr.restart = none) ∧
    ((ladderT true 0 18).mgr.restart = some ⟨true, 2, 0, cmdT 0x16⟩ ∧ 2 + 16 ≤ (ladderT true 0 18).mgr.frame) ∧
    ((ladderT false 1 82).mgr.restart = some ⟨false, 2, 1, cmdT 0x16⟩ ∧ 2 + 80 ≤ (ladderT false 1 82).mgr.frame) := by
  unfold IsCmd; decide

theorem test_witness_RestartsStartWithASelfTest :
    (ladderT false 0 17).mgr.mode = .limp ∧ (ladderT false 0 17).mgr.restart = some ⟨false, 2, 0, cmdT 0x16⟩ ∧
      (ladderT false 0 17).mgr.frame < 2 + 16 ∧ 2 + 16 ≤ (ladderT false 0 18).mgr.frame := by decide

theorem test_witness_DomainsAreApplied :
    (let s := coreT.updWorker 0 fun x => { x with latched := some (0x0FFF, false) }
     s.workerUp 0 = true ∧ (s.hub (sledOf 0)).started = true ∧ (s.worker 0).latched = some (0x0FFF, false) ∧
       (s.worker 0).latchAt.frame < (s.hub (sledOf 0)).frame ∧ (9 ≤ 11 ∧ 11 ≤ 11) ∧
       s.fit.domainMask.testBit 11 = true ∧ (0x0FFF).testBit 11 = true ∧ (s.worker 0).powered 0 = true) ∧
    (let s := coreT.updWorker 0 fun x => { x with latched := some (0x0001, false) }
     s.clusterUsed 0 6 = false ∧ s.fit.domainMask.testBit 6 = true ∧ (0x0001).testBit 6 = false ∧ (0x0001).testBit 9 = false) ∧
    (let s := (at_ .hold).updWorker 0 fun x => { x with latched := some (0x0001, true) }
     s.workerUp 0 = true ∧ (s.worker 0).latched = some (0x0001, true) ∧ (s.hub (sledOf 0)).started = false ∧ s.mgr.mode = .hold) ∧
    (let s := ((at_ .service).updTile 0 fun x => { x with cells := ⟨[(1, { Cell.init with latched := some LoopRec.init })]⟩ }).updMgr fun m =>
       { m with frame := 1 }
     let c := (s.tile 0).cells.get Cell.init 1
     c.latched = some LoopRec.init ∧ c.mode ≠ 2 ∧ c.mode ≠ 3 ∧ c.latchAt.frame < s.mgr.frame ∧ c.tune = none) ∧
    ((at_ .limp).mgr.mode ≠ .off ∧ (at_ .limp).mgr.mode ≠ .bringUp) := by decide +kernel

/-- A load whose validation is due. -/
def loadT : State := State.reset.updImg fun x => { x with load := some ⟨cmdT 0x20, 0⟩ }

theorem test_witness_ImagesAreLoaded_valid : loadT.validate okImage = none := by decide +kernel

theorem test_witness_ImagesAreLoaded :
    (let s := at_ .passage
     IsCmd (cmdT 0x20) 0x20 ∧ s.mgr.mode = .passage ∧ s.img.staged = none ∧ s.img.load = none ∧ ∀ a, s.img.act = some a → a.deact = true) ∧
    (loadT.img.load = some ⟨cmdT 0x20, 0⟩ ∧ loadT.img.valid = none ∧ loadT.validate [] = some (0x01, 0xFFFF, 0)) ∧
    (let s := State.reset.updImg fun x => { x with load := some ⟨cmdT 0x20, 0⟩, valid := some imgT }
     s.img.load = some ⟨cmdT 0x20, 0⟩ ∧ s.img.valid = some imgT ∧ 1 ∈ imgT.placed ∧ s.paused (imgT.placed.map sledOf) = false) ∧
    (let s := (at_ .running).updImg fun x => { x with staged := some imgT }
     let c := { cmdT 0x22 with id := 7 }
     IsCmd c 0x22 ∧ s.mgr.mode = .running ∧ (∀ a, s.img.act = some a → a.deact = true ∨ a.cmd.id ≠ c.id) ∧ s.img.staged = some imgT ∧
       imgT.id = c.id) := by
  unfold IsCmd; decide

/-- An activation of the staged image, accepted in frame 3. -/
def actT (force : Bool) : Activation :=
  { cmd := { cmdT 0x21 with id := 7, flags := bit1 force }, deact := false, accepted := 3, replanTo := none, boundary := none, planned := none
    judged := [] }

/-- The job runs on while the activation waits for it. -/
def drainT (force : Bool) : State :=
  (runT.updImg fun x => { x with staged := some { imgT with id := 8 }, act := some (actT force) }).updMgr fun m => { m with frame := 4 }

theorem test_witness_ActivationsDrain :
    (let s := (at_ .quiescent).updImg fun x => { x with staged := some imgT }
     let c := { cmdT 0x21 with id := 7 }
     1 ≤ c.limit ∧ IsCmd c 0x21 ∧ s.mgr.mode = .quiescent ∧ s.img.act = none ∧ s.img.staged = some imgT ∧ imgT.id = c.id) ∧
    (IsCmd (cmdT 0x23) 0x23 ∧ (at_ .loaded).mgr.mode = .loaded ∧ (at_ .loaded).img.act = none) ∧
    (∀ f, (drainT f).img.act = some (actT f) ∧ (drainT f).draining = true ∧ (actT f).boundary = none ∧
      (actT f).accepted + (actT f).cmd.limit ≤ (drainT f).mgr.frame ∧ (drainT f).drained = false ∧ (actT f).cmd.force = f ∧
      1 ∈ (drainT f).runningGroups ∧ ((drainT f).group 1).abortReason = 0) := by
  unfold IsCmd; decide

/-- An activation that is due in a machine whose staged image is given, and whose owner 1 is live. -/
def dueActT (i : Image) : State :=
  (((at_ .loaded).updImg fun x => { x with staged := some i, act := some (actT false) }).updMgr fun m => { m with frame := 4 }).updOwners
    fun o => { o with live := [0, 1] }

/-- An image that binds nothing. -/
def bareT : Image := { imgT with id := 5, groups := [], binds := [] }

theorem bareT_drained (s : State) (ha : s.img.active = some bareT) (hr : s.runningGroups = []) (hw : s.wiresEmpty = true) :
    s.drained = true := by
  simp [State.drained, State.participants, ha, Image.groupWorkers, bareT, hr, hw]

theorem test_witness_ImagesAreActivated_wiring :
    let i := { bareT with kind := 1, baseId := 5 }
    let s := (dueActT i).updImg fun x => { x with active := some bareT }
    s.img.act = some (actT false) ∧ s.img.staged = some i ∧ (actT false).accepted < s.mgr.frame ∧ s.drained = true ∧
      s.actRefusal i = none ∧ i.kind = 1 ∧ s.replanOpen (actT false) i = false ∧ s.img.active = some bareT := by
  refine ⟨rfl, rfl, by decide, bareT_drained _ rfl (by decide) (by decide), by decide, rfl, by decide, rfl⟩

theorem test_witness_ImagesAreActivated :
    ((actT false).deact = false ∧ (actT false).boundary = none ∧ (actT false).replanTo = none) ∧
    (let s := dueActT imgT
     s.img.act = some (actT false) ∧ s.img.staged = some imgT ∧ (actT false).accepted < s.mgr.frame ∧ s.drained = true ∧ s.mgr.doze = none ∧
       s.mgr.mode = .loaded ∧ s.actRefusal imgT = none ∧ imgT.kind = 0 ∧ s.replanOpen (actT false) imgT = false) ∧
    (let i := { bareT with kind := 2 }
     let s := dueActT i
     s.img.staged = some i ∧ s.drained = true ∧ s.actRefusal i = none ∧ i.kind = 2) ∧
    (let i := { imgT with regions := [⟨0, 0, 1, 2, 0, 4096, []⟩] }
     let s := dueActT i
     s.img.staged = some i ∧ s.drained = true ∧ s.actRefusal i = some 0x15 ∧ i.kind ≤ 2) ∧
    (let s := (runT.updHub 0 fun h => { h with inbox := [.activateAt 7] })
     s.img.active = some imgT ∧ FirstMsg s 0 Msg.isActivate [] (.activateAt 7) [] ∧ 0 ∈ imgT.placed ∧ sledOf 0 = 0 ∧ s.actorOf 0 = 0 ∧
       ∀ v ∈ imgT.placed, s.actorOf v = 0 → v = 0) ∧
    (let a := { actT false with boundary := some 10 }
     let i := { imgT with circs := [⟨1, 0, 1, 0, 0, 0, 0⟩], hasCircs := true }
     let s := ((at_ .passage).updImg fun x => { x with active := some i, act := some a }).updMgr fun m => { m with frame := 410 }
     s.img.active = some i ∧ s.img.act = some a ∧ a.deact = false ∧ a.boundary = some 10 ∧ s.mgr.mode = .passage ∧ 10 + 400 ≤ s.mgr.frame ∧
       (s.circ 1).live = false ∧ ∀ d ∈ i.circs, ((s.updCirc 1 fun x => { x with state := 2 }).circ d.cid).live = true) := by
  unfold FirstMsg; decide

/-- Worker 0 of a running sled, its core 0 with address registers for its own data area, its own tiers, and a Mound object; the first page
of tier A of workers 0 and 1 belongs to owner 1, and the board link to worker 1 and circuit 5 to its port 3 are live. -/
def busyT : State :=
  let page (w : Nat) : RegionDef := { w := w, space := 0, use := 0, owner := 1, base := 0, size := 4096, init := [] }
  let s := (coreT.updCore 0 0 fun x => { x with areg := ⟨[(1, 2 * 2 ^ 60 + 0x100000), (3, 2 ^ 60), (4, 4 * 2 ^ 60)]⟩ }).updImg fun x =>
    { x with active := some { imgT with flows := [⟨5, 0, 0, 1⟩] } }
  (s.updHub 0 fun h => { h with regions := [page 0, page 1] }).updWorker 0 fun x =>
    { x with links := ⟨[(0, { Link.init with up := true })]⟩, ports := ⟨[(0, { Port.init with tx := some 5 })]⟩ }
def liveT (s : State) : State := s.updCirc 5 fun c => { c with state := 3, src := 0, dst := 409, window := 4, credit := 3 }

/-- A slot between those registers. -/
def opT (fa fb ax ay len aux : Nat) : Slot := { slotT with fa := fa, fb := fb, ax := ax, ay := ay, len := len, aux := aux }

/-- Core 0 runs a step whose program (Table 5.2) is one slot. -/
def onSlot (op : Nat) (sl : Slot) (s : State) : State :=
  s.updCore 0 0 fun x =>
    { x with prog := leBytes 32 0 ++ leBytes 4 0x28 ++ leBytes 4 1 ++ leBytes 16 (slotEncode op sl), cur := some 0, pos := 0 }

theorem test_witness_VectorUnitComputes :
    (opT 6 6 0 0 1 31).fa = 6 ∧ (opT 7 7 0 0 1 31).fa = 7 ∧ (opT 6 7 0 0 1 31).fb = 7 ∧ (opT 6 6 0 0 1 31).fb = 6 ∧
    (∀ op ∈ [0x12, 0x13, 0x14, 0x15, 0x16, 0x17, 0x18, 0x19, 0x1E, 0x1F, 0x20, 0x21],
      (onSlot op (opT 6 6 0 0 1 31) busyT).slotIssues 0 0 5 op (opT 6 6 0 0 1 31)) ∧
    (∀ op ∈ [0x12, 0x18, 0x19, 0x1A, 0x1B, 0x1C, 0x1D, 0x21], (onSlot op (opT 7 7 0 0 1 31) busyT).slotIssues 0 0 5 op (opT 7 7 0 0 1 31)) ∧
    ∀ p ∈ ((onSlot 0x12 (opT 6 6 0 0 1 31) busyT).worker 0).inflight, (opT 6 6 0 0 1 31).issue < p.ready := by
  unfold State.slotIssues; decide +kernel

/-- The machine above with a row of the accumulator whose check lane is wrong. -/
def badRowT : State := busyT.updCore 0 0 fun x => { x with acc := ⟨[(511, { lanes := List.replicate 64 0, chk := 1 })]⟩ }

theorem test_witness_MatrixUnitMultiplies :
    (let sl := opT 5 0 1 0 1 0
     let s := onSlot 0x01 sl busyT
     sl.fa ≤ 5 ∧ s.ownStore 0 (s.logicalNo 0 0) ((s.core 0 0).operand sl.ax sl.ox) (weightLen sl.fa) = some 0x100000 ∧
       s.slotIssues 0 0 0 0x01 sl) ∧
    (let sl := opT 0 0 0 0 1 0
     let s := onSlot 0x02 sl busyT
     s.slotIssues 0 0 1 0x02 sl ∧ (s.core 0 0).shadowReady ≤ sl.issue) ∧
    (let sl := opT 0 1 1 1 1 511
     let s := onSlot 0x03 sl busyT
     s.slotIssues 0 0 1 0x03 sl ∧ pairOk (s.core 0 0).weights.fmt sl.fb = true ∧ 1 ≤ sl.len ∧ sl.aux % 512 + sl.len ≤ 512 ∧
       s.ownStore 0 0 ((s.core 0 0).operand sl.ax sl.ox) (64 * sl.len) = some 0x100000 ∧ sl.fb ≠ 5) ∧
    (let sl := opT 0 5 1 1 1 511
     let s := onSlot 0x03 sl (busyT.updCore 0 0 fun x => { x with buf0 := { fmt := 5, bytes := [] } })
     s.slotIssues 0 0 1 0x03 sl ∧ pairOk (s.core 0 0).weights.fmt sl.fb = true ∧
       s.ownStore 0 0 ((s.core 0 0).operand sl.ay sl.oy) (4 * sl.len) = some 0x100000) ∧
    (let sl := opT 1 6 0 1 1 511
     let s := onSlot 0x04 sl busyT
     s.slotIssues 0 0 2 0x04 sl ∧ sl.fa < 8 ∧ sl.fa ≠ 5 ∧ sl.fb = 6 ∧ 1 ≤ sl.len ∧ sl.aux % 512 + sl.len ≤ 512 ∧ (s.worker 0).inflight = [] ∧
       s.ownStore 0 (s.logicalNo 0 0) ((s.core 0 0).operand sl.ay sl.oy) (8 * fmtWidth sl.fa * sl.len) = some 0x100000 ∧
       (∀ i, i < sl.len → (drainRow sl.fa sl.fb ((s.core 0 0).row (sl.aux % 512 + i))).bad = false)) ∧
    (let sl := opT 1 6 0 1 1 511
     let s := onSlot 0x04 sl badRowT
     s.slotIssues 0 0 2 0x04 sl ∧ (s.worker 0).inflight = [] ∧ 0 < sl.len ∧ (drainRow sl.fa sl.fb ((s.core 0 0).row (sl.aux % 512 + 0))).bad = true ∧
       ∀ i, i < 0 → (drainRow sl.fa sl.fb ((s.core 0 0).row (sl.aux % 512 + i))).bad = false) := by
  unfold State.slotIssues; decide +kernel

theorem test_witness_MoversMoveData :
    (let sl := opT 0 0 2 1 1 5
     let s := onSlot 0x30 sl busyT
     1 ≤ sl.len ∧ s.ownStore 0 0 ((s.core 0 0).operand sl.ay sl.oy) (64 * sl.len) = some 0x100000 ∧
       s.slowTier 0 ((s.core 0 0).operand sl.ax sl.ox) = false ∧ s.slotIssues 0 0 3 0x30 sl ∧ s.logicalNo 0 0 = 0 ∧
       s.mrdLine 0 1 ((s.core 0 0).operand sl.ax sl.ox) 0 = .tier 0) ∧
    (let sl := opT 0 0 3 1 1 5
     let s := onSlot 0x30 sl busyT
     s.slowTier 0 ((s.core 0 0).operand sl.ax sl.ox) = true ∧ s.slotIssues 0 0 4 0x30 sl) ∧
    (let sl := opT 0 0 4 0 1 5
     let s := onSlot 0x30 sl busyT
     s.ownStore 0 0 ((s.core 0 0).operand sl.ay sl.oy) (64 * sl.len) = none ∧ s.slotIssues 0 0 3 0x30 sl ∧
       s.mrdLine 0 1 ((s.core 0 0).operand sl.ax sl.ox) 0 = .denied) ∧
    (let sl := opT 0 0 1 2 1 5
     let s := onSlot 0x31 sl busyT
     let dst := (s.core 0 0).operand sl.ay sl.oy
     addrSpace dst ≠ 1 ∧ s.slotIssues 0 0 3 0x31 sl ∧ s.coreGroup 0 0 = some 1 ∧
       ∀ i, i < sl.len → s.ownLine 0 dst i = some (0 + 64 * i) ∧ s.mayWrite 1 (0 + 64 * i) = true) ∧
    (let sl := opT 0 0 1 3 1 5
     let s := onSlot 0x31 sl busyT
     addrSpace ((s.core 0 0).operand sl.ay sl.oy) = 1 ∧ s.slotIssues 0 0 4 0x31 sl) ∧
    (let sl := opT 0 0 1 1 1 5
     let s := onSlot 0x40 sl busyT
     storePlace ((s.core 0 0).operand sl.ay sl.oy) = some (0, 0x100000) ∧ 0x100000 % 64 = 0 ∧ s.flowLink 0 5 = some 0 ∧
       s.slotIssues 0 0 6 0x40 sl ∧ ((s.worker 0).link 0).up = true) ∧
    (let sl := opT 0 0 1 2 1 5
     let s := onSlot 0x41 sl (liveT busyT)
     let dst := (s.core 0 0).operand sl.ay sl.oy
     addrSpace dst = 0 ∧ addrOffset dst % 64 = 0 ∧ s.slotIssues 0 0 (22 + s.circPort 0 5) 0x41 sl ∧ (s.circ 5).txLive = true ∧
       ((s.worker 0).port (s.circPort 0 5)).tx = some 5 ∧ ((s.worker 0).port (s.circPort 0 5)).loopback = false ∧
       ∀ i, i < sl.len → s.maySend 1 (s.endOf (s.circ 5).dst).1 (addrOffset dst + 256 * i) = true) ∧
    (let sl := opT 7 7 1 1 1 31
     (onSlot 0x10 sl busyT).slotIssues 0 0 5 0x10 sl ∧ (onSlot 0x11 sl busyT).slotIssues 0 0 5 0x11 sl ∧
       sl.fa < 8 ∧ sl.fa ≠ 5 ∧ sl.rd + sl.len ≤ 32 ∧ sl.fb = 7 ∧ sl.ra + sl.len ≤ 32 ∧
       busyT.ownStore 0 0 ((busyT.core 0 0).operand sl.ax sl.ox) (8 * fmtWidth sl.fa * sl.len) = some 0x100000) ∧
    (let sl := opT 5 7 1 1 1 31
     (onSlot 0x11 sl busyT).slotIssues 0 0 5 0x11 sl ∧
       busyT.ownStore 0 0 ((busyT.core 0 0).operand sl.ax sl.ox) (2 * sl.len) = some 0x100000) := by
  unfold State.slotIssues; decide +kernel

/-- Worker 0 with core 0 retired. -/
def deadCoreT (s : State) : State := s.updCore 0 0 fun x => { x with retired := true, cause := 1 }

/-- No free core: the spare cores 48 and 49 are retired as well. -/
def noFreeT (s : State) : State := ((deadCoreT s).updCore 0 48 fun x => { x with retired := true }).updCore 0 49 fun x => { x with retired := true }

theorem test_witness_FailedCoresAndPagesAreReplaced :
    (let s := deadCoreT coreT
     s.workerUp 0 = true ∧ (s.core 0 0).retired = true ∧ (s.worker 0).logicalOf 0 = some 0 ∧ s.coreGroup 0 0 = some 1 ∧
       s.groupRuns 1 = true ∧ (s.core 0 0).cause ≠ 3) ∧
    (let s := deadCoreT ((at_ .quiescent).updWorker 0 fun x => { x with pwr := 4095 })
     s.workerUp 0 = true ∧ 0 < 48 ∧ s.coreGroup 0 0 = none ∧ (s.worker 0).physOf 0 = some 0 ∧ (s.worker 0).freeCore = some 48) ∧
    (let s := noFreeT ((at_ .quiescent).updWorker 0 fun x => { x with pwr := 4095 })
     s.coreGroup 0 0 = none ∧ (s.worker 0).freeCore = none ∧ s.bindOf 0 0 = none) ∧
    (let s := deadCoreT ((((at_ .quiescent).updImg fun x => { x with active := some imgT })).updWorker 0 fun x => { x with pwr := 3 })
     s.workerUp 0 = true ∧ s.coreGroup 0 0 = some 1 ∧ s.groupRuns 1 = false ∧ (s.worker 0).physOf 0 = some 0 ∧
       (s.core 0 0).retired = true ∧ (s.worker 0).freeCore = none ∧ s.bindOf 0 0 ≠ none ∧ s.exchangeCore 0 = none) ∧
    (coreT.workerUp 0 = true ∧ 7 < 8 ∧ (coreT.worker 0).powered 7 = true ∧ 23 < 24 ∧ coreT.fit.tierB = true ∧ (coreT.worker 0).powered 8 = true) ∧
    (let s := coreT.updWorker 0 fun x => { x with retireDue := [(9, false, 2)] }
     (s.worker 0).retireDue.find? (fun p => p.1 == 9) = some (9, false, 2) ∧ 0 < (s.worker 0).spares.get 255 2) ∧
    (let s := coreT.updWorker 0 fun x => { x with retireDue := [(9, true, 2)], spares := ⟨[(2, 0)]⟩ }
     (s.worker 0).retireDue.find? (fun p => p.1 == 9) = some (9, true, 2) ∧ (s.worker 0).spares.get 255 2 = 0) := by
  decide +kernel

/-- Owner 254 being opened at workers 0 and 1, of which 0 has filled its slot. -/
def openingT : Opening := { owner := 254, at_ := 3, secret := 5, waiting := [0, 1], filled := [0], cmd := cmdT 0x31 }
def openT : State := ((at_ .loaded).updOwners fun o => { o with opening := some openingT }).updMgr fun m => { m with frame := 19 }

theorem test_witness_OwnersOpen :
    (let c := { cmdT 0x31 with unit := 254, data := some (List.replicate 1088 0) }
     IsCmd c 0x31 ∧ 1 ≤ c.unit ∧ c.unit ≤ 254 ∧ c.data = some (List.replicate 1088 0) ∧ (List.replicate 1088 (0 : Byte)).length = 1088 ∧
       (at_ .loaded).mgr.mode = .loaded ∧ c.unit ∉ (at_ .loaded).owners.live ∧ (at_ .loaded).owners.opening = none ∧
       (at_ .loaded).owners.releasing = none) ∧
    (openT.owners.opening = some openingT ∧ openT.workerUp 1 = true ∧ 1 ∈ openingT.waiting ∧ 1 ∉ openingT.filled ∧ 0 ∈ openingT.filled ∧
      openingT.at_ + 16 ≤ openT.mgr.frame) := by
  unfold IsCmd
  refine ⟨⟨by decide, by decide, by decide, rfl, List.length_replicate, rfl, by decide, rfl, rfl⟩, by decide⟩

/-- The release of owner 1 whose job runs, or has been drained. -/
def relT (erasing : Bool) : Releasing :=
  { owners := [1], also := some 2, single := true, accepted := 3, limit := 1, force := false, erasing := erasing, e := 3, waiting := [0], erased := 0, cmd := none }
def relS (s : State) (erasing : Bool) : State :=
  (s.updOwners fun o => { o with live := [0, 1], releasing := some (relT erasing) }).updMgr fun m => { m with frame := 4 }

theorem test_witness_OwnersAreReleased :
    (let c := { cmdT 0x32 with unit := 254 }
     let s := (at_ .quiescent).updOwners fun o => { o with live := [0, 254] }
     IsCmd c 0x32 ∧ 1 ≤ c.unit ∧ c.unit ≤ 254 ∧ 1 ≤ c.limit ∧ s.mgr.mode = .quiescent ∧ s.owners.opening = none ∧ s.owners.releasing = none ∧
       c.unit ∈ s.owners.live) ∧
    (let s := relS runT false
     s.owners.releasing = some (relT false) ∧ (relT false).single = true ∧ (relT false).erasing = false ∧ (relT false).force = false ∧
       (relT false).accepted + (relT false).limit ≤ s.mgr.frame ∧ ∃ o ∈ (relT false).owners, s.ownerJobs o ≠ []) ∧
    (let s := relS (at_ .loaded) false; s.owners.releasing = some (relT false) ∧ ∀ o ∈ (relT false).owners, s.ownerJobs o = []) ∧
    (let s := relS (at_ .loaded) true
     s.owners.releasing = some (relT true) ∧ (relT true).erasing = true ∧ s.workerUp 0 = true ∧ 0 ∈ (relT true).waiting ∧
       2 ∈ (relT true).slots ∧ ∀ o ∈ (relT true).slots, ((s.worker 0).slot o).live = false) := by
  unfold IsCmd; decide

/-- Owner 0's key slot of worker 0 is live. -/
def keyT : State := (at_ .hold).updWorker 0 fun x => { x with keys := ⟨[(0, { live := true, gen := 3, secret := 0 })]⟩ }

theorem test_witness_LinesAreWrittenUnderKeys :
    (let c := { cmdT 0x30 with data := some [] }
     IsCmd c 0x30 ∧ keyT.mgr.mode ≠ .off ∧ keyT.mgr.mode ≠ .bringUp ∧ keyT.mgr.mode ≠ .limp ∧ c.data = some []) ∧
    (List.replicate 64 (7 : Byte)).length = 64 ∧ (keyT.keyAt (2 * 64) ≠ 0 ∧ Memory.wf keyT.mem = true) ∧ (at_ .hold).keyAt (2 * 64) = 0 := by
  unfold IsCmd; decide

/-- A content key of 32 zero bytes wrapped for a zero owner secret, and a chunk of 64 zero bytes sealed under it (R177), with their tags;
computed outside the model from FIPS 197, SP 800-38D and FIPS 202. -/
def wrapT : List Byte := leBytes 48 0xa73c95b9e2f2356e43fb967ea58fb6774c09c6054259ee845ed6a347cd3182669a7d9c8070e76ba817e3e102a9b8e78d
def chunkT : List Byte :=
  leBytes 80 0xba1e7276d8f234393e0155e56030aec01f3a0cabe31d7c61307fbb81e1cb4147f7360c472459e8417be14a4d28b14add8e3506758ef5a2d1742aa637ca036072189df3bad3c54e076e6b604d3d40a7ce

/-- A cocoon of one base lane with one chunk of 64 bytes (Tables 8.1 and 8.2). -/
def cocoonT : List Byte :=
  leBytes 4 0x4F435154 ++ leBytes 2 1 ++ leBytes 2 0x100 ++ leBytes 8 4176 ++ leBytes 8 77 ++ leBytes 1 0 ++ leBytes 1 1 ++ leBytes 2 16 ++
    leBytes 4 1 ++ leBytes 8 64 ++ leBytes 32 0 ++ wrapT ++ leBytes 136 0 ++
    (leBytes 4 0 ++ leBytes 4 64 ++ leBytes 8 0 ++ leBytes 8 4096 ++ leBytes 56 0) ++ leBytes 3760 0 ++ chunkT

/-- FIPS 197, appendix C.3: the example block of AES-256. -/
theorem test_aes :
    aesBlock (List.range 32) ((List.range 16).map (17 * ·)) =
      [0x8e, 0xa2, 0xb7, 0xca, 0x51, 0x67, 0x45, 0xbf, 0xea, 0xfc, 0x49, 0x90, 0x4b, 0x49, 0x60, 0x89] := by decide +kernel

/-- R177: the content key opens under the owner secret it was wrapped for and under no other, and the chunk under the content key. -/
theorem test_cocoon_opens :
    unwrapCek (cocoonT.take 336) 0 = some (List.replicate 32 0) ∧ unwrapCek (cocoonT.take 336) 1 = none ∧
    openChunk (cocoonT.take 336) (List.replicate 32 0) 0 chunkT = some (List.replicate 64 0) ∧
    openChunk (cocoonT.take 336) (List.replicate 32 0) 0 (leBytes 80 0) = none := by decide +kernel

/-- A machine without signatures whose owner 1 is live, with one cocoon in sled 7's store. -/
def storeT (m : MState) : State :=
  let s := (at_ m).updOwners fun o => { o with live := [0, 1] }
  { (s.updHub 7 fun h => { h with store := [{ id := 77, bytes := cocoonT }] }) with fit := { Fit.full16 with sig := false } }

/-- A Mound object of cocoon 77 in a state. -/
def objT (state : Nat) (secondary : Bool) : MObj :=
  { MObj.init with state := state, secondary := secondary, pages := 1, cocoon := 77, objLen := 64 }

/-- That machine with the object on worker 0. -/
def moundT (o : MObj) : State := (storeT .loaded).updWorker 0 fun x => { x with objs := ⟨[(4095, o)]⟩ }

def storeCmd : CStore := { cmd := cmdT 0x40, id := 77, sleds := [7], bytes := cocoonT }

theorem test_witness_CocoonsAreStored :
    (let c := { cmdT 0x40 with sel := 0x80, data := some cocoonT, len := 4176 }
     let s := storeT .passage
     IsCmd c 0x40 ∧ s.mgr.mode ∈ moundStates ∧ s.fit.maskOk c.sel = true ∧ c.data = some cocoonT ∧ cocoonT.length = c.len ∧
       s.cocoonInUse (fieldLE cocoonT 0x10 8) = false ∧ ∀ k ∈ maskList c.sel, s.storeRoom k c.len = true) ∧
    (let s := (storeT .loaded).updMound fun m => { m with stores := [storeCmd] }
     s.mound.stores.find? (fun y => y.id == 77) = some storeCmd ∧ s.paused storeCmd.sleds = false) ∧
    (let c := { cmdT 0x49 with sel := 0x80, id := 77 }
     let s := storeT .loaded
     IsCmd c 0x49 ∧ s.mgr.mode ∈ moundStates ∧ s.fit.maskOk c.sel = true ∧ s.cocoonInUse c.id = false ∧
       ∃ k ∈ maskList c.sel, ∃ y ∈ (s.hub k).store, y.id = c.id) ∧
    (let c := { cmdT 0x47 with data := some (leBytes 1952 0) }
     let s := at_ .service
     IsCmd c 0x47 ∧ s.mgr.mode = .service ∧ s.fit.sig = true ∧ c.fromScarab = false ∧ c.data = some (leBytes 1952 0) ∧
       (leBytes 1952 0).length = 1952 ∧ ((∃ p ∈ s.owners.pubkeys, p.1 = keyId (leBytes 1952 0)) ∨ s.owners.pubkeys.length < 16)) ∧
    (IsCmd (cmdT 0x48) 0x48 ∧ (cmdT 0x48).fromScarab = false) := by
  unfold IsCmd
  refine ⟨⟨by decide, by decide, by decide, rfl, ?_⟩, ⟨rfl, by decide⟩, by decide, ⟨by decide, by decide, by decide, by decide, rfl, ?_⟩, by decide⟩ <;>
    decide +kernel

/-- The load of that cocoon, with its one chunk passed or not. -/
def mloadT (passed : List (Nat × Nat)) : MLoad :=
  { cmd := cmdT 0x41, obj := 4095, owner := 1, cocoon := 77, kind := 0, digest := 0, base := 0, objLen := 64, workers := [0]
    header := cocoonT.take 336, chunks := [[0, 64, 0, 4096]], hashes := [0], fromFlash := false, rewrites := [], passed := passed, done := [] }
def loadingT (passed : List (Nat × Nat)) : State :=
  (moundT (objT 1 false)).updMound fun m => { m with loads := [mloadT passed] }

theorem test_witness_CocoonsAreLoaded :
    (let c := { cmdT 0x41 with unit := 4095, aux := 1, len := 4176, count := 1, data := some cocoonT, data2 := some (leBytes 2 0) }
     let s := moundT (objT 6 false)
     IsCmd c 0x41 ∧ s.mgr.mode ∈ moundStates ∧ c.sel ≤ 1 ∧ c.unit < 4096 ∧ c.aux < 256 ∧ c.listOk = true ∧ c.data.isSome = true ∧
       (s.cocoonBytes c).length = c.len ∧ firstFail (s.loadChecks c) = none ∧
       (s.placeLanes (s.cocoonBytes c) c.aux c.unit c.workers.zipIdx).2 = none) := by unfold IsCmd; decide +kernel

theorem test_witness_CocoonsAreLoaded_chunks :
    (let s := loadingT []
     let o := (s.worker 0).objs.get MObj.init 4095
     s.mound.loads.find? (fun x => x.workers.contains 0 && decide (0 < x.chunks.length) &&
         x.workers[(x.chunks.getD 0 []).getD 0 0]? == some 0) = some (mloadT []) ∧ (mloadT []).obj = 4095 ∧ s.moves 0 = true ∧ o.state = 1 ∧
       (0, 0) ∉ (mloadT []).passed ∧ (s.worker 0).runLost 4095 o = false ∧ (s.worker 0).runFree 4095 o = true ∧ s.fit.sig = false ∧
       ((s.worker 0).slot (mloadT []).owner).secret = 0 ∧
       ((s.updWorker 0 fun x => { x with keys := ⟨[(1, ⟨true, 3, 1⟩)]⟩ }).worker 0 |>.slot (mloadT []).owner).secret = 1 ∧
       ({ s with fit := { s.fit with sig := true } } : State).fit.sig = true) ∧
    (let l := { mloadT [] with cmd := { cmdT 0x41 with data := some cocoonT } }
     let s := (moundT (objT 1 false)).updMound fun m => { m with loads := [l] }
     s.chunkBytes l 0 0 = chunkT ∧ ({ s with mound := { s.mound with loads := [mloadT []] } } : State).chunkBytes (mloadT []) 0 0 = []) ∧
    openChunk (cocoonT.take 336) (List.replicate 32 0) 0 [] = none := by decide +kernel

theorem test_witness_CocoonsAreLoaded_lanes :
    (let s := loadingT [(0, 0)]
     let o := (s.worker 0).objs.get MObj.init 4095
     s.loadOn 0 4095 = some (mloadT [(0, 0)]) ∧ s.moves 0 = true ∧ o.state = 1 ∧ (s.worker 0).runFree 4095 o = true ∧
       (∀ n, n < (mloadT [(0, 0)]).chunks.length → ((mloadT [(0, 0)]).chunks.getD n []).getD 0 0 = o.lane → (0, n) ∈ (mloadT [(0, 0)]).passed) ∧
       (mloadT [(0, 0)]).done = []) ∧
    (let l := { mloadT [(0, 0)] with workers := [0, 1], done := [1] }
     let s := (moundT (objT 1 false)).updMound fun m => { m with loads := [l] }
     s.loadOn 0 4095 = some l ∧ (∀ v ∈ l.workers, v ∈ l.done ++ [0]) ∧ ∃ v ∈ l.workers, v ≠ 0 ∧ v ∈ l.done ∧ (s.worker v).objs.get? 4095 = none) := by
  decide +kernel

/-- A Mound command for the object on worker 0. -/
def mcmdT (op : Nat) : Cmd := { cmdT op with unit := 4095, count := 1, data2 := some (leBytes 2 0) }

/-- That machine with a share of two pages. -/
def shareT (o : MObj) : State := (moundT o).updHub 0 fun h => { h with regions := [⟨0, 0, 3, 0, 0, 8192, []⟩, ⟨0, 1, 3, 0, 0, 8192, []⟩] }

theorem test_witness_MoundPromotes : ((shareT (objT 3 true)).promoteLanes 4095 (mcmdT 0x42).workers.dedup).2 = true := by
  have hw : (mcmdT 0x42).workers.dedup = [0] := by decide +kernel
  have hs : ∀ s : State, s.shares 0 = ((shareT (objT 3 true)).shares 0) → (s.worker 0).spans false = [] → (s.seek 0 1).2 = some 0 := by
    intro s h1 h2
    have h3 : (shareT (objT 3 true)).shares 0 = (some ⟨0, 0, 3, 0, 0, 8192, []⟩, some ⟨0, 1, 3, 0, 0, 8192, []⟩) := by decide +kernel
    unfold State.seek
    simp only [h1, h3]
    unfold primaryRoom
    simp [h2, firstFit, sharePages]
  rw [hw]
  have := hs ((shareT (objT 3 true)).updWorker 0 fun x => { x with objs := x.objs.set 4095 { objT 3 true with state := 5, toFirst := noRun } })
    (by decide +kernel) (by decide +kernel)
  unfold State.promoteLanes
  have ho : ((shareT (objT 3 true)).worker 0).objs.get MObj.init 4095 = objT 3 true := by decide +kernel
  simp only [ho]
  rcases h : ((shareT (objT 3 true)).updWorker 0 fun x =>
    { x with objs := x.objs.set 4095 { objT 3 true with state := 5, toFirst := noRun } }).seek 0 (objT 3 true).pages with ⟨s1, r⟩
  have hr : r = some 0 := by rw [← this]; exact (congrArg Prod.snd h).symm
  subst hr
  simp [State.promoteLanes]

theorem test_witness_ObjectsMoveAndArePinned :
    (let s := shareT (objT 3 true)
     let c := mcmdT 0x42
     c.unit < 4096 ∧ c.listOk = true ∧ c.workers ≠ [] ∧ s.mgr.mode ∈ moundStates ∧ IsCmd c 0x42 ∧
       ∀ v ∈ c.workers, s.moundBusy v = false ∧ ((s.worker v).objs.get MObj.init c.unit).state = 3) ∧
    (let s := moundT { objT 4 false with pend := 65534 }
     IsCmd (mcmdT 0x43) 0x43 ∧ ∀ v ∈ (mcmdT 0x43).workers, ((s.worker v).objs.get MObj.init 4095).atPrimary = true ∧
       (((s.worker v).objs.get MObj.init 4095).pins : Int) + ((s.worker v).objs.get MObj.init 4095).pend < 65535) ∧
    (let s := moundT { objT 2 false with hostPins := 1 }
     IsCmd (mcmdT 0x44) 0x44 ∧ ∀ v ∈ (mcmdT 0x44).workers,
       0 < (((s.worker v).objs.get MObj.init 4095).hostPins : Int) + ((s.worker v).objs.get MObj.init 4095).pend) ∧
    (let s := moundT (objT 6 false)
     IsCmd (mcmdT 0x45) 0x45 ∧ ∀ v ∈ (mcmdT 0x45).workers, ((s.worker v).objs.get? 4095).isSome = true ∧
       ((s.worker v).objs.get MObj.init 4095).pins = 0 ∧ ((s.worker v).objs.get MObj.init 4095).pend ≤ 0 ∧
       ((s.worker v).objs.get MObj.init 4095).state ≠ 1 ∧ s.loadOn v 4095 = none) ∧
    (let c := { mcmdT 0x46 with id := 240 }; IsCmd c 0x46 ∧ (at_ .limp).fit.workerOk c.id = true ∧ (at_ .limp).mgr.mode ∈ everyState) ∧
    (let s := moundT (objT 4 false)
     (s.worker 0).objs.get? 4095 = some (objT 4 false) ∧ s.moves 0 = true ∧ (objT 4 false).state = 4 ∧ (objT 4 false).pins = 0 ∧
       (objT 4 false).pend ≤ 0 ∧ (s.copyErrors 0 (objT 4 false) []).2 = false ∧
       ((shareT (objT 4 false)).copyErrors 0 (objT 4 false) [(63, 4)]).2 = true) ∧
    (let s := moundT (objT 5 true)
     (s.worker 0).objs.get? 4095 = some (objT 5 true) ∧ s.moves 0 = true ∧
       (s.worker 0).runLost 4095 { objT 5 true with first := 0, secondary := false } = false ∧
       (s.worker 0).runFree 4095 { objT 5 true with first := 0, secondary := false } = true ∧ (s.copyErrors 0 (objT 5 true) []).2 = false ∧
       ((shareT (objT 5 true)).copyErrors 0 (objT 5 true) [(0, 5)]).2 = true) ∧
    ((moundT { objT 6 false with hostPins := 1, pend := -1 }).worker 0).objs.get? 4095 = some { objT 6 false with hostPins := 1, pend := -1 } ∧
    ((moundT { objT 4 false with jobPins := 1 }).worker 0).objs.get? 4095 = some { objT 4 false with jobPins := 1 } := by
  unfold IsCmd; decide +kernel

theorem test_witness_BoardLinksLeadToPeers :
    Fit.full16.siteOk (siteOf 240) = true ∧ 15 ≤ Fit.full16.sites - 2 ∧ siteOf 240 = 16 ∧ siteOf 224 = 0 ∧ Fit.full16.siteOk (siteOf 224) = true := by
  decide

/-- A DATA flit of flow or circuit 5, and the machine whose worker 1 receives on board link 15 and on optical port 3. -/
def flitT : Flit := { typ := 1, id := 5, cred := 2, arg := 0x4000, payload := List.replicate 256 7, dark := false }
def recvT : State :=
  let s := busyT.updWorker 1 fun x =>
    { x with pwr := 4095, links := ⟨[(15, { Link.init with up := true })]⟩, ports := ⟨[(3, { Port.init with rx := some 5 })]⟩ }
  s.updCirc 5 fun c => { c with state := 3, src := 0, dst := 409, window := 4, credit := 3 }

/-- That machine with a flit on worker 0's board link to worker 1, or on circuit 5. -/
def onLinkT (f : Flit) : State := recvT.updWorker 0 fun x => { x with links := ⟨[(0, { Link.init with up := true, wire := [f] })]⟩ }
def onCircT (f : Flit) : State := recvT.updCirc 5 fun c => { c with wire := [f] }

/-- R200, R202: a flit arrives as it was sent, one wrong byte in it is corrected, four in one codeword are not. -/
theorem test_flit_received :
    flitT.received [] = (0, flitT) ∧ flitT.received [(263, 1)] = (1, flitT) ∧ (flitT.received [(8, 1), (10, 1), (12, 1), (14, 1)]).1 = 2 ∧
    ({ flitT with dark := true }.received []).1 = 2 := by decide +kernel

theorem test_witness_FlitsAndCredits :
    (let s := onLinkT flitT
     s.workerUp 1 = true ∧ 15 < s.fit.links ∧ (s.worker 1).powered 11 = true ∧ ((s.worker 1).link 15).up = true ∧ s.nextOnLink 1 15 = flitT ∧
       flitT.typ = 1 ∧ s.fit.linkPeer 1 15 = (0, 0) ∧ (s.flush 1 8127).flowOn 0 1 flitT.id = true ∧
       ((s.flush 1 8127).hub (sledOf 1)).started = true ∧ ((s.flush 1 8127).worker 1).physOf (flitT.arg / 2 ^ 16 % 64) = some 0 ∧
       dataBase ≤ flitT.arg % 2 ^ 16 * 64 ∧ flitT.arg % 2 ^ 16 * 64 + 256 ≤ 0x400000 ∧ 1 ∈ (s.flush 1 8127).linkUsers 1 15 ∧
       (s.flush 1 8127).groupRuns 1 = true) ∧
    ((onLinkT { flitT with dark := true }).nextOnLink 1 15).typ = 1 ∧
    (let s := onLinkT { flitT with id := 6 }
     (s.nextOnLink 1 15).typ = 1 ∧ ((s.nextOnLink 1 15).received []).1 ≠ 2 ∧ ((s.nextOnLink 1 15).received []).2.typ = 1 ∧
       (s.flush 1 0).flowOn 0 1 6 = false) ∧
    (let s := onCircT flitT
     3 < 4 ∧ (s.worker 1).powered (9 + 3 / 2) = true ∧ ((s.worker 1).port 3).loopback = false ∧ (s.circ 5).wire.headD (s.portFiller 5) = flitT ∧
       ((s.flush 1 0).circ 5).state ≠ 4 ∧ ((s.flush 1 0).worker 1 |>.port 3).rx = some flitT.id ∧ ((s.flush 1 0).circ flitT.id).rxLive = true ∧
       ((s.flush 1 0).hub (sledOf 1)).started = true) ∧
    (((onCircT flitT).updCirc 5 fun c => { c with state := 4 }).flush 1 0 |>.circ 5).state = 4 ∧
    (let s := recvT.updCirc 5 fun c => { c with inRet := 1 }
     (s.circ 5).window ≠ 0 ∧ (s.circ 5).credit < (s.circ 5).window ∧ 0 < (s.circ 5).inRet) ∧
    (let s := recvT.updCirc 5 fun c => { c with fly := 1 }; (s.circ 5).inRet = 0 ∧ 0 < (s.circ 5).fly ∧ (s.circ 5).occ = 0) ∧
    (let s := recvT.updCirc 5 fun c => { c with fly := 1, occ := 1 }; (s.circ 5).inRet = 0 ∧ 0 < (s.circ 5).occ) ∧
    (let s := recvT.updCirc 5 fun c => { c with credit := 4 }; (s.circ 5).window ≠ 0 ∧ (s.circ 5).window ≤ (s.circ 5).credit) := by
  decide +kernel

/-- Circuit 5 with a tear. -/
def tearT (z : Tear) : State := recvT.updCirc 5 fun c => { c with state := 6, tear := some z }
def tear0 : Tear :=
  { src := 0, dst := 409, cause := 1, frame := 3, txDone := false, rxDone := false, txLeft := 0, rxLeft := 0, txSettled := false, rxSettled := false, reported := false }

/-- The pair of workers 0 and 1, whose link books are given. -/
def pairLinkT (x y : Link) : State :=
  (recvT.updWorker 0 fun w => { w with links := ⟨[(0, x)]⟩ }).updWorker 1 fun w => { w with links := ⟨[(15, y)]⟩ }
def tornLink (settled : Bool) : Link := { Link.init with torn := true, cause := 7, settled := settled, downFor := 64 }

theorem test_witness_WiresAreTorn :
    (let s := (tearT tear0).updMgr fun m => { m with frame := 3 }
     (s.circ 5).tear = some tear0 ∧ tear0.txDone = false ∧ tear0.rxDone = false ∧ tear0.frame ≤ s.mgr.frame ∧ s.tornEnd 5 false = (0, 0) ∧
       s.tornEnd 5 true = (1, 3)) ∧
    (let z := { tear0 with txDone := true, rxDone := true }
     ((tearT z).circ 5).tear = some z ∧ z.txDone = true ∧ z.txSettled = false ∧ z.txLeft = 0 ∧ z.rxDone = true ∧ z.rxSettled = false ∧
       z.rxLeft = 0 ∧ (tearT z).inSeam ((tearT z).tornEnd 5 false).1 = true ∧ (tearT z).inSeam ((tearT z).tornEnd 5 true).1 = true) ∧
    (let z := { tear0 with txSettled := true, rxSettled := true }
     ((tearT z).circ 5).tear = some z ∧ z.txSettled = true ∧ z.rxSettled = true ∧ z.reported = false) ∧
    recvT.fit.linkPeer 0 0 = (1, 15) ∧
    (let s := pairLinkT { Link.init with up := true } { Link.init with up := true }
     s.workerUp 0 = true ∧ 0 < s.fit.links ∧ ((s.worker 0).link 0).up = true ∧ 1 ∈ s.linkUsers 0 0 ∧ s.groupRuns 1 = true) ∧
    (let s := pairLinkT (tornLink false) (tornLink false)
     ((s.worker 0).link 0).torn = true ∧ ((s.worker 0).link 0).settled = false ∧ s.inSeam 0 = true ∧ s.inSeam 1 = true) ∧
    (let s := pairLinkT (tornLink true) (tornLink true)
     ((s.worker 0).link 0).torn = true ∧ ((s.worker 0).link 0).settled = true ∧ ((s.worker 1).link 15).torn = true ∧
       ((s.worker 1).link 15).settled = true ∧ s.workerUp 1 = true ∧ ((s.worker 0).link 0).up = false ∧ (s.worker 0).powered 11 = true ∧
       (s.worker 1).powered 11 = true ∧ ((s.worker 0).link 0).cause = 7 ∧ 64 ≤ ((s.worker 0).link 0).downFor ∧
       (s.flowsOf 0 0).length = 1) := by decide +kernel

/-- An L-port that a search has found as planned, with a valid leg. -/
def portT : LPort := { LPort.init with searched := true, legValid := true, leg := 10 }

/-- Circuit 5 being set up between L-ports 0 and 409. -/
def setupT (f : Circ → Circ) : State :=
  let s := (recvT.updLPort 0 fun _ => portT).updLPort 409 fun _ => portT
  (s.updCirc 5 fun c => f { c with state := 1, setupAt := 3, budget := 30 }).updMgr fun m => { m with frame := 19 }

theorem test_witness_CircuitsAreRanged :
    (let s := setupT fun c => { c with samples := [1, 2, 3] }
     (s.circ 5).state = 1 ∧ (s.circ 5).rejected = false ∧ (s.circ 5).samples.length < 4 ∧ (s.circ 5).setupAt + 12 ≤ s.mgr.frame ∧
       (s.circ 5).sampledAt ≤ s.mgr.frame ∧ 1024 + 1024 ≤ 2048 ∧ (s.circ 5).samples.length = 3 ∧ (s.lport (s.circ 5).src).legValid = true ∧
       (s.lport (s.circ 5).dst).legValid = true) ∧
    (let s := setupT fun c => { c with samples := [1, 2], retakes := 3 }
     (s.circ 5).samples.length < 3 ∧ ¬(s.circ 5).retakes < 3 ∧ 2047 < 1024 + 1024) ∧
    (let s := setupT fun c => { c with samples := [1, 2, 3, 4] }
     (s.circ 5).state = 1 ∧ (s.circ 5).rejected = false ∧ s.lportConfirmed (s.circ 5).src = true ∧ s.lportConfirmed (s.circ 5).dst = true ∧
       (s.circ 5).samples.length = 4 ∧ (s.circ 5).setupAt + 16 + (s.circ 5).retakes ≤ s.mgr.frame ∧ 400 ≤ 400 + 100 * (s.circ 5).qclass ∧
       s.unsettledOn 5 (s.circ 5).src false = false ∧ s.unsettledOn 5 (s.circ 5).dst true = false) ∧
    (let s := setupT fun c => { c with due := 19 }; 400 + 100 * (s.circ 5).qclass < 401 ∧ (s.circ 5).due ≤ s.mgr.frame) ∧
    (let s := setupT fun c => { c with rejected := true }; (s.circ 5).state = 1 ∧ (s.circ 5).rejected = true) := by decide +kernel

/-- A search in the state given, in Quiescent. -/
def seekT (f : Search → Search) : State := (at_ .quiescent).updSearch fun x => f { x with on := true }
def seenT (taps : List (Nat × List Int)) : RoundSeen := { sniffed := [(0, 543)], heard := [(543, 2 ^ 39 + 543)], taps := taps }
def legT : LegMeas := { q := 543, trips := [(0, 0), (0, 131171 * 1024)], seg1 := 60, seg2 := 40 }

/-- L-port 0 in a one-port check that began in frame 3. -/
def checkT (repeats : Nat) : State :=
  ((at_ .service).updLPort 0 fun x => { x with checkDue := some 2, checkRun := some 3, repeats := repeats }).updMgr fun m => { m with frame := 23 }

theorem test_witness_CablingIsSearched :
    (let s := at_ .quiescent
     IsCmd (cmdT 0x63) 0x63 ∧ s.mgr.mode = .quiescent ∧ s.fit.lacewing = true ∧ s.search.on = false ∧ s.checkRunning = false) ∧
    (let x := (seekT fun x => { x with todo := [543], means := ⟨[(5, 0)]⟩ }).search
     x.on = true ∧ x.legPass = false ∧ x.todo ≠ [] ∧ x.left = 0 ∧ tapJumps (x.means.get? 5) [301] = true ∧
       tapJumps (x.means.get? 5) [300] = false) ∧
    (let x := (seekT fun x => { x with pass := 2, marked := [3] }).search
     x.on = true ∧ x.legPass = false ∧ x.todo = [] ∧ x.marked ≠ [] ∧ x.pass < 3) ∧
    (let x := (seekT fun x => { x with pass := 3, marked := [3] }).search; x.on = true ∧ x.legPass = false ∧ x.todo = [] ∧ 3 ≤ x.pass) ∧
    (let s := (seekT fun x => { x with legPass := true, legTodo := [543] }).updTile 34 fun x =>
       { x with cal := { x.cal with inForce := [{ kind := 6, flags := 0, index := 0, length := 0, gen := 0, check := 0, payload := [] }] } }
     s.search.on = true ∧ s.search.legPass = true ∧ s.search.legTodo ≠ [] ∧ s.search.left = 0 ∧
       (s.search.legTodo.take s.fit.legSize).Nodup ∧ (s.search.legTodo.take s.fit.legSize)[0]? = some 543 ∧
       [legT].find? (fun m => m.q == 543) = some legT ∧ roundTripOf legT = some 131171 ∧ legT.seg1 + legT.seg2 + s.reflectorConst 0 ≤ 131171 ∧
       (131171 - (legT.seg1 + legT.seg2 + s.reflectorConst 0)) / 2 ≤ 65535) ∧
    (let s := checkT 2
     (s.lport 0).checkRun = some 3 ∧ s.mgr.mode.checks = true ∧ 3 + 20 ≤ s.mgr.frame ∧
       ¬((s.lport 0).changed = true ∨ ∃ t ∈ (seenT [(0, [0, 300])]).taps, t.1 = 0 ∧ tapJumps none t.2 = true) ∧
       ((s.reclassed 0 []).map (·.1)).Nodup ∧
       (∃ t ∈ (seenT [(0, [0, 301])]).taps, t.1 = 0 ∧ tapJumps none t.2 = true) ∧ (s.lport 0).repeats < 3) ∧
    (let s := checkT 3; (s.lport 0).checkRun = some 3 ∧ 3 ≤ (s.lport 0).repeats) := by unfold IsCmd; decide +kernel

theorem test_witness_InterlockActs :
    (let s := recvT; s.mgr.mode ≠ .off ∧ s.fit.lportOk 409 = true ∧ (s.lport 409).contact = true ∧ (s.circ 5).standing = true ∧ (s.circ 5).dst = 409) ∧
    (recvT.fit.lacewing = true ∧ recvT.workerUp 1 = true ∧ 3 < 4 ∧ ((recvT.worker 1).port 3).contact = true) ∧
    (recvT.fit.moduleOk 34 = true ∧ 15 < 16) ∧
    (let s := (at_ .quiescent).updModule 34 fun x => { x with glow := 2 ^ 15 }
     s.fit.moduleOk 34 = true ∧ (s.module 34).glow.testBit 15 = true ∧ s.glowClear 34 15 = true) ∧
    (feedOf 543 ≠ none ∧ feedOf (recvT.fit.lportOf 1 3) ≠ none ∧ feedOf 544 = none) ∧
    (let s := (at_ .quiescent).updLPort 543 fun x => { x with contact := false }
     s.mgr.mode ≠ .off ∧ s.fit.lportOk 543 = true ∧ (s.lport 543).contact = false ∧ s.search.on = false ∧ 543 < s.fit.workerPorts ∧
       (s.lport 543).checkRun = none) ∧
    (let s := (at_ .quiescent).updLPort 543 fun x => { x with contact := false, checkRun := some 1 }
     (s.lport 543).contact = false ∧ (s.lport 543).checkRun.isSome = true) := by
  decide +kernel

/-- Sled 0 with its spare in a phase for site 3, one frame late, in a frame. -/
def spareT (phase : Nat) (copied : Bool) (frame : Nat) : State :=
  ((storeT .running).updHub 0 fun h =>
    { h with spare := { inUse := false, site := 3, phase := phase, since := 10, late := 1, copied := copied } }).updMgr fun m => { m with frame := frame }

/-- Its object 9, resident on worker 3, with its cocoon in the store of sled 0 or not. -/
def reloadT (store : List StoredCocoon) : State :=
  ((spareT 2 true 900).updHub 0 fun h => { h with store := store }).updWorker 3 fun x => { x with objs := ⟨[(9, objT 2 false)]⟩ }

theorem test_witness_WorkersAreReplaced :
    (let s := (at_ .bringUp); s.workerUp 240 = true ∧ s.mgr.mode ≠ .off) ∧
    (let s := [16, 152, 288, 424].foldl (fun (s : State) q => s.updLPort q fun _ => portT) (at_ .running)
     s.workerUp 3 = true ∧ siteOf 3 ≠ 16 ∧ s.spareFree (sledOf 3) = true) ∧
    (let s := spareT 1 false 832
     let sp := (s.hub 0).spare
     sp.phase = 1 ∧ sp.copied = false ∧ s.paused [0] = false ∧ s.workerUp (workerCode 0 16) = true ∧ sp.since + sp.late + 821 ≤ s.mgr.frame ∧
       (((s.updHub 0 fun h => { h with stash := [{ w := 3, id := 7, binds := [], regions := [] }] }).hub 0).stash.find? fun x =>
         x.w == workerCode 0 sp.site).isSome = true) ∧
    (let s := spareT 1 true 834
     let sp := (s.hub 0).spare
     sp.phase = 1 ∧ sp.copied = true ∧ s.workerUp (workerCode 0 16) = true ∧ sp.since + sp.late + 823 ≤ s.mgr.frame) ∧
    (let s := (spareT 1 false 11).updWorker (workerCode 0 16) fun x => { x with failed := true }
     (s.hub 0).spare.phase = 1 ∧ s.workerUp (workerCode 0 16) = false) := by
  decide +kernel

theorem test_witness_WorkersAreReplaced_reload :
    (let s := reloadT [{ id := 77, bytes := cocoonT }]
     (s.hub 0).spare.phase = 2 ∧ (s.hub 0).spare.site ≠ 16 ∧ s.moves (workerCode 0 16) = true ∧
       (s.worker (workerCode 0 3)).objs.get? 9 = some (objT 2 false) ∧
       ((s.hub 0).store.any fun c => c.id == (objT 2 false).cocoon) = true ∧ (objT 2 false).state ≠ 1 ∧
       ((s.updWorker 3 fun x => { x with objs := x.objs.erase 9 }).reloadLane 240 (objT 2 false) (s.stored 0 77)).isSome = true) ∧
    (let s := reloadT []
     (s.worker (workerCode 0 3)).objs.get? 9 = some (objT 2 false) ∧
       ((s.hub 0).store.any fun c => c.id == (objT 2 false).cocoon) = false) ∧
    (let s := reloadT [{ id := 77, bytes := [] }]
     ((s.updWorker 3 fun x => { x with objs := x.objs.erase 9 }).reloadLane 240 (objT 2 false) (s.stored 0 77)).isNone = true) := by
  decide +kernel

/-- A planner in a state, with an empty plan for a restore. -/
def planT : Plan :=
  { kind := 2, unit := 36, circs := [], asked := [], middles := [], ends := [], elems := [], report := [], quiet := false, status := 0 }
def planReqT : PlanReq := { kind := 2, unit := 36, circs := [], auto := false, quiet := false, since := 3, cmd := some { cmdT 0x60 with data2 := some [] } }
def planS (st : Nat) : State :=
  ((at_ .loaded).updPlane fun p => { p with st := st, ticket := 4, plan := some planT, planAt := 3, req := some planReqT }).updMgr fun m =>
    { m with frame := 67 }

theorem test_witness_PlansAreMadeAndCommitted :
    (let c := { cmdT 0x60 with unit := 67 }
     let s := (at_ .running).updTile 67 fun x => { x with evacuated := true }
     IsCmd c 0x60 ∧ s.mgr.mode = .running ∧ s.fit.lacewing = true ∧ s.plane.st = 0 ∧ c.count = 0 ∧ isMiddle c.unit = true ∧
       s.fit.tileOk c.unit = true ∧ c.sel = 0 ∧ { c with sel := 1 }.sel = 1 ∧ { c with sel := 2 }.sel = 2 ∧ c.data = none ∧
       (s.tile c.unit).evacuated = true) ∧
    (let c := { cmdT 0x60 with unit := 0xFFFF, count := 1, data := some (leBytes 2 4095) }
     0 < c.count ∧ c.count ≤ 4096 ∧ c.unit = 0xFFFF ∧ c.data = some (leBytes 2 4095) ∧ (leBytes 2 4095).length = 2 * c.count ∧ idsOk c = true) ∧
    (let s := planS 1
     s.plane.req = some planReqT ∧ s.plane.st = 1 ∧ s.planWaits planReqT = false ∧ planReqT.kind ≠ 4 ∧ planReqT.auto = false ∧
       planReqT.cmd = some { cmdT 0x60 with data2 := some [] } ∧ { cmdT 0x60 with data2 := some [] }.data2.isSome = true) ∧
    (let s := planS 2
     let c := { cmdT 0x61 with id := 4 }
     s.plane.st = 2 ∧ s.plane.planAt + 64 ≤ s.mgr.frame ∧ IsCmd c 0x61 ∧ s.mgr.mode = .loaded ∧ s.fit.lacewing = true ∧ s.plane.ticket = c.id ∧
       s.plane.stamp = s.plane.planStamp ∧ s.plane.plan = some planT ∧ IsCmd { cmdT 0x62 with id := 4 } 0x62) ∧
    (let s := ((at_ .passage).updPlane fun p => { p with autos := [planReqT] })
     s.plane.autos = planReqT :: [] ∧ s.plane.st ≠ 3 ∧ s.plane.req = none ∧ s.plane.st ≠ 1 ∧ s.mgr.mode = .passage) ∧
    (let s := (planS 1).updPlane fun p => { p with autos := [planReqT] }
     s.plane.autos = planReqT :: [] ∧ s.plane.st = 1 ∧ s.plane.req = some planReqT ∧ planReqT.auto = false) := by
  unfold IsCmd; decide +kernel

/-- A plane with an operation whose next wave is given: circuit 5 is set up in it, and one element of tile 0 changes. -/
def opS (wave : Nat) (auto : Bool) : PlaneOp :=
  { commit := 10, wave := wave, plan := planT, pendingElems := [(wave, 0, 4, { st := 1, codeA := 0, codeB := 0 })], waveOf := [(5, wave)], cmd := none
    auto := auto }
/-- The same, whose plan was also asked for circuit 6 and does not set it up. -/
def opDownT : PlaneOp := { opS 0 true with plan := { planT with asked := [6] } }
def waveS (wave : Nat) (auto : Bool) (frame : Nat) : State :=
  ((at_ .loaded).updPlane fun p => { p with ops := [opS wave auto] }).updMgr fun m => { m with frame := frame }

/-- A wave that moves circuit 5, which is live, with a hit. -/
def hitS : State :=
  ((waveS 0 false 10).updPlane fun p =>
    { p with ops := [{ opS 0 false with plan := { planT with report := [⟨5, 12, 1, 0, true⟩] } }] }).updCirc 5 fun c => { c with state := 2 }

theorem test_witness_WavesAreApplied :
    (let s := waveS 3 true 298
     s.plane.ops.find? (fun q => q.wave == 3 && decide (3 < 4) && decide (q.commit + 96 * 3 ≤ s.mgr.frame)) = some (opS 3 true) ∧ 3 ≠ 0 ∧
       (5, 3) ∈ (opS 3 true).waveOf ∧ (s.circ 5).live = false ∧ (3, 0, 4, (⟨1, 0, 0⟩ : Elem)) ∈ (opS 3 true).pendingElems) ∧
    (let s := waveS 0 false 10
     s.plane.ops.find? (fun q => q.wave == 0 && decide (0 < 4) && decide (q.commit + 96 * 0 ≤ s.mgr.frame)) = some (opS 0 false) ∧
       (opS 0 false).auto = false) ∧
    (let s := waveS 0 true 10
     s.plane.ops.find? (fun q => q.wave == 0 && decide (0 < 4) && decide (q.commit + 96 * 0 ≤ s.mgr.frame)) = some (opS 0 true) ∧
       s.plane.stamp = s.plane.planStamp ∧
       (∀ c ∈ (opS 0 true).plan.asked, c ∈ (opS 0 true).plan.circs ∨ (s.circ c).standing = true ∨ (s.circ c).state = 5)) ∧
    (let s := (waveS 0 true 10).updPlane fun p => { p with ops := [opDownT] }
     s.plane.ops.find? (fun q => q.wave == 0 && decide (0 < 4) && decide (q.commit + 96 * 0 ≤ s.mgr.frame)) = some opDownT ∧
       6 ∈ opDownT.plan.asked ∧ 6 ∉ opDownT.plan.circs ∧ (s.circ 6).standing = false ∧ ∀ x ∈ opDownT.waveOf, x.1 ≠ 6) ∧
    (let s := (waveS 0 true 10).updPlane fun p => { p with stamp := p.planStamp + 1 }
     s.plane.ops.find? (fun q => q.wave == 0 && decide (0 < 4) && decide (q.commit + 96 * 0 ≤ s.mgr.frame)) = some (opS 0 true) ∧
       (opS 0 true).auto = true ∧ s.plane.stamp ≠ s.plane.planStamp) ∧
    ((hitS.circ 5).live = true ∧ hitS.plane.ops.map (fun o => o.plan.report.find? fun z => z.circuit == 5) = [some ⟨5, 12, 1, 0, true⟩]) ∧
    ((at_ .service).updMgr fun m => { m with parkDue := true }).mgr.parkDue = true := by decide +kernel

theorem test_witness_PlaneFaultsAreHandled :
    (let s := recvT; s.mgr.mode ≠ .limp ∧ (s.circ 5).live = true ∧ (s.circ 5).state = 3 ∧ 350 + 100 * (s.circ 5).qclass < 351) ∧
    (let s := recvT.updCirc 5 fun c => { c with state := 2, qclass := 3 }; (s.circ 5).live = true ∧ 700 + 100 * (s.circ 5).qclass < 1001) ∧
    ((recvT.circ 5).standing = true ∧ (recvT.circ 5).state ≠ 7 ∧ 1 ≤ 8 ∧ 8 ≤ 8 ∧ 100 < 300 ∧ 300 ≤ 300 ∧ 300 < 301) ∧
    (let s := recvT.updTile (recvT.segmentTile 5 8) fun x => { x with faultLog := [(0, 9)] }
     8 ≠ 3 ∧ 8 ≠ 6 ∧ s.fit.tileOk (s.segmentTile 5 8) = true ∧
       2 ≤ ((s.tile (s.segmentTile 5 8)).faultsWith s.mgr.frame 5).length) ∧
    (recvT.mgr.mode ≠ .off ∧ recvT.fit.tileOk 36 = true ∧ (recvT.tile 36).failed = false ∧ 5 ∈ recvT.tileCircs 36 ∧
      (recvT.circ 5).standing = true) ∧ (at_ .service).mgr.mode = .service ∧
    (let s := recvT
     s.fit.moduleOk 0 = true ∧ (s.module 0).failed = false ∧ 7 < 8 ∧ (s.module 0).live.testBit 7 = true ∧ (s.module 0).sparesFree = [8, 9] ∧
       s.laserBlind 0 7 1 = false ∧ s.laserBlind 0 7 2 = false ∧ fedBy 0 (s.circ 5).src = true) ∧
    (let s := recvT.updModule 0 fun x => { x with sub8 := 1, sub9 := 2 }; (s.module 0).sparesFree = [] ∧ s.laserBlind 0 7 1 = false) ∧
    (let s := recvT.updModule 0 fun x => { x with sparing := [⟨7, 9, 0⟩] }
     (s.module 0).sparing = ⟨7, 9, 0⟩ :: [] ∧ (s.circ 5).live = true ∧ fedBy 0 (s.circ 5).src = true ∧ (s.module 0).sparing ≠ [] ∧ (s.circ 5).tx7 = false ∧ (s.circ 5).rx7 = false) := by
  decide +kernel

/-- Circuit 5 is routed over element 0 of tile 0, whose heater cell 1 is given. -/
def cellT (c : Cell) (frame : Nat) : State :=
  (recvT.updTile 0 fun x => { x with elems := ⟨[(0, { st := 0, codeA := 0, codeB := 0 })]⟩, cells := ⟨[(1, c)]⟩ }).updMgr fun m => { m with frame := frame }

theorem test_witness_LoopCellsRun :
    (let s := cellT { Cell.init with mode := 3 } 5
     s.mgr.mode ≠ .off ∧ s.fit.engineOk (.tile 0) = true ∧ 1 < engineCells (.tile 0) ∧ (s.cell (.tile 0) 1).bumpless = none ∧
       (s.cell (.tile 0) 1).mode = 3) ∧
    (let s := recvT.updWorker 1 fun x => { x with cells := ⟨[(31, { Cell.init with mode := 4 })]⟩ }
     s.fit.engineOk (.ring 1) = true ∧ 31 < engineCells (.ring 1) ∧ s.workerUp 1 = true ∧ (s.cell (.ring 1) 31).mode = 4) ∧
    (let s := at_ .loaded; s.fit.engineOk (.module 34) = true ∧ 19 < engineCells (.module 34) ∧ (s.module 34).glowAll = false) ∧
    (let s := cellT { Cell.init with mode := 1, setupAt := 3 } 15
     s.loopsRun = true ∧ s.inSequence (.tile 0) 1 = true ∧ (s.cell (.tile 0) 1).mode = 1 ∧ (s.cell (.tile 0) 1).bumpless = none ∧
       (s.cell (.tile 0) 1).setupAt + 12 ≤ s.engineFrame (.tile 0)) ∧
    (let s := cellT { Cell.init with mode := 2, setupAt := 3 } 79
     s.loopsRun = true ∧ s.inSequence (.tile 0) 1 = true ∧ (s.cell (.tile 0) 1).mode = 2 ∧ (s.cell (.tile 0) 1).setupAt + 76 ≤ s.engineFrame (.tile 0)) ∧
    (let c := (cellT { Cell.init with mode := 3, within := 16 } 5).cell (.tile 0) 1; c.mode = 3 ∧ c.locked = false ∧ 16 ≤ c.within) ∧
    (let c := (cellT { Cell.init with mode := 3, locked := true, beyond := 16 } 5).cell (.tile 0) 1; c.mode = 3 ∧ c.locked = true ∧ 16 ≤ c.beyond) ∧
    (let s := cellT { Cell.init with mode := 2, cond := [0, 0, 0, 0, 8] } 5
     s.loopsRun = true ∧ (s.cell (.tile 0) 1).mode = 2 ∧ (s.cell (.tile 0) 1).reasons ≠ 0) ∧
    (let s := cellT { Cell.init with mode := 4, holdAt := some 3, retries := 2 } 67
     (s.cell (.tile 0) 1).holdAt = some 3 ∧ s.loopsRun = true ∧ (s.cell (.tile 0) 1).mode = 4 ∧ 3 + 64 ≤ s.engineFrame (.tile 0) ∧
       (s.cell (.tile 0) 1).retries < 3) := by decide +kernel

/-- A cell of tile 0 in TUNE. -/
def tuneT (frames : Nat) (changes : List Nat) : Tune :=
  { amp := 40, limit := 64, frames := frames, changes := changes, hi := 0, lo := 0, peaks := [4, 4, 4, 4], lastPos := true, since := 3, cmd := cmdT 0x73 }
def tuneS (z : Tune) : State := (at_ .service).updTile 0 fun x => { x with cells := ⟨[(1, { Cell.init with mode := 5, tune := some z })]⟩ }

theorem test_witness_CellsAreJudgedAndTuned :
    (let s := (at_ .loaded).updModule 0 fun x => { x with sensors := ⟨[(3, { Sensor.init with openRun := 2 })]⟩ }
     s.fit.engineOk (.module 0) = true ∧ ((s.sensors (.module 0)).get Sensor.init 3).isOpen = false ∧
       2 ≤ ((s.sensors (.module 0)).get Sensor.init 3).openRun ∧ laserCells (3 / 2) ≠ []) ∧
    (let s := (at_ .loaded).updTile 0 fun x => { x with therm := ⟨[(3, { Sensor.init with isOpen := true, okRun := 64 })]⟩ }
     s.fit.engineOk (.tile 0) = true ∧ ((s.sensors (.tile 0)).get Sensor.init 3).isOpen = true ∧
       64 ≤ ((s.sensors (.tile 0)).get Sensor.init 3).okRun) ∧
    (let s : State := { at_ .loaded with light := { Light.init with valid := true, lastCode := 2601 } }
     s.light.valid = true ∧ s.mgr.lbMode = false ∧ 2600 < s.light.lastCode) ∧
    (let s : State := { (at_ .loaded).updMgr (fun m => { m with lbMode := true }) with light := { Light.init with valid := true, noEdge := 391 } }
     s.light.valid = true ∧ s.mgr.lbMode = true ∧ 391 ≤ s.light.noEdge) ∧
    (let s := (at_ .loaded).updTile 103 fun x => { x with arm := true, trig := 2, therm := ⟨[(0, { Sensor.init with isOpen := true })]⟩ }
     s.fit.tileOk 103 = true ∧ (s.tile 103).arm = true ∧ (s.tile 103).postLeft = none ∧ (s.tile 103).triggered = true ∧ (s.tile 103).post = 0) ∧
    (let s := (at_ .loaded).updTile 103 fun x => { x with arm := true, trig := 2, post := 7, therm := ⟨[(0, { Sensor.init with isOpen := true })]⟩ }
     (s.tile 103).triggered = true ∧ (s.tile 103).post ≠ 0) ∧
    (let s := at_ .service
     let c := { cmdT 0x73 with unit := 0, count := 1, aux := 4000, limit := 1024, data := some (leBytes 2 1) }
     IsCmd c 0x73 ∧ s.mgr.mode = .service ∧ s.cmdEngine c = some (.tile 0) ∧ c.count ≤ 64 ∧ 1 ≤ c.aux ∧ c.aux ≤ 4000 ∧ 64 ≤ c.limit ∧
       c.limit ≤ 1024 ∧ c.data = some (leBytes 2 1) ∧ (leBytes 2 1).length = 2 * c.count ∧
       ∀ g ∈ list16 (leBytes 2 1), g < engineCells (.tile 0) ∧ s.cellInUse (.tile 0) g = false) ∧
    (let z := tuneT 64 [5, 4]; ((tuneS z).cell (.tile 0) 1).tune = some z ∧ z.limit ≤ z.frames ∧ z.changes.length < 6) ∧
    (let z := tuneT 64 [60, 50, 40, 30, 20, 5]
     ((tuneS z).cell (.tile 0) 1).tune = some z ∧ z.limit ≤ z.frames ∧ periodsAgree ((tunePeriods z.changes).take 4) = false) ∧
    (let z := tuneT 60 [60, 50, 40, 30, 20, 10]
     ((tuneS z).cell (.tile 0) 1).tune = some z ∧ 6 ≤ z.changes.length ∧ periodsAgree ((tunePeriods z.changes).take 4) = true ∧
       0 < ((z.peaks.take 4).map fun a => a.natAbs).sum) := by unfold IsCmd; decide +kernel

/-- A LOOPDEF record for cell 0, all zero, and its CRC-32C computed outside the model. -/
def recT (check : Nat) : CalRec := { kind := 10, flags := 0, index := 0, length := 48, gen := 0, check := check, payload := leBytes 48 0 }
def recordT (kind check : Nat) : List Byte := leBytes 4 kind ++ leBytes 4 48 ++ leBytes 4 0 ++ leBytes 4 check ++ leBytes 48 0

/-- What a factory calibration of a ring engine measures: for each cell an offset, and a gain whose noise is `sigma`. -/
def ringMeas (sigma : Nat) : List RecMeas :=
  (List.range 32).map fun h => { kind := 9, index := h, fields := (List.range 7).map fun p => { field := 1, point := p, raw := .value 6400 1 sigma } }

/-- The ring engine of worker 0 with its factory set not sealed, in Service. -/
def openCalT : State := (at_ .service).updWorker 0 fun x => { x with cal := { Cal.init with sealed := false, pending := true } }
def facT : Cmd := { cmdT 0x70 with unit := 0x8000 }

def verT (start window : Option Nat) : Verify := { start := start, window := window, edgeWait := false, cmd := cmdT 0x72 }

theorem test_witness_CalibrationIsKept_factory :
    (let s := openCalT
     s.mgr.mode = .service ∧ s.cmdEngine facT = some (.ring 0) ∧ IsCmd facT 0x70 ∧ (s.cal (.ring 0)).sealed = false ∧
       s.partInUse (.ring 0) = false ∧ s.factoryPasses (.ring 0) (s.measured (.ring 0) (ringMeas 100)) = true ∧
       s.fit.engineOk (.ring 0) = true ∧ (s.cal (.ring 0)).pending = true) ∧
    (let s := openCalT
     s.factoryPasses (.ring 0) (s.measured (.ring 0) (ringMeas 101)) = false ∧ s.factoryPasses (.ring 0) (s.measured (.ring 0) []) = false) := by
  unfold IsCmd; decide +kernel

theorem test_witness_CalibrationIsKept :
    (let c := { cmdT 0x71 with count := 1, data := some (recordT 10 0x451FA1B6) }
     let s := at_ .service
     IsCmd c 0x71 ∧ 0 < c.count ∧ c.count ≤ 1024 ∧ c.data = some (recordT 10 0x451FA1B6) ∧ (recordT 10 0x451FA1B6).length = 64 * c.count ∧
       ∀ r ∈ calRecords c.count (recordT 10 0x451FA1B6), r.kind = 10 ∧ calReject 0 (.tile 0) (s.cal (.tile 0)).sealed r = none) ∧
    (∀ r ∈ calRecords 1 (recordT 9 0), r.kind ≠ 10) ∧ calReject 0 (.tile 0) true (recT 0x451FA1B6) = none ∧
    calReject 0 (.tile 0) true (recT 0) = some 1 ∧
    (let c := { cmdT 0x72 with unit := 103, window := 0xFF }
     let s := at_ .service
     IsCmd c 0x72 ∧ s.windowIndexOk c = true ∧ s.mgr.doze = none ∧ c.sel = 0 ∧ s.fit.lacewing = true ∧ c.unit < 104 ∧
       s.fit.tileOk c.unit = true ∧ (s.tile c.unit).verify = none ∧ isMiddle c.unit = false ∧ isMiddle 67 = true ∧ s.tileCircs 67 = []) ∧
    (let c := { cmdT 0x72 with sel := 1, unit := 543, window := 0xFF }
     let s := at_ .quiescent
     s.windowIndexOk c = true ∧ s.mgr.mode = .quiescent ∧ s.fit.lportOk c.unit = true ∧ c.unit < s.fit.workerPorts ∧
       (s.worker (s.endOf c.unit).1).verify.get? (s.endOf c.unit).2 = none) ∧
    (let s := (at_ .quiescent).updTile 67 fun x => { x with verify := some (verT none none) }
     (s.tile 67).verify = some (verT none none) ∧ s.verifyDue (verT none none) = true ∧ s.tileCircs 67 = []) ∧
    (let s := (recvT.updTile 36 fun x => { x with verify := some (verT none none) }).updMgr fun m => { m with mode := .loaded }
     (s.tile 36).verify = some (verT none none) ∧ s.verifyDue (verT none none) = true ∧ s.tileCircs 36 ≠ [] ∧ (verT none none).edgeWait = false) ∧
    (let s := (recvT.updWorker 1 fun x => { x with verify := ⟨[(3, verT none none)]⟩ }).updMgr fun m => { m with mode := .loaded }
     s.endOf 409 = (1, 3) ∧ (s.worker 1).verify.get? 3 = some (verT none none) ∧ s.verifyDue (verT none none) = true ∧ s.workerUp 1 = true ∧
       (s.hub (sledOf 1)).started = true) ∧
    (let s := ((at_ .quiescent).updTile 0 fun x => { x with verify := some (verT (some 3) none) }).updMgr fun m => { m with frame := 323 }
     (s.tile 0).verify = some (verT (some 3) none) ∧ (verT (some 3) none).start = some 3 ∧ 3 + 320 ≤ s.mgr.frame) ∧
    (let s := recvT.updWorker 1 fun x => { x with verify := ⟨[(3, verT (some 43) none)]⟩ }
     (s.worker 1).verify.get? 3 = some (verT (some 43) none) ∧ 43 + 64 ≤ (s.hub (sledOf 1)).frame) := by
  unfold IsCmd; decide +kernel

/-- A machine in Quiescent whose link 0 is up and whose worker 0 has every domain on; and the same in Limp. -/
def regT : State := pairT.updWorker 0 fun x => { x with pwr := 4095 }
def limpT : State := regT.updMgr fun m => { m with mode := .limp }
def latchT : Latch := { path := .host 0, base := blockKey (.hub 3) 0x18, vals := [9] }

theorem test_witness_RegistersAreAccessed :
    (regT.reaches (.host 0) ∧ regT.reaches (.mgmt 1)) ∧
    (regT.workerUp 0 = true ∧ (regT.worker 0).powered 0 = true ∧ regT.gate (.worker 0) 0x100 = 0 ∧
      (49 < 50 ∧ (regT.worker 0).powered (clusterOf 49) = true ∧ regT.gate (.worker 0) (0x4000 + 0x100 * 49 + 0xC) = 0) ∧
      regT.gate (.worker 0) 0x304 = 0 ∧ regT.fit.tileOk 103 = true ∧ regT.gate (.tile 103) 0x28 = 0 ∧
      (∀ i, i < 2 → regT.gate (.tile 103) (0x20 + 4 * i) = 0) ∧ regT.gate .scb 0x14 = 0) ∧
    (regT.hostReady 0 ∧ regT.linkPlace 0 0x20040 = some (.scb, 0x40) ∧ (regT.regVal 0 .scb 0x40).isSome = true ∧ regT.gate .scb 0x40 = 0 ∧
      latchSet .scb 0x40 = none) ∧
    (limpT.hostReady 0 ∧ limpT.linkPlace 0 0x20040 = some (.scb, 0x40) ∧ (limpT.regVal 0 .scb 0x40).isSome = true ∧ limpT.gate .scb 0x40 ≠ 0) ∧
    (regT.mgmtOpen 1 = true ∧ regT.spacePlace (3 * 2 ^ 60 + 24 * 2 ^ 52 + 0x20000 + (0x40 + 4 * 15)) = some (.scb, 0x40 + 4 * 15) ∧
      regT.gate .scb (0x40 + 4 * 15) = 0) ∧
    (regT.linkPlace 0 0x130018 = some (.hub 3, 0x18) ∧ regT.linkPlace 0 0x13001C = some (.hub 3, 0x1C)) ∧
    (let s := regT.updHost fun h => { h with latches := [latchT] }
     s.hostReady 0 ∧ s.linkPlace 0 0x13001C = some (.hub 3, 0x1C) ∧
       s.host.latches.find? (fun x => x.path == .host 0 && x.base == blockKey (.hub 3) 0x18) = some latchT) ∧
    (regT.fit.engineOk (.ring 0) = true ∧ 31 < engineCells (.ring 0) ∧ regT.cellPowered (.ring 0) 31 = true ∧
      regT.gate (engineBlock (.ring 0)) 0x30000 = 0 ∧ 47 < 48) := by
  refine ⟨⟨?_, ?_⟩, ?_⟩
  · unfold State.reaches State.hostReady; decide +kernel
  · unfold State.reaches; decide +kernel
  · unfold State.hostReady; decide +kernel

/-- The first line of tier A of worker 0 through BAR2, in a state with an active image whose region there belongs to an owner. -/
def bar2T (m : MState) (owner : Nat) : State :=
  ((at_ m).updHub 0 fun h =>
    { h with linkUp := true, regions := [{ w := 0, space := 0, use := 0, owner := owner, base := 0, size := 4096, init := [] }] }).updWorker 0 fun x =>
    { x with pwr := 4095 }

/-- A datagram, and a machine that has answered one of another number, and one that has not answered yet. -/
def dgT : Datagram :=
  { client := 5, port := 1, dest := none, udp := 4117, magic := 0x514D, mc := 0, seq := 8, addr := 0, count := 1, words := [1], cmd := some (cmdT 0x33) }
def answeredT (m : MState) : State := (at_ m).updHost fun h => { h with seqs := [(5, 7, some (.reply 5 7 0 []))] }
def scbWord : Nat := 3 * 2 ^ 60 + 24 * 2 ^ 52 + 0x20040

theorem test_witness_OutsidersAreServed :
    (let s := bar2T .loaded 0
     let a := (s.hub 0).bar2Base * 2 ^ 36 + 64 % 2 ^ 36
     0 < s.fit.sleds ∧ (s.hub 0).linkUp = true ∧ addrSpace a < 2 ∧ s.mgr.mode ∉ [MState.off, .bringUp, .doze, .hold] ∧ a % 64 = 0 ∧
       s.tierAnswers a = true ∧ (List.replicate 64 (1 : Byte)).length = 64 ∧ s.pageOwner (addrWorker a) (addrSpace a) (addrOffset a) = 0 ∧
       ∀ i, i < 64 → s.tierAnswers (a + i) = true ∧ s.pageOwner (addrWorker (a + i)) (addrSpace (a + i)) (addrOffset (a + i)) = 0) ∧
    (let s := bar2T .loaded 1; s.tierAnswers 64 = true ∧ s.pageOwner (addrWorker 64) (addrSpace 64) (addrOffset 64) ≠ 0) ∧
    ((bar2T .doze 0).mgr.mode = .doze ∧ (bar2T .hold 0).mgr.mode = .hold ∧ (bar2T .bringUp 0).mgr.mode = .bringUp) ∧
    ((at_ .quiescent).isRequest dgT = true ∧ (at_ .quiescent).isRequest { dgT with udp := 4118 } = false ∧ dgT.count = 1 ∧ dgT.words = [1] ∧ dgT.cmd = some (cmdT 0x33) ∧ commandDataSize (cmdT 0x33) ≤ 8192 ∧
      8192 < commandDataSize { cmdT 0x33 with data := some (List.replicate 8193 0) } ∧
      (∀ x ∈ (answeredT .quiescent).host.seqs, ¬(x.1 = dgT.client ∧ x.2.1 = dgT.seq)) ∧
      (answeredT .bringUp).mgr.mode = .bringUp ∧ (answeredT .limp).mgr.mode = .limp ∧
      (answeredT .quiescent).mgr.mode ≠ .bringUp ∧ (answeredT .quiescent).mgr.mode ≠ .limp) ∧
    (let s := (at_ .loaded).updHost fun h => { h with seqs := [(5, 7, none), (5, 8, some (.reply 5 8 0 []))] }
     s.host.seqs = [(5, 7, none)] ++ (dgT.client, dgT.seq, some (.reply 5 8 0 [])) :: [] ∧
       ∀ x ∈ [((5 : Nat), (7 : Nat), (none : Option Out))], ¬(x.1 = dgT.client ∧ x.2.1 = dgT.seq)) ∧
    ((at_ .quiescent).spacePlace scbWord = some (.scb, 0x40) ∧ latchSet .scb 0x40 = none ∧ (at_ .quiescent).spacePlace 0 = none ∧
      ((at_ .quiescent).regVal 0 .scb 0x40).isSome = true ∧ (at_ .quiescent).gate .scb 0x40 = 0 ∧
      (at_ .loaded).spacePlace (3 * 2 ^ 60 + 24 * 2 ^ 52 + 0x44) = some (.mgr, 0x44) ∧ ((at_ .loaded).regVal 0 .mgr 0x44).isSome = true ∧
      (at_ .loaded).gate .mgr 0x44 ≠ 0) ∧
    (dgT.client ∉ (answeredT .quiescent).host.subs ∧ (answeredT .quiescent).host.subs.length < 4) ∧
    (let s := (at_ .loaded).updHost fun h => { h with subs := [1, 2, 3, 4] }; dgT.client ∉ s.host.subs ∧ 4 ≤ s.host.subs.length) ∧
    (let s := ((at_ .loaded).updMgr fun m => { m with capFixed := true }).updKtd fun x => { x with enable := true, master := some [2, 3] }
     s.mgr.mode ≠ .off ∧ s.mgr.capFixed = true ∧ s.ktd.enable = true ∧ s.ktd.master = some [2, 3] ∧
       [1, 9].length = [2, 3].length ∧ [1, 9].getLast? ≠ [2, 3].getLast? ∧ [9, 3].getLast? = [2, 3].getLast? ∧ 1 < 2 ∧ s.ktd.transport.testBit 0 = true) := by
  refine ⟨?_, ?_, ?_, ?_, ?_, ?_, ?_, ?_, ?_⟩ <;> decide +kernel

/-- A descriptor of a job of 16 steps of group 1 under image 7 (Table 14.11), and a machine without the group running. -/
def descT : List Byte :=
  leBytes 8 7 ++ leBytes 1 1 ++ leBytes 1 0 ++ leBytes 2 0 ++ leBytes 4 0 ++ leBytes 4 16 ++ leBytes 236 0
def startT : State := (runT.updGroup 1 fun x => { x with running := none }).updMgr fun m => { m with mode := .loaded }

theorem startT_moundFits : startT.moundFits 1 [] = true := by simp [State.moundFits]

theorem startT_jobChecks : firstFail (startT.jobChecks descT) = none := by
  have hg : (JobDesc.ofBytes descT).group = 1 := by decide +kernel
  have hm : (JobDesc.ofBytes descT).mound = [] := by decide +kernel
  unfold State.jobChecks
  simp only [hg, hm, startT_moundFits]
  decide +kernel

/-- A job that is about to start its first step on sled 0, and one that has stopped everywhere. -/
def beginT : State := runT.updGroup 1 fun x => { x with running := some { jobT with begun := [], stepAt := 7, ran := 0 } }
def stoppedT : State :=
  (runT.updGroup 1 fun x => { x with sledsStopped := [0], stopped := true, done := ⟨[(0, 1), (1, 1)]⟩, emitted := ⟨[(0, 1), (1, 1)]⟩ }).updMgr
    fun m => { m with frame := 200 }
def replayT : State :=
  runT.updGroup 1 fun x => { x with
    sledsStopped := [0], stopped := true, jr := some 8, resumeStride := 1, running := some { jobT with toReplay := [1], stepAt := 0 } }

theorem groupSledsT (s : State) (h : s.participants 1 = [0, 1]) : s.groupSleds 1 = [0] := by
  unfold State.groupSleds; rw [h]; decide

theorem moundStillT (s : State) : s.moundStill 1 [] = true := by simp [State.moundStill]

theorem test_witness_JobsRun_starts :
    (let c := { cmdT 0x50 with data := some descT }; IsCmd c 0x50 ∧ c.data = some descT) ∧ startT.mgr.mode = .loaded ∧
    startT.draining = false ∧ firstFail (startT.jobChecks descT) = none ∧
    (let s := startT.updImg fun x => { x with active := none }; s.draining = false ∧ ∃ code, firstFail (s.jobChecks descT) = some code) := by
  refine ⟨by unfold IsCmd; decide +kernel, by decide +kernel, by decide +kernel, startT_jobChecks, by decide +kernel, stWrongImage, ?_⟩
  simp [firstFail, State.jobChecks, startT, runT, State.updImg, State.updMgr, State.updGroup, State.updHub, State.updOwners]

theorem test_witness_JobsRun_runs :
    (let s := beginT
     (s.group 1).running = some { jobT with begun := [], stepAt := 7, ran := 0 } ∧ (s.hub 0).started = true ∧ (s.hub 0).isSlip = false ∧
       (s.hub 0).step = 7 ∧ 0 ∈ s.groupSleds 1 ∧ 0 ∉ ([] : List Nat) ∧ 0 ∉ (s.group 1).sledsStopped ∧ (s.group 1).abortReason = 0 ∧
       s.moundStill 1 [] = true) ∧
    (let s := runT.updGroup 1 fun x => { x with done := ⟨[(0, 2), (1, 2)]⟩ }
     (s.group 1).running = some jobT ∧ jobT.steps ≤ jobT.ran ∧
       ∀ w ∈ s.participants 1, (jobT.stepAt + jobT.steps) / s.strideOf 1 ≤ (s.group 1).done.get 0 w) ∧
    (let c := { cmdT 0x51 with id := 1 }
     IsCmd c 0x51 ∧ runT.mgr.mode = .running ∧ runT.groupOfHandle c.id = some 1 ∧ (runT.group 1).abortReason = 0 ∧ runT.allStopped 1 = false) ∧
    (let c := { cmdT 0x51 with id := 3 }
     let s := runT.updGroup 1 fun x => { x with queue := [{ jobT with handle := 3 }] }
     IsCmd c 0x51 ∧ s.groupOfHandle c.id = none ∧ s.queueOfHandle c.id = some 1 ∧ runT.queueOfHandle c.id = none) := by
  have hb : beginT.participants 1 = [0, 1] := participantsT _ rfl (by decide)
  refine ⟨⟨by decide, by decide, by decide, by decide, ?_, by decide, by decide, by decide, moundStillT _⟩,
    ⟨by decide, by decide, ?_⟩, ⟨by unfold IsCmd; decide, by decide, by decide +kernel, by decide, ?_⟩,
    by unfold IsCmd; decide, by decide +kernel, by decide +kernel, by decide +kernel⟩
  · rw [groupSledsT _ hb]; decide
  · intro w hw
    rw [participantsT _ rfl (by decide)] at hw
    obtain rfl | rfl : w = 0 ∨ w = 1 := by simpa using hw
    · decide +kernel
    · decide +kernel
  · unfold State.allStopped; rw [groupSledsT _ runT_participants]; decide

/-- Owner 1's pages of worker 0, and the import and export of one of them. -/
def ownedT : State := (bar2T .loaded 1).updOwners fun o => { o with live := [0, 1] }
/-- The sealed page and its tag that the import brings. -/
def importData : List Byte := List.replicate 4112 0
def importT : Cmd := { cmdT 0x58 with unit := 1, len := 4096, data := some importData }
def exportT : Cmd := { cmdT 0x59 with unit := 1, len := 4096, data := some [] }
def transferT (z : Transfer) : State := ownedT.updMound fun m => { m with transfers := [z] }

/-- An import whose one page is empty: its tag under owner 1's secret of zero, computed outside the model (R346), or another. -/
def pageT (tag : Nat) : Cmd := { importT with data := some (leBytes 16 tag) }

/-- A page that is authentic, and one that is not. -/
theorem test_witness_JobsRun_opens_pages :
    (∀ p ∈ ownedT.openPages (pageT 0x6aa9183adb83c1bb98a71b06d78d1d72), p.2.isSome = true) ∧ (ownedT.openPages (pageT 0x6aa9183adb83c1bb98a71b06d78d1d72)).length = 1 ∧
    ∃ p ∈ ownedT.openPages (pageT 0), p.2 = none := by decide +kernel

theorem test_witness_JobsRun_moves_data :
    (let s := ownedT
     s.mgr.mode = .loaded ∧ s.transferRanges importT = true ∧ s.transferOwned importT = true ∧ IsCmd importT 0x58 ∧
       importT.data = some importData ∧ importData.length = importT.len / 4096 * 4112) ∧
    (let s := ownedT
     s.transferRanges exportT = true ∧ s.transferOwned exportT = true ∧ IsCmd exportT 0x59 ∧ exportT.src = .host 0 0 0 1 ∧
       IsCmd { exportT with src := .mgmt 0 0 } 0x59 ∧ exportT.len / 4096 * 4112 ≤ 8192) ∧
    (let z : Transfer := { cmd := importT, import_ := true, count := 0 }
     (transferT z).mound.transfers.find? (fun u => u.cmd.tag == 0) = some z ∧ (transferT z).mgr.mode ∉ [MState.off, .bringUp, .doze, .hold]) ∧
    (let z : Transfer := { cmd := exportT, import_ := false, count := 0 }
     (transferT z).mound.transfers.find? (fun u => u.cmd.tag == 0) = some z ∧ z.cmd.data.isSome = true) := by
  refine ⟨⟨by decide, by decide +kernel, by decide +kernel, by unfold IsCmd; decide, rfl, List.length_replicate ..⟩, by unfold IsCmd; decide +kernel,
    ⟨rfl, by decide⟩, rfl, by decide⟩

theorem stoppedT_participants : stoppedT.participants 1 = [0, 1] := participantsT _ rfl (by decide)

theorem moundWorkersT (s : State) (ha : s.img.active = some imgT) : s.moundWorkers 1 = [] := by
  simp [State.moundWorkers, ha, imgT]

/-- The same with worker 1 failed. -/
def failT : State := stoppedT.updWorker 1 fun x => { x with failed := true }

theorem test_witness_JobsRun_stops :
    (0 ∈ runT.participants 1 ∧ (runT.group 1).running = some jobT ∧ (runT.group 1).stopped = false ∧ (runT.group 1).sledsStopped = [] ∧
      (runT.group 1).stopSent = false ∧ 0 ∈ runT.groupSleds 1) ∧
    (let s := runT.updHub 0 fun h => { h with inbox := [.stop 1] }; Msg.stop 1 ∈ (s.hub 0).inbox ∧ (s.group 1).abortReason = 0) ∧
    (stoppedT.mgr.mode = .running ∧ (stoppedT.group 1).running = some jobT ∧ (stoppedT.group 1).stopped = true ∧ stoppedT.allStopped 1 = true ∧
      (stoppedT.group 1).jr = none ∧ (stoppedT.group 1).abortReason = 0 ∧ stoppedT.barriersOver 1 = true ∧ stoppedT.repairing 1 = false ∧
      stoppedT.lossReason 1 jobT [1] = none) := by
  refine ⟨⟨?_, by decide, by decide, by decide, by decide, ?_⟩, by decide, by decide, by decide, by decide, ?_, by decide, by decide, ?_, ?_, ?_⟩
  · rw [runT_participants]; decide
  · rw [groupSledsT _ runT_participants]; decide
  · unfold State.allStopped; rw [groupSledsT _ stoppedT_participants]; decide
  · unfold State.barriersOver; rw [stoppedT_participants]; decide +kernel
  · unfold State.repairing; rw [groupSledsT _ stoppedT_participants, moundWorkersT _ rfl]; decide +kernel
  · unfold State.lossReason; rw [stoppedT_participants]; decide +kernel

theorem replayT_participants : replayT.participants 1 = [0, 1] := participantsT _ rfl (by decide)

theorem test_witness_JobsRun_replays :
    (let s := failT
     s.allStopped 1 = true ∧ s.barriersOver 1 = true ∧ s.repairing 1 = false ∧ s.lossReason 1 jobT [1] = some 5) ∧
    ((replayT.group 1).jr = some 8 ∧ (replayT.hub 0).started = true ∧ (replayT.hub 0).isSlip = false ∧ (replayT.hub 0).step + 1 = 8 ∧
      (replayT.group 1).sledsStopped = [0] ∧ replayT.coresWhole 1 0) ∧
    (let s := replayT.updHub 0 fun h => { h with step := 8 }
     (s.group 1).running = some { jobT with toReplay := [1], stepAt := 0 } ∧ 1 ∈ [1] ∧ 0 + (s.group 1).resumeStride * s.strideOf 1 ≤ s.maxStep 1) ∧
    (let s := (runT.updGroup 1 fun x => { x with restoring := some 5 }).updMgr fun m => { m with frame := 5 }
     (s.group 1).running = some jobT ∧ (s.group 1).restoring = some 5 ∧ (s.groupDef 1).isSome = true ∧ 5 ≤ s.mgr.frame ∧ s.mgr.mode = .running) := by
  have hp : failT.participants 1 = [0, 1] := participantsT _ rfl (by decide)
  refine ⟨⟨?_, ?_, ?_, ?_⟩, ⟨by decide, by decide, by decide, by decide, by decide, ?_⟩, ⟨by decide, by decide, ?_⟩, by decide +kernel⟩
  · unfold State.allStopped; rw [groupSledsT _ hp]; decide
  · unfold State.barriersOver; rw [hp]; decide +kernel
  · unfold State.repairing; rw [groupSledsT _ hp, moundWorkersT _ rfl]
    decide +kernel
  · unfold State.lossReason; rw [hp]; decide +kernel
  · intro i hi b hb _ _
    obtain rfl : imgT = i := by simpa [show replayT.img.active = some imgT from rfl] using hi
    have h2 : b = bindT 0 ∨ b = bindT 1 := by simpa [imgT] using hb
    rcases h2 with rfl | rfl <;> exact ⟨0, by decide +kernel⟩
  · show 0 + 1 * 8 ≤ _
    unfold State.maxStep; rw [groupSledsT _ (participantsT _ rfl (by decide))]; decide +kernel

/-! ## Ill-formed commands are refused, one term for each check -/

def okC : Cmd := cmdT 0
def badC : Cmd := cmdT 65536
def badS : Slot := { slotT with fa := 8 }
def okD : Datagram :=
  { client := 0, port := 1, dest := some 0, udp := 4117, magic := 0x514D, mc := 4095, seq := 0, addr := 0, count := 0, words := [], cmd := none }
def badD : Datagram := { okD with port := 2 }
def okL : LoopMeas := { chans := Tab.empty, therm := [], sensors := Tab.empty, budget := 0 }

theorem test_wf_records :
    [okC, { okC with op := 65535 }].all Cmd.wf = true ∧
    [{ okC with op := 2 ^ 16 }, { okC with flags := 2 ^ 16 }, { okC with tag := 2 ^ 32 }, { okC with addr := 2 ^ 64 },
      { okC with len := 2 ^ 64 }, { okC with id := 2 ^ 64 }, { okC with addr2 := 2 ^ 64 }, { okC with unit := 2 ^ 16 },
      { okC with limit := 2 ^ 16 }, { okC with count := 2 ^ 16 }, { okC with sel := 2 ^ 8 }, { okC with window := 2 ^ 8 },
      { okC with aux := 2 ^ 16 }, { okC with nonce := 2 ^ 32 }, { okC with rsvd := 2 ^ 80 }].any Cmd.wf = false ∧
    [{ slotT with issue := 2 ^ 13 }, { slotT with fa := 8 }, { slotT with fb := 8 }, { slotT with ax := 16 }, { slotT with ox := 2 ^ 28 },
      { slotT with ay := 16 }, { slotT with oy := 2 ^ 28 }, { slotT with len := 2 ^ 16 }, { slotT with aux := 2 ^ 16 }].any Slot.wf = false ∧
    slotT.wf = true ∧ okD.wf = true ∧
    [{ okD with port := 2 }, { okD with dest := some (2 ^ 32) }, { okD with udp := 2 ^ 16 }, { okD with magic := 2 ^ 16 }, { okD with mc := 4096 },
      { okD with seq := 2 ^ 32 }, { okD with words := [2 ^ 32] }, { okD with cmd := some badC }].any Datagram.wf = false := by
  decide

theorem test_wf_places :
    ([0, 16, 240].all codeOk && !([17, 256].any codeOk)) = true ∧
    ([Path.host 7, .mgmt 1].all Path.wf && !([Path.host 8, .mgmt 2].any Path.wf)) = true ∧
    ([Engine.tile 103, .module 34, .ring 240].all Engine.wf && !([Engine.tile 104, .module 35, .ring 17].any Engine.wf)) = true ∧
    ([TickUnit.tile 103, .module 34, .site 240].all TickUnit.wf && !([TickUnit.tile 104, .module 35, .site 17].any TickUnit.wf)) = true ∧
    (Domain.manager.wf && !(Domain.sled 8).wf) = true ∧
    ([WireEnd.link 0 15, .port 0 3 4095].all WireEnd.wf && !([WireEnd.link 0 16, .link 17 0, .port 0 4 0, .port 17 0 0, .port 0 0 4096].any WireEnd.wf)) = true ∧
    ([WireRef.circuit 4095, .link 0 15].all WireRef.wf && !([WireRef.circuit 4096, .link 0 16, .link 17 0].any WireRef.wf)) = true ∧
    ([ServiceUnit.fiberIn 103 103, .fiberOut 103 103].all ServiceUnit.wf &&
      !([ServiceUnit.tile 104, .fiberIn 104 0, .fiberIn 0 104, .fiberOut 104 0, .fiberOut 0 104, .module 35].any ServiceUnit.wf)) = true := by
  decide

theorem test_wf_commands_1 :
    ([Instr.pcieConfigRequest, .dozeAt, .cancel, .drop, .holdBroadcast, .sledHoldEntry, .resumeMessage,
      .sledResumeStart, .limp, .activateAt, .stashCopyEnd, .spareReady, .completionWrite, .eventRecordWrite, .linkDown].all fun (f : Nat → Instr) =>
      (f 7).wf && !(f 8).wf) = true ∧
    ([Instr.rwbApply, .referenceLoss, .referenceReturn].all fun (f : Domain → Instr) =>
      (f (.sled 7)).wf && !(f (.sled 8)).wf) = true ∧
    ([Instr.seamPhase].all fun (f : Nat → List (Nat × Nat × Nat) → Instr) =>
      (f 7 []).wf && !(f 8 []).wf) = true ∧
    ([Instr.tickEdge].all fun (f : TickUnit → Int → Instr) =>
      (f (.tile 103) 0).wf && !(f (.tile 104) 0).wf) = true ∧
    ([Instr.missingTick].all fun (f : TickUnit → Instr) =>
      (f (.tile 103)).wf && !(f (.tile 104)).wf) = true ∧
    ([Instr.barrierTokenEmit, .barrierComplete].all fun (f : Nat → Nat → Instr) =>
      (f 31 240).wf && !(f 32 240).wf && !(f 31 17).wf) = true ∧
    ([Instr.tokenArrival].all fun (f : Nat → Nat → Nat → Nat → Int → Option Nat → Instr) =>
      (f 31 240 240 0 0 none).wf && !(f 32 240 240 0 0 none).wf && !(f 31 17 240 0 0 none).wf && !(f 31 240 17 0 0 none).wf) = true ∧
    ([Instr.nop, .doze, .wake, .hold, .resume, .powerDown, .enterService, .leaveService, .restartWarm, .restartCold, .imageLoad,
      .imageActivate, .imageDiscard, .imageDeactivate, .ownerOpen, .ownerRelease, .kemKey, .cocoonStore, .cocoonLoad,
      .moundPromote, .moundPin, .moundUnpin, .moundDrop, .moundQuery, .pubkeyAdd, .pubkeyRemove, .cocoonDelete, .cableSearch,
      .lacewingPlanBypass, .lacewingPlanEvacuate, .lacewingPlanRestore, .lacewingCommit, .lacewingCancel, .loopTune, .calWrite,
      .fieldVerifyTile, .fieldVerifyPort, .jobStart, .jobAbort, .dataImport, .dataExport].all fun (f : Cmd → Instr) =>
      (f okC).wf && !(f badC).wf) = true ∧
    ([Instr.frameBoundary, .sagRequest, .sagRequestEnd].all fun (f : Nat → List Nat → Instr) =>
      (f 7 []).wf && !(f 8 []).wf) = true ∧
    ([Instr.wkrPdctlOnWrite, .wkrPdctlForceWrite, .wkrMemdropWrite].all fun (f : Path → Nat → Nat → Instr) =>
      (f (.host 7) 240 (2 ^ 32 - 1)).wf && !(f (.mgmt 2) 240 (2 ^ 32 - 1)).wf && !(f (.host 7) 17 (2 ^ 32 - 1)).wf &&
      !(f (.host 7) 240 (2 ^ 32)).wf) = true ∧
    ([Instr.powerDomainApply, .ownerSecretReceipt, .ownerOpenConfirm, .erase, .eraseConfirm, .workerSilence, .workerSupplyFault].all fun (f : Nat → Instr) =>
      (f 240).wf && !(f 17).wf) = true ∧
    ([Instr.wload, .wswap, .mac, .mwr, .lsend, .osend, .vld, .vst, .vadd, .vsub, .vmul, .vfma, .vmax, .vmin, .vcmpgt, .vcvt,
      .vexp, .vrcp, .vrsqrt, .vtanh, .vrsum, .vrmax, .vbcast, .vperm].all fun (f : Nat → Nat → Slot → Instr) =>
      (f 240 49 slotT).wf && !(f 17 49 slotT).wf && !(f 240 50 slotT).wf && !(f 240 49 badS).wf) = true := by decide +kernel

theorem test_wf_commands_2 :
    ([Instr.drain].all fun (f : Nat → Nat → Slot → List (Nat × Nat × Nat) → Instr) =>
      (f 240 49 slotT []).wf && !(f 17 49 slotT []).wf && !(f 240 50 slotT []).wf && !(f 240 49 badS []).wf) = true ∧
    ([Instr.mrd].all fun (f : Nat → Nat → Slot → List (Nat × Nat) → Instr) =>
      (f 240 49 slotT []).wf && !(f 17 49 slotT []).wf && !(f 240 50 slotT []).wf && !(f 240 49 badS []).wf) = true ∧
    ([Instr.coreRetirementReport].all fun (f : Nat → Nat → Instr) =>
      (f 240 49).wf && !(f 17 49).wf && !(f 240 50).wf) = true ∧
    ([Instr.logicalCoreRemap].all fun (f : Nat → Nat → Instr) =>
      (f 240 47).wf && !(f 17 47).wf && !(f 240 48).wf) = true ∧
    ([Instr.memoryTemperatureReport].all fun (f : Nat → Nat → Int → Instr) =>
      (f 240 0 0).wf && !(f 17 0 0).wf) = true ∧
    ([Instr.pageRetirement].all fun (f : Nat → Nat → Instr) =>
      (f 240 0).wf && !(f 17 0).wf) = true ∧
    ([Instr.chunkCheck].all fun (f : Nat → Nat → Instr) =>
      (f 240 0).wf && !(f 17 0).wf) = true ∧
    ([Instr.moundCopyEnd].all fun (f : Nat → Nat → List (Nat × Nat) → Instr) =>
      (f 240 4095 []).wf && !(f 17 4095 []).wf && !(f 240 4096 []).wf) = true ∧
    ([Instr.objectResident, .hostPinApply].all fun (f : Nat → Nat → Instr) =>
      (f 240 4095).wf && !(f 17 4095).wf && !(f 240 4096).wf) = true ∧
    ([Instr.flitReceive].all fun (f : WireEnd → Nat → List (Nat × Byte) → Instr) =>
      (f (.link 0 3) 8191 [(271, 1)]).wf && !(f (.link 0 16) 8191 []).wf && !(f (.link 0 3) 8192 []).wf && !(f (.link 0 3) 8191 [(272, 1)]).wf) = true ∧
    ([Instr.creditDue].all fun (f : Nat → Instr) =>
      (f 4095).wf && !(f 4096).wf) = true ∧
    ([Instr.circuitTear, .sevenLambdaSwitch].all fun (f : Nat → Bool → Instr) =>
      (f 4095 false).wf && !(f 4096 false).wf) = true ∧
    ([Instr.settlement].all fun (f : WireRef → Bool → Instr) =>
      (f (.circuit 4095) false).wf && !(f (.circuit 4096) false).wf) = true := by decide +kernel

theorem test_wf_commands_3 :
    ([Instr.evCircuitTorn].all fun (f : WireRef → Instr) =>
      (f (.circuit 4095)).wf && !(f (.circuit 4096)).wf) = true ∧
    ([Instr.laneLockLoss, .linkRetrainTimeout, .boardLinkRetrained].all fun (f : Nat → Nat → Instr) =>
      (f 240 15).wf && !(f 17 15).wf && !(f 240 16).wf) = true ∧
    ([Instr.rangingSample].all fun (f : Nat → Nat → Nat → Instr) =>
      (f 4095 0 0).wf && !(f 4096 0 0).wf) = true ∧
    ([Instr.onePortCheck].all fun (f : Nat → RoundSeen → List LegMeas → Instr) =>
      (f 575 (seenT []) []).wf && !(f 576 (seenT []) []).wf) = true ∧
    ([Instr.circuitUsable, .lossOfLock].all fun (f : Nat → Nat → Instr) =>
      (f 4095 0).wf && !(f 4096 0).wf) = true ∧
    ([Instr.presenceContactOpen, .presenceContactClose].all fun (f : Nat → Instr) =>
      (f 575).wf && !(f 576).wf) = true ∧
    ([Instr.workerPortContactOpen].all fun (f : Nat → Nat → Instr) =>
      (f 240 3).wf && !(f 17 3).wf && !(f 240 4).wf) = true ∧
    ([Instr.returnLight, .glowRelease].all fun (f : Nat → Nat → Instr) =>
      (f 34 0).wf && !(f 35 0).wf) = true ∧
    ([Instr.moundReload].all fun (f : Nat → Nat → Instr) =>
      (f 7 4095).wf && !(f 8 4095).wf && !(f 7 4096).wf) = true ∧
    ([Instr.segmentFault].all fun (f : Nat → Nat → Nat → Instr) =>
      (f 4095 0 0).wf && !(f 4096 0 0).wf) = true ∧
    ([Instr.tileDriverSilent, .tileSupplyFault, .traceTrigger].all fun (f : Nat → Instr) =>
      (f 103).wf && !(f 104).wf) = true ∧
    ([Instr.laserFailure].all fun (f : Nat → Nat → Nat → Instr) =>
      (f 34 0 0).wf && !(f 35 0 0).wf) = true ∧
    ([Instr.spareLaserLock].all fun (f : Nat → Instr) =>
      (f 34).wf && !(f 35).wf) = true := by decide +kernel

theorem test_wf_commands_4 :
    ([Instr.loopCellFrame].all fun (f : Engine → LoopMeas → Instr) =>
      (f (.tile 103) okL).wf && !(f (.tile 104) okL).wf) = true ∧
    ([Instr.cellSequenceStep, .cellLockChange, .implausibilityDeclared, .cellRetry, .sensorOpen, .sensorRestored, .tuneEnd].all fun (f : Engine → Nat → Instr) =>
      (f (.tile 103) 0).wf && !(f (.tile 104) 0).wf) = true ∧
    ([Instr.wvlTrctlWrite].all fun (f : Path → Nat → Nat → Instr) =>
      (f (.host 7) 103 (2 ^ 32 - 1)).wf && !(f (.mgmt 2) 103 (2 ^ 32 - 1)).wf && !(f (.host 7) 104 (2 ^ 32 - 1)).wf &&
      !(f (.host 7) 103 (2 ^ 32)).wf) = true ∧
    ([Instr.wvlTrselWrite].all fun (f : Path → Nat → Nat → Nat → Instr) =>
      (f (.host 7) 103 1 (2 ^ 32 - 1)).wf && !(f (.mgmt 2) 103 1 (2 ^ 32 - 1)).wf && !(f (.host 7) 104 1 (2 ^ 32 - 1)).wf &&
      !(f (.host 7) 103 2 (2 ^ 32 - 1)).wf && !(f (.host 7) 103 1 (2 ^ 32)).wf) = true ∧
    ([Instr.coefficientWindowWrite].all fun (f : Path → Engine → Nat → Nat → List Byte → Nat → Instr) =>
      (f (.host 7) (.tile 103) 0 0 [] 4095).wf && !(f (.mgmt 2) (.tile 103) 0 0 [] 4095).wf && !(f (.host 7) (.tile 104) 0 0 [] 4095).wf &&
      !(f (.host 7) (.tile 103) 0 0 [] 4096).wf) = true ∧
    ([Instr.calFactory].all fun (f : Cmd → List RecMeas → Instr) =>
      (f okC []).wf && !(f badC []).wf) = true ∧
    ([Instr.calApply].all fun (f : Engine → Instr) =>
      (f (.tile 103)).wf && !(f (.tile 104)).wf) = true ∧
    ([Instr.tileVerifyEnd].all fun (f : Nat → Nat → Nat → Nat → Nat → Bool → Instr) =>
      (f 103 0 0 0 0 false).wf && !(f 104 0 0 0 0 false).wf) = true ∧
    ([Instr.portVerifyEnd].all fun (f : Nat → Nat → Nat → Instr) =>
      (f 575 0 0).wf && !(f 576 0 0).wf) = true ∧
    ([Instr.add, .sub, .and, .or, .xor, .shl, .shr, .sar, .min, .max, .mul, .mulh, .div, .slt].all fun (f : Nat → Nat → Nat → Instr) =>
      (f 63 63 63).wf && !(f 64 63 63).wf && !(f 63 64 63).wf && !(f 63 63 64).wf) = true ∧
    ([Instr.addi, .andi, .ori, .ld, .st, .stp, .in_, .beq, .bne, .blt, .bge].all fun (f : Nat → Nat → Nat → Instr) =>
      (f 63 63 (2 ^ 14 - 1)).wf && !(f 64 63 (2 ^ 14 - 1)).wf && !(f 63 64 (2 ^ 14 - 1)).wf && !(f 63 63 (2 ^ 14)).wf) = true ∧
    ([Instr.li, .lui].all fun (f : Nat → Nat → Instr) =>
      (f 63 (2 ^ 20 - 1)).wf && !(f 64 (2 ^ 20 - 1)).wf && !(f 63 (2 ^ 20)).wf) = true := by decide +kernel

theorem test_wf_commands_5 :
    ([Instr.out].all fun (f : Nat → Nat → Instr) =>
      (f 63 63).wf && !(f 64 63).wf && !(f 63 64).wf) = true ∧
    ([Instr.cmd, .time].all fun (f : Nat → Instr) =>
      (f 63).wf && !(f 64).wf) = true ∧
    ([Instr.take].all fun (f : Nat → Nat → Bool → Instr) =>
      (f 63 63 false).wf && !(f 64 63 false).wf && !(f 63 64 false).wf) = true ∧
    ([Instr.spanRead, .spanArm].all fun (f : Nat → Nat → Instr) =>
      (f 63 15).wf && !(f 64 15).wf && !(f 63 16).wf) = true ∧
    ([Instr.spanStart, .spanStop].all fun (f : Nat → Instr) =>
      (f 15).wf && !(f 16).wf) = true ∧
    ([Instr.jmp, .call].all fun (f : Nat → Instr) =>
      (f (2 ^ 14 - 1)).wf && !(f (2 ^ 14)).wf) = true ∧
    ([Instr.loop].all fun (f : Nat → Nat → Instr) =>
      (f 4095 (2 ^ 14 - 1)).wf && !(f 4096 (2 ^ 14 - 1)).wf && !(f 4095 (2 ^ 14)).wf) = true ∧
    ([Instr.eventArrival].all fun (f : Nat → Nat → Nat → Instr) =>
      (f 63 0 0).wf && !(f 64 0 0).wf) = true ∧
    ([Instr.scbDoorbell].all fun (f : Path → Nat → Nat → Instr) =>
      (f (.host 7) (2 ^ 32 - 1) 0).wf && !(f (.mgmt 2) (2 ^ 32 - 1) 0).wf && !(f (.host 7) (2 ^ 32) 0).wf) = true ∧
    ([Instr.stgCvtWrite].all fun (f : Path → Nat → Nat → Nat → Instr) =>
      (f (.host 7) 240 49 (2 ^ 32 - 1)).wf && !(f (.mgmt 2) 240 49 (2 ^ 32 - 1)).wf && !(f (.host 7) 17 49 (2 ^ 32 - 1)).wf &&
      !(f (.host 7) 240 50 (2 ^ 32 - 1)).wf && !(f (.host 7) 240 49 (2 ^ 32)).wf) = true ∧
    ([Instr.registerWrite].all fun (f : Path → Nat → Nat → Nat → Nat → Instr) =>
      (f (.host 7) 0 (2 ^ 32 - 1) 15 4095).wf && !(f (.mgmt 2) 0 (2 ^ 32 - 1) 15 0).wf && !(f (.host 7) 0 (2 ^ 32) 15 0).wf &&
      !(f (.host 7) 0 (2 ^ 32 - 1) 16 0).wf && !(f (.host 7) 0 0 15 4096).wf) = true ∧
    ([Instr.latchedRead].all fun (f : Path → Nat → Nat → Instr) =>
      (f (.host 7) 0 0).wf && !(f (.mgmt 2) 0 0).wf) = true := by decide +kernel

theorem test_wf_commands_6 :
    ([Instr.bar2Access].all fun (f : Nat → Nat → BarOp → Nat → Instr) =>
      (f 7 0 (.read 0 []) 4095).wf && !(f 8 0 (.read 0 []) 4095).wf && !(f 7 0 (.read 0 []) 4096).wf) = true ∧
    ([Instr.sqtailDoorbell, .cqheadDoorbell, .qcfgWrite].all fun (f : Nat → Nat → Nat → Instr) =>
      (f 7 63 (2 ^ 32 - 1)).wf && !(f 8 63 (2 ^ 32 - 1)).wf && !(f 7 64 (2 ^ 32 - 1)).wf && !(f 7 63 (2 ^ 32)).wf) = true ∧
    ([Instr.commandRecordArrival].all fun (f : Nat → Nat → Option Cmd → Nat → Instr) =>
      (f 7 63 none 4095).wf && !(f 8 63 none 0).wf && !(f 7 64 none 0).wf && !(f 7 63 (some badC) 0).wf && !(f 7 63 none 4096).wf) = true ∧
    ([Instr.syncMessage].all fun (f : Nat → Nat → Int → Int → Instr) =>
      (f 255 1 0 0).wf && !(f 256 1 0 0).wf && !(f 255 2 0 0).wf) = true ∧
    ([Instr.announceMessage].all fun (f : Nat → Nat → Nat → List Nat → Instr) =>
      (f 0 255 1 []).wf && !(f 0 256 1 []).wf && !(f 0 255 2 []).wf) = true ∧
    ([Instr.eqheadDoorbell, .eqcfgWrite].all fun (f : Nat → Nat → Instr) =>
      (f 7 (2 ^ 32 - 1)).wf && !(f 8 (2 ^ 32 - 1)).wf && !(f 7 (2 ^ 32)).wf) = true ∧
    ([Instr.linkUp].all fun (f : Nat → Nat → Nat → Instr) =>
      (f 7 0 0).wf && !(f 8 0 0).wf) = true ∧
    ([Instr.jobFirstStep].all fun (f : Nat → Nat → Instr) =>
      (f 31 7).wf && !(f 32 7).wf && !(f 31 8).wf) = true ∧
    ([Instr.jobEnd, .rollbackDecision, .mirrorRestoreEnd].all fun (f : Nat → Instr) =>
      (f 31).wf && !(f 32).wf) = true ∧
    ([Instr.stopTriggerReport].all fun (f : Nat → Nat → Nat → Instr) =>
      (f 240 31 0).wf && !(f 17 31 0).wf && !(f 240 32 0).wf) = true ∧
    ([Instr.stop, .rollbackBoundary].all fun (f : Nat → Nat → Instr) =>
      (f 7 31).wf && !(f 8 31).wf && !(f 7 32).wf) = true ∧
    ([Instr.strideReplay].all fun (f : Nat → Nat → Instr) =>
      (f 31 0).wf && !(f 32 0).wf) = true ∧
    ([Instr.regRead, .regWrite, .command, .subscribe, .unsubscribe].all fun (f : Datagram → Instr) =>
      (f okD).wf && !(f badD).wf) = true ∧
    ([Instr.serviceClear].all fun (f : ServiceUnit → Instr) =>
      (f (.tile 103)).wf && !(f (.tile 104)).wf) = true := by decide +kernel

/-! ## Words and values written out from the spec -/

/-- Tables 13.4 and 13.5: opcode [31:26], d [25:20], a [19:14], then b [13:8] or a 14-bit immediate; the two words of the worked case of the
Scarab chapter; a reserved opcode. -/
theorem test_scarab_words :
    scarabDecode 0b000010_000001_000010_000011_00000000 = some (.add 1 2 3) ∧
    scarabDecode 0b010000_000111_000111_00000000000001 = some (.addi 7 7 1) ∧ scarabEncode (.addi 7 7 1) = some 0x4071C001 ∧
    scarabDecode 0b011011_000001_000000_001000_00000000 = some (.take 1 8 false) ∧ scarabEncode (.take 1 8 false) = some 0x6C100800 ∧
    scarabDecode 0b100000_000001_000010_00000000000101 = some (.beq 1 2 5) ∧
    scarabDecode 0b100111_000000000011_00000000010000 = some (.loop 3 16) ∧
    scarabDecode 0b011100_000000_000011_0101_01_00000000 = some (.spanArm 3 5) ∧ scarabDecode 0xFC000000 = none := by decide

/-- Table 5.3: ISSUE [127:115], UNIT [114:112], OP [111:104], FA [103:100], FB [99:96], AX [95:92], OX [91:64], AY [63:60], OY [59:32],
LEN [31:16], AUX [15:0]: a MAC of 256 vectors at 592 with CLEAR, an MRD at 64, and an LSEND whose UNIT is wrong. -/
theorem test_slot_words :
    slotDecode (592 <<< 115 ||| 1 <<< 112 ||| 0x03 <<< 104 ||| 6 <<< 100 ||| 1 <<< 96 ||| 2 <<< 92 ||| 0x1000 <<< 64 ||| 256 <<< 16 ||| 0x200) =
      some (0x03, { issue := 592, fa := 6, fb := 1, ax := 2, ox := 0x1000, ay := 0, oy := 0, len := 256, aux := 0x200 }) ∧
    slotDecode (64 <<< 115 ||| 3 <<< 112 ||| 0x30 <<< 104 ||| 15 <<< 60 ||| 0x40 <<< 32 ||| 64 <<< 16) =
      some (0x30, { issue := 64, fa := 0, fb := 0, ax := 0, ox := 0, ay := 15, oy := 0x40, len := 64, aux := 0 }) ∧
    slotDecode (64 <<< 115 ||| 3 <<< 112 ||| 0x40 <<< 104) = none := by decide

/-- The opcode table gives its rows no bits: no word spells a command, and nothing is put before the queue. -/
theorem test_table_words :
    decodeTableWord 32 0x4071C001 = none ∧ State.reset.withFetchWord 32 0x4071C001 = State.reset := ⟨rfl, rfl⟩

/-- The worked case of the scope chapter: MGR.CAP of a TQ-1/8-N is 0001_A981h. -/
theorem test_cap :
    ({ (State.reset.updMgr fun m => { m with capFixed := true }) with fit := { Fit.full16 with variant := .tq8, sig := false } } : State).regVal 0 .mgr 0 =
      some 0x1A981 ∧
    State.reset.regVal 0 .mgr 0 = some 0xF := by decide +kernel

/-- The worked case of the parts chapter: worker 5.16's port P1 is L-port 237 on input 13 of tile I14, its link to worker 5.03 is 3 and
arrives on link 12; L-port 411 is worker 0.03 P3; on a TQ-1/8 the spare's P1 is L-port 125. -/
theorem test_wiring :
    State.reset.endOf 237 = (5 * 32 + 16, 1) ∧ State.reset.endOf 411 = (3, 3) ∧ feedOf 237 = some (14, 13) ∧
    Fit.full16.linkTo (5 * 32 + 16) 3 = 3 ∧ Fit.full16.linkPeer (5 * 32 + 16) 3 = (5 * 32 + 3, 12) ∧
    ({ State.reset with fit := { Fit.full16 with variant := .tq8 } } : State).endOf 125 = (5 * 32 + 16, 1) := by decide +kernel

/-- The first worked case of the number formats chapter: 0.8125 is 35h in E4M3, -3.0 is C2h in E5M2, their product rounds to C01C_0000h, and
3F80_8000h converts to BF16 3F80h; 464 converts to 448 in E4M3 without counting, 470 counts. -/
theorem test_floats :
    decodeFmt 2 0x35 = ofExact (13 * 2 ^ 296) ∧ decodeFmt 3 0xC2 = ofExact (-(3 * 2 ^ 300)) ∧
    f32Of ((decodeFmt 2 0x35).mul (decodeFmt 3 0xC2)) = 0xC01C0000 ∧ (convertFmt 4 (decodeFmt 7 0x3F808000)).bits = 0x3F80 ∧
    (convertFmt 2 (ofInt 464)).sat = false ∧ (convertFmt 2 (ofInt 464)).bits = 0x7E ∧ (convertFmt 2 (ofInt 470)).sat = true ∧
    (convertFmt 2 (ofInt 470)).bits = 0x7E := by decide +kernel

/-- The second and third: the I32 row -9,906 drains to FFFF_D94Eh, to -9,906.0 and, saturated, to 80h; the Q4B block of 12, -3, 5 and 1 has
exponent byte 80h and elements 6, -2, 2 and 0. -/
theorem test_drains :
    (convertFmt 6 (ofInt (-9906))).bits = 0xFFFFD94E ∧ f32Of (ofInt (-9906)) = 0xC61AC800 ∧
    convertFmt 1 (ofInt (-9906)) = { bits := 0x80, sat := true, nan := false } ∧
    (let q := q4bEncode ([0x41400000, 0xC0400000, 0x40A00000, 0x3F800000] ++ List.replicate 28 0)
     q.1 = 0x80 ∧ (q.2.map (·.bits)).take 5 = [6, 14, 2, 0, 0]) := by decide +kernel

/-- The worked case of the links chapter: F = 7,716/64 c gives a window of 592 flits and settlement after 2 frames. -/
theorem test_window : windowOf 7716 = 592 ∧ settleFrames 7716 = 2 := by decide

/-- The worked case of the loop cells chapter: u of 356,516 x 2^-23 is 1,393 units, and 24,956 units at 300 Ohm are DAC code A519h. -/
theorem test_heater : trimOf 356516 = 1393 ∧ heaterDac 24956 (300 * 64) = (0xA519, false) := by decide +kernel

/-- One step of the Scarab engine: the word of the worked case adds 1 to g7, modulo 2^32, and the scan goes on. -/
theorem test_step_addi :
    let s := ((scanAt 0x4071C001).updScb fun x => { x with g := ⟨[(7, 0xFFFFFFFF)]⟩ }).withPending [.addi 7 7 1]
    (match step s with | .next t => some (t.scb.reg 7, t.scb.pc, t.pending) | _ => none) = some (0, 1, []) := by decide +kernel

/-- One step: a division by 0 gives 0, and the most negative number divided by -1 stays (Table 13.5). -/
theorem test_step_div :
    let s := ((scanAt (0x0E * 2 ^ 26 + 1 * 2 ^ 20 + 2 * 2 ^ 14 + 3 * 2 ^ 8)).updScb fun x => { x with g := ⟨[(1, 9), (2, 0x80000000)]⟩ }).withPending [.div 1 2 3]
    let u := s.updScb fun x => { x with g := ⟨[(2, 0x80000000), (3, 0xFFFFFFFF)]⟩ }
    (match step s with | .next t => some (t.scb.reg 1) | _ => none) = some 0 ∧
    (match step u with | .next t => some (t.scb.reg 1) | _ => none) = some 0x80000000 := by decide +kernel

/-- One step: a command that comes in Running where only Hold accepts it is refused with 41h (Table 3.4, R339). -/
theorem test_step_refusal :
    let s := (runT.withPending [.resume (cmdT 0x13)])
    (match step s with | .next t => (t.hub 0).cpls.map (·.status) | _ => []) = [0x41] := by decide +kernel

end Sys2Proof.Machine.Tests
end

section
/-! SUPPORT. Full words written into registers: a write of all four bytes of a word puts the low 32 bits of the value (R8, R56). -/

namespace Sys2Proof

theorem and_byteMask_full (v : Nat) : v &&& Machine.byteMask 15 = v % 2 ^ 32 := by
  have h : Machine.byteMask 15 = 2 ^ 32 - 1 := by decide
  rw [h, Nat.and_two_pow_sub_one_eq_mod]

/-- A merge of all four bytes replaces the low 32 bits, whatever stood there. -/
theorem mergeBytes_full_mod (old v : Nat) : Machine.mergeBytes old v 15 % 2 ^ 32 = v % 2 ^ 32 := by
  simp only [Machine.mergeBytes, and_byteMask_full]
  omega

/-- Numbers that agree in their low 32 bits agree in every field of a word. -/
theorem bitsOf_congr {m n hi lo : Nat} (h : m % 2 ^ 32 = n % 2 ^ 32) (hlo : lo ≤ hi) (hhi : hi < 32) : bitsOf m hi lo = bitsOf n hi lo := by
  have low (x : Nat) : bitsOf x hi lo = x % 2 ^ 32 % 2 ^ (hi + 1) / 2 ^ lo := by
    have hw : 2 ^ (hi + 1) = 2 ^ lo * 2 ^ (hi + 1 - lo) := by rw [← Nat.pow_add]; congr 1; omega
    rw [Nat.mod_mod_of_dvd _ (Nat.pow_dvd_pow 2 (by omega)), hw, Nat.mod_mul_right_div_self, bitsOf]
  rw [low m, low n, h]

theorem testBit_congr {m n i : Nat} (h : m % 2 ^ 32 = n % 2 ^ 32) (hi : i < 32) : m.testBit i = n.testBit i := by
  have low (x : Nat) : x.testBit i = (x % 2 ^ 32).testBit i := by rw [Nat.testBit_mod_two_pow]; simp [hi]
  rw [low m, low n, h]

theorem mod_congr {m n k : Nat} (h : m % 2 ^ 32 = n % 2 ^ 32) (hk : k ≤ 32) : m % 2 ^ k = n % 2 ^ k := by
  rw [← Nat.mod_mod_of_dvd m (Nat.pow_dvd_pow 2 hk), h, Nat.mod_mod_of_dvd n (Nat.pow_dvd_pow 2 hk)]

/-- Bit 31 set in a value leaves its low twelve bits: FORCE and ON of WKR.PDCTL (R65). -/
theorem or_bit31_fields (v : Nat) : (v ||| 2 ^ 31) % 4096 = v % 4096 ∧ (v ||| 2 ^ 31).testBit 31 = true := by
  constructor
  · rw [show (4096 : Nat) = 2 ^ 12 from rfl, Nat.or_mod_two_pow]; simp
  · rw [Nat.testBit_or, Nat.testBit_two_pow_self, Bool.or_true]

end Sys2Proof
end

section
/-! SUPPORT. Accesses over a path that reaches its registers (R64, R329): a register write there is done under its access types, or refused
and recorded. -/

namespace Sys2Proof.Machine

variable {s : State} {k : Nat} {p : Path}

theorem State.hostAccess_of_hostReady (h : s.hostReady k) (f : State → State) : s.hostAccess k f = f s := by
  obtain ⟨hk, hup, hoff, hbring⟩ := h
  unfold State.hostAccess
  rw [if_neg (by simp [hup, hk])]
  split
  case h_1 hm => exact absurd hm hoff
  case h_2 hm => exact absurd hm hbring
  case h_3 => rfl

variable {b : Block} {o v mc : Nat}

theorem State.regWrite1_of_gate_zero {own : Option Nat} {be : Nat} {scb : Bool} (hreg : (s.regVal 0 b o).isSome = true) (hg : s.gate b o = 0) :
    s.regWrite1 own b o v be mc scb = (0, s.writeReg own b o v be mc scb) := by
  simp [State.regWrite1, Option.isSome_iff_ne_none.mp hreg, hg]

theorem State.regWrite1_of_gate_ne_zero {own : Option Nat} {be : Nat} {scb : Bool} (hreg : (s.regVal 0 b o).isSome = true) (hg : s.gate b o ≠ 0) :
    s.regWrite1 own b o v be mc scb = (s.gate b o, s) := by
  simp [State.regWrite1, Option.isSome_iff_ne_none.mp hreg, hg]

/-- A row of its own that reaches its register writes it, with whatever it does the same for every link that carries it. -/
theorem State.rowWrite_of_reaches {t : State} (hp : s.reaches p) (hreg : (s.regVal 0 b o).isSome = true) (hg : s.gate b o = 0)
    (ht : ∀ own, s.writeReg own b o v 15 mc false = t) : s.rowWrite p (some (b, o)) v mc = t := by
  cases p with
  | host k => simp [State.rowWrite, State.hostAccess_of_hostReady hp, State.hostWrite1, State.regWrite1_of_gate_zero hreg hg, ht]
  | mgmt port =>
    have hopen : s.mgmtOpen port = true := hp
    simp [State.rowWrite, hopen, State.regWrite1_of_gate_zero hreg hg, ht]

/-- A refusal recorded at hub `k` changes that hub alone: code, offset, and the count of refused writes. -/
theorem State.recordRefusal_onlyHub (s : State) (k code ofs : Nat) : OnlyHub k s (s.recordRefusal k code ofs) :=
  ⟨rfl, fun _ hj => State.updHub_hub_ne s _ hj⟩

end Sys2Proof.Machine
end

section
/-! SUPPORT. A change of one worker, core, tile or cell, as the statements about commands put it. -/

namespace Sys2Proof.Machine

variable {i : Instr} {s : State}

theorem completes_updWorker {w : Nat} {f : Worker → Worker} {x : Worker} (h : exec i s = .next (s.updWorker w f)) (hx : f (s.worker w) = x) :
    Completes i s fun t => t.worker w = x ∧ (∀ y, y ≠ w → t.worker y = s.worker y) ∧ t = { s with workers := t.workers } :=
  ⟨_, h, by simp [hx], fun _ hy => State.updWorker_worker_ne s f hy, rfl⟩

theorem completes_updCore {w n : Nat} {f : StagCore → StagCore} {x : StagCore} (h : exec i s = .next (s.updCore w n f))
    (hx : f (s.core w n) = x) :
    Completes i s fun t => t.core w n = x ∧ (∀ m, m ≠ n → t.core w m = s.core w m) ∧ t = { s with workers := t.workers } := by
  refine ⟨_, h, by simp [hx], fun m hm => ?_, rfl⟩
  simp [State.core, State.updCore, Worker.updCore_core_ne _ f hm]

theorem completes_updTile {x : Nat} {f : Tile → Tile} {y : Tile} (h : exec i s = .next (s.updTile x f)) (hy : f (s.tile x) = y) :
    Completes i s fun t => t.tile x = y ∧ (∀ z, z ≠ x → t.tile z = s.tile z) ∧ t = { s with tiles := t.tiles } :=
  ⟨_, h, by simp [hy], fun _ hz => State.updTile_tile_ne s f hz, rfl⟩

variable (s) (e : Engine)

@[simp] theorem State.setTab_engineTab (c : Tab Cell) : (s.setTab e c).engineTab e = c := by
  cases e <;> simp [State.setTab, State.engineTab]

@[simp] theorem State.setTab_cal (c : Tab Cell) : (s.setTab e c).cal e = s.cal e := by
  cases e <;> simp [State.setTab, State.cal]

@[simp] theorem State.setTab_restMode (c : Tab Cell) (h : Nat) : (s.setTab e c).restMode e h = s.restMode e h := by
  cases e with
  | tile k => simp [State.setTab, State.restMode]
  | module k => simp [State.setTab, State.restMode]
  | ring w =>
    have hpow : ((s.setTab (.ring w) c).worker w).powered (9 + h / 16) = (s.worker w).powered (9 + h / 16) := by
      simp [State.setTab, Worker.powered]
    simp only [State.restMode, hpow]
    rfl

@[simp] theorem State.updCell_cell_self (h : Nat) (f : Cell → Cell) : (s.updCell e h f).cell e h = f (s.cell e h) := by
  simp [State.updCell, State.cell]

@[simp] theorem State.updCell_cell_ne {g h : Nat} (f : Cell → Cell) (hg : g ≠ h) : (s.updCell e h f).cell e g = s.cell e g := by
  simp [State.updCell, State.cell, hg]

end Sys2Proof.Machine
end

section
/-! SUPPORT. What a write does to the registers with rows of their own, and that each of them stands at its place. -/

namespace Sys2Proof.Machine

variable {s : State} {p : Path} {w n x i v mc : Nat}

theorem State.regVal_worker_isSome {o : Nat} (ho : o % 4 = 0) (h : (s.workerVal w o).isSome = true) :
    (s.regVal 0 (.worker w) o).isSome = true := by
  simp [State.regVal, ho, State.workerReg, h]

theorem workerDomain_stgCvt (n : Nat) : workerDomain (0x4000 + 0x100 * n + 0xC) = clusterOf n := by
  have h : (0x4000 + 0x100 * n + 0xC - 0x4000) / 0x100 = n := by omega
  rw [workerDomain, if_pos (by omega), h]

theorem State.workerVal_stgCvt_isSome (s : State) (w : Nat) (hn : n < 50) : (s.workerVal w (0x4000 + 0x100 * n + 0xC)).isSome = true := by
  have h : (0x4000 + 0x100 * n + 0xC) % 0x100 = 0xC := by omega
  simp (disch := omega) only [State.workerVal, if_neg, if_pos, h]
  rfl

/-- WKR.PDCTL written whole: what the value has replaces what is latched. -/
theorem State.writePdctl_full (s : State) (w v mc : Nat) :
    s.writePdctl w v 15 mc = s.updWorker w fun x => { x with
      latched := some (((v % 4096) ||| 1) &&& s.fit.domainMask, v.testBit 31)
      latchAt := { frame := (s.hub (sledOf w)).frame, at_ := s.cycleAt mc, scarab := [] } } := by
  have hm := mergeBytes_full_mod (s.pdctl w) v
  have hon : mergeBytes (s.pdctl w) v 15 % 4096 = v % 4096 := mod_congr (k := 12) hm (by decide)
  simp only [State.writePdctl, hon, testBit_congr (i := 31) hm (by decide)]

theorem StagCore.clearCvt_low (y : StagCore) (v : Nat) :
    y.clearCvt (v % 2 ^ 32) = { y with sats := if v.testBit 0 then 0 else y.sats, nans := if v.testBit 16 then 0 else y.nans } := by
  have hv := Nat.mod_mod v (2 ^ 32)
  simp only [StagCore.clearCvt, testBit_congr (i := 0) hv (by decide), testBit_congr (i := 16) hv (by decide)]

theorem Worker.clearDrop_low (y : Worker) (v : Nat) :
    y.clearDrop (v % 2 ^ 32) = { y with hostWr := if v.testBit 0 then 0 else y.hostWr, voidWr := if v.testBit 16 then 0 else y.voidWr } := by
  have hv := Nat.mod_mod v (2 ^ 32)
  simp only [Worker.clearDrop, testBit_congr (i := 0) hv (by decide), testBit_congr (i := 16) hv (by decide)]

theorem State.rowWrite_wkrPdctl (hp : s.reaches p) (h0 : (s.worker w).powered 0 = true) (hg : s.gate (.worker w) 0x100 = 0) :
    s.rowWrite p (some (.worker w, 0x100)) v mc = s.writePdctl w v 15 mc := by
  refine State.rowWrite_of_reaches hp (State.regVal_worker_isSome rfl rfl) hg fun own => ?_
  simp [State.writeReg, State.writeWorker, workerDomain, h0]

theorem State.rowWrite_wkrMemdrop (hp : s.reaches p) (h0 : (s.worker w).powered 0 = true) (hg : s.gate (.worker w) 0x304 = 0) :
    s.rowWrite p (some (.worker w, 0x304)) v mc = s.updWorker w fun x => x.clearDrop (v % 2 ^ 32) := by
  refine State.rowWrite_of_reaches hp (State.regVal_worker_isSome rfl rfl) hg fun own => ?_
  simp [State.writeReg, State.writeWorker, workerDomain, h0, and_byteMask_full]

theorem State.rowWrite_stgCvt (hp : s.reaches p) (hn : n < 50) (h0 : (s.worker w).powered (clusterOf n) = true)
    (hg : s.gate (.worker w) (0x4000 + 0x100 * n + 0xC) = 0) :
    s.rowWrite p (some (.worker w, 0x4000 + 0x100 * n + 0xC)) v mc = s.updCore w n fun x => x.clearCvt (v % 2 ^ 32) := by
  refine State.rowWrite_of_reaches hp (State.regVal_worker_isSome (by omega) (s.workerVal_stgCvt_isSome w hn)) hg fun own => ?_
  have hcore : (0x4000 + 0x100 * n + 0xC - 0x4000) / 0x100 = n := by omega
  simp (disch := omega) only [State.writeReg, State.writeWorker, workerDomain_stgCvt, h0, Bool.not_true, Bool.false_eq_true, if_neg, if_pos,
    if_false, hcore, and_byteMask_full]

theorem State.rowWrite_wvlTrctl (hp : s.reaches p) (hg : s.gate (.tile x) 0x28 = 0) :
    s.rowWrite p (some (.tile x, 0x28)) v mc = s.updTile x fun y => y.writeTrctl v 15 :=
  State.rowWrite_of_reaches hp rfl hg fun _ => rfl

/-- WVL.TRCTL written whole takes each field from the value and starts the ring again at entry 0 (R283). That STOPPED, WRAPPED and the
count of POST go back with it is the model's choice (log entry 20). -/
theorem Tile.writeTrctl_full (y : Tile) (v : Nat) :
    y.writeTrctl v 15 = { y with
      next := 0, wrapped := false, stopped := false, postLeft := none, arm := v.testBit 31, trig := bitsOf v 30 28
      trCells := bitsOf v 27 26, post := bitsOf v 23 12 } := by
  have hm := mergeBytes_full_mod y.trctl v
  simp [Tile.writeTrctl, Tile.restartRing, testBit_congr (i := 31) hm (by decide), bitsOf_congr (hi := 30) (lo := 28) hm (by decide) (by decide),
    bitsOf_congr (hi := 27) (lo := 26) hm (by decide) (by decide), bitsOf_congr (hi := 23) (lo := 12) hm (by decide) (by decide)]

theorem State.rowWrite_wvlTrsel (hp : s.reaches p) (hi : i < 2) (hg : s.gate (.tile x) (0x20 + 4 * i) = 0) :
    s.rowWrite p (some (.tile x, 0x20 + 4 * i)) v mc = s.updTile x fun y => y.writeTrsel i v 15 := by
  obtain rfl | rfl : i = 0 ∨ i = 1 := by omega
  · exact State.rowWrite_of_reaches hp rfl hg fun _ => rfl
  · exact State.rowWrite_of_reaches hp rfl hg fun _ => rfl

/-- WVL.TRSEL_i written whole names the cells that the value names, starts the ring again and leaves ARM. -/
theorem Tile.writeTrsel_full (y : Tile) (hi : i < 2) (v : Nat) :
    (if i = 0 then (y.writeTrsel i v 15).trsel0 else (y.writeTrsel i v 15).trsel1) = v % 1024 + bitsOf v 25 16 * 2 ^ 16 ∧
      (y.writeTrsel i v 15).next = 0 ∧ (y.writeTrsel i v 15).stopped = false ∧ (y.writeTrsel i v 15).arm = y.arm := by
  have cells (old : Nat) : mergeBytes old v 15 % 1024 + bitsOf (mergeBytes old v 15) 25 16 * 2 ^ 16 = v % 1024 + bitsOf v 25 16 * 2 ^ 16 := by
    have hm := mergeBytes_full_mod old v
    rw [show mergeBytes old v 15 % 1024 = v % 1024 from mod_congr (k := 10) hm (by decide), bitsOf_congr hm (by decide) (by decide)]
  obtain rfl | rfl : i = 0 ∨ i = 1 := by omega
  · exact ⟨cells y.trsel0, rfl, rfl, rfl⟩
  · exact ⟨cells y.trsel1, rfl, rfl, rfl⟩

theorem State.regVal_mail_isSome (s : State) (hi : i < 16) : (s.regVal 0 .scb (0x40 + 4 * i)).isSome = true := by
  have ho : (0x40 + 4 * i) % 4 = 0 := by omega
  simp (disch := omega) only [State.regVal, ho, State.scbReg, if_neg, if_pos]
  rfl

theorem State.writeReg_mail (s : State) (own : Option Nat) (hi : i < 16) (be : Nat) (scb : Bool) :
    s.writeReg own .scb (0x40 + 4 * i) v be mc scb =
      s.updScb fun x => { x with mail := x.mail.set i (mergeBytes (x.mail.get 0 i) v be) } := by
  have hix : (0x40 + 4 * i - 0x40) / 4 = i := by omega
  simp (disch := omega) only [State.writeReg, if_neg, if_pos, hix]

end Sys2Proof.Machine
end

section
/-! SUPPORT. Arrivals at event inputs (R317, R319): the timers that an arrival closes arrive at e32 to e47 only, so a part of the engine that
neither a count at those inputs nor a timer's record touches is left by every arrival, but for the count at its own input. -/

namespace Sys2Proof.Machine

/-- What an arrival at input `e` does to timer `i`, with the arrival of a timer that closes. -/
def Scarab.stampSpan (now fuel e : Nat) (y : Scarab) (i : Nat) : Scarab :=
  let t := y.spans.get Span.init i
  let t' := t.onInput e now
  let y1 := { y with spans := y.spans.set i t' }
  if t'.closed && !t.closed then Scarab.arrive y1 now fuel (32 + i) 1 else y1

theorem Scarab.arrive_succ (x : Scarab) (now fuel e n : Nat) :
    x.arrive now (fuel + 1) e n =
      if inputCounts e && decide (0 < n) then (List.range 16).foldl (Scarab.stampSpan now fuel e) (x.count1 e n) else x := rfl

section
variable {β : Type} (part : Scarab → β) (inputs : Nat → Prop) (hspan : ∀ x t, part { x with spans := t } = part x)

include hspan in
/-- Stamping the timers leaves a part of the engine that the arrivals of timers leave. -/
theorem Scarab.foldl_stampSpan_keeps {now fuel : Nat} (harr : ∀ i, i < 16 → ∀ x : Scarab, part (x.arrive now fuel (32 + i) 1) = part x) (e : Nat)
    (l : List Nat) (hl : ∀ i ∈ l, i < 16) (x : Scarab) : part (l.foldl (Scarab.stampSpan now fuel e) x) = part x := by
  induction l generalizing x with
  | nil => rfl
  | cons i l ih =>
    rw [List.foldl_cons, ih fun j hj => hl j (List.mem_cons_of_mem i hj)]
    simp only [Scarab.stampSpan]
    split
    · rw [harr i (hl i List.mem_cons_self), hspan]
    · rw [hspan]

variable (htimers : ∀ i, i < 16 → inputs (32 + i)) (hcount : ∀ x e n, inputs e → part (Scarab.count1 x e n) = part x)

include hspan htimers hcount

theorem Scarab.arrive_keeps (now fuel e n : Nat) (he : inputs e) (x : Scarab) : part (x.arrive now fuel e n) = part x := by
  induction fuel generalizing x e n with
  | zero => rfl
  | succ fuel ih =>
    rw [Scarab.arrive_succ]
    split
    · rw [Scarab.foldl_stampSpan_keeps part hspan (fun i hi x => ih _ _ (htimers i hi) x) e _ fun i hi => List.mem_range.mp hi,
        hcount x e n he]
    · rfl

/-- An arrival does to such a part what its own count does. -/
theorem Scarab.arrive_eq_count1 (now fuel e : Nat) (hin : inputCounts e = true) (x : Scarab) :
    part (x.arrive now (fuel + 1) e 1) = part (x.count1 e 1) := by
  rw [Scarab.arrive_succ, hin, Bool.true_and, if_pos (by decide),
    Scarab.foldl_stampSpan_keeps part hspan
      (fun i hi x => Scarab.arrive_keeps part inputs hspan htimers hcount now fuel (32 + i) 1 (htimers i hi) x) e _
      fun i hi => List.mem_range.mp hi]

end

theorem Scarab.count1_live_ne (x : Scarab) {e j : Nat} (n : Nat) (h : j ≠ e) : (x.count1 e n).live.get 0 j = x.live.get 0 j :=
  Tab.get_set_ne _ _ _ h

theorem State.arrive_mail (s : State) (e n mc : Nat) : (s.arrive e n mc).scb.mail = s.scb.mail :=
  Scarab.arrive_keeps (·.mail) (fun _ => True) (fun _ _ => rfl) (fun _ _ => trivial) (fun _ _ _ _ => rfl) _ 17 e n trivial s.scb

/-- The count at a doorbell input is left by an arrival at any other input. -/
theorem State.arrive_live_ne (s : State) {e b : Nat} (h : e ≠ 48 + b) (n mc : Nat) :
    (s.arrive e n mc).scb.live.get 0 (48 + b) = s.scb.live.get 0 (48 + b) :=
  Scarab.arrive_keeps (·.live.get 0 (48 + b)) (· ≠ 48 + b) (fun _ _ => rfl) (fun _ _ => by omega)
    (fun x _ n he => x.count1_live_ne n (Ne.symm he)) _ 17 e n h s.scb

/-- An arrival at a doorbell input counts there once. -/
theorem State.arrive_live_self (s : State) {b : Nat} (hb : b < 16) (mc : Nat) :
    (s.arrive (48 + b) 1 mc).scb.live.get 0 (48 + b) = min 15 (s.scb.live.get 0 (48 + b) + 1) := by
  have hin : inputCounts (48 + b) = true := by simp [inputCounts]; omega
  have h := Scarab.arrive_eq_count1 (·.live.get 0 (48 + b)) (· ≠ 48 + b) (fun _ _ => rfl) (fun _ _ => by omega)
    (fun x _ n he => x.count1_live_ne n (Ne.symm he)) ((s.scb.count + mc) % 2 ^ 48) 16 (48 + b) hin s.scb
  exact h.trans (Tab.get_set_self _ _ _ _)

/-- Doorbell arrivals, one at e(48 + n) for each `n` of a list. -/
def State.ringInputs (s : State) (mc : Nat) (l : List Nat) : State := s.forEach l fun st n => st.arrive (48 + n) 1 mc

theorem State.ringInputs_cons (s : State) (mc n : Nat) (l : List Nat) :
    s.ringInputs mc (n :: l) = (s.arrive (48 + n) 1 mc).ringInputs mc l := rfl

theorem State.ringDoorbell_eq (s : State) (v mc : Nat) : s.ringDoorbell v mc = s.ringInputs mc ((List.range 16).filter v.testBit) := rfl

theorem State.ringInputs_onlyScb (s : State) (mc : Nat) (l : List Nat) : s.ringInputs mc l = { s with scb := (s.ringInputs mc l).scb } := by
  induction l generalizing s with
  | nil => rfl
  | cons n l ih => rw [State.ringInputs_cons]; exact ih _

theorem State.ringInputs_mail (s : State) (mc : Nat) (l : List Nat) : (s.ringInputs mc l).scb.mail = s.scb.mail := by
  induction l generalizing s with
  | nil => rfl
  | cons n l ih => rw [State.ringInputs_cons, ih, State.arrive_mail]

theorem State.ringInputs_live {b : Nat} (hb : b < 16) (mc : Nat) (l : List Nat) (hl : l.Nodup) (s : State) :
    (s.ringInputs mc l).scb.live.get 0 (48 + b) =
      if b ∈ l then min 15 (s.scb.live.get 0 (48 + b) + 1) else s.scb.live.get 0 (48 + b) := by
  induction l generalizing s with
  | nil => rfl
  | cons n l ih =>
    obtain ⟨hn, hl⟩ := List.nodup_cons.mp hl
    rw [State.ringInputs_cons, ih hl]
    by_cases h : b = n
    · subst h
      rw [if_neg hn, if_pos List.mem_cons_self, s.arrive_live_self hb]
    · rw [s.arrive_live_ne (by omega)]
      simp [h]

theorem State.ringDoorbell_live (s : State) {b : Nat} (hb : b < 16) (v mc : Nat) :
    (s.ringDoorbell (v % 2 ^ 16) mc).scb.live.get 0 (48 + b) =
      if v.testBit b then min 15 (s.scb.live.get 0 (48 + b) + 1) else s.scb.live.get 0 (48 + b) := by
  rw [State.ringDoorbell_eq, State.ringInputs_live hb mc _ (List.nodup_range.filter _)]
  simp only [List.mem_filter, List.mem_range, Nat.testBit_mod_two_pow, hb, decide_true, Bool.true_and, true_and]

end Sys2Proof.Machine
end

section
/-! SUPPORT. What the commands that access registers answer, over a path that reaches them. -/

namespace Sys2Proof.Machine

variable {s : State} {p : Path} {k w n x i a v be mc o : Nat} {b : Block}

section
variable (hp : s.reaches p)
include hp

theorem exec_wkrPdctlOnWrite (hup : s.workerUp w = true) (h0 : (s.worker w).powered 0 = true) (hg : s.gate (.worker w) 0x100 = 0) :
    exec (.wkrPdctlOnWrite p w v) s = .next (s.writePdctl w v 15 0) := by
  have h : exec (.wkrPdctlOnWrite p w v) s = .next (s.rowWrite p (s.workerBlock w 0x100) v 0) := rfl
  rw [h, State.workerBlock, if_pos hup, State.rowWrite_wkrPdctl hp h0 hg]

theorem exec_wkrPdctlForceWrite (hup : s.workerUp w = true) (h0 : (s.worker w).powered 0 = true) (hg : s.gate (.worker w) 0x100 = 0) :
    exec (.wkrPdctlForceWrite p w v) s = .next (s.writePdctl w (v ||| 2 ^ 31) 15 0) :=
  exec_wkrPdctlOnWrite hp hup h0 hg

theorem exec_stgCvtWrite (hup : s.workerUp w = true) (hn : n < 50) (h0 : (s.worker w).powered (clusterOf n) = true)
    (hg : s.gate (.worker w) (0x4000 + 0x100 * n + 0xC) = 0) :
    exec (.stgCvtWrite p w n v) s = .next (s.updCore w n fun x => x.clearCvt (v % 2 ^ 32)) := by
  have h : exec (.stgCvtWrite p w n v) s =
      .next (s.rowWrite p (if n < 50 then s.workerBlock w (0x4000 + 0x100 * n + 0xC) else none) v 0) := rfl
  rw [h, if_pos hn, State.workerBlock, if_pos hup, State.rowWrite_stgCvt hp hn h0 hg]

theorem exec_wkrMemdropWrite (hup : s.workerUp w = true) (h0 : (s.worker w).powered 0 = true) (hg : s.gate (.worker w) 0x304 = 0) :
    exec (.wkrMemdropWrite p w v) s = .next (s.updWorker w fun x => x.clearDrop (v % 2 ^ 32)) := by
  have h : exec (.wkrMemdropWrite p w v) s = .next (s.rowWrite p (s.workerBlock w 0x304) v 0) := rfl
  rw [h, State.workerBlock, if_pos hup, State.rowWrite_wkrMemdrop hp h0 hg]

theorem exec_wvlTrctlWrite (hx : s.fit.tileOk x = true) (hg : s.gate (.tile x) 0x28 = 0) :
    exec (.wvlTrctlWrite p x v) s = .next (s.updTile x fun y => y.writeTrctl v 15) := by
  have h : exec (.wvlTrctlWrite p x v) s = .next (s.rowWrite p (if s.fit.tileOk x then some (.tile x, 0x28) else none) v 0) := rfl
  rw [h, if_pos hx, State.rowWrite_wvlTrctl hp hg]

theorem exec_wvlTrselWrite (hx : s.fit.tileOk x = true) (hi : i < 2) (hg : s.gate (.tile x) (0x20 + 4 * i) = 0) :
    exec (.wvlTrselWrite p x i v) s = .next (s.updTile x fun y => y.writeTrsel i v 15) := by
  have h : exec (.wvlTrselWrite p x i v) s =
      .next (s.rowWrite p (if s.fit.tileOk x && decide (i < 2) then some (.tile x, 0x20 + 4 * i) else none) v 0) := rfl
  rw [h, if_pos (by simp [hx, hi]), State.rowWrite_wvlTrsel hp hi hg]

theorem exec_scbDoorbell (hg : s.gate .scb 0x14 = 0) : exec (.scbDoorbell p v mc) s = .next (s.ringDoorbell (v % 2 ^ 16) mc) := by
  cases p with
  | host k =>
    have h : exec (.scbDoorbell (.host k) v mc) s = .next (s.hostAccess k fun st =>
        if st.gate .scb 0x14 ≠ 0 then st.recordAt k (st.gate .scb 0x14) (some 0x20014) else st.ringDoorbell (v % 2 ^ 16) mc) := rfl
    rw [h, State.hostAccess_of_hostReady hp, if_neg (not_not.mpr hg)]
  | mgmt port =>
    have hopen : s.mgmtOpen port = true := hp
    have h : exec (.scbDoorbell (.mgmt port) v mc) s =
        if s.mgmtOpen port && s.gate .scb 0x14 == 0 then .next (s.ringDoorbell (v % 2 ^ 16) mc) else .next s := rfl
    rw [h, if_pos (by simp [hopen, hg])]

theorem exec_coefficientWindowWrite {e : Engine} {h ofs : Nat} {bytes : List Byte} (he : s.fit.engineOk e = true)
    (hg : s.gate (engineBlock e) 0x30000 = 0) :
    exec (.coefficientWindowWrite p e h ofs bytes mc) s = .next (s.writeWindow e h ofs bytes mc false) := by
  have hwin (k : Option Nat) : s.windowAccess k e h ofs bytes mc = s.writeWindow e h ofs bytes mc false := by
    simp [State.windowAccess, he, hg]
  cases p with
  | host k =>
    have hx : exec (.coefficientWindowWrite (.host k) e h ofs bytes mc) s =
        .next (s.hostAccess k fun st => st.windowAccess (some k) e h ofs bytes mc) := rfl
    rw [hx, State.hostAccess_of_hostReady hp, hwin]
  | mgmt port =>
    have hopen : s.mgmtOpen port = true := hp
    have hx : exec (.coefficientWindowWrite (.mgmt port) e h ofs bytes mc) s =
        if s.mgmtOpen port then .next (s.windowAccess none e h ofs bytes mc) else .next s := rfl
    rw [hx, if_pos hopen, hwin]

end

section
variable (hk : s.hostReady k) (hpl : s.linkPlace k a = some (b, o))
include hk hpl

theorem exec_registerWrite_host :
    exec (.registerWrite (.host k) a v be mc) s = .next (s.hostWrite1 k b o v be mc (some a)) := by
  have h : exec (.registerWrite (.host k) a v be mc) s = .next (s.hostAccess k fun st =>
      match st.linkPlace k a with | none => st | some (b, o) => st.hostWrite1 k b o v be mc (some a)) := rfl
  rw [h, State.hostAccess_of_hostReady hk, hpl]

theorem exec_registerWrite_accepted (hreg : (s.regVal 0 b o).isSome = true) (hg : s.gate b o = 0) :
    exec (.registerWrite (.host k) a v be mc) s = .next (s.writeReg (some k) b o v be mc false) := by
  rw [exec_registerWrite_host hk hpl]
  simp [State.hostWrite1, State.regWrite1_of_gate_zero hreg hg]

theorem exec_registerWrite_refused (hreg : (s.regVal 0 b o).isSome = true) (hg : s.gate b o ≠ 0) :
    exec (.registerWrite (.host k) a v be mc) s = .next (s.recordRefusal k (s.gate b o) a) := by
  rw [exec_registerWrite_host hk hpl]
  simp [State.hostWrite1, State.regWrite1_of_gate_ne_zero hreg hg, hg, State.recordAt]

theorem exec_latchedRead_host :
    exec (.latchedRead (.host k) a mc) s =
      .next ((s.readReg (.host k) mc b o).2.emit (.reg (.host k) a (s.readReg (.host k) mc b o).1)) := by
  have h : exec (.latchedRead (.host k) a mc) s =
      if s.fit.sleds ≤ k ∨ !(s.hub k).linkUp ∨ s.mgr.mode = .off then .next s
      else if s.mgr.mode = .bringUp then .next (s.emit (.pcie k 2))
      else .next ((s.readAt (.host k) mc (s.linkPlace k a)).2.emit (.reg (.host k) a (s.readAt (.host k) mc (s.linkPlace k a)).1)) := rfl
  obtain ⟨hfit, hup, hoff, hbring⟩ := hk
  rw [h, if_neg (by simp [hfit, hup, hoff]), if_neg hbring, hpl]
  rfl

end

theorem exec_registerWrite_mgmt {port : Nat} (hopen : s.mgmtOpen port = true) (hpl : s.spacePlace a = some (b, o))
    (hreg : (s.regVal 0 b o).isSome = true) (hg : s.gate b o = 0) :
    exec (.registerWrite (.mgmt port) a v be mc) s = .next (s.writeReg none b o v be mc false) := by
  have h : exec (.registerWrite (.mgmt port) a v be mc) s =
      if s.mgmtOpen port then
        match s.spacePlace a with | none => .next s | some (b, o) => .next (s.regWrite1 none b o v be mc false).2
      else .next s := rfl
  rw [h, if_pos hopen, hpl]
  simp [State.regWrite1_of_gate_zero hreg hg]

/-- A register that belongs to no set reads its word and latches nothing. -/
theorem State.readReg_of_latchSet_none (h : latchSet b o = none) : s.readReg p mc b o = ((s.regVal mc b o).getD 0, s) := by
  simp [State.readReg, h]

/-- What a read of the low word of HUB.FRAME latches for a path (R43). -/
def State.frameLatch (s : State) (p : Path) (mc i : Nat) : Latch :=
  { path := p, base := blockKey (.hub i) 0x18, vals := [(s.regVal mc (.hub i) 0x1C).getD 0] }

theorem State.readReg_frameLow :
    s.readReg p mc (.hub i) 0x18 = ((s.regVal mc (.hub i) 0x18).getD 0, s.updHost fun h => { h with
      latches := s.frameLatch p mc i :: h.latches.filter fun x => !(x.path == p && x.base == blockKey (.hub i) 0x18) }) := rfl

theorem State.readReg_frameHigh {l : Latch} (h : s.host.latches.find? (fun x => x.path == p && x.base == blockKey (.hub i) 0x18) = some l) :
    s.readReg p mc (.hub i) 0x1C = (l.vals.getD 0 0, s) := by
  simp [State.readReg, latchSet, h]

/-- A coefficient write latches a record, stamped with the frame of the cell's time domain, and leaves what is in force and the other
cells (R55, R266). -/
theorem State.writeWindow_latches {e : Engine} {h ofs : Nat} (bytes : List Byte) (scb : Bool) (he : s.fit.engineOk e = true)
    (hh : h < engineCells e) (hpow : s.cellPowered e h = true) (hofs : ofs < 48) :
    let t := s.writeWindow e h ofs bytes mc scb
    (t.cell e h).latchAt.frame = s.cellFrame e ∧ (t.cell e h).rc = (s.cell e h).rc ∧ (t.cell e h).mode = (s.cell e h).mode ∧
      (t.cell e h).latched.isSome = true ∧ ∀ g, g ≠ h → t.cell e g = s.cell e g := by
  have ht : s.writeWindow e h ofs bytes mc scb =
      s.updCell e h fun x => x.writeWindow h ofs bytes (s.cellFrame e) (s.cycleAt mc) scb := by
    simp [State.writeWindow, he, hh, hpow]
  simp only [ht, State.updCell_cell_self, Cell.writeWindow, if_pos hofs]
  exact ⟨trivial, trivial, trivial, rfl, fun g hg => s.updCell_cell_ne e _ hg⟩

end Sys2Proof.Machine
end

section
/-! The obligation about registers with rows of their own and register accesses. -/

namespace Sys2Proof.Machine

variable {s : State} {i v mc : Nat}

/-- A write that the state refuses completes with its code, its offset and one more refusal at the carrying hub, and nothing else. -/
theorem completes_registerWrite_refused {k a be o : Nat} {b : Block} (hk : s.hostReady k) (hpl : s.linkPlace k a = some (b, o))
    (hreg : (s.regVal 0 b o).isSome = true) (hg : s.gate b o ≠ 0) :
    Completes (.registerWrite (.host k) a v be mc) s fun t =>
      (t.hub k).errCode = s.gate b o ∧ (t.hub k).errOffset = a % 2 ^ 24 ∧ (t.hub k).refused = min 65535 ((s.hub k).refused + 1) ∧
      OnlyHub k s t := by
  refine ⟨_, exec_registerWrite_refused hk hpl hreg hg, ?_, ?_, ?_, s.recordRefusal_onlyHub k _ a⟩ <;>
    simp [State.recordRefusal, satInc, satAdd]

theorem completes_registerWrite_mail {port a : Nat} (hopen : s.mgmtOpen port = true) (hpl : s.spacePlace a = some (.scb, 0x40 + 4 * i))
    (hi : i < 16) (hg : s.gate .scb (0x40 + 4 * i) = 0) :
    Completes (.registerWrite (.mgmt port) a v 15 mc) s fun t =>
      t.scb.mail.get 0 i % 2 ^ 32 = v % 2 ^ 32 ∧ (∀ j, j ≠ i → t.scb.mail.get 0 j = s.scb.mail.get 0 j) ∧
      t = { s with scb := { s.scb with mail := t.scb.mail } } := by
  have h := exec_registerWrite_mgmt (v := v) (be := 15) (mc := mc) hopen hpl (s.regVal_mail_isSome hi) hg
  rw [s.writeReg_mail none hi] at h
  refine ⟨_, h, ?_, fun j hj => Tab.get_set_ne _ _ _ hj, rfl⟩
  rw [State.updScb_scb, Tab.get_set_self, mergeBytes_full_mod]

theorem completes_latchedRead_frameLow {k a : Nat} (hk : s.hostReady k) (hpl : s.linkPlace k a = some (.hub i, 0x18)) :
    Completes (.latchedRead (.host k) a mc) s fun t =>
      t.host.out = s.host.out ++ [.reg (.host k) a ((s.regVal mc (.hub i) 0x18).getD 0)] ∧
      s.frameLatch (.host k) mc i ∈ t.host.latches ∧
      t = { s with host := { s.host with out := t.host.out, latches := t.host.latches } } := by
  have h := exec_latchedRead_host (mc := mc) hk hpl
  rw [State.readReg_frameLow] at h
  exact ⟨_, h, rfl, List.mem_cons_self, rfl⟩

/-- Settles O58: each row is a write of a whole word to the register at its place, and each access is a write or a read of the register
that its link or port places there. -/
theorem registersAreAccessed : Obligations.RegistersAreAccessed := by
  unfold Obligations.RegistersAreAccessed
  constructor
  · intro s p w n x i v mc hp from_
    refine ⟨fun hup => ⟨fun h0 hg => ⟨?on, ?force⟩, fun hn h0 hg => ?cvt, fun h0 hg => ?drop⟩, fun hx hg => ⟨?trctl, fun hi hg => ?trsel⟩,
      fun hg => ?doorbell⟩
    case on =>
      exact completes_updWorker ((exec_wkrPdctlOnWrite hp hup h0 hg).trans (congrArg _ (s.writePdctl_full w v 0))) rfl
    case force =>
      obtain ⟨hon, hforce⟩ := or_bit31_fields v
      have h := exec_wkrPdctlForceWrite (v := v) hp hup h0 hg
      rw [State.writePdctl_full, hon, hforce] at h
      exact completes_updWorker h rfl
    case cvt => exact completes_updCore (exec_stgCvtWrite hp hup hn h0 hg) (StagCore.clearCvt_low _ v)
    case drop => exact completes_updWorker (exec_wkrMemdropWrite hp hup h0 hg) (Worker.clearDrop_low _ v)
    case trctl => exact completes_updTile (exec_wvlTrctlWrite hp hx hg) (Tile.writeTrctl_full _ v)
    case trsel =>
      obtain ⟨t, hexec, htile, hframe⟩ := completes_updTile (exec_wvlTrselWrite (v := v) hp hx hi hg) rfl
      obtain ⟨hsel, hnext, hstop, harm⟩ := Tile.writeTrsel_full (s.tile x) hi v
      exact ⟨t, hexec, htile ▸ hsel, htile ▸ hnext, htile ▸ hstop, htile ▸ harm, hframe⟩
    case doorbell =>
      exact ⟨_, exec_scbDoorbell hp hg, fun b hb => s.ringDoorbell_live hb v mc, s.ringInputs_mail mc _, s.ringInputs_onlyScb mc _⟩
  · intro s k a v be mc port o i h ofs b e bytes l p
    refine ⟨fun hk hpl hreg => ⟨fun hg => ⟨_, exec_registerWrite_accepted hk hpl hreg hg, rfl⟩,
      completes_registerWrite_refused hk hpl hreg⟩, completes_registerWrite_mail, fun hk hpl hset => ?plain, completes_latchedRead_frameLow,
      fun hk hpl hl => ?high, fun hp he hh hpow hg hofs => ?window⟩
    case plain => exact ⟨_, exec_latchedRead_host hk hpl, by rw [State.readReg_of_latchSet_none hset]⟩
    case high => exact ⟨_, exec_latchedRead_host hk hpl, by rw [State.readReg_frameHigh hl]⟩
    case window => exact ⟨_, exec_coefficientWindowWrite hp he hg, State.writeWindow_latches bytes false he hh hpow hofs⟩

end Sys2Proof.Machine
end

section
/-! SUPPORT. The sites of a sled and their indices (R16, R17): index SITES − 1 is site 16, every other index is its own site. -/

namespace Sys2Proof.Machine

theorem sledOf_workerCode (sled : Nat) {site : Nat} (h : site < 32) : sledOf (workerCode sled site) = sled := by
  unfold sledOf workerCode; omega

theorem siteOf_workerCode (sled : Nat) {site : Nat} (h : site < 32) : siteOf (workerCode sled site) = site := by
  unfold siteOf workerCode; omega

@[simp] theorem workerCode_sledOf_siteOf (w : Nat) : workerCode (sledOf w) (siteOf w) = w := Nat.div_add_mod' w 32

namespace Fit

theorem sites_bounds (f : Fit) : 2 ≤ f.sites ∧ f.sites ≤ 17 := by
  unfold sites; cases f.variant <;> decide

theorem mod_sites_lt (f : Fit) (m : Nat) : m % f.sites < f.sites :=
  Nat.mod_lt _ (Nat.lt_of_lt_of_le Nat.two_pos f.sites_bounds.1)

/-- The fitted sites are the spare's, 16, and those numbered below SITES − 1. -/
theorem siteOk_iff {f : Fit} {site : Nat} : f.siteOk site = true ↔ site = 16 ∨ site < f.sites - 1 := by
  unfold siteOk siteList sites
  cases f.variant <;> simp <;> omega

theorem siteIndex_lt {f : Fit} {site : Nat} (h : f.siteOk site = true) : f.siteIndex site < f.sites := by
  have hbounds := f.sites_bounds
  have hsite := siteOk_iff.mp h
  unfold siteIndex; split <;> omega

theorem siteAt_siteIndex {f : Fit} {site : Nat} (h : f.siteOk site = true) : f.siteAt (f.siteIndex site) = site := by
  have hsite := siteOk_iff.mp h
  unfold siteIndex siteAt; split <;> split <;> omega

theorem siteIndex_siteAt {f : Fit} {x : Nat} (h : x < f.sites) : f.siteIndex (f.siteAt x) = x := by
  have hbounds := f.sites_bounds
  unfold siteIndex siteAt; split <;> split <;> omega

theorem siteOk_siteAt {f : Fit} {x : Nat} (h : x < f.sites) : f.siteOk (f.siteAt x) = true := by
  rw [siteOk_iff]; unfold siteAt; split <;> omega

theorem siteOk_lt {f : Fit} {site : Nat} (h : f.siteOk site = true) : site < 32 := by
  have hbounds := f.sites_bounds
  have hsite := siteOk_iff.mp h
  omega

end Fit

end Sys2Proof.Machine
end

section
/-! The obligation about the far end of a board link: the sites of a sled form a ring of SITES places, on which link j leads j + 1 places
on, and link SITES − 2 − j leads the rest of the way round. -/

namespace Sys2Proof.Machine

/-- Going j + 1 places on and then SITES − 1 − j more ends at the start. -/
theorem ring_there_and_back {n x j : Nat} (hx : x < n) (hj : j ≤ n - 2) (hn : 2 ≤ n) : ((x + j + 1) % n + (n - 2 - j) + 1) % n = x := by
  have hround : x + j + 1 + (n - 1 - j) = x + n := by omega
  have hsum : (x + j + 1) % n + (n - 2 - j) + 1 = (x + j + 1) % n + (n - 1 - j) := by omega
  rw [hsum, Nat.mod_add_mod, hround, Nat.add_mod_right, Nat.mod_eq_of_lt hx]

/-- The distance from a place to the one j + 1 places on, less 1, is j. -/
theorem ring_distance {n x j : Nat} (hx : x < n) (hj : j ≤ n - 2) (hn : 2 ≤ n) : ((x + j + 1) % n + n - x - 1) % n = j := by
  have hround : x + j + 1 + (n - x - 1) = j + n := by omega
  have hsum : (x + j + 1) % n + n - x - 1 = (x + j + 1) % n + (n - x - 1) := by omega
  rw [hsum, Nat.mod_add_mod, hround, Nat.add_mod_right, Nat.mod_eq_of_lt (by omega)]

variable {f : Fit}

theorem Fit.sledOf_linkPeer (f : Fit) (w j : Nat) : sledOf (f.linkPeer w j).1 = sledOf w :=
  sledOf_workerCode _ (siteOk_lt (siteOk_siteAt (f.mod_sites_lt _)))

theorem Fit.siteOf_linkPeer (f : Fit) (w j : Nat) : siteOf (f.linkPeer w j).1 = f.siteAt ((f.siteIndex (siteOf w) + j + 1) % f.sites) :=
  siteOf_workerCode _ (siteOk_lt (siteOk_siteAt (f.mod_sites_lt _)))

theorem Fit.siteOk_linkPeer (f : Fit) (w j : Nat) : f.siteOk (siteOf (f.linkPeer w j).1) = true := by
  rw [siteOf_linkPeer]; exact siteOk_siteAt (f.mod_sites_lt _)

theorem Fit.siteIndex_linkPeer (f : Fit) (w j : Nat) :
    f.siteIndex (siteOf (f.linkPeer w j).1) = (f.siteIndex (siteOf w) + j + 1) % f.sites := by
  rw [siteOf_linkPeer]; exact siteIndex_siteAt (f.mod_sites_lt _)

/-- The far end of the far end is the link itself (R17). -/
theorem Fit.linkPeer_linkPeer {w j : Nat} (hw : f.siteOk (siteOf w) = true) (hj : j ≤ f.sites - 2) :
    f.linkPeer (f.linkPeer w j).1 (f.linkPeer w j).2 = (w, j) := by
  have hback : (f.siteIndex (siteOf (f.linkPeer w j).1) + (f.sites - 2 - j) + 1) % f.sites = f.siteIndex (siteOf w) := by
    rw [siteIndex_linkPeer]; exact ring_there_and_back (siteIndex_lt hw) hj f.sites_bounds.1
  calc f.linkPeer (f.linkPeer w j).1 (f.sites - 2 - j)
      = (workerCode (sledOf w) (f.siteAt (f.siteIndex (siteOf w))), f.sites - 2 - (f.sites - 2 - j)) := by
        rw [linkPeer, hback, sledOf_linkPeer]
    _ = (w, j) := by rw [siteAt_siteIndex hw, workerCode_sledOf_siteOf, Nat.sub_sub_self hj]

theorem Fit.linkTo_linkPeer {w j : Nat} (hw : f.siteOk (siteOf w) = true) (hj : j ≤ f.sites - 2) :
    f.linkTo w (siteOf (f.linkPeer w j).1) = j := by
  rw [linkTo, siteIndex_linkPeer]; exact ring_distance (siteIndex_lt hw) hj f.sites_bounds.1

/-- Settles O45: the peer lies j + 1 places on in the ring of its sled's sites, and its link leads the rest of the way round. -/
theorem boardLinksLeadToPeers : Obligations.BoardLinksLeadToPeers := by
  unfold Obligations.BoardLinksLeadToPeers
  intro f w j hw hj
  exact ⟨f.siteOk_linkPeer w j, f.siteIndex_linkPeer w j, rfl, f.sledOf_linkPeer w j, Fit.linkPeer_linkPeer hw hj, Fit.linkTo_linkPeer hw hj⟩

end Sys2Proof.Machine
end

section
/-! SUPPORT. Tick receivers and their domains (R36 to R41): what an edge and a missing tick leave of the other receivers and domains. -/

namespace Sys2Proof.Machine

variable {s : State} {u v : TickUnit} {d : Nat}

/-- An arrival at an event input changes the Scarab engine alone. -/
theorem State.arrive_onlyScb (s : State) (e n mc : Nat) : s.arrive e n mc = { s with scb := (s.arrive e n mc).scb } := rfl

@[simp] theorem State.arrive_hub (s : State) (e n mc k : Nat) : (s.arrive e n mc).hub k = s.hub k := rfl

@[simp] theorem State.updRx_rx_ne (s : State) (f : TickRx → TickRx) (h : rxKey v ≠ rxKey u) : (s.updRx u f).rx v = s.rx v :=
  Tab.get_set_ne _ _ _ h

theorem State.updRx_rx (s : State) (u v : TickUnit) (f : TickRx → TickRx) :
    (s.updRx u f).rx v = if rxKey v = rxKey u then f (s.rx u) else s.rx v := Tab.get_set _ _ _ _ _

/-- One change made to every receiver of a list. -/
def State.updRxs (s : State) (us : List TickUnit) (f : TickRx → TickRx) : State := us.foldl (fun st u => st.updRx u f) s

theorem State.updRxs_onlyRxs (s : State) (us : List TickUnit) (f : TickRx → TickRx) : s.updRxs us f = { s with rxs := (s.updRxs us f).rxs } := by
  induction us generalizing s with
  | nil => rfl
  | cons u us ih => exact ih (s.updRx u f)

/-- What the change leaves of a receiver is left of every receiver. -/
theorem State.updRxs_keeps {β : Type} (part : TickRx → β) {f : TickRx → TickRx} (hf : ∀ r, part (f r) = part r) (us : List TickUnit) (s : State)
    (v : TickUnit) : part ((s.updRxs us f).rx v) = part (s.rx v) := by
  induction us generalizing s with
  | nil => rfl
  | cons u us ih =>
    refine (ih (s.updRx u f)).trans ?_
    rw [State.updRx_rx]
    split
    case isTrue h => rw [hf, show s.rx u = s.rx v by rw [State.rx, State.rx, h]]
    case isFalse => rfl

/-- What the change makes true of a receiver is true of every receiver of the list. -/
theorem State.updRxs_reaches {P : TickRx → Prop} {f : TickRx → TickRx} (hf : ∀ r, P (f r)) {us : List TickUnit} (s : State)
    (h : v ∈ us ∨ P (s.rx v)) : P ((s.updRxs us f).rx v) := by
  induction us generalizing s with
  | nil => exact h.resolve_left List.not_mem_nil
  | cons u us ih =>
    refine ih (s.updRx u f) ?_
    rw [State.updRx_rx]
    split
    · exact .inr (hf _)
    · next hne =>
      rcases h with h | h
      · exact .inl ((List.mem_cons.mp h).resolve_left fun e => hne (congrArg rxKey e))
      · exact .inr h

/-- A counted receiver is one of the receivers of its domain. -/
theorem State.mem_countedRx (h : s.counted u = true) : u ∈ s.countedRx (rxDomain u) := by
  refine List.mem_filter.mpr ⟨?_, h⟩
  cases u with
  | site w =>
    have hfit : sledOf w < s.fit.sleds ∧ siteOf w ∈ s.fit.siteList := by
      simp [State.counted, State.workerUp, Fit.workerOk, Fit.siteOk] at h
      exact h.1.1
    have hne : sledOf w ≠ 8 := by
      have : s.fit.sleds ≤ 8 := by unfold Fit.sleds; split <;> decide
      omega
    simp only [Fit.receivers, rxDomain, if_neg hne, Fit.sledWorkers, List.map_map, List.mem_map]
    exact ⟨siteOf w, hfit.2, congrArg TickUnit.site (workerCode_sledOf_siteOf w)⟩
  | tile t =>
    have hfit : s.fit.tileOk t = true := by simp [State.counted] at h; exact h.1
    have hlt : t < 104 := by
      revert hfit
      unfold Fit.tileOk Fit.edgeTiles Fit.middles
      cases s.fit.variant <;> simp <;> omega
    simp [Fit.receivers, rxDomain, Fit.tiles, hlt, hfit]
  | module k =>
    have hfit : s.fit.moduleOk k = true := by simp [State.counted] at h; exact h.1
    have hlt : k < 35 := by
      revert hfit
      unfold Fit.moduleOk
      cases s.fit.variant <;> simp <;> omega
    simp [Fit.receivers, rxDomain, Fit.modules, hlt, hfit]

/-- A counted fault changes its domain alone, and counts there (R37). -/
theorem State.tickFault_onlyDom (s : State) (u : TickUnit) (next : Bool) :
    ((s.tickFault u next).dom (rxDomain u)).faults = min 65535 ((s.dom (rxDomain u)).faults + 1) ∧
      (∀ e, e ≠ rxDomain u → (s.tickFault u next).dom e = s.dom e) ∧
      s.tickFault u next = { s with doms := (s.tickFault u next).doms } :=
  ⟨by simp [State.tickFault, satInc, satAdd], fun _ he => State.updDom_dom_ne s _ he, rfl⟩

@[simp] theorem State.tickFault_rx (s : State) (u v : TickUnit) (next : Bool) : (s.tickFault u next).rx v = s.rx v := rfl

/-- What a 17th missing tick asks for before the lock is judged (R39, R40): on a sled that no frame starts, on the manager frame a Hold. -/
def State.noteTickLoss (s : State) (d : Nat) : State :=
  if d = 8 then s.updMgr fun m => { m with holdReq := m.holdReq.orElse fun _ => some 2 }
  else if (s.hub d).lossHold then s.updHub d fun h => { h with lossHold := true }
  else (s.updHub d fun h => { h with lossHold := true }).arrive 0 1 0

theorem State.noteTickLoss_eq (s : State) (d : Nat) :
    s.noteTickLoss d =
      { s with mgr := (s.noteTickLoss d).mgr, hubs := (s.noteTickLoss d).hubs, scb := (s.noteTickLoss d).scb } := by
  unfold State.noteTickLoss
  split_ifs
  · rfl
  · rfl
  · rw [State.arrive_onlyScb]; generalize (State.arrive _ 0 1 0).scb = x; rfl

@[simp] theorem State.noteTickLoss_rxs (s : State) (d : Nat) : (s.noteTickLoss d).rxs = s.rxs := by rw [s.noteTickLoss_eq d]

@[simp] theorem State.noteTickLoss_doms (s : State) (d : Nat) : (s.noteTickLoss d).doms = s.doms := by rw [s.noteTickLoss_eq d]

/-- That a Hold is asked for changes neither the state of the machine nor which hubs are held. -/
theorem State.noteTickLoss_inTickHold (s : State) (d e : Nat) : (s.noteTickLoss d).inTickHold e = s.inTickHold e := by
  have hheld : ((s.updHub d fun h => { h with lossHold := true }).hub e).held = (s.hub e).held := by
    rw [State.updHub_hub]; split
    · next h => rw [h]
    · rfl
  unfold State.noteTickLoss State.inTickHold
  split_ifs
  · rfl
  · rw [hheld]; rfl
  · rw [State.arrive_hub, hheld]; rfl

theorem State.noteTickLoss_asks (s : State) (d : Nat) :
    if d = 8 then (s.noteTickLoss d).mgr = { s.mgr with holdReq := some (s.mgr.holdReq.getD 2) }
    else ((s.noteTickLoss d).hub d).lossHold = true ∧ (s.noteTickLoss d).mgr = s.mgr := by
  unfold State.noteTickLoss
  split_ifs
  · cases h : s.mgr.holdReq <;> simp [h]
  · simp
  · rw [State.arrive_hub, State.updHub_hub_self]; exact ⟨rfl, rfl⟩

theorem State.tickLoss_eq (s : State) (u : TickUnit) :
    s.tickLoss u = if s.inTickHold (rxDomain u) then (s.noteTickLoss (rxDomain u)).loseLock (rxDomain u) else s.noteTickLoss (rxDomain u) := by
  rw [← s.noteTickLoss_inTickHold (rxDomain u)]; rfl

/-- The receivers of a domain that stand at 17 missing ticks. -/
def State.lostRx (s : State) (d : Nat) : List TickUnit := (s.countedRx d).filter fun u => (s.rx u).missing == 17

theorem State.loseLock_eq (s : State) (d : Nat) :
    s.loseLock d = s.updRxs (s.lostRx d) fun r => { r with locked := false, run := 0 } := rfl

theorem State.loseLock_onlyRxs (s : State) (d : Nat) : s.loseLock d = { s with rxs := (s.loseLock d).rxs } := s.updRxs_onlyRxs _ _

theorem State.loseLock_missing (s : State) (d : Nat) (v : TickUnit) : ((s.loseLock d).rx v).missing = (s.rx v).missing :=
  State.updRxs_keeps TickRx.missing (f := fun r => { r with locked := false, run := 0 }) (fun _ => rfl) _ s v

theorem State.loseLock_unlocks (s : State) (h : v ∈ s.lostRx d) : ((s.loseLock d).rx v).locked = false :=
  State.updRxs_reaches (P := fun r => r.locked = false) (fun _ => rfl) s (.inl h)

end Sys2Proof.Machine
end

section
/-! The obligations about tick edges and missing ticks: an edge is accepted, is counted as a fault, or acquires a phase; a boundary without
an accepted edge is a missing tick, and the 17th in a row asks for a Hold. -/

namespace Sys2Proof.Machine

variable {s : State} {u : TickUnit} {ofs : Int}

section
variable (hc : s.counted u = true) (hon : s.mgr.mode ≠ .off)
include hc hon

theorem exec_tickEdge : exec (.tickEdge u ofs) s = .next (if (s.rx u).locked then s.edgeLocked u ofs else s.edgeAcquire u ofs) := by
  have h : exec (.tickEdge u ofs) s =
      if s.counted u && !(s.mgr.mode == .off) then .next (if (s.rx u).locked then s.edgeLocked u ofs else s.edgeAcquire u ofs) else .next s := rfl
  rw [h, if_pos (by simp [hc, hon])]

theorem exec_missingTick (ha : (s.rx u).accepted = false) (hl : (s.rx u).locked = true) :
    let s2 := (s.updRx u fun r => { r with missing := min 17 (r.missing + 1), run := 0 }).tickFault u true
    exec (.missingTick u) s = .next (if (s.rx u).missing = 16 then s2.tickLoss u else s2) := by
  have h : exec (.missingTick u) s =
      if s.counted u && !(s.mgr.mode == .off) && !(s.rx u).accepted then
        let r := s.rx u
        let s1 := s.updRx u fun r => { r with missing := min 17 (r.missing + 1), run := 0 }
        if r.locked then
          let s2 := s1.tickFault u true
          .next (if r.missing = 16 then s2.tickLoss u else s2)
        else .next (if s.mgr.mode = .bringUp then s1 else s1.tickFault u true)
      else .next s := rfl
  rw [h, if_pos (by simp [hc, hon, ha])]
  exact if_pos hl

/-- An edge that is not accepted at a counted receiver is a fault of its domain, and nothing else (R37, R40). -/
theorem completes_tickEdge_refused
    (h : (s.rx u).locked = true ∧ (ofs < -32 ∨ 32 < ofs ∨ (s.rx u).accepted = true) ∨ (s.dom (rxDomain u)).refLost = true) :
    Completes (.tickEdge u ofs) s fun t =>
      (t.dom (rxDomain u)).faults = min 65535 ((s.dom (rxDomain u)).faults + 1) ∧ (∀ e, e ≠ rxDomain u → t.dom e = s.dom e) ∧
      t = { s with doms := t.doms } := by
  refine ⟨s.tickFault u (decide (0 ≤ ofs ∧ ofs ≤ 32)), ?_, s.tickFault_onlyDom u _⟩
  rw [exec_tickEdge hc hon]
  congr 1
  by_cases hl : (s.rx u).locked = true
  · rw [if_pos hl, State.edgeLocked, if_neg]
    rintro ⟨⟨hlo, hhi⟩, hacc, href⟩
    rcases h with ⟨-, h | h | h⟩ | h
    · omega
    · omega
    · simp [h] at hacc
    · simp [TickDom.accepts, h] at href
  · have href : (s.dom (rxDomain u)).refLost = true := h.resolve_left fun h => hl h.1
    rw [if_neg hl, State.edgeAcquire, if_neg (by simp [TickDom.accepts, href])]

theorem completes_tickEdge_accepted (hl : (s.rx u).locked = true) (hlo : -32 ≤ ofs) (hhi : ofs ≤ 32) (ha : (s.rx u).accepted = false)
    (href : (s.dom (rxDomain u)).refLost = false) :
    Completes (.tickEdge u ofs) s fun t =>
      t.rx u = { s.rx u with accepted := true, lastOfs := ofs, missing := 0, run := min 64 ((s.rx u).run + 1) } ∧
      (∀ v, rxKey v ≠ rxKey u → t.rx v = s.rx v) ∧ t = { s with rxs := t.rxs } := by
  refine ⟨_, exec_tickEdge hc hon, ?_⟩
  rw [if_pos hl, State.edgeLocked, if_pos ⟨⟨hlo, hhi⟩, by simp [ha], by simp [TickDom.accepts, href]⟩]
  exact ⟨State.updRx_rx_self s u _, fun v hv => s.updRx_rx_ne _ hv, rfl⟩

theorem completes_tickEdge_acquires (hl : (s.rx u).locked = false) (href : (s.dom (rxDomain u)).refLost = false) :
    Completes (.tickEdge u ofs) s fun t =>
      t.rx u = (s.rx u).acquire ofs ∧ (∀ v, rxKey v ≠ rxKey u → t.rx v = s.rx v) ∧ t = { s with rxs := t.rxs } := by
  refine ⟨_, exec_tickEdge hc hon, ?_⟩
  rw [if_neg (by simp [hl]), State.edgeAcquire, if_pos (by simp [TickDom.accepts, href])]
  exact ⟨State.updRx_rx_self s u _, fun v hv => s.updRx_rx_ne _ hv, rfl⟩

end

/-- The next edge of a run (R41). -/
theorem TickRx.acquire_next {r : TickRx} (hrun : 0 < r.run) (hphase : r.phase = ofs / 16) (ha : r.accepted = false) :
    (r.acquire ofs).run = r.run + 1 ∧ (r.acquire ofs).phase = r.phase ∧ (r.acquire ofs).locked = decide (64 ≤ r.run + 1) := by
  have h : 0 < r.run ∧ r.phase = ofs / 16 ∧ (!r.accepted) = true := ⟨hrun, hphase, by simp [ha]⟩
  simp only [TickRx.acquire, if_pos h]
  exact ⟨trivial, hphase.symm, trivial⟩

/-- The first edge of a new run (R41). -/
theorem TickRx.acquire_first {r : TickRx} (h : r.run = 0 ∨ r.phase ≠ ofs / 16 ∨ r.accepted = true) :
    (r.acquire ofs).run = 1 ∧ (r.acquire ofs).phase = ofs / 16 ∧ (r.acquire ofs).locked = false := by
  have hn : ¬(0 < r.run ∧ r.phase = ofs / 16 ∧ (!r.accepted) = true) := by
    rintro ⟨hrun, hphase, ha⟩
    rcases h with h | h | h
    · omega
    · exact h hphase
    · simp [h] at ha
  simp only [TickRx.acquire, if_neg hn]
  exact ⟨trivial, trivial, rfl⟩

/-- What a missing tick leaves that is not the 17th in a row (R37). -/
theorem completes_missingTick_counts (hc : s.counted u = true) (hon : s.mgr.mode ≠ .off) (ha : (s.rx u).accepted = false)
    (hl : (s.rx u).locked = true) (hm : (s.rx u).missing ≠ 16) :
    Completes (.missingTick u) s fun t =>
      t.rx u = { s.rx u with missing := min 17 ((s.rx u).missing + 1), run := 0 } ∧
      (t.dom (rxDomain u)).faults = min 65535 ((s.dom (rxDomain u)).faults + 1) ∧ t = { s with rxs := t.rxs, doms := t.doms } := by
  refine ⟨_, exec_missingTick hc hon ha hl, ?_⟩
  rw [if_neg hm]
  exact ⟨by simp, (State.tickFault_onlyDom _ u true).1, rfl⟩

/-- What the 17th missing tick in a row does (R39, R40). -/
theorem completes_missingTick_loss (hc : s.counted u = true) (hon : s.mgr.mode ≠ .off) (ha : (s.rx u).accepted = false)
    (hl : (s.rx u).locked = true) (hm : (s.rx u).missing = 16) :
    Completes (.missingTick u) s fun t =>
      (t.rx u).missing = min 17 ((s.rx u).missing + 1) ∧ (t.dom (rxDomain u)).faults = min 65535 ((s.dom (rxDomain u)).faults + 1) ∧
      (t.rx u).locked = (!s.inTickHold (rxDomain u)) ∧
      (if rxDomain u = 8 then t.mgr = { s.mgr with holdReq := some (s.mgr.holdReq.getD 2) }
        else (t.hub (rxDomain u)).lossHold = true ∧ t.mgr = s.mgr) ∧
      t = { s with rxs := t.rxs, doms := t.doms, mgr := t.mgr, hubs := t.hubs, scb := t.scb } := by
  refine ⟨_, exec_missingTick hc hon ha hl, ?_⟩
  rw [if_pos hm]
  let s2 := (s.updRx u fun r => { r with missing := min 17 (r.missing + 1), run := 0 }).tickFault u true
  let s3 := s2.noteTickLoss (rxDomain u)
  have hrx : s3.rx u = { s.rx u with missing := min 17 ((s.rx u).missing + 1), run := 0 } := by
    rw [State.rx, s2.noteTickLoss_rxs (rxDomain u)]; exact State.updRx_rx_self s u fun r => { r with missing := min 17 (r.missing + 1), run := 0 }
  have hfaults : (s3.dom (rxDomain u)).faults = min 65535 ((s.dom (rxDomain u)).faults + 1) := by
    rw [State.dom, s2.noteTickLoss_doms (rxDomain u)]; exact (State.tickFault_onlyDom _ u true).1
  have hasks := s2.noteTickLoss_asks (rxDomain u)
  have hframe : s3 = { s with rxs := s3.rxs, doms := s3.doms, mgr := s3.mgr, hubs := s3.hubs, scb := s3.scb } := by
    rw [s2.noteTickLoss_rxs (rxDomain u), s2.noteTickLoss_doms (rxDomain u)]; exact s2.noteTickLoss_eq (rxDomain u)
  rw [s2.tickLoss_eq u, show s2.inTickHold (rxDomain u) = s.inTickHold (rxDomain u) from rfl]
  split
  case isFalse hh => exact ⟨by rw [hrx], hfaults, by rw [hrx]; simpa [hh] using hl, hasks, hframe⟩
  case isTrue hh =>
    have hmem : u ∈ s3.lostRx (rxDomain u) :=
      List.mem_filter.mpr ⟨State.mem_countedRx (by rw [hframe]; exact hc), by rw [hrx, hm]; rfl⟩
    have hrxs := s3.loseLock_onlyRxs (rxDomain u)
    refine ⟨?_, ?_, ?_, ?_, ?_⟩
    · rw [s3.loseLock_missing, hrx]
    · rw [hrxs]; exact hfaults
    · rw [s3.loseLock_unlocks hmem, hh]; rfl
    · rw [hrxs]; exact hasks
    · rw [hrxs, hframe]

/-- Settles O20: an edge that is not accepted leaves the receivers as they were, so that the missing tick that follows still counts. -/
theorem tickFaultsAreCounted : Obligations.TickFaultsAreCounted := by
  unfold Obligations.TickFaultsAreCounted
  intro s u ofs hc hon hl
  have hmissing : ∀ t : State, t.counted u = true → t.mgr.mode ≠ .off → t.rx u = s.rx u → (s.rx u).accepted = false →
      Completes (.missingTick u) t fun v => (v.rx u).missing = min 17 ((s.rx u).missing + 1) := by
    intro t hct hont hrx ha
    rw [← hrx] at ha hl ⊢
    by_cases hm : (t.rx u).missing = 16
    · obtain ⟨v, hv, hmiss, -⟩ := completes_missingTick_loss hct hont ha hl hm
      exact ⟨v, hv, hmiss⟩
    · obtain ⟨v, hv, hrec, -⟩ := completes_missingTick_counts hct hont ha hl hm
      exact ⟨v, hv, congrArg TickRx.missing hrec⟩
  refine ⟨fun hbad => ?_, hmissing s hc hon rfl⟩
  obtain ⟨t, ht, hfaults, hdoms, hframe⟩ := completes_tickEdge_refused hc hon (.inl ⟨hl, hbad⟩)
  refine ⟨t, ht, hfaults, by rw [hframe], hdoms, hframe, hmissing t ?_ ?_ ?_⟩
  all_goals rw [hframe]
  · exact hc
  · exact hon
  · rfl

/-- Settles O19: the cases of an edge and of a missing tick, each from what the receiver and its domain are. -/
theorem ticksAreJudged : Obligations.TicksAreJudged := by
  unfold Obligations.TicksAreJudged
  constructor
  · intro s u ofs hc hon r d
    refine ⟨fun hl => ⟨completes_tickEdge_accepted hc hon hl, fun hbad => ?outside⟩, fun hl href => ?acquire, fun href => ?lost,
      fun ha hl => ?missing⟩
    case outside => exact completes_tickEdge_refused hc hon (.inl ⟨hl, hbad.imp_right .inl⟩)
    case acquire =>
      obtain ⟨t, ht, hrec, hothers, hframe⟩ := completes_tickEdge_acquires (ofs := ofs) hc hon hl href
      refine ⟨t, ht, hothers, hframe, ?_⟩
      rw [hrec]
      exact ⟨rfl, TickRx.acquire_next, TickRx.acquire_first⟩
    case lost =>
      obtain ⟨t, ht, hfaults, hdoms, hframe⟩ := completes_tickEdge_refused (ofs := ofs) hc hon (.inr href)
      exact ⟨t, ht, by rw [hframe], hfaults, hdoms, hframe⟩
    case missing =>
      by_cases hm : r.missing = 16
      · obtain ⟨t, ht, hmiss, hfaults, hlock, hasks, hframe⟩ := completes_missingTick_loss hc hon ha hl hm
        exact ⟨t, ht, hmiss, hfaults, fun hne => absurd hm hne, fun _ => ⟨hlock, hasks, hframe⟩⟩
      · obtain ⟨t, ht, hrec, hfaults, hframe⟩ := completes_missingTick_counts hc hon ha hl hm
        exact ⟨t, ht, by rw [hrec], hfaults, fun _ => ⟨by rw [hrec]; exact hl, hframe⟩, fun he => absurd he hm⟩
  · intro s d hon
    have hoff : (s.mgr.mode == .off) = false := by simp [hon]
    refine ⟨⟨s.updDom (domainNo d) fun x => { x with refOk := false, refLost := true, refBack := false }, ?_,
        State.updDom_dom_self s _ _, fun e he => State.updDom_dom_ne s _ he, rfl⟩,
      ⟨s.updDom (domainNo d) fun x => { x with refBack := true }, ?_, State.updDom_dom_self s _ _,
        fun e he => State.updDom_dom_ne s _ he, rfl⟩⟩
    · show execReferenceLoss d s = _
      rw [execReferenceLoss, hoff]; rfl
    · show execReferenceReturn d s = _
      rw [execReferenceReturn, hoff]; rfl

end Sys2Proof.Machine
end

section
/-! SUPPORT. The clock of the machine: a helper for the obligation about the manager's boundary. -/

namespace Sys2Proof.Machine

/-- The fit, the manager's frame and the commands that wait to be decided: what the boundary's work does not touch. Each law says so of one
operation; an operation that queues or takes commands says which. -/
def State.clock (s : State) : Fit × Nat × List (Nat × Cmd) := (s.fit, s.mgr.frame, s.host.intake)

@[simp] theorem State.clock_fold (s : State) : (s.fit, s.mgr.frame, s.host.intake) = s.clock := rfl

@[simp] theorem State.clock_mk (fit : Fit) (mgr : Mgr) (rxs : Tab TickRx) (doms : Tab TickDom) (hubs : Tab Hub) (workers : Tab Worker)
    (mem : List Host.Cell) (keyTag : Tab Nat) (circs : Tab Circ) (lports : Tab LPort) (tiles : Tab Tile) (modules : Tab Module) (img : Img)
    (owners : Owners) (mound : MoundWork) (groups : Tab Group) (plane : Plane) (search : Search) (scb : Scarab) (ktd : Ktd) (light : Light)
    (host : HostSide) (pending : List Instr) :
    State.clock ⟨fit, mgr, rxs, doms, hubs, workers, mem, keyTag, circs, lports, tiles, modules, img, owners, mound, groups, plane, search,
      scb, ktd, light, host, pending⟩ = (fit, mgr.frame, host.intake) := rfl

@[simp] theorem foldl_clock {α : Type} (f : State → α → State) (h : ∀ s a, (f s a).clock = s.clock) (l : List α) (s : State) :
    (l.foldl f s).clock = s.clock := by
  induction l generalizing s with
  | nil => rfl
  | cons a l ih => rw [List.foldl_cons, ih, h]

@[simp] theorem State.updHub_clock (s : State) (k : Nat) (f : Hub → Hub) : (State.updHub s k f).clock = s.clock := by simp [State.updHub]

@[simp] theorem State.updWorker_clock (s : State) (w : Nat) (f : Worker → Worker) : (State.updWorker s w f).clock = s.clock := by simp [State.updWorker]

@[simp] theorem State.updCirc_clock (s : State) (c : Nat) (f : Circ → Circ) : (State.updCirc s c f).clock = s.clock := by simp [State.updCirc]

@[simp] theorem State.updLPort_clock (s : State) (q : Nat) (f : LPort → LPort) : (State.updLPort s q f).clock = s.clock := by simp [State.updLPort]

@[simp] theorem State.updTile_clock (s : State) (t : Nat) (f : Tile → Tile) : (State.updTile s t f).clock = s.clock := by simp [State.updTile]

@[simp] theorem State.updModule_clock (s : State) (k : Nat) (f : Module → Module) : (State.updModule s k f).clock = s.clock := by simp [State.updModule]

@[simp] theorem State.updGroup_clock (s : State) (g : Nat) (f : Group → Group) : (State.updGroup s g f).clock = s.clock := by simp [State.updGroup]

@[simp] theorem State.updDom_clock (s : State) (d : Nat) (f : TickDom → TickDom) : (State.updDom s d f).clock = s.clock := by simp [State.updDom]

@[simp] theorem State.updMgr_clock (s : State) (f : Mgr → Mgr) (h : ∀ x, (f x).frame = x.frame) : (State.updMgr s f).clock = s.clock := by simp [State.updMgr, h]

@[simp] theorem State.updPlane_clock (s : State) (f : Plane → Plane) : (State.updPlane s f).clock = s.clock := by simp [State.updPlane]

@[simp] theorem State.updScb_clock (s : State) (f : Scarab → Scarab) : (State.updScb s f).clock = s.clock := by simp [State.updScb]

@[simp] theorem State.updImg_clock (s : State) (f : Img → Img) : (State.updImg s f).clock = s.clock := by simp [State.updImg]

@[simp] theorem State.updOwners_clock (s : State) (f : Owners → Owners) : (State.updOwners s f).clock = s.clock := by simp [State.updOwners]

@[simp] theorem State.updMound_clock (s : State) (f : MoundWork → MoundWork) : (State.updMound s f).clock = s.clock := by simp [State.updMound]

@[simp] theorem State.updHost_clock (s : State) (f : HostSide → HostSide) (h : ∀ x, (f x).intake = x.intake) : (State.updHost s f).clock = s.clock := by simp [State.updHost, h]

@[simp] theorem State.updSearch_clock (s : State) (f : Search → Search) : (State.updSearch s f).clock = s.clock := by simp [State.updSearch]

@[simp] theorem State.updKtd_clock (s : State) (f : Ktd → Ktd) : (State.updKtd s f).clock = s.clock := by simp [State.updKtd]

@[simp] theorem State.forEach_clock (s : State) (l : List Nat) (f : State → Nat → State) (hf : ∀ s a, (f s a).clock = s.clock) : (State.forEach s l f).clock = s.clock := by simp [State.forEach, hf]

@[simp] theorem State.draw_clock (s : State) : (State.draw s).2.clock = s.clock := by simp [State.draw]

@[simp] theorem State.arrive_clock (s : State) (e n mc : Nat) : (State.arrive s e n mc).clock = s.clock := by simp [State.arrive]

@[simp] theorem State.setMode_clock (s : State) (m : MState) (cause : Nat) : (State.setMode s m cause).clock = s.clock := by
  simp [State.setMode, apply_ite State.clock]

@[simp] theorem State.raise_clock (s : State) (code : Nat) (fields : List (Nat × Nat × Nat)) : (State.raise s code fields).clock = s.clock := by
  unfold State.raise; split <;> simp

@[simp] theorem State.send_clock (s : State) (c : Completion) : (State.send s c).clock = s.clock := by
  unfold State.send; split <;> simp [apply_ite State.clock]

@[simp] theorem State.final_clock (s : State) (c : Cmd) (status : Nat) (result : List (Nat × Nat)) : (State.final s c status result).clock = s.clock := by simp [State.final]

@[simp] theorem State.interim_clock (s : State) (c : Cmd) (result : List (Nat × Nat)) : (State.interim s c result).clock = s.clock := by simp [State.interim]

@[simp] theorem State.finalQ_clock (s : State) (c : Option Cmd) (status : Nat) (result : List (Nat × Nat)) : (State.final? s c status result).clock = s.clock := by
  unfold State.final?; split <;> simp

@[simp] theorem State.broadcast_clock (s : State) (m : Msg) : (State.broadcast s m).clock = s.clock := by simp [State.broadcast]

@[simp] theorem State.emit_clock (s : State) (o : Out) : (State.emit s o).clock = s.clock := by simp [State.emit]

@[simp] theorem State.decideCmd_clock (s : State) (c : Cmd) (op : Nat) (ranges data : Bool) (ok : List MState) (checks : List (Bool × Nat)) (eff : State → State) (heff : ∀ s, (eff s).clock = s.clock) : (State.decideCmd s c op ranges data ok checks eff).clock = s.clock := by
  unfold State.decideCmd
  (repeat' split) <;> simp [heff]

@[simp] theorem State.planInput_clock (s : State) : (State.planInput s).clock = s.clock := by simp [State.planInput]

@[simp] theorem State.parkRoute_clock (s : State) (c : Nat) : (State.parkRoute s c).clock = s.clock := by
  simp [State.parkRoute, apply_ite State.clock]

@[simp] theorem State.parkPlane_clock (s : State) : (State.parkPlane s).clock = s.clock := by simp [State.parkPlane]

@[simp] theorem State.stopGroup_clock (s : State) (g reason : Nat) : (State.stopGroup s g reason).clock = s.clock := by
  simp [State.stopGroup, apply_ite State.clock]

@[simp] theorem State.stopGroups_clock (s : State) (gs : List Nat) (reason : Nat) : (State.stopGroups s gs reason).clock = s.clock := by simp [State.stopGroups]

@[simp] theorem State.tearCircuit_clock (s : State) (c cause : Nat) : (State.tearCircuit s c cause).clock = s.clock := by
  simp [State.tearCircuit, apply_ite State.clock]

@[simp] theorem State.tearCircuits_clock (s : State) (cs : List Nat) (cause : Nat) : (State.tearCircuits s cs cause).clock = s.clock := by simp [State.tearCircuits]

@[simp] theorem State.syncPins_clock (s : State) (w : Nat) : (State.syncPins s w).clock = s.clock := by simp [State.syncPins]

@[simp] theorem State.freeLoad_clock (s : State) (l : MLoad) : (State.freeLoad s l).clock = s.clock := by simp [State.freeLoad]

@[simp] theorem State.scheduleJob_clock (s : State) (g : Nat) : (State.scheduleJob s g).clock = s.clock := by
  unfold State.scheduleJob
  dsimp only
  split <;> simp

@[simp] theorem State.endJob_clock (s : State) (g : Nat) : (State.endJob s g).clock = s.clock := by
  unfold State.endJob; split <;> simp

@[simp] theorem State.loseJob_clock (s : State) (g reason : Nat) : (State.loseJob s g reason).clock = s.clock := by
  unfold State.loseJob; split <;> simp

@[simp] theorem State.abortGroup_clock (s : State) (g reason : Nat) : (State.abortGroup s g reason).clock = s.clock := by
  simp [State.abortGroup, apply_ite State.clock]

@[simp] theorem State.dropQueued_clock (s : State) (p : Nat → Bool) (status : Nat) : (State.dropQueued s p status).clock = s.clock := by simp [State.dropQueued]

@[simp] theorem State.clearCircs_clock (s : State) : (State.clearCircs s).clock = s.clock := by simp [State.clearCircs]

@[simp] theorem State.startSearch_clock (s : State) (cmd : Option Cmd) : (State.startSearch s cmd).clock = s.clock := by simp [State.startSearch]

@[simp] theorem State.cableSearch_clock (s : State) (c : Cmd) : (State.cableSearch s c).clock = s.clock := by simp [State.cableSearch]

@[simp] theorem State.startChecks_clock (s : State) : (State.startChecks s).clock = s.clock := by
  unfold State.startChecks
  (repeat' split) <;> simp

@[simp] theorem State.countSearch_clock (s : State) : (State.countSearch s).clock = s.clock := by simp [State.countSearch]

@[simp] theorem State.delayPaused_clock (s : State) : (State.delayPaused s).clock = s.clock := by
  simp [State.delayPaused, apply_ite State.clock]

@[simp] theorem State.updRx_clock (s : State) (u : TickUnit) (f : TickRx → TickRx) : (State.updRx s u f).clock = s.clock := by simp [State.updRx]

@[simp] theorem State.loseLock_clock (s : State) (d : Nat) : (State.loseLock s d).clock = s.clock := by simp [State.loseLock]

@[simp] theorem State.raiseTickFault_clock (s : State) (d : Nat) : (State.raiseTickFault s d).clock = s.clock := by simp [State.raiseTickFault]

@[simp] theorem State.tickCheck_clock (s : State) (d : Nat) : (State.tickCheck s d).clock = s.clock := by
  simp [State.tickCheck, apply_ite State.clock]

@[simp] theorem State.newKey_clock (s : State) (o : Nat) : (State.newKey s o).2.clock = s.clock := by simp [State.newKey]

@[simp] theorem State.ownerOpen_clock (s : State) (c : Cmd) : (State.ownerOpen s c).clock = s.clock := by simp [State.ownerOpen]

@[simp] theorem State.goLive_clock (s : State) : (State.goLive s).clock = s.clock := by
  unfold State.goLive; split <;> simp

@[simp] theorem State.openBoundary_clock (s : State) : (State.openBoundary s).clock = s.clock := by
  unfold State.openBoundary; split <;> simp [apply_ite State.clock]

@[simp] theorem State.ownerRelease_clock (s : State) (c : Cmd) : (State.ownerRelease s c).clock = s.clock := by
  simp [State.ownerRelease, apply_ite State.clock]

@[simp] theorem State.dropAdapters_clock (s : State) (owners : List Nat) : (State.dropAdapters s owners).clock = s.clock := by simp [State.dropAdapters]

@[simp] theorem State.endOwnerMoves_clock (s : State) (owners : List Nat) : (State.endOwnerMoves s owners).clock = s.clock := by simp [State.endOwnerMoves]

@[simp] theorem State.openErase_clock (s : State) (r : Releasing) : (State.openErase s r).clock = s.clock := by simp [State.openErase]

@[simp] theorem State.eraseDone_clock (s : State) : (State.eraseDone s).clock = s.clock := by
  unfold State.eraseDone; split <;> simp [apply_ite State.clock]

@[simp] theorem State.giveBack_clock (s : State) (c : Cmd) (addr : Nat) (bytes : List Byte) : (State.giveBack s c addr bytes).clock = s.clock := by
  unfold State.giveBack; split <;> simp

@[simp] theorem State.writeBack_clock (s : State) (c : Cmd) (addr : Nat) (bytes : List Byte) (result : List (Nat × Nat)) : (State.writeBack s c addr bytes result).clock = s.clock := by
  simp [State.writeBack, apply_ite State.clock]

@[simp] theorem State.kemKeyCmd_clock (s : State) (c : Cmd) : (State.kemKeyCmd s c).clock = s.clock := by simp [State.kemKeyCmd]

@[simp] theorem State.seek_clock (s : State) (w need : Nat) : (State.seek s w need).1.clock = s.clock := by
  unfold State.seek
  dsimp only
  split <;> simp

@[simp] theorem State.cocoonStore_clock (s : State) (c : Cmd) : (State.cocoonStore s c).clock = s.clock := by simp [State.cocoonStore]

@[simp] theorem State.cocoonDelete_clock (s : State) (c : Cmd) : (State.cocoonDelete s c).clock = s.clock := by simp [State.cocoonDelete]

theorem State.placeLanes_clock (s : State) (b : List Byte) (owner obj : Nat) (l : List (Nat × Nat)) :
    (s.placeLanes b owner obj l).1.clock = s.clock := by
  induction l generalizing s with
  | nil => rfl
  | cons x rest ih =>
    unfold State.placeLanes
    split
    · rw [ih]; simp
    · have hk := State.seek_clock s x.1 (ceilDiv (fieldLE b 0x20 8) 4096)
      split
      · rename_i s1 h
        rw [h] at hk
        exact hk
      · rename_i s1 a h
        rw [h] at hk
        rw [ih]; simpa using hk

@[simp] theorem State.cocoonLoad_clock (s : State) (c : Cmd) : (State.cocoonLoad s c).clock = s.clock := by
  have hk := State.placeLanes_clock s (s.cocoonBytes c) c.aux c.unit c.workers.zipIdx
  unfold State.cocoonLoad
  dsimp only
  split
  · rfl
  split
  · simp
  split
  · simp
  split
  · simp
  split
  · split_ifs <;> simp
  · generalize s.placeLanes (s.cocoonBytes c) c.aux c.unit c.workers.zipIdx = r at hk
    obtain ⟨s1, lane⟩ := r
    cases lane <;> simpa using hk

@[simp] theorem State.failLoad_clock (s : State) (l : MLoad) (code : Nat) (lane : Option Nat) (chunk : Nat) : (State.failLoad s l code lane chunk).clock = s.clock := by simp [State.failLoad]

theorem State.promoteLanes_clock (s : State) (obj : Nat) (l : List Nat) : (s.promoteLanes obj l).1.clock = s.clock := by
  induction l generalizing s with
  | nil => rfl
  | cons w rest ih =>
    unfold State.promoteLanes
    dsimp only
    have hk := State.seek_clock
      (s.updWorker w fun x => { x with objs := x.objs.set obj { (s.worker w).objs.get MObj.init obj with state := 5, toFirst := noRun } })
      w ((s.worker w).objs.get MObj.init obj).pages
    split
    · rename_i s1 a h
      rw [h] at hk
      rw [ih]; simpa using hk
    · rename_i s1 h
      rw [h] at hk
      simpa using hk

@[simp] theorem State.unpromote_clock (s : State) (obj : Nat) (ws : List Nat) : (State.unpromote s obj ws).clock = s.clock := by simp [State.unpromote]

@[simp] theorem State.moundPromote_clock (s : State) (c : Cmd) : (State.moundPromote s c).clock = s.clock := by
  unfold State.moundPromote
  refine State.decideCmd_clock _ _ _ _ _ _ _ _ fun st => ?_
  have hk := State.promoteLanes_clock st c.unit c.workers.dedup
  generalize st.promoteLanes c.unit c.workers.dedup = r at hk
  obtain ⟨s1, done⟩ := r
  cases done
  · simpa using hk
  · dsimp only; split <;> simpa using hk

@[simp] theorem State.promoted_clock (s : State) (w obj : Nat) : (State.promoted s w obj).clock = s.clock := by
  unfold State.promoted; split <;> simp [apply_ite State.clock]

@[simp] theorem State.pinChange_clock (s : State) (c : Cmd) (add : Bool) : (State.pinChange s c add).clock = s.clock := by
  simp [State.pinChange, apply_ite State.clock]

@[simp] theorem State.moundPin_clock (s : State) (c : Cmd) : (State.moundPin s c).clock = s.clock := by simp [State.moundPin]

@[simp] theorem State.moundUnpin_clock (s : State) (c : Cmd) : (State.moundUnpin s c).clock = s.clock := by simp [State.moundUnpin]

@[simp] theorem State.pinned_clock (s : State) (w obj : Nat) : (State.pinned s w obj).clock = s.clock := by simp [State.pinned]

@[simp] theorem State.moundDrop_clock (s : State) (c : Cmd) : (State.moundDrop s c).clock = s.clock := by simp [State.moundDrop]

@[simp] theorem State.moundQuery_clock (s : State) (c : Cmd) : (State.moundQuery s c).clock = s.clock := by simp [State.moundQuery]

@[simp] theorem State.pubkeyAdd_clock (s : State) (c : Cmd) : (State.pubkeyAdd s c).clock = s.clock := by
  simp [State.pubkeyAdd, apply_ite State.clock]

@[simp] theorem State.pubkeyRemove_clock (s : State) (c : Cmd) : (State.pubkeyRemove s c).clock = s.clock := by simp [State.pubkeyRemove]

@[simp] theorem State.settleMound_clock (s : State) : (State.settleMound s).clock = s.clock := by
  unfold State.settleMound
  refine (foldl_clock _ (fun st p => ?_) _ _).trans ((foldl_clock _ (fun st p => ?_) _ _).trans (foldl_clock _ (fun st l => ?_) _ _))
  · simp
  · simp
  · split <;> simp

@[simp] theorem State.setTab_clock (s : State) (e : Engine) (t : Tab Cell) : (State.setTab s e t).clock = s.clock := by
  unfold State.setTab; split <;> simp

@[simp] theorem State.updCell_clock (s : State) (e : Engine) (h : Nat) (f : Cell → Cell) : (State.updCell s e h f).clock = s.clock := by
  simp [State.updCell]

@[simp] theorem State.updCells_clock (s : State) (e : Engine) (hs : List Nat) (f : Nat → Cell → Cell) : (State.updCells s e hs f).clock = s.clock := by simp [State.updCells]

@[simp] theorem State.loopTune_clock (s : State) (c : Cmd) : (State.loopTune s c).clock = s.clock := by
  unfold State.loopTune
  dsimp only
  split <;> simp [apply_ite State.clock]

@[simp] theorem State.endTunes_clock (s : State) : (State.endTunes s).clock = s.clock := by simp [State.endTunes]

@[simp] theorem State.updCal_clock (s : State) (e : Engine) (f : Cal → Cal) : (State.updCal s e f).clock = s.clock := by
  unfold State.updCal; split <;> simp

@[simp] theorem State.rejectCal_clock (s : State) (e : Engine) (r : CalRec) (reason : Nat) : (State.rejectCal s e r reason).clock = s.clock := by simp [State.rejectCal]

@[simp] theorem State.rejectAll_clock (s : State) (e : Engine) (rs : List CalRec) : (State.rejectAll s e rs).clock = s.clock := by
  unfold State.rejectAll
  refine foldl_clock _ (fun st r => ?_) _ _
  split <;> simp

@[simp] theorem State.calFactory_clock (s : State) (c : Cmd) (meas : List RecMeas) : (State.calFactory s c meas).clock = s.clock := by
  unfold State.calFactory
  dsimp only
  split <;> simp [apply_ite State.clock]

@[simp] theorem State.calWrite_clock (s : State) (c : Cmd) : (State.calWrite s c).clock = s.clock := by
  unfold State.calWrite
  refine State.decideCmd_clock _ _ _ _ _ _ _ _ fun st => ?_
  have hrej (e : Engine) (bad : CalRec → Option Nat) (rs : List CalRec) (x : State) :
      (rs.foldl (fun a r => match bad r with | some n => a.rejectCal e r n | none => a) x).clock = x.clock :=
    foldl_clock _ (fun a r => by split <;> simp) _ _
  split
  · rfl
  · dsimp only
    split
    · exact (State.final_clock _ _ _ _).trans (hrej _ _ _ _)
    · exact (State.updCal_clock _ _ _).trans (hrej _ _ _ _)

@[simp] theorem State.verifyTile_clock (s : State) (c : Cmd) : (State.verifyTile s c).clock = s.clock := by simp [State.verifyTile]

@[simp] theorem State.verifyPort_clock (s : State) (c : Cmd) : (State.verifyPort s c).clock = s.clock := by simp [State.verifyPort]

@[simp] theorem State.lacewingPlan_clock (s : State) (c : Cmd) (kind : Nat) (ranges : Bool) : (State.lacewingPlan s c kind ranges).clock = s.clock := by
  simp [State.lacewingPlan, apply_ite State.clock]

@[simp] theorem State.planBypass_clock (s : State) (c : Cmd) : (State.planBypass s c).clock = s.clock := by simp [State.planBypass]

@[simp] theorem State.planEvacuate_clock (s : State) (c : Cmd) : (State.planEvacuate s c).clock = s.clock := by simp [State.planEvacuate]

@[simp] theorem State.planRestore_clock (s : State) (c : Cmd) : (State.planRestore s c).clock = s.clock := by simp [State.planRestore]

@[simp] theorem State.addOp_clock (s : State) (p : Plan) (commit : Nat) (cmd : Option Cmd) (auto : Bool) : (State.addOp s p commit cmd auto).clock = s.clock := by simp [State.addOp]

@[simp] theorem State.startOp_clock (s : State) (p : Plan) (commit : Nat) (cmd : Option Cmd) (auto : Bool) : (State.startOp s p commit cmd auto).clock = s.clock := by simp [State.startOp]

@[simp] theorem State.dropPlan_clock (s : State) : (State.dropPlan s).clock = s.clock := by simp [State.dropPlan]

@[simp] theorem State.lacewingCommit_clock (s : State) (c : Cmd) : (State.lacewingCommit s c).clock = s.clock := by
  unfold State.lacewingCommit
  refine State.decideCmd_clock _ _ _ _ _ _ _ _ fun st => ?_
  split <;> simp

@[simp] theorem State.lacewingCancel_clock (s : State) (c : Cmd) : (State.lacewingCancel s c).clock = s.clock := by simp [State.lacewingCancel]

@[simp] theorem State.settleOps_clock (s : State) : (State.settleOps s).clock = s.clock := by simp [State.settleOps]

@[simp] theorem State.failModule_clock (s : State) (k : Nat) : (State.failModule s k).clock = s.clock := by simp [State.failModule]

@[simp] theorem State.laserFails_clock (s : State) (k lam reason : Nat) : (State.laserFails s k lam reason).clock = s.clock := by
  unfold State.laserFails
  dsimp only
  split <;> simp

@[simp] theorem State.fillSlot0_clock (s : State) : (State.fillSlot0 s).clock = s.clock := by simp [State.fillSlot0]

@[simp] theorem State.failCondemned_clock (s : State) : (State.failCondemned s).clock = s.clock := by simp [State.failCondemned]

/-- The frame count starts anew only where bring-up ends. -/
theorem State.finishBringUp_of_ne {s : State} (h : s.mgr.mode ≠ .bringUp) : s.finishBringUp = s := if_neg fun hc => h hc.1

@[simp] theorem State.nopCmd_clock (s : State) (c : Cmd) : (State.nopCmd s c).clock = s.clock := by simp [State.nopCmd]

@[simp] theorem State.dozeCmd_clock (s : State) (c : Cmd) : (State.dozeCmd s c).clock = s.clock := by simp [State.dozeCmd]

@[simp] theorem State.wakeCmd_clock (s : State) (c : Cmd) : (State.wakeCmd s c).clock = s.clock := by simp [State.wakeCmd]

@[simp] theorem State.finalAll_clock (s : State) (cs : List Cmd) (status : Nat) (result : List (Nat × Nat)) : (State.finalAll s cs status result).clock = s.clock := by simp [State.finalAll]

@[simp] theorem State.cancelDoze_clock (s : State) : (State.cancelDoze s).clock = s.clock := by
  unfold State.cancelDoze; split <;> simp

@[simp] theorem State.settleDoze_clock (s : State) : (State.settleDoze s).clock = s.clock := by
  unfold State.settleDoze; split <;> simp [apply_ite State.clock]

@[simp] theorem State.holdCmd_clock (s : State) (c : Cmd) : (State.holdCmd s c).clock = s.clock := by
  simp [State.holdCmd, apply_ite State.clock]

@[simp] theorem State.enterHold_clock (s : State) : (State.enterHold s).clock = s.clock := by
  unfold State.enterHold; split <;> simp [apply_ite State.clock]

@[simp] theorem State.resume_clock (s : State) : (State.resume s).clock = s.clock := by simp [State.resume]

@[simp] theorem State.startPowerDown_clock (s : State) (at_ : Nat) : (State.startPowerDown s at_).clock = s.clock := by simp [State.startPowerDown]

@[simp] theorem State.resumeCmd_clock (s : State) (c : Cmd) : (State.resumeCmd s c).clock = s.clock := by simp [State.resumeCmd]

@[simp] theorem State.powerDownCmd_clock (s : State) (c : Cmd) : (State.powerDownCmd s c).clock = s.clock := by simp [State.powerDownCmd]

@[simp] theorem State.enterServiceCmd_clock (s : State) (c : Cmd) : (State.enterServiceCmd s c).clock = s.clock := by simp [State.enterServiceCmd]

@[simp] theorem State.leaveServiceCmd_clock (s : State) (c : Cmd) : (State.leaveServiceCmd s c).clock = s.clock := by simp [State.leaveServiceCmd]

@[simp] theorem State.settleService_clock (s : State) : (State.settleService s).clock = s.clock := by
  unfold State.settleService; split <;> simp [apply_ite State.clock]

@[simp] theorem State.plannerLimp_clock (s : State) : (State.plannerLimp s).clock = s.clock := by
  unfold State.plannerLimp; split <;> simp [apply_ite State.clock]

@[simp] theorem State.holdCells_clock (s : State) : (State.holdCells s).clock = s.clock := by simp [State.holdCells]

@[simp] theorem State.overtaken_clock (s : State) : (State.overtaken s).clock = s.clock := by
  simp [State.overtaken, apply_ite State.clock]

@[simp] theorem State.enterLimp_clock (s : State) : (State.enterLimp s).clock = s.clock := by
  unfold State.enterLimp; split <;> simp [apply_ite State.clock]

@[simp] theorem State.beginRestart_clock (s : State) (c : Cmd) (cold : Bool) : (State.beginRestart s c cold).clock = s.clock := by simp [State.beginRestart]

@[simp] theorem State.restartWarm_clock (s : State) (c : Cmd) : (State.restartWarm s c).clock = s.clock := by simp [State.restartWarm]

@[simp] theorem State.coldErase_clock (s : State) : (State.coldErase s).clock = s.clock := by
  unfold State.coldErase; split <;> simp

@[simp] theorem State.restartCold_clock (s : State) (c : Cmd) : (State.restartCold s c).clock = s.clock := by simp [State.restartCold]

@[simp] theorem State.imageLoad_clock (s : State) (c : Cmd) : (State.imageLoad s c).clock = s.clock := by simp [State.imageLoad]

@[simp] theorem State.askReplan_clock (s : State) : (State.askReplan s).clock = s.clock := by simp [State.askReplan]

@[simp] theorem State.imageActivate_clock (s : State) (c : Cmd) : (State.imageActivate s c).clock = s.clock := by
  unfold State.imageActivate
  refine State.decideCmd_clock _ _ _ _ _ _ _ _ fun st => ?_
  dsimp only
  split
  · split <;> simp
  · simp

@[simp] theorem State.replaceGroups_clock (s : State) (id : Nat) (declared : Nat → Bool) : (State.replaceGroups s id declared).clock = s.clock := by
  simp [State.replaceGroups, apply_ite State.clock]

@[simp] theorem State.imageDiscard_clock (s : State) (c : Cmd) : (State.imageDiscard s c).clock = s.clock := by simp [State.imageDiscard]

@[simp] theorem State.imageDeactivate_clock (s : State) (c : Cmd) : (State.imageDeactivate s c).clock = s.clock := by simp [State.imageDeactivate]

@[simp] theorem State.removeImage_clock (s : State) : (State.removeImage s).clock = s.clock := by simp [State.removeImage]

@[simp] theorem State.settleDeact_clock (s : State) : (State.settleDeact s).clock = s.clock := by
  unfold State.settleDeact
  (repeat' split) <;> simp

@[simp] theorem State.wakeByJob_clock (s : State) : (State.wakeByJob s).clock = s.clock := by
  simp [State.wakeByJob, apply_ite State.clock]

@[simp] theorem State.acceptJob_clock (s : State) (c : Cmd) (b : List Byte) : (State.acceptJob s c b).clock = s.clock := by
  unfold State.acceptJob
  dsimp only
  split <;> simp [apply_ite State.clock]

@[simp] theorem State.jobStart_clock (s : State) (c : Cmd) : (State.jobStart s c).clock = s.clock := by
  unfold State.jobStart
  refine State.decideCmd_clock _ _ _ _ _ _ _ _ fun st => ?_
  split
  · simp
  · split <;> simp

@[simp] theorem State.settleWaiting_clock (s : State) : (State.settleWaiting s).clock = s.clock := by
  simp [State.settleWaiting, apply_ite State.clock]

@[simp] theorem State.finishAbort_clock (s : State) (g : Nat) : (State.finishAbort s g).clock = s.clock := by
  unfold State.finishAbort
  dsimp only
  (repeat' split) <;> simp

@[simp] theorem State.jobAbort_clock (s : State) (c : Cmd) : (State.jobAbort s c).clock = s.clock := by
  unfold State.jobAbort
  refine State.decideCmd_clock _ _ _ _ _ _ _ _ fun st => ?_
  split
  · split <;> simp
  · simp
  · simp

@[simp] theorem State.dataImport_clock (s : State) (c : Cmd) : (State.dataImport s c).clock = s.clock := by simp [State.dataImport]

@[simp] theorem State.dataExport_clock (s : State) (c : Cmd) : (State.dataExport s c).clock = s.clock := by simp [State.dataExport]

@[simp] theorem State.planCmd_clock (s : State) (c : Cmd) : (State.planCmd s c).clock = s.clock := by
  simp [State.planCmd, apply_ite State.clock]

@[simp] theorem State.verifyCmd_clock (s : State) (c : Cmd) : (State.verifyCmd s c).clock = s.clock := by
  simp [State.verifyCmd, apply_ite State.clock]

@[simp] theorem State.factoryCmd_clock (s : State) (c : Cmd) : (State.factoryCmd s c).clock = s.clock := by simp [State.factoryCmd]

theorem State.decideState_clock (s : State) (c : Cmd) : ∀ t, State.decideState s c = some t → t.clock = s.clock := by
  unfold State.decideState; split <;> simp

theorem State.decideStore_clock (s : State) (c : Cmd) : ∀ t, State.decideStore s c = some t → t.clock = s.clock := by
  unfold State.decideStore; split <;> simp

theorem State.decideWork_clock (s : State) (c : Cmd) : ∀ t, State.decideWork s c = some t → t.clock = s.clock := by
  unfold State.decideWork; split <;> simp

@[simp] theorem State.decideByOp_clock (s : State) (c : Cmd) : (State.decideByOp s c).clock = s.clock := by
  unfold State.decideByOp
  split
  case h_1 h => exact State.decideState_clock s c _ h
  case h_2 h => exact State.decideStore_clock s c _ h
  case h_3 h => exact State.decideWork_clock s c _ h
  case h_4 => split <;> simp

/-- Deciding the commands of the intake takes all of it and leaves none. -/
theorem State.takeIntake_clock (s : State) : s.takeIntake.clock = (s.fit, s.mgr.frame, []) :=
  foldl_clock _ (fun _ _ => State.decideByOp_clock _ _) _ _

@[simp] theorem State.timeBoundary_clock (s : State) : (State.timeBoundary s).clock = s.clock := by
  simp [State.timeBoundary, apply_ite State.clock]

@[simp] theorem State.raiseReports_clock (s : State) : (State.raiseReports s).clock = s.clock := by simp [State.raiseReports]

@[simp] theorem State.settleRunning_clock (s : State) : (State.settleRunning s).clock = s.clock := by
  simp [State.settleRunning, apply_ite State.clock]

@[simp] theorem State.settle_clock (s : State) : (State.settle s).clock = s.clock := by simp [State.settle]

@[simp] theorem State.refreshScarab_clock (s : State) (slots : Tab (List Nat)) : (State.refreshScarab s slots).clock = s.clock := by simp [State.refreshScarab]

end Sys2Proof.Machine
end

section
/-! SUPPORT. What leaves the manager's record, and what leaves its state, on the way to the end of bring-up in a manager boundary (R61). -/

namespace Sys2Proof.Machine

/-- What every step of a fold leaves, the fold leaves. -/
theorem foldl_keeps {α β : Type} (part : State → β) (f : State → α → State) (h : ∀ s a, part (f s a) = part s) (l : List α) (s : State) :
    part (l.foldl f s) = part s := by
  induction l generalizing s with
  | nil => rfl
  | cons a l ih => rw [List.foldl_cons, ih, h]

@[simp] theorem foldl_mgr {α : Type} (f : State → α → State) (h : ∀ s a, (f s a).mgr = s.mgr) (l : List α) (s : State) :
    (l.foldl f s).mgr = s.mgr := foldl_keeps State.mgr f h l s

@[simp] theorem foldl_mode {α : Type} (f : State → α → State) (h : ∀ s a, (f s a).mgr.mode = s.mgr.mode) (l : List α) (s : State) :
    (l.foldl f s).mgr.mode = s.mgr.mode := foldl_keeps (·.mgr.mode) f h l s

@[simp] theorem State.forEach_mgr (s : State) (l : List Nat) (f : State → Nat → State) (h : ∀ s a, (f s a).mgr = s.mgr) :
    (s.forEach l f).mgr = s.mgr := foldl_mgr f h l s

@[simp] theorem State.forEach_updHub_mgr (s : State) (l : List Nat) (f : State → Nat → Hub → Hub) :
    (s.forEach l fun st k => st.updHub k (f st k)).mgr = s.mgr := State.forEach_mgr s l _ fun _ _ => rfl

@[simp] theorem State.arrive_mgr (s : State) (e n mc : Nat) : (s.arrive e n mc).mgr = s.mgr := rfl

@[simp] theorem State.raise_mgr (s : State) (code : Nat) (fields : List (Nat × Nat × Nat)) : (s.raise code fields).mgr = s.mgr := by
  unfold State.raise
  split <;> simp

@[simp] theorem State.send_mgr (s : State) (c : Completion) : (s.send c).mgr = s.mgr := by
  unfold State.send
  split
  · simp
  · simp
  · split <;> simp

@[simp] theorem State.final_mgr (s : State) (c : Cmd) (status : Nat) (r : List (Nat × Nat)) : (s.final c status r).mgr = s.mgr := by
  simp [State.final]

@[simp] theorem State.finalAll_mgr (s : State) (cs : List Cmd) (status : Nat) (r : List (Nat × Nat)) :
    (s.finalAll cs status r).mgr = s.mgr := by simp [State.finalAll]

@[simp] theorem State.broadcast_mgr (s : State) (m : Msg) : (s.broadcast m).mgr = s.mgr := by simp [State.broadcast]

@[simp] theorem State.stopGroup_mgr (s : State) (g reason : Nat) : (s.stopGroup g reason).mgr = s.mgr := by
  simp [State.stopGroup, apply_ite State.mgr]

@[simp] theorem State.stopGroups_mgr (s : State) (gs : List Nat) (reason : Nat) : (s.stopGroups gs reason).mgr = s.mgr := by
  simp [State.stopGroups]

@[simp] theorem State.tickCheck_mgr (s : State) (d : Nat) : (s.tickCheck d).mgr = s.mgr := by
  unfold State.tickCheck
  rw [foldl_mgr _ fun _ _ => State.updRx_mgr _ _ _]
  simp [State.raiseTickFault, apply_ite State.mgr]

@[simp] theorem State.loseLock_mgr (s : State) (d : Nat) : (s.loseLock d).mgr = s.mgr :=
  foldl_mgr _ (fun _ _ => State.updRx_mgr _ _ _) _ _

@[simp] theorem State.timeBoundary_mgr (s : State) : s.timeBoundary.mgr = s.mgr := by simp [State.timeBoundary, apply_ite State.mgr]

@[simp] theorem State.countSearch_mgr (s : State) : s.countSearch.mgr = s.mgr := rfl

@[simp] theorem State.delayPaused_mgr (s : State) : s.delayPaused.mgr = s.mgr := by
  unfold State.delayPaused
  split
  · rw [State.forEach_mgr _ _ _ fun _ _ => State.updGroup_mgr _ _ _]; simp
  · rfl

@[simp] theorem State.raiseReports_mode (s : State) : s.raiseReports.mgr.mode = s.mgr.mode := by simp [State.raiseReports]

@[simp] theorem State.setMode_mode (s : State) (m : MState) (cause : Nat) : (s.setMode m cause).mgr.mode = m := by
  unfold State.setMode
  split
  · assumption
  · rfl

@[simp] theorem State.cancelDoze_mode (s : State) : s.cancelDoze.mgr.mode = s.mgr.mode := by
  unfold State.cancelDoze
  split <;> simp

@[simp] theorem State.plannerLimp_mgr (s : State) : s.plannerLimp.mgr = s.mgr := by
  unfold State.plannerLimp State.final?
  split
  · split
    · rfl
    · split <;> simp [State.dropPlan]
  · rfl
  · rfl

@[simp] theorem State.endTunes_mode (s : State) : s.endTunes.mgr.mode = s.mgr.mode := by simp [State.endTunes, State.draw]

@[simp] theorem State.holdCells_mgr (s : State) : s.holdCells.mgr = s.mgr := rfl

theorem State.enterLimp_mode (s : State) : s.enterLimp.mgr.mode = s.mgr.mode ∨ s.enterLimp.mgr.mode = .limp := by
  unfold State.enterLimp
  split
  · exact .inl rfl
  · split
    · exact .inl rfl
    · exact .inr (by simp)

theorem State.enterHold_mode (s : State) : s.enterHold.mgr.mode = s.mgr.mode ∨ s.enterHold.mgr.mode = .hold := by
  unfold State.enterHold
  split
  · exact .inl rfl
  · split
    · refine .inr ?_
      dsimp only
      split <;> simp
    · exact .inl rfl

@[simp] theorem State.settleDoze_mode (s : State) : s.settleDoze.mgr.mode = s.mgr.mode := by
  unfold State.settleDoze
  split
  · split <;> simp
  · rfl

/-- Where the machine is not in Bring-up at a boundary, the transitions before the end of bring-up do not lead there. -/
theorem State.settleDoze_ne_bringUp {s : State} (h : s.mgr.mode ≠ .bringUp) : s.enterLimp.enterHold.settleDoze.mgr.mode ≠ .bringUp := by
  have hlimp : s.enterLimp.mgr.mode ≠ .bringUp := by
    rcases s.enterLimp_mode with e | e <;> simp [e, h]
  rw [State.settleDoze_mode]
  rcases s.enterLimp.enterHold_mode with e | e <;> simp [e, hlimp]

/-- Out of Bring-up the transitions of a boundary leave the frame count (R59). -/
theorem State.transitions_clock {s : State} (h : s.mgr.mode ≠ .bringUp) : s.transitions.clock = s.clock := by
  rw [State.transitions, State.finishBringUp_of_ne (State.settleDoze_ne_bringUp h)]
  simp

end Sys2Proof.Machine
end

section
/-! The obligation about a manager boundary. -/

namespace Sys2Proof.Machine

/-- A table that lists what is not 0 reads the first entry at a key, where the key comes once. -/
theorem Tab.get_nonzero_head {k v : Nat} {l : List (Nat × Nat)} (h : ∀ w ∈ l, w.1 ≠ k) :
    Tab.get ⟨((k, v) :: l).filter fun w => w.2 != 0⟩ 0 k = v := by
  by_cases hv : v = 0
  · have hnone : ∀ l : List (Nat × Nat), (∀ w ∈ l, w.1 ≠ k) → Tab.find k (l.filter fun w => w.2 != 0) = none := by
      intro l hl
      induction l with
      | nil => rfl
      | cons w l ih =>
        have htail := ih fun x hx => hl x (List.mem_cons_of_mem _ hx)
        rw [List.filter_cons]
        split
        · rw [Tab.find, if_neg (hl w List.mem_cons_self)]; exact htail
        · exact htail
    simp [hv, Tab.get, Tab.get?, hnone l h]
  · simp [hv, Tab.get, Tab.get?, Tab.find]

theorem Tab.get_nonzero_tail {i k v : Nat} (l : List (Nat × Nat)) (h : i ≠ k) :
    Tab.get ⟨((i, v) :: l).filter fun w => w.2 != 0⟩ 0 k = Tab.get ⟨l.filter fun w => w.2 != 0⟩ 0 k := by
  rw [List.filter_cons]
  split
  · simp [Tab.get, Tab.get?, Tab.find, h]
  · rfl

/-- The first four words of a table that lists what is not 0. -/
theorem Tab.get_nonzero_first {a b c d : Nat} {rest : List (Nat × Nat)} (h : ∀ w ∈ rest, 4 ≤ w.1) :
    let t : Tab Nat := ⟨((0, a) :: (1, b) :: (2, c) :: (3, d) :: rest).filter fun w => w.2 != 0⟩
    t.get 0 0 = a ∧ t.get 0 2 = c ∧ t.get 0 3 = d := by
  have hne (k : Nat) (hk : k < 4) : ∀ w ∈ rest, w.1 ≠ k := fun w hw => by have := h w hw; omega
  refine ⟨Tab.get_nonzero_head ?_, ?_, ?_⟩
  · simpa using fun i v hw => hne 0 (by decide) (i, v) hw
  · rw [Tab.get_nonzero_tail _ (by decide), Tab.get_nonzero_tail _ (by decide)]
    exact Tab.get_nonzero_head (by simpa using fun i v hw => hne 2 (by decide) (i, v) hw)
  · rw [Tab.get_nonzero_tail _ (by decide), Tab.get_nonzero_tail _ (by decide), Tab.get_nonzero_tail _ (by decide)]
    exact Tab.get_nonzero_head (hne 3 (by decide))

theorem inputAt_le {base n : Nat} {f : Nat → Nat} {w : Nat × Nat} (h : w ∈ inputAt base n f) : base ≤ w.1 := by
  simp only [inputAt, List.mem_map] at h
  obtain ⟨i, -, rfl⟩ := h
  exact Nat.le_add_right base i

/-- Words 0, 2 and 3 of the input image: the frame, the state and the machine's tick (Table 13.3). -/
theorem State.inputImage_first (s : State) (slots : Tab (List Nat)) :
    (s.inputImage slots).get 0 0 = s.mgr.frame % 2 ^ 32 ∧ (s.inputImage slots).get 0 2 = s.stateReg ∧
      (s.inputImage slots).get 0 3 = s.tickStat 8 := by
  unfold State.inputImage
  simp only [List.append_assoc, List.cons_append, List.nil_append]
  refine Tab.get_nonzero_first fun w hw => ?_
  simp only [List.mem_append, List.mem_cons] at hw
  rcases hw with h | h | rfl | rfl | h | h | h | h | rfl | h | h
  case inr.inr.inl | inr.inr.inr.inl | inr.inr.inr.inr.inr.inr.inr.inr.inl => simp
  all_goals exact Nat.le_trans (by decide) (inputAt_le h)

theorem Scarab.beginCheck_input (x : Scarab) (frame : Nat) : (x.beginCheck frame).input = x.input := by
  unfold Scarab.beginCheck; split <;> rfl

theorem State.refreshScarab_shows (s : State) (slots : Tab (List Nat)) :
    let t := s.refreshScarab slots
    t.mgr = s.mgr ∧ t.host = s.host ∧ t.scb.input.get 0 0 = s.mgr.frame % 2 ^ 32 ∧ t.scb.input.get 0 2 = t.stateReg ∧
      t.scb.input.get 0 3 = t.tickStat 8 := by
  have hinput : (s.refreshScarab slots).scb.input = s.inputImage slots := Scarab.beginCheck_input _ _
  obtain ⟨hframe, hstate, htick⟩ := s.inputImage_first slots
  exact ⟨rfl, rfl, hinput ▸ hframe, hinput ▸ hstate, hinput ▸ htick⟩

/-- The boundary's work before the transitions of the machine's state. -/
def State.managerWork (s : State) : State :=
  (((s.updMgr Mgr.newFrame).updScb Scarab.newFrame).timeBoundary.tickCheck 8).raiseReports.countSearch.delayPaused

theorem State.managerWork_clock (s : State) : s.managerWork.clock = (s.updMgr Mgr.newFrame).clock := by
  simp only [State.managerWork, State.delayPaused_clock, State.countSearch_clock, State.raiseReports_clock, State.tickCheck_clock,
    State.timeBoundary_clock, State.updScb_clock]

theorem State.managerWork_mode (s : State) : s.managerWork.mgr.mode = s.mgr.mode := by
  simp [State.managerWork, Mgr.newFrame]

/-- The state whose input image Scarab is given. -/
def State.managerDone (s : State) : State := s.managerWork.transitions.settle.takeIntake

theorem exec_managerBoundary {s : State} (h : s.mgr.mode ≠ .off) :
    exec .managerBoundary s = .next (s.managerDone.refreshScarab s.scb.slots) :=
  if_neg h

theorem State.clock_frame (s : State) : s.clock.2.1 = s.mgr.frame := rfl

theorem State.clock_intake (s : State) : s.clock.2.2 = s.host.intake := rfl

theorem State.managerDone_intake (s : State) : s.managerDone.host.intake = [] := by
  rw [← State.clock_intake, State.managerDone, State.takeIntake_clock]

theorem State.managerDone_frame {s : State} (h : s.mgr.mode ≠ .bringUp) : s.managerDone.mgr.frame = s.mgr.frame + 1 := by
  have hwork : s.managerWork.mgr.mode ≠ .bringUp := by rwa [State.managerWork_mode]
  rw [← State.clock_frame, State.managerDone, State.takeIntake_clock]
  dsimp only
  rw [← State.clock_frame, State.settle_clock, State.transitions_clock hwork, State.managerWork_clock]
  exact if_neg h

theorem State.managerDone_pending (s : State) : s.managerDone.pending = s.pending := by
  simp [State.managerDone, State.managerWork]

/-- Settles O23: nothing between the count of the frame and the input image touches the frame again, and the intake is taken last. -/
theorem managerFramesStart : Obligations.ManagerFramesStart := by
  unfold Obligations.ManagerFramesStart
  intro s hon
  obtain ⟨hmgr, hhost, hframe, hstate, htick⟩ := s.managerDone.refreshScarab_shows s.scb.slots
  refine ⟨_, exec_managerBoundary hon, fun hmode => ?_, ?_, ?_, ?_, hstate, htick⟩
  · rw [hmgr, State.managerDone_frame hmode]
  · rw [hhost, State.managerDone_intake]
  · rw [State.refreshScarab_pending, State.managerDone_pending]
  · rw [hframe, hmgr]

end Sys2Proof.Machine
end

section
/-! SUPPORT. Folds over circuits and links, and what stops a group's steps: lemmas for the obligation about the barriers. -/

namespace Sys2Proof.Machine

variable {s : State} {g w b c k p : Nat}

@[simp] theorem State.arrive_worker (s : State) (e n mc w : Nat) : (s.arrive e n mc).worker w = s.worker w := rfl

@[simp] theorem State.arrive_group (s : State) (e n mc g : Nat) : (s.arrive e n mc).group g = s.group g := rfl

theorem State.forEach_updCirc_onlyCircs (s : State) (l : List Nat) (f : Circ → Circ) :
    (s.forEach l fun st c => st.updCirc c f) = { s with circs := (s.forEach l fun st c => st.updCirc c f).circs } := by
  induction l generalizing s with
  | nil => rfl
  | cons c l ih => exact (ih (s.updCirc c f)).trans rfl

theorem State.forEach_updCirc_group (s : State) (l : List Nat) (f : Circ → Circ) (g : Nat) :
    (s.forEach l fun st c => st.updCirc c f).group g = s.group g := by
  rw [State.forEach_updCirc_onlyCircs]; rfl

theorem State.forEach_updCirc_of_notMem {l : List Nat} (s : State) (f : Circ → Circ) (h : c ∉ l) :
    (s.forEach l fun st c => st.updCirc c f).circ c = s.circ c := by
  induction l generalizing s with
  | nil => rfl
  | cons d l ih =>
    obtain ⟨hd, hl⟩ := List.ne_and_not_mem_of_not_mem_cons h
    exact (ih _ hl).trans (State.updCirc_circ_ne _ _ hd)

/-- What every pass through `f` keeps and the first one brings about holds of each circuit of the list. -/
theorem State.forEach_updCirc_reaches {P : Circ → Prop} {f : Circ → Circ} (hf : ∀ x, P (f x)) {l : List Nat} (s : State) (h : c ∈ l) :
    P ((s.forEach l fun st c => st.updCirc c f).circ c) := by
  induction l generalizing s with
  | nil => cases h
  | cons d l ih =>
    rcases em (c ∈ l) with hl | hl
    · exact ih _ hl
    · have hd : c = d := (List.mem_cons.mp h).resolve_right hl
      subst hd
      have hrest := State.forEach_updCirc_of_notMem (s.updCirc c f) f hl
      exact hrest.symm ▸ State.updCirc_circ_self s c f ▸ hf _

theorem State.forEach_updLink_onlyWorkers (s : State) (w : Nat) (l : List Nat) (f : Link → Link) :
    (s.forEach l fun st j => st.updLink w j f) = { s with workers := (s.forEach l fun st j => st.updLink w j f).workers } := by
  induction l generalizing s with
  | nil => rfl
  | cons j l ih => exact (ih (s.updLink w j f)).trans rfl

theorem State.forEach_updLink_group (s : State) (w : Nat) (l : List Nat) (f : Link → Link) (g : Nat) :
    (s.forEach l fun st j => st.updLink w j f).group g = s.group g := by
  rw [State.forEach_updLink_onlyWorkers]; rfl

theorem State.forEach_updLink_keeps {P : Link → Prop} {f : Link → Link} (hf : ∀ x, P x → P (f x)) (l : List Nat) (s : State) {i : Nat}
    (h : P ((s.worker w).link i)) : P (((s.forEach l fun st j => st.updLink w j f).worker w).link i) := by
  induction l generalizing s with
  | nil => exact h
  | cons j l ih =>
    refine ih _ ?_
    rcases eq_or_ne i j with rfl | hne
    · exact (State.updLink_link_self s w i f).symm ▸ hf _ h
    · exact (State.updLink_link_ne s w f hne).symm ▸ h

theorem State.forEach_updLink_reaches {P : Link → Prop} {f : Link → Link} (hf : ∀ x, P (f x)) {l : List Nat} (s : State) {i : Nat} (h : i ∈ l) :
    P (((s.forEach l fun st j => st.updLink w j f).worker w).link i) := by
  induction l generalizing s with
  | nil => cases h
  | cons j l ih =>
    rcases List.mem_cons.mp h with rfl | hl
    · exact State.forEach_updLink_keeps (fun x _ => hf x) l _ ((State.updLink_link_self s w i f).symm ▸ hf _)
    · exact ih _ hl

theorem Link.mem_send (x : Link) (f : Flit) (h : f.cred = 0) : ∃ y ∈ (x.send f).wire, { y with cred := 0 } = f :=
  ⟨_, List.mem_append_right _ (List.mem_singleton_self _), by cases f; cases h; rfl⟩

theorem State.updLink_group (s : State) (w j : Nat) (f : Link → Link) : (s.updLink w j f).group g = s.group g := rfl

/-- What a change of one board link keeps of a link, it keeps of every board link. -/
theorem State.updLink_keeps {β : Type} (part : Link → β) {f : Link → Link} (hf : ∀ x, part (f x) = part x) (s : State) (v j w i : Nat) :
    part (((s.updLink v j f).worker w).link i) = part ((s.worker w).link i) := by
  rcases eq_or_ne w v with rfl | hw
  · rcases eq_or_ne i j with rfl | hj
    · rw [State.updLink_link_self, hf]
    · rw [State.updLink_link_ne s w f hj]
  · rw [State.updLink, State.updWorker_worker_ne s _ hw]

theorem Link.addCredits_wire (x : Link) (n : Nat) : (x.addCredits n).wire = x.wire := by
  unfold Link.addCredits; split <;> rfl

/-- No step of a group starts on a sled on which the group has stopped. -/
theorem State.groupSteps_of_stopped (h : (s.group g).sledsStopped.contains k = true) : s.groupSteps g k = none := by
  unfold State.groupSteps
  dsimp only
  split
  next => rfl
  next => exact if_neg fun ⟨_, _, hgo, _⟩ => by simp [List.contains_iff_mem.mp h] at hgo

theorem State.groupSteps_of_idle (h : s.groupRuns g = false) : s.groupSteps g k = none := by
  unfold State.groupSteps
  dsimp only
  split
  next => rfl
  next hj => simp [State.groupRuns, hj] at h

theorem State.localTrigger_stops (s : State) (k g reason : Nat) : (s.localTrigger k g reason).groupSteps g k = none := by
  unfold State.localTrigger
  split
  next => exact State.groupSteps_of_stopped (by rw [State.updGroup_group_self]; dsimp only; split <;> simp_all)
  next h => exact State.groupSteps_of_idle (by simpa using h)

theorem State.localTrigger_onlyGroups (s : State) (k g reason : Nat) :
    s.localTrigger k g reason = { s with groups := (s.localTrigger k g reason).groups } := by
  unfold State.localTrigger; split <;> rfl

theorem State.localTrigger_done (s : State) (k g reason : Nat) : ((s.localTrigger k g reason).group g).done = (s.group g).done := by
  unfold State.localTrigger; split <;> simp

theorem State.localTrigger_emitted (s : State) (k g reason : Nat) : ((s.localTrigger k g reason).group g).emitted = (s.group g).emitted := by
  unfold State.localTrigger; split <;> simp

theorem State.localTrigger_worker (s : State) (k g reason w : Nat) : (s.localTrigger k g reason).worker w = s.worker w := by
  rw [State.localTrigger_onlyGroups]; rfl

theorem State.localTrigger_hub (s : State) (k g reason i : Nat) : (s.localTrigger k g reason).hub i = s.hub i := by
  rw [State.localTrigger_onlyGroups]; rfl

theorem State.commitMirror_onlyGroups (s : State) (g b : Nat) : s.commitMirror g b = { s with groups := (s.commitMirror g b).groups } := by
  unfold State.commitMirror
  split
  next => rfl
  next => dsimp only; split <;> rfl

theorem State.commitMirror_worker (s : State) (g b w : Nat) : (s.commitMirror g b).worker w = s.worker w := by
  rw [State.commitMirror_onlyGroups]; rfl

theorem State.commitMirror_done (s : State) (g b : Nat) : ((s.commitMirror g b).group g).done = (s.group g).done := by
  unfold State.commitMirror
  split
  next => rfl
  next => dsimp only; split <;> simp

end Sys2Proof.Machine
end

section
/-! The obligation about the barriers. -/

namespace Sys2Proof.Machine

variable {s : State} {g w b c p : Nat}

theorem seamReached_iff : s.seamReached w = true ↔ s.slotsLeft w = false ∧ ∀ x ∈ (s.worker w).inflight, 8128 < x.ready := by
  simp [State.seamReached]

/-- What a token's emission leaves: the token on the barrier circuits, then on the links. -/
def State.emitToken (s : State) (g w b : Nat) : State :=
  let s1 := s.updGroup g fun x => { x with emitted := x.emitted.set w (b + 1) }
  let s2 := s1.forEach (s.barrierCircs g w) fun st c =>
    st.updCirc c fun x => { x with wire := x.wire ++ [tokenFlit g b], tx7 := if x.txBack then false else x.tx7 }
  s2.forEach ((s.groupLinks g w).filter fun j => ((s.worker w).link j).up) fun st j => st.updLink w j fun x => x.send (tokenFlit g b)

theorem exec_barrierTokenEmit (hp : w ∈ s.participants g) (hup : s.workerUp w = true) (hstart : (s.hub (sledOf w)).started = true)
    (hslip : (s.hub (sledOf w)).isSlip = false) (hsteps : (s.groupSteps g (sledOf w)).isSome = true)
    (hlast : ((s.hub (sledOf w)).step + 1) % s.strideOf g = 0)
    (honce : (s.group g).emitted.get 0 w ≤ (s.hub (sledOf w)).step / s.strideOf g) (hseam : s.seamReached w = true) :
    exec (.barrierTokenEmit g w) s = .next (s.emitToken g w ((s.hub (sledOf w)).step / s.strideOf g)) := by
  refine if_pos ?_
  simp [hp, hup, hstart, hslip, hsteps, hlast, hseam, Nat.lt_succ_of_le honce]

theorem State.emitToken_only (s : State) (g w b : Nat) :
    s.emitToken g w b =
      { s with groups := (s.emitToken g w b).groups, circs := (s.emitToken g w b).circs, workers := (s.emitToken g w b).workers } := by
  unfold State.emitToken
  dsimp only
  rw [State.forEach_updLink_onlyWorkers, State.forEach_updCirc_onlyCircs]
  rfl

theorem State.emitToken_group (s : State) (g w b : Nat) :
    (s.emitToken g w b).group g = { s.group g with emitted := (s.group g).emitted.set w (b + 1) } := by
  unfold State.emitToken
  dsimp only
  rw [State.forEach_updLink_group, State.forEach_updCirc_group, State.updGroup_group_self]

theorem State.emitToken_token (b : Nat) (h : c ∈ s.barrierCircs g w) : tokenFlit g b ∈ ((s.emitToken g w b).circ c).wire := by
  unfold State.emitToken
  dsimp only
  rw [State.forEach_updLink_onlyWorkers]
  exact State.forEach_updCirc_reaches (P := fun x => tokenFlit g b ∈ x.wire)
    (fun x => List.mem_append_right _ (List.mem_singleton_self _)) _ h

theorem State.emitToken_circ_ne (b : Nat) (h : c ∉ s.barrierCircs g w) : (s.emitToken g w b).circ c = s.circ c := by
  unfold State.emitToken
  dsimp only
  rw [State.forEach_updLink_onlyWorkers]
  exact State.forEach_updCirc_of_notMem _ _ h

theorem State.emitToken_link (b : Nat) (hj : p ∈ s.groupLinks g w) (hup : ((s.worker w).link p).up = true) :
    ∃ f ∈ (((s.emitToken g w b).worker w).link p).wire, { f with cred := 0 } = tokenFlit g b :=
  State.forEach_updLink_reaches (P := fun x => ∃ f ∈ x.wire, { f with cred := 0 } = tokenFlit g b) (fun x => x.mem_send _ rfl) _
    (List.mem_filter.mpr ⟨hj, hup⟩)

/-- A participant has the tokens of every other participant, as `execBarrierComplete` asks. -/
def State.hasTokens (s : State) (g w b : Nat) : Bool :=
  ((s.participants g).filter fun p => p != w).all fun p => ((s.group g).tokensOf w b).any fun t => t.1 == p

theorem State.hasTokens_iff (s : State) (g w b : Nat) : s.hasTokens g w b = true ↔ s.tokensIn g w b := by
  simp only [State.hasTokens, State.tokensIn, Group.tokensOf, List.all_eq_true, List.any_eq_true, List.mem_filter, List.mem_map, bne_iff_ne]
  refine forall_congr' fun p => ⟨fun h hp hne => ?_, fun h hp => ?_⟩
  · obtain ⟨x, ⟨⟨w', p', b', z⟩, ⟨hmem, hw⟩, rfl⟩, hx⟩ := h ⟨hp, hne⟩
    simp only [Bool.and_eq_true, beq_iff_eq] at hw hx
    obtain ⟨rfl, rfl⟩ := hw
    exact ⟨z, hx ▸ hmem⟩
  · obtain ⟨z, hz⟩ := h hp.1 hp.2
    exact ⟨(p, z), ⟨_, ⟨hz, by simp⟩, rfl⟩, by simp⟩

/-- The group without the tokens of a barrier at a participant. -/
def State.dropTokens (s : State) (g w b : Nat) : State :=
  s.updGroup g fun y => { y with tokens := y.tokens.filter fun t => !(t.1 == w && t.2.2.1 == b % 2 ^ 24) }

/-- A barrier completed at a participant, before a mirror commits. -/
def State.completeBarrier (s : State) (g w b : Nat) : State :=
  let lead := ((s.group g).tokensOf w b).foldl (fun m t => max m t.2) (((s.group g).tokensOf w b).headD (0, 0)).2
  (((s.dropTokens g w b).updGroup g fun y => { y with done := y.done.set w (b + 1) }).updWorker w fun y => { y with barrier := b % 2 ^ 24 }).updHub
    (sledOf w) fun y => { y with maxLead := if y.leadSeen then max y.maxLead lead else lead, leadSeen := true }

theorem exec_barrierComplete (hb : s.dueBarrier g w = some b) (hup : s.workerUp w = true) (hp : w ∈ s.participants g)
    (hdue : s.barrierDue g (sledOf w) b = true) :
    exec (.barrierComplete g w) s = .next
      (if (s.hasTokens g w b && s.barrierPending g w) = true then (s.completeBarrier g w b).commitMirror g b
       else if s.hasTokens g w b = true then s else (s.dropTokens g w b).failBarrier g w b) := by
  show execBarrierComplete g w s = _
  unfold execBarrierComplete
  simp only [hb]
  rw [if_pos (by simp [hup, hp, hdue])]
  unfold State.hasTokens
  split
  next => rfl
  next => split <;> rfl

theorem exec_tokenArrival (hw : w ∈ s.participants g) (hp : p ∈ s.participants g) (hup : s.workerUp w = true) (hne : p ≠ w) {f : Flit}
    {rest : List Flit} {via : Option Nat} (hwire : s.wireTo w p via = f :: rest) (hf : { f with cred := 0 } = tokenFlit g b) (a : Int) :
    exec (.tokenArrival g w p b a via) s = .next
      (let bound : Int := match via with | some c => a * 64 - ((s.circ c).flight : Int) + 64 * 64 | none => 0
       let s1 := s.updGroup g fun x => { x with tokens := x.tokens ++ [(w, p, b, bound)] }
       match via with
       | none =>
         let j := s.fit.linkTo p (siteOf w)
         let q := s.fit.linkPeer p j
         (s1.updLink p j fun x => { x with wire := x.wire.drop 1 }).updLink q.1 q.2 fun x =>
           x.addCredits (((s.worker p).link j).wire.headD idleFlit).cred
       | some c => s1.updCirc c fun x =>
         { x with
           wire := x.wire.drop 1
           rx7 := if x.txBack && !x.tx7 then false else x.rx7
           txBack := if x.txBack && !x.tx7 then false else x.txBack }) := by
  show execTokenArrival g w p b a via s = _
  unfold execTokenArrival
  rw [if_pos (by simp [hw, hp, hup, Ne.symm hne, hwire, hf])]
  cases via <;> rfl

theorem completes_tokenArrival_circuit (hw : w ∈ s.participants g) (hp : p ∈ s.participants g) (hup : s.workerUp w = true) (hne : p ≠ w)
    {rest : List Flit} (hwire : (s.circ c).wire = tokenFlit g b :: rest) (hsrc : (s.endOf (s.circ c).src).1 = p)
    (hdst : (s.endOf (s.circ c).dst).1 = w) (a : Int) :
    Completes (.tokenArrival g w p b a (some c)) s fun t =>
      (t.group g).tokens = (s.group g).tokens ++ [(w, p, b, a * 64 - ((s.circ c).flight : Int) + 64 * 64)] ∧
      (t.circ c).wire = rest ∧ (∀ d, d ≠ c → t.circ d = s.circ d) ∧ t = { s with groups := t.groups, circs := t.circs } := by
  have hto : s.wireTo w p (some c) = tokenFlit g b :: rest := by simp [State.wireTo, hsrc, hdst, hwire]
  refine ⟨_, exec_tokenArrival hw hp hup hne hto rfl a, ?_, ?_, fun d hd => ?_, rfl⟩
  · simp
  · simp [hwire]
  · simp [hd]

theorem completes_tokenArrival_link (hw : w ∈ s.participants g) (hp : p ∈ s.participants g) (hup : s.workerUp w = true) (hne : p ≠ w)
    {rest : List Flit} {n : Nat} (hwire : ((s.worker p).link (s.fit.linkTo p (siteOf w))).wire = { tokenFlit g b with cred := n } :: rest)
    (hsled : sledOf p = sledOf w) (a : Int) :
    Completes (.tokenArrival g w p b a none) s fun t =>
      (t.group g).tokens = (s.group g).tokens ++ [(w, p, b, 0)] ∧ ((t.worker p).link (s.fit.linkTo p (siteOf w))).wire = rest ∧
      t = { s with groups := t.groups, workers := t.workers } := by
  have hto : s.wireTo w p none = { tokenFlit g b with cred := n } :: rest := (if_pos hsled).trans hwire
  refine ⟨_, exec_tokenArrival hw hp hup hne hto rfl a, ?_, ?_, rfl⟩
  · rw [State.updLink_group, State.updLink_group, State.updGroup_group_self]
  · rw [State.updLink_keeps Link.wire fun x => x.addCredits_wire _, State.updLink_link_self, State.updGroup_worker]
    exact congrArg (List.drop 1) hwire

theorem completes_barrierComplete (hcome : s.barrierComes g w b) (hin : s.tokensIn g w b) :
    Completes (.barrierComplete g w) s fun t =>
     (t.group g).done.get 0 w = b + 1 ∧ (t.worker w).barrier = b % 2 ^ 24 ∧ (t.worker w).wrlFail = (s.worker w).wrlFail ∧
     t = { s with groups := t.groups, workers := t.workers, hubs := t.hubs } := by
  obtain ⟨hpend, hb, hup, hp, hdue⟩ := hcome
  have hdueB : s.dueBarrier g w = some b := by rw [State.dueBarrier, if_pos hpend, ← hb]; rfl
  have hexec := exec_barrierComplete hdueB hup hp hdue
  rw [if_pos (by simp [(s.hasTokens_iff g w b).mpr hin, hpend])] at hexec
  refine ⟨_, hexec, ?_, ?_, ?_, ?_⟩
  · rw [State.commitMirror_done]; simp [State.completeBarrier]
  · rw [State.commitMirror_worker]; simp [State.completeBarrier]
  · rw [State.commitMirror_worker]; simp [State.completeBarrier, State.dropTokens]
  · rw [State.commitMirror_onlyGroups]; rfl

theorem completes_barrierComplete_fails (hb : s.dueBarrier g w = some b) (hup : s.workerUp w = true) (hp : w ∈ s.participants g)
    (hdue : s.barrierDue g (sledOf w) b = true) (hin : ¬s.tokensIn g w b) :
    Completes (.barrierComplete g w) s fun t =>
       (t.worker w).wrlFail = true ∧ (t.group g).emitted.get 0 w = b ∧ t.groupSteps g (sledOf w) = none ∧
       g ∉ (t.hub (sledOf w)).stepGroups ∧ (t.group g).done.get 0 w = (s.group g).done.get 0 w := by
  have hno : s.hasTokens g w b = false := by simpa using mt (s.hasTokens_iff g w b).mp hin
  have hexec := exec_barrierComplete hb hup hp hdue
  rw [if_neg (by simp [hno]), if_neg (by simp [hno])] at hexec
  refine ⟨_, hexec, ?_, ?_, State.localTrigger_stops _ _ _ _, ?_, ?_⟩
  · rw [State.failBarrier, State.localTrigger_worker]; simp
  · rw [State.failBarrier, State.localTrigger_emitted]; simp
  · rw [State.failBarrier, State.localTrigger_hub]; simp
  · rw [State.failBarrier, State.localTrigger_done]; simp [State.dropTokens]

/-- Settles O22: each clause is the operation's equation and what its folds over circuits, links and tokens leave. -/
theorem barriersRun : Obligations.BarriersRun := by
  unfold Obligations.BarriersRun
  refine ⟨fun s g w p b c a hw hup => ⟨fun hstart hslip hsteps hlast honce hslots hready => ?_, fun hp hne => ⟨?_, ?_⟩⟩, ?_, ?_⟩
  · refine ⟨_, exec_barrierTokenEmit hw hup hstart hslip hsteps hlast honce (seamReached_iff.mpr ⟨hslots, hready⟩), ?_, ?_, ?_, ?_,
      s.emitToken_only _ _ _⟩
    · rw [State.emitToken_group]; simp
    · exact fun d hd => State.emitToken_token _ hd
    · exact fun d hd => State.emitToken_circ_ne _ hd
    · exact fun i hi hlink => State.emitToken_link _ hi hlink
  · exact fun rest hwire hsrc hdst => completes_tokenArrival_circuit hw hp hup hne hwire hsrc hdst a
  · exact fun rest n hwire hsled => completes_tokenArrival_link hw hp hup hne hwire hsled a
  · exact fun s g w b hcome hin => completes_barrierComplete hcome hin
  · exact fun s g w b hb hup hp hdue hin => completes_barrierComplete_fails hb hup hp hdue hin

end Sys2Proof.Machine
end

section
/-! SUPPORT. The work of one worker in a frame: what the deliveries of its cores and the failure of a core leave of the rest of the machine. -/

namespace Sys2Proof.Machine

variable {P : Nat → Prop} {s t u : State} {w v n : Nat}

/-- Power and refresh of a worker: what no delivery touches. -/
def Worker.vitals (x : Worker) : Nat × Bool × Nat := (x.pwr, x.hot, x.refreshRow)

/-- The cores of a worker and what they have still to deliver. -/
def Worker.runs (x : Worker) : Tab StagCore × List PendWrite := (x.cores, x.inflight)

/-- From `s` to `t` nothing changes but workers, circuits, groups and memory. -/
def State.OnlyWork (s t : State) : Prop :=
  t = { s with workers := t.workers, circs := t.circs, groups := t.groups, mem := t.mem, keyTag := t.keyTag }

theorem State.OnlyWork.trans (h₁ : State.OnlyWork s t) (h₂ : State.OnlyWork t u) : State.OnlyWork s u := by
  unfold State.OnlyWork at *
  rw [h₂, h₁]

theorem State.OnlyWork.hub (h : State.OnlyWork s t) (k : Nat) : t.hub k = s.hub k := by rw [h]; rfl

theorem State.OnlyWork.fit (h : State.OnlyWork s t) : t.fit = s.fit := by rw [h]

/-- From `s` to `t` something is delivered: the workers' links and stores, the circuits, the groups and the memory change, and only the
cores of the workers in `P`. -/
structure State.Works (P : Nat → Prop) (s t : State) : Prop where
  rest : State.OnlyWork s t
  vitals : ∀ v, (t.worker v).vitals = (s.worker v).vitals
  runs : ∀ v, ¬P v → (t.worker v).runs = (s.worker v).runs

theorem State.Works.refl (s : State) : State.Works P s s := ⟨rfl, fun _ => rfl, fun _ _ => rfl⟩

theorem State.Works.trans (h₁ : State.Works P s t) (h₂ : State.Works P t u) : State.Works P s u where
  rest := h₁.rest.trans h₂.rest
  vitals v := (h₂.vitals v).trans (h₁.vitals v)
  runs v hv := (h₂.runs v hv).trans (h₁.runs v hv)

theorem State.Works.foldl {α : Type} {f : State → α → State} (h : ∀ s a, State.Works P s (f s a)) (l : List α) (s : State) :
    State.Works P s (l.foldl f s) := by
  induction l generalizing s with
  | nil => exact .refl s
  | cons a l ih => exact (h s a).trans (ih _)

theorem State.works_updWorker {f : Worker → Worker} (hv : ∀ x, (f x).vitals = x.vitals) (hr : P w ∨ ∀ x, (f x).runs = x.runs) (s : State) :
    State.Works P s (s.updWorker w f) where
  rest := rfl
  vitals v := by rw [State.updWorker_worker]; split <;> simp_all
  runs v hP := by
    rw [State.updWorker_worker]
    split
    next h => subst h; exact hr.resolve_left hP _
    next => rfl

theorem State.works_updCore (hw : P w) (s : State) (n : Nat) (f : StagCore → StagCore) : State.Works P s (s.updCore w n f) :=
  State.works_updWorker (by exact fun _ => rfl) (.inl hw) s

theorem State.works_cancelCore (hw : P w) (s : State) (n t : Nat) : State.Works P s (s.cancelCore w n t) :=
  State.works_updWorker (by exact fun _ => rfl) (.inl hw) s

theorem State.works_updLink (s : State) (w j : Nat) (f : Link → Link) : State.Works P s (s.updLink w j f) :=
  State.works_updWorker (by exact fun _ => rfl) (.inr (by exact fun _ => rfl)) s

theorem State.works_updPort (s : State) (w p : Nat) (f : Port → Port) : State.Works P s (s.updPort w p f) :=
  State.works_updWorker (by exact fun _ => rfl) (.inr (by exact fun _ => rfl)) s

theorem State.works_updCirc (s : State) (c : Nat) (f : Circ → Circ) : State.Works P s (s.updCirc c f) := ⟨rfl, fun _ => rfl, fun _ _ => rfl⟩

theorem State.works_localTrigger (s : State) (k g reason : Nat) : State.Works P s (s.localTrigger k g reason) where
  rest := by unfold State.localTrigger; split <;> rfl
  vitals v := by unfold State.localTrigger; split <;> rfl
  runs v _ := by unfold State.localTrigger; split <;> rfl

theorem State.works_writeLine (s : State) (line : Nat) (bytes : List Byte) : State.Works P s (s.writeLine line bytes) := by
  unfold State.writeLine
  dsimp only
  split
  · exact State.works_updWorker (by exact fun _ => rfl) (.inr (by exact fun _ => rfl)) s
  · exact ⟨rfl, fun _ => rfl, fun _ _ => rfl⟩

theorem State.works_tierWrite (s : State) (a : Nat) (bytes : List Byte) : State.Works P s (s.tierWrite a bytes) := by
  unfold State.tierWrite
  split
  · exact .refl s
  · exact .foldl (fun st _ => st.works_writeLine _ _) _ s

theorem State.works_shortfall (s : State) (w : Nat) (p : PendWrite) : State.Works P s (s.shortfall w p) :=
  .foldl (fun st _ => st.works_localTrigger _ _ _) _ s

theorem State.works_departLink (s : State) (w : Nat) (p : PendWrite) : State.Works P s (s.departLink w p) := by
  unfold State.departLink
  split
  · exact (s.works_updLink _ _ _).trans (State.works_shortfall _ _ _)
  · exact s.works_updLink _ _ _

theorem State.works_departPort (s : State) (w : Nat) (p : PendWrite) : State.Works P s (s.departPort w p) := by
  unfold State.departPort
  dsimp only
  split
  · exact (s.works_updPort _ _ _).trans (State.works_shortfall _ _ _)
  · exact s.works_updCirc _ _

theorem State.works_failCore (hw : P w) (s : State) (n cause cycle : Nat) : State.Works P s (s.failCore w n cause cycle) := by
  unfold State.failCore
  dsimp only
  split
  · exact ((s.works_cancelCore hw _ _).trans (State.works_updCore hw _ _ _)).trans (State.works_localTrigger _ _ _ _)
  · exact (s.works_cancelCore hw _ _).trans (State.works_updCore hw _ _ _)

theorem State.works_drainCommit (hw : P w) (s : State) (p : PendWrite) : State.Works P s (s.drainCommit w p) := by
  unfold State.drainCommit
  dsimp only
  split
  · exact (s.works_updCore hw _ _).trans (State.works_failCore hw _ _ _ _)
  · exact s.works_updCore hw _ _

theorem State.works_commit (hw : P w) (s : State) (p : PendWrite) : State.Works P s (s.commit w p) := by
  unfold State.commit
  split
  · exact .refl s
  · split
    · exact s.works_updCore hw _ _
    · exact s.works_tierWrite _ _
    · exact s.works_departLink _ _
    · exact s.works_departPort _ _
    · exact s.works_drainCommit hw _

theorem State.works_flush (hw : P w) (s : State) (t : Nat) : State.Works P s (s.flush w t) :=
  (s.works_updWorker (by exact fun _ => rfl) (.inl hw)).trans (.foldl (fun st p => st.works_commit hw p) _ _)

theorem State.Works.core_of_runs (h : State.Works P s t) (hv : ¬P v) (n : Nat) : t.core v n = s.core v n := by
  have hcores : (t.worker v).cores = (s.worker v).cores := congrArg Prod.fst (h.runs v hv)
  rw [State.core, State.core, Worker.core, Worker.core, hcores]

theorem State.localTrigger_core (s : State) (k g reason w n : Nat) : (s.localTrigger k g reason).core w n = s.core w n := by
  unfold State.localTrigger; split <;> rfl

theorem State.failCore_core_ne (s : State) (w : Nat) {n m : Nat} (cause cycle : Nat) (h : m ≠ n) :
    (s.failCore w n cause cycle).core w m = s.core w m := by
  have hone (f : StagCore → StagCore) : ((s.cancelCore w n cycle).updCore w n f).core w m = s.core w m := by
    rw [State.updCore_core, if_neg fun hm => h hm.2]
    simp [State.core, State.cancelCore, Worker.core]
  unfold State.failCore
  dsimp only
  split
  · rw [State.localTrigger_core, hone]
  · exact hone _

/-- A core as it fails at a cycle. -/
def StagCore.FailedAt (x : StagCore) (cause cycle : Nat) : Prop := x.retired = true ∧ x.cause = cause ∧ x.faultCycle = cycle

theorem State.failCore_failed (s : State) (w n cause cycle : Nat) : ((s.failCore w n cause cycle).core w n).FailedAt cause cycle := by
  unfold State.failCore
  dsimp only
  split
  · rw [State.localTrigger_core, State.updCore_core_self]; exact ⟨rfl, rfl, rfl⟩
  · rw [State.updCore_core_self]; exact ⟨rfl, rfl, rfl⟩

theorem State.forEach_failCore_failed {l : List Nat} (s : State) (w : Nat) {n : Nat} (cause cycle : Nat)
    (h : n ∈ l ∨ (s.core w n).FailedAt cause cycle) :
    ((s.forEach l fun st m => st.failCore w m cause cycle).core w n).FailedAt cause cycle := by
  induction l generalizing s with
  | nil => exact h.resolve_left List.not_mem_nil
  | cons m l ih =>
    refine ih (s.failCore w m cause cycle) ?_
    rcases eq_or_ne n m with rfl | hne
    · exact .inr (s.failCore_failed w n cause cycle)
    · rw [State.failCore_core_ne s w cause cycle hne]
      exact h.imp_left fun hl => (List.mem_cons.mp hl).resolve_left hne

/-- No delivery to a core stops it but a DRAIN mismatch of its own (R121). -/
theorem State.commit_stopped (s : State) (w : Nat) {p : PendWrite} (n : Nat) (h : p.core = n → p.unit ≠ 2 ∨ p.kind < 4) :
    ((s.commit w p).core w n).stopped = (s.core w n).stopped := by
  have hcore (f : StagCore → StagCore) (hf : ∀ x, (f x).stopped = x.stopped) (u : State) :
      ((u.updCore w p.core f).core w n).stopped = (u.core w n).stopped := by
    rw [State.updCore_core]
    split
    next hn => rw [hf, hn.2]
    next => rfl
  have hquiet {u : State} (hu : State.Works (fun _ => False) s u) : (u.core w n).stopped = (s.core w n).stopped :=
    congrArg StagCore.stopped (hu.core_of_runs (fun h => h) n)
  unfold State.commit
  split
  · rfl
  · split
    · refine hcore _ ?_ s; exact fun _ => rfl
    · exact hquiet (s.works_tierWrite _ _)
    · exact hquiet (s.works_departLink _ _)
    · exact hquiet (s.works_departPort _ _)
    next _ hkind0 hkind1 hkind2 hkind3 =>
      unfold State.drainCommit
      dsimp only
      split
      next hunit =>
        have hne : n ≠ p.core := fun hn => (h hn.symm).elim (fun hu => hu hunit) fun hk => by
          rw [imp_false] at hkind0 hkind1 hkind2 hkind3
          omega
        rw [State.failCore_core_ne _ _ _ _ hne]
        refine hcore _ ?_ s; exact fun _ => rfl
      next => refine hcore _ ?_ s; exact fun _ => rfl

theorem State.foldl_commit_stopped {ps : List PendWrite} (s : State) (w n : Nat) (h : ∀ p ∈ ps, p.core = n → p.unit ≠ 2 ∨ p.kind < 4) :
    ((ps.foldl (fun st p => st.commit w p) s).core w n).stopped = (s.core w n).stopped := by
  induction ps generalizing s with
  | nil => rfl
  | cons p ps ih =>
    obtain ⟨hp, hps⟩ := List.forall_mem_cons.mp h
    exact (ih _ hps).trans (s.commit_stopped w n hp)

theorem State.flush_stopped (s : State) (w n t : Nat) (h : ∀ p ∈ (s.worker w).inflight, p.core = n → p.unit ≠ 2 ∨ p.kind < 4) :
    ((s.flush w t).core w n).stopped = (s.core w n).stopped := by
  unfold State.flush
  dsimp only
  rw [State.foldl_commit_stopped _ w n fun p hp => h p (List.mem_filter.mp hp).1]
  simp [State.core, Worker.core]

end Sys2Proof.Machine
end

section
/-! SUPPORT. The seam phase of a sled: its work, worker by worker. -/

namespace Sys2Proof.Machine

variable {s t : State} {w v k n : Nat} {late : List (Nat × Nat × Nat)}

theorem Fit.sledWorkers_nodup (f : Fit) (k : Nat) : (f.sledWorkers k).Nodup := by
  have hsites : f.siteList.Nodup := by
    unfold Fit.siteList
    split
    · decide
    · exact List.nodup_range
  exact hsites.map fun a b h => Nat.add_left_cancel h

/-- Where `f` changes a part for its own unit alone, each unit of a list is changed once, from what it was before. -/
theorem State.forEach_at {β : Type} {part : State → Nat → β} {f : State → Nat → State} (hne : ∀ s v w, w ≠ v → part (f s v) w = part s w)
    {l : List Nat} (hl : l.Nodup) (hw : w ∈ l) (s : State) : ∃ u, part u w = part s w ∧ part (s.forEach l f) w = part (f u w) w := by
  have hout (l : List Nat) (s : State) (hw : w ∉ l) : part (s.forEach l f) w = part s w := by
    induction l generalizing s with
    | nil => rfl
    | cons v l ih =>
      obtain ⟨hv, hl⟩ := List.ne_and_not_mem_of_not_mem_cons hw
      exact (ih _ hl).trans (hne s v w hv)
  induction l generalizing s with
  | nil => cases hw
  | cons v l ih =>
    obtain ⟨hv, hl⟩ := List.nodup_cons.mp hl
    rcases eq_or_ne w v with rfl | hwv
    · exact ⟨s, rfl, hout l _ hv⟩
    · obtain ⟨u, hu, hf⟩ := ih hl ((List.mem_cons.mp hw).resolve_left hwv) (f s v)
      exact ⟨u, hu.trans (hne s v w hwv), hf⟩

/-- The operations named as hanging on a worker. -/
def State.hungOn (s : State) (late : List (Nat × Nat × Nat)) (w : Nat) : List (Nat × Nat × Nat) :=
  late.filter fun o => o.1 == w && decide (o.2.1 < 50) && !((s.worker w).core o.2.1).stopped

/-- What is ready by cycle 8,128 has taken effect. -/
def State.seamFlush (late : List (Nat × Nat × Nat)) (s : State) (w : Nat) : State :=
  (s.updWorker w fun x => (s.hungOn late w).foldl (fun y o => y.abandon o.2.1 o.2.2) x).flush w 8128

/-- A worker's refresh row after a started frame (R151, R152). -/
def Worker.refresh (x : Worker) : Worker :=
  if x.powered 7 || x.powered 8 then { x with refreshRow := (x.refreshRow + if x.hot then 32 else 16) % 65536 } else x

/-- The work of the seam phase on one worker. -/
def State.seamWorker (late : List (Nat × Nat × Nat)) (s : State) (w : Nat) : State :=
  ((s.seamFlush late w).updWorker w Worker.refresh).forEach
    (((s.worker w).lateCores ++ (s.hungOn late w).map (·.2.1)).dedup.filter fun n => !((s.seamFlush late w).core w n).stopped)
    fun a n => a.failCore w n 2 8128

theorem exec_seamPhase (hk : k < s.fit.sleds) (hstart : (s.hub k).started = true) (hslots : ∀ w ∈ s.fit.sledWorkers k, s.slotsLeft w = false)
    (late : List (Nat × Nat × Nat)) : exec (.seamPhase k late) s = .next (s.forEach (s.fit.sledWorkers k) (State.seamWorker late)) := by
  refine if_pos ?_
  simpa [hk, hstart] using hslots

theorem Worker.foldl_abandon_vitals (l : List (Nat × Nat × Nat)) (x : Worker) :
    (l.foldl (fun y o => y.abandon o.2.1 o.2.2) x).vitals = x.vitals := by
  induction l generalizing x with
  | nil => rfl
  | cons o l ih => exact ih _

theorem Worker.foldl_abandon_core (l : List (Nat × Nat × Nat)) (x : Worker) (n : Nat) :
    (l.foldl (fun y o => y.abandon o.2.1 o.2.2) x).core n = x.core n := by
  induction l generalizing x with
  | nil => rfl
  | cons o l ih => exact ih _

theorem Worker.mem_foldl_abandon {l : List (Nat × Nat × Nat)} {x : Worker} {p : PendWrite}
    (h : p ∈ (l.foldl (fun y o => y.abandon o.2.1 o.2.2) x).inflight) : p ∈ x.inflight := by
  induction l generalizing x with
  | nil => exact h
  | cons o l ih => exact (List.mem_filter.mp (ih h)).1

theorem State.seamFlush_works (late : List (Nat × Nat × Nat)) (s : State) (w : Nat) : State.Works (· = w) s (s.seamFlush late w) := by
  refine .trans (State.works_updWorker (P := (· = w)) (fun x => ?_) (.inl rfl) s) (State.works_flush (P := (· = w)) rfl _ _)
  exact Worker.foldl_abandon_vitals _ x

theorem State.works_failCores (l : List Nat) (s : State) (w : Nat) :
    State.Works (· = w) s (s.forEach l fun a n => a.failCore w n 2 8128) :=
  .foldl (fun a n => State.works_failCore (P := (· = w)) rfl a n 2 8128) l s

theorem State.seamWorker_rest (late : List (Nat × Nat × Nat)) (s : State) (w : Nat) : State.OnlyWork s (s.seamWorker late w) :=
  have hrefresh : State.OnlyWork (s.seamFlush late w) ((s.seamFlush late w).updWorker w Worker.refresh) := rfl
  ((s.seamFlush_works late w).rest.trans hrefresh).trans (State.works_failCores _ _ w).rest

/-- What the seam phase of a worker leaves of another. -/
theorem State.seamWorker_ne (late : List (Nat × Nat × Nat)) (s : State) (h : v ≠ w) :
    (((s.seamWorker late w).worker v).vitals, ((s.seamWorker late w).worker v).runs) = ((s.worker v).vitals, (s.worker v).runs) := by
  have hflush := s.seamFlush_works late w
  have hfail : State.Works (· = w) _ (s.seamWorker late w) := State.works_failCores _ _ w
  rw [hfail.vitals, hfail.runs v h, State.updWorker_worker_ne _ _ h, hflush.vitals, hflush.runs v h]

theorem State.seamWorker_vitals (late : List (Nat × Nat × Nat)) (s : State) (w : Nat) :
    ((s.seamWorker late w).worker w).vitals = ((s.seamFlush late w).worker w).refresh.vitals := by
  have hfail : State.Works (· = w) _ (s.seamWorker late w) := State.works_failCores _ _ w
  rw [hfail.vitals, State.updWorker_worker_self]

theorem Worker.refreshRow_refresh {x y : Worker} (h : x.vitals = y.vitals) (hon : y.powered 7 = true ∨ y.powered 8 = true) :
    x.refresh.refreshRow = (y.refreshRow + if y.hot then 32 else 16) % 65536 := by
  simp only [Worker.vitals, Prod.mk.injEq] at h
  obtain ⟨hpwr, hhot, hrow⟩ := h
  simp only [Worker.powered] at hon
  simp [Worker.refresh, Worker.powered, hpwr, hhot, hrow, hon]

theorem State.seamWorker_hung {o : Nat × Nat × Nat} (ho : o ∈ late) (hn : o.2.1 < 50) (hrun : (s.core o.1 o.2.1).stopped = false)
    (hflight : ∀ p ∈ (s.worker o.1).inflight, p.core = o.2.1 → p.unit ≠ 2 ∨ p.kind < 4) :
    ((s.seamWorker late o.1).core o.1 o.2.1).FailedAt 2 8128 := by
  have hung : o ∈ s.hungOn late o.1 := List.mem_filter.mpr ⟨ho, by
    have : ((s.worker o.1).core o.2.1).stopped = false := hrun
    simp [hn, this]⟩
  have hgoes : ((s.seamFlush late o.1).core o.1 o.2.1).stopped = false := by
    rw [State.seamFlush, State.flush_stopped _ _ _ _ fun p hp => hflight p ?_]
    · rw [State.core, State.updWorker_worker_self, Worker.foldl_abandon_core]; exact hrun
    · rw [State.updWorker_worker_self] at hp; exact Worker.mem_foldl_abandon hp
  refine State.forEach_failCore_failed _ _ _ _ (.inl ?_)
  simp only [List.mem_filter, List.mem_dedup, List.mem_append, List.mem_map, hgoes]
  exact ⟨.inr ⟨o, hung, rfl⟩, rfl⟩

theorem State.forEach_seamWorker_rest (late : List (Nat × Nat × Nat)) (l : List Nat) (s : State) :
    State.OnlyWork s (s.forEach l (State.seamWorker late)) := by
  induction l generalizing s with
  | nil => rfl
  | cons w l ih => exact (s.seamWorker_rest late w).trans (ih _)

theorem completes_seamPhase (hk : k < s.fit.sleds) (hstart : (s.hub k).started = true) (hslots : ∀ w ∈ s.fit.sledWorkers k, s.slotsLeft w = false)
    (late : List (Nat × Nat × Nat)) : Completes (.seamPhase k late) s fun t =>
       (∀ o ∈ late, o.1 ∈ s.fit.sledWorkers k → o.2.1 < 50 → (s.core o.1 o.2.1).stopped = false →
         (∀ p ∈ (s.worker o.1).inflight, p.core = o.2.1 → p.unit ≠ 2 ∨ p.kind < 4) →
         (t.core o.1 o.2.1).retired = true ∧ (t.core o.1 o.2.1).cause = 2 ∧ (t.core o.1 o.2.1).faultCycle = 8128) ∧
       (∀ w ∈ s.fit.sledWorkers k, (s.worker w).powered 7 = true ∨ (s.worker w).powered 8 = true →
         (t.worker w).refreshRow = ((s.worker w).refreshRow + if (s.worker w).hot then 32 else 16) % 65536) ∧
       t = { s with workers := t.workers, circs := t.circs, groups := t.groups, mem := t.mem, keyTag := t.keyTag } := by
  have hview {w : Nat} (hw : w ∈ s.fit.sledWorkers k) :=
    State.forEach_at (part := fun s w => ((s.worker w).vitals, (s.worker w).runs)) (f := State.seamWorker late)
      (fun s v w h => s.seamWorker_ne late h) (s.fit.sledWorkers_nodup k) hw s
  refine ⟨_, exec_seamPhase hk hstart hslots late, fun o ho hw hn hrun hflight => ?_, fun w hw hon => ?_, s.forEach_seamWorker_rest late _⟩
  · obtain ⟨u, hu, ht⟩ := hview hw
    simp only [Prod.mk.injEq, Worker.runs] at hu ht
    obtain ⟨-, hcores, hinflight⟩ := hu
    obtain ⟨-, htcores, -⟩ := ht
    have hfailed : ((u.seamWorker late o.1).core o.1 o.2.1).FailedAt 2 8128 := by
      refine State.seamWorker_hung ho hn ?_ (hinflight ▸ hflight)
      rw [State.core, Worker.core, hcores]; exact hrun
    rw [State.core, Worker.core, htcores]
    exact hfailed
  · obtain ⟨u, hu, ht⟩ := hview hw
    have hvit : ((s.forEach (s.fit.sledWorkers k) (State.seamWorker late)).worker w).vitals = ((u.seamFlush late w).worker w).refresh.vitals :=
      (congrArg Prod.fst ht).trans (u.seamWorker_vitals late w)
    have hrow := congrArg (fun v : Nat × Bool × Nat => v.2.2) hvit
    exact hrow.trans (Worker.refreshRow_refresh (((u.seamFlush_works late w).vitals w).trans (congrArg Prod.fst hu)) hon)

end Sys2Proof.Machine
end

section
/-! SUPPORT. A sled's boundary: what it leaves of a hub's counts and of a worker's refresh rate. -/

namespace Sys2Proof.Machine

variable {P : Nat → Prop} {s t : State} {w v k j : Nat}

/-! ## The hub's counts before the frame -/

/-- What decides whether a frame starts on a sled, and how its counts go on. -/
def Hub.counts (h : Hub) : (Nat × Nat × Nat) × (Bool × Bool × Bool × Bool) × (Bool × Int) × (Bool × Bool) × Option Nat :=
  ((h.frame, h.step, h.slips), (h.held, h.dropped, h.halted, h.lossHold), (h.leadSeen, h.maxLead), (h.applied, h.stepping), h.resumeLeft)

theorem Hub.samples_counts (h : Hub) (vs : List Nat) : (h.samples vs).counts = h.counts := by
  unfold Hub.samples
  induction vs generalizing h with
  | nil => rfl
  | cons v vs ih => exact ih (h.sample v)

theorem Hub.fetch_counts (h : Hub) (fuel : Nat) : (h.fetch fuel).counts = h.counts := by
  induction fuel generalizing h with
  | zero => rfl
  | succ fuel ih =>
    unfold Hub.fetch
    split
    · split
      · rfl
      · exact ih _
    · rfl

theorem Hub.newFrame_counts (h : Hub) : h.newFrame.counts = h.counts := Hub.fetch_counts _ _

theorem State.forEach_updHub_counts {f : Hub → Hub} (hf : ∀ h, (f h).counts = h.counts) (l : List Nat) (s : State) (k : Nat) :
    ((s.forEach l fun st j => st.updHub j f).hub k).counts = (s.hub k).counts := by
  refine foldl_keeps (fun st => (st.hub k).counts) _ (fun st j => ?_) l s
  rw [State.updHub_hub]
  split
  next h => rw [h, hf]
  next => rfl

theorem State.forEach_updHub_workers (f : Hub → Hub) (l : List Nat) (s : State) :
    (s.forEach l fun st j => st.updHub j f).workers = s.workers :=
  foldl_keeps State.workers _ (fun st j => st.updHub_workers j f) l s

theorem State.raise_counts (s : State) (code : Nat) (fields : List (Nat × Nat × Nat)) (k : Nat) :
    ((s.raise code fields).hub k).counts = (s.hub k).counts := by
  unfold State.raise
  dsimp only
  split
  · rw [State.updHost_hub, State.forEach_updHub_counts]; exact fun _ => rfl
  · rw [State.arrive_hub, State.updHost_hub, State.forEach_updHub_counts]; exact fun _ => rfl

theorem State.raise_workers (s : State) (code : Nat) (fields : List (Nat × Nat × Nat)) : (s.raise code fields).workers = s.workers := by
  unfold State.raise
  dsimp only
  split
  · rw [State.updHost_workers, State.forEach_updHub_workers]
  · rw [State.arrive_onlyScb]; exact State.forEach_updHub_workers _ _ _

/-- Of hubs and workers a tick check changes what the event that it may raise changes. -/
theorem State.tickCheck_shape (s : State) (d : Nat) : ∃ ev : Bool,
    (s.tickCheck d).hubs = (if ev then s.raiseTickFault d else s).hubs ∧
      (s.tickCheck d).workers = (if ev then s.raiseTickFault d else s).workers := by
  have h : ∃ (ev : Bool) (rxs : Tab TickRx) (doms : Tab TickDom),
      s.tickCheck d = { (if ev then s.raiseTickFault d else s) with rxs := rxs, doms := doms } :=
    ⟨_, _, _, (State.updRxs_onlyRxs _ (s.countedRx d) fun r => { r with accepted := false }).trans rfl⟩
  obtain ⟨ev, rxs, doms, h⟩ := h
  exact ⟨ev, by rw [h], by rw [h]⟩

theorem State.tickCheck_counts (s : State) (d k : Nat) : ((s.tickCheck d).hub k).counts = (s.hub k).counts := by
  obtain ⟨ev, hhubs, -⟩ := s.tickCheck_shape d
  rw [State.hub, hhubs, ← State.hub]
  cases ev with
  | false => rfl
  | true => rw [if_pos rfl, State.raiseTickFault, State.raise_counts]

theorem State.tickCheck_workers (s : State) (d : Nat) : (s.tickCheck d).workers = s.workers := by
  obtain ⟨ev, -, hworkers⟩ := s.tickCheck_shape d
  rw [hworkers]
  cases ev with
  | false => rfl
  | true => rw [if_pos rfl, State.raiseTickFault, State.raise_workers]

/-! ## The workers' refresh rate -/

theorem State.forEach_updWorker_hubs (f : Worker → Worker) (l : List Nat) (s : State) :
    (s.forEach l fun st w => st.updWorker w f).hubs = s.hubs :=
  foldl_keeps State.hubs _ (fun st w => st.updWorker_hubs w f) l s

theorem State.forEach_updWorker_worker (s : State) (f : Worker → Worker) {l : List Nat} (hl : l.Nodup) (w : Nat) :
    (s.forEach l fun st v => st.updWorker v f).worker w = if w ∈ l then f (s.worker w) else s.worker w := by
  induction l generalizing s with
  | nil => rfl
  | cons v l ih =>
    obtain ⟨hv, hl⟩ := List.nodup_cons.mp hl
    refine (ih (s.updWorker v f) hl).trans ?_
    rcases eq_or_ne w v with rfl | hne
    · simp [hv]
    · simp [hne]

/-! ## The boundary -/

/-- What a sled's boundary does before it is known whether a frame starts. -/
def State.enterBoundary (s : State) (k : Nat) (bus : List Nat) : State :=
  ((s.tickCheck k).updHub k fun h => (h.samples bus).newFrame).forEach (s.fit.sledWorkers k) fun st w => st.updWorker w Worker.takeRate

theorem State.enterBoundary_counts (s : State) (k : Nat) (bus : List Nat) (j : Nat) :
    ((s.enterBoundary k bus).hub j).counts = (s.hub j).counts := by
  have hhub : (s.enterBoundary k bus).hub j = ((s.tickCheck k).updHub k fun h => (h.samples bus).newFrame).hub j :=
    congrArg (fun t => t.get Hub.init j) (State.forEach_updWorker_hubs _ _ _)
  rw [hhub, State.updHub_hub]
  split
  next h => rw [h, Hub.newFrame_counts, Hub.samples_counts, State.tickCheck_counts]
  next => exact s.tickCheck_counts k j

theorem State.enterBoundary_worker (s : State) (k : Nat) (bus : List Nat) (w : Nat) :
    (s.enterBoundary k bus).worker w = if w ∈ s.fit.sledWorkers k then (s.worker w).takeRate else s.worker w := by
  have hw : (s.tickCheck k).worker w = s.worker w := congrArg (fun t => t.get Worker.init w) (s.tickCheck_workers k)
  rw [State.enterBoundary, State.forEach_updWorker_worker _ _ (s.fit.sledWorkers_nodup k), State.updHub_worker, hw]

/-- A frame begins on a sled: its workers and circuits, and what its receive buffers kept through a Hold. -/
def State.beginFrame (s : State) (k : Nat) (ws : List Nat) : State :=
  (((s.updHub k Hub.startFrame).forEach ws fun st w => st.updWorker w Worker.startFrame).countSettlements k).drainBuffers k

/-- The step of the frame that has begun: none in a slip frame. -/
def State.beginStep (s : State) (k : Nat) : State :=
  if (s.hub k).isSlip then s.updHub k fun h => { h with stepGroups := [] } else ((s.stepHub k).startCores k).noteStep k

/-- The work of a boundary at which no frame starts on a sled, on its hub. -/
def Hub.passBoundary (h : Hub) : Hub :=
  { h with started := false, isSlip := false, stepGroups := [], resumeLeft := h.resumeLeft.map fun n => n - 1, delay := h.delay }

theorem exec_frameBoundary_starts (hk : k < s.fit.sleds) (hoff : s.mgr.mode ≠ .off) (hbring : s.mgr.mode ≠ .bringUp) (bus : List Nat)
    (hmay : ((s.enterBoundary k bus).hub k).mayStart = true) :
    exec (.frameBoundary k bus) s = .next (((s.enterBoundary k bus).beginFrame k (s.fit.sledWorkers k)).beginStep k) :=
  (if_neg (not_or.mpr ⟨hoff, Nat.not_le.mpr hk⟩)).trans <| (if_neg hbring).trans <| if_pos hmay

theorem exec_frameBoundary_passes (hk : k < s.fit.sleds) (hoff : s.mgr.mode ≠ .off) (hbring : s.mgr.mode ≠ .bringUp) (bus : List Nat)
    (hmay : ¬((s.enterBoundary k bus).hub k).mayStart = true) :
    exec (.frameBoundary k bus) s = .next ((s.enterBoundary k bus).updHub k Hub.passBoundary) :=
  (if_neg (not_or.mpr ⟨hoff, Nat.not_le.mpr hk⟩)).trans <| (if_neg hbring).trans <| if_neg hmay

theorem State.works_freeLinkSlot (s : State) (w j : Nat) : State.Works P s (s.freeLinkSlot w j) := by
  unfold State.freeLinkSlot
  exact .trans (State.works_updLink _ _ _ _) (State.works_updLink _ _ _ _)

theorem State.works_landLink (hw : P w) (s : State) (f : Flit) : State.Works P s (s.landLink w f) := by
  unfold State.landLink
  dsimp only
  split
  · split
    · exact s.works_updCore hw _ _
    · exact .refl s
  · exact .refl s

theorem State.works_landPort (s : State) (w : Nat) (f : Flit) : State.Works P s (s.landPort w f) := s.works_tierWrite _ _

theorem State.works_drainBuffers (s : State) (k : Nat) : State.Works (fun _ => True) s (s.drainBuffers k) := by
  refine .foldl (fun st w => ?_) _ s
  dsimp only
  refine .trans (.foldl (fun a l => ?_) _ st) (.foldl (fun a o => ?_) _ _)
  · exact (a.works_updLink _ _ _).trans (.foldl (fun b f => (b.works_landLink trivial f).trans (State.works_freeLinkSlot _ _ _)) _ _)
  · have hport : State.Works (fun _ => True) a ((o.2.buf.foldl (fun b f => b.landPort w f) a).updPort w o.1 fun y => { y with occ := 0, buf := [] }) :=
      .trans (.foldl (fun b f => b.works_landPort w f) o.2.buf a) (State.works_updPort _ w o.1 _)
    split
    · exact hport
    · exact hport.trans (State.works_updCirc _ _ _)

/-! ## The counts and rates that the step of a frame leaves -/

/-- A hub's counts in the frame, and a worker's refresh rate. -/
def State.rates (s : State) : (Nat → Bool × Bool × Nat × Nat × Nat) × (Nat → Bool) :=
  (fun k => ((s.hub k).started, (s.hub k).isSlip, (s.hub k).frame, (s.hub k).step, (s.hub k).slips), fun w => (s.worker w).hot)

theorem State.foldl_rates {α : Type} {f : State → α → State} (h : ∀ s a, (f s a).rates = s.rates) (l : List α) (s : State) :
    (l.foldl f s).rates = s.rates := foldl_keeps State.rates f h l s

theorem State.Works.rates (h : State.Works P s t) : t.rates = s.rates := by
  have hhot : ∀ w, (t.worker w).hot = (s.worker w).hot := fun w => congrArg (fun v : Nat × Bool × Nat => v.2.1) (h.vitals w)
  simp only [State.rates, h.rest.hub, hhot]

theorem State.updWorker_rates {f : Worker → Worker} (hf : ∀ x, (f x).hot = x.hot) (s : State) (w : Nat) : (s.updWorker w f).rates = s.rates := by
  refine Prod.ext rfl (funext fun v => ?_)
  show ((s.updWorker w f).worker v).hot = (s.worker v).hot
  rw [State.updWorker_worker]
  split
  next h => rw [h, hf]
  next => rfl

theorem State.startCore_rates (s : State) (b : BindDef) (g : Nat) (job : Job) (w : Nat) : (s.startCore b g job w).rates = s.rates := by
  unfold State.startCore
  split
  · rfl
  · dsimp only
    split
    · exact ((State.works_updCore (P := fun _ => True) trivial _ _ _).trans (State.works_updCore trivial _ _ _)).rates
    · exact (State.works_updCore (P := fun _ => True) trivial _ _ _).rates

theorem State.startCores_rates (s : State) (k : Nat) : (s.startCores k).rates = s.rates := by
  unfold State.startCores
  split
  · rfl
  · refine State.foldl_rates (fun st b => ?_) _ s
    dsimp only
    split
    · split
      · exact st.startCore_rates _ _ _ _
      · rfl
    · rfl

theorem State.noteStep_rates (s : State) (k : Nat) : (s.noteStep k).rates = s.rates := by
  refine State.foldl_rates (fun st g => ?_) _ s
  dsimp only
  split
  · rfl
  · exact State.foldl_rates (fun a w => State.updWorker_rates (by exact fun _ => rfl) a w) _ _

theorem State.updHub_rates {f : Hub → Hub} (hf : ∀ h, (f h).started = h.started ∧ (f h).isSlip = h.isSlip ∧ (f h).frame = h.frame ∧
    (f h).step = h.step ∧ (f h).slips = h.slips) (s : State) (k : Nat) : (s.updHub k f).rates = s.rates := by
  refine Prod.ext (funext fun j => ?_) rfl
  obtain ⟨hstarted, hslip, hframe, hstep, hslips⟩ := hf (s.hub k)
  simp only [State.rates, State.updHub_hub]
  split
  next h => rw [h, hstarted, hslip, hframe, hstep, hslips]
  next => rfl

theorem State.stepHub_rates (s : State) (k : Nat) : (s.stepHub k).rates = s.rates :=
  State.updHub_rates (by exact fun _ => ⟨rfl, rfl, rfl, rfl, rfl⟩) s k

theorem State.beginStep_rates (s : State) (k : Nat) : (s.beginStep k).rates = s.rates := by
  unfold State.beginStep
  split
  · exact State.updHub_rates (by exact fun _ => ⟨rfl, rfl, rfl, rfl, rfl⟩) s k
  · rw [State.noteStep_rates, State.startCores_rates, State.stepHub_rates]

theorem State.beginFrame_rates (s : State) (k : Nat) (ws : List Nat) : (s.beginFrame k ws).rates = (s.updHub k Hub.startFrame).rates := by
  unfold State.beginFrame
  rw [(State.works_drainBuffers _ k).rates]
  exact State.foldl_rates (fun a w => State.updWorker_rates (by exact fun _ => rfl) a w) ws _

end Sys2Proof.Machine
end

section
/-! The obligation about the frames of a sled. -/

namespace Sys2Proof.Machine

variable {s : State} {w k : Nat} {h x : Hub}

theorem Hub.counts_eq (hc : x.counts = h.counts) :
    (x.frame = h.frame ∧ x.step = h.step ∧ x.slips = h.slips) ∧
    (x.held = h.held ∧ x.dropped = h.dropped ∧ x.halted = h.halted ∧ x.lossHold = h.lossHold) ∧
    (x.leadSeen = h.leadSeen ∧ x.maxLead = h.maxLead) ∧ (x.applied = h.applied ∧ x.stepping = h.stepping) ∧ x.resumeLeft = h.resumeLeft := by
  simpa only [Hub.counts, Prod.mk.injEq] using hc

theorem Hub.mayStart_of_counts (hc : x.counts = h.counts) : x.mayStart = h.mayStart := by
  obtain ⟨-, ⟨hheld, hdropped, hhalted, hloss⟩, -⟩ := Hub.counts_eq hc
  simp [Hub.mayStart, hheld, hdropped, hhalted, hloss]

/-- The counts of a started frame (R33, R53). -/
theorem Hub.startFrame_started (h : Hub) : h.startFrame.started = true ∧ h.startFrame.frame = (h.frame + 1) % 2 ^ 64 := by
  unfold Hub.startFrame
  dsimp only
  (repeat' split) <;> exact ⟨rfl, rfl⟩

theorem Hub.startFrame_slip (hs : h.leadSeen = true ∧ 4096 * 64 ≤ h.maxLead) :
    h.startFrame.isSlip = true ∧ h.startFrame.slips = (h.slips + 1) % 2 ^ 32 ∧ h.startFrame.step = h.step := by
  have hslip : (h.leadSeen && decide (4096 * 64 ≤ h.maxLead)) = true := by simpa using hs
  unfold Hub.startFrame
  rw [hslip]
  exact ⟨rfl, rfl, rfl⟩

theorem Hub.startFrame_step (hs : ¬(h.leadSeen = true ∧ 4096 * 64 ≤ h.maxLead)) :
    h.startFrame.isSlip = false ∧ h.startFrame.slips = h.slips ∧
      h.startFrame.step = if h.applied = true ∧ h.stepping = true then h.step + 1 else h.step := by
  have hslip : (h.leadSeen && decide (4096 * 64 ≤ h.maxLead)) = false := by simpa using hs
  unfold Hub.startFrame
  rw [hslip]
  dsimp only
  cases h.applied <;> cases h.stepping <;> simp

theorem Worker.takeRate_hot (x : Worker) : x.takeRate.hot = x.hotNext.getD x.hot := rfl

/-- What the frame leaves of the sleds' counts and the workers' rates is decided as it starts. -/
theorem State.startedRates (s : State) (k : Nat) (bus : List Nat) :
    (((s.enterBoundary k bus).beginFrame k (s.fit.sledWorkers k)).beginStep k).rates = ((s.enterBoundary k bus).updHub k Hub.startFrame).rates := by
  rw [State.beginStep_rates, State.beginFrame_rates]

theorem completes_frameBoundary_starts (hk : k < s.fit.sleds) (hoff : s.mgr.mode ≠ .off) (hbring : s.mgr.mode ≠ .bringUp) (bus : List Nat)
    (hmay : (s.hub k).mayStart = true) : Completes (.frameBoundary k bus) s fun t =>
      let h := s.hub k
      let slip : Prop := h.leadSeen = true ∧ 4096 * 64 ≤ h.maxLead
      (t.hub k).started = true ∧ (t.hub k).frame = (h.frame + 1) % 2 ^ 64 ∧
       (slip → (t.hub k).isSlip = true ∧ (t.hub k).slips = (h.slips + 1) % 2 ^ 32 ∧ (t.hub k).step = h.step) ∧
       (¬slip → (t.hub k).isSlip = false ∧ (t.hub k).slips = h.slips ∧
         (t.hub k).step = if h.applied = true ∧ h.stepping = true then h.step + 1 else h.step) ∧
       (∀ w ∈ s.fit.sledWorkers k, (t.worker w).hot = (s.worker w).hotNext.getD (s.worker w).hot) ∧
       ∀ j, j ≠ k → (t.hub j).frame = (s.hub j).frame ∧ (t.hub j).step = (s.hub j).step := by
  have hcounts := s.enterBoundary_counts k bus
  refine ⟨_, exec_frameBoundary_starts hk hoff hbring bus ((Hub.mayStart_of_counts (hcounts k)).trans hmay), ?_⟩
  generalize hu : s.enterBoundary k bus = u at *
  have hrates : _ = (u.updHub k Hub.startFrame).rates := hu ▸ s.startedRates k bus
  generalize (u.beginFrame k (s.fit.sledWorkers k)).beginStep k = t at *
  simp only [State.rates, Prod.mk.injEq, funext_iff, State.updHub_worker] at hrates
  obtain ⟨hhubs, hhot⟩ := hrates
  obtain ⟨⟨hframe, hstep, hslips⟩, -, ⟨hseen, hlead⟩, ⟨happ, hstepping⟩, -⟩ := Hub.counts_eq (hcounts k)
  obtain ⟨hstart, hslip, hfr, hst, hsl⟩ := hhubs k
  rw [State.updHub_hub_self] at hstart hslip hfr hst hsl
  dsimp only
  rw [hstart, hslip, hfr, hst, hsl, ← hframe, ← hstep, ← hslips, ← hseen, ← hlead, ← happ, ← hstepping]
  refine ⟨(Hub.startFrame_started _).1, (Hub.startFrame_started _).2, Hub.startFrame_slip, Hub.startFrame_step, fun w hw => ?_, fun j hj => ?_⟩
  · rw [hhot, ← hu, State.enterBoundary_worker, if_pos hw, Worker.takeRate_hot]
  · obtain ⟨⟨hframe, hstep, -⟩, -⟩ := Hub.counts_eq (hcounts j)
    obtain ⟨-, -, hfr, hst, -⟩ := hhubs j
    rw [State.updHub_hub_ne _ _ hj] at hfr hst
    exact ⟨hfr.trans hframe, hst.trans hstep⟩

theorem completes_frameBoundary_passes (hk : k < s.fit.sleds) (hoff : s.mgr.mode ≠ .off) (hbring : s.mgr.mode ≠ .bringUp) (bus : List Nat)
    (hmay : (s.hub k).mayStart = false) : Completes (.frameBoundary k bus) s fun t =>
      let h := s.hub k
      (t.hub k).started = false ∧ (t.hub k).frame = h.frame ∧ (t.hub k).step = h.step ∧ (t.hub k).slips = h.slips ∧
       (t.hub k).resumeLeft = h.resumeLeft.map (fun n => n - 1) ∧
       ∀ w, t.worker w = if w ∈ s.fit.sledWorkers k then
         { s.worker w with hot := (s.worker w).hotNext.getD (s.worker w).hot, hotNext := none } else s.worker w := by
  have hcounts := s.enterBoundary_counts k bus k
  obtain ⟨⟨hframe, hstep, hslips⟩, -, -, -, hleft⟩ := Hub.counts_eq hcounts
  refine ⟨_, exec_frameBoundary_passes hk hoff hbring bus (by rw [Hub.mayStart_of_counts hcounts, hmay]; exact Bool.false_ne_true), ?_⟩
  dsimp only
  rw [State.updHub_hub_self]
  exact ⟨rfl, hframe, hstep, hslips, congrArg (Option.map fun n => n - 1) hleft, fun w => s.enterBoundary_worker k bus w⟩

/-- Settles O21: the frame's start fixes the counts and rates, which its step then leaves; the seam phase works on each worker once. -/
theorem framesStart : Obligations.FramesStart := by
  unfold Obligations.FramesStart
  refine ⟨fun s k bus hk hoff hbring => ⟨fun hheld hdropped hhalted hloss => ?_, fun hstay => ?_⟩, fun s k late hk hstart hslots => ?_⟩
  · exact completes_frameBoundary_starts hk hoff hbring bus (by simp [Hub.mayStart, hheld, hdropped, hhalted, hloss])
  · refine completes_frameBoundary_passes hk hoff hbring bus ?_
    rcases hstay with h | h | h | h <;> simp [Hub.mayStart, h]
  · exact completes_seamPhase hk hstart hslots late

end Sys2Proof.Machine
end

section
/-! SUPPORT. What a completion leaves, and what the parts of an image boundary leave of the image's record and of the hubs' inboxes. -/

namespace Sys2Proof.Machine

variable {s t : State} {k g w c : Nat}

/-! ## Completions -/

/-- A completion changes its hub, the host side or the Scarab engine. -/
theorem State.final_only (s : State) (c : Cmd) (status : Nat) (r : List (Nat × Nat)) :
    let t := s.final c status r
    t = { s with hubs := t.hubs, host := t.host, scb := t.scb } := by
  unfold State.final State.send
  dsimp only
  split
  · rfl
  · rfl
  · split
    · rfl
    · rw [State.arrive_onlyScb]
      generalize (State.arrive _ 14 1 0).scb = x
      rfl

@[simp] theorem State.final_img (s : State) (c : Cmd) (status : Nat) (r : List (Nat × Nat)) : (s.final c status r).img = s.img := by
  rw [State.final_only]

@[simp] theorem State.final_fit (s : State) (c : Cmd) (status : Nat) (r : List (Nat × Nat)) : (s.final c status r).fit = s.fit := by
  rw [State.final_only]

@[simp] theorem State.final_groups (s : State) (c : Cmd) (status : Nat) (r : List (Nat × Nat)) : (s.final c status r).groups = s.groups := by
  rw [State.final_only]

@[simp] theorem State.final_circs (s : State) (c : Cmd) (status : Nat) (r : List (Nat × Nat)) : (s.final c status r).circs = s.circs := by
  rw [State.final_only]

@[simp] theorem State.final_workers (s : State) (c : Cmd) (status : Nat) (r : List (Nat × Nat)) : (s.final c status r).workers = s.workers := by
  rw [State.final_only]

/-- Of a hub a completion changes the completions it carries. -/
theorem State.final_hub (s : State) (c : Cmd) (status : Nat) (r : List (Nat × Nat)) (k : Nat) :
    ∃ q, (s.final c status r).hub k = { s.hub k with cpls := q } := by
  unfold State.final State.send
  dsimp only
  split
  · rw [State.updHub_hub]
    split
    next h => exact ⟨_, by rw [h]⟩
    next => exact ⟨_, rfl⟩
  · exact ⟨_, rfl⟩
  · split
    · exact ⟨_, rfl⟩
    · exact ⟨_, State.arrive_hub _ _ _ _ k⟩

/-! ## The Scarab banks -/

theorem Scarab.arrive_bank (x : Scarab) (now fuel e n : Nat) :
    ((x.arrive now fuel e n).bank, (x.arrive now fuel e n).swaps) = (x.bank, x.swaps) := by
  induction fuel generalizing x e n with
  | zero => rfl
  | succ fuel ih =>
    have hfold (l : List Nat) (f : Scarab → Nat → Scarab) (hf : ∀ y i, ((f y i).bank, (f y i).swaps) = (y.bank, y.swaps)) (y : Scarab) :
        ((l.foldl f y).bank, (l.foldl f y).swaps) = (y.bank, y.swaps) := by
      induction l generalizing y with
      | nil => rfl
      | cons i l ihl => exact (ihl _).trans (hf y i)
    unfold Scarab.arrive
    split
    · refine (hfold _ _ (fun y i => ?_) _).trans rfl
      dsimp only
      split
      · exact ih _ _ _
      · rfl
    · rfl

theorem State.final_bank (s : State) (c : Cmd) (status : Nat) (r : List (Nat × Nat)) :
    ((s.final c status r).scb.bank, (s.final c status r).scb.swaps) = (s.scb.bank, s.scb.swaps) := by
  unfold State.final State.send
  dsimp only
  split
  · rfl
  · rfl
  · split
    · rfl
    · exact Scarab.arrive_bank _ _ _ _ _

theorem State.endAct_bank (s : State) (a : Activation) (downs : Nat) :
    ((s.endAct a downs).scb.bank, (s.endAct a downs).scb.swaps) = (s.scb.bank, s.scb.swaps) := State.final_bank _ _ _ _

/-- A swap exchanges the banks' roles and counts (R316). -/
theorem State.swapProgram_bank (s : State) (i : Image) :
    ((s.swapProgram i).scb.bank, (s.swapProgram i).scb.swaps) = (!s.scb.bank, min 255 (s.scb.swaps + 1)) := by
  rw [State.swapProgram, State.updScb_scb]
  dsimp only
  split <;> rfl

/-! ## The image's record -/

theorem State.forEach_img {f : State → Nat → State} (h : ∀ s a, (f s a).img = s.img) (l : List Nat) (s : State) : (s.forEach l f).img = s.img :=
  foldl_keeps State.img f h l s

theorem State.updCell_img (s : State) (e : Engine) (h : Nat) (f : Cell → Cell) : (s.updCell e h f).img = s.img := by
  cases e <;> rfl

theorem State.takeLoops_img (s : State) (i : Image) (p : Engine → Bool) : (s.takeLoops i p).img = s.img := by
  refine foldl_keeps State.img _ (fun st u => ?_) _ s
  split
  · rfl
  · split
    · exact foldl_keeps State.img _ (fun a r => a.updCell_img _ _ _) _ st
    · rfl

theorem State.adoptPairs_img (s : State) (i : Image) : (s.adoptPairs i).img = s.img :=
  foldl_keeps State.img _ (fun st _ => st.updCirc_img _ _) _ (s.adoptLPorts i)

theorem State.replaceGroups_img (s : State) (id : Nat) (declared : Nat → Bool) : (s.replaceGroups id declared).img = s.img := by
  refine State.forEach_img (fun st g => ?_) _ s
  have hfinals (l : List Job) : (l.foldl (fun a j => a.final j.cmd stWrongImage) st).img = st.img :=
    foldl_keeps State.img _ (fun a j => a.final_img _ _ _) l st
  dsimp only
  split
  · exact hfinals _
  · exact hfinals _

theorem State.setLat_img (s : State) (g : Nat) : (s.setLat g).img = s.img :=
  State.forEach_img (fun st _ => st.updWorker_img _ _) _ _

theorem State.setLats_img (s : State) (i : Image) : (s.setLats i).img = s.img := State.forEach_img State.setLat_img _ s

theorem State.broadcast_img (s : State) (m : Msg) : (s.broadcast m).img = s.img := State.forEach_img (fun st _ => st.updHub_img _ _) _ s

@[simp] theorem State.setMode_img (s : State) (m : MState) (cause : Nat) : (s.setMode m cause).img = s.img := by
  unfold State.setMode
  split
  · rfl
  · rw [State.arrive_onlyScb]; rfl

theorem State.setMode_hub (s : State) (m : MState) (cause k : Nat) : (s.setMode m cause).hub k = s.hub k := by
  unfold State.setMode
  split
  · rfl
  · rw [State.arrive_hub]; rfl

theorem State.setMode_fit (s : State) (m : MState) (cause : Nat) : (s.setMode m cause).fit = s.fit := by
  unfold State.setMode
  split
  · rfl
  · rw [State.arrive_onlyScb]; rfl

theorem State.setMode_circs (s : State) (m : MState) (cause : Nat) : (s.setMode m cause).circs = s.circs := by
  unfold State.setMode
  split
  · rfl
  · rw [State.arrive_onlyScb]; rfl

theorem State.endAct_img (s : State) (a : Activation) (downs : Nat) :
    (s.endAct a downs).img = { s.img with act := none, lastCode := 0, lastOp := 2 } := State.final_img _ _ _ _

theorem State.endAct_mgr (s : State) (a : Activation) (downs : Nat) : (s.endAct a downs).mgr = s.mgr := State.final_mgr _ _ _ _

/-- After an image boundary the image's record keeps all but what tells of the activation. -/
theorem State.intoImage_img (s : State) (a : Activation) (differs : Bool) :
    (s.intoImage a differs).img.active = s.img.active ∧ (s.intoImage a differs).img.staged = s.img.staged ∧
      (s.intoImage a differs).img.wirePart = s.img.wirePart := by
  unfold State.intoImage
  split
  · rw [State.updImg_img, State.setMode_img]; exact ⟨rfl, rfl, rfl⟩
  · rw [State.endAct_img, State.setMode_img]; exact ⟨rfl, rfl, rfl⟩

theorem State.intoImage_mode (s : State) (a : Activation) (differs : Bool) :
    (s.intoImage a differs).mgr.mode = if differs = true then .passage else .loaded := by
  unfold State.intoImage
  split
  · rw [State.updImg_mgr, State.setMode_mode]
  · rw [State.endAct_mgr, State.setMode_mode]

/-! ## The hubs' inboxes -/

theorem State.setLat_hubs (s : State) (g : Nat) : (s.setLat g).hubs = s.hubs :=
  foldl_keeps State.hubs _ (fun st _ => st.updWorker_hubs _ _) _ _

theorem State.setLats_hubs (s : State) (i : Image) : (s.setLats i).hubs = s.hubs := foldl_keeps State.hubs _ State.setLat_hubs _ s

theorem State.setLat_fit (s : State) (g : Nat) : (s.setLat g).fit = s.fit := foldl_keeps State.fit _ (fun st _ => st.updWorker_fit _ _) _ _

theorem State.setLats_fit (s : State) (i : Image) : (s.setLats i).fit = s.fit := foldl_keeps State.fit _ State.setLat_fit _ s

theorem State.broadcast_fit (s : State) (m : Msg) : (s.broadcast m).fit = s.fit := foldl_keeps State.fit _ (fun st _ => st.updHub_fit _ _) _ s

theorem State.endAct_inbox (s : State) (a : Activation) (downs k : Nat) : ((s.endAct a downs).hub k).inbox = (s.hub k).inbox := by
  obtain ⟨q, hq⟩ := State.final_hub ((s.updImg fun x => { x with act := none }).lastImage 0 2) a.cmd stOk [(2, downs)] k
  rw [State.endAct, hq]
  rfl

theorem State.endAct_fit (s : State) (a : Activation) (downs : Nat) : (s.endAct a downs).fit = s.fit := State.final_fit _ _ _ _

theorem State.intoImage_inbox (s : State) (a : Activation) (differs : Bool) (k : Nat) :
    ((s.intoImage a differs).hub k).inbox = (s.hub k).inbox := by
  unfold State.intoImage
  split
  · rw [State.updImg_hub, State.setMode_hub]
  · rw [State.endAct_inbox, State.setMode_hub]

theorem State.intoImage_fit (s : State) (a : Activation) (differs : Bool) : (s.intoImage a differs).fit = s.fit := by
  unfold State.intoImage
  split
  · rw [State.updImg_fit, State.setMode_fit]
  · rw [State.endAct_fit, State.setMode_fit]

theorem State.broadcast_reaches (s : State) (m : Msg) : Reached (s.broadcast m) m := by
  intro k hk
  rw [State.broadcast_fit] at hk
  rw [State.broadcast_hub, if_pos hk]
  exact List.mem_append_right _ (List.mem_singleton_self m)

end Sys2Proof.Machine
end

section
/-! SUPPORT. The image boundary: what each kind of image brings about. -/

namespace Sys2Proof.Machine

variable {s : State} {a : Activation} {i base : Image} {code : Nat}

theorem State.takeFull_spec (s : State) (a : Activation) (i : Image) :
    let t := s.takeFull a i
    t.img.active = some i ∧ t.img.staged = none ∧ t.mgr.mode = (if s.wiringDiffers i then .passage else .loaded) ∧
      Reached t (.activateAt i.id) := by
  unfold State.takeFull
  dsimp only
  generalize (if s.wiringDiffers i then _ else _ : State) = u
  generalize hv : ((((u.updImg fun x => { x with active := some i, staged := none, wirePart := false, scarPart := false, barred := [] }).adoptPairs
    i).replaceGroups i.id fun g => (i.group g).isSome).takeLoops i fun e => match e with | .ring _ => false | _ => true).swapProgram i = v
  have himg : v.img = { u.img with active := some i, staged := none, wirePart := false, scarPart := false, barred := [] } := by
    rw [← hv, State.swapProgram, State.updScb_img, State.takeLoops_img, State.replaceGroups_img, State.adoptPairs_img, State.updImg_img]
  obtain ⟨hactive, hstaged, -⟩ := ((v.broadcast (.activateAt i.id)).setLats i).intoImage_img a (s.wiringDiffers i)
  rw [State.setLats_img, State.broadcast_img, himg] at hactive hstaged
  refine ⟨hactive, hstaged, State.intoImage_mode _ _ _, fun k hk => ?_⟩
  rw [State.intoImage_fit, State.setLats_fit] at hk
  rw [State.intoImage_inbox, State.hub, State.setLats_hubs]
  exact v.broadcast_reaches _ k hk

theorem State.takeWiring_spec (s : State) (a : Activation) (i base : Image) :
    let t := s.takeWiring a i base
    t.img.active = some { base with circs := i.circs, tiles := i.tiles, hasCircs := true } ∧ t.img.staged = none ∧ t.img.wirePart = true ∧
      t.mgr.mode = (if s.wiringDiffers i then .passage else .loaded) := by
  unfold State.takeWiring
  dsimp only
  generalize (if s.wiringDiffers i then _ else _ : State) = u
  generalize hv : ((u.updImg fun x => { x with active := some { base with circs := i.circs, tiles := i.tiles, hasCircs := true }, staged := none, wirePart := true }).adoptPairs
    i).takeLoops i (fun e => match e with | .tile _ => true | _ => false) = v
  have himg : v.img = { u.img with active := some { base with circs := i.circs, tiles := i.tiles, hasCircs := true }, staged := none, wirePart := true } := by
    rw [← hv, State.takeLoops_img, State.adoptPairs_img, State.updImg_img]
  obtain ⟨hactive, hstaged, hpart⟩ := (v.setLats base).intoImage_img a (s.wiringDiffers i)
  rw [State.setLats_img, himg] at hactive hstaged hpart
  exact ⟨hactive, hstaged, hpart, State.intoImage_mode _ _ _⟩

theorem State.takeScarab_spec (s : State) (a : Activation) (i : Image) :
    let t := s.takeScarab a i
    t.scb.bank = !s.scb.bank ∧ t.scb.swaps = min 255 (s.scb.swaps + 1) ∧ t.img.active = s.img.active ∧ t.img.staged = none ∧
      t.mgr = s.mgr ∧ t.groups = s.groups ∧ t.circs = s.circs := by
  obtain ⟨hbank, hswaps⟩ := Prod.mk.inj
    (((s.swapProgram i).updImg fun x => { x with staged := none, scarPart := true }).endAct_bank a 0)
  obtain ⟨hbank', hswaps'⟩ := Prod.mk.inj (s.swapProgram_bank i)
  refine ⟨hbank.trans hbank', hswaps.trans hswaps', ?_, ?_, State.endAct_mgr _ _ _, State.final_groups _ _ _ _, State.final_circs _ _ _ _⟩
  · rw [State.takeScarab, State.endAct_img]; rfl
  · rw [State.takeScarab, State.endAct_img]; rfl

theorem State.abandonAct_spec (s : State) (a : Activation) (code : Nat) (h : a.deact = false) :
    (s.abandonAct a code).img = { s.img with act := none, lastCode := code, lastOp := 2 } ∧ (s.abandonAct a code).mgr = s.mgr := by
  unfold State.abandonAct
  rw [State.final_img, State.final_mgr, h]
  exact ⟨rfl, rfl⟩

/-- All is complete for the image boundary (R100, R101). -/
structure State.BoundaryComes (s : State) (a : Activation) (i : Image) : Prop where
  act : s.img.act = some a
  staged : s.img.staged = some i
  deact : a.deact = false
  boundary : a.boundary = none
  accepted : a.accepted < s.mgr.frame
  replan : a.replanTo = none
  drained : s.drained = true
  doze : s.mgr.doze = none
  mode : s.mgr.mode = .quiescent ∨ s.mgr.mode = .loaded ∨ s.mgr.mode = .running

theorem State.BoundaryComes.hears (h : s.BoundaryComes a i) : (s.mgr.mode.deaf || s.mgr.mode == .limp) = false := by
  rcases h.mode with hm | hm | hm <;> rw [hm] <;> rfl

theorem State.BoundaryComes.opens (h : s.BoundaryComes a i) :
    (s.mgr.mode == .quiescent || s.mgr.mode == .loaded || s.mgr.mode == .running) = true := by
  rcases h.mode with hm | hm | hm <;> rw [hm] <;> rfl

theorem exec_imageBoundary_refused (h : s.BoundaryComes a i) (hrefused : s.actRefusal i = some code) :
    exec .imageBoundary s = .next (s.abandonAct a code) := by
  show execImageBoundary s = _
  simp [execImageBoundary, h.act, h.staged, h.deact, h.boundary, h.accepted, h.hears, h.opens, h.doze, h.drained, h.replan, hrefused]

theorem exec_imageBoundary_scarab (h : s.BoundaryComes a i) (hok : s.actRefusal i = none) (hkind : i.kind = 2) :
    exec .imageBoundary s = .next (s.takeScarab a i) := by
  show execImageBoundary s = _
  simp [execImageBoundary, h.act, h.staged, h.deact, h.boundary, h.accepted, h.hears, hkind, hok]

theorem exec_imageBoundary_full (h : s.BoundaryComes a i) (hok : s.actRefusal i = none) (hkind : i.kind = 0) (hre : s.replanOpen a i = false) :
    exec .imageBoundary s = .next (s.takeFull a (a.planned.getD i)) := by
  show execImageBoundary s = _
  simp [execImageBoundary, h.act, h.staged, h.deact, h.boundary, h.accepted, h.opens, h.doze, h.drained, h.replan, hok, hkind, hre]

theorem exec_imageBoundary_wiring (h : s.BoundaryComes a i) (hok : s.actRefusal i = none) (hkind : i.kind = 1) (hre : s.replanOpen a i = false)
    (hbase : s.img.active = some base) : exec .imageBoundary s = .next (s.takeWiring a (a.planned.getD i) base) := by
  show execImageBoundary s = _
  simp [execImageBoundary, h.act, h.staged, h.deact, h.boundary, h.accepted, h.opens, h.doze, h.drained, h.replan, hok, hkind, hre, hbase]

theorem completes_imageBoundary_refused (h : s.BoundaryComes a i) (hrefused : s.actRefusal i = some code) :
    Completes .imageBoundary s fun t =>
      t.img.staged = some i ∧ t.img.act = none ∧ t.img.lastCode = code ∧ t.img.active = s.img.active ∧ t.mgr = s.mgr := by
  obtain ⟨himg, hmgr⟩ := s.abandonAct_spec a code h.deact
  refine ⟨_, exec_imageBoundary_refused h hrefused, ?_⟩
  dsimp only
  rw [himg]
  exact ⟨h.staged, rfl, rfl, rfl, hmgr⟩

end Sys2Proof.Machine
end

section
/-! SUPPORT. ACTIVATE_AT on a hub: what it leaves of the manager, the groups and the hubs, and what it does to the workers' banks. -/

namespace Sys2Proof.Machine

variable {s t : State} {k w v n : Nat} {i : Image}

/-- The manager, the groups, and of each hub what ACTIVATE_AT is about. -/
def State.actPart (s : State) : Mgr × Tab Group × (Nat → Nat × Bool × List Msg × List (Nat × Nat)) :=
  (s.mgr, s.groups, fun k => ((s.hub k).step, (s.hub k).applied, (s.hub k).inbox, (s.hub k).inRole))

/-- The active bank and the barrier count of each worker. -/
def State.bankPart (s : State) : Nat → Bool × Nat := fun w => ((s.worker w).bank1, (s.worker w).barrier)

def State.actView (s : State) := (s.actPart, s.bankPart)

theorem State.updWorker_actView {f : Worker → Worker} (hf : ∀ x, (f x).bank1 = x.bank1 ∧ (f x).barrier = x.barrier) (s : State) (w : Nat) :
    (s.updWorker w f).actView = s.actView := by
  refine Prod.ext rfl (funext fun v => ?_)
  simp only [State.actView, State.bankPart, State.updWorker_worker]
  split
  next h => rw [h, (hf _).1, (hf _).2]
  next => rfl

theorem State.updHub_actView {f : Hub → Hub} (hf : ∀ h, (f h).step = h.step ∧ (f h).applied = h.applied ∧ (f h).inbox = h.inbox ∧
    (f h).inRole = h.inRole) (s : State) (k : Nat) : (s.updHub k f).actView = s.actView := by
  obtain ⟨hstep, happ, hinbox, hrole⟩ := hf (s.hub k)
  refine Prod.ext (Prod.ext rfl (Prod.ext rfl (funext fun j => ?_))) rfl
  simp only [State.actView, State.actPart, State.updHub_hub]
  split
  next h => rw [h, hstep, happ, hinbox, hrole]
  next => rfl

theorem State.foldl_actView {α : Type} {f : State → α → State} (h : ∀ s a, (f s a).actView = s.actView) (l : List α) (s : State) :
    (l.foldl f s).actView = s.actView := foldl_keeps State.actView f h l s

theorem State.final_actView (s : State) (c : Cmd) (status : Nat) (r : List (Nat × Nat)) : (s.final c status r).actView = s.actView := by
  have hhub (k : Nat) : ((s.final c status r).hub k).step = (s.hub k).step ∧ ((s.final c status r).hub k).applied = (s.hub k).applied ∧
      ((s.final c status r).hub k).inbox = (s.hub k).inbox ∧ ((s.final c status r).hub k).inRole = (s.hub k).inRole := by
    obtain ⟨q, hq⟩ := s.final_hub c status r k
    rw [hq]
    exact ⟨rfl, rfl, rfl, rfl⟩
  have hworker (w : Nat) : (s.final c status r).worker w = s.worker w := by rw [State.worker, State.final_workers, ← State.worker]
  have hbank : (s.final c status r).bankPart = s.bankPart := funext fun w => by rw [State.bankPart, State.bankPart, hworker]
  simp [State.actView, State.actPart, hhub, hbank]

theorem State.freeLoad_actView (s : State) (l : MLoad) : (s.freeLoad l).actView = s.actView := by
  refine State.foldl_actView (fun st w => State.updWorker_actView (fun x => ?_) st w) _ s
  split
  · exact ⟨rfl, rfl⟩
  · split <;> exact ⟨rfl, rfl⟩

theorem State.failLoad_actView (s : State) (l : MLoad) (code : Nat) (lane : Option Nat) (chunk : Nat) :
    (s.failLoad l code lane chunk).actView = s.actView :=
  (State.final_actView _ _ _ _).trans (s.freeLoad_actView l)

theorem State.takeRegions_actView (s : State) (k : Nat) (i : Image) : (s.takeRegions k i).actView = s.actView := by
  unfold State.takeRegions
  dsimp only
  refine (State.foldl_actView (fun st l => ?_) _ _).trans ((State.updHub_actView (by exact fun _ => ⟨rfl, rfl, rfl, rfl⟩) _ _).trans
    (State.foldl_actView (fun st w => ?_) _ s))
  · split
    · exact st.failLoad_actView _ _ _ _
    · rfl
  · split
    · rfl
    · exact State.updWorker_actView (by exact fun _ => ⟨rfl, rfl⟩) st w

theorem State.updCell_actView (s : State) (e : Engine) (h : Nat) (f : Cell → Cell) : (s.updCell e h f).actView = s.actView := by
  cases e with
  | tile => rfl
  | module => rfl
  | ring w => exact State.updWorker_actView (by exact fun _ => ⟨rfl, rfl⟩) s w

theorem State.takeLoops_actView (s : State) (i : Image) (p : Engine → Bool) : (s.takeLoops i p).actView = s.actView := by
  refine State.foldl_actView (fun st u => ?_) _ s
  split
  · rfl
  · split
    · exact State.foldl_actView (fun a r => a.updCell_actView _ _ _) _ st
    · rfl

theorem State.loadPrograms_actView (s : State) (w mask : Nat) : (s.loadPrograms w mask).actView = s.actView := by
  refine State.foldl_actView (fun st n => ?_) _ s
  unfold State.loadProgram
  split
  · exact State.updWorker_actView (by exact fun _ => ⟨rfl, rfl⟩) st w
  · rfl

theorem State.writeMem_actView (s : State) (mem : List Host.Cell) (keyTag : Tab Nat) :
    ({ s with mem := mem, keyTag := keyTag } : State).actView = s.actView := rfl

theorem State.writeLine_actView (s : State) (line : Nat) (bytes : List Byte) : (s.writeLine line bytes).actView = s.actView := by
  unfold State.writeLine
  dsimp only
  split
  · exact State.updWorker_actView (by exact fun _ => ⟨rfl, rfl⟩) s _
  · exact s.writeMem_actView _ _

theorem State.tierWrite_actView (s : State) (a : Nat) (bytes : List Byte) : (s.tierWrite a bytes).actView = s.actView := by
  unfold State.tierWrite
  split
  · rfl
  · exact State.foldl_actView (fun st j => st.writeLine_actView _ _) _ s

theorem State.stepHub_actView (s : State) (k : Nat) : (s.stepHub k).actView = s.actView :=
  State.updHub_actView (by exact fun _ => ⟨rfl, rfl, rfl, rfl⟩) s k

theorem State.actorOf_of_actPart (h : t.actPart = s.actPart) (w : Nat) : t.actorOf w = s.actorOf w := by
  have hrole : (t.hub (sledOf w)).inRole = (s.hub (sledOf w)).inRole := congrArg (fun p => (p.2.2 (sledOf w)).2.2.2) h
  rw [State.actorOf, State.actorOf, hrole]

/-- A worker as its banks are exchanged (R100, R103), where it takes the clusters `on` for the role of `w`. -/
def Worker.exchange (x : Worker) (i : Image) (z w on : Nat) : Worker :=
  { (if z = w then x else x.setBank (!x.bank1) i.id) with bank1 := !x.bank1, barrier := 16777215, pwr := x.pwr ||| on, on := x.on ||| on }

theorem State.writeRegions_actView (s : State) (z : Nat) (l : List RegionDef) :
    (l.foldl (fun st r => st.tierWrite (machineAddr r.space z r.base) r.init) s).actView = s.actView :=
  foldl_keeps State.actView (fun (st : State) (r : RegionDef) => st.tierWrite (machineAddr r.space z r.base) r.init)
    (fun st _ => st.tierWrite_actView _ _) l s

/-- A worker's part of an image: the programs and initial data that follow leave the banks alone. -/
theorem State.activateWorker_shape (s : State) (i : Image) (w : Nat) :
    (s.activateWorker i w).actView = (s.updWorker (s.actorOf w) fun x => x.exchange i (s.actorOf w) w (s.boundClusters i w)).actView := by
  unfold State.activateWorker
  dsimp only
  rw [State.writeRegions_actView, State.loadPrograms_actView]
  rfl

theorem State.activateWorker_actPart (s : State) (i : Image) (w : Nat) : (s.activateWorker i w).actPart = s.actPart := by
  exact (congrArg Prod.fst (s.activateWorker_shape i w)).trans rfl

theorem State.activateWorker_bank (s : State) (i : Image) (v w : Nat) :
    (s.activateWorker i v).bankPart w = if w = s.actorOf v then (!(s.worker w).bank1, 0xFFFFFF) else s.bankPart w := by
  refine (congrFun (congrArg Prod.snd (s.activateWorker_shape i v)) w).trans ?_
  simp only [State.actView, State.bankPart, State.updWorker_worker]
  split
  next hw => rw [hw]; rfl
  next => rfl

/-- A worker that plays its own role alone changes its bank once. -/
theorem State.forEach_activateWorker_bank {l : List Nat} (hl : l.Nodup) (s : State) (hw : s.actorOf w = w)
    (honly : ∀ v ∈ l, s.actorOf v = w → v = w) :
    (s.forEach l fun st v => st.activateWorker i v).bankPart w = if w ∈ l then (!(s.worker w).bank1, 0xFFFFFF) else s.bankPart w := by
  induction l generalizing s with
  | nil => rfl
  | cons v l ih =>
    obtain ⟨hv, hl⟩ := List.nodup_cons.mp hl
    have hactor := State.actorOf_of_actPart (s.activateWorker_actPart i v)
    refine (ih hl (s.activateWorker i v) ((hactor w).trans hw) fun u hu hw' => ?_).trans ?_
    · exact honly u (List.mem_cons_of_mem v hu) ((hactor u).symm.trans hw')
    · have hbank := s.activateWorker_bank i v w
      rcases eq_or_ne w v with rfl | hne
      · rw [if_neg hv, if_pos (List.mem_cons_self ..), hbank, if_pos hw.symm]
      · rw [if_neg fun h => hne (honly v (List.mem_cons_self ..) h.symm).symm] at hbank
        have hb : ((s.activateWorker i v).worker w).bank1 = (s.worker w).bank1 := congrArg Prod.fst hbank
        simp only [List.mem_cons, hne, false_or, hb, hbank]

theorem State.forEach_activateWorker_actPart (l : List Nat) (s : State) (i : Image) :
    (s.forEach l fun st v => st.activateWorker i v).actPart = s.actPart :=
  foldl_keeps State.actPart _ (fun st v => st.activateWorker_actPart i v) l s

/-! ## The message -/

theorem find?_first {α : Type} {p : α → Bool} {pre rest : List α} {m : α} (hm : p m = true) (hpre : ∀ x ∈ pre, p x = false) :
    (pre ++ m :: rest).find? p = some m := by
  rw [List.find?_append, List.find?_eq_none.mpr fun x hx => by simp [hpre x hx], List.find?_cons_of_pos hm]
  rfl

theorem dropMsg_first {p : Msg → Bool} {pre rest : List Msg} {m : Msg} (hm : p m = true) (hpre : ∀ x ∈ pre, p x = false) :
    dropMsg p (pre ++ m :: rest) = pre ++ rest := by
  induction pre with
  | nil => exact if_pos hm
  | cons x pre ih =>
    obtain ⟨hx, hpre⟩ := List.forall_mem_cons.mp hpre
    exact (if_neg (by simp [hx])).trans (congrArg (x :: ·) (ih hpre))

/-- A hub that has applied ACTIVATE_AT, before its workers do (R45). -/
def Hub.activate (h : Hub) : Hub :=
  { h with
    inbox := dropMsg Msg.isActivate h.inbox, step := 0, applied := true, stepping := h.started && !h.isSlip, stepGroups := []
    strideEnds := Tab.empty }

/-- The hub's part of ACTIVATE_AT, with the step that a running frame carries and the region tables of the image. -/
def State.activateHub (s : State) (k : Nat) (i : Image) : State :=
  let s1 := s.updHub k Hub.activate
  (if (s.hub k).started && !(s.hub k).isSlip then s1.stepHub k else s1).takeRegions k i

theorem State.actorOf_updHub_activate (s : State) (k w : Nat) : (s.updHub k Hub.activate).actorOf w = s.actorOf w := by
  have hrole : ((s.updHub k Hub.activate).hub (sledOf w)).inRole = (s.hub (sledOf w)).inRole := by
    rw [State.updHub_hub]
    split
    next h => rw [h]; rfl
    next => rfl
  rw [State.actorOf, State.actorOf, hrole]

theorem State.activateHub_actView (s : State) (k : Nat) (i : Image) : (s.activateHub k i).actView = (s.updHub k Hub.activate).actView := by
  rw [State.activateHub, State.takeRegions_actView]
  split
  · exact State.stepHub_actView _ _
  · rfl

theorem exec_activateAt {m : Msg} (hfind : (s.hub k).inbox.find? Msg.isActivate = some m) (hactive : s.img.active = some i) :
    exec (.activateAt k) s = .next (((s.activateHub k i).forEach (i.placed.filter fun w => sledOf w == k) fun st w => st.activateWorker i w).takeLoops
      i fun e => match e with | .ring w => sledOf w == k | _ => false) := by
  show execActivateAt k s = _
  unfold execActivateAt
  dsimp only
  split
  next hi =>
    cases hactive.symm.trans hi
    rfl
  next hno => cases hactive.symm.trans hno
  next hno => cases hfind.symm.trans hno

theorem completes_activateAt {pre rest : List Msg} (hactive : s.img.active = some i) (hmsg : FirstMsg s k Msg.isActivate pre (.activateAt n) rest) :
    Completes (.activateAt k) s fun t =>
       (t.hub k).step = 0 ∧ (t.hub k).applied = true ∧ (t.hub k).inbox = pre ++ rest ∧
       (∀ j, j ≠ k → (t.hub j).step = (s.hub j).step ∧ (t.hub j).applied = (s.hub j).applied ∧ (t.hub j).inbox = (s.hub j).inbox) ∧
       (∀ w ∈ i.placed, sledOf w = k → s.actorOf w = w → (∀ v ∈ i.placed, s.actorOf v = w → v = w) →
         (t.worker w).bank1 = (!(s.worker w).bank1) ∧ (t.worker w).barrier = 0xFFFFFF) ∧ t.mgr = s.mgr ∧ t.groups = s.groups := by
  obtain ⟨hinbox, hkind, hpre⟩ := hmsg
  have hfind : (s.hub k).inbox.find? Msg.isActivate = some (.activateAt n) := hinbox ▸ find?_first hkind hpre
  have hdrop : dropMsg Msg.isActivate (s.hub k).inbox = pre ++ rest := hinbox ▸ dropMsg_first hkind hpre
  refine ⟨_, exec_activateAt hfind hactive, ?_⟩
  generalize ht : State.takeLoops _ i _ = t
  have hview : t.actView = _ := ht ▸ State.takeLoops_actView _ _ _
  have hhub : (s.activateHub k i).actView = (s.updHub k Hub.activate).actView := s.activateHub_actView k i
  have hpart : t.actPart = (s.updHub k Hub.activate).actPart :=
    (congrArg Prod.fst hview).trans ((State.forEach_activateWorker_actPart _ _ i).trans (congrArg Prod.fst hhub))
  have hhubs (j : Nat) := congrFun (congrArg (fun p => p.2.2) hpart) j
  simp only [State.actPart, Prod.mk.injEq] at hhubs
  obtain ⟨hstep, happ, hbox, -⟩ := hhubs k
  rw [State.updHub_hub_self] at hstep happ hbox
  refine ⟨hstep, happ, hbox.trans hdrop, fun j hj => ?_, fun w hw hsled hrole honly => ?_, congrArg (fun p => p.1) hpart,
    congrArg (fun p => p.2.1) hpart⟩
  · obtain ⟨hstep, happ, hbox, -⟩ := hhubs j
    rw [State.updHub_hub_ne _ _ hj] at hstep happ hbox
    exact ⟨hstep, happ, hbox⟩
  · have hactor (v : Nat) : (s.activateHub k i).actorOf v = s.actorOf v := by
      rw [State.actorOf_of_actPart (congrArg Prod.fst hhub), State.actorOf_updHub_activate]
    have hmem : w ∈ i.placed.filter fun w => sledOf w == k := List.mem_filter.mpr ⟨hw, by simpa using hsled⟩
    have hbank := State.forEach_activateWorker_bank (i := i) ((List.nodup_dedup _).filter fun w => sledOf w == k) (s.activateHub k i)
      ((hactor w).trans hrole) fun v hv hv' => honly v (List.mem_filter.mp hv).1 ((hactor v).symm.trans hv')
    have hold : (s.activateHub k i).bankPart w = s.bankPart w := congrFun (congrArg Prod.snd hhub) w
    have hnew : t.bankPart w = (!((s.activateHub k i).worker w).bank1, 0xFFFFFF) :=
      (congrFun (congrArg Prod.snd hview) w).trans (hbank.trans (if_pos hmem))
    obtain ⟨hbank1, hbarrier⟩ := Prod.mk.inj hnew
    exact ⟨hbank1.trans (congrArg (!·) (Prod.mk.inj hold).1), hbarrier⟩

end Sys2Proof.Machine
end

section
/-! SUPPORT. The end of a passage: what a circuit that is given up leaves. -/

namespace Sys2Proof.Machine

variable {s : State} {c d g w : Nat}

/-- The image's record and the circuits. -/
def State.wirings (s : State) : Img × Tab Circ := (s.img, s.circs)

theorem State.updHub_wirings (s : State) (k : Nat) (f : Hub → Hub) : (s.updHub k f).wirings = s.wirings := rfl

theorem State.syncPins_wirings (s : State) (w : Nat) : (s.syncPins w).wirings = s.wirings := rfl

theorem State.updHost_wirings (s : State) (f : HostSide → HostSide) : (s.updHost f).wirings = s.wirings := rfl

theorem State.arrive_wirings (s : State) (e n mc : Nat) : (s.arrive e n mc).wirings = s.wirings := rfl

theorem State.final_wirings (s : State) (c : Cmd) (status : Nat) (r : List (Nat × Nat)) : (s.final c status r).wirings = s.wirings :=
  Prod.ext (s.final_img c status r) (s.final_circs c status r)

theorem State.raise_wirings (s : State) (code : Nat) (fields : List (Nat × Nat × Nat)) : (s.raise code fields).wirings = s.wirings := by
  unfold State.raise
  dsimp only
  split
  · rw [State.updHost_wirings]
    exact foldl_keeps State.wirings _ (fun st k => st.updHub_wirings k _) s.fit.sledList s
  · rw [State.arrive_wirings, State.updHost_wirings]
    exact foldl_keeps State.wirings _ (fun st k => st.updHub_wirings k _) s.fit.sledList s

theorem State.scheduleJob_wirings (s : State) (g : Nat) : (s.scheduleJob g).wirings = s.wirings := by
  unfold State.scheduleJob
  dsimp only
  split <;> rfl

theorem State.endJob_wirings (s : State) (g : Nat) : (s.endJob g).wirings = s.wirings := by
  unfold State.endJob
  split
  · rfl
  · exact (State.scheduleJob_wirings _ _).trans (foldl_keeps State.wirings _ State.syncPins_wirings _ _)

theorem State.loseJob_wirings (s : State) (g reason : Nat) : (s.loseJob g reason).wirings = s.wirings := by
  unfold State.loseJob
  split
  · rfl
  · exact (State.endJob_wirings _ _).trans ((State.final_wirings _ _ _ _).trans (State.raise_wirings _ _ _))

theorem State.endSwitchIn_wirings (s : State) (k : Nat) : (s.endSwitchIn k).wirings = s.wirings :=
  foldl_keeps State.wirings _ (fun st g => st.loseJob_wirings g 5) _ _

theorem State.downCircuit_wirings (s : State) (c : Nat) : (s.downCircuit c).wirings = (s.updCirc c fun x => { x with state := 5 }).wirings := by
  have hports : (if (s.circ c).tear.isSome then s else (s.clearPort c false).clearPort c true).wirings = s.wirings := by split <;> rfl
  refine (foldl_keeps State.wirings _ (fun st k => st.endSwitchIn_wirings k) _ _).trans ?_
  generalize (if (s.circ c).tear.isSome then s else (s.clearPort c false).clearPort c true) = u at hports ⊢
  obtain ⟨himg, hcircs⟩ := Prod.mk.inj hports
  exact Prod.ext himg (by simp only [State.wirings, State.updCirc_circs, State.circ, hcircs])

theorem State.downCircuit_state (s : State) (c d : Nat) : ((s.downCircuit c).circ d).state = if d = c then 5 else (s.circ d).state := by
  have hcircs : (s.downCircuit c).circs = _ := congrArg Prod.snd (s.downCircuit_wirings c)
  have hcirc : (s.downCircuit c).circ d = (s.updCirc c fun x => { x with state := 5 }).circ d := congrArg (fun t => t.get Circ.init d) hcircs
  rw [hcirc, State.updCirc_circ]
  split <;> rfl

theorem State.forEach_downCircuit_img (l : List Nat) (s : State) : (s.forEach l State.downCircuit).img = s.img :=
  State.forEach_img (fun st c => congrArg Prod.fst (st.downCircuit_wirings c)) l s

theorem State.forEach_downCircuit_state (l : List Nat) (s : State) (h : d ∈ l ∨ (s.circ d).state = 5) :
    ((s.forEach l State.downCircuit).circ d).state = 5 := by
  induction l generalizing s with
  | nil => exact h.resolve_left List.not_mem_nil
  | cons c l ih =>
    refine ih (s.downCircuit c) ?_
    rw [State.downCircuit_state]
    rcases eq_or_ne d c with rfl | hne
    · exact .inr (if_pos rfl)
    · rw [if_neg hne]
      exact h.imp_left fun hd => (List.mem_cons.mp hd).resolve_left hne

theorem State.setLat_circs (s : State) (g : Nat) : (s.setLat g).circs = s.circs :=
  foldl_keeps State.circs _ (fun st _ => st.updWorker_circs _ _) _ _

theorem State.setLats_circs (s : State) (i : Image) : (s.setLats i).circs = s.circs := foldl_keeps State.circs _ State.setLat_circs _ s

/-- The circuits of the active image that are not usable as its passage ends. -/
def State.lateCircs (s : State) (i : Image) : List Nat := (i.circs.map (·.cid)).filter fun c => !(s.circ c).usable

theorem exec_passageEnd {a : Activation} {i : Image} {b : Nat} (hact : s.img.act = some a) (hactive : s.img.active = some i)
    (hdeact : a.deact = false) (hbound : a.boundary = some b) (hmode : s.mgr.mode = .passage)
    (hend : (∀ d ∈ i.circs, (s.circ d.cid).live = true) ∨ b + 400 ≤ s.mgr.frame) :
    exec .passageEnd s = .next (((((s.forEach ((s.lateCircs i).filter fun c => (s.circ c).state != 5) State.downCircuit).setLats i).endAct a
      (s.lateCircs i).length)).setMode .loaded 0) := by
  have hlate : ((s.lateCircs i).isEmpty || decide (b + 400 ≤ s.mgr.frame)) = true := by
    rcases hend with h | h
    · simpa [State.lateCircs, Circ.usable] using .inl h
    · simp [h]
  show execPassageEnd s = _
  unfold execPassageEnd
  simp only [hact, hactive, hbound]
  rw [if_pos (by rw [hmode, hdeact]; exact hlate), if_pos hmode]
  rfl

theorem completes_passageEnd {a : Activation} {i : Image} {b : Nat} (hact : s.img.act = some a) (hactive : s.img.active = some i)
    (hdeact : a.deact = false) (hbound : a.boundary = some b) (hmode : s.mgr.mode = .passage)
    (hend : (∀ d ∈ i.circs, (s.circ d.cid).live = true) ∨ b + 400 ≤ s.mgr.frame) :
    Completes .passageEnd s fun t =>
      t.mgr.mode = .loaded ∧ t.img.act = none ∧ t.img.active = some i ∧
         ∀ d ∈ i.circs, (s.circ d.cid).live = false → (t.circ d.cid).state = 5 := by
  refine ⟨_, exec_passageEnd hact hactive hdeact hbound hmode hend, State.setMode_mode _ _ _, ?_, ?_, fun d hd hdown => ?_⟩
  · rw [State.setMode_img, State.endAct_img]
  · rw [State.setMode_img, State.endAct_img, State.setLats_img, State.forEach_downCircuit_img]
    exact hactive
  · have hcircs (t : State) : ((t.setLats i).endAct a (s.lateCircs i).length).circs = t.circs :=
      (State.final_circs _ _ _ _).trans (t.setLats_circs i)
    rw [State.circ, State.setMode_circs, hcircs, ← State.circ]
    refine State.forEach_downCircuit_state _ _ ?_
    by_cases h : (s.circ d.cid).state = 5
    · exact .inr h
    · refine .inl (List.mem_filter.mpr ⟨List.mem_filter.mpr ⟨List.mem_map_of_mem hd, ?_⟩, ?_⟩)
      · simp [Circ.usable, hdown]
      · simpa using h

end Sys2Proof.Machine
end

section
/-! The obligation about the image boundary. -/

namespace Sys2Proof.Machine

/-- Settles O34: each kind of image by what its boundary leaves; ACTIVATE_AT and the end of a passage by what their folds leave. -/
theorem imagesAreActivated : Obligations.ImagesAreActivated := by
  unfold Obligations.ImagesAreActivated
  refine ⟨fun s a i base code hact hstaged hdeact hbound hacc hreplan hdrained hdoze hmode => ?_, fun s k n b i a pre rest hactive =>
    ⟨completes_activateAt hactive, fun hact hdeact hbound hmode hend => completes_passageEnd hact hactive hdeact hbound hmode hend⟩⟩
  have h : s.BoundaryComes a i := ⟨hact, hstaged, hdeact, hbound, hacc, hreplan, hdrained, hdoze, hmode⟩
  refine ⟨fun hok hkind hre => ?_, fun hok hkind hre hbase => ?_, fun hok hkind => ?_, fun hrefused _ => completes_imageBoundary_refused h hrefused⟩
  · exact ⟨_, exec_imageBoundary_full h hok hkind hre, s.takeFull_spec a _⟩
  · exact ⟨_, exec_imageBoundary_wiring h hok hkind hre hbase, s.takeWiring_spec a _ base⟩
  · exact ⟨_, exec_imageBoundary_scarab h hok hkind, s.takeScarab_spec a i⟩

end Sys2Proof.Machine
end

section
/-! SUPPORT. One bit of a mask written. -/

namespace Sys2Proof

theorem testBit_add_two_pow (i : Nat) {m : Nat} (h : m.testBit i = false) (j : Nat) :
    (m + 2 ^ i).testBit j = if j = i then true else m.testBit j := by
  induction i generalizing m j with
  | zero =>
    have heven : m % 2 = 0 := by simpa [Nat.testBit_zero] using h
    cases j with
    | zero => simp [Nat.testBit_zero]; omega
    | succ j => rw [Nat.testBit_succ, Nat.testBit_succ, show (m + 2 ^ 0) / 2 = m / 2 by omega, if_neg (Nat.succ_ne_zero j)]
  | succ i ih =>
    cases j with
    | zero => simp only [Nat.testBit_zero, if_neg (Nat.succ_ne_zero i).symm]; congr 2; omega
    | succ j =>
      rw [Nat.testBit_succ, Nat.testBit_succ, show (m + 2 ^ (i + 1)) / 2 = m / 2 + 2 ^ i by omega, ih (by rwa [← Nat.testBit_succ])]
      simp only [Nat.succ_inj]

theorem testBit_putBit (m i : Nat) (b : Bool) (j : Nat) : (putBit m i b).testBit j = if j = i then b else m.testBit j := by
  unfold putBit
  split
  next h => split <;> simp_all
  next h =>
    cases b with
    | true => exact testBit_add_two_pow i (by simpa using h) j
    | false =>
      have hset : m.testBit i = true := by simpa using h
      have hm : m = (m - 2 ^ i) + 2 ^ i := (Nat.sub_add_cancel (Nat.ge_two_pow_of_testBit hset)).symm
      have hclear : (m - 2 ^ i).testBit i = false := by
        have := Nat.testBit_two_pow_add_eq (m - 2 ^ i) i
        rw [Nat.add_comm, ← hm, hset] at this
        simpa using this.symm
      have hrest := testBit_add_two_pow i hclear j
      rw [← hm] at hrest
      rw [if_neg Bool.false_ne_true]
      rcases eq_or_ne j i with rfl | hne
      · rw [if_pos rfl, hclear]
      · rw [if_neg hne] at hrest ⊢; exact hrest.symm

end Sys2Proof
end

section
/-! SUPPORT. The power domains of a worker: what the operations that switch one leave of every worker's domains and requests. -/

namespace Sys2Proof.Machine

variable {s t u : State} {w v n m k : Nat} {want lift bad : Bool}

/-- Of the machine, what the evaluation of a request for power domains rests on. -/
def State.pdFrame (s : State) : Fit × Img × MState × (Nat → Nat × List (Nat × Nat)) :=
  (s.fit, s.img, s.mgr.mode, fun k => ((s.hub k).frame, (s.hub k).inRole))

/-- The latched request of a worker, and what else of the worker its evaluation rests on. -/
def Worker.request (x : Worker) : Option (Nat × Bool) × Stamp × Bool × Tab (Option Nat) := (x.latched, x.latchAt, x.failed, x.cmap)

/-- The power domains of a worker and its request. -/
def Worker.domains (x : Worker) : Nat × Nat × Option (Nat × Bool) × Stamp × Bool × Tab (Option Nat) := (x.pwr, x.on, x.request)

def State.pdView (s : State) := (s.pdFrame, fun w => (s.worker w).domains)

theorem State.foldl_pdView {α : Type} {f : State → α → State} (h : ∀ s a, (f s a).pdView = s.pdView) (l : List α) (s : State) :
    (l.foldl f s).pdView = s.pdView := foldl_keeps State.pdView f h l s

theorem State.updWorker_pdView {f : Worker → Worker} (hf : ∀ x, (f x).domains = x.domains) (s : State) (w : Nat) :
    (s.updWorker w f).pdView = s.pdView := by
  refine Prod.ext rfl (funext fun v => ?_)
  simp only [State.pdView, State.updWorker_worker]
  split
  next h => rw [h, hf]
  next => rfl

theorem State.updHub_pdView {f : Hub → Hub} (hf : ∀ h, (f h).frame = h.frame ∧ (f h).inRole = h.inRole) (s : State) (k : Nat) :
    (s.updHub k f).pdView = s.pdView := by
  refine Prod.ext (Prod.ext rfl (Prod.ext rfl (Prod.ext rfl (funext fun j => ?_)))) rfl
  simp only [State.pdView, State.pdFrame, State.updHub_hub]
  split
  next h => rw [h, (hf _).1, (hf _).2]
  next => rfl

theorem State.updLink_pdView (s : State) (w j : Nat) (f : Link → Link) : (s.updLink w j f).pdView = s.pdView :=
  State.updWorker_pdView (by exact fun _ => rfl) s w

theorem State.updPort_pdView (s : State) (w p : Nat) (f : Port → Port) : (s.updPort w p f).pdView = s.pdView :=
  State.updWorker_pdView (by exact fun _ => rfl) s w

theorem State.updCirc_pdView (s : State) (c : Nat) (f : Circ → Circ) : (s.updCirc c f).pdView = s.pdView := rfl

theorem State.updGroup_pdView (s : State) (g : Nat) (f : Group → Group) : (s.updGroup g f).pdView = s.pdView := rfl

theorem State.updTile_pdView (s : State) (i : Nat) (f : Tile → Tile) : (s.updTile i f).pdView = s.pdView := rfl

theorem State.stopGroup_pdView (s : State) (g reason : Nat) : (s.stopGroup g reason).pdView = s.pdView := by
  unfold State.stopGroup
  dsimp only
  split
  · split
    · rfl
    · exact State.foldl_pdView (fun st k => State.updHub_pdView (by exact fun _ => ⟨rfl, rfl⟩) st k) _ _
  · rfl

theorem State.stopGroups_pdView (s : State) (gs : List Nat) (reason : Nat) : (s.stopGroups gs reason).pdView = s.pdView :=
  State.foldl_pdView (fun st g => st.stopGroup_pdView g reason) gs s

theorem State.parkRoute_pdView (s : State) (c : Nat) : (s.parkRoute c).pdView = s.pdView := by
  unfold State.parkRoute
  split
  · rfl
  · refine State.foldl_pdView (fun st h => ?_) _ s
    dsimp only
    exact State.foldl_pdView (fun a e => a.updTile_pdView _ _) _ st

theorem State.tearCircuit_pdView (s : State) (c cause : Nat) : (s.tearCircuit c cause).pdView = s.pdView := by
  unfold State.tearCircuit
  split
  · exact (State.stopGroups_pdView _ _ _).trans (State.parkRoute_pdView _ _)
  · rfl

theorem State.applyTear_pdView (s : State) (c : Nat) (rx : Bool) : (s.applyTear c rx).pdView = s.pdView :=
  (State.updCirc_pdView _ _ _).trans (s.updPort_pdView _ _ _)

theorem State.tearLink_pdView (s : State) (w j cause : Nat) : (s.tearLink w j cause).pdView = s.pdView :=
  (State.updLink_pdView _ _ _ _).trans (State.updLink_pdView _ _ _ _)

theorem State.trainLinks_pdView (s : State) (w : Nat) : (s.trainLinks w).pdView = s.pdView := by
  refine State.foldl_pdView (fun st j => ?_) _ s
  dsimp only
  split
  · exact (State.updLink_pdView _ _ _ _).trans (State.updLink_pdView _ _ _ _)
  · rfl

theorem State.loadPrograms_pdView (s : State) (w mask : Nat) : (s.loadPrograms w mask).pdView = s.pdView := by
  refine State.foldl_pdView (fun st n => ?_) _ s
  unfold State.loadProgram
  split
  · exact State.updWorker_pdView (by exact fun _ => rfl) st w
  · rfl

theorem State.loseTier_pdView (s : State) (w space : Nat) : (s.loseTier w space).pdView = s.pdView := by
  have hlost (b : State) (f : Worker → Worker) (hf : ∀ x, (f x).domains = x.domains) (mem : List Host.Cell) (keyTag : Tab Nat) :
      ({ b.updWorker w f with mem := mem, keyTag := keyTag } : State).pdView = b.pdView := (State.updWorker_pdView hf b w).trans rfl
  unfold State.loseTier
  dsimp only
  refine (hlost (s.newKey 255).2 _ ?_ _ _).trans rfl
  exact fun _ => rfl

theorem Worker.coresOff_domains (x : Worker) (mask epoch : Nat) : (x.coresOff mask epoch).domains = x.domains := by
  unfold Worker.coresOff
  generalize (List.range 50).filter _ = l
  induction l generalizing x with
  | nil => rfl
  | cons n l ih => exact ih _

/-- Groups that lose a domain are to end (R67). -/
theorem State.abortGroups_pdView (s : State) (gs : List Nat) (reason : Nat) :
    (s.forEach gs fun st g => st.updGroup g fun x => { x with abortReason := reason }).pdView = s.pdView :=
  State.foldl_pdView (fun st g => st.updGroup_pdView g _) gs s

/-- The worker with one domain's power set. -/
def Worker.power (n : Nat) (b : Bool) (x : Worker) : Worker := { x with pwr := putBit x.pwr n b }

/-- Of every worker's domains a domain switched off changes its own bit. -/
theorem State.domainOff_pdView (s : State) (w n : Nat) (lift : Bool) :
    (s.domainOff w n lift).pdView = (s.updWorker w (Worker.power n false)).pdView := by
  unfold State.domainOff
  dsimp only
  split
  · refine (State.foldl_pdView (fun st p => State.foldl_pdView (fun a c => ?_) _ st) _ _).trans
      (State.updWorker_pdView (by exact fun _ => rfl) _ w)
    have htear (b : State) (c : Nat) (rx : Bool) : ((b.tearCircuit c 1).applyTear c rx).pdView = b.pdView :=
      (State.applyTear_pdView _ _ _).trans (State.tearCircuit_pdView _ _ _)
    (repeat' split) <;> simp only [htear]
  · split
    · have hlinks (b : State) : (b.forEach s.fit.linkList fun st j => if ((st.worker w).link j).up then st.tearLink w j 1 else st).pdView = b.pdView := by
        refine State.foldl_pdView (fun st j => ?_) _ b
        split
        · exact st.tearLink_pdView _ _ _
        · rfl
      split
      · exact (State.abortGroups_pdView _ _ _).trans (hlinks _)
      · exact hlinks _
    · split
      · exact State.loseTier_pdView _ _ _
      · split
        · exact State.loseTier_pdView _ _ _
        · have hcores (b : State) (f : Worker → Worker) (hf : ∀ x, (f x).domains = x.domains) : (b.draw.2.updWorker w f).pdView = b.pdView :=
            (State.updWorker_pdView hf _ w).trans rfl
          split
          · exact (State.abortGroups_pdView _ _ _).trans (hcores _ _ fun x => x.coresOff_domains _ _)
          · exact hcores _ _ fun x => x.coresOff_domains _ _

end Sys2Proof.Machine
end

section
/-! SUPPORT. A request for power domains: what is refused, and what one domain, one worker and a sled of workers come to. -/

namespace Sys2Proof.Machine

variable {s t u : State} {w v n m k on : Nat} {want lift bad force : Bool}

/-! ## One domain -/

theorem Worker.powered_switchOn (x : Worker) (n : Nat) (m : Nat) :
    ({ x with pwr := x.pwr ||| 2 ^ n } : Worker).powered m = if m = n then true else x.powered m := by
  simp only [Worker.powered, Nat.testBit_or, Nat.testBit_two_pow]
  rcases eq_or_ne m n with rfl | hne
  · simp
  · simp [hne, Ne.symm hne]

/-- A worker but for one domain's power. -/
def Worker.DiffersAt (n : Nat) (x y : Worker) : Prop :=
  y.on = x.on ∧ y.request = x.request ∧ ∀ m, m ≠ n → y.powered m = x.powered m

theorem Worker.differsAt_power (n : Nat) (b : Bool) (x : Worker) : Worker.DiffersAt n x (x.power n b) :=
  ⟨rfl, rfl, fun _ h => (testBit_putBit _ _ _ _).trans (if_neg h)⟩

theorem Worker.differsAt_switchOn (n : Nat) (x : Worker) : Worker.DiffersAt n x { x with pwr := x.pwr ||| 2 ^ n } :=
  ⟨rfl, rfl, fun m h => (Worker.powered_switchOn x n m).trans (if_neg h)⟩

theorem Worker.differsAt_of_domains {x y z : Worker} (h : z.domains = y.domains) (hy : Worker.DiffersAt n x y) : Worker.DiffersAt n x z := by
  simp only [Worker.domains, Prod.mk.injEq] at h
  obtain ⟨hpwr, hon, hreq⟩ := h
  obtain ⟨hyon, hyreq, hypow⟩ := hy
  refine ⟨hon.trans hyon, hreq.trans hyreq, fun m hm => ?_⟩
  rw [← hypow m hm, Worker.powered, Worker.powered, hpwr]

/-- What a change of one worker's record leaves when its view is that of the change. -/
theorem State.pdView_updWorker {f : Worker → Worker} (h : t.pdView = (s.updWorker w f).pdView) :
    t.pdFrame = s.pdFrame ∧ (∀ v, v ≠ w → (t.worker v).domains = (s.worker v).domains) ∧ (t.worker w).domains = (f (s.worker w)).domains := by
  obtain ⟨hframe, hworkers⟩ := Prod.mk.inj h
  refine ⟨hframe, fun v hv => (congrFun hworkers v).trans ?_, (congrFun hworkers w).trans ?_⟩
  · rw [State.updWorker_worker_ne _ _ hv]
  · rw [State.updWorker_worker_self]

/-- What one domain of a request comes to: its own bit changes at most, to what is asked for where it is not refused. -/
theorem State.domainApply_spec (s : State) (w n : Nat) (want lift bad : Bool) :
    let t := s.domainApply w n want lift bad
    t.pdFrame = s.pdFrame ∧ (∀ v, v ≠ w → (t.worker v).domains = (s.worker v).domains) ∧ Worker.DiffersAt n (s.worker w) (t.worker w) ∧
      (s.fit.domainMask.testBit n = true → n ≠ 0 → s.domainRefused w n want lift bad = false → (t.worker w).powered n = want) := by
  unfold State.domainApply
  dsimp only
  split
  next hsame =>
    refine ⟨rfl, fun _ _ => rfl, ⟨rfl, rfl, fun _ _ => rfl⟩, fun hmask hn _ => ?_⟩
    rcases hsame with h | h | h
    · exact h.symm
    · rw [hmask] at h; cases h
    · exact absurd h hn
  next =>
    split
    next hrefused =>
      obtain ⟨hframe, hothers, hself⟩ := State.pdView_updWorker (State.updWorker_pdView (f := fun x => { x with pdRefused := putBit x.pdRefused n true })
        (fun _ => rfl) s w |>.trans (State.updWorker_pdView (f := id) (fun _ => rfl) s w).symm)
      exact ⟨hframe, hothers, Worker.differsAt_of_domains hself ⟨rfl, rfl, fun _ _ => rfl⟩, fun _ _ h => absurd (h.symm.trans hrefused) (by decide)⟩
    next =>
      split
      next hwant =>
        have hview : (if n = 11 then (s.switchOn w (2 ^ n)).trainLinks w else (s.switchOn w (2 ^ n)).loadPrograms w (2 ^ n)).pdView =
            (s.switchOn w (2 ^ n)).pdView := by
          split
          · exact State.trainLinks_pdView _ _
          · exact State.loadPrograms_pdView _ _ _
        obtain ⟨hframe, hothers, hself⟩ := State.pdView_updWorker hview
        refine ⟨hframe, hothers, Worker.differsAt_of_domains hself (Worker.differsAt_switchOn n _), fun _ _ _ => ?_⟩
        rw [hwant, Worker.powered, show (State.worker _ w).pwr = _ from congrArg Prod.fst hself]
        exact (Worker.powered_switchOn _ n n).trans (if_pos rfl)
      next hwant =>
        obtain ⟨hframe, hothers, hself⟩ := State.pdView_updWorker (s.domainOff_pdView w n lift)
        refine ⟨hframe, hothers, Worker.differsAt_of_domains hself (Worker.differsAt_power n false _), fun _ _ _ => ?_⟩
        rw [Worker.powered, show (State.worker _ w).pwr = _ from congrArg Prod.fst hself]
        exact (testBit_putBit _ n false n).trans ((if_pos rfl).trans (Bool.eq_false_iff.mpr hwant).symm)

/-! ## What is refused -/

/-- The domains that a request may switch on whatever the state: the clusters, the ports and the links. -/
def freeDomain (n : Nat) : Prop := (2 ≤ n ∧ n ≤ 6) ∨ (9 ≤ n ∧ n ≤ 11)

theorem State.domainRefused_on (h : freeDomain n) : s.domainRefused w n true lift false = false := by
  have h1 : n ≠ 1 := by unfold freeDomain at h; omega
  have h7 : n ≠ 7 := by unfold freeDomain at h; omega
  have h8 : n ≠ 8 := by unfold freeDomain at h; omega
  simp [State.domainRefused, h1, h7, h8]

theorem State.domainRefused_lift (h : freeDomain n) : s.domainRefused w n want true false = false := by
  have h1 : n ≠ 1 := by unfold freeDomain at h; omega
  have h7 : n ≠ 7 := by unfold freeDomain at h; omega
  have h8 : n ≠ 8 := by unfold freeDomain at h; omega
  simp [State.domainRefused, h1, h7, h8]

theorem State.domainRefused_off (h : n = 9 ∨ n = 10 ∨ (2 ≤ n ∧ n ≤ 6 ∧ s.clusterUsed w n = false)) :
    s.domainRefused w n false lift false = false := by
  have hn : n ≠ 1 ∧ n ≠ 7 ∧ n ≠ 8 ∧ n ≠ 11 := by omega
  obtain ⟨h1, h7, h8, h11⟩ := hn
  have hused : (decide (2 ≤ n) && decide (n ≤ 6) && !lift && s.clusterUsed w n) = false := by
    rcases h with rfl | rfl | ⟨-, -, h⟩
    · rfl
    · rfl
    · rw [h, Bool.and_false]
  simp [State.domainRefused, h1, h7, h8, h11] at hused ⊢
  exact hused

/-- Whether a cluster is used rests on what `pdFrame` and the worker's map show. -/
theorem State.clusterUsed_congr (hframe : t.pdFrame = s.pdFrame) (hreq : (t.worker w).request = (s.worker w).request) (n : Nat) :
    t.clusterUsed w n = s.clusterUsed w n := by
  have himg : t.img = s.img := congrArg (fun p => p.2.1) hframe
  have hrole : (t.hub (sledOf w)).inRole = (s.hub (sledOf w)).inRole := congrArg (fun p => (p.2.2.2 (sledOf w)).2) hframe
  have hcmap : (t.worker w).cmap = (s.worker w).cmap := congrArg (fun p => p.2.2.2) hreq
  have hbind (l : Nat) : t.bindOf w l = s.bindOf w l := by rw [State.bindOf, State.bindOf, State.roleOf, State.roleOf, himg, hrole]
  simp only [State.clusterUsed, hbind, Worker.physOf, hcmap]

/-! ## A worker's request -/

/-- The domains of a request, in their order. -/
def State.applyEach (s : State) (w on : Nat) (lift bad : Bool) : State :=
  s.forEach (List.range 12) fun st n => st.domainApply w n (on.testBit n) lift bad

theorem State.applyDomains_eq (h : (s.worker w).latched = some (on, force)) :
    s.applyDomains w = (s.applyEach w on (force && s.mgr.mode == .hold) (force && !(s.mgr.mode == .hold))).updWorker w
      fun x => { x with latched := none, on := x.pwr ||| 1 } := by
  unfold State.applyDomains
  rw [h]
  rfl

/-- What the domains of a request leave as they are, and one domain's power. -/
def State.pdAt (w : Nat) (s : State) (n : Nat) := (s.pdFrame, (s.worker w).request, (s.worker w).powered n)

theorem State.domainApply_pdAt (s : State) (w : Nat) (hne : m ≠ n) (want lift bad : Bool) :
    State.pdAt w (s.domainApply w n want lift bad) m = State.pdAt w s m := by
  obtain ⟨hframe, -, ⟨-, hreq, hpow⟩, -⟩ := s.domainApply_spec w n want lift bad
  exact Prod.ext hframe (Prod.ext hreq (hpow m hne))

/-- Each domain of a request is dealt with once, in a state that shows the request as the first did. -/
theorem State.applyEach_at (s : State) (w on : Nat) (lift bad : Bool) (hn : n < 12) : ∃ u, State.pdAt w u n = State.pdAt w s n ∧
    State.pdAt w (s.applyEach w on lift bad) n = State.pdAt w (u.domainApply w n (on.testBit n) lift bad) n :=
  State.forEach_at (part := State.pdAt w) (f := fun st n => st.domainApply w n (on.testBit n) lift bad)
    (fun st _ _ hne => st.domainApply_pdAt w hne _ _ _) List.nodup_range (List.mem_range.mpr hn) s

/-- What a request comes to where it refuses nothing about a domain. -/
theorem State.applyEach_powered (s : State) (w on : Nat) (lift bad : Bool) (hn : n < 12) (hmask : s.fit.domainMask.testBit n = true) (hn0 : n ≠ 0)
    (hok : ∀ u : State, u.pdFrame = s.pdFrame → (u.worker w).request = (s.worker w).request →
      u.domainRefused w n (on.testBit n) lift bad = false) : ((s.applyEach w on lift bad).worker w).powered n = on.testBit n := by
  obtain ⟨u, hu, ht⟩ := s.applyEach_at w on lift bad hn
  simp only [State.pdAt, Prod.mk.injEq] at hu ht
  obtain ⟨hframe, hreq, -⟩ := hu
  obtain ⟨-, -, hpow⟩ := ht
  have hfit : u.fit = s.fit := congrArg Prod.fst hframe
  obtain ⟨-, -, -, hset⟩ := u.domainApply_spec w n (on.testBit n) lift bad
  exact hpow.trans (hset (hfit ▸ hmask) hn0 (hok u hframe hreq))

/-- PD0 is no domain that a request changes. -/
theorem State.applyEach_powered_zero (s : State) (w on : Nat) (lift bad : Bool) :
    ((s.applyEach w on lift bad).worker w).powered 0 = (s.worker w).powered 0 := by
  obtain ⟨u, hu, ht⟩ := s.applyEach_at (n := 0) w on lift bad (by decide)
  have hzero : u.domainApply w 0 (on.testBit 0) lift bad = u := if_pos (.inr (.inr rfl))
  rw [hzero] at ht
  exact congrArg (fun p => p.2.2) (ht.trans hu)

theorem State.applyDomains_done (h : (s.worker w).latched = some (on, force)) :
    ((s.applyDomains w).worker w).latched = none ∧ ((s.applyDomains w).worker w).on = ((s.applyDomains w).worker w).pwr ||| 1 := by
  rw [State.applyDomains_eq h, State.updWorker_worker_self]
  exact ⟨rfl, rfl⟩

theorem State.applyDomains_powered (h : (s.worker w).latched = some (on, force)) (n : Nat) :
    ((s.applyDomains w).worker w).powered n =
      ((s.applyEach w on (force && s.mgr.mode == .hold) (force && !(s.mgr.mode == .hold))).worker w).powered n := by
  rw [State.applyDomains_eq h, State.updWorker_worker_self]
  rfl

/-- Of another worker's domains a request leaves all. -/
theorem State.applyDomains_others (s : State) (w : Nat) (h : v ≠ w) :
    (s.applyDomains w).pdFrame = s.pdFrame ∧ ((s.applyDomains w).worker v).domains = (s.worker v).domains := by
  cases hlatched : (s.worker w).latched with
  | none =>
    have hsame : s.applyDomains w = s := by unfold State.applyDomains; rw [hlatched]
    rw [hsame]
    exact ⟨rfl, rfl⟩
  | some r =>
    obtain ⟨on, force⟩ := r
    have heach (lift bad : Bool) : ((s.applyEach w on lift bad).pdFrame, ((s.applyEach w on lift bad).worker v).domains) =
        (s.pdFrame, (s.worker v).domains) :=
      foldl_keeps (fun st => (st.pdFrame, (st.worker v).domains)) _ (fun st n => by
        obtain ⟨hframe, hothers, -⟩ := st.domainApply_spec w n (on.testBit n) lift bad
        exact Prod.ext hframe (hothers v h)) _ s
    obtain ⟨hframe, hdomains⟩ := Prod.mk.inj (heach (force && s.mgr.mode == .hold) (force && !(s.mgr.mode == .hold)))
    rw [State.applyDomains_eq hlatched]
    exact ⟨hframe, by rw [State.updWorker_worker_ne _ _ h]; exact hdomains⟩

/-! ## A sled's boundary -/

theorem State.applyWorkerRwb_others (s : State) (w : Nat) (h : v ≠ w) :
    ((s.applyWorkerRwb w).pdFrame, ((s.applyWorkerRwb w).worker v).domains) = (s.pdFrame, (s.worker v).domains) := by
  have happlied : (if s.workerUp w && decide ((s.worker w).latchAt.frame < (s.hub (sledOf w)).frame) then s.applyDomains w else s).pdFrame = s.pdFrame ∧
      ((if s.workerUp w && decide ((s.worker w).latchAt.frame < (s.hub (sledOf w)).frame) then s.applyDomains w else s).worker v).domains =
        (s.worker v).domains := by
    split
    · exact s.applyDomains_others w h
    · exact ⟨rfl, rfl⟩
  unfold State.applyWorkerRwb
  refine Prod.ext happlied.1 ?_
  dsimp only
  rw [State.updWorker_worker_ne _ _ h]
  exact happlied.2

theorem State.applyWorkerRwb_domains (hup : s.workerUp w = true) (hold : (s.worker w).latchAt.frame < (s.hub (sledOf w)).frame) :
    ((s.applyWorkerRwb w).worker w).domains = ((s.applyDomains w).worker w).domains := by
  unfold State.applyWorkerRwb
  dsimp only
  rw [State.updWorker_worker_self, if_pos (by simp [hup, hold])]
  rfl

theorem State.writeLinkReg_workers (s : State) (k o v be : Nat) : (s.writeLinkReg k o v be).workers = s.workers := by
  simp [State.writeLinkReg, State.updQueue, State.sqtail, State.cqhead, State.fetch, apply_ite State.workers]

theorem State.applyHubWrites_worker (s : State) (k w : Nat) : (s.applyHubWrites k).worker w = s.worker w := by
  have h : (s.applyHubWrites k).workers = s.workers :=
    foldl_keeps State.workers _ (fun (st : State) (x : Nat × Nat × Nat) => st.writeLinkReg_workers k x.2.1 x.2.2 15) _ _
  rw [State.worker, h, ← State.worker]

theorem Fit.mem_sledWorkers {f : Fit} (h : f.workerOk w = true) : w ∈ f.sledWorkers (sledOf w) ∧ sledOf w < f.sleds := by
  simp only [Fit.workerOk, Fit.siteOk, Bool.and_eq_true, decide_eq_true_eq, List.contains_iff_mem] at h
  exact ⟨List.mem_map.mpr ⟨siteOf w, h.2, by unfold workerCode sledOf siteOf; omega⟩, h.1⟩

theorem State.workerOk_of_up (h : s.workerUp w = true) : s.fit.workerOk w = true := by
  simp only [State.workerUp, Bool.and_eq_true] at h
  exact h.1.1

theorem State.workerUp_congr (hframe : t.pdFrame = s.pdFrame) (hdomains : (t.worker w).domains = (s.worker w).domains) :
    t.workerUp w = s.workerUp w := by
  have hfit : t.fit = s.fit := congrArg Prod.fst hframe
  have hfailed : (t.worker w).failed = (s.worker w).failed := congrArg (fun p => p.2.2.2.2.1) hdomains
  rw [State.workerUp, State.workerUp, hfit, hfailed]

/-- A worker's request at its sled's boundary is applied once, in a state that shows it as the boundary found it. -/
theorem State.rwbApply_sled (hup : s.workerUp w = true) (hstart : (s.hub (sledOf w)).started = true)
    (hold : (s.worker w).latchAt.frame < (s.hub (sledOf w)).frame) : ∃ u : State, u.pdFrame = s.pdFrame ∧
      (u.worker w).domains = (s.worker w).domains ∧ ((s.rwbApply (.sled (sledOf w))).worker w).domains = ((u.applyDomains w).worker w).domains := by
  obtain ⟨hmem, hsled⟩ := Fit.mem_sledWorkers (State.workerOk_of_up hup)
  obtain ⟨u, hu, ht⟩ := State.forEach_at (part := fun s w => (s.pdFrame, (s.worker w).domains)) (f := State.applyWorkerRwb)
    (fun st _ _ hne => st.applyWorkerRwb_others _ hne) (s.fit.sledWorkers_nodup (sledOf w)) hmem s
  obtain ⟨hframe, hdomains⟩ := Prod.mk.inj hu
  have hage : (u.worker w).latchAt.frame < (u.hub (sledOf w)).frame := by
    have hat : (u.worker w).latchAt = (s.worker w).latchAt := congrArg (fun p => p.2.2.2.1) hdomains
    have hhub : (u.hub (sledOf w)).frame = (s.hub (sledOf w)).frame := congrArg (fun p => (p.2.2.2 (sledOf w)).1) hframe
    rwa [hat, hhub]
  refine ⟨u, hframe, hdomains, ?_⟩
  have hrwb : s.rwbApply (.sled (sledOf w)) = (s.forEach (s.fit.sledWorkers (sledOf w)) State.applyWorkerRwb).applyHubWrites (sledOf w) :=
    if_pos ⟨hstart, hsled⟩
  rw [hrwb, State.applyHubWrites_worker, ← State.applyWorkerRwb_domains ((State.workerUp_congr hframe hdomains).trans hup) hage]
  exact congrArg Prod.snd ht

end Sys2Proof.Machine
end

section
/-! The obligation about the power domains and the coefficients. -/

namespace Sys2Proof.Machine

variable {s t u : State} {w n on : Nat} {force : Bool}

theorem exec_powerDomainApply_started (hup : s.workerUp w = true) (hstart : (s.hub (sledOf w)).started = true) :
    exec (.powerDomainApply w) s = .next (s.rwbApply (.sled (sledOf w))) := by
  show execPowerDomainApply w s = _
  simp [execPowerDomainApply, hup, hstart]

theorem exec_powerDomainApply_held (hup : s.workerUp w = true) (hstop : (s.hub (sledOf w)).started = false) (hmode : s.mgr.mode = .hold)
    (hlatched : (s.worker w).latched = some (on, true)) : exec (.powerDomainApply w) s = .next (s.applyDomains w) := by
  show execPowerDomainApply w s = _
  simp [execPowerDomainApply, hup, hstop, hmode, hlatched]

/-- What a request that is applied at a boundary comes to. -/
def State.RequestDone (s : State) (w on n : Nat) (force : Bool) (t : State) : Prop :=
  (t.worker w).latched = none ∧ (t.worker w).on = (t.worker w).pwr ||| 1 ∧
   (force = false → (2 ≤ n ∧ n ≤ 6) ∨ (9 ≤ n ∧ n ≤ 11) → s.fit.domainMask.testBit n = true → on.testBit n = true →
     (t.worker w).powered n = true) ∧
   (n = 9 ∨ n = 10 ∨ (2 ≤ n ∧ n ≤ 6 ∧ s.clusterUsed w n = false) → s.fit.domainMask.testBit n = true → force = false →
     on.testBit n = false → (t.worker w).powered n = false) ∧
   ((s.worker w).powered 0 = true → (t.worker w).powered 0 = true)

theorem State.rwbApply_requestDone (hup : s.workerUp w = true) (hlatched : (s.worker w).latched = some (on, force))
    (hstart : (s.hub (sledOf w)).started = true) (hold : (s.worker w).latchAt.frame < (s.hub (sledOf w)).frame) :
    s.RequestDone w on n force (s.rwbApply (.sled (sledOf w))) := by
  obtain ⟨u, hframe, hdomains, ht⟩ := State.rwbApply_sled hup hstart hold
  have hfit : u.fit = s.fit := congrArg Prod.fst hframe
  have hreq : (u.worker w).request = (s.worker w).request := congrArg (fun p => p.2.2) hdomains
  have hlatchedU : (u.worker w).latched = some (on, force) := (congrArg Prod.fst hreq).trans hlatched
  have hpow (n : Nat) : ((s.rwbApply (.sled (sledOf w))).worker w).powered n = ((u.applyDomains w).worker w).powered n :=
    congrArg (fun p => p.1.testBit n) ht
  obtain ⟨hnone, hon⟩ := State.applyDomains_done hlatchedU
  have hpwr : ((s.rwbApply (.sled (sledOf w))).worker w).pwr = ((u.applyDomains w).worker w).pwr := congrArg Prod.fst ht
  refine ⟨(congrArg (fun p => p.2.2.1) ht).trans hnone, ((congrArg (fun p => p.2.1) ht).trans hon).trans (by rw [hpwr]),
    fun hforce hn hmask hwant => ?_, fun hn hmask hforce hwant => ?_, fun hzero => ?_⟩
  · rw [hpow, State.applyDomains_powered hlatchedU, State.applyEach_powered _ _ _ _ _ (by omega) (hfit ▸ hmask) (by omega), hwant]
    intro a _ _
    rw [hwant, hforce]
    exact State.domainRefused_on hn
  · rw [hpow, State.applyDomains_powered hlatchedU, State.applyEach_powered _ _ _ _ _ (by omega) (hfit ▸ hmask) (by omega), hwant]
    intro a hframeA hreqA
    rw [hwant, hforce]
    refine State.domainRefused_off (hn.imp_right (Or.imp_right fun ⟨hlo, hhi, hused⟩ => ⟨hlo, hhi, ?_⟩))
    rw [State.clusterUsed_congr (hframeA.trans hframe) (hreqA.trans hreq), hused]
  · have hzeroU : (u.worker w).powered 0 = (s.worker w).powered 0 := congrArg (fun p => p.1.testBit 0) hdomains
    rw [hpow, State.applyDomains_powered hlatchedU, State.applyEach_powered_zero, hzeroU, hzero]

/-- FORCE in Hold lifts what would be refused (R67). -/
theorem completes_powerDomainApply_held (hup : s.workerUp w = true) (hlatched : (s.worker w).latched = some (on, true))
    (hstop : (s.hub (sledOf w)).started = false) (hmode : s.mgr.mode = .hold) : Completes (.powerDomainApply w) s fun t =>
       (t.worker w).latched = none ∧ (t.worker w).on = (t.worker w).pwr ||| 1 ∧
       ((2 ≤ n ∧ n ≤ 6) ∨ (9 ≤ n ∧ n ≤ 11) → s.fit.domainMask.testBit n = true → (t.worker w).powered n = on.testBit n) := by
  obtain ⟨hnone, hon⟩ := State.applyDomains_done hlatched
  refine ⟨_, exec_powerDomainApply_held hup hstop hmode hlatched, hnone, hon, fun hn hmask => ?_⟩
  rw [State.applyDomains_powered hlatched, State.applyEach_powered _ _ _ _ _ (by omega) hmask (by omega)]
  intro a _ _
  rw [hmode]
  exact State.domainRefused_lift hn

/-! ## The manager frame's domain -/

theorem Cell.applyLatched_takes {c : Cell} {r : LoopRec} {now : Nat} (hr : c.latched = some r) (hprime : c.mode ≠ 2) (hclosed : c.mode ≠ 3)
    (hold : c.latchAt.frame < now) (htune : ∀ z, c.tune = some z → z.since ≤ c.latchAt.frame) :
    c.applyLatched now = { c with rc := r, latched := none } := by
  have hbegan : ¬(c.tune.any fun t => decide (c.latchAt.frame < t.since)) = true := by
    cases hz : c.tune with
    | none => exact Bool.false_ne_true
    | some z => simpa using htune z hz
  unfold Cell.applyLatched
  rw [hr]
  exact if_neg (not_or.mpr ⟨hprime, not_or.mpr ⟨hclosed, not_or.mpr ⟨Nat.not_le.mpr hold, hbegan⟩⟩⟩)

theorem Cell.applyLatched_waits {c : Cell} {now : Nat} (h : c.latched = none ∨ c.mode = 2 ∨ c.mode = 3 ∨ now ≤ c.latchAt.frame) :
    c.applyLatched now = c := by
  unfold Cell.applyLatched
  split
  next hr =>
    refine if_pos ?_
    rcases h with h | h | h | h
    · rw [hr] at h; cases h
    · exact .inl h
    · exact .inr (.inl h)
    · exact .inr (.inr (.inl h))
  next => rfl

theorem State.rwbApply_manager (hoff : s.mgr.mode ≠ .off) (hbring : s.mgr.mode ≠ .bringUp) :
    s.rwbApply .manager =
      { s with
        tiles := s.tiles.mapVals fun _ x => { x with cells := x.cells.mapVals fun _ c => c.applyLatched s.mgr.frame }
        modules := s.modules.mapVals fun _ x => { x with cells := x.cells.mapVals fun _ c => c.applyLatched s.mgr.frame } } := by
  refine if_neg ?_
  cases hm : s.mgr.mode <;> simp_all [MState.deaf]

theorem State.rwbApply_manager_tile (hoff : s.mgr.mode ≠ .off) (hbring : s.mgr.mode ≠ .bringUp) (m h : Nat) :
    ((s.rwbApply .manager).tile m).cells.get Cell.init h = ((s.tile m).cells.get Cell.init h).applyLatched s.mgr.frame := by
  rw [State.rwbApply_manager hoff hbring]
  exact (congrArg (fun x : Tile => x.cells.get Cell.init h) (Tab.get_mapVals _ _ _ _ rfl)).trans (Tab.get_mapVals _ _ _ _ rfl)

theorem State.rwbApply_manager_module (hoff : s.mgr.mode ≠ .off) (hbring : s.mgr.mode ≠ .bringUp) (m h : Nat) :
    ((s.rwbApply .manager).module m).cells.get Cell.init h = ((s.module m).cells.get Cell.init h).applyLatched s.mgr.frame := by
  rw [State.rwbApply_manager hoff hbring]
  exact (congrArg (fun x : Module => x.cells.get Cell.init h) (Tab.get_mapVals _ _ _ _ rfl)).trans (Tab.get_mapVals _ _ _ _ rfl)

/-- Settles O31: a worker's request is applied once, in a state that shows it unchanged, and each of its domains once. -/
theorem domainsAreApplied : Obligations.DomainsAreApplied := by
  unfold Obligations.DomainsAreApplied
  refine ⟨fun s w on n force hup hlatched => ⟨fun hstart hold i hi => ?_, fun hstop hmode hforce => ?_⟩, fun s hoff hbring => ?_⟩
  · have hdone : s.RequestDone w on n force (s.rwbApply (.sled (sledOf w))) := State.rwbApply_requestDone hup hlatched hstart hold
    rcases hi with rfl | rfl
    · exact ⟨_, exec_powerDomainApply_started hup hstart, hdone⟩
    · exact ⟨_, rfl, hdone⟩
  · subst hforce
    exact completes_powerDomainApply_held hup hlatched hstop hmode
  · refine ⟨s.rwbApply .manager, rfl, fun m h => ⟨fun r hr hprime hclosed hold htune => ?_, fun hwait => ?_⟩,
      fun m h => ⟨fun r hr hprime hclosed hold htune => ?_, fun hwait => ?_⟩, ?_⟩
    · exact (State.rwbApply_manager_tile hoff hbring m h).trans (Cell.applyLatched_takes hr hprime hclosed hold htune)
    · exact (State.rwbApply_manager_tile hoff hbring m h).trans (Cell.applyLatched_waits hwait)
    · exact (State.rwbApply_manager_module hoff hbring m h).trans (Cell.applyLatched_takes hr hprime hclosed hold htune)
    · exact (State.rwbApply_manager_module hoff hbring m h).trans (Cell.applyLatched_waits hwait)
    · rw [State.rwbApply_manager hoff hbring]

end Sys2Proof.Machine
end

section
/-! The obligation about the state that reset leaves. -/

namespace Sys2Proof.Machine

/-- The null program of R325, as Table 13.5 spells it: END at word 0, NOP elsewhere. -/
theorem scarabDecode_nullProgram (w : Nat) : scarabDecode (nullProgram.get 0 w) = some (if w = 0 then Instr.end_ else .scarabNop) := by
  rcases eq_or_ne w 0 with rfl | hw
  · decide
  · have hword : nullProgram.get 0 w = 0 := congrArg (Option.getD · 0) (if_neg hw.symm)
    rw [hword, if_neg hw]
    rfl

/-- Settles O2. That both Scarab banks hold the null program already at reset is the model's choice (log entry 10): R325 has it after a cold
restart. -/
theorem resetLeavesTheMachineOff : Obligations.ResetLeavesTheMachineOff := by
  unfold Obligations.ResetLeavesTheMachineOff
  have hbanks (b : Bool) (w : Nat) (hw : w < 16384) :
      scarabDecode ({ State.reset.scb with bank := b }.word w) = some (if w = 0 then Instr.end_ else .scarabNop) := by
    have hword : { State.reset.scb with bank := b }.word w = nullProgram.get 0 w := by
      rw [Scarab.word, Nat.mod_eq_of_lt hw]
      cases b <;> rfl
    rw [hword, scarabDecode_nullProgram]
  exact ⟨rfl, rfl, rfl, rfl, hbanks, fun _ _ => ⟨rfl, rfl⟩, rfl, rfl, rfl, rfl, rfl, rfl⟩

end Sys2Proof.Machine
end

section
/-! SUPPORT. Commands that are accepted, and what a completion, a broadcast and a change of state leave of the machine. -/

namespace Sys2Proof.Machine

variable {s : State} {c : Cmd} {k : Nat}

/-- A command record of its own opcode has its effect in a state that its rule accepts, where the rule's checks pass (R339, R340). -/
theorem State.decideCmd_eff {op : Nat} {ok : List MState} {ch : List (Bool × Nat)} (eff : State → State) (hc : IsCmd c op)
    (hdeaf : s.mgr.mode.deaf = false) (hok : ok.contains s.mgr.mode = true) (hch : ∀ x ∈ ch, x.1 = true) :
    s.decideCmd c op true true ok ch eff = eff s := by
  obtain ⟨hop, hfixed⟩ := hc
  exact s.decideCmd_accepted c op true true ok ch eff hdeaf
    ((s.refusal_eq_none c op true true ok ch).mpr ⟨hop, hfixed, rfl, rfl, stateRefusal_ok _ _ hok, (firstFail_eq_none ch).mpr hch⟩)

/-- A request that stands keeps its cause. -/
theorem orElse_some_getD {α : Type} (o : Option α) (a : α) : (o.orElse fun _ => some a) = some (o.getD a) := by cases o <;> rfl

@[simp] theorem State.interim_mgr (s : State) (c : Cmd) (r : List (Nat × Nat)) : (s.interim c r).mgr = s.mgr := s.send_mgr _

theorem State.forEach_updHub_onlyHubs (s : State) (l : List Nat) (f : Hub → Hub) :
    (s.forEach l fun st k => st.updHub k f) = { s with hubs := (s.forEach l fun st k => st.updHub k f).hubs } := by
  induction l generalizing s with
  | nil => rfl
  | cons k l ih => exact (ih (s.updHub k f)).trans rfl

theorem State.arrive_eq_updScb (s : State) (e n mc : Nat) : ∃ x, s.arrive e n mc = s.updScb fun _ => x :=
  ⟨(s.arrive e n mc).scb, rfl⟩

/-- A change of every fitted hub, as one of them shows it. -/
theorem State.forEach_sledList_hub {fit : Fit} (s : State) (f : Hub → Hub) (hk : k < fit.sleds) :
    (s.forEach fit.sledList fun st j => st.updHub j f).hub k = f (s.hub k) :=
  (s.forEach_hub f fit.sledList List.nodup_range k).trans (if_pos (List.mem_range.mpr hk))

theorem State.broadcast_onlyHubs (s : State) (m : Msg) : s.broadcast m = { s with hubs := (s.broadcast m).hubs } :=
  s.forEach_updHub_onlyHubs _ _

/-- A change of hub `k` alone. -/
theorem State.updHub_onlyHub (s : State) (k : Nat) (f : Hub → Hub) : OnlyHub k s (s.updHub k f) :=
  ⟨rfl, fun _ hj => State.updHub_hub_ne s f hj⟩

theorem completes_updHub {i : Instr} {f : Hub → Hub} {h : Hub} (hexec : exec i s = .next (s.updHub k f)) (hf : f (s.hub k) = h) :
    Completes i s fun t => OnlyHub k s t ∧ t.hub k = h :=
  ⟨_, hexec, s.updHub_onlyHub k f, (State.updHub_hub_self s k f).trans hf⟩

/-- A change to another state (R59, Table 3.2): of the manager's record, of the planner's and of the Scarab engine's. -/
theorem State.setMode_only (s : State) (m : MState) (cause : Nat) :
    let t := s.setMode m cause
    t = { s with mgr := t.mgr, plane := t.plane, scb := t.scb } := by
  unfold State.setMode
  dsimp only
  split
  · rfl
  · rw [State.arrive_onlyScb]
    generalize (State.arrive _ 15 1 0).scb = x
    rfl

theorem State.setMode_mgr {m : MState} (h : s.mgr.mode ≠ m) (cause : Nat) : (s.setMode m cause).mgr =
    { s.mgr with mode := m, age := 0, cause := cause, prev := if recordsPrev m then s.mgr.mode.code else s.mgr.prev } := by
  rw [State.setMode, if_neg h]; rfl

/-- A message that is the first of its kind is in the inbox, is found there first, and leaves what stands around it. -/
theorem FirstMsg.contains {m : Msg} {kind : Msg → Bool} {pre rest : List Msg} (h : FirstMsg s k kind pre m rest) :
    (s.hub k).inbox.contains m = true := by
  rw [h.1, List.contains_iff_mem]
  exact List.mem_append_right _ List.mem_cons_self

theorem FirstMsg.find?_eq {m : Msg} {kind : Msg → Bool} {pre rest : List Msg} (h : FirstMsg s k kind pre m rest) :
    (s.hub k).inbox.find? kind = some m := h.1 ▸ find?_first h.2.1 h.2.2

theorem FirstMsg.dropMsg_eq {m : Msg} {kind : Msg → Bool} {pre rest : List Msg} (h : FirstMsg s k kind pre m rest) :
    dropMsg kind (s.hub k).inbox = pre ++ rest := h.1 ▸ dropMsg_first h.2.1 h.2.2

end Sys2Proof.Machine
end

section
/-! SUPPORT. A sled's entry into Hold (R76, R304): what the verifies that are abandoned, the lock that is lost and the event that is raised leave
of its counts; and the samples of a hub's bus (R75). -/

namespace Sys2Proof.Machine

variable {s : State} {w k : Nat}

/-! ## Samples -/

theorem Hub.samples_request (h : Hub) (vs : List Nat) : (h.samples vs).sags = h.sags ∧ (h.samples vs).holdReqOn = h.holdReqOn := by
  induction vs generalizing h with
  | nil => exact ⟨rfl, rfl⟩
  | cons v vs ih => exact ih (h.sample v)

/-- Samples below 40 V lengthen the run of such samples, which stops at 100. -/
theorem Hub.lowRun_samples {vs : List Nat} (hlow : ∀ v ∈ vs, v < 4000) (h : Hub) : min 100 (h.lowRun + vs.length) ≤ (h.samples vs).lowRun := by
  induction vs generalizing h with
  | nil => exact min_le_right _ _
  | cons v vs ih =>
    obtain ⟨hv, hvs⟩ := List.forall_mem_cons.mp hlow
    have hone : (h.sample v).lowRun = min 100 (h.lowRun + 1) := if_pos hv
    have hrest : min 100 ((h.sample v).lowRun + vs.length) ≤ (h.samples (v :: vs)).lowRun := ih hvs _
    rw [List.length_cons]
    omega

/-- Samples of 42 V or more lengthen the run of such samples, which stops at 4,096. -/
theorem Hub.highRun_samples {vs : List Nat} (hhigh : ∀ v ∈ vs, 4200 ≤ v) (h : Hub) :
    min 4096 (h.highRun + vs.length) ≤ (h.samples vs).highRun := by
  induction vs generalizing h with
  | nil => exact min_le_right _ _
  | cons v vs ih =>
    obtain ⟨hv, hvs⟩ := List.forall_mem_cons.mp hhigh
    have hone : (h.sample v).highRun = min 4096 (h.highRun + 1) := if_pos hv
    have hrest : min 4096 ((h.sample v).highRun + vs.length) ≤ (h.samples (v :: vs)).highRun := ih hvs _
    rw [List.length_cons]
    omega

/-! ## What entering Hold leaves -/

/-- Of a hub, what a sled's entry into Hold is about. -/
def Hub.holdPart (h : Hub) : (Bool × Bool × Bool) × (Nat × Nat × Nat) :=
  ((h.held, h.started, h.selfRefresh), (h.stepAtHold, h.step, h.frame))

/-- What is fitted, the circuits, and of each hub what a sled's entry into Hold is about. -/
def State.holdView (s : State) : Fit × Tab Circ × (Nat → (Bool × Bool × Bool) × (Nat × Nat × Nat)) :=
  (s.fit, s.circs, fun k => (s.hub k).holdPart)

theorem State.updHub_holdView {f : Hub → Hub} (hf : ∀ h, (f h).holdPart = h.holdPart) (s : State) (k : Nat) :
    (s.updHub k f).holdView = s.holdView := by
  refine Prod.ext rfl (Prod.ext rfl (funext fun j => ?_))
  simp only [State.holdView, State.updHub_hub]
  split
  next h => rw [h, hf]
  next => rfl

theorem State.updHost_holdView (s : State) (f : HostSide → HostSide) : (s.updHost f).holdView = s.holdView := rfl

theorem State.arrive_holdView (s : State) (e n mc : Nat) : (s.arrive e n mc).holdView = s.holdView := rfl

theorem State.updCell_holdView (s : State) (e : Engine) (h : Nat) (f : Cell → Cell) : (s.updCell e h f).holdView = s.holdView := by
  cases e <;> rfl

theorem State.final_holdView (s : State) (c : Cmd) (status : Nat) (r : List (Nat × Nat)) : (s.final c status r).holdView = s.holdView := by
  refine Prod.ext (s.final_fit c status r) (Prod.ext (s.final_circs c status r) (funext fun k => ?_))
  obtain ⟨q, hq⟩ := s.final_hub c status r k
  exact (congrArg Hub.holdPart hq).trans rfl

theorem State.abandonPortVerifies_holdView (s : State) (k : Nat) : (s.abandonPortVerifies k).holdView = s.holdView := by
  refine foldl_keeps State.holdView _ (fun st w => foldl_keeps State.holdView _ (fun a v => ?_) _ st) _ s
  dsimp only
  split
  · exact (State.final_holdView _ _ _ _).trans (foldl_keeps State.holdView _ (fun b h => b.updCell_holdView _ _ _) _ _)
  · rfl

theorem State.loseLock_holdView (s : State) (d : Nat) : (s.loseLock d).holdView = s.holdView := by rw [State.loseLock_onlyRxs]; rfl

theorem State.raise_holdView (s : State) (code : Nat) (fields : List (Nat × Nat × Nat)) : (s.raise code fields).holdView = s.holdView := by
  unfold State.raise
  dsimp only
  split
  · rw [State.updHost_holdView]
    exact foldl_keeps State.holdView _ (fun st k => State.updHub_holdView (by exact fun _ => rfl) st k) s.fit.sledList s
  · rw [State.arrive_holdView, State.updHost_holdView]
    exact foldl_keeps State.holdView _ (fun st k => State.updHub_holdView (by exact fun _ => rfl) st k) s.fit.sledList s

theorem mem_insertEvent (e : EventRec) (l : List EventRec) : e ∈ insertEvent e l := by
  induction l with
  | nil => exact List.mem_singleton_self e
  | cons x l ih =>
    unfold insertEvent
    split
    · exact List.mem_cons_of_mem x ih
    · exact List.mem_cons_self

/-- An event that is raised is recorded for every fitted hub (R337). -/
theorem State.raise_records (s : State) (code : Nat) (fields : List (Nat × Nat × Nat)) (hk : k < s.fit.sleds) :
    ∃ v ∈ ((s.raise code fields).hub k).evq, v.code = code := by
  have hput (e : EventRec) :
      e ∈ ((s.forEach s.fit.sledList fun st k => st.updHub k fun h => { h with evq := insertEvent e h.evq }).hub k).evq := by
    rw [s.forEach_sledList_hub _ hk]
    exact mem_insertEvent e _
  unfold State.raise
  dsimp only
  split
  · exact ⟨_, hput _, rfl⟩
  · exact ⟨_, hput _, rfl⟩

end Sys2Proof.Machine
end

section
/-! The obligation about the entry into Hold and the way out of it on a sled. -/

namespace Sys2Proof.Machine

variable {s : State} {c : Cmd} {k cause : Nat} {bus : List Nat}

theorem completes_hold_requests (hc : IsCmd c 0x12)
    (hmode : s.mgr.mode = .quiescent ∨ s.mgr.mode = .loaded ∨ s.mgr.mode = .running ∨ s.mgr.mode = .passage) : Completes (.hold c) s fun t =>
      t = { s with mgr := { s.mgr with holdReq := some (s.mgr.holdReq.getD 3), holdCmds := s.mgr.holdCmds ++ [c] } } := by
  have hstate : s.mgr.mode.deaf = false ∧ [MState.quiescent, .loaded, .running, .passage, .hold].contains s.mgr.mode = true ∧
      s.mgr.mode ≠ .hold := by
    rcases hmode with h | h | h | h <;> rw [h] <;> decide
  obtain ⟨hdeaf, hok, hne⟩ := hstate
  refine ⟨s.holdCmd c, rfl, ?_⟩
  rw [State.holdCmd, State.decideCmd_eff _ hc hdeaf hok (List.forall_mem_nil _), if_neg hne]
  simp only [State.updMgr, orElse_some_getD]

theorem completes_hold_again (hc : IsCmd c 0x12) (hmode : s.mgr.mode = .hold) : Completes (.hold c) s fun t => t = s.final c 0 := by
  refine ⟨s.holdCmd c, rfl, ?_⟩
  rw [State.holdCmd, State.decideCmd_eff _ hc (by rw [hmode]; rfl) (by rw [hmode]; rfl) (List.forall_mem_nil _), if_pos hmode]
  rfl

/-- A hub's sag request is raised, and counts (R75). -/
def Hub.raiseSag (h : Hub) : Hub := { h with holdReqOn := true, sags := satInc 0xFF h.sags }

theorem exec_sagRequest (hk : k < s.fit.sleds) (hmode : s.mgr.mode ≠ .off) (bus : List Nat) : exec (.sagRequest k bus) s =
    .next (if 100 ≤ ((s.hub k).samples bus).lowRun ∧ (!(s.hub k).holdReqOn) = true then
      ((s.updHub k fun h => h.samples bus).updHub k Hub.raiseSag).arrive 0 1 0 else s.updHub k fun h => h.samples bus) := by
  show execSagRequest k bus s = _
  unfold execSagRequest
  dsimp only
  rw [if_pos ⟨hk, hmode⟩, State.updHub_hub_self]
  exact (apply_ite Host.Outcome.next _ _ _).symm

theorem exec_sagRequestEnd (hk : k < s.fit.sleds) (hmode : s.mgr.mode ≠ .off) (bus : List Nat) : exec (.sagRequestEnd k bus) s =
    .next (if 4096 ≤ ((s.hub k).samples bus).highRun ∧ ((s.hub k).samples bus).holdReqOn = true then
      (s.updHub k fun h => h.samples bus).updHub k Hub.endSag else s.updHub k fun h => h.samples bus) := by
  show execSagRequestEnd k bus s = _
  unfold execSagRequestEnd
  dsimp only
  rw [if_pos ⟨hk, hmode⟩, State.updHub_hub_self]
  exact (apply_ite Host.Outcome.next _ _ _).symm

/-- Two changes of hub `k` in turn. -/
theorem State.updHub_updHub_hub (s : State) (k : Nat) (f g : Hub → Hub) :
    ((s.updHub k f).updHub k g).hub k = g (f (s.hub k)) ∧ OnlyHub k s ((s.updHub k f).updHub k g) := by
  refine ⟨?_, rfl, fun j hj => (State.updHub_hub_ne _ _ hj).trans (State.updHub_hub_ne _ _ hj)⟩
  rw [State.updHub_hub_self, State.updHub_hub_self]

theorem completes_sagRequest (hk : k < s.fit.sleds) (hmode : s.mgr.mode ≠ .off) (hreq : (s.hub k).holdReqOn = false)
    (hlow : 100 ≤ ((s.hub k).samples bus).lowRun) : Completes (.sagRequest k bus) s fun t =>
      t.hub k = { (s.hub k).samples bus with holdReqOn := true, sags := min 255 ((s.hub k).sags + 1) } ∧ OnlyHub k s { t with scb := s.scb } ∧
        t = { s with hubs := t.hubs, scb := t.scb } := by
  obtain ⟨hhub, honly⟩ := s.updHub_updHub_hub k (fun h => h.samples bus) Hub.raiseSag
  obtain ⟨x, hx⟩ := ((s.updHub k fun h => h.samples bus).updHub k Hub.raiseSag).arrive_eq_updScb 0 1 0
  have hexec := exec_sagRequest hk hmode bus
  rw [if_pos ⟨hlow, by rw [hreq]; rfl⟩, hx] at hexec
  refine ⟨_, hexec, hhub.trans ?_, honly, rfl⟩
  rw [Hub.raiseSag, ((s.hub k).samples_request bus).1]
  rfl

theorem completes_sagRequest_counts (hk : k < s.fit.sleds) (hmode : s.mgr.mode ≠ .off) (hlow : ((s.hub k).samples bus).lowRun < 100) :
    Completes (.sagRequest k bus) s fun t => t.hub k = (s.hub k).samples bus ∧ OnlyHub k s t := by
  have hexec := exec_sagRequest hk hmode bus
  rw [if_neg fun h => Nat.not_le.mpr hlow h.1] at hexec
  exact ⟨_, hexec, State.updHub_hub_self _ _ _, s.updHub_onlyHub k _⟩

theorem completes_sagRequestEnd (hk : k < s.fit.sleds) (hmode : s.mgr.mode ≠ .off) (hreq : (s.hub k).holdReqOn = true)
    (hhigh : 4096 ≤ ((s.hub k).samples bus).highRun) : Completes (.sagRequestEnd k bus) s fun t =>
      t.hub k = { (s.hub k).samples bus with holdReqOn := false, lowRun := 0 } ∧ OnlyHub k s t := by
  have hexec := exec_sagRequestEnd hk hmode bus
  rw [if_pos ⟨hhigh, ((s.hub k).samples_request bus).2.trans hreq⟩] at hexec
  exact ⟨_, hexec, s.updHub_updHub_hub k (fun h => h.samples bus) Hub.endSag⟩

theorem completes_sagRequestEnd_counts (hk : k < s.fit.sleds) (hmode : s.mgr.mode ≠ .off) (hhigh : ((s.hub k).samples bus).highRun < 4096) :
    Completes (.sagRequestEnd k bus) s fun t => t.hub k = (s.hub k).samples bus ∧ OnlyHub k s t := by
  have hexec := exec_sagRequestEnd hk hmode bus
  rw [if_neg fun h => Nat.not_le.mpr hhigh h.1] at hexec
  exact ⟨_, hexec, State.updHub_hub_self _ _ _, s.updHub_onlyHub k _⟩

theorem completes_holdRequest (hcause : s.holdCause cause = true) (hmode : s.mgr.mode.holdable = true) (hsent : s.mgr.holdSent = false) :
    Completes (.holdRequest cause) s fun t =>
      t.mgr = { s.mgr with holdReq := some (s.mgr.holdReq.getD cause), holdSent := true } ∧ Reached t .hold ∧
        t = { s with mgr := t.mgr, hubs := t.hubs } := by
  have hexec : exec (.holdRequest cause) s = .next ((s.updMgr fun m =>
      { m with holdReq := m.holdReq.orElse fun _ => some cause, holdSent := true }).broadcast .hold) := by
    show execHoldRequest cause s = _
    rw [execHoldRequest, if_pos hcause, if_pos ⟨hmode, by rw [hsent]; rfl⟩]
  refine ⟨_, hexec, ?_, State.broadcast_reaches _ _, ?_⟩
  · rw [State.broadcast_mgr, State.updMgr_mgr, orElse_some_getD]
  · rw [State.broadcast_onlyHubs]; rfl

theorem completes_holdBroadcast {pre rest : List Msg} (hmsg : FirstMsg s k (fun m => m == .hold) pre .hold rest) :
    Completes (.holdBroadcast k) s fun t => OnlyHub k s t ∧ t.hub k = { s.hub k with inbox := pre ++ rest, holdPend := !(s.hub k).held } := by
  refine completes_updHub (f := fun h => { h with inbox := dropMsg (fun m => m == .hold) h.inbox, holdPend := !h.held }) ?_ ?_
  · exact if_pos hmsg.contains
  · rw [hmsg.dropMsg_eq]

/-- The hub of a sled that enters Hold (R76). -/
def Hub.enterHold (h : Hub) : Hub :=
  { h with
    held := true, started := false, isSlip := false, stepGroups := [], stepAtHold := h.step, selfRefresh := true, holdPend := false
    resumeLeft := none }

theorem completes_sledHoldEntry (hk : k < s.fit.sleds) (hheld : (s.hub k).held = false)
    (hreq : (s.hub k).holdPend = true ∨ (s.hub k).holdReqOn = true ∨ (s.hub k).lossHold = true)
    (hmode : s.mgr.mode.holdable = true ∨ s.mgr.mode = .hold) : Completes (.sledHoldEntry k) s fun t =>
      (t.hub k).held = true ∧ (t.hub k).started = false ∧ (t.hub k).stepAtHold = (s.hub k).step ∧ (t.hub k).step = (s.hub k).step ∧
      (t.hub k).frame = (s.hub k).frame ∧ (t.hub k).selfRefresh = true ∧
      (∀ i, i < s.fit.sleds → ∃ v ∈ (t.hub i).evq, v.code = 0x0A) ∧ t.mem = s.mem ∧ t.circs = s.circs := by
  have hexec : ∃ (lost : Bool) (fields : List (Nat × Nat × Nat)), exec (.sledHoldEntry k) s =
      .next ((if lost then ((s.updHub k Hub.enterHold).abandonPortVerifies k).loseLock k
        else (s.updHub k Hub.enterHold).abandonPortVerifies k).raise 0x000A fields) := by
    refine ⟨decide ((if s.mgr.mode == .hold then s.mgr.cause else s.mgr.holdReq.getD (if (s.hub k).holdReqOn then 1 else 2)) = 2), ?fields, ?heq⟩
    case heq =>
      have hentry : execSledHoldEntry k s = _ :=
        if_pos ⟨hk, by rw [hheld]; rfl, by simpa [or_assoc] using hreq, by simpa using hmode⟩
      refine hentry.trans ?_
      simp only [decide_eq_true_eq]
      rfl
  obtain ⟨lost, fields, hexec⟩ := hexec
  refine ⟨_, hexec, ?_⟩
  generalize hu : (if lost then ((s.updHub k Hub.enterHold).abandonPortVerifies k).loseLock k
    else (s.updHub k Hub.enterHold).abandonPortVerifies k) = u
  have hview : u.holdView = (s.updHub k Hub.enterHold).holdView := by
    rw [← hu]
    split
    · rw [State.loseLock_holdView, State.abandonPortVerifies_holdView]
    · exact State.abandonPortVerifies_holdView _ _
  have hmem : u.mem = s.mem := by
    rw [← hu]
    split <;> simp
  have hfit : u.fit = s.fit := congrArg Prod.fst hview
  have hafter := (u.raise_holdView 0x000A fields).trans hview
  have hhub : ((u.raise 0x000A fields).hub k).holdPart = (s.hub k).enterHold.holdPart := by
    refine (congrFun (congrArg (fun p => p.2.2) hafter) k).trans ?_
    exact congrArg Hub.holdPart (State.updHub_hub_self s k _)
  simp only [Hub.holdPart, Prod.mk.injEq] at hhub
  obtain ⟨⟨hheld', hstarted, hrefresh⟩, hstepAt, hstep, hframe⟩ := hhub
  refine ⟨hheld', hstarted, hstepAt, hstep, hframe, hrefresh, fun i hi => u.raise_records 0x000A fields (hfit ▸ hi), ?_,
    congrArg (fun p => p.2.1) hafter⟩
  rw [State.raise_mem, hmem]

theorem completes_resumeMessage {d : Nat} {pre rest : List Msg} (hmsg : FirstMsg s k Msg.isResume pre (.resume d) rest) :
    Completes (.resumeMessage k) s fun t => OnlyHub k s t ∧ t.hub k =
      { s.hub k with inbox := pre ++ rest, delay := d, resumeLeft := if (s.hub k).held then some (32 + d) else none } := by
  refine completes_updHub (f := fun h =>
    { h with inbox := dropMsg Msg.isResume h.inbox, delay := d, resumeLeft := if h.held then some (32 + d) else none }) ?_ ?_
  · show execResumeMessage k s = _
    unfold execResumeMessage
    split
    next m hfind =>
      cases hmsg.find?_eq.symm.trans hfind
      rfl
    next hno => exact absurd hmsg.find?_eq (hno d)
  · rw [hmsg.dropMsg_eq]

theorem completes_sledResumeStart (hheld : (s.hub k).held = true) (hleft : (s.hub k).resumeLeft = some 0) :
    Completes (.sledResumeStart k) s fun t => OnlyHub k s t ∧ t.hub k =
      { s.hub k with held := false, selfRefresh := (s.hub k).dropped, resumeLeft := none } :=
  completes_updHub (f := fun h => { h with held := false, selfRefresh := h.dropped, resumeLeft := none }) (if_pos ⟨hheld, hleft⟩) rfl

/-- Settles O26: the commands and messages by what each does to its hub or to the manager; a sled's entry into Hold by what the operations
after it leave of the sled's counts. -/
theorem holdsAreEntered : Obligations.HoldsAreEntered := by
  unfold Obligations.HoldsAreEntered
  refine ⟨fun s c k cause bus pre rest => ?_, fun s k d pre rest =>
    ⟨completes_sledHoldEntry, completes_resumeMessage, completes_sledResumeStart⟩⟩
  refine ⟨completes_hold_requests, completes_hold_again, fun hk hmode hreq => ⟨completes_sagRequest hk hmode hreq, fun hlen hlow => ?_,
    completes_sagRequest_counts hk hmode⟩, fun hk hmode hreq => ⟨completes_sagRequestEnd hk hmode hreq, fun hlen hhigh => ?_,
    completes_sagRequestEnd_counts hk hmode⟩, completes_holdRequest, completes_holdBroadcast⟩
  · have hrun := (s.hub k).lowRun_samples hlow
    omega
  · have hrun := (s.hub k).highRun_samples hhigh
    omega

end Sys2Proof.Machine
end

section
/-! SUPPORT. What the stages of bring-up, and the faults they declare, leave of the manager's record (R63, R295, R362). -/

namespace Sys2Proof.Machine

variable {s : State}

@[simp] theorem State.newKem_mgr (s : State) : s.newKem.mgr = s.mgr := rfl

@[simp] theorem State.planInput_mgr (s : State) : s.planInput.mgr = s.mgr := rfl

@[simp] theorem State.tearLink_mgr (s : State) (w j cause : Nat) : (s.tearLink w j cause).mgr = s.mgr := rfl

@[simp] theorem State.forEach_updWorker_mgr (s : State) (l : List Nat) (f : State → Nat → Worker → Worker) :
    (s.forEach l fun st w => st.updWorker w (f st w)).mgr = s.mgr := State.forEach_mgr s l _ fun _ _ => rfl

@[simp] theorem State.forEach_updGroup_mgr (s : State) (l : List Nat) (f : State → Nat → Group → Group) :
    (s.forEach l fun st g => st.updGroup g (f st g)).mgr = s.mgr := State.forEach_mgr s l _ fun _ _ => rfl

@[simp] theorem State.forEach_tearLink_mgr (s : State) (l : List Nat) (w cause : Nat) :
    (s.forEach l fun st j => st.tearLink w j cause).mgr = s.mgr := State.forEach_mgr s l _ fun _ _ => rfl

@[simp] theorem State.trainLinks_mgr (s : State) (w : Nat) : (s.trainLinks w).mgr = s.mgr := by
  refine State.forEach_mgr s _ _ fun st j => ?_
  dsimp only
  split <;> rfl

@[simp] theorem State.parkRoute_mgr (s : State) (c : Nat) : (s.parkRoute c).mgr = s.mgr := by
  unfold State.parkRoute
  split
  · rfl
  · exact foldl_mgr _ (fun st h => foldl_mgr _ (fun a e => a.updTile_mgr _ _) _ st) _ s

@[simp] theorem State.tearCircuit_mgr (s : State) (c cause : Nat) : (s.tearCircuit c cause).mgr = s.mgr := by
  unfold State.tearCircuit
  split
  · simp
  · rfl

@[simp] theorem State.tearCircuits_mgr (s : State) (cs : List Nat) (cause : Nat) : (s.tearCircuits cs cause).mgr = s.mgr :=
  State.forEach_mgr s cs _ fun st c => st.tearCircuit_mgr c cause

@[simp] theorem State.startSwitchIn_mgr (s : State) (w : Nat) (circs : List Nat) : (s.startSwitchIn w circs).mgr = s.mgr := by
  unfold State.startSwitchIn
  dsimp only
  split <;> rfl

/-- A worker that is declared failed is the manager's affair at its next boundary only. -/
@[simp] theorem State.declareFailed_mgr (s : State) (w : Nat) : (s.declareFailed w).mgr = s.mgr := by
  unfold State.declareFailed
  dsimp only
  split
  · split <;> simp
  · rfl

@[simp] theorem State.badCalibration_mgr (s : State) (b : Engine × Nat) : (s.badCalibration b).mgr = s.mgr := by
  unfold State.badCalibration
  split <;> rfl

@[simp] theorem State.failMissing_mgr (s : State) : s.failMissing.mgr = s.mgr := State.forEach_mgr s _ _ fun _ _ => rfl

@[simp] theorem State.endStageA_mgr (s : State) (rep : StageReport) : (s.endStageA rep).mgr = { s.mgr with capFixed := true } := by
  simp [State.endStageA]

@[simp] theorem State.afterStageC_mgr (s : State) : s.afterStageC.mgr = s.mgr := by
  unfold State.afterStageC
  split <;> rfl

/-- What the end of a stage does, before it is noted (R63). -/
def State.stageWork (s : State) (rep : StageReport) : Stage → State
  | .a => s.endStageA rep
  | .b => (s.forEach s.answering fun st w => st.switchOn w 0x802).forEach s.answering State.trainLinks
  | .c1 => s.forEach s.fit.modules fun st k => st.updModule k fun m => { m with off := false }
  | .c2 => s
  | .c3 => (s.forEach (s.answering.filter fun w => !rep.failed.contains w) fun st w => st.switchOn w s.fit.domainMask).forEach rep.failed
      State.declareFailed
  | .d => s.updMgr fun m => { m with parkDue := s.fit.lacewing }

/-- The records that cannot be used are dealt with, and the stage is noted. -/
def State.stageEnd (s : State) (rep : StageReport) (x : Stage) : State :=
  (rep.badCal.foldl State.badCalibration (s.stageWork rep x)).updMgr fun m => { m with stagesDone := m.stagesDone ++ [x] }

theorem exec_bringUpStageEnd {x : Stage} (hmode : s.mgr.mode = .bringUp) (hready : s.stageReady x = true) (rep : StageReport) :
    exec (.bringUpStageEnd x rep) s = .next (if x = .d then s.stageEnd rep x else (s.stageEnd rep x).afterStageC) := by
  have h : execBringUpStageEnd x rep s = _ := if_pos ⟨hmode, hready⟩
  refine h.trans ?_
  cases x <;> rfl

/-- Of the manager's record the work of a stage fixes the capability registers (stage A) and asks for the plane to be parked (stage D). -/
theorem State.stageWork_mgr (s : State) (rep : StageReport) (x : Stage) : (s.stageWork rep x).mgr =
    { s.mgr with
      capFixed := if x = .a then true else s.mgr.capFixed
      parkDue := if x = .d then s.fit.lacewing else s.mgr.parkDue } := by
  cases x with
  | a => exact s.endStageA_mgr rep
  | b => exact (State.forEach_mgr _ _ _ State.trainLinks_mgr).trans (State.forEach_mgr _ _ _ fun _ _ => rfl)
  | c1 => exact State.forEach_mgr _ _ _ fun _ _ => rfl
  | c2 => rfl
  | c3 => exact (State.forEach_mgr _ _ _ State.declareFailed_mgr).trans (State.forEach_mgr _ _ _ fun _ _ => rfl)
  | d => rfl

theorem State.stageWork_mem (s : State) (rep : StageReport) (x : Stage) : (s.stageWork rep x).mem = s.mem := by
  cases x <;> simp [State.stageWork]

/-- After the end of a stage the manager's record is as its work has left it, with the stage noted. -/
theorem State.stageEnd_mgr (s : State) (rep : StageReport) (x : Stage) :
    (s.stageEnd rep x).mgr = { (s.stageWork rep x).mgr with stagesDone := s.mgr.stagesDone ++ [x] } := by
  have hbad : (rep.badCal.foldl State.badCalibration (s.stageWork rep x)).mgr = (s.stageWork rep x).mgr :=
    foldl_mgr _ State.badCalibration_mgr _ _
  have hdone : (s.stageWork rep x).mgr.stagesDone = s.mgr.stagesDone := by rw [State.stageWork_mgr]
  rw [State.stageEnd, State.updMgr_mgr, hbad, hdone]

end Sys2Proof.Machine
end

section
/-! The obligation about bring-up, NOP and Service. -/

namespace Sys2Proof.Machine

variable {s : State} {c : Cmd} {k : Nat}

theorem completes_busPowerUp {v : Nat} (hmode : s.mgr.mode = .off) (hv : 4200 ≤ v) : Completes (.busPowerUp v) s fun t =>
    t.mgr.mode = .bringUp ∧ (∀ j, j < s.fit.sleds → (t.hub j).bus = v) ∧ t = { s with mgr := t.mgr, hubs := t.hubs } := by
  refine ⟨_, if_pos ⟨hmode, hv⟩, rfl, fun j hj => ?_, ?_⟩
  · rw [State.updMgr_hub, State.forEach_sledList_hub _ _ hj]
  · rw [State.forEach_updHub_onlyHubs]
    rfl

theorem completes_bringUpStageEnd {x : Stage} {rep : StageReport} (hmode : s.mgr.mode = .bringUp) (hready : s.stageReady x = true) :
    Completes (.bringUpStageEnd x rep) s fun t =>
      t.mgr.mode = .bringUp ∧ t.mgr.stagesDone = s.mgr.stagesDone ++ [x] ∧ (x = .a → t.mgr.capFixed = true) ∧ t.mem = s.mem := by
  have hend : (if x = .d then s.stageEnd rep x else (s.stageEnd rep x).afterStageC).mgr = (s.stageEnd rep x).mgr := by
    split
    · rfl
    · exact State.afterStageC_mgr _
  have hmgr := hend.trans (s.stageEnd_mgr rep x)
  rw [State.stageWork_mgr] at hmgr
  refine ⟨_, exec_bringUpStageEnd hmode hready rep, (congrArg Mgr.mode hmgr).trans hmode, congrArg Mgr.stagesDone hmgr, fun ha => ?_, ?_⟩
  · exact (congrArg Mgr.capFixed hmgr).trans (if_pos ha)
  · split <;> simp [State.stageEnd, State.stageWork_mem]

theorem completes_bringUpTimeout (hmode : s.mgr.mode = .bringUp) (hopen : ∃ y ∈ s.fit.stages, y ∉ s.mgr.stagesDone) :
    Completes .bringUpTimeout s fun t => t = { s with mgr := { s.mgr with limpReq := some (s.mgr.limpReq.getD 7) } } := by
  have hall : (s.fit.stages.all s.mgr.stagesDone.contains) = false := by simpa using hopen
  refine ⟨_, if_pos ⟨hmode, hall⟩, ?_⟩
  simp only [State.updMgr, orElse_some_getD]

theorem completes_pcieConfigRequest (hk : k < s.fit.sleds) (hmode : s.mgr.mode ≠ .off) : Completes (.pcieConfigRequest k) s fun t =>
    t = s.emit (.pcie k (if s.mgr.mode = .bringUp then 1 else 0)) := by
  refine ⟨_, ?_, rfl⟩
  show execPcieConfigRequest k s = _
  unfold execPcieConfigRequest
  rw [if_neg (Nat.not_le.mpr hk)]
  split
  next hoff => exact absurd hoff hmode
  next hbring => rw [if_pos hbring]
  next hbring => rw [if_neg hbring]

theorem MState.everyState_of_heard {m : MState} (hoff : m ≠ .off) (hbring : m ≠ .bringUp) : m.deaf = false ∧ everyState.contains m = true := by
  cases m with
  | off => exact absurd rfl hoff
  | bringUp => exact absurd rfl hbring
  | _ => decide

theorem completes_nop (hc : IsCmd c 0) (hoff : s.mgr.mode ≠ .off) (hbring : s.mgr.mode ≠ .bringUp) :
    Completes (.nop c) s fun t => t = s.final c 0 := by
  obtain ⟨hdeaf, hok⟩ := MState.everyState_of_heard hoff hbring
  exact ⟨s.nopCmd c, rfl, State.decideCmd_eff _ hc hdeaf hok (List.forall_mem_nil _)⟩

theorem completes_enterService (hfree : s.mgr.serviceCmd = none) (hc : IsCmd c 0x17) (hmode : s.mgr.mode = .quiescent) :
    Completes (.enterService c) s fun t => t = { s with mgr := { s.mgr with serviceCmd := some c } } :=
  ⟨s.enterServiceCmd c, rfl, State.decideCmd_eff _ hc (by rw [hmode]; rfl) (by rw [hmode]; rfl) (by simp [hfree])⟩

theorem completes_leaveService (hfree : s.mgr.serviceCmd = none) (hc : IsCmd c 0x18) (hmode : s.mgr.mode = .service) :
    Completes (.leaveService c) s fun t => t = { s with mgr := { s.mgr with serviceCmd := some c, parkDue := s.fit.lacewing } } :=
  ⟨s.leaveServiceCmd c, rfl, State.decideCmd_eff _ hc (by rw [hmode]; rfl) (by rw [hmode]; rfl) (by simp [hfree])⟩

/-- Settles O24: a stage that ends by what its work leaves of the manager's record; the commands by their effect where nothing refuses them. -/
theorem bringUpAndServiceRun : Obligations.BringUpAndServiceRun := by
  unfold Obligations.BringUpAndServiceRun
  exact ⟨fun s v k x rep => ⟨completes_busPowerUp, completes_bringUpStageEnd, completes_bringUpTimeout, completes_pcieConfigRequest⟩,
    fun s c => completes_nop, fun s c hfree => ⟨completes_enterService hfree, completes_leaveService hfree⟩⟩

end Sys2Proof.Machine
end

section
/-! SUPPORT. What completions, changes of state and broadcasts leave; the entries of a sparse table; and what a pass over the units of a list
leaves of a unit outside it. -/

namespace Sys2Proof

/-- An entry that a table lists stands among its cells. -/
theorem Tab.mem_of_get?_eq_some {α : Type} {t : Tab α} {k : Nat} {v : α} (h : t.get? k = some v) : (k, v) ∈ t.cells := by
  unfold Tab.get? at h
  generalize t.cells = cells at h ⊢
  induction cells with
  | nil => cases h
  | cons c cells ih =>
    obtain ⟨i, x⟩ := c
    rcases eq_or_ne i k with rfl | hne
    · rw [Tab.find, if_pos rfl] at h
      cases h
      exact List.mem_cons_self
    · rw [Tab.find, if_neg hne] at h
      exact List.mem_cons_of_mem _ (ih h)

end Sys2Proof

namespace Sys2Proof.Machine

variable {s : State} {w k : Nat}

theorem State.send_only (s : State) (c : Completion) : ∃ hubs host scb, s.send c = { s with hubs := hubs, host := host, scb := scb } := by
  unfold State.send
  split
  · exact ⟨_, s.host, s.scb, rfl⟩
  · exact ⟨s.hubs, _, s.scb, rfl⟩
  · split
    · exact ⟨s.hubs, s.host, s.scb, rfl⟩
    · obtain ⟨x, hx⟩ := State.arrive_eq_updScb (s.updScb fun x => { x with slots := x.slots.set _ _ }) 14 1 0
      exact ⟨s.hubs, s.host, x, hx⟩

theorem State.setMode_workers (s : State) (m : MState) (cause : Nat) : (s.setMode m cause).workers = s.workers := by
  rw [State.setMode_only]

theorem State.broadcast_workers (s : State) (m : Msg) : (s.broadcast m).workers = s.workers := by rw [State.broadcast_onlyHubs]

theorem State.broadcast_circs (s : State) (m : Msg) : (s.broadcast m).circs = s.circs := by rw [State.broadcast_onlyHubs]

/-! ## Commands that end together -/

theorem State.finalAll_cons (s : State) (c : Cmd) (cs : List Cmd) (status : Nat) (r : List (Nat × Nat)) :
    s.finalAll (c :: cs) status r = (s.final c status r).finalAll cs status r := rfl

theorem State.finalAll_circs (s : State) (cs : List Cmd) (status : Nat) (r : List (Nat × Nat)) : (s.finalAll cs status r).circs = s.circs :=
  foldl_keeps State.circs _ (fun st c => st.final_circs c status r) cs s

theorem State.finalAll_hub (s : State) (cs : List Cmd) (status : Nat) (r : List (Nat × Nat)) (k : Nat) :
    ∃ q, (s.finalAll cs status r).hub k = { s.hub k with cpls := q } := by
  induction cs generalizing s with
  | nil => exact ⟨(s.hub k).cpls, rfl⟩
  | cons c cs ih =>
    obtain ⟨q, hq⟩ := ih (s.final c status r)
    obtain ⟨p, hp⟩ := s.final_hub c status r k
    exact ⟨q, by rw [State.finalAll_cons, hq, hp]⟩

/-- Completions that a hub carries stay there when others are sent. -/
theorem State.final_carries {y : Completion} (c : Cmd) (status : Nat) (r : List (Nat × Nat)) (h : y ∈ (s.hub k).cpls) :
    y ∈ ((s.final c status r).hub k).cpls := by
  unfold State.final State.send
  dsimp only
  split
  · rw [State.updHub_hub]
    split
    next hk => exact List.mem_append_left _ (hk ▸ h)
    next => exact h
  · exact h
  · split
    · exact h
    · rw [State.arrive_hub]; exact h

theorem State.finalAll_carries {y : Completion} (cs : List Cmd) (status : Nat) (r : List (Nat × Nat)) (h : y ∈ (s.hub k).cpls) :
    y ∈ ((s.finalAll cs status r).hub k).cpls := by
  induction cs generalizing s with
  | nil => exact h
  | cons c cs ih => exact ih (State.final_carries c status r h)

/-- A command that ends with a status: its hub carries its final completion. -/
def Ended (s : State) (c : Cmd) (status : Nat) : Prop :=
  ∀ k q e m, c.src = .host k q e m → ∃ y ∈ (s.hub k).cpls, y.cmd = c ∧ y.interim = false ∧ y.status = status

theorem State.final_ended (s : State) (c : Cmd) (status : Nat) (r : List (Nat × Nat)) : Ended (s.final c status r) c status := by
  intro k q e m hsrc
  refine ⟨{ cmd := c, interim := false, status := status, frame := s.mgr.frame, result := r }, ?_, rfl, rfl, rfl⟩
  rw [s.final_host c status r k q e m hsrc]
  exact List.mem_append_right _ (List.mem_singleton_self _)

theorem State.finalAll_ended {cs : List Cmd} {c : Cmd} (hc : c ∈ cs) (s : State) (status : Nat) (r : List (Nat × Nat)) :
    Ended (s.finalAll cs status r) c status := by
  induction cs generalizing s with
  | nil => cases hc
  | cons d cs ih =>
    rcases List.mem_cons.mp hc with rfl | hmem
    · intro k q e m hsrc
      obtain ⟨y, hy, hcmd⟩ := s.final_ended c status r k q e m hsrc
      exact ⟨y, State.finalAll_carries cs status r hy, hcmd⟩
    · exact ih hmem _

/-! ## Passes over the units of a list -/

/-- Where `f` changes a part for its own unit alone, a unit outside the list keeps it. -/
theorem State.forEach_of_notMem {β : Type} {l : List Nat} {part : State → Nat → β} {f : State → Nat → State}
    (hne : ∀ s v w, w ≠ v → part (f s v) w = part s w) (hw : w ∉ l) (s : State) : part (s.forEach l f) w = part s w := by
  induction l generalizing s with
  | nil => rfl
  | cons v l ih =>
    obtain ⟨hv, hl⟩ := List.ne_and_not_mem_of_not_mem_cons hw
    exact (ih hl _).trans (hne s v w hv)

theorem Fit.workers_nodup (f : Fit) : f.workers.Nodup := by
  have hsled {k w : Nat} (hw : w ∈ f.sledWorkers k) : sledOf w = k := by
    obtain ⟨site, hsite, rfl⟩ := List.mem_map.mp hw
    exact sledOf_workerCode k (Fit.siteOk_lt (List.contains_iff_mem.mpr hsite))
  refine List.nodup_flatMap.mpr ⟨fun k _ => f.sledWorkers_nodup k, List.nodup_range.imp fun hne w hj hk => ?_⟩
  exact hne ((hsled hj).symm.trans (hsled hk))

end Sys2Proof.Machine
end

section
/-! SUPPORT. A self-test failure in the wake sequence (R130): what remapping leaves of the cores that are retired. -/

namespace Sys2Proof.Machine

variable {s : State} {w n : Nat}

/-- Which cores are retired, and for what cause. -/
def State.retirements (s : State) : Nat → Nat → Bool × Nat := fun w n => ((s.core w n).retired, (s.core w n).cause)

theorem State.updWorker_retirements {f : Worker → Worker} (hf : ∀ x, (f x).cores = x.cores) (s : State) (w : Nat) :
    (s.updWorker w f).retirements = s.retirements := by
  have hcore (v n : Nat) : (s.updWorker w f).core v n = s.core v n := by
    unfold State.core Worker.core
    rw [State.updWorker_worker]
    split
    next h => rw [h, hf]
    next => rfl
  exact funext fun v => funext fun n => by rw [State.retirements, State.retirements, hcore]

theorem State.updCore_retirements {f : StagCore → StagCore} (hf : ∀ x, (f x).retired = x.retired ∧ (f x).cause = x.cause) (s : State)
    (w n : Nat) : (s.updCore w n f).retirements = s.retirements := by
  refine funext fun v => funext fun i => ?_
  rw [State.retirements, State.retirements, State.updCore_core]
  split
  next h => rw [(hf _).1, (hf _).2, h.1, h.2]
  next => rfl

theorem State.retirements_congr {t : State} (h : t.workers = s.workers) : t.retirements = s.retirements := by
  unfold State.retirements State.core State.worker
  rw [h]

theorem State.loadProgram_retirements (s : State) (w n : Nat) : (s.loadProgram w n).retirements = s.retirements := by
  unfold State.loadProgram
  split
  · exact State.updCore_retirements (by exact fun _ => ⟨rfl, rfl⟩) s w n
  · rfl

theorem State.tearLink_retirements (s : State) (w j cause : Nat) : (s.tearLink w j cause).retirements = s.retirements :=
  (State.updWorker_retirements (by exact fun _ => rfl) _ _).trans (State.updWorker_retirements (by exact fun _ => rfl) s w)

theorem State.stopGroups_workers (s : State) (gs : List Nat) (reason : Nat) : (s.stopGroups gs reason).workers = s.workers := by
  refine foldl_keeps State.workers _ (fun st g => ?_) gs s
  unfold State.stopGroup
  dsimp only
  split
  · split
    · rfl
    · exact foldl_keeps State.workers _ (fun a k => a.updHub_workers k _) _ _
  · rfl

theorem State.tearCircuits_workers (s : State) (cs : List Nat) (cause : Nat) : (s.tearCircuits cs cause).workers = s.workers := by
  refine foldl_keeps State.workers _ (fun st c => ?_) cs s
  have hpark (u : State) : (u.parkRoute c).workers = u.workers := by
    unfold State.parkRoute
    split
    · rfl
    · exact foldl_keeps State.workers _ (fun a h => foldl_keeps State.workers _ (fun b e => b.updTile_workers _ _) _ a) _ u
  unfold State.tearCircuit
  split
  · exact (State.stopGroups_workers _ _ _).trans (hpark _)
  · rfl

theorem State.planInput_workers (s : State) : s.planInput.workers = s.workers := rfl

theorem State.arrive_workers (s : State) (e n mc : Nat) : (s.arrive e n mc).workers = s.workers := rfl

theorem State.startSwitchIn_workers (s : State) (w : Nat) (circs : List Nat) : (s.startSwitchIn w circs).workers = s.workers := by
  unfold State.startSwitchIn
  dsimp only
  split <;> rfl

/-- A worker that is declared failed has the same cores retired. -/
theorem State.declareFailed_retirements (s : State) (w : Nat) : (s.declareFailed w).retirements = s.retirements := by
  unfold State.declareFailed
  dsimp only
  split
  · have hlinks (u : State) (js : List Nat) : (u.forEach js fun st j => st.tearLink w j 4).retirements = u.retirements :=
      foldl_keeps State.retirements _ (fun st j => st.tearLink_retirements w j 4) js u
    have hmark (u : State) (gs : List Nat) (f : State → Nat → Group → Group) :
        (u.forEach gs fun st g => st.updGroup g (f st g)).workers = u.workers :=
      foldl_keeps State.workers _ (fun st g => st.updGroup_workers g _) gs u
    have hnote (u : State) : (u.arrive 11 1 0).planInput.workers = u.workers :=
      (State.planInput_workers _).trans (State.arrive_workers u 11 1 0)
    have hfailed (u : State) : ((u.updWorker w fun x =>
        { x with failed := true, pwr := 0, keys := Tab.empty, inflight := [], latched := none }).updHub (sledOf w) fun h =>
        { h with failed := putBit h.failed (siteOf w) true }).retirements = u.retirements :=
      (State.retirements_congr (State.updHub_workers _ _ _)).trans (State.updWorker_retirements (by exact fun _ => rfl) u w)
    have hdone (u : State) (gs cs : List Nat) (f : State → Nat → Group → Group) :
        ((((u.tearCircuits cs 4).stopGroups gs 6).forEach gs fun st g => st.updGroup g (f st g)).arrive 11 1 0).planInput.workers = u.workers :=
      (hnote _).trans ((hmark _ _ _).trans ((State.stopGroups_workers _ _ _).trans (State.tearCircuits_workers _ _ _)))
    have hspare (p : Prop) [Decidable p] (u : State) (cs : List Nat) : (if p then u.startSwitchIn w cs else u).workers = u.workers := by
      split
      · exact u.startSwitchIn_workers w cs
      · rfl
    exact (State.retirements_congr ((hspare _ _ _).trans (hdone _ _ _ _))).trans ((hlinks _ _).trans (hfailed s))
  · rfl

theorem State.remap_retirements (s : State) (w l : Nat) : (s.remap w l).retirements = s.retirements := by
  have hmap (f : Worker → Worker) (hf : ∀ x, (f x).cores = x.cores) (n : Nat) :
      ((s.updWorker w f).loadProgram w n).retirements = s.retirements :=
    (State.loadProgram_retirements _ _ _).trans (State.updWorker_retirements hf s w)
  unfold State.remap
  split
  · exact hmap _ (by exact fun _ => rfl) _
  · split
    · exact State.updWorker_retirements (by exact fun _ => rfl) s w
    · split
      · dsimp only
        split
        · exact hmap _ (by exact fun _ => rfl) _
        · exact State.updWorker_retirements (by exact fun _ => rfl) s w
      · exact s.declareFailed_retirements w

@[simp] theorem State.loadProgram_mgr (s : State) (w n : Nat) : (s.loadProgram w n).mgr = s.mgr := by
  unfold State.loadProgram
  split <;> rfl

@[simp] theorem State.loadPrograms_mgr (s : State) (w mask : Nat) : (s.loadPrograms w mask).mgr = s.mgr :=
  State.forEach_mgr s _ _ fun st n => st.loadProgram_mgr w n

@[simp] theorem State.remap_mgr (s : State) (w l : Nat) : (s.remap w l).mgr = s.mgr := by
  unfold State.remap
  split
  · simp
  · split
    · rfl
    · split
      · dsimp only
        split <;> simp
      · simp

/-- A self-test failure leaves the machine's state (R59). -/
@[simp] theorem State.selfTestFail_mode (s : State) (w n : Nat) : (s.selfTestFail w n).mgr.mode = s.mgr.mode := by
  unfold State.selfTestFail
  dsimp only
  split
  · split <;> simp [State.updCore]
  · rfl

/-- A core that fails the self-test is retired with CAUSE 3, whatever its logical core is mapped to then (R130). -/
theorem State.selfTestFail_retires (hup : s.workerUp w = true) (hn : n < 50) (hgood : (s.core w n).retired = false)
    (hpow : (s.worker w).powered (clusterOf n) = true) :
    ((s.selfTestFail w n).core w n).retired = true ∧ ((s.selfTestFail w n).core w n).cause = 3 := by
  have hview : (s.selfTestFail w n).retirements =
      (s.updCore w n fun x => { x with retired := true, cause := 3, faultCycle := 0, faultJ := 0 }).retirements := by
    have hfail : s.selfTestFail w n = _ := if_pos ⟨hup, hn, by rw [hgood]; rfl, hpow⟩
    rw [hfail]
    dsimp only
    split
    · rfl
    · rw [State.remap_retirements]; rfl
  have hcore := congrFun (congrFun hview w) n
  rw [State.retirements, State.retirements, State.updCore_core_self] at hcore
  exact Prod.mk.inj hcore

end Sys2Proof.Machine
end

section
/-! SUPPORT. A doze agreed and dropped into (R69 to R72). -/

namespace Sys2Proof.Machine

variable {s : State} {c : Cmd} {k n : Nat} {d : DozeAgreed} {pre rest : List Msg}

theorem State.interim_only (s : State) (c : Cmd) (r : List (Nat × Nat)) :
    ∃ hubs host scb, s.interim c r = { s with hubs := hubs, host := host, scb := scb } := s.send_only _

/-- The doze that DOZE agrees, with the light budget of that boundary, before the hubs are told (R69). -/
def State.agreeDoze (s : State) (c : Cmd) : State :=
  { s.interim c with
    mgr := { (s.interim c).mgr with doze := some { n := (s.interim c).mgr.frame, cmd := c } }
    light := { (s.interim c).light with agreed := (s.interim c).light.level } }

theorem completes_doze (hc : IsCmd c 0x10) (hmode : s.mgr.mode = .quiescent ∨ s.mgr.mode = .loaded)
    (hidle : ∀ g, g < 32 → (s.group g).running = none ∧ (s.group g).queue = []) (hwait : s.img.waitJobs = []) (hact : s.img.act = none)
    (hverify : s.verifying = false) (hdoze : s.mgr.doze = none) : Completes (.doze c) s fun t =>
      t.mgr.doze = some { n := s.mgr.frame, cmd := c } ∧ Reached t (.dozeAt s.mgr.frame) ∧ t.mgr.mode = s.mgr.mode ∧
        t.light = { s.light with agreed := s.light.level } ∧ t = { s.interim c with mgr := t.mgr, hubs := t.hubs, light := t.light } := by
  have hstate : s.mgr.mode.deaf = false ∧ [MState.quiescent, .loaded, .running, .service].contains s.mgr.mode = true ∧
      (s.mgr.mode == .quiescent || s.mgr.mode == .loaded) = true := by
    rcases hmode with h | h <;> rw [h] <;> decide
  obtain ⟨hdeaf, hok, hready⟩ := hstate
  have hbusy : s.busyGroups = [] := by
    refine List.filter_eq_nil_iff.mpr fun g hg => ?_
    obtain ⟨hrun, hqueue⟩ := hidle g (List.mem_range.mp hg)
    simp [State.groupRuns, hrun, hqueue]
  have hexec : exec (.doze c) s = .next ((s.agreeDoze c).broadcast (.dozeAt s.mgr.frame)) := by
    have heff : s.dozeCmd c = (s.agreeDoze c).broadcast (.dozeAt s.mgr.frame) := by
      rw [State.dozeCmd, State.decideCmd_eff _ hc hdeaf hok (by simp [hready, hbusy, hwait, hact, hverify, hdoze])]
      rfl
    exact congrArg Host.Outcome.next heff
  have hmgr : (s.agreeDoze c).mgr = { s.mgr with doze := some { n := s.mgr.frame, cmd := c } } := by rw [State.agreeDoze, State.interim_mgr]
  have hlight : (s.agreeDoze c).light = { s.light with agreed := s.light.level } := by
    obtain ⟨hubs, host, scb, h⟩ := s.interim_only c []
    rw [State.agreeDoze, h]
  refine ⟨_, hexec, ?_, State.broadcast_reaches _ _, ?_, ?_, ?_⟩
  · rw [State.broadcast_mgr, hmgr]
  · rw [State.broadcast_mgr, hmgr]
  · rw [State.broadcast_onlyHubs]; exact hlight
  · rw [State.broadcast_onlyHubs]; rfl

theorem completes_dozeAt (hmsg : FirstMsg s k Msg.isDozeAt pre (.dozeAt n) rest) : Completes (.dozeAt k) s fun t =>
    OnlyHub k s t ∧ t.hub k = { s.hub k with inbox := pre ++ rest, dozeAt := some n } := by
  refine completes_updHub (f := fun h => { h with inbox := dropMsg Msg.isDozeAt h.inbox, dozeAt := some n }) ?_ ?_
  · show execDozeAt k s = _
    unfold execDozeAt
    split
    next m hfind =>
      cases hmsg.find?_eq.symm.trans hfind
      rfl
    next hno => exact absurd hmsg.find?_eq (hno n)
  · rw [hmsg.dropMsg_eq]

theorem completes_cancel (hmsg : FirstMsg s k (fun m => m == .cancel) pre .cancel rest) : Completes (.cancel k) s fun t =>
    OnlyHub k s t ∧ t.hub k = { s.hub k with inbox := pre ++ rest, dozeAt := none } := by
  refine completes_updHub (f := fun h => { h with inbox := dropMsg (fun m => m == .cancel) h.inbox, dozeAt := none }) ?_ ?_
  · exact if_pos hmsg.contains
  · rw [hmsg.dropMsg_eq]

/-- The wake request that stands once another WAKE is accepted (R70, R73). -/
def Mgr.addWake (m : Mgr) (c : Cmd) : WakeReq :=
  match m.wake with
  | some w => { w with cmds := w.cmds ++ [c] }
  | none => { frame := m.frame, cmds := [c] }

theorem Mgr.addWake_spec (m : Mgr) (c : Cmd) :
    c ∈ (m.addWake c).cmds ∧ (∀ v, m.wake = some v → m.addWake c = { v with cmds := v.cmds ++ [c] }) ∧
      (m.wake = none → (m.addWake c).frame = m.frame) := by
  unfold Mgr.addWake
  cases m.wake with
  | none => exact ⟨List.mem_singleton_self c, fun _ h => absurd h (Option.some_ne_none _).symm, fun _ => rfl⟩
  | some w =>
    exact ⟨List.mem_append_right _ (List.mem_singleton_self c), fun v h => (Option.some.inj h) ▸ rfl, fun h => absurd h (Option.some_ne_none w)⟩

theorem completes_wake (hc : IsCmd c 0x11)
    (hmode : s.mgr.mode = .doze ∨ (s.mgr.doze.isSome = true ∧ (s.mgr.mode = .quiescent ∨ s.mgr.mode = .loaded))) :
    Completes (.wake c) s fun t =>
      (∃ w, t.mgr.wake = some w ∧ c ∈ w.cmds ∧ (∀ v, s.mgr.wake = some v → w = { v with cmds := v.cmds ++ [c] }) ∧
        (s.mgr.wake = none → w.frame = s.mgr.frame)) ∧
      t = { s.interim c with mgr := { (s.interim c).mgr with wake := t.mgr.wake } } := by
  have hdeaf : s.mgr.mode.deaf = false := by
    rcases hmode with h | ⟨-, h | h⟩ <;> rw [h] <;> rfl
  have hok : (if s.mgr.doze.isSome = true then [MState.quiescent, .loaded, .doze] else [.doze]).contains s.mgr.mode = true := by
    rcases hmode with h | ⟨hagreed, h⟩
    · rw [h]; split <;> rfl
    · rw [if_pos hagreed]
      rcases h with h | h <;> rw [h] <;> rfl
  have hexec : exec (.wake c) s = .next ((s.interim c).updMgr fun m => { m with wake := some (m.addWake c) }) := by
    have heff : s.wakeCmd c = (s.interim c).updMgr fun m => { m with wake := some (m.addWake c) } := by
      rw [State.wakeCmd, State.decideCmd_eff _ hc hdeaf hok (List.forall_mem_nil _)]
      rfl
    exact congrArg Host.Outcome.next heff
  refine ⟨_, hexec, ⟨s.mgr.addWake c, ?_, s.mgr.addWake_spec c⟩, rfl⟩
  rw [State.updMgr_mgr, State.interim_mgr]

/-- The machine once DROP is sent, before DOZE completes (R71). -/
def State.dropped (s : State) : State :=
  (((s.broadcast .drop).setMode .doze 0).updMgr fun m => { m with dozePrev := s.mgr.mode.code }).openHeaters

theorem exec_dozeDrop (hdoze : s.mgr.doze = some d) (hmode : s.mgr.mode = .quiescent ∨ s.mgr.mode = .loaded) (hframe : d.n + 4 ≤ s.mgr.frame)
    (hwake : s.mgr.wake = none) : exec .dozeDrop s = .next (s.dropped.final d.cmd stOk) := by
  show execDozeDrop s = _
  unfold execDozeDrop
  rw [hdoze]
  exact if_pos ⟨hmode, hframe, by rw [hwake]; rfl⟩

theorem State.dropped_mgr (hmode : s.mgr.mode ≠ .doze) : s.dropped.mgr.mode = .doze ∧ s.dropped.mgr.prev = s.mgr.mode.code := by
  have hbefore : (s.broadcast .drop).mgr = s.mgr := s.broadcast_mgr .drop
  have hmgr := State.setMode_mgr (s := s.broadcast .drop) (m := .doze) (by rwa [hbefore]) 0
  rw [hbefore] at hmgr
  exact ⟨congrArg Mgr.mode hmgr, congrArg Mgr.prev hmgr⟩

theorem State.dropped_keeps (s : State) : s.dropped.workers = s.workers ∧ s.dropped.circs = s.circs ∧ s.dropped.fit = s.fit ∧
    ∀ k, s.dropped.hub k = (s.broadcast .drop).hub k := by
  refine ⟨?_, ?_, ?_, fun k => ?_⟩
  · exact (State.setMode_workers _ _ _).trans (s.broadcast_workers _)
  · exact (State.setMode_circs _ _ _).trans (s.broadcast_circs _)
  · exact (State.setMode_fit _ _ _).trans (s.broadcast_fit _)
  · exact State.setMode_hub _ _ _ _

theorem completes_dozeDrop (hdoze : s.mgr.doze = some d) (hmode : s.mgr.mode = .quiescent ∨ s.mgr.mode = .loaded) (hframe : d.n + 4 ≤ s.mgr.frame)
    (hwake : s.mgr.wake = none) : Completes .dozeDrop s fun t =>
      t.mgr.mode = .doze ∧ t.mgr.prev = s.mgr.mode.code ∧ Reached t .drop ∧
        (∀ l q e m, d.cmd.src = .host l q e m → ∃ y ∈ (t.hub l).cpls, y.cmd = d.cmd ∧ y.interim = false ∧ y.status = 0) ∧
        t.workers = s.workers ∧ t.mem = s.mem ∧ t.circs = s.circs := by
  have hne : s.mgr.mode ≠ .doze := by rcases hmode with h | h <;> rw [h] <;> decide
  obtain ⟨hdozes, hprev⟩ := State.dropped_mgr hne
  obtain ⟨hworkers, hcircs, hfit, hhubs⟩ := s.dropped_keeps
  refine ⟨_, exec_dozeDrop hdoze hmode hframe hwake, ?_, ?_, fun k hk => ?_, State.final_ended _ _ _ _, ?_, ?_, ?_⟩
  · rw [State.final_mgr]; exact hdozes
  · rw [State.final_mgr]; exact hprev
  · obtain ⟨q, hq⟩ := s.dropped.final_hub d.cmd stOk [] k
    rw [hq, hhubs]
    exact s.broadcast_reaches .drop k (by rwa [State.final_fit, hfit, ← s.broadcast_fit .drop] at hk)
  · rw [State.final_workers, hworkers]
  · simp [State.dropped]
  · rw [State.final_circs, hcircs]

/-! ## DROP on a sled -/

/-- The hub of a sled that drops (R71). -/
def Hub.drop (h : Hub) : Hub :=
  { h with
    inbox := dropMsg (fun m => m == .drop) h.inbox, dozeAt := none, dropped := true, started := false, isSlip := false, stepGroups := []
    selfRefresh := true }

/-- One worker dropped, with a fresh name for what its cores hold next. -/
def State.dropWorker (s : State) (w : Nat) : State := s.draw.2.updWorker w fun x => x.drop (s.draw.1 + 1)

/-- A sled dropped, before its circuits are suspended. -/
def State.dropSled (s : State) (k : Nat) : State := (s.updHub k Hub.drop).forEach (s.fit.sledWorkers k) State.dropWorker

theorem State.forEach_dropWorker_only (l : List Nat) (s : State) :
    ∃ workers fresh, s.forEach l State.dropWorker = { s with workers := workers, mgr := { s.mgr with fresh := fresh } } := by
  induction l generalizing s with
  | nil => exact ⟨s.workers, s.mgr.fresh, rfl⟩
  | cons w l ih =>
    obtain ⟨workers, fresh, h⟩ := ih (s.dropWorker w)
    exact ⟨workers, fresh, h.trans rfl⟩

theorem State.dropSled_only (s : State) (k : Nat) : ∃ workers fresh, s.dropSled k =
    { s with hubs := (s.updHub k Hub.drop).hubs, workers := workers, mgr := { s.mgr with fresh := fresh } } :=
  State.forEach_dropWorker_only _ (s.updHub k Hub.drop)

theorem State.dropWorker_ne (s : State) (v w : Nat) (h : w ≠ v) : (s.dropWorker v).worker w = s.worker w := State.updWorker_worker_ne _ _ h

theorem State.dropSled_worker (s : State) {w : Nat} (hw : w ∈ s.fit.sledWorkers k) :
    ∃ epoch, (s.dropSled k).worker w = (s.worker w).drop epoch := by
  obtain ⟨u, hu, hf⟩ := State.forEach_at (part := State.worker) (f := State.dropWorker) State.dropWorker_ne (s.fit.sledWorkers_nodup k) hw
    (s.updHub k Hub.drop)
  refine ⟨u.draw.1 + 1, hf.trans ?_⟩
  rw [State.dropWorker, State.updWorker_worker_self]
  exact congrArg (Worker.drop · _) hu

theorem State.dropSled_worker_ne (s : State) {w : Nat} (hw : w ∉ s.fit.sledWorkers k) : (s.dropSled k).worker w = s.worker w :=
  State.forEach_of_notMem (part := State.worker) State.dropWorker_ne hw _

theorem Circ.suspend_state {x : Circ} (h : x.live = true) : x.suspend.state = 7 := by rw [Circ.suspend, if_pos h]

theorem completes_drop (hmsg : FirstMsg s k (fun m => m == .drop) pre .drop rest) : Completes (.drop k) s fun t =>
    (t.hub k).dropped = true ∧ (t.hub k).started = false ∧ (t.hub k).inbox = pre ++ rest ∧
      (∀ w ∈ s.fit.sledWorkers k, (t.worker w).pwr = (s.worker w).pwr &&& 0x181 ∧ (t.worker w).dropPwr = (s.worker w).pwr) ∧
      (∀ w, w ∉ s.fit.sledWorkers k → t.worker w = s.worker w) ∧
      (∀ x, (s.circ x).live = true → sledOf (s.endOf (s.circ x).src).1 = k → (t.circ x).state = 7) ∧
      t = { s with hubs := t.hubs, workers := t.workers, circs := t.circs, mgr := { s.mgr with fresh := t.mgr.fresh } } := by
  have hexec : exec (.drop k) s = .next { s.dropSled k with
      circs := (s.dropSled k).circs.mapVals fun _ x => if sledOf (s.endOf x.src).1 = k then x.suspend else x } := by
    show execDrop k s = _
    rw [execDrop, if_pos hmsg.contains]
    rfl
  obtain ⟨workers, fresh, honly⟩ := s.dropSled_only k
  have hhub : (s.dropSled k).hub k = (s.hub k).drop := by
    rw [honly]
    exact State.updHub_hub_self s k Hub.drop
  have hcircs : (s.dropSled k).circs = s.circs := by rw [honly]
  rw [hcircs] at hexec
  refine ⟨_, hexec, congrArg Hub.dropped hhub, congrArg Hub.started hhub, (congrArg Hub.inbox hhub).trans hmsg.dropMsg_eq, fun w hw => ?_,
    fun w hw => s.dropSled_worker_ne hw, fun x hlive hsled => ?_, ?_⟩
  · obtain ⟨epoch, hw⟩ := s.dropSled_worker hw
    exact ⟨congrArg Worker.pwr hw, congrArg Worker.dropPwr hw⟩
  · refine (congrArg Circ.state ((Tab.get_mapVals _ _ Circ.init x ?_).trans (if_pos hsled))).trans (Circ.suspend_state hlive)
    split <;> rfl
  · rw [honly]

end Sys2Proof.Machine
end

section
/-! SUPPORT. The wake sequence (R72, R73, Table 3.10): what each of its rows does, and its end. -/

namespace Sys2Proof.Machine

variable {s : State} {w k n b row f mask : Nat} {bad : List (Nat × Nat)}

/-! ## The rows -/

/-- What the frame range `row` of Table 3.10 does in a wake sequence that started at frame `b`. -/
def State.wakeWork (s : State) (b row : Nat) (bad : List (Nat × Nat)) : State :=
  if row = 0 then s.wakeControl
  else if row = 1 then s.forEach s.fit.sledList fun st k => st.updHub k fun h => { h with selfRefresh := false }
  else if row = 2 then (s.wakeDomains 0x800).forEach s.liveWorkers State.trainLinks
  else if row = 3 then (s.wakeDomains 0x7C).forEach s.liveWorkers fun st w => st.loadPrograms w ((s.worker w).dropPwr &&& 0x7C)
  else if row = 4 then s.wakeDomains 0x600
  else if row = 5 then s.rangeSuspended b
  else if row = 6 then bad.foldl (fun st x => st.selfTestFail x.1 x.2) s
  else s.alignSteps

theorem exec_wakeSequenceStage (hmode : s.mgr.mode = .doze) (hstart : s.mgr.wakeStart = some b) (hrow : s.mgr.wakeRow = row)
    (hf : wakeRows[row]? = some f) (hdue : b + f ≤ s.mgr.frame) :
    exec (.wakeSequenceStage row bad) s = .next ((s.wakeWork b row bad).updMgr fun m => { m with wakeRow := row + 1 }) := by
  show execWakeSequenceStage row bad s = _
  unfold execWakeSequenceStage
  rw [hstart, hf]
  exact if_pos ⟨hmode, hrow.symm, hdue⟩

theorem State.wakeWork_mem (s : State) (b row : Nat) (bad : List (Nat × Nat)) : (s.wakeWork b row bad).mem = s.mem := by
  simp [State.wakeWork, apply_ite State.mem]

@[simp] theorem State.wakeControl_mgr (s : State) : s.wakeControl.mgr = s.mgr := State.forEach_mgr s _ _ fun _ _ => rfl

@[simp] theorem State.wakeDomains_mgr (s : State) (mask : Nat) : (s.wakeDomains mask).mgr = s.mgr := State.forEach_mgr s _ _ fun _ _ => rfl

@[simp] theorem State.rangeSuspended_mgr (s : State) (b : Nat) : (s.rangeSuspended b).mgr = s.mgr := rfl

@[simp] theorem State.alignSteps_mgr (s : State) : s.alignSteps.mgr = s.mgr := State.forEach_mgr s _ _ fun _ _ => rfl

/-- No row leaves Doze. -/
theorem State.wakeWork_mode (s : State) (b row : Nat) (bad : List (Nat × Nat)) : (s.wakeWork b row bad).mgr.mode = s.mgr.mode := by
  have htests : (bad.foldl (fun st x => st.selfTestFail x.1 x.2) s).mgr.mode = s.mgr.mode :=
    foldl_mode _ (fun st x => st.selfTestFail_mode x.1 x.2) bad s
  simp [State.wakeWork, apply_ite State.mgr, apply_ite Mgr.mode, htests]

/-! ## The power domains -/

theorem State.wakeControl_powered (hw : w ∈ s.liveWorkers) : (s.wakeControl.worker w).powered 1 = true := by
  obtain ⟨u, -, hf⟩ := State.forEach_at (part := State.worker)
    (f := fun st w => (st.switchOn w 2).updWorker w fun x => { x with inflight := [], cores := x.cores.mapVals fun _ c => c.resetSequencer })
    (fun st v x hne => (State.updWorker_worker_ne _ _ hne).trans (State.updWorker_worker_ne st _ hne)) (s.fit.workers_nodup.filter _) hw s
  have hpwr : (s.wakeControl.worker w).pwr = (u.worker w).pwr ||| 2 := by
    refine (congrArg Worker.pwr hf).trans ?_
    rw [State.updWorker_worker_self, State.switchOn, State.updWorker_worker_self]
  rw [Worker.powered, hpwr, Nat.testBit_or]
  exact Bool.or_true _

/-- A domain that the mask names is on again where it was at the drop. -/
theorem State.wakeDomains_powered (hw : w ∈ s.liveWorkers) (hmask : mask.testBit n = true) (hdrop : (s.worker w).dropPwr.testBit n = true) :
    ((s.wakeDomains mask).worker w).powered n = true := by
  obtain ⟨u, hu, hf⟩ := State.forEach_at (part := State.worker) (f := fun st w => st.switchOn w ((st.worker w).dropPwr &&& mask))
    (fun st v x hne => State.updWorker_worker_ne st _ hne) (s.fit.workers_nodup.filter _) hw s
  have hpwr : ((s.wakeDomains mask).worker w).pwr = (s.worker w).pwr ||| ((s.worker w).dropPwr &&& mask) := by
    refine (congrArg Worker.pwr hf).trans ?_
    rw [State.switchOn, State.updWorker_worker_self, hu]
  rw [Worker.powered, hpwr, Nat.testBit_or, Nat.testBit_and, hdrop, hmask]
  exact Bool.or_true _

theorem State.powered_of_pdView {t u : State} (h : t.pdView = u.pdView) (w n : Nat) : (t.worker w).powered n = (u.worker w).powered n :=
  congrArg (fun p => (p.2 w).1.testBit n) h

/-- Each row switches on again what Table 3.10 names in it. -/
theorem State.wakeWork_powered (hw : w ∈ s.liveWorkers)
    (h : (row = 0 ∧ n = 1) ∨ ((row = 2 ∧ n = 11) ∨ (row = 3 ∧ 2 ≤ n ∧ n ≤ 6) ∨ (row = 4 ∧ (n = 9 ∨ n = 10))) ∧
      (s.worker w).dropPwr.testBit n = true) : ((s.wakeWork b row bad).worker w).powered n = true := by
  rcases h with ⟨rfl, rfl⟩ | ⟨⟨rfl, rfl⟩ | ⟨rfl, hlo, hhi⟩ | ⟨rfl, hn⟩, hdrop⟩
  · exact State.wakeControl_powered hw
  · have hview : (s.wakeWork b 2 bad).pdView = (s.wakeDomains 0x800).pdView := State.foldl_pdView State.trainLinks_pdView _ _
    rw [State.powered_of_pdView hview]
    exact State.wakeDomains_powered hw rfl hdrop
  · have hview : (s.wakeWork b 3 bad).pdView = (s.wakeDomains 0x7C).pdView := State.foldl_pdView (fun st v => st.loadPrograms_pdView v _) _ _
    rw [State.powered_of_pdView hview]
    exact State.wakeDomains_powered hw (by interval_cases n <;> rfl) hdrop
  · exact State.wakeDomains_powered hw (by rcases hn with rfl | rfl <;> rfl) hdrop

/-! ## Ranging and the step counts -/

theorem State.rangeSuspended_circ (h : (s.circ n).state = 7) :
    ((s.rangeSuspended b).circ n).setupAt = s.mgr.frame - 12 ∧ ((s.rangeSuspended b).circ n).due = b + 2031 := by
  have hcirc : (s.rangeSuspended b).circ n = _ := (Tab.get_mapVals _ s.circs Circ.init n (if_neg (by decide))).trans (if_pos h)
  exact ⟨congrArg Circ.setupAt hcirc, congrArg Circ.due hcirc⟩

/-- Every sled's step count is the same once they are aligned. -/
theorem State.alignSteps_step {i j : Nat} (hi : i < s.fit.sleds) (hj : j < s.fit.sleds) : (s.alignSteps.hub i).step = (s.alignSteps.hub j).step := by
  unfold State.alignSteps
  dsimp only
  rw [s.forEach_sledList_hub _ hi, s.forEach_sledList_hub _ hj]

theorem completes_wakeSequenceStage (hmode : s.mgr.mode = .doze) (hstart : s.mgr.wakeStart = some b) (hrow : s.mgr.wakeRow = row)
    (hf : wakeRows[row]? = some f) (hdue : b + f ≤ s.mgr.frame) : Completes (.wakeSequenceStage row bad) s fun t =>
      t.mgr.wakeRow = row + 1 ∧ t.mgr.mode = .doze ∧ t.mem = s.mem ∧
        (∀ x ∈ s.liveWorkers, ∀ n,
          (row = 0 ∧ n = 1) ∨ ((row = 2 ∧ n = 11) ∨ (row = 3 ∧ 2 ≤ n ∧ n ≤ 6) ∨ (row = 4 ∧ (n = 9 ∨ n = 10))) ∧
          (s.worker x).dropPwr.testBit n = true → (t.worker x).powered n = true) ∧
        (row = 1 → ∀ i, i < s.fit.sleds → (t.hub i).selfRefresh = false) ∧
        (row = 5 → ∀ x, (s.circ x).state = 7 → (t.circ x).setupAt = s.mgr.frame - 12 ∧ (t.circ x).due = b + 2031) ∧
        (row = 6 → ∀ x n, bad = [(x, n)] → s.workerUp x = true → n < 50 → (s.core x n).retired = false →
          (s.worker x).powered (clusterOf n) = true → (t.core x n).retired = true ∧ (t.core x n).cause = 3) ∧
        (row = 7 → ∀ i j, i < s.fit.sleds → j < s.fit.sleds → (t.hub i).step = (t.hub j).step) := by
  refine ⟨_, exec_wakeSequenceStage hmode hstart hrow hf hdue, rfl, (s.wakeWork_mode b row bad).trans hmode, s.wakeWork_mem b row bad,
    fun x hx n hn => State.wakeWork_powered hx hn, ?_, ?_, ?_, ?_⟩
  · rintro rfl i hi
    exact congrArg Hub.selfRefresh (s.forEach_sledList_hub _ hi)
  · rintro rfl x hx
    exact State.rangeSuspended_circ hx
  · rintro rfl x n rfl hup hn hgood hpow
    exact State.selfTestFail_retires hup hn hgood hpow
  · rintro rfl i j hi hj
    exact State.alignSteps_step hi hj

/-! ## The start and the end -/

theorem completes_wakeSequenceStart {r : WakeReq} {d : DozeAgreed} (hmode : s.mgr.mode = .doze) (hwake : s.mgr.wake = some r)
    (hdoze : s.mgr.doze = some d) (hstart : s.mgr.wakeStart = none) (hafter : r.frame < s.mgr.frame) (hframe : d.n + 6 ≤ s.mgr.frame) :
    Completes .wakeSequenceStart s fun t => t = { s with mgr := { s.mgr with wakeStart := some s.mgr.frame, wakeRow := 0 } } := by
  refine ⟨_, ?_, rfl⟩
  show execWakeSequenceStart s = _
  unfold execWakeSequenceStart
  rw [hwake, hdoze]
  exact if_pos ⟨hmode, by rw [hstart]; rfl, hafter, hframe⟩

/-- The machine at the end of its wake sequence, before the WAKE commands complete: its circuits given up, its hubs awake, its state PREV. -/
def State.awake (s : State) : State :=
  (s.downSuspended.forEach s.fit.sledList fun st k => st.updHub k fun h => { h with dropped := false, selfRefresh := false }).setMode
    (MState.ofCode s.mgr.prev) 0

/-- The WAKE commands complete with the number of circuits that are DOWN (R72). -/
def State.endWake (s : State) : State :=
  (s.awake.finalAll s.wakeCmds stOk [(2, (s.circs.cells.filter fun c => c.2.state == 7).length)]).updMgr fun m =>
    { m with doze := none, wake := none, wakeStart := none, wakeRow := 0 }

theorem State.startWaking_only (s : State) : ∃ groups, s.startWaking = { s with groups := groups } := by
  have hpass (f : State → Nat → Group → Group) (l : List Nat) (u : State) :
      ∃ groups, (u.forEach l fun st g => st.updGroup g (f st g)) = { u with groups := groups } := by
    induction l generalizing u with
    | nil => exact ⟨u.groups, rfl⟩
    | cons g l ih =>
      obtain ⟨groups, h⟩ := ih (u.updGroup g (f u g))
      exact ⟨groups, h.trans rfl⟩
  unfold State.startWaking
  split
  · exact hpass _ _ s
  · exact ⟨s.groups, rfl⟩

theorem exec_wakeSequenceEnd (hmode : s.mgr.mode = .doze) (hstart : s.mgr.wakeStart = some b) (hrow : s.mgr.wakeRow = 8)
    (hdue : b + 2048 ≤ s.mgr.frame) : exec .wakeSequenceEnd s = .next s.endWake.startWaking := by
  show execWakeSequenceEnd s = _
  unfold execWakeSequenceEnd
  rw [hstart]
  exact if_pos ⟨hmode, hdue, hrow⟩

/-- The circuits that are still suspended are DOWN. -/
theorem State.downSuspended_state (h : (s.circ n).state = 7) : (s.downSuspended.circ n).state = 5 := by
  refine State.forEach_downCircuit_state _ s (.inl ?_)
  have hlisted : ∃ x, s.circs.get? n = some x ∧ x.state = 7 := by
    rw [State.circ, Tab.get] at h
    cases hx : s.circs.get? n with
    | none => rw [hx] at h; exact absurd h (by decide)
    | some x => rw [hx] at h; exact ⟨x, rfl, h⟩
  obtain ⟨x, hx, hstate⟩ := hlisted
  exact List.mem_map.mpr ⟨(n, x), List.mem_filter.mpr ⟨Tab.mem_of_get?_eq_some hx, by simpa using hstate⟩, rfl⟩

theorem State.awake_hub (hk : k < s.fit.sleds) : (s.awake.hub k).dropped = false := by
  rw [State.awake, State.setMode_hub, State.forEach_sledList_hub _ _ hk]

theorem State.awake_circs (s : State) : s.awake.circs = s.downSuspended.circs := by
  rw [State.awake, State.setMode_circs, State.forEach_updHub_onlyHubs]

theorem completes_wakeSequenceEnd (hmode : s.mgr.mode = .doze) (hstart : s.mgr.wakeStart = some b) (hrow : s.mgr.wakeRow = 8)
    (hdue : b + 2048 ≤ s.mgr.frame) : Completes .wakeSequenceEnd s fun t =>
      t.mgr.mode = MState.ofCode s.mgr.prev ∧ t.mgr.doze = none ∧ t.mgr.wake = none ∧ t.mgr.wakeStart = none ∧
        (∀ k, k < s.fit.sleds → (t.hub k).dropped = false) ∧ (∀ x, (s.circ x).state = 7 → (t.circ x).state = 5) ∧
        (∀ v, s.mgr.wake = some v → ∀ c ∈ v.cmds, ∀ l q e m, c.src = .host l q e m →
          ∃ y ∈ (t.hub l).cpls, y.cmd = c ∧ y.interim = false ∧ y.status = 0) ∧ t.mem = s.mem := by
  have hmem : s.endWake.startWaking.mem = s.mem := by simp [State.endWake, State.awake]
  obtain ⟨groups, hgroups⟩ := s.endWake.startWaking_only
  have hexec := exec_wakeSequenceEnd hmode hstart hrow hdue
  rw [hgroups] at hexec hmem
  refine ⟨_, hexec, ?_, rfl, rfl, rfl, fun k hk => ?_, fun x hx => ?_, fun v hv c hc l q e m hsrc => ?_, hmem⟩
  · have hprev : s.endWake.mgr.mode = MState.ofCode s.mgr.prev := by
      rw [State.endWake, State.updMgr_mgr, State.finalAll_mgr]
      exact State.setMode_mode _ _ _
    exact hprev
  · obtain ⟨q, hq⟩ := s.awake.finalAll_hub s.wakeCmds stOk [(2, (s.circs.cells.filter fun c => c.2.state == 7).length)] k
    exact (congrArg Hub.dropped hq).trans (State.awake_hub hk)
  · have hcirc : s.endWake.circs = s.downSuspended.circs := (State.finalAll_circs _ _ _ _).trans s.awake_circs
    exact (congrArg (fun t => (t.get Circ.init x).state) hcirc).trans (State.downSuspended_state hx)
  · have hcmds : c ∈ s.wakeCmds := by rw [State.wakeCmds, hv]; exact hc
    exact State.finalAll_ended hcmds s.awake stOk _ l q e m hsrc

end Sys2Proof.Machine
end

section
/-! The obligation about a doze: agreed, dropped into, and woken from. -/

namespace Sys2Proof.Machine

/-- Settles O25: the commands by their effect, DROP worker by worker, and the wake sequence row by row. -/
theorem dozeRuns : Obligations.DozeRuns := by
  unfold Obligations.DozeRuns
  refine ⟨fun s c k n pre rest => ⟨completes_doze, completes_dozeAt⟩, fun s c k d pre rest =>
    ⟨completes_wake, completes_cancel, completes_dozeDrop, completes_drop⟩, fun s w d b row f bad hmode => ?_⟩
  exact ⟨completes_wakeSequenceStart hmode, completes_wakeSequenceStage hmode, completes_wakeSequenceEnd hmode⟩

end Sys2Proof.Machine
end

section
/-! SUPPORT. Completions: what an interim one leaves. Commands with operand ranges or host data that are accepted. -/

namespace Sys2Proof.Machine

variable {s : State} {c : Cmd}

@[simp] theorem State.interim_img (s : State) (c : Cmd) (r : List (Nat × Nat)) : (s.interim c r).img = s.img := by
  obtain ⟨hubs, host, scb, h⟩ := s.interim_only c r
  rw [h]

/-- A command whose operands lie in their ranges and whose host data has come has its effect in a state that its rule accepts, where the
rule's checks pass (R339, R340). -/
theorem State.decideCmd_eff_of_ranges {op : Nat} {ranges data : Bool} {ok : List MState} {ch : List (Bool × Nat)} (eff : State → State)
    (hc : IsCmd c op) (hranges : ranges = true) (hdata : data = true) (hdeaf : s.mgr.mode.deaf = false) (hok : ok.contains s.mgr.mode = true)
    (hch : ∀ x ∈ ch, x.1 = true) : s.decideCmd c op ranges data ok ch eff = eff s := by
  subst hranges hdata
  exact State.decideCmd_eff eff hc hdeaf hok hch

end Sys2Proof.Machine
end

section
/-! SUPPORT. Images loaded, validated, placed and discarded (R95 to R98, R106). -/

namespace Sys2Proof.Machine

variable {s : State} {c : Cmd} {i : Image} {l : ImgLoad} {bytes : List Byte} {w : Nat}

/-- The states in which IMAGE_LOAD and IMAGE_DISCARD are accepted hear commands. -/
theorem MState.imageStates_heard {m : MState} (h : m = .quiescent ∨ m = .loaded ∨ m = .running ∨ m = .passage) :
    m.deaf = false ∧ [MState.quiescent, .loaded, .running, .passage].contains m = true := by
  rcases h with h | h | h | h <;> rw [h] <;> decide

theorem completes_imageLoad (hc : IsCmd c 0x20)
    (hmode : s.mgr.mode = .quiescent ∨ s.mgr.mode = .loaded ∨ s.mgr.mode = .running ∨ s.mgr.mode = .passage) (hstaged : s.img.staged = none)
    (hload : s.img.load = none) (hact : ∀ a, s.img.act = some a → a.deact = true) : Completes (.imageLoad c) s fun t =>
      t = { s.interim c with img := { s.img with load := some { cmd := c, since := s.mgr.frame }, valid := none } } := by
  obtain ⟨hdeaf, hok⟩ := MState.imageStates_heard hmode
  have heff : s.imageLoad c = (s.interim c).updImg fun x => { x with load := some { cmd := c, since := s.mgr.frame }, valid := none } :=
    State.decideCmd_eff _ hc hdeaf hok (by simpa [hstaged, hload, Option.all_eq_true] using hact)
  refine ⟨_, congrArg Host.Outcome.next heff, ?_⟩
  rw [State.updImg, State.interim_img]

theorem completes_imageValidation_accepted (hload : s.img.load = some l) (hvalid : s.img.valid = none) (hok : s.validate bytes = none) :
    Completes (.imageValidation bytes) s fun t => t = { s with img := { s.img with valid := some (imageOf bytes) } } := by
  refine ⟨_, ?_, rfl⟩
  show execImageValidation bytes s = _
  unfold execImageValidation
  rw [hload, hvalid, hok]
  rfl

theorem completes_imageValidation_rejected {r : Nat × Nat × Nat} (hload : s.img.load = some l) (hvalid : s.img.valid = none)
    (hbad : s.validate bytes = some r) : Completes (.imageValidation bytes) s fun t =>
      t = ({ s with img := { s.img with load := none, lastCode := r.1, lastOp := 1 } } : State).final l.cmd r.1 [(2, r.2.1), (4, r.2.2)] := by
  refine ⟨_, ?_, rfl⟩
  show execImageValidation bytes s = _
  unfold execImageValidation
  rw [hload, hvalid, hbad]
  rfl

theorem completes_imageDiscard (hc : IsCmd c 0x22)
    (hmode : s.mgr.mode = .quiescent ∨ s.mgr.mode = .loaded ∨ s.mgr.mode = .running ∨ s.mgr.mode = .passage)
    (hact : ∀ a, s.img.act = some a → a.deact = true ∨ a.cmd.id ≠ c.id) (hstaged : s.img.staged = some i) (hid : i.id = c.id) :
    Completes (.imageDiscard c) s fun t =>
      t = ({ s with img := { s.img with staged := none }, scb := { s.scb with staged := false } } : State).final c 0 := by
  obtain ⟨hdeaf, hok⟩ := MState.imageStates_heard hmode
  have heff : s.imageDiscard c =
      ((s.updImg fun x => { x with staged := none }).updScb fun x => { x with staged := false }).final c stOk := by
    unfold State.imageDiscard
    refine State.decideCmd_eff _ hc hdeaf hok ?_
    cases ha : s.img.act with
    | none => simp [hstaged, hid]
    | some a => rcases hact a ha with h | h <;> simp [hstaged, hid, h]
  exact ⟨_, congrArg Host.Outcome.next heff, rfl⟩

/-! ## Placement -/

/-- What placement leaves: the image's record, the manager's, the circuits and the groups. -/
def State.placeView (s : State) : Img × Mgr × Tab Circ × Tab Group := (s.img, s.mgr, s.circs, s.groups)

/-- The image written into the banks that are not active, the stashes and the shadow bank, before it is staged (R98, R224). -/
def State.placeImage (s : State) (i : Image) : State :=
  let s1 := s.forEach i.placed fun st w => st.placeBank i.id w
  let s2 := if i.kind = 0 then s1.forEach s.fit.sledList fun st k =>
      st.updHub k fun h => { h with stash := (i.placed.filter fun w => sledOf w == k).map i.stashPart }
    else s1
  if i.hasScarab then s2.updScb fun x => x.place i.scarab else s2

theorem exec_placementEnd (hload : s.img.load = some l) (hvalid : s.img.valid = some i) (hfree : s.paused (i.placed.map sledOf) = false) :
    exec .placementEnd s = .next ((((s.placeImage i).updImg fun x => { x with staged := some i, valid := none, load := none }).lastImage 0 1).final
      l.cmd stOk) := by
  show execPlacementEnd s = _
  unfold execPlacementEnd
  rw [hload, hvalid]
  exact if_neg (by simp [hfree])

theorem State.forEach_placeBank_placeView (ws : List Nat) (s : State) (id : Nat) :
    (s.forEach ws fun st w => st.placeBank id w).placeView = s.placeView :=
  foldl_keeps State.placeView (fun st w => st.placeBank id w) (fun _ _ => rfl) ws s

theorem State.placeImage_placeView (s : State) (i : Image) : (s.placeImage i).placeView = s.placeView := by
  have hstash (u : State) (f : Nat → Hub → Hub) (ks : List Nat) : (u.forEach ks fun st k => st.updHub k (f k)).placeView = u.placeView :=
    foldl_keeps State.placeView (fun st k => st.updHub k (f k)) (fun _ _ => rfl) ks u
  have hshadow (u : State) (f : Scarab → Scarab) : (u.updScb f).placeView = u.placeView := rfl
  unfold State.placeImage
  dsimp only
  rw [apply_ite State.placeView, hshadow, ite_self, apply_ite State.placeView, hstash, ite_self]
  exact State.forEach_placeBank_placeView _ _ _

theorem State.placeImage_workers (s : State) (i : Image) : (s.placeImage i).workers = (s.forEach i.placed fun st w => st.placeBank i.id w).workers := by
  have hstash (u : State) (f : Nat → Hub → Hub) (ks : List Nat) : (u.forEach ks fun st k => st.updHub k (f k)).workers = u.workers :=
    foldl_keeps State.workers _ (fun st k => st.updHub_workers k (f k)) ks u
  unfold State.placeImage
  dsimp only
  rw [apply_ite State.workers, State.updScb_workers, ite_self, apply_ite State.workers, hstash, ite_self]

/-- The banks of a worker: the image in each, and which is active. -/
def Worker.banks (x : Worker) : (Nat × Nat) × Bool := (x.bankIds, x.bank1)

/-- The banks of a worker once the one that is not active has received an image. -/
def Worker.banksWith (x : Worker) (id : Nat) : (Nat × Nat) × Bool :=
  (if x.bank1 then (id, x.bankIds.2) else (x.bankIds.1, id), x.bank1)

theorem State.placeBank_banks_self (s : State) (id w : Nat) : ((s.placeBank id w).worker w).banks = (s.worker w).banksWith id := by
  have hw : (s.placeBank id w).worker w = (s.worker w).setBank (!(s.worker w).bank1) id := State.updWorker_worker_self _ w _
  rw [hw, Worker.banksWith, Worker.setBank]
  cases (s.worker w).bank1 <;> rfl

theorem State.placeBank_worker_ne (s : State) (id : Nat) {v w : Nat} (h : w ≠ v) : (s.placeBank id v).worker w = s.worker w :=
  State.updWorker_worker_ne _ _ h

/-- Each worker of the list has its bank written once. -/
theorem State.forEach_placeBank_banks {ws : List Nat} (hws : ws.Nodup) (s : State) (id w : Nat) :
    ((s.forEach ws fun st w => st.placeBank id w).worker w).banks = if w ∈ ws then (s.worker w).banksWith id else (s.worker w).banks := by
  induction ws generalizing s with
  | nil => rfl
  | cons v ws ih =>
    obtain ⟨hv, hws⟩ := List.nodup_cons.mp hws
    refine (ih hws (s.placeBank id v)).trans ?_
    rcases eq_or_ne w v with rfl | hne
    · rw [if_neg hv, if_pos List.mem_cons_self, State.placeBank_banks_self]
    · simp only [State.placeBank_worker_ne s id hne, List.mem_cons, hne, false_or]

theorem completes_placementEnd (hload : s.img.load = some l) (hvalid : s.img.valid = some i)
    (hfree : s.paused (i.placed.map sledOf) = false) : Completes .placementEnd s fun t =>
      t.img = { s.img with staged := some i, valid := none, load := none, lastCode := 0, lastOp := 1 } ∧
      (∀ w ∈ i.placed, (t.worker w).bankIds =
        if (s.worker w).bank1 then (i.id, (s.worker w).bankIds.2) else ((s.worker w).bankIds.1, i.id)) ∧
      (∀ w, (t.worker w).bank1 = (s.worker w).bank1) ∧ t.mgr = s.mgr ∧ t.circs = s.circs ∧ t.groups = s.groups := by
  refine ⟨_, exec_placementEnd hload hvalid hfree, ?_⟩
  generalize ht : State.final _ l.cmd stOk = t
  obtain ⟨himg, hmgr, hcircs, hgroups⟩ : (s.placeImage i).img = s.img ∧ (s.placeImage i).mgr = s.mgr ∧ (s.placeImage i).circs = s.circs ∧
      (s.placeImage i).groups = s.groups := by simpa [State.placeView] using s.placeImage_placeView i
  have hbanks (w : Nat) : (t.worker w).banks = if w ∈ i.placed then (s.worker w).banksWith i.id else (s.worker w).banks := by
    have hworkers : t.workers = (s.forEach i.placed fun st w => st.placeBank i.id w).workers := by
      rw [← ht, State.final_workers]; exact s.placeImage_workers i
    rw [State.worker, hworkers, ← State.worker]
    exact State.forEach_placeBank_banks (List.nodup_dedup _) s i.id w
  refine ⟨?_, fun w hw => ?_, fun w => ?_, ?_, ?_, ?_⟩
  · rw [← ht, State.final_img, ← himg]; rfl
  · exact congrArg Prod.fst ((hbanks w).trans (if_pos hw))
  · have hbank := congrArg Prod.snd (hbanks w)
    rwa [apply_ite Prod.snd, Worker.banksWith, Worker.banks, Worker.banks, ite_self] at hbank
  · rw [← ht, State.final_mgr]; exact hmgr
  · rw [← ht, State.final_circs]; exact hcircs
  · rw [← ht, State.final_groups]; exact hgroups

end Sys2Proof.Machine
end

section
/-! The obligation about the loading of images. -/

namespace Sys2Proof.Machine

/-- Settles O32: the commands and the validation by their effect, the placement worker by worker. -/
theorem imagesAreLoaded : Obligations.ImagesAreLoaded := by
  unfold Obligations.ImagesAreLoaded
  exact fun s c bytes l i r => ⟨completes_imageLoad, completes_imageValidation_accepted, completes_imageValidation_rejected, completes_placementEnd,
    completes_imageDiscard⟩

end Sys2Proof.Machine
end

section
/-! SUPPORT. Groups that the manager stops or aborts (R345, R356): what that leaves of the machine and of each group. -/

namespace Sys2Proof.Machine

variable {s : State} {f g k reason : Nat}

/-- A group as the manager stops it. -/
def Group.halt (x : Group) (reason : Nat) : Group :=
  { x with
    stopped := true, stopSent := true, jr := none, reason := if x.stopped || !x.sledsStopped.isEmpty then x.reason else reason }

/-- STOP put last into the inboxes of the sleds of a group. -/
def State.sendStop (s : State) (g : Nat) (ks : List Nat) : State :=
  s.forEach ks fun st k => st.updHub k fun h => { h with inbox := h.inbox ++ [Msg.stop g] }

theorem State.stopGroup_running (h : s.groupRuns g = true) (reason : Nat) : s.stopGroup g reason =
    if (s.group g).stopSent then s.updGroup g fun x => x.halt reason
    else (s.updGroup g fun x => x.halt reason).sendStop g ((s.updGroup g fun x => x.halt reason).groupSleds g) := by
  unfold State.stopGroup
  rw [if_pos h]
  rfl

theorem State.stopGroup_idle (h : s.groupRuns g = false) (reason : Nat) : s.stopGroup g reason = s := if_neg (by simp [h])

theorem State.sendStop_onlyHubs (s : State) (g : Nat) (ks : List Nat) : s.sendStop g ks = { s with hubs := (s.sendStop g ks).hubs } :=
  s.forEach_updHub_onlyHubs ks _

/-- Of a hub STOP changes the inbox. -/
theorem State.sendStop_hub (s : State) (g : Nat) (ks : List Nat) (k : Nat) :
    ∃ l, (s.sendStop g ks).hub k = { s.hub k with inbox := (s.hub k).inbox ++ l } ∧ (k ∈ ks → Msg.stop g ∈ l) := by
  induction ks generalizing s with
  | nil => exact ⟨[], by simp [State.sendStop, State.forEach], fun h => absurd h List.not_mem_nil⟩
  | cons j ks ih =>
    obtain ⟨l, hl, hmem⟩ := ih (s.updHub j fun h => { h with inbox := h.inbox ++ [Msg.stop g] })
    rcases eq_or_ne k j with rfl | hne
    · refine ⟨Msg.stop g :: l, hl.trans ?_, fun _ => List.mem_cons_self⟩
      simp
    · refine ⟨l, hl.trans ?_, fun h => hmem ((List.mem_cons.mp h).resolve_left hne)⟩
      simp [hne]

theorem State.stopGroup_only (s : State) (g reason : Nat) :
    s.stopGroup g reason = { s with groups := (s.stopGroup g reason).groups, hubs := (s.stopGroup g reason).hubs } := by
  rcases Bool.eq_false_or_eq_true (s.groupRuns g) with h | h
  · rw [State.stopGroup_running h]
    split
    · rfl
    · rw [State.sendStop_onlyHubs]; rfl
  · rw [State.stopGroup_idle h]

theorem State.stopGroup_groups (h : s.groupRuns g = true) (reason : Nat) :
    (s.stopGroup g reason).groups = (s.updGroup g fun x => x.halt reason).groups := by
  rw [State.stopGroup_running h]
  split
  · rfl
  · rw [State.sendStop_onlyHubs]

theorem State.stopGroup_group_self (h : s.groupRuns g = true) (reason : Nat) : (s.stopGroup g reason).group g = (s.group g).halt reason := by
  rw [State.group, State.stopGroup_groups h, ← State.group, State.updGroup_group_self]

theorem State.stopGroup_group_ne (s : State) (reason : Nat) (hne : f ≠ g) : (s.stopGroup g reason).group f = s.group f := by
  rcases Bool.eq_false_or_eq_true (s.groupRuns g) with h | h
  · rw [State.group, State.stopGroup_groups h, ← State.group, State.updGroup_group_ne _ _ hne]
  · rw [State.stopGroup_idle h]

/-- Of a hub a stop changes the inbox. -/
theorem State.stopGroup_hub (s : State) (g reason k : Nat) :
    ∃ l, (s.stopGroup g reason).hub k = { s.hub k with inbox := (s.hub k).inbox ++ l } := by
  have hsame : s.hub k = { s.hub k with inbox := (s.hub k).inbox ++ [] } := by simp
  rcases Bool.eq_false_or_eq_true (s.groupRuns g) with h | h
  · rw [State.stopGroup_running h]
    split
    · exact ⟨[], hsame⟩
    · obtain ⟨l, hl, -⟩ := State.sendStop_hub (s.updGroup g fun x => x.halt reason) g _ k
      exact ⟨l, hl⟩
  · exact ⟨[], by rw [State.stopGroup_idle h]; exact hsame⟩

/-- A job that is to be aborted: its group notes why, and stops. -/
theorem State.abortGroup_running (h : s.groupRuns g = true) (reason : Nat) :
    s.abortGroup g reason = (s.updGroup g fun x => { x with abortReason := reason }).stopGroup g 6 := if_pos h

theorem State.groupRuns_congr {t : State} (h : (t.group g).running = (s.group g).running) : t.groupRuns g = s.groupRuns g := by
  rw [State.groupRuns, h, ← State.groupRuns]

theorem State.abortGroup_only (s : State) (g reason : Nat) :
    s.abortGroup g reason = { s with groups := (s.abortGroup g reason).groups, hubs := (s.abortGroup g reason).hubs } := by
  unfold State.abortGroup
  split
  · rw [State.stopGroup_only]; rfl
  · rfl

theorem State.abortGroup_group_self (h : s.groupRuns g = true) (reason : Nat) :
    (s.abortGroup g reason).group g = Group.halt { s.group g with abortReason := reason } 6 := by
  have hruns : (s.updGroup g fun x => { x with abortReason := reason }).groupRuns g = true := by
    rw [State.groupRuns_congr (s := s) (by rw [State.updGroup_group_self])]; exact h
  rw [State.abortGroup_running h, State.stopGroup_group_self hruns, State.updGroup_group_self]

theorem State.abortGroup_group_ne (s : State) (reason : Nat) (hne : f ≠ g) : (s.abortGroup g reason).group f = s.group f := by
  unfold State.abortGroup
  split
  · rw [State.stopGroup_group_ne _ _ hne, State.updGroup_group_ne _ _ hne]
  · rfl

/-- Every running group of the list is aborted for its reason. -/
theorem State.forEach_abortGroup_group {gs : List Nat} (hgs : gs.Nodup) (s : State) (hg : g ∈ gs) (h : s.groupRuns g = true) :
    (s.forEach gs fun st g => st.abortGroup g reason).group g = Group.halt { s.group g with abortReason := reason } 6 := by
  have hrest (s : State) {gs : List Nat} (hg : g ∉ gs) : (s.forEach gs fun st g => st.abortGroup g reason).group g = s.group g :=
    State.forEach_of_notMem (part := State.group) (fun st _ _ hne => st.abortGroup_group_ne reason hne) hg s
  induction gs generalizing s with
  | nil => cases hg
  | cons f gs ih =>
    obtain ⟨hf, hgs⟩ := List.nodup_cons.mp hgs
    rcases List.mem_cons.mp hg with rfl | hmem
    · exact (hrest _ hf).trans (State.abortGroup_group_self h reason)
    · have hother : (s.abortGroup f reason).group g = s.group g := s.abortGroup_group_ne reason fun e => hf (e ▸ hmem)
      refine (ih hgs (s.abortGroup f reason) hmem ?_).trans (by rw [hother])
      rw [State.groupRuns_congr (congrArg Group.running hother)]; exact h

end Sys2Proof.Machine
end

section
/-! The obligation about activations and deactivations that drain (R99, R101, R106). -/

namespace Sys2Proof.Machine

variable {s : State} {c : Cmd} {i : Image} {a : Activation}

theorem completes_imageActivate (hlimit : 1 ≤ c.limit) (hc : IsCmd c 0x21)
    (hmode : s.mgr.mode = .quiescent ∨ s.mgr.mode = .loaded ∨ s.mgr.mode = .running) (hact : s.img.act = none)
    (hstaged : s.img.staged = some i) (hid : i.id = c.id) : Completes (.imageActivate c) s fun t =>
      ∃ z, t.img = { s.img with act := some z } ∧ z.cmd = c ∧ z.deact = false ∧ z.accepted = s.mgr.frame ∧ z.boundary = none ∧
        t = { s.interim c with img := t.img, plane := t.plane } := by
  have hstate : s.mgr.mode.deaf = false ∧ [MState.quiescent, .loaded, .running].contains s.mgr.mode = true := by
    rcases hmode with h | h | h <;> rw [h] <;> decide
  obtain ⟨hdeaf, hok⟩ := hstate
  refine ⟨s.imageActivate c, rfl, ?_⟩
  rw [State.imageActivate, State.decideCmd_eff_of_ranges _ hc (by simpa using hlimit) rfl hdeaf hok (by simp [hact, hstaged, hid])]
  dsimp only
  rw [hstaged]
  dsimp only
  split
  · refine ⟨{ cmd := c, deact := false, accepted := s.mgr.frame, replanTo := some (s.mgr.frame + 160), boundary := none, planned := none,
              judged := [] }, ?_, rfl, rfl, rfl, rfl, rfl⟩
    simp [State.askReplan, hstaged]
  · refine ⟨{ cmd := c, deact := false, accepted := s.mgr.frame, replanTo := none, boundary := none, planned := none, judged := [] }, ?_,
      rfl, rfl, rfl, rfl, rfl⟩
    simp [hstaged]

theorem completes_imageDeactivate (hlimit : 1 ≤ c.limit) (hc : IsCmd c 0x23) (hmode : s.mgr.mode = .loaded ∨ s.mgr.mode = .running)
    (hact : s.img.act = none) : Completes (.imageDeactivate c) s fun t =>
      ∃ z, t.img = { s.img with act := some z } ∧ z.cmd = c ∧ z.deact = true ∧ z.accepted = s.mgr.frame ∧ z.boundary = none ∧
        t = { s.interim c with img := t.img } := by
  have hstate : s.mgr.mode.deaf = false ∧ [MState.loaded, .running].contains s.mgr.mode = true := by
    rcases hmode with h | h <;> rw [h] <;> decide
  obtain ⟨hdeaf, hok⟩ := hstate
  refine ⟨s.imageDeactivate c, rfl, ?_⟩
  rw [State.imageDeactivate, State.decideCmd_eff_of_ranges _ hc (by simpa using hlimit) rfl hdeaf hok (by simp [hact])]
  refine ⟨{ cmd := c, deact := true, accepted := s.mgr.frame, replanTo := none, boundary := none, planned := none, judged := [] }, ?_,
    rfl, rfl, rfl, rfl, rfl⟩
  simp

/-! ## The drain's deadline -/

/-- A drain that is not complete D frames after its command was accepted (R99). -/
structure State.DrainLate (s : State) (a : Activation) : Prop where
  act : s.img.act = some a
  draining : s.draining = true
  boundary : a.boundary = none
  late : a.accepted + a.cmd.limit ≤ s.mgr.frame
  undrained : s.drained = false

/-- The jobs that a forced activation aborts: the running ones of groups that abort none yet. -/
def State.forceable (s : State) : List Nat := s.runningGroups.filter fun g => (s.group g).abortReason == 0

theorem exec_drainTimeout (h : s.DrainLate a) : exec .drainTimeout s = .next
    (if a.cmd.force then s.forEach s.forceable fun st g => st.abortGroup g 1 else s.abandonAct a stDrainTimeout) := by
  show execDrainTimeout s = _
  unfold execDrainTimeout
  rw [h.act]
  dsimp only
  rw [if_pos (by simp [h.draining, h.boundary, h.late, h.undrained]), apply_ite Host.Outcome.next]
  rfl

theorem completes_drainTimeout_abandons (h : s.DrainLate a) (hforce : a.cmd.force = false) : Completes .drainTimeout s fun t =>
    t.img = (if a.deact then { s.img with act := none } else { s.img with act := none, lastCode := 0x13, lastOp := 2 }) ∧
    t.mgr = s.mgr ∧ t.groups = s.groups ∧ t.circs = s.circs ∧ t.mem = s.mem := by
  have hexec := exec_drainTimeout h
  rw [if_neg (by simp [hforce])] at hexec
  refine ⟨_, hexec, ?_, ?_, ?_, ?_, State.abandonAct_mem _ _ _⟩
  · rw [State.abandonAct, State.final_img, apply_ite State.img]; rfl
  · rw [State.abandonAct, State.final_mgr, apply_ite State.mgr]; exact ite_self _
  · rw [State.abandonAct, State.final_groups, apply_ite State.groups]; exact ite_self _
  · rw [State.abandonAct, State.final_circs, apply_ite State.circs]; exact ite_self _

theorem State.forceable_nodup (s : State) : s.forceable.Nodup := (List.nodup_range.filter _).filter _

theorem State.groupRuns_of_mem {g : Nat} (h : g ∈ s.runningGroups) : s.groupRuns g = true := (List.mem_filter.mp h).2

theorem completes_drainTimeout_aborts (h : s.DrainLate a) (hforce : a.cmd.force = true) : Completes .drainTimeout s fun t =>
    t.img = s.img ∧ t.mem = s.mem ∧
    ∀ g ∈ s.runningGroups, (s.group g).abortReason = 0 → (t.group g).abortReason = 1 ∧ (t.group g).stopped = true := by
  have hexec := exec_drainTimeout h
  rw [if_pos hforce] at hexec
  refine ⟨_, hexec, ?_, ?_, fun g hg hfree => ?_⟩
  · exact foldl_keeps State.img _ (fun st g => by rw [State.abortGroup_only]) _ s
  · exact foldl_keeps State.mem _ (fun st g => st.abortGroup_mem g 1) _ s
  · have hmem : g ∈ s.forceable := List.mem_filter.mpr ⟨hg, by rw [hfree]; rfl⟩
    rw [State.forEach_abortGroup_group s.forceable_nodup s hmem (State.groupRuns_of_mem hg)]
    exact ⟨rfl, rfl⟩

/-- Settles O33: the commands by the drain they begin; at its deadline an abandoned one by its completion, a forced one group by group. -/
theorem activationsDrain : Obligations.ActivationsDrain := by
  unfold Obligations.ActivationsDrain
  refine fun s c i a hlimit => ⟨completes_imageActivate hlimit, completes_imageDeactivate hlimit, fun hact hdraining hboundary hlate hun => ?_⟩
  have h : s.DrainLate a := ⟨hact, hdraining, hboundary, hlate, hun⟩
  exact ⟨completes_drainTimeout_abandons h, completes_drainTimeout_aborts h⟩

end Sys2Proof.Machine
end

section
/-! SUPPORT. Completions, events and tier writes: what they leave of the groups, the host side and the rest of the machine. -/

namespace Sys2Proof.Machine

variable {s : State} {c : Cmd}

@[simp] theorem State.interim_groups (s : State) (c : Cmd) (r : List (Nat × Nat)) : (s.interim c r).groups = s.groups := by
  obtain ⟨hubs, host, scb, h⟩ := s.interim_only c r
  rw [h]

@[simp] theorem State.interim_workers (s : State) (c : Cmd) (r : List (Nat × Nat)) : (s.interim c r).workers = s.workers := by
  obtain ⟨hubs, host, scb, h⟩ := s.interim_only c r
  rw [h]

@[simp] theorem State.interim_mound (s : State) (c : Cmd) (r : List (Nat × Nat)) : (s.interim c r).mound = s.mound := by
  obtain ⟨hubs, host, scb, h⟩ := s.interim_only c r
  rw [h]

@[simp] theorem State.interim_owners (s : State) (c : Cmd) (r : List (Nat × Nat)) : (s.interim c r).owners = s.owners := by
  obtain ⟨hubs, host, scb, h⟩ := s.interim_only c r
  rw [h]

@[simp] theorem State.interim_nextHandle (s : State) (c : Cmd) (r : List (Nat × Nat)) : (s.interim c r).host.nextHandle = s.host.nextHandle := by
  unfold State.interim State.send
  split
  · rfl
  · rfl
  · rfl

@[simp] theorem State.final_mound (s : State) (c : Cmd) (status : Nat) (r : List (Nat × Nat)) : (s.final c status r).mound = s.mound := by
  rw [State.final_only]

@[simp] theorem State.final_keyTag (s : State) (c : Cmd) (status : Nat) (r : List (Nat × Nat)) : (s.final c status r).keyTag = s.keyTag := by
  rw [State.final_only]

/-- The completion of a command from a host link leaves the host side. -/
theorem State.final_host_of_link {l q n m : Nat} (h : c.src = .host l q n m) (s : State) (status : Nat) (r : List (Nat × Nat)) :
    (s.final c status r).host = s.host := by
  unfold State.final State.send
  rw [h]
  rfl

@[simp] theorem State.final_group (s : State) (c : Cmd) (status : Nat) (r : List (Nat × Nat)) (g : Nat) :
    (s.final c status r).group g = s.group g := by
  rw [State.group, State.final_groups, ← State.group]

/-- Commands that end together leave the groups. -/
theorem State.foldl_final_groups {α : Type} (cmd : α → Cmd) (status : Nat) (l : List α) (s : State) :
    (l.foldl (fun a x => a.final (cmd x) status) s).groups = s.groups := foldl_keeps State.groups _ (fun a _ => a.final_groups _ _ _) l s

theorem State.foldl_final_mem {α : Type} (cmd : α → Cmd) (status : Nat) (l : List α) (s : State) :
    (l.foldl (fun a x => a.final (cmd x) status) s).mem = s.mem := foldl_keeps State.mem _ (fun a _ => a.final_mem _ _ _) l s

/-- An event leaves the groups. -/
theorem State.raise_groups (s : State) (code : Nat) (fields : List (Nat × Nat × Nat)) : (s.raise code fields).groups = s.groups := by
  have hput (f : Hub → Hub) : (s.forEach s.fit.sledList fun st k => st.updHub k f).groups = s.groups := by
    rw [State.forEach_updHub_onlyHubs]
  unfold State.raise
  dsimp only
  split
  · rw [State.updHost_groups, hput]
  · rw [State.arrive_onlyScb]; exact hput _

/-! ## Tier writes -/

/-- The machine beside its tiers: without the workers' records, the memory and the key tags. -/
def State.besideTiers (s : State) : State := { s with workers := Tab.empty, mem := [], keyTag := Tab.empty }

theorem State.writeLine_besideTiers (s : State) (line : Nat) (bytes : List Byte) : (s.writeLine line bytes).besideTiers = s.besideTiers := by
  unfold State.writeLine
  dsimp only
  split <;> rfl

theorem State.tierWrite_besideTiers (s : State) (a : Nat) (bytes : List Byte) : (s.tierWrite a bytes).besideTiers = s.besideTiers := by
  unfold State.tierWrite
  split
  · rfl
  · exact foldl_keeps State.besideTiers _ (fun st _ => st.writeLine_besideTiers _ _) _ s

theorem State.mound_of_besideTiers {t : State} (h : t.besideTiers = s.besideTiers) : t.mound = s.mound :=
  (congrArg State.mound h : t.besideTiers.mound = s.besideTiers.mound)

theorem State.hubs_of_besideTiers {t : State} (h : t.besideTiers = s.besideTiers) : t.hubs = s.hubs :=
  (congrArg State.hubs h : t.besideTiers.hubs = s.besideTiers.hubs)

theorem State.groups_of_besideTiers {t : State} (h : t.besideTiers = s.besideTiers) : t.groups = s.groups :=
  (congrArg State.groups h : t.besideTiers.groups = s.besideTiers.groups)

end Sys2Proof.Machine
end

section
/-! SUPPORT. Jobs that are scheduled and jobs that end (R344, R345, R358). -/

namespace Sys2Proof.Machine

variable {s : State} {f g k reason : Nat} {j : Job}

/-! ## Scheduling -/

theorem State.scheduleJob_onlyGroups (s : State) (g : Nat) : s.scheduleJob g = { s with groups := (s.scheduleJob g).groups } := by
  unfold State.scheduleJob
  dsimp only
  split <;> rfl

theorem State.scheduleJob_group_ne (s : State) (hne : f ≠ g) : (s.scheduleJob g).group f = s.group f := by
  unfold State.scheduleJob
  dsimp only
  split
  · exact State.updGroup_group_ne _ _ hne
  · rfl

/-- A group that runs no job may take its first queued one, whose J0 is fixed then; else it stays as it is (R344). -/
theorem State.scheduleJob_group (s : State) (g : Nat) : (s.scheduleJob g).group g = s.group g ∨
    ∃ j rest n, (s.group g).queue = j :: rest ∧
      (s.scheduleJob g).group g = { s.group g with queue := rest, running := some { j with j0 := some n, stepAt := n } } := by
  unfold State.scheduleJob
  dsimp only
  split
  next j rest _ hqueue =>
    split at hqueue
    · exact .inr ⟨j, rest, _, hqueue, State.updGroup_group_self _ _ _⟩
    · cases hqueue
  next => exact .inl rfl

/-- A queued job stays queued or becomes the running one. -/
theorem State.scheduleJob_keeps (h : j ∈ (s.group g).queue) :
    ∃ x, (x ∈ ((s.scheduleJob g).group g).queue ∨ ((s.scheduleJob g).group g).running = some x) ∧
      ∃ n m, x = { j with j0 := n, stepAt := m } := by
  rcases s.scheduleJob_group g with hsame | ⟨q, rest, n, hqueue, htakes⟩
  · exact ⟨j, .inl (hsame ▸ h), j.j0, j.stepAt, rfl⟩
  · rw [hqueue] at h
    rw [htakes]
    rcases List.mem_cons.mp h with rfl | hrest
    · exact ⟨_, .inr rfl, _, _, rfl⟩
    · exact ⟨j, .inl hrest, j.j0, j.stepAt, rfl⟩

/-! ## The end of a job -/

/-- A group whose job is over. -/
def Group.over (y : Group) : Group :=
  { y with
    running := none, stopped := false, stopSent := false, sledsStopped := [], reason := 0, lostWorker := none
    restoring := none, restored := false, jr := none, resumeStride := 0, aborting := none, abortReason := 0 }

theorem State.forEach_syncPins_onlyWorkers (ws : List Nat) (s : State) :
    s.forEach ws State.syncPins = { s with workers := (s.forEach ws State.syncPins).workers } := by
  induction ws generalizing s with
  | nil => rfl
  | cons w ws ih => exact (ih (s.syncPins w)).trans rfl

theorem State.endJob_running (h : (s.group g).running = some j) : s.endJob g =
    ((s.updGroup g Group.over).forEach ((s.participants g).filter fun w => j.begun.contains (sledOf w)) State.syncPins).scheduleJob g := by
  unfold State.endJob
  rw [h]
  rfl

theorem State.endJob_only (s : State) (g : Nat) : s.endJob g = { s with groups := (s.endJob g).groups, workers := (s.endJob g).workers } := by
  cases h : (s.group g).running with
  | none => unfold State.endJob; rw [h]
  | some j => rw [State.endJob_running h, State.scheduleJob_onlyGroups, State.forEach_syncPins_onlyWorkers]; rfl

theorem State.endJob_hub (s : State) (g k : Nat) : (s.endJob g).hub k = s.hub k := by rw [State.endJob_only]; rfl

/-- A group whose job ends runs none, or the one that stood first in its queue. -/
theorem State.endJob_next (s : State) (g : Nat) {x : Job} (hx : ((s.endJob g).group g).running = some x) :
    ∃ q ∈ (s.group g).queue, x.handle = q.handle ∧ x.cmd = q.cmd := by
  cases h : (s.group g).running with
  | none => rw [State.endJob, h] at hx; cases h.symm.trans hx
  | some j =>
    rw [State.endJob_running h] at hx
    have hover (ws : List Nat) : ((s.updGroup g Group.over).forEach ws State.syncPins).group g = (s.group g).over := by
      rw [State.forEach_syncPins_onlyWorkers]; exact State.updGroup_group_self _ _ _
    rcases State.scheduleJob_group ((s.updGroup g Group.over).forEach _ State.syncPins) g with hsame | ⟨q, rest, n, hqueue, htakes⟩
    · rw [hsame, hover] at hx; cases hx
    · rw [htakes] at hx
      rw [hover] at hqueue
      cases hx
      exact ⟨q, hqueue ▸ List.mem_cons_self, rfl, rfl⟩

/-- A job that is lost raises EV_JOB_LOST, and its command ends with 49h (R358). -/
theorem State.loseJob_running (h : (s.group g).running = some j) (reason : Nat) :
    ∃ fields, s.loseJob g reason = ((s.raise 0x0004 fields).final j.cmd stAborted).endJob g := by
  unfold State.loseJob
  rw [h]
  exact ⟨_, rfl⟩

end Sys2Proof.Machine
end

section
/-! SUPPORT. JOB_START (R343), a job's first step on a sled (R193, R344) and its end (R345). -/

namespace Sys2Proof.Machine

variable {s : State} {c : Cmd} {b : List Byte} {g k : Nat} {j : Job}

/-! ## The command -/

/-- JOB_START where its record and the state are in order. -/
def State.startJob (s : State) (c : Cmd) (b : List Byte) : State :=
  if s.draining then s.updImg fun i => { i with waitJobs := i.waitJobs ++ [c] }
  else match firstFail (s.jobChecks b) with
    | some code => s.final c code
    | none => s.acceptJob c b

theorem exec_jobStart (hc : IsCmd c 0x50) (hdata : c.data = some b) (hmode : s.mgr.mode = .loaded ∨ s.mgr.mode = .running) :
    exec (.jobStart c) s = .next (s.startJob c b) := by
  have hstate : s.mgr.mode.deaf = false ∧ [MState.loaded, .running, .doze].contains s.mgr.mode = true := by
    rcases hmode with h | h <;> rw [h] <;> decide
  obtain ⟨hdeaf, hok⟩ := hstate
  have heff : s.jobStart c = s.startJob c b := by
    rw [State.jobStart, State.decideCmd_eff_of_ranges _ hc rfl (by rw [hdata]; rfl) hdeaf hok (List.forall_mem_nil _), hdata]
    rfl
  exact congrArg Host.Outcome.next heff

/-- The job queued under the next handle, and its group's next job scheduled (R343, R344). -/
def State.queueJob (s : State) (c : Cmd) (b : List Byte) : State :=
  let d := JobDesc.ofBytes b
  let s1 := (s.updHost fun x => { x with nextHandle := (s.host.nextHandle + 1) % 0xFFFF }).wakeByJob
  (s1.updGroup d.group fun x => { x with queue := x.queue ++ [d.job c s.host.nextHandle s.mgr.frame] }).scheduleJob d.group

/-- An accepted job is queued; its interim completion may draw a free value. -/
theorem State.acceptJob_interim (s : State) (c : Cmd) (b : List Byte) :
    ∃ mgr r, s.acceptJob c b = ({ s.queueJob c b with mgr := mgr } : State).interim c r := by
  unfold State.acceptJob
  dsimp only
  split
  · split
    · exact ⟨(s.queueJob c b).mgr, _, rfl⟩
    · exact ⟨_, _, rfl⟩
  · exact ⟨_, _, rfl⟩

theorem State.wakeByJob_onlyMgr (s : State) : s.wakeByJob = { s with mgr := s.wakeByJob.mgr } := by
  unfold State.wakeByJob
  split <;> rfl

/-- The machine as the job has been queued, before its group's next job is scheduled. -/
theorem State.queueJob_eq (s : State) (c : Cmd) (b : List Byte) : ∃ u : State,
    s.queueJob c b = u.scheduleJob (JobDesc.ofBytes b).group ∧ u.host.nextHandle = (s.host.nextHandle + 1) % 0xFFFF ∧ u.workers = s.workers ∧
      (JobDesc.ofBytes b).job c s.host.nextHandle s.mgr.frame ∈ (u.group (JobDesc.ofBytes b).group).queue ∧
      ∀ f, f ≠ (JobDesc.ofBytes b).group → u.group f = s.group f := by
  refine ⟨_, rfl, ?_, ?_, ?_, fun f hf => ?_⟩
  · rw [State.wakeByJob_onlyMgr]; rfl
  · rw [State.wakeByJob_onlyMgr]; rfl
  · rw [State.updGroup_group_self]; exact List.mem_append_right _ (List.mem_singleton_self _)
  · rw [State.updGroup_group_ne _ _ hf, State.wakeByJob_onlyMgr]; rfl

theorem completes_jobStart_waits (hc : IsCmd c 0x50) (hdata : c.data = some b) (hmode : s.mgr.mode = .loaded ∨ s.mgr.mode = .running)
    (hdrain : s.draining = true) : Completes (.jobStart c) s fun t => t = { s with img := { s.img with waitJobs := s.img.waitJobs ++ [c] } } :=
  ⟨_, exec_jobStart hc hdata hmode, if_pos hdrain⟩

theorem completes_jobStart_refused {code : Nat} (hc : IsCmd c 0x50) (hdata : c.data = some b)
    (hmode : s.mgr.mode = .loaded ∨ s.mgr.mode = .running) (hdrain : s.draining = false) (hfail : firstFail (s.jobChecks b) = some code) :
    Completes (.jobStart c) s fun t => t = s.final c code := by
  refine ⟨_, exec_jobStart hc hdata hmode, ?_⟩
  rw [State.startJob, if_neg (by simp [hdrain]), hfail]

theorem completes_jobStart_accepted (hc : IsCmd c 0x50) (hdata : c.data = some b) (hmode : s.mgr.mode = .loaded ∨ s.mgr.mode = .running)
    (hdrain : s.draining = false) (hpass : firstFail (s.jobChecks b) = none) : Completes (.jobStart c) s fun t =>
      t.host.nextHandle = (s.host.nextHandle + 1) % 0xFFFF ∧
      (∃ x, (x ∈ (t.group (JobDesc.ofBytes b).group).queue ∨ (t.group (JobDesc.ofBytes b).group).running = some x) ∧
        x.handle = s.host.nextHandle ∧ x.cmd = c ∧ x.steps = (JobDesc.ofBytes b).steps ∧ x.mound = (JobDesc.ofBytes b).mound ∧
        x.args = (JobDesc.ofBytes b).args) ∧
      (∀ f, f ≠ (JobDesc.ofBytes b).group → t.group f = s.group f) ∧ t.mem = s.mem ∧ t.workers = s.workers := by
  have haccept : s.startJob c b = s.acceptJob c b := by rw [State.startJob, if_neg (by simp [hdrain]), hpass]
  refine ⟨_, haccept ▸ exec_jobStart hc hdata hmode, ?_⟩
  obtain ⟨mgr, r, hinterim⟩ := s.acceptJob_interim c b
  obtain ⟨u, hu, hnext, hworkers, hqueued, hothers⟩ := s.queueJob_eq c b
  have hgroup (f : Nat) : (s.acceptJob c b).group f = (u.scheduleJob (JobDesc.ofBytes b).group).group f := by
    rw [hinterim, hu, State.group, State.interim_groups]; rfl
  refine ⟨?_, ?_, fun f hf => ?_, s.acceptJob_mem c b, ?_⟩
  · rw [hinterim, hu, State.interim_nextHandle, State.scheduleJob_onlyGroups]; exact hnext
  · obtain ⟨x, hx, n, m, rfl⟩ := State.scheduleJob_keeps hqueued
    exact ⟨_, by rw [hgroup]; exact hx, rfl, rfl, rfl, rfl, rfl⟩
  · rw [hgroup, State.scheduleJob_group_ne _ hf, hothers f hf]
  · rw [hinterim, hu, State.interim_workers, State.scheduleJob_onlyGroups]; exact hworkers

/-! ## The first step -/

/-- What a job is known by, and where it has begun. -/
def Job.course (j : Job) : List Nat × Nat × Nat := (j.begun, j.handle, j.stepAt)

/-- The host side, the hubs, the memory, and the course of a group's running job. -/
def State.courseView (g : Nat) (s : State) : HostSide × Tab Hub × List Host.Cell × Option (List Nat × Nat × Nat) :=
  (s.host, s.hubs, s.mem, (s.group g).running.map Job.course)

theorem State.updWorker_courseView (s : State) (w : Nat) (f : Worker → Worker) : (s.updWorker w f).courseView g = s.courseView g := rfl

theorem State.updMgr_courseView (s : State) (f : Mgr → Mgr) : (s.updMgr f).courseView g = s.courseView g := rfl

theorem State.updGroup_courseView {f : Group → Group} (hf : ∀ x, (f x).running.map Job.course = x.running.map Job.course) (s : State) (h : Nat) :
    (s.updGroup h f).courseView g = s.courseView g := by
  have hrun : ((s.updGroup h f).group g).running.map Job.course = (s.group g).running.map Job.course := by
    rw [State.updGroup_group]
    split
    next e => rw [e, hf]
    next => rfl
  simp only [State.courseView, hrun, State.updGroup_host, State.updGroup_hubs, State.updGroup_mem]

theorem State.startCore_courseView (s : State) (d : BindDef) (h : Nat) (j : Job) (w : Nat) : (s.startCore d h j w).courseView g = s.courseView g := by
  unfold State.startCore
  split
  · rfl
  · dsimp only
    refine (State.updWorker_courseView _ _ _).trans ?_
    split
    · exact (State.updWorker_courseView _ _ _).trans (s.updMgr_courseView _)
    · rfl

theorem State.noteStep_courseView (s : State) (k : Nat) : (s.noteStep k).courseView g = s.courseView g := by
  refine foldl_keeps (State.courseView g) _ (fun st h => ?_) _ s
  split
  · rfl
  · refine (foldl_keeps (State.courseView g) _ (fun a w => a.updWorker_courseView w _) _ _).trans (State.updGroup_courseView (fun x => ?_) st h)
    cases x.running <;> rfl

/-- The bindings of a group in the active image. -/
def State.groupBinds (s : State) (g : Nat) : List BindDef :=
  match s.img.active with | some i => i.binds.filter (fun (b : BindDef) => b.gid == g) | none => []

/-- A job's first step on a sled: its pins are applied, its cores start, and the step is noted (R193, R344). -/
def State.beginJob (s : State) (g k : Nat) (j : Job) : State :=
  let s1 := s.updGroup g fun x => { x with running := x.running.map fun y => { y with begun := y.begun ++ [k] } }
  let s2 := s1.forEach ((s.participants g).filter fun w => sledOf w == k) State.syncPins
  let s3 := (s2.groupBinds g).foldl (init := s2) fun st b =>
    if sledOf (st.actorOf b.w) = k ∧ st.workerUp (st.actorOf b.w) then st.startCore b g j (st.actorOf b.w) else st
  s3.noteStep k

theorem exec_jobFirstStep (hrun : (s.group g).running = some j) (hstart : (s.hub k).started = true) (hslip : (s.hub k).isSlip = false)
    (hstep : (s.hub k).step = j.stepAt) (hsled : k ∈ s.groupSleds g) (hnew : k ∉ j.begun) (hgoes : k ∉ (s.group g).sledsStopped)
    (habort : (s.group g).abortReason = 0) (hmound : s.moundStill g j.mound = true) :
    exec (.jobFirstStep g k) s = .next (s.beginJob g k j) := by
  show execJobFirstStep g k s = _
  unfold execJobFirstStep
  rw [hrun]
  dsimp only
  rw [if_pos (by simp [hstart, hslip, hstep, hsled, hnew, hgoes, habort]), if_neg (by simp [hmound])]
  rfl

theorem State.beginJob_courseView (s : State) (g k : Nat) (j : Job) : (s.beginJob g k j).courseView g =
    (s.updGroup g fun x => { x with running := x.running.map fun y => { y with begun := y.begun ++ [k] } }).courseView g := by
  unfold State.beginJob
  dsimp only
  rw [State.noteStep_courseView]
  refine (foldl_keeps (State.courseView g) _ (fun st b => ?_) _ _).trans
    (foldl_keeps (State.courseView g) State.syncPins (fun st w => st.updWorker_courseView w _) _ _)
  split
  · exact st.startCore_courseView _ _ _ _
  · rfl

theorem completes_jobFirstStep (hrun : (s.group g).running = some j) (hstart : (s.hub k).started = true) (hslip : (s.hub k).isSlip = false)
    (hstep : (s.hub k).step = j.stepAt) (hsled : k ∈ s.groupSleds g) (hnew : k ∉ j.begun) (hgoes : k ∉ (s.group g).sledsStopped)
    (habort : (s.group g).abortReason = 0) (hmound : s.moundStill g j.mound = true) : Completes (.jobFirstStep g k) s fun t =>
      (∃ y, (t.group g).running = some y ∧ y.begun = j.begun ++ [k] ∧ y.handle = j.handle ∧ y.stepAt = j.stepAt) ∧
      t.host = s.host ∧ t.hubs = s.hubs ∧ t.mem = s.mem := by
  refine ⟨_, exec_jobFirstStep hrun hstart hslip hstep hsled hnew hgoes habort hmound, ?_⟩
  have hview := s.beginJob_courseView g k j
  simp only [State.courseView, Prod.mk.injEq, State.updGroup_host, State.updGroup_hubs, State.updGroup_mem, State.updGroup_group_self, hrun,
    Option.map_some] at hview
  obtain ⟨hhost, hhubs, hmem, hcourse⟩ := hview
  obtain ⟨y, hy, hcourse⟩ := Option.map_eq_some_iff.mp hcourse
  obtain ⟨hbegun, hhandle, hat⟩ : y.begun = j.begun ++ [k] ∧ y.handle = j.handle ∧ y.stepAt = j.stepAt := by simpa [Job.course] using hcourse
  exact ⟨⟨y, hy, hbegun, hhandle, hat⟩, hhost, hhubs, hmem⟩

/-! ## The end -/

theorem exec_jobEnd (hrun : (s.group g).running = some j) (hran : j.steps ≤ j.ran)
    (hdone : ∀ w ∈ s.participants g, (j.stepAt + j.steps) / s.strideOf g ≤ (s.group g).done.get 0 w) :
    exec (.jobEnd g) s = .next ((s.final j.cmd stOk [(4, j.steps), (2, j.total)]).endJob g) := by
  show execJobEnd g s = _
  unfold execJobEnd
  rw [hrun]
  exact if_pos (by simpa [hran] using hdone)

theorem completes_jobEnd (hrun : (s.group g).running = some j) (hran : j.steps ≤ j.ran)
    (hdone : ∀ w ∈ s.participants g, (j.stepAt + j.steps) / s.strideOf g ≤ (s.group g).done.get 0 w) : Completes (.jobEnd g) s fun t =>
      (∀ x, (t.group g).running = some x → ∃ q ∈ (s.group g).queue, x.handle = q.handle ∧ x.cmd = q.cmd) ∧
      (∀ l q n m, j.cmd.src = .host l q n m → ∃ y ∈ (t.hub l).cpls, y.cmd = j.cmd ∧ y.interim = false ∧ y.status = 0 ∧
        y.result = [(4, j.steps), (2, j.total)]) ∧ t.mem = s.mem := by
  refine ⟨_, exec_jobEnd hrun hran hdone, fun x hx => ?_, fun l q n m hsrc => ?_, ?_⟩
  · simpa using State.endJob_next _ g hx
  · rw [State.endJob_hub, s.final_host j.cmd stOk _ l q n m hsrc]
    exact ⟨_, List.mem_append_right _ (List.mem_singleton_self _), rfl, rfl, rfl, rfl⟩
  · rw [State.endJob_mem, State.final_mem]

end Sys2Proof.Machine
end

section
/-! SUPPORT. JOB_ABORT (R345): a running job stops, a queued one is taken out. -/

namespace Sys2Proof.Machine

variable {s t : State} {c : Cmd} {g h : Nat}

/-- The participants of a group follow from the active image and from who plays which role. -/
theorem State.participants_congr (himg : t.img = s.img) (hrole : ∀ k, (t.hub k).inRole = (s.hub k).inRole) (g : Nat) :
    t.participants g = s.participants g := by
  have hactor : t.actorOf = s.actorOf := funext fun w => by rw [State.actorOf, State.actorOf, hrole]
  rw [State.participants, State.participants, himg, hactor]

theorem State.abortGroup_hub_inRole (s : State) (g reason k : Nat) : ((s.abortGroup g reason).hub k).inRole = (s.hub k).inRole := by
  unfold State.abortGroup
  split
  · obtain ⟨l, hl⟩ := State.stopGroup_hub (s.updGroup g fun x => { x with abortReason := reason }) g 6 k
    rw [hl]; rfl
  · rfl

/-- Not every sled of a group has stopped because its job is to be aborted. -/
theorem State.abortGroup_allStopped (hrun : s.groupRuns g = true) (reason : Nat) : (s.abortGroup g reason).allStopped g = s.allStopped g := by
  have hsleds : (s.abortGroup g reason).groupSleds g = s.groupSleds g := by
    rw [State.groupSleds, State.groupSleds,
      State.participants_congr (by rw [State.abortGroup_only]) (s.abortGroup_hub_inRole g reason)]
  rw [State.allStopped, State.allStopped, hsleds, State.abortGroup_group_self hrun]
  rfl

theorem State.finishAbort_of_going (h : s.allStopped g = false) : s.finishAbort g = s := by
  unfold State.finishAbort
  exact if_neg fun hc => by simp [h] at hc

theorem State.finishAbort_of_free (h : (s.group g).abortReason = 0) : s.finishAbort g = s := by
  unfold State.finishAbort
  exact if_neg fun hc => hc.1 h

theorem State.groupOfHandle_runs {n : Nat} (h : s.groupOfHandle n = some g) : s.groupRuns g = true :=
  State.groupRuns_of_mem (List.mem_of_find?_eq_some h)

/-- JOB_ABORT where its record and the state are in order. -/
def State.abortJob (s : State) (c : Cmd) : State :=
  match s.groupOfHandle c.id, s.queueOfHandle c.id with
  | some g, _ =>
    if (s.group g).abortReason ≠ 0 then s.final c stBusy
    else ((s.updGroup g fun x => { x with aborting := some c }).abortGroup g 255).finishAbort g
  | none, some g =>
    (((s.group g).queue.filter fun j => j.handle == c.id).foldl (fun a j => a.final j.cmd stCancelled)
      (s.updGroup g fun x => { x with queue := x.queue.filter fun j => j.handle != c.id })).final c stOk
  | none, none => s.final c stBadCommand

theorem exec_jobAbort (hc : IsCmd c 0x51)
    (hmode : s.mgr.mode = .quiescent ∨ s.mgr.mode = .loaded ∨ s.mgr.mode = .running ∨ s.mgr.mode = .passage) :
    exec (.jobAbort c) s = .next (s.abortJob c) := by
  have hstate : s.mgr.mode.deaf = false ∧ [MState.quiescent, .loaded, .running, .passage, .service].contains s.mgr.mode = true := by
    rcases hmode with h | h | h | h <;> rw [h] <;> decide
  obtain ⟨hdeaf, hok⟩ := hstate
  have heff : s.jobAbort c = s.abortJob c := by
    rw [State.jobAbort, State.decideCmd_eff _ hc hdeaf hok (List.forall_mem_nil _)]
    rfl
  exact congrArg Host.Outcome.next heff

theorem completes_jobAbort_running (hc : IsCmd c 0x51)
    (hmode : s.mgr.mode = .quiescent ∨ s.mgr.mode = .loaded ∨ s.mgr.mode = .running ∨ s.mgr.mode = .passage)
    (hhandle : s.groupOfHandle c.id = some h) (hfree : (s.group h).abortReason = 0) (hgoing : s.allStopped h = false) :
    Completes (.jobAbort c) s fun t =>
      (t.group h).abortReason = 255 ∧ (t.group h).stopped = true ∧ (t.group h).running = (s.group h).running ∧ t.mem = s.mem := by
  have hruns : (s.updGroup h fun x => { x with aborting := some c }).groupRuns h = true := by
    rw [State.groupRuns_congr (s := s) (by rw [State.updGroup_group_self])]
    exact State.groupOfHandle_runs hhandle
  have hstill : (s.updGroup h fun x => { x with aborting := some c }).allStopped h = false := by
    rw [← hgoing, State.allStopped, State.allStopped, State.updGroup_group_self]; rfl
  have habort : s.abortJob c = (s.updGroup h fun x => { x with aborting := some c }).abortGroup h 255 := by
    unfold State.abortJob
    simp only [hhandle]
    rw [if_neg (by simp [hfree]), State.finishAbort_of_going (by rw [State.abortGroup_allStopped hruns, hstill])]
  refine ⟨_, habort ▸ exec_jobAbort hc hmode, ?_, ?_, ?_, ?_⟩
  · rw [State.abortGroup_group_self hruns]; rfl
  · rw [State.abortGroup_group_self hruns]; rfl
  · rw [State.abortGroup_group_self hruns, State.updGroup_group_self]; rfl
  · rw [State.abortGroup_mem, State.updGroup_mem]

theorem completes_jobAbort_queued (hc : IsCmd c 0x51)
    (hmode : s.mgr.mode = .quiescent ∨ s.mgr.mode = .loaded ∨ s.mgr.mode = .running ∨ s.mgr.mode = .passage)
    (hrunning : s.groupOfHandle c.id = none) (hhandle : s.queueOfHandle c.id = some h) : Completes (.jobAbort c) s fun t =>
      (t.group h).queue = (s.group h).queue.filter (fun x => x.handle != c.id) ∧ (t.group h).running = (s.group h).running ∧
      t.mem = s.mem := by
  have habort : s.abortJob c =
      (((s.group h).queue.filter fun j => j.handle == c.id).foldl (fun a j => a.final j.cmd stCancelled)
        (s.updGroup h fun x => { x with queue := x.queue.filter fun j => j.handle != c.id })).final c stOk := by
    unfold State.abortJob
    simp only [hrunning, hhandle]
  have hgroup : (s.abortJob c).group h = { s.group h with queue := (s.group h).queue.filter fun j => j.handle != c.id } := by
    rw [habort, State.final_group, State.group, State.foldl_final_groups Job.cmd, ← State.group, State.updGroup_group_self]
  refine ⟨_, exec_jobAbort hc hmode, ?_, ?_, ?_⟩
  · rw [hgroup]
  · rw [hgroup]
  · rw [habort, State.final_mem, State.foldl_final_mem Job.cmd, State.updGroup_mem]

theorem completes_jobAbort_unknown (hc : IsCmd c 0x51)
    (hmode : s.mgr.mode = .quiescent ∨ s.mgr.mode = .loaded ∨ s.mgr.mode = .running ∨ s.mgr.mode = .passage)
    (hrunning : s.groupOfHandle c.id = none) (hqueued : s.queueOfHandle c.id = none) :
    Completes (.jobAbort c) s fun t => t = s.final c 0x40 := by
  refine ⟨_, exec_jobAbort hc hmode, ?_⟩
  unfold State.abortJob
  simp only [hrunning, hqueued]
  rfl

end Sys2Proof.Machine
end

section
/-! SUPPORT. Owner data brought in and taken out (R346). -/

namespace Sys2Proof.Machine

variable {s : State} {c : Cmd} {b : List Byte} {tag : Nat} {z : Transfer}

theorem MState.dataStates_heard {m : MState} (h : m = .loaded ∨ m = .running) :
    m.deaf = false ∧ [MState.loaded, .running].contains m = true := by
  rcases h with h | h <;> rw [h] <;> decide

theorem completes_dataImport (hmode : s.mgr.mode = .loaded ∨ s.mgr.mode = .running) (hranges : s.transferRanges c = true)
    (howned : s.transferOwned c = true) (hc : IsCmd c 0x58) (hdata : c.data = some b) (hsize : b.length = c.len / 4096 * 4112) :
    Completes (.dataImport c) s fun t =>
      t = { s.interim c with mound := { s.mound with transfers := s.mound.transfers ++ [{ cmd := c, import_ := true, count := 0 }] } } := by
  obtain ⟨hdeaf, hok⟩ := MState.dataStates_heard hmode
  refine ⟨s.dataImport c, rfl, ?_⟩
  rw [State.dataImport, State.decideCmd_eff_of_ranges _ hc hranges (by rw [hdata]; simpa using hsize) hdeaf hok (by simp [howned]),
    State.updMound, State.interim_mound]

theorem completes_dataExport (hmode : s.mgr.mode = .loaded ∨ s.mgr.mode = .running) (hranges : s.transferRanges c = true)
    (howned : s.transferOwned c = true) (hc : IsCmd c 0x59) (hfits : ∀ cl q, c.src = .mgmt cl q → c.len / 4096 * 4112 ≤ 8192) :
    Completes (.dataExport c) s fun t =>
      let n := s.owners.exports.get 0 c.unit
      t.mound = { s.mound with transfers := s.mound.transfers ++ [{ cmd := c, import_ := false, count := n }] } ∧
      t.owners.exports.get 0 c.unit = n + 1 ∧ (∀ o, o ≠ c.unit → t.owners.exports.get 0 o = s.owners.exports.get 0 o) ∧
      t = { s.interim c with mound := t.mound, owners := { s.owners with exports := t.owners.exports } } := by
  obtain ⟨hdeaf, hok⟩ := MState.dataStates_heard hmode
  refine ⟨s.dataExport c, rfl, ?_⟩
  rw [State.dataExport, State.decideCmd_eff_of_ranges _ hc ?_ rfl hdeaf hok (by simp [howned])]
  · refine ⟨?_, ?_, fun o ho => ?_, ?_⟩
    · simp
    · simp
    · simp [ho]
    · rw [State.updMound, State.updOwners, State.interim_owners]
  · rw [Bool.and_eq_true]
    refine ⟨hranges, ?_⟩
    split
    next cl q hsrc => simpa using hfits cl q hsrc
    next => rfl

/-! ## The end of a transfer -/

/-- The machine without a transfer that is over. -/
def State.dropTransfer (s : State) (z : Transfer) : State := s.updMound fun m => { m with transfers := m.transfers.filter fun u => u != z }

theorem State.dropTransfer_gone (s : State) (z : Transfer) : z ∉ (s.dropTransfer z).mound.transfers := by
  simp [State.dropTransfer]

/-- The states in which transfers go on hear commands. -/
theorem MState.moves_data {m : MState} (h : m ∉ [.off, .bringUp, .doze, .hold]) : ¬(m.deaf = true ∨ m = .doze ∨ m = .hold) := by
  cases m <;> simp [MState.deaf] at h ⊢

theorem exec_dataTransferEnd (hfind : s.mound.transfers.find? (fun u => u.cmd.tag == tag) = some z)
    (hmode : s.mgr.mode ∉ [.off, .bringUp, .doze, .hold]) : exec (.dataTransferEnd tag) s = .next (s.endTransfer z) := by
  show execDataTransferEnd tag s = _
  unfold execDataTransferEnd
  rw [hfind]
  exact if_neg (MState.moves_data hmode)

theorem completes_dataTransferEnd_forged (hfind : s.mound.transfers.find? (fun u => u.cmd.tag == tag) = some z)
    (hmode : s.mgr.mode ∉ [.off, .bringUp, .doze, .hold]) (himport : z.import_ = true) (hforged : ∃ p ∈ s.openPages z.cmd, p.2 = none) :
    Completes (.dataTransferEnd tag) s fun t =>
      t = ({ s with mound := { s.mound with transfers := s.mound.transfers.filter fun u => u != z } } : State).final z.cmd 0x4B := by
  refine ⟨_, exec_dataTransferEnd hfind hmode, ?_⟩
  unfold State.endTransfer
  dsimp only
  rw [if_pos himport, if_pos (by simpa using hforged)]
  rfl

/-- Writes to the tiers do not look at the transfers. -/
theorem State.writeLine_dropTransfer (s : State) (z : Transfer) (line : Nat) (bytes : List Byte) :
    (s.dropTransfer z).writeLine line bytes = (s.writeLine line bytes).dropTransfer z := by
  show (if s.keyAt (line * 64) = 0 then _ else _) = State.dropTransfer (if s.keyAt (line * 64) = 0 then _ else _) z
  split <;> rfl

theorem State.tierWrite_dropTransfer (s : State) (z : Transfer) (a : Nat) (bytes : List Byte) :
    (s.dropTransfer z).tierWrite a bytes = (s.tierWrite a bytes).dropTransfer z := by
  unfold State.tierWrite
  split
  · rfl
  · exact List.foldl_hom (State.dropTransfer · z) fun st i => st.writeLine_dropTransfer z _ _

/-- The pages of an import written to the tiers. -/
def State.writePages (s : State) (ps : List (Nat × Option (List Byte))) : State := ps.foldl (fun u p => u.tierWrite p.1 (p.2.getD [])) s

theorem State.writePages_dropTransfer (s : State) (z : Transfer) (ps : List (Nat × Option (List Byte))) :
    (s.dropTransfer z).writePages ps = (s.writePages ps).dropTransfer z :=
  List.foldl_hom (State.dropTransfer · z) fun st _ => st.tierWrite_dropTransfer z _ _

theorem State.writePages_besideTiers (s : State) (ps : List (Nat × Option (List Byte))) : (s.writePages ps).besideTiers = s.besideTiers :=
  foldl_keeps State.besideTiers _ (fun st _ => st.tierWrite_besideTiers _ _) ps s

theorem completes_dataTransferEnd_authentic (hfind : s.mound.transfers.find? (fun u => u.cmd.tag == tag) = some z)
    (hmode : s.mgr.mode ∉ [.off, .bringUp, .doze, .hold]) (himport : z.import_ = true) (hopen : ∀ p ∈ s.openPages z.cmd, p.2.isSome = true) :
    Completes (.dataTransferEnd tag) s fun t =>
      t.mem = ((s.openPages z.cmd).foldl (fun u p => u.tierWrite p.1 (p.2.getD [])) s).mem ∧ z ∉ t.mound.transfers := by
  have hend : s.endTransfer z = ((s.dropTransfer z).writePages (s.openPages z.cmd)).final z.cmd stOk := by
    unfold State.endTransfer
    dsimp only
    rw [if_pos himport, if_neg ?_]
    · rfl
    · simpa using fun a ha => Bool.false_ne_true (hopen (a, none) ha)
  refine ⟨_, hend ▸ exec_dataTransferEnd hfind hmode, ?_, ?_⟩
  · rw [State.final_mem, State.writePages_dropTransfer]; rfl
  · have hmound : ((s.dropTransfer z).writePages (s.openPages z.cmd)).mound = (s.dropTransfer z).mound :=
      State.mound_of_besideTiers (State.writePages_besideTiers _ _)
    rw [State.final_mound, hmound]
    exact s.dropTransfer_gone z

theorem State.giveBack_onlyHost (s : State) (c : Cmd) (a : Nat) (bytes : List Byte) :
    s.giveBack c a bytes = { s with host := (s.giveBack c a bytes).host } := by
  unfold State.giveBack
  split <;> rfl

theorem completes_dataTransferEnd_givesBack (hfind : s.mound.transfers.find? (fun u => u.cmd.tag == tag) = some z)
    (hmode : s.mgr.mode ∉ [.off, .bringUp, .doze, .hold]) (hout : z.import_ = false) (hdata : z.cmd.data.isSome = true) :
    Completes (.dataTransferEnd tag) s fun t =>
      z ∉ t.mound.transfers ∧ t.mem = s.mem ∧ t.keyTag = s.keyTag ∧
      ∀ l q n m, z.cmd.src = .host l q n m → Out.hostWrite l z.cmd.addr (s.sealPages z.cmd z.count) ∈ t.host.out := by
  have hend : s.endTransfer z =
      ((s.dropTransfer z).giveBack z.cmd z.cmd.addr (s.sealPages z.cmd z.count)).final z.cmd stOk [(4, z.count)] := by
    unfold State.endTransfer
    dsimp only
    rw [if_neg (by simp [hout]), if_pos hdata]
    rfl
  refine ⟨_, hend ▸ exec_dataTransferEnd hfind hmode, ?_, ?_, ?_, fun l q n m hsrc => ?_⟩
  · rw [State.final_mound, State.giveBack_onlyHost]; exact s.dropTransfer_gone z
  · rw [State.final_mem, State.giveBack_mem]; rfl
  · rw [State.final_keyTag, State.giveBack_onlyHost]; rfl
  · rw [State.final_host_of_link hsrc, State.giveBack, hsrc]
    exact List.mem_append_right _ (List.mem_singleton_self _)

end Sys2Proof.Machine
end

section
/-! SUPPORT. Triggers and STOP (R356): what a sled that sees a trigger notes, and what the manager sends. -/

namespace Sys2Proof.Machine

variable {s : State} {g k w reason : Nat} {j : Job}

theorem State.groupRuns_of_running (h : (s.group g).running = some j) : s.groupRuns g = true := by rw [State.groupRuns, h]; rfl

/-- A group as a sled that sees a trigger stops it. -/
def Group.trigger (x : Group) (sled reason : Nat) : Group :=
  { x with
    jr := none
    sledsStopped := if x.sledsStopped.contains sled then x.sledsStopped else x.sledsStopped ++ [sled]
    reason := if x.stopped || !x.sledsStopped.isEmpty then x.reason else reason }

theorem State.localTrigger_running (h : s.groupRuns g = true) (sled reason : Nat) :
    s.localTrigger sled g reason = s.updGroup g fun x => x.trigger sled reason := if_pos h

/-- A sled added to those on which a group has stopped is one of them. -/
theorem mem_addOnce (k : Nat) (l : List Nat) : k ∈ if l.contains k then l else l ++ [k] := by
  split
  next h => exact List.contains_iff_mem.mp h
  next => exact List.mem_append_right _ (List.mem_singleton_self k)

theorem Group.trigger_stops (x : Group) (sled reason : Nat) : sled ∈ (x.trigger sled reason).sledsStopped := mem_addOnce sled _

/-- The reason of a group's first trigger stands, whatever the manager's stop would note (R356). -/
theorem Group.halt_trigger_reason {x : Group} (hfree : x.stopped = false) (hnone : x.sledsStopped = []) (sled reason n : Nat) :
    ((x.trigger sled reason).halt n).reason = reason := by
  simp [Group.trigger, Group.halt, hfree, hnone]

/-- Where the manager has sent no STOP to a group, a stop sends one to each of its sleds. -/
theorem State.stopGroup_sends (hruns : s.groupRuns g = true) (hsent : (s.group g).stopSent = false) (reason : Nat) {k : Nat}
    (hk : k ∈ s.groupSleds g) : Msg.stop g ∈ ((s.stopGroup g reason).hub k).inbox := by
  rw [State.stopGroup_running hruns, if_neg (by simp [hsent])]
  obtain ⟨l, hl, hmem⟩ := State.sendStop_hub (s.updGroup g fun x => x.halt reason) g ((s.updGroup g fun x => x.halt reason).groupSleds g) k
  rw [hl]
  exact List.mem_append_right _ (hmem hk)

theorem exec_stopTriggerReport (hrun : (s.group g).running = some j) (hw : w ∈ s.participants g) :
    exec (.stopTriggerReport w g reason) s = .next ((s.updGroup g fun x => x.trigger (sledOf w) reason).stopGroup g reason) := by
  have hruns := State.groupRuns_of_running hrun
  show execStopTriggerReport w g reason s = _
  unfold execStopTriggerReport
  rw [if_pos (by simp [hw, hruns]), State.localTrigger_running hruns]

theorem completes_stopTriggerReport (hrun : (s.group g).running = some j) (hw : w ∈ s.participants g) :
    Completes (.stopTriggerReport w g reason) s fun t =>
      sledOf w ∈ (t.group g).sledsStopped ∧ (t.group g).stopped = true ∧ (t.group g).running = some j ∧
      ((s.group g).stopped = false → (s.group g).sledsStopped = [] → (t.group g).reason = reason) ∧
      ((s.group g).stopSent = false → ∀ i ∈ s.groupSleds g, Msg.stop g ∈ (t.hub i).inbox) ∧
      t = { s with groups := t.groups, hubs := t.hubs } := by
  refine ⟨_, exec_stopTriggerReport hrun hw, ?_⟩
  generalize hu : (s.updGroup g fun x => x.trigger (sledOf w) reason) = u
  have hgroup : u.group g = (s.group g).trigger (sledOf w) reason := hu ▸ State.updGroup_group_self _ _ _
  have hruns : u.groupRuns g = true := State.groupRuns_of_running (j := j) (hgroup ▸ hrun)
  rw [State.stopGroup_group_self hruns, hgroup]
  refine ⟨(s.group g).trigger_stops (sledOf w) reason, rfl, hrun, fun hfree hnone => Group.halt_trigger_reason hfree hnone _ _ _,
    fun hsent i hi => ?_, ?_⟩
  · exact State.stopGroup_sends hruns (hgroup ▸ hsent) reason (hu ▸ hi)
  · rw [State.stopGroup_only, ← hu]; rfl

theorem exec_stop (hmsg : Msg.stop g ∈ (s.hub k).inbox) (hfree : (s.group g).abortReason = 0) :
    exec (.stop k g) s = .next ((s.updHub k fun h => { h with inbox := dropMsg (fun m => m == .stop g) h.inbox }).updGroup g fun x =>
      { x with sledsStopped := if x.running.isNone || x.sledsStopped.contains k then x.sledsStopped else x.sledsStopped ++ [k] }) := by
  show execStop k g s = _
  unfold execStop
  rw [if_pos (List.contains_iff_mem.mpr hmsg)]
  dsimp only
  rw [State.finishAbort_of_free (by rw [State.updGroup_group_self]; exact hfree)]

theorem completes_stop (hmsg : Msg.stop g ∈ (s.hub k).inbox) (hrun : (s.group g).running = some j) (hfree : (s.group g).abortReason = 0) :
    Completes (.stop k g) s fun t =>
      k ∈ (t.group g).sledsStopped ∧ (t.hub k).inbox = dropMsg (fun m => m == .stop g) (s.hub k).inbox ∧
      t = { s with groups := t.groups, hubs := t.hubs } := by
  refine ⟨_, exec_stop hmsg hfree, ?_, ?_, rfl⟩
  · rw [State.updGroup_group_self, State.updHub_group]
    simp only [hrun, Option.isNone_some, Bool.false_or]
    exact mem_addOnce k _
  · rw [State.updGroup_hub, State.updHub_hub_self]

end Sys2Proof.Machine
end

section
/-! SUPPORT. The rollback of a stopped group (R357, R358, R361): its decision, its boundary on a sled, and the strides that are replayed. -/

namespace Sys2Proof.Machine

variable {s : State} {g k n w jr reason : Nat} {j : Job}

/-! ## The decision -/

/-- Every sled of a group has stopped, and the repairs that it needs are over (R357). -/
structure State.RollbackDue (s : State) (g : Nat) (j : Job) : Prop where
  running : (s.group g).running = some j
  mode : s.mgr.mode = .running ∨ s.mgr.mode = .loaded
  stopped : (s.group g).stopped = true
  all : s.allStopped g = true
  undecided : (s.group g).jr = none
  free : (s.group g).abortReason = 0
  barriers : s.barriersOver g = true
  repaired : s.repairing g = false

/-- The job strides that a rollback replays. -/
def State.replayed (s : State) (g : Nat) (j : Job) : List Nat := j.replayList (s.strideOf g) (s.resumeFrom g j)

/-- The group with its restart step J_r (R357). -/
def State.rollBack (s : State) (g jr : Nat) (j : Job) : State :=
  s.updGroup g fun y =>
    { y with
      jr := some jr, resumeStride := s.resumeFrom g j, restored := false, lostWorker := none, tokens := []
      done := (s.participants g).foldl (fun t w => t.set w (jr / s.strideOf g)) y.done
      emitted := (s.participants g).foldl (fun t w => t.set w (jr / s.strideOf g)) y.emitted
      running := some { j with
        stepAt := jr - s.resumeFrom g j * s.strideOf g, toReplay := s.replayed g j, ran := s.resumeFrom g j * s.strideOf g } }

theorem State.RollbackDue.decides (h : s.RollbackDue g j) :
    ((s.mgr.mode == .running || s.mgr.mode == .loaded) && ((s.group g).stopped || !(s.group g).sledsStopped.isEmpty) && s.allStopped g &&
      (s.group g).jr.isNone && (s.group g).abortReason == 0 && s.barriersOver g && !s.repairing g) = true := by
  have hmode : (s.mgr.mode == .running || s.mgr.mode == .loaded) = true := by rcases h.mode with e | e <;> rw [e] <;> rfl
  simp [hmode, h.stopped, h.all, h.undecided, h.free, h.barriers, h.repaired]

theorem exec_rollbackDecision_restarts (h : s.RollbackDue g j) (hkept : s.lossReason g j (s.replayed g j) = none) :
    exec (.rollbackDecision g) s = .next (s.rollBack g (s.strideAt g (s.maxStep g + 3)) j) := by
  show execRollbackDecision g s = _
  unfold execRollbackDecision
  dsimp only
  rw [h.running]
  dsimp only
  rw [if_pos h.decides, ← State.replayed, hkept]
  rfl

theorem exec_rollbackDecision_loses (h : s.RollbackDue g j) (hlost : s.lossReason g j (s.replayed g j) = some reason) :
    exec (.rollbackDecision g) s = .next (s.loseJob g reason) := by
  show execRollbackDecision g s = _
  unfold execRollbackDecision
  dsimp only
  rw [h.running]
  dsimp only
  rw [if_pos h.decides, ← State.replayed, hlost]

theorem completes_rollbackDecision_restarts (h : s.RollbackDue g j) (hkept : s.lossReason g j (s.replayed g j) = none) :
    Completes (.rollbackDecision g) s fun t =>
      (t.group g).jr = some (s.strideAt g (s.maxStep g + 3)) ∧ (t.group g).resumeStride = s.resumeFrom g j ∧
      (∃ y, (t.group g).running = some y ∧ y.toReplay = s.replayed g j ∧ y.handle = j.handle) ∧ t = { s with groups := t.groups } := by
  refine ⟨_, exec_rollbackDecision_restarts h hkept, ?_⟩
  dsimp only
  rw [State.rollBack, State.updGroup_group_self]
  exact ⟨rfl, rfl, ⟨_, rfl, rfl, rfl⟩, rfl⟩

theorem completes_rollbackDecision_loses (h : s.RollbackDue g j) (hlost : s.lossReason g j (s.replayed g j) = some reason) :
    Completes (.rollbackDecision g) s fun t =>
      (∀ i, i < s.fit.sleds → ∃ e ∈ (t.hub i).evq, e.code = 4) ∧
      ∀ y, (t.group g).running = some y → ∃ q ∈ (s.group g).queue, y.handle = q.handle := by
  obtain ⟨fields, hlose⟩ := State.loseJob_running h.running reason
  refine ⟨_, exec_rollbackDecision_loses h hlost, fun i hi => ?_, fun y hy => ?_⟩
  · obtain ⟨q, hq⟩ := State.final_hub (s.raise 0x0004 fields) j.cmd stAborted [] i
    rw [hlose, State.endJob_hub, hq]
    exact s.raise_records 0x0004 fields hi
  · rw [hlose] at hy
    obtain ⟨q, hq, hhandle, -⟩ := State.endJob_next _ g hy
    rw [State.final_group, State.group, State.raise_groups, ← State.group] at hq
    exact ⟨q, hq, hhandle⟩

/-! ## The sleds on which groups have stopped -/

/-- The sleds on which each group has stopped. -/
def State.stops (s : State) : Nat → List Nat := fun g => (s.group g).sledsStopped

theorem State.stops_congr {t : State} (h : t.groups = s.groups) : t.stops = s.stops := by
  unfold State.stops State.group
  rw [h]

theorem State.updGroup_stops {f : Group → Group} (hf : ∀ x, (f x).sledsStopped = x.sledsStopped) (s : State) (g : Nat) :
    (s.updGroup g f).stops = s.stops := by
  refine funext fun h => ?_
  rw [State.stops, State.updGroup_group]
  split
  next e => rw [hf, e, ← State.stops]
  next => rfl

theorem State.stopGroup_stops (s : State) (g reason : Nat) : (s.stopGroup g reason).stops = s.stops := by
  rcases Bool.eq_false_or_eq_true (s.groupRuns g) with h | h
  · rw [State.stops_congr (State.stopGroup_groups h reason)]
    exact State.updGroup_stops (by exact fun _ => rfl) s g
  · rw [State.stopGroup_idle h]

theorem State.stopGroups_stops (s : State) (gs : List Nat) (reason : Nat) : (s.stopGroups gs reason).stops = s.stops :=
  foldl_keeps State.stops _ (fun st g => st.stopGroup_stops g reason) gs s

theorem State.parkRoute_groups (s : State) (c : Nat) : (s.parkRoute c).groups = s.groups := by
  unfold State.parkRoute
  split
  · rfl
  · exact foldl_keeps State.groups _ (fun a h => foldl_keeps State.groups _ (fun b e => b.updTile_groups _ _) _ a) _ s

theorem State.tearCircuits_stops (s : State) (cs : List Nat) (cause : Nat) : (s.tearCircuits cs cause).stops = s.stops := by
  refine foldl_keeps State.stops _ (fun st c => ?_) cs s
  unfold State.tearCircuit
  split
  · exact (State.stopGroups_stops _ _ _).trans (State.stops_congr (State.parkRoute_groups _ c))
  · rfl

theorem State.arrive_groups (s : State) (e n mc : Nat) : (s.arrive e n mc).groups = s.groups := rfl

theorem State.startSwitchIn_groups (s : State) (w : Nat) (circs : List Nat) : (s.startSwitchIn w circs).groups = s.groups := by
  unfold State.startSwitchIn
  dsimp only
  split <;> rfl

/-- A worker declared failed stops its groups by the manager; the sleds stop them at their own boundaries. -/
theorem State.declareFailed_stops (s : State) (w : Nat) : (s.declareFailed w).stops = s.stops := by
  unfold State.declareFailed
  split
  · have hlinks (u : State) (js : List Nat) : (u.forEach js fun st j => st.tearLink w j 4).groups = u.groups :=
      foldl_keeps State.groups (fun st j => st.tearLink w j 4) (fun _ _ => rfl) js u
    have hmark (u : State) (gs : List Nat) : (u.forEach gs fun st g => st.updGroup g fun x =>
        { x with lostWorker := if x.lostWorker.isNone then some w else x.lostWorker }).stops = u.stops :=
      foldl_keeps State.stops _ (fun st g => State.updGroup_stops (by exact fun _ => rfl) st g) gs u
    have hnote (u : State) : (u.arrive 11 1 0).planInput.stops = u.stops :=
      State.stops_congr ((State.updPlane_groups _ _).trans (u.arrive_groups 11 1 0))
    have hspare (p : Prop) [Decidable p] (u : State) (cs : List Nat) : (if p then u.startSwitchIn w cs else u).stops = u.stops := by
      split
      · exact State.stops_congr (u.startSwitchIn_groups w cs)
      · rfl
    dsimp only
    rw [hspare, hnote, hmark, State.stopGroups_stops, State.tearCircuits_stops, State.stops_congr (hlinks _ _)]
    rfl
  · rfl

theorem State.loadProgram_groups (s : State) (w n : Nat) : (s.loadProgram w n).groups = s.groups := by
  unfold State.loadProgram
  split <;> rfl

theorem State.remap_stops (s : State) (w l : Nat) : (s.remap w l).stops = s.stops := by
  have hload (u : State) (n : Nat) : (u.loadProgram w n).stops = u.stops := State.stops_congr (u.loadProgram_groups w n)
  unfold State.remap
  split
  · exact (hload _ _).trans rfl
  · split
    · rfl
    · split
      · dsimp only
        split
        · exact (hload _ _).trans rfl
        · rfl
      · exact s.declareFailed_stops w

theorem State.remapGroup_stops (s : State) (g k : Nat) : (s.remapGroup g k).stops = s.stops := by
  unfold State.remapGroup
  split
  · rfl
  · refine foldl_keeps State.stops _ (fun st b => ?_) _ s
    dsimp only
    split
    · split
      · split
        · exact st.remap_stops _ _
        · rfl
      · exact st.remap_stops _ _
    · rfl

/-! ## The boundary before the restart step -/

/-- A group that starts again on a sled. -/
def Group.release (x : Group) (sled : Nat) : Group :=
  let left := x.sledsStopped.filter fun m => m != sled
  if left.isEmpty then { x with sledsStopped := [], stopped := false, stopSent := false } else { x with sledsStopped := left }

theorem Group.release_frees (x : Group) (sled : Nat) : sled ∉ (x.release sled).sledsStopped := by
  unfold Group.release
  dsimp only
  split
  · exact List.not_mem_nil
  · simp

/-- The last sled on which a group has stopped ends its stop. -/
theorem Group.release_last {x : Group} {sled : Nat} (h : x.sledsStopped = [sled]) :
    (x.release sled).stopped = false ∧ (x.release sled).stopSent = false := by
  simp [Group.release, h]

/-- Where every bound core of a group on a sled is sound nothing is remapped (R128). -/
theorem State.remapGroup_of_coresWhole (h : s.coresWhole g k) : s.remapGroup g k = s := by
  unfold State.remapGroup
  split
  next => rfl
  next i hactive =>
    refine List.foldlRecOn (motive := fun st => st = s) _ _ rfl fun st hst b hb => ?_
    subst hst
    obtain ⟨hmem, hgid⟩ := List.mem_filter.mp hb
    dsimp only
    split
    next hhere =>
      obtain ⟨n, hphys, hsound⟩ := h i hactive b hmem (by simpa using hgid) hhere.1
      simp only [hphys]
      rw [if_neg (by simp [hsound])]
    next => rfl

theorem exec_rollbackBoundary (hjr : (s.group g).jr = some jr) (hstart : (s.hub k).started = true) (hslip : (s.hub k).isSlip = false)
    (hstep : (s.hub k).step + 1 = jr) (hstopped : k ∈ (s.group g).sledsStopped) :
    exec (.rollbackBoundary k g) s = .next ((s.updGroup g fun x => x.release k).remapGroup g k) := by
  show execRollbackBoundary k g s = _
  unfold execRollbackBoundary
  rw [hjr]
  exact if_pos (by simp [hstart, hslip, hstep, hstopped])

theorem completes_rollbackBoundary (hjr : (s.group g).jr = some jr) (hstart : (s.hub k).started = true) (hslip : (s.hub k).isSlip = false)
    (hstep : (s.hub k).step + 1 = jr) (hstopped : k ∈ (s.group g).sledsStopped) :
    Completes (.rollbackBoundary k g) s fun t => k ∉ (t.group g).sledsStopped ∧
      ((s.group g).sledsStopped = [k] → s.coresWhole g k →
        (t.group g).stopped = false ∧ (t.group g).stopSent = false ∧ t = { s with groups := t.groups }) := by
  refine ⟨_, exec_rollbackBoundary hjr hstart hslip hstep hstopped, ?_, fun hlast hwhole => ?_⟩
  · have hstops := congrFun (State.remapGroup_stops (s.updGroup g fun x => x.release k) g k) g
    rw [State.stops, State.stops, State.updGroup_group_self] at hstops
    rw [hstops]
    exact Group.release_frees _ _
  · have hwhole' : (s.updGroup g fun x => x.release k).coresWhole g k := hwhole
    rw [State.remapGroup_of_coresWhole hwhole', State.updGroup_group_self]
    obtain ⟨hgoes, hunsent⟩ := Group.release_last hlast
    exact ⟨hgoes, hunsent, rfl⟩

/-! ## Replays and mirrors -/

/-- A job with one replay of a stride reported (R366). -/
def Job.noteReplay (j : Job) (stride : Nat) : Job :=
  { j with
    replays := j.replays.set stride (j.replays.get 0 stride + 1), total := j.total + 1, toReplay := j.toReplay.filter fun i => i != stride }

theorem exec_strideReplay (hrun : (s.group g).running = some j) (hdue : n ∈ j.toReplay)
    (hcome : j.stepAt + (s.group g).resumeStride * s.strideOf g ≤ s.maxStep g) :
    ∃ fields, exec (.strideReplay g n) s = .next ((s.updGroup g fun y => { y with running := some (j.noteReplay n) }).raise 0x0002 fields) := by
  have hexec : exec (.strideReplay g n) s = execStrideReplay g n s := rfl
  rw [hexec]
  unfold execStrideReplay
  dsimp only
  rw [hrun]
  dsimp only
  rw [if_pos ⟨List.contains_iff_mem.mpr hdue, hcome⟩]
  exact ⟨_, rfl⟩

theorem completes_strideReplay (hrun : (s.group g).running = some j) (hdue : n ∈ j.toReplay)
    (hcome : j.stepAt + (s.group g).resumeStride * s.strideOf g ≤ s.maxStep g) : Completes (.strideReplay g n) s fun t =>
      (∃ y, (t.group g).running = some y ∧ y.replays.get 0 n = j.replays.get 0 n + 1 ∧ y.total = j.total + 1 ∧ n ∉ y.toReplay) ∧
      (∀ i, i < s.fit.sleds → ∃ e ∈ (t.hub i).evq, e.code = 2) ∧ ∀ f, f ≠ g → t.group f = s.group f := by
  obtain ⟨fields, hexec⟩ := exec_strideReplay hrun hdue hcome
  refine ⟨_, hexec, ⟨j.noteReplay n, ?_, ?_, rfl, ?_⟩, fun i hi => ?_, fun f hf => ?_⟩
  · rw [State.group, State.raise_groups, ← State.group, State.updGroup_group_self]
  · exact Tab.get_set_self _ _ _ _
  · simp [Job.noteReplay]
  · exact State.raise_records _ 0x0002 fields hi
  · rw [State.group, State.raise_groups, ← State.group, State.updGroup_group_ne _ _ hf]

theorem State.restoreWorker_besideTiers (s : State) (d : GroupDef) (stride w : Nat) :
    (s.restoreWorker d stride w).besideTiers = s.besideTiers := by
  unfold State.restoreWorker
  split
  · rfl
  · split
    · exact s.tierWrite_besideTiers _ _
    · rfl

/-- The checkpoints of a group's workers filled from their mirrors (R361). -/
def State.restoreGroup (s : State) (g stride : Nat) (d : GroupDef) : State :=
  s.forEach (s.participants g) fun st w => st.restoreWorker d stride w

theorem State.restoreGroup_besideTiers (s : State) (g stride : Nat) (d : GroupDef) : (s.restoreGroup g stride d).besideTiers = s.besideTiers :=
  foldl_keeps State.besideTiers _ (fun st w => st.restoreWorker_besideTiers d stride w) _ s

theorem exec_mirrorRestoreEnd {f : Nat} {d : GroupDef} (hrun : (s.group g).running = some j) (hrestoring : (s.group g).restoring = some f)
    (hdef : s.groupDef g = some d) (hframe : f ≤ s.mgr.frame) (hmode : s.mgr.mode = .running ∨ s.mgr.mode = .loaded) :
    exec (.mirrorRestoreEnd g) s =
      .next ((s.restoreGroup g (j.mirrorDone.getD 0) d).updGroup g fun y => { y with restoring := none, restored := true }) := by
  show execMirrorRestoreEnd g s = _
  unfold execMirrorRestoreEnd
  dsimp only
  rw [hrestoring, hrun, hdef]
  exact if_pos ⟨hframe, hmode⟩

theorem completes_mirrorRestoreEnd {f : Nat} {d : GroupDef} (hrun : (s.group g).running = some j) (hrestoring : (s.group g).restoring = some f)
    (hdef : s.groupDef g = some d) (hframe : f ≤ s.mgr.frame) (hmode : s.mgr.mode = .running ∨ s.mgr.mode = .loaded) :
    Completes (.mirrorRestoreEnd g) s fun t =>
      t.group g = { s.group g with restoring := none, restored := true } ∧ (∀ i, i ≠ g → t.group i = s.group i) ∧ t.hubs = s.hubs := by
  have hbeside := s.restoreGroup_besideTiers g (j.mirrorDone.getD 0) d
  have hgroup (i : Nat) : (s.restoreGroup g (j.mirrorDone.getD 0) d).group i = s.group i := by
    rw [State.group, State.groups_of_besideTiers hbeside, ← State.group]
  refine ⟨_, exec_mirrorRestoreEnd hrun hrestoring hdef hframe hmode, ?_, fun i hi => ?_, 
    (State.updGroup_hubs _ _ _).trans (State.hubs_of_besideTiers hbeside)⟩
  · rw [State.updGroup_group_self, hgroup]
  · rw [State.updGroup_group_ne _ _ hi, hgroup]

end Sys2Proof.Machine
end

section
/-! The obligation about jobs, owner data, and groups that stop and roll back. -/

namespace Sys2Proof.Machine

/-- Settles O60: the commands by their effect, a transfer by what it writes or gives back, a stop and its rollback event by event. How JOB_ABORT
ends a queued job and an unknown handle, where handles start, that a job whose J0 falls into a drain still starts, and what a rollback waits
for and sets are the model's choices (log entries 90, 12, 109, 91). -/
theorem jobsRun : Obligations.JobsRun := by
  unfold Obligations.JobsRun
  refine ⟨fun s c b g k h code j => ⟨fun hc hdata hmode => ?_, fun hrun => ?_, fun hc hmode => ?_⟩, fun s c b tag z =>
    ⟨fun hmode hranges howned => ?_, fun hfind hmode => ?_⟩, fun s g w k n reason j d hrun => ⟨?_, ?_, ?_, ?_, ?_, ?_⟩⟩
  · exact ⟨completes_jobStart_waits hc hdata hmode, completes_jobStart_refused hc hdata hmode, completes_jobStart_accepted hc hdata hmode⟩
  · exact ⟨completes_jobFirstStep hrun, completes_jobEnd hrun⟩
  · exact ⟨completes_jobAbort_running hc hmode, completes_jobAbort_queued hc hmode, completes_jobAbort_unknown hc hmode⟩
  · exact ⟨completes_dataImport hmode hranges howned, completes_dataExport hmode hranges howned⟩
  · exact ⟨completes_dataTransferEnd_forged hfind hmode, completes_dataTransferEnd_authentic hfind hmode,
      completes_dataTransferEnd_givesBack hfind hmode⟩
  · exact completes_stopTriggerReport hrun
  · exact fun hmsg hfree => completes_stop hmsg hrun hfree
  · intro hmode hstopped hall hjr hfree hbarriers hrepaired
    have hdue : s.RollbackDue g j := ⟨hrun, hmode, hstopped, hall, hjr, hfree, hbarriers, hrepaired⟩
    exact ⟨completes_rollbackDecision_restarts hdue, fun r => completes_rollbackDecision_loses hdue⟩
  · exact fun jr => completes_rollbackBoundary
  · exact completes_strideReplay hrun
  · exact fun f => completes_mirrorRestoreEnd hrun

end Sys2Proof.Machine
end

section
/-! The obligation about the slots of a frame program (R113, Table 5.3): their fields stand one after another in 128 bits. -/

namespace Sys2Proof

/-- A field and what stands below it are what the bits up to its top spell. -/
theorem mod_two_pow_split (v : Nat) {hi lo : Nat} (h : lo ≤ hi + 1) : v % 2 ^ (hi + 1) = bitsOf v hi lo * 2 ^ lo + v % 2 ^ lo := by
  rw [← Nat.add_sub_cancel' h, Nat.pow_add, Nat.mod_mul, bitsOf, Nat.mul_comm, Nat.add_comm]

/-- The operands that the fields of 16 bytes spell. -/
def slotAt (v : Nat) : Slot :=
  { issue := bitsOf v 127 115, fa := bitsOf v 103 100, fb := bitsOf v 99 96, ax := bitsOf v 95 92, ox := bitsOf v 91 64
    ay := bitsOf v 63 60, oy := bitsOf v 59 32, len := bitsOf v 31 16, aux := bitsOf v 15 0 }

theorem slotDecode_eq (v : Nat) : slotDecode v =
    if unitOf (bitsOf v 111 104) = some (bitsOf v 114 112) ∧ (slotAt v).fa < 8 ∧ (slotAt v).fb < 8 then some (bitsOf v 111 104, slotAt v)
    else none := rfl

/-- The operations and the units fit their fields. -/
theorem unitOf_fits {op u : Nat} (h : unitOf op = some u) : op < 2 ^ 8 ∧ u < 2 ^ 3 := by
  unfold unitOf at h
  split_ifs at h
  all_goals cases h; omega

/-- Each field reads back from the number that a well-formed slot is spelled by. -/
theorem slotEncode_fields {op u : Nat} {sl : Slot} (hu : unitOf op = some u) (hwf : sl.wf = true) :
    slotEncode op sl < 2 ^ 128 ∧ bitsOf (slotEncode op sl) 111 104 = op ∧ bitsOf (slotEncode op sl) 114 112 = u ∧
      slotAt (slotEncode op sl) = sl := by
  obtain ⟨hop, hunit⟩ := unitOf_fits hu
  obtain ⟨issue, fa, fb, ax, ox, ay, oy, len, aux⟩ := sl
  simp only [Slot.wf, Bool.and_eq_true, decide_eq_true_eq] at hwf
  obtain ⟨⟨⟨⟨⟨⟨⟨⟨hissue, hfa⟩, hfb⟩, hax⟩, hox⟩, hay⟩, hoy⟩, hlen⟩, haux⟩ := hwf
  simp only [slotEncode, slotAt, hu, Option.getD_some, bitsOf, Slot.mk.injEq]
  refine ⟨?_, ?_, ?_, ?_, ?_, ?_, ?_, ?_, ?_, ?_, ?_, ?_⟩ <;> omega

/-- No other 16 bytes have the same fields. -/
theorem slotEncode_slotAt {v : Nat} (hv : v < 2 ^ 128) (hu : unitOf (bitsOf v 111 104) = some (bitsOf v 114 112)) :
    slotEncode (bitsOf v 111 104) (slotAt v) = v := by
  have hsplit (hi lo : Nat) (hlo : lo ≤ hi + 1) := mod_two_pow_split v hlo
  conv_rhs => rw [← Nat.mod_eq_of_lt hv, hsplit 127 115 (by decide), hsplit 114 112 (by decide), hsplit 111 104 (by decide),
    hsplit 103 100 (by decide), hsplit 99 96 (by decide), hsplit 95 92 (by decide), hsplit 91 64 (by decide), hsplit 63 60 (by decide),
    hsplit 59 32 (by decide), hsplit 31 16 (by decide), hsplit 15 0 (by decide)]
  simp only [slotEncode, slotAt, hu, Option.getD_some, Nat.pow_zero, Nat.mod_one, Nat.mul_one, Nat.add_zero, Nat.add_assoc]

/-- Settles O9: a well-formed slot by its fields, each of which reads back; a number that decodes by its fields, which spell it. -/
theorem slotsReturn : Obligations.SlotsReturn := by
  unfold Obligations.SlotsReturn
  refine ⟨fun op sl hunit hwf => ?_, fun v op sl hv hdec => ?_, fun v hne => ?_⟩
  · obtain ⟨u, hu⟩ := Option.isSome_iff_exists.mp hunit
    obtain ⟨hlt, hop, hun, hsl⟩ := slotEncode_fields hu hwf
    have hfa : sl.fa < 8 := by simp [Slot.wf] at hwf; omega
    have hfb : sl.fb < 8 := by simp [Slot.wf] at hwf; omega
    refine ⟨hlt, ?_⟩
    rw [slotDecode_eq, hop, hun, hsl, if_pos ⟨hu, hfa, hfb⟩]
  · rw [slotDecode_eq] at hdec
    split at hdec
    next h =>
      cases hdec
      exact slotEncode_slotAt hv h.1
    next => cases hdec
  · rw [slotDecode_eq, if_neg fun h => hne h.1]

end Sys2Proof
end

section
/-! SUPPORT. The operands of a core's units: what no delivery of a worker touches, and what a slot that issues finds of it. -/

namespace Sys2Proof.Machine

variable {s : State} {w n port occ op : Nat} {sl : Slot} {x y : StagCore} {i : Instr}

/-- What of a core its slots alone change: its address registers, weight buffers, accumulators and registers, and what names their undefined
contents. -/
def StagCore.datapath (x : StagCore) : Tab Nat × (WBuf × WBuf × Bool × Nat) × Tab AccRow × Tab (List Word) × Nat :=
  (x.areg, (x.buf0, x.buf1, x.useBuf1, x.shadowReady), x.acc, x.vreg, x.epoch)

theorem StagCore.areg_congr (h : x.datapath = y.datapath) : x.areg = y.areg := congrArg Prod.fst h

theorem StagCore.buffers_congr (h : x.datapath = y.datapath) :
    x.buf0 = y.buf0 ∧ x.buf1 = y.buf1 ∧ x.useBuf1 = y.useBuf1 ∧ x.shadowReady = y.shadowReady := by
  simp only [StagCore.datapath, Prod.mk.injEq] at h
  exact h.2.1

theorem StagCore.acc_congr (h : x.datapath = y.datapath) : x.acc = y.acc := congrArg (fun z => z.2.2.1) h

theorem StagCore.vreg_congr (h : x.datapath = y.datapath) : x.vreg = y.vreg := congrArg (fun z => z.2.2.2.1) h

theorem StagCore.epoch_congr (h : x.datapath = y.datapath) : x.epoch = y.epoch := congrArg (fun z => z.2.2.2.2) h

theorem StagCore.undef_congr (h : x.epoch = y.epoch) : x.undef = y.undef := by
  unfold StagCore.undef
  rw [h]

theorem StagCore.reg_congr (h : x.datapath = y.datapath) : x.reg = y.reg := by
  unfold StagCore.reg
  rw [StagCore.vreg_congr h, StagCore.undef_congr (StagCore.epoch_congr h)]

theorem StagCore.row_congr (h : x.datapath = y.datapath) : x.row = y.row := by
  unfold StagCore.row
  rw [StagCore.acc_congr h, StagCore.undef_congr (StagCore.epoch_congr h)]

theorem StagCore.weights_congr (h : x.datapath = y.datapath) : x.weights = y.weights := by
  obtain ⟨h0, h1, huse, -⟩ := StagCore.buffers_congr h
  rw [StagCore.weights, StagCore.weights, h0, h1, huse]

theorem StagCore.issueSums_congr (h : x.datapath = y.datapath) : x.issueSums = y.issueSums := by
  have hbyte : x.weightByte = y.weightByte := by
    unfold StagCore.weightByte
    rw [StagCore.undef_congr (StagCore.epoch_congr h)]
  have hbits : x.weightBits = y.weightBits := by rw [StagCore.weightBits, StagCore.weightBits, StagCore.weights_congr h, hbyte]
  have hexp : x.weightExp = y.weightExp := by
    unfold StagCore.weightExp
    rw [StagCore.weights_congr h, hbyte]
  unfold StagCore.issueSums
  rw [StagCore.weights_congr h, hbits, hexp]

/-! ## Deliveries -/

/-- The datapaths of all cores. -/
def State.datapaths (s : State) : Nat → Nat → Tab Nat × (WBuf × WBuf × Bool × Nat) × Tab AccRow × Tab (List Word) × Nat :=
  fun w n => (s.core w n).datapath

theorem State.updCore_datapaths {f : StagCore → StagCore} (hf : ∀ x, (f x).datapath = x.datapath) (s : State) (w n : Nat) :
    (s.updCore w n f).datapaths = s.datapaths := by
  refine funext fun v => funext fun i => ?_
  rw [State.datapaths, State.updCore_core]
  split
  next h => rw [hf, h.1, h.2]; rfl
  next => rfl

theorem State.updWorker_datapaths {f : Worker → Worker} (hf : ∀ x, (f x).cores = x.cores) (s : State) (w : Nat) :
    (s.updWorker w f).datapaths = s.datapaths := by
  refine funext fun v => funext fun i => ?_
  rw [State.datapaths, State.core, Worker.core, State.updWorker_worker]
  split
  next h => rw [hf, h]; rfl
  next => rfl

theorem State.Works.datapaths {t : State} (h : State.Works (fun _ => False) s t) : t.datapaths = s.datapaths :=
  funext fun v => funext fun i => congrArg StagCore.datapath (h.core_of_runs (v := v) (fun h => h) i)

theorem State.failCore_datapaths (s : State) (w n cause cycle : Nat) : (s.failCore w n cause cycle).datapaths = s.datapaths := by
  have hcore (f : StagCore → StagCore) (hf : ∀ x, (f x).datapath = x.datapath) :
      ((s.cancelCore w n cycle).updCore w n f).datapaths = s.datapaths :=
    (State.updCore_datapaths hf _ w n).trans (State.updWorker_datapaths (by exact fun _ => rfl) s w)
  unfold State.failCore
  dsimp only
  split
  · refine (State.works_localTrigger _ _ _ _).datapaths.trans (hcore _ ?_)
    exact fun _ => rfl
  · refine hcore _ ?_
    exact fun _ => rfl

theorem State.commit_datapaths (s : State) (w : Nat) (p : PendWrite) : (s.commit w p).datapaths = s.datapaths := by
  have hcore (f : StagCore → StagCore) (hf : ∀ x, (f x).datapath = x.datapath) : (s.updCore w p.core f).datapaths = s.datapaths :=
    State.updCore_datapaths hf s w p.core
  unfold State.commit
  split
  · rfl
  · split
    · exact hcore _ fun _ => rfl
    · exact (s.works_tierWrite _ _).datapaths
    · exact (s.works_departLink _ _).datapaths
    · exact (s.works_departPort _ _).datapaths
    · unfold State.drainCommit
      dsimp only
      split
      · exact (State.failCore_datapaths _ _ _ _ _).trans (hcore _ fun _ => rfl)
      · exact hcore _ fun _ => rfl

/-- No delivery touches a datapath. -/
theorem State.flush_datapaths (s : State) (w t : Nat) : (s.flush w t).datapaths = s.datapaths :=
  (foldl_keeps State.datapaths _ (fun st p => st.commit_datapaths w p) _ _).trans (State.updWorker_datapaths (by exact fun _ => rfl) s w)

/-! ## A slot that issues -/

/-- The state in which the operation of a slot runs: what is ready has taken effect, the port is occupied, and the sequencer stands at the
next slot. -/
def State.issued (s : State) (w n port occ : Nat) (sl : Slot) : State :=
  (s.flush w sl.issue).updCore w n fun x => { x with busy := x.busy.set port (sl.issue + occ), pos := x.pos + 1 }

theorem State.issue_of_issues (h : s.slotIssues w n port op sl) {ok : Bool} (hok : ok = true) (occ : Nat) (run : State → State) :
    s.issue w n port occ op sl ok run = (run (s.issued w n port occ sl)).draw.2 :=
  s.issue_runs w n port occ op sl ok run (by rw [State.slotIssues] at h; rw [h, hok]; rfl)

theorem State.draw_core (s : State) : s.draw.2.core = s.core := rfl

theorem State.issued_datapath (s : State) (w n port occ : Nat) (sl : Slot) :
    ((s.issued w n port occ sl).core w n).datapath = (s.core w n).datapath := by
  have h : (s.issued w n port occ sl).datapaths = s.datapaths :=
    (State.updCore_datapaths (by exact fun _ => rfl) _ w n).trans (s.flush_datapaths w sl.issue)
  exact congrFun (congrFun h w) n

/-- A slot issues on a core that runs: it is neither retired nor stopped. -/
theorem State.slotIssues_sound (h : s.slotIssues w n port op sl) :
    ((s.flush w sl.issue).core w n).retired = false ∧ ((s.flush w sl.issue).core w n).stopped = false := by
  simp only [State.slotIssues, State.canIssue, State.coreRuns, Bool.and_eq_true, Bool.not_eq_true'] at h
  tauto

/-- With nothing of the worker ready, a slot that issues changes its core, and the number of a free value is drawn. -/
theorem State.issued_idle (h : ∀ p ∈ (s.worker w).inflight, sl.issue < p.ready) (n port occ : Nat) (f : StagCore → StagCore) :
    ((s.issued w n port occ sl).updCore w n f).draw.2 =
      { s with
        workers := ((s.issued w n port occ sl).updCore w n f).draw.2.workers, mgr := { s.mgr with fresh := s.mgr.fresh + 1 } } := by
  rw [State.issued, State.flush_idle s w sl.issue h]
  rfl

end Sys2Proof.Machine
end

section
/-! The obligation about the vector unit. -/

namespace Sys2Proof.Machine

variable {s : State} {w n occ op : Nat} {sl : Slot} {i : Instr}

/-- What an operation of the vector port brings about that changes of its core's datapath one register. -/
theorem vecWrites_of_issue {ok : Bool} {f : State → StagCore → StagCore} {v : List Word}
    (hexec : exec i s = .next (s.issue w n 5 occ op sl ok fun st => st.updCore w n (f st))) (hok : ok = true)
    (hf : let st := s.issued w n 5 occ sl; (f st (st.core w n)).datapath = ((st.core w n).setReg sl.rd v).datapath) :
    VecWrites i w n op sl v s := by
  intro hissues
  rw [State.issue_of_issues hissues hok] at hexec
  have hreg := StagCore.reg_congr hf
  have hold := s.issued_datapath w n 5 occ sl
  refine ⟨_, hexec, ?_, fun r hr => ?_, ?_, ?_, fun hidle => State.issued_idle hidle _ _ _ _⟩
  all_goals rw [State.draw_core, State.updCore_core_self]
  · rw [hreg, StagCore.setReg_reg_self]
  · rw [hreg, StagCore.setReg_reg_ne _ _ hr, StagCore.reg_congr hold]
  · have hacc := StagCore.acc_congr hold
    exact (StagCore.acc_congr hf).trans hacc
  · have hareg := StagCore.areg_congr hold
    exact (StagCore.areg_congr hf).trans hareg

/-- An operation that computes a register from the core's registers. -/
theorem vecWrites_vecOp {ok : Bool} {f : StagCore → List Word} {v : List Word} (hexec : exec i s = .next (s.vecOp w n op sl occ ok f))
    (hok : ok = true) (hf : ∀ x : StagCore, x.reg = (s.core w n).reg → f x = v) : VecWrites i w n op sl v s :=
  vecWrites_of_issue (f := fun _ x => x.setReg sl.rd (f x)) hexec hok (by
    dsimp only
    rw [hf _ (StagCore.reg_congr (s.issued_datapath w n 5 occ sl))])

theorem vecWrites_vecBin_int {fi ff : Word → Word → Word} (hexec : exec i s = .next (s.vecBin w n op sl fi ff)) (hfa : sl.fa = 6) :
    VecWrites i w n op sl (List.zipWith fi ((s.core w n).reg sl.ra) ((s.core w n).reg sl.rb)) s :=
  vecWrites_vecOp hexec (by simp [laneFmt, hfa]) fun x h => by rw [if_pos hfa, h]

theorem vecWrites_vecBin_float {fi ff : Word → Word → Word} (hexec : exec i s = .next (s.vecBin w n op sl fi ff)) (hfa : sl.fa = 7) :
    VecWrites i w n op sl (List.zipWith ff ((s.core w n).reg sl.ra) ((s.core w n).reg sl.rb)) s :=
  vecWrites_vecOp hexec (by simp [laneFmt, hfa]) fun x h => by rw [if_neg (by simp [hfa]), h]

theorem vecWrites_vecUn {f : Word → Word} (hexec : exec i s = .next (s.vecUn w n op sl f)) (hfa : sl.fa = 7) :
    VecWrites i w n op sl (((s.core w n).reg sl.ra).map f) s :=
  vecWrites_vecOp hexec (by simp [hfa]) fun x h => by rw [h]

/-- The larger and the smaller of two I32 lanes, as the comparison of the lanes chooses them. -/
theorem ofInt_max_toInt (x y : Word) : BitVec.ofInt 32 (max x.toInt y.toInt) = if x.toInt < y.toInt then y else x := by
  split
  next h => rw [max_eq_right h.le, BitVec.ofInt_toInt]
  next h => rw [max_eq_left (not_lt.mp h), BitVec.ofInt_toInt]

theorem ofInt_min_toInt (x y : Word) : BitVec.ofInt 32 (min x.toInt y.toInt) = if y.toInt < x.toInt then y else x := by
  split
  next h => rw [min_eq_right h.le, BitVec.ofInt_toInt]
  next h => rw [min_eq_left (not_lt.mp h), BitVec.ofInt_toInt]

/-- A multiply-add of I32 lanes is a product and a sum, each modulo 2^32 (R144). -/
theorem zipWith_zip_mul_add (a b c : List Word) :
    List.zipWith (fun (p : Word × Word) z => p.1 * p.2 + z) (List.zip a b) c =
      List.zipWith (fun x y => x + y) (List.zipWith (fun x y => x * y) a b) c := by
  rw [← List.map_uncurry_zip_eq_zipWith (l := a), List.zipWith_map_left]
  rfl

theorem exec_vfma (w n : Nat) (sl : Slot) (s : State) : exec (.vfma w n sl) s = .next (s.vecOp w n 0x15 sl 1 (laneFmt sl.fa) fun x =>
    List.zipWith (fun (p : Word × Word) z => if sl.fa = 6 then p.1 * p.2 + z else f32Fma p.1 p.2 z)
      (List.zip (x.reg sl.ra) (x.reg sl.rb)) (x.reg (sl.len % 32))) := rfl

theorem vecWrites_vfma_int (s : State) (w n : Nat) (hfa : sl.fa = 6) : VecWrites (.vfma w n sl) w n 0x15 sl
    (List.zipWith (fun x y => x + y) (List.zipWith (fun x y => x * y) ((s.core w n).reg sl.ra) ((s.core w n).reg sl.rb))
      ((s.core w n).reg (sl.len % 32))) s :=
  vecWrites_vecOp (exec_vfma w n sl s) (by simp [laneFmt, hfa]) fun x h => by simp only [if_pos hfa, h, zipWith_zip_mul_add]

theorem vecWrites_vfma_float (s : State) (w n : Nat) (hfa : sl.fa = 7) : VecWrites (.vfma w n sl) w n 0x15 sl
    (List.zipWith (fun p z => f32Fma p.1 p.2 z) (List.zip ((s.core w n).reg sl.ra) ((s.core w n).reg sl.rb))
      ((s.core w n).reg (sl.len % 32))) s := by
  have hne : sl.fa ≠ 6 := by simp [hfa]
  exact vecWrites_vecOp (exec_vfma w n sl s) (by simp [laneFmt, hfa]) fun x h => by simp only [if_neg hne, h]

/-! ## Reductions, moves and conversions -/

theorem exec_vrsum (w n : Nat) (sl : Slot) (s : State) : exec (.vrsum w n sl) s = .next (s.vecOp w n 0x1E sl 1 (laneFmt sl.fa) fun x =>
    List.replicate 64 (reduce64 (if sl.fa = 6 then fun x y => x + y else f32Add) (x.reg sl.ra))) := rfl

theorem exec_vrmax (w n : Nat) (sl : Slot) (s : State) : exec (.vrmax w n sl) s = .next (s.vecOp w n 0x1F sl 1 (laneFmt sl.fa) fun x =>
    List.replicate 64 (reduce64 (if sl.fa = 6 then fun x y => if x.toInt < y.toInt then y else x else f32Max) (x.reg sl.ra))) := rfl

theorem exec_vbcast (w n : Nat) (sl : Slot) (s : State) : exec (.vbcast w n sl) s = .next (s.vecOp w n 0x20 sl 1 (laneFmt sl.fa) fun x =>
    List.replicate 64 (canonLane sl.fa ((x.reg sl.ra).getD (sl.len % 64) 0))) := rfl

theorem exec_vperm (w n : Nat) (sl : Slot) (s : State) : exec (.vperm w n sl) s = .next (s.vecOp w n 0x21 sl 1 (laneFmt sl.fa) fun x =>
    (x.reg sl.rb).map fun k => canonLane sl.fa ((x.reg sl.ra).getD (k.toNat % 64) 0)) := rfl

/-- The lanes of register RA converted from FB to FA. -/
def StagCore.convLanes (x : StagCore) (sl : Slot) : List Conv := (x.reg sl.ra).map fun v => convertFmt sl.fa (laneVal sl.fb v)

theorem exec_vcvt (w n : Nat) (sl : Slot) (s : State) : exec (.vcvt w n sl) s =
    .next (s.issue w n 5 1 0x19 sl (laneFmt sl.fa && laneFmt sl.fb) fun st => st.updCore w n fun x =>
      (x.setReg sl.rd (((st.core w n).convLanes sl).map fun z => BitVec.ofNat 32 z.bits)).countConv ((st.core w n).convLanes sl)) := rfl

theorem State.issued_convLanes (s : State) (w n port occ : Nat) (sl : Slot) :
    ((s.issued w n port occ sl).core w n).convLanes sl = (s.core w n).convLanes sl := by
  rw [StagCore.convLanes, StagCore.reg_congr (s.issued_datapath w n port occ sl)]
  rfl

theorem vecWrites_vcvt (s : State) (w n : Nat) (hok : (laneFmt sl.fa && laneFmt sl.fb) = true) :
    VecWrites (.vcvt w n sl) w n 0x19 sl (((s.core w n).convLanes sl).map fun z => BitVec.ofNat 32 z.bits) s := by
  refine vecWrites_of_issue (exec_vcvt w n sl s) hok ?_
  dsimp only
  rw [State.issued_convLanes]
  rfl

theorem completes_vcvt_counts (hok : (laneFmt sl.fa && laneFmt sl.fb) = true) (hissues : s.slotIssues w n 5 0x19 sl) :
    Completes (.vcvt w n sl) s fun t =>
      (t.core w n).sats = min 65535 (((s.flush w sl.issue).core w n).sats + ((s.core w n).convLanes sl).countP fun z => z.sat) ∧
      (t.core w n).nans = min 65535 (((s.flush w sl.issue).core w n).nans + ((s.core w n).convLanes sl).countP fun z => z.nan) := by
  have hexec := exec_vcvt w n sl s
  rw [State.issue_of_issues hissues hok] at hexec
  refine ⟨_, hexec, ?_⟩
  dsimp only
  rw [State.draw_core, State.updCore_core_self, State.issued_convLanes, State.issued, State.updCore_core_self]
  exact ⟨rfl, rfl⟩

theorem laneFmt_of {f : Nat} (h : f = 6 ∨ f = 7) : laneFmt f = true := by rcases h with rfl | rfl <;> rfl

/-- Settles O35: every operation of the vector port is a register computed from the registers that the core's slots left; VCVT also counts.
The exact results of VEXP, VRCP, VRSQRT and VTANH, of which R122 gives a bound, are the model's choice (log entry 56). -/
theorem vectorUnitComputes : Obligations.VectorUnitComputes := by
  unfold Obligations.VectorUnitComputes
  refine ⟨fun s w n sl => ⟨fun hfa => ?int, fun hfa => ?float⟩, fun s w n sl hfa => ?moves⟩
  case int =>
    simp only [ofInt_max_toInt, ofInt_min_toInt]
    exact ⟨vecWrites_vecBin_int rfl hfa, vecWrites_vecBin_int rfl hfa, vecWrites_vecBin_int rfl hfa, vecWrites_vfma_int s w n hfa,
      vecWrites_vecBin_int rfl hfa, vecWrites_vecBin_int rfl hfa, vecWrites_vecBin_int rfl hfa⟩
  case float =>
    exact ⟨vecWrites_vecBin_float rfl hfa, vecWrites_vecBin_float rfl hfa, vecWrites_vecBin_float rfl hfa, vecWrites_vfma_float s w n hfa,
      vecWrites_vecBin_float rfl hfa, vecWrites_vecBin_float rfl hfa, vecWrites_vecBin_float rfl hfa, vecWrites_vecUn rfl hfa,
      vecWrites_vecUn rfl hfa, vecWrites_vecUn rfl hfa, vecWrites_vecUn rfl hfa⟩
  case moves =>
    have hok := laneFmt_of hfa
    simp only [ofInt_max_toInt]
    refine ⟨vecWrites_vecOp (exec_vrsum w n sl s) hok fun x h => by rw [h], vecWrites_vecOp (exec_vrmax w n sl s) hok fun x h => by rw [h],
      vecWrites_vecOp (exec_vbcast w n sl s) hok fun x h => by rw [h], vecWrites_vecOp (exec_vperm w n sl s) hok fun x h => by rw [h],
      fun hfb => ?_⟩
    have hboth : (laneFmt sl.fa && laneFmt sl.fb) = true := by rw [hok, laneFmt_of hfb]; rfl
    exact ⟨vecWrites_vcvt s w n hboth, completes_vcvt_counts hboth⟩

end Sys2Proof.Machine
end

section
/-! SUPPORT. Weights and accumulators: what WLOAD, WSWAP and MAC leave (R116, R117, R135 to R140). -/

namespace Sys2Proof.Machine

variable {s : State} {w n port occ : Nat} {sl : Slot} {x y : StagCore}

/-- What a table reads after a run of keys from `base` on has been set. -/
theorem Tab.get?_foldl_set_run {α : Type} (t : Tab α) (base len : Nat) (v : Nat → α) (k : Nat) :
    (((List.range len).map fun i => (base + i, v i)).foldl (fun t r => t.set r.1 r.2) t).get? k =
      if base ≤ k ∧ k < base + len then some (v (k - base)) else t.get? k := by
  induction len with
  | zero => rw [if_neg (by omega)]; rfl
  | succ len ih =>
    rw [List.range_succ, List.map_append, List.foldl_append]
    simp only [List.map_cons, List.map_nil, List.foldl_cons, List.foldl_nil]
    rw [Tab.get?_set, ih]
    rcases eq_or_ne k (base + len) with rfl | hne
    · rw [if_pos rfl, if_pos (by omega), Nat.add_sub_cancel_left]
    · rw [if_neg hne]
      exact if_congr (by omega) rfl rfl

theorem StagCore.row_of_entry {r : Nat} {a : AccRow} (h : x.acc.get? r = some a) : x.row r = a := by rw [StagCore.row, h]

theorem StagCore.row_of_entries {r : Nat} (h : x.acc.get? r = y.acc.get? r) (he : x.epoch = y.epoch) : x.row r = y.row r := by
  rw [StagCore.row, StagCore.row, h, StagCore.undef_congr he]

/-- An operation of a core's unit finds in the core's store what was there when it issued. -/
theorem State.issued_storeAt (s : State) (w n port occ : Nat) (sl : Slot) (place : Option Nat) (len : Nat) :
    (s.issued w n port occ sl).storeAt w n place len = (s.flush w sl.issue).storeAt w n place len := by
  unfold State.storeAt State.storeBytes
  rw [State.issued, State.updCore_flight, State.updCore_core_self]
  rfl

theorem completes_wload (hfa : sl.fa ≤ 5) (hissues : s.slotIssues w n 0 0x01 sl) : Completes (.wload w n sl) s fun t =>
    (if (s.core w n).useBuf1 then (t.core w n).buf0 else (t.core w n).buf1) =
      { fmt := sl.fa
        bytes := (s.flush w sl.issue).storeAt w n
          (s.ownStore w (s.logicalNo w n) ((s.core w n).operand sl.ax sl.ox) (weightLen sl.fa)) (weightLen sl.fa) } ∧
    (t.core w n).weights = (s.core w n).weights ∧ (t.core w n).shadowReady = sl.issue + weightCycles sl.fa ∧
    (t.core w n).acc = (s.core w n).acc := by
  have hold := s.issued_datapath w n 0 (weightCycles sl.fa) sl
  have hexec : exec (.wload w n sl) s = .next (s.issue w n 0 (weightCycles sl.fa) 0x01 sl (decide (sl.fa ≤ 5)) _) := rfl
  rw [State.issue_of_issues hissues (decide_eq_true hfa)] at hexec
  refine ⟨_, hexec, ?_⟩
  dsimp only
  rw [State.draw_core, State.updCore_core_self, State.issued_storeAt, ← StagCore.weights_congr hold, ← StagCore.acc_congr hold,
    ← (StagCore.buffers_congr hold).2.2.1]
  unfold StagCore.weights
  split <;> simp

theorem completes_wswap (hready : (s.core w n).shadowReady ≤ sl.issue) (hissues : s.slotIssues w n 1 0x02 sl) :
    Completes (.wswap w n sl) s fun t =>
      (t.core w n).weights = (if (s.core w n).useBuf1 then (s.core w n).buf0 else (s.core w n).buf1) ∧
      (t.core w n).buf0 = (s.core w n).buf0 ∧ (t.core w n).buf1 = (s.core w n).buf1 ∧ (t.core w n).acc = (s.core w n).acc ∧
      (t.core w n).vreg = (s.core w n).vreg := by
  have hold := s.issued_datapath w n 1 1 sl
  obtain ⟨h0, h1, huse, -⟩ := StagCore.buffers_congr hold
  have hexec : exec (.wswap w n sl) s = .next (s.issue w n 1 1 0x02 sl (decide ((s.core w n).shadowReady ≤ sl.issue)) _) := rfl
  rw [State.issue_of_issues hissues (decide_eq_true hready)] at hexec
  refine ⟨_, hexec, ?_⟩
  dsimp only
  rw [State.draw_core, State.updCore_core_self, ← h0, ← h1, ← huse, ← StagCore.acc_congr hold, ← StagCore.vreg_congr hold]
  refine ⟨?_, rfl, rfl, rfl, rfl⟩
  unfold StagCore.weights
  dsimp only
  cases ((s.issued w n 1 1 sl).core w n).useBuf1 <;> rfl

/-! ## MAC -/

/-- The place of the input vectors of a MAC, and of their exponents. -/
def State.macInputs (s : State) (w n : Nat) (sl : Slot) : Option Nat :=
  s.ownStore w (s.logicalNo w n) ((s.core w n).operand sl.ax sl.ox) ((if sl.fb = 4 then 128 else 64) * sl.len)

def State.macExps (s : State) (w n : Nat) (sl : Slot) : Option Nat :=
  s.ownStore w (s.logicalNo w n) ((s.core w n).operand sl.ay sl.oy) (4 * sl.len)

/-- Row `i` of a MAC that finds the core's store and registers in the state `st`. -/
def State.macRow (s st : State) (w n : Nat) (sl : Slot) (i : Nat) : AccRow :=
  let vec := if sl.fb = 4 then 128 else 64
  ((st.core w n).row (sl.aux % 512 + i)).accumulate (sl.aux.testBit 9) (decide (sl.fb < 2))
    ((st.core w n).issueSums (unpack (fmtWidth sl.fb) (st.storeAt w n ((s.macInputs w n sl).map (· + vec * i)) vec))
      (if sl.fb = 5 then (st.storeAt w n ((s.macExps w n sl).map (· + 4 * i)) 4).map (·.toNat) else []) sl.fb)

theorem exec_mac (w n : Nat) (sl : Slot) (s : State) : exec (.mac w n sl) s =
    .next (s.issue w n 1 (if sl.fb = 4 then 2 * sl.len else sl.len) 0x03 sl
      (pairOk (s.core w n).weights.fmt sl.fb && decide (1 ≤ sl.len) && decide (sl.aux % 512 + sl.len ≤ 512)) fun st =>
      st.updCore w n fun y => { y with
        acc := ((List.range sl.len).map fun i => (sl.aux % 512 + i, s.macRow st w n sl i)).foldl (fun t r => t.set r.1 r.2) y.acc }) := rfl

/-- A MAC accumulates on the rows and with the weights that the core's slots have left, from the store as it stands when it issues. -/
theorem State.macRow_issued (s : State) (w n port occ : Nat) (sl : Slot) (i : Nat) : s.macRow (s.issued w n port occ sl) w n sl i =
    let vec := if sl.fb = 4 then 128 else 64
    ((s.core w n).row (sl.aux % 512 + i)).accumulate (sl.aux.testBit 9) (decide (sl.fb < 2))
      ((s.core w n).issueSums (unpack (fmtWidth sl.fb) ((s.flush w sl.issue).storeAt w n ((s.macInputs w n sl).map (· + vec * i)) vec))
        (if sl.fb = 5 then ((s.flush w sl.issue).storeAt w n ((s.macExps w n sl).map (· + 4 * i)) 4).map (·.toNat) else []) sl.fb) := by
  have hold := s.issued_datapath w n port occ sl
  unfold State.macRow
  simp only [State.issued_storeAt, StagCore.row_congr hold, StagCore.issueSums_congr hold]

theorem completes_mac (hpair : pairOk (s.core w n).weights.fmt sl.fb = true) (hlen : 1 ≤ sl.len) (hrows : sl.aux % 512 + sl.len ≤ 512)
    (hissues : s.slotIssues w n 1 0x03 sl) : Completes (.mac w n sl) s fun t =>
      (∀ i, i < sl.len → (t.core w n).row (sl.aux % 512 + i) =
        s.macRow (s.issued w n 1 (if sl.fb = 4 then 2 * sl.len else sl.len) sl) w n sl i) ∧
      (∀ r, r < sl.aux % 512 ∨ sl.aux % 512 + sl.len ≤ r → (t.core w n).row r = (s.core w n).row r) ∧
      (t.core w n).vreg = (s.core w n).vreg ∧ (t.core w n).weights = (s.core w n).weights := by
  have hexec := exec_mac w n sl s
  rw [State.issue_of_issues hissues (by simp [hpair, hlen, hrows])] at hexec
  have hold := s.issued_datapath w n 1 (if sl.fb = 4 then 2 * sl.len else sl.len) sl
  refine ⟨_, hexec, fun i hi => ?_, fun r hr => ?_, ?_, ?_⟩
  all_goals rw [State.draw_core, State.updCore_core_self]
  · refine StagCore.row_of_entry ?_
    rw [Tab.get?_foldl_set_run, if_pos (by omega), Nat.add_sub_cancel_left]
  · rw [← StagCore.row_congr hold]
    refine StagCore.row_of_entries ?_ rfl
    rw [Tab.get?_foldl_set_run, if_neg (by omega)]
  · have hvreg := StagCore.vreg_congr hold
    exact hvreg
  · have hweights := StagCore.weights_congr hold
    exact hweights

end Sys2Proof.Machine
end

section
/-! SUPPORT. DRAIN (R118 to R121): the rows that it leaves to be delivered, and what comes of them row by row. -/

namespace Sys2Proof.Machine

variable {s : State} {w n : Nat} {sl : Slot}

/-! ## What is to be delivered, in order -/

theorem State.deliverAt_core (s : State) (w : Nat) (p : PendWrite) (v n : Nat) : (s.deliverAt w p).core v n = s.core v n := by
  unfold State.deliverAt State.core
  rw [State.updWorker_worker]
  split
  next h => rw [h]; rfl
  next => rfl

theorem State.deliverTo_core (s : State) (w : Nat) (place : Option Nat) (p : Nat → PendWrite) (v n : Nat) :
    (s.deliverTo w place p).core v n = s.core v n := by
  cases place with
  | none => rfl
  | some a => exact s.deliverAt_core w (p a) v n

theorem State.deliverAll_inflight (s : State) (w : Nat) (ps : List PendWrite) :
    ((s.deliverAll w ps).worker w).inflight = ps.foldl (fun l p => insertPend p l) (s.worker w).inflight := by
  induction ps generalizing s with
  | nil => rfl
  | cons p ps ih =>
    refine (ih (s.deliverAt w p)).trans ?_
    rw [State.deliverAt, State.updWorker_worker_self]
    rfl

theorem mem_foldl_insertPend {p : PendWrite} {ps l : List PendWrite} (h : p ∈ ps ∨ p ∈ l) : p ∈ ps.foldl (fun l p => insertPend p l) l := by
  induction ps generalizing l with
  | nil => exact h.resolve_left List.not_mem_nil
  | cons q ps ih =>
    refine ih ?_
    rw [mem_insertPend]
    rcases h with h | h
    · exact (List.mem_cons.mp h).elim (fun e => .inr (.inl e)) .inl
    · exact .inr (.inr h)

theorem insertPend_last {p : PendWrite} {l : List PendWrite} (h : ∀ q ∈ l, q.ready ≤ p.ready) : insertPend p l = l ++ [p] := by
  induction l with
  | nil => rfl
  | cons q l ih =>
    obtain ⟨hq, hl⟩ := List.forall_mem_cons.mp h
    rw [insertPend, if_pos hq, ih hl]
    rfl

/-- Deliveries that are added in the order of their cycles stand in that order. -/
theorem foldl_insertPend_of_ordered {ps l : List PendWrite} (h : (l ++ ps).Pairwise fun p q => p.ready ≤ q.ready) :
    ps.foldl (fun l p => insertPend p l) l = l ++ ps := by
  induction ps generalizing l with
  | nil => exact (List.append_nil l).symm
  | cons p ps ih =>
    have hlast : insertPend p l = l ++ [p] :=
      insertPend_last fun q hq => (List.pairwise_append.mp h).2.2 q hq p List.mem_cons_self
    rw [List.foldl_cons, hlast, ih (by simpa using h)]
    simp

/-- Where all that a worker has to deliver is ready, all of it takes effect in its order. -/
theorem State.flush_all {t : Nat} (h : ∀ p ∈ (s.worker w).inflight, p.ready ≤ t) :
    ∃ u : State, (∀ n, u.core w n = s.core w n) ∧ s.flush w t = (s.worker w).inflight.foldl (fun st p => st.commit w p) u := by
  refine ⟨s.updWorker w fun x => { x with inflight := x.inflight.filter fun p => !decide (p.ready ≤ t) }, fun n => ?_, ?_⟩
  · rw [State.core, State.updWorker_worker_self]
    rfl
  · have hall : (s.worker w).inflight.filter (fun p => decide (p.ready ≤ t)) = (s.worker w).inflight := by
      simpa [List.filter_eq_self] using h
    unfold State.flush
    dsimp only
    rw [hall]

/-! ## One row -/

variable {r : DrainRow} {issued ready a b : Nat} {out : Nat → DrainRow} {addr at_ : Nat → Nat} {len k : Nat}

/-- A core that a mismatch has stopped at a cycle, with cause 1 (R121). -/
def StagCore.mismatched (x : StagCore) (cycle : Nat) : Prop := x.retired = true ∧ x.cause = 1 ∧ x.stopped = true ∧ x.faultCycle = cycle

theorem State.failCore_mismatched (s : State) (w n cycle : Nat) : ((s.failCore w n 1 cycle).core w n).mismatched cycle := by
  unfold State.failCore
  dsimp only
  split
  · rw [State.localTrigger_core, State.updCore_core_self]; exact ⟨rfl, rfl, rfl, rfl⟩
  · rw [State.updCore_core_self]; exact ⟨rfl, rfl, rfl, rfl⟩

theorem State.commit_row (h : (s.core w n).stopped = false) (r : DrainRow) (issued ready a : Nat) :
    s.commit w (r.pend issued ready n a) = s.drainCommit w (r.pend issued ready n a) := by
  have hfree : s.cancelled w (r.pend issued ready n a) = false := by
    rw [State.cancelled, show (r.pend issued ready n a).core = n from rfl, h]
    rfl
  unfold State.commit
  rw [hfree]
  rfl

/-- A row that matches, or that is not compared: it is written and counted. -/
theorem State.commit_row_good (h : (s.core w n).stopped = false) (hgood : r.bad = false) (issued ready a : Nat) :
    let u := (s.commit w (r.pend issued ready n a)).core w n
    u.stopped = false ∧ u.retired = (s.core w n).retired ∧
      u.checks = (if r.skip then (s.core w n).checks else ((s.core w n).checks + 1) % 2 ^ 32) ∧
      u.skips = if r.skip then min 65535 ((s.core w n).skips + 1) else (s.core w n).skips := by
  have hunit : (r.pend issued ready n a).unit = if r.skip then 1 else 0 := by simp [DrainRow.pend, hgood]
  have hne : (r.pend issued ready n a).unit ≠ 2 := by rw [hunit]; split <;> decide
  rw [State.commit_row h, State.drainCommit]
  dsimp only
  rw [if_neg hne, hunit, show (r.pend issued ready n a).core = n from rfl, State.updCore_core_self]
  cases r.skip
  · exact ⟨h, rfl, rfl, rfl⟩
  · exact ⟨h, rfl, rfl, rfl⟩

theorem State.commit_row_bad (h : (s.core w n).stopped = false) (hbad : r.bad = true) (issued ready a : Nat) :
    ((s.commit w (r.pend issued ready n a)).core w n).mismatched ready := by
  have hunit : (r.pend issued ready n a).unit = 2 := by simp [DrainRow.pend, hbad]
  rw [State.commit_row h, State.drainCommit, if_pos hunit]
  exact State.failCore_mismatched _ w n ready

/-- Rows after the mismatch are cancelled. -/
theorem State.commit_row_cancelled {cycle : Nat} (h : (s.core w n).mismatched cycle) (hlate : cycle < ready) (r : DrainRow) (issued a : Nat) :
    s.commit w (r.pend issued ready n a) = s := by
  obtain ⟨-, -, hstopped, hcycle⟩ := h
  refine if_pos ?_
  show ((s.core w n).stopped && decide ((s.core w n).faultCycle < ready)) = true
  rw [hstopped, hcycle, decide_eq_true hlate]
  rfl

/-! ## Row after row -/

/-- The first `len` rows of a DRAIN take effect, row `i` at cycle `at_ i`. -/
def State.commitRows (s : State) (w n issued : Nat) (out : Nat → DrainRow) (at_ addr : Nat → Nat) (len : Nat) : State :=
  ((List.range len).map fun i => (out i).pend issued (at_ i) n (addr i)).foldl (fun st p => st.commit w p) s

theorem State.commitRows_succ (s : State) (w n issued : Nat) (out : Nat → DrainRow) (at_ addr : Nat → Nat) (len : Nat) :
    s.commitRows w n issued out at_ addr (len + 1) =
      (s.commitRows w n issued out at_ addr len).commit w ((out len).pend issued (at_ len) n (addr len)) := by
  rw [State.commitRows, List.range_succ, List.map_append, List.foldl_append]
  rfl

/-- Rows none of which mismatches are counted one by one. -/
theorem State.commitRows_good (h : (s.core w n).stopped = false) (issued : Nat) (at_ addr : Nat → Nat) (hgood : ∀ i, i < len → (out i).bad = false) :
    let u := (s.commitRows w n issued out at_ addr len).core w n
    u.stopped = false ∧ u.retired = (s.core w n).retired ∧
      u.checks = (List.range len).foldl (fun c i => if (out i).skip then c else (c + 1) % 2 ^ 32) (s.core w n).checks ∧
      u.skips = (List.range len).foldl (fun c i => if (out i).skip then min 65535 (c + 1) else c) (s.core w n).skips := by
  induction len with
  | zero => exact ⟨h, rfl, rfl, rfl⟩
  | succ len ih =>
    obtain ⟨hstopped, hretired, hchecks, hskips⟩ := ih fun i hi => hgood i (hi.trans (Nat.lt_succ_self len))
    obtain ⟨hstopped', hretired', hchecks', hskips'⟩ :=
      State.commit_row_good hstopped (hgood len (Nat.lt_succ_self len)) issued (at_ len) (addr len)
    rw [← State.commitRows_succ] at hstopped' hretired' hchecks' hskips'
    rw [List.range_succ, List.foldl_append, List.foldl_append]
    refine ⟨hstopped', hretired'.trans hretired, ?_, ?_⟩
    · rw [hchecks', hchecks]; rfl
    · rw [hskips', hskips]; rfl

/-- At the first row that mismatches the core fails, and nothing after it takes effect. -/
theorem State.commitRows_bad (h : (s.core w n).stopped = false) (issued : Nat) (hat : StrictMono at_) (addr : Nat → Nat) (hb : b < len)
    (hbad : (out b).bad = true) (hbefore : ∀ i, i < b → (out i).bad = false) :
    ((s.commitRows w n issued out at_ addr len).core w n).mismatched (at_ b) := by
  induction len, hb using Nat.le_induction with
  | base =>
    obtain ⟨hstopped, -⟩ := State.commitRows_good h issued at_ addr hbefore
    rw [State.commitRows_succ]
    exact State.commit_row_bad hstopped hbad issued (at_ b) (addr b)
  | succ len hlen ih =>
    rw [State.commitRows_succ, State.commit_row_cancelled ih (hat hlen)]
    exact ih

/-! ## The operation -/

/-- Row `i` of a DRAIN that finds the core `x`. -/
def StagCore.drainOut (x : StagCore) (sl : Slot) (i : Nat) : DrainRow := drainRow sl.fa sl.fb (x.row (sl.aux % 512 + i))

/-- The rows that a DRAIN leaves to be delivered from byte `y` of the core's store on. -/
def State.drainRows (s : State) (w n : Nat) (sl : Slot) (y : Nat) : List PendWrite :=
  (List.range sl.len).map fun i => ((s.core w n).drainOut sl i).pend sl.issue (sl.issue + i + 8) n (y + 8 * fmtWidth sl.fa * i)

/-- Byte of the core's store at which the rows of a DRAIN go. -/
def State.drainPlace (s : State) (w n : Nat) (sl : Slot) : Option Nat :=
  s.ownStore w (s.logicalNo w n) ((s.core w n).operand sl.ay sl.oy) (8 * fmtWidth sl.fa * sl.len)

/-- The state `st` with the rows of a DRAIN to be delivered. -/
def State.drainTo (st : State) (w n : Nat) (sl : Slot) (place : Option Nat) : State :=
  (List.range sl.len).foldl (init := st) fun a i =>
    a.deliverTo w (place.map (· + 8 * fmtWidth sl.fa * i)) (((st.core w n).drainOut sl i).pend sl.issue (sl.issue + i + 8) n)

theorem exec_drain (w n : Nat) (sl : Slot) (s : State) : exec (.drain w n sl []) s =
    .next (s.issue w n 2 sl.len 0x04 sl
      (decide (sl.fa < 8) && sl.fa != 5 && (sl.fb == 6 || sl.fb == 7) && decide (1 ≤ sl.len) && decide (sl.aux % 512 + sl.len ≤ 512))
      fun st => (st.updCore w n fun x => x).drainTo w n sl (s.drainPlace w n sl)) := rfl

theorem State.drainTo_core (st : State) (w n : Nat) (sl : Slot) (place : Option Nat) : (st.drainTo w n sl place).core w n = st.core w n :=
  foldl_keeps (fun a => a.core w n) _ (fun a _ => a.deliverTo_core w _ _ w n) _ st

theorem State.drainTo_eq (st : State) (w n : Nat) (sl : Slot) (y : Nat) : st.drainTo w n sl (some y) = st.deliverAll w (st.drainRows w n sl y) := by
  rw [State.deliverAll, State.drainRows, List.foldl_map]
  rfl

/-- The state that a DRAIN that issues leaves. -/
def State.drainLeft (s : State) (w n : Nat) (sl : Slot) : State :=
  (((s.issued w n 2 sl.len sl).updCore w n fun x => x).drainTo w n sl (s.drainPlace w n sl)).draw.2

theorem State.drainLeft_core (s : State) (w n : Nat) (sl : Slot) : (s.drainLeft w n sl).core w n = (s.issued w n 2 sl.len sl).core w n := by
  rw [State.drainLeft, State.draw_core, State.drainTo_core, State.updCore_core_self]

theorem State.drainLeft_inflight {y : Nat} (hy : s.drainPlace w n sl = some y) : ((s.drainLeft w n sl).worker w).inflight =
    (s.drainRows w n sl y).foldl (fun l p => insertPend p l) ((s.flush w sl.issue).worker w).inflight := by
  have hrows : ((s.issued w n 2 sl.len sl).updCore w n fun x => x).drainRows w n sl y = s.drainRows w n sl y := by
    have hout : ((s.issued w n 2 sl.len sl).core w n).drainOut sl = (s.core w n).drainOut sl := by
      unfold StagCore.drainOut
      rw [StagCore.row_congr (s.issued_datapath w n 2 sl.len sl)]
    rw [State.drainRows, State.updCore_core_self, hout]
    rfl
  show (((((s.issued w n 2 sl.len sl).updCore w n fun x => x).drainTo w n sl (s.drainPlace w n sl)).worker w).inflight) = _
  rw [hy, State.drainTo_eq, State.deliverAll_inflight, hrows, State.updCore_flight, State.issued, State.updCore_flight]

/-- Of a worker that had nothing to deliver, the rows are all that it has to deliver. -/
theorem State.drainLeft_inflight_of_nil {y : Nat} (hy : s.drainPlace w n sl = some y) (hidle : (s.worker w).inflight = []) :
    ((s.drainLeft w n sl).worker w).inflight = s.drainRows w n sl y := by
  have hflush : ((s.flush w sl.issue).worker w).inflight = [] := by
    rw [State.flush_idle s w sl.issue (by simp [hidle]), State.updWorker_worker_self, hidle]
  rw [State.drainLeft_inflight hy, hflush, foldl_insertPend_of_ordered]
  · rfl
  · rw [List.nil_append, State.drainRows, List.pairwise_map]
    exact List.pairwise_lt_range.imp fun h => Nat.add_le_add_right (Nat.add_le_add_left h.le _) _

/-- What comes of the rows of a DRAIN by the cycle of the last one. -/
theorem State.drainLeft_flush {y : Nat} (hy : s.drainPlace w n sl = some y) (hidle : (s.worker w).inflight = []) :
    ∃ u : State, (u.core w n).stopped = ((s.flush w sl.issue).core w n).stopped ∧ (u.core w n).retired = ((s.flush w sl.issue).core w n).retired ∧
      (u.core w n).checks = (s.core w n).checks ∧ (u.core w n).skips = (s.core w n).skips ∧
      (s.drainLeft w n sl).flush w (sl.issue + sl.len + 7) =
        u.commitRows w n sl.issue ((s.core w n).drainOut sl) (fun i => sl.issue + i + 8) (fun i => y + 8 * fmtWidth sl.fa * i) sl.len := by
  have hrows := State.drainLeft_inflight_of_nil hy hidle
  obtain ⟨u, hcore, hflush⟩ := State.flush_all (s := s.drainLeft w n sl) (w := w) (t := sl.issue + sl.len + 7) (by
    rw [hrows]
    simp only [State.drainRows, List.mem_map, List.mem_range, forall_exists_index, and_imp, forall_apply_eq_imp_iff₂]
    intro i hi
    show sl.issue + i + 8 ≤ sl.issue + sl.len + 7
    omega)
  have hsame : (s.flush w sl.issue).core w n = s.core w n := by
    rw [State.flush_idle s w sl.issue (by simp [hidle]), State.core, State.updWorker_worker_self]
    rfl
  refine ⟨u, ?_, ?_, ?_, ?_, by rw [hflush, hrows]; rfl⟩
  all_goals rw [hcore, State.drainLeft_core, State.issued, State.updCore_core_self, hsame]

end Sys2Proof.Machine
end

section
/-! The obligation about the matrix unit. -/

namespace Sys2Proof.Machine

variable {s : State} {w n : Nat} {sl : Slot}

theorem exec_drain_issues (hfa : sl.fa < 8) (hq4b : sl.fa ≠ 5) (hfb : sl.fb = 6 ∨ sl.fb = 7) (hlen : 1 ≤ sl.len)
    (hrows : sl.aux % 512 + sl.len ≤ 512) (hissues : s.slotIssues w n 2 0x04 sl) :
    exec (.drain w n sl []) s = .next (s.drainLeft w n sl) := by
  rw [exec_drain, State.issue_of_issues hissues (by simp [hfa, hq4b, hfb, hlen, hrows])]
  rfl

/-- Settles O36: the weight buffers and the accumulators by what the slots leave of the datapath; the rows of a DRAIN stand in order among
what its worker has to deliver, and take effect one by one. -/
theorem matrixUnitMultiplies : Obligations.MatrixUnitMultiplies := by
  unfold Obligations.MatrixUnitMultiplies
  refine ⟨fun s w n sl => ⟨completes_wload, completes_wswap, fun hpair hlen hrows hissues => ?mac⟩,
    fun s w n sl hfa hq4b hfb hlen hrows hissues => ?drain⟩
  case mac =>
    obtain ⟨t, ht, hin, hout, hrest⟩ := completes_mac hpair hlen hrows hissues
    exact ⟨t, ht, fun i hi => (hin i hi).trans (s.macRow_issued w n _ _ sl i), hout, hrest⟩
  case drain =>
    have hold := s.issued_datapath w n 2 sl.len sl
    obtain ⟨hsound, hruns⟩ := State.slotIssues_sound hissues
    refine ⟨_, exec_drain_issues hfa hq4b hfb hlen hrows hissues, ?_, ?_, fun y hy => ⟨fun i hi => ?_, fun hidle hgood => ?_,
      fun b hidle hb hbad hbefore => ?_⟩⟩
    · rw [State.drainLeft_core, StagCore.acc_congr hold]
    · rw [State.drainLeft_core, State.issued, State.updCore_core_self]
      exact hsound
    · rw [State.drainLeft_inflight hy]
      exact mem_foldl_insertPend (.inl (List.mem_map_of_mem (List.mem_range.mpr hi)))
    · obtain ⟨u, hstopped, hretired, hchecks, hskips, hflush⟩ := State.drainLeft_flush hy hidle
      obtain ⟨-, hretired', hchecks', hskips'⟩ := State.commitRows_good (hstopped.trans hruns) sl.issue (fun i => sl.issue + i + 8)
        (fun i => y + 8 * fmtWidth sl.fa * i) hgood
      rw [hflush]
      exact ⟨hretired'.trans (hretired.trans hsound), hchecks'.trans (by rw [hchecks]), hskips'.trans (by rw [hskips])⟩
    · obtain ⟨u, hstopped, -, -, -, hflush⟩ := State.drainLeft_flush hy hidle
      rw [hflush]
      exact State.commitRows_bad (hstopped.trans hruns) sl.issue (fun i j h => by omega) _ hb hbad hbefore

end Sys2Proof.Machine
end

section
/-! SUPPORT. A worker that is declared failed (R362, Table 9.7): what it has lost, which nothing that follows gives back. -/

namespace Sys2Proof.Machine

variable {s : State} {w : Nat}

/-- What a worker has lost when it is failed: its power and its keys. -/
def Worker.losses (x : Worker) : Bool × Nat × Tab KeySlot := (x.failed, x.pwr, x.keys)

/-- What every worker has lost, and which workers every hub shows as failed. -/
def State.lossView (s : State) : (Nat → Bool × Nat × Tab KeySlot) × (Nat → Nat) := (fun w => (s.worker w).losses, fun k => (s.hub k).failed)

theorem State.updWorker_lossView {f : Worker → Worker} (hf : ∀ x, (f x).losses = x.losses) (s : State) (w : Nat) :
    (s.updWorker w f).lossView = s.lossView := by
  refine Prod.ext (funext fun v => ?_) rfl
  simp only [State.lossView, State.updWorker_worker]
  split
  next h => rw [h, hf]
  next => rfl

theorem State.updHub_lossView {f : Hub → Hub} (hf : ∀ h, (f h).failed = h.failed) (s : State) (k : Nat) :
    (s.updHub k f).lossView = s.lossView := by
  refine Prod.ext rfl (funext fun j => ?_)
  simp only [State.lossView, State.updHub_hub]
  split
  next h => rw [h, hf]
  next => rfl

theorem State.updTile_lossView (s : State) (i : Nat) (f : Tile → Tile) : (s.updTile i f).lossView = s.lossView := rfl

theorem State.updGroup_lossView (s : State) (g : Nat) (f : Group → Group) : (s.updGroup g f).lossView = s.lossView := rfl

theorem State.updPlane_lossView (s : State) (f : Plane → Plane) : (s.updPlane f).lossView = s.lossView := rfl

theorem State.arrive_lossView (s : State) (e n mc : Nat) : (s.arrive e n mc).lossView = s.lossView := rfl

theorem State.tearLink_lossView (s : State) (w j cause : Nat) : (s.tearLink w j cause).lossView = s.lossView :=
  (State.updWorker_lossView (by exact fun _ => rfl) _ _).trans (State.updWorker_lossView (by exact fun _ => rfl) s w)

theorem State.stopGroup_lossView (s : State) (g reason : Nat) : (s.stopGroup g reason).lossView = s.lossView := by
  refine Prod.ext ?_ (funext fun k => ?_)
  · rw [State.stopGroup_only]; rfl
  · obtain ⟨l, hl⟩ := s.stopGroup_hub g reason k
    simp only [State.lossView, hl]

theorem State.stopGroups_lossView (s : State) (gs : List Nat) (reason : Nat) : (s.stopGroups gs reason).lossView = s.lossView :=
  foldl_keeps State.lossView _ (fun st g => st.stopGroup_lossView g reason) gs s

theorem State.parkRoute_lossView (s : State) (c : Nat) : (s.parkRoute c).lossView = s.lossView := by
  unfold State.parkRoute
  split
  · rfl
  · exact foldl_keeps State.lossView _ (fun a h => foldl_keeps State.lossView _ (fun b e => b.updTile_lossView _ _) _ a) _ s

theorem State.tearCircuits_lossView (s : State) (cs : List Nat) (cause : Nat) : (s.tearCircuits cs cause).lossView = s.lossView := by
  refine foldl_keeps State.lossView _ (fun st c => ?_) cs s
  unfold State.tearCircuit
  split
  · exact (State.stopGroups_lossView _ _ _).trans (State.parkRoute_lossView _ c)
  · rfl

theorem State.startSwitchIn_lossView (s : State) (w : Nat) (circs : List Nat) : (s.startSwitchIn w circs).lossView = s.lossView := by
  have hhub (f : Hub → Hub) (hf : ∀ h, (f h).failed = h.failed) : (s.updHub (sledOf w) f).lossView = s.lossView :=
    State.updHub_lossView hf s (sledOf w)
  unfold State.startSwitchIn
  dsimp only
  split
  · exact hhub _ fun _ => rfl
  · exact (State.updPlane_lossView _ _).trans (hhub _ fun _ => rfl)

/-- The worker without power, keys and deliveries, and its hub showing it as failed. -/
def State.loseWorker (s : State) (w : Nat) : State :=
  (s.updWorker w fun x => { x with failed := true, pwr := 0, keys := Tab.empty, inflight := [], latched := none }).updHub (sledOf w) fun h =>
    { h with failed := putBit h.failed (siteOf w) true }

/-- Tears, stops and the switch-in leave what is lost. -/
theorem State.declareFailed_lossView (hup : s.workerUp w = true) : (s.declareFailed w).lossView = (s.loseWorker w).lossView := by
  have hlinks (u : State) (js : List Nat) : (u.forEach js fun st j => st.tearLink w j 4).lossView = u.lossView :=
    foldl_keeps State.lossView _ (fun st j => st.tearLink_lossView w j 4) js u
  have hmark (u : State) (gs : List Nat) : (u.forEach gs fun st g => st.updGroup g fun x =>
      { x with lostWorker := if x.lostWorker.isNone then some w else x.lostWorker }).lossView = u.lossView :=
    foldl_keeps State.lossView _ (fun st g => st.updGroup_lossView g _) gs u
  have hnote (u : State) : (u.arrive 11 1 0).planInput.lossView = u.lossView := (State.updPlane_lossView _ _).trans (u.arrive_lossView 11 1 0)
  have hspare (p : Prop) [Decidable p] (u : State) (cs : List Nat) : (if p then u.startSwitchIn w cs else u).lossView = u.lossView := by
    split
    · exact u.startSwitchIn_lossView w cs
    · rfl
  unfold State.declareFailed
  rw [if_pos hup]
  dsimp only
  rw [hspare, hnote, hmark, State.stopGroups_lossView, State.tearCircuits_lossView, hlinks]
  rfl

theorem State.declareFailed_lost (hup : s.workerUp w = true) :
    ((s.declareFailed w).worker w).losses = (true, 0, Tab.empty) ∧ ((s.declareFailed w).hub (sledOf w)).failed.testBit (siteOf w) = true := by
  have hview := State.declareFailed_lossView hup
  refine ⟨(congrFun (congrArg Prod.fst hview) w).trans ?_, ?_⟩
  · show ((s.loseWorker w).worker w).losses = _
    rw [State.loseWorker, State.updHub_worker, State.updWorker_worker_self]
    rfl
  · rw [show ((s.declareFailed w).hub (sledOf w)).failed = ((s.loseWorker w).hub (sledOf w)).failed from
      congrFun (congrArg Prod.snd hview) (sledOf w), State.loseWorker, State.updHub_hub_self, testBit_putBit, if_pos rfl]

end Sys2Proof.Machine
end

section
/-! The obligation about retired cores, hot memory and retired pages. -/

namespace Sys2Proof.Machine

variable {s : State} {w n l f u page m : Nat}

/-! ## The report of a retired core (R121) -/

/-- The manager's record with a report to raise. -/
def State.addReport (s : State) (r : List Nat) : State := s.updMgr fun x => { x with reports := x.reports ++ [r] }

/-- What a report says of a core that is retired: its worker, its number and the cause. -/
def State.IsRetirement (s : State) (w n : Nat) (r : List Nat) : Prop := r.getD 0 0 = w ∧ r.getD 1 0 = n ∧ r.getD 3 0 = (s.core w n).cause

theorem exec_coreRetirementReport_stops {g : Nat} (hup : s.workerUp w = true) (hret : (s.core w n).retired = true)
    (hgroup : ((s.worker w).logicalOf n).bind (s.coreGroup w) = some g) (hcause : (s.core w n).cause ≠ 3) :
    ∃ r, exec (.coreRetirementReport w n) s = .next ((s.addReport r).stopGroup g 1) ∧ s.IsRetirement w n r := by
  have hexec : exec (.coreRetirementReport w n) s = execCoreRetirementReport w n s := rfl
  unfold execCoreRetirementReport at hexec
  dsimp only at hexec
  rw [if_pos ⟨hret, hup⟩, hgroup] at hexec
  dsimp only at hexec
  rw [if_neg hcause] at hexec
  exact ⟨_, hexec, rfl, rfl, rfl⟩

theorem exec_coreRetirementReport_quiet (hup : s.workerUp w = true) (hret : (s.core w n).retired = true)
    (hquiet : ((s.worker w).logicalOf n).bind (s.coreGroup w) = none ∨ (s.core w n).cause = 3) :
    ∃ r, exec (.coreRetirementReport w n) s = .next (s.addReport r) ∧ s.IsRetirement w n r := by
  have hexec : exec (.coreRetirementReport w n) s = execCoreRetirementReport w n s := rfl
  unfold execCoreRetirementReport at hexec
  dsimp only at hexec
  rw [if_pos ⟨hret, hup⟩] at hexec
  cases hgroup : ((s.worker w).logicalOf n).bind (s.coreGroup w) with
  | none =>
    rw [hgroup] at hexec
    exact ⟨_, hexec, rfl, rfl, rfl⟩
  | some g =>
    rw [hgroup] at hexec
    dsimp only at hexec
    rw [if_pos (hquiet.resolve_left (by rw [hgroup]; exact Option.some_ne_none g))] at hexec
    exact ⟨_, hexec, rfl, rfl, rfl⟩

theorem completes_coreRetirementReport (hup : s.workerUp w = true) (hret : (s.core w n).retired = true) :
    Completes (.coreRetirementReport w n) s fun t =>
      (∃ r, t.mgr = { s.mgr with reports := s.mgr.reports ++ [r] } ∧ r.getD 0 0 = w ∧ r.getD 1 0 = n ∧ r.getD 3 0 = (s.core w n).cause) ∧
      (∀ m g, (s.worker w).logicalOf n = some m → s.coreGroup w m = some g → s.groupRuns g = true → (s.core w n).cause ≠ 3 →
        (t.group g).stopped = true) ∧ t.workers = s.workers := by
  have hbind {m g : Nat} (hm : (s.worker w).logicalOf n = some m) (hg : s.coreGroup w m = some g) :
      ((s.worker w).logicalOf n).bind (s.coreGroup w) = some g := by rw [hm]; exact hg
  by_cases hquiet : ((s.worker w).logicalOf n).bind (s.coreGroup w) = none ∨ (s.core w n).cause = 3
  · obtain ⟨r, hexec, hr⟩ := exec_coreRetirementReport_quiet hup hret hquiet
    refine ⟨_, hexec, ⟨r, rfl, hr⟩, fun m g hm hg _ hcause => absurd hquiet ?_, rfl⟩
    rw [hbind hm hg]
    exact fun h => h.elim (Option.some_ne_none g) hcause
  · obtain ⟨hsome, hcause⟩ := not_or.mp hquiet
    obtain ⟨g, hgroup⟩ := Option.ne_none_iff_exists'.mp hsome
    obtain ⟨r, hexec, hr⟩ := exec_coreRetirementReport_stops hup hret hgroup hcause
    refine ⟨_, hexec, ⟨r, State.stopGroup_mgr _ _ _, hr⟩, fun m g' hm hg hruns _ => ?_, by rw [State.stopGroup_only]; rfl⟩
    cases (hbind hm hg).symm.trans hgroup
    rw [State.stopGroup_group_self (show (s.addReport r).groupRuns g = true from hruns)]
    rfl

/-! ## Remapping (R128, R129) -/

/-- A logical core of a running group waits for its rollback boundary. -/
def State.coreWaits (s : State) (w l : Nat) : Prop := ∃ g, s.coreGroup w l = some g ∧ s.groupRuns g = true

theorem Worker.physOf_map (x : Worker) (l m : Nat) (v : Option Nat) :
    ({ x with cmap := x.cmap.set l v } : Worker).physOf m = if m = l then v else x.physOf m := Tab.get_set _ _ _ _ _

theorem State.loadProgram_only (s : State) (w n : Nat) : s.loadProgram w n = { s with workers := (s.loadProgram w n).workers } := by
  unfold State.loadProgram
  split <;> rfl

theorem State.loadProgram_physOf (s : State) (w n : Nat) : ((s.loadProgram w n).worker w).physOf = (s.worker w).physOf := by
  unfold State.loadProgram
  split
  · rw [State.updCore, State.updWorker_worker_self]; rfl
  · rfl

/-- A logical core mapped to a core, whose program area is loaded (R129). -/
def State.mapCore (s : State) (w l f : Nat) : State := (s.updWorker w fun x => { x with cmap := x.cmap.set l (some f) }).loadProgram w f

theorem State.mapCore_maps (s : State) (w l f : Nat) :
    ((s.mapCore w l f).worker w).physOf l = some f ∧ (∀ m, m ≠ l → ((s.mapCore w l f).worker w).physOf m = (s.worker w).physOf m) ∧
      s.mapCore w l f = { s with workers := (s.mapCore w l f).workers } := by
  have hphys (m : Nat) : ((s.mapCore w l f).worker w).physOf m = if m = l then some f else (s.worker w).physOf m := by
    rw [State.mapCore, State.loadProgram_physOf, State.updWorker_worker_self, Worker.physOf_map]
  refine ⟨by rw [hphys, if_pos rfl], fun m hm => by rw [hphys, if_neg hm], ?_⟩
  unfold State.mapCore
  rw [State.loadProgram_only]
  rfl

theorem State.remap_free (h : (s.worker w).freeCore = some f) (l : Nat) : s.remap w l = s.mapCore w l f := by
  unfold State.remap
  rw [h]
  rfl

theorem State.remap_unbound (h : (s.worker w).freeCore = none) (hbind : s.bindOf w l = none) :
    s.remap w l = s.updWorker w fun x => { x with cmap := x.cmap.set l none } := by
  unfold State.remap
  rw [h, hbind]
  rfl

/-- The worker with logical core `l` on the core of `u`, which is mapped to nothing. -/
def Worker.takeCore (x : Worker) (l u : Nat) : Worker := { x with cmap := (x.cmap.set u none).set l (x.physOf u) }

theorem Worker.takeCore_physOf (x : Worker) (l u m : Nat) :
    (x.takeCore l u).physOf m = if m = l then x.physOf u else if m = u then none else x.physOf m := by
  refine (Tab.get_set _ _ _ _ _).trans (if_congr Iff.rfl rfl ?_)
  exact Tab.get_set _ _ _ _ _

/-- The logical core that gives up its core is an unbound one that is mapped. -/
theorem State.exchangeCore_spec (hu : s.exchangeCore w = some u) : s.bindOf w u = none ∧ ∃ n, (s.worker w).physOf u = some n := by
  have h := List.find?_some hu
  simp only [Bool.and_eq_true, Option.isNone_iff_eq_none] at h
  refine ⟨h.1, ?_⟩
  cases hphys : (s.worker w).physOf u with
  | none => simp [hphys] at h
  | some n => exact ⟨n, rfl⟩

theorem State.remap_exchange (h : (s.worker w).freeCore = none) (hbind : s.bindOf w l ≠ none) (hu : s.exchangeCore w = some u)
    (hn : (s.worker w).physOf u = some n) : s.remap w l = (s.updWorker w fun x => x.takeCore l u).loadProgram w n := by
  unfold State.remap
  rw [h]
  dsimp only
  rw [if_neg (by simpa using hbind), hu]
  dsimp only
  rw [hn]
  rfl

theorem State.remap_fails (h : (s.worker w).freeCore = none) (hbind : s.bindOf w l ≠ none) (hu : s.exchangeCore w = none) :
    s.remap w l = s.declareFailed w := by
  unfold State.remap
  rw [h]
  dsimp only
  rw [if_neg (by simpa using hbind), hu]

/-- The logical core is the lowest of those that map to nothing. -/
theorem Worker.unmapped_head {x : Worker} (hl : l < 48) (hphys : x.physOf l = none) (hlow : ∀ m, m < l → x.physOf m ≠ none) :
    x.unmapped.head? = some l := by
  unfold Worker.unmapped
  rw [List.head?_filter, List.find?_range_eq_some]
  exact ⟨by rw [hphys]; rfl, List.mem_range.mpr hl, fun m hm => by simpa [Option.isSome_iff_ne_none] using hlow m hm⟩

theorem exec_logicalCoreRemap (hup : s.workerUp w = true) (hl : l < 48) (hfree : ¬s.coreWaits w l) :
    (∀ n, (s.worker w).physOf l = some n → (s.core w n).retired = true → exec (.logicalCoreRemap w l) s = .next (s.remap w l)) ∧
    (∀ f, (s.worker w).physOf l = none → (∀ m, m < l → (s.worker w).physOf m ≠ none) → (s.worker w).freeCore = some f →
      exec (.logicalCoreRemap w l) s = .next (s.mapCore w l f)) := by
  have hexec : exec (.logicalCoreRemap w l) s = execLogicalCoreRemap w l s := rfl
  unfold execLogicalCoreRemap at hexec
  dsimp only at hexec
  rw [if_pos (by
    refine ⟨hup, hl, ?_⟩
    cases hg : s.coreGroup w l with
    | none => rfl
    | some g => simpa using fun hruns => hfree ⟨g, hg, hruns⟩)] at hexec
  refine ⟨fun n hphys hret => ?_, fun f hphys hlow hcore => ?_⟩
  · rw [hexec, hphys]
    exact if_pos hret
  · rw [hexec, hphys, hcore]
    exact if_pos (Worker.unmapped_head hl hphys hlow)

theorem State.remap_unbound_maps (h : (s.worker w).freeCore = none) (hbind : s.bindOf w l = none) :
    ((s.remap w l).worker w).physOf l = none ∧ (∀ m, m ≠ l → ((s.remap w l).worker w).physOf m = (s.worker w).physOf m) ∧
      s.remap w l = { s with workers := (s.remap w l).workers } := by
  rw [State.remap_unbound h hbind, State.updWorker_worker_self]
  exact ⟨by rw [Worker.physOf_map, if_pos rfl], fun m hm => by rw [Worker.physOf_map, if_neg hm], rfl⟩

theorem State.remap_exchange_maps (h : (s.worker w).freeCore = none) (hbind : s.bindOf w l ≠ none) (hu : s.exchangeCore w = some u) :
    ((s.remap w l).worker w).physOf l = (s.worker w).physOf u ∧ ((s.remap w l).worker w).physOf u = none ∧
      (∀ m, m ≠ l → m ≠ u → ((s.remap w l).worker w).physOf m = (s.worker w).physOf m) ∧
      s.remap w l = { s with workers := (s.remap w l).workers } := by
  obtain ⟨hunbound, n, hn⟩ := State.exchangeCore_spec hu
  have hne : u ≠ l := fun e => hbind (e ▸ hunbound)
  have hphys (m : Nat) : ((s.remap w l).worker w).physOf m =
      if m = l then (s.worker w).physOf u else if m = u then none else (s.worker w).physOf m := by
    rw [State.remap_exchange h hbind hu hn, State.loadProgram_physOf, State.updWorker_worker_self, Worker.takeCore_physOf]
  refine ⟨by rw [hphys, if_pos rfl], by rw [hphys, if_neg hne, if_pos rfl], fun m hl hm => by rw [hphys, if_neg hl, if_neg hm], ?_⟩
  rw [State.remap_exchange h hbind hu hn, State.loadProgram_only]
  rfl

theorem State.workerUp_of_failed (h : (s.worker w).failed = true) : s.workerUp w = false := by simp [State.workerUp, h]

/-! ## Memory (R152, R155) -/

theorem completes_memoryTemperatureReport {z : Int} (hup : s.workerUp w = true) (hfit : u < 8 ∨ (u < 24 ∧ s.fit.tierB = true))
    (hpow : (s.worker w).powered (if u < 8 then 7 else 8) = true) : Completes (.memoryTemperatureReport w u z) s fun t =>
      (t.worker w).temps.get 0 u = z ∧ (∀ v, v ≠ u → (t.worker w).temps.get 0 v = (s.worker w).temps.get 0 v) ∧
      (t.worker w).hotNext = some ((t.worker w).temps.cells.any fun x => decide (85 * 128 < x.2)) ∧
      t.worker w = { s.worker w with temps := (t.worker w).temps, hotNext := (t.worker w).hotNext } ∧
      (∀ v, v ≠ w → t.worker v = s.worker v) ∧ t = { s with workers := t.workers } := by
  refine ⟨_, if_pos (by simpa [hup, hpow] using hfit), ?_⟩
  dsimp only
  rw [State.updWorker_worker_self]
  exact ⟨Tab.get_set_self _ _ _ _, fun v hv => Tab.get_set_ne _ _ _ hv, rfl, rfl, fun v hv => State.updWorker_worker_ne _ _ hv, rfl⟩

/-- The worker with a page due retired onto a spare page of stack or module `m` (R155). -/
def Worker.retirePage (x : Worker) (page m : Nat) : Worker :=
  { x with
    retireDue := x.retireDue.filter fun q => q.1 != page
    retiredPages := x.retiredPages ++ [page]
    spares := x.spares.set m (x.spares.get 255 m - 1)
    sparesMin := min x.sparesMin (x.spares.get 255 m - 1)
    pageCorr := x.pageCorr.erase page }

theorem State.losePage_workers (s : State) (w page : Nat) : (s.losePage w page).workers = s.workers := by
  unfold State.losePage
  dsimp only
  rfl

section
variable {lost : Bool} (hup : s.workerUp w = true) (hdue : (s.worker w).retireDue.find? (fun p => p.1 == page) = some (page, lost, m))
include hup hdue

theorem exec_pageRetirement_spare (hleft : 0 < (s.worker w).spares.get 255 m) : exec (.pageRetirement w page) s =
    .next (if lost then (s.updWorker w fun x => x.retirePage page m).losePage w page else s.updWorker w fun x => x.retirePage page m) := by
  show execPageRetirement w page s = _
  unfold execPageRetirement
  dsimp only
  rw [hdue]
  dsimp only
  rw [if_pos hup, if_neg hleft.ne']
  rfl

theorem exec_pageRetirement_fails (hleft : (s.worker w).spares.get 255 m = 0) :
    exec (.pageRetirement w page) s = .next (s.declareFailed w) := by
  show execPageRetirement w page s = _
  unfold execPageRetirement
  dsimp only
  rw [hdue]
  dsimp only
  rw [if_pos hup, if_pos hleft]

theorem completes_pageRetirement_spare (hleft : 0 < (s.worker w).spares.get 255 m) : Completes (.pageRetirement w page) s fun t =>
    page ∈ (t.worker w).retiredPages ∧ (t.worker w).spares.get 255 m + 1 = (s.worker w).spares.get 255 m ∧
    (∀ p ∈ (t.worker w).retireDue, p.1 ≠ page) ∧ (t.worker w).failed = false ∧ t.mem = s.mem ∧
    (lost = false → t = { s with workers := t.workers }) := by
  have hrec (b : Bool) : (if b then (s.updWorker w fun x => x.retirePage page m).losePage w page
      else s.updWorker w fun x => x.retirePage page m).worker w = (s.worker w).retirePage page m := by
    split
    · rw [State.worker, State.losePage_workers]; exact State.updWorker_worker_self s w _
    · exact State.updWorker_worker_self s w _
  have hfailed : (s.worker w).failed = false := by
    simp only [State.workerUp, Bool.and_eq_true, Bool.not_eq_true'] at hup
    exact hup.2
  refine ⟨_, exec_pageRetirement_spare hup hdue hleft, ?_⟩
  dsimp only
  rw [hrec]
  refine ⟨List.mem_append_right _ (List.mem_singleton_self page), ?_, fun p hp => ?_, hfailed, ?_, fun hkept => by rw [hkept]; rfl⟩
  · rw [Worker.retirePage, Tab.get_set_self]
    omega
  · simpa using (List.mem_filter.mp hp).2
  · split
    · exact State.losePage_mem _ w page
    · rfl

theorem completes_pageRetirement_fails (hleft : (s.worker w).spares.get 255 m = 0) : Completes (.pageRetirement w page) s fun t =>
    (t.worker w).failed = true ∧ (t.worker w).pwr = 0 ∧ (t.worker w).keys = Tab.empty ∧
    (t.hub (sledOf w)).failed.testBit (siteOf w) = true := by
  obtain ⟨hlost, hhub⟩ := State.declareFailed_lost hup
  simp only [Worker.losses, Prod.mk.injEq] at hlost
  exact ⟨_, exec_pageRetirement_fails hup hdue hleft, hlost.1, hlost.2.1, hlost.2.2, hhub⟩

end

/-- Settles O38: the report by the group that it stops; a remapping by what it leaves of the map; a worker with nothing to take a bound core
or a page by what it has lost when it is failed. -/
theorem failedCoresAndPagesAreReplaced : Obligations.FailedCoresAndPagesAreReplaced := by
  unfold Obligations.FailedCoresAndPagesAreReplaced
  refine ⟨fun s w n l f hup => ⟨completes_coreRetirementReport hup, fun hl hfree hphys hret => ?retired,
    fun hl hfree hphys hlow hcore => ⟨_, (exec_logicalCoreRemap hup hl hfree).2 f hphys hlow hcore, s.mapCore_maps w l f⟩⟩,
    fun s w u z => completes_memoryTemperatureReport,
    fun s w page lost m hup hdue => ⟨completes_pageRetirement_spare hup hdue, completes_pageRetirement_fails hup hdue⟩⟩
  have hexec := (exec_logicalCoreRemap hup hl hfree).1 n hphys hret
  refine ⟨fun hcore => ?_, fun hnone hbind => ?_, fun u hnone hbind hu => ?_, fun hnone hbind hu => ?_⟩
  · rw [State.remap_free hcore] at hexec
    exact ⟨_, hexec, s.mapCore_maps w l f⟩
  · exact ⟨_, hexec, State.remap_unbound_maps hnone hbind⟩
  · exact ⟨_, hexec, State.remap_exchange_maps hnone hbind hu⟩
  · rw [State.remap_fails hnone hbind hu] at hexec
    refine ⟨_, hexec, State.workerUp_of_failed ?_⟩
    exact congrArg Prod.fst (State.declareFailed_lost hup).1

end Sys2Proof.Machine
end

section
/-! SUPPORT. What a core's operation finds of the tiers when it issues, and what stands among the deliveries that it adds. -/

namespace Sys2Proof.Machine

variable {s t u : State} {w n g port occ : Nat} {sl : Slot}

/-! ## Tiers -/

/-- What of a worker a read of its tiers and a check of its pages rest on: what it has still to deliver, its keys, its Mound objects, what
its tiers have lost, and the images of its banks. -/
def Worker.stores (x : Worker) : List PendWrite × Tab KeySlot × Tab MObj × Tab Nat × Nat × Nat :=
  (x.inflight, x.keys, x.objs, x.lost, x.bankIds)

/-- From `s` to `t` nothing changes but workers, and of them nothing that their tiers rest on. -/
structure State.SameStores (s t : State) : Prop where
  rest : t = { s with workers := t.workers }
  stores : ∀ v, (t.worker v).stores = (s.worker v).stores

theorem State.SameStores.refl (s : State) : State.SameStores s s := ⟨rfl, fun _ => rfl⟩

theorem State.SameStores.trans (h₁ : State.SameStores s t) (h₂ : State.SameStores t u) : State.SameStores s u where
  rest := by rw [h₂.rest, h₁.rest]
  stores v := (h₂.stores v).trans (h₁.stores v)

theorem State.sameStores_updWorker {f : Worker → Worker} (hf : ∀ x, (f x).stores = x.stores) (s : State) (w : Nat) :
    State.SameStores s (s.updWorker w f) where
  rest := rfl
  stores v := by
    rw [State.updWorker_worker]
    split
    next h => rw [hf, h]
    next => rfl

namespace State.SameStores

variable (h : State.SameStores s t)
include h

theorem inflight (v : Nat) : (t.worker v).inflight = (s.worker v).inflight := congrArg Prod.fst (h.stores v)

theorem slot (v o : Nat) : (t.worker v).slot o = (s.worker v).slot o := by
  have hkeys : (t.worker v).keys = (s.worker v).keys := congrArg (fun z => z.2.1) (h.stores v)
  rw [Worker.slot, hkeys, Worker.slot]

theorem objs (v : Nat) : (t.worker v).objs = (s.worker v).objs := congrArg (fun z => z.2.2.1) (h.stores v)

theorem lost (v : Nat) : (t.worker v).lost = (s.worker v).lost := congrArg (fun z => z.2.2.2.1) (h.stores v)

theorem bankIds (v : Nat) : (t.worker v).bankIds = (s.worker v).bankIds := congrArg (fun z => z.2.2.2.2) (h.stores v)

theorem mem : t.mem = s.mem := by rw [h.rest]

theorem keyTag : t.keyTag = s.keyTag := by rw [h.rest]

theorem fresh : t.mgr.fresh = s.mgr.fresh := by rw [h.rest]

theorem hub (k : Nat) : t.hub k = s.hub k := by rw [h.rest]; rfl

theorem group (g : Nat) : t.group g = s.group g := by rw [h.rest]; rfl

theorem groupOwner (g : Nat) : t.groupOwner g = s.groupOwner g := by rw [h.rest]; rfl

theorem roleOf (v : Nat) : t.roleOf v = s.roleOf v := by rw [State.roleOf, h.hub, State.roleOf]

theorem shares (v : Nat) : t.shares v = s.shares v := by rw [State.shares, h.hub, h.roleOf, State.shares]

theorem tierPresent (a : Nat) : t.tierPresent a = s.tierPresent a := by rw [h.rest]; rfl

theorem pageOwner (v space off : Nat) : t.pageOwner v space off = s.pageOwner v space off := by
  have hholder : (t.worker v).holder = (s.worker v).holder := by
    unfold Worker.holder
    rw [h.objs]
  unfold State.pageOwner
  rw [h.hub, h.roleOf, h.shares, hholder]

theorem mayRead (g a : Nat) : t.mayRead g a = s.mayRead g a := by
  unfold State.mayRead
  rw [h.pageOwner, h.groupOwner]

theorem mayWrite (g : Nat) : t.mayWrite g = s.mayWrite g := by
  unfold State.mayWrite
  simp only [h.pageOwner, h.groupOwner]

theorem maySend (g d off : Nat) : t.maySend g d off = s.maySend g d off := by
  unfold State.maySend
  simp only [h.tierPresent, h.mayWrite]

theorem ownLine (w a i : Nat) : t.ownLine w a i = s.ownLine w a i := by
  unfold State.ownLine
  simp only [h.roleOf, h.tierPresent]

theorem mwrRanges (w g a len : Nat) : t.mwrRanges w g a len = s.mwrRanges w g a len := by
  unfold State.mwrRanges
  simp only [h.ownLine, h.mayWrite]

theorem moundLine (w g off : Nat) : t.moundLine w g off = s.moundLine w g off := by
  unfold State.moundLine
  rw [h.objs, h.group, h.shares, h.groupOwner]

theorem mrdLine (w g a i : Nat) : t.mrdLine w g a i = s.mrdLine w g a i := by
  unfold State.mrdLine
  simp only [h.roleOf, h.moundLine, h.ownLine, h.mayRead]

theorem tagAt (line : Nat) : t.tagAt line = s.tagAt line := by rw [State.tagAt, h.keyTag, h.lost, State.tagAt]

theorem keyAt (a : Nat) : t.keyAt a = s.keyAt a := by
  unfold State.keyAt
  rw [h.pageOwner, h.slot]

theorem bankImage (a : Nat) : t.bankImage a = s.bankImage a := by
  unfold State.bankImage
  rw [h.bankIds]

theorem cipherLine (line : Nat) : t.cipherLine line = s.cipherLine line := by
  unfold State.cipherLine
  rw [h.tagAt, h.mem]

theorem tierByte (a : Nat) : t.tierByte a = s.tierByte a := by
  unfold State.tierByte
  rw [h.tagAt, h.keyAt, h.keyTag, h.bankImage, h.mem, h.cipherLine]

theorem tierRead (w a len : Nat) : t.tierRead w a len = s.tierRead w a len := by
  unfold State.tierRead
  simp only [h.fresh, h.tierByte, h.inflight]

end State.SameStores

/-! ## What an operation finds -/

/-- An operation finds the tiers, and what is to be delivered, as the slot's cycle has left them. -/
theorem State.issued_sameStores (s : State) (w n port occ : Nat) (sl : Slot) :
    State.SameStores (s.flush w sl.issue) (s.issued w n port occ sl) := by
  rw [State.issued, State.updCore]
  exact State.sameStores_updWorker (by exact fun _ => rfl) _ w

/-- Of its worker an operation finds all but the cores as the slot's cycle has left it. -/
theorem State.issued_worker (s : State) (w n port occ : Nat) (sl : Slot) : (s.issued w n port occ sl).worker w =
    { (s.flush w sl.issue).worker w with cores := ((s.issued w n port occ sl).worker w).cores } := by
  rw [State.issued, State.updCore, State.updWorker_worker_self]
  rfl

theorem State.draw_worker (s : State) : s.draw.2.worker = s.worker := rfl

theorem State.draw_circ (s : State) : s.draw.2.circ = s.circ := rfl

theorem State.storeAt_length (s : State) (w n : Nat) (place : Option Nat) (len : Nat) : (s.storeAt w n place len).length = len := by
  cases place with
  | none => exact List.length_replicate
  | some a => simp [State.storeAt, State.storeBytes]

/-! ## Deliveries that are added -/

theorem mem_foldl_insertPend_iff {p : PendWrite} {ps l : List PendWrite} :
    p ∈ ps.foldl (fun l p => insertPend p l) l ↔ p ∈ ps ∨ p ∈ l := by
  refine ⟨fun h => ?_, mem_foldl_insertPend⟩
  induction ps generalizing l with
  | nil => exact .inr h
  | cons q ps ih =>
    rcases ih h with hps | hl
    · exact .inl (List.mem_cons_of_mem q hps)
    · rw [mem_insertPend] at hl
      exact hl.imp_left fun e => List.mem_cons.mpr (.inl e)

theorem State.mem_deliverAll {p : PendWrite} {ps : List PendWrite} :
    p ∈ ((s.deliverAll w ps).worker w).inflight ↔ p ∈ ps ∨ p ∈ (s.worker w).inflight := by
  rw [State.deliverAll_inflight, mem_foldl_insertPend_iff]

theorem State.deliverTo_some (s : State) (w a : Nat) (p : Nat → PendWrite) :
    ((s.deliverTo w (some a) p).worker w).inflight = insertPend (p a) (s.worker w).inflight := by
  rw [State.deliverTo, State.deliverAt, State.updWorker_worker_self]

theorem State.mem_deliverTo_of_mem {q : PendWrite} (h : q ∈ (s.worker w).inflight) (place : Option Nat) (p : Nat → PendWrite) :
    q ∈ ((s.deliverTo w place p).worker w).inflight := by
  cases place with
  | none => exact h
  | some a => rw [State.deliverTo_some, mem_insertPend]; exact .inr h

theorem State.mem_deliverTo_some (s : State) (w a : Nat) (p : Nat → PendWrite) :
    p a ∈ ((s.deliverTo w (some a) p).worker w).inflight := by
  rw [State.deliverTo_some, mem_insertPend]; exact .inl rfl

/-- Of a worker a delivery changes what it has to deliver. -/
theorem State.deliverTo_denied (s : State) (w : Nat) (place : Option Nat) (p : Nat → PendWrite) :
    ((s.deliverTo w place p).worker w).denied = (s.worker w).denied := by
  cases place with
  | none => rfl
  | some a => rw [State.deliverTo, State.deliverAt, State.updWorker_worker_self]

/-- What holds after one step of a fold, and is kept by every step, holds after the fold. -/
theorem foldl_attains {α : Type} {P : State → Prop} {f : State → α → State} {i : α} (hstep : ∀ a, P (f a i))
    (hkept : ∀ a k, P a → P (f a k)) {l : List α} (hi : i ∈ l) (s : State) : P (l.foldl f s) := by
  have hkeep (l : List α) (s : State) (h : P s) : P (l.foldl f s) := by
    induction l generalizing s with
    | nil => exact h
    | cons k l ih => exact ih _ (hkept s k h)
  induction l generalizing s with
  | nil => exact absurd hi List.not_mem_nil
  | cons k l ih =>
    rcases List.mem_cons.mp hi with rfl | hl
    · exact hkeep l _ (hstep s)
    · exact ih hl _

end Sys2Proof.Machine
end

section
/-! SUPPORT. The movers (Table 5.5, R142, R143): the operands of a slot, and what each operation leaves to be delivered. -/

namespace Sys2Proof.Machine

variable {s t : State} {w n g q b j occ : Nat} {sl : Slot}

/-! ## Operands -/

/-- The addresses that a slot of a core names at X and at Y. -/
def State.addrX (s : State) (w n : Nat) (sl : Slot) : Nat := (s.core w n).operand sl.ax sl.ox

def State.addrY (s : State) (w n : Nat) (sl : Slot) : Nat := (s.core w n).operand sl.ay sl.oy

/-- The bytes of the core's own store at which operands of `len` bytes at X and at Y lie. -/
def State.placeX (s : State) (w n : Nat) (sl : Slot) (len : Nat) : Option Nat := s.ownStore w (s.logicalNo w n) (s.addrX w n sl) len

def State.placeY (s : State) (w n : Nat) (sl : Slot) (len : Nat) : Option Nat := s.ownStore w (s.logicalNo w n) (s.addrY w n sl) len

/-- The group whose pages a core may use; 32 for none. -/
def State.slotGroup (s : State) (w n : Nat) : Nat := (s.coreGroup w (s.logicalNo w n)).getD 32

/-! ## MRD -/

/-- The bytes of a line that is read without error: of a line that is absent or denied, zeros. -/
def State.lineBytes (s : State) (w : Nat) (line : LineSource) : List Byte :=
  match line with
  | .tier a => s.tierRead w a 64
  | _ => List.replicate 64 0

/-- Denied lines counted on a worker. -/
def State.countDenied (s : State) (w : Nat) (ls : List Nat) : State :=
  ls.foldl (fun st _ => st.updWorker w fun x => { x with denied := satInc 0xFFFFFFFF x.denied }) s

/-- What reading `len` lines from `src` on without error leaves, and their bytes. -/
def State.readLines (s : State) (w g src len : Nat) : State × List Byte :=
  (List.range len).foldl (init := (s, ([] : List Byte))) fun acc i =>
    let q := acc.1.readLine w g i 0 (s.mrdLine w g src i)
    (q.1, acc.2 ++ q.2)

/-- The lines of an MRD that a Mound denies (R183). -/
def State.deniedLines (s : State) (w g src len : Nat) : List Nat := (List.range len).filter fun i => s.mrdLine w g src i == .denied

/-- The bytes that an MRD reads. -/
def State.readBytes (s : State) (w g src len : Nat) : List Byte := (List.range len).flatMap fun i => s.lineBytes w (s.mrdLine w g src i)

theorem State.countDenied_sameStores (s : State) (w : Nat) (ls : List Nat) : State.SameStores s (s.countDenied w ls) := by
  induction ls generalizing s with
  | nil => exact .refl s
  | cons i ls ih => exact (State.sameStores_updWorker (by exact fun _ => rfl) s w).trans (ih _)

theorem State.countDenied_denied (s : State) (w : Nat) (ls : List Nat) :
    ((s.countDenied w ls).worker w).denied = ls.foldl (fun k _ => min 0xFFFFFFFF (k + 1)) (s.worker w).denied := by
  induction ls generalizing s with
  | nil => rfl
  | cons i ls ih =>
    refine (ih _).trans ?_
    rw [State.updWorker_worker_self]
    rfl

theorem State.countDenied_append (s : State) (w : Nat) (ls ms : List Nat) :
    s.countDenied w (ls ++ ms) = (s.countDenied w ls).countDenied w ms := List.foldl_append

theorem State.deniedLines_succ (s : State) (w g src len : Nat) : s.deniedLines w g src (len + 1) =
    s.deniedLines w g src len ++ if s.mrdLine w g src len == .denied then [len] else [] := by
  rw [State.deniedLines, List.range_succ, List.filter_append, List.filter_cons, List.filter_nil]
  rfl

theorem State.readLine_clean (s : State) (w g i : Nat) (line : LineSource) :
    s.readLine w g i 0 line = (s.countDenied w (if line == .denied then [i] else []), s.lineBytes w line) := by
  cases line with
  | absent => rfl
  | denied => rfl
  | tier a => rfl

/-- Lines read one by one read as they would all at once: counting a denied line touches no tier. -/
theorem State.readLines_eq (s : State) (w g src len : Nat) :
    s.readLines w g src len = (s.countDenied w (s.deniedLines w g src len), s.readBytes w g src len) := by
  induction len with
  | zero => rfl
  | succ len ih =>
    have hbytes (line : LineSource) : (s.countDenied w (s.deniedLines w g src len)).lineBytes w line = s.lineBytes w line := by
      unfold State.lineBytes
      simp only [(s.countDenied_sameStores w _).tierRead]
    have hlast : s.readLines w g src (len + 1) =
        (((s.readLines w g src len).1.readLine w g len 0 (s.mrdLine w g src len)).1,
          (s.readLines w g src len).2 ++ ((s.readLines w g src len).1.readLine w g len 0 (s.mrdLine w g src len)).2) := by
      rw [State.readLines, List.range_succ, List.foldl_append]
      rfl
    rw [hlast, ih, State.readLine_clean, hbytes, State.deniedLines_succ, State.countDenied_append]
    exact Prod.ext rfl (by simp [State.readBytes, List.range_succ])

theorem State.SameStores.readBytes (h : State.SameStores s t) (w g src len : Nat) : t.readBytes w g src len = s.readBytes w g src len := by
  unfold State.readBytes State.lineBytes
  simp only [h.mrdLine, h.tierRead]

theorem State.SameStores.deniedLines (h : State.SameStores s t) (w g src len : Nat) :
    t.deniedLines w g src len = s.deniedLines w g src len := by
  unfold State.deniedLines
  simp only [h.mrdLine]

/-- What an MRD from a fast or a slow tier leaves to be delivered at byte `a` of the core's store. -/
def PendWrite.ofMrd (sl : Slot) (n : Nat) (slow : Bool) (bytes : List Byte) (a : Nat) : PendWrite :=
  { issued := sl.issue, ready := sl.issue + if slow then 1536 + 4 * (sl.len - 1) else 448 + ceilDiv sl.len 4 - 1, core := n, kind := 0
    unit := 0, id := 0, addr := a, bytes := bytes }

theorem exec_mrd (w n : Nat) (sl : Slot) (s : State) : exec (.mrd w n sl []) s =
    .next (s.issue w n (if s.slowTier w (s.addrX w n sl) then 4 else 3)
      (if s.slowTier w (s.addrX w n sl) then 4 * sl.len else ceilDiv sl.len 4) 0x30 sl (decide (1 ≤ sl.len)) fun st =>
      (st.readLines w (s.slotGroup w n) (s.addrX w n sl) sl.len).1.deliverTo w (s.placeY w n sl (64 * sl.len))
        (PendWrite.ofMrd sl n (s.slowTier w (s.addrX w n sl)) (st.readLines w (s.slotGroup w n) (s.addrX w n sl) sl.len).2)) := rfl

/-- An MRD, with the bytes of line `i` given by any function that reads them as the worker does. -/
theorem completes_mrd {lineOf : Nat → List Byte} (hlen : 1 ≤ sl.len)
    (hline : ∀ i, lineOf i =
      (s.flush w sl.issue).lineBytes w ((s.flush w sl.issue).mrdLine w (s.slotGroup w n) (s.addrX w n sl) i))
    (hissues : s.slotIssues w n (if s.slowTier w (s.addrX w n sl) then 4 else 3) 0x30 sl) :
    Completes (.mrd w n sl []) s fun t =>
      let now := s.flush w sl.issue
      let old := (now.worker w).inflight
      (∀ y, s.placeY w n sl (64 * sl.len) = some y → (t.worker w).inflight = insertPend (PendWrite.ofMrd sl n (s.slowTier w (s.addrX w n sl))
        ((List.range sl.len).flatMap lineOf) y) old) ∧
      (s.placeY w n sl (64 * sl.len) = none → (t.worker w).inflight = old) ∧
      (t.worker w).denied = (now.deniedLines w (s.slotGroup w n) (s.addrX w n sl) sl.len).foldl (fun k _ => min 0xFFFFFFFF (k + 1))
        (now.worker w).denied ∧
      t.mem = now.mem := by
  have hbytes : (s.flush w sl.issue).readBytes w (s.slotGroup w n) (s.addrX w n sl) sl.len = (List.range sl.len).flatMap lineOf := by
    rw [State.readBytes, show lineOf = _ from funext hline]
  have hexec := exec_mrd w n sl s
  generalize (if s.slowTier w (s.addrX w n sl) then 4 else 3) = port at hexec hissues
  generalize (if s.slowTier w (s.addrX w n sl) then 4 * sl.len else ceilDiv sl.len 4) = occ at hexec
  have hfound := s.issued_sameStores w n port occ sl
  rw [State.issue_of_issues hissues (decide_eq_true hlen), State.readLines_eq, hfound.readBytes, hbytes] at hexec
  have hread := hfound.trans (State.countDenied_sameStores _ w
    ((s.issued w n port occ sl).deniedLines w (s.slotGroup w n) (s.addrX w n sl) sl.len))
  refine ⟨_, hexec, fun y hy => ?_, fun hnone => ?_, ?_, ?_⟩
  · rw [State.draw_worker, hy, State.deliverTo_some, hread.inflight]
  · rw [State.draw_worker, hnone]
    exact hread.inflight w
  · rw [State.draw_worker, State.deliverTo_denied, State.countDenied_denied, hfound.deniedLines, State.issued_worker]
  · rw [State.draw_mem, State.deliverTo_mem, hread.mem]

/-! ## MWR -/

/-- Every range of an MWR begins with one of its lines, which its group may write. -/
theorem State.mem_mwrRanges {a len : Nat} {r : Nat × Nat × Nat} (h : r ∈ s.mwrRanges w g a len) :
    ∃ i, i < len ∧ s.ownLine w a i = some r.1 ∧ s.mayWrite g r.1 = true := by
  have hline {x : Nat} (hx : some x ∈ (List.range len).map fun i => (s.ownLine w a i).filter (s.mayWrite g)) :
      ∃ i, i < len ∧ s.ownLine w a i = some x ∧ s.mayWrite g x = true := by
    obtain ⟨i, hi, hix⟩ := List.mem_map.mp hx
    obtain ⟨hown, hmay⟩ := Option.filter_eq_some_iff.mp hix
    exact ⟨i, List.mem_range.mp hi, hown, hmay⟩
  have hone {ls : List (Option Nat)} (hr : r ∈ ls.zipIdx.filterMap fun l => l.1.map fun x => (x, l.2, 1)) : some r.1 ∈ ls := by
    obtain ⟨l, hl, hlr⟩ := List.mem_filterMap.mp hr
    obtain ⟨x, hx, rfl⟩ := Option.map_eq_some_iff.mp hlr
    rw [← hx]
    exact List.fst_mem_of_mem_zipIdx hl
  unfold State.mwrRanges at h
  dsimp only at h
  split at h
  next x rest hlines =>
    split at h
    · rw [List.mem_singleton.mp h]
      exact hline (hlines ▸ List.mem_cons_self)
    · exact hline (hone h)
  next => exact hline (hone h)

/-- An MWR all of whose lines may be written writes them as one range. -/
theorem State.mwrRanges_whole {a len y : Nat} (hlen : 1 ≤ len)
    (h : ∀ i, i < len → s.ownLine w a i = some (y + 64 * i) ∧ s.mayWrite g (y + 64 * i) = true) : s.mwrRanges w g a len = [(y, 0, len)] := by
  have hlines : (List.range len).map (fun i => (s.ownLine w a i).filter (s.mayWrite g)) = (List.range len).map fun i => some (y + 64 * i) :=
    List.map_congr_left fun i hi => by
      obtain ⟨hown, hmay⟩ := h i (List.mem_range.mp hi)
      rw [hown, Option.filter_some, if_pos hmay]
  unfold State.mwrRanges
  dsimp only
  rw [hlines]
  obtain ⟨k, rfl⟩ := Nat.exists_eq_add_of_le' hlen
  rw [List.range_succ_eq_map]
  simp

/-- What an MWR leaves to be written for a range of its lines. -/
def PendWrite.ofMwr (sl : Slot) (n : Nat) (slow : Bool) (data : List Byte) (r : Nat × Nat × Nat) : PendWrite :=
  { issued := sl.issue, ready := sl.issue + (if slow then 1280 + 4 * (sl.len - 1) else 320 + ceilDiv sl.len 4 - 1), core := n, kind := 1
    unit := 0, id := 0, addr := r.1, bytes := (data.drop (64 * r.2.1)).take (64 * r.2.2) }

theorem PendWrite.ofMwr_whole_bytes (sl : Slot) (n : Nat) (slow : Bool) (y : Nat) {data : List Byte} (h : data.length = 64 * sl.len) :
    (PendWrite.ofMwr sl n slow data (y, 0, sl.len)).bytes = data := List.take_of_length_le h.le

/-- The mover port of an MWR, by the space that it writes. -/
theorem if_beq_one (space : Nat) : (if space == 1 then 4 else 3) = if space = 1 then 4 else 3 := by simp only [beq_iff_eq]

theorem exec_mwr (w n : Nat) (sl : Slot) (s : State) : exec (.mwr w n sl) s =
    .next (s.issue w n (if addrSpace (s.addrY w n sl) == 1 then 4 else 3)
      (if addrSpace (s.addrY w n sl) == 1 then 4 * sl.len else ceilDiv sl.len 4) 0x31 sl (decide (1 ≤ sl.len)) fun st =>
      st.deliverAll w <| (st.mwrRanges w (s.slotGroup w n) (s.addrY w n sl) sl.len).map <|
        PendWrite.ofMwr sl n (addrSpace (s.addrY w n sl) == 1) (st.storeAt w n (s.placeX w n sl (64 * sl.len)) (64 * sl.len))) := rfl

theorem completes_mwr (hlen : 1 ≤ sl.len) (hissues : s.slotIssues w n (if addrSpace (s.addrY w n sl) = 1 then 4 else 3) 0x31 sl) :
    Completes (.mwr w n sl) s fun t =>
      let now := s.flush w sl.issue
      let dst := s.addrY w n sl
      let g := s.slotGroup w n
      (∀ y, (∀ i, i < sl.len → now.ownLine w dst i = some (y + 64 * i) ∧ now.mayWrite g (y + 64 * i) = true) →
        ∃ p ∈ (t.worker w).inflight, p.kind = 1 ∧ p.core = n ∧ p.addr = y ∧
          p.bytes = now.storeAt w n (s.placeX w n sl (64 * sl.len)) (64 * sl.len)) ∧
      (∀ p ∈ (t.worker w).inflight, p ∈ (now.worker w).inflight ∨ (p.kind = 1 ∧ ∃ i, i < sl.len ∧ now.ownLine w dst i = some p.addr ∧
        now.mayWrite g p.addr = true)) ∧
      t.mem = now.mem := by
  have hport := if_beq_one (addrSpace (s.addrY w n sl))
  have hexec := exec_mwr w n sl s
  have hfound := s.issued_sameStores w n (if addrSpace (s.addrY w n sl) == 1 then 4 else 3)
    (if addrSpace (s.addrY w n sl) == 1 then 4 * sl.len else ceilDiv sl.len 4) sl
  rw [State.issue_of_issues (hport ▸ hissues) (decide_eq_true hlen), State.issued_storeAt, hfound.mwrRanges] at hexec
  refine ⟨_, hexec, fun y hy => ?_, fun p hp => ?_, ?_⟩
  · rw [State.draw_worker, State.mwrRanges_whole hlen hy]
    refine ⟨_, State.mem_deliverAll.mpr (.inl (List.mem_singleton_self _)), rfl, rfl, rfl, ?_⟩
    exact PendWrite.ofMwr_whole_bytes sl n _ y (State.storeAt_length _ _ _ _ _)
  · rw [State.draw_worker, State.mem_deliverAll, hfound.inflight, List.mem_map] at hp
    rcases hp with ⟨r, hr, rfl⟩ | hold
    · exact .inr ⟨rfl, State.mem_mwrRanges hr⟩
    · exact .inl hold
  · rw [State.draw_mem, State.deliverAll_mem, hfound.mem]

/-! ## LSEND and OSEND -/

/-- The bytes of flit `i` of a send that finds the store in the state `st`. -/
def State.flitBytes (s st : State) (w n : Nat) (sl : Slot) (i : Nat) : List Byte :=
  st.storeAt w n ((s.placeX w n sl (256 * sl.len)).map (· + 256 * i)) 256

theorem State.issued_flitBytes (s : State) (w n port occ : Nat) (sl : Slot) :
    s.flitBytes (s.issued w n port occ sl) w n sl = s.flitBytes (s.flush w sl.issue) w n sl :=
  funext fun _ => s.issued_storeAt w n port occ sl _ _

/-- Flit `i` of an LSEND on board link `j` to byte `b` of the store of core `q` of the peer. -/
def PendWrite.ofLsend (sl : Slot) (n q b j : Nat) (bytes : Nat → List Byte) (i : Nat) : PendWrite :=
  { issued := sl.issue, ready := sl.issue + 210 + i * 512 / 125, core := n, kind := 2, unit := j, id := sl.aux % 4096
    addr := (q * 2 ^ 22 + b + 256 * i) / 64, bytes := bytes i }

/-- LSEND where its operands name a store of the peer and a board link. `execLsend` is unfolded as a function: applied to the slot, its match
would have the kernel evaluate the operand's address. -/
theorem exec_lsend (hplace : storePlace (s.addrY w n sl) = some (q, b)) (hflow : s.flowLink w (sl.aux % 4096) = some j) :
    exec (.lsend w n sl) s =
      .next (s.issue w n (6 + j) (ceilDiv (sl.len * 512) 125) 0x40 sl (decide (1 ≤ sl.len) && decide (b % 64 = 0)) fun st =>
        if ((st.worker w).link j).up then st.deliverAll w ((List.range sl.len).map (PendWrite.ofLsend sl n q b j (s.flitBytes st w n sl)))
        else st.updLink w j fun l => { l with discard := satAdd 0xFFFFFFFF l.discard sl.len }) := by
  rw [State.addrY] at hplace
  refine (?_ : ∀ f, f = execLsend → f w n sl s = _) _ rfl
  intro f hf
  delta execLsend at hf
  rw [hf]
  dsimp only
  rw [hplace, hflow]
  rfl

/-- What an LSEND that issues leaves, by whether its link is up. -/
theorem exec_lsend_issues (hlen : 1 ≤ sl.len) (hplace : storePlace (s.addrY w n sl) = some (q, b)) (halign : b % 64 = 0)
    (hflow : s.flowLink w (sl.aux % 4096) = some j) (hissues : s.slotIssues w n (6 + j) 0x40 sl) :
    let st := s.issued w n (6 + j) (ceilDiv (sl.len * 512) 125) sl
    exec (.lsend w n sl) s = .next (if (((s.flush w sl.issue).worker w).link j).up then
      st.deliverAll w ((List.range sl.len).map (PendWrite.ofLsend sl n q b j (s.flitBytes (s.flush w sl.issue) w n sl)))
      else st.updLink w j fun l => { l with discard := satAdd 0xFFFFFFFF l.discard sl.len }).draw.2 := by
  have hexec := exec_lsend hplace hflow
  rw [State.issue_of_issues hissues (by simp [hlen, halign]), State.issued_flitBytes, State.issued_worker] at hexec
  exact hexec

theorem completes_lsend_up (hlen : 1 ≤ sl.len) (hplace : storePlace (s.addrY w n sl) = some (q, b)) (halign : b % 64 = 0)
    (hflow : s.flowLink w (sl.aux % 4096) = some j) (hissues : s.slotIssues w n (6 + j) 0x40 sl)
    (hup : (((s.flush w sl.issue).worker w).link j).up = true) : Completes (.lsend w n sl) s fun t =>
      ∀ i, i < sl.len → PendWrite.ofLsend sl n q b j (s.flitBytes (s.flush w sl.issue) w n sl) i ∈ (t.worker w).inflight := by
  have hexec := exec_lsend_issues hlen hplace halign hflow hissues
  dsimp only at hexec
  rw [if_pos hup] at hexec
  exact ⟨_, hexec, fun i hi => State.mem_deliverAll.mpr (.inl (List.mem_map_of_mem (List.mem_range.mpr hi)))⟩

theorem completes_lsend_down (hlen : 1 ≤ sl.len) (hplace : storePlace (s.addrY w n sl) = some (q, b)) (halign : b % 64 = 0)
    (hflow : s.flowLink w (sl.aux % 4096) = some j) (hissues : s.slotIssues w n (6 + j) 0x40 sl)
    (hdown : ¬(((s.flush w sl.issue).worker w).link j).up = true) : Completes (.lsend w n sl) s fun t =>
      ((t.worker w).link j).discard = min 0xFFFFFFFF ((((s.flush w sl.issue).worker w).link j).discard + sl.len) ∧
      (t.worker w).inflight = ((s.flush w sl.issue).worker w).inflight := by
  have hexec := exec_lsend_issues hlen hplace halign hflow hissues
  dsimp only at hexec
  rw [if_neg hdown] at hexec
  refine ⟨_, hexec, ?_, ?_⟩
  · rw [State.draw_worker, State.updLink_link_self, State.issued_worker]
    rfl
  · rw [State.draw_worker, State.updLink, State.updWorker_worker_self]
    exact (State.issued_sameStores _ _ _ _ _ _).inflight w

/-- Flit `i` of an OSEND from port `p` to offset `off` of the receiver's tier A. -/
def PendWrite.ofOsend (sl : Slot) (n p off : Nat) (bytes : Nat → List Byte) (i : Nat) : PendWrite :=
  { issued := sl.issue, ready := sl.issue + 24 + i * 256 / 125, core := n, kind := 3, unit := p, id := sl.aux % 4096
    addr := (off + 256 * i) / 64, bytes := bytes i }

/-- The worker at which an OSEND's circuit ends. -/
def State.peerOf (s : State) (c : Nat) : Nat := (s.endOf (s.circ c).dst).1

/-- A circuit sends from a port: it is live for its sender, the port carries it, and is not under verify (R303). -/
def State.circSends (s : State) (w p c : Nat) : Bool :=
  (s.circ c).txLive && ((s.worker w).port p).tx == some c && !((s.worker w).port p).loopback

theorem State.circSends_iff {p c : Nat} :
    s.circSends w p c = true ↔
      (s.circ c).txLive = true ∧ ((s.worker w).port p).tx = some c ∧ ((s.worker w).port p).loopback = false := by
  simp [State.circSends, and_assoc]

/-- The flits of an OSEND that its group may send (R167). -/
def State.sendable (s st : State) (w n : Nat) (sl : Slot) : List Nat :=
  (List.range sl.len).filter fun i => st.maySend (s.slotGroup w n) (s.peerOf (sl.aux % 4096)) (addrOffset (s.addrY w n sl) + 256 * i)

theorem State.mem_sendable {st : State} {i : Nat} : i ∈ s.sendable st w n sl ↔
    i < sl.len ∧ st.maySend (s.slotGroup w n) (s.peerOf (sl.aux % 4096)) (addrOffset (s.addrY w n sl) + 256 * i) = true := by
  rw [State.sendable, List.mem_filter, List.mem_range]

theorem exec_osend (w n : Nat) (sl : Slot) (s : State) :
    let c := sl.aux % 4096
    let p := s.circPort w c
    let dst := s.addrY w n sl
    exec (.osend w n sl) s = .next (s.issue w n (22 + p) (ceilDiv (sl.len * 256) 125) 0x41 sl
      (decide (1 ≤ sl.len) && addrSpace dst == 0 && addrOffset dst % 64 == 0) fun st =>
      if st.circSends w p c then
        st.deliverAll w ((s.sendable st w n sl).map (PendWrite.ofOsend sl n p (addrOffset dst) (s.flitBytes st w n sl)))
      else (st.updPort w p fun o => { o with discard := satAdd 0xFFFF o.discard sl.len }).updCirc c fun y =>
        { y with discard := satAdd 0xFFFFFFFF y.discard sl.len }) := rfl

/-- What an OSEND that issues leaves, by whether its circuit sends. -/
theorem exec_osend_issues (hlen : 1 ≤ sl.len) (hspace : addrSpace (s.addrY w n sl) = 0) (halign : addrOffset (s.addrY w n sl) % 64 = 0)
    (hissues : s.slotIssues w n (22 + s.circPort w (sl.aux % 4096)) 0x41 sl) :
    let c := sl.aux % 4096
    let p := s.circPort w c
    let now := s.flush w sl.issue
    let st := s.issued w n (22 + p) (ceilDiv (sl.len * 256) 125) sl
    exec (.osend w n sl) s = .next (if now.circSends w p c then
      st.deliverAll w ((s.sendable now w n sl).map (PendWrite.ofOsend sl n p (addrOffset (s.addrY w n sl)) (s.flitBytes now w n sl)))
      else (st.updPort w p fun o => { o with discard := satAdd 0xFFFF o.discard sl.len }).updCirc c fun y =>
        { y with discard := satAdd 0xFFFFFFFF y.discard sl.len }).draw.2 := by
  have hexec := exec_osend w n sl s
  have hsends (p c : Nat) : (s.issued w n (22 + s.circPort w (sl.aux % 4096)) (ceilDiv (sl.len * 256) 125) sl).circSends w p c =
      (s.flush w sl.issue).circSends w p c := by
    rw [State.circSends, State.issued_worker]
    rfl
  have hsendable : s.sendable (s.issued w n (22 + s.circPort w (sl.aux % 4096)) (ceilDiv (sl.len * 256) 125) sl) w n sl =
      s.sendable (s.flush w sl.issue) w n sl := by
    unfold State.sendable
    simp only [(State.issued_sameStores _ _ _ _ _ _).maySend]
  dsimp only at hexec
  rw [State.issue_of_issues hissues (by simp [hlen, hspace, halign]), State.issued_flitBytes, hsends, hsendable] at hexec
  exact hexec

theorem completes_osend_live (hlen : 1 ≤ sl.len) (hspace : addrSpace (s.addrY w n sl) = 0) (halign : addrOffset (s.addrY w n sl) % 64 = 0)
    (hissues : s.slotIssues w n (22 + s.circPort w (sl.aux % 4096)) 0x41 sl)
    (hlive : (s.flush w sl.issue).circSends w (s.circPort w (sl.aux % 4096)) (sl.aux % 4096) = true) :
    Completes (.osend w n sl) s fun t => ∀ p, p ∈ (t.worker w).inflight ↔
      (∃ i, i ∈ s.sendable (s.flush w sl.issue) w n sl ∧ PendWrite.ofOsend sl n (s.circPort w (sl.aux % 4096)) (addrOffset (s.addrY w n sl))
        (s.flitBytes (s.flush w sl.issue) w n sl) i = p) ∨ p ∈ ((s.flush w sl.issue).worker w).inflight := by
  have hexec := exec_osend_issues hlen hspace halign hissues
  dsimp only at hexec
  rw [if_pos hlive] at hexec
  refine ⟨_, hexec, fun p => ?_⟩
  rw [State.draw_worker, State.mem_deliverAll, List.mem_map, (State.issued_sameStores _ _ _ _ _ _).inflight]

theorem completes_osend_dead (hlen : 1 ≤ sl.len) (hspace : addrSpace (s.addrY w n sl) = 0) (halign : addrOffset (s.addrY w n sl) % 64 = 0)
    (hissues : s.slotIssues w n (22 + s.circPort w (sl.aux % 4096)) 0x41 sl)
    (hdead : ¬(s.flush w sl.issue).circSends w (s.circPort w (sl.aux % 4096)) (sl.aux % 4096) = true) :
    Completes (.osend w n sl) s fun t =>
      (t.circ (sl.aux % 4096)).discard = min 0xFFFFFFFF (((s.flush w sl.issue).circ (sl.aux % 4096)).discard + sl.len) ∧
      (t.worker w).inflight = ((s.flush w sl.issue).worker w).inflight := by
  have hexec := exec_osend_issues hlen hspace halign hissues
  dsimp only at hexec
  rw [if_neg hdead] at hexec
  refine ⟨_, hexec, ?_, ?_⟩
  · rw [State.draw_circ, State.updCirc_circ_self]
    rfl
  · rw [State.draw_worker, State.updCirc_worker, State.updPort, State.updWorker_worker_self]
    exact (State.issued_sameStores _ _ _ _ _ _).inflight w

/-! ## VLD -/

/-- Register `k` of a VLD that finds the store in the state `st`. -/
def State.loadedReg (s st : State) (w n : Nat) (sl : Slot) (k : Nat) : List Word :=
  let len := 8 * fmtWidth sl.fa
  (unpack (fmtWidth sl.fa) (st.storeAt w n ((s.placeX w n sl (len * sl.len)).map (· + len * k)) len)).map (laneOf sl.fa)

theorem exec_vld (w n : Nat) (sl : Slot) (s : State) : exec (.vld w n sl) s =
    .next (s.issue w n 5 sl.len 0x10 sl (decide (sl.fa < 8) && sl.fa != 5 && decide (1 ≤ sl.len) && decide (sl.rd + sl.len ≤ 32)) fun st =>
      (List.range sl.len).foldl (fun a k => a.updCore w n fun x => x.setReg (sl.rd + k) (s.loadedReg st w n sl k)) st) := rfl

/-- What the registers hold after a run of them from `base` on has been written. -/
theorem State.foldl_setReg_reg (s : State) (w n base len : Nat) (v : Nat → List Word) (r : Nat) :
    (((List.range len).foldl (fun a k => a.updCore w n fun x => x.setReg (base + k) (v k)) s).core w n).reg r =
      if base ≤ r ∧ r < base + len then v (r - base) else (s.core w n).reg r := by
  induction len with
  | zero => rw [if_neg (by omega)]; rfl
  | succ len ih =>
    rw [List.range_succ, List.foldl_append, List.foldl_cons, List.foldl_nil, State.updCore_core_self, StagCore.reg_setReg, ih]
    rcases eq_or_ne r (base + len) with rfl | hne
    · rw [if_pos rfl, if_pos (by omega), Nat.add_sub_cancel_left]
    · rw [if_neg hne]
      exact if_congr (by omega) rfl rfl

theorem completes_vld (hlen : 1 ≤ sl.len) (hfa : sl.fa < 8) (hq4b : sl.fa ≠ 5) (hregs : sl.rd + sl.len ≤ 32)
    (hissues : s.slotIssues w n 5 0x10 sl) : Completes (.vld w n sl) s fun t =>
      (∀ i, i < sl.len → (t.core w n).reg (sl.rd + i) = s.loadedReg (s.flush w sl.issue) w n sl i) ∧
      ∀ r, r < sl.rd ∨ sl.rd + sl.len ≤ r → (t.core w n).reg r = (s.core w n).reg r := by
  have hexec := exec_vld w n sl s
  rw [State.issue_of_issues hissues (by simp [hlen, hfa, hq4b, hregs])] at hexec
  refine ⟨_, hexec, fun i hi => ?_, fun r hr => ?_⟩
  all_goals rw [State.draw_core, State.foldl_setReg_reg]
  · rw [if_pos (by omega), Nat.add_sub_cancel_left, State.loadedReg, State.issued_storeAt]
    rfl
  · rw [if_neg (by omega), StagCore.reg_congr (s.issued_datapath w n 5 sl.len sl)]

/-! ## VST -/

/-- What a VST leaves to be delivered at a byte of the core's store. -/
def PendWrite.ofVst (sl : Slot) (n : Nat) (bytes : List Byte) (a : Nat) : PendWrite :=
  { issued := sl.issue, ready := sl.issue + 4 + sl.len, core := n, kind := 0, unit := 0, id := 0, addr := a, bytes := bytes }

/-- The lanes of a register packed in a format (R142). -/
def packedReg (sl : Slot) (lanes : List Word) : List Byte :=
  pack (fmtWidth sl.fa) ((lanes.map fun v => convertFmt sl.fa (laneVal sl.fb v)).map (·.bits))

/-- The elements of a register's two Q4B blocks, and the exponents of the two (R143). -/
def q4bElems (lanes : List Word) : List Conv := (q4bEncode (lanes.take 32)).2 ++ (q4bEncode (lanes.drop 32)).2

def q4bExps (lanes : List Word) : List Byte :=
  [BitVec.ofNat 8 (q4bEncode (lanes.take 32)).1, BitVec.ofNat 8 (q4bEncode (lanes.drop 32)).1]

/-- Register `k` of a VST to be delivered: packed, or as Q4B blocks and their exponents. -/
def State.storeReg (st : State) (w n : Nat) (sl : Slot) (xa ya : Option Nat) (lanes : List Word) (k : Nat) : State :=
  if sl.fa = 5 then
    ((st.deliverTo w (ya.map (· + 32 * k)) (PendWrite.ofVst sl n (pack 4 ((q4bElems lanes).map (·.bits))))).deliverTo w (xa.map (· + 2 * k))
      (PendWrite.ofVst sl n (q4bExps lanes))).updCore w n fun x => x.countConv (q4bElems lanes)
  else
    (st.deliverTo w (ya.map (· + 8 * fmtWidth sl.fa * k)) (PendWrite.ofVst sl n (packedReg sl lanes))).updCore w n fun x =>
      x.countConv (lanes.map fun v => convertFmt sl.fa (laneVal sl.fb v))

/-- The registers of a core that a VST delivers. -/
def State.storeRegs (st : State) (w n : Nat) (sl : Slot) (xa ya : Option Nat) (regs : Nat → List Word) : State :=
  (List.range sl.len).foldl (fun a k => a.storeReg w n sl xa ya (regs (sl.ra + k)) k) st

theorem exec_vst (w n : Nat) (sl : Slot) (s : State) : exec (.vst w n sl) s =
    .next (s.issue w n 5 sl.len 0x11 sl
      (decide (sl.fa < 8) && laneFmt sl.fb && !(sl.fa == 5 && sl.fb == 6) && decide (1 ≤ sl.len) && decide (sl.ra + sl.len ≤ 32)) fun st =>
      st.storeRegs w n sl (s.placeX w n sl (2 * sl.len)) (s.placeY w n sl (8 * fmtWidth sl.fa * sl.len)) (st.core w n).reg) := rfl

section

variable {xa ya : Option Nat} {lanes : List Word} {k i x y : Nat} {p : PendWrite} {regs : Nat → List Word}

theorem State.storeReg_vreg (st : State) (w n : Nat) (sl : Slot) (xa ya : Option Nat) (lanes : List Word) (k : Nat) :
    ((st.storeReg w n sl xa ya lanes k).core w n).vreg = (st.core w n).vreg := by
  unfold State.storeReg
  split
  · rw [State.updCore_core_self, StagCore.countConv, State.deliverTo_core, State.deliverTo_core]
  · rw [State.updCore_core_self, StagCore.countConv, State.deliverTo_core]

theorem State.storeReg_keeps (st : State) (xa ya : Option Nat) (lanes : List Word) (k : Nat) (h : p ∈ (st.worker w).inflight) :
    p ∈ ((st.storeReg w n sl xa ya lanes k).worker w).inflight := by
  unfold State.storeReg
  split
  · rw [State.updCore_flight]
    exact State.mem_deliverTo_of_mem (State.mem_deliverTo_of_mem h _ _) _ _
  · rw [State.updCore_flight]
    exact State.mem_deliverTo_of_mem h _ _

theorem State.storeReg_packed (hfa : sl.fa ≠ 5) (st : State) (xa : Option Nat) (lanes : List Word) (k y : Nat) :
    PendWrite.ofVst sl n (packedReg sl lanes) (y + 8 * fmtWidth sl.fa * k) ∈ ((st.storeReg w n sl xa (some y) lanes k).worker w).inflight := by
  rw [State.storeReg, if_neg hfa, State.updCore_flight]
  exact State.mem_deliverTo_some _ _ _ _

theorem State.storeReg_blocks (hfa : sl.fa = 5) (st : State) (xa : Option Nat) (lanes : List Word) (k y : Nat) :
    PendWrite.ofVst sl n (pack 4 ((q4bElems lanes).map (·.bits))) (y + 32 * k) ∈
      ((st.storeReg w n sl xa (some y) lanes k).worker w).inflight := by
  rw [State.storeReg, if_pos hfa, State.updCore_flight]
  exact State.mem_deliverTo_of_mem (State.mem_deliverTo_some _ _ _ _) _ _

theorem State.storeReg_exps (hfa : sl.fa = 5) (st : State) (ya : Option Nat) (lanes : List Word) (k x : Nat) :
    PendWrite.ofVst sl n (q4bExps lanes) (x + 2 * k) ∈ ((st.storeReg w n sl (some x) ya lanes k).worker w).inflight := by
  rw [State.storeReg, if_pos hfa, State.updCore_flight]
  exact State.mem_deliverTo_some _ _ _ _

/-- What the delivery of register `i` leaves to be delivered stands there after all of them. -/
theorem State.mem_storeRegs (h : ∀ a : State, p ∈ ((a.storeReg w n sl xa ya (regs (sl.ra + i)) i).worker w).inflight) (hi : i < sl.len)
    (st : State) : p ∈ ((st.storeRegs w n sl xa ya regs).worker w).inflight :=
  foldl_attains (f := fun a k => a.storeReg w n sl xa ya (regs (sl.ra + k)) k) (P := fun a => p ∈ (a.worker w).inflight) h
    (fun a k => a.storeReg_keeps xa ya _ k) (List.mem_range.mpr hi) st

end

/-- The state that a VST that issues leaves: the registers are as the slots of its core have left them. -/
theorem exec_vst_issues (hlen : 1 ≤ sl.len) (hfa : sl.fa < 8) (hfb : sl.fb = 7 ∨ (sl.fb = 6 ∧ sl.fa ≠ 5)) (hregs : sl.ra + sl.len ≤ 32)
    (hissues : s.slotIssues w n 5 0x11 sl) : exec (.vst w n sl) s =
      .next ((s.issued w n 5 sl.len sl).storeRegs w n sl (s.placeX w n sl (2 * sl.len)) (s.placeY w n sl (8 * fmtWidth sl.fa * sl.len))
        (s.core w n).reg).draw.2 := by
  have hok : (laneFmt sl.fb && !(sl.fa == 5 && sl.fb == 6)) = true := by
    rcases hfb with h7 | ⟨h6, hne⟩
    · simp [laneFmt, h7]
    · simp [laneFmt, h6, hne]
  rw [exec_vst, State.issue_of_issues hissues (by simpa [hlen, hfa, hregs] using hok), StagCore.reg_congr (s.issued_datapath w n 5 sl.len sl)]

theorem State.storeRegs_vreg (s : State) (w n : Nat) (sl : Slot) (xa ya : Option Nat) (regs : Nat → List Word) :
    (((s.issued w n 5 sl.len sl).storeRegs w n sl xa ya regs).core w n).vreg = (s.core w n).vreg :=
  (foldl_keeps (fun a => (a.core w n).vreg) _ (fun a k => a.storeReg_vreg w n sl xa ya _ k) _ _).trans
    (StagCore.vreg_congr (s.issued_datapath w n 5 sl.len sl))

theorem completes_vst (hlen : 1 ≤ sl.len) (hfa : sl.fa < 8) (hfb : sl.fb = 7 ∨ (sl.fb = 6 ∧ sl.fa ≠ 5)) (hregs : sl.ra + sl.len ≤ 32)
    (hissues : s.slotIssues w n 5 0x11 sl) : Completes (.vst w n sl) s fun t =>
      let lanes (i : Nat) := (s.core w n).reg (sl.ra + i)
      (∀ y, s.placeY w n sl (8 * fmtWidth sl.fa * sl.len) = some y →
        (sl.fa ≠ 5 → ∀ i, i < sl.len → PendWrite.ofVst sl n (packedReg sl (lanes i)) (y + 8 * fmtWidth sl.fa * i) ∈ (t.worker w).inflight) ∧
        (sl.fa = 5 → ∀ i, i < sl.len →
          PendWrite.ofVst sl n (pack 4 ((q4bElems (lanes i)).map (·.bits))) (y + 32 * i) ∈ (t.worker w).inflight)) ∧
      (∀ x, sl.fa = 5 → s.placeX w n sl (2 * sl.len) = some x → ∀ i, i < sl.len →
        PendWrite.ofVst sl n (q4bExps (lanes i)) (x + 2 * i) ∈ (t.worker w).inflight) ∧
      (t.core w n).vreg = (s.core w n).vreg := by
  refine ⟨_, exec_vst_issues hlen hfa hfb hregs hissues, fun y hy => ⟨fun hne i hi => ?_, fun heq i hi => ?_⟩, fun x heq hx i hi => ?_,
    s.storeRegs_vreg w n sl _ _ _⟩
  · rw [hy]
    exact State.mem_storeRegs (fun a => a.storeReg_packed hne _ _ i y) hi _
  · rw [hy]
    exact State.mem_storeRegs (fun a => a.storeReg_blocks heq _ _ i y) hi _
  · rw [hx]
    exact State.mem_storeRegs (fun a => a.storeReg_exps heq _ _ i x) hi _

end Sys2Proof.Machine
end

section
/-! The obligation about the movers. -/

namespace Sys2Proof.Machine

/-- Settles O37: the reads and writes of tiers by the lines that the slot's group may use, the sends by whether their link or circuit is
live, VLD and VST register by register. The lanes into which VLD unpacks I32 and F32 (FA 6 and 7) are the model's choice (log entry 111), and
so is what a group's line that is absent or that the group may not use reads as (log entry 113). -/
theorem moversMoveData : Obligations.MoversMoveData := by
  unfold Obligations.MoversMoveData
  refine fun s w n q b j sl hlen => ⟨completes_mrd hlen fun i => ?mrd, completes_mwr hlen, fun hplace halign hflow hissues => ?lsend,
    fun hspace halign hissues => ?osend, fun hfa hq4b hregs hissues => completes_vld hlen hfa hq4b hregs hissues,
    fun hfa hfb hregs hissues => ?vst⟩
  case mrd =>
    rw [State.slotGroup, State.addrX]
    generalize (s.flush w sl.issue).mrdLine w _ _ i = line
    cases line <;> rfl
  case lsend =>
    by_cases hup : (((s.flush w sl.issue).worker w).link j).up = true
    · obtain ⟨t, ht, hflits⟩ := completes_lsend_up hlen hplace halign hflow hissues hup
      exact ⟨t, ht, (if_pos hup).mpr fun i hi => ⟨_, hflits i hi, rfl, rfl, rfl, rfl, rfl, rfl, rfl⟩⟩
    · obtain ⟨t, ht, hlost⟩ := completes_lsend_down hlen hplace halign hflow hissues hup
      exact ⟨t, ht, (if_neg hup).mpr hlost⟩
  case osend =>
    by_cases hlive : (s.flush w sl.issue).circSends w (s.circPort w (sl.aux % 4096)) (sl.aux % 4096) = true
    · obtain ⟨t, ht, hflits⟩ := completes_osend_live hlen hspace halign hissues hlive
      refine ⟨t, ht, (if_pos (State.circSends_iff.mp hlive)).mpr ⟨fun i hi hmay => ?_, fun p hp => ?_⟩⟩
      · exact ⟨_, (hflits _).mpr (.inl ⟨i, State.mem_sendable.mpr ⟨hi, hmay⟩, rfl⟩), rfl, rfl, rfl, rfl, rfl, rfl, rfl⟩
      · rcases (hflits p).mp hp with ⟨i, hi, rfl⟩ | hold
        · obtain ⟨hlt, hmay⟩ := State.mem_sendable.mp hi
          exact .inr ⟨i, hlt, rfl, hmay⟩
        · exact .inl hold
    · obtain ⟨t, ht, hlost⟩ := completes_osend_dead hlen hspace halign hissues hlive
      exact ⟨t, ht, (if_neg (mt State.circSends_iff.mpr hlive)).mpr hlost⟩
  case vst =>
    obtain ⟨t, ht, hregs, hexps, hkept⟩ := completes_vst hlen hfa hfb hregs hissues
    refine ⟨t, ht, fun y hy => ⟨fun hne i hi => ?_, fun heq i hi => ?_⟩, fun x heq hx i hi => ?_, hkept⟩
    · exact ⟨_, (hregs y hy).1 hne i hi, rfl, rfl, rfl, rfl, congrArg (pack _) List.map_map⟩
    · exact ⟨_, (hregs y hy).2 heq i hi, rfl, rfl, rfl, rfl, rfl⟩
    · exact ⟨_, hexps x heq hx i hi, rfl, rfl, rfl, rfl, rfl⟩

end Sys2Proof.Machine
end

section
/-! SUPPORT. What the machine keeps for its owners, which completions, stops, failures of workers and the end of moves leave alone; and which
workers are up after one has been declared failed. -/

namespace Sys2Proof.Machine

variable {s t : State} {w v : Nat}

/-- What is fitted, the images, the owners, and the contents of the tiers with the keys that they were written under. -/
def State.ownerView (s : State) : Fit × Img × Owners × List Host.Cell × Tab Nat := (s.fit, s.img, s.owners, s.mem, s.keyTag)

theorem State.fit_of_ownerView (h : t.ownerView = s.ownerView) : t.fit = s.fit := congrArg (·.1) h

theorem State.img_of_ownerView (h : t.ownerView = s.ownerView) : t.img = s.img := congrArg (·.2.1) h

theorem State.owners_of_ownerView (h : t.ownerView = s.ownerView) : t.owners = s.owners := congrArg (·.2.2.1) h

theorem State.mem_of_ownerView (h : t.ownerView = s.ownerView) : t.mem = s.mem := congrArg (·.2.2.2.1) h

theorem State.keyTag_of_ownerView (h : t.ownerView = s.ownerView) : t.keyTag = s.keyTag := congrArg (·.2.2.2.2) h

theorem State.updGroup_ownerView (s : State) (g : Nat) (f : Group → Group) : (s.updGroup g f).ownerView = s.ownerView := rfl

theorem State.updTile_ownerView (s : State) (i : Nat) (f : Tile → Tile) : (s.updTile i f).ownerView = s.ownerView := rfl

theorem State.updPlane_ownerView (s : State) (f : Plane → Plane) : (s.updPlane f).ownerView = s.ownerView := rfl

theorem State.arrive_ownerView (s : State) (e n mc : Nat) : (s.arrive e n mc).ownerView = s.ownerView := rfl

theorem State.tearLink_ownerView (s : State) (w j cause : Nat) : (s.tearLink w j cause).ownerView = s.ownerView := rfl

theorem State.final_ownerView (s : State) (c : Cmd) (status : Nat) (r : List (Nat × Nat)) :
    (s.final c status r).ownerView = s.ownerView := by
  rw [State.final_only]; rfl

theorem State.interim_ownerView (s : State) (c : Cmd) (r : List (Nat × Nat)) : (s.interim c r).ownerView = s.ownerView := by
  obtain ⟨hubs, host, scb, h⟩ := s.interim_only c r
  rw [h]; rfl

theorem State.stopGroups_ownerView (s : State) (gs : List Nat) (reason : Nat) : (s.stopGroups gs reason).ownerView = s.ownerView :=
  foldl_keeps State.ownerView _ (fun st g => by rw [State.stopGroup_only]; rfl) gs s

theorem State.abortGroup_ownerView (s : State) (g reason : Nat) : (s.abortGroup g reason).ownerView = s.ownerView := by
  rw [State.abortGroup_only]; rfl

theorem State.parkRoute_ownerView (s : State) (c : Nat) : (s.parkRoute c).ownerView = s.ownerView := by
  unfold State.parkRoute
  split
  · rfl
  · exact foldl_keeps State.ownerView _ (fun a h => foldl_keeps State.ownerView _ (fun b e => b.updTile_ownerView _ _) _ a) _ s

theorem State.tearCircuits_ownerView (s : State) (cs : List Nat) (cause : Nat) : (s.tearCircuits cs cause).ownerView = s.ownerView := by
  refine foldl_keeps State.ownerView _ (fun st c => ?_) cs s
  unfold State.tearCircuit
  split
  · exact (State.stopGroups_ownerView _ _ _).trans (State.parkRoute_ownerView _ c)
  · rfl

theorem State.startSwitchIn_ownerView (s : State) (w : Nat) (circs : List Nat) : (s.startSwitchIn w circs).ownerView = s.ownerView := by
  unfold State.startSwitchIn
  dsimp only
  split <;> rfl

theorem State.declareFailed_ownerView (s : State) (w : Nat) : (s.declareFailed w).ownerView = s.ownerView := by
  have hlinks (u : State) (js : List Nat) : (u.forEach js fun st j => st.tearLink w j 4).ownerView = u.ownerView :=
    foldl_keeps State.ownerView _ (fun st j => st.tearLink_ownerView w j 4) js u
  have hmark (u : State) (gs : List Nat) (f : Group → Group) : (u.forEach gs fun st g => st.updGroup g f).ownerView = u.ownerView :=
    foldl_keeps State.ownerView _ (fun st g => st.updGroup_ownerView g f) gs u
  have hnote (u : State) : (u.arrive 11 1 0).planInput.ownerView = u.ownerView :=
    (State.updPlane_ownerView _ _).trans (u.arrive_ownerView 11 1 0)
  have hspare (p : Prop) [Decidable p] (u : State) (cs : List Nat) : (if p then u.startSwitchIn w cs else u).ownerView = u.ownerView := by
    split
    · exact u.startSwitchIn_ownerView w cs
    · rfl
  unfold State.declareFailed
  dsimp only
  split
  · rw [hspare, hnote, hmark, State.stopGroups_ownerView, State.tearCircuits_ownerView, hlinks]; rfl
  · rfl

/-! ## Workers that are up -/

/-- Whether a worker is up rests on what is fitted and on its failure. -/
theorem State.workerUp_of_failed_eq (hfit : t.fit = s.fit) (hfailed : (t.worker w).failed = (s.worker w).failed) :
    t.workerUp w = s.workerUp w := by
  rw [State.workerUp, State.workerUp, hfit, hfailed]

theorem State.declareFailed_fit (s : State) (w : Nat) : (s.declareFailed w).fit = s.fit :=
  State.fit_of_ownerView (s.declareFailed_ownerView w)

theorem State.declareFailed_failed_self (hup : s.workerUp w = true) : ((s.declareFailed w).worker w).failed = true :=
  congrArg Prod.fst (State.declareFailed_lost hup).1

theorem State.declareFailed_failed_ne (s : State) (h : v ≠ w) : ((s.declareFailed w).worker v).failed = (s.worker v).failed := by
  rcases Bool.eq_false_or_eq_true (s.workerUp w) with hup | hdown
  · have hview := congrFun (congrArg Prod.fst (State.declareFailed_lossView hup)) v
    refine (congrArg Prod.fst hview).trans (congrArg Worker.failed ?_)
    rw [State.loseWorker, State.updHub_worker, State.updWorker_worker_ne _ _ h]
  · rw [State.declareFailed, if_neg (by simp [hdown])]

theorem State.declareFailed_down_self (s : State) (w : Nat) : (s.declareFailed w).workerUp w = false := by
  rcases Bool.eq_false_or_eq_true (s.workerUp w) with hup | hdown
  · exact State.workerUp_of_failed (State.declareFailed_failed_self hup)
  · rw [State.declareFailed, if_neg (by simp [hdown])]; exact hdown

/-- A worker that is not up does not come up when another is declared failed. -/
theorem State.declareFailed_down (h : s.workerUp v = false) (w : Nat) : (s.declareFailed w).workerUp v = false := by
  rcases eq_or_ne v w with rfl | hne
  · exact s.declareFailed_down_self v
  · exact (State.workerUp_of_failed_eq (s.declareFailed_fit w) (s.declareFailed_failed_ne hne)).trans h

/-- Of workers that are declared failed in turn none is up. -/
theorem State.forEach_declareFailed_down {ws : List Nat} (s : State) (h : v ∈ ws ∨ s.workerUp v = false) :
    (s.forEach ws State.declareFailed).workerUp v = false := by
  induction ws generalizing s with
  | nil => exact h.resolve_left List.not_mem_nil
  | cons w ws ih =>
    refine ih (s.declareFailed w) ?_
    rcases h with hmem | hdown
    · rcases List.mem_cons.mp hmem with rfl | hmem
      · exact .inr (s.declareFailed_down_self v)
      · exact .inl hmem
    · exact .inr (State.declareFailed_down hdown w)

end Sys2Proof.Machine
end

section
/-! The obligation about the opening of an owner. -/

namespace Sys2Proof.Machine

variable {s : State} {c : Cmd} {o : Opening} {w : Nat}

/-- The states in which owners are opened and released (R159, R160). -/
theorem State.mode_takesOwners (h : s.mgr.mode = .quiescent ∨ s.mgr.mode = .loaded ∨ s.mgr.mode = .running) :
    s.mgr.mode.deaf = false ∧ [MState.quiescent, .loaded, .running].contains s.mgr.mode = true := by
  rcases h with h | h | h <;> rw [h] <;> decide

/-- The open that OWNER_OPEN begins (R159). -/
def State.newOpening (s : State) (c : Cmd) (ct : List Byte) : Opening :=
  { owner := c.unit, at_ := s.mgr.frame, secret := kemSecret s.owners.kemGen ct, waiting := s.liveWorkers, filled := [], cmd := c }

theorem completes_ownerOpen {ct : List Byte} (hc : IsCmd c 0x31) (hpos : 1 ≤ c.unit) (hle : c.unit ≤ 254) (hct : c.data = some ct)
    (hlen : ct.length = 1088) (hmode : s.mgr.mode = .quiescent ∨ s.mgr.mode = .loaded ∨ s.mgr.mode = .running)
    (hnew : c.unit ∉ s.owners.live) (hopen : s.owners.opening = none) (hrel : s.owners.releasing = none) :
    Completes (.ownerOpen c) s fun t =>
      t = { s with owners := { s.owners with opening := some (s.newOpening c ct) } } := by
  obtain ⟨hdeaf, hok⟩ := State.mode_takesOwners hmode
  have hranges : decide (c.unit < 256) = true := decide_eq_true (by omega)
  have hdata : (c.data.isSome && (c.data.getD []).length == 1088) = true := by simp [hct, hlen]
  have hchecks : ∀ x ∈ [(c.unit != 0 && c.unit != 255, stBadOwner), (!s.owners.live.contains c.unit, stOwnerLive),
      (!s.ownerBusy, stBusy)], x.1 = true := by
    have hname : c.unit ≠ 0 ∧ c.unit ≠ 255 := by omega
    simp [State.ownerBusy, hopen, hrel, hnew, hname]
  have heff : s.ownerOpen c = { s with owners := { s.owners with opening := some (s.newOpening c ct) } } := by
    unfold State.ownerOpen
    dsimp only
    rw [State.decideCmd_eff_of_ranges _ hc hranges hdata hdeaf hok hchecks, hct]
    rfl
  exact ⟨_, congrArg Host.Outcome.next heff, rfl⟩

theorem exec_ownerSecretReceipt (hopen : s.owners.opening = some o) (hup : s.workerUp w = true) (hwait : w ∈ o.waiting) (hnew : w ∉ o.filled) :
    exec (.ownerSecretReceipt w) s = .next (((s.newKey o.owner).2.updWorker w fun x =>
      { x with keys := x.keys.set o.owner { live := true, gen := (s.newKey o.owner).1, secret := o.secret } }).updOwners fun y =>
        { y with opening := some { o with filled := o.filled ++ [w] } }) := by
  show execOwnerSecretReceipt w s = _
  unfold execOwnerSecretReceipt
  simp only [hopen]
  rw [if_pos (by simp [hup, hwait, hnew])]

theorem completes_ownerSecretReceipt (hopen : s.owners.opening = some o) (hup : s.workerUp w = true) (hwait : w ∈ o.waiting)
    (hnew : w ∉ o.filled) : Completes (.ownerSecretReceipt w) s fun t =>
      (t.worker w).slot o.owner = { live := true, gen := (s.owners.keyGen + 1) * 256 + o.owner % 256, secret := o.secret } ∧
      t.owners.keyGen = s.owners.keyGen + 1 ∧ t.owners.opening = some { o with filled := o.filled ++ [w] } ∧
      (∀ n, n ≠ o.owner → (t.worker w).slot n = (s.worker w).slot n) ∧ (∀ v, v ≠ w → t.worker v = s.worker v) ∧
      t = { s with workers := t.workers, owners := t.owners } := by
  refine ⟨_, exec_ownerSecretReceipt hopen hup hwait hnew, ?_, rfl, rfl, fun n hn => ?_, fun v hv => ?_, rfl⟩
  · rw [State.updOwners_worker, State.updWorker_worker_self]
    exact Tab.get_set_self _ _ _ _
  · rw [State.updOwners_worker, State.updWorker_worker_self]
    exact Tab.get_set_ne _ _ _ hn
  · rw [State.updOwners_worker, State.updWorker_worker_ne _ _ hv]; rfl

theorem exec_ownerOpenConfirm (hopen : s.owners.opening = some o) (hfilled : w ∈ o.filled) : exec (.ownerOpenConfirm w) s =
    .next (s.updOwners fun y => { y with opening := some { o with waiting := o.waiting.filter fun v => v != w } }) := by
  show execOwnerOpenConfirm w s = _
  unfold execOwnerOpenConfirm
  simp only [hopen]
  rw [if_pos (List.contains_iff_mem.mpr hfilled)]

theorem mem_insertOwner (o : Nat) (l : List Nat) : o ∈ insertOwner o l := by
  unfold insertOwner
  split
  next h => exact List.contains_iff_mem.mp h
  next => exact List.mem_mergeSort.mpr List.mem_cons_self

theorem State.goLive_eq (h : s.owners.opening = some o) : s.goLive = (s.updOwners fun y =>
    { y with live := insertOwner o.owner y.live, opening := none, exports := y.exports.set o.owner 0 }).final o.cmd stOk := by
  unfold State.goLive
  simp only [h]

/-- The open goes live: its owner is live, no open is in progress, and no worker's failure has changed. -/
theorem State.goLive_opens (h : s.owners.opening = some o) : o.owner ∈ s.goLive.owners.live ∧ s.goLive.owners.opening = none ∧
    (∀ v, s.goLive.workerUp v = s.workerUp v) ∧ s.goLive.mem = s.mem := by
  rw [State.goLive_eq h]
  have hkept := State.final_ownerView (s.updOwners fun y =>
    { y with live := insertOwner o.owner y.live, opening := none, exports := y.exports.set o.owner 0 }) o.cmd stOk []
  refine ⟨?_, ?_, fun v => State.workerUp_of_failed_eq (State.final_fit _ _ _ _) ?_, State.final_mem _ _ _ _⟩
  · rw [State.owners_of_ownerView hkept]; exact mem_insertOwner _ _
  · rw [State.owners_of_ownerView hkept]; rfl
  · rw [State.worker, State.final_workers]; rfl

theorem completes_ownerOpenTimeout (hopen : s.owners.opening = some o) (hdue : o.at_ + 16 ≤ s.mgr.frame) :
    Completes .ownerOpenTimeout s fun t =>
      o.owner ∈ t.owners.live ∧ t.owners.opening = none ∧ (∀ v ∈ o.waiting, t.workerUp v = false) ∧ t.mem = s.mem := by
  have hexec : exec .ownerOpenTimeout s = .next (s.forEach o.waiting State.declareFailed).goLive := by
    show execOwnerOpenTimeout s = _
    unfold execOwnerOpenTimeout
    simp only [hopen]
    rw [if_pos hdue]
  have hkept : (s.forEach o.waiting State.declareFailed).ownerView = s.ownerView :=
    foldl_keeps State.ownerView _ State.declareFailed_ownerView _ s
  obtain ⟨hlive, hnone, hup, hmem⟩ := State.goLive_opens ((congrArg Owners.opening (State.owners_of_ownerView hkept)).trans hopen)
  exact ⟨_, hexec, hlive, hnone, fun v hv => (hup v).trans (s.forEach_declareFailed_down (.inl hv)), hmem.trans (State.mem_of_ownerView hkept)⟩

/-- Settles O39: each row by its effect; at the timeout the workers that are failed leave the owners as they were, and the owner goes live. -/
theorem ownersOpen : Obligations.OwnersOpen := by
  unfold Obligations.OwnersOpen
  exact fun s c ct o w => ⟨completes_ownerOpen, completes_ownerSecretReceipt,
    fun hopen hfilled => ⟨_, exec_ownerOpenConfirm hopen hfilled, rfl⟩, completes_ownerOpenTimeout⟩

end Sys2Proof.Machine
end

section
/-! The obligation about the release of an owner and the erasure of its keys. -/

namespace Sys2Proof

/-- What stands in a table in which several keys have been erased. -/
theorem Tab.get?_foldl_erase {α : Type} (os : List Nat) (t : Tab α) (n : Nat) :
    (os.foldl (fun a o => a.erase o) t).get? n = if n ∈ os then none else t.get? n := by
  induction os generalizing t with
  | nil => rw [if_neg List.not_mem_nil]; rfl
  | cons o os ih =>
    rw [List.foldl_cons, ih, Tab.get?_erase]
    by_cases hn : n = o <;> simp [hn]

end Sys2Proof

namespace Sys2Proof.Machine

variable {s : State} {c : Cmd} {r : Releasing} {w g : Nat}

/-! ## The release (R160) -/

/-- The release that OWNER_RELEASE begins. -/
def State.newReleasing (s : State) (c : Cmd) : Releasing :=
  { owners := [c.unit], also := none, single := true, accepted := s.mgr.frame, limit := c.limit, force := c.force, erasing := false, e := 0
    waiting := [], erased := 0, cmd := some c }

/-- The release begun, and the owner's queued jobs ended. -/
def State.beginRelease (s : State) (c : Cmd) : State :=
  ((s.interim c).updOwners fun o => { o with releasing := some (s.newReleasing c) }).dropQueued (fun g => s.groupOwner g == c.unit) stOwnerAbsent

/-- OWNER_RELEASE where nothing refuses it. -/
def State.releaseOwner (s : State) (c : Cmd) : State :=
  if c.force then (s.beginRelease c).forEach (s.ownerJobs c.unit) fun a g => a.abortGroup g 2 else s.beginRelease c

theorem exec_ownerRelease (hc : IsCmd c 0x32) (hpos : 1 ≤ c.unit) (hle : c.unit ≤ 254) (hlimit : 1 ≤ c.limit)
    (hmode : s.mgr.mode = .quiescent ∨ s.mgr.mode = .loaded ∨ s.mgr.mode = .running) (hopen : s.owners.opening = none)
    (hrel : s.owners.releasing = none) (hlive : c.unit ∈ s.owners.live) : exec (.ownerRelease c) s = .next (s.releaseOwner c) := by
  obtain ⟨hdeaf, hok⟩ := State.mode_takesOwners hmode
  have hranges : (decide (c.unit < 256) && decide (1 ≤ c.limit)) = true := by simp; omega
  have hchecks : ∀ x ∈ [(c.unit != 0 && c.unit != 255, stBadOwner), (!s.ownerBusy, stBusy), (s.owners.live.contains c.unit, stOwnerAbsent)],
      x.1 = true := by
    have hname : c.unit ≠ 0 ∧ c.unit ≠ 255 := by omega
    simp [State.ownerBusy, hopen, hrel, hlive, hname]
  have heff : s.ownerRelease c = s.releaseOwner c := by
    rw [State.ownerRelease, State.decideCmd_eff_of_ranges _ hc hranges rfl hdeaf hok hchecks]
    rfl
  exact congrArg Host.Outcome.next heff

theorem State.foldl_final_ownerView {α : Type} (cmd : α → Cmd) (status : Nat) (l : List α) (s : State) :
    (l.foldl (fun a x => a.final (cmd x) status) s).ownerView = s.ownerView :=
  foldl_keeps State.ownerView _ (fun a x => a.final_ownerView (cmd x) status []) l s

theorem State.dropQueued_ownerView (s : State) (p : Nat → Bool) (status : Nat) : (s.dropQueued p status).ownerView = s.ownerView :=
  foldl_keeps State.ownerView _ (fun st _ => (State.updGroup_ownerView _ _ _).trans (State.foldl_final_ownerView Job.cmd status _ st)) _ s

/-- A group whose queued jobs have ended, or end here, has none. -/
theorem State.dropQueued_queue {p : Nat → Bool} (hg : g < 32) (hp : p g = true) (s : State) (status : Nat) :
    ((s.dropQueued p status).group g).queue = [] := by
  unfold State.dropQueued
  have hmem : g ∈ (List.range 32).filter p ∨ (s.group g).queue = [] := .inl (List.mem_filter.mpr ⟨List.mem_range.mpr hg, hp⟩)
  generalize (List.range 32).filter p = gs at hmem ⊢
  induction gs generalizing s with
  | nil => exact hmem.resolve_left List.not_mem_nil
  | cons f gs ih =>
    refine ih _ ?_
    rcases eq_or_ne g f with rfl | hne
    · exact .inr (by rw [State.updGroup_group_self])
    · refine hmem.imp (fun h => (List.mem_cons.mp h).resolve_left hne) fun hempty => ?_
      rw [State.updGroup_group_ne _ _ hne, State.group, State.foldl_final_groups Job.cmd]
      exact hempty

/-- A job that is to be aborted leaves the jobs that are queued. -/
theorem State.abortGroup_queue (s : State) (f reason g : Nat) : ((s.abortGroup f reason).group g).queue = (s.group g).queue := by
  rcases eq_or_ne g f with rfl | hne
  · rcases Bool.eq_false_or_eq_true (s.groupRuns g) with hruns | hidle
    · rw [State.abortGroup_group_self hruns]; rfl
    · rw [State.abortGroup, if_neg (by simp [hidle])]
  · rw [State.abortGroup_group_ne _ _ hne]

theorem State.beginRelease_ownerView (s : State) (c : Cmd) : (s.beginRelease c).ownerView =
    ({ s with owners := { s.owners with releasing := some (s.newReleasing c) } } : State).ownerView := by
  obtain ⟨hubs, host, scb, h⟩ := s.interim_only c []
  rw [State.beginRelease, State.dropQueued_ownerView, h]
  rfl

theorem State.releaseOwner_ownerView (s : State) (c : Cmd) : (s.releaseOwner c).ownerView =
    ({ s with owners := { s.owners with releasing := some (s.newReleasing c) } } : State).ownerView := by
  unfold State.releaseOwner
  split
  · exact (foldl_keeps State.ownerView _ (fun a g => a.abortGroup_ownerView g 2) _ _).trans (s.beginRelease_ownerView c)
  · exact s.beginRelease_ownerView c

theorem State.releaseOwner_queue (hg : g < 32) (howner : s.groupOwner g = c.unit) : ((s.releaseOwner c).group g).queue = [] := by
  have hbegin : ((s.beginRelease c).group g).queue = [] :=
    State.dropQueued_queue (p := fun f => s.groupOwner f == c.unit) hg (beq_iff_eq.mpr howner) _ _
  unfold State.releaseOwner
  split
  · exact (foldl_keeps (fun a => (a.group g).queue) _ (fun a f => a.abortGroup_queue f 2 g) _ _).trans hbegin
  · exact hbegin

theorem completes_ownerRelease (hc : IsCmd c 0x32) (hpos : 1 ≤ c.unit) (hle : c.unit ≤ 254) (hlimit : 1 ≤ c.limit)
    (hmode : s.mgr.mode = .quiescent ∨ s.mgr.mode = .loaded ∨ s.mgr.mode = .running) (hopen : s.owners.opening = none)
    (hrel : s.owners.releasing = none) (hlive : c.unit ∈ s.owners.live) : Completes (.ownerRelease c) s fun t =>
      t.owners = { s.owners with releasing := some (s.newReleasing c) } ∧
      (∀ g, g < 32 → s.groupOwner g = c.unit → (t.group g).queue = []) ∧ t.mem = s.mem ∧ t.keyTag = s.keyTag := by
  have hkept := s.releaseOwner_ownerView c
  have hmem := State.mem_of_ownerView hkept
  have htag := State.keyTag_of_ownerView hkept
  exact ⟨_, exec_ownerRelease hc hpos hle hlimit hmode hopen hrel hlive, State.owners_of_ownerView hkept,
    fun _ hg howner => State.releaseOwner_queue hg howner, hmem, htag⟩

theorem completes_releaseDrainTimeout (hrel : s.owners.releasing = some r) (hsingle : r.single = true) (hwait : r.erasing = false)
    (hforce : r.force = false) (hlate : r.accepted + r.limit ≤ s.mgr.frame) (hruns : ∃ o ∈ r.owners, s.ownerJobs o ≠ []) :
    Completes .releaseDrainTimeout s fun t =>
      t = ({ s with owners := { s.owners with releasing := none } } : State).final? r.cmd 0x13 := by
  refine ⟨_, ?_, rfl⟩
  show execReleaseDrainTimeout s = _
  unfold execReleaseDrainTimeout
  simp only [hrel]
  rw [if_pos (by simpa [hsingle, hwait, hforce, hlate] using hruns)]
  rfl

/-! ## The erase (R161 to R164) -/

theorem State.freeLoad_ownerView (s : State) (l : MLoad) : (s.freeLoad l).ownerView = s.ownerView :=
  foldl_keeps State.ownerView (fun st w => st.updWorker w _) (fun _ _ => rfl) _ s

theorem State.endOwnerMoves_ownerView (s : State) (owners : List Nat) : (s.endOwnerMoves owners).ownerView = s.ownerView := by
  have hload (st : State) (l : MLoad) (res : List (Nat × Nat)) :
      ((st.freeLoad l).final l.cmd stOwnerAbsent res).draw.2.ownerView = st.ownerView :=
    (State.final_ownerView _ _ _ _).trans (st.freeLoad_ownerView l)
  unfold State.endOwnerMoves
  dsimp only
  exact (State.foldl_final_ownerView Promote.cmd stOwnerAbsent _ _).trans (foldl_keeps State.ownerView _ (fun st l => hload st l _) _ s)

/-- The owners at the start of an erase: those released are not live, and every live worker's confirmation is waited for. -/
def State.eraseStart (s : State) (r : Releasing) (x : Owners) : Owners :=
  { x with
    live := x.live.filter fun o => !r.owners.contains o
    releasing := some { r with erasing := true, e := s.mgr.frame, waiting := s.liveWorkers, erased := 0 } }

theorem State.openErase_owners (s : State) (r : Releasing) : (s.openErase r).owners = s.eraseStart r s.owners :=
  congrArg (s.eraseStart r) (State.owners_of_ownerView (s.endOwnerMoves_ownerView r.owners))

/-- An erase bars the groups that the active image gives to its owners (R164). -/
theorem State.openErase_barred {i : Image} {d : GroupDef} (hact : s.img.active = some i) (hd : d ∈ i.groups) (howner : d.owner ∈ r.owners) :
    d.gid ∈ (s.openErase r).img.barred := by
  have hnames : d.gid ∈ (i.groups.filter fun d => r.owners.contains d.owner).map fun d => d.gid :=
    List.mem_map_of_mem (List.mem_filter.mpr ⟨hd, List.contains_iff_mem.mpr howner⟩)
  unfold State.openErase
  simp only [hact, State.updImg_img]
  refine List.mem_append.mpr (or_iff_not_imp_left.mpr fun hnew => List.mem_filter.mpr ⟨hnames, ?_⟩)
  simpa using hnew

theorem completes_eraseBoundary (hrel : s.owners.releasing = some r) (hwait : r.erasing = false) (hidle : ∀ o ∈ r.owners, s.ownerJobs o = []) :
    Completes .eraseBoundary s fun t =>
      t.owners.live = s.owners.live.filter (fun o => !r.owners.contains o) ∧
      t.owners.releasing = some { r with erasing := true, e := s.mgr.frame, waiting := s.liveWorkers, erased := 0 } ∧
      (∀ i d, s.img.active = some i → d ∈ i.groups → d.owner ∈ r.owners → d.gid ∈ t.img.barred) ∧ t.mem = s.mem := by
  have hexec : exec .eraseBoundary s = .next (s.openErase r) := by
    show execEraseBoundary s = _
    unfold execEraseBoundary
    simp only [hrel]
    rw [if_pos (by simpa [hwait] using hidle)]
  exact ⟨_, hexec, by rw [State.openErase_owners]; rfl, by rw [State.openErase_owners]; rfl,
    fun _ _ hact hd howner => State.openErase_barred hact hd howner, s.openErase_mem r⟩

theorem completes_erase (hrel : s.owners.releasing = some r) (herase : r.erasing = true) (hup : s.workerUp w = true) (hwait : w ∈ r.waiting) :
    Completes (.erase w) s fun t =>
      (∀ o ∈ r.slots, ((t.worker w).slot o).live = false) ∧ (∀ o, o ∉ r.slots → (t.worker w).slot o = (s.worker w).slot o) ∧
      (∀ v, v ≠ w → t.worker v = s.worker v) ∧ t = { s with workers := t.workers } := by
  have hexec : exec (.erase w) s = .next (s.updWorker w fun x => { x with keys := r.slots.foldl (fun t o => t.erase o) x.keys }) := by
    show execErase w s = _
    unfold execErase
    simp only [hrel]
    rw [if_pos (by simp [herase, hup, hwait])]
  obtain ⟨t, ht, hw, hrest, honly⟩ := completes_updWorker hexec rfl
  refine ⟨t, ht, fun o ho => ?_, fun o ho => ?_, hrest, honly⟩
  · rw [hw, Worker.slot, Tab.get, Tab.get?_foldl_erase, if_pos ho]; rfl
  · rw [hw, Worker.slot, Tab.get, Tab.get?_foldl_erase, if_neg ho]; rfl

theorem completes_eraseConfirm (hrel : s.owners.releasing = some r) (herase : r.erasing = true) (hwait : w ∈ r.waiting)
    (hzero : ∀ o ∈ r.slots, ((s.worker w).slot o).live = false) : Completes (.eraseConfirm w) s fun t =>
      t = { s with owners := { s.owners with
        releasing := some { r with waiting := r.waiting.filter fun v => v != w, erased := r.erased + 1 } } } := by
  refine ⟨_, ?_, rfl⟩
  show execEraseConfirm w s = _
  unfold execEraseConfirm
  simp only [hrel]
  rw [if_pos ⟨herase, List.contains_iff_mem.mpr hwait, by simpa using hzero⟩]
  rfl

/-- Settles O40: the commands by the release they begin or abandon; the erase by its owners and groups at the manager, and slot by slot at
a worker. -/
theorem ownersAreReleased : Obligations.OwnersAreReleased := by
  unfold Obligations.OwnersAreReleased
  exact ⟨fun s c r => ⟨completes_ownerRelease, completes_releaseDrainTimeout⟩,
    fun s r w hrel => ⟨completes_eraseBoundary hrel, completes_erase hrel, completes_eraseConfirm hrel⟩⟩

end Sys2Proof.Machine
end

section
/-! The obligation about KEM keys and lines written under the keys of owners. -/

namespace Sys2Proof.Machine

variable {s : State} {c : Cmd} {line : Nat} {b : List Byte}

theorem completes_kemKey {d : List Byte} (hc : IsCmd c 0x30) (hoff : s.mgr.mode ≠ .off) (hbring : s.mgr.mode ≠ .bringUp)
    (hlimp : s.mgr.mode ≠ .limp) (hdata : c.data = some d) : Completes (.kemKey c) s fun t =>
      t = (s.giveBack c c.addr (kemPair s.owners.kemGen).ek).final c 0 [(4, s.owners.kemGen % 2 ^ 32)] := by
  have hstate : s.mgr.mode.deaf = false ∧
      [MState.quiescent, .loaded, .running, .passage, .doze, .hold, .service].contains s.mgr.mode = true := by
    cases hm : s.mgr.mode with
    | off => exact absurd hm hoff
    | bringUp => exact absurd hm hbring
    | limp => exact absurd hm hlimp
    | _ => decide
  obtain ⟨hdeaf, hok⟩ := hstate
  have heff : s.kemKeyCmd c = s.writeBack c c.addr (kemPair s.owners.kemGen).ek [(4, s.owners.kemGen % 2 ^ 32)] := by
    rw [State.kemKeyCmd, State.decideCmd_eff _ hc hdeaf hok (List.forall_mem_nil _)]
  refine ⟨_, congrArg Host.Outcome.next heff, ?_⟩
  rw [State.writeBack, if_pos (by rw [hdata]; rfl)]
  rfl

/-- A line is written where the key of its page is in force (R165, R170). -/
theorem State.writeLine_live (h : s.keyAt (line * 64) ≠ 0) (b : List Byte) : s.writeLine line b =
    { s with mem := memPutAll (line * 64) b s.mem, keyTag := s.keyTag.set line (s.keyAt (line * 64)) } := if_neg h

/-- A line is discarded where the slot of its page's owner is not live (R169). -/
theorem State.writeLine_void (h : s.keyAt (line * 64) = 0) (b : List Byte) : s.writeLine line b =
    s.updWorker (addrWorker (line * 64)) fun x => { x with voidWr := satInc 0xFFFF x.voidWr } := if_pos h

theorem State.writeLine_reads (hb : b.length = 64) (hkey : s.keyAt (line * 64) ≠ 0) (hmem : Memory.wf s.mem = true) :
    (∀ i, i < 64 → memGet (s.writeLine line b).mem (line * 64 + i) = b.getD i 0) ∧
    (∀ a, a / 64 ≠ line → memGet (s.writeLine line b).mem a = memGet s.mem a ∧
      (s.writeLine line b).keyTag.get 0 (a / 64) = s.keyTag.get 0 (a / 64)) ∧
    (s.writeLine line b).keyTag.get 0 line = s.keyAt (line * 64) ∧
    s.writeLine line b = { s with mem := (s.writeLine line b).mem, keyTag := (s.writeLine line b).keyTag } := by
  rw [State.writeLine_live hkey]
  refine ⟨fun i hi => ?_, fun a ha => ⟨?_, Tab.get_set_ne _ _ _ ha⟩, Tab.get_set_self _ _ _ _, rfl⟩
  · rw [memGet_memPutAll _ _ _ _ hmem, hb, if_pos (by omega), Nat.add_sub_cancel_left]
  · rw [memGet_memPutAll _ _ _ _ hmem, hb, if_neg (by omega)]

theorem State.writeLine_counts (hkey : s.keyAt (line * 64) = 0) (b : List Byte) :
    ((s.writeLine line b).worker (addrWorker (line * 64))).voidWr = min 65535 ((s.worker (addrWorker (line * 64))).voidWr + 1) ∧
    s.writeLine line b = { s with workers := (s.writeLine line b).workers } := by
  rw [State.writeLine_void hkey]
  exact ⟨by rw [State.updWorker_worker_self]; rfl, rfl⟩

/-- Settles O41: KEM_KEY by what it gives back; a line by whether the key of its page is in force. That a line's bytes are held as they were
written, beside the number of their key, is the model's choice (log entry 64). -/
theorem linesAreWrittenUnderKeys : Obligations.LinesAreWrittenUnderKeys := by
  unfold Obligations.LinesAreWrittenUnderKeys
  exact ⟨fun s c d => completes_kemKey, fun s line b hb => ⟨State.writeLine_reads hb, fun hkey => State.writeLine_counts hkey b⟩⟩

end Sys2Proof.Machine
end

section
/-! SUPPORT. Accesses through BAR2 (R168, R331): which of them an access is, and what a whole line read or written comes to. -/

namespace Sys2Proof.Machine

variable {s : State} {k x n mc : Nat} {errs : List (Nat × Nat)} {b : List Byte} {a : Nat}

/-- The machine address of an offset in the BAR2 window of a link. -/
def State.bar2Addr (s : State) (k x : Nat) : Nat := (s.hub k).bar2Base * 2 ^ 36 + x % 2 ^ 36

section
variable (hk : k < s.fit.sleds) (hup : (s.hub k).linkUp = true)
include hk hup

theorem exec_bar2Access_read (hoff : s.mgr.mode ≠ .off) : exec (.bar2Access k x (.read n errs) mc) s =
    if s.mgr.mode = .bringUp then .next (s.emit (.pcie k 2))
    else if addrSpace (s.bar2Addr k x) = 3 then .next (s.hostRegRead k (s.bar2Addr k x) n mc)
    else if addrSpace (s.bar2Addr k x) < 2 then
      if s.mgr.mode = .doze ∨ s.mgr.mode = .hold then .next (s.emit (.pcie k 3)) else .next (s.hostTierRead k (s.bar2Addr k x) n errs)
    else .next (s.emit (.pcie k 2)) :=
  if_neg (by simp [hk, hup, hoff])

theorem exec_bar2Access_write (hoff : s.mgr.mode ≠ .off) : exec (.bar2Access k x (.write b) mc) s =
    if s.mgr.mode = .bringUp then .next (s.updHub k fun h => { h with discards := satInc 0xFFFF h.discards })
    else if addrSpace (s.bar2Addr k x) = 3 then .next (s.hostRegWrite k (s.bar2Addr k x) b mc)
    else if addrSpace (s.bar2Addr k x) < 2 then
      if s.mgr.mode = .doze ∨ s.mgr.mode = .hold then .next (s.recordAt k stBusy none) else .next (s.hostTierWrite (s.bar2Addr k x) b)
    else .next s :=
  if_neg (by simp [hk, hup, hoff])

/-- A tier is read and written where the machine is awake (R331). -/
theorem exec_bar2Access_tier (hspace : addrSpace (s.bar2Addr k x) < 2) (hmode : s.mgr.mode ∉ [.off, .bringUp, .doze, .hold]) :
    exec (.bar2Access k x (.read n errs) mc) s = .next (s.hostTierRead k (s.bar2Addr k x) n errs) ∧
    exec (.bar2Access k x (.write b) mc) s = .next (s.hostTierWrite (s.bar2Addr k x) b) := by
  simp only [List.mem_cons, List.not_mem_nil, or_false, not_or] at hmode
  obtain ⟨hoff, hbring, hdoze, hhold⟩ := hmode
  have hasleep : ¬(s.mgr.mode = .doze ∨ s.mgr.mode = .hold) := not_or.mpr ⟨hdoze, hhold⟩
  constructor
  · rw [exec_bar2Access_read hk hup hoff, if_neg hbring, if_neg (by omega), if_pos hspace, if_neg hasleep]
  · rw [exec_bar2Access_write hk hup hoff, if_neg hbring, if_neg (by omega), if_pos hspace, if_neg hasleep]

/-- In Doze and Hold a tier is not reached (Table 14.5a). -/
theorem exec_bar2Access_asleep (hspace : addrSpace (s.bar2Addr k x) < 2) (hmode : s.mgr.mode = .doze ∨ s.mgr.mode = .hold) :
    exec (.bar2Access k x (.read n errs) mc) s = .next (s.emit (.pcie k 3)) ∧
    exec (.bar2Access k x (.write b) mc) s = .next (s.recordAt k stBusy none) := by
  have hother : s.mgr.mode ≠ .off ∧ s.mgr.mode ≠ .bringUp := by rcases hmode with h | h <;> rw [h] <;> decide
  obtain ⟨hoff, hbring⟩ := hother
  constructor
  · rw [exec_bar2Access_read hk hup hoff, if_neg hbring, if_neg (by omega), if_pos hspace, if_pos hmode]
  · rw [exec_bar2Access_write hk hup hoff, if_neg hbring, if_neg (by omega), if_pos hspace, if_pos hmode]

theorem exec_bar2Access_bringUp (hmode : s.mgr.mode = .bringUp) :
    exec (.bar2Access k x (.read n errs) mc) s = .next (s.emit (.pcie k 2)) ∧
    exec (.bar2Access k x (.write b) mc) s = .next (s.updHub k fun h => { h with discards := satInc 0xFFFF h.discards }) := by
  have hoff : s.mgr.mode ≠ .off := by rw [hmode]; decide
  exact ⟨(exec_bar2Access_read hk hup hoff).trans (if_pos hmode), (exec_bar2Access_write hk hup hoff).trans (if_pos hmode)⟩

end

/-! ## Whole lines -/

/-- A whole line is the one line of an access to it. -/
theorem lines_of_line (ha : a % 64 = 0) :
    ((List.range (if 64 = 0 then 0 else (a + 64 - 1) / 64 - a / 64 + 1)).map fun i => a / 64 + i) = [a / 64] := by
  have hone : (a + 64 - 1) / 64 - a / 64 + 1 = 1 := by omega
  rw [if_neg (by decide), hone]
  rfl

theorem lineBytes_of_line (ha : a % 64 = 0) : lineBytes a 64 (a / 64) = (List.range 64).map fun i => a + i := by
  rw [← List.filterMap_eq_map, lineBytes]
  refine List.filterMap_congr fun i hi => ?_
  have hlt : i < 64 := List.mem_range.mp hi
  have hat : a / 64 * 64 + i = a + i := by omega
  simp only [hat, Function.comp_apply]
  exact if_pos ⟨by omega, by omega⟩

/-- A line without an error is read as its bytes (R168). -/
theorem State.hostTierRead_line (ha : a % 64 = 0) (hans : s.tierAnswers a = true) :
    s.hostTierRead k a 64 [] = s.emit (.bytes k a ((List.range 64).map fun i => s.hostByte (a + i))) := by
  have hat : a / 64 * 64 = a := by omega
  unfold State.hostTierRead
  rw [lines_of_line ha]
  simp [hat, hans, lineBytes_of_line ha, State.lineErrors, Function.comp_def]

theorem State.hostByte_of_owner0 (hans : s.tierAnswers a = true) (howner : s.pageOwner (addrWorker a) (addrSpace a) (addrOffset a) = 0) :
    s.hostByte a = s.tierByte a := by
  rw [State.hostByte, if_neg (by simp [hans]), if_pos howner]

/-- A line of owner 0's pages is written, and one of another owner's is discarded and counted (R168). -/
theorem State.hostTierWrite_line (ha : a % 64 = 0) (hans : s.tierAnswers a = true) (hb : b.length = 64) : s.hostTierWrite a b =
    if s.pageOwner (addrWorker a) (addrSpace a) (addrOffset a) = 0 then s.tierWrite a b
    else s.updWorker (addrWorker a) fun x => { x with hostWr := satInc 0xFFFF x.hostWr } := by
  have hat : a / 64 * 64 = a := by omega
  have hbytes : ((List.range 64).map fun i => a + i).map (fun x => b.getD (x - a) 0) = b := by
    refine List.ext_getElem (by simp [hb]) fun i hi hi' => ?_
    simp [hi']
  unfold State.hostTierWrite
  simp only [hb]
  rw [lines_of_line ha]
  show (if !s.tierAnswers (a / 64 * 64) then s else _) = _
  rw [hat, hans, lineBytes_of_line ha, hbytes]
  rfl

end Sys2Proof.Machine
end

section
/-! SUPPORT. Requests to the management ports (R347, R348, Table 14.12): which are answered as they come, what an answer leaves, and what
the requests of one word do. -/

namespace Sys2Proof.Machine

variable {s : State} {d : Datagram} {inLimp : Bool} {f : State → State}

/-- A request whose SEQ its client has not sent among those that are kept. -/
def State.SeqNew (s : State) (d : Datagram) : Prop := ∀ x ∈ s.host.seqs, ¬(x.1 = d.client ∧ x.2.1 = d.seq)

theorem State.request_ignored (h : s.isRequest d = false) (inLimp : Bool) (f : State → State) : s.request d inLimp f = s :=
  if_pos (.inr (by rw [h]; rfl))

section
variable (hreq : s.isRequest d = true) (hoff : s.mgr.mode ≠ .off)
include hreq hoff

/-- A request that repeats a SEQ gets the earlier reply, and is not acted on. -/
theorem State.request_repeated {pre rest : List (Nat × Nat × Option Out)} {o : Out}
    (hseqs : s.host.seqs = pre ++ (d.client, d.seq, some o) :: rest) (hpre : ∀ x ∈ pre, ¬(x.1 = d.client ∧ x.2.1 = d.seq)) :
    s.request d inLimp f = s.emit o := by
  have hfind : s.host.seqs.find? (fun q => q.1 == d.client && q.2.1 == d.seq) = some (d.client, d.seq, some o) := by
    rw [hseqs]
    exact find?_first (by simp) fun x hx => by simpa using hpre x hx
  unfold State.request
  rw [if_neg (by simp [hreq, hoff]), hfind]

variable (hnew : s.SeqNew d)
include hnew

theorem State.request_new : s.request d inLimp f =
    if s.mgr.mode = .bringUp then s.reply d stNotReady else if s.mgr.mode = .limp ∧ !inLimp then s.reply d stWrongState else f s := by
  have hfind : s.host.seqs.find? (fun q => q.1 == d.client && q.2.1 == d.seq) = none :=
    List.find?_eq_none.mpr fun x hx => by simpa using hnew x hx
  unfold State.request
  rw [if_neg (by simp [hreq, hoff]), hfind]

theorem State.request_bringUp (h : s.mgr.mode = .bringUp) : s.request d inLimp f = s.reply d stNotReady :=
  (State.request_new hreq hoff hnew).trans (if_pos h)

theorem State.request_limp (h : s.mgr.mode = .limp) : s.request d false f = s.reply d stWrongState := by
  rw [State.request_new hreq hoff hnew, if_neg (by simp [h]), if_pos ⟨h, rfl⟩]

/-- A request that Limp serves is acted on in every state but Bring-up. -/
theorem State.request_served (hbring : s.mgr.mode ≠ .bringUp) : s.request d true f = f s := by
  rw [State.request_new hreq hoff hnew, if_neg hbring, if_neg (by simp)]

theorem State.request_open (hopen : s.mgr.mode ≠ .bringUp ∧ s.mgr.mode ≠ .limp) : s.request d false f = f s := by
  rw [State.request_new hreq hoff hnew, if_neg hopen.1, if_neg (by simp [hopen.2])]

end

/-- What holds of every answer to a request holds of each of the five kinds. -/
theorem completes_requests {P : State → Prop} (h : ∀ inLimp f, P (s.request d inLimp f)) :
    Completes (.regRead d) s P ∧ Completes (.regWrite d) s P ∧ Completes (.command d) s P ∧ Completes (.subscribe d) s P ∧
    Completes (.unsubscribe d) s P :=
  ⟨⟨_, rfl, h _ _⟩, ⟨_, rfl, h _ _⟩, ⟨_, rfl, h _ _⟩, ⟨_, rfl, h _ _⟩, ⟨_, rfl, h _ _⟩⟩

/-! ## Answers -/

/-- A request is kept with its reply. -/
theorem State.remember_kept (s : State) (d : Datagram) (r : Option Out) : (d.client, d.seq, r) ∈ (s.remember d r).host.seqs := by
  have hlast (l : List (Nat × Nat × Option Out)) : (d.client, d.seq, r) ∈
      (l ++ [(d.client, d.seq, r)]).drop ((l ++ [(d.client, d.seq, r)]).length - 64) := by
    rw [List.drop_append_of_le_length (by simp)]
    exact List.mem_append_right _ (List.mem_singleton_self _)
  exact List.mem_append_right _ (hlast _)

/-- The requests of other clients are kept. -/
theorem State.remember_others {x : Nat × Nat × Option Out} (hx : x ∈ s.host.seqs) (hne : x.1 ≠ d.client) (r : Option Out) :
    x ∈ (s.remember d r).host.seqs := by
  have hkept : x ∈ s.host.seqs.filter fun q => q.1 != d.client := List.mem_filter.mpr ⟨hx, by simpa using hne⟩
  cases r with
  | none => exact List.mem_append_left _ hkept
  | some o => exact List.mem_append_left _ hkept

/-- A reply of a status with words, kept with its SEQ. -/
def State.Said (s : State) (d : Datagram) (status : Nat) (ws : List Nat) (t : State) : Prop :=
  t.host.out = s.host.out ++ [.reply d.client d.seq status ws] ∧
  (d.client, d.seq, some (.reply d.client d.seq status ws)) ∈ t.host.seqs ∧
  (∀ x ∈ s.host.seqs, x.1 ≠ d.client → x ∈ t.host.seqs)

theorem State.reply_said (s : State) (d : Datagram) (status : Nat) (ws : List Nat) : s.Said d status ws (s.reply d status ws) :=
  ⟨rfl, s.remember_kept d _, fun _ hx hne => State.remember_others hx hne _⟩

/-- A reply of a status without words, and nothing else. -/
def State.SaidOnly (s : State) (d : Datagram) (status : Nat) (t : State) : Prop :=
  s.Said d status [] t ∧ t = { s with host := { s.host with out := t.host.out, seqs := t.host.seqs } }

theorem State.reply_only (s : State) (d : Datagram) (status : Nat) : s.SaidOnly d status (s.reply d status) :=
  ⟨s.reply_said d status [], rfl⟩

/-! ## Requests of one word -/

/-- A read of a register changes what is latched, and nothing else (R43). -/
theorem State.readReg_latches (s : State) (p : Path) (mc : Nat) (b : Block) (o : Nat) :
    ∃ l, (s.readReg p mc b o).2 = s.updHost fun h => { h with latches := l } := by
  unfold State.readReg
  split
  · exact ⟨s.host.latches, rfl⟩
  · dsimp only
    split
    · exact ⟨_, rfl⟩
    · split
      · exact ⟨s.host.latches, rfl⟩
      · exact ⟨s.host.latches, rfl⟩

theorem State.readAt_latches (s : State) (p : Path) (mc : Nat) (pl : Option (Block × Nat)) :
    ∃ l, (s.readAt p mc pl).2 = s.updHost fun h => { h with latches := l } := by
  cases pl with
  | none => exact ⟨s.host.latches, rfl⟩
  | some pl => exact s.readReg_latches p mc pl.1 pl.2

theorem State.mgmtRead_one (h : d.count = 1) : s.mgmtRead d =
    (s.readAt (.mgmt d.port) d.mc (s.spacePlace d.addr)).2.reply d stOk [(s.readAt (.mgmt d.port) d.mc (s.spacePlace d.addr)).1] := by
  unfold State.mgmtRead
  rw [if_neg (by omega), h]
  rfl

theorem State.mgmtWrite_one {v o : Nat} {b : Block} (hwords : d.words = [v]) (hpl : s.spacePlace d.addr = some (b, o)) : s.mgmtWrite d =
    (s.regWrite1 none b o v 15 d.mc false).2.reply d (s.regWrite1 none b o v 15 d.mc false).1 := by
  unfold State.mgmtWrite
  simp [hwords, hpl]

end Sys2Proof.Machine
end

section
/-! SUPPORT. PTP messages (R350, R353): which the slave function takes, and which grandmaster is the better. -/

namespace Sys2Proof.Machine

variable {s : State}

/-- Of data sets of one length the better is the lesser in the order of lists. -/
theorem betterMaster_iff_lt {as bs : List Nat} (h : as.length = bs.length) : betterMaster as bs = true ↔ as < bs := by
  induction as generalizing bs with
  | nil =>
    obtain rfl : bs = [] := List.eq_nil_of_length_eq_zero h.symm
    simp [betterMaster]
  | cons a as ih =>
    cases bs with
    | nil => cases h
    | cons b bs =>
      rw [List.cons_lt_cons_iff, ← ih (Nat.succ.inj h)]
      simp [betterMaster]

/-- The grandmaster followed after an announcement of a data set (R353). -/
def Ktd.masterAfter (x : Ktd) (ds : List Nat) : Option (List Nat) :=
  match x.master with
  | none => some ds
  | some old => if betterMaster ds old || ds.getLast? == old.getLast? then some ds else some old

section
variable (hoff : s.mgr.mode ≠ .off) (hcap : s.mgr.capFixed = true)
include hoff hcap

theorem exec_ptpTransit (m : PtpMsg) :
    exec (.ptpTransit m) s = .next (s.emit (.ptp (ptpCorrection m) (decide (m.kind < 2) && m.transport == 1))) :=
  if_pos (by simp [hoff, hcap])

variable {tr : Nat} (hena : s.ktd.enable = true) (htr : tr < 2) (hset : s.ktd.transport.testBit tr = true)
include hena htr hset

theorem State.ptpTakes_domain : s.ptpTakes s.ktd.domain tr = true := by simp [State.ptpTakes, hoff, hcap, hena, htr, hset]

theorem exec_syncMessage (hmaster : s.ktd.master.isSome = true) (th y : Int) : exec (.syncMessage s.ktd.domain tr th y) s =
    .next (s.updKtd fun x => { x with y := max (-100000) (min 100000 y), pending := some th, locked := true }) :=
  if_pos (by rw [State.ptpTakes_domain hoff hcap hena htr hset, hmaster]; rfl)

theorem exec_announceMessage {n : Nat} (hn : n < 2) (ds : List Nat) : exec (.announceMessage n s.ktd.domain tr ds) s =
    .next (s.updKtd fun x => { x with master := x.masterAfter ds }) := by
  show execAnnounceMessage n s.ktd.domain tr ds s = _
  unfold execAnnounceMessage
  rw [if_pos (by simp [State.ptpTakes_domain hoff hcap hena htr hset, hn])]
  refine congrArg Host.Outcome.next (congrArg (fun k => { s with ktd := k }) ?_)
  generalize s.ktd = x
  cases x
  case mk master _ _ _ =>
    cases master with
    | none => rfl
    | some old =>
      dsimp only [Ktd.masterAfter]
      split
      · rfl
      · rfl

end

end Sys2Proof.Machine
end

section
/-! The obligation about BAR2, the management ports and time. -/

namespace Sys2Proof.Machine

variable {s : State}

/-! ## BAR2 -/

section
variable {k x n mc : Nat} {errs : List (Nat × Nat)} {b : List Byte} (hk : k < s.fit.sleds) (hup : (s.hub k).linkUp = true)
include hk hup

theorem completes_bar2Access_lines (hspace : addrSpace (s.bar2Addr k x) < 2) (hmode : s.mgr.mode ∉ [.off, .bringUp, .doze, .hold])
    (halign : s.bar2Addr k x % 64 = 0) (hans : s.tierAnswers (s.bar2Addr k x) = true) :
    let a := s.bar2Addr k x
    (b.length = 64 → s.pageOwner (addrWorker a) (addrSpace a) (addrOffset a) = 0 → Completes (.bar2Access k x (.write b) mc) s fun t =>
      t = s.tierWrite a b) ∧
    (b.length = 64 → s.pageOwner (addrWorker a) (addrSpace a) (addrOffset a) ≠ 0 → Completes (.bar2Access k x (.write b) mc) s fun t =>
      (t.worker (addrWorker a)).hostWr = min 65535 ((s.worker (addrWorker a)).hostWr + 1) ∧ t = { s with workers := t.workers }) ∧
    ((∀ i, i < 64 → s.tierAnswers (a + i) = true ∧ s.pageOwner (addrWorker (a + i)) (addrSpace (a + i)) (addrOffset (a + i)) = 0) →
      Completes (.bar2Access k x (.read 64 []) mc) s fun t => t = s.emit (.bytes k a (s.tierBytes a 64))) := by
  intro a
  obtain ⟨hread, hwrite⟩ := exec_bar2Access_tier (n := 64) (errs := []) (b := b) (mc := mc) hk hup hspace hmode
  refine ⟨fun hlen howner => ⟨_, hwrite, ?own⟩, fun hlen howner => ⟨_, hwrite, ?other⟩, fun hline => ⟨_, hread, ?read⟩⟩
  case own => rw [State.hostTierWrite_line halign hans hlen, if_pos howner]
  case other =>
    rw [State.hostTierWrite_line halign hans hlen, if_neg howner]
    exact ⟨by rw [State.updWorker_worker_self]; rfl, rfl⟩
  case read =>
    have hbytes : ((List.range 64).map fun i => s.hostByte (a + i)) = s.tierBytes a 64 := List.map_congr_left fun i hi => by
      obtain ⟨hans, howner⟩ := hline i (List.mem_range.mp hi)
      exact State.hostByte_of_owner0 hans howner
    rw [State.hostTierRead_line halign hans, hbytes]

theorem completes_bar2Access_asleep (hspace : addrSpace (s.bar2Addr k x) < 2) (hmode : s.mgr.mode = .doze ∨ s.mgr.mode = .hold) :
    Completes (.bar2Access k x (.read n errs) mc) s (fun t => t = s.emit (.pcie k 3)) ∧
    Completes (.bar2Access k x (.write b) mc) s fun t =>
      (t.hub k).errCode = 0x42 ∧ (t.hub k).refused = min 65535 ((s.hub k).refused + 1) ∧ t.mem = s.mem ∧ t.workers = s.workers := by
  obtain ⟨hread, hwrite⟩ := exec_bar2Access_asleep (n := n) (errs := errs) (b := b) (mc := mc) hk hup hspace hmode
  refine ⟨⟨_, hread, rfl⟩, _, hwrite, ?_, ?_, s.recordAt_mem k _ _, rfl⟩
  · rw [State.recordAt, State.recordRefusal, State.updHub_hub_self]; rfl
  · rw [State.recordAt, State.recordRefusal, State.updHub_hub_self]; rfl

theorem completes_bar2Access_bringUp (hmode : s.mgr.mode = .bringUp) :
    Completes (.bar2Access k x (.read n errs) mc) s (fun t => t = s.emit (.pcie k 2)) ∧
    Completes (.bar2Access k x (.write b) mc) s fun t => (t.hub k).discards = min 65535 ((s.hub k).discards + 1) ∧ OnlyHub k s t := by
  obtain ⟨hread, hwrite⟩ := exec_bar2Access_bringUp (x := x) (n := n) (errs := errs) (b := b) (mc := mc) hk hup hmode
  exact ⟨⟨_, hread, rfl⟩, _, hwrite, by rw [State.updHub_hub_self]; rfl, s.updHub_onlyHub k _⟩

end

/-! ## The management ports -/

section
variable {d : Datagram} (hreq : s.isRequest d = true) (hoff : s.mgr.mode ≠ .off) (hnew : s.SeqNew d)
include hreq hoff hnew

theorem completes_regRead_one (hbring : s.mgr.mode ≠ .bringUp) (hcount : d.count = 1) : Completes (.regRead d) s fun t =>
    (∀ b o, s.spacePlace d.addr = some (b, o) → latchSet b o = none → s.Said d 0 [(s.regVal d.mc b o).getD 0] t) ∧
    (s.spacePlace d.addr = none → s.Said d 0 [0] t) ∧
    t = { s with host := { s.host with out := t.host.out, seqs := t.host.seqs, latches := t.host.latches } } := by
  refine ⟨_, congrArg Host.Outcome.next ((State.request_served hreq hoff hnew hbring).trans (State.mgmtRead_one hcount)), fun b o hpl hset => ?_,
    fun hpl => ?_, ?_⟩
  · rw [hpl, State.readAt, State.readReg_of_latchSet_none hset]
    exact s.reply_said d 0 _
  · rw [hpl]
    exact s.reply_said d 0 [0]
  · obtain ⟨l, hl⟩ := s.readAt_latches (.mgmt d.port) d.mc (s.spacePlace d.addr)
    rw [hl]
    rfl

theorem completes_regWrite_one {b : Block} {o v : Nat} (hopen : s.mgr.mode ≠ .bringUp ∧ s.mgr.mode ≠ .limp) (hwords : d.words = [v])
    (hpl : s.spacePlace d.addr = some (b, o)) (hreg : (s.regVal 0 b o).isSome = true) :
    (s.gate b o ≠ 0 → Completes (.regWrite d) s (s.SaidOnly d (s.gate b o))) ∧
    (s.gate b o = 0 → Completes (.regWrite d) s fun t =>
      t.host.out = (s.writeReg none b o v 15 d.mc false).host.out ++ [.reply d.client d.seq 0 []] ∧
      t = { s.writeReg none b o v 15 d.mc false with host := t.host }) := by
  have hexec : exec (.regWrite d) s = .next ((s.regWrite1 none b o v 15 d.mc false).2.reply d (s.regWrite1 none b o v 15 d.mc false).1) :=
    congrArg Host.Outcome.next ((State.request_open hreq hoff hnew hopen).trans (State.mgmtWrite_one hwords hpl))
  refine ⟨fun hg => ?_, fun hg => ?_⟩
  · rw [State.regWrite1_of_gate_ne_zero hreg hg] at hexec
    exact ⟨_, hexec, s.reply_only d _⟩
  · rw [State.regWrite1_of_gate_zero hreg hg] at hexec
    exact ⟨_, hexec, rfl, rfl⟩

theorem completes_command_taken {c : Cmd} (hopen : s.mgr.mode ≠ .bringUp ∧ s.mgr.mode ≠ .limp) (hcmd : d.cmd = some c)
    (hsize : commandDataSize c ≤ 8192) : Completes (.command d) s fun t =>
      t.host.intake = s.host.intake ++ [(d.mc, { c with src := .mgmt d.client d.seq })] ∧ (d.client, d.seq, none) ∈ t.host.seqs ∧
      t = { s with host := { s.host with intake := t.host.intake, seqs := t.host.seqs } } := by
  have htaken : s.mgmtCommand d =
      (s.remember d none).updHost fun h => { h with intake := h.intake ++ [(d.mc, { c with src := .mgmt d.client d.seq })] } := by
    unfold State.mgmtCommand
    simp only [hcmd]
    exact if_neg (by omega)
  exact ⟨_, congrArg Host.Outcome.next ((State.request_open hreq hoff hnew hopen).trans htaken), rfl, s.remember_kept d none, rfl⟩

theorem completes_command_tooLarge {c : Cmd} (hopen : s.mgr.mode ≠ .bringUp ∧ s.mgr.mode ≠ .limp) (hcmd : d.cmd = some c)
    (hsize : 8192 < commandDataSize c) : Completes (.command d) s (s.SaidOnly d 0x40) := by
  have hrefused : s.mgmtCommand d = s.reply d 0x40 := by
    unfold State.mgmtCommand
    simp only [hcmd]
    exact if_pos hsize
  exact ⟨_, congrArg Host.Outcome.next ((State.request_open hreq hoff hnew hopen).trans hrefused), s.reply_only d _⟩

theorem exec_subscribe (hbring : s.mgr.mode ≠ .bringUp) (hsub : d.client ∉ s.host.subs) : exec (.subscribe d) s = .next
    (if 4 ≤ s.host.subs.length then s.reply d stBusy else (s.updHost fun h => { h with subs := h.subs ++ [d.client] }).reply d stOk) :=
  congrArg Host.Outcome.next ((State.request_served hreq hoff hnew hbring).trans (if_neg (by simp [hsub])))

theorem completes_subscribe (hbring : s.mgr.mode ≠ .bringUp) (hsub : d.client ∉ s.host.subs) :
    (s.host.subs.length < 4 → Completes (.subscribe d) s fun t =>
      s.Said d 0 [] t ∧ t = { s with host := { s.host with out := t.host.out, seqs := t.host.seqs, subs := s.host.subs ++ [d.client] } }) ∧
    (4 ≤ s.host.subs.length → Completes (.subscribe d) s (s.SaidOnly d 0x42)) := by
  have hexec := exec_subscribe hreq hoff hnew hbring hsub
  refine ⟨fun hroom => ?_, fun hfull => ?_⟩
  · rw [if_neg (by omega)] at hexec
    exact ⟨_, hexec, State.reply_said (s.updHost _) d 0 [], rfl⟩
  · rw [if_pos hfull] at hexec
    exact ⟨_, hexec, s.reply_only d _⟩

theorem completes_unsubscribe (hbring : s.mgr.mode ≠ .bringUp) : Completes (.unsubscribe d) s fun t =>
    s.Said d 0 [] t ∧ (∀ c, c ∈ t.host.subs ↔ c ∈ s.host.subs ∧ c ≠ d.client) ∧
    t = { s with host := { s.host with out := t.host.out, seqs := t.host.seqs, subs := t.host.subs } } := by
  refine ⟨_, congrArg Host.Outcome.next (State.request_served hreq hoff hnew hbring), State.reply_said (s.updHost _) d 0 [], fun c => ?_, rfl⟩
  exact List.mem_filter.trans (and_congr_right fun _ => bne_iff_ne)

end

/-! ## Time -/

section
variable (hoff : s.mgr.mode ≠ .off) (hcap : s.mgr.capFixed = true)
include hoff hcap

theorem completes_ptpTransit (m : PtpMsg) : Completes (.ptpTransit m) s fun t =>
    t = { s with host := { s.host with out := s.host.out ++
      [.ptp (if m.kind < 2 ∧ m.transport < 2 then m.correction + (m.egress - m.ingress : Int) else m.correction)
        (decide (m.kind < 2) && decide (m.transport = 1))] } } :=
  ⟨_, exec_ptpTransit hoff hcap m, rfl⟩

variable {n tr : Nat} (hena : s.ktd.enable = true) (htr : tr < 2) (hset : s.ktd.transport.testBit tr = true)
include hena htr hset

theorem completes_announceMessage (hn : n < 2) (ds : List Nat) : Completes (.announceMessage n s.ktd.domain tr ds) s fun t =>
    (s.ktd.master = none → t.ktd.master = some ds) ∧
    (∀ old, s.ktd.master = some old → ds.getLast? = old.getLast? → t.ktd.master = some ds) ∧
    (∀ old, s.ktd.master = some old → ds.length = old.length → ds.getLast? ≠ old.getLast? →
      t.ktd.master = some (if ds < old then ds else old)) ∧
    t = { s with ktd := { s.ktd with master := t.ktd.master } } := by
  refine ⟨_, exec_announceMessage hoff hcap hena htr hset hn ds, fun hm => ?_, fun old hm hsame => ?_, fun old hm hlen hother => ?_, rfl⟩
  · rw [State.updKtd_ktd, Ktd.masterAfter, hm]
  · rw [State.updKtd_ktd, Ktd.masterAfter, hm]
    exact if_pos (by simp [hsame])
  · rw [State.updKtd_ktd, Ktd.masterAfter, hm]
    dsimp only
    rw [beq_false_of_ne hother, Bool.or_false, apply_ite some]
    exact if_congr (betterMaster_iff_lt hlen) rfl rfl

end

/-- Settles O59: an access through BAR2 by the state it meets and the line it names; a management request by its SEQ, the state and its kind;
a PTP message by whether the slave function takes it. That the lesser data set is the better grandmaster, and that the grandmaster stays
when Syncs stop, are the model's choice (log entry 32). -/
theorem outsidersAreServed : Obligations.OutsidersAreServed := by
  unfold Obligations.OutsidersAreServed
  refine ⟨fun s k x n mc b errs hk hup => ?bar2, fun s d hreq hoff => ?mgmt, fun s d hreq i hi => ?ignored,
    fun s m n tr th y ds hoff hcap => ?time⟩
  case bar2 =>
    exact ⟨completes_bar2Access_lines hk hup, completes_bar2Access_asleep hk hup, completes_bar2Access_bringUp hk hup⟩
  case mgmt =>
    refine ⟨fun hnew hbring => ?bringUp, fun hnew hlimp => ?limp, fun pre o rest hseqs hpre => ?again,
      fun hnew => completes_regRead_one hreq hoff hnew, fun b o v hnew => completes_regWrite_one hreq hoff hnew,
      fun c hnew => completes_command_taken hreq hoff hnew, fun c hnew => completes_command_tooLarge hreq hoff hnew,
      fun hnew => completes_subscribe hreq hoff hnew, fun hnew => completes_unsubscribe hreq hoff hnew⟩
    case bringUp =>
      refine completes_requests fun inLimp f => ?_
      rw [State.request_bringUp hreq hoff hnew hbring]
      exact s.reply_only d _
    case limp =>
      have hrefused (f : State → State) := State.request_limp (f := f) hreq hoff hnew hlimp
      exact ⟨⟨_, congrArg Host.Outcome.next (hrefused _), s.reply_only d _⟩, _, congrArg Host.Outcome.next (hrefused _), s.reply_only d _⟩
    case again => exact completes_requests fun inLimp f => State.request_repeated hreq hoff hseqs hpre
  case ignored =>
    obtain ⟨hread, hwrite, hcommand, hsub, hunsub⟩ := completes_requests (P := fun t => t = s) (State.request_ignored hreq)
    rcases hi with rfl | rfl | rfl | rfl | rfl
    exacts [hread, hwrite, hcommand, hsub, hunsub]
  case time =>
    refine ⟨completes_ptpTransit hoff hcap m, fun hena htr hset => ⟨fun hmaster => ?sync, fun hn => ?announce⟩, ⟨_, rfl, rfl⟩⟩
    case sync => exact ⟨_, exec_syncMessage hoff hcap hena htr hset hmaster th y, rfl, rfl, rfl, rfl⟩
    case announce => exact completes_announceMessage hoff hcap hena htr hset hn ds

end Sys2Proof.Machine
end

section
/-! SUPPORT. The states that take the Mound commands (R184), and what completions leave of the owners and of the cocoon stores. -/

namespace Sys2Proof.Machine

variable {s : State} {c : Cmd}

theorem MState.moundStates_accept {m : MState} (h : m ∈ moundStates) : m.deaf = false ∧ moundStates.contains m = true :=
  ⟨(by decide : ∀ m ∈ moundStates, m.deaf = false) m h, List.contains_iff_mem.mpr h⟩

/-- A Mound command whose operands and host data are in order has its effect in a state that takes it, where its checks pass (R184, R339). -/
theorem State.decideCmd_mound {op : Nat} {ranges data : Bool} {ch : List (Bool × Nat)} (eff : State → State) (hc : IsCmd c op)
    (hranges : ranges = true) (hdata : data = true) (hmode : s.mgr.mode ∈ moundStates) (hch : ∀ x ∈ ch, x.1 = true) :
    s.decideCmd c op ranges data moundStates ch eff = eff s :=
  State.decideCmd_eff_of_ranges eff hc hranges hdata (MState.moundStates_accept hmode).1 (MState.moundStates_accept hmode).2 hch

@[simp] theorem State.final_owners (s : State) (c : Cmd) (status : Nat) (r : List (Nat × Nat)) : (s.final c status r).owners = s.owners := by
  rw [State.final_only]

@[simp] theorem State.final_worker (s : State) (c : Cmd) (status : Nat) (r : List (Nat × Nat)) (w : Nat) :
    (s.final c status r).worker w = s.worker w := by
  rw [State.worker, State.final_workers, ← State.worker]

@[simp] theorem State.final_store (s : State) (c : Cmd) (status : Nat) (r : List (Nat × Nat)) (k : Nat) :
    ((s.final c status r).hub k).store = (s.hub k).store := by
  obtain ⟨q, hq⟩ := s.final_hub c status r k
  rw [hq]

end Sys2Proof.Machine
end

section
/-! The obligation about the cocoon stores and the publisher keys. -/

namespace Sys2Proof.Machine

variable {s : State} {c : Cmd} {b key : List Byte} {id k : Nat} {x : CStore}

/-! ## The stores (R185, R186) -/

theorem completes_cocoonStore (hc : IsCmd c 0x40) (hmode : s.mgr.mode ∈ moundStates) (hmask : s.fit.maskOk c.sel = true)
    (hdata : c.data = some b) (hlen : b.length = c.len) (huse : s.cocoonInUse (fieldLE b 0x10 8) = false)
    (hroom : ∀ k ∈ maskList c.sel, s.storeRoom k c.len = true) : Completes (.cocoonStore c) s fun t =>
      let y : CStore := { cmd := c, id := fieldLE b 0x10 8, sleds := maskList c.sel, bytes := b }
      t = { s.interim c with mound := { s.mound with stores := s.mound.stores ++ [y] } } := by
  refine ⟨s.cocoonStore c, rfl, ?_⟩
  rw [State.cocoonStore, hdata, Option.getD_some, State.decideCmd_mound _ hc hmask (by simp [hlen]) hmode (by simp [huse]; exact hroom),
    State.updMound, State.interim_mound]

/-- A cocoon stands in a store: with these bytes, and no other under its number. -/
def Hub.stores (h : Hub) (id : Nat) (bytes : List Byte) : Prop :=
  (∀ y ∈ h.store, y.id = id → y.bytes = bytes) ∧ ∃ y ∈ h.store, y.id = id

theorem State.storePut_stores_self (s : State) (k id : Nat) (bytes : List Byte) : ((s.storePut k id bytes).hub k).stores id bytes := by
  rw [State.storePut, State.updHub_hub_self]
  refine ⟨fun y hy hid => ?_, ⟨id, bytes⟩, List.mem_append_right _ List.mem_cons_self, rfl⟩
  rcases List.mem_append.mp hy with hold | hnew
  · exact absurd hid (by simpa using (List.mem_filter.mp hold).2)
  · rw [List.mem_singleton.mp hnew]

theorem State.storePut_stores {bytes : List Byte} (j : Nat) (h : (s.hub k).stores id bytes) : ((s.storePut j id bytes).hub k).stores id bytes := by
  rcases eq_or_ne k j with rfl | hne
  · exact s.storePut_stores_self k id bytes
  · rwa [State.storePut, State.updHub_hub_ne _ _ hne]

/-- A cocoon put into the stores of a list of sleds stands in each of them. -/
theorem State.forEach_storePut_stores {ks : List Nat} (hk : k ∈ ks) (s : State) (id : Nat) (bytes : List Byte) :
    ((s.forEach ks fun st j => st.storePut j id bytes).hub k).stores id bytes :=
  foldl_attains (P := fun t => (t.hub k).stores id bytes) (f := fun st j => st.storePut j id bytes)
    (fun a => a.storePut_stores_self k id bytes) (fun _ j => State.storePut_stores j) hk s

theorem State.forEach_storePut_only (s : State) (ks : List Nat) (id : Nat) (bytes : List Byte) :
    (s.forEach ks fun st j => st.storePut j id bytes) = { s with hubs := (s.forEach ks fun st j => st.storePut j id bytes).hubs } :=
  s.forEach_updHub_onlyHubs ks _

theorem completes_cocoonStoreWritten (hfind : s.mound.stores.find? (fun y => y.id == id) = some x) (hfree : s.paused x.sleds = false) :
    Completes (.cocoonStoreWritten id) s fun t =>
      (∀ k ∈ x.sleds, ∀ y ∈ (t.hub k).store, y.id = x.id → y.bytes = x.bytes) ∧
      (∀ k ∈ x.sleds, ∃ y ∈ (t.hub k).store, y.id = x.id) ∧ t.mound = { s.mound with stores := s.mound.stores.erase x } ∧
      t.workers = s.workers ∧ t.mem = s.mem ∧ t.mgr = s.mgr := by
  have hexec : exec (.cocoonStoreWritten id) s = .next (((s.forEach x.sleds fun st k => st.storePut k x.id x.bytes).updMound
      fun m => { m with stores := m.stores.erase x }).final x.cmd stOk) := by
    show execCocoonStoreWritten id s = _
    simp [execCocoonStoreWritten, hfind, hfree]
  have hput {k : Nat} (hk : k ∈ x.sleds) := State.forEach_storePut_stores hk s x.id x.bytes
  refine ⟨_, hexec, fun k hk => ?_, fun k hk => ?_, ?_, ?_, ?_, ?_⟩
  · rw [State.final_store]; exact (hput hk).1
  · rw [State.final_store]; exact (hput hk).2
  all_goals
    rw [State.forEach_storePut_only]
    simp

/-- A cocoon that has been deleted from a list of sleds stands in the store of none of them. -/
theorem State.forEach_deleted {ks : List Nat} (hk : k ∈ ks) (s : State) (id : Nat) :
    ∀ y ∈ ((s.forEach ks fun a j => a.updHub j fun h => { h with store := h.store.filter fun x => x.id != id }).hub k).store, y.id ≠ id := by
  refine foldl_attains (P := fun t => ∀ y ∈ (t.hub k).store, y.id ≠ id) (fun a y hy => ?_) (fun a j ha y hy => ?_) hk s
  · rw [State.updHub_hub_self] at hy
    simpa using (List.mem_filter.mp hy).2
  · rw [State.updHub_hub] at hy
    split at hy
    next h => subst h; simpa using (List.mem_filter.mp hy).2
    next => exact ha y hy

theorem completes_cocoonDelete (hc : IsCmd c 0x49) (hmode : s.mgr.mode ∈ moundStates) (hmask : s.fit.maskOk c.sel = true)
    (huse : s.cocoonInUse c.id = false) (hthere : ∃ k ∈ maskList c.sel, ∃ y ∈ (s.hub k).store, y.id = c.id) :
    Completes (.cocoonDelete c) s fun t =>
      (∀ k ∈ maskList c.sel, ∀ y ∈ (t.hub k).store, y.id ≠ c.id) ∧ t.mound = s.mound ∧ t.workers = s.workers ∧ t.mem = s.mem := by
  have heff : s.cocoonDelete c = (s.forEach (maskList c.sel) fun a k =>
      a.updHub k fun h => { h with store := h.store.filter fun x => x.id != c.id }).final c stOk := by
    rw [State.cocoonDelete, State.decideCmd_mound _ hc hmask rfl hmode (by simp [huse]; exact hthere)]
  refine ⟨_, congrArg Host.Outcome.next heff, fun k hk => ?_, ?_, ?_, ?_⟩
  · rw [State.final_store]; exact State.forEach_deleted hk s c.id
  all_goals
    rw [State.forEach_updHub_onlyHubs]
    simp

/-! ## Publisher keys (R178, R179) -/

theorem MState.service_accepts {m : MState} (h : m = .service) : m.deaf = false ∧ [MState.service].contains m = true := by
  subst h; decide

theorem completes_pubkeyAdd (hc : IsCmd c 0x47) (hmode : s.mgr.mode = .service) (hsig : s.fit.sig = true) (hsrc : c.fromScarab = false)
    (hdata : c.data = some key) (hlen : key.length = 1952)
    (hroom : (∃ p ∈ s.owners.pubkeys, p.1 = keyId key) ∨ s.owners.pubkeys.length < 16) : Completes (.pubkeyAdd c) s fun t =>
      (∃ p ∈ t.owners.pubkeys, p.1 = keyId key) ∧ (∀ p ∈ s.owners.pubkeys, p ∈ t.owners.pubkeys) ∧
      t = ({ s with owners := { s.owners with pubkeys := t.owners.pubkeys } } : State).final c 0 := by
  obtain ⟨hdeaf, hok⟩ := MState.service_accepts hmode
  have heff : s.pubkeyAdd c = (if s.owners.pubkeys.any fun p => p.1 == keyId key then s
      else s.updOwners fun o => { o with pubkeys := o.pubkeys ++ [(keyId key, key)] }).final c stOk := by
    rw [State.pubkeyAdd, hdata, Option.getD_some, State.decideCmd_eff_of_ranges _ hc (by simp [hsrc]) (by simp [hlen]) hdeaf hok]
    simpa [hsig] using hroom
  refine ⟨_, congrArg Host.Outcome.next heff, ?_⟩
  split
  next hhere => exact ⟨by simpa using hhere, fun p hp => by simpa using hp, by rw [State.final_owners]; rfl⟩
  next => exact ⟨⟨(keyId key, key), by simp, rfl⟩, fun p hp => by simp [hp], by rw [State.final_owners]; rfl⟩

theorem completes_pubkeyRemove (hc : IsCmd c 0x48) (hmode : s.mgr.mode = .service) (hsig : s.fit.sig = true) (hsrc : c.fromScarab = false) :
    Completes (.pubkeyRemove c) s fun t =>
      (∀ p ∈ t.owners.pubkeys, p.1 ≠ c.id + c.addr2 * 2 ^ 64) ∧
      t = ({ s with owners := { s.owners with pubkeys := t.owners.pubkeys } } : State).final c 0 := by
  obtain ⟨hdeaf, hok⟩ := MState.service_accepts hmode
  have heff : s.pubkeyRemove c = (s.updOwners fun o =>
      { o with pubkeys := o.pubkeys.filter fun p => p.1 != c.id + c.addr2 * 2 ^ 64 }).final c stOk := by
    rw [State.pubkeyRemove, State.decideCmd_eff_of_ranges _ hc (by simp [hsrc]) rfl hdeaf hok (by simp [hsig])]
  refine ⟨_, congrArg Host.Outcome.next heff, fun p hp => ?_, by rw [State.final_owners]; rfl⟩
  rw [State.final_owners] at hp
  simpa using (List.mem_filter.mp hp).2

/-- Settles O42: the commands by their effect; what a pass over the named sleds leaves in each one's store. That the removal of a key that is
not registered completes with 00h is the model's choice (log entry 112). -/
theorem cocoonsAreStored : Obligations.CocoonsAreStored := by
  unfold Obligations.CocoonsAreStored
  exact fun s c b key id x => ⟨completes_cocoonStore, completes_cocoonStoreWritten, completes_cocoonDelete, completes_pubkeyAdd,
    completes_pubkeyRemove⟩

end Sys2Proof.Machine
end

section
/-! SUPPORT. Mound objects in the table of a worker: what changes of other workers and of pins leave of them, and writes made under a stated
key. -/

namespace Sys2Proof

theorem Tab.find_filterMap {α : Type} {f : Nat × α → Option (Nat × α)} (hkey : ∀ c d, f c = some d → d.1 = c.1) {k : Nat} {v u : α}
    (hf : f (k, v) = some (k, u)) {cells : List (Nat × α)} (h : Tab.find k cells = some v) : Tab.find k (cells.filterMap f) = some u := by
  induction cells with
  | nil => cases h
  | cons c cells ih =>
    obtain ⟨i, x⟩ := c
    rcases eq_or_ne i k with rfl | hne
    · rw [Tab.find, if_pos rfl] at h
      cases h
      rw [List.filterMap_cons_some hf, Tab.find, if_pos rfl]
    · rw [Tab.find, if_neg hne] at h
      cases hd : f (i, x) with
      | none => rw [List.filterMap_cons_none hd]; exact ih h
      | some d =>
        obtain ⟨j, y⟩ := d
        obtain rfl : j = i := hkey _ _ hd
        rw [List.filterMap_cons_some hd, Tab.find, if_neg hne]
        exact ih h

end Sys2Proof

namespace Sys2Proof.Machine

variable {s t u : State} {w v n : Nat} {o : MObj}

/-! ## Changes of one worker -/

/-- Nothing but worker `w` has changed. -/
def OnlyWorker (w : Nat) (s t : State) : Prop := t = { s with workers := t.workers } ∧ ∀ v, v ≠ w → t.worker v = s.worker v

theorem State.updWorker_onlyWorker (s : State) (w : Nat) (f : Worker → Worker) : OnlyWorker w s (s.updWorker w f) :=
  ⟨rfl, fun _ hv => State.updWorker_worker_ne s f hv⟩

theorem OnlyWorker.trans (h : OnlyWorker w s t) (h' : OnlyWorker w t u) : OnlyWorker w s u := by
  obtain ⟨hst, hsv⟩ := h
  obtain ⟨htu, htv⟩ := h'
  exact ⟨htu.trans (by rw [hst]), fun v hv => (htv v hv).trans (hsv v hv)⟩

/-- Room sought on a worker changes that worker alone (R195). -/
theorem State.seek_onlyWorker (s : State) (w need : Nat) : OnlyWorker w s (s.seek w need).1 := by
  unfold State.seek
  dsimp only
  split
  · exact ⟨rfl, fun _ _ => rfl⟩
  · exact s.updWorker_onlyWorker w fun _ => _

/-! ## Pins of jobs -/

/-- The jobs that name an object follow from the groups, the active image and the hubs. -/
theorem State.jobRefs_congr (hgroups : t.groups = s.groups) (himg : t.img = s.img) (hhubs : t.hubs = s.hubs) (w n : Nat) :
    t.jobRefs w n = s.jobRefs w n := by
  have hgroup : t.group = s.group := funext fun g => by rw [State.group, State.group, hgroups]
  have hruns : t.groupRuns = s.groupRuns := funext fun g => by rw [State.groupRuns, State.groupRuns, hgroup]
  have hparts : t.participants = s.participants :=
    funext fun g => State.participants_congr himg (fun k => by rw [State.hub, State.hub, hhubs]) g
  rw [State.jobRefs, State.jobRefs, State.runningGroups, State.runningGroups, hruns, hgroup, hparts]

/-- An object that is neither spoiled nor being demoted keeps its place, with the pins of the jobs that name it (R193). -/
theorem State.syncPins_obj (h : (s.worker w).objs.get? n = some o) (hspoiled : o.state ≠ 6) (hdemoted : o.state ≠ 4) :
    ((s.syncPins w).worker w).objs.get? n = some { o with jobPins := if o.secondary then 0 else s.jobRefs w n } := by
  rw [State.syncPins, State.updWorker_worker_self]
  refine Tab.find_filterMap (fun c d hd => ?_) ?_ h
  · dsimp only at hd
    generalize (if c.2.secondary then 0 else s.jobRefs w c.1) = pins at hd
    split at hd
    · cases hd
    · split at hd <;> cases hd <;> rfl
  · simp [hspoiled, hdemoted]

/-! ## Writes under a stated key -/

theorem State.tierWriteKey_only (s : State) (g a : Nat) (b : List Byte) :
    s.tierWriteKey g a b = { s with mem := (s.tierWriteKey g a b).mem, keyTag := (s.tierWriteKey g a b).keyTag } := by
  unfold State.tierWriteKey
  split <;> rfl

theorem State.zeroGaps_only (s : State) (w : Nat) (o : MObj) (chunks : List (List Nat)) :
    s.zeroGaps w o chunks = { s with mem := (s.zeroGaps w o chunks).mem, keyTag := (s.zeroGaps w o chunks).keyTag } := by
  have hfold (l : List Nat) (place : Nat → Nat) (g : Nat) (b : List Byte) (t : State) :
      ∃ m k, l.foldl (fun st i => st.tierWriteKey g (place i) b) t = { t with mem := m, keyTag := k } := by
    induction l generalizing t with
    | nil => exact ⟨t.mem, t.keyTag, rfl⟩
    | cons i l ih =>
      obtain ⟨m, k, h⟩ := ih (t.tierWriteKey g (place i) b)
      exact ⟨m, k, h.trans (by rw [State.tierWriteKey_only])⟩
  obtain ⟨m, k, h⟩ := hfold (laneGaps chunks o.objLen o.lane) (fun i => s.objAddr w o.secondary o.first (64 * i))
    ((s.worker w).slot o.owner).gen (List.replicate 64 0) s
  have hz : s.zeroGaps w o chunks = { s with mem := m, keyTag := k } := h
  rw [hz]

end Sys2Proof.Machine
end

section
/-! SUPPORT. COCOON_LOAD (R187, R195, R199): the lanes of a load that finds room are loading. -/

namespace Sys2Proof.Machine

variable {s : State} {c : Cmd} {w lane owner obj v : Nat} {b : List Byte} {rest : List (Nat × Nat)}

/-- Check 9 on a lane changes its worker alone: the object is loading there and the other lanes follow, or there is no room. -/
theorem State.placeLanes_cons (s : State) (b : List Byte) (owner obj w lane : Nat) (rest : List (Nat × Nat)) : ∃ t, OnlyWorker w s t ∧
    (s.placeLanes b owner obj ((w, lane) :: rest) = (t, some lane) ∨
      ((t.worker w).objs.get? obj).map (·.state) = some 1 ∧
        s.placeLanes b owner obj ((w, lane) :: rest) = t.placeLanes b owner obj rest) := by
  have hset (u : State) (o : MObj) (ho : o.state = 1) :
      (((u.updWorker w fun x => { x with objs := x.objs.set obj o }).worker w).objs.get? obj).map (·.state) = some 1 := by simp [ho]
  rw [State.placeLanes]
  split
  next o _ => exact ⟨_, s.updWorker_onlyWorker w _, .inr ⟨hset _ _ rfl, rfl⟩⟩
  next =>
    have hseek := s.seek_onlyWorker w (ceilDiv (fieldLE b 0x20 8) 4096)
    split
    next t h => exact ⟨t, by rwa [h] at hseek, .inl rfl⟩
    next t a h =>
      rw [h] at hseek
      exact ⟨_, hseek.trans (t.updWorker_onlyWorker w _), .inr ⟨hset _ _ rfl, rfl⟩⟩

theorem State.placeLanes_only (s : State) (b : List Byte) (owner obj : Nat) (lanes : List (Nat × Nat)) :
    (s.placeLanes b owner obj lanes).1 = { s with workers := (s.placeLanes b owner obj lanes).1.workers } := by
  induction lanes generalizing s with
  | nil => rfl
  | cons x rest ih =>
    obtain ⟨t, ⟨ht, -⟩, hfull | ⟨-, hnext⟩⟩ := s.placeLanes_cons b owner obj x.1 x.2 rest
    · rw [hfull]; exact ht
    · rw [hnext, ih, ht]

/-- A worker that no lane names keeps its objects. -/
theorem State.placeLanes_worker_of_notMem {lanes : List (Nat × Nat)} (hv : v ∉ lanes.map Prod.fst) (s : State) :
    (s.placeLanes b owner obj lanes).1.worker v = s.worker v := by
  induction lanes generalizing s with
  | nil => rfl
  | cons x rest ih =>
    obtain ⟨hne, hrest⟩ := List.ne_and_not_mem_of_not_mem_cons hv
    obtain ⟨t, ⟨-, ht⟩, hfull | ⟨-, hnext⟩⟩ := s.placeLanes_cons b owner obj x.1 x.2 rest
    · rw [hfull]; exact ht v hne
    · rw [hnext, ih hrest]; exact ht v hne

/-- Where every lane finds room, the object is loading on every worker named. -/
theorem State.placeLanes_loading {lanes : List (Nat × Nat)} (hnodup : (lanes.map Prod.fst).Nodup) (hroom : (s.placeLanes b owner obj lanes).2 = none)
    (hv : v ∈ lanes.map Prod.fst) : (((s.placeLanes b owner obj lanes).1.worker v).objs.get? obj).map (·.state) = some 1 := by
  induction lanes generalizing s with
  | nil => cases hv
  | cons x rest ih =>
    obtain ⟨hx, hrest⟩ := List.nodup_cons.mp hnodup
    obtain ⟨t, -, hfull | ⟨hload, hnext⟩⟩ := s.placeLanes_cons b owner obj x.1 x.2 rest
    · rw [hfull] at hroom; cases hroom
    · rw [hnext] at hroom ⊢
      rcases List.mem_cons.mp hv with rfl | hmem
      · rw [State.placeLanes_worker_of_notMem hx]; exact hload
      · exact ih hrest hroom hmem

/-- The load that an accepted COCOON_LOAD begins. -/
def State.newLoad (s : State) (c : Cmd) : MLoad :=
  let b := s.cocoonBytes c
  { cmd := c, obj := c.unit, owner := c.aux, cocoon := fieldLE b 0x10 8, kind := fieldLE b 0x18 1
    digest := fieldLE b 0x80 48, base := fieldLE b 0xB0 48, objLen := fieldLE b 0x20 8, workers := c.workers
    header := b.take (tableEnd b), chunks := (List.range (cocoonChunks b)).map fun k => entryFields (chunkEntry b k)
    hashes := (List.range (cocoonChunks b)).map fun k => fieldLE (chunkEntry b k) 0x20 48, fromFlash := c.sel == 1
    rewrites := c.workers.filter fun w => ((s.worker w).objs.get? c.unit).isSome, passed := [], done := [] }

/-- The list of a load that passes its checks names each worker once (check 3). -/
theorem State.loadChecks_nodup (h : firstFail (s.loadChecks c) = none) : c.workers.Nodup := by
  have hlanes := (firstFail_eq_none _).mp h
    (c.workers.length == fieldLE (s.cocoonBytes c) 0x19 1 && decide c.workers.Nodup && c.workers.all s.loadWorker, 0x26)
    (by simp [State.loadChecks])
  simp only [Bool.and_eq_true, decide_eq_true_eq] at hlanes
  exact hlanes.1.2

section

variable (hc : IsCmd c 0x41) (hmode : s.mgr.mode ∈ moundStates) (hsel : c.sel ≤ 1) (hunit : c.unit < 4096) (haux : c.aux < 256)
  (hlist : c.listOk = true) (hdata : c.sel = 1 ∨ (c.data.isSome = true ∧ (s.cocoonBytes c).length = c.len))
  (hchecks : firstFail (s.loadChecks c) = none) (hroom : (s.placeLanes (s.cocoonBytes c) c.aux c.unit c.workers.zipIdx).2 = none)
include hc hmode hsel hunit haux hlist hdata hchecks hroom

theorem exec_cocoonLoad :
    exec (.cocoonLoad c) s = .next (((s.placeLanes (s.cocoonBytes c) c.aux c.unit c.workers.zipIdx).1.interim c).updMound
      fun m => { m with loads := m.loads ++ [s.newLoad c] }) := by
  obtain ⟨hop, hfixed⟩ := hc
  obtain ⟨hdeaf, hok⟩ := MState.moundStates_accept hmode
  have harrived : (c.listOk && (c.sel == 1 || (c.data.isSome && (s.cocoonBytes c).length == c.len))) = true := by
    rw [hlist, Bool.true_and, Bool.or_eq_true, Bool.and_eq_true, beq_iff_eq, beq_iff_eq]
    exact hdata
  refine congrArg Host.Outcome.next ?_
  rw [State.cocoonLoad]
  dsimp only
  rw [if_neg (by simp [hdeaf]), if_neg (by simp [hop, hfixed, hsel, hunit, haux]), if_neg (by rw [harrived]; decide),
    stateRefusal_ok _ _ hok]
  dsimp only
  rw [hchecks]
  dsimp only
  generalize s.placeLanes (s.cocoonBytes c) c.aux c.unit c.workers.zipIdx = p at hroom ⊢
  obtain ⟨t, r⟩ := p
  obtain rfl : r = none := hroom
  rfl

theorem completes_cocoonLoad :
    Completes (.cocoonLoad c) s fun t =>
      (∀ v ∈ c.workers, ((t.worker v).objs.get? c.unit).map (·.state) = some 1) ∧
      (∃ x, t.mound.loads = s.mound.loads ++ [x] ∧ x.cmd = c ∧ x.obj = c.unit ∧ x.workers = c.workers ∧ x.passed = [] ∧ x.done = []) ∧
      t.mem = s.mem ∧ t.keyTag = s.keyTag := by
  have hnames : c.workers.zipIdx.map Prod.fst = c.workers := List.zipIdx_map_fst 0 _
  refine ⟨_, exec_cocoonLoad hc hmode hsel hunit haux hlist hdata hchecks hroom, fun v hv => ?_,
    ⟨s.newLoad c, ?_, rfl, rfl, rfl, rfl, rfl⟩, ?_, ?_⟩
  · rw [State.updMound_worker, State.worker, State.interim_workers]
    exact State.placeLanes_loading (by rw [hnames]; exact State.loadChecks_nodup hchecks) hroom (by rw [hnames]; exact hv)
  · rw [State.updMound_mound, State.interim_mound, State.placeLanes_only]
  · rw [State.updMound_mem, State.interim_mem, State.placeLanes_mem]
  · obtain ⟨hubs, host, scb, h⟩ := (s.placeLanes (s.cocoonBytes c) c.aux c.unit c.workers.zipIdx).1.interim_only c []
    rw [State.updMound_keyTag, h, State.placeLanes_only]

end

end Sys2Proof.Machine
end

section
/-! SUPPORT. Chunks as they arrive (R177, R187, R189). -/

namespace Sys2Proof.Machine

variable {s : State} {w k : Nat} {l : MLoad} {cek plain : List Byte}

/-- The object that a load writes on a worker. -/
def State.laneObj (s : State) (l : MLoad) (w : Nat) : MObj := (s.worker w).objs.get MObj.init l.obj

/-- A chunk noted in its load as one that has passed on a worker. -/
def State.notePassed (s : State) (l : MLoad) (w k : Nat) : State :=
  s.updMound fun m => { m with loads := m.loads.map fun y => if y = l then { y with passed := y.passed ++ [(w, k)] } else y }

/-- What check 10 makes of a chunk whose pages are free. -/
def State.chunkArrived (s : State) (l : MLoad) (w k : Nat) : State :=
  match unwrapCek l.header ((s.worker w).slot l.owner).secret with
  | none => s.failLoad l 0x24 (some (s.laneObj l w).lane) 0xFFFFFFFF
  | some cek =>
    match openChunk l.header cek k (s.chunkBytes l w k) with
    | none => s.failLoad l 0x25 (some (s.laneObj l w).lane) k
    | some plain =>
      if s.fit.sig && leNat (sha3_384 plain) != l.hashes.getD k 0 then s.failLoad l 0x25 (some (s.laneObj l w).lane) k
      else
        (s.tierWriteKey ((s.worker w).slot (s.laneObj l w).owner).gen
          (s.objAddr w false (s.laneObj l w).first ((l.chunks.getD k []).getD 2 0)) plain).notePassed l w k

section

variable (hfind : s.mound.loads.find? (fun x => x.workers.contains w && decide (k < x.chunks.length) &&
    x.workers[(x.chunks.getD k []).getD 0 0]? == some w) = some l)
include hfind

theorem exec_chunkCheck (hmoves : s.moves w = true) (hstate : (s.laneObj l w).state = 1) (hnew : (w, k) ∉ l.passed)
    (hlost : (s.worker w).runLost l.obj (s.laneObj l w) = false) (hfree : (s.worker w).runFree l.obj (s.laneObj l w) = true) :
    exec (.chunkCheck w k) s = .next (s.chunkArrived l w k) := by
  rw [State.laneObj] at hstate hlost hfree
  show execChunkCheck w k s = _
  unfold execChunkCheck State.chunkArrived State.laneObj
  rw [hfind]
  dsimp only
  rw [if_neg (by simp [hmoves, hstate, hnew]), if_neg (by simp [hlost]), if_neg (by simp [hfree])]
  cases unwrapCek l.header ((s.worker w).slot l.owner).secret with
  | none => rfl
  | some cek =>
    dsimp only
    cases openChunk l.header cek k (s.chunkBytes l w k) with
    | none => rfl
    | some plain => exact (apply_ite Host.Outcome.next _ _ _).symm

theorem State.notePassed_loads (t : State) (hmound : t.mound = s.mound) :
    ∃ y ∈ (t.notePassed l w k).mound.loads, y.obj = l.obj ∧ y.passed = l.passed ++ [(w, k)] := by
  refine ⟨{ l with passed := l.passed ++ [(w, k)] }, ?_, rfl, rfl⟩
  rw [State.notePassed, State.updMound_mound, hmound]
  exact List.mem_map.mpr ⟨l, List.mem_of_find?_eq_some hfind, if_pos rfl⟩

end

variable (hcek : unwrapCek l.header ((s.worker w).slot l.owner).secret = some cek)

theorem State.chunkArrived_of_noKey (h : unwrapCek l.header ((s.worker w).slot l.owner).secret = none) :
    s.chunkArrived l w k = s.failLoad l 0x24 (some (s.laneObj l w).lane) 0xFFFFFFFF := by rw [State.chunkArrived, h]

include hcek

/-- A chunk whose tag fails, or whose digest is another than its entry's where signatures are fitted, ends the load. -/
theorem State.chunkArrived_of_forged (h : openChunk l.header cek k (s.chunkBytes l w k) = none ∨
    (openChunk l.header cek k (s.chunkBytes l w k) = some plain ∧ s.fit.sig = true ∧ leNat (sha3_384 plain) ≠ l.hashes.getD k 0)) :
    s.chunkArrived l w k = s.failLoad l 0x25 (some (s.laneObj l w).lane) k := by
  rw [State.chunkArrived, hcek]
  dsimp only
  rcases h with htag | ⟨hopen, hsig, hdigest⟩
  · rw [htag]
  · rw [hopen]
    exact if_pos (by rw [hsig, Bool.true_and]; exact bne_iff_ne.mpr hdigest)

theorem State.chunkArrived_of_authentic (hopen : openChunk l.header cek k (s.chunkBytes l w k) = some plain)
    (hdigest : s.fit.sig = false ∨ leNat (sha3_384 plain) = l.hashes.getD k 0) :
    s.chunkArrived l w k = (s.tierWriteKey ((s.worker w).slot (s.laneObj l w).owner).gen
      (s.objAddr w false (s.laneObj l w).first ((l.chunks.getD k []).getD 2 0)) plain).notePassed l w k := by
  rw [State.chunkArrived, hcek]
  dsimp only
  rw [hopen]
  refine if_neg ?_
  rcases hdigest with hsig | hsame
  · simp [hsig]
  · simp [hsame]

end Sys2Proof.Machine
end

section
/-! SUPPORT. The last chunk of a lane and the last lane of a load (R186, R189, R193). -/

namespace Sys2Proof.Machine

variable {s : State} {w v obj : Nat} {l : MLoad}

theorem State.loadOn_some (h : s.loadOn w obj = some l) : l ∈ s.mound.loads ∧ w ∈ l.workers ∧ l.obj = obj := by
  have hnames := List.find?_some h
  rw [Bool.and_eq_true, List.contains_iff_mem, beq_iff_eq] at hnames
  exact ⟨List.mem_of_find?_eq_some h, hnames⟩

/-- The load with one more lane done. -/
def MLoad.laneDone (l : MLoad) (w : Nat) : MLoad := { l with done := l.done ++ [w] }

/-- The machine once the last chunk of a lane has passed: its gaps are zero, its object is resident, and the load has noted it. -/
def State.laneWritten (s : State) (l : MLoad) (w : Nat) : State :=
  ((s.zeroGaps w { s.laneObj l w with secondary := false } l.chunks).updWorker w fun y =>
      { y with objs := y.objs.set l.obj { s.laneObj l w with state := 2, lastUse := (s.hub (sledOf w)).frame } }).updMound fun m =>
    { m with loads := m.loads.map fun y => if y = l then l.laneDone w else y }

theorem State.laneWritten_beside (s : State) (l : MLoad) (w : Nat) : let t := s.laneWritten l w
    OnlyWorker w { s with mem := t.mem, keyTag := t.keyTag, mound := t.mound } t ∧
    (t.worker w).objs.get? l.obj = some { s.laneObj l w with state := 2, lastUse := (s.hub (sledOf w)).frame } ∧
    t.mound.loads = s.mound.loads.map fun y => if y = l then l.laneDone w else y := by
  unfold State.laneWritten
  rw [State.zeroGaps_only]
  refine ⟨⟨rfl, fun v hv => (State.updMound_worker _ _ _).trans (State.updWorker_worker_ne _ _ hv)⟩, ?_, rfl⟩
  rw [State.updMound_worker, State.updWorker_worker_self, Tab.get?_set_self]

/-- The object of a lane that is resident (R189). -/
def State.residentObj (s : State) (l : MLoad) (w : Nat) : MObj :=
  { s.laneObj l w with
    state := 2, lastUse := (s.hub (sledOf w)).frame
    jobPins := if (s.laneObj l w).secondary then 0 else s.jobRefs w l.obj }

/-- A lane that is resident: the jobs that name its object have their pins there (R193). -/
def State.laneResident (s : State) (l : MLoad) (w : Nat) : State := (s.laneWritten l w).syncPins w

theorem State.laneResident_obj (s : State) (l : MLoad) (w : Nat) :
    ((s.laneResident l w).worker w).objs.get? l.obj = some (s.residentObj l w) := by
  obtain ⟨⟨honly, -⟩, hobj, -⟩ := s.laneWritten_beside l w
  have hrefs : (s.laneWritten l w).jobRefs w l.obj = s.jobRefs w l.obj :=
    State.jobRefs_congr (congrArg State.groups honly) (congrArg State.img honly) (congrArg State.hubs honly) w l.obj
  rw [State.laneResident, State.syncPins_obj hobj (by simp) (by simp), hrefs]
  rfl

theorem State.laneResident_worker_ne (s : State) (l : MLoad) (h : v ≠ w) : (s.laneResident l w).worker v = s.worker v := by
  obtain ⟨⟨-, hne⟩, -⟩ := s.laneWritten_beside l w
  rw [State.laneResident, State.syncPins, State.updWorker_worker_ne _ _ h]
  exact hne v h

theorem State.laneResident_mem (s : State) (l : MLoad) (w : Nat) :
    (s.laneResident l w).mem = (s.zeroGaps w { s.laneObj l w with secondary := false } l.chunks).mem := rfl

theorem State.laneResident_noted (h : l ∈ s.mound.loads) (w : Nat) : l.laneDone w ∈ (s.laneResident l w).mound.loads := by
  obtain ⟨-, -, hloads⟩ := s.laneWritten_beside l w
  rw [State.laneResident, State.syncPins, State.updWorker_mound, hloads]
  exact List.mem_map.mpr ⟨l, h, if_pos rfl⟩

/-- No lane is lost where the object of every lane that is done is resident. -/
theorem State.laneLost_eq_none : s.laneLost l = none ↔
    ∀ v ∈ l.workers, v ∈ l.done → ∃ z, (s.worker v).objs.get? l.obj = some z ∧ (z.state = 2 ∨ z.state = 4) := by
  rw [State.laneLost, List.findIdx?_eq_none_iff]
  refine forall₂_congr fun v _ => ?_
  cases (s.worker v).objs.get? l.obj <;> simp [or_iff_not_imp_left]

/-- What the last chunk of a lane leads to, its pages being free. -/
def State.laneEnd (s : State) (l : MLoad) : State :=
  if l.workers.all fun v => l.done.contains v then
    match s.laneLost l with
    | some lane => s.failLoad l 0x2B (some lane) 0xFFFFFFFF
    | none => s.loadDone l
  else s

theorem State.laneEnd_of_waiting (h : ∃ v ∈ l.workers, v ∉ l.done) : s.laneEnd l = s := if_neg (by simpa using h)

theorem State.laneEnd_of_done (hall : ∀ v ∈ l.workers, v ∈ l.done) (hkept : s.laneLost l = none) : s.laneEnd l = s.loadDone l := by
  rw [State.laneEnd, if_pos (by simpa using hall), hkept]

theorem State.laneEnd_of_lost {lane : Nat} (hall : ∀ v ∈ l.workers, v ∈ l.done) (hlost : s.laneLost l = some lane) :
    s.laneEnd l = s.failLoad l 0x2B (some lane) 0xFFFFFFFF := by
  rw [State.laneEnd, if_pos (by simpa using hall), hlost]

theorem State.loadDone_worker (s : State) (l : MLoad) (v : Nat) : (s.loadDone l).worker v = s.worker v := by
  rw [State.loadDone, State.final_worker, State.updMound_worker, State.forEach_storePut_only]
  rfl

/-- A load that is done is no longer in progress (R189). -/
theorem State.loadDone_over (s : State) (l : MLoad) : ∀ y ∈ (s.loadDone l).mound.loads, y.cmd ≠ l.cmd ∨ y.obj ≠ l.obj := by
  intro y hy
  rw [State.loadDone, State.final_mound, State.updMound_mound] at hy
  simpa using (List.mem_filter.mp hy).2

section

variable (hload : s.loadOn w obj = some l) (hmoves : s.moves w = true) (hstate : (s.laneObj l w).state = 1)
  (hfree : (s.worker w).runFree l.obj (s.laneObj l w) = true)
  (hpassed : ∀ n, n < l.chunks.length → (l.chunks.getD n []).getD 0 0 = (s.laneObj l w).lane → (w, n) ∈ l.passed)
include hload hmoves hstate hfree hpassed

theorem exec_objectResident : exec (.objectResident w obj) s = .next ((s.laneResident l w).laneEnd (l.laneDone w)) := by
  obtain ⟨-, -, rfl⟩ := State.loadOn_some hload
  rw [State.laneObj] at hstate hfree hpassed
  have hall : ((List.range l.chunks.length).all fun k =>
      (l.chunks.getD k []).getD 0 0 != ((s.worker w).objs.get MObj.init l.obj).lane || l.passed.contains (w, k)) = true := by
    simp only [List.all_eq_true, List.mem_range, Bool.or_eq_true, bne_iff_ne, List.contains_iff_mem]
    exact fun n hn => or_iff_not_imp_left.mpr fun hlane => hpassed n hn (not_not.mp hlane)
  show execObjectResident w l.obj s = _
  unfold execObjectResident
  rw [hload]
  dsimp only
  rw [if_pos (by simp only [hmoves, hstate, hall, hfree, beq_self_eq_true, Bool.and_self])]
  rfl

/-- Where no lane that is done is lost, the object is resident on the worker; with the last lane the load is done. -/
theorem completes_objectResident (hkept : (∃ v ∈ l.workers, v ∉ (l.laneDone w).done) ∨
      (∀ v ∈ l.workers, v ≠ w → v ∈ l.done → ∃ z, (s.worker v).objs.get? l.obj = some z ∧ (z.state = 2 ∨ z.state = 4))) :
    Completes (.objectResident w obj) s fun t =>
      (t.worker w).objs.get? l.obj = some (s.residentObj l w) ∧ (∀ v, v ≠ w → t.worker v = s.worker v) ∧
      t.mem = (s.zeroGaps w { s.laneObj l w with secondary := false } l.chunks).mem ∧
      ((∃ v ∈ l.workers, v ∉ (l.laneDone w).done) → l.laneDone w ∈ t.mound.loads) ∧
      ((∀ v ∈ l.workers, v ∈ (l.laneDone w).done) → ∀ y ∈ t.mound.loads, y.cmd ≠ l.cmd ∨ y.obj ≠ l.obj) := by
  refine ⟨_, exec_objectResident hload hmoves hstate hfree hpassed, ?_⟩
  by_cases hwait : ∃ v ∈ l.workers, v ∉ (l.laneDone w).done
  · obtain ⟨v, hv, hnot⟩ := id hwait
    rw [State.laneEnd_of_waiting hwait]
    exact ⟨s.laneResident_obj l w, fun _ => s.laneResident_worker_ne l, s.laneResident_mem l w,
      fun _ => State.laneResident_noted (State.loadOn_some hload).1 w, fun hall => absurd (hall v hv) hnot⟩
  · have hall : ∀ v ∈ l.workers, v ∈ (l.laneDone w).done := by simpa using hwait
    have hlanes : (s.laneResident l w).laneLost (l.laneDone w) = none := by
      refine State.laneLost_eq_none.mpr fun v hv hdone => ?_
      rcases eq_or_ne v w with rfl | hne
      · exact ⟨_, s.laneResident_obj l v, .inl rfl⟩
      · rw [s.laneResident_worker_ne l hne]
        exact hkept.resolve_left hwait v hv hne ((List.mem_append.mp hdone).resolve_right (by simpa using hne))
    rw [State.laneEnd_of_done hall hlanes]
    exact ⟨by rw [State.loadDone_worker]; exact s.laneResident_obj l w,
      fun v hv => (State.loadDone_worker _ _ v).trans (s.laneResident_worker_ne l hv),
      (State.loadDone_mem _ _).trans (s.laneResident_mem l w), fun h => absurd h hwait, fun _ => State.loadDone_over _ _⟩

/-- Where a lane that was done has lost its object, the last lane ends the load with 2Bh. -/
theorem completes_objectResident_lost (hall : ∀ v ∈ l.workers, v ∈ (l.laneDone w).done)
    (hlost : ∃ v ∈ l.workers, v ≠ w ∧ v ∈ l.done ∧ (s.worker v).objs.get? l.obj = none) :
    Completes (.objectResident w obj) s fun t => ∃ u lane, t = State.failLoad u (l.laneDone w) 0x2B (some lane) 0xFFFFFFFF := by
  obtain ⟨v, hv, hne, hdone, hgone⟩ := hlost
  refine ⟨_, exec_objectResident hload hmoves hstate hfree hpassed, ?_⟩
  cases hlane : (s.laneResident l w).laneLost (l.laneDone w) with
  | some lane => exact ⟨_, lane, State.laneEnd_of_lost hall hlane⟩
  | none =>
    obtain ⟨z, hz, -⟩ := State.laneLost_eq_none.mp hlane v hv (List.mem_append_left _ hdone)
    rw [s.laneResident_worker_ne l hne] at hz
    cases hgone.symm.trans hz

end

end Sys2Proof.Machine
end

section
/-! The obligation about objects loaded from cocoons. -/

namespace Sys2Proof.Machine

/-- Settles O43: the command lane by lane; a chunk by what check 10 makes of it; the last chunk of a lane by the object that it leaves, and
the last lane by whether an earlier one is lost. That a lost lane ends the load with 2Bh is the model's choice (log entry 117). -/
theorem cocoonsAreLoaded : Obligations.CocoonsAreLoaded := by
  unfold Obligations.CocoonsAreLoaded
  intro s c w k obj cek plain l
  dsimp only
  refine ⟨completes_cocoonLoad, fun hfind hobj hmoves hstate hnew hlost hfree => ?chunk,
    fun hload hmoves hstate hfree hpassed => ?lane⟩
  case chunk =>
    subst hobj
    have hexec := exec_chunkCheck hfind hmoves hstate hnew hlost hfree
    refine ⟨fun hkey => ⟨_, hexec, State.chunkArrived_of_noKey hkey⟩, fun hcek => ⟨fun hforged => ?_, fun hopen hdigest => ?_⟩⟩
    · exact ⟨_, hexec, State.chunkArrived_of_forged hcek hforged⟩
    · refine ⟨_, hexec, ?_⟩
      rw [State.chunkArrived_of_authentic hcek hopen hdigest]
      exact ⟨State.notePassed_loads hfind _ (by rw [State.tierWriteKey_only]), rfl⟩
  case lane =>
    obtain ⟨-, -, rfl⟩ := State.loadOn_some hload
    exact ⟨completes_objectResident hload hmoves hstate hfree hpassed, completes_objectResident_lost hload hmoves hstate hfree hpassed⟩

end Sys2Proof.Machine
end

section
/-! SUPPORT. MOUND_PROMOTE (R184, R195, R196): the lanes of a promotion that finds room are being copied. -/

namespace Sys2Proof.Machine

variable {s : State} {c : Cmd} {v obj : Nat}

/-- Room for the copy of a lane changes its worker alone: the copy has begun there and the other lanes follow, or there is no room. -/
theorem State.promoteLanes_cons (s : State) (obj w : Nat) (rest : List Nat) : ∃ t, OnlyWorker w s t ∧
    (s.promoteLanes obj (w :: rest) = (t, false) ∨
      ((t.worker w).objs.get? obj).map (·.state) = some 5 ∧ s.promoteLanes obj (w :: rest) = t.promoteLanes obj rest) := by
  rw [State.promoteLanes]
  generalize (s.worker w).objs.get MObj.init obj = o
  have hseek := (s.updWorker_onlyWorker w _).trans
    ((s.updWorker w fun x => { x with objs := x.objs.set obj { o with state := 5, toFirst := noRun } }).seek_onlyWorker w o.pages)
  split
  next t a h =>
    rw [h] at hseek
    exact ⟨_, hseek.trans (t.updWorker_onlyWorker w _), .inr ⟨by simp, rfl⟩⟩
  next t h =>
    rw [h] at hseek
    exact ⟨_, hseek.trans (t.updWorker_onlyWorker w _), .inl rfl⟩

theorem State.promoteLanes_worker_of_notMem {ws : List Nat} (hv : v ∉ ws) (s : State) : (s.promoteLanes obj ws).1.worker v = s.worker v := by
  induction ws generalizing s with
  | nil => rfl
  | cons w ws ih =>
    obtain ⟨hne, hrest⟩ := List.ne_and_not_mem_of_not_mem_cons hv
    obtain ⟨t, ⟨-, ht⟩, hfull | ⟨-, hnext⟩⟩ := s.promoteLanes_cons obj w ws
    · rw [hfull]; exact ht v hne
    · rw [hnext, ih hrest]; exact ht v hne

/-- Where every lane finds room, the object is being promoted on every worker named. -/
theorem State.promoteLanes_copying {ws : List Nat} (hnodup : ws.Nodup) (hroom : (s.promoteLanes obj ws).2 = true) (hv : v ∈ ws) :
    (((s.promoteLanes obj ws).1.worker v).objs.get? obj).map (·.state) = some 5 := by
  induction ws generalizing s with
  | nil => cases hv
  | cons w ws ih =>
    obtain ⟨hw, hrest⟩ := List.nodup_cons.mp hnodup
    obtain ⟨t, -, hfull | ⟨hcopy, hnext⟩⟩ := s.promoteLanes_cons obj w ws
    · rw [hfull] at hroom; cases hroom
    · rw [hnext] at hroom ⊢
      rcases List.mem_cons.mp hv with rfl | hmem
      · rw [State.promoteLanes_worker_of_notMem hw]; exact hcopy
      · exact ih hrest hroom hmem

theorem Cmd.workers_dedup_isEmpty (h : c.workers ≠ []) : c.workers.dedup.isEmpty = false := by simpa using h

theorem completes_moundPromote (hunit : c.unit < 4096) (hlist : c.listOk = true) (hnamed : c.workers ≠ []) (hmode : s.mgr.mode ∈ moundStates)
    (hc : IsCmd c 0x42) (hidle : ∀ v ∈ c.workers, s.moundBusy v = false ∧ ((s.worker v).objs.get MObj.init c.unit).state = 3)
    (hroom : (s.promoteLanes c.unit c.workers.dedup).2 = true) : Completes (.moundPromote c) s fun t =>
      (∀ v ∈ c.workers, ((t.worker v).objs.get? c.unit).map (·.state) = some 5) ∧
      (∃ p ∈ t.mound.promotes, p.cmd = c ∧ p.obj = c.unit ∧ p.waiting = c.workers.dedup) ∧ t.mem = s.mem := by
  have hpair : s.promoteLanes c.unit c.workers.dedup = ((s.promoteLanes c.unit c.workers.dedup).1, true) := Prod.ext rfl hroom
  have hchecks : ∀ x ∈ [(!c.workers.dedup.any s.moundBusy, stBusy),
      (c.workers.dedup.all fun w => ((s.worker w).objs.get MObj.init c.unit).state == 3, 0x2B)], x.1 = true := by
    simpa using ⟨fun v hv => (hidle v hv).1, fun v hv => (hidle v hv).2⟩
  have heff : s.moundPromote c = ((s.promoteLanes c.unit c.workers.dedup).1.interim c).updMound fun m =>
      { m with promotes := m.promotes ++ [{ cmd := c, obj := c.unit, waiting := c.workers.dedup }] } := by
    rw [State.moundPromote, State.decideCmd_mound _ hc (decide_eq_true hunit) hlist hmode hchecks]
    dsimp only
    rw [hpair]
    exact if_neg (by rw [Cmd.workers_dedup_isEmpty hnamed]; exact Bool.false_ne_true)
  refine ⟨_, congrArg Host.Outcome.next heff, fun v hv => ?_, ⟨_, List.mem_append_right _ (List.mem_singleton_self _), rfl, rfl, rfl⟩, ?_⟩
  · rw [State.updMound_worker, State.worker, State.interim_workers]
    exact State.promoteLanes_copying (List.nodup_dedup _) hroom (List.mem_dedup.mpr hv)
  · rw [State.updMound_mem, State.interim_mem, State.promoteLanes_mem]

end Sys2Proof.Machine
end

section
/-! SUPPORT. Pins, drops and the query (R193, R194, R199, Table 8.6). -/

namespace Sys2Proof.Machine

variable {s : State} {c : Cmd} {v w obj : Nat} {o : MObj}

theorem State.forEach_updWorker_onlyWorkers (s : State) (ws : List Nat) (f : Worker → Worker) :
    (s.forEach ws fun st w => st.updWorker w f) = { s with workers := (s.forEach ws fun st w => st.updWorker w f).workers } := by
  induction ws generalizing s with
  | nil => rfl
  | cons w ws ih => exact (ih (s.updWorker w f)).trans rfl

/-- The pending host pins of an object changed by `d` on a worker. -/
def Worker.pendPins (n : Nat) (d : Int) (x : Worker) : Worker :=
  { x with objs := x.objs.set n { x.objs.get MObj.init n with pend := (x.objs.get MObj.init n).pend + d } }

/-- A pin change that is accepted is pending on every worker named, and waits for their boundaries. -/
theorem State.pinChange_awaits (hnamed : c.workers ≠ []) (s : State) (add : Bool) : let t := s.pinChange c add
    (∀ v ∈ c.workers, ((t.worker v).objs.get MObj.init c.unit).pend =
      ((s.worker v).objs.get MObj.init c.unit).pend + if add then 1 else -1) ∧
    t = { s with workers := t.workers, mound := t.mound } := by
  have heff : s.pinChange c add = (s.forEach c.workers.dedup fun st w => st.updWorker w (Worker.pendPins c.unit (if add then 1 else -1))).updMound
      fun m => { m with pins := m.pins ++ [{ cmd := c, obj := c.unit, add := add, waiting := c.workers.dedup }] } :=
    if_neg (by rw [Cmd.workers_dedup_isEmpty hnamed]; exact Bool.false_ne_true)
  dsimp only
  rw [heff]
  refine ⟨fun v hv => ?_, by rw [State.forEach_updWorker_onlyWorkers]; rfl⟩
  rw [State.updMound_worker, State.forEach_updWorker_worker _ _ (List.nodup_dedup _), if_pos (List.mem_dedup.mpr hv), Worker.pendPins,
    Tab.get_set_self]

theorem completes_moundPin (hunit : c.unit < 4096) (hlist : c.listOk = true) (hnamed : c.workers ≠ []) (hmode : s.mgr.mode ∈ moundStates)
    (hc : IsCmd c 0x43) (hroom : ∀ v ∈ c.workers, ((s.worker v).objs.get MObj.init c.unit).atPrimary = true ∧
      (((s.worker v).objs.get MObj.init c.unit).pins : Int) + ((s.worker v).objs.get MObj.init c.unit).pend < 65535) :
    Completes (.moundPin c) s fun t =>
      (∀ v ∈ c.workers, ((t.worker v).objs.get MObj.init c.unit).pend = ((s.worker v).objs.get MObj.init c.unit).pend + 1) ∧
      t = { s with workers := t.workers, mound := t.mound } := by
  have heff : s.moundPin c = s.pinChange c true := by
    rw [State.moundPin, State.decideCmd_mound _ hc (decide_eq_true hunit) hlist hmode]
    simpa using ⟨fun v hv => (hroom v hv).1, fun v hv => (hroom v hv).2⟩
  exact ⟨_, congrArg Host.Outcome.next heff, State.pinChange_awaits hnamed s true⟩

theorem completes_moundUnpin (hunit : c.unit < 4096) (hlist : c.listOk = true) (hnamed : c.workers ≠ []) (hmode : s.mgr.mode ∈ moundStates)
    (hc : IsCmd c 0x44) (hpinned : ∀ v ∈ c.workers,
      0 < (((s.worker v).objs.get MObj.init c.unit).hostPins : Int) + ((s.worker v).objs.get MObj.init c.unit).pend) :
    Completes (.moundUnpin c) s fun t =>
      (∀ v ∈ c.workers, ((t.worker v).objs.get MObj.init c.unit).pend = ((s.worker v).objs.get MObj.init c.unit).pend - 1) ∧
      t = { s with workers := t.workers, mound := t.mound } := by
  have heff : s.moundUnpin c = s.pinChange c false := by
    rw [State.moundUnpin, State.decideCmd_mound _ hc (decide_eq_true hunit) hlist hmode]
    simpa using hpinned
  exact ⟨_, congrArg Host.Outcome.next heff, State.pinChange_awaits hnamed s false⟩

theorem completes_moundDrop (hunit : c.unit < 4096) (hlist : c.listOk = true) (hmode : s.mgr.mode ∈ moundStates) (hc : IsCmd c 0x45)
    (hfree : ∀ v ∈ c.workers, ((s.worker v).objs.get? c.unit).isSome = true ∧
      ((s.worker v).objs.get MObj.init c.unit).pins = 0 ∧ ((s.worker v).objs.get MObj.init c.unit).pend ≤ 0 ∧
      ((s.worker v).objs.get MObj.init c.unit).state ≠ 1 ∧ s.loadOn v c.unit = none) : Completes (.moundDrop c) s fun t =>
      (∀ v ∈ c.workers, (t.worker v).objs.get? c.unit = none) ∧ t = ({ s with workers := t.workers } : State).final c 0 := by
  have hchecks : ∀ x ∈ [(c.workers.all fun w => ((s.worker w).objs.get? c.unit).isSome, 0x2B),
      (c.workers.all fun w =>
        let o := (s.worker w).objs.get MObj.init c.unit
        o.pins == 0 && decide (o.pend ≤ 0) && o.state != 1 && (s.loadOn w c.unit).isNone, 0x28)], x.1 = true := by
    simp only [List.forall_mem_cons, List.all_eq_true, Bool.and_eq_true, beq_iff_eq, bne_iff_ne, decide_eq_true_eq,
      Option.isNone_iff_eq_none]
    refine ⟨fun v hv => (hfree v hv).1, fun v hv => ?_, List.forall_mem_nil _⟩
    obtain ⟨-, hpins, hpend, hstate, hload⟩ := hfree v hv
    exact ⟨⟨⟨hpins, hpend⟩, hstate⟩, hload⟩
  have heff : s.moundDrop c = (s.forEach c.workers fun a w => a.updWorker w fun x => x.dropObj c.unit).final c stOk := by
    rw [State.moundDrop, State.decideCmd_mound _ hc (decide_eq_true hunit) hlist hmode hchecks]
  refine ⟨_, congrArg Host.Outcome.next heff, fun v hv => ?_, ?_⟩
  · rw [State.final_worker]
    refine foldl_attains (P := fun t => (t.worker v).objs.get? c.unit = none) (f := fun a w => a.updWorker w fun x => x.dropObj c.unit)
      (fun a => ?_) (fun a w ha => ?_) hv s
    · rw [State.updWorker_worker_self, Worker.dropObj, Tab.get?_erase_self]
    · rw [State.updWorker_worker]
      split
      next h => subst h; exact Tab.get?_erase_self _ _
      next => exact ha
  · rw [State.final_workers, ← State.forEach_updWorker_onlyWorkers]; rfl

theorem completes_moundQuery (hunit : c.unit < 4096) (hc : IsCmd c 0x46) (hworker : s.fit.workerOk c.id = true) (hmode : s.mgr.mode ∈ everyState) :
    Completes (.moundQuery c) s fun t => t = s.writeBack c c.addr (((s.worker c.id).objs.get MObj.init c.unit).entry c.unit) [] := by
  have hdeaf : s.mgr.mode.deaf = false := (by decide : ∀ m ∈ everyState, m.deaf = false) _ hmode
  exact ⟨s.moundQuery c, rfl, State.decideCmd_eff_of_ranges _ hc (by simp [hunit, hworker]) rfl hdeaf (List.contains_iff_mem.mpr hmode)
    (List.forall_mem_nil _)⟩

/-! ## Pins applied (R193, R194, R199) -/

theorem State.pinned_worker (s : State) (w obj v : Nat) : (s.pinned w obj).worker v = s.worker v :=
  foldl_keeps (·.worker v) _ (fun st (p : PinChange) => st.final_worker p.cmd stOk [] v) _ _

theorem MObj.pins_eq_zero (o : MObj) : o.pins = 0 ↔ o.jobPins + o.hostPins = 0 := by
  rw [MObj.pins]; omega

/-- The host pins that an object has once those that are pending are applied. -/
def MObj.hostPinsDue (o : MObj) : Nat := ((o.hostPins : Int) + o.pend).toNat

/-- An object with its pending host pins applied: one that is pinned is demoted no longer. -/
def MObj.pinsApplied (o : MObj) : MObj :=
  let p := { o with hostPins := o.hostPinsDue, pend := 0 }
  if p.state = 4 ∧ 0 < p.pins then { p with state := 2, toFirst := 0 } else p

theorem MObj.pinsApplied_counts (o : MObj) :
    o.pinsApplied.hostPins = o.hostPinsDue ∧ o.pinsApplied.pend = 0 ∧ o.pinsApplied.jobPins = o.jobPins := by
  unfold MObj.pinsApplied
  dsimp only
  split <;> exact ⟨rfl, rfl, rfl⟩

theorem MObj.pinsApplied_state (o : MObj) :
    o.pinsApplied.state = if o.state = 4 ∧ 0 < o.jobPins + o.hostPinsDue then 2 else o.state := by
  have hpins : 0 < ({ o with hostPins := o.hostPinsDue, pend := 0 } : MObj).pins ↔ 0 < o.jobPins + o.hostPinsDue := by
    rw [Nat.pos_iff_ne_zero, Nat.pos_iff_ne_zero, Ne, MObj.pins_eq_zero]
  unfold MObj.pinsApplied
  dsimp only
  rw [apply_ite MObj.state]
  exact if_congr (and_congr_right' hpins) rfl rfl

/-- A spoiled object without pins is one that was spoiled before. -/
theorem MObj.pinsApplied_goes (o : MObj) :
    (o.pinsApplied.state = 6 ∧ o.pinsApplied.pins = 0) ↔ (o.state = 6 ∧ o.jobPins + o.hostPinsDue = 0) := by
  obtain ⟨hhost, -, hjob⟩ := o.pinsApplied_counts
  rw [MObj.pins_eq_zero, hhost, hjob, MObj.pinsApplied_state]
  split <;> omega

theorem completes_hostPinApply (h : (s.worker w).objs.get? obj = some o) : Completes (.hostPinApply w obj) s fun t =>
    (o.state = 6 → o.jobPins + o.hostPinsDue = 0 → (t.worker w).objs.get? obj = none) ∧
    (o.state ≠ 6 ∨ 0 < o.jobPins + o.hostPinsDue → ∃ z, (t.worker w).objs.get? obj = some z ∧ z.hostPins = o.hostPinsDue ∧ z.pend = 0 ∧
      z.jobPins = o.jobPins ∧ (o.state = 4 ∧ 0 < o.jobPins + o.hostPinsDue → z.state = 2) ∧
      (¬(o.state = 4 ∧ 0 < o.jobPins + o.hostPinsDue) → z.state = o.state)) ∧ t.mem = s.mem := by
  have hexec : exec (.hostPinApply w obj) s = .next ((s.updWorker w fun x => { x with
      objs := if o.pinsApplied.state = 6 ∧ o.pinsApplied.pins = 0 then x.objs.erase obj else x.objs.set obj o.pinsApplied }).pinned w obj) := by
    show execHostPinApply w obj s = _
    unfold execHostPinApply
    rw [h]
    rfl
  refine ⟨_, hexec, fun hspoiled hnone => ?_, fun hstays => ?_, by rw [State.pinned_mem, State.updWorker_mem]⟩
  · rw [State.pinned_worker, State.updWorker_worker_self, if_pos (o.pinsApplied_goes.mpr ⟨hspoiled, hnone⟩), Tab.get?_erase_self]
  · have hkept : ¬(o.pinsApplied.state = 6 ∧ o.pinsApplied.pins = 0) := by rw [MObj.pinsApplied_goes]; omega
    obtain ⟨hhost, hpend, hjob⟩ := o.pinsApplied_counts
    refine ⟨o.pinsApplied, ?_, hhost, hpend, hjob, fun hheld => ?_, fun hheld => ?_⟩
    · rw [State.pinned_worker, State.updWorker_worker_self, if_neg hkept, Tab.get?_set_self]
    · rw [MObj.pinsApplied_state, if_pos hheld]
    · rw [MObj.pinsApplied_state, if_neg hheld]

end Sys2Proof.Machine
end

section
/-! SUPPORT. Copies that end (R154, R195, R196, R199). -/

namespace Sys2Proof.Machine

variable {s : State} {w obj : Nat} {errs : List (Nat × Nat)} {o : MObj}

/-- A line that is read without an error, or corrected, changes counts of workers alone (R153, R154). -/
theorem State.lineErrors_besideTiers {a e : Nat} (h : (s.lineErrors a e).2 = false) : (s.lineErrors a e).1.besideTiers = s.besideTiers := by
  unfold State.lineErrors at h ⊢
  dsimp only at h ⊢
  split
  · rfl
  · split
    · rfl
    next hsome hmany =>
      rw [if_neg hsome, if_neg hmany] at h
      split at h
      · cases h
      · split at h <;> cases h

/-- A copy that meets no line beyond correction changes counts of workers alone. -/
theorem State.copyErrors_besideTiers (h : (s.copyErrors w o errs).2 = false) : (s.copyErrors w o errs).1.besideTiers = s.besideTiers := by
  have hfold (l : List (Nat × Nat)) (place : Nat → Nat) (p : State × Bool) :
      let q := l.foldl (fun p e => ((p.1.lineErrors (place e.1) e.2).1, p.2 || (p.1.lineErrors (place e.1) e.2).2)) p
      q.2 = false → p.2 = false ∧ q.1.besideTiers = p.1.besideTiers := by
    induction l generalizing p with
    | nil => exact fun hp => ⟨hp, rfl⟩
    | cons e l ih =>
      intro q hq
      obtain ⟨hnone, hrest⟩ := ih _ hq
      obtain ⟨hp, hline⟩ := Bool.or_eq_false_iff.mp hnone
      exact ⟨hp, hrest.trans (State.lineErrors_besideTiers hline)⟩
  exact (hfold _ (fun i => s.objAddr w o.secondary o.first (64 * i)) (s, false) h).2

theorem State.tierWriteKey_besideTiers (s : State) (g a : Nat) (b : List Byte) : (s.tierWriteKey g a b).besideTiers = s.besideTiers := by
  rw [State.tierWriteKey_only]; rfl

theorem State.copyLane_besideTiers (s : State) (w : Nat) (o : MObj) : (s.copyLane w o).besideTiers = s.besideTiers :=
  s.tierWriteKey_besideTiers _ _ _

theorem State.jobRefs_of_besideTiers {t : State} (h : t.besideTiers = s.besideTiers) (w n : Nat) : t.jobRefs w n = s.jobRefs w n :=
  State.jobRefs_congr (State.groups_of_besideTiers h) (congrArg State.img h : t.besideTiers.img = s.besideTiers.img)
    (State.hubs_of_besideTiers h) w n

theorem State.promoted_worker (s : State) (w obj v : Nat) : (s.promoted w obj).worker v = s.worker v := by
  unfold State.promoted
  split
  · rfl
  · dsimp only
    split
    · exact State.final_worker _ _ _ _ _
    · rfl

variable (h : (s.worker w).objs.get? obj = some o) (hmoves : s.moves w = true)
include h hmoves

theorem exec_moundCopyEnd_demotion (hstate : o.state = 4) (hpins : o.pins = 0) (hpend : o.pend ≤ 0) :
    exec (.moundCopyEnd w obj errs) s = .next (if (s.copyErrors w o errs).2 then (s.copyErrors w o errs).1
      else ((s.copyErrors w o errs).1.copyLane w o).updWorker w fun x =>
        { x with objs := x.objs.set obj { o with state := 3, secondary := true, first := o.toFirst, toFirst := 0 } }) := by
  show execMoundCopyEnd w obj errs s = _
  unfold execMoundCopyEnd
  rw [h]
  dsimp only
  rw [if_neg (by simp [hmoves]), if_pos ⟨hstate, hpins, hpend⟩]

/-- An object whose copy out of the primary share ends lies in the secondary one; one whose copy has failed is only spoiled (R195, R199). -/
theorem completes_moundCopyEnd_demotion (hstate : o.state = 4) (hpins : o.pins = 0) (hpend : o.pend ≤ 0) :
    ((s.copyErrors w o errs).2 = false → Completes (.moundCopyEnd w obj errs) s fun t =>
      (t.worker w).objs.get? obj = some { o with state := 3, secondary := true, first := o.toFirst, toFirst := 0 } ∧
      t = { (s.copyErrors w o errs).1.copyLane w o with workers := t.workers }) ∧
    ((s.copyErrors w o errs).2 = true → Completes (.moundCopyEnd w obj errs) s fun t => t = (s.copyErrors w o errs).1) := by
  have hexec := exec_moundCopyEnd_demotion (errs := errs) h hmoves hstate hpins hpend
  refine ⟨fun hgood => ⟨_, hexec.trans (congrArg _ (if_neg (ne_true_of_eq_false hgood))), ?_, rfl⟩,
    fun hbad => ⟨_, hexec.trans (congrArg _ (if_pos hbad)), rfl⟩⟩
  rw [State.updWorker_worker_self, Tab.get?_set_self]

/-- An object whose copy into the primary share has ended, before the pins of jobs are looked at. -/
def MObj.promotedAt (o : MObj) (frame : Nat) : MObj :=
  { o with first := o.toFirst, secondary := false, state := 2, toFirst := 0, lastUse := frame }

/-- The machine once the copy of a lane into the primary share has ended in a frame. -/
def State.copiedUp (s : State) (w obj : Nat) (o : MObj) (frame : Nat) : State :=
  (((s.copyLane w o).updWorker w fun x => { x with objs := x.objs.set obj (o.promotedAt frame) }).syncPins w).promoted w obj

theorem exec_moundCopyEnd_promotion (hstate : o.state = 5)
    (hlost : (s.worker w).runLost obj { o with first := o.toFirst, secondary := false } = false)
    (hfree : (s.worker w).runFree obj { o with first := o.toFirst, secondary := false } = true) :
    exec (.moundCopyEnd w obj errs) s = .next (if (s.copyErrors w o errs).2 then (s.copyErrors w o errs).1.failPromote w obj 0x2B
      else (s.copyErrors w o errs).1.copiedUp w obj o (s.hub (sledOf w)).frame) := by
  show execMoundCopyEnd w obj errs s = _
  unfold execMoundCopyEnd
  rw [h]
  dsimp only
  rw [if_neg (by simp [hmoves]), if_neg (by simp [hstate]), if_pos hstate, if_neg (by simp [hlost]), if_neg (by simp [hfree])]
  rfl

/-- An object whose copy into the primary share ends is resident there, with the pins of the jobs that name it; where the copy has failed
its promotion ends with 2Bh (R193, R195, R199). -/
theorem completes_moundCopyEnd_promotion (hstate : o.state = 5)
    (hlost : (s.worker w).runLost obj { o with first := o.toFirst, secondary := false } = false)
    (hfree : (s.worker w).runFree obj { o with first := o.toFirst, secondary := false } = true) :
    ((s.copyErrors w o errs).2 = false → Completes (.moundCopyEnd w obj errs) s fun t =>
      (t.worker w).objs.get? obj = some { o.promotedAt (s.hub (sledOf w)).frame with jobPins := s.jobRefs w obj } ∧
      t.mem = ((s.copyErrors w o errs).1.copyLane w o).mem) ∧
    ((s.copyErrors w o errs).2 = true → Completes (.moundCopyEnd w obj errs) s fun t =>
      t = (s.copyErrors w o errs).1.failPromote w obj 0x2B) := by
  have hexec := exec_moundCopyEnd_promotion (errs := errs) h hmoves hstate hlost hfree
  refine ⟨fun hgood => ⟨_, hexec.trans (congrArg _ (if_neg (ne_true_of_eq_false hgood))), ?_, ?_⟩,
    fun hbad => ⟨_, hexec.trans (congrArg _ (if_pos hbad)), rfl⟩⟩
  · have hbeside := ((s.copyErrors w o errs).1.copyLane_besideTiers w o).trans (State.copyErrors_besideTiers hgood)
    rw [State.copiedUp, State.promoted_worker,
      State.syncPins_obj (by rw [State.updWorker_worker_self, Tab.get?_set_self]) (by simp [MObj.promotedAt]) (by simp [MObj.promotedAt]),
      ← State.jobRefs_of_besideTiers hbeside]
    rfl
  · rw [State.copiedUp, State.promoted_mem, State.syncPins_mem, State.updWorker_mem]

end Sys2Proof.Machine
end

section
/-! The obligation about objects that are promoted, copied, pinned, dropped and queried. -/

namespace Sys2Proof.Machine

/-- Settles O44: the commands by their effect on every worker named; a copy that ends by whether it met a line beyond correction; the pins of
an object applied by what they leave of its state. That an uncorrectable line ends the promotion with 2Bh is the model's choice (log
entry 117). -/
theorem objectsMoveAndArePinned : Obligations.ObjectsMoveAndArePinned := by
  unfold Obligations.ObjectsMoveAndArePinned
  intro s c w obj errs o hunit
  dsimp only
  refine ⟨fun hlist hnamed hmode => ?commands, completes_moundQuery hunit, fun h =>
    ⟨fun hmoves => ?demotion, fun hmoves => ?promotion, ?pins⟩⟩
  case commands =>
    exact ⟨completes_moundPromote hunit hlist hnamed hmode, completes_moundPin hunit hlist hnamed hmode,
      completes_moundUnpin hunit hlist hnamed hmode, completes_moundDrop hunit hlist hmode⟩
  case demotion => exact completes_moundCopyEnd_demotion h hmoves
  case promotion => exact completes_moundCopyEnd_promotion h hmoves
  case pins => exact completes_hostPinApply h

end Sys2Proof.Machine
end

section
/-! SUPPORT. Board links and ports that change, triggers that a sled sees, and writes to tiers beside which a port or a circuit has changed. -/

namespace Sys2Proof.Machine

variable {s t u : State} {w v i j k g c reason : Nat}

/-! ## Links and ports -/

theorem State.updLink_link (s : State) (v i w j : Nat) (f : Link → Link) :
    ((s.updLink v i f).worker w).link j = if w = v ∧ j = i then f ((s.worker v).link i) else (s.worker w).link j := by
  rcases eq_or_ne w v with rfl | hw
  · rcases eq_or_ne j i with rfl | hj
    · simp
    · simp [hj]
  · simp [State.updLink, hw]

theorem State.updPort_port (s : State) (v i w j : Nat) (f : Port → Port) :
    ((s.updPort v i f).worker w).port j = if w = v ∧ j = i then f ((s.worker v).port i) else (s.worker w).port j := by
  rcases eq_or_ne w v with rfl | hw
  · rcases eq_or_ne j i with rfl | hj
    · simp
    · simp [hj]
  · simp [State.updPort, hw]

/-- What a change of one worker keeps of a worker, it keeps of every worker. -/
theorem State.updWorker_keeps {β : Type} (part : Worker → β) {f : Worker → Worker} (hf : ∀ x, part (f x) = part x) (s : State) (v w : Nat) :
    part ((s.updWorker v f).worker w) = part (s.worker w) := by
  rw [State.updWorker_worker]
  split
  next h => rw [hf, h]
  next => rfl

theorem State.updLink_core (s : State) (v i : Nat) (f : Link → Link) (w n : Nat) : (s.updLink v i f).core w n = s.core w n :=
  State.updWorker_keeps (fun x => x.core n) (by exact fun _ => rfl) s v w

theorem State.updLink_physOf (s : State) (v i : Nat) (f : Link → Link) (w l : Nat) :
    ((s.updLink v i f).worker w).physOf l = (s.worker w).physOf l :=
  State.updWorker_keeps (fun x => x.physOf l) (by exact fun _ => rfl) s v w

theorem State.updLink_flowsTo (s : State) (v i : Nat) (f : Link → Link) (w : Nat) :
    ((s.updLink v i f).worker w).flowsTo = (s.worker w).flowsTo :=
  State.updWorker_keeps (fun x => x.flowsTo) (by exact fun _ => rfl) s v w

theorem State.updCore_link (s : State) (v n : Nat) (f : StagCore → StagCore) (w j : Nat) :
    ((s.updCore v n f).worker w).link j = (s.worker w).link j :=
  State.updWorker_keeps (fun x => x.link j) (by exact fun _ => rfl) s v w

/-- From `s` to `t` nothing changes but workers. -/
def State.OnlyWorkers (s t : State) : Prop := t = { s with workers := t.workers }

theorem State.OnlyWorkers.trans (h : State.OnlyWorkers s t) (h' : State.OnlyWorkers t u) : State.OnlyWorkers s u := by
  unfold State.OnlyWorkers at *
  rw [h', h]

theorem State.updWorker_onlyWorkers (s : State) (w : Nat) (f : Worker → Worker) : State.OnlyWorkers s (s.updWorker w f) := rfl

theorem State.updLink_onlyWorkers (s : State) (w j : Nat) (f : Link → Link) : State.OnlyWorkers s (s.updLink w j f) := rfl

theorem State.updPort_onlyWorkers (s : State) (w j : Nat) (f : Port → Port) : State.OnlyWorkers s (s.updPort w j f) := rfl

/-- The far end of a board link is another worker (R17). -/
theorem Fit.linkPeer_ne {f : Fit} (hw : f.siteOk (siteOf w) = true) (hj : j < f.links) : (f.linkPeer w j).1 ≠ w := by
  have hx := Fit.siteIndex_lt hw
  have hlinks : j < f.sites - 1 := hj
  intro h
  have hindex := f.siteIndex_linkPeer w j
  rw [h] at hindex
  generalize f.siteIndex (siteOf w) = x at hx hindex
  rcases Nat.lt_or_ge (x + j + 1) f.sites with hlt | hge
  · rw [Nat.mod_eq_of_lt hlt] at hindex; omega
  · rw [Nat.mod_eq_sub_mod hge, Nat.mod_eq_of_lt (by omega)] at hindex; omega

theorem State.siteOk_of_workerUp (h : s.workerUp w = true) : s.fit.siteOk (siteOf w) = true := by
  simp only [State.workerUp, Fit.workerOk, Bool.and_eq_true] at h
  exact h.1.1.2

/-! ## Who uses a link or a circuit -/

/-- The groups with a flow on a board link follow from what is fitted, the active image, and who carries the flows. -/
theorem State.linkUsers_congr (hfit : t.fit = s.fit) (himg : t.img = s.img) (hactor : t.flowActor = s.flowActor) (w j : Nat) :
    t.linkUsers w j = s.linkUsers w j := by
  have hgroups : t.linkGroups = s.linkGroups := by
    unfold State.linkGroups
    rw [hfit, himg, hactor]
  unfold State.linkUsers
  rw [hfit, hgroups]

theorem State.updLink_linkUsers (s : State) (v i : Nat) (f : Link → Link) (w j : Nat) : (s.updLink v i f).linkUsers w j = s.linkUsers w j := by
  refine State.linkUsers_congr (s := s) (t := s.updLink v i f) rfl rfl (funext fun x => ?_) w j
  unfold State.flowActor
  rw [State.updLink_flowsTo]
  rfl

/-- The groups that a circuit serves follow from where its ends lie. -/
theorem State.updCirc_circGroups {f : Circ → Circ} (hsrc : ∀ x, (f x).src = x.src) (hdst : ∀ x, (f x).dst = x.dst) (s : State) (c q : Nat) :
    (s.updCirc c f).circGroups q = s.circGroups q := by
  have hends : ((s.updCirc c f).circ q).src = (s.circ q).src ∧ ((s.updCirc c f).circ q).dst = (s.circ q).dst := by
    rw [State.updCirc_circ]
    split
    next h => rw [hsrc, hdst, h]; exact ⟨rfl, rfl⟩
    next => exact ⟨rfl, rfl⟩
  unfold State.circGroups
  rw [hends.1, hends.2]
  rfl

/-! ## Triggers -/

theorem State.localTriggers_onlyGroups (s : State) (k : Nat) (gs : List Nat) (reason : Nat) :
    s.localTriggers k gs reason = { s with groups := (s.localTriggers k gs reason).groups } := by
  induction gs generalizing s with
  | nil => rfl
  | cons g gs ih =>
    show (s.localTrigger k g reason).localTriggers k gs reason =
      { s with groups := ((s.localTrigger k g reason).localTriggers k gs reason).groups }
    rw [ih, State.localTrigger_onlyGroups]

/-- A trigger stops no job and takes no sled out of those on which a group has stopped. -/
theorem State.localTrigger_keeps (s : State) (k f reason g : Nat) :
    (s.localTrigger k f reason).groupRuns g = s.groupRuns g ∧
    (s.group g).sledsStopped ⊆ ((s.localTrigger k f reason).group g).sledsStopped := by
  rcases Bool.eq_false_or_eq_true (s.groupRuns f) with hruns | hidle
  · rw [State.localTrigger_running hruns, State.groupRuns, State.updGroup_group, State.groupRuns]
    split
    next h =>
      subst h
      refine ⟨rfl, fun x hx => ?_⟩
      unfold Group.trigger
      dsimp only
      split
      · exact hx
      · exact List.mem_append_left _ hx
    next => exact ⟨rfl, fun _ h => h⟩
  · rw [State.localTrigger, if_neg (by simp [hidle])]
    exact ⟨rfl, fun _ h => h⟩

theorem State.localTriggers_groupRuns (s : State) (k : Nat) (gs : List Nat) (reason g : Nat) :
    (s.localTriggers k gs reason).groupRuns g = s.groupRuns g :=
  foldl_keeps (fun st => st.groupRuns g) _ (fun st f => (st.localTrigger_keeps k f reason g).1) gs s

/-- Every running group that sees a trigger has stopped on the sled. -/
theorem State.localTriggers_stops {gs : List Nat} (hg : g ∈ gs) (hruns : s.groupRuns g = true) :
    k ∈ ((s.localTriggers k gs reason).group g).sledsStopped := by
  have hstops : (s.localTriggers k gs reason).groupRuns g = true → k ∈ ((s.localTriggers k gs reason).group g).sledsStopped := by
    refine foldl_attains (P := fun st => st.groupRuns g = true → k ∈ (st.group g).sledsStopped) (fun st h => ?_) (fun st f hst h => ?_) hg s
    · rw [(st.localTrigger_keeps k g reason g).1] at h
      rw [State.localTrigger_running h, State.updGroup_group_self]
      exact Group.trigger_stops _ _ _
    · obtain ⟨hkeeps, hsub⟩ := st.localTrigger_keeps k f reason g
      exact hsub (hst (hkeeps ▸ h))
  exact hstops ((s.localTriggers_groupRuns k gs reason g).trans hruns)

/-! ## Tiers -/

/-- A line is written alike in two machines with the same tiers. -/
theorem State.SameStores.writeLine (h : State.SameStores s t) (line : Nat) (b : List Byte) :
    State.SameStores (s.writeLine line b) (t.writeLine line b) := by
  unfold State.writeLine
  dsimp only
  rw [h.keyAt]
  split
  · refine ⟨by rw [h.rest]; rfl, fun v => ?_⟩
    rw [State.updWorker_keeps Worker.stores (by exact fun _ => rfl), State.updWorker_keeps Worker.stores (by exact fun _ => rfl), h.stores]
  · exact ⟨by rw [h.mem, h.keyTag, h.rest], fun v => h.stores v⟩

theorem State.SameStores.tierWrite (h : State.SameStores s t) (a : Nat) (b : List Byte) : State.SameStores (s.tierWrite a b) (t.tierWrite a b) := by
  unfold State.tierWrite
  split
  · exact h
  · dsimp only
    generalize List.range ((a + b.length - 1) / 64 + 1 - a / 64) = l
    induction l generalizing s t with
    | nil => exact h
    | cons i l ih =>
      refine ih ?_
      simp only [h.tierByte]
      exact h.writeLine _ _

/-- A write to a tier and a change of a circuit do not meet. -/
theorem State.updCirc_tierWrite (s : State) (c : Nat) (f : Circ → Circ) (a : Nat) (b : List Byte) :
    (s.updCirc c f).tierWrite a b = (s.tierWrite a b).updCirc c f := by
  have hline (st : State) (line : Nat) (b : List Byte) : (st.updCirc c f).writeLine line b = (st.writeLine line b).updCirc c f := by
    have hkey : (st.updCirc c f).keyAt (line * 64) = st.keyAt (line * 64) := rfl
    unfold State.writeLine
    rw [hkey]
    dsimp only
    split <;> rfl
  unfold State.tierWrite
  split
  · rfl
  · dsimp only
    generalize List.range ((a + b.length - 1) / 64 + 1 - a / 64) = l
    induction l generalizing s with
    | nil => rfl
    | cons i l ih => rw [List.foldl_cons, List.foldl_cons, ← ih, ← hline]; rfl

theorem State.circs_of_besideTiers (h : t.besideTiers = s.besideTiers) : t.circs = s.circs :=
  (congrArg State.circs h : t.besideTiers.circs = s.besideTiers.circs)

/-- Bytes put into a core's store are what it holds there. -/
theorem StagCore.putBytes_store (x : StagCore) (a : Nat) (b : List Byte) {i : Nat} (hi : i < b.length) :
    (x.putBytes a b).store.get 0 (a + i) = (b.getD i 0).toNat := by
  have hfold (l : List Byte) (n : Nat) (st : Tab Nat) : ((l.zipIdx n).foldl (fun t b => t.set (a + b.2) b.1.toNat) st).get 0 (a + i) =
      if n ≤ i ∧ i < n + l.length then (l.getD (i - n) 0).toNat else st.get 0 (a + i) := by
    induction l generalizing n st with
    | nil => simp
    | cons y l ih =>
      rw [List.zipIdx_cons, List.foldl_cons, ih, Tab.get_set]
      rcases eq_or_ne i n with rfl | hne
      · simp
      · by_cases hin : n + 1 ≤ i ∧ i < n + 1 + l.length
        · obtain ⟨m, rfl⟩ : ∃ m, i = n + 1 + m := ⟨i - (n + 1), by omega⟩
          rw [if_pos hin, if_pos (by simp only [List.length_cons]; omega), show n + 1 + m - (n + 1) = m by omega,
            show n + 1 + m - n = m + 1 by omega, List.getD_cons_succ]
        · rw [if_neg hin, if_neg (by omega), if_neg (by simp only [List.length_cons]; omega)]
  rw [StagCore.putBytes, hfold, if_pos ⟨Nat.zero_le i, by omega⟩, Nat.sub_zero]

end Sys2Proof.Machine
end

section
/-! SUPPORT. Flits that arrive on a board link (R201 to R203, R206). -/

namespace Sys2Proof.Machine

variable {s u : State} {w j n cycle err : Nat} {p : Nat × Nat} {errs : List (Nat × Byte)} {sent f : Flit}

/-- A board link end as a flit, or an IDLE with the credits owed, leaves it for its peer. -/
def Link.take (x : Link) : Link :=
  match x.wire with
  | [] => { x with owed := x.owed - min 15 x.owed }
  | f :: rest => { x with wire := rest, fly := if f.typ = 1 then x.fly - 1 else x.fly }

theorem Link.take_wire (x : Link) : x.take.wire = x.wire.tail := by
  unfold Link.take
  split
  next h => rw [h]; rfl
  next h => rw [h]; rfl

theorem Link.take_inRet (x : Link) : x.take.inRet = x.inRet := by unfold Link.take; split <;> rfl

theorem State.takeLink_eq (hp : u.fit.linkPeer w j = p) : u.takeLink w j = u.updLink p.1 p.2 Link.take := by subst hp; rfl

theorem State.takeLink_onlyWorkers (u : State) (w j : Nat) : State.OnlyWorkers u (u.takeLink w j) := rfl

theorem Link.addCredits_credit (x : Link) (n : Nat) : (x.addCredits n).credit = min 128 (x.credit + n) := by
  unfold Link.addCredits
  split <;> dsimp only <;> omega

theorem Link.addCredits_landed (x : Link) (n : Nat) : (x.addCredits n).landed = x.landed := by unfold Link.addCredits; split <;> rfl

theorem Link.addCredits_corr (x : Link) (n : Nat) : (x.addCredits n).corr = x.corr := by unfold Link.addCredits; split <;> rfl

theorem Link.addCredits_uncorr (x : Link) (n : Nat) : (x.addCredits n).uncorr = x.uncorr := by unfold Link.addCredits; split <;> rfl

theorem Link.addCredits_misroute (x : Link) (n : Nat) : (x.addCredits n).misroute = x.misroute := by unfold Link.addCredits; split <;> rfl

/-- The receiving end of a board link that counts a corrected flit and the credits that came with it. -/
def Link.accept (x : Link) (err cred : Nat) : Link :=
  Link.addCredits { x with corr := if err = 1 then satInc 0xFFFF x.corr else x.corr } cred

/-- The machine once a flit that decodes has been taken off the wire of a board link, its credits counted. -/
def State.acceptLink (u : State) (w j err : Nat) (f : Flit) : State :=
  ((u.takeLink w j).updLink w j fun x => { x with corr := if err = 1 then satInc 0xFFFF x.corr else x.corr }).updLink w j fun x =>
    x.addCredits f.cred

theorem State.acceptLink_onlyWorkers (u : State) (w j err : Nat) (f : Flit) : State.OnlyWorkers u (u.acceptLink w j err f) := by
  rw [State.acceptLink]
  exact ((u.takeLink_onlyWorkers w j).trans (State.updLink_onlyWorkers _ w j _)).trans (State.updLink_onlyWorkers _ w j _)

/-- A flit is taken off the peer's end of the link, and counted at its own. -/
theorem State.takeLink_link (hp : u.fit.linkPeer w j = p) (hne : p.1 ≠ w) : ((u.takeLink w j).worker w).link j = (u.worker w).link j := by
  rw [State.takeLink_eq hp, State.updLink_link, if_neg fun h => hne h.1.symm]

theorem State.acceptLink_link (hp : u.fit.linkPeer w j = p) (hne : p.1 ≠ w) (err : Nat) (f : Flit) :
    ((u.acceptLink w j err f).worker w).link j = ((u.worker w).link j).accept err f.cred := by
  rw [State.acceptLink, State.updLink_link_self, State.updLink_link_self, State.takeLink_link hp hne]
  rfl

theorem State.acceptLink_peer (hp : u.fit.linkPeer w j = p) (hne : p.1 ≠ w) (err : Nat) (f : Flit) :
    ((u.acceptLink w j err f).worker p.1).link p.2 = ((u.worker p.1).link p.2).take := by
  have hpeer : ¬(p.1 = w ∧ p.2 = j) := fun h => hne h.1
  rw [State.acceptLink, State.updLink_link, if_neg hpeer, State.updLink_link, if_neg hpeer, State.takeLink_eq hp, State.updLink_link_self]

/-! ## Slots -/

theorem State.freeLinkSlot_eq (hp : u.fit.linkPeer w j = p) : u.freeLinkSlot w j =
    (u.updLink w j fun x => { x with owed := x.owed + 1 }).updLink p.1 p.2 fun x => { x with inRet := x.inRet + 1 } := by subst hp; rfl

theorem State.freeLinkSlot_onlyWorkers (u : State) (w j : Nat) : State.OnlyWorkers u (u.freeLinkSlot w j) := by
  rw [State.freeLinkSlot_eq rfl]
  exact (u.updLink_onlyWorkers w j _).trans (State.updLink_onlyWorkers _ _ _ _)

theorem State.freeLinkSlot_core (u : State) (w j v m : Nat) : (u.freeLinkSlot w j).core v m = u.core v m := by
  rw [State.freeLinkSlot_eq rfl, State.updLink_core, State.updLink_core]

/-- A part of a link that neither the credits owed nor the credits in return touch stays as it is when a slot is freed. -/
theorem State.freeLinkSlot_keeps {β : Type} (part : Link → β) (howed : ∀ (x : Link) m, part { x with owed := m } = part x)
    (hback : ∀ (x : Link) m, part { x with inRet := m } = part x) (u : State) (w j v i : Nat) :
    part (((u.freeLinkSlot w j).worker v).link i) = part ((u.worker v).link i) :=
  (State.updLink_keeps part (fun x => hback x _) _ _ _ v i).trans (State.updLink_keeps part (fun x => howed x _) u w j v i)

theorem State.freeLinkSlot_peer (hp : u.fit.linkPeer w j = p) (hne : p.1 ≠ w) :
    ((u.freeLinkSlot w j).worker p.1).link p.2 = { (u.worker p.1).link p.2 with inRet := ((u.worker p.1).link p.2).inRet + 1 } := by
  rw [State.freeLinkSlot_eq hp, State.updLink_link_self, State.updLink_link, if_neg fun h => hne h.1]

/-! ## A DATA flit that lands -/

theorem State.receiveLink_lands (hsent : sent.typ = 1) (herr : err ≠ 2) (hdata : f.typ = 1)
    (hflow : u.flowOn (u.fit.linkPeer w j).1 w f.id = true) (hstarted : (u.hub (sledOf w)).started = true) :
    u.receiveLink w j sent err f =
      (((u.acceptLink w j err f).landLink w f).updLink w j fun x => { x with landed := x.landed + 1 }).freeLinkSlot w j := by
  simp [State.receiveLink, State.acceptLink, hsent, herr, hdata, hflow, hstarted]

theorem State.landLink_eq (hphys : (u.worker w).physOf (f.arg / 2 ^ 16 % 64) = some n) (hlow : dataBase ≤ f.arg % 2 ^ 16 * 64)
    (hhigh : f.arg % 2 ^ 16 * 64 + 256 ≤ 0x400000) :
    u.landLink w f = u.updCore w n fun x => x.putBytes (f.arg % 2 ^ 16 * 64) f.payload := by
  unfold State.landLink
  dsimp only
  rw [hphys]
  exact if_pos ⟨hlow, hhigh⟩

/-- A flit that lands changes a core of its worker. -/
theorem State.landLink_beside (u : State) (w : Nat) (f : Flit) :
    State.OnlyWorkers u (u.landLink w f) ∧ ∀ v i, ((u.landLink w f).worker v).link i = (u.worker v).link i := by
  unfold State.landLink
  dsimp only
  split
  · split
    · exact ⟨u.updWorker_onlyWorkers w _, fun v i => u.updCore_link w _ _ v i⟩
    · exact ⟨rfl, fun _ _ => rfl⟩
  · exact ⟨rfl, fun _ _ => rfl⟩

/-- What a DATA flit that lands leaves: its bytes in the core's store, its slot free, its credits counted (R201, R206). -/
theorem State.receiveLink_landed (hp : u.fit.linkPeer w j = p) (hne : p.1 ≠ w) (hsent : sent.typ = 1) (herr : err ≠ 2) (hdata : f.typ = 1)
    (hflow : u.flowOn p.1 w f.id = true) (hstarted : (u.hub (sledOf w)).started = true)
    (hphys : (u.worker w).physOf (f.arg / 2 ^ 16 % 64) = some n) (hlow : dataBase ≤ f.arg % 2 ^ 16 * 64)
    (hhigh : f.arg % 2 ^ 16 * 64 + 256 ≤ 0x400000) :
    let x := (u.worker w).link j
    let t := u.receiveLink w j sent err f
    (∀ i, i < f.payload.length → (t.core w n).store.get 0 (f.arg % 2 ^ 16 * 64 + i) = (f.payload.getD i 0).toNat) ∧
    ((t.worker w).link j).landed = x.landed + 1 ∧ ((t.worker w).link j).credit = min 128 (x.credit + f.cred) ∧
    ((t.worker w).link j).corr = (if err = 1 then min 65535 (x.corr + 1) else x.corr) ∧
    ((t.worker p.1).link p.2).wire = ((u.worker p.1).link p.2).wire.tail ∧
    ((t.worker p.1).link p.2).inRet = ((u.worker p.1).link p.2).inRet + 1 ∧ t = { u with workers := t.workers } := by
  have haccept : ((u.acceptLink w j err f).worker w).physOf (f.arg / 2 ^ 16 % 64) = some n := by
    rw [State.acceptLink, State.updLink_physOf, State.updLink_physOf, State.takeLink_eq hp, State.updLink_physOf, hphys]
  obtain ⟨hland, hlink⟩ := (u.acceptLink w j err f).landLink_beside w f
  have honly := (u.acceptLink_onlyWorkers w j err f).trans hland
  have hfit : ((u.acceptLink w j err f).landLink w f).fit.linkPeer w j = p := (congrArg (fun z => z.fit.linkPeer w j) honly).trans hp
  have hown {β : Type} (part : Link → β) (howed : ∀ (x : Link) m, part { x with owed := m } = part x)
      (hback : ∀ (x : Link) m, part { x with inRet := m } = part x) :
      part (((u.receiveLink w j sent err f).worker w).link j) =
        part { ((u.worker w).link j).accept err f.cred with landed := (((u.worker w).link j).accept err f.cred).landed + 1 } := by
    rw [State.receiveLink_lands hsent herr hdata (by rwa [hp]) hstarted, State.freeLinkSlot_keeps part howed hback, State.updLink_link_self,
      hlink, State.acceptLink_link hp hne]
  have hpeer : ((u.receiveLink w j sent err f).worker p.1).link p.2 =
      { ((u.worker p.1).link p.2).take with inRet := ((u.worker p.1).link p.2).take.inRet + 1 } := by
    rw [State.receiveLink_lands hsent herr hdata (by rwa [hp]) hstarted, State.freeLinkSlot_peer (by exact hfit) hne, State.updLink_link,
      if_neg fun h => hne h.1, hlink, State.acceptLink_peer hp hne]
  dsimp only
  refine ⟨fun i hi => ?_, ?_, ?_, ?_, ?_, ?_, ?_⟩
  · rw [State.receiveLink_lands hsent herr hdata (by rwa [hp]) hstarted, State.freeLinkSlot_core, State.updLink_core,
      State.landLink_eq haccept hlow hhigh, State.updCore_core_self, StagCore.putBytes_store _ _ _ hi]
  · rw [hown Link.landed (fun _ _ => rfl) fun _ _ => rfl]
    exact congrArg (· + 1) (Link.addCredits_landed _ _)
  · rw [hown Link.credit (fun _ _ => rfl) fun _ _ => rfl]
    exact Link.addCredits_credit _ _
  · rw [hown Link.corr (fun _ _ => rfl) fun _ _ => rfl]
    exact Link.addCredits_corr _ _
  · rw [hpeer]; exact Link.take_wire _
  · rw [hpeer]; exact congrArg (· + 1) (Link.take_inRet _)
  · rw [State.receiveLink_lands hsent herr hdata (by rwa [hp]) hstarted]
    exact honly.trans ((State.updLink_onlyWorkers _ w j _).trans (State.freeLinkSlot_onlyWorkers _ w j))

/-! ## A flit that is refused -/

/-- The machine as a refused flit leaves the link, before the groups that use it stop. -/
def State.countRefused (u : State) (w j : Nat) : Bool → State
  | false => u.updLink w j fun x => { x with uncorr := satInc 0xFFFF x.uncorr }
  | true => (u.updLink w j fun x => { x with uncorr := satInc 0xFFFF x.uncorr }).freeLinkSlot w j

theorem State.refuseLink_eq (u : State) (w j : Nat) (data : Bool) :
    u.refuseLink w j data = (u.countRefused w j data).localTriggers (sledOf w) (u.linkUsers w j) 3 := by
  cases data <;> rfl

theorem State.countRefused_onlyWorkers (u : State) (w j : Nat) (data : Bool) :
    u.countRefused w j data = { u with workers := (u.countRefused w j data).workers } := by
  cases data <;> rfl

theorem State.countRefused_uncorr (u : State) (w j : Nat) (data : Bool) :
    (((u.countRefused w j data).worker w).link j).uncorr = min 65535 (((u.worker w).link j).uncorr + 1) := by
  have hcount : (((u.updLink w j fun x => { x with uncorr := satInc 0xFFFF x.uncorr }).worker w).link j).uncorr =
      min 65535 (((u.worker w).link j).uncorr + 1) := congrArg Link.uncorr (State.updLink_link_self u w j _)
  cases data with
  | false => exact hcount
  | true => exact (State.freeLinkSlot_keeps Link.uncorr (by exact fun _ _ => rfl) (by exact fun _ _ => rfl) _ w j w j).trans hcount

theorem State.countRefused_misroute (u : State) (w j : Nat) (data : Bool) :
    (((u.countRefused w j data).worker w).link j).misroute = ((u.worker w).link j).misroute := by
  have hcount := State.updLink_keeps Link.misroute (f := fun x => { x with uncorr := satInc 0xFFFF x.uncorr }) (by exact fun _ => rfl) u w j w j
  cases data with
  | false => exact hcount
  | true => exact (State.freeLinkSlot_keeps Link.misroute (by exact fun _ _ => rfl) (by exact fun _ _ => rfl) _ w j w j).trans hcount

theorem State.countRefused_core (u : State) (w j : Nat) (data : Bool) (v m : Nat) : (u.countRefused w j data).core v m = u.core v m := by
  cases data with
  | false => rw [State.countRefused, State.updLink_core]
  | true => rw [State.countRefused, State.freeLinkSlot_core, State.updLink_core]

/-- A flit that a board link refuses counts as uncorrectable, reaches no core, and stops the groups of the link on the sled (R202, R203). -/
theorem State.refuseLink_refused (u : State) (w j : Nat) (data : Bool) :
    let t := u.refuseLink w j data
    ((t.worker w).link j).uncorr = min 65535 (((u.worker w).link j).uncorr + 1) ∧
    ((t.worker w).link j).misroute = ((u.worker w).link j).misroute ∧ (∀ v m, t.core v m = u.core v m) ∧
    (∀ g ∈ u.linkUsers w j, u.groupRuns g = true → sledOf w ∈ (t.group g).sledsStopped) ∧
    t = { u with workers := t.workers, groups := t.groups } := by
  dsimp only
  rw [State.refuseLink_eq]
  have honly := u.countRefused_onlyWorkers w j data
  refine ⟨?_, ?_, fun v m => ?_, fun g hg hruns => State.localTriggers_stops hg ?_, ?_⟩
  · rw [State.localTriggers_onlyGroups]; exact u.countRefused_uncorr w j data
  · rw [State.localTriggers_onlyGroups]; exact u.countRefused_misroute w j data
  · rw [State.localTriggers_onlyGroups]; exact u.countRefused_core w j data v m
  · rw [honly]; exact hruns
  · rw [State.localTriggers_onlyGroups, honly]

theorem State.takeLink_core (u : State) (w j v m : Nat) : (u.takeLink w j).core v m = u.core v m := State.updLink_core _ _ _ _ _ _

theorem State.acceptLink_core (u : State) (w j err : Nat) (f : Flit) (v m : Nat) : (u.acceptLink w j err f).core v m = u.core v m := by
  rw [State.acceptLink, State.updLink_core, State.updLink_core, State.takeLink_core]

/-- The groups that use a link are those that used it before a flit was taken off its wire. -/
theorem State.takeLink_linkUsers (u : State) (w j : Nat) : (u.takeLink w j).linkUsers w j = u.linkUsers w j := State.updLink_linkUsers _ _ _ _ _ _

theorem State.acceptLink_linkUsers (u : State) (w j err : Nat) (f : Flit) : (u.acceptLink w j err f).linkUsers w j = u.linkUsers w j := by
  rw [State.acceptLink, State.updLink_linkUsers, State.updLink_linkUsers, State.takeLink_linkUsers]

theorem State.receiveLink_uncorrectable (hp : u.fit.linkPeer w j = p) (hne : p.1 ≠ w) (sent f : Flit) :
    let t := u.receiveLink w j sent 2 f
    ((t.worker w).link j).uncorr = min 65535 (((u.worker w).link j).uncorr + 1) ∧ (∀ v m, t.core v m = u.core v m) ∧
    (∀ g ∈ u.linkUsers w j, u.groupRuns g = true → sledOf w ∈ (t.group g).sledsStopped) ∧
    t = { u with workers := t.workers, groups := t.groups } := by
  have heq : u.receiveLink w j sent 2 f = (u.takeLink w j).refuseLink w j (sent.typ == 1) := by
    unfold State.receiveLink
    dsimp only
    rw [if_pos rfl]
  obtain ⟨huncorr, -, hcore, hstops, honly⟩ := (u.takeLink w j).refuseLink_refused w j (sent.typ == 1)
  dsimp only
  rw [heq]
  refine ⟨by rw [huncorr, State.takeLink_link hp hne], fun v m => (hcore v m).trans (u.takeLink_core w j v m), ?_, honly.trans rfl⟩
  rw [← u.takeLink_linkUsers]
  exact hstops

theorem State.receiveLink_misrouted (hp : u.fit.linkPeer w j = p) (hne : p.1 ≠ w) (hsent : sent.typ = 1) (herr : err ≠ 2)
    (hother : ¬(f.typ = 1 ∧ u.flowOn p.1 w f.id = true)) :
    let t := u.receiveLink w j sent err f
    ((t.worker w).link j).misroute = min 255 (((u.worker w).link j).misroute + 1) ∧
    ((t.worker w).link j).uncorr = min 65535 (((u.worker w).link j).uncorr + 1) ∧ (∀ v m, t.core v m = u.core v m) ∧
    (∀ g ∈ u.linkUsers w j, u.groupRuns g = true → sledOf w ∈ (t.group g).sledsStopped) ∧
    t = { u with workers := t.workers, groups := t.groups } := by
  have heq : u.receiveLink w j sent err f =
      ((u.acceptLink w j err f).updLink w j fun x => { x with misroute := satInc 0xFF x.misroute }).refuseLink w j true := by
    have hflow : (f.typ == 1 && u.flowOn (u.fit.linkPeer w j).1 w f.id) = false := by
      rw [hp]; simpa using hother
    simp [State.receiveLink, State.acceptLink, hsent, herr, hflow]
  obtain ⟨huncorr, hmisroute, hcore, hstops, honly⟩ :=
    ((u.acceptLink w j err f).updLink w j fun x => { x with misroute := satInc 0xFF x.misroute }).refuseLink_refused w j true
  dsimp only
  rw [heq]
  rw [State.updLink_link_self, State.acceptLink_link hp hne] at huncorr hmisroute
  refine ⟨hmisroute.trans ?_, huncorr.trans ?_, fun v m => (hcore v m).trans ?_, ?_, honly.trans rfl⟩
  · rw [Link.accept, Link.addCredits_misroute]; rfl
  · rw [Link.accept, Link.addCredits_uncorr]
  · rw [State.updLink_core, State.acceptLink_core]
  · rw [State.updLink_linkUsers, State.acceptLink_linkUsers] at hstops
    exact hstops

end Sys2Proof.Machine
end

section
/-! SUPPORT. Flits that arrive at an optical port (R201 to R203, R242), and circuit credits that fall due (R205 to R207). -/

namespace Sys2Proof.Machine

variable {s u : State} {w j c err : Nat} {sent f : Flit}

theorem Circ.take_kept (x : Circ) :
    x.take.wire = x.wire.tail ∧ x.take.inRet = x.inRet ∧ x.take.landed = x.landed ∧ x.take.src = x.src ∧ x.take.dst = x.dst := by
  unfold Circ.take
  split
  next h => exact ⟨by rw [h]; rfl, rfl, rfl, rfl, rfl⟩
  next h => exact ⟨by rw [h]; rfl, rfl, rfl, rfl, rfl⟩

/-- The machine once a flit that decodes has been taken off a circuit's fiber. -/
def State.acceptPort (u : State) (w j c err : Nat) : State :=
  (u.updCirc c Circ.take).updPort w j fun x => { x with corr := if err = 1 then satInc 0xFFFF x.corr else x.corr }

theorem State.receivePort_lands (hsent : sent.typ = 1) (herr : err ≠ 2) (hhit : (u.circ c).state ≠ 4) (hdata : f.typ = 1)
    (hrx : ((u.worker w).port j).rx = some f.id) (hlive : (u.circ f.id).rxLive = true) (hstarted : (u.hub (sledOf w)).started = true) :
    u.receivePort w j c sent err f =
      ((u.acceptPort w j c err).landPort w f).updCirc c fun x => { x.freeSlot with landed := x.landed + 1 } := by
  simp [State.receivePort, State.acceptPort, hsent, herr, hhit, hdata, hrx, hlive, hstarted]

theorem State.updPort_sameStores (s : State) (w j : Nat) (f : Port → Port) : State.SameStores s (s.updPort w j f) :=
  State.sameStores_updWorker (f := fun x => { x with ports := x.ports.set j (f (x.port j)) }) (by exact fun _ => rfl) s w

/-- What a DATA flit of a port's live circuit leaves: its bytes in tier A, its slot free (R201, R206). -/
theorem State.receivePort_landed (hsent : sent.typ = 1) (herr : err ≠ 2) (hhit : (u.circ c).state ≠ 4) (hdata : f.typ = 1)
    (hrx : ((u.worker w).port j).rx = some f.id) (hlive : (u.circ f.id).rxLive = true) (hstarted : (u.hub (sledOf w)).started = true) :
    let t := u.receivePort w j c sent err f
    t.mem = (u.tierWrite (machineAddr 0 w (f.arg % 2 ^ 32 * 64)) f.payload).mem ∧ (t.circ c).landed = (u.circ c).landed + 1 ∧
    (t.circ c).inRet = (u.circ c).inRet + 1 ∧ (t.circ c).wire = (u.circ c).wire.tail ∧ ∀ d, d ≠ c → t.circ d = u.circ d := by
  obtain ⟨hwire, hback, hlanded, -, -⟩ := (u.circ c).take_kept
  have hcircs : ((u.acceptPort w j c err).landPort w f).circs = (u.updCirc c Circ.take).circs :=
    State.circs_of_besideTiers (State.tierWrite_besideTiers (u.acceptPort w j c err) _ _)
  have hcirc (d : Nat) : ((u.acceptPort w j c err).landPort w f).circ d = (u.updCirc c Circ.take).circ d :=
    congrArg (fun z => z.get Circ.init d) hcircs
  have hstores : State.SameStores (u.updCirc c Circ.take) (u.acceptPort w j c err) :=
    State.updPort_sameStores _ w j _
  dsimp only
  rw [State.receivePort_lands hsent herr hhit hdata hrx hlive hstarted]
  refine ⟨?_, ?_, ?_, ?_, fun d hd => ?_⟩
  · refine (hstores.tierWrite (machineAddr 0 w (f.arg % 2 ^ 32 * 64)) f.payload).mem.trans ?_
    rw [State.updCirc_tierWrite]; rfl
  · rw [State.updCirc_circ_self, hcirc, State.updCirc_circ_self]; exact congrArg (· + 1) hlanded
  · rw [State.updCirc_circ_self, hcirc, State.updCirc_circ_self]; exact congrArg (· + 1) hback
  · rw [State.updCirc_circ_self, hcirc, State.updCirc_circ_self]; exact hwire
  · rw [State.updCirc_circ_ne _ _ hd, hcirc, State.updCirc_circ_ne _ _ hd]

/-- The machine as a refused flit leaves the port and its circuit, before the groups stop. -/
def State.countRefusedPort (u : State) (w j c : Nat) : Bool → State
  | false => u.updPort w j fun x => { x with uncorr := satInc 0xFFFF x.uncorr }
  | true => (u.updPort w j fun x => { x with uncorr := satInc 0xFFFF x.uncorr }).updCirc c Circ.freeSlot

theorem State.countRefusedPort_only (u : State) (w j c : Nat) (data : Bool) : u.countRefusedPort w j c data =
    { u with workers := (u.countRefusedPort w j c data).workers, circs := (u.countRefusedPort w j c data).circs } := by
  cases data <;> rfl

theorem State.countRefusedPort_uncorr (u : State) (w j c : Nat) (data : Bool) :
    (((u.countRefusedPort w j c data).worker w).port j).uncorr = min 65535 (((u.worker w).port j).uncorr + 1) := by
  have hcount : (((u.updPort w j fun x => { x with uncorr := satInc 0xFFFF x.uncorr }).worker w).port j).uncorr =
      min 65535 (((u.worker w).port j).uncorr + 1) := congrArg Port.uncorr (State.updPort_port_self u w j _)
  cases data <;> exact hcount

theorem State.countRefusedPort_wire (u : State) (w j c : Nat) (data : Bool) :
    ((u.countRefusedPort w j c data).circ c).wire = (u.circ c).wire := by
  cases data with
  | false => rfl
  | true => rw [State.countRefusedPort, State.updCirc_circ_self]; rfl

/-- The groups of the circuit that a port receives. -/
def State.rxGroups (u : State) (w j : Nat) : List Nat := match ((u.worker w).port j).rx with | some r => u.circGroups r | none => []

theorem State.refusePort_eq (u : State) (w j c : Nat) (data : Bool) :
    u.refusePort w j c data = (u.countRefusedPort w j c data).localTriggers (sledOf w) (u.rxGroups w j) 3 := by
  cases data <;> rfl

/-- A flit that a port refuses counts as uncorrectable, reaches no memory, and stops the groups of the port's receive circuit on the sled
(R202, R203). -/
theorem State.refusePort_refused (u : State) (w j c : Nat) (data : Bool) :
    let t := u.refusePort w j c data
    ((t.worker w).port j).uncorr = min 65535 (((u.worker w).port j).uncorr + 1) ∧ (t.circ c).wire = (u.circ c).wire ∧
    (∀ g ∈ u.rxGroups w j, u.groupRuns g = true → sledOf w ∈ (t.group g).sledsStopped) ∧
    t = { u with workers := t.workers, groups := t.groups, circs := t.circs } := by
  dsimp only
  rw [State.refusePort_eq]
  refine ⟨?_, ?_, fun g hg hruns => State.localTriggers_stops hg ?_, ?_⟩
  · rw [State.localTriggers_onlyGroups]; exact u.countRefusedPort_uncorr w j c data
  · rw [State.localTriggers_onlyGroups]; exact u.countRefusedPort_wire w j c data
  · rw [State.countRefusedPort_only]; exact hruns
  · rw [State.localTriggers_onlyGroups, State.countRefusedPort_only]

/-- Taking a flit off a fiber leaves the groups that a port's circuit serves. -/
theorem State.mem_rxGroups_take {q g : Nat} (hq : ((u.worker w).port j).rx = some q) (hg : g ∈ u.circGroups q) (c : Nat) :
    g ∈ (u.updCirc c Circ.take).rxGroups w j := by
  rw [State.rxGroups, State.updCirc_worker, hq]
  show g ∈ (u.updCirc c Circ.take).circGroups q
  rwa [State.updCirc_circGroups (fun x => x.take_kept.2.2.2.1) (fun x => x.take_kept.2.2.2.2)]

theorem State.receivePort_uncorrectable (h : err = 2 ∨ (u.circ c).state = 4) (w j : Nat) (sent f : Flit) :
    let t := u.receivePort w j c sent err f
    ((t.worker w).port j).uncorr = min 65535 (((u.worker w).port j).uncorr + 1) ∧ t.mem = u.mem ∧ (t.circ c).wire = (u.circ c).wire.tail ∧
    (∀ q, ((u.worker w).port j).rx = some q → ∀ g ∈ u.circGroups q, u.groupRuns g = true → sledOf w ∈ (t.group g).sledsStopped) ∧
    t = { u with workers := t.workers, groups := t.groups, circs := t.circs } := by
  have heq : u.receivePort w j c sent err f = (u.updCirc c Circ.take).refusePort w j c (sent.typ == 1) := if_pos h
  obtain ⟨huncorr, hwire, hstops, honly⟩ := (u.updCirc c Circ.take).refusePort_refused w j c (sent.typ == 1)
  dsimp only
  rw [heq]
  refine ⟨huncorr, ?_, hwire.trans ?_, fun q hq g hg => hstops g (State.mem_rxGroups_take hq hg c), honly.trans rfl⟩
  · rw [honly]; rfl
  · rw [State.updCirc_circ_self]; exact (u.circ c).take_kept.1

/-! ## Credits -/

/-- A credit that falls due is counted (R205, R206): of a flit that has landed, or of one that has not and is lost; it waits while the flit
stands in the receive buffer. -/
theorem completes_creditDue (hwindow : (s.circ c).window ≠ 0) (hroom : (s.circ c).credit < (s.circ c).window) :
    Completes (.creditDue c) s fun t =>
      (0 < (s.circ c).inRet → t.circ c = { s.circ c with credit := (s.circ c).credit + 1, inRet := (s.circ c).inRet - 1 }) ∧
      ((s.circ c).inRet = 0 → 0 < (s.circ c).fly → (s.circ c).occ = 0 → t.circ c =
        { s.circ c with credit := (s.circ c).credit + 1, fly := (s.circ c).fly - 1, wire := dropData (s.circ c).wire }) ∧
      ((s.circ c).inRet = 0 → (s.circ c).fly = 0 ∨ 0 < (s.circ c).occ → t.circ c = s.circ c) ∧
      (∀ d, d ≠ c → t.circ d = s.circ d) ∧ t = { s with circs := t.circs } := by
  have hexec : exec (.creditDue c) s = .next (s.updCirc c Circ.creditDue) := by
    show execCreditDue c s = _
    unfold execCreditDue
    dsimp only
    rw [if_neg hwindow, if_pos hroom]
  refine ⟨_, hexec, fun hback => ?_, fun hback hfly hocc => ?_, fun hback hwaits => ?_, fun d hd => State.updCirc_circ_ne s _ hd, rfl⟩
  · rw [State.updCirc_circ_self, Circ.creditDue, if_pos hback]
  · rw [State.updCirc_circ_self, Circ.creditDue, if_neg (by omega), if_pos ⟨hfly, hocc⟩]
  · rw [State.updCirc_circ_self, Circ.creditDue, if_neg (by omega), if_neg (by omega)]

/-- A credit that would pass the window counts under SHORT (R207). -/
theorem completes_creditDue_short (hwindow : (s.circ c).window ≠ 0) (hfull : (s.circ c).window ≤ (s.circ c).credit) :
    Completes (.creditDue c) s fun t =>
      let e := (s.endOf (s.circ c).src).1
      ((t.worker e).port (s.circPort e c)).short = min 255 (((s.worker e).port (s.circPort e c)).short + 1) ∧
      t = { s with workers := t.workers } := by
  refine ⟨s.updPort (s.endOf (s.circ c).src).1 (s.circPort (s.endOf (s.circ c).src).1 c) fun y => { y with short := satInc 0xFF y.short },
    ?_, congrArg Port.short (State.updPort_port_self _ _ _ _), rfl⟩
  show execCreditDue c s = _
  unfold execCreditDue
  dsimp only
  rw [if_neg hwindow, if_neg (by omega)]

end Sys2Proof.Machine
end

section
/-! The obligation about flits that are received and credits that are counted. -/

namespace Sys2Proof.Machine

variable {s : State} {w j c cycle : Nat} {errs : List (Nat × Byte)}

theorem exec_flitReceive_link (hup : s.workerUp w = true) (hj : j < s.fit.links) (hpower : (s.worker w).powered 11 = true)
    (hlink : ((s.worker w).link j).up = true) :
    let r := (s.nextOnLink w j).received errs
    exec (.flitReceive (.link w j) cycle errs) s = .next ((s.flush w cycle).receiveLink w j (s.nextOnLink w j) r.1 r.2) :=
  if_pos (by simp [hup, hj, hpower, hlink])

theorem exec_flitReceive_port (hup : s.workerUp w = true) (hj : j < 4) (hpower : (s.worker w).powered (9 + j / 2) = true)
    (hloop : ((s.worker w).port j).loopback = false) :
    let sent := (s.circ c).wire.headD (s.portFiller c)
    let r := sent.received errs
    exec (.flitReceive (.port w j c) cycle errs) s = .next ((s.flush w cycle).receivePort w j c sent r.1 r.2) :=
  (if_pos (by simp [hup, hj, hpower])).trans (if_neg (by simp [hloop]))

theorem State.flush_fit (s : State) (w cycle : Nat) : (s.flush w cycle).fit = s.fit :=
  (State.works_flush (P := fun v => v = w) rfl s cycle).rest.fit

/-- Settles O46: a flit is refused or lands by what the decoder and the link's flows, or the port's live circuit, say of it; a credit by
the room in the window. That flits of a circuit in a hit are uncorrectable, and that a credit waits while its flit is in the receive
buffer, are the model's choices (log entries 120 and 121). -/
theorem flitsAndCredits : Obligations.FlitsAndCredits := by
  unfold Obligations.FlitsAndCredits
  intro s w j n c cycle errs hup
  dsimp only
  refine ⟨fun hj hpower hlink => ?link, fun hj hpower hloop => ?port, completes_creditDue, completes_creditDue_short⟩
  case link =>
    have hexec := exec_flitReceive_link (cycle := cycle) (errs := errs) hup hj hpower hlink
    have hp : (s.flush w cycle).fit.linkPeer w j = s.fit.linkPeer w j := by rw [State.flush_fit]
    have hne : (s.fit.linkPeer w j).1 ≠ w := Fit.linkPeer_ne (State.siteOk_of_workerUp hup) hj
    refine ⟨fun hsent herr hdata hflow hstarted hphys hlow hhigh => ⟨_, hexec, ?_⟩, fun herr => ⟨_, hexec, ?_⟩,
      fun hsent herr hother => ⟨_, hexec, ?_⟩⟩
    · exact State.receiveLink_landed hp hne hsent herr hdata hflow hstarted hphys hlow hhigh
    · rw [herr]; exact State.receiveLink_uncorrectable hp hne _ _
    · exact State.receiveLink_misrouted hp hne hsent herr hother
  case port =>
    have hexec := exec_flitReceive_port (c := c) (cycle := cycle) (errs := errs) hup hj hpower hloop
    exact ⟨fun hsent herr hhit hdata hrx hlive hstarted => ⟨_, hexec, State.receivePort_landed hsent herr hhit hdata hrx hlive hstarted⟩,
      fun hbad => ⟨_, hexec, State.receivePort_uncorrectable hbad w j _ _⟩⟩

end Sys2Proof.Machine
end

section
/-! SUPPORT. Events as the hubs record them (R337): what raising one leaves of the machine and of each hub. -/

namespace Sys2Proof.Machine

variable {s t : State} {k code : Nat} {fields : List (Nat × Nat × Nat)} {e v : EventRec}

/-- The record of an event that is raised now. -/
def State.eventNow (s : State) (code : Nat) (fields : List (Nat × Nat × Nat)) : EventRec :=
  { code := code, epoch := s.ktd.boundEpoch, time := s.ktd.boundT / 65536, frame := s.mgr.frame, payload := payload fields }

/-- Every fitted hub has an event that is raised in its queue. -/
theorem State.raise_hub (s : State) (code : Nat) (fields : List (Nat × Nat × Nat)) (k : Nat) : (s.raise code fields).hub k =
    if k < s.fit.sleds then { s.hub k with evq := insertEvent (s.eventNow code fields) (s.hub k).evq } else s.hub k := by
  have hput := s.forEach_hub (fun h => { h with evq := insertEvent (s.eventNow code fields) h.evq }) s.fit.sledList List.nodup_range k
  simp only [Fit.sledList, List.mem_range] at hput
  rw [← hput]
  unfold State.raise
  dsimp only
  split <;> rfl

/-- An event changes the hubs, the host side and the Scarab engine. -/
theorem State.raise_only (s : State) (code : Nat) (fields : List (Nat × Nat × Nat)) :
    let t := s.raise code fields
    t = { s with hubs := t.hubs, host := t.host, scb := t.scb } := by
  have hput (f : Hub → Hub) := s.forEach_updHub_onlyHubs s.fit.sledList f
  unfold State.raise
  dsimp only
  rw [hput]
  split <;> rfl

@[simp] theorem State.raise_worker (s : State) (code : Nat) (fields : List (Nat × Nat × Nat)) (w : Nat) :
    (s.raise code fields).worker w = s.worker w := by rw [State.raise_only]; rfl

@[simp] theorem State.raise_circ (s : State) (code : Nat) (fields : List (Nat × Nat × Nat)) (c : Nat) :
    (s.raise code fields).circ c = s.circ c := by rw [State.raise_only]; rfl

@[simp] theorem State.raise_lports (s : State) (code : Nat) (fields : List (Nat × Nat × Nat)) :
    (s.raise code fields).lports = s.lports := by rw [State.raise_only]

@[simp] theorem State.raise_fit (s : State) (code : Nat) (fields : List (Nat × Nat × Nat)) : (s.raise code fields).fit = s.fit := by
  rw [State.raise_only]

theorem mem_insertEvent_of_mem (e : EventRec) {l : List EventRec} (h : v ∈ l) : v ∈ insertEvent e l := by
  induction l with
  | nil => cases h
  | cons x l ih =>
    unfold insertEvent
    split
    · rcases List.mem_cons.mp h with rfl | hl
      · exact List.mem_cons_self
      · exact List.mem_cons_of_mem _ (ih hl)
    · exact List.mem_cons_of_mem _ h

/-- Events that a hub has recorded stay when another is raised. -/
theorem State.raise_evq (s : State) (code : Nat) (fields : List (Nat × Nat × Nat)) (k : Nat) : (s.hub k).evq ⊆ ((s.raise code fields).hub k).evq := by
  rw [State.raise_hub]
  split
  · exact fun _ h => mem_insertEvent_of_mem _ h
  · exact fun _ h => h

theorem State.eventNow_recorded (s : State) (code : Nat) (fields : List (Nat × Nat × Nat)) (hk : k < s.fit.sleds) :
    s.eventNow code fields ∈ ((s.raise code fields).hub k).evq := by
  rw [State.raise_hub, if_pos hk]
  exact mem_insertEvent _ _

end Sys2Proof.Machine
end

section
/-! SUPPORT. Tears and settlement of circuits (R208 to R210). -/

namespace Sys2Proof.Machine

variable {s : State} {c : Nat} {b : Bool} {z : Tear}

/-- The tear of a circuit as one end leaves it that applies it (R208, R209). -/
def Tear.applied (z : Tear) (b : Bool) (l : Nat) : Tear :=
  if b then { z with rxDone := true, rxLeft := l + 2 } else { z with txDone := true, txLeft := l }

/-- The port at an end of a circuit that applies its tear has let go of it. -/
theorem State.clearPort_lets_go (s : State) (c : Nat) (b : Bool) :
    let e := s.tornEnd c b
    if b then (((s.clearPort c b).worker e.1).port e.2).rx ≠ some c else (((s.clearPort c b).worker e.1).port e.2).tx ≠ some c := by
  dsimp only
  rw [State.clearPort, State.updPort_port_self]
  generalize (s.worker (s.tornEnd c b).1).port (s.tornEnd c b).2 = x
  cases b with
  | false => by_cases h : x.tx = some c <;> simp [h]
  | true => by_cases h : x.rx = some c <;> simp [h]

theorem completes_circuitTear (htear : (s.circ c).tear = some z) (hopen : (if b then z.rxDone else z.txDone) = false)
    (hframe : z.frame ≤ s.mgr.frame) : Completes (.circuitTear c b) s fun t =>
      (t.circ c).tear = some (z.applied b (settleFrames (s.circ c).flight)) ∧
      (let e := s.tornEnd c b
       if b then ((t.worker e.1).port e.2).rx ≠ some c else ((t.worker e.1).port e.2).tx ≠ some c) ∧
      (∀ d, d ≠ c → t.circ d = s.circ d) ∧ t = { s with workers := t.workers, circs := t.circs } := by
  have hexec : exec (.circuitTear c b) s = .next (s.applyTear c b) := by
    show execCircuitTear c b s = _
    unfold execCircuitTear
    rw [htear]
    dsimp only
    rw [hopen, if_neg (by simp [hframe])]
  refine ⟨_, hexec, ?_, s.clearPort_lets_go c b, fun d hd => State.updCirc_circ_ne _ _ hd, rfl⟩
  rw [State.applyTear, State.updCirc_circ_self]
  show (s.circ c).tear.map _ = _
  rw [htear, Option.map_some]
  cases b <;> rfl

theorem completes_settlement_tx (htear : (s.circ c).tear = some z) (hdone : z.txDone = true) (hopen : z.txSettled = false) (hleft : z.txLeft = 0)
    (hseam : s.inSeam (s.tornEnd c false).1 = true) : Completes (.settlement (.circuit c) false) s fun t =>
      t.circ c = { s.circ c with
        credit := (s.circ c).window, fly := 0, inRet := 0, wire := [], tear := some { z with txSettled := true } } ∧
      (∀ d, d ≠ c → t.circ d = s.circ d) ∧ t = { s with circs := t.circs } := by
  refine ⟨s.updCirc c fun x => { x with credit := x.window, fly := 0, inRet := 0, wire := [], tear := some { z with txSettled := true } },
    ?_, State.updCirc_circ_self _ _ _, fun d hd => State.updCirc_circ_ne _ _ hd, rfl⟩
  show execSettlement (.circuit c) false s = _
  simp [execSettlement, htear, hdone, hopen, hleft, hseam]

theorem completes_settlement_rx (htear : (s.circ c).tear = some z) (hdone : z.rxDone = true) (hopen : z.rxSettled = false) (hleft : z.rxLeft = 0)
    (hseam : s.inSeam (s.tornEnd c true).1 = true) : Completes (.settlement (.circuit c) true) s fun t =>
      t.circ c = { s.circ c with occ := 0, tear := some { z with rxSettled := true } } ∧
      (let p := s.tornEnd c true
       ((t.worker p.1).port p.2).occ = 0 ∧ ((t.worker p.1).port p.2).buf = []) ∧ t = { s with workers := t.workers, circs := t.circs } := by
  refine ⟨(s.updPort (s.tornEnd c true).1 (s.tornEnd c true).2 fun x => { x with occ := 0, buf := [] }).updCirc c fun x =>
      { x with occ := 0, tear := some { z with rxSettled := true } }, ?_, State.updCirc_circ_self _ _ _, ?_, rfl⟩
  · show execSettlement (.circuit c) true s = _
    simp [execSettlement, htear, hdone, hopen, hleft, hseam]
  · dsimp only
    rw [State.updCirc_worker, State.updPort_port_self]
    exact ⟨rfl, rfl⟩

/-- The fields of EV_CIRCUIT_TORN for a circuit (R210). -/
def State.tornFields (s : State) (c : Nat) (z : Tear) : List (Nat × Nat × Nat) :=
  [(0, 2, c), (2, 1, z.cause), (4, 4, z.frame % 2 ^ 32), (8, 4, (s.circ c).sent - (s.circ c).landed), (12, 4, (s.circ c).discard)]

/-- A circuit whose tear has been reported; one of no image is gone. -/
def Circ.reportTorn (x : Circ) (z : Tear) (kept : Bool) : Circ :=
  { x with
    sent := 0, landed := 0, discard := 0, tear := some { z with reported := true }, state := if x.state = 6 ∧ !kept then 0 else x.state }

/-- The machine once a circuit's tear has been reported. -/
def State.tearReported (s : State) (c : Nat) (z : Tear) : State :=
  let e := s.tornEnd c false
  let lost := (s.circ c).sent - (s.circ c).landed
  (((s.raise 0x0005 (s.tornFields c z)).updPort e.1 e.2 fun y => { y with lost := satAdd 0xFFFFFFFF y.lost lost }).updCirc c fun y =>
    y.reportTorn z (s.inImage c)).planInput

theorem completes_evCircuitTorn (htear : (s.circ c).tear = some z) (htx : z.txSettled = true) (hrx : z.rxSettled = true)
    (hopen : z.reported = false) : Completes (.evCircuitTorn (.circuit c)) s fun t =>
      let a := s.tornEnd c false
      (∀ k, k < s.fit.sleds → ∃ v ∈ (t.hub k).evq, v.code = 5 ∧ v.payload = payload [(0, 2, c), (2, 1, z.cause), (4, 4, z.frame % 2 ^ 32),
        (8, 4, (s.circ c).sent - (s.circ c).landed), (12, 4, (s.circ c).discard)]) ∧
      ((t.worker a.1).port a.2).lost = min 0xFFFFFFFF (((s.worker a.1).port a.2).lost + ((s.circ c).sent - (s.circ c).landed)) ∧
      (t.circ c).tear = some { z with reported := true } ∧ (t.circ c).sent = 0 ∧ (t.circ c).landed = 0 ∧ t.mem = s.mem := by
  have hexec : exec (.evCircuitTorn (.circuit c)) s = .next (s.tearReported c z) := by
    show execEvCircuitTorn (.circuit c) s = _
    unfold execEvCircuitTorn
    dsimp only
    rw [htear]
    dsimp only
    rw [if_pos (by simp [htx, hrx, hopen])]
    rfl
  have hhub (k : Nat) : (s.tearReported c z).hub k = (s.raise 5 (s.tornFields c z)).hub k := by
    rw [State.tearReported, State.planInput, State.updPlane_hub, State.updCirc_hub, State.updPort, State.updWorker_hub]
  have hcirc : (s.tearReported c z).circ c = (s.circ c).reportTorn z (s.inImage c) := by
    rw [State.tearReported, State.planInput, State.updPlane_circ, State.updCirc_circ_self, State.updPort, State.updWorker_circ, State.raise_circ]
  refine ⟨_, hexec, fun k hk => ⟨s.eventNow 5 (s.tornFields c z), ?_, rfl, rfl⟩, ?_, ?_, ?_, ?_, ?_⟩
  · rw [hhub]; exact s.eventNow_recorded 5 _ hk
  · rw [State.tearReported, State.planInput, State.updPlane_worker, State.updCirc_worker, State.updPort_port_self, State.raise_worker, satAdd]
  · rw [hcirc]; rfl
  · rw [hcirc]; rfl
  · rw [hcirc]; rfl
  · simp [State.tearReported]

end Sys2Proof.Machine
end

section
/-! SUPPORT. Board links that lose lock, settle, and train again (R209, R210, R212). -/

namespace Sys2Proof.Machine

variable {s : State} {w j k : Nat} {b : Bool} {p : Nat × Nat}

/-- An end of a board link that is torn at a boundary. -/
def Link.tornNow (x : Link) (cause frame : Nat) : Link :=
  { x with up := false, torn := true, cause := cause, tornAt := frame, settled := false, downFor := 0 }

/-- Both ends of a board link are torn (R212). -/
theorem State.tearLink_ends (s : State) (w j cause : Nat) :
    let p := s.fit.linkPeer w j
    let t := s.tearLink w j cause
    (((t.worker w).link j).up = false ∧ ((t.worker w).link j).torn = true ∧ ((t.worker w).link j).cause = cause) ∧
    (((t.worker p.1).link p.2).up = false ∧ ((t.worker p.1).link p.2).torn = true ∧ ((t.worker p.1).link p.2).cause = cause) := by
  have hends : s.tearLink w j cause = (s.updLink w j fun x => x.tornNow cause s.mgr.frame).updLink (s.fit.linkPeer w j).1
      (s.fit.linkPeer w j).2 fun x => x.tornNow cause s.mgr.frame := rfl
  dsimp only
  rw [hends, State.updLink_link_self]
  refine ⟨?_, rfl, rfl, rfl⟩
  rw [State.updLink_link, State.updLink_link_self]
  split <;> exact ⟨rfl, rfl, rfl⟩

theorem State.tearLink_onlyWorkers (s : State) (w j cause : Nat) : State.OnlyWorkers s (s.tearLink w j cause) := by
  unfold State.tearLink State.tearLinkEnd
  exact (s.updLink_onlyWorkers w j _).trans (State.updLink_onlyWorkers _ _ _ _)

theorem completes_laneLockLoss (hup : s.workerUp w = true) (hj : j < s.fit.links) (hlink : ((s.worker w).link j).up = true) :
    Completes (.laneLockLoss w j) s fun t =>
      let p := s.fit.linkPeer w j
      ((t.worker w).link j).up = false ∧ ((t.worker w).link j).torn = true ∧ ((t.worker w).link j).cause = 7 ∧
      ((t.worker p.1).link p.2).up = false ∧ ((t.worker p.1).link p.2).torn = true ∧ ((t.worker p.1).link p.2).cause = 7 ∧
      (∀ g ∈ s.linkUsers w j, s.groupRuns g = true → sledOf w ∈ (t.group g).sledsStopped) ∧
      t = { s with workers := t.workers, groups := t.groups } := by
  obtain ⟨⟨hdown, htorn, hcause⟩, hdown', htorn', hcause'⟩ := s.tearLink_ends w j 7
  have honly := s.tearLink_onlyWorkers w j 7
  refine ⟨(s.tearLink w j 7).localTriggers (sledOf w) (s.linkUsers w j) 3, if_pos (by simp [hup, hj, hlink]), ?_⟩
  dsimp only
  have hruns (g : Nat) : (s.tearLink w j 7).groupRuns g = s.groupRuns g := by rw [honly]; rfl
  have hgroups (g : Nat) (hg : g ∈ s.linkUsers w j) (h : s.groupRuns g = true) :
      sledOf w ∈ (((s.tearLink w j 7).localTriggers (sledOf w) (s.linkUsers w j) 3).group g).sledsStopped :=
    State.localTriggers_stops hg ((hruns g).trans h)
  refine ⟨?_, ?_, ?_, ?_, ?_, ?_, hgroups, ?_⟩ <;> rw [State.localTriggers_onlyGroups]
  exacts [hdown, htorn, hcause, hdown', htorn', hcause', by rw [honly]]

theorem completes_settlement_link :
    let e := if b then s.fit.linkPeer w j else (w, j)
    let y := (s.worker e.1).link e.2
    y.torn = true → y.settled = false → s.inSeam e.1 = true → Completes (.settlement (.link w j) b) s fun t =>
      (t.worker e.1).link e.2 =
        { y with credit := 128, fly := 0, occ := 0, inRet := 0, owed := 0, wire := [], buf := [], settled := true } ∧
      (∀ v, v ≠ e.1 → t.worker v = s.worker v) ∧ t = { s with workers := t.workers } := by
  intro e y htorn hopen hseam
  refine ⟨s.updLink e.1 e.2 fun y => { y with credit := 128, fly := 0, occ := 0, inRet := 0, owed := 0, wire := [], buf := [], settled := true },
    if_pos ?_, State.updLink_link_self _ _ _ _, fun v hv => State.updWorker_worker_ne _ _ hv, rfl⟩
  simp only [Bool.and_eq_true, Bool.not_eq_true']
  exact ⟨⟨htorn, hopen⟩, hseam⟩

/-- EV_CIRCUIT_TORN is raised for each flow of a list. -/
theorem State.foldl_raiseFlowTorn (s : State) (w j : Nat) (fs : List FlowDef) :
    let t := fs.foldl (fun st f => st.raiseFlowTorn w j f) s
    t.mem = s.mem ∧ t.fit = s.fit ∧ (∀ k, (s.hub k).evq ⊆ (t.hub k).evq) ∧
      ∀ f ∈ fs, ∀ k, k < s.fit.sleds → ∃ v ∈ (t.hub k).evq, v.code = 5 := by
  induction fs generalizing s with
  | nil => exact ⟨rfl, rfl, fun _ _ h => h, fun _ h => absurd h List.not_mem_nil⟩
  | cons f fs ih =>
    obtain ⟨hmem, hfit, hkept, hraised⟩ := ih (s.raiseFlowTorn w j f)
    have hfitf : (s.raiseFlowTorn w j f).fit = s.fit := State.raise_fit _ _ _
    refine ⟨hmem.trans (State.raiseFlowTorn_mem s w j f), hfit.trans hfitf, fun k v hv => hkept k (s.raise_evq _ _ k hv),
      fun g hg k hk => ?_⟩
    rcases List.mem_cons.mp hg with rfl | hmem
    · obtain ⟨v, hv, hcode⟩ : ∃ v ∈ ((s.raiseFlowTorn w j g).hub k).evq, v.code = 5 := s.raise_records 5 _ hk
      exact ⟨v, hkept k hv, hcode⟩
    · exact hraised g hmem k (hfitf ▸ hk)

theorem completes_evCircuitTorn_link (htorn : ((s.worker w).link j).torn = true) (hset : ((s.worker w).link j).settled = true)
    (htorn' : ((s.worker (s.fit.linkPeer w j).1).link (s.fit.linkPeer w j).2).torn = true)
    (hset' : ((s.worker (s.fit.linkPeer w j).1).link (s.fit.linkPeer w j).2).settled = true) :
    Completes (.evCircuitTorn (.link w j)) s fun t =>
      let p := s.fit.linkPeer w j
      ((t.worker w).link j).torn = false ∧ ((t.worker p.1).link p.2).torn = false ∧ t.mem = s.mem ∧
      ∀ f ∈ s.flowsOf w j, ∀ k, k < s.fit.sleds → ∃ v ∈ (t.hub k).evq, v.code = 5 := by
  obtain ⟨hmem, -, -, hraised⟩ := s.foldl_raiseFlowTorn w j (s.flowsOf w j)
  refine ⟨_, if_pos (by simp [htorn, hset, htorn', hset']), ?_, ?_, hmem, hraised⟩
  · rw [State.updLink_link, State.updLink_link_self]
    split <;> rfl
  · rw [State.updLink_link_self]

theorem completes_boardLinkRetrained (hup : s.workerUp w = true) (hj : j < s.fit.links) (hup' : s.workerUp (s.fit.linkPeer w j).1 = true)
    (hdown : ((s.worker w).link j).up = false) (hset : ((s.worker w).link j).settled = true)
    (hset' : ((s.worker (s.fit.linkPeer w j).1).link (s.fit.linkPeer w j).2).settled = true) (hpower : (s.worker w).powered 11 = true)
    (hpower' : (s.worker (s.fit.linkPeer w j).1).powered 11 = true) : Completes (.boardLinkRetrained w j) s fun t =>
      let p := s.fit.linkPeer w j
      ((t.worker w).link j).up = true ∧ ((t.worker p.1).link p.2).up = true ∧ t = { s with workers := t.workers } := by
  refine ⟨_, if_pos (by simp [hup, hj, hup', hdown, hset, hset', hpower, hpower']), ?_, ?_,
    (s.updLink_onlyWorkers w j _).trans (State.updLink_onlyWorkers _ _ _ _)⟩
  · rw [State.updLink_link, State.updLink_link_self]
    split <;> rfl
  · rw [State.updLink_link_self]

theorem completes_linkRetrainTimeout (hup : s.workerUp w = true) (hj : j < s.fit.links) (hup' : s.workerUp (s.fit.linkPeer w j).1 = true)
    (hdown : ((s.worker w).link j).up = false) (hcause : ((s.worker w).link j).cause = 7) (hlate : 64 ≤ ((s.worker w).link j).downFor) :
    Completes (.linkRetrainTimeout w j) s fun t =>
      let p := s.fit.linkPeer w j
      t.workerUp (if s.fit.siteIndex (siteOf w) < s.fit.siteIndex (siteOf p.1) then p.1 else w) = false ∧ t.mem = s.mem :=
  ⟨_, if_pos (by simp [hup, hj, hup', hdown, hcause, hlate]), s.declareFailed_down_self _, s.declareFailed_mem _⟩

end Sys2Proof.Machine
end

section
/-! The obligation about circuits and board links that are torn, settled and retrained. -/

namespace Sys2Proof.Machine

/-- Settles O47: a circuit end by end, from the tear it applies to the event of both; a board link at its two ends. -/
theorem wiresAreTorn : Obligations.WiresAreTorn := by
  unfold Obligations.WiresAreTorn
  refine ⟨fun s c b z htear => ⟨fun hopen hframe => ?tear, completes_settlement_tx htear, completes_settlement_rx htear,
    completes_evCircuitTorn htear⟩, fun s w j b hup hj => ⟨completes_laneLockLoss hup hj, completes_settlement_link,
    completes_evCircuitTorn_link, completes_boardLinkRetrained hup hj, fun hup' => completes_linkRetrainTimeout hup hj hup'⟩⟩
  case tear =>
    obtain ⟨t, hexec, happlied, hport, hothers, honly⟩ := completes_circuitTear htear hopen hframe
    refine ⟨t, hexec, ?_, hport, hothers, honly⟩
    rw [happlied]
    cases b <;> rfl

end Sys2Proof.Machine
end

section
/-! SUPPORT. Ranging of circuits (R215, R216), and circuits that become usable or fail (R205, R217, R243). -/

namespace Sys2Proof.Machine

variable {s u : State} {c start stop loss : Nat}

/-! ## Samples -/

/-- A circuit whose sender has emitted the MARKER of a sample in a frame. -/
def Circ.marked (x : Circ) (c frame : Nat) : Circ :=
  { x with sampledAt := frame + 1, wire := x.wire ++ [markerFlit c (x.samples.length + x.retakes)] }

/-- The flight time of a circuit follows once it has four samples; of the circuit nothing else changes (R215). -/
theorem State.rangeDone_keeps (u : State) (c : Nat) :
    let t := u.rangeDone c
    (t.circ c).samples = (u.circ c).samples ∧ (t.circ c).sampledAt = (u.circ c).sampledAt ∧ (t.circ c).wire = (u.circ c).wire ∧
    (∀ d, d ≠ c → t.circ d = u.circ d) ∧ t = { u with circs := t.circs } := by
  unfold State.rangeDone
  dsimp only
  split
  · exact ⟨rfl, rfl, rfl, fun _ _ => rfl, rfl⟩
  · split <;> exact ⟨by rw [State.updCirc_circ_self], by rw [State.updCirc_circ_self], by rw [State.updCirc_circ_self],
      fun _ hd => State.updCirc_circ_ne _ _ hd, rfl⟩

theorem State.rangeDone_of_few (h : (u.circ c).samples.length < 4) : u.rangeDone c = u := if_pos h

theorem State.rangeDone_of_four (h : ¬(u.circ c).samples.length < 4) (hsrc : (u.lport (u.circ c).src).legValid = true)
    (hdst : (u.lport (u.circ c).dst).legValid = true) :
    let f := (u.lport (u.circ c).src).leg + (u.circ c).samples.foldl max 0 + (u.lport (u.circ c).dst).leg
    ((u.rangeDone c).circ c).flight = f % 2 ^ 23 ∧ ((u.rangeDone c).circ c).rejected = decide ((u.circ c).budget < f) := by
  unfold State.rangeDone
  dsimp only
  rw [if_neg h, if_neg (by simp [hsrc, hdst]), State.updCirc_circ_self]
  exact ⟨rfl, rfl⟩

/-- A circuit that is being set up takes a sample in a frame: it is not rejected, has fewer than four, and has taken none in this frame. -/
structure State.TakesSample (s : State) (c : Nat) : Prop where
  state : (s.circ c).state = 1
  sound : (s.circ c).rejected = false
  few : (s.circ c).samples.length < 4
  due : (s.circ c).setupAt + 12 ≤ s.mgr.frame
  fresh : (s.circ c).sampledAt ≤ s.mgr.frame

theorem State.TakesSample.exec_eq (h : s.TakesSample c) (start stop : Nat) : exec (.rangingSample c start stop) s =
    match sampleOf start stop with
    | .val n => .next (((s.updCirc c fun z => z.marked c s.mgr.frame).updCirc c fun z => { z with samples := z.samples ++ [n] }).rangeDone c)
    | _ =>
      if (s.circ c).retakes < 3 then .next ((s.updCirc c fun z => z.marked c s.mgr.frame).updCirc c fun z => { z with retakes := z.retakes + 1 })
      else .next ((s.updCirc c fun z => z.marked c s.mgr.frame).updCirc c fun z => { z with rejected := true, flightSt := 3 }) := by
  show execRangingSample c start stop s = _
  unfold execRangingSample
  dsimp only
  rw [if_pos ⟨.inl h.state, by simp [h.sound], h.few, h.due, h.fresh⟩]
  rfl

/-- A sample of at least one resolution step is kept; with the fourth the flight time is known (R215). -/
theorem State.TakesSample.kept (h : s.TakesSample c) (hstep : start + 1024 ≤ stop) : Completes (.rangingSample c start stop) s fun t =>
    let x := s.circ c
    let n := (stop - start) / 1024
    let f := (s.lport x.src).leg + (x.samples ++ [n]).foldl max 0 + (s.lport x.dst).leg
    ((t.circ c).samples = x.samples ++ [n] ∧ (t.circ c).sampledAt = s.mgr.frame + 1 ∧ (t.circ c).wire = (x.marked c s.mgr.frame).wire ∧
      (x.samples.length < 3 → t.circ c = { x.marked c s.mgr.frame with samples := x.samples ++ [n] }) ∧
      (x.samples.length = 3 → (s.lport x.src).legValid = true → (s.lport x.dst).legValid = true →
        (t.circ c).flight = f % 2 ^ 23 ∧ (t.circ c).rejected = decide (x.budget < f))) ∧
    (∀ d, d ≠ c → t.circ d = s.circ d) ∧ t = { s with circs := t.circs } := by
  have hval : sampleOf start stop = .val ((stop - start) / 1024) := by
    rw [sampleOf, if_neg (by omega), if_neg (by rw [tapSteps]; omega)]; rfl
  have hexec : exec (.rangingSample c start stop) s = .next (((s.updCirc c fun z => z.marked c s.mgr.frame).updCirc c
      fun z => { z with samples := z.samples ++ [(stop - start) / 1024] }).rangeDone c) := by rw [h.exec_eq, hval]
  generalize hu : (s.updCirc c fun z => z.marked c s.mgr.frame).updCirc c (fun z => { z with samples := z.samples ++ [(stop - start) / 1024] }) = u
    at hexec
  have hcirc : u.circ c = { (s.circ c).marked c s.mgr.frame with samples := (s.circ c).samples ++ [(stop - start) / 1024] } := by
    rw [← hu, State.updCirc_circ_self, State.updCirc_circ_self]; rfl
  have hothers (d : Nat) (hd : d ≠ c) : u.circ d = s.circ d := by rw [← hu, State.updCirc_circ_ne _ _ hd, State.updCirc_circ_ne _ _ hd]
  have honly : u = { s with circs := u.circs } := by rw [← hu]; rfl
  have hlport (q : Nat) : u.lport q = s.lport q := by rw [honly]; rfl
  obtain ⟨hsamples, hat, hwire, hne, hcircs⟩ := u.rangeDone_keeps c
  refine ⟨_, hexec, ⟨?_, ?_, ?_, fun hfew => ?_, fun hthree hsrc hdst => ?_⟩, fun d hd => (hne d hd).trans (hothers d hd), ?_⟩
  · rw [hsamples, hcirc]
  · rw [hat, hcirc]; rfl
  · rw [hwire, hcirc]
  · rw [State.rangeDone_of_few (by rw [hcirc]; simpa using by omega), hcirc]
  · have hfour := State.rangeDone_of_four (u := u) (c := c) (by rw [hcirc]; simpa using by omega) (by rw [hcirc, hlport]; exact hsrc)
      (by rw [hcirc, hlport]; exact hdst)
    rw [hcirc, hlport, hlport] at hfour
    exact hfour
  · rw [hcircs, honly]

/-- A flagged sample is taken again; the fourth such rejects the circuit (R216). -/
theorem State.TakesSample.flagged (h : s.TakesSample c) (hshort : stop < start + 1024) : Completes (.rangingSample c start stop) s fun t =>
    (t.circ c = if (s.circ c).retakes < 3 then { (s.circ c).marked c s.mgr.frame with retakes := (s.circ c).retakes + 1 }
      else { (s.circ c).marked c s.mgr.frame with rejected := true, flightSt := 3 }) ∧
    (∀ d, d ≠ c → t.circ d = s.circ d) ∧ t = { s with circs := t.circs } := by
  have hexec : exec (.rangingSample c start stop) s = if (s.circ c).retakes < 3
      then .next ((s.updCirc c fun z => z.marked c s.mgr.frame).updCirc c fun z => { z with retakes := z.retakes + 1 })
      else .next ((s.updCirc c fun z => z.marked c s.mgr.frame).updCirc c fun z => { z with rejected := true, flightSt := 3 }) := by
    rw [h.exec_eq]
    unfold sampleOf tapSteps
    split
    next n hn => split at hn <;> [cases hn; (split at hn <;> [cases hn; omega])]
    next => rfl
  have hothers (f : Circ → Circ) (d : Nat) (hd : d ≠ c) : ((s.updCirc c fun z => z.marked c s.mgr.frame).updCirc c f).circ d = s.circ d := by
    rw [State.updCirc_circ_ne _ _ hd, State.updCirc_circ_ne _ _ hd]
  split at hexec
  next hagain =>
    refine ⟨_, hexec, ?_, hothers _, rfl⟩
    rw [if_pos hagain, State.updCirc_circ_self, State.updCirc_circ_self]; rfl
  next hlast =>
    refine ⟨_, hexec, ?_, hothers _, rfl⟩
    rw [if_neg hlast, State.updCirc_circ_self, State.updCirc_circ_self]

/-! ## Usable circuits -/

/-- A circuit that becomes usable in a frame, with its window and its books (R205, R243). -/
def Circ.makeUsable (y : Circ) (loss frame : Nat) : Circ :=
  { y with
    state := 2, window := windowOf y.flight, credit := windowOf y.flight, fly := 0, occ := 0, inRet := 0, sent := 0, landed := 0
    discard := 0, wire := [], tear := none, loss := loss, usableAt := frame, lockT := 0, wasLocked := false, tx7 := false, rx7 := false }

theorem State.setLat_port (s : State) (g w p : Nat) : ((s.setLat g).worker w).port p = (s.worker w).port p :=
  foldl_keeps (fun st => (st.worker w).port p) _ (fun st v => State.updWorker_keeps (fun x => x.port p) (by exact fun _ => rfl) st v w) _ _

/-- The ports at the two ends of a circuit that becomes usable carry it. -/
def State.wirePorts (s : State) (c : Nat) (a b : Nat × Nat) : State :=
  (s.updPort a.1 a.2 fun x => { x with tx := some c }).updPort b.1 b.2 fun x => { x with rx := some c }

theorem State.wirePorts_ports (s : State) (c : Nat) (a b : Nat × Nat) :
    (((s.wirePorts c a b).worker a.1).port a.2).tx = some c ∧ (((s.wirePorts c a b).worker b.1).port b.2).rx = some c := by
  rw [State.wirePorts, State.updPort_port_self]
  refine ⟨?_, rfl⟩
  rw [State.updPort_port, State.updPort_port_self]
  split
  next h => rw [← h.1, ← h.2, State.updPort_port_self]
  next => rfl

/-- Beside its circuit and its ports, a circuit that becomes usable has L of its groups computed, and the planner sees it. -/
theorem State.makeUsable_beside (s : State) (c loss : Nat) :
    let u := (s.updCirc c fun y => y.makeUsable loss s.mgr.frame).wirePorts c (s.circEnd c false) (s.circEnd c true)
    (s.makeUsable c loss).circs = u.circs ∧ ∀ w p, ((s.makeUsable c loss).worker w).port p = (u.worker w).port p := by
  intro u
  have heq : s.makeUsable c loss = (if (s.circ c).barrier then u.forEach (s.circGroups c) fun st g => st.setLat g else u).planInput := rfl
  rw [heq]
  refine ⟨?_, fun w p => ?_⟩
  · rw [State.planInput, State.updPlane_circs]
    split
    · exact foldl_keeps State.circs _ (fun st g => st.setLat_circs g) _ u
    · rfl
  · rw [State.planInput, State.updPlane_worker]
    split
    · exact foldl_keeps (fun st => (st.worker w).port p) _ (fun st g => st.setLat_port g w p) _ u
    · rfl

theorem State.makeUsable_circ (s : State) (c loss d : Nat) : (s.makeUsable c loss).circ d =
    if d = c then (s.circ c).makeUsable loss s.mgr.frame else s.circ d := by
  have hcircs : (s.makeUsable c loss).circs = (s.updCirc c fun y => y.makeUsable loss s.mgr.frame).circs := (s.makeUsable_beside c loss).1
  rw [State.circ, hcircs, ← State.circ, State.updCirc_circ]

/-- A circuit that is not given up, on L-ports that are confirmed, fits. -/
def State.circFits (s : State) (c : Nat) : Prop :=
  (s.circ c).rejected = false ∧ s.lportConfirmed (s.circ c).src = true ∧ s.lportConfirmed (s.circ c).dst = true

theorem completes_circuitUsable (hstate : (s.circ c).state = 1) (hfits : s.circFits c)
    (hranged : (s.circ c).samples.length = 4 ∧ (s.circ c).setupAt + 16 + (s.circ c).retakes ≤ s.mgr.frame)
    (hloss : loss ≤ 400 + 100 * (s.circ c).qclass) (hsrc : s.unsettledOn c (s.circ c).src false = false)
    (hdst : s.unsettledOn c (s.circ c).dst true = false) : Completes (.circuitUsable c loss) s fun t =>
      (t.circ c).state = 2 ∧ (t.circ c).window = windowOf (s.circ c).flight ∧ (t.circ c).credit = windowOf (s.circ c).flight ∧
      (t.circ c).loss = loss ∧ ((t.worker (s.circEnd c false).1).port (s.circEnd c false).2).tx = some c ∧
      ((t.worker (s.circEnd c true).1).port (s.circEnd c true).2).rx = some c ∧ ∀ d, d ≠ c → t.circ d = s.circ d := by
  obtain ⟨hsound, hconf, hconf'⟩ := hfits
  obtain ⟨hfour, hframe⟩ := hranged
  have hexec : exec (.circuitUsable c loss) s = .next (s.makeUsable c loss) := by
    show execCircuitUsable c loss s = _
    simp [execCircuitUsable, usableLimit, hstate, hsound, hconf, hconf', hfour, hframe, hloss, hsrc, hdst]
  have hports := (s.makeUsable_beside c loss).2
  have hcirc : (s.makeUsable c loss).circ c = _ := (s.makeUsable_circ c loss c).trans (if_pos rfl)
  obtain ⟨htx, hrx⟩ := State.wirePorts_ports (s.updCirc c fun y => y.makeUsable loss s.mgr.frame) c (s.circEnd c false) (s.circEnd c true)
  refine ⟨_, hexec, ?_, ?_, ?_, ?_, ?_, ?_, fun d hd => (s.makeUsable_circ c loss d).trans (if_neg hd)⟩
  · rw [hcirc]; rfl
  · rw [hcirc]; rfl
  · rw [hcirc]; rfl
  · rw [hcirc]; rfl
  · rw [hports]; exact htx
  · rw [hports]; exact hrx

/-! ## Circuits that fail -/

theorem State.downCircuit_circ (s : State) (c d : Nat) : (s.downCircuit c).circ d = if d = c then { s.circ c with state := 5 } else s.circ d := by
  have hcircs : (s.downCircuit c).circs = (s.updCirc c fun x => { x with state := 5 }).circs := congrArg Prod.snd (s.downCircuit_wirings c)
  rw [State.circ, hcircs, ← State.circ, State.updCirc_circ]

/-- A circuit that does not fit, or has not met its limit by its deadline, is DOWN (R217). -/
theorem completes_circuitUsable_down (hstate : (s.circ c).state = 1)
    (h : ¬s.circFits c ∨ (400 + 100 * (s.circ c).qclass < loss ∧ (s.circ c).due ≤ s.mgr.frame)) : Completes (.circuitUsable c loss) s fun t =>
      (t.circ c).state = 5 ∧ (∀ d, d ≠ c → t.circ d = s.circ d) ∧ t.mem = s.mem := by
  have hone : (s.circ c).state ≠ 7 := by omega
  by_cases hfits : s.circFits c
  · obtain ⟨hlossy, hdue⟩ := h.resolve_left fun hn => hn hfits
    obtain ⟨hsound, hconf, hconf'⟩ := hfits
    have hexec : exec (.circuitUsable c loss) s = .next ((s.updCirc c fun y => { y with loss := loss }).downCircuit c) := by
      show execCircuitUsable c loss s = _
      simp [execCircuitUsable, usableLimit, hstate, hsound, hconf, hconf', hdue, Nat.not_le.mpr hlossy]
    refine ⟨_, hexec, ?_, fun d hd => ?_, State.downCircuit_mem _ _⟩
    · rw [State.downCircuit_circ, if_pos rfl]
    · rw [State.downCircuit_circ, if_neg hd, State.updCirc_circ_ne _ _ hd]
  · have hexec : exec (.circuitUsable c loss) s = .next (s.downCircuit c) := by
      have hbool : (!(s.circ c).rejected && s.lportConfirmed (s.circ c).src && s.lportConfirmed (s.circ c).dst) = false := by
        simpa [State.circFits, and_assoc] using hfits
      show execCircuitUsable c loss s = _
      unfold execCircuitUsable
      dsimp only
      rw [if_neg (by simp [hone]), if_pos hstate, hbool]
      rfl
    refine ⟨_, hexec, ?_, fun d hd => ?_, State.downCircuit_mem _ _⟩
    · rw [State.downCircuit_circ, if_pos rfl]
    · rw [State.downCircuit_circ, if_neg hd]

end Sys2Proof.Machine
end

section
/-! The obligation about circuits that are ranged and made usable. -/

namespace Sys2Proof.Machine

/-- Settles O48: a sample by whether it is flagged, and a boundary by whether the circuit fits and meets its limit. That a sample of less than
1/64 c after its start is SUBRES, counted in steps of 1/65,536 c, is the model's reading (log entry 122). -/
theorem circuitsAreRanged : Obligations.CircuitsAreRanged := by
  unfold Obligations.CircuitsAreRanged
  intro s c start stop loss hstate
  dsimp only
  refine ⟨fun hsound hfew hdue hfresh => ?sample, completes_circuitUsable hstate, completes_circuitUsable_down hstate⟩
  case sample =>
    have h : s.TakesSample c := ⟨hstate, hsound, hfew, hdue, hfresh⟩
    rcases Nat.lt_or_ge stop (start + 1024) with hshort | hstep
    · obtain ⟨t, hexec, hcirc, hrest⟩ := h.flagged hshort
      exact ⟨t, hexec, fun hstep => absurd hshort (by omega), fun _ => hcirc, hrest⟩
    · obtain ⟨t, hexec, hkept, hrest⟩ := h.kept hstep
      exact ⟨t, hexec, fun _ => hkept, fun hshort => absurd hshort (by omega), hrest⟩

end Sys2Proof.Machine
end

section
/-! SUPPORT. L-ports that a pass, a leg group or a one-port check goes through (R213, R219 to R223). -/

namespace Sys2Proof.Machine

variable {α : Type} {s : State} {q k i : Nat} {l : List Finding} {meas : List LegMeas} {qs : List Nat}

theorem State.arrive_fit (s : State) (e n mc : Nat) : (s.arrive e n mc).fit = s.fit := rfl

theorem State.arrive_lports (s : State) (e n mc : Nat) : (s.arrive e n mc).lports = s.lports := rfl

theorem State.arrive_lport (s : State) (e n mc q : Nat) : (s.arrive e n mc).lport q = s.lport q :=
  rfl

/-! ## Steps that each change one L-port -/

/-- Steps that change one L-port each leave the L-ports of no step. -/
theorem foldl_lport_of_notMem {f : State → α → State} {key : α → Nat} (hne : ∀ st a k, k ≠ key a → (f st a).lport k = st.lport k) {as : List α}
    (hk : k ∉ as.map key) (s : State) : (as.foldl f s).lport k = s.lport k := by
  induction as generalizing s with
  | nil => rfl
  | cons a as ih =>
    obtain ⟨hka, hkas⟩ := not_or.mp fun h => hk (List.mem_cons.mpr h)
    exact (ih hkas (f s a)).trans (hne s a k hka)

/-- Of steps that change one L-port each, all different, what one gives its L-port stands at the end. -/
theorem foldl_lport_of_mem {f : State → α → State} {key : α → Nat} {P : LPort → Prop} {I : State → Prop} {a : α}
    (hne : ∀ st b k, k ≠ key b → (f st b).lport k = st.lport k) (hkeep : ∀ st b, I st → I (f st b))
    (hself : ∀ st, I st → P ((f st a).lport (key a))) {as : List α} (hnodup : (as.map key).Nodup) (ha : a ∈ as) (hI : I s) :
    P ((as.foldl f s).lport (key a)) := by
  induction as generalizing s with
  | nil => exact absurd ha List.not_mem_nil
  | cons b as ih =>
    obtain ⟨hb, hrest⟩ := List.nodup_cons.mp hnodup
    rcases List.mem_cons.mp ha with rfl | hmem
    · rw [List.foldl_cons, foldl_lport_of_notMem hne hb]
      exact hself s hI
    · exact ih hrest hmem (hkeep s b hI)

/-! ## Results (Table 9.6) -/

/-- An L-port with its result recorded in `CRK.PORTMAP_q` (R220). -/
def LPort.recorded (p : LPort) (result : Nat) (a : Finding) (adopted : Bool) : LPort :=
  { p with result := result, txFound := a.tx, rxFound := a.rx, searched := true, adopted := adopted, legValid := false, leg := 0 }

theorem State.putResult_lport (s : State) (q result : Nat) (l : List Finding) (k : Nat) : (s.putResult q result l).lport k =
    if k = q then (s.lport q).recorded result (findingOf l q) (result == 2 && s.adopts) else s.lport k := State.updLPort_lport _ _ _ _

theorem State.raiseCabling_lports (s : State) (q result repeats : Nat) (l : List Finding) : (s.raiseCabling q result repeats l).lports = s.lports := by
  unfold State.raiseCabling
  (repeat' split) <;> simp only [State.raise_lports]

theorem State.recordResult_lport (s : State) (q result repeats : Nat) (l : List Finding) (k : Nat) :
    (s.recordResult q result repeats l).lport k =
      if k = q then (s.lport q).recorded result (findingOf l q) (result == 2 && s.adopts) else s.lport k := by
  rw [State.recordResult, State.lport, State.raiseCabling_lports, ← State.lport, State.putResult_lport]

theorem State.searchResult_lport (s : State) (q result : Nat) (l : List Finding) (k : Nat) : (s.searchResult q result l).lport k =
    if k = q then (s.lport q).recorded result (findingOf l q) (result == 2 && s.adopts) else s.lport k := by
  unfold State.searchResult
  split
  · exact s.putResult_lport q result l k
  · exact s.recordResult_lport q result 0 l k

/-- Another L-port whose class a check has changed has its new one recorded (R220). -/
def State.recordOther (l : List Finding) (s : State) (o : Nat × Nat) : State :=
  if o.2 = 2 then s.putResult o.1 2 l else s.recordResult o.1 o.2 0 l

theorem State.recordOther_lport (s : State) (l : List Finding) (o : Nat × Nat) (k : Nat) : (s.recordOther l o).lport k =
    if k = o.1 then (s.lport o.1).recorded o.2 (findingOf l o.1) (o.2 == 2 && s.adopts) else s.lport k := by
  unfold State.recordOther
  split
  next h => rw [h]; exact s.putResult_lport o.1 2 l k
  next => exact s.recordResult_lport o.1 o.2 0 l k

/-! ## Legs -/

/-- The leg that a measurement gives, with the reflector's constant (R213, R214). -/
def legOf (m : LegMeas) (const : Nat) : Option Nat :=
  (roundTripOf m).bind fun rt =>
    if m.seg1 + m.seg2 + const ≤ rt ∧ (rt - (m.seg1 + m.seg2 + const)) / 2 ≤ 65535 then some ((rt - (m.seg1 + m.seg2 + const)) / 2) else none

/-- An L-port with the leg that was measured, if one was. -/
def LPort.withLeg (p : LPort) (leg : Option Nat) : LPort := { p with legValid := leg.isSome, leg := leg.getD 0 }

/-- An L-port of a group, measured through its reflector, where it was measured. -/
def State.recordLegAt (meas : List LegMeas) (s : State) (e : Nat × Nat) : State :=
  match meas.find? fun m => m.q == e.1 with
  | some m => s.recordLeg m e.2
  | none => s

theorem State.recordLegAt_lport (s : State) (meas : List LegMeas) (e : Nat × Nat) (k : Nat) : (s.recordLegAt meas e).lport k =
    match meas.find? fun m => m.q == e.1 with
    | some m => if k = e.1 then (s.lport k).withLeg (legOf m (s.reflectorConst e.2)) else s.lport k
    | none => s.lport k := by
  unfold State.recordLegAt
  split
  next m hm =>
    have hq : m.q = e.1 := by simpa using List.find?_some hm
    have hset : (s.recordLeg m e.2).lport k = if k = m.q then (s.lport m.q).withLeg (legOf m (s.reflectorConst e.2)) else s.lport k :=
      State.updLPort_lport _ _ _ _
    rw [hset, hq]
    split
    next h => rw [h]
    next => rfl
  next => rfl

theorem State.recordLegAt_ne (s : State) (meas : List LegMeas) (e : Nat × Nat) {k : Nat} (h : k ≠ e.1) :
    (s.recordLegAt meas e).lport k = s.lport k := by
  rw [State.recordLegAt_lport]
  split
  · exact if_neg h
  · rfl

theorem State.recordLegAt_reflectorConst (s : State) (meas : List LegMeas) (e : Nat × Nat) (i : Nat) :
    (s.recordLegAt meas e).reflectorConst i = s.reflectorConst i := by
  unfold State.recordLegAt
  split <;> rfl

/-- What an L-port holds beside its leg. -/
def LPort.sansLeg (p : LPort) : LPort := { p with legValid := false, leg := 0 }

/-- Legs that are recorded leave everything else of every L-port. -/
theorem State.recordLegs_sansLeg (s : State) (meas : List LegMeas) (qs : List Nat) (k : Nat) :
    ((s.recordLegs meas qs).lport k).sansLeg = (s.lport k).sansLeg :=
  foldl_keeps (fun st => (st.lport k).sansLeg) (fun st e => st.recordLegAt meas e) (fun st e => by
    rw [State.recordLegAt_lport]
    split
    · split <;> rfl
    · rfl) qs.zipIdx s

/-- The i-th L-port of a group gets the leg of its measurement through the i-th reflector (R213, R214). -/
theorem State.recordLegs_leg {z : LegMeas} (hnodup : qs.Nodup) (hq : qs[i]? = some q) (hz : meas.find? (fun m => m.q == q) = some z) :
    ∃ p : LPort, (s.recordLegs meas qs).lport q = p.withLeg (legOf z (s.reflectorConst i)) :=
  foldl_lport_of_mem (f := fun st e => st.recordLegAt meas e) (key := Prod.fst) (I := fun st => st.reflectorConst i = s.reflectorConst i)
    (P := fun x => ∃ p : LPort, x = p.withLeg (legOf z (s.reflectorConst i))) (a := (q, i))
    (fun st e k hk => st.recordLegAt_ne meas e hk) (fun st e h => (st.recordLegAt_reflectorConst meas e i).trans h)
    (fun st h => ⟨st.lport q, by
      rw [State.recordLegAt_lport]
      dsimp only
      rw [hz, h]
      exact if_pos rfl⟩)
    (by rwa [List.zipIdx_map_fst]) (List.mk_mem_zipIdx_iff_getElem?.mpr hq) rfl

end Sys2Proof.Machine
end

section
/-! SUPPORT. The cabling search: its rounds, its passes and its leg pass (R213, R214, R218 to R220). -/

namespace Sys2Proof.Machine

variable {s : State} {cmd : Cmd} {seen : RoundSeen} {meas : List LegMeas} {z : LegMeas} {q i rt : Nat}

theorem completes_cableSearch (hc : IsCmd cmd 0x63) (hmode : s.mgr.mode = .quiescent) (hlace : s.fit.lacewing = true) (hoff : s.search.on = false)
    (hcheck : s.checkRunning = false) : Completes (.cableSearch cmd) s fun t =>
      t.search.on = true ∧ t.search.legPass = false ∧ t.search.cmd = some cmd ∧
      (∀ q, q ∈ t.search.todo ↔ q < s.fit.workerPorts ∧ (s.lport q).contact = true) ∧ t = { s.interim cmd with search := t.search } := by
  have hexec : exec (.cableSearch cmd) s = .next ((s.interim cmd).startSearch (some cmd)) := by
    have heff : s.cableSearch cmd = (s.interim cmd).startSearch (some cmd) :=
      State.decideCmd_eff _ hc (by rw [hmode]; rfl) (by rw [hmode]; rfl) (by simp [hlace, hoff, hcheck])
    exact congrArg Host.Outcome.next heff
  obtain ⟨hubs, host, scb, honly⟩ := s.interim_only cmd []
  refine ⟨_, hexec, rfl, rfl, rfl, fun q => ?_, rfl⟩
  have htodo : ((s.interim cmd).startSearch (some cmd)).search.todo = s.fit.workerLPorts.filter fun q => (s.lport q).contact := by
    rw [honly]; rfl
  rw [htodo, List.mem_filter, Fit.workerLPorts, if_pos hlace, List.mem_range]

/-- A round looks at up to 16 L-ports, and marks those whose input tap jumps (R218, R219). -/
theorem completes_searchRound (hon : s.search.on = true) (hrounds : s.search.legPass = false) (htodo : s.search.todo ≠ [])
    (hleft : s.search.left = 0) : Completes (.searchRound seen) s fun t =>
      t.search.todo = s.search.todo.drop 16 ∧
      (∀ i, i < 16 → ∀ r, s.search.todo[i]? = some r → foundIn seen i r ∈ t.search.found) ∧ (∀ r ∈ s.search.marked, r ∈ t.search.marked) ∧
      (∀ h ∈ seen.taps, h.1 < s.fit.workerPorts → tapJumps (s.search.means.get? h.1) h.2 = true → h.1 ∈ t.search.marked) ∧
      t = { s with search := t.search } := by
  refine ⟨_, if_pos (by simp [hon, hrounds, htodo, hleft]), rfl, fun i hi r hr => ?_, fun r hr => List.mem_append_left _ hr,
    fun h hh hport hjumps => ?_, rfl⟩
  · refine List.mem_append_right _ (List.mem_map.mpr ⟨(r, i), ?_, rfl⟩)
    rw [List.mk_mem_zipIdx_iff_getElem?, roundSize, List.getElem?_take_of_lt hi]
    exact hr
  · by_cases hm : h.1 ∈ s.search.marked
    · exact List.mem_append_left _ hm
    · refine List.mem_append_right _ (List.mem_filter.mpr ⟨List.mem_dedup.mpr (List.mem_map_of_mem (List.mem_filter.mpr ⟨hh, ?_⟩)), ?_⟩)
      · simp [hport, hjumps]
      · simp [hm]

/-- The class of every worker L-port at the end of the last pass (Table 9.6). -/
def State.passResults (s : State) : List (Nat × Nat) :=
  s.fit.workerLPorts.map fun q => (q, classify s.fit s.search.found s.search.marked (s.lport q).contact q)

/-- The L-ports whose legs are measured after the last pass (R214). -/
def State.passLegs (s : State) : List Nat := (s.passResults.filter fun r => r.2 == 0 || r.2 == 2).map (·.1)

/-- Every worker L-port with its class recorded, and the leg pass begun. -/
def State.beginLegs (s : State) : State :=
  ((s.passResults.foldl (fun st r => st.searchResult r.1 r.2 s.search.found) s).updSearch fun y =>
    { y with legPass := true, legTodo := s.passLegs, marked := [], pending := [], left := legFrames }).planInput

/-- A pass over the L-ports that the pass before has marked (R219). -/
def State.redoMarked (s : State) : State :=
  s.updSearch fun y =>
    { y with
      pass := y.pass + 1, pending := s.search.marked.mergeSort (· ≤ ·), todo := s.search.marked.mergeSort (· ≤ ·), marked := []
      left := roundFrames }

/-- The search is over where nothing remains. -/
def State.endIf (s : State) (b : Bool) : State := if b then s.endSearch else s

theorem exec_searchPassEnd (hon : s.search.on = true) (hrounds : s.search.legPass = false) (htodo : s.search.todo = []) :
    exec .searchPassEnd s = if (!s.search.marked.isEmpty) = true ∧ s.search.pass < 3 then .next s.redoMarked
      else .next (s.beginLegs.endIf s.passLegs.isEmpty) := by
  show execSearchPassEnd s = _
  unfold execSearchPassEnd
  dsimp only
  rw [if_pos (by simp [hon, hrounds, htodo])]
  rfl

/-- A pass that ends with changes redoes the changed L-ports, up to pass 3 (R219). -/
theorem completes_searchPassEnd_again (hon : s.search.on = true) (hrounds : s.search.legPass = false) (htodo : s.search.todo = [])
    (hmarked : s.search.marked ≠ []) (hpass : s.search.pass < 3) : Completes .searchPassEnd s fun t =>
      t.search.pass = s.search.pass + 1 ∧ (∀ q, q ∈ t.search.todo ↔ q ∈ s.search.marked) ∧ t.search.marked = [] ∧
      t = { s with search := t.search } := by
  have hexec := exec_searchPassEnd hon hrounds htodo
  rw [if_pos ⟨by simpa using hmarked, hpass⟩] at hexec
  exact ⟨_, hexec, rfl, fun q => List.mem_mergeSort, rfl, rfl⟩

theorem State.finalQ_only (s : State) (c : Option Cmd) (status : Nat) (r : List (Nat × Nat)) :
    ∃ hubs host scb, s.final? c status r = { s with hubs := hubs, host := host, scb := scb } := by
  cases c with
  | none => exact ⟨s.hubs, s.host, s.scb, rfl⟩
  | some c => exact ⟨_, _, _, s.final_only c status r⟩

/-- The end of a search clears what is left to do, and beside its completion and its input to the Scarab engine changes nothing. -/
theorem State.endSearch_only (s : State) : ∃ hubs host scb, s.endSearch = { s with
    search := { s.search with on := false, legPass := false, legTodo := [], cmd := none }, hubs := hubs, host := host, scb := scb } := by
  obtain ⟨hubs, host, scb, hfinal⟩ := (s.updSearch fun x => { x with on := false, legPass := false, legTodo := [], cmd := none }).finalQ_only
    s.search.cmd stOk []
  unfold State.endSearch
  dsimp only
  rw [hfinal]
  exact ⟨hubs, host, _, State.arrive_onlyScb _ _ _ _⟩

theorem State.endSearch_search (s : State) :
    s.endSearch.search = { s.search with on := false, legPass := false, legTodo := [], cmd := none } := by
  obtain ⟨hubs, host, scb, h⟩ := s.endSearch_only
  rw [h]

theorem State.endIf_lport (s : State) (b : Bool) (q : Nat) : (s.endIf b).lport q = s.lport q := by
  unfold State.endIf
  split
  · obtain ⟨hubs, host, scb, h⟩ := s.endSearch_only
    rw [h]
    rfl
  · rfl

theorem State.endIf_mem (s : State) (b : Bool) : (s.endIf b).mem = s.mem := by
  unfold State.endIf
  split
  · exact s.endSearch_mem
  · rfl

theorem Fit.workerLPorts_nodup (f : Fit) : f.workerLPorts.Nodup := by
  unfold Fit.workerLPorts
  split
  · exact List.nodup_range
  · exact List.nodup_nil

/-- After the last pass every worker L-port has its class as its result (R220). -/
theorem State.beginLegs_lport (hq : q ∈ s.fit.workerLPorts) : (s.beginLegs.lport q).searched = true ∧
    (s.beginLegs.lport q).result = classify s.fit s.search.found s.search.marked (s.lport q).contact q := by
  let o := (q, classify s.fit s.search.found s.search.marked (s.lport q).contact q)
  have ho : o ∈ s.passResults := List.mem_map.mpr ⟨q, hq, rfl⟩
  have hnodup : (s.passResults.map Prod.fst).Nodup := by
    have hkeys : s.passResults.map Prod.fst = s.fit.workerLPorts := by
      rw [State.passResults, List.map_map]
      exact List.map_id _
    exact hkeys ▸ s.fit.workerLPorts_nodup
  exact foldl_lport_of_mem (f := fun st r => st.searchResult r.1 r.2 s.search.found) (I := fun _ => True)
    (P := fun p => p.searched = true ∧ p.result = o.2) (fun st r k hk => (st.searchResult_lport _ _ _ k).trans (if_neg hk)) (fun _ _ h => h)
    (fun st _ => by rw [State.searchResult_lport, if_pos rfl]; exact ⟨rfl, rfl⟩) hnodup ho trivial

theorem completes_searchPassEnd_last (hon : s.search.on = true) (hrounds : s.search.legPass = false) (htodo : s.search.todo = [])
    (hlast : s.search.marked = [] ∨ 3 ≤ s.search.pass) : Completes .searchPassEnd s fun t =>
      (∀ q ∈ s.fit.workerLPorts, (t.lport q).searched = true ∧
        (t.lport q).result = classify s.fit s.search.found s.search.marked (s.lport q).contact q) ∧
      (t.search.on = true → t.search.legPass = true) ∧ t.mem = s.mem := by
  have hexec := exec_searchPassEnd hon hrounds htodo
  rw [if_neg] at hexec
  · refine ⟨_, hexec, fun q hq => ?_, fun hstill => ?_, ?_⟩
    · rw [State.endIf_lport]
      exact State.beginLegs_lport hq
    · unfold State.endIf at hstill ⊢
      split at hstill
      next => rw [State.endSearch_search] at hstill; cases hstill
      next hsome => rw [if_neg hsome]; rfl
    · rw [State.endIf_mem]
      exact foldl_keeps State.mem _ (fun st r => State.searchResult_mem st _ _ _) s.passResults s
  · rintro ⟨hsome, hpass⟩
    rcases hlast with hnone | hthird
    · rw [hnone] at hsome; cases hsome
    · omega

/-- The L-ports of a leg group measured, and taken off those that are still to be (R214). -/
def State.measureLegs (s : State) (meas : List LegMeas) : State :=
  ((s.recordLegs meas (s.search.legTodo.take s.fit.legSize)).updSearch fun y =>
    { y with legTodo := s.search.legTodo.drop s.fit.legSize, left := legFrames }).planInput

/-- A leg group takes the L-ports of the group off those still to be measured, and records their legs (R213, R214). -/
theorem completes_legGroup (hon : s.search.on = true) (hlegs : s.search.legPass = true) (htodo : s.search.legTodo ≠ [])
    (hleft : s.search.left = 0) : Completes (.legGroup meas) s fun t =>
      let plane := z.seg1 + z.seg2 + s.reflectorConst i
      t.search.legTodo = s.search.legTodo.drop s.fit.legSize ∧
      ((s.search.legTodo.take s.fit.legSize).Nodup → (s.search.legTodo.take s.fit.legSize)[i]? = some q →
        meas.find? (fun m => m.q == q) = some z → roundTripOf z = some rt → plane ≤ rt → (rt - plane) / 2 ≤ 65535 →
          (t.lport q).legValid = true ∧ (t.lport q).leg = (rt - plane) / 2) := by
  refine ⟨(s.measureLegs meas).endIf (s.search.legTodo.drop s.fit.legSize).isEmpty, if_pos (by simp [hon, hlegs, htodo, hleft]), ?_,
    fun hnodup hq hz hrt hloop hlong => ?_⟩
  · unfold State.endIf
    split
    next hnone => rw [State.endSearch_search]; exact (List.isEmpty_iff.mp hnone).symm
    next => rfl
  · obtain ⟨p, hp⟩ := State.recordLegs_leg (s := s) hnodup hq hz
    have hleg : legOf z (s.reflectorConst i) = some ((rt - (z.seg1 + z.seg2 + s.reflectorConst i)) / 2) := by
      rw [legOf, hrt, Option.bind_some, if_pos ⟨hloop, hlong⟩]
    have hport : (s.measureLegs meas).lport q = p.withLeg (legOf z (s.reflectorConst i)) := hp
    rw [State.endIf_lport, hport, hleg]
    exact ⟨rfl, rfl⟩

end Sys2Proof.Machine
end

section
/-! SUPPORT. One-port checks (R220, R222, R223). -/

namespace Sys2Proof.Machine

variable {α : Type} {s : State} {seen : RoundSeen} {meas : List LegMeas} {q from_ : Nat} {l : List Finding}

/-- Cells of other keys are those of the table before. -/
theorem Tab.filter_set_of_ne {p : Nat × α → Bool} {k : Nat} (hp : ∀ v, p (k, v) = false) (v : α) (t : Tab α) :
    (t.set k v).cells.filter p = t.cells.filter p := by
  unfold Tab.set
  induction t.cells with
  | nil => simp [Tab.put, hp]
  | cons x xs ih =>
    unfold Tab.put
    split
    · rw [List.filter_cons_of_neg (by simp [hp])]
    · split
      next h => subst h; rw [List.filter_cons_of_neg (by simp [hp]), List.filter_cons_of_neg (by simp [hp x.2])]
      next => rw [List.filter_cons, List.filter_cons, ih]

/-- The other L-ports whose class a check changes are no part of the L-port that is checked. -/
theorem State.reclassed_updLPort (s : State) (q : Nat) (f : LPort → LPort) (l : List Finding) : (s.updLPort q f).reclassed q l = s.reclassed q l := by
  unfold State.reclassed
  rw [State.updLPort_lports, Tab.filter_set_of_ne (by simp)]
  rfl

theorem State.ne_of_mem_reclassed {o : Nat × Nat} (ho : o ∈ s.reclassed q l) : o.1 ≠ q := by
  obtain ⟨p, hp, hsome⟩ := List.mem_filterMap.mp ho
  have hkey : p.1 ≠ q := by
    have hcond := (List.mem_filter.mp hp).2
    simp only [Bool.and_eq_true, bne_iff_ne] at hcond
    exact hcond.1.1
  dsimp only at hsome
  split at hsome <;> cases hsome
  exact hkey

/-- A one-port check that has found a class gives it to its L-port, and the others of pairs theirs; the legs change nothing of that (R220). -/
theorem State.checkResult_lports (s : State) (q : Nat) (l : List Finding) (meas : List LegMeas) :
    let t := s.checkResult q l meas
    (t.lport q).checkDue = (s.lport q).checkDue ∧ (t.lport q).checkRun = (s.lport q).checkRun ∧ (t.lport q).searched = true ∧
      (t.lport q).result = classify s.fit l [] (s.lport q).contact q ∧
      (((s.reclassed q l).map (·.1)).Nodup → ∀ o ∈ s.reclassed q l, (t.lport o.1).result = o.2) := by
  let others := s.reclassed q l
  let r := classify s.fit l [] (s.lport q).contact q
  let found := others.foldl (State.recordOther l) (s.recordResult q r 0 l)
  have hlegs (k : Nat) : ((s.checkResult q l meas).lport k).sansLeg = (found.lport k).sansLeg := found.recordLegs_sansLeg meas _ k
  have hne (st : State) (o : Nat × Nat) (k : Nat) (hk : k ≠ o.1) : (st.recordOther l o).lport k = st.lport k :=
    (st.recordOther_lport l o k).trans (if_neg hk)
  have hself : found.lport q = (s.lport q).recorded r (findingOf l q) (r == 2 && s.adopts) := by
    refine (foldl_lport_of_notMem hne (fun hmem => ?_) _).trans ((s.recordResult_lport q r 0 l q).trans (if_pos rfl))
    obtain ⟨o, ho, hkey⟩ := List.mem_map.mp hmem
    exact State.ne_of_mem_reclassed ho hkey
  have hport := hlegs q
  rw [hself] at hport
  refine ⟨congrArg (fun p => p.checkDue) hport, congrArg (fun p => p.checkRun) hport, congrArg LPort.searched hport,
    congrArg LPort.result hport,
    fun hnodup o ho => (congrArg LPort.result (hlegs o.1)).trans ?_⟩
  exact foldl_lport_of_mem (I := fun _ => True) (P := fun p => p.result = o.2) hne (fun _ _ h => h)
    (fun st _ => by rw [State.recordOther_lport, if_pos rfl]; rfl) hnodup ho trivial

/-- A check of an L-port has seen a change: of its contact, or a jump of its input tap. -/
def State.checkMoved (s : State) (q : Nat) (seen : RoundSeen) : Bool :=
  (s.lport q).changed || seen.taps.any fun t => t.1 == q && tapJumps none t.2

theorem State.checkMoved_iff (s : State) (q : Nat) (seen : RoundSeen) :
    s.checkMoved q seen = true ↔ (s.lport q).changed = true ∨ ∃ t ∈ seen.taps, t.1 = q ∧ tapJumps none t.2 = true := by
  simp [State.checkMoved, List.any_eq_true]

/-- An L-port for which no check is due or runs. -/
def LPort.unchecked (p : LPort) : LPort := { p with checkDue := none, checkRun := none }

/-- An L-port's check is over. -/
def State.endCheck (s : State) (q : Nat) : State := (s.updLPort q LPort.unchecked).arrive 19 1 0

theorem State.endCheck_lport (s : State) (q : Nat) : (s.endCheck q).lport q = (s.lport q).unchecked := by
  rw [State.endCheck, State.arrive_lport, State.updLPort_lport_self]

theorem State.endCheck_reclassed (s : State) (q : Nat) (l : List Finding) : (s.endCheck q).reclassed q l = s.reclassed q l := by
  refine Eq.trans ?_ (s.reclassed_updLPort q LPort.unchecked l)
  unfold State.reclassed State.endCheck
  rw [State.arrive_lports, State.arrive_fit]

variable (hrun : (s.lport q).checkRun = some from_) (hchecks : s.mgr.mode.checks = true) (hframes : from_ + 20 ≤ s.mgr.frame)
include hrun hchecks hframes

theorem exec_onePortCheck (seen : RoundSeen) (meas : List LegMeas) : exec (.onePortCheck q seen meas) s =
    if s.checkMoved q seen = true ∧ (s.lport q).repeats < 3 then
      .next (s.updLPort q fun x => { x with repeats := x.repeats + 1, checkRun := some s.mgr.frame, changed := false })
    else .next (if s.checkMoved q seen = true then (s.endCheck q).recordResult q 4 (s.lport q).repeats (foundIn seen 0 q :: s.storedFindings q)
      else (s.endCheck q).checkResult q (foundIn seen 0 q :: s.storedFindings q) meas).planInput := by
  show execOnePortCheck q seen meas s = _
  unfold execOnePortCheck
  dsimp only
  rw [hrun]
  dsimp only
  rw [if_pos (by rw [hchecks, roundFrames, legFrames]; simpa using hframes)]
  rfl

theorem completes_onePortCheck_still (hstill : s.checkMoved q seen = false) : Completes (.onePortCheck q seen meas) s fun t =>
    let l := foundIn seen 0 q :: s.storedFindings q
    (t.lport q).checkDue = none ∧ (t.lport q).checkRun = none ∧ (t.lport q).searched = true ∧
    (t.lport q).result = classify s.fit l [] (s.lport q).contact q ∧
    (((s.reclassed q l).map (·.1)).Nodup → ∀ o ∈ s.reclassed q l, (t.lport o.1).result = o.2) := by
  have hexec := exec_onePortCheck hrun hchecks hframes seen meas
  rw [if_neg (by simp [hstill]), if_neg (by simp [hstill])] at hexec
  obtain ⟨hdue, hends, hsearched, hresult, hothers⟩ :=
    (s.endCheck q).checkResult_lports q (foundIn seen 0 q :: s.storedFindings q) meas
  rw [State.endCheck_lport] at hdue hends hresult
  rw [State.endCheck_reclassed] at hothers
  exact ⟨_, hexec, hdue, hends, hsearched, hresult, hothers⟩

theorem completes_onePortCheck_again (hmoved : s.checkMoved q seen = true) (hfew : (s.lport q).repeats < 3) :
    Completes (.onePortCheck q seen meas) s fun t =>
      t.lport q = { s.lport q with repeats := (s.lport q).repeats + 1, checkRun := some s.mgr.frame, changed := false } ∧
      t = { s with lports := t.lports } := by
  have hexec := exec_onePortCheck hrun hchecks hframes seen meas
  rw [if_pos ⟨hmoved, hfew⟩] at hexec
  exact ⟨_, hexec, State.updLPort_lport_self _ _ _, rfl⟩

theorem completes_onePortCheck_unstable (hmoved : s.checkMoved q seen = true) (hmany : 3 ≤ (s.lport q).repeats) :
    Completes (.onePortCheck q seen meas) s fun t =>
      (t.lport q).checkDue = none ∧ (t.lport q).checkRun = none ∧ (t.lport q).result = 4 := by
  have hexec := exec_onePortCheck hrun hchecks hframes seen meas
  rw [if_neg (by omega), if_pos hmoved] at hexec
  refine ⟨_, hexec, ?_⟩
  have hport : ((s.endCheck q).recordResult q 4 (s.lport q).repeats (foundIn seen 0 q :: s.storedFindings q)).planInput.lport q = _ :=
    (State.recordResult_lport _ _ _ _ _ _).trans (if_pos rfl)
  dsimp only
  rw [hport, State.endCheck_lport]
  exact ⟨rfl, rfl, rfl⟩

end Sys2Proof.Machine
end

section
/-! The obligation about the cabling search and the one-port check. -/

namespace Sys2Proof.Machine

/-- Settles O49: a search round by round, pass by pass and leg group by leg group; a one-port check by whether it has seen a change. Which
reflector and which of the round trips count, and how long a check runs, are the model's choices (log entries 122 and 123). -/
theorem cablingIsSearched : Obligations.CablingIsSearched := by
  unfold Obligations.CablingIsSearched
  intro s cmd seen meas z q i from_ rt
  dsimp only
  refine ⟨completes_cableSearch, completes_searchRound, completes_searchPassEnd_again, completes_searchPassEnd_last, completes_legGroup,
    fun hrun hchecks hframes => ?check⟩
  case check =>
    rw [← State.checkMoved_iff]
    exact ⟨fun h => completes_onePortCheck_still hrun hchecks hframes (Bool.eq_false_iff.mpr h),
      completes_onePortCheck_again hrun hchecks hframes, completes_onePortCheck_unstable hrun hchecks hframes⟩

end Sys2Proof.Machine
end

section
/-! SUPPORT. The interlock: what takes an output to glow, and the tears of an open L-port (R223, R255). -/

namespace Sys2Proof.Machine

variable {s t : State} {q w p k m c i b cause : Nat} {cs : List Nat} {f : Nat × Nat}

/-! ## Outputs at glow -/

/-- A module with an output taken to glow: what it ramped to is dropped (R255). -/
def Module.glowing (x : Module) (m : Nat) : Module := { x with glow := putBit x.glow m true, ramp := x.ramp.erase m }

theorem Module.glowing_testBit (x : Module) (m b : Nat) : (x.glowing m).glow.testBit b = if b = m then true else x.glow.testBit b :=
  testBit_putBit x.glow m true b

theorem State.toGlow_modules (s : State) (k m : Nat) : (s.toGlow k m).modules = (s.updModule k fun x => x.glowing m).modules := by
  unfold State.toGlow
  dsimp only
  split <;> rfl

/-- An output taken to glow changes its module and the Scarab engine's inputs. -/
theorem State.toGlow_only (s : State) (k m : Nat) : s.toGlow k m = { s with modules := (s.toGlow k m).modules, scb := (s.toGlow k m).scb } := by
  unfold State.toGlow
  dsimp only
  split
  · rw [State.arrive_onlyScb]
    generalize (State.arrive _ 3 1 0).scb = x
    rfl
  · rfl

theorem State.toGlow_module (s : State) (k m i : Nat) : (s.toGlow k m).module i = if i = k then (s.module k).glowing m else s.module i := by
  rw [State.module, State.toGlow_modules, ← State.module, State.updModule_module]

/-- No output leaves glow by one that is taken there. -/
theorem State.toGlow_keeps (k m : Nat) (h : (s.module i).glow.testBit b = true) : ((s.toGlow k m).module i).glow.testBit b = true := by
  rw [State.toGlow_module]
  split
  next hi => rw [Module.glowing_testBit, ← hi, h, ite_self]
  next => exact h

theorem State.glowFeed_only (s : State) (q : Nat) :
    s.glowFeed q = { s with modules := (s.glowFeed q).modules, scb := (s.glowFeed q).scb } := by
  unfold State.glowFeed
  split
  · exact s.toGlow_only _ _
  · rfl

theorem State.glowFeed_keeps (q : Nat) (h : (s.module i).glow.testBit b = true) : ((s.glowFeed q).module i).glow.testBit b = true := by
  unfold State.glowFeed
  split
  · exact State.toGlow_keeps _ _ h
  · exact h

/-- The interlock changes modules and the Scarab engine's inputs. -/
theorem State.interlock_only (s : State) (q : Nat) :
    s.interlock q = { s with modules := (s.interlock q).modules, scb := (s.interlock q).scb } := by
  unfold State.interlock
  dsimp only
  split
  · rw [State.glowFeed_only (s.glowFeed q), State.glowFeed_only s]
  · exact s.glowFeed_only q

/-- The interlock takes the output that feeds the L-port to glow (R26, R255). -/
theorem State.interlock_glows (hf : feedOf q = some f) : ((s.interlock q).module f.1).glow.testBit f.2 = true := by
  have hfed : ((s.glowFeed q).module f.1).glow.testBit f.2 = true := by
    rw [State.glowFeed, hf]
    dsimp only
    rw [State.toGlow_module, if_pos rfl, Module.glowing_testBit, if_pos rfl]
  unfold State.interlock
  dsimp only
  split
  · exact State.glowFeed_keeps _ hfed
  · exact hfed

/-! ## Tears of an L-port's circuits -/

/-- What the plane shows of its circuits, its L-ports and its laser modules. -/
def State.optics (s : State) : Tab Circ × Tab LPort × Tab Module := (s.circs, s.lports, s.modules)

theorem State.updTile_optics (s : State) (i : Nat) (f : Tile → Tile) : (s.updTile i f).optics = s.optics := rfl

theorem State.parkRoute_optics (s : State) (c : Nat) : (s.parkRoute c).optics = s.optics := by
  unfold State.parkRoute
  split
  · rfl
  · exact foldl_keeps State.optics _ (fun a h => foldl_keeps State.optics _ (fun b e => b.updTile_optics _ _) _ a) _ s

theorem State.stopGroups_optics (s : State) (gs : List Nat) (reason : Nat) : (s.stopGroups gs reason).optics = s.optics :=
  foldl_keeps State.optics _ (fun st g => by rw [State.stopGroup_only]; rfl) gs s

/-- A circuit that stands is torn when it is torn by decision of the manager; one that does not stays as it is (R208). -/
theorem State.tearCircuit_circ (s : State) (c cause : Nat) :
    (∀ d, d ≠ c → (s.tearCircuit c cause).circ d = s.circ d) ∧ ((s.circ c).standing = false → (s.tearCircuit c cause).circ c = s.circ c) ∧
      ((s.circ c).standing = true → ((s.tearCircuit c cause).circ c).state = 6) := by
  unfold State.tearCircuit
  dsimp only
  split
  next h =>
    generalize hz : s.updCirc c (fun _ => _) = u
    have hcircs : (((u.parkRoute c).stopGroups (s.circGroups c) 3).planInput).circs = u.circs :=
      congrArg Prod.fst ((State.stopGroups_optics (u.parkRoute c) _ _).trans (u.parkRoute_optics c))
    refine ⟨fun d hd => ?_, fun hnot => absurd h (by simp [hnot]), fun _ => ?_⟩
    · rw [State.circ, hcircs, ← hz]
      exact State.updCirc_circ_ne _ _ hd
    · rw [State.circ, hcircs, ← hz, ← State.circ, State.updCirc_circ_self]
  next h => exact ⟨fun _ _ => rfl, fun _ => rfl, fun hst => absurd hst h⟩

theorem State.tearCircuit_ports (s : State) (c cause : Nat) :
    (s.tearCircuit c cause).lports = s.lports ∧ (s.tearCircuit c cause).modules = s.modules := by
  unfold State.tearCircuit
  dsimp only
  split
  · have hview := fun u : State => (State.stopGroups_optics (u.parkRoute c) (s.circGroups c) 3).trans (u.parkRoute_optics c)
    exact ⟨congrArg (fun v => v.2.1) (hview _), congrArg (fun v => v.2.2) (hview _)⟩
  · exact ⟨rfl, rfl⟩

theorem State.tearCircuits_ports (s : State) (cs : List Nat) (cause : Nat) :
    (s.tearCircuits cs cause).lports = s.lports ∧ (s.tearCircuits cs cause).modules = s.modules :=
  ⟨foldl_keeps State.lports _ (fun st c => (st.tearCircuit_ports c cause).1) cs s,
    foldl_keeps State.modules _ (fun st c => (st.tearCircuit_ports c cause).2) cs s⟩

/-- A torn circuit is not torn again. -/
theorem State.tearCircuits_keeps_torn (h : (s.circ c).state = 6) : ((s.tearCircuits cs cause).circ c).state = 6 := by
  induction cs generalizing s with
  | nil => exact h
  | cons d cs ih =>
    obtain ⟨hne, hnot, -⟩ := s.tearCircuit_circ d cause
    refine ih (s := s.tearCircuit d cause) ?_
    by_cases hd : c = d
    · rw [hd, hnot (by rw [← hd]; simp [Circ.standing, h]), ← hd]
      exact h
    · rw [hne c hd]
      exact h

theorem State.tearCircuits_torn (h : (s.circ c).standing = true) (hc : c ∈ cs) : ((s.tearCircuits cs cause).circ c).state = 6 := by
  induction cs generalizing s with
  | nil => exact absurd hc List.not_mem_nil
  | cons d cs ih =>
    obtain ⟨hne, -, htorn⟩ := s.tearCircuit_circ d cause
    by_cases hd : c = d
    · exact State.tearCircuits_keeps_torn (s := s.tearCircuit d cause) (hd ▸ htorn (hd ▸ h))
    · exact ih (s := s.tearCircuit d cause) (by rw [hne c hd]; exact h) ((List.mem_cons.mp hc).resolve_left hd)

/-- A circuit that stands on an L-port is one of its circuits. -/
theorem State.mem_circsOfLPort (hst : (s.circ c).standing = true) (hq : (s.circ c).src = q ∨ (s.circ c).dst = q) : c ∈ s.circsOfLPort q := by
  have hget : s.circs.get? c = some (s.circ c) := by
    cases hx : s.circs.get? c with
    | none =>
      have hinit : s.circ c = Circ.init := by rw [State.circ, Tab.get, hx, Option.getD_none]
      rw [hinit] at hst
      cases hst
    | some x => rw [State.circ, Tab.get, hx, Option.getD_some]
  exact List.mem_map.mpr ⟨(c, s.circ c), List.mem_filter.mpr ⟨Tab.mem_of_get?_eq_some hget, by simpa [hst] using hq⟩, rfl⟩

end Sys2Proof.Machine
end

section
/-! SUPPORT. Contacts, return light and the way out of glow (R223, R255, R256). -/

namespace Sys2Proof.Machine

variable {s : State} {q w p k m : Nat} {f : Nat × Nat}

/-- An L-port whose contact opens (R223). -/
def LPort.opened (x : LPort) : LPort :=
  { x with contact := false, searched := false, changed := true, checkDue := if x.checkRun.isSome then x.checkDue else none }

/-- An L-port's contact opens: the interlock acts, and the circuits on it are torn (R223, R255). -/
def State.openContact (s : State) (q : Nat) : State :=
  (((s.interlock q).updLPort q LPort.opened).arrive 2 1 0).tearCircuits (s.circsOfLPort q) 3

theorem State.openContact_shows (s : State) (q : Nat) : let t := s.openContact q
    (t.lport q).contact = false ∧ (feedOf q = some f → (t.module f.1).glow.testBit f.2 = true) ∧
      (∀ c, (s.circ c).standing = true → (s.circ c).src = q ∨ (s.circ c).dst = q → (t.circ c).state = 6) ∧ t.mem = s.mem := by
  let u := ((s.interlock q).updLPort q LPort.opened).arrive 2 1 0
  obtain ⟨hlports, hmodules⟩ := u.tearCircuits_ports (s.circsOfLPort q) 3
  have hlport : (s.openContact q).lport q = u.lport q := congrArg (fun x => x.get LPort.init q) hlports
  have hmodule (i : Nat) : (s.openContact q).module i = u.module i := congrArg (fun x => x.get Module.init i) hmodules
  have hcirc (c : Nat) : u.circ c = s.circ c := congrArg (fun x => x.circs.get Circ.init c) (s.interlock_only q)
  refine ⟨?_, fun hf => ?_, fun c hst hq => ?_, ?_⟩
  · rw [hlport, State.arrive_lport, State.updLPort_lport_self]
    rfl
  · rw [hmodule]
    exact State.interlock_glows hf
  · exact State.tearCircuits_torn ((congrArg Circ.standing (hcirc c)).trans hst) (State.mem_circsOfLPort hst hq)
  · rw [State.openContact, State.tearCircuits_mem, State.arrive_mem, State.updLPort_mem, State.interlock_mem]

theorem completes_presenceContactOpen (hmode : s.mgr.mode ≠ .off) (hok : s.fit.lportOk q = true) (hclosed : (s.lport q).contact = true) :
    Completes (.presenceContactOpen q) s fun t =>
      (t.lport q).contact = false ∧ (feedOf q = some f → (t.module f.1).glow.testBit f.2 = true) ∧
      (∀ c, (s.circ c).standing = true → (s.circ c).src = q ∨ (s.circ c).dst = q → (t.circ c).state = 6) ∧ t.mem = s.mem := by
  have hexec : exec (.presenceContactOpen q) s =
      .next (if q < s.fit.workerPorts then (s.openContact q).markChange q else s.openContact q).planInput :=
    if_pos (by simp [hok, hclosed, hmode])
  refine ⟨_, hexec, ?_⟩
  have hopen := s.openContact_shows (f := f) q
  split
  · exact hopen
  · exact hopen

theorem completes_workerPortContactOpen (hmode : s.mgr.mode ≠ .off) (hlace : s.fit.lacewing = true) (hup : s.workerUp w = true) (hp : p < 4)
    (hclosed : ((s.worker w).port p).contact = true) : Completes (.workerPortContactOpen w p) s fun t =>
      ((t.worker w).port p).contact = false ∧
      (feedOf (s.fit.lportOf w p) = some f → (t.module f.1).glow.testBit f.2 = true) ∧
      t = { s with workers := t.workers, modules := t.modules, scb := t.scb } := by
  refine ⟨(s.interlock (s.fit.lportOf w p)).updPort w p fun x => { x with contact := false },
    if_pos (by simp [hlace, hup, hp, hclosed, hmode]), ?_, State.interlock_glows, ?_⟩
  · rw [State.updPort_port_self]
  · rw [State.updPort_onlyWorkers (s.interlock _) w p, State.interlock_only]

theorem completes_returnLight (hmode : s.mgr.mode ≠ .off) (hk : s.fit.moduleOk k = true) (hm : m < 16) :
    Completes (.returnLight k m) s fun t =>
      (t.module k).glow.testBit m = true ∧ (∀ i, i ≠ m → (t.module k).glow.testBit i = (s.module k).glow.testBit i) ∧
      (∀ i, i ≠ k → t.module i = s.module i) ∧ t = { s with modules := t.modules, scb := t.scb } := by
  have hmodule : (s.toGlow k m).module k = (s.module k).glowing m := (s.toGlow_module k m k).trans (if_pos rfl)
  refine ⟨s.toGlow k m, if_pos (by simp [hk, hm, hmode]), ?_, fun i hi => ?_, fun i hi => ?_, s.toGlow_only k m⟩
  · rw [hmodule, Module.glowing_testBit, if_pos rfl]
  · rw [hmodule, Module.glowing_testBit, if_neg hi]
  · rw [State.toGlow_module, if_neg hi]

theorem completes_glowRelease (hk : s.fit.moduleOk k = true) (hm : m < 16) (hglow : (s.module k).glow.testBit m = true)
    (hclear : s.glowClear k m = true) : Completes (.glowRelease k m) s fun t =>
      (t.module k).glow.testBit m = false ∧ (t.module k).ramp.get 0 m = s.mgr.frame ∧ (∀ i, i ≠ k → t.module i = s.module i) ∧
      t = { s with modules := t.modules } := by
  refine ⟨s.updModule k fun x => { x with glow := putBit x.glow m false, ramp := x.ramp.set m s.mgr.frame },
    if_pos (by simp [hk, hm, hglow, hclear]), ?_, ?_, fun i hi => State.updModule_module_ne _ _ hi, rfl⟩
  · rw [State.updModule_module_self]
    exact (testBit_putBit _ m false m).trans (if_pos rfl)
  · rw [State.updModule_module_self]
    exact Tab.get_set_self _ _ _ _

/-- An L-port whose contact closes outside a search: a check is due, or the one that runs has seen it (R223). -/
def LPort.closedAt (x : LPort) (frame : Nat) : LPort :=
  if x.checkRun.isSome then { x with changed := true } else { x with checkDue := some frame, repeats := 0 }

/-- An L-port's contact closes, and that of the worker port cabled to it. -/
def State.closeContact (s : State) (q : Nat) : State :=
  ((s.updLPort q fun x => { x with contact := true }).arrive 2 1 0).updPort (s.endOf q).1 (s.endOf q).2 fun x => { x with contact := true }

theorem State.closeContact_lport (s : State) (q : Nat) : (s.closeContact q).lport q = { s.lport q with contact := true } := by
  have hport : (s.closeContact q).lport q = (s.updLPort q fun x => { x with contact := true }).lport q := rfl
  rw [hport, State.updLPort_lport_self]

theorem completes_presenceContactClose (hok : s.fit.lportOk q = true) (hopen : (s.lport q).contact = false) :
    Completes (.presenceContactClose q) s fun t =>
      (t.lport q).contact = true ∧
      (s.search.on = false → q < s.fit.workerPorts →
        ((s.lport q).checkRun = none → (t.lport q).checkDue = some s.mgr.frame) ∧
        ((s.lport q).checkRun.isSome = true → (t.lport q).changed = true)) ∧
      t.modules = s.modules ∧ t.circs = s.circs := by
  have hexec : exec (.presenceContactClose q) s = if q < s.fit.workerPorts
      then if s.search.on && !s.search.legPass then .next ((s.closeContact q).markChange q)
        else .next ((s.closeContact q).updLPort q fun x => x.closedAt s.mgr.frame)
      else .next ((s.updLPort q fun x => { x with contact := true }).arrive 2 1 0) :=
    if_pos (by simp [hok, hopen])
  by_cases hq : q < s.fit.workerPorts
  · rw [if_pos hq] at hexec
    split at hexec
    next hsearch =>
      refine ⟨_, hexec, ?_, fun hoff => absurd hsearch (by simp [hoff]), rfl, rfl⟩
      exact congrArg LPort.contact (s.closeContact_lport q)
    next =>
      refine ⟨_, hexec, ?_, fun _ _ => ?_, rfl, rfl⟩ <;> rw [State.updLPort_lport_self, State.closeContact_lport]
      · unfold LPort.closedAt
        split <;> rfl
      · exact ⟨fun hnone => by simp [LPort.closedAt, hnone], fun hsome => by simp [LPort.closedAt, hsome]⟩
  · rw [if_neg hq] at hexec
    refine ⟨_, hexec, ?_, fun _ h => absurd h hq, rfl, rfl⟩
    rw [State.arrive_lport, State.updLPort_lport_self]

end Sys2Proof.Machine
end

section
/-! The obligation about the eye-safety interlock. -/

namespace Sys2Proof.Machine

/-- Settles O50: contact by contact, and output by output. That the interlock takes a worker port by the cabling plan is the model's choice
(log entry 124). -/
theorem interlockActs : Obligations.InterlockActs := by
  unfold Obligations.InterlockActs
  intro s q w p k m f hmode
  exact ⟨completes_presenceContactOpen hmode, completes_workerPortContactOpen hmode, completes_returnLight hmode, completes_glowRelease,
    completes_presenceContactClose⟩

end Sys2Proof.Machine
end

section
/-! SUPPORT. Failed workers and the roles that spares take (R224 to R226, R362, Table 9.7). -/

namespace Sys2Proof.Machine

variable {s t u : State} {w k i : Nat} {ins : Instr}

/-! ## A worker is declared failed -/

/-- A switch-in begins with the failed worker's site (R225). -/
theorem State.startSwitchIn_spare (s : State) (w : Nat) (circs : List Nat) : ((s.startSwitchIn w circs).hub (sledOf w)).spare =
    { inUse := false, site := siteOf w, phase := 1, since := s.mgr.frame, late := 0, copied := false } := by
  unfold State.startSwitchIn
  dsimp only
  split
  · rw [State.updHub_hub_self]
  · rw [State.updPlane_hub, State.updHub_hub_self]

theorem State.declareFailed_spare (hup : s.workerUp w = true) (hsite : siteOf w ≠ 16) (hfree : s.spareFree (sledOf w) = true) :
    ((s.declareFailed w).hub (sledOf w)).spare =
      { inUse := false, site := siteOf w, phase := 1, since := s.mgr.frame, late := 0, copied := false } := by
  have hframe : (s.declareFailed w).mgr.frame = s.mgr.frame := by rw [State.declareFailed_mgr]
  unfold State.declareFailed at hframe ⊢
  rw [if_pos hup] at hframe ⊢
  dsimp only at hframe ⊢
  rw [if_pos ⟨hsite, hfree⟩] at hframe ⊢
  rw [State.startSwitchIn_mgr] at hframe
  rw [State.startSwitchIn_spare, hframe]

/-- A worker that is silent, or loses its supply, is declared failed (R362). -/
theorem completes_workerLoss (hup : s.workerUp w = true) (hmode : s.mgr.mode ≠ .off) (hins : ins = .workerSilence w ∨ ins = .workerSupplyFault w) :
    Completes ins s fun t =>
      (t.worker w).failed = true ∧ (t.worker w).pwr = 0 ∧ (t.worker w).keys = Tab.empty ∧
      (t.hub (sledOf w)).failed.testBit (siteOf w) = true ∧ t.mem = s.mem ∧
      (siteOf w ≠ 16 → s.spareFree (sledOf w) = true → (t.hub (sledOf w)).spare =
        { inUse := false, site := siteOf w, phase := 1, since := s.mgr.frame, late := 0, copied := false }) := by
  have hexec : exec ins s = .next (s.declareFailed w) := by
    rcases hins with rfl | rfl <;> exact if_neg (by simp [hmode])
  obtain ⟨hlosses, hshown⟩ := State.declareFailed_lost hup
  exact ⟨_, hexec, congrArg (fun x => x.1) hlosses, congrArg (fun x => x.2.1) hlosses, congrArg (fun x => x.2.2) hlosses, hshown,
    s.declareFailed_mem w, State.declareFailed_spare hup⟩

/-! ## What keeps the roles -/

/-- Every hub keeps its spare's state and the roles taken, and the events it has recorded. -/
def State.RolesKept (s t : State) : Prop :=
  t.fit = s.fit ∧ ∀ k, (t.hub k).spare = (s.hub k).spare ∧ (t.hub k).inRole = (s.hub k).inRole ∧ (s.hub k).evq ⊆ (t.hub k).evq

theorem State.RolesKept.refl (s : State) : State.RolesKept s s := ⟨rfl, fun _ => ⟨rfl, rfl, fun _ h => h⟩⟩

theorem State.RolesKept.trans (h : State.RolesKept s t) (h' : State.RolesKept t u) : State.RolesKept s u := by
  obtain ⟨hfit, hhubs⟩ := h
  obtain ⟨hfit', hhubs'⟩ := h'
  refine ⟨hfit'.trans hfit, fun k => ?_⟩
  obtain ⟨hspare, hrole, hevq⟩ := hhubs k
  obtain ⟨hspare', hrole', hevq'⟩ := hhubs' k
  exact ⟨hspare'.trans hspare, hrole'.trans hrole, List.Subset.trans hevq hevq'⟩

theorem State.rolesKept_of_hubs (hfit : t.fit = s.fit) (hhubs : ∀ k, t.hub k = s.hub k) : State.RolesKept s t :=
  ⟨hfit, fun k => by rw [hhubs k]; exact ⟨rfl, rfl, fun _ h => h⟩⟩

theorem foldl_rolesKept {α : Type} {f : State → α → State} (h : ∀ st a, State.RolesKept st (f st a)) (l : List α) (s : State) :
    State.RolesKept s (l.foldl f s) := by
  induction l generalizing s with
  | nil => exact State.RolesKept.refl s
  | cons a l ih => exact (h s a).trans (ih (f s a))

theorem State.raise_rolesKept (s : State) (code : Nat) (fields : List (Nat × Nat × Nat)) : State.RolesKept s (s.raise code fields) := by
  refine ⟨s.raise_fit code fields, fun k => ⟨?_, ?_, s.raise_evq code fields k⟩⟩ <;> rw [State.raise_hub] <;> split <;> rfl

theorem State.final_rolesKept (s : State) (c : Cmd) (status : Nat) (r : List (Nat × Nat)) : State.RolesKept s (s.final c status r) := by
  refine ⟨s.final_fit c status r, fun k => ?_⟩
  obtain ⟨q, hq⟩ := s.final_hub c status r k
  rw [hq]
  exact ⟨rfl, rfl, fun _ h => h⟩

theorem State.endJob_rolesKept (s : State) (g : Nat) : State.RolesKept s (s.endJob g) :=
  State.rolesKept_of_hubs (by rw [State.endJob_only]) (s.endJob_hub g)

theorem State.loseJob_rolesKept (s : State) (g reason : Nat) : State.RolesKept s (s.loseJob g reason) := by
  cases hrun : (s.group g).running with
  | none => unfold State.loseJob; rw [hrun]; exact State.RolesKept.refl s
  | some j =>
    obtain ⟨fields, heq⟩ := State.loseJob_running hrun reason
    rw [heq]
    exact ((s.raise_rolesKept _ _).trans (State.final_rolesKept _ _ _ _)).trans (State.endJob_rolesKept _ _)

theorem State.afterSwitchIn_rolesKept (s : State) (g : Nat) : State.RolesKept s (s.afterSwitchIn g) := by
  unfold State.afterSwitchIn
  split
  · exact State.RolesKept.refl s
  · split
    · split
      · exact s.loseJob_rolesKept g 4
      · exact State.rolesKept_of_hubs rfl fun _ => rfl
    · exact s.loseJob_rolesKept g 4

theorem State.loadPrograms_rolesKept (s : State) (w mask : Nat) : State.RolesKept s (s.loadPrograms w mask) :=
  foldl_rolesKept (fun st n => State.rolesKept_of_hubs (by rw [State.loadProgram_only]) fun k => by rw [State.loadProgram_only]; rfl) _ s

/-! ## Switch-in -/

theorem State.writeBank_flowsTo (s : State) (z : Nat) (bank1 : Bool) (id v : Nat) :
    ((s.writeBank z bank1 id).worker v).flowsTo = (s.worker v).flowsTo :=
  State.updWorker_keeps (fun x => x.flowsTo) (by exact fun _ => rfl) _ z v

theorem State.writeBank_hub (s : State) (z : Nat) (bank1 : Bool) (id i : Nat) : (s.writeBank z bank1 id).hub i = s.hub i := rfl

/-- The copy of a sled's stash is done, and the failed worker's flows move to the spare (Table 9.7). -/
def State.moveFlows (s : State) (k : Nat) : State :=
  (s.updHub k fun h => { h with spare := { h.spare with copied := true } }).updWorker (workerCode k (s.hub k).spare.site) fun x =>
    { x with flowsTo := some (workerCode k 16) }

theorem State.moveFlows_hub (s : State) (k : Nat) : ((s.moveFlows k).hub k).spare = { (s.hub k).spare with copied := true } := by
  rw [State.moveFlows, State.updWorker_hub, State.updHub_hub_self]

theorem State.moveFlows_flowsTo (s : State) (k : Nat) :
    ((s.moveFlows k).worker (workerCode k (s.hub k).spare.site)).flowsTo = some (workerCode k 16) := by
  rw [State.moveFlows, State.updWorker_worker_self]

/-- The parts of the active image that a sled's stash holds for the failed worker stand in the spare's active bank, and its flows have moved. -/
def State.copyStash (s : State) (k : Nat) : Option StashPart → State
  | some p => (s.moveFlows k).writeBank (workerCode k 16) (s.worker (workerCode k 16)).bank1 p.id
  | none => s.moveFlows k

theorem completes_stashCopyEnd (hphase : (s.hub k).spare.phase = 1) (hopen : (s.hub k).spare.copied = false) (hmoves : s.paused [k] = false)
    (hup : s.workerUp (workerCode k 16) = true) (hframe : (s.hub k).spare.since + (s.hub k).spare.late + 821 ≤ s.mgr.frame) :
    Completes (.stashCopyEnd k) s fun t =>
      let v := workerCode k (s.hub k).spare.site
      let z := workerCode k 16
      (t.hub k).spare = { (s.hub k).spare with copied := true } ∧ (t.worker v).flowsTo = some z ∧
      t = { s with hubs := t.hubs, workers := t.workers, mem := t.mem, keyTag := t.keyTag } ∧
      (∀ p, (s.hub k).stash.find? (fun x => x.w == v) = some p →
        t.mem = (s.writeBank z (s.worker z).bank1 p.id).mem ∧ t.keyTag = (s.writeBank z (s.worker z).bank1 p.id).keyTag) := by
  have hexec : exec (.stashCopyEnd k) s =
      .next (s.copyStash k ((s.hub k).stash.find? fun x => x.w == workerCode k (s.hub k).spare.site)) := by
    show execStashCopyEnd k s = _
    unfold execStashCopyEnd State.copyStash
    dsimp only
    rw [if_pos ⟨hphase, by simp [hopen], by simp [hmoves], hup, hframe⟩]
    rfl
  refine ⟨_, hexec, ?_⟩
  dsimp only
  cases hpart : (s.hub k).stash.find? fun x => x.w == workerCode k (s.hub k).spare.site with
  | some p =>
    refine ⟨?_, ?_, rfl, fun p' hp' => ?_⟩
    · rw [State.copyStash, State.writeBank_hub, State.moveFlows_hub]
    · rw [State.copyStash, State.writeBank_flowsTo, State.moveFlows_flowsTo]
    · cases hp'
      exact ⟨rfl, rfl⟩
  | none => exact ⟨s.moveFlows_hub k, s.moveFlows_flowsTo k, rfl, fun p hp => absurd hp nofun⟩

/-- The groups whose running job has lost a worker. -/
def State.groupsWithout (s : State) (v : Nat) : List Nat := s.runningGroups.filter fun g => (s.group g).lostWorker == some v

/-- What EV_WORKER_SPARED says of a spare and of a group's job (Table 9.7). -/
def sparedFields (v z handle lost mirror since : Nat) : List (Nat × Nat × Nat) :=
  [(0, 2, v), (2, 2, z), (4, 2, handle), (6, 2, lost), (8, 4, mirror), (12, 4, since % 2 ^ 32)]

/-- The fields of EV_WORKER_SPARED for a group. -/
def State.sparedFor (s : State) (k g : Nat) : List (Nat × Nat × Nat) :=
  sparedFields (workerCode k (s.hub k).spare.site) (workerCode k 16) (match (s.group g).running with | some j => j.handle | none => 0xFFFF)
    (s.lostStrides g).1 (s.lostStrides g).2 (s.hub k).spare.since

/-- The events of a switch-in: one for each group that lost the worker, or one where none did. -/
def State.sparedEvents (s : State) (k : Nat) : List (List (Nat × Nat × Nat)) :=
  let gs := s.groupsWithout (workerCode k (s.hub k).spare.site)
  if gs.isEmpty then [sparedFields (workerCode k (s.hub k).spare.site) (workerCode k 16) 0xFFFF 0 0xFFFFFFFF (s.hub k).spare.since]
  else gs.map (s.sparedFor k)

theorem State.sparedEvents_ne_nil (s : State) (k : Nat) : s.sparedEvents k ≠ [] := by
  unfold State.sparedEvents
  dsimp only
  split
  · exact List.cons_ne_nil _ _
  next h => simpa using h

/-- Several events of one code raised. -/
def State.raiseAll (s : State) (code : Nat) (evs : List (List (Nat × Nat × Nat))) : State := evs.foldl (fun st f => st.raise code f) s

theorem State.raiseAll_rolesKept (s : State) (code : Nat) (evs : List (List (Nat × Nat × Nat))) : State.RolesKept s (s.raiseAll code evs) :=
  foldl_rolesKept (fun st f => st.raise_rolesKept code f) evs s

theorem State.raiseAll_records {evs : List (List (Nat × Nat × Nat))} (hevs : evs ≠ []) (code : Nat) (hi : i < s.fit.sleds) :
    ∃ e ∈ ((s.raiseAll code evs).hub i).evq, e.code = code := by
  cases evs with
  | nil => exact absurd rfl hevs
  | cons f evs =>
    obtain ⟨e, he, hcode⟩ := s.raise_records code f hi
    obtain ⟨-, hkept⟩ := (s.raise code f).raiseAll_rolesKept code evs
    obtain ⟨-, -, hevq⟩ := hkept i
    exact ⟨e, hevq he, hcode⟩

/-- The spare of a sled in the failed worker's role; objects are reloaded where there are any (R225, R227). -/
def State.takeRole (s : State) (k : Nat) : State :=
  s.updHub k fun h =>
    { h with
      spare := { h.spare with
        inUse := true, phase := if !(s.worker (workerCode k (s.hub k).spare.site)).objs.cells.isEmpty then 2 else 3 }
      inRole := h.inRole ++ [((s.hub k).spare.site, 16)] }

theorem exec_spareReady (hphase : (s.hub k).spare.phase = 1) (hcopied : (s.hub k).spare.copied = true)
    (hup : s.workerUp (workerCode k 16) = true) (hframe : (s.hub k).spare.since + (s.hub k).spare.late + 823 ≤ s.mgr.frame) :
    exec (.spareReady k) s = .next ((((s.takeRole k).loadPrograms (workerCode k 16) 0x7C).raiseAll 3 (s.sparedEvents k)).forEach
      (s.groupsWithout (workerCode k (s.hub k).spare.site)) fun st g => st.afterSwitchIn g) := by
  show execSpareReady k s = _
  unfold execSpareReady
  dsimp only
  rw [if_neg (by simp [hup]), if_pos ⟨hphase, hcopied, hframe⟩]
  unfold State.sparedEvents
  dsimp only
  change Host.Outcome.next (State.forEach (if (s.groupsWithout _).isEmpty then _ else _) (s.groupsWithout _) _) = _
  split
  · rw [State.raiseAll, List.foldl_cons, List.foldl_nil, sparedFields]
    rfl
  · rw [State.raiseAll, List.foldl_map]
    rfl

theorem completes_spareReady_inRole (hphase : (s.hub k).spare.phase = 1) (hcopied : (s.hub k).spare.copied = true)
    (hup : s.workerUp (workerCode k 16) = true) (hframe : (s.hub k).spare.since + (s.hub k).spare.late + 823 ≤ s.mgr.frame) :
    Completes (.spareReady k) s fun t =>
      (t.hub k).spare.inUse = true ∧ ((s.hub k).spare.site, 16) ∈ (t.hub k).inRole ∧
      ∀ i, i < s.fit.sleds → ∃ e ∈ (t.hub i).evq, e.code = 3 := by
  let loaded := (s.takeRole k).loadPrograms (workerCode k 16) 0x7C
  have hloaded : State.RolesKept (s.takeRole k) loaded := State.loadPrograms_rolesKept _ _ _
  have hraised := loaded.raiseAll_rolesKept 3 (s.sparedEvents k)
  have hrest := foldl_rolesKept (fun st g => st.afterSwitchIn_rolesKept g) (s.groupsWithout (workerCode k (s.hub k).spare.site))
    (loaded.raiseAll 3 (s.sparedEvents k))
  obtain ⟨-, hhubs⟩ := (hloaded.trans hraised).trans hrest
  obtain ⟨hspare, hrole, -⟩ := hhubs k
  have hhub : (s.takeRole k).hub k = _ := State.updHub_hub_self _ _ _
  refine ⟨_, exec_spareReady hphase hcopied hup hframe, (congrArg Spare.inUse hspare).trans ?_, hrole ▸ ?_, fun i hi => ?_⟩
  · rw [hhub]
  · rw [hhub]
    exact List.mem_append_right _ List.mem_cons_self
  · obtain ⟨hfit, -⟩ := hloaded
    obtain ⟨e, he, hcode⟩ := loaded.raiseAll_records (s.sparedEvents_ne_nil k) 3 (by rw [hfit]; exact hi)
    obtain ⟨-, hkept⟩ := hrest
    obtain ⟨-, -, hevq⟩ := hkept i
    exact ⟨e, hevq he, hcode⟩

/-- A spare that has failed itself takes no role (R226). -/
theorem completes_spareReady_failed (hphase : (s.hub k).spare.phase = 1) (hdown : s.workerUp (workerCode k 16) = false) :
    Completes (.spareReady k) s fun t => (t.hub k).spare.phase = 0 ∧ (t.hub k).inRole = (s.hub k).inRole := by
  refine ⟨s.endSwitchIn k, if_pos ⟨hphase, by simp [hdown]⟩, ?_⟩
  obtain ⟨-, hhubs⟩ := foldl_rolesKept (fun st g => State.loseJob_rolesKept st g 5) (s.groupsWithout (workerCode k (s.hub k).spare.site))
    (((s.updHub k fun h => { h with spare := Spare.init }).updWorker (workerCode k (s.hub k).spare.site) fun x =>
      { x with flowsTo := none }).updPlane fun p =>
        { p with autos := p.autos.filter fun r => !(r.kind == 3 && r.unit == workerCode k (s.hub k).spare.site) })
  obtain ⟨hspare, hrole, -⟩ := hhubs k
  rw [State.updPlane_hub, State.updWorker_hub, State.updHub_hub_self] at hspare hrole
  exact ⟨congrArg Spare.phase hspare, hrole⟩

end Sys2Proof.Machine
end

section
/-! SUPPORT. Lanes of a failed worker, reloaded onto its spare (R227). -/

namespace Sys2Proof.Machine

variable {s t u : State} {k obj z : Nat} {o : MObj} {b : List Byte}

/-- Nothing but tier memory, with the keys its lines are written under, has changed. -/
def State.OnlyTiers (s t : State) : Prop := t = { s with mem := t.mem, keyTag := t.keyTag }

theorem State.OnlyTiers.refl (s : State) : State.OnlyTiers s s := rfl

theorem State.OnlyTiers.trans (h : State.OnlyTiers s t) (h' : State.OnlyTiers t u) : State.OnlyTiers s u := by
  unfold State.OnlyTiers at *
  rw [h', h]

theorem State.OnlyTiers.worker (h : State.OnlyTiers s t) (w : Nat) : t.worker w = s.worker w := by rw [h]; rfl

/-- A chunk of an object's lane on a worker written in its place (R175, R177). -/
def State.writeChunk (s : State) (z : Nat) (o : MObj) (b : List Byte) (cek : List Byte) (acc : Option State) (f : List Nat × Nat) : Option State :=
  if f.1.getD 0 0 ≠ o.lane then acc
  else acc.bind fun st =>
    (openChunk b cek f.2 ((b.drop (f.1.getD 3 0)).take (f.1.getD 1 0 + 16))).map fun plain =>
      st.tierWriteKey ((s.worker z).slot o.owner).gen (s.objAddr z o.secondary o.first (f.1.getD 2 0)) plain

/-- An object lane that is written on a worker changes tier memory only. -/
theorem State.reloadLane_onlyTiers (h : s.reloadLane z o b = some u) : State.OnlyTiers s u := by
  unfold State.reloadLane at h
  dsimp only at h
  split at h
  · cases h
  next cek _ =>
    obtain ⟨t, ht, rfl⟩ := Option.map_eq_some_iff.mp h
    have hfold (l : List (List Nat × Nat)) (acc : Option State) (hacc : ∀ st, acc = some st → State.OnlyTiers s st) :
        ∀ st, l.foldl (s.writeChunk z o b cek) acc = some st → State.OnlyTiers s st := by
      induction l generalizing acc with
      | nil => exact hacc
      | cons f l ih =>
        refine ih _ fun st hst => ?_
        unfold State.writeChunk at hst
        split at hst
        · exact hacc st hst
        · obtain ⟨v, hv, hplain⟩ := Option.bind_eq_some_iff.mp hst
          obtain ⟨plain, -, rfl⟩ := Option.map_eq_some_iff.mp hplain
          exact (hacc v hv).trans (v.tierWriteKey_only _ _ _)
    exact (hfold _ (some s) (fun st hst => by cases hst; exact State.OnlyTiers.refl s) t ht).trans (t.zeroGaps_only z o _)

/-- The reload is over when the failed worker has no object left (R227). -/
def State.endReload (s : State) (k v : Nat) : State :=
  if (s.worker v).objs.cells.isEmpty then s.updHub k fun h => { h with spare := { h.spare with phase := 3 } } else s

theorem State.endReload_only (s : State) (k v : Nat) : s.endReload k v = { s with hubs := (s.endReload k v).hubs } := by
  unfold State.endReload
  split <;> rfl

/-- The failed worker's object taken out of its table. -/
def State.dropLane (s : State) (v obj : Nat) : State := s.updWorker v fun x => { x with objs := x.objs.erase obj }

/-- An object that is reloaded: resident, without pins (R227). -/
def MObj.reloaded (o : MObj) (frame : Nat) : MObj := { o with state := 2, jobPins := 0, hostPins := 0, pend := 0, lastUse := frame }

/-- The object stands in the spare's table, with the pins of the jobs that name it. -/
def State.putLane (s : State) (z obj : Nat) (n : MObj) : State := (s.updWorker z fun x => { x with objs := x.objs.set obj n }).syncPins z

theorem State.putLane_onlyWorker (s : State) (z obj : Nat) (n : MObj) : OnlyWorker z s (s.putLane z obj n) := by
  unfold State.putLane State.syncPins
  exact (s.updWorker_onlyWorker z _).trans (State.updWorker_onlyWorker _ z _)

theorem State.putLane_obj (s : State) (z obj : Nat) {n : MObj} (hstate : n.state = 2) :
    ((s.putLane z obj n).worker z).objs.get? obj = some { n with jobPins := if n.secondary then 0 else s.jobRefs z obj } := by
  have hrefs : (s.updWorker z fun x => { x with objs := x.objs.set obj n }).jobRefs z obj = s.jobRefs z obj := State.jobRefs_congr rfl rfl rfl z obj
  have hput := State.syncPins_obj (s := s.updWorker z fun x => { x with objs := x.objs.set obj n }) (w := z) (n := obj) (o := n)
    (by rw [State.updWorker_worker_self]; exact Tab.get?_set_self _ _ _) (by omega) (by omega)
  rw [hrefs] at hput
  exact hput

variable (hphase : (s.hub k).spare.phase = 2) (hmoves : s.moves (workerCode k 16) = true)
  (hobj : (s.worker (workerCode k (s.hub k).spare.site)).objs.get? obj = some o)
include hphase hmoves hobj

theorem exec_moundReload : exec (.moundReload k obj) s = .next (State.endReload
    (match if (s.hub k).store.any (fun c => c.id == o.cocoon) && o.state != 1
        then (s.dropLane (workerCode k (s.hub k).spare.site) obj).reloadLane (workerCode k 16) o (s.stored k o.cocoon) else none with
      | some t => t.putLane (workerCode k 16) obj (o.reloaded (s.hub k).frame)
      | none => s.dropLane (workerCode k (s.hub k).spare.site) obj) k (workerCode k (s.hub k).spare.site)) := by
  show execMoundReload k obj s = _
  unfold execMoundReload
  dsimp only
  rw [hobj]
  dsimp only
  rw [if_pos ⟨hphase, hmoves⟩]
  rfl

theorem completes_moundReload (hsite : (s.hub k).spare.site ≠ 16) : Completes (.moundReload k obj) s fun t =>
    let v := workerCode k (s.hub k).spare.site
    let z := workerCode k 16
    let s1 := s.dropLane v obj
    let held : Prop := ((s.hub k).store.any fun c => c.id == o.cocoon) = true ∧ o.state ≠ 1
    (t.worker v).objs.get? obj = none ∧
    (∀ u, held → s1.reloadLane z o (s.stored k o.cocoon) = some u → t.mem = u.mem ∧ (t.worker z).objs.get? obj =
      some { o with
        state := 2, jobPins := if o.secondary then 0 else s.jobRefs z obj, hostPins := 0, pend := 0, lastUse := (s.hub k).frame }) ∧
    (¬held ∨ s1.reloadLane z o (s.stored k o.cocoon) = none → t.worker z = s.worker z ∧ t.mem = s.mem) ∧
    t = { s with hubs := t.hubs, workers := t.workers, mem := t.mem, keyTag := t.keyTag } := by
  have hexec := exec_moundReload hphase hmoves hobj
  have hne : workerCode k (s.hub k).spare.site ≠ workerCode k 16 := by unfold workerCode; omega
  revert hexec hne
  generalize workerCode k (s.hub k).spare.site = v
  generalize workerCode k 16 = z
  intro hexec hne
  have hdropped : ((s.dropLane v obj).worker v).objs.get? obj = none := by
    rw [State.dropLane, State.updWorker_worker_self]
    exact Tab.get?_erase_self _ _
  refine ⟨_, hexec, ?_⟩
  dsimp only
  rw [State.endReload_only]
  split
  next t ht =>
    obtain ⟨hheld, hload⟩ : ((s.hub k).store.any (fun c => c.id == o.cocoon) && o.state != 1) = true ∧
        (s.dropLane v obj).reloadLane z o (s.stored k o.cocoon) = some t := by
      split at ht
      next h => exact ⟨h, ht⟩
      next => cases ht
    have htiers := State.reloadLane_onlyTiers hload
    obtain ⟨honly, hothers⟩ := t.putLane_onlyWorker z obj (o.reloaded (s.hub k).frame)
    have hrefs : t.jobRefs z obj = s.jobRefs z obj := by
      rw [htiers]
      exact State.jobRefs_congr rfl rfl rfl z obj
    refine ⟨?_, fun u _ hu => ⟨?_, ?_⟩, fun hnot => ?_, ?_⟩
    · exact (congrArg (fun x => x.objs.get? obj) ((hothers v hne).trans (htiers.worker v))).trans hdropped
    · obtain rfl : t = u := Option.some.inj (hload.symm.trans hu)
      rw [honly]
    · rw [← hrefs]
      exact t.putLane_obj z obj rfl
    · rcases hnot with hnot | hnone
      · exact absurd (by simpa using hheld) hnot
      · exact absurd (hload.symm.trans hnone) nofun
    · rw [honly, htiers]
      rfl
  next hnone =>
    refine ⟨hdropped, fun u hheld hu => ?_, fun _ => ⟨(State.updWorker_worker_ne s _ hne.symm : (s.dropLane v obj).worker z = s.worker z), rfl⟩, rfl⟩
    rw [if_pos (by simpa using hheld)] at hnone
    exact absurd (hu.symm.trans hnone) nofun

end Sys2Proof.Machine
end

section
/-! The obligation about failed workers and the spares that replace them. -/

namespace Sys2Proof.Machine

/-- Settles O51: the loss of a worker, the steps of its spare's switch-in in their order, and each lane's reload. With which owner's secret a
lane is opened again is the model's choice (log entry 125). -/
theorem workersAreReplaced : Obligations.WorkersAreReplaced := by
  unfold Obligations.WorkersAreReplaced
  intro s w k obj o
  exact ⟨fun hup hmode i hi => completes_workerLoss hup hmode hi, completes_stashCopyEnd, completes_spareReady_inRole, completes_spareReady_failed,
    fun hphase hsite hmoves hobj => completes_moundReload hphase hmoves hobj hsite⟩

end Sys2Proof.Machine
end

section
/-! SUPPORT. The planner's commands and requests (R239, R247, R370, R371): a plan asked for, made, expired, committed, cancelled, and the
automatic requests that come before the host's. -/

namespace Sys2Proof.Machine

variable {s : State} {c : Cmd} {p : Plan} {r : PlanReq} {rest : List PlanReq}

/-! ## LACEWING_PLAN -/

/-- The states in which the planner takes commands of the host (Table 3.4). -/
def State.planOpen (s : State) : Prop := s.mgr.mode = .quiescent ∨ s.mgr.mode = .loaded ∨ s.mgr.mode = .running

/-- A command of the planner that is accepted has its effect. -/
theorem State.decideCmd_plane {op : Nat} {ranges data : Bool} {ch : List (Bool × Nat)} (eff : State → State) (hc : IsCmd c op)
    (hopen : s.planOpen) (hranges : ranges = true) (hdata : data = true) (hch : ∀ x ∈ ch, x.1 = true) :
    s.decideCmd c op ranges data [.quiescent, .loaded, .running] ch eff = eff s := by
  refine State.decideCmd_eff_of_ranges eff hc hranges hdata ?_ ?_ hch <;> rcases hopen with h | h | h <;> rw [h] <;> rfl

/-- The request that a command of the host makes of the planner. -/
def hostRequest (c : Cmd) (kind frame : Nat) (ids : List Nat) : PlanReq :=
  { kind := kind, unit := c.unit, circs := ids, auto := false, quiet := c.quiet, since := frame, cmd := some c }

/-- The planner computing the plan of a request. -/
def Plane.asking (x : Plane) (r : PlanReq) : Plane := { x with st := 1, req := some r }

/-- The planner with no request and no plan. -/
def Plane.idle (x : Plane) : Plane := { x with st := 0, req := none, plan := none }

/-- A middle tile is no FFFFh. -/
theorem unit_ne_of_isMiddle {t : Nat} (h : isMiddle t = true) : t ≠ 0xFFFF := by
  rintro rfl
  cases h

/-- LACEWING_PLAN that is accepted without host data: a plan is asked for that lists no circuits (R239). -/
theorem State.lacewingPlan_unlisted {kind : Nat} (hc : IsCmd c 0x60) (hopen : s.planOpen) (hfit : s.fit.lacewing = true)
    (hidle : s.plane.st = 0) (hsel : c.sel = kind) (hcount : c.count = 0) :
    s.lacewingPlan c kind true =
      (if kind = 2 ∧ c.unit ≠ 0xFFFF then (s.updTile c.unit fun x => { x with evacuated := false }).planInput else s).updPlane fun x =>
        x.asking (hostRequest c kind s.mgr.frame []) := by
  unfold State.lacewingPlan
  rw [State.decideCmd_plane _ hc hopen (by simp [hsel, hcount]) (by simp [hcount]) (by simp [hfit, State.planBusy, hidle])]
  dsimp only
  rw [if_pos hcount, List.mergeSort_nil]
  rfl

/-- LACEWING_PLAN that is accepted with a list of circuits: a plan is asked for that lists them in ascending order (R239). -/
theorem State.lacewingPlan_listed {kind : Nat} {d : List Byte} (hc : IsCmd c 0x60) (hopen : s.planOpen) (hfit : s.fit.lacewing = true)
    (hidle : s.plane.st = 0) (hsel : c.sel = kind) (hpos : 0 < c.count) (hcount : c.count ≤ 4096) (hunit : c.unit = 0xFFFF)
    (hdata : c.data = some d) (hlen : d.length = 2 * c.count) :
    s.lacewingPlan c kind true = s.updPlane fun x => x.asking (hostRequest c kind s.mgr.frame ((list16 d).mergeSort (· ≤ ·))) := by
  unfold State.lacewingPlan
  rw [State.decideCmd_plane _ hc hopen (by simp [hsel, hcount]) (by simp [hdata, hlen]) (by simp [hfit, State.planBusy, hidle])]
  dsimp only
  rw [if_neg hpos.ne', if_neg (by simp [hunit]), hdata]
  rfl

theorem completes_lacewingPlan_unlisted (hc : IsCmd c 0x60) (hopen : s.planOpen) (hfit : s.fit.lacewing = true) (hidle : s.plane.st = 0)
    (hcount : c.count = 0) (hmiddle : isMiddle c.unit = true) (htile : s.fit.tileOk c.unit = true) :
    (c.sel = 0 → Completes (.lacewingPlanBypass c) s fun t => t = { s with plane := s.plane.asking (hostRequest c 0 s.mgr.frame []) }) ∧
    (c.sel = 1 → Completes (.lacewingPlanEvacuate c) s fun t => t = { s with plane := s.plane.asking (hostRequest c 1 s.mgr.frame []) }) ∧
    (c.sel = 2 → c.data = none → (s.tile c.unit).evacuated = true → Completes (.lacewingPlanRestore c) s fun t =>
      (t.tile c.unit).evacuated = false ∧ t.plane.st = 1 ∧ t = { s with plane := t.plane, tiles := t.tiles }) := by
  have hunit := unit_ne_of_isMiddle hmiddle
  refine ⟨fun hsel => ⟨_, rfl, ?_⟩, fun hsel => ⟨_, rfl, ?_⟩, fun hsel hdata hout => ?_⟩
  · unfold State.planBypass
    rw [if_neg hunit, show (c.count == 0 && isMiddle c.unit && (!s.fit.lacewing || s.fit.tileOk c.unit)) = true by simp [hcount, hmiddle, htile],
      State.lacewingPlan_unlisted hc hopen hfit hidle hsel hcount, if_neg (by simp)]
    rfl
  · unfold State.planEvacuate
    rw [show (c.count == 0 && isMiddle c.unit && (!s.fit.lacewing || s.fit.tileOk c.unit)) = true by simp [hcount, hmiddle, htile],
      State.lacewingPlan_unlisted hc hopen hfit hidle hsel hcount, if_neg (by simp)]
    rfl
  · have heff : s.planRestore c = ((s.updTile c.unit fun x => { x with evacuated := false }).planInput).updPlane fun x =>
        x.asking (hostRequest c 2 s.mgr.frame []) := by
      have hids : idsOk c = true := by unfold idsOk; rw [hdata]; rfl
      unfold State.planRestore
      rw [show (idsOk c && (c.unit == 0xFFFF || (isMiddle c.unit && (!s.fit.lacewing || (s.fit.tileOk c.unit && (s.tile c.unit).evacuated))))) = true
          by simp [hids, hmiddle, htile, hout], State.lacewingPlan_unlisted hc hopen hfit hidle hsel hcount, if_pos ⟨rfl, hunit⟩]
    have hback : ((s.updTile c.unit fun x => { x with evacuated := false }).tile c.unit).evacuated = false := by
      rw [State.updTile_tile_self]
    exact ⟨_, congrArg Host.Outcome.next heff, hback, rfl, rfl⟩

theorem completes_lacewingPlan_listed {d : List Byte} (hc : IsCmd c 0x60) (hopen : s.planOpen) (hfit : s.fit.lacewing = true)
    (hidle : s.plane.st = 0) (hpos : 0 < c.count) (hcount : c.count ≤ 4096) (hunit : c.unit = 0xFFFF) (hdata : c.data = some d)
    (hlen : d.length = 2 * c.count) (hids : idsOk c = true) :
    (c.sel = 0 → Completes (.lacewingPlanBypass c) s fun t =>
      t = { s with plane := s.plane.asking (hostRequest c 0 s.mgr.frame ((list16 d).mergeSort (· ≤ ·))) }) ∧
    (c.sel = 2 → Completes (.lacewingPlanRestore c) s fun t =>
      t = { s with plane := s.plane.asking (hostRequest c 2 s.mgr.frame ((list16 d).mergeSort (· ≤ ·))) }) := by
  refine ⟨fun hsel => ⟨_, rfl, ?_⟩, fun hsel => ⟨_, rfl, ?_⟩⟩
  · unfold State.planBypass
    rw [if_pos hunit, show (idsOk c && decide (0 < c.count)) = true by simp [hids, hpos],
      State.lacewingPlan_listed hc hopen hfit hidle hsel hpos hcount hunit hdata hlen]
    rfl
  · unfold State.planRestore
    rw [show (idsOk c && (c.unit == 0xFFFF || (isMiddle c.unit && (!s.fit.lacewing || (s.fit.tileOk c.unit && (s.tile c.unit).evacuated))))) = true
        by simp [hids, hunit], State.lacewingPlan_listed hc hopen hfit hidle hsel hpos hcount hunit hdata hlen]
    rfl

/-! ## Planning ends -/

@[simp] theorem State.final_plane (s : State) (c : Cmd) (status : Nat) (r : List (Nat × Nat)) : (s.final c status r).plane = s.plane := by
  rw [State.final_only]

theorem State.send_nextTicket (s : State) (c : Completion) : (s.send c).host.nextTicket = s.host.nextTicket := by
  unfold State.send
  split
  · rfl
  · rfl
  · split <;> rfl

@[simp] theorem State.final_nextTicket (s : State) (c : Cmd) (status : Nat) (r : List (Nat × Nat)) :
    (s.final c status r).host.nextTicket = s.host.nextTicket := State.send_nextTicket _ _

@[simp] theorem State.giveBack_plane (s : State) (c : Cmd) (a : Nat) (bytes : List Byte) : (s.giveBack c a bytes).plane = s.plane := by
  rw [State.giveBack_onlyHost]

@[simp] theorem State.giveBack_nextTicket (s : State) (c : Cmd) (a : Nat) (bytes : List Byte) :
    (s.giveBack c a bytes).host.nextTicket = s.host.nextTicket := by
  unfold State.giveBack
  split <;> rfl

/-- A plan held under a ticket (R239). -/
def Plane.holding (x : Plane) (ticket frame : Nat) (q : Plan) : Plane :=
  { x with st := 2, ticket := ticket, plan := some q, planAt := frame, planStamp := x.stamp }

/-- Planning for the host ends: the plan is held under the next ticket, or the planner is idle (R239). -/
theorem completes_planComplete (hreq : s.plane.req = some r) (hst : s.plane.st = 1) (hwait : s.planWaits r = false) (hkind : r.kind ≠ 4)
    (hauto : r.auto = false) (hcmd : r.cmd = some c) (hdata : c.data2.isSome = true) : Completes .planComplete s fun t =>
      if (s.makePlan r s.mgr.fresh).status = 0 then
        t.plane = s.plane.holding s.host.nextTicket s.mgr.frame (s.makePlan r s.mgr.fresh) ∧
          t.host.nextTicket = s.host.nextTicket % 65535 + 1
      else t.plane = s.plane.idle ∧ t.host.nextTicket = s.host.nextTicket := by
  show ∃ t, execPlanComplete s = .next t ∧ _
  unfold execPlanComplete
  simp only [hreq, hst, hwait, hkind, hauto, hcmd, hdata, and_self, if_true, if_false, Bool.false_eq_true]
  generalize s.makePlan r s.mgr.fresh = q
  by_cases hok : q.status = stOk
  · rw [if_pos hok, if_pos hok]
    refine ⟨_, rfl, ?_⟩
    rw [if_pos (show q.status = 0 from hok)]
    constructor
    · rw [State.final_plane, State.updPlane_plane, State.giveBack_plane, Plane.holding, ← hreq]
      rfl
    · rw [State.final_nextTicket, State.updPlane_host, State.giveBack_nextTicket]
      rfl
  · rw [if_neg hok, if_neg hok]
    refine ⟨_, rfl, ?_⟩
    rw [if_neg (show ¬q.status = 0 from hok)]
    constructor
    · rw [State.final_plane, State.updPlane_plane, State.giveBack_plane]
      rfl
    · rw [State.final_nextTicket, State.updPlane_host, State.giveBack_nextTicket]
      rfl

/-- A held plan expires (R239). -/
theorem completes_planExpiry (hst : s.plane.st = 2) (hage : s.plane.planAt + 64 ≤ s.mgr.frame) :
    Completes .planExpiry s fun t => t = { s with plane := s.plane.idle } := ⟨_, if_pos ⟨hst, hage⟩, rfl⟩

/-! ## LACEWING_COMMIT and LACEWING_CANCEL -/

/-- The held plan is committed at the next manager boundary (R239, R247). -/
theorem completes_lacewingCommit (hc : IsCmd c 0x61) (hopen : s.planOpen) (hfit : s.fit.lacewing = true) (hst : s.plane.st = 2)
    (hticket : s.plane.ticket = c.id) (hstamp : s.plane.stamp = s.plane.planStamp) (hplan : s.plane.plan = some p) :
    Completes (.lacewingCommit c) s fun t =>
      t.plane.st = 3 ∧ t.plane.plan = none ∧ (∃ o ∈ t.plane.ops, o.plan = p ∧ o.commit = s.mgr.frame + 1 ∧ o.wave = 0 ∧ o.cmd = some c) ∧
      t = { s.interim c with plane := t.plane } := by
  have heff : s.lacewingCommit c = (s.interim c).startOp p (s.mgr.frame + 1) (some c) false := by
    unfold State.lacewingCommit
    dsimp only
    rw [State.decideCmd_plane _ hc hopen rfl rfl (by simp [hfit, hst, hticket, hstamp]), hplan]
  refine ⟨_, congrArg Host.Outcome.next heff, rfl, rfl, ?_, rfl⟩
  exact ⟨_, List.mem_append_right _ List.mem_cons_self, rfl, rfl, rfl, rfl⟩

/-- The held plan is discarded (R239). -/
theorem completes_lacewingCancel (hc : IsCmd c 0x62) (hopen : s.planOpen) (hfit : s.fit.lacewing = true) (hst : s.plane.st = 2)
    (hticket : s.plane.ticket = c.id) :
    Completes (.lacewingCancel c) s fun t => t = ({ s with plane := s.plane.idle } : State).final c 0 := by
  refine ⟨_, rfl, ?_⟩
  unfold State.lacewingCancel
  rw [State.decideCmd_plane _ hc hopen rfl rfl (by simp [hfit, hst, hticket])]
  rfl

/-! ## Automatic requests -/

/-- The planner computing the plan of an automatic request, the first of those that wait (R371). -/
def Plane.askingAuto (x : Plane) (r : PlanReq) (frame : Nat) (rest : List PlanReq) : Plane :=
  { x with st := 1, req := some { r with since := frame, quiet := x.quietOnly }, plan := none, autos := rest }

/-- The request of a host whose plan is being computed is abandoned with BUSY (R371). -/
def State.abandonPlan (s : State) : State :=
  match s.plane.st, s.plane.req with | 1, some q => s.final? q.cmd stBusy | _, _ => s

theorem State.abandonPlan_of_ne (h : s.plane.st ≠ 1) : s.abandonPlan = s := by
  unfold State.abandonPlan
  split
  next hst _ => exact absurd hst h
  next => rfl

theorem State.abandonPlan_of_req {x : PlanReq} (hst : s.plane.st = 1) (hreq : s.plane.req = some x) : s.abandonPlan = s.final? x.cmd 0x42 := by
  unfold State.abandonPlan
  rw [hst, hreq]
  rfl

theorem State.abandonPlan_plane (s : State) : s.abandonPlan.plane = s.plane := by
  unfold State.abandonPlan
  split
  next x _ _ =>
    obtain ⟨hubs, host, scb, h⟩ := s.finalQ_only x.cmd stBusy []
    rw [h]
  next => rfl

theorem exec_automaticRequest (hautos : s.plane.autos = r :: rest) (hst : s.plane.st ≠ 3) (hmine : ∀ x, s.plane.req = some x → x.auto = false)
    (hopen : s.planOpen ∨ s.mgr.mode = .passage) :
    exec .automaticRequest s = .next (s.abandonPlan.updPlane fun x => x.askingAuto r s.mgr.frame rest) := by
  show execAutomaticRequest s = _
  unfold execAutomaticRequest
  dsimp only
  rw [hautos]
  refine (if_pos ⟨?_, hst, ?_⟩).trans rfl
  · rcases hopen with (h | h | h) | h <;> simp [h]
  · split
    next x hx => rw [hmine x hx]; rfl
    next => rfl

theorem completes_automaticRequest (hautos : s.plane.autos = r :: rest) (hst : s.plane.st ≠ 3)
    (hmine : ∀ x, s.plane.req = some x → x.auto = false) (hopen : s.planOpen ∨ s.mgr.mode = .passage) :
    Completes .automaticRequest s fun t =>
      t.plane = s.plane.askingAuto r s.mgr.frame rest ∧ (s.plane.st ≠ 1 → t = { s with plane := t.plane }) ∧
      ∀ x, s.plane.st = 1 → s.plane.req = some x → t = { s.final? x.cmd 0x42 with plane := t.plane } := by
  refine ⟨_, exec_automaticRequest hautos hst hmine hopen, ?_, fun hne => ?_, fun x hcomp hreq => ?_⟩
  · rw [State.updPlane_plane, State.abandonPlan_plane]
  · rw [State.abandonPlan_of_ne hne]
    rfl
  · rw [State.abandonPlan_of_req hcomp hreq]
    rfl

end Sys2Proof.Machine
end

section
/-! The obligation about the plans of the plane. -/

namespace Sys2Proof.Machine

/-- Settles O52: each way into the planner and out of it. That a ticket counts the plans that succeed is the model's choice (log entry 12). -/
theorem plansAreMadeAndCommitted : Obligations.PlansAreMadeAndCommitted := by
  unfold Obligations.PlansAreMadeAndCommitted
  intro s c p r rest
  refine ⟨fun hc hopen hfit hidle => ⟨?_, fun d hpos hcount hunit hdata hlen hids => ?_⟩, ?_, ?_, ?_, ?_, ?_⟩
  · exact fun hcount hmiddle htile => completes_lacewingPlan_unlisted hc hopen hfit hidle hcount hmiddle htile
  · exact completes_lacewingPlan_listed hc hopen hfit hidle hpos hcount hunit hdata hlen hids
  · exact completes_planComplete
  · exact completes_planExpiry
  · exact completes_lacewingCommit
  · exact completes_lacewingCancel
  · exact completes_automaticRequest

end Sys2Proof.Machine
end

section
/-! SUPPORT. Circuits that go DOWN or are torn: what they leave of the manager, the planner, the tiles that have failed, and the
events recorded (R208, R217, R248). -/

namespace Sys2Proof.Machine

variable {s : State} {c d g k x cause : Nat} {cs : List Nat}

/-- The planner's record but for the automatic requests that wait and the count of its inputs' changes. -/
def Plane.record (x : Plane) : Plane := { x with autos := [], stamp := 0 }

/-- A tile that has failed, and its verify in progress. -/
def Tile.health (x : Tile) : Bool × Option Verify := (x.failed, x.verify)

/-- Of the machine, what neither a tear nor a circuit that goes DOWN changes. -/
def State.unitView (s : State) : Mgr × Plane × (Nat → Bool × Option Verify) :=
  (s.mgr, s.plane.record, fun x => (s.tile x).health)

/-- What every step of a pass leaves of the units, the pass leaves. -/
theorem State.foldl_unitView {α : Type} {f : State → α → State} (h : ∀ s a, (f s a).unitView = s.unitView) (l : List α) (s : State) :
    (l.foldl f s).unitView = s.unitView := foldl_keeps State.unitView f h l s

theorem State.mgr_of_unitView {t : State} (h : t.unitView = s.unitView) : t.mgr = s.mgr := congrArg (fun v => v.1) h

theorem State.record_of_unitView {t : State} (h : t.unitView = s.unitView) : t.plane.record = s.plane.record := congrArg (fun v => v.2.1) h

theorem Plane.ops_of_record {x y : Plane} (h : y.record = x.record) : y.ops = x.ops :=
  (congrArg Plane.ops h : y.record.ops = x.record.ops)

theorem Plane.autoBypass_of_record {x y : Plane} (h : y.record = x.record) : y.autoBypass = x.autoBypass :=
  (congrArg Plane.autoBypass h : y.record.autoBypass = x.record.autoBypass)

theorem Plane.fibers_of_record {x y : Plane} (h : y.record = x.record) : y.fiberIn = x.fiberIn ∧ y.fiberOut = x.fiberOut :=
  ⟨(congrArg Plane.fiberIn h : y.record.fiberIn = x.record.fiberIn), (congrArg Plane.fiberOut h : y.record.fiberOut = x.record.fiberOut)⟩

theorem State.health_of_unitView {t : State} (h : t.unitView = s.unitView) (x : Nat) : (t.tile x).health = (s.tile x).health :=
  congrFun (congrArg (fun v => v.2.2) h) x

theorem State.updTile_unitView {f : Tile → Tile} (hf : ∀ x, (f x).health = x.health) (s : State) (i : Nat) :
    (s.updTile i f).unitView = s.unitView := by
  refine Prod.ext rfl (Prod.ext rfl (funext fun j => ?_))
  simp only [State.unitView, State.updTile_tile]
  split
  next h => rw [h, hf]
  next => rfl

theorem State.raise_unitView (s : State) (code : Nat) (fields : List (Nat × Nat × Nat)) : (s.raise code fields).unitView = s.unitView := by
  rw [State.raise_only]; rfl

theorem State.final_unitView (s : State) (c : Cmd) (status : Nat) (r : List (Nat × Nat)) : (s.final c status r).unitView = s.unitView := by
  rw [State.final_only]; rfl

/-! ## DOWN -/

theorem State.loseJob_unitView (s : State) (g reason : Nat) : (s.loseJob g reason).unitView = s.unitView := by
  cases hrun : (s.group g).running with
  | none => unfold State.loseJob; rw [hrun]
  | some j =>
    obtain ⟨fields, heq⟩ := State.loseJob_running hrun reason
    rw [heq, State.endJob_only]
    exact (State.final_unitView _ _ _ _).trans (s.raise_unitView _ _)

theorem State.endSwitchIn_unitView (s : State) (k : Nat) : (s.endSwitchIn k).unitView = s.unitView :=
  State.foldl_unitView (fun st g => st.loseJob_unitView g 5) _ _

theorem State.downCircuit_unitView (s : State) (c : Nat) : (s.downCircuit c).unitView = s.unitView := by
  refine (State.foldl_unitView (fun st k => st.endSwitchIn_unitView k) (s.switchInOf c) _).trans ?_
  split <;> rfl

theorem State.forEach_downCircuit_unitView (l : List Nat) (s : State) : (s.forEach l State.downCircuit).unitView = s.unitView :=
  State.foldl_unitView State.downCircuit_unitView l s

theorem State.forEach_downCircuit_circ (l : List Nat) (s : State) (h : d ∉ l) : (s.forEach l State.downCircuit).circ d = s.circ d :=
  State.forEach_of_notMem (part := State.circ) (fun st c e he => (st.downCircuit_circ c e).trans (if_neg he)) h s

/-! ## Tears -/

theorem Tile.parkElem_health (x : Tile) (e : Nat) : (x.parkElem e).health = x.health := rfl

theorem State.parkRoute_unitView (s : State) (c : Nat) : (s.parkRoute c).unitView = s.unitView := by
  unfold State.parkRoute
  split
  · rfl
  · exact State.foldl_unitView (fun a h => State.foldl_unitView (fun b e =>
      State.updTile_unitView (fun x => x.parkElem_health e) b _) _ a) _ s

theorem State.stopGroups_unitView (s : State) (gs : List Nat) (reason : Nat) : (s.stopGroups gs reason).unitView = s.unitView :=
  State.foldl_unitView (fun st g => by rw [State.stopGroup_only]; rfl) gs s

theorem State.tearCircuit_unitView (s : State) (c cause : Nat) : (s.tearCircuit c cause).unitView = s.unitView := by
  unfold State.tearCircuit
  split
  · exact (State.stopGroups_unitView _ _ _).trans (State.parkRoute_unitView _ c)
  · rfl

theorem State.tearCircuits_unitView (s : State) (cs : List Nat) (cause : Nat) : (s.tearCircuits cs cause).unitView = s.unitView :=
  State.foldl_unitView (fun st c => st.tearCircuit_unitView c cause) cs s

theorem State.tearCircuit_state (h : (s.circ c).standing = true) (cause : Nat) : ((s.tearCircuit c cause).circ c).state = 6 := by
  obtain ⟨-, -, htorn⟩ := s.tearCircuit_circ c cause
  exact htorn h

/-- The tear of a circuit that is torn records its cause (R208). -/
theorem State.tearCircuit_cause (h : (s.circ c).standing = true) (cause : Nat) :
    ∃ z, ((s.tearCircuit c cause).circ c).tear = some z ∧ z.cause = cause := by
  unfold State.tearCircuit
  rw [if_pos h]
  dsimp only
  generalize hu : s.updCirc c (fun _ => _) = u
  have hcircs : (((u.parkRoute c).stopGroups (s.circGroups c) 3).planInput).circs = u.circs :=
    congrArg Prod.fst ((State.stopGroups_optics (u.parkRoute c) _ _).trans (u.parkRoute_optics c))
  rw [State.circ, hcircs, ← hu, ← State.circ, State.updCirc_circ_self]
  exact ⟨_, rfl, rfl⟩

/-- The events that hubs have recorded. -/
def State.evqs (s : State) : Nat → List EventRec := fun k => (s.hub k).evq

theorem State.stopGroups_evqs (s : State) (gs : List Nat) (reason : Nat) : (s.stopGroups gs reason).evqs = s.evqs := by
  refine foldl_keeps State.evqs _ (fun st g => funext fun k => ?_) gs s
  obtain ⟨l, hl⟩ := st.stopGroup_hub g reason k
  simp only [State.evqs, hl]

theorem State.updTile_evqs (s : State) (i : Nat) (f : Tile → Tile) : (s.updTile i f).evqs = s.evqs := rfl

theorem State.parkRoute_evqs (s : State) (c : Nat) : (s.parkRoute c).evqs = s.evqs := by
  unfold State.parkRoute
  split
  · rfl
  · exact foldl_keeps State.evqs _ (fun a h => foldl_keeps State.evqs _ (fun b e => b.updTile_evqs _ _) _ a) _ s

theorem State.tearCircuits_evqs (s : State) (cs : List Nat) (cause : Nat) : (s.tearCircuits cs cause).evqs = s.evqs := by
  refine foldl_keeps State.evqs _ (fun st c => ?_) cs s
  unfold State.tearCircuit
  split
  · exact (State.stopGroups_evqs _ _ _).trans (State.parkRoute_evqs _ c)
  · rfl

/-! ## The automatic bypass -/

theorem State.autoBypass_unitView (s : State) (unit : Nat) (cs : List Nat) : (s.autoBypass unit cs).unitView = s.unitView := by
  unfold State.autoBypass
  split
  · exact State.forEach_downCircuit_unitView _ s
  · split <;> rfl

/-- A torn circuit waits for its bypass where the policy allows one, and is DOWN where not (R248). -/
theorem State.autoBypass_state (unit : Nat) (h : (s.circ c).state = 6) (hc : c ∈ cs) :
    ((s.autoBypass unit cs).circ c).state = if s.plane.autoBypass then 6 else 5 := by
  unfold State.autoBypass
  cases s.plane.autoBypass with
  | false => exact State.forEach_downCircuit_state _ s (.inl (List.mem_filter.mpr ⟨hc, by simp [h]⟩))
  | true =>
    rw [if_neg (by decide), if_neg (by simpa using List.ne_nil_of_mem hc), if_pos rfl]
    exact h

end Sys2Proof.Machine
end

section
/-! SUPPORT. What the parts of a wave change (R243, R245): the settings of elements, the circuits of the wave, and the locks that are judged
afterwards. -/

namespace Sys2Proof.Machine

variable {s : State} {p : Plan} {c d due t x e : Nat}

/-! ## What each part leaves -/

/-- The machine without its plane: what no wave changes where no circuit of it goes DOWN. -/
def State.besidePlane (s : State) : State := { s with tiles := Tab.empty, circs := Tab.empty, plane := Plane.init }

theorem State.eq_of_besidePlane {u : State} (h : u.besidePlane = s.besidePlane) :
    u = { s with tiles := u.tiles, circs := u.circs, plane := u.plane } :=
  (congrArg (fun v : State => { v with tiles := u.tiles, circs := u.circs, plane := u.plane }) h : _)

theorem State.updPlane_besidePlane (s : State) (f : Plane → Plane) : (s.updPlane f).besidePlane = s.besidePlane := rfl

theorem State.mgr_of_besidePlane {u : State} (h : u.besidePlane = s.besidePlane) : u.mgr = s.mgr :=
  (congrArg State.mgr h : u.besidePlane.mgr = s.besidePlane.mgr)

/-- The elements of every tile. -/
def State.elements (s : State) : Nat → Tab Elem := fun x => (s.tile x).elems

/-- The machine without its tiles. -/
def State.besideTiles (s : State) : State := { s with tiles := Tab.empty }

theorem State.circ_of_besideTiles {u : State} (h : u.besideTiles = s.besideTiles) (c : Nat) : u.circ c = s.circ c :=
  (congrArg (fun v : State => v.circ c) h : u.besideTiles.circ c = s.besideTiles.circ c)

theorem State.plane_of_besideTiles {u : State} (h : u.besideTiles = s.besideTiles) : u.plane = s.plane :=
  (congrArg State.plane h : u.besideTiles.plane = s.besideTiles.plane)

theorem State.besidePlane_of_besideTiles {u : State} (h : u.besideTiles = s.besideTiles) : u.besidePlane = s.besidePlane :=
  (congrArg State.besidePlane h : u.besideTiles.besidePlane = s.besideTiles.besidePlane)

/-- What a change of heater cells leaves: the machine but for its tiles, and the tiles' elements. -/
def State.besideHeaters (s : State) : State × (Nat → Tab Elem) := (s.besideTiles, s.elements)

theorem State.besideTiles_of_besideHeaters {u : State} (h : u.besideHeaters = s.besideHeaters) : u.besideTiles = s.besideTiles :=
  congrArg Prod.fst h

theorem State.elements_of_besideHeaters {u : State} (h : u.besideHeaters = s.besideHeaters) : u.elements = s.elements := congrArg Prod.snd h

theorem State.updCell_besideHeaters (s : State) (t h : Nat) (f : Cell → Cell) : (s.updCell (.tile t) h f).besideHeaters = s.besideHeaters := by
  refine Prod.ext rfl (funext fun x => ?_)
  show ((s.updTile t _).tile x).elems = (s.tile x).elems
  rw [State.updTile_tile]
  split
  next hx => rw [hx]
  next => rfl

/-! ## Elements -/

/-- A change of an element's setting changes tiles alone, and of the elements that one (R242, R243). -/
theorem State.changeElem_besideHeaters (s : State) (t e : Nat) (new : Elem) :
    (s.changeElem t e new).besideHeaters = (s.updTile t fun x => { x with elems := x.elems.set e new }).besideHeaters :=
  (State.updCell_besideHeaters _ _ _ _).trans (State.updCell_besideHeaters _ _ _ _)

theorem State.changeElem_besideTiles (s : State) (t e : Nat) (new : Elem) : (s.changeElem t e new).besideTiles = s.besideTiles :=
  (State.besideTiles_of_besideHeaters (s.changeElem_besideHeaters t e new)).trans rfl

theorem State.changeElem_elem (s : State) (t e : Nat) (new : Elem) (x y : Nat) :
    ((s.changeElem t e new).elements x).get Elem.init y = if x = t ∧ y = e then new else (s.elements x).get Elem.init y := by
  rw [State.elements_of_besideHeaters (s.changeElem_besideHeaters t e new)]
  unfold State.elements
  rw [State.updTile_tile]
  by_cases hx : x = t
  · subst hx
    simp [Tab.get_set]
  · simp [hx]

/-- Changes of elements, made in their order: wave, tile, element and setting. -/
def State.setElems (s : State) (l : List (Nat × Nat × Nat × Elem)) : State :=
  l.foldl (fun st e => st.changeElem e.2.1 e.2.2.1 e.2.2.2) s

/-- What changes of elements leave: everything but the tiles. -/
theorem State.setElems_besideTiles (s : State) (l : List (Nat × Nat × Nat × Elem)) : (s.setElems l).besideTiles = s.besideTiles :=
  foldl_keeps State.besideTiles (fun st (e : Nat × Nat × Nat × Elem) => st.changeElem e.2.1 e.2.2.1 e.2.2.2)
    (fun st e => st.changeElem_besideTiles e.2.1 e.2.2.1 e.2.2.2) l s

/-- An element that one change of a list sets, and no other sets otherwise, stands in that setting. -/
theorem State.setElems_elem {l : List (Nat × Nat × Nat × Elem)} {z : Nat × Nat × Nat × Elem} (s : State)
    (hz : z ∈ l ∨ (s.elements z.2.1).get Elem.init z.2.2.1 = z.2.2.2)
    (hone : ∀ y ∈ l, y.2.1 = z.2.1 → y.2.2.1 = z.2.2.1 → y = z) :
    ((s.setElems l).elements z.2.1).get Elem.init z.2.2.1 = z.2.2.2 := by
  induction l generalizing s with
  | nil => exact hz.resolve_left List.not_mem_nil
  | cons y l ih =>
    refine ih _ ?_ fun w hw => hone w (List.mem_cons_of_mem y hw)
    rw [State.changeElem_elem]
    by_cases hy : z.2.1 = y.2.1 ∧ z.2.2.1 = y.2.2.1
    · rw [if_pos hy, hone y List.mem_cons_self hy.1.symm hy.2.symm]
      exact .inr rfl
    · rw [if_neg hy]
      exact hz.imp_left fun h => (List.mem_cons.mp h).resolve_left fun heq => hy (heq ▸ ⟨rfl, rfl⟩)

/-! ## Circuits of a wave -/

theorem State.updCells_besideHeaters (s : State) (t : Nat) (hs : List Nat) (f : Nat → Cell → Cell) :
    (s.updCells (.tile t) hs f).besideHeaters = s.besideHeaters :=
  foldl_keeps State.besideHeaters (fun st h => st.updCell (.tile t) h (f h)) (fun st h => st.updCell_besideHeaters t h (f h)) hs s

/-- Heaters that jump leave everything but their cells (R243). -/
theorem State.jumpRoute_besideHeaters (s : State) (c : Nat) : (s.jumpRoute c).besideHeaters = s.besideHeaters := by
  unfold State.jumpRoute
  refine foldl_keeps State.besideHeaters _ (fun st h => ?_) _ s
  exact foldl_keeps State.besideHeaters _ (fun a e => a.updCells_besideHeaters h.1 _ _) _ st

theorem State.jumpRoute_besideTiles (s : State) (c : Nat) : (s.jumpRoute c).besideTiles = s.besideTiles :=
  State.besideTiles_of_besideHeaters (s.jumpRoute_besideHeaters c)

theorem State.jumpRoute_circ (s : State) (c d : Nat) : (s.jumpRoute c).circ d = s.circ d :=
  State.circ_of_besideTiles (s.jumpRoute_besideTiles c) d

/-- A circuit's wave changes its circuit and heater cells. -/
theorem State.waveCirc_beside (s : State) (p : Plan) (due c : Nat) :
    (s.waveCirc p due c).besidePlane = s.besidePlane ∧ (s.waveCirc p due c).elements = s.elements ∧ (s.waveCirc p due c).plane = s.plane ∧
      ∀ d, d ≠ c → (s.waveCirc p due c).circ d = s.circ d := by
  unfold State.waveCirc
  dsimp only
  split
  · split
    · exact ⟨rfl, rfl, rfl, fun _ _ => rfl⟩
    · split
      · exact ⟨rfl, rfl, rfl, fun _ _ => rfl⟩
      · exact ⟨rfl, rfl, rfl, fun d hd => State.updCirc_circ_ne _ _ hd⟩
  · generalize hu : s.updCirc c (fun _ => _) = u
    have hjump := u.jumpRoute_besideTiles c
    refine ⟨(State.besidePlane_of_besideTiles hjump).trans ?_, (State.elements_of_besideHeaters (u.jumpRoute_besideHeaters c)).trans ?_,
      (State.plane_of_besideTiles hjump).trans ?_, fun d hd => ?_⟩
    · rw [← hu]; rfl
    · rw [← hu]; rfl
    · rw [← hu]; rfl
    · rw [State.jumpRoute_circ, ← hu, State.updCirc_circ_ne _ _ hd]

/-- A circuit that is set up from a frame (R243). -/
def Circ.setUpAt (x : Circ) (frame : Nat) : Prop := x.state = 1 ∧ x.setupAt = frame

/-- A circuit in a hit that ends at a frame (R242). -/
def Circ.hitUntil (x : Circ) (frame : Nat) : Prop := x.state = 4 ∧ x.hitTo = frame

theorem Circ.setUpAt.notLive {x : Circ} {frame : Nat} (h : x.setUpAt frame) : x.live = false := by
  obtain ⟨hstate, -⟩ := h
  simp [Circ.live, hstate]

theorem Circ.hitUntil.live {x : Circ} {frame : Nat} (h : x.hitUntil frame) : x.live = true := by
  obtain ⟨hstate, -⟩ := h
  simp [Circ.live, hstate]

theorem Circ.standing_of_live {x : Circ} (h : x.live = true) : x.standing = true := by
  unfold Circ.live at h
  unfold Circ.standing
  simp only [Bool.or_eq_true, beq_iff_eq] at h
  rcases h with (h | h) | h <;> rw [h] <;> rfl

/-- A circuit that is not live is set up in its wave (R243). -/
theorem State.waveCirc_setUp (p : Plan) (due : Nat) (h : (s.circ c).live = false) : ((s.waveCirc p due c).circ c).setUpAt s.mgr.frame := by
  unfold State.waveCirc
  dsimp only
  rw [if_neg (by simp [h]), State.jumpRoute_circ, State.updCirc_circ_self]
  exact ⟨rfl, rfl⟩

/-- A live circuit that the report lists with a change of its route is hit in its wave (R242). -/
theorem State.waveCirc_hit {z : Disturb} (due : Nat) (h : (s.circ c).live = true)
    (hz : p.report.find? (fun y => y.circuit == c) = some z) (hreason : z.reason ≠ 3) :
    ((s.waveCirc p due c).circ c).hitUntil (s.mgr.frame + z.hit) := by
  unfold State.waveCirc
  dsimp only
  rw [if_pos h, hz]
  dsimp only
  rw [if_neg hreason, State.updCirc_circ_self]
  exact ⟨rfl, rfl⟩

/-- The circuits of a wave, one after another. -/
def State.waveCircs (s : State) (p : Plan) (due : Nat) (l : List Nat) : State := s.forEach l fun st c => st.waveCirc p due c

theorem State.waveCircs_besidePlane (s : State) (p : Plan) (due : Nat) (l : List Nat) : (s.waveCircs p due l).besidePlane = s.besidePlane :=
  foldl_keeps State.besidePlane _ (fun st c => (st.waveCirc_beside p due c).1) l s

theorem State.waveCircs_elements (s : State) (p : Plan) (due : Nat) (l : List Nat) : (s.waveCircs p due l).elements = s.elements :=
  foldl_keeps State.elements _ (fun st c => (st.waveCirc_beside p due c).2.1) l s

theorem State.waveCircs_plane (s : State) (p : Plan) (due : Nat) (l : List Nat) : (s.waveCircs p due l).plane = s.plane :=
  foldl_keeps State.plane _ (fun st c => (st.waveCirc_beside p due c).2.2.1) l s

theorem State.waveCircs_of_notMem {l : List Nat} (s : State) (p : Plan) (due : Nat) (h : c ∉ l) : (s.waveCircs p due l).circ c = s.circ c :=
  State.forEach_of_notMem (part := State.circ) (fun st d e he => (st.waveCirc_beside p due d).2.2.2 e he) h s

/-- What a circuit's own wave brings about, and brings about again, holds after the wave of all. -/
theorem State.waveCircs_reaches {l : List Nat} {P Q : Circ → Prop} {m : Mgr}
    (hstep : ∀ st : State, st.mgr = m → Q (st.circ c) → P ((st.waveCirc p due c).circ c)) (hPQ : ∀ x, P x → Q x) (s : State) (hm : s.mgr = m)
    (hc : (c ∈ l ∧ Q (s.circ c)) ∨ P (s.circ c)) : P ((s.waveCircs p due l).circ c) := by
  induction l generalizing s with
  | nil => exact hc.resolve_left fun h => List.not_mem_nil h.1
  | cons d l ih =>
    obtain ⟨hbeside, -, -, hothers⟩ := s.waveCirc_beside p due d
    refine ih (s.waveCirc p due d) ((State.mgr_of_besidePlane hbeside).trans hm) ?_
    by_cases hd : c = d
    · subst hd
      exact .inr (hstep s hm (hc.elim (fun h => h.2) (hPQ _)))
    · rw [hothers c hd]
      exact hc.imp_left fun h => ⟨(List.mem_cons.mp h.1).resolve_left hd, h.2⟩

theorem State.waveCircs_setUp {l : List Nat} (s : State) (p : Plan) (due : Nat) (hc : c ∈ l) (h : (s.circ c).live = false) :
    ((s.waveCircs p due l).circ c).setUpAt s.mgr.frame :=
  State.waveCircs_reaches (Q := fun x => x.live = false) (fun st hm hst => hm ▸ st.waveCirc_setUp p due hst) (fun _ => Circ.setUpAt.notLive) s rfl
    (.inl ⟨hc, h⟩)

theorem State.waveCircs_hit {l : List Nat} {z : Disturb} (s : State) (due : Nat) (hc : c ∈ l) (h : (s.circ c).live = true)
    (hz : p.report.find? (fun y => y.circuit == c) = some z) (hreason : z.reason ≠ 3) :
    ((s.waveCircs p due l).circ c).hitUntil (s.mgr.frame + z.hit) :=
  State.waveCircs_reaches (Q := fun x => x.live = true) (fun st hm hst => hm ▸ st.waveCirc_hit due hst hz hreason) (fun _ => Circ.hitUntil.live) s rfl
    (.inl ⟨hc, h⟩)

/-! ## Locks judged -/

/-- What judgements of locks leave: the machine but for its circuits and the count of the planner's inputs, and every circuit that is neither
usable nor locked (R261). -/
def LocksJudged (s u : State) : Prop :=
  u.besidePlane = s.besidePlane ∧ u.elements = s.elements ∧ u.plane.ops = s.plane.ops ∧
    ∀ c, (s.circ c).state ≠ 2 → (s.circ c).state ≠ 3 → u.circ c = s.circ c

theorem LocksJudged.refl (s : State) : LocksJudged s s := ⟨rfl, rfl, rfl, fun _ _ _ => rfl⟩

theorem LocksJudged.trans {u v : State} (h : LocksJudged s u) (h' : LocksJudged u v) : LocksJudged s v := by
  obtain ⟨hbeside, helems, hops, hcirc⟩ := h
  obtain ⟨hbeside', helems', hops', hcirc'⟩ := h'
  refine ⟨hbeside'.trans hbeside, helems'.trans helems, hops'.trans hops, fun c h2 h3 => ?_⟩
  have hone := hcirc c h2 h3
  exact (hcirc' c (hone ▸ h2) (hone ▸ h3)).trans hone

theorem foldl_locksJudged {f : State → Nat → State} (h : ∀ st a, LocksJudged st (f st a)) (l : List Nat) (s : State) :
    LocksJudged s (l.foldl f s) :=
  List.foldlRecOn (motive := LocksJudged s) l f (LocksJudged.refl s) fun u hu a _ => hu.trans (h u a)

/-- A judgement changes a usable or a locked circuit. -/
theorem LocksJudged.of_updCirc (h : (s.circ d).state = 2 ∨ (s.circ d).state = 3) (f : Circ → Circ) :
    LocksJudged s (s.updCirc d f).planInput := by
  refine ⟨rfl, rfl, rfl, fun c h2 h3 => State.updCirc_circ_ne s f ?_⟩
  rintro rfl
  exact h.elim h2 h3

theorem State.judgeLock_judged (s : State) (t : Nat) : LocksJudged s (s.judgeLock t) := by
  unfold State.judgeLock
  refine foldl_locksJudged (fun st c => ?_) (s.tileCircs t) s
  dsimp only
  split
  next h => exact LocksJudged.of_updCirc (.inl h.1) _
  next =>
    split
    next h => exact LocksJudged.of_updCirc (.inr h.1) _
    next => exact LocksJudged.refl st

theorem State.forEach_judgeLock_judged (l : List Nat) (s : State) : LocksJudged s (s.forEach l State.judgeLock) :=
  foldl_locksJudged State.judgeLock_judged l s

end Sys2Proof.Machine
end

section
/-! The obligation about the waves of an operation and the parked plane. -/

namespace Sys2Proof.Machine

variable {s : State} {o : PlaneOp} {c wave due : Nat}

/-! ## The commit of an operation -/

/-- The circuits that an operation's plan was asked for and that go DOWN as it begins (R221). -/
def State.unset (s : State) (p : Plan) : List Nat :=
  p.asked.filter fun c => !p.circs.contains c && !(s.circ c).standing && (s.circ c).state != 5

theorem State.mem_unset {p : Plan} :
    c ∈ s.unset p ↔ c ∈ p.asked ∧ c ∉ p.circs ∧ (s.circ c).standing = false ∧ (s.circ c).state ≠ 5 := by
  simp [State.unset, and_assoc]

theorem State.downUnset_eq (s : State) (p : Plan) : s.downUnset p = s.forEach (s.unset p) State.downCircuit := rfl

/-- The machine as a wave begins, before its operation commits: with wave 0 circuits go DOWN. -/
def State.waveDowns (s : State) (o : PlaneOp) (wave : Nat) : State := if wave = 0 then s.downUnset o.plan else s

/-- The machine as a wave of an operation begins: wave 0 is the operation's commit. -/
def State.waveBegins (s : State) (o : PlaneOp) (wave : Nat) : State :=
  if wave = 0 ∧ o.plan.kind < 5 then (s.waveDowns o wave).commitOp o.plan else s.waveDowns o wave

theorem State.commitOp_beside (s : State) (p : Plan) : (s.commitOp p).circs = s.circs ∧ (s.commitOp p).mgr = s.mgr ∧
    (s.commitOp p).plane.ops = s.plane.ops ∧ (s.commitOp p).besidePlane = s.besidePlane := by
  unfold State.commitOp
  dsimp only
  split <;> exact ⟨rfl, rfl, rfl, rfl⟩

theorem State.waveDowns_keeps (s : State) (o : PlaneOp) (wave : Nat) : (s.waveDowns o wave).mgr = s.mgr ∧
    (s.waveDowns o wave).plane.ops = s.plane.ops ∧ ∀ c, wave ≠ 0 ∨ c ∉ s.unset o.plan → (s.waveDowns o wave).circ c = s.circ c := by
  unfold State.waveDowns
  split
  next h =>
    rw [State.downUnset_eq]
    have hview := State.forEach_downCircuit_unitView (s.unset o.plan) s
    exact ⟨State.mgr_of_unitView hview, Plane.ops_of_record (State.record_of_unitView hview),
      fun c hc => State.forEach_downCircuit_circ _ s (hc.resolve_left fun hne => hne h)⟩
  next => exact ⟨rfl, rfl, fun _ _ => rfl⟩

/-- The commit changes no circuit. -/
theorem State.waveBegins_circ (s : State) (o : PlaneOp) (wave c : Nat) : (s.waveBegins o wave).circ c = (s.waveDowns o wave).circ c := by
  unfold State.waveBegins
  split
  · obtain ⟨hcircs, -, -, -⟩ := (s.waveDowns o wave).commitOp_beside o.plan
    rw [State.circ, hcircs, ← State.circ]
  · rfl

/-- What the beginning of a wave leaves: the manager, the operations, and every circuit that does not go DOWN. -/
theorem State.waveBegins_keeps (s : State) (o : PlaneOp) (wave : Nat) : (s.waveBegins o wave).mgr = s.mgr ∧
    (s.waveBegins o wave).plane.ops = s.plane.ops ∧ ∀ c, wave ≠ 0 ∨ c ∉ s.unset o.plan → (s.waveBegins o wave).circ c = s.circ c := by
  obtain ⟨hmgr, hops, hcirc⟩ := s.waveDowns_keeps o wave
  obtain ⟨-, hmgr', hops', -⟩ := (s.waveDowns o wave).commitOp_beside o.plan
  refine ⟨?_, ?_, fun c hc => (s.waveBegins_circ o wave c).trans (hcirc c hc)⟩ <;> unfold State.waveBegins <;> split
  · exact hmgr'.trans hmgr
  · exact hmgr
  · exact hops'.trans hops
  · exact hops

/-- The circuits that are not set up are DOWN as the operation begins (R221). -/
theorem State.waveBegins_down (o : PlaneOp) (h : c ∈ s.unset o.plan ∨ (s.circ c).state = 5) : ((s.waveBegins o 0).circ c).state = 5 := by
  rw [State.waveBegins_circ, State.waveDowns, if_pos rfl, State.downUnset_eq]
  exact State.forEach_downCircuit_state _ s h

theorem State.waveBegins_notLive (o : PlaneOp) (wave : Nat) (h : (s.circ c).live = false) : ((s.waveBegins o wave).circ c).live = false := by
  obtain ⟨-, -, hcirc⟩ := s.waveBegins_keeps o wave
  by_cases hc : wave ≠ 0 ∨ c ∉ s.unset o.plan
  · rw [hcirc c hc]
    exact h
  · obtain ⟨rfl, hmem⟩ : wave = 0 ∧ c ∈ s.unset o.plan := by simpa using hc
    simp [Circ.live, State.waveBegins_down o (.inl hmem)]

theorem State.waveBegins_live (o : PlaneOp) (wave : Nat) (h : (s.circ c).live = true) : (s.waveBegins o wave).circ c = s.circ c := by
  obtain ⟨-, -, hcirc⟩ := s.waveBegins_keeps o wave
  refine hcirc c (.inr fun hmem => ?_)
  obtain ⟨-, -, hnot, -⟩ := State.mem_unset.mp hmem
  exact absurd hnot (by simp [Circ.standing_of_live h])

theorem State.waveBegins_besidePlane (h : wave ≠ 0 ∨ s.unset o.plan = []) : (s.waveBegins o wave).besidePlane = s.besidePlane := by
  have hsame : s.waveDowns o wave = s := by
    unfold State.waveDowns
    rcases h with h | h
    · rw [if_neg h]
    · rw [State.downUnset_eq, h]
      exact ite_self _
  unfold State.waveBegins
  rw [hsame]
  split
  · obtain ⟨-, -, -, hbeside⟩ := s.commitOp_beside o.plan
    exact hbeside
  · rfl

/-! ## The wave -/

/-- The element changes of a wave. -/
def PlaneOp.changes (o : PlaneOp) (wave : Nat) : List (Nat × Nat × Nat × Elem) := o.pendingElems.filter fun e => e.1 == wave

/-- The circuits of a wave. -/
def PlaneOp.circsIn (o : PlaneOp) (wave : Nat) : List Nat := (o.waveOf.filter fun w => w.2 == wave).map (·.1)

theorem PlaneOp.mem_circsIn : c ∈ o.circsIn wave ↔ (c, wave) ∈ o.waveOf := by
  simp [PlaneOp.circsIn]

/-- An operation with a wave done. -/
def PlaneOp.done (o : PlaneOp) (wave : Nat) : PlaneOp := { o with wave := wave + 1, pendingElems := o.pendingElems.filter fun e => e.1 != wave }

/-- A wave of an operation up to the judgement of locks. -/
def State.waveMoves (s : State) (o : PlaneOp) (wave due : Nat) : State :=
  ((s.waveBegins o wave).setElems (o.changes wave)).waveCircs o.plan due (o.circsIn wave)

/-- A wave of an operation applied (R245). -/
def State.waveDone (s : State) (o : PlaneOp) (wave due : Nat) : State :=
  (((s.waveMoves o wave due).forEach ((o.changes wave).map fun e => e.2.1).dedup State.judgeLock).updPlane fun x =>
    { x with ops := x.ops.map fun q => if q = o then q.done wave else q }).planInput

/-- The operation whose wave is due. -/
def State.dueOp (s : State) (wave : Nat) : Option PlaneOp :=
  s.plane.ops.find? fun q => q.wave == wave && decide (wave < 4) && decide (q.commit + 96 * wave ≤ s.mgr.frame)

/-- The frame by which the circuits that an operation sets up are to be usable (R217, R243). -/
def State.setUpDue (s : State) (o : PlaneOp) : Nat :=
  match s.mgr.mode, s.img.act.bind (·.boundary) with
  | .passage, some b => b + 400
  | _, _ => o.commit + if o.plan.kind = 5 then 400 else 151

theorem exec_waveApply (hop : s.dueOp wave = some o) (hsame : wave ≠ 0 ∨ o.auto = false ∨ s.plane.stamp = s.plane.planStamp) :
    exec (.waveApply wave) s = .next (s.waveDone o wave (s.setUpDue o)) := by
  have hnot : ¬(wave = 0 ∧ o.auto = true ∧ s.plane.stamp ≠ s.plane.planStamp) := by
    rintro ⟨hzero, hauto, hstamp⟩
    rcases hsame with h | h | h
    · exact h hzero
    · rw [h] at hauto; cases hauto
    · exact hstamp h
  show execWaveApply wave s = _
  unfold execWaveApply
  rw [show s.plane.ops.find? _ = some o from hop]
  dsimp only
  rw [if_neg hnot]
  rfl

variable (s o wave due)

theorem State.waveMoves_besidePlane : (s.waveMoves o wave due).besidePlane = (s.waveBegins o wave).besidePlane :=
  (State.waveCircs_besidePlane _ _ _ _).trans (State.besidePlane_of_besideTiles (State.setElems_besideTiles _ _))

theorem State.waveMoves_ops : (s.waveMoves o wave due).plane.ops = s.plane.ops := by
  obtain ⟨-, hops, -⟩ := s.waveBegins_keeps o wave
  rw [State.waveMoves, State.waveCircs_plane, State.plane_of_besideTiles (State.setElems_besideTiles _ _), hops]

/-- Before its circuits move, a wave has changed elements alone since it began. -/
theorem State.waveBegins_setElems_circ (c : Nat) : ((s.waveBegins o wave).setElems (o.changes wave)).circ c = (s.waveBegins o wave).circ c :=
  State.circ_of_besideTiles (State.setElems_besideTiles _ _) c

theorem State.waveBegins_setElems_mgr : ((s.waveBegins o wave).setElems (o.changes wave)).mgr = s.mgr := by
  obtain ⟨hmgr, -, -⟩ := s.waveBegins_keeps o wave
  exact (State.mgr_of_besidePlane (State.besidePlane_of_besideTiles (State.setElems_besideTiles _ _))).trans hmgr

variable {s o wave due}

theorem State.waveMoves_setUp (hc : (c, wave) ∈ o.waveOf) (hlive : (s.circ c).live = false) :
    ((s.waveMoves o wave due).circ c).setUpAt s.mgr.frame := by
  rw [← s.waveBegins_setElems_mgr o wave]
  refine State.waveCircs_setUp _ _ _ (PlaneOp.mem_circsIn.mpr hc) ?_
  rw [State.waveBegins_setElems_circ]
  exact State.waveBegins_notLive o wave hlive

theorem State.waveMoves_hit {z : Disturb} (hc : (c, wave) ∈ o.waveOf) (hlive : (s.circ c).live = true)
    (hz : o.plan.report.find? (fun y => y.circuit == c) = some z) (hreason : z.reason ≠ 3) :
    ((s.waveMoves o wave due).circ c).hitUntil (s.mgr.frame + z.hit) := by
  rw [← s.waveBegins_setElems_mgr o wave]
  refine State.waveCircs_hit _ _ (PlaneOp.mem_circsIn.mpr hc) ?_ hz hreason
  rw [State.waveBegins_setElems_circ, State.waveBegins_live o wave hlive]
  exact hlive

theorem State.waveMoves_down (hc : c ∈ o.plan.asked) (hnot : c ∉ o.plan.circs) (hdown : (s.circ c).standing = false)
    (hwave : ∀ n, (c, n) ∉ o.waveOf) : ((s.waveMoves o 0 due).circ c).state = 5 := by
  rw [State.waveMoves, State.waveCircs_of_notMem _ _ _ fun h => hwave 0 (PlaneOp.mem_circsIn.mp h), State.waveBegins_setElems_circ]
  refine State.waveBegins_down o ?_
  by_cases h5 : (s.circ c).state = 5
  · exact .inr h5
  · exact .inl (State.mem_unset.mpr ⟨hc, hnot, hdown, h5⟩)

theorem State.waveMoves_elem {z : Nat × Nat × Nat × Elem} (hz : z ∈ o.pendingElems) (hwave : z.1 = wave)
    (hone : ∀ y ∈ o.pendingElems, y.1 = wave → y.2.1 = z.2.1 → y.2.2.1 = z.2.2.1 → y = z) :
    ((s.waveMoves o wave due).elements z.2.1).get Elem.init z.2.2.1 = z.2.2.2 := by
  have hchange {y : Nat × Nat × Nat × Elem} : y ∈ o.changes wave ↔ y ∈ o.pendingElems ∧ y.1 = wave := by simp [PlaneOp.changes]
  rw [State.waveMoves, State.waveCircs_elements]
  exact State.setElems_elem _ (.inl (hchange.mpr ⟨hz, hwave⟩)) fun y hy => hone y (hchange.mp hy).1 (hchange.mp hy).2

/-- A wave that is due: its elements, its circuits, those that are not set up, and the operation with the wave done (R242, R243, R245). -/
theorem completes_waveApply (hop : s.dueOp wave = some o) (hsame : wave ≠ 0 ∨ o.auto = false ∨ s.plane.stamp = s.plane.planStamp) :
    Completes (.waveApply wave) s fun t =>
      (∀ x ∈ o.pendingElems, x.1 = wave → (∀ y ∈ o.pendingElems, y.1 = wave → y.2.1 = x.2.1 → y.2.2.1 = x.2.2.1 → y = x) →
        (t.tile x.2.1).elems.get Elem.init x.2.2.1 = x.2.2.2) ∧
      (∀ c, (c, wave) ∈ o.waveOf → (s.circ c).live = false → (t.circ c).state = 1 ∧ (t.circ c).setupAt = s.mgr.frame) ∧
      (∀ c d, (c, wave) ∈ o.waveOf → (s.circ c).live = true → o.plan.report.find? (fun z => z.circuit == c) = some d → d.reason ≠ 3 →
        (t.circ c).state = 4 ∧ (t.circ c).hitTo = s.mgr.frame + d.hit) ∧
      (∀ c ∈ o.plan.asked, wave = 0 → c ∉ o.plan.circs → (s.circ c).standing = false → (∀ n, (c, n) ∉ o.waveOf) → (t.circ c).state = 5) ∧
      (∃ q ∈ t.plane.ops, q.wave = wave + 1 ∧ q.plan = o.plan) ∧
      (wave ≠ 0 ∨ (∀ c ∈ o.plan.asked, c ∈ o.plan.circs ∨ (s.circ c).standing = true ∨ (s.circ c).state = 5) →
        t = { s with tiles := t.tiles, circs := t.circs, plane := t.plane }) := by
  have hexec := exec_waveApply hop hsame
  generalize s.setUpDue o = due at hexec
  obtain ⟨hbeside, helems, hops, hcirc⟩ :=
    State.forEach_judgeLock_judged ((o.changes wave).map fun e => e.2.1).dedup (s.waveMoves o wave due)
  have hjudged (c : Nat) (h2 : ((s.waveMoves o wave due).circ c).state ≠ 2) (h3 : ((s.waveMoves o wave due).circ c).state ≠ 3) :
      (s.waveDone o wave due).circ c = (s.waveMoves o wave due).circ c := hcirc c h2 h3
  refine ⟨_, hexec, fun x hx hwave hone => ?_, fun c hc hlive => ?_, fun c d hc hlive hd hreason => ?_,
    fun c hc hzero hnot hdown hwave => ?_, ?_, fun hnone => ?_⟩
  · exact (congrArg (fun f => (f x.2.1).get Elem.init x.2.2.1) helems).trans (State.waveMoves_elem hx hwave hone)
  · obtain ⟨hstate, hframe⟩ := State.waveMoves_setUp (due := due) hc hlive
    rw [hjudged c (by omega) (by omega)]
    exact ⟨hstate, hframe⟩
  · obtain ⟨hstate, hframe⟩ := State.waveMoves_hit (due := due) hc hlive hd hreason
    rw [hjudged c (by omega) (by omega)]
    exact ⟨hstate, hframe⟩
  · subst hzero
    have hstate := State.waveMoves_down (due := due) hc hnot hdown hwave
    rw [hjudged c (by omega) (by omega)]
    exact hstate
  · refine ⟨o.done wave, ?_, rfl, rfl⟩
    have hmem : o ∈ ((s.waveMoves o wave due).forEach ((o.changes wave).map fun e => e.2.1).dedup State.judgeLock).plane.ops := by
      rw [hops, State.waveMoves_ops]
      exact List.mem_of_find?_eq_some hop
    exact List.mem_map.mpr ⟨o, hmem, if_pos rfl⟩
  · have hunset : wave ≠ 0 ∨ s.unset o.plan = [] := by
      refine hnone.imp_right fun hall => List.eq_nil_iff_forall_not_mem.mpr fun c hc => ?_
      obtain ⟨hasked, hnot, hdown, h5⟩ := State.mem_unset.mp hc
      rcases hall c hasked with h | h | h
      · exact hnot h
      · rw [h] at hdown; cases hdown
      · exact h5 h
    have hdone : (s.waveDone o wave due).besidePlane = (s.waveMoves o wave due).besidePlane := (State.updPlane_besidePlane _ _).trans hbeside
    exact State.eq_of_besidePlane (hdone.trans ((s.waveMoves_besidePlane o wave due).trans (State.waveBegins_besidePlane hunset)))

/-- An automatic plan whose inputs have changed before its commit is planned again (R371). -/
theorem completes_waveApply_again (hop : s.dueOp wave = some o) (hzero : wave = 0) (hauto : o.auto = true)
    (hstamp : s.plane.stamp ≠ s.plane.planStamp) : Completes (.waveApply wave) s fun t =>
      t.plane.st = 1 ∧ o ∉ t.plane.ops ∧
      (∃ r, t.plane.req = some r ∧ r.kind = o.plan.kind ∧ r.circs = o.plan.asked ∧ r.auto = true) ∧ t = { s with plane := t.plane } := by
  have hexec : exec (.waveApply wave) s = .next (s.updPlane fun x =>
      { x with
        st := 1, ops := x.ops.filter fun q => q != o
        req := some { kind := o.plan.kind, unit := o.plan.unit, circs := o.plan.asked, auto := true, quiet := o.plan.quiet
                      since := s.mgr.frame, cmd := none } }) := by
    show execWaveApply wave s = _
    unfold execWaveApply
    rw [show s.plane.ops.find? _ = some o from hop]
    exact if_pos ⟨hzero, hauto, hstamp⟩
  refine ⟨_, hexec, rfl, fun hmem => ?_, ⟨_, rfl, rfl, rfl, rfl⟩, rfl⟩
  simpa using (List.mem_filter.mp hmem).2

/-- The plane is parked: every element of every tile, and no tile stays evacuated (R249). -/
theorem completes_planePark (hdue : s.mgr.parkDue = true) : Completes .planePark s fun t =>
    (∀ x, (t.tile x).elems = Tab.empty ∧ (t.tile x).evacuated = false) ∧ t.mgr = { s.mgr with parkDue := false } ∧
    t = { s with tiles := t.tiles, mgr := t.mgr, plane := t.plane } := by
  refine ⟨_, if_pos hdue, fun x => ?_, rfl, rfl⟩
  have htile : (s.parkPlane.updMgr fun m => { m with parkDue := false }).tile x =
      { s.tile x with elems := Tab.empty, evacuated := false, cells := (s.tile x).cells.mapVals fun _ c => c.rest } :=
    Tab.get_mapVals _ s.tiles Tile.init x rfl
  rw [htile]
  exact ⟨rfl, rfl⟩

/-- Settles O53: a wave by its parts (the commit, the elements, the circuits, the locks), and the parked plane. That the circuits not set up are
DOWN at wave 0 is the model's choice (log entry 138). -/
theorem wavesAreApplied : Obligations.WavesAreApplied := by
  unfold Obligations.WavesAreApplied
  intro s wave o
  exact ⟨fun hop => ⟨completes_waveApply hop, completes_waveApply_again hop⟩, completes_planePark⟩

end Sys2Proof.Machine
end

section
/-! SUPPORT. Faults of the plane (R244, R248): loss, the segments of a circuit, tiles that fail, and the units that a technician clears. -/

namespace Sys2Proof.Machine

variable {s : State} {c x i m seg excess loss : Nat} {ins : Instr}

/-! ## Loss -/

/-- A circuit whose loss has stood above its limit is torn with cause 6h (R244). -/
theorem completes_lossOfLock (hmode : s.mgr.mode ≠ .limp) (hlive : (s.circ c).live = true)
    (hloss : ((s.circ c).state = 3 ∧ 350 + 100 * (s.circ c).qclass < loss) ∨ 700 + 100 * (s.circ c).qclass < loss) :
    Completes (.lossOfLock c loss) s fun t =>
      (t.circ c).state = 6 ∧ (∃ z, (t.circ c).tear = some z ∧ z.cause = 6) ∧ ∀ d, d ≠ c → t.circ d = s.circ d := by
  have hover : ((s.circ c).state = 3 ∧ lockLimit (s.circ c).qclass < loss) ∨ usableLimit (s.circ c).qclass + 300 < loss :=
    hloss.imp_right fun h => by unfold usableLimit; omega
  have hstands : ((s.updCirc c fun y => { y with loss := loss }).circ c).standing = true := by
    rw [State.updCirc_circ_self]
    exact Circ.standing_of_live hlive
  refine ⟨_, if_pos ⟨hmode, hlive, hover⟩, State.tearCircuit_state hstands 6, State.tearCircuit_cause hstands 6, fun d hd => ?_⟩
  obtain ⟨hothers, -, -⟩ := (s.updCirc c fun y => { y with loss := loss }).tearCircuit_circ c 6
  rw [hothers d hd, State.updCirc_circ_ne _ _ hd]

/-! ## Tiles that fail -/

/-- A tile declared failed, with a verify of it ended, before its circuits are torn (R248). -/
def State.tileLost (s : State) (x : Nat) : State :=
  let s1 := (s.updTile x fun y => { y with failed := true, verify := none, verifying := false }).planInput.arrive 10 1 0
  match (s.tile x).verify with | some v => s1.final v.cmd stOk | none => s1

theorem State.tileLost_keeps (s : State) (x : Nat) : (s.tileLost x).circs = s.circs ∧ (s.tileLost x).plane.record = s.plane.record ∧
    (s.tileLost x).tiles = (s.updTile x fun y => { y with failed := true, verify := none, verifying := false }).tiles := by
  unfold State.tileLost
  dsimp only
  split
  · rw [State.final_only]
    exact ⟨rfl, rfl, rfl⟩
  · exact ⟨rfl, rfl, rfl⟩

/-- What becomes of the circuits of a tile that fails: torn, and those of an edge tile DOWN (R248). -/
theorem State.failTile_of_up (hok : s.fit.tileOk x = true) (hup : (s.tile x).failed = false) : s.failTile x =
    if isMiddle x then ((s.tileLost x).tearCircuits (s.tileCircs x).dedup 6).autoBypass x (s.tileCircs x).dedup
    else ((s.tileLost x).tearCircuits (s.tileCircs x).dedup 6).forEach (s.tileCircs x).dedup State.downCircuit := by
  unfold State.failTile
  rw [if_pos (by simp [hok, hup])]
  rfl

theorem State.failTile_unitView (hok : s.fit.tileOk x = true) (hup : (s.tile x).failed = false) :
    (s.failTile x).unitView = (s.tileLost x).unitView := by
  rw [State.failTile_of_up hok hup]
  split
  · exact (State.autoBypass_unitView _ _ _).trans (State.tearCircuits_unitView _ _ _)
  · exact (State.forEach_downCircuit_unitView _ _).trans (State.tearCircuits_unitView _ _ _)

theorem State.failTile_health (hok : s.fit.tileOk x = true) (hup : (s.tile x).failed = false) :
    ((s.failTile x).tile x).health = (true, none) := by
  obtain ⟨-, -, htiles⟩ := s.tileLost_keeps x
  rw [State.health_of_unitView (State.failTile_unitView hok hup), State.tile, htiles, ← State.tile, State.updTile_tile_self]
  rfl

/-- A tile that is declared failed has failed, now or before. -/
theorem State.failTile_failed (hok : s.fit.tileOk x = true) : ((s.failTile x).tile x).failed = true := by
  cases hup : (s.tile x).failed with
  | false => exact congrArg Prod.fst (State.failTile_health hok hup)
  | true => rw [State.failTile, if_neg (by simp [hup]), hup]

/-- A circuit through a tile that fails waits for its bypass, or is DOWN (R248). -/
theorem State.failTile_state {d : Nat} (hok : s.fit.tileOk x = true) (hup : (s.tile x).failed = false) (hd : d ∈ s.tileCircs x)
    (hstands : (s.circ d).standing = true) : ((s.failTile x).circ d).state = if isMiddle x ∧ s.plane.autoBypass then 6 else 5 := by
  obtain ⟨hcircs, hplane, -⟩ := s.tileLost_keeps x
  have hmem : d ∈ (s.tileCircs x).dedup := List.mem_dedup.mpr hd
  have htorn : (((s.tileLost x).tearCircuits (s.tileCircs x).dedup 6).circ d).state = 6 :=
    State.tearCircuits_torn (by rw [State.circ, hcircs, ← State.circ]; exact hstands) hmem
  have hpolicy : ((s.tileLost x).tearCircuits (s.tileCircs x).dedup 6).plane.autoBypass = s.plane.autoBypass :=
    Plane.autoBypass_of_record ((State.record_of_unitView (State.tearCircuits_unitView _ _ _)).trans hplane)
  rw [State.failTile_of_up hok hup]
  cases hmid : isMiddle x with
  | true =>
    rw [if_pos rfl, State.autoBypass_state x htorn hmem, hpolicy]
    simp
  | false =>
    rw [if_neg (by decide), if_neg (by simp)]
    exact State.forEach_downCircuit_state _ _ (.inl hmem)

/-- A tile whose driver is silent, or whose supply is out of limits (R248). -/
theorem completes_tileFault (hmode : s.mgr.mode ≠ .off) (hok : s.fit.tileOk x = true) (hup : (s.tile x).failed = false)
    (hins : ins = .tileDriverSilent x ∨ ins = .tileSupplyFault x) : Completes ins s fun t =>
      (t.tile x).failed = true ∧ (t.tile x).verify = none ∧ t.mem = s.mem ∧
      ∀ d ∈ s.tileCircs x, (s.circ d).standing = true → (t.circ d).state = if isMiddle x ∧ s.plane.autoBypass then 6 else 5 := by
  have hexec : exec ins s = .next (s.failTile x) := by
    rcases hins with rfl | rfl <;> exact if_neg (by simp [hmode])
  have hhealth := State.failTile_health hok hup
  exact ⟨_, hexec, congrArg Prod.fst hhealth, congrArg Prod.snd hhealth, s.failTile_mem x, fun d hd => State.failTile_state hok hup hd⟩

/-! ## Segments -/

/-- A segment's excess recorded at its tile (R248). -/
def State.noteExcess (s : State) (c seg excess : Nat) : State := s.updTile (s.segmentTile c seg) fun y => y.reportExcess c seg excess

/-- A circuit torn by a faulted plane fiber: it waits for its bypass, or is DOWN (R248). -/
def State.tearOnFiber (s : State) (c : Nat) : State := (s.tearCircuit c 6).autoBypass 0xFFFF [c]

theorem State.tearOnFiber_state (h : (s.circ c).standing = true) :
    ((s.tearOnFiber c).circ c).state = if s.plane.autoBypass then 6 else 5 := by
  have hpolicy := Plane.autoBypass_of_record (State.record_of_unitView (s.tearCircuit_unitView c 6))
  rw [State.tearOnFiber, State.autoBypass_state 0xFFFF (State.tearCircuit_state h 6) List.mem_cons_self, hpolicy]

theorem State.tearOnFiber_fibers (s : State) (c : Nat) :
    (s.tearOnFiber c).plane.fiberIn = s.plane.fiberIn ∧ (s.tearOnFiber c).plane.fiberOut = s.plane.fiberOut :=
  Plane.fibers_of_record (State.record_of_unitView ((State.autoBypass_unitView _ _ _).trans (s.tearCircuit_unitView c 6)))

/-- A plane fiber out of use once (R248). -/
def addFiber (l : List (Nat × Nat)) (f : Nat × Nat) : List (Nat × Nat) := if l.contains f then l else l ++ [f]

theorem mem_addFiber (l : List (Nat × Nat)) (f : Nat × Nat) : f ∈ addFiber l f := by
  unfold addFiber
  split
  next h => exact List.contains_iff_mem.mp h
  next => exact List.mem_append_right _ List.mem_cons_self

/-- The plane with a fiber from an ingress tile out of use. -/
def State.cutFiberIn (s : State) (f : Nat × Nat) : State := (s.updPlane fun p => { p with fiberIn := addFiber p.fiberIn f }).planInput

/-- The plane with a fiber to an egress tile out of use. -/
def State.cutFiberOut (s : State) (f : Nat × Nat) : State := (s.updPlane fun p => { p with fiberOut := addFiber p.fiberOut f }).planInput

/-- The tile of a segment with the fault in its log (R248). -/
def State.logFault (s : State) (c seg excess : Nat) : State :=
  (s.noteExcess c seg excess).updTile (s.segmentTile c seg) fun y =>
    { y with faultLog := (s.tile (s.segmentTile c seg)).faultsWith s.mgr.frame c }

theorem exec_segmentFault (hstands : (s.circ c).standing = true) (hstate : (s.circ c).state ≠ 7) (hlow : 1 ≤ seg) (hhigh : seg ≤ 8) :
    exec (.segmentFault c seg excess) s =
      if excess ≤ 300 then .next (s.noteExcess c seg excess)
      else if seg = 3 then
        .next (((s.noteExcess c seg excess).cutFiberIn ((s.fit.edgeOf (s.circ c).src).1, (s.circ c).middle)).tearOnFiber c)
      else if seg = 6 then
        .next (((s.noteExcess c seg excess).cutFiberOut ((s.circ c).middle, (s.fit.edgeOf (s.circ c).dst).1)).tearOnFiber c)
      else if 2 ≤ ((s.tile (s.segmentTile c seg)).faultsWith s.mgr.frame c).length then
        .next ((s.logFault c seg excess).failTile (s.segmentTile c seg))
      else if isMiddle (s.segmentTile c seg) then .next ((s.logFault c seg excess).autoBypass 0xFFFF [c])
      else .next (s.logFault c seg excess) := if_pos ⟨hstands, hstate, hlow, hhigh⟩

/-- The excess of a segment is reported, and above 3.0 dB its unit is blamed (R248). -/
theorem completes_segmentFault (hstands : (s.circ c).standing = true) (hstate : (s.circ c).state ≠ 7) (hlow : 1 ≤ seg) (hhigh : seg ≤ 8) :
    (excess ≤ 300 → Completes (.segmentFault c seg excess) s fun t =>
      t.tile (s.segmentTile c seg) = (s.tile (s.segmentTile c seg)).reportExcess c seg excess ∧
      (∀ z, z ≠ s.segmentTile c seg → t.tile z = s.tile z) ∧ t = { s with tiles := t.tiles }) ∧
    (300 < excess → seg = 3 → Completes (.segmentFault c seg excess) s fun t =>
      ((s.fit.edgeOf (s.circ c).src).1, (s.circ c).middle) ∈ t.plane.fiberIn ∧ (t.circ c).state = (if s.plane.autoBypass then 6 else 5)) ∧
    (300 < excess → seg = 6 → Completes (.segmentFault c seg excess) s fun t =>
      ((s.circ c).middle, (s.fit.edgeOf (s.circ c).dst).1) ∈ t.plane.fiberOut ∧ (t.circ c).state = (if s.plane.autoBypass then 6 else 5)) ∧
    (300 < excess → seg ≠ 3 → seg ≠ 6 → s.fit.tileOk (s.segmentTile c seg) = true →
      2 ≤ ((s.tile (s.segmentTile c seg)).faultsWith s.mgr.frame c).length → Completes (.segmentFault c seg excess) s fun t =>
        (t.tile (s.segmentTile c seg)).failed = true) := by
  have hexec := exec_segmentFault (excess := excess) hstands hstate hlow hhigh
  refine ⟨fun hsmall => ?_, fun hbig h3 => ?_, fun hbig h6 => ?_, fun hbig h3 h6 hok hlog => ?_⟩
  · rw [if_pos hsmall] at hexec
    exact completes_updTile hexec rfl
  · rw [if_neg (by omega), if_pos h3] at hexec
    refine ⟨_, hexec, ?_, State.tearOnFiber_state hstands⟩
    rw [(State.tearOnFiber_fibers _ _).1]
    exact mem_addFiber _ _
  · rw [if_neg (by omega), if_neg (by omega), if_pos h6] at hexec
    refine ⟨_, hexec, ?_, State.tearOnFiber_state hstands⟩
    rw [(State.tearOnFiber_fibers _ _).2]
    exact mem_addFiber _ _
  · rw [if_neg (by omega), if_neg h3, if_neg h6, if_pos hlog] at hexec
    exact ⟨_, hexec, State.failTile_failed (s := s.logFault c seg excess) hok⟩

/-! ## Service -/

theorem mem_filter_bne {α : Type} [BEq α] [LawfulBEq α] (l : List α) (a b : α) (h : b ≠ a) : b ∈ l.filter (fun q => q != a) ↔ b ∈ l := by
  simp [h]

/-- A tile that the technician has cleared. -/
def Tile.cleared (x : Tile) : Tile := { x with failed := false, excess := Tab.empty, faultLog := [] }

/-- A module that the technician has cleared. -/
def Module.cleared (x : Module) : Module :=
  { x with
    failed := false, live := 255, sub8 := 15, sub9 := 15, degraded := 15, glowAll := false, sparing := []
    condemned := [], spareFrom := Tab.empty }

/-- The technician clears a failed tile, plane fiber or module (R248, R254). -/
theorem completes_serviceClear (hmode : s.mgr.mode = .service) :
    Completes (.serviceClear (.tile x)) s (fun t =>
      t.tile x = { s.tile x with failed := false, excess := Tab.empty, faultLog := [] } ∧ (∀ z, z ≠ x → t.tile z = s.tile z) ∧
      t = { s with tiles := t.tiles, plane := t.plane }) ∧
    Completes (.serviceClear (.fiberIn i m)) s (fun t =>
      (i, m) ∉ t.plane.fiberIn ∧ (∀ f, f ≠ (i, m) → (f ∈ t.plane.fiberIn ↔ f ∈ s.plane.fiberIn)) ∧ t = { s with plane := t.plane }) ∧
    Completes (.serviceClear (.fiberOut m i)) s (fun t =>
      (m, i) ∉ t.plane.fiberOut ∧ (∀ f, f ≠ (m, i) → (f ∈ t.plane.fiberOut ↔ f ∈ s.plane.fiberOut)) ∧ t = { s with plane := t.plane }) ∧
    Completes (.serviceClear (.module x)) s (fun t =>
      (t.module x).failed = false ∧ (t.module x).live = 255 ∧ (t.module x).degraded = 15 ∧ (∀ z, z ≠ x → t.module z = s.module z) ∧
      t = { s with modules := t.modules, plane := t.plane }) := by
  refine ⟨⟨(s.updTile x Tile.cleared).planInput, if_pos hmode, ?_, fun z hz => ?_, rfl⟩,
    ⟨_, if_pos hmode, fun h => ?_, fun f hf => mem_filter_bne _ _ _ hf, rfl⟩,
    ⟨_, if_pos hmode, fun h => ?_, fun f hf => mem_filter_bne _ _ _ hf, rfl⟩, ⟨(s.updModule x Module.cleared).planInput, if_pos hmode, ?_⟩⟩
  · exact State.updTile_tile_self s x Tile.cleared
  · exact State.updTile_tile_ne s Tile.cleared hz
  · simpa using (List.mem_filter.mp h).2
  · simpa using (List.mem_filter.mp h).2
  · have hmodule : (s.updModule x Module.cleared).planInput.module x = (s.module x).cleared := State.updModule_module_self s x Module.cleared
    dsimp only
    rw [hmodule]
    exact ⟨rfl, rfl, rfl, fun z hz => State.updModule_module_ne s Module.cleared hz, rfl⟩

end Sys2Proof.Machine
end

section
/-! SUPPORT. Faults of the lasers (R251 to R254, R279): a laser that fails, its spare, the module that has none left, and 7-λ mode. -/

namespace Sys2Proof.Machine

variable {s : State} {k lam reason c d n : Nat} {p : Sparing} {rest : List Sparing} {l : List Nat}

/-! ## Modules and the circuits that they feed -/

/-- A circuit that stands has a record among the machine's circuits. -/
theorem State.mem_circs_of_standing (hstands : (s.circ c).standing = true) : (c, s.circ c) ∈ s.circs.cells := by
  refine Tab.mem_of_get?_eq_some ?_
  cases hx : s.circs.get? c with
  | none =>
    have hinit : s.circ c = Circ.init := by rw [State.circ, Tab.get, hx, Option.getD_none]
    rw [hinit] at hstands
    cases hstands
  | some x => rw [State.circ, Tab.get, hx, Option.getD_some]

theorem State.mem_fedCircs (hstands : (s.circ c).standing = true) (hfed : fedBy k (s.circ c).src = true) : c ∈ s.fedCircs k :=
  List.mem_map.mpr ⟨(c, s.circ c), List.mem_filter.mpr ⟨State.mem_circs_of_standing hstands, by simp [hstands, hfed]⟩, rfl⟩

@[simp] theorem State.raise_module (s : State) (code : Nat) (fields : List (Nat × Nat × Nat)) (k : Nat) :
    (s.raise code fields).module k = s.module k := by rw [State.raise_only]; rfl

/-! ## A laser fails -/

/-- The laser that gives a wavelength: the fixed one, or the spare that replaces it. -/
def Module.laserOf (x : Module) (lam : Nat) : Nat := if x.sub8 = lam then 8 else if x.sub9 = lam then 9 else lam

/-- A module with a wavelength dark (R251). -/
def Module.darkened (x : Module) (lam : Nat) (cells : Tab Cell) : Module := { x with live := putBit x.live lam false, degraded := lam, cells := cells }

theorem Module.darkened_live (x : Module) (lam : Nat) (cells : Tab Cell) : (x.darkened lam cells).live.testBit lam = false :=
  (testBit_putBit _ _ _ _).trans (if_pos rfl)

/-- Cells of a module's lasers put into a mode. -/
def State.laserMode (s : State) (k mode : Nat) (hs : List Nat) (t : Tab Cell) : Tab Cell :=
  hs.foldl (fun t h => t.set h { s.cell (.module k) h with mode := mode }) t

/-- A wavelength of a module dark, its laser off, and EV_LAMBDA_DEGRADED raised (R251). -/
def State.laserDark (s : State) (k lam reason : Nat) : State :=
  (s.updModule k fun x => x.darkened lam (s.laserMode k 0 (laserCells lam ++ laserCells ((s.module k).laserOf lam)) x.cells)).raise 0x0007
    [(0, 1, k), (1, 1, lam), (2, 2, moduleBase k), (4, 4, s.mgr.frame % 2 ^ 32), (8, 1, reason), (9, 1, (s.module k).sparesFree.length - 1)]

/-- A module with a spare that starts (R253). -/
def Module.starting (x : Module) (z : Sparing) (cells : Tab Cell) : Module := { x with sparing := x.sparing ++ [z], cells := cells }

theorem State.laserDark_module (s : State) (k lam reason : Nat) :
    ∃ cells, (s.laserDark k lam reason).module k = (s.module k).darkened lam cells :=
  ⟨_, (State.raise_module _ _ _ k).trans (State.updModule_module_self s k _)⟩

theorem State.laserDark_records (s : State) (k lam reason : Nat) {i : Nat} (hi : i < s.fit.sleds) :
    ∃ e ∈ ((s.laserDark k lam reason).hub i).evq, e.code = 7 := State.raise_records _ _ _ hi

theorem State.laserDark_circ (s : State) (k lam reason c : Nat) : (s.laserDark k lam reason).circ c = s.circ c := State.raise_circ _ _ _ c

theorem State.laserFails_spared (h : (s.module k).sparesFree = n :: l) : s.laserFails k lam reason =
    (s.laserDark k lam reason).updModule k fun x =>
      x.starting { lam := lam, spare := n, since := s.mgr.frame } (s.laserMode k 3 (laserCells n) x.cells) := by
  unfold State.laserFails State.laserDark
  dsimp only
  rw [h]
  rfl

theorem State.laserFails_unspared (h : (s.module k).sparesFree = []) : s.laserFails k lam reason = (s.laserDark k lam reason).failModule k := by
  unfold State.laserFails State.laserDark
  dsimp only
  rw [h]
  rfl

/-- A module without a spare: every laser at glow level (R254). -/
def Module.spent (x : Module) : Module := { x with failed := true, glowAll := true, sparing := [] }

theorem State.failModule_module (s : State) (k : Nat) : (s.failModule k).module k = (s.module k).spent := by
  obtain ⟨-, hmodules⟩ := State.tearCircuits_ports (s.updModule k Module.spent).planInput (s.fedCircs k) 6
  have hmodule : (s.failModule k).module k = (s.updModule k Module.spent).module k := congrArg (fun t => t.get Module.init k) hmodules
  rw [hmodule, State.updModule_module_self]

theorem State.failModule_evq (s : State) (k i : Nat) : ((s.failModule k).hub i).evq = (s.hub i).evq :=
  congrFun (State.tearCircuits_evqs (s.updModule k Module.spent).planInput (s.fedCircs k) 6) i

theorem State.failModule_torn (hstands : (s.circ d).standing = true) (hfed : fedBy k (s.circ d).src = true) :
    ((s.failModule k).circ d).state = 6 :=
  State.tearCircuits_torn (s := (s.updModule k Module.spent).planInput) hstands (State.mem_fedCircs hstands hfed)

/-- A laser that has failed: its wavelength is dark and the event is raised; a spare starts, or the module fails (R251, R253, R254, R279). -/
theorem completes_laserFailure (hok : s.fit.moduleOk k = true) (hsound : (s.module k).failed = false) (hlam : lam < 8)
    (hlive : (s.module k).live.testBit lam = true) (hmode : s.mgr.mode ≠ .off) (hreason : reason = 1 ∨ reason = 2)
    (hsees : s.laserBlind k lam reason = false) : Completes (.laserFailure k lam reason) s fun t =>
      (t.module k).live.testBit lam = false ∧ (t.module k).degraded = lam ∧
      (∀ i, i < s.fit.sleds → ∃ e ∈ (t.hub i).evq, e.code = 7) ∧
      (∀ n l, (s.module k).sparesFree = n :: l →
        (t.module k).failed = false ∧ { lam := lam, spare := n, since := s.mgr.frame } ∈ (t.module k).sparing) ∧
      ((s.module k).sparesFree = [] → (t.module k).failed = true ∧ (t.module k).glowAll = true ∧
        ∀ d, (s.circ d).standing = true → fedBy k (s.circ d).src = true → (t.circ d).state = 6) := by
  have hexec : exec (.laserFailure k lam reason) s = .next (s.laserFails k lam reason) :=
    if_pos (by rcases hreason with rfl | rfl <;> simp [hok, hsound, hlam, hlive, hmode, hsees])
  obtain ⟨cells, hdark⟩ := s.laserDark_module k lam reason
  refine ⟨_, hexec, ?_⟩
  cases hspares : (s.module k).sparesFree with
  | nil =>
    have hmodule : (s.laserFails k lam reason).module k = ((s.module k).darkened lam cells).spent := by
      rw [State.laserFails_unspared hspares, State.failModule_module, hdark]
    rw [hmodule]
    refine ⟨(s.module k).darkened_live lam cells, rfl, fun i hi => ?_, fun _ _ h => absurd h nofun, fun _ => ⟨rfl, rfl, fun d hstands hfed => ?_⟩⟩
    · rw [State.laserFails_unspared hspares, State.failModule_evq]
      exact s.laserDark_records k lam reason hi
    · rw [State.laserFails_unspared hspares]
      rw [← s.laserDark_circ k lam reason d] at hstands hfed
      exact State.failModule_torn hstands hfed
  | cons n l =>
    have hmodule : ∃ cells', (s.laserFails k lam reason).module k =
        ((s.module k).darkened lam cells).starting { lam := lam, spare := n, since := s.mgr.frame } cells' := by
      rw [State.laserFails_spared hspares, State.updModule_module_self, hdark]
      exact ⟨_, rfl⟩
    obtain ⟨cells', hmodule⟩ := hmodule
    rw [hmodule]
    refine ⟨(s.module k).darkened_live lam cells, rfl, fun i hi => ?_, fun n' l' h => ?_, fun h => absurd h nofun⟩
    · rw [State.laserFails_spared hspares, State.updModule_hub]
      exact s.laserDark_records k lam reason hi
    · cases h
      exact ⟨hsound, List.mem_append_right _ List.mem_cons_self⟩

/-! ## A spare locks -/

/-- A module whose spare has locked on the frequency that was missing (R253). -/
def Module.spared (x : Module) (p : Sparing) (rest : List Sparing) (degraded frame : Nat) : Module :=
  { x with
    live := putBit x.live p.lam true, sparing := rest, degraded := degraded
    sub8 := if p.spare = 8 then p.lam else x.sub8, sub9 := if p.spare = 9 then p.lam else x.sub9
    spareFrom := x.spareFrom.set p.spare frame }

/-- A spare in, and EV_LASER_SPARED raised (R253). -/
def State.spareLocked (s : State) (k : Nat) (p : Sparing) (rest : List Sparing) : State :=
  (s.updModule k fun x => x.spared p rest (match rest with | q :: _ => q.lam | [] => 15) s.mgr.frame).raise 0x0008
    [(0, 1, k), (1, 1, p.lam), (2, 1, p.spare), (4, 4, p.since % 2 ^ 32), (8, 4, s.mgr.frame % 2 ^ 32)]

/-- Circuits return to 8-λ mode with their next token (R253). -/
def State.returnFed (s : State) (cs : List Nat) : State := s.forEach cs fun st c => st.updCirc c fun y => { y with txBack := y.tx7 }

theorem exec_spareLaserLock (h : (s.module k).sparing = p :: rest) : exec (.spareLaserLock k) s =
    .next (if rest.isEmpty then (s.spareLocked k p rest).returnFed (s.fedCircs k) else s.spareLocked k p rest) := by
  show execSpareLaserLock k s = _
  unfold execSpareLaserLock
  rw [h]
  dsimp only
  split <;> rfl

/-- A spare that locks makes its wavelength live again (R253). -/
theorem completes_spareLaserLock (h : (s.module k).sparing = p :: rest) : Completes (.spareLaserLock k) s fun t =>
    (t.module k).live.testBit p.lam = true ∧ (t.module k).sparing = rest ∧
    (p.spare = 8 → (t.module k).sub8 = p.lam) ∧ (p.spare = 9 → (t.module k).sub9 = p.lam) ∧
    ∀ i, i < s.fit.sleds → ∃ e ∈ (t.hub i).evq, e.code = 8 := by
  have hkept (u : State) (hu : u = if rest.isEmpty then (s.spareLocked k p rest).returnFed (s.fedCircs k) else s.spareLocked k p rest) :
      u.modules = (s.spareLocked k p rest).modules ∧ u.hubs = (s.spareLocked k p rest).hubs := by
    rw [hu]
    split
    · rw [State.returnFed, State.forEach_updCirc_onlyCircs]
      exact ⟨rfl, rfl⟩
    · exact ⟨rfl, rfl⟩
  refine ⟨_, exec_spareLaserLock h, ?_⟩
  obtain ⟨hmodules, hhubs⟩ := hkept _ rfl
  have hmodule : (s.spareLocked k p rest).module k = _ := (State.raise_module _ _ _ k).trans (State.updModule_module_self s k _)
  rw [State.module, hmodules, ← State.module, hmodule]
  refine ⟨(testBit_putBit _ _ _ _).trans (if_pos rfl), rfl, fun h8 => if_pos h8, fun h9 => if_pos h9, fun i hi => ?_⟩
  rw [State.hub, hhubs, ← State.hub]
  exact State.raise_records _ _ _ hi

/-! ## 7-λ mode -/

theorem feedOf_of_fedBy {q : Nat} (h : fedBy k q = true) : ∃ m, feedOf q = some (k, m) := by
  obtain ⟨f, hf, hk⟩ := (Option.any_eq_true _ _).mp h
  exact ⟨f.2, by rw [hf, ← eq_of_beq hk]⟩

/-- An end of a circuit whose module brings a spare in goes to 7-λ mode (R251, R252). -/
theorem completes_sevenLambdaSwitch {b : Bool} (hlive : (s.circ c).live = true) (hfed : fedBy k (s.circ c).src = true)
    (hsparing : (s.module k).sparing ≠ []) (hfull : (if b then (s.circ c).rx7 else (s.circ c).tx7) = false) :
    Completes (.sevenLambdaSwitch c b) s fun t =>
      t.circ c = (if b then { s.circ c with rx7 := true } else { s.circ c with tx7 := true, txBack := false }) ∧
      (∀ d, d ≠ c → t.circ d = s.circ d) ∧ t = { s with circs := t.circs } := by
  obtain ⟨m, hfeed⟩ := feedOf_of_fedBy hfed
  exact ⟨_, if_pos (by simp [hlive, hfeed, hsparing, hfull]), State.updCirc_circ_self s c _, fun d hd => State.updCirc_circ_ne s _ hd, rfl⟩

end Sys2Proof.Machine
end

section
/-! The obligation about faults of the plane and of the lasers. -/

namespace Sys2Proof.Machine

/-- Settles O54: loss, segments, tiles and their clearing; lasers, spares and 7-λ mode. That the torn circuits of an edge tile, or of any where
LCW.POLICY allows no bypass, are DOWN at once is the model's choice (log entry 77). -/
theorem planeFaultsAreHandled : Obligations.PlaneFaultsAreHandled := by
  unfold Obligations.PlaneFaultsAreHandled
  refine ⟨fun s c x seg excess loss i m => ⟨completes_lossOfLock, completes_segmentFault, ?_, completes_serviceClear⟩,
    fun s k lam reason c b p rest hok => ⟨completes_laserFailure hok, completes_spareLaserLock, completes_sevenLambdaSwitch⟩⟩
  exact fun hmode hok hup ins hins => completes_tileFault hmode hok hup hins

end Sys2Proof.Machine
end

section
/-! The obligations about Scarab words (R309, Tables 13.4 and 13.5): words written out by their fields, and the fields of each format, which
read back from the word that a well-formed instruction is spelled by. -/

namespace Sys2Proof

/-- Settles O7: each word by its fields. -/
theorem scarabWordsDecode : Obligations.ScarabWordsDecode := by
  unfold Obligations.ScarabWordsDecode
  decide

/-- The word of an instruction fits 32 bits and decodes to it. -/
def SpelledBy (i : Instr) (w : Nat) : Prop := w < 2 ^ 32 ∧ scarabDecode w = some i

variable {d a b n m : Nat}

/-! ## The fields of the formats (Table 13.4) -/

theorem scWord_fields {op x : Nat} (hop : op < 64) (hd : d < 64) (ha : a < 64) (hb : b < 64) (hx : x < 256) :
    scWord op d a b + x < 2 ^ 32 ∧ scOp (scWord op d a b + x) = op ∧ scD (scWord op d a b + x) = d ∧ scA (scWord op d a b + x) = a ∧
      scB (scWord op d a b + x) = b ∧ bitsOf (scWord op d a b + x) 7 0 = x := by
  simp only [scWord, scOp, scD, scA, scB, bitsOf]
  omega

theorem scWordI_fields {op imm : Nat} (hop : op < 64) (hd : d < 64) (ha : a < 64) (himm : imm < 2 ^ 14) :
    scWordI op d a imm < 2 ^ 32 ∧ scOp (scWordI op d a imm) = op ∧ scD (scWordI op d a imm) = d ∧ scA (scWordI op d a imm) = a ∧
      scImm (scWordI op d a imm) = imm := by
  simp only [scWordI, scOp, scD, scA, scImm, bitsOf]
  omega

/-! ## One lemma for each format -/

theorem spelledBy_r {op : Nat} {f : Nat → Nat → Nat → Instr} (hwf : (decide (d < 64) && decide (a < 64) && decide (b < 64)) = true)
    (hop : op < 64 := by decide) (harm : ∀ w, w < 2 ^ 32 → scOp w = op → scarabDecode w = scR w f := by
      intro w hw h; simp only [scarabDecode, if_neg (Nat.not_le.mpr hw), h]) : SpelledBy (f d a b) (scWord op d a b) := by
  simp only [Bool.and_eq_true, decide_eq_true_eq] at hwf
  obtain ⟨⟨hd, ha⟩, hb⟩ := hwf
  have hfields := scWord_fields hop hd ha hb (x := 0) (by decide)
  rw [Nat.add_zero] at hfields
  obtain ⟨hlt, hfop, hfd, hfa, hfb, hlow⟩ := hfields
  exact ⟨hlt, by rw [harm _ hlt hfop, scR, if_pos hlow, hfd, hfa, hfb]⟩

theorem spelledBy_i {op : Nat} {f : Nat → Nat → Nat → Instr} (hwf : (decide (d < 64) && decide (a < 64) && decide (n < 2 ^ 14)) = true)
    (hop : op < 64 := by decide) (harm : ∀ w, w < 2 ^ 32 → scOp w = op → scarabDecode w = some (f (scD w) (scA w) (scImm w)) := by
      intro w hw h; simp only [scarabDecode, if_neg (Nat.not_le.mpr hw), h]) : SpelledBy (f d a n) (scWordI op d a n) := by
  simp only [Bool.and_eq_true, decide_eq_true_eq] at hwf
  obtain ⟨⟨hd, ha⟩, hn⟩ := hwf
  obtain ⟨hlt, hfop, hfd, hfa, hfi⟩ := scWordI_fields hop hd ha hn
  exact ⟨hlt, by rw [harm _ hlt hfop, hfd, hfa, hfi]⟩

/-- LI and LUI. -/
theorem spelledBy_imm20 {op : Nat} {f : Nat → Nat → Instr} (hwf : (decide (d < 64) && decide (n < 2 ^ 20)) = true)
    (hop : op < 64 := by decide) (harm : ∀ w, w < 2 ^ 32 → scOp w = op → scarabDecode w = some (f (scD w) (bitsOf w 19 0)) := by
      intro w hw h; simp only [scarabDecode, if_neg (Nat.not_le.mpr hw), h]) : SpelledBy (f d n) (op * 2 ^ 26 + d * 2 ^ 20 + n) := by
  simp only [Bool.and_eq_true, decide_eq_true_eq] at hwf
  obtain ⟨hlt, hfop, hfd, hfi⟩ : op * 2 ^ 26 + d * 2 ^ 20 + n < 2 ^ 32 ∧ scOp (op * 2 ^ 26 + d * 2 ^ 20 + n) = op ∧
      scD (op * 2 ^ 26 + d * 2 ^ 20 + n) = d ∧ bitsOf (op * 2 ^ 26 + d * 2 ^ 20 + n) 19 0 = n := by
    simp only [scOp, scD, bitsOf]
    omega
  exact ⟨hlt, by rw [harm _ hlt hfop, hfd, hfi]⟩

/-- The words of SPAN: the timer stands in bits [13:10], the form in bits [9:8]. -/
theorem span_fields {k : Nat} (hd : d < 64) (ha : a < 64) (hn : n < 16) (hk : k < 4) :
    let w := scWord 0x1C d a 0 + n * 2 ^ 10 + k * 2 ^ 8
    w < 2 ^ 32 ∧ scOp w = 0x1C ∧ scD w = d ∧ scA w = a ∧ bitsOf w 13 10 = n ∧ bitsOf w 9 8 = k ∧ bitsOf w 7 0 = 0 := by
  simp only [scWord, scOp, scD, scA, bitsOf]
  omega

theorem spelledBy_span {k : Nat} {f : Nat → Nat → Nat → Instr} (hd : d < 64) (ha : a < 64) (hn : n < 16) (hk : k < 4 := by decide)
    (harm : ∀ w, w < 2 ^ 32 → scOp w = 0x1C → bitsOf w 7 0 = 0 → bitsOf w 9 8 = k →
        scarabDecode w = some (f (scD w) (scA w) (bitsOf w 13 10)) := by
      intro w hw h hlow hk; simp only [scarabDecode, if_neg (Nat.not_le.mpr hw), h, if_pos hlow, hk]) :
    SpelledBy (f d a n) (scWord 0x1C d a 0 + n * 2 ^ 10 + k * 2 ^ 8) := by
  obtain ⟨hlt, hop, hfd, hfa, hfn, hfk, hlow⟩ := span_fields hd ha hn hk
  exact ⟨hlt, by rw [harm _ hlt hop hlow hfk, hfd, hfa, hfn]⟩

/-- JMP and CALL. -/
theorem spelledBy_jump {op : Nat} {f : Nat → Instr} (hwf : decide (n < 2 ^ 14) = true) (hop : op < 64 := by decide)
    (harm : ∀ w, w < 2 ^ 32 → scOp w = op → scarabDecode w = if bitsOf w 25 14 = 0 then some (f (scImm w)) else none := by
      intro w hw h; simp only [scarabDecode, if_neg (Nat.not_le.mpr hw), h]) : SpelledBy (f n) (scWordI op 0 0 n) := by
  obtain ⟨hlt, hfop, -, -, hfi⟩ := scWordI_fields hop (d := 0) (a := 0) (by decide) (by decide) (of_decide_eq_true hwf)
  have hzero : bitsOf (scWordI op 0 0 n) 25 14 = 0 := by
    simp only [decide_eq_true_eq] at hwf
    simp only [scWordI, bitsOf]
    omega
  exact ⟨hlt, by rw [harm _ hlt hfop, if_pos hzero, hfi]⟩

theorem spelledBy_loop (hwf : (decide (n < 4096) && decide (m < 2 ^ 14)) = true) : SpelledBy (.loop n m) (0x27 * 2 ^ 26 + n * 2 ^ 14 + m) := by
  simp only [Bool.and_eq_true, decide_eq_true_eq] at hwf
  obtain ⟨hlt, hop, hcount, hlast⟩ : 0x27 * 2 ^ 26 + n * 2 ^ 14 + m < 2 ^ 32 ∧ scOp (0x27 * 2 ^ 26 + n * 2 ^ 14 + m) = 0x27 ∧
      bitsOf (0x27 * 2 ^ 26 + n * 2 ^ 14 + m) 25 14 = n ∧ scImm (0x27 * 2 ^ 26 + n * 2 ^ 14 + m) = m := by
    simp only [scOp, scImm, bitsOf]
    omega
  exact ⟨hlt, by simp only [scarabDecode, if_neg (Nat.not_le.mpr hlt), hop, hcount, hlast]⟩

theorem spelledBy_out (hwf : (decide (a < 64) && decide (b < 64)) = true) : SpelledBy (.out a b) (scWord 0x19 0 a b) := by
  simp only [Bool.and_eq_true, decide_eq_true_eq] at hwf
  have hfields := scWord_fields (op := 0x19) (d := 0) (x := 0) (by decide) (by decide) hwf.1 hwf.2 (by decide)
  rw [Nat.add_zero] at hfields
  obtain ⟨hlt, hop, hfd, hfa, hfb, hlow⟩ := hfields
  exact ⟨hlt, by simp only [scarabDecode, if_neg (Nat.not_le.mpr hlt), hop, if_pos (And.intro hfd hlow), hfa, hfb]⟩

theorem spelledBy_cmd (hwf : decide (a < 64) = true) : SpelledBy (.cmd a) (scWord 0x1A 0 a 0) := by
  simp only [decide_eq_true_eq] at hwf
  obtain ⟨hlt, hop, hfd, hfa, hlow⟩ : scWord 0x1A 0 a 0 < 2 ^ 32 ∧ scOp (scWord 0x1A 0 a 0) = 0x1A ∧ scD (scWord 0x1A 0 a 0) = 0 ∧
      scA (scWord 0x1A 0 a 0) = a ∧ bitsOf (scWord 0x1A 0 a 0) 13 0 = 0 := by
    simp only [scWord, scOp, scD, scA, bitsOf]
    omega
  exact ⟨hlt, by simp only [scarabDecode, if_neg (Nat.not_le.mpr hlt), hop, if_pos (And.intro hfd hlow), hfa]⟩

theorem spelledBy_time (hwf : decide (d < 64) = true) : SpelledBy (.time d) (scWord 0x1D d 0 0) := by
  simp only [decide_eq_true_eq] at hwf
  obtain ⟨hlt, hop, hfd, hlow⟩ : scWord 0x1D d 0 0 < 2 ^ 32 ∧ scOp (scWord 0x1D d 0 0) = 0x1D ∧ scD (scWord 0x1D d 0 0) = d ∧
      bitsOf (scWord 0x1D d 0 0) 19 0 = 0 := by
    simp only [scWord, scOp, scD, bitsOf]
    omega
  exact ⟨hlt, by simp only [scarabDecode, if_neg (Nat.not_le.mpr hlt), hop, if_pos hlow, hfd]⟩

/-- TAKE: bit 7 says that the OVF flag is cleared too (R318). -/
theorem spelledBy_take {c : Bool} (hwf : (decide (d < 64) && decide (b < 64)) = true) :
    SpelledBy (.take d b c) (scWord 0x1B d 0 b + bit1 c * 2 ^ 7) := by
  simp only [Bool.and_eq_true, decide_eq_true_eq] at hwf
  have hc : bit1 c < 2 := by cases c <;> decide
  obtain ⟨hlt, hop, hfd, hfa, hfb, hlow, hbit⟩ : let w := scWord 0x1B d 0 b + bit1 c * 2 ^ 7
      w < 2 ^ 32 ∧ scOp w = 0x1B ∧ scD w = d ∧ scA w = 0 ∧ scB w = b ∧ bitsOf w 6 0 = 0 ∧ w / 2 ^ 7 % 2 = bit1 c := by
    simp only [scWord, scOp, scD, scA, scB, bitsOf]
    omega
  have hclear : (scWord 0x1B d 0 b + bit1 c * 2 ^ 7).testBit 7 = c := by
    rw [Nat.testBit_eq_decide_div_mod_eq, hbit]
    cases c <;> rfl
  exact ⟨hlt, by simp only [scarabDecode, if_neg (Nat.not_le.mpr hlt), hop, if_pos (And.intro hfa hlow), hfd, hfb, hclear]⟩

/-! ## Every instruction -/

theorem and_of_decide {p q : Prop} [Decidable p] [Decidable q] (h : (decide p && decide q) = true) : p ∧ q := by simpa using h

/-- An instruction that `scarabEncode` spells is spelled by that word. -/
theorem spelledBy_scarabEncode (i : Instr) (w : Nat) (hwf : i.wf = true) (henc : scarabEncode i = some w) : SpelledBy i w := by
  unfold scarabEncode at henc
  split at henc <;> cases henc
  -- fixed words, three registers, two registers and an immediate, one register and an immediate
  case h_1 | h_2 | h_40 | h_42 => exact ⟨by decide, by decide⟩
  case h_3 | h_4 | h_5 | h_6 | h_7 | h_8 | h_9 | h_10 | h_11 | h_12 | h_13 | h_14 | h_15 | h_16 => exact spelledBy_r hwf
  case h_17 | h_18 | h_19 | h_20 | h_21 | h_22 | h_23 | h_34 | h_35 | h_36 | h_37 => exact spelledBy_i hwf
  case h_24 | h_25 => exact spelledBy_imm20 hwf
  -- OUT, CMD and TAKE
  case h_26 => exact spelledBy_out hwf
  case h_27 => exact spelledBy_cmd hwf
  case h_28 => exact spelledBy_take hwf
  -- SPAN
  case h_29 =>
    obtain ⟨hd, hn⟩ := and_of_decide hwf
    have hread := spelledBy_span (f := fun d _ n => .spanRead d n) (k := 0) hd (a := 0) (by decide) hn
    rwa [Nat.zero_mul, Nat.add_zero] at hread
  case h_30 =>
    obtain ⟨ha, hn⟩ := and_of_decide hwf
    exact spelledBy_span (f := fun _ a n => .spanArm a n) (d := 0) (by decide) ha hn
  case h_31 => exact spelledBy_span (f := fun _ _ n => .spanStart n) (d := 0) (by decide) (a := 0) (by decide) (of_decide_eq_true hwf)
  case h_32 => exact spelledBy_span (f := fun _ _ n => .spanStop n) (d := 0) (by decide) (a := 0) (by decide) (of_decide_eq_true hwf)
  -- TIME, JMP and CALL, LOOP
  case h_33 => exact spelledBy_time hwf
  case h_38 | h_39 => exact spelledBy_jump hwf
  case h_41 => exact spelledBy_loop hwf

/-- Settles O8, by the format of the instruction's word. -/
theorem scarabWordsReturn : Obligations.ScarabWordsReturn := by
  unfold Obligations.ScarabWordsReturn
  exact spelledBy_scarabEncode

end Sys2Proof
end

section
/-! The obligations about one step: it runs the front of the queue, and memory starts in its canonical form. -/

namespace Sys2Proof.Machine

/-- Settles O1, by the two forms of the queue. -/
theorem stepsRunTheFront : Obligations.StepsRunTheFront := by
  unfold Obligations.StepsRunTheFront
  refine fun s => ⟨fun c rest h => ?_, fun h => ?_⟩
  · rw [step, h]
    rfl
  · rw [step, h]

/-- Settles O3. -/
theorem memoryStartsCanonical : Obligations.MemoryStartsCanonical := by
  unfold Obligations.MemoryStartsCanonical
  exact memory_wf_nil

end Sys2Proof.Machine
end

section
/-! SUPPORT. What a command keeps: it completes, it leaves the queue of the commands that wait, and memory stays in its canonical form. One
lemma for each command that decides between outcomes. -/

namespace Sys2Proof.Machine

/-- The queue is as it was, and memory is canonical if it was. -/
def Kept (s t : State) : Prop := t.pending = s.pending ∧ (Memory.wf s.mem = true → Memory.wf t.mem = true)

/-- The command completes, with the queue as it was, and with memory canonical if it was. -/
def Keeps (s : State) (o : Host.Outcome State Fault Refusal) : Prop := ∃ t, o = .next t ∧ Kept s t

variable {s t : State}

/-- An operation that leaves memory alone keeps its form. -/
theorem Kept.of_eq (hp : t.pending = s.pending) (hm : t.mem = s.mem) : Kept s t := ⟨hp, fun h => hm.symm ▸ h⟩

@[simp] theorem keeps_next : Keeps s (.next t) ↔ t.pending = s.pending ∧ (Memory.wf s.mem = true → Memory.wf t.mem = true) := by
  simp [Keeps, Kept]

@[simp] theorem keeps_ite {c : Prop} [Decidable c] {a b : Host.Outcome State Fault Refusal} :
    Keeps s (if c then a else b) ↔ (c → Keeps s a) ∧ (¬c → Keeps s b) := by
  split <;> simp [*]

/-! ## Slots of the cores that do more than one computation -/

section
variable {w n : Nat} {sl : Slot}

/-- Issuing keeps what the operation of the slot keeps. -/
theorem keeps_issue {port occ op : Nat} {ok : Bool} {run : State → State} (h : ∀ u, Kept u (run u)) :
    Keeps s (.next (s.issue w n port occ op sl ok run)) :=
  keeps_next.mpr ⟨s.issue_pending _ _ _ _ _ _ _ _ fun u => (h u).1, s.issue_memWf _ _ _ _ _ _ _ _ fun u => (h u).2⟩

/-- Lines read one after another, with their errors. -/
theorem State.readEach_pending (w g : Nat) (l : List Nat) (e : Nat → Nat) (line : Nat → LineSource) (a : State × List Byte) :
    (l.foldl (fun acc i => let q := acc.1.readLine w g i (e i) (line i); (q.1, acc.2 ++ q.2)) a).1.pending = a.1.pending :=
  foldl_pair_pending _ (fun _ _ => by exact State.readLine_pending _ _ _ _ _ _) _ _

theorem State.readEach_mem (w g : Nat) (l : List Nat) (e : Nat → Nat) (line : Nat → LineSource) (a : State × List Byte) :
    (l.foldl (fun acc i => let q := acc.1.readLine w g i (e i) (line i); (q.1, acc.2 ++ q.2)) a).1.mem = a.1.mem :=
  foldl_pair_mem _ (fun _ _ => by exact State.readLine_mem _ _ _ _ _ _) _ _

/-- Deliveries added one after another. -/
theorem State.deliverEach_pending (s : State) (w : Nat) (l : List Nat) (place : Nat → Option Nat) (p : Nat → Nat → PendWrite) :
    (l.foldl (fun a i => a.deliverTo w (place i) (p i)) s).pending = s.pending :=
  foldl_pending _ (fun _ _ => State.deliverTo_pending _ _ _ _) _ _

theorem State.deliverEach_mem (s : State) (w : Nat) (l : List Nat) (place : Nat → Option Nat) (p : Nat → Nat → PendWrite) :
    (l.foldl (fun a i => a.deliverTo w (place i) (p i)) s).mem = s.mem := foldl_mem _ (fun _ _ => State.deliverTo_mem _ _ _ _) _ _

theorem execWload_keeps : Keeps s (execWload w n sl s) := by
  unfold execWload
  exact keeps_issue fun u => .of_eq (by simp) (by simp)

theorem execWswap_keeps : Keeps s (execWswap w n sl s) := by
  unfold execWswap
  exact keeps_issue fun u => .of_eq (by simp) (by simp)

theorem execMac_keeps : Keeps s (execMac w n sl s) := by
  unfold execMac
  exact keeps_issue fun u => .of_eq (by simp) (by simp)

theorem execDrain_keeps {upsets : List (Nat × Nat × Nat)} : Keeps s (execDrain w n sl upsets s) := by
  unfold execDrain
  refine keeps_issue fun u => ?_
  extract_lets s1
  exact .of_eq ((State.deliverEach_pending s1 w _ _ _).trans (State.updCore_pending _ _ _ _))
    ((State.deliverEach_mem s1 w _ _ _).trans (State.updCore_mem _ _ _ _))

theorem execMrd_keeps {errs : List (Nat × Nat)} : Keeps s (execMrd w n sl errs s) := by
  unfold execMrd
  extract_lets x a g slow occ ready ya
  refine keeps_issue (fun u => ?_)
  extract_lets r
  exact .of_eq ((State.deliverTo_pending _ _ _ _).trans (State.readEach_pending w g _ _ _ (u, [])))
    ((State.deliverTo_mem _ _ _ _).trans (State.readEach_mem w g _ _ _ (u, [])))

theorem execMwr_keeps : Keeps s (execMwr w n sl s) := by
  unfold execMwr
  exact keeps_issue fun u => .of_eq (by simp) (by simp)

/-- `execLsend` is unfolded as a function, as in `exec_lsend`. -/
theorem execLsend_keeps : Keeps s (execLsend w n sl s) := by
  refine (?_ : ∀ f, f = execLsend → Keeps s (f w n sl s)) _ rfl
  intro f hf
  delta execLsend at hf
  rw [hf]
  dsimp only
  split
  · refine keeps_issue fun u => ?_
    split <;> exact .of_eq (by simp) (by simp)
  · simp

theorem execOsend_keeps : Keeps s (execOsend w n sl s) := by
  unfold execOsend
  refine keeps_issue (fun u => ?_)
  split <;> exact .of_eq (by simp) (by simp)

theorem execVld_keeps : Keeps s (execVld w n sl s) := by
  unfold execVld
  exact keeps_issue fun u => .of_eq (by simp) (by simp)

theorem execVst_keeps : Keeps s (execVst w n sl s) := by
  unfold execVst
  exact keeps_issue fun u => .of_eq (foldl_pending _ (fun a k => by simp [apply_ite State.pending]) _ _)
    (foldl_mem _ (fun a k => by simp [apply_ite State.mem]) _ _)

theorem execVcvt_keeps : Keeps s (execVcvt w n sl s) := by
  unfold execVcvt
  exact keeps_issue fun u => .of_eq (by simp) (by simp)

end

/-! ## Host links -/

theorem execSqtailDoorbell_keeps {link q value : Nat} : Keeps s (execSqtailDoorbell link q value s) := by simp [execSqtailDoorbell]

theorem execCommandRecordArrival_keeps {link q : Nat} {c : Option Cmd} {mc : Nat} : Keeps s (execCommandRecordArrival link q c mc s) := by
  unfold execCommandRecordArrival
  split <;> simp

theorem execCqheadDoorbell_keeps {link q value : Nat} : Keeps s (execCqheadDoorbell link q value s) := by simp [execCqheadDoorbell]

theorem execQcfgWrite_keeps {link q value : Nat} : Keeps s (execQcfgWrite link q value s) := by simp [execQcfgWrite]

theorem execCompletionWrite_keeps {link : Nat} : Keeps s (execCompletionWrite link s) := by
  unfold execCompletionWrite
  split <;> simp

theorem execEventRecordWrite_keeps {link : Nat} : Keeps s (execEventRecordWrite link s) := by
  unfold execEventRecordWrite
  split <;> simp

theorem execLinkUp_keeps {link gts width : Nat} : Keeps s (execLinkUp link gts width s) := by simp [execLinkUp]

theorem execLinkDown_keeps {link : Nat} : Keeps s (execLinkDown link s) := by simp [execLinkDown]

/-! ## Cores and pages -/

section
variable {w n k obj : Nat}

theorem execCoreRetirementReport_keeps {w n : Nat} : Keeps s (execCoreRetirementReport w n s) := by
  unfold execCoreRetirementReport
  dsimp only
  (repeat' split) <;> simp

theorem execLogicalCoreRemap_keeps {w l : Nat} : Keeps s (execLogicalCoreRemap w l s) := by
  unfold execLogicalCoreRemap
  dsimp only
  (repeat' split) <;> simp

end

/-! ## Links, circuits and cabling -/

theorem execFlitReceive_keeps {e : WireEnd} {cycle : Nat} {errs : List (Nat × Byte)} : Keeps s (execFlitReceive e cycle errs s) := by
  unfold execFlitReceive
  dsimp only
  split <;> simp +contextual [State.flush_memWf, State.receivePort_memWf]

theorem execCreditDue_keeps {c : Nat} : Keeps s (execCreditDue c s) := by simp [execCreditDue]

theorem execCircuitTear_keeps {c : Nat} {rxEnd : Bool} : Keeps s (execCircuitTear c rxEnd s) := by
  unfold execCircuitTear
  split <;> simp

theorem execSettlement_keeps {r : WireRef} {rxEnd : Bool} : Keeps s (execSettlement r rxEnd s) := by
  unfold execSettlement
  dsimp only
  (repeat' split) <;> simp

theorem execEvCircuitTorn_keeps {r : WireRef} : Keeps s (execEvCircuitTorn r s) := by
  unfold execEvCircuitTorn
  dsimp only
  (repeat' split) <;> simp

theorem execLaneLockLoss_keeps {w j : Nat} : Keeps s (execLaneLockLoss w j s) := by simp [execLaneLockLoss]

theorem execLinkRetrainTimeout_keeps {w j : Nat} : Keeps s (execLinkRetrainTimeout w j s) := by simp [execLinkRetrainTimeout]

theorem execRangingSample_keeps {c start stop : Nat} : Keeps s (execRangingSample c start stop s) := by
  unfold execRangingSample
  split <;> simp

theorem execCircuitUsable_keeps {c loss : Nat} : Keeps s (execCircuitUsable c loss s) := by simp [execCircuitUsable]

theorem execSearchRound_keeps {seen : RoundSeen} : Keeps s (execSearchRound seen s) := by simp [execSearchRound]

theorem execSearchPassEnd_keeps : Keeps s (execSearchPassEnd s) := by
  unfold execSearchPassEnd
  dsimp only
  (repeat' split) <;> simp

theorem execLegGroup_keeps {meas : List LegMeas} : Keeps s (execLegGroup meas s) := by
  unfold execLegGroup
  dsimp only
  (repeat' split) <;> simp

theorem execPresenceContactOpen_keeps {q : Nat} : Keeps s (execPresenceContactOpen q s) := by
  unfold execPresenceContactOpen
  dsimp only
  (repeat' split) <;> simp

theorem execWorkerPortContactOpen_keeps {w p : Nat} : Keeps s (execWorkerPortContactOpen w p s) := by simp [execWorkerPortContactOpen]

theorem execReturnLight_keeps {k m : Nat} : Keeps s (execReturnLight k m s) := by simp [execReturnLight]

theorem execGlowRelease_keeps {k m : Nat} : Keeps s (execGlowRelease k m s) := by simp [execGlowRelease]

theorem execPresenceContactClose_keeps {q : Nat} : Keeps s (execPresenceContactClose q s) := by simp [execPresenceContactClose]

theorem execOnePortCheck_keeps {q : Nat} {seen : RoundSeen} {meas : List LegMeas} : Keeps s (execOnePortCheck q seen meas s) := by
  unfold execOnePortCheck
  dsimp only
  (repeat' split) <;> simp

theorem execWorkerSilence_keeps {w : Nat} : Keeps s (execWorkerSilence w s) := by simp [execWorkerSilence]

theorem execWorkerSupplyFault_keeps {w : Nat} : Keeps s (execWorkerSupplyFault w s) := by simp [execWorkerSupplyFault]

theorem execStashCopyEnd_keeps : Keeps s (execStashCopyEnd k s) := by
  unfold execStashCopyEnd
  simp only [keeps_ite, keeps_next]
  refine ⟨fun _ => ?_, fun _ => by simp⟩
  split
  · exact ⟨by simp, fun h => State.writeBank_memWf _ _ _ _ h⟩
  · simp

theorem execSpareReady_keeps {k : Nat} : Keeps s (execSpareReady k s) := by
  unfold execSpareReady
  dsimp only
  (repeat' split) <;> simp

theorem execBoardLinkRetrained_keeps {w j : Nat} : Keeps s (execBoardLinkRetrained w j s) := by simp [execBoardLinkRetrained]

/-! ## Ticks and barriers -/

theorem execFrameBoundary_keeps {bus : List Nat} : Keeps s (execFrameBoundary k bus s) := by
  simp only [execFrameBoundary, keeps_ite, keeps_next]
  refine ⟨fun _ => by simp, fun _ => ⟨fun _ => by simp, fun _ =>
    ⟨fun _ => ⟨by simp [apply_ite State.pending], fun h => ?_⟩, fun _ => by simp⟩⟩⟩
  simp only [apply_ite State.mem, State.updHub_mem, State.noteStep_mem, State.startCores_mem, State.stepHub_mem, ite_self]
  exact State.drainBuffers_memWf _ _ (by simpa using h)

theorem execSeamPhase_keeps {overrun : List (Nat × Nat × Nat)} : Keeps s (execSeamPhase k overrun s) := by
  simp only [execSeamPhase, keeps_ite, keeps_next]
  refine ⟨fun _ => ⟨State.forEach_pending _ _ _ fun u w => by simp, fun h => State.forEach_memWf _ _ _ (fun u w hu => ?_) h⟩,
    fun _ => by simp⟩
  refine State.forEach_memWf _ _ _ (fun a n ha => by simpa using ha) ?_
  simpa using State.flush_memWf _ w 8128 (by simpa using hu)

theorem execTickEdge_keeps {u : TickUnit} {ofs : Int} : Keeps s (execTickEdge u ofs s) := by
  simp [execTickEdge, apply_ite State.pending, apply_ite State.mem]

theorem execMissingTick_keeps {u : TickUnit} : Keeps s (execMissingTick u s) := by
  unfold execMissingTick
  dsimp only
  (repeat' split) <;> simp

theorem execReferenceLoss_keeps {d : Domain} : Keeps s (execReferenceLoss d s) := by simp [execReferenceLoss]

theorem execReferenceReturn_keeps {d : Domain} : Keeps s (execReferenceReturn d s) := by simp [execReferenceReturn]

theorem execBarrierTokenEmit_keeps {g w : Nat} : Keeps s (execBarrierTokenEmit g w s) := by simp [execBarrierTokenEmit]

theorem execTokenArrival_keeps {g w sender barrier : Nat} {arrival : Int} {via : Option Nat} :
    Keeps s (execTokenArrival g w sender barrier arrival via s) := by
  unfold execTokenArrival
  dsimp only
  (repeat' split) <;> simp

theorem execBarrierComplete_keeps {g w : Nat} : Keeps s (execBarrierComplete g w s) := by
  unfold execBarrierComplete
  split <;> simp

/-! ## Owners -/

section
variable {w n k obj : Nat}

theorem execMemoryTemperatureReport_keeps {w unit : Nat} {temp : Int} : Keeps s (execMemoryTemperatureReport w unit temp s) := by
  simp [execMemoryTemperatureReport]

theorem execPageRetirement_keeps {w page : Nat} : Keeps s (execPageRetirement w page s) := by
  unfold execPageRetirement
  dsimp only
  (repeat' split) <;> simp

theorem execOwnerSecretReceipt_keeps {w : Nat} : Keeps s (execOwnerSecretReceipt w s) := by
  unfold execOwnerSecretReceipt
  split <;> simp

theorem execOwnerOpenConfirm_keeps {w : Nat} : Keeps s (execOwnerOpenConfirm w s) := by
  unfold execOwnerOpenConfirm
  split <;> simp

theorem execOwnerOpenTimeout_keeps : Keeps s (execOwnerOpenTimeout s) := by
  unfold execOwnerOpenTimeout
  split <;> simp

theorem execReleaseDrainTimeout_keeps : Keeps s (execReleaseDrainTimeout s) := by
  unfold execReleaseDrainTimeout
  split <;> simp

theorem execEraseBoundary_keeps : Keeps s (execEraseBoundary s) := by
  unfold execEraseBoundary
  split <;> simp

theorem execErase_keeps {w : Nat} : Keeps s (execErase w s) := by
  unfold execErase
  split <;> simp

theorem execEraseConfirm_keeps {w : Nat} : Keeps s (execEraseConfirm w s) := by
  unfold execEraseConfirm
  split <;> simp

end

/-! ## The Mound -/

section
variable {w n k obj : Nat}

theorem execChunkCheck_keeps : Keeps s (execChunkCheck w k s) := by
  unfold execChunkCheck
  dsimp only
  split
  · simp
  · simp only [keeps_ite, keeps_next]
    refine ⟨fun _ => by simp, fun _ => ⟨fun _ => by simp, fun _ => ⟨fun _ => by simp, fun _ => ?_⟩⟩⟩
    split
    · simp
    · split
      · simp
      · simp only [keeps_ite, keeps_next]
        exact ⟨fun _ => by simp, fun _ => ⟨by simp, fun h => State.tierWriteKey_memWf _ _ _ _ h⟩⟩

theorem execObjectResident_keeps : Keeps s (execObjectResident w obj s) := by
  have hz (o : MObj) (cs : List (List Nat)) (h : Memory.wf s.mem = true) := s.zeroGaps_memWf w o cs h
  unfold execObjectResident
  dsimp only
  split
  · simp
  · simp only [keeps_ite, keeps_next]
    refine ⟨fun _ => ?_, fun _ => by simp⟩
    split
    · split
      · simpa using hz _ _
      · simpa using hz _ _
    · simpa using hz _ _

theorem execMoundCopyEnd_keeps {errs : List (Nat × Nat)} : Keeps s (execMoundCopyEnd w obj errs s) := by
  unfold execMoundCopyEnd
  dsimp only
  split
  · simp
  · simp only [keeps_ite]
    refine ⟨fun _ => by simp, fun _ => ⟨fun _ => ?_,
      fun _ => ⟨fun _ => ⟨fun _ => ?_, fun _ => ⟨fun _ => by simp, fun _ => ?_⟩⟩, fun _ => by simp⟩⟩⟩
    · split
      · simp
      · exact keeps_next.mpr ⟨by simp, fun h => State.copyLane_memWf _ _ _ (by simpa using h)⟩
    · split
      next u _ hseek =>
        have hu := congrArg Prod.fst hseek
        dsimp only at hu
        simp [← hu]
      next u hseek =>
        have hu := congrArg Prod.fst hseek
        dsimp only at hu
        simp [← hu]
    · split
      · simp
      · exact keeps_next.mpr ⟨by simp, fun h => by simpa using State.copyLane_memWf _ w _ (by simpa using h)⟩

theorem execHostPinApply_keeps {w obj : Nat} : Keeps s (execHostPinApply w obj s) := by
  unfold execHostPinApply
  split <;> simp

theorem execMoundReload_keeps : Keeps s (execMoundReload k obj s) := by
  unfold execMoundReload
  extract_lets v z s1
  split
  · simp
  next o _ =>
    split
    · extract_lets _ _ s2
      have hs2 : Kept s s2 := by
        dsimp only [s2]
        split
        next t hload =>
          have hload : s1.reloadLane z o (s.stored k o.cocoon) = some t := by
            split at hload
            · exact hload
            · cases hload
          have hrest := congrArg State.pending (State.reloadLane_onlyTiers hload)
          exact ⟨by simpa [s1] using hrest, fun h => by simpa using s1.reloadLane_memWf _ _ _ (by simpa [s1] using h) t hload⟩
        · exact .of_eq (by simp [s1]) (by simp [s1])
      obtain ⟨hp, hm⟩ := hs2
      split <;> simpa using ⟨hp, hm⟩
    · simp

theorem execCocoonStoreWritten_keeps {id : Nat} : Keeps s (execCocoonStoreWritten id s) := by
  unfold execCocoonStoreWritten
  split <;> simp

end

/-! ## Loop cells -/

theorem execLoopCellFrame_keeps {e : Engine} {m : LoopMeas} : Keeps s (execLoopCellFrame e m s) := by
  unfold execLoopCellFrame
  dsimp only
  (repeat' split) <;> simp

theorem execCellSequenceStep_keeps {e : Engine} {h : Nat} : Keeps s (execCellSequenceStep e h s) := by simp [execCellSequenceStep]

theorem execCellLockChange_keeps {e : Engine} {h : Nat} : Keeps s (execCellLockChange e h s) := by
  unfold execCellLockChange
  split <;> simp

theorem execImplausibilityDeclared_keeps {e : Engine} {h : Nat} : Keeps s (execImplausibilityDeclared e h s) := by
  simp [execImplausibilityDeclared]

theorem execCellRetry_keeps {e : Engine} {h : Nat} : Keeps s (execCellRetry e h s) := by
  unfold execCellRetry
  dsimp only
  split <;> simp

theorem execLightBudgetInvalid_keeps : Keeps s (execLightBudgetInvalid s) := by simp [execLightBudgetInvalid]

theorem execSensorOpen_keeps {e : Engine} {input : Nat} : Keeps s (execSensorOpen e input s) := by
  unfold execSensorOpen
  dsimp only
  (repeat' split) <;> simp

theorem execSensorRestored_keeps {e : Engine} {input : Nat} : Keeps s (execSensorRestored e input s) := by
  unfold execSensorRestored
  split <;> simp

theorem execTuneEnd_keeps {e : Engine} {h : Nat} : Keeps s (execTuneEnd e h s) := by
  unfold execTuneEnd
  dsimp only
  (repeat' split) <;> simp

theorem execTraceTrigger_keeps {t : Nat} : Keeps s (execTraceTrigger t s) := by simp [execTraceTrigger]

/-! ## Calibration and verifies -/

theorem execCalApply_keeps {e : Engine} : Keeps s (execCalApply e s) := by simp [execCalApply]

theorem execVerifyStart_keeps {port : Bool} {unit : Nat} : Keeps s (execVerifyStart port unit s) := by
  unfold execVerifyStart
  dsimp only
  (repeat' split) <;> simp

theorem execTileVerifyEnd_keeps {t ffDev gainDev snr segExcess : Nat} {lightLost : Bool} :
    Keeps s (execTileVerifyEnd t ffDev gainDev snr segExcess lightLost s) := by
  unfold execTileVerifyEnd
  dsimp only
  (repeat' split) <;> simp

theorem execPortVerifyEnd_keeps {q swing rxSnr : Nat} : Keeps s (execPortVerifyEnd q swing rxSnr s) := by
  unfold execPortVerifyEnd
  dsimp only
  split
  · simp
  · split <;> simp

/-! ## The plane and its lasers -/

section
variable {w n k obj : Nat}

theorem execPlanePark_keeps : Keeps s (execPlanePark s) := by simp [execPlanePark]

theorem execPlanComplete_keeps : Keeps s (execPlanComplete s) := by
  unfold execPlanComplete
  dsimp only
  (repeat' split) <;> simp

theorem execPlanExpiry_keeps : Keeps s (execPlanExpiry s) := by simp [execPlanExpiry]

theorem execAutomaticRequest_keeps : Keeps s (execAutomaticRequest s) := by
  unfold execAutomaticRequest
  dsimp only
  (repeat' split) <;> simp

theorem execWaveApply_keeps {wave : Nat} : Keeps s (execWaveApply wave s) := by
  unfold execWaveApply
  dsimp only
  (repeat' split) <;> simp

theorem execSegmentFault_keeps {c seg excess : Nat} : Keeps s (execSegmentFault c seg excess s) := by simp [execSegmentFault]

theorem execTileDriverSilent_keeps {t : Nat} : Keeps s (execTileDriverSilent t s) := by simp [execTileDriverSilent]

theorem execTileSupplyFault_keeps {t : Nat} : Keeps s (execTileSupplyFault t s) := by simp [execTileSupplyFault]

theorem execLossOfLock_keeps {c loss : Nat} : Keeps s (execLossOfLock c loss s) := by simp [execLossOfLock]

theorem execLaserFailure_keeps {k lam reason : Nat} : Keeps s (execLaserFailure k lam reason s) := by simp [execLaserFailure]

theorem execSevenLambdaSwitch_keeps {c : Nat} {rxEnd : Bool} : Keeps s (execSevenLambdaSwitch c rxEnd s) := by simp [execSevenLambdaSwitch]

theorem execSpareLaserLock_keeps {k : Nat} : Keeps s (execSpareLaserLock k s) := by
  unfold execSpareLaserLock
  split <;> simp

theorem execServiceClear_keeps {u : ServiceUnit} : Keeps s (execServiceClear u s) := by
  unfold execServiceClear
  split
  · split <;> simp
  · simp

end

/-! ## Machine states, power and restarts -/

theorem execBusPowerUp_keeps {volts : Nat} : Keeps s (execBusPowerUp volts s) := by simp [execBusPowerUp]

theorem execBringUpStageEnd_keeps {x : Stage} {rep : StageReport} : Keeps s (execBringUpStageEnd x rep s) := by
  unfold execBringUpStageEnd
  dsimp only
  (repeat' split) <;> simp

theorem execBringUpTimeout_keeps : Keeps s (execBringUpTimeout s) := by simp [execBringUpTimeout]

theorem execPcieConfigRequest_keeps {link : Nat} : Keeps s (execPcieConfigRequest link s) := by
  unfold execPcieConfigRequest
  split
  · simp
  · split <;> simp

theorem execDozeAt_keeps {k : Nat} : Keeps s (execDozeAt k s) := by
  unfold execDozeAt
  split <;> simp

theorem execCancel_keeps {k : Nat} : Keeps s (execCancel k s) := by simp [execCancel]

theorem execDozeDrop_keeps : Keeps s (execDozeDrop s) := by
  unfold execDozeDrop
  split <;> simp

theorem execDrop_keeps {k : Nat} : Keeps s (execDrop k s) := by simp [execDrop]

theorem execWakeSequenceStart_keeps : Keeps s (execWakeSequenceStart s) := by
  unfold execWakeSequenceStart
  split <;> simp

theorem execWakeSequenceStage_keeps {row : Nat} {fails : List (Nat × Nat)} : Keeps s (execWakeSequenceStage row fails s) := by
  unfold execWakeSequenceStage
  dsimp only
  (repeat' split) <;> simp

theorem execWakeSequenceEnd_keeps : Keeps s (execWakeSequenceEnd s) := by
  unfold execWakeSequenceEnd
  split <;> simp

theorem execSagRequest_keeps {k : Nat} {bus : List Nat} : Keeps s (execSagRequest k bus s) := by simp [execSagRequest]

theorem execSagRequestEnd_keeps {k : Nat} {bus : List Nat} : Keeps s (execSagRequestEnd k bus s) := by simp [execSagRequestEnd]

theorem execHoldRequest_keeps {cause : Nat} : Keeps s (execHoldRequest cause s) := by simp [execHoldRequest]

theorem execHoldBroadcast_keeps {k : Nat} : Keeps s (execHoldBroadcast k s) := by simp [execHoldBroadcast]

theorem execSledHoldEntry_keeps {k : Nat} : Keeps s (execSledHoldEntry k s) := by
  unfold execSledHoldEntry
  dsimp only
  (repeat' split) <;> simp

theorem execBusRecovered_keeps : Keeps s (execBusRecovered s) := by
  unfold execBusRecovered
  split <;> simp

theorem execHoldDeadline_keeps : Keeps s (execHoldDeadline s) := by
  unfold execHoldDeadline
  split <;> simp

theorem execTickLossResume_keeps : Keeps s (execTickLossResume s) := by simp [execTickLossResume]

theorem execResumeMessage_keeps {k : Nat} : Keeps s (execResumeMessage k s) := by
  unfold execResumeMessage
  split <;> simp

theorem execSledResumeStart_keeps {k : Nat} : Keeps s (execSledResumeStart k s) := by simp [execSledResumeStart]

theorem execOrderlyPowerDownStage_keeps {row : Nat} : Keeps s (execOrderlyPowerDownStage row s) := by
  unfold execOrderlyPowerDownStage
  split
  · simp only [keeps_ite, keeps_next]
    refine ⟨fun _ => ⟨fun _ => ?_, fun _ => ⟨fun _ => ?_, fun _ => ⟨fun _ => ?_, fun _ => ⟨fun _ => ?_, fun _ => ?_⟩⟩⟩⟩, fun _ => ?_⟩
    · simp
    · simp
    · simp
    · refine ⟨by simp, fun h => ?_⟩
      exact State.forEach_memWf _ _ _ (fun u w hu => (u.loseTier w 0).loseTier_memWf _ _ (u.loseTier_memWf _ _ hu)) h
    · simp
    · simp
  · simp

theorem execLockstepMismatch_keeps : Keeps s (execLockstepMismatch s) := by simp [execLockstepMismatch]

theorem execThermalFault_keeps {k : ThermalKind} {part : Nat} {reading : Int} : Keeps s (execThermalFault k part reading s) := by
  simp [execThermalFault]

theorem execLimp_keeps {k : Nat} : Keeps s (execLimp k s) := by simp [execLimp]

theorem execRestartLadderStage_keeps {selfTestOk : Bool} : Keeps s (execRestartLadderStage selfTestOk s) := by
  unfold execRestartLadderStage
  dsimp only
  (repeat' split) <;> simp

theorem execPowerDomainApply_keeps : Keeps s (execPowerDomainApply w s) := by
  simp +contextual [execPowerDomainApply, State.rwbApply_memWf, State.applyDomains_memWf]

/-! ## Images -/

theorem execImageValidation_keeps {bytes : List Byte} : Keeps s (execImageValidation bytes s) := by
  unfold execImageValidation
  split
  · split <;> simp
  · simp

theorem execPlacementEnd_keeps : Keeps s (execPlacementEnd s) := by
  unfold execPlacementEnd
  split
  · split
    · simp
    · simp [apply_ite State.pending, apply_ite State.mem]
      exact fun h => State.forEach_memWf _ _ _ (fun u w hu => u.placeBank_memWf _ w hu) h
  · simp

theorem execDrainTimeout_keeps : Keeps s (execDrainTimeout s) := by
  unfold execDrainTimeout
  split <;> simp

theorem execImageBoundary_keeps : Keeps s (execImageBoundary s) := by
  unfold execImageBoundary
  dsimp only
  (repeat' split) <;> simp

theorem execActivateAt_keeps : Keeps s (execActivateAt k s) := by
  unfold execActivateAt
  dsimp only
  split
  · refine keeps_next.mpr ⟨by simp [apply_ite State.pending], fun h => ?_⟩
    simp only [State.takeLoops_mem]
    exact State.forEach_memWf _ _ _ (fun u w hu => u.activateWorker_memWf _ w hu) (by simpa [apply_ite State.mem] using h)
  · simp
  · simp

theorem execPassageEnd_keeps : Keeps s (execPassageEnd s) := by
  unfold execPassageEnd
  dsimp only
  (repeat' split) <;> simp

/-! ## The Scarab engine -/

theorem execScarabScan_keeps : Keeps s (execScarabScan s) := by simp [execScarabScan]

theorem execBankCheckEnd_keeps : Keeps s (execBankCheckEnd s) := by
  unfold execBankCheckEnd
  split <;> simp

/-! ## Time -/

theorem execPtpTransit_keeps {m : PtpMsg} : Keeps s (execPtpTransit m s) := by simp [execPtpTransit]

theorem execSyncMessage_keeps {domain transport : Nat} {theta rate : Int} : Keeps s (execSyncMessage domain transport theta rate s) := by
  simp [execSyncMessage]

theorem execAnnounceMessage_keeps {port domain transport : Nat} {dataset : List Nat} :
    Keeps s (execAnnounceMessage port domain transport dataset s) := by
  simp [execAnnounceMessage]

/-! ## Registers -/

theorem execWatchdogCheck_keeps : Keeps s (execWatchdogCheck s) := by simp [execWatchdogCheck]

theorem execCoefficientWindowWrite_keeps {p : Path} {e : Engine} {h ofs : Nat} {bytes : List Byte} {mc : Nat} :
    Keeps s (execCoefficientWindowWrite p e h ofs bytes mc s) := by
  unfold execCoefficientWindowWrite
  split <;> simp

theorem execScbDoorbell_keeps {p : Path} {value mc : Nat} : Keeps s (execScbDoorbell p value mc s) := by
  unfold execScbDoorbell
  dsimp only
  split
  · simp [apply_ite State.pending, apply_ite State.mem]
  · simp

theorem execRegisterWrite_keeps {p : Path} {offset value be mc : Nat} : Keeps s (execRegisterWrite p offset value be mc s) := by
  unfold execRegisterWrite
  split
  · refine keeps_next.mpr ⟨State.hostAccess_pending _ _ _ fun u => by split <;> simp, fun h => ?_⟩
    rw [State.hostAccess_mem _ _ _ fun u => by split <;> simp]
    exact h
  · split
    · split <;> simp
    · simp

theorem execLatchedRead_keeps {p : Path} {offset mc : Nat} : Keeps s (execLatchedRead p offset mc s) := by
  unfold execLatchedRead
  split <;> simp

theorem execBar2Access_keeps {link x : Nat} {op : BarOp} {mc : Nat} : Keeps s (execBar2Access link x op mc s) := by
  unfold execBar2Access
  simp only [keeps_ite, keeps_next]
  refine ⟨fun _ => by simp, fun _ => ?_⟩
  split
  · simp
  · simp +contextual [State.hostTierWrite_memWf]

/-! ## Jobs and groups -/

theorem execJobFirstStep_keeps {g k : Nat} : Keeps s (execJobFirstStep g k s) := by
  unfold execJobFirstStep
  extract_lets h ws s1 s2 binds
  split
  · simp
  · split
    · split
      · simp
      · extract_lets s3
        have hp : s3.pending = s.pending := by
          refine (foldl_pending _ (fun u b => ?_) _ _).trans (by simp [s2, s1])
          dsimp only
          split <;> simp
        have hm : s3.mem = s.mem := by
          refine (foldl_mem _ (fun u b => ?_) _ _).trans (by simp [s2, s1])
          dsimp only
          split <;> simp
        exact keeps_next.mpr (Kept.of_eq (by simp [hp]) (by simp [hm]))
    · simp

theorem execJobEnd_keeps {g : Nat} : Keeps s (execJobEnd g s) := by
  unfold execJobEnd
  split <;> simp

theorem execDataTransferEnd_keeps {tag : Nat} : Keeps s (execDataTransferEnd tag s) := by
  unfold execDataTransferEnd
  split
  · simp
  · simp +contextual [State.endTransfer_memWf]

theorem execStopTriggerReport_keeps {w g reason : Nat} : Keeps s (execStopTriggerReport w g reason s) := by simp [execStopTriggerReport]

theorem execStop_keeps {k g : Nat} : Keeps s (execStop k g s) := by simp [execStop]

theorem execRollbackDecision_keeps {g : Nat} : Keeps s (execRollbackDecision g s) := by
  unfold execRollbackDecision
  dsimp only
  (repeat' split) <;> simp

theorem execRollbackBoundary_keeps {k g : Nat} : Keeps s (execRollbackBoundary k g s) := by
  unfold execRollbackBoundary
  split <;> simp

theorem execStrideReplay_keeps {g stride : Nat} : Keeps s (execStrideReplay g stride s) := by
  unfold execStrideReplay
  dsimp only
  split <;> simp

theorem execMirrorRestoreEnd_keeps {g : Nat} : Keeps s (execMirrorRestoreEnd g s) := by
  unfold execMirrorRestoreEnd
  dsimp only
  split
  · simp only [keeps_ite, keeps_next]
    exact ⟨fun _ => ⟨by simp, State.forEach_memWf _ _ _ fun u w hu => u.restoreWorker_memWf _ _ w hu⟩, fun _ => by simp⟩
  · simp

/-! ## The manager's boundary -/

theorem execManagerBoundary_keeps : Keeps s (execManagerBoundary s) := by simp [execManagerBoundary]

theorem execSubscribe_keeps {d : Datagram} : Keeps s (execSubscribe d s) := by
  unfold execSubscribe
  exact keeps_next.mpr (Kept.of_eq (State.request_pending _ _ _ _ fun u => by simp [apply_ite State.pending])
    (State.request_mem _ _ _ _ fun u => by simp [apply_ite State.mem]))

end Sys2Proof.Machine
end

section
/-! The obligations about every command and every step: each completes, leaves the queue of the commands that wait, and keeps memory in its
canonical form. -/

namespace Sys2Proof.Machine

variable (s : State)

/-- Every command completes, with the queue as it was, and with memory canonical if it was: by the command. -/
theorem exec_keeps (c : Instr) : Keeps s (exec c s) := by
  cases c
  -- commands that come to one operation, which writes no tier
  case nop | doze | wake | hold | resume | powerDown | enterService | leaveService | thermalFaultClear | limpEntry | restartWarm |
      restartCold | wkrPdctlOnWrite | wkrPdctlForceWrite | imageLoad | imageActivate | imageDiscard | imageDeactivate | ownerOpen |
      ownerRelease | kemKey | cocoonStore | cocoonLoad | moundPromote | moundPin | moundUnpin | moundDrop | moundQuery | pubkeyAdd |
      pubkeyRemove | cocoonDelete | cableSearch | lacewingPlanBypass | lacewingPlanEvacuate | lacewingPlanRestore | lacewingCommit |
      lacewingCancel | loopTune | wvlTrctlWrite | wvlTrselWrite | calFactory | calWrite | fieldVerifyTile | fieldVerifyPort | scarabNop |
      end_ | add | sub | and | or | xor | shl | shr | sar | min | max | mul | mulh | div | slt | addi | andi | ori | li | lui | ld | st |
      stp | in_ | out | cmd | take | spanRead | spanArm | spanStart | spanStop | time | beq | bne | blt | bge | jmp | call | ret | loop |
      swap | eventArrival | stgCvtWrite | wkrMemdropWrite | eqheadDoorbell | eqcfgWrite | jobStart | jobAbort | dataImport | dataExport |
      regRead | regWrite | command | unsubscribe | syncTimeout =>
    exact keeps_next.mpr (Kept.of_eq (by simp) (by simp))
  -- operations that write tiers: those of the vector unit deliver what is ready, a sled's RWB fields switch domains off
  case rwbApply =>
    exact keeps_next.mpr ⟨by simp, State.rwbApply_memWf _ _⟩
  case vadd | vsub | vmul | vmax | vmin | vcmpgt =>
    exact keeps_next.mpr ⟨by simp, State.vecBin_memWf _ _ _ _ _ _ _⟩
  case vfma | vrsum | vrmax | vbcast | vperm =>
    exact keeps_next.mpr ⟨by simp, State.vecOp_memWf _ _ _ _ _ _ _ _⟩
  case vexp | vrcp | vrsqrt | vtanh =>
    exact keeps_next.mpr ⟨by simp, State.vecUn_memWf _ _ _ _ _ _⟩
  -- commands that decide between outcomes
  case busPowerUp => exact execBusPowerUp_keeps
  case bringUpStageEnd => exact execBringUpStageEnd_keeps
  case bringUpTimeout => exact execBringUpTimeout_keeps
  case pcieConfigRequest => exact execPcieConfigRequest_keeps
  case frameBoundary => exact execFrameBoundary_keeps
  case managerBoundary => exact execManagerBoundary_keeps
  case seamPhase => exact execSeamPhase_keeps
  case tickEdge => exact execTickEdge_keeps
  case missingTick => exact execMissingTick_keeps
  case referenceLoss => exact execReferenceLoss_keeps
  case referenceReturn => exact execReferenceReturn_keeps
  case barrierTokenEmit => exact execBarrierTokenEmit_keeps
  case tokenArrival => exact execTokenArrival_keeps
  case barrierComplete => exact execBarrierComplete_keeps
  case dozeAt => exact execDozeAt_keeps
  case cancel => exact execCancel_keeps
  case dozeDrop => exact execDozeDrop_keeps
  case drop => exact execDrop_keeps
  case wakeSequenceStart => exact execWakeSequenceStart_keeps
  case wakeSequenceStage => exact execWakeSequenceStage_keeps
  case wakeSequenceEnd => exact execWakeSequenceEnd_keeps
  case sagRequest => exact execSagRequest_keeps
  case sagRequestEnd => exact execSagRequestEnd_keeps
  case holdRequest => exact execHoldRequest_keeps
  case holdBroadcast => exact execHoldBroadcast_keeps
  case sledHoldEntry => exact execSledHoldEntry_keeps
  case busRecovered => exact execBusRecovered_keeps
  case holdDeadline => exact execHoldDeadline_keeps
  case tickLossResume => exact execTickLossResume_keeps
  case resumeMessage => exact execResumeMessage_keeps
  case sledResumeStart => exact execSledResumeStart_keeps
  case orderlyPowerDownStage => exact execOrderlyPowerDownStage_keeps
  case watchdogCheck => exact execWatchdogCheck_keeps
  case lockstepMismatch => exact execLockstepMismatch_keeps
  case thermalFault => exact execThermalFault_keeps
  case limp => exact execLimp_keeps
  case restartLadderStage => exact execRestartLadderStage_keeps
  case powerDomainApply => exact execPowerDomainApply_keeps
  case imageValidation => exact execImageValidation_keeps
  case placementEnd => exact execPlacementEnd_keeps
  case drainTimeout => exact execDrainTimeout_keeps
  case imageBoundary => exact execImageBoundary_keeps
  case activateAt => exact execActivateAt_keeps
  case passageEnd => exact execPassageEnd_keeps
  case planePark => exact execPlanePark_keeps
  case wload => exact execWload_keeps
  case wswap => exact execWswap_keeps
  case mac => exact execMac_keeps
  case drain => exact execDrain_keeps
  case mrd => exact execMrd_keeps
  case mwr => exact execMwr_keeps
  case lsend => exact execLsend_keeps
  case osend => exact execOsend_keeps
  case vld => exact execVld_keeps
  case vst => exact execVst_keeps
  case vcvt => exact execVcvt_keeps
  case coreRetirementReport => exact execCoreRetirementReport_keeps
  case logicalCoreRemap => exact execLogicalCoreRemap_keeps
  case memoryTemperatureReport => exact execMemoryTemperatureReport_keeps
  case pageRetirement => exact execPageRetirement_keeps
  case ownerSecretReceipt => exact execOwnerSecretReceipt_keeps
  case ownerOpenConfirm => exact execOwnerOpenConfirm_keeps
  case ownerOpenTimeout => exact execOwnerOpenTimeout_keeps
  case releaseDrainTimeout => exact execReleaseDrainTimeout_keeps
  case eraseBoundary => exact execEraseBoundary_keeps
  case erase => exact execErase_keeps
  case eraseConfirm => exact execEraseConfirm_keeps
  case chunkCheck => exact execChunkCheck_keeps
  case objectResident => exact execObjectResident_keeps
  case moundCopyEnd => exact execMoundCopyEnd_keeps
  case hostPinApply => exact execHostPinApply_keeps
  case flitReceive => exact execFlitReceive_keeps
  case creditDue => exact execCreditDue_keeps
  case circuitTear => exact execCircuitTear_keeps
  case settlement => exact execSettlement_keeps
  case evCircuitTorn => exact execEvCircuitTorn_keeps
  case laneLockLoss => exact execLaneLockLoss_keeps
  case linkRetrainTimeout => exact execLinkRetrainTimeout_keeps
  case rangingSample => exact execRangingSample_keeps
  case circuitUsable => exact execCircuitUsable_keeps
  case searchRound => exact execSearchRound_keeps
  case searchPassEnd => exact execSearchPassEnd_keeps
  case legGroup => exact execLegGroup_keeps
  case presenceContactOpen => exact execPresenceContactOpen_keeps
  case workerPortContactOpen => exact execWorkerPortContactOpen_keeps
  case returnLight => exact execReturnLight_keeps
  case glowRelease => exact execGlowRelease_keeps
  case presenceContactClose => exact execPresenceContactClose_keeps
  case onePortCheck => exact execOnePortCheck_keeps
  case workerSilence => exact execWorkerSilence_keeps
  case workerSupplyFault => exact execWorkerSupplyFault_keeps
  case stashCopyEnd => exact execStashCopyEnd_keeps
  case spareReady => exact execSpareReady_keeps
  case moundReload => exact execMoundReload_keeps
  case planComplete => exact execPlanComplete_keeps
  case planExpiry => exact execPlanExpiry_keeps
  case automaticRequest => exact execAutomaticRequest_keeps
  case waveApply => exact execWaveApply_keeps
  case segmentFault => exact execSegmentFault_keeps
  case tileDriverSilent => exact execTileDriverSilent_keeps
  case tileSupplyFault => exact execTileSupplyFault_keeps
  case lossOfLock => exact execLossOfLock_keeps
  case laserFailure => exact execLaserFailure_keeps
  case sevenLambdaSwitch => exact execSevenLambdaSwitch_keeps
  case spareLaserLock => exact execSpareLaserLock_keeps
  case loopCellFrame => exact execLoopCellFrame_keeps
  case cellSequenceStep => exact execCellSequenceStep_keeps
  case cellLockChange => exact execCellLockChange_keeps
  case implausibilityDeclared => exact execImplausibilityDeclared_keeps
  case cellRetry => exact execCellRetry_keeps
  case lightBudgetInvalid => exact execLightBudgetInvalid_keeps
  case sensorOpen => exact execSensorOpen_keeps
  case sensorRestored => exact execSensorRestored_keeps
  case tuneEnd => exact execTuneEnd_keeps
  case traceTrigger => exact execTraceTrigger_keeps
  case coefficientWindowWrite => exact execCoefficientWindowWrite_keeps
  case calApply => exact execCalApply_keeps
  case verifyStart => exact execVerifyStart_keeps
  case tileVerifyEnd => exact execTileVerifyEnd_keeps
  case portVerifyEnd => exact execPortVerifyEnd_keeps
  case scarabScan => exact execScarabScan_keeps
  case bankCheckEnd => exact execBankCheckEnd_keeps
  case scbDoorbell => exact execScbDoorbell_keeps
  case registerWrite => exact execRegisterWrite_keeps
  case latchedRead => exact execLatchedRead_keeps
  case bar2Access => exact execBar2Access_keeps
  case sqtailDoorbell => exact execSqtailDoorbell_keeps
  case commandRecordArrival => exact execCommandRecordArrival_keeps
  case cqheadDoorbell => exact execCqheadDoorbell_keeps
  case qcfgWrite => exact execQcfgWrite_keeps
  case completionWrite => exact execCompletionWrite_keeps
  case eventRecordWrite => exact execEventRecordWrite_keeps
  case linkUp => exact execLinkUp_keeps
  case linkDown => exact execLinkDown_keeps
  case jobFirstStep => exact execJobFirstStep_keeps
  case jobEnd => exact execJobEnd_keeps
  case dataTransferEnd => exact execDataTransferEnd_keeps
  case stopTriggerReport => exact execStopTriggerReport_keeps
  case stop => exact execStop_keeps
  case rollbackDecision => exact execRollbackDecision_keeps
  case rollbackBoundary => exact execRollbackBoundary_keeps
  case strideReplay => exact execStrideReplay_keeps
  case mirrorRestoreEnd => exact execMirrorRestoreEnd_keeps
  case ptpTransit => exact execPtpTransit_keeps
  case syncMessage => exact execSyncMessage_keeps
  case announceMessage => exact execAnnounceMessage_keeps
  case boardLinkRetrained => exact execBoardLinkRetrained_keeps
  case cocoonStoreWritten => exact execCocoonStoreWritten_keeps
  case serviceClear => exact execServiceClear_keeps
  case subscribe => exact execSubscribe_keeps

/-- Settles O5. That every command is total is the model's choice (log entries 5 and 98). -/
theorem everyCommandCompletes : Obligations.EveryCommandCompletes := by
  unfold Obligations.EveryCommandCompletes
  intro c s
  obtain ⟨t, ht, hq, -⟩ := exec_keeps s c
  exact ⟨t, ht, hq⟩

/-- Settles O4: an empty queue changes nothing, and the command at the front keeps the form. -/
theorem memoryStaysCanonical : Obligations.MemoryStaysCanonical := by
  unfold Obligations.MemoryStaysCanonical
  intro s t hwf hstep
  unfold step at hstep
  split at hstep
  · cases hstep
    exact hwf
  next c rest _ =>
    obtain ⟨u, hu, -, hm⟩ := exec_keeps (s.withPending rest) c
    rw [hu] at hstep
    cases hstep
    exact hm hwf

end Sys2Proof.Machine
end

section
/-! SUPPORT. The numbers that the Scarab register instructions compute, as operations of 32-bit words (Table 13.5). -/

namespace Sys2Proof.Machine

section
variable (x y : Word) (k n : Nat)

theorem toSigned_eq_toInt (w n : Nat) (hw : 0 < w) : toSigned w n = (BitVec.ofNat w n).toInt := by
  obtain ⟨v, rfl⟩ : ∃ v, w = v + 1 := ⟨w - 1, by omega⟩
  have hpow : 2 ^ (v + 1) = 2 * 2 ^ v := Nat.pow_succ'
  simp only [toSigned, BitVec.toInt, BitVec.toNat_ofNat, Nat.add_sub_cancel]
  have hiff : n % 2 ^ (v + 1) < 2 ^ v ↔ 2 * (n % 2 ^ (v + 1)) < 2 ^ (v + 1) := by rw [hpow]; omega
  simp only [hiff]
  norm_cast

theorem ofInt_add : BitVec.ofInt 32 ((x.toNat : Int) + y.toNat) = x + y := by
  rw [← Int.natCast_add, BitVec.ofInt_natCast, BitVec.ofNat_add, BitVec.ofNat_toNat, BitVec.ofNat_toNat, BitVec.setWidth_eq, BitVec.setWidth_eq]

theorem ofInt_sub : BitVec.ofInt 32 ((x.toNat : Int) - y.toNat) = x - y := by
  apply BitVec.eq_of_toNat_eq
  have hx := x.isLt
  have hy := y.isLt
  simp only [BitVec.toNat_ofInt, BitVec.toNat_sub]
  omega

theorem ofInt_mul : BitVec.ofInt 32 ((x.toNat * y.toNat : Nat) : Int) = x * y := by
  rw [BitVec.ofInt_natCast]
  apply BitVec.eq_of_toNat_eq
  simp

theorem ofInt_and : BitVec.ofInt 32 ((x.toNat &&& y.toNat : Nat) : Int) = x &&& y := by
  rw [BitVec.ofInt_natCast, ← BitVec.toNat_and, BitVec.ofNat_toNat, BitVec.setWidth_eq]

theorem ofInt_or : BitVec.ofInt 32 ((x.toNat ||| y.toNat : Nat) : Int) = x ||| y := by
  rw [BitVec.ofInt_natCast, ← BitVec.toNat_or, BitVec.ofNat_toNat, BitVec.setWidth_eq]

theorem ofInt_xor : BitVec.ofInt 32 ((x.toNat ^^^ y.toNat : Nat) : Int) = x ^^^ y := by
  rw [BitVec.ofInt_natCast, ← BitVec.toNat_xor, BitVec.ofNat_toNat, BitVec.setWidth_eq]

theorem ofInt_shl : BitVec.ofInt 32 ((x.toNat * 2 ^ k : Nat) : Int) = x <<< k := by
  rw [BitVec.ofInt_natCast]
  apply BitVec.eq_of_toNat_eq
  simp [Nat.shiftLeft_eq]

theorem ofInt_shr : BitVec.ofInt 32 ((x.toNat / 2 ^ k : Nat) : Int) = x >>> k := by
  rw [BitVec.ofInt_natCast, ← Nat.shiftRight_eq_div_pow, ← BitVec.toNat_ushiftRight, BitVec.ofNat_toNat, BitVec.setWidth_eq]

theorem ofInt_sar : BitVec.ofInt 32 (x.toInt.fdiv (2 ^ k : Nat)) = x.sshiftRight k := by
  rw [Int.fdiv_eq_ediv_of_nonneg _ (by positivity), ← Int.shiftRight_eq_div_pow, ← BitVec.toInt_sshiftRight, BitVec.ofInt_toInt]

theorem toInt_signExtend_mul : (x.signExtend 64 * y.signExtend 64).toInt = x.toInt * y.toInt := by
  have hx : x.toInt.natAbs ≤ 2 ^ 31 := by have := x.two_mul_toInt_lt; have := x.le_two_mul_toInt; omega
  have hy : y.toInt.natAbs ≤ 2 ^ 31 := by have := y.two_mul_toInt_lt; have := y.le_two_mul_toInt; omega
  have hxy : (x.toInt * y.toInt).natAbs ≤ 2 ^ 62 := by
    rw [Int.natAbs_mul]
    exact (Nat.mul_le_mul hx hy).trans (by norm_num)
  rw [BitVec.toInt_mul, BitVec.toInt_signExtend_of_le (by decide), BitVec.toInt_signExtend_of_le (by decide)]
  exact Int.bmod_eq_of_le (by omega) (by omega)

theorem ofInt_mulh : BitVec.ofInt 32 ((x.toInt * y.toInt).fdiv (2 ^ 32)) = (x.signExtend 64 * y.signExtend 64).extractLsb' 32 32 := by
  rw [← toInt_signExtend_mul, Int.fdiv_eq_ediv_of_nonneg _ (by decide)]
  generalize x.signExtend 64 * y.signExtend 64 = p
  apply BitVec.eq_of_toNat_eq
  have hp := p.isLt
  simp only [BitVec.toNat_ofInt, BitVec.extractLsb'_toNat, Nat.shiftRight_eq_div_pow, BitVec.toInt_eq_toNat_cond]
  split <;> omega

theorem ofInt_div : BitVec.ofInt 32 (scarabDiv x.toInt y.toInt) = if y = 0 then 0 else x.sdiv y := by
  unfold scarabDiv
  by_cases hy : y = 0
  · simp [hy]
  · rw [if_neg hy, if_neg fun h => hy (BitVec.toInt_inj.mp (h.trans BitVec.toInt_zero.symm))]
    apply BitVec.eq_of_toInt_eq
    rw [BitVec.toInt_ofInt, BitVec.toInt_sdiv]

/-- The signed comparison of words is the comparison of the numbers that they stand for. -/
theorem slt_iff : x.slt y = true ↔ x.toInt < y.toInt := by rw [BitVec.slt_eq_decide, decide_eq_true_eq]

theorem ofInt_min : BitVec.ofInt 32 (min x.toInt y.toInt) = if y.slt x then y else x := by
  simp only [slt_iff]
  split
  next h => rw [min_eq_right h.le, BitVec.ofInt_toInt]
  next h => rw [min_eq_left (not_lt.mp h), BitVec.ofInt_toInt]

theorem ofInt_max : BitVec.ofInt 32 (max x.toInt y.toInt) = if x.slt y then y else x := by
  simp only [slt_iff]
  split
  next h => rw [max_eq_right h.le, BitVec.ofInt_toInt]
  next h => rw [max_eq_left (not_lt.mp h), BitVec.ofInt_toInt]

theorem ofInt_slt : BitVec.ofInt 32 (if x.toInt < y.toInt then 1 else 0) = if x.slt y then 1 else 0 := by
  simp only [slt_iff]
  split <;> rfl

theorem ofInt_add_signed : BitVec.ofInt 32 (x.toNat + y.toInt) = x + y := by
  apply BitVec.eq_of_toNat_eq
  have hx := x.isLt
  have hy := y.isLt
  simp only [BitVec.toNat_ofInt, BitVec.toNat_add, BitVec.toInt_eq_toNat_cond]
  split <;> omega

/-- An immediate of `w` bits as a signed number. -/
theorem toSigned_eq_signExtend {w : Nat} (hw : 0 < w) (hle : w ≤ 32) (n : Nat) :
    toSigned w n = ((BitVec.ofNat w n).signExtend 32).toInt := by
  rw [toSigned_eq_toInt w n hw, BitVec.toInt_signExtend_of_le hle]

theorem ofInt_toSigned {w : Nat} (hw : 0 < w) (hle : w ≤ 32) (n : Nat) :
    BitVec.ofInt 32 (toSigned w n) = (BitVec.ofNat w n).signExtend 32 := by
  rw [toSigned_eq_signExtend hw hle, BitVec.ofInt_toInt]

/-- An immediate of `w` bits as it stands. -/
theorem toNat_zeroExtend_of_lt {w : Nat} (hle : w ≤ 32) {n : Nat} (h : n < 2 ^ w) : ((BitVec.ofNat w n).zeroExtend 32).toNat = n := by
  rw [BitVec.toNat_setWidth, BitVec.toNat_ofNat, Nat.mod_eq_of_lt h, Nat.mod_eq_of_lt (h.trans_le (Nat.pow_le_pow_right (by decide) hle))]

theorem ofInt_lui {imm : Nat} (h : imm < 2 ^ 20) :
    BitVec.ofInt 32 ((imm * 4096 : Nat) : Int) = (BitVec.ofNat 20 imm).zeroExtend 32 <<< 12 := by
  conv_lhs => rw [← toNat_zeroExtend_of_lt (w := 20) (by decide) h]
  exact ofInt_shl _ 12

end

/-! ## Registers that a register instruction writes -/

variable {s : State} {i : Instr} {d : Nat} {v : Scarab → Int} {z : Word}

theorem scarabWrites_of_ofInt (he : exec i s = .next (s.scarabSet i d v)) (hv : BitVec.ofInt 32 (v s.scb) = z) : ScarabWrites i d z s :=
  hv ▸ s.scarabSet_writes i d v he

theorem State.scReg_toInt (s : State) (r : Nat) : (s.scReg r).toInt = s.scb.sreg r := (toSigned_eq_toInt 32 _ (by decide)).symm

end Sys2Proof.Machine
end

section
/-! The obligation about the register instructions of the Scarab engine. -/

namespace Sys2Proof.Machine

/-- Settles O11: the number that each instruction computes, as the operation on words. -/
theorem scarabComputes : Obligations.ScarabComputes := by
  unfold Obligations.ScarabComputes
  refine ⟨fun s d a b imm => ?_, fun s d a b imm => ?_⟩
  all_goals
    have hreg := Scarab.reg_word s
    have hsreg := s.scReg_toInt
  · refine ⟨scarabWrites_of_ofInt rfl ?_, scarabWrites_of_ofInt rfl ?_, scarabWrites_of_ofInt rfl ?_, scarabWrites_of_ofInt rfl ?_,
      scarabWrites_of_ofInt rfl ?_, scarabWrites_of_ofInt rfl ?_, scarabWrites_of_ofInt rfl ?_, scarabWrites_of_ofInt rfl ?_,
      scarabWrites_of_ofInt rfl ?_, scarabWrites_of_ofInt rfl ?_, scarabWrites_of_ofInt rfl ?_, scarabWrites_of_ofInt rfl ?_,
      scarabWrites_of_ofInt rfl (ofInt_toSigned (by decide) (by decide) imm)⟩
    all_goals simp only [← hreg, ← hsreg]
    · exact ofInt_add _ _
    · exact ofInt_sub _ _
    · exact ofInt_and _ _
    · exact ofInt_or _ _
    · exact ofInt_xor _ _
    · exact ofInt_shl _ _
    · exact ofInt_shr _ _
    · exact ofInt_sar _ _
    · exact ofInt_min _ _
    · exact ofInt_max _ _
    · exact ofInt_slt _ _
    · rw [toSigned_eq_signExtend (by decide) (by decide)]
      exact ofInt_add_signed _ _
  · refine ⟨scarabWrites_of_ofInt rfl ?_, scarabWrites_of_ofInt rfl ?_, scarabWrites_of_ofInt rfl ?_,
      fun himm => scarabWrites_of_ofInt rfl ?_, fun himm => scarabWrites_of_ofInt rfl ?_,
      fun himm => scarabWrites_of_ofInt rfl (ofInt_lui himm)⟩
    all_goals simp only [← hreg, ← hsreg]
    · exact ofInt_mul _ _
    · exact ofInt_mulh _ _
    · exact ofInt_div _ _
    · conv_lhs => rw [← toNat_zeroExtend_of_lt (w := 14) (by decide) himm]
      exact ofInt_and _ _
    · conv_lhs => rw [← toNat_zeroExtend_of_lt (w := 14) (by decide) himm]
      exact ofInt_or _ _

end Sys2Proof.Machine
end

section
/-! SUPPORT. What one instruction of the Scarab engine changes of the engine (R308 to R312): going on to the next word moves only the place where
the program stands, whatever else the instruction has changed. -/

namespace Sys2Proof.Machine

/-! ## The flow to the next word -/

/-- The flow to a word looks only at the loops, the depth of the stack and the cycles, and changes only where the program stands. -/
theorem Scarab.flow_congr {x y : Scarab} (hloops : y.loops = x.loops) (hstack : y.stack = x.stack) (hcyc : y.cyc = x.cyc) (n fuel : Nat) :
    Scarab.flow y n fuel =
      { y with pc := (Scarab.flow x n fuel).pc, loops := (Scarab.flow x n fuel).loops, cyc := (Scarab.flow x n fuel).cyc } := by
  induction fuel generalizing x y with
  | zero => simp only [Scarab.flow, ← hloops, ← hcyc]
  | succ fuel ih =>
    cases x
    cases y
    dsimp only at hloops hstack hcyc
    subst hloops hstack hcyc
    unfold Scarab.flow
    dsimp only
    split
    · split_ifs
      · rfl
      · exact ih rfl rfl rfl
      · rfl
    · rfl

/-- The place where a program stands is the same in two engines. -/
def Scarab.SamePlace (x y : Scarab) : Prop := y.pc = x.pc ∧ y.loops = x.loops ∧ y.stack = x.stack ∧ y.cyc = x.cyc

theorem Scarab.SamePlace.advance {x y : Scarab} (h : Scarab.SamePlace x y) :
    y.advance = { y with pc := x.advance.pc, loops := x.advance.loops, cyc := x.advance.cyc } := by
  obtain ⟨hpc, hloops, hstack, hcyc⟩ := h
  unfold Scarab.advance
  rw [hpc]
  exact Scarab.flow_congr hloops hstack hcyc _ _

theorem Scarab.flow_of_no_end (x : Scarab) (n fuel : Nat) (h : ∀ l ∈ x.loops, l.2.1 + 1 ≠ n) :
    Scarab.flow x n fuel = { x with pc := n % 16384 } := by
  cases fuel with
  | zero => rfl
  | succ fuel =>
    unfold Scarab.flow
    split
    next l rest hl => exact if_neg fun hend => h _ (hl ▸ List.mem_cons_self) hend.1.symm
    next => rfl

/-! ## Instructions that go on to the next word -/

variable {s : State} {i : Instr} {f : Scarab → Scarab}

/-- An instruction that changes the engine and goes on: its change, and the place and the cycles of the next word. -/
theorem exec_scarabOp (he : exec i s = .next (s.scarabOp i f)) (hn : s.scb.next = some i) (hplace : Scarab.SamePlace s.scb (f s.scb)) :
    exec i s = .next { s with scb := { f s.scb with
      pc := (s.scarabNext i).pc, loops := (s.scarabNext i).loops, cyc := (s.scarabNext i).cyc } } := by
  rw [he, State.scarabOp, s.scarabRun_next _ _ hn, hplace.advance]
  rfl

/-! ## Instructions that write a register with what they read -/

theorem scarabOp_setReg_eq_scarabSet (s : State) (i : Instr) (d : Nat) (v : Scarab → Nat) :
    s.scarabOp i (fun x => x.setReg d (v x)) = s.scarabSet i d fun x => (v x : Int) := by
  have hset : (fun x : Scarab => x.setReg d (v x)) = fun x => x.setReg d (toBits 32 (v x : Int)) := by
    funext x
    have hv : toBits 32 (v x : Int) = v x % 2 ^ 32 := by unfold toBits; omega
    simp only [Scarab.setReg, hv, Nat.mod_mod]
  rw [State.scarabSet, hset]

theorem scarabWrites_of_setReg {d : Nat} {v : Scarab → Nat} {n : Nat} (he : exec i s = .next (s.scarabOp i fun x => x.setReg d (v x)))
    (hv : v s.scb = n) : ScarabWrites i d (BitVec.ofNat 32 n) s := by
  rw [scarabOp_setReg_eq_scarabSet] at he
  exact scarabWrites_of_ofInt he (by rw [BitVec.ofInt_natCast, hv])

/-- The sum of a register and a signed immediate is a data address. -/
theorem State.addr_eq_scAddr (s : State) (a imm : Nat) : s.scb.addr a imm = s.scAddr a imm := by
  rw [State.scAddr, ← ofInt_add_signed, BitVec.toNat_ofInt, ← toSigned_eq_signExtend (by decide) (by decide), Scarab.reg_word]
  rfl

/-! ## What no instruction changes of the engine -/

/-- The cycle count, the mailbox and the input image are as they were. -/
def Scarab.SameOutside (x y : Scarab) : Prop := y.count = x.count ∧ y.mail = x.mail ∧ y.input = x.input

theorem Scarab.SameOutside.trans {x y z : Scarab} (h : Scarab.SameOutside x y) (h' : Scarab.SameOutside y z) : Scarab.SameOutside x z :=
  ⟨h'.1.trans h.1, h'.2.1.trans h.2.1, h'.2.2.trans h.2.2⟩

theorem Scarab.sameOutside_flow (x : Scarab) (n fuel : Nat) : Scarab.SameOutside x (x.flow n fuel) := by
  rw [Scarab.flow_eq]
  exact ⟨rfl, rfl, rfl⟩

theorem Scarab.sameOutside_setReg (x : Scarab) (d v : Nat) : Scarab.SameOutside x (x.setReg d v) := by
  rw [Scarab.setReg_eq]
  exact ⟨rfl, rfl, rfl⟩

theorem Scarab.sameOutside_setData (x : Scarab) (a v : Nat) : Scarab.SameOutside x (x.setData a v) := by
  unfold Scarab.setData
  dsimp only
  split <;> exact ⟨rfl, rfl, rfl⟩

theorem Scarab.sameOutside_setShadow (x : Scarab) (a v : Nat) : Scarab.SameOutside x (x.setShadow a v) := by
  unfold Scarab.setShadow
  split <;> exact ⟨rfl, rfl, rfl⟩

theorem Scarab.sameOutside_stp (x : Scarab) (a v : Nat) : Scarab.SameOutside x (x.stp a v) := by
  unfold Scarab.stp
  split
  · exact ⟨rfl, rfl, rfl⟩
  · dsimp only
    split <;> exact x.sameOutside_setShadow a v

theorem Scarab.sameOutside_spanStop (x : Scarab) (n : Nat) : Scarab.SameOutside x (x.spanStop n) := by
  have harrive {β : Type} (part : Scarab → β) (hspan : ∀ x t, part { x with spans := t } = part x)
      (hcount : ∀ x e n, part (Scarab.count1 x e n) = part x) : part (x.spanStop n) = part x := by
    unfold Scarab.spanStop
    dsimp only
    split
    · exact (Scarab.arrive_keeps part (fun _ => True) hspan (fun _ _ => trivial) (fun x e n _ => hcount x e n) _ _ _ _ trivial _).trans
        (hspan _ _)
    · rfl
  exact ⟨harrive (·.count) (fun _ _ => rfl) fun _ _ _ => rfl, harrive (·.mail) (fun _ _ => rfl) fun _ _ _ => rfl,
    harrive (·.input) (fun _ _ => rfl) fun _ _ _ => rfl⟩

theorem Scarab.sameOutside_ret (x : Scarab) : Scarab.SameOutside x x.ret := by
  unfold Scarab.ret
  split
  · exact Scarab.sameOutside_flow _ _ _
  · exact ⟨rfl, rfl, rfl⟩

/-- What the obligation says of one instruction. -/
def KeepsToEngine (i : Instr) (s : State) : Prop :=
  (Completes i s fun t => t = { s with scb := t.scb } ∧ t.scb.count = s.scb.count ∧ t.scb.mail = s.scb.mail ∧ t.scb.input = s.scb.input) ∧
    (s.scb.next ≠ some i → exec i s = .next s)

theorem keepsToEngine_run (he : exec i s = .next (s.scarabRun i f)) (hf : Scarab.SameOutside s.scb (f s.scb)) : KeepsToEngine i s := by
  refine ⟨⟨_, he, s.scarabRun_frame i f, ?_⟩, fun hne => he.trans (congrArg _ (s.scarabRun_idle i f hne))⟩
  by_cases hn : s.scb.next = some i
  · rw [s.scarabRun_next i f hn]
    exact hf
  · rw [s.scarabRun_idle i f hn]
    exact ⟨rfl, rfl, rfl⟩

theorem keepsToEngine_op (he : exec i s = .next (s.scarabOp i f)) (hf : Scarab.SameOutside s.scb (f s.scb)) : KeepsToEngine i s :=
  keepsToEngine_run he (hf.trans (Scarab.sameOutside_flow _ _ _))

theorem keepsToEngine_set {d : Nat} {v : Scarab → Int} (he : exec i s = .next (s.scarabSet i d v)) : KeepsToEngine i s :=
  keepsToEngine_op he (Scarab.sameOutside_setReg _ _ _)

theorem keepsToEngine_branch {target : Nat} {p : Scarab → Bool} (he : exec i s = .next (s.scarabBranch i target p)) : KeepsToEngine i s := by
  refine keepsToEngine_run he ?_
  split
  · exact ⟨rfl, rfl, rfl⟩
  · exact Scarab.sameOutside_flow _ _ _

/-! ## TAKE, ST and STP -/

variable {d a e imm : Nat} {c : Bool}

theorem Scarab.samePlace_setReg (x : Scarab) (d v : Nat) : Scarab.SamePlace x (x.setReg d v) := by
  rw [Scarab.setReg_eq]
  exact ⟨rfl, rfl, rfl, rfl⟩

theorem Scarab.samePlace_setData (x : Scarab) (a v : Nat) : Scarab.SamePlace x (x.setData a v) := by
  unfold Scarab.setData
  dsimp only
  split <;> exact ⟨rfl, rfl, rfl, rfl⟩

theorem Scarab.samePlace_stp (x : Scarab) (a v : Nat) : Scarab.SamePlace x (x.stp a v) := by
  unfold Scarab.stp Scarab.setShadow
  dsimp only
  repeat' split
  all_goals exact ⟨rfl, rfl, rfl, rfl⟩

theorem State.scarabNext_eq (s : State) (i : Instr) :
    s.scarabNext i = { s.scb with pc := (s.scarabNext i).pc, loops := (s.scarabNext i).loops, cyc := (s.scarabNext i).cyc } := by
  rw [State.scarabNext, Scarab.advance_eq]

theorem completes_take (hn : s.scb.next = some (.take d e c)) : Completes (.take d e c) s fun t =>
    (∀ r, t.scb.reg r = if r = d ∧ d ≠ 0 then s.scb.latch.get 0 e % 16 + (if s.scb.ovf.testBit e then 16 else 0) else s.scb.reg r) ∧
    (∀ f, t.scb.latch.get 0 f = if f = e then 0 else s.scb.latch.get 0 f) ∧
    (∀ f, t.scb.ovf.testBit f = if f = e ∧ c = true then false else s.scb.ovf.testBit f) ∧
    t = { s with scb := { s.scarabNext (.take d e c) with g := t.scb.g, latch := t.scb.latch, ovf := t.scb.ovf } } := by
  refine ⟨_, exec_scarabOp rfl hn (Scarab.samePlace_setReg _ _ _), fun r => ?_, fun f => ?_, fun f => ?_, ?_⟩
  · refine (Scarab.reg_setReg _ _ _ _).trans (if_congr Iff.rfl ?_ rfl)
    unfold bit1
    split <;> omega
  · rw [Scarab.setReg_eq]
    simp only [Tab.get, Tab.get?_erase]
    split <;> rfl
  · rw [Scarab.setReg_eq]
    cases c
    · simp
    · simp [testBit_putBit]
  · rw [Scarab.setReg_eq, State.scarabNext_eq]

theorem completes_st (hn : s.scb.next = some (.st d a imm)) : Completes (.st d a imm) s fun t =>
    (∀ k, t.scb.dataWord k = if k % 16384 = s.scAddr a imm % 16384 then s.scb.reg d else s.scb.dataWord k) ∧
    t = { s with scb := { s.scarabNext (.st d a imm) with retained := t.scb.retained, volatile := t.scb.volatile } } := by
  refine ⟨_, exec_scarabOp rfl hn (Scarab.samePlace_setData _ _ _), fun k => ?_, ?_⟩
  · refine (Scarab.dataWord_setData s.scb (s.scb.addr a imm) (s.scb.reg d) k).trans ?_
    rw [State.addr_eq_scAddr, Nat.mod_eq_of_lt (Scarab.reg_lt _ _)]
  · rw [State.scarabNext_eq]
    unfold Scarab.setData
    dsimp only
    split <;> rfl

theorem completes_stp_staged (hn : s.scb.next = some (.stp d a imm)) (hstaged : s.scb.staged = true) : Completes (.stp d a imm) s fun t =>
    t = { s with scb := { s.scarabNext (.stp d a imm) with stpDrop := min 255 (s.scb.stpDrop + 1) } } := by
  refine ⟨_, exec_scarabOp rfl hn (Scarab.samePlace_stp _ _ _), ?_⟩
  rw [State.scarabNext_eq, Scarab.stp, if_pos hstaged]
  rfl

/-- STP into a bank without a placed program: the word is written, and a check that has begun is given up. -/
theorem Scarab.stp_of_unstaged {x : Scarab} (h : x.staged = false) (a v : Nat) : x.stp a v =
    { x.setShadow a v with
      armed := if x.checking.isSome then false else x.armed, checking := none
      cancels := if x.checking.isSome then min 255 (x.cancels + 1) else x.cancels } := by
  rw [Scarab.stp, if_neg (by simp [h])]
  unfold Scarab.setShadow
  cases x
  dsimp only
  split <;> split <;> simp_all [satInc, satAdd]

theorem completes_stp (hn : s.scb.next = some (.stp d a imm)) (hstaged : s.scb.staged = false) : Completes (.stp d a imm) s fun t =>
    (∀ k, t.scb.shadow.get 0 k = if k = s.scAddr a imm % 16384 then s.scb.reg d else s.scb.shadow.get 0 k) ∧
    (if s.scb.bank then t.scb.bank1 = s.scb.bank1 else t.scb.bank0 = s.scb.bank0) ∧
    t = { s with scb := { s.scarabNext (.stp d a imm) with
      bank0 := t.scb.bank0, bank1 := t.scb.bank1
      armed := if s.scb.checking.isSome then false else s.scb.armed, checking := none
      cancels := if s.scb.checking.isSome then min 255 (s.scb.cancels + 1) else s.scb.cancels } } := by
  have hexec := exec_scarabOp rfl hn (Scarab.samePlace_stp s.scb (s.scb.addr a imm) (s.scb.reg d))
  rw [Scarab.stp_of_unstaged hstaged, State.addr_eq_scAddr] at hexec
  refine ⟨_, hexec, fun k => ?_, ?_, ?_⟩
  · unfold Scarab.setShadow Scarab.shadow
    cases s.scb.bank <;> exact Tab.get_set _ _ _ _ _
  · unfold Scarab.setShadow
    cases s.scb.bank <;> rfl
  · rw [State.scarabNext_eq]
    unfold Scarab.setShadow
    split <;> rfl

/-! ## A scan, and the flow of control -/

theorem execScarabScan_of_scanned (h : s.scb.scanned = true) : exec .scarabScan s = .next s := by
  show execScarabScan s = _
  unfold execScarabScan
  simp [h]

theorem execScarabScan_starts (hrun : s.scb.run = true) (hhalt : s.scb.halted = false) (hscan : s.scb.scanned = false)
    (hoff : s.mgr.mode ≠ .off) (hlimp : s.mgr.mode ≠ .limp) : exec .scarabScan s = .next { s with scb := { s.scb with
      scanned := true, pc := 0, cyc := 0, stack := [], loops := [], ended := false, outq := [], outs := 0, cmdq := [], cmds := 0 } } := by
  show execScarabScan s = _
  unfold execScarabScan
  rw [if_pos (by simp [hrun, hhalt, hscan, hoff, hlimp])]
  rfl

/-- An instruction that steers the scan itself: its effect and its cycles. -/
theorem completes_run (he : exec i s = .next (s.scarabRun i f)) (hn : s.scb.next = some i) :
    Completes i s fun t => t = { s with scb := { f s.scb with cyc := (f s.scb).cyc + scarabCost i } } :=
  ⟨_, he, s.scarabRun_next i f hn⟩

/-- A branch: its target in 2 cycles where its condition holds, the next word in 1 where it does not. -/
theorem completes_branch {n : Nat} {p : Scarab → Bool} (he : exec i s = .next (s.scarabBranch i n p)) (hn : s.scb.next = some i)
    (hcost : scarabCost i = 1) : Completes i s fun t =>
      t = { s with scb := if p s.scb then { s.scb with pc := n % 16384, cyc := s.scb.cyc + 2 } else s.scarabNext i } := by
  refine ⟨_, he, (s.scarabRun_next i _ hn).trans ?_⟩
  unfold State.scarabNext
  rw [hcost]
  split <;> rfl

theorem Completes.mono {P Q : State → Prop} (h : Completes i s P) (hpq : ∀ t, P t → Q t) : Completes i s Q := by
  obtain ⟨t, ht, hp⟩ := h
  exact ⟨t, ht, hpq t hp⟩

/-- RET to a word behind which no loop body ends. -/
theorem completes_ret {r : Nat} {rest : List Nat} (hn : s.scb.next = some .ret) (hstack : s.scb.stack = r :: rest)
    (hloops : ∀ l ∈ s.scb.loops, l.2.1 + 1 ≠ r) : Completes .ret s fun t =>
      t = { s with scb := { s.scb with pc := r % 16384, cyc := s.scb.cyc + 2, stack := rest } } := by
  refine (completes_run rfl hn).mono fun t ht => ht.trans ?_
  have hret : s.scb.ret = { s.scb with stack := rest, pc := r % 16384 } := by
    unfold Scarab.ret
    rw [hstack]
    exact Scarab.flow_of_no_end _ _ _ hloops
  rw [hret]
  rfl

theorem State.sreg_lt (s : State) (a b : Nat) : (s.scReg a).slt (s.scReg b) = decide (s.scb.sreg a < s.scb.sreg b) := by
  rw [BitVec.slt_eq_decide, State.scReg_toInt, State.scReg_toInt]

end Sys2Proof.Machine
end

section
/-! The obligations about the instructions of the Scarab engine. -/

namespace Sys2Proof.Machine

/-- Settles O10, by the instruction. That an instruction that is not the next one does not occur is the model's choice (log entries 5
and 87). -/
theorem scarabKeepsToItself : Obligations.ScarabKeepsToItself := by
  unfold Obligations.ScarabKeepsToItself
  intro i s henc
  show KeepsToEngine i s
  unfold scarabEncode at henc
  split at henc
  -- ADD to SLT, ADDI to ORI, LI and LUI
  case h_3 | h_4 | h_5 | h_6 | h_7 | h_8 | h_9 | h_10 | h_11 | h_12 | h_13 | h_14 | h_15 | h_16 | h_17 | h_18 | h_19 | h_24 | h_25 =>
    exact keepsToEngine_set rfl
  -- LD, IN, SPAN READ, TIME
  case h_20 | h_23 | h_29 | h_33 => exact keepsToEngine_op rfl (Scarab.sameOutside_setReg _ _ _)
  case h_21 => exact keepsToEngine_op rfl (Scarab.sameOutside_setData _ _ _)
  case h_22 => exact keepsToEngine_op rfl (Scarab.sameOutside_stp _ _ _)
  case h_26 | h_27 | h_42 =>
    -- OUT, CMD, SWAP
    refine keepsToEngine_op rfl ?_
    repeat' split
    all_goals exact ⟨rfl, rfl, rfl⟩
  case h_28 => exact keepsToEngine_op rfl (Scarab.sameOutside_setReg _ _ _)
  case h_30 | h_31 => exact keepsToEngine_op rfl ⟨rfl, rfl, rfl⟩
  case h_32 => exact keepsToEngine_op rfl (Scarab.sameOutside_spanStop _ _)
  case h_34 | h_35 | h_36 | h_37 => exact keepsToEngine_branch rfl
  case h_1 => exact keepsToEngine_op rfl ⟨rfl, rfl, rfl⟩
  case h_2 | h_38 | h_39 | h_41 => exact keepsToEngine_run rfl ⟨rfl, rfl, rfl⟩
  case h_40 => exact keepsToEngine_run rfl (Scarab.sameOutside_ret _)
  case h_43 => cases henc

/-- Settles O12: what each of them reads, and the latch and the flag that TAKE clears. -/
theorem scarabReadsItsSources : Obligations.ScarabReadsItsSources := by
  unfold Obligations.ScarabReadsItsSources
  refine ⟨fun s d a imm n => ⟨?_, ?_, scarabWrites_of_setReg rfl rfl, scarabWrites_of_setReg rfl rfl⟩, fun s d e c hn => ?_⟩
  · exact scarabWrites_of_setReg rfl (congrArg s.scb.dataWord (s.addr_eq_scAddr a imm))
  · exact scarabWrites_of_setReg rfl (congrArg (fun x => s.scb.input.get 0 (x % 1024)) (s.addr_eq_scAddr a imm))
  · exact completes_take hn

/-- Settles O13. -/
theorem scarabStores : Obligations.ScarabStores := by
  unfold Obligations.ScarabStores
  exact fun s d a imm => ⟨completes_st, completes_stp, completes_stp_staged⟩

/-- Settles O15, by the instruction. -/
theorem scarabFlow : Obligations.ScarabFlow := by
  unfold Obligations.ScarabFlow
  refine ⟨fun s hrun hhalt hoff hlimp => ⟨fun hscan => ⟨s, execScarabScan_of_scanned hscan, rfl⟩, fun hscan =>
    ⟨_, execScarabScan_starts hrun hhalt hscan hoff hlimp, rfl⟩⟩, fun s a b n m => ?_⟩
  extract_lets taken
  refine ⟨fun hn => completes_run rfl hn, fun hn => completes_run rfl hn, fun hn => ?_, fun hn => ?_, fun hn => ?_, fun hn => ?_,
    fun hn => completes_run rfl hn, fun hn => completes_run rfl hn, fun hn => completes_run rfl hn,
    fun _ hn hstack hloops => completes_ret hn hstack hloops⟩
  · exact (completes_branch rfl hn rfl).mono fun t ht => ht.trans (by simp only [beq_iff_eq]; rfl)
  · exact (completes_branch rfl hn rfl).mono fun t ht => ht.trans (by simp only [bne_iff_ne, ite_not]; rfl)
  · exact (completes_branch rfl hn rfl).mono fun t ht => ht.trans (by rw [s.sreg_lt])
  · refine (completes_branch rfl hn rfl).mono fun t ht => ht.trans ?_
    simp only [s.sreg_lt, decide_eq_true_eq, ← Int.not_lt, ite_not]
    rfl

end Sys2Proof.Machine
end

section
/-! SUPPORT. The entry into Limp (R321, R365): what the steps before the stop of the groups leave, and what the stop adds. -/

namespace Sys2Proof.Machine

variable {s : State} {g cause : Nat}

/-- What Limp entry keeps until it stops the groups: what is fitted, the images, the owners, the tiers, and the groups. -/
def State.limpView (s : State) : (Fit × Img × Owners × List Host.Cell × Tab Nat) × Tab Group := (s.ownerView, s.groups)

theorem State.ownerView_of_limpView {t : State} (h : t.limpView = s.limpView) : t.ownerView = s.ownerView := congrArg Prod.fst h

theorem State.groups_of_limpView {t : State} (h : t.limpView = s.limpView) : t.groups = s.groups := congrArg Prod.snd h

theorem State.final_limpView (s : State) (c : Cmd) (status : Nat) (r : List (Nat × Nat)) : (s.final c status r).limpView = s.limpView :=
  Prod.ext (s.final_ownerView c status r) (s.final_groups c status r)

theorem State.finalAll_limpView (s : State) (cs : List Cmd) (status : Nat) (r : List (Nat × Nat)) :
    (s.finalAll cs status r).limpView = s.limpView :=
  foldl_keeps State.limpView _ (fun st c => st.final_limpView c status r) cs s

theorem State.cancelDoze_limpView (s : State) : s.cancelDoze.limpView = s.limpView := by
  unfold State.cancelDoze
  split
  · rfl
  · rw [State.final_limpView, State.broadcast_onlyHubs]
    rfl

theorem State.overtaken_limpView (s : State) : s.overtaken.limpView = s.limpView := by
  refine (State.finalAll_limpView _ _ _ _).trans ?_
  split
  · rfl
  · exact s.cancelDoze_limpView

theorem State.overtaken_mode (s : State) : s.overtaken.mgr.mode = s.mgr.mode := by
  unfold State.overtaken
  simp only [State.updMgr_mgr, State.finalAll_mgr]
  split
  · rfl
  · exact s.cancelDoze_mode

theorem State.plannerLimp_limpView (s : State) : s.plannerLimp.limpView = s.limpView := by
  unfold State.plannerLimp
  split
  · split
    · rfl
    · obtain ⟨_, _, _, h⟩ := State.finalQ_only s.dropPlan _ stCancelled []
      rw [h]
      rfl
  · rfl
  · rfl

theorem State.setMode_limpView (s : State) (m : MState) (cause : Nat) : (s.setMode m cause).limpView = s.limpView := by
  rw [State.setMode_only]
  rfl

theorem State.endTunes_limpView (s : State) : s.endTunes.limpView = s.limpView := by
  unfold State.endTunes
  exact foldl_keeps State.limpView (fun st c => st.draw.2.final c (Config.openResult st.draw.1 % 256))
    (fun st c => State.final_limpView _ c _ _) s.tuneCmds _

/-- Ending the TUNEs takes from the manager's record what nobody can foresee, and nothing else. -/
theorem State.endTunes_mgr (s : State) : ∃ n, s.endTunes.mgr = { s.mgr with fresh := n } := by
  have hfold (cs : List Cmd) (u : State) : ∃ n, (cs.foldl (fun st c => (st.draw.2).final c (Config.openResult st.draw.1 % 256)) u).mgr =
      { u.mgr with fresh := n } := by
    induction cs generalizing u with
    | nil => exact ⟨u.mgr.fresh, rfl⟩
    | cons c cs ih =>
      obtain ⟨n, hn⟩ := ih ((u.draw.2).final c (Config.openResult u.draw.1 % 256))
      exact ⟨n, hn.trans (by rw [State.final_mgr]; rfl)⟩
  exact hfold _ _

/-- The manager's record after the change to Limp. -/
theorem State.limpMode_mgr (h : s.mgr.mode ≠ .limp) (cause : Nat) :
    let m := ((s.overtaken.plannerLimp.setMode .limp cause).endTunes).mgr
    m.mode = .limp ∧ m.cause = cause ∧ m.prev = s.mgr.mode.code := by
  intro m
  obtain ⟨n, hn⟩ := (s.overtaken.plannerLimp.setMode .limp cause).endTunes_mgr
  have hmode : s.overtaken.plannerLimp.mgr.mode = s.mgr.mode := by rw [State.plannerLimp_mgr, State.overtaken_mode]
  rw [State.setMode_mgr (by rwa [hmode]), hmode] at hn
  simp only [m, hn]
  exact ⟨trivial, trivial, rfl⟩

/-! ## What the stop of the groups and the event add -/

theorem State.stopGroups_scb (s : State) (gs : List Nat) (reason : Nat) : (s.stopGroups gs reason).scb = s.scb :=
  foldl_keeps State.scb _ (fun st g => by rw [State.stopGroup_only]) gs s

/-- A message that waits in a hub's inbox still waits there after the stops. -/
theorem State.stopGroups_inbox {m : Msg} {k : Nat} (gs : List Nat) (reason : Nat) (h : m ∈ (s.hub k).inbox) :
    m ∈ ((s.stopGroups gs reason).hub k).inbox := by
  induction gs generalizing s with
  | nil => exact h
  | cons g gs ih =>
    refine ih ?_
    obtain ⟨l, hl⟩ := s.stopGroup_hub g reason k
    rw [hl]
    exact List.mem_append_left _ h

theorem State.stopGroups_group {gs : List Nat} (hgs : gs.Nodup) (hmem : g ∈ gs) (hruns : s.groupRuns g = true) (reason : Nat) :
    (s.stopGroups gs reason).group g = (s.group g).halt reason := by
  obtain ⟨u, hu, hat⟩ := State.forEach_at (part := State.group) (f := fun st g => st.stopGroup g reason)
    (fun st v w hne => st.stopGroup_group_ne reason hne) hgs hmem s
  have hrunsu : u.groupRuns g = true := by rw [State.groupRuns, hu]; exact hruns
  exact hat.trans ((State.stopGroup_group_self hrunsu reason).trans (congrArg (Group.halt · reason) hu))

theorem State.raise_scanStopped (s : State) (code : Nat) (fields : List (Nat × Nat × Nat)) :
    ((s.raise code fields).scb.halted, (s.raise code fields).scb.run) = (s.scb.halted, s.scb.run) := by
  have hput (f : Hub → Hub) : (s.forEach s.fit.sledList fun st k => st.updHub k f).scb = s.scb := by
    rw [State.forEach_updHub_onlyHubs]
  have harrive (u : State) (e n mc : Nat) : ((u.arrive e n mc).scb.halted, (u.arrive e n mc).scb.run) = (u.scb.halted, u.scb.run) :=
    Scarab.arrive_keeps (fun x => (x.halted, x.run)) (fun _ => True) (fun _ _ => rfl) (fun _ _ => trivial) (fun _ _ _ _ => rfl) _ _ _ _
      trivial _
  unfold State.raise
  dsimp only
  split
  · rw [State.updHost_scb, hput]
  · rw [harrive, State.updHost_scb, hput]

/-- The machine in which Limp entry stops the groups: the safe outputs driven, LIMP sent. -/
def State.limpSent (s : State) (cause : Nat) : State :=
  ((s.overtaken.plannerLimp.setMode .limp cause).endTunes.holdCells.updScb fun x => { x.stop with armed := false, checking := none }).broadcast
    .limp

/-- Limp entry: LIMP sent, the running groups stopped, the event raised, the request dealt with. -/
theorem State.enterLimp_eq (hreq : s.mgr.limpReq = some cause) (hoff : s.mgr.mode ≠ .off) (hlimp : s.mgr.mode ≠ .limp) :
    ∃ fields, s.enterLimp = (((s.limpSent cause).stopGroups s.runningGroups 7).raise 0x000B fields).updMgr
      fun m => { m with limpReq := none, holdEntry := none } := by
  unfold State.enterLimp
  rw [hreq]
  dsimp only
  rw [if_neg (not_or.mpr ⟨hoff, hlimp⟩)]
  exact ⟨_, rfl⟩

theorem State.limpSent_limpView (s : State) (cause : Nat) : (s.limpSent cause).limpView = s.limpView := by
  have hbroad (u : State) (m : Msg) : (u.broadcast m).limpView = u.limpView := by rw [State.broadcast_onlyHubs]; rfl
  have hcells (u : State) (f : Scarab → Scarab) : (u.holdCells.updScb f).limpView = u.limpView := rfl
  rw [State.limpSent, hbroad, hcells, State.endTunes_limpView, State.setMode_limpView, State.plannerLimp_limpView,
    State.overtaken_limpView]

theorem State.limpSent_mgr (h : s.mgr.mode ≠ .limp) (cause : Nat) :
    (s.limpSent cause).mgr.mode = .limp ∧ (s.limpSent cause).mgr.cause = cause ∧ (s.limpSent cause).mgr.prev = s.mgr.mode.code := by
  rw [State.limpSent, State.broadcast_mgr, State.updScb_mgr, State.holdCells_mgr]
  exact State.limpMode_mgr h cause

theorem State.limpSent_scan (s : State) (cause : Nat) : ((s.limpSent cause).scb.halted, (s.limpSent cause).scb.run) = (true, false) := by
  rw [State.limpSent, State.broadcast_onlyHubs]
  rfl

/-- A group that runs is stopped with reason 7, unless its stop had begun before. -/
theorem State.limpSent_stops (hg : g < 32) (hruns : s.groupRuns g = true) (cause : Nat) :
    ((s.limpSent cause).stopGroups s.runningGroups 7).group g = (s.group g).halt 7 := by
  have hgroup : (s.limpSent cause).group g = s.group g := by
    rw [State.group, State.group, State.groups_of_limpView (s.limpSent_limpView cause)]
  have hmem : g ∈ s.runningGroups := List.mem_filter.mpr ⟨List.mem_range.mpr hg, hruns⟩
  refine (State.stopGroups_group (List.nodup_range.filter _) hmem ?_ 7).trans (congrArg (Group.halt · 7) hgroup)
  rw [State.groupRuns, hgroup]
  exact hruns

/-- The machine in which Limp entry raises its event: the groups are stopped. -/
def State.limpStopped (s : State) (cause : Nat) : State := (s.limpSent cause).stopGroups s.runningGroups 7

theorem State.limpStopped_ownerView (s : State) (cause : Nat) : (s.limpStopped cause).ownerView = s.ownerView := by
  rw [State.limpStopped, State.stopGroups_ownerView]
  exact State.ownerView_of_limpView (s.limpSent_limpView cause)

theorem State.limpStopped_scan (s : State) (cause : Nat) : ((s.limpStopped cause).scb.halted, (s.limpStopped cause).scb.run) = (true, false) := by
  rw [State.limpStopped, State.stopGroups_scb]
  exact s.limpSent_scan cause

theorem State.limpSent_reached (s : State) (cause : Nat) : Reached (s.limpSent cause) .limp := by
  rw [State.limpSent]
  exact State.broadcast_reaches _ _

theorem State.limpStopped_reached (s : State) (cause : Nat) : Reached (s.limpStopped cause) .limp := by
  intro k hk
  rw [State.fit_of_ownerView (s.limpStopped_ownerView cause)] at hk
  rw [← State.fit_of_ownerView (State.ownerView_of_limpView (s.limpSent_limpView cause))] at hk
  rw [State.limpStopped]
  exact State.stopGroups_inbox _ _ (s.limpSent_reached cause k hk)

/-- The same after the event has been raised. -/
theorem State.limpRaised_reached (s : State) (cause : Nat) (fields : List (Nat × Nat × Nat)) :
    Reached ((s.limpStopped cause).raise 0x000B fields) .limp := by
  intro k hk
  rw [State.raise_fit] at hk
  rw [State.raise_hub, if_pos hk]
  exact s.limpStopped_reached cause k hk

theorem completes_limpEntry (hreq : s.mgr.limpReq = some cause) (hoff : s.mgr.mode ≠ .off) (hlimp : s.mgr.mode ≠ .limp) :
    Completes .limpEntry s fun t =>
      t.mgr.mode = .limp ∧ t.mgr.cause = cause ∧ t.mgr.prev = s.mgr.mode.code ∧ t.mgr.limpReq = none ∧ t.scb.halted = true ∧
      t.scb.run = false ∧ Reached t .limp ∧ (∀ g, g < 32 → s.groupRuns g = true → (t.group g).stopped = true ∧
        ((s.group g).stopped = false → (s.group g).sledsStopped = [] → (t.group g).reason = 7)) ∧ t.owners = s.owners ∧
      t.mem = s.mem ∧ t.keyTag = s.keyTag ∧ ∀ i, i < s.fit.sleds → ∃ v ∈ (t.hub i).evq, v.code = 0x0B := by
  obtain ⟨fields, henter⟩ := State.enterLimp_eq hreq hoff hlimp
  refine ⟨_, congrArg Host.Outcome.next henter, ?_⟩
  have hmgr : ((s.limpStopped cause).raise 0x000B fields).mgr = (s.limpSent cause).mgr := by
    rw [State.raise_mgr, State.limpStopped, State.stopGroups_mgr]
  have hscan := ((s.limpStopped cause).raise_scanStopped 0x000B fields).trans (s.limpStopped_scan cause)
  have hown : ((s.limpStopped cause).raise 0x000B fields).ownerView = s.ownerView := by
    rw [State.raise_only]
    exact s.limpStopped_ownerView cause
  have hgroup (g : Nat) (hg : g < 32) (hruns : s.groupRuns g = true) :
      ((s.limpStopped cause).raise 0x000B fields).group g = (s.group g).halt 7 := by
    rw [State.group, State.raise_groups]
    exact State.limpSent_stops hg hruns cause
  have hevent (i : Nat) (hi : i < s.fit.sleds) : ∃ v ∈ (((s.limpStopped cause).raise 0x000B fields).hub i).evq, v.code = 0x0B :=
    (s.limpStopped cause).raise_records 0x000B fields (by rwa [State.fit_of_ownerView (s.limpStopped_ownerView cause)])
  have hreached := s.limpRaised_reached cause fields
  rw [State.limpStopped] at *
  generalize ((s.limpSent cause).stopGroups s.runningGroups 7).raise 0x000B fields = w at *
  obtain ⟨hmode, hcause, hprev⟩ := State.limpSent_mgr hlimp cause
  rw [← hmgr] at hmode hcause hprev
  obtain ⟨hhalted, hrun⟩ := Prod.mk.inj hscan
  refine ⟨hmode, hcause, hprev, rfl, hhalted, hrun, hreached, fun g hg hruns => ?_, State.owners_of_ownerView hown,
    State.mem_of_ownerView hown, State.keyTag_of_ownerView hown, hevent⟩
  rw [State.updMgr_group, hgroup g hg hruns]
  refine ⟨rfl, fun hstop hsleds => ?_⟩
  simp [Group.halt, hstop, hsleds]

end Sys2Proof.Machine
end

section
/-! The obligation about Limp. -/

namespace Sys2Proof.Machine

/-- Settles O28, by the command. -/
theorem limpIsEntered : Obligations.LimpIsEntered := by
  unfold Obligations.LimpIsEntered
  refine ⟨fun s k part z hoff => ⟨fun hlimp => ?_, fun hz => ?_, ?_⟩, fun s cause k pre rest => ⟨completes_limpEntry, fun hmsg => ?_⟩⟩
  · refine ⟨_, if_neg (not_or.mpr ⟨hoff, hlimp⟩), ?_, rfl⟩
    rw [← orElse_some_getD]
    rfl
  · refine ⟨_, if_pos ⟨hoff, hz⟩, ?_, fun hlimp => ?_, fun hlimp => if_pos hlimp, rfl⟩
    · simp only [State.updMgr_mgr]
      split
      next h => exact List.contains_iff_mem.mp h
      next => exact List.mem_append_right _ (List.mem_singleton_self _)
    · rw [← orElse_some_getD]
      exact if_neg hlimp
  · exact ⟨_, rfl, fun x => by simp, rfl⟩
  · refine completes_updHub (if_pos hmsg.contains) ?_
    rw [hmsg.dropMsg_eq]

end Sys2Proof.Machine
end

section
/-! SUPPORT. Restarts (R323 to R326, R366): what the acceptance of a restart and the frames 16 and 80 of its ladder leave of the manager's record. -/

namespace Sys2Proof.Machine

variable {s : State} {c : Cmd} {r : Restart}

/-! ## The manager's record -/

theorem State.loseJob_mgr (s : State) (g reason : Nat) : (s.loseJob g reason).mgr = s.mgr := congrArg Prod.fst (s.loseJob_unitView g reason)

theorem State.dropQueued_mgr (s : State) (p : Nat → Bool) (status : Nat) : (s.dropQueued p status).mgr = s.mgr :=
  s.forEach_mgr _ _ fun st _ => foldl_keeps State.mgr _ (fun a _ => a.final_mgr _ _ _) _ st

theorem State.fillSlot0_only (s : State) : ∃ workers owners, s.fillSlot0 = { s with workers := workers, owners := owners } := by
  have hforEach (l : List Nat) (u : State) : ∃ workers owners, (u.forEach l fun st w =>
      let k := st.newKey 0
      k.2.updWorker w fun x => { x with keys := x.keys.set 0 { live := true, gen := k.1, secret := 0 } }) =
        { u with workers := workers, owners := owners } := by
    induction l generalizing u with
    | nil => exact ⟨u.workers, u.owners, rfl⟩
    | cons w l ih =>
      obtain ⟨workers, owners, h⟩ := ih ((u.newKey 0).2.updWorker w fun x =>
        { x with keys := x.keys.set 0 { live := true, gen := (u.newKey 0).1, secret := 0 } })
      exact ⟨workers, owners, h⟩
  exact hforEach s.liveWorkers s

/-- How a restart stands: its ladder, and the state that the machine is in. -/
def State.ladder (s : State) : Option Restart × MState := (s.mgr.restart, s.mgr.mode)

theorem State.ladder_of_mgr {t : State} (h : t.mgr = s.mgr) : t.ladder = s.ladder := by rw [State.ladder, State.ladder, h]

theorem State.final_ladder (s : State) (c : Cmd) (status : Nat) (res : List (Nat × Nat)) : (s.final c status res).ladder = s.ladder :=
  State.ladder_of_mgr (s.final_mgr c status res)

/-- The moves of released owners end with what nobody can foresee drawn, and with completions. -/
theorem State.endOwnerMoves_ladder (s : State) (owners : List Nat) : (s.endOwnerMoves owners).ladder = s.ladder := by
  have hload (st : State) (l : MLoad) (res : List (Nat × Nat)) :
      ((st.freeLoad l).final l.cmd stOwnerAbsent res).draw.2.ladder = st.ladder :=
    (State.final_ladder _ _ _ _).trans (State.ladder_of_mgr (st.forEach_mgr _ _ fun _ _ => rfl))
  unfold State.endOwnerMoves
  dsimp only
  exact (foldl_keeps State.ladder (fun st (p : Promote) => st.final p.cmd stOwnerAbsent) (fun st _ => st.final_ladder _ _ _) _ _).trans
    (foldl_keeps State.ladder _ (fun st l => hload st l _) _ s)

theorem State.openErase_ladder (s : State) (x : Releasing) : (s.openErase x).ladder = s.ladder := s.endOwnerMoves_ladder x.owners

/-! ## Acceptance -/

theorem State.beginRestart_mgr (s : State) (c : Cmd) (cold : Bool) :
    (s.beginRestart c cold).mgr = { s.mgr with restart := some { cold := cold, start := s.mgr.frame, stage := 0, cmd := c } } := by
  rw [State.beginRestart, State.updScb_mgr, State.updMgr_mgr, State.interim_mgr]

theorem State.beginRestart_ladder (s : State) (c : Cmd) (cold : Bool) :
    (s.beginRestart c cold).ladder = (some { cold := cold, start := s.mgr.frame, stage := 0, cmd := c }, s.mgr.mode) := by
  rw [State.ladder, State.beginRestart_mgr]

theorem exec_restartWarm (hc : IsCmd c 0x15) (hlimp : s.mgr.mode = .limp) (hnone : s.mgr.restart = none)
    (hact : s.img.active.isSome = true) (hcool : s.mgr.thermal = []) : exec (.restartWarm c) s = .next (s.beginRestart c false) := by
  obtain ⟨hop, hfixed⟩ := hc
  refine congrArg Host.Outcome.next (s.decideCmd_accepted c _ _ _ _ _ _ (by rw [hlimp]; rfl) ?_)
  rw [State.refusal_eq_none, firstFail_eq_none]
  exact ⟨hop, hfixed, rfl, rfl, by rw [hlimp]; rfl, by simp [hnone, hact, hcool]⟩

/-- The machine in which RESTART_COLD tears the circuits: its ladder has begun, the owners are being erased. -/
def State.coldBegun (s : State) (c : Cmd) : State := (s.beginRestart c true).coldErase

/-- RESTART_COLD accepted: the owners' erase, the circuits torn, the plane parked, the planner emptied. -/
theorem exec_restartCold (hc : IsCmd c 0x16) (hlimp : s.mgr.mode = .limp) (hnone : s.mgr.restart = none) :
    exec (.restartCold c) s = .next (((s.coldBegun c).tearCircuits ((s.coldBegun c).circs.cells.map (·.1)) 5).parkPlane.updPlane fun p =>
      { p with autos := [], req := none, plan := none, st := 0, ops := [] }) := by
  obtain ⟨hop, hfixed⟩ := hc
  refine congrArg Host.Outcome.next (s.decideCmd_accepted c _ _ _ _ _ _ (by rw [hlimp]; rfl) ?_)
  rw [State.refusal_eq_none, firstFail_eq_none]
  exact ⟨hop, hfixed, rfl, rfl, by rw [hlimp]; rfl, by simp [hnone]⟩

theorem State.coldErase_ladder (s : State) : s.coldErase.ladder = s.ladder := by
  refine (State.openErase_ladder _ _).trans ?_
  split
  · exact s.final_ladder _ _ _
  · rfl

/-- The erase of a cold restart takes every owner but owner 0. -/
theorem State.coldErase_live {o : Nat} (h : o ∈ s.coldErase.owners.live) : o = 0 := by
  unfold State.coldErase at h
  extract_lets gone s1 old more at h
  have hlive : s1.owners.live = s.owners.live := by
    unfold s1
    split
    · rw [State.final_owners]
    · rfl
  rw [State.openErase_owners, State.eraseStart, State.updOwners_owners] at h
  dsimp only at h
  rw [hlive] at h
  obtain ⟨hmem, hout⟩ := List.mem_filter.mp h
  by_contra hne
  have hgone : o ∈ gone := List.mem_filter.mpr ⟨hmem, by simpa using hne⟩
  have herased : o ∈ (gone ++ more).mergeSort (· ≤ ·) := List.mem_mergeSort.mpr (List.mem_append_left _ hgone)
  simp [herased] at hout

theorem completes_restartCold (hc : IsCmd c 0x16) (hlimp : s.mgr.mode = .limp) (hnone : s.mgr.restart = none) :
    Completes (.restartCold c) s fun t =>
      t.mgr.restart = some { cold := true, start := s.mgr.frame, stage := 0, cmd := c } ∧ t.mgr.mode = .limp ∧
      (∀ o, o ∈ t.owners.live → o = 0) ∧ t.plane.autos = [] ∧ t.plane.req = none ∧ t.plane.plan = none := by
  refine ⟨_, exec_restartCold hc hlimp hnone, ?_⟩
  generalize hb : s.coldBegun c = b
  have hladder : (b.tearCircuits (b.circs.cells.map (·.1)) 5).ladder = b.ladder := State.ladder_of_mgr (State.tearCircuits_mgr _ _ _)
  have hbegun : b.ladder = (some { cold := true, start := s.mgr.frame, stage := 0, cmd := c }, .limp) := by
    rw [← hb, State.coldBegun, State.coldErase_ladder, State.beginRestart_ladder, hlimp]
  have howners := State.owners_of_ownerView (b.tearCircuits_ownerView (b.circs.cells.map (·.1)) 5)
  generalize b.tearCircuits (b.circs.cells.map (·.1)) 5 = u at *
  obtain ⟨hrestart, hmode⟩ := Prod.mk.inj (hladder.trans hbegun)
  refine ⟨hrestart, hmode, fun o ho => ?_, rfl, rfl, rfl⟩
  have hlive : o ∈ u.owners.live := ho
  rw [howners, ← hb] at hlive
  exact State.coldErase_live hlive

/-! ## Frame 16 -/

theorem execRestartLadderStage_failed (hr : s.mgr.restart = some r) (hstage : r.stage = 0) (hframe : r.start + 16 ≤ s.mgr.frame) :
    exec (.restartLadderStage false) s = .next (({ s with mgr := { s.mgr with restart := none } } : State).final r.cmd 0x14) := by
  show execRestartLadderStage false s = _
  unfold execRestartLadderStage
  rw [hr]
  exact if_pos ⟨hstage, hframe⟩

theorem execRestartLadderStage_waits (hr : s.mgr.restart = some r) (hstage : r.stage = 0) (hframe : s.mgr.frame < r.start + 16) (ok : Bool) :
    exec (.restartLadderStage ok) s = .next s := by
  show execRestartLadderStage ok s = _
  unfold execRestartLadderStage
  rw [hr]
  dsimp only
  rw [if_neg (by omega), if_neg (by omega)]

/-- The machine at frame 16 of its restart with its self-test passed. -/
def State.selfTested (s : State) (r : Restart) : State := s.updMgr fun m => { m with restart := some { r with stage := 1 } }

theorem execRestartLadderStage_tested (hr : s.mgr.restart = some r) (hstage : r.stage = 0) (hframe : r.start + 16 ≤ s.mgr.frame) :
    exec (.restartLadderStage true) s = .next (if r.cold then (s.selfTested r).coldClear else (s.selfTested r).warmPrime) := by
  show execRestartLadderStage true s = _
  unfold execRestartLadderStage
  rw [hr]
  exact if_pos ⟨hstage, hframe⟩

/-- What a cold restart clears at frame 16 (log entry 39). -/
def State.Cleared (s : State) : Prop :=
  s.img.active = none ∧ s.img.staged = none ∧ (∀ g, s.group g = Group.init) ∧ s.scb.bank0 = nullProgram ∧ s.scb.bank1 = nullProgram

/-- The machine after a cold restart's frame 16, with the manager's record `m`: the controller scans again, everything is cleared. -/
def State.Restarted (s : State) (m : Mgr) : Prop := s.mgr = m ∧ s.scb.halted = false ∧ s.scb.run = true ∧ s.Cleared

theorem State.fillSlot0_rests {m : Mgr} (h : s.Restarted m) : s.fillSlot0.Restarted m := by
  obtain ⟨_, _, hfill⟩ := s.fillSlot0_only
  rw [hfill]
  exact h

theorem State.coldClear_restarted (s : State) : s.coldClear.Restarted s.mgr := by
  unfold State.coldClear
  extract_lets s1 s2 s3 s4 s5 ended s6
  have h1 : s1.mgr = s.mgr := s.forEach_mgr _ _ fun st g => st.loseJob_mgr g 8
  have h2 : s2.mgr = s.mgr := (s1.dropQueued_mgr _ _).trans h1
  have h3 : s3.mgr = s.mgr := (foldl_keeps State.mgr _ (fun st _ => st.final_mgr _ _ _) _ s2).trans h2
  have h4 : s4.mgr = s.mgr := by
    unfold s4
    split
    · rw [State.final_mgr, h3]
    · exact h3
  have h5 : s5.mgr = s.mgr := by
    unfold s5
    split
    · rw [State.final_mgr, h4]
    · exact h4
  clear_value s5
  refine State.fillSlot0_rests ?_
  rw [State.forEach_updHub_onlyHubs]
  exact ⟨h5, rfl, rfl, rfl, rfl, fun _ => rfl, rfl, rfl⟩

theorem completes_restartLadder_tested (hr : s.mgr.restart = some r) (hstage : r.stage = 0) (hframe : r.start + 16 ≤ s.mgr.frame) :
    Completes (.restartLadderStage true) s fun t =>
      t.mgr.restart = some { r with stage := 1 } ∧ t.scb.halted = false ∧ t.scb.run = true ∧ (r.cold = true → t.Cleared) := by
  refine ⟨_, execRestartLadderStage_tested hr hstage hframe, ?_⟩
  split
  · obtain ⟨hmgr, hhalted, hrun, hclear⟩ := (s.selfTested r).coldClear_restarted
    exact ⟨congrArg Mgr.restart hmgr, hhalted, hrun, fun _ => hclear⟩
  next hwarm => exact ⟨rfl, rfl, rfl, fun hcold => absurd hcold hwarm⟩

/-! ## Frame 80 -/

/-- What powering a worker and training its links leaves: the manager's record, the groups and the hubs. -/
def State.sledView (s : State) : Mgr × Tab Group × Tab Hub := (s.mgr, s.groups, s.hubs)

theorem State.trainLinks_sledView (s : State) (w : Nat) : (s.trainLinks w).sledView = s.sledView := by
  refine foldl_keeps State.sledView _ (fun st j => ?_) _ s
  dsimp only
  split <;> rfl

/-- A sled that was dropped has its domains switched on again. -/
def State.wokenSled (s : State) (k : Nat) : State :=
  if (s.hub k).dropped then s.forEach (s.fit.sledWorkers k) fun a w => (a.switchOn w (a.worker w).dropPwr).trainLinks w else s

theorem State.wokenSled_sledView (s : State) (k : Nat) : (s.wokenSled k).sledView = s.sledView := by
  unfold State.wokenSled
  split
  · exact foldl_keeps State.sledView (fun a w => (a.switchOn w (a.worker w).dropPwr).trainLinks w)
      (fun a w => State.trainLinks_sledView _ w) _ s
  · rfl

/-- A hub that starts frames again. -/
def Hub.freed (h : Hub) : Hub :=
  { h with halted := false, held := false, dropped := false, selfRefresh := false, holdPend := false, resumeLeft := none }

/-- The sleds before the circuits and the cells go on. -/
def State.sledsFreed (s : State) : State := s.forEach s.fit.sledList fun st k => (st.wokenSled k).updHub k Hub.freed

theorem State.sledsFreed_groups (s : State) : s.sledsFreed.groups = s.groups :=
  foldl_keeps State.groups _ (fun st k => congrArg (·.2.1) (st.wokenSled_sledView k)) _ s

theorem State.wokenSled_hub (s : State) (k j : Nat) : (s.wokenSled k).hub j = s.hub j :=
  congrArg (fun v : Mgr × Tab Group × Tab Hub => v.2.2.get Hub.init j) (s.wokenSled_sledView k)

theorem State.sledsFreed_hub {k : Nat} (hk : k < s.fit.sleds) : s.sledsFreed.hub k = (s.hub k).freed := by
  obtain ⟨u, hu, hat⟩ := State.forEach_at (part := State.hub) (f := fun st k => (st.wokenSled k).updHub k Hub.freed)
    (fun st v w hne => (State.updHub_hub_ne _ _ hne).trans (st.wokenSled_hub v w)) List.nodup_range (List.mem_range.mpr hk) s
  refine hat.trans ((State.updHub_hub_self _ _ _).trans ?_)
  rw [State.wokenSled_hub, hu]

theorem State.restartSleds_runningGroups (s : State) : s.restartSleds.runningGroups = s.runningGroups := by
  have hgroups : s.restartSleds.groups = s.groups := s.sledsFreed_groups
  unfold State.runningGroups State.groupRuns State.group
  rw [hgroups]

theorem State.restartSleds_hub {k : Nat} (hk : k < s.fit.sleds) : s.restartSleds.hub k = (s.hub k).freed := State.sledsFreed_hub hk

/-- Every sled of `n` starts frames. -/
def State.SledsStart (s : State) (n : Nat) : Prop := ∀ k, k < n → (s.hub k).halted = false ∧ (s.hub k).held = false ∧ (s.hub k).dropped = false

theorem State.restartSleds_start (s : State) : s.restartSleds.SledsStart s.fit.sleds := by
  intro k hk
  rw [State.restartSleds_hub hk]
  exact ⟨rfl, rfl, rfl⟩

theorem State.SledsStart.updHub {n : Nat} (h : s.SledsStart n) {f : Hub → Hub}
    (hf : ∀ x, (f x).halted = x.halted ∧ (f x).held = x.held ∧ (f x).dropped = x.dropped) (k : Nat) : (s.updHub k f).SledsStart n := by
  intro j hj
  rw [State.updHub_hub]
  split
  next hjk =>
    obtain ⟨hhalted, hheld, hdropped⟩ := hf (s.hub k)
    rw [hhalted, hheld, hdropped]
    exact h k (hjk ▸ hj)
  next => exact h j hj

theorem State.SledsStart.forEach {n : Nat} (h : s.SledsStart n) {f : Hub → Hub}
    (hf : ∀ x, (f x).halted = x.halted ∧ (f x).held = x.held ∧ (f x).dropped = x.dropped) (l : List Nat) :
    (s.forEach l fun st k => st.updHub k f).SledsStart n := by
  induction l generalizing s with
  | nil => exact h
  | cons k l ih => exact ih (h.updHub hf k)

/-- The end of a ladder: another state of the machine, and the command's completion. -/
theorem State.ladderEnd {n : Nat} (h : s.SledsStart n) (hnone : s.mgr.restart = none) (m : MState) (c : Cmd) :
    let t := (s.setMode m 0).final c stOk
    t.mgr.restart = none ∧ t.mgr.mode = m ∧ t.SledsStart n := by
  refine ⟨?_, ?_, fun k hk => ?_⟩
  · rw [State.final_mgr]
    unfold State.setMode
    split <;> exact hnone
  · rw [State.final_mgr, State.setMode_mode]
  · obtain ⟨q, hq⟩ := (s.setMode m 0).final_hub c stOk [] k
    rw [hq, State.setMode_hub]
    exact h k hk

theorem completes_restartLadder_ends (hr : s.mgr.restart = some r) (hstage : r.stage = 1) (hframe : r.start + 80 ≤ s.mgr.frame) (ok : Bool) :
    Completes (.restartLadderStage ok) s fun t => t.mgr.restart = none ∧
      t.mgr.mode = (if r.cold then .quiescent else if s.runningGroups.isEmpty then .loaded else .running) ∧ t.SledsStart s.fit.sleds := by
  have hexec : exec (.restartLadderStage ok) s = execRestartLadderStage ok s := rfl
  unfold execRestartLadderStage at hexec
  rw [hr] at hexec
  dsimp only at hexec
  rw [if_neg (by omega), if_pos ⟨hstage, hframe⟩] at hexec
  have hgroups : (s.restartSleds.updMgr fun m => { m with restart := none }).runningGroups = s.runningGroups := s.restartSleds_runningGroups
  have hstart : (s.restartSleds.updMgr fun m => { m with restart := none }).SledsStart s.fit.sleds := s.restartSleds_start
  have hnone : (s.restartSleds.updMgr fun m => { m with restart := none }).mgr.restart = none := rfl
  rw [hgroups] at hexec
  generalize s.restartSleds.updMgr (fun m => { m with restart := none }) = u at *
  by_cases hcold : r.cold = true
  · rw [if_pos hcold] at hexec ⊢
    have hunset := hstart.forEach (f := fun h => { h with applied := false, stepping := false }) (fun _ => ⟨rfl, rfl, rfl⟩) s.fit.sledList
    have hmgr : (u.forEach s.fit.sledList fun st k => st.updHub k fun h => { h with applied := false, stepping := false }).mgr.restart = none := by
      rw [State.forEach_updHub_mgr]
      exact hnone
    exact ⟨_, hexec, State.ladderEnd hunset hmgr .quiescent r.cmd⟩
  · rw [if_neg hcold] at hexec ⊢
    exact ⟨_, hexec, State.ladderEnd hstart hnone _ _⟩

end Sys2Proof.Machine
end

section
/-! The obligations about the restarts. -/

namespace Sys2Proof.Machine

/-- Settles O29, by the command and the frame of the ladder. What a cold restart clears at its frame 16 is log entry 39. -/
theorem restartsRun : Obligations.RestartsRun := by
  unfold Obligations.RestartsRun
  refine fun s c r ok => ⟨fun hc hlimp hnone hact hcool => ⟨_, exec_restartWarm hc hlimp hnone hact hcool, s.beginRestart_mgr c false, ?_⟩,
    completes_restartCold, fun hr hstage hframe => ⟨_, execRestartLadderStage_failed hr hstage hframe, rfl⟩, completes_restartLadder_tested,
    fun hr hstage hframe => completes_restartLadder_ends hr hstage hframe ok⟩
  rfl

/-- Settles O30: before frame 16 nothing happens, and a failed test ends the restart. -/
theorem restartsStartWithASelfTest : Obligations.RestartsStartWithASelfTest := by
  unfold Obligations.RestartsStartWithASelfTest
  refine fun s r ok hlimp hr hstage => ⟨fun hframe => ⟨s, execRestartLadderStage_waits hr hstage hframe ok, rfl⟩, fun hframe =>
    ⟨_, execRestartLadderStage_failed hr hstage hframe, ?_, ?_, rfl⟩⟩
  · rw [State.final_mgr]
  · rw [State.final_mgr]
    exact hlimp

end Sys2Proof.Machine
end

section
/-! The obligation about commands that are refused. -/

namespace Sys2Proof.Machine

variable {s : State} {c : Cmd} {i : Instr} {op : Nat} {ok : List MState}

/-- Before anything else is looked at, the instruction asks whether a command is decided in the machine's state, and then whether the record
is one of its own opcode with its reserved bits 0 (R339). -/
def Screens (i : Instr) (c : Cmd) (op : Nat) (s : State) : Prop :=
  ∃ t, exec i s = .next t ∧ (s.mgr.mode.deaf = true → t = s) ∧ (s.mgr.mode.deaf = false → ¬IsCmd c op → t = s.final c 0x40)

theorem not_isCmd_iff : ¬IsCmd c op ↔ (c.op == op && c.fixedOk) = false := by simp [IsCmd]

theorem Screens.of_decideCmd {t : State} {ranges data : Bool} {checks : List (Bool × Nat)} {eff : State → State} (he : exec i s = .next t)
    (ht : t = s.decideCmd c op ranges data ok checks eff) : Screens i c op s := by
  refine ⟨t, he, fun hdeaf => ht.trans (s.decideCmd_deaf c op ranges data ok checks eff hdeaf), fun hdeaf hc => ht.trans ?_⟩
  refine s.decideCmd_refused c op ranges data ok checks eff _ hdeaf (s.refusal_bad c op ranges data ok checks ?_)
  rw [not_isCmd_iff.mp hc, Bool.false_and]

/-- COCOON_LOAD asks the same, in an order of its own behind that. -/
theorem State.screens_cocoonLoad (s : State) (c : Cmd) : Screens (.cocoonLoad c) c 0x41 s := by
  refine ⟨s.cocoonLoad c, rfl, fun hdeaf => ?_, fun hdeaf hc => ?_⟩
  · unfold State.cocoonLoad
    dsimp only
    rw [if_pos hdeaf]
  · unfold State.cocoonLoad
    dsimp only
    rw [if_neg (by simp [hdeaf]), if_pos (by simp [not_isCmd_iff.mp hc])]
    rfl

/-- A command that is decided with operands and data that cannot be out of order, in the states `ok`. -/
def DecidesIn (i : Instr) (c : Cmd) (op : Nat) (ok : List MState) (s : State) : Prop :=
  ∃ t checks eff, exec i s = .next t ∧ t = s.decideCmd c op true true ok checks eff

/-- The status of a command that its rule does not accept in the present state (R339). -/
theorem stateRefusal_of_not_mem {m : MState} (h : m ∉ ok) :
    stateRefusal m ok = some (if m = .doze ∨ m = .hold ∨ (m = .passage ∧ MState.loaded ∈ ok) then 0x42 else 0x41) := by
  unfold stateRefusal
  rw [if_neg (mt List.contains_iff_mem.mp h)]
  cases m
  case passage => by_cases hl : MState.loaded ∈ ok <;> simp [hl, stBusy, stWrongState]
  all_goals simp [stBusy, stWrongState]

theorem MState.deaf_eq_false {m : MState} (hoff : m ≠ .off) (hup : m ≠ .bringUp) : m.deaf = false := by
  cases m
  case off => exact absurd rfl hoff
  case bringUp => exact absurd rfl hup
  all_goals rfl

theorem DecidesIn.refused (h : DecidesIn i c op ok s) (hdeaf : s.mgr.mode.deaf = false) (hc : IsCmd c op) (hm : s.mgr.mode ∉ ok) :
    Completes i s fun t =>
      t = s.final c (if s.mgr.mode = .doze ∨ s.mgr.mode = .hold ∨ (s.mgr.mode = .passage ∧ MState.loaded ∈ ok) then 0x42 else 0x41) := by
  obtain ⟨t, checks, eff, he, ht⟩ := h
  obtain ⟨hop, hfixed⟩ := hc
  exact ⟨t, he, ht.trans (s.decideCmd_refused c op true true ok checks eff _ hdeaf
    (s.refusal_state c op _ ok checks hop hfixed (stateRefusal_of_not_mem hm)))⟩

/-- Settles O6: every row is a decision, whose first check is the record and whose next one is the state. In which states IMAGE_DISCARD is
taken is the model's choice (log entry 103, with 25 and 26). -/
theorem commandsAreRefused : Obligations.CommandsAreRefused := by
  unfold Obligations.CommandsAreRefused
  intro s c meas rows stateful m
  have hrows : ∀ r ∈ rows, Screens r.1 c r.2 s := by
    simp only [rows, List.forall_mem_cons]
    and_intros
    exacts [.of_decideCmd rfl (State.nopCmd.eq_1 s c), .of_decideCmd rfl (State.dozeCmd.eq_1 s c),
      .of_decideCmd rfl (State.wakeCmd.eq_1 s c), .of_decideCmd rfl (State.holdCmd.eq_1 s c),
      .of_decideCmd rfl (State.resumeCmd.eq_1 s c), .of_decideCmd rfl (State.powerDownCmd.eq_1 s c),
      .of_decideCmd rfl (State.restartWarm.eq_1 s c), .of_decideCmd rfl (State.restartCold.eq_1 s c),
      .of_decideCmd rfl (State.enterServiceCmd.eq_1 s c), .of_decideCmd rfl (State.leaveServiceCmd.eq_1 s c),
      .of_decideCmd rfl (State.imageLoad.eq_1 s c), .of_decideCmd rfl (State.imageActivate.eq_1 s c),
      .of_decideCmd rfl (State.imageDiscard.eq_1 s c), .of_decideCmd rfl (State.imageDeactivate.eq_1 s c),
      .of_decideCmd rfl (State.kemKeyCmd.eq_1 s c), .of_decideCmd rfl (State.ownerOpen.eq_1 s c),
      .of_decideCmd rfl (State.ownerRelease.eq_1 s c), .of_decideCmd rfl (State.cocoonStore.eq_1 s c), s.screens_cocoonLoad c,
      .of_decideCmd rfl (State.moundPromote.eq_1 s c), .of_decideCmd rfl (State.moundPin.eq_1 s c),
      .of_decideCmd rfl (State.moundUnpin.eq_1 s c), .of_decideCmd rfl (State.moundDrop.eq_1 s c),
      .of_decideCmd rfl (State.moundQuery.eq_1 s c), .of_decideCmd rfl (State.pubkeyAdd.eq_1 s c),
      .of_decideCmd rfl (State.pubkeyRemove.eq_1 s c), .of_decideCmd rfl (State.cocoonDelete.eq_1 s c),
      .of_decideCmd rfl (State.jobStart.eq_1 s c), .of_decideCmd rfl (State.jobAbort.eq_1 s c),
      .of_decideCmd rfl (State.dataImport.eq_1 s c), .of_decideCmd rfl (State.dataExport.eq_1 s c),
      .of_decideCmd rfl (State.lacewingPlan.eq_1 s c 0 _), .of_decideCmd rfl (State.lacewingPlan.eq_1 s c 1 _),
      .of_decideCmd rfl (State.lacewingPlan.eq_1 s c 2 _), .of_decideCmd rfl (State.lacewingCommit.eq_1 s c),
      .of_decideCmd rfl (State.lacewingCancel.eq_1 s c), .of_decideCmd rfl (State.cableSearch.eq_1 s c),
      .of_decideCmd rfl (State.calFactory.eq_1 s c meas), .of_decideCmd rfl (State.calWrite.eq_1 s c),
      .of_decideCmd rfl (State.verifyTile.eq_1 s c), .of_decideCmd rfl (State.verifyPort.eq_1 s c),
      .of_decideCmd rfl (State.loopTune.eq_1 s c),
      fun _ h => absurd h List.not_mem_nil]
  have hstateful : ∀ r ∈ stateful, DecidesIn r.1 c r.2.1 r.2.2 s := by
    simp only [stateful, List.forall_mem_cons]
    and_intros
    exacts [⟨_, _, _, rfl, State.resumeCmd.eq_1 s c⟩, ⟨_, _, _, rfl, State.powerDownCmd.eq_1 s c⟩, ⟨_, _, _, rfl, State.restartWarm.eq_1
      s c⟩, ⟨_, _, _, rfl, State.restartCold.eq_1 s c⟩, ⟨_, _, _, rfl, State.enterServiceCmd.eq_1 s c⟩, ⟨_, _, _, rfl,
      State.leaveServiceCmd.eq_1 s c⟩, ⟨_, _, _, rfl, State.imageLoad.eq_1 s c⟩, ⟨_, _, _, rfl, State.imageDiscard.eq_1 s c⟩, ⟨_,
      _, _, rfl, State.lacewingCommit.eq_1 s c⟩, ⟨_, _, _, rfl, State.lacewingCancel.eq_1 s c⟩, ⟨_, _, _, rfl,
      State.cableSearch.eq_1 s c⟩,
      fun _ h => absurd h List.not_mem_nil]
  refine ⟨fun hm r hr => ?_, fun hoff hup r hr hc => ?_, fun hoff hup r hr hc =>
    (hstateful r hr).refused (MState.deaf_eq_false hoff hup) hc⟩
  · obtain ⟨t, he, hdeaf, -⟩ := hrows r hr
    exact ⟨t, he, hdeaf (by rcases hm with h | h <;> exact congrArg MState.deaf h)⟩
  · obtain ⟨t, he, -, hbad⟩ := hrows r hr
    exact ⟨t, he, hbad (MState.deaf_eq_false hoff hup) hc⟩

end Sys2Proof.Machine
end

section
/-! SUPPORT. The queue pairs of a host link (R332, R333): what fetching leaves of a pair, what doorbells and configuration do to one. -/

namespace Sys2Proof.Machine

variable {s : State} {k q v : Nat}

/-! ## Fetching -/

/-- The pair that fetches next may fetch. -/
theorem Hub.fetchable_of_nextQueue {h : Hub} (hq : h.nextQueue = some q) : (h.queue q).fetchable = true := by
  unfold Hub.nextQueue at hq
  simpa using List.find?_some hq

/-- One read issued for a pair. -/
def Hub.fetchOne (h : Hub) (q : Nat) : Hub := { h with queues := h.queues.set q (h.queue q).fetch, fetched := h.fetched + 1, lastQueue := q }

theorem Hub.fetchOne_queue (h : Hub) (q p : Nat) : (h.fetchOne q).queue p = if p = q then (h.queue q).fetch else h.queue p :=
  Tab.get_set _ _ _ _ _

/-- A fetch goes on with one read of a pair that may fetch, or ends. -/
theorem Hub.fetch_succ (h : Hub) (fuel : Nat) :
    h.fetch (fuel + 1) = h ∨ ∃ q, (h.queue q).fetchable = true ∧ h.fetch (fuel + 1) = (h.fetchOne q).fetch fuel := by
  rw [Hub.fetch]
  split
  · split
    next => exact .inl rfl
    next q hq => exact .inr ⟨q, Hub.fetchable_of_nextQueue hq, rfl⟩
  · exact .inl rfl

/-- Fetching changes the pairs, the count of the frame's reads and whose turn it was. -/
theorem Hub.fetch_only (h : Hub) (fuel : Nat) :
    ∃ queues fetched lastQueue, h.fetch fuel = { h with queues := queues, fetched := fetched, lastQueue := lastQueue } := by
  induction fuel generalizing h with
  | zero => exact ⟨_, _, _, rfl⟩
  | succ fuel ih =>
    rcases h.fetch_succ fuel with hend | ⟨q, -, hone⟩
    · exact ⟨_, _, _, hend⟩
    · obtain ⟨queues, fetched, lastQueue, h'⟩ := ih (h.fetchOne q)
      exact ⟨queues, fetched, lastQueue, hone.trans h'⟩

/-- What a read issued leaves of a pair, fetching leaves. -/
theorem Hub.fetch_queue {β : Type} (part : Queue → β) (hpart : ∀ x : Queue, part x.fetch = part x) (h : Hub) (fuel p : Nat) :
    part ((h.fetch fuel).queue p) = part (h.queue p) := by
  induction fuel generalizing h with
  | zero => rfl
  | succ fuel ih =>
    rcases h.fetch_succ fuel with hend | ⟨q, -, hone⟩
    · rw [hend]
    · rw [hone, ih, Hub.fetchOne_queue]
      split
      next hpq => rw [hpart, hpq]
      next => rfl

/-- A pair that may not fetch stays as it is. -/
theorem Hub.fetch_queue_idle {h : Hub} {p : Nat} (hp : (h.queue p).fetchable = false) (fuel : Nat) : (h.fetch fuel).queue p = h.queue p := by
  induction fuel generalizing h with
  | zero => rfl
  | succ fuel ih =>
    rcases h.fetch_succ fuel with hend | ⟨q, hq, hone⟩
    · rw [hend]
    · have hne : p ≠ q := by
        rintro rfl
        rw [hp] at hq
        cases hq
      have hsame : (h.fetchOne q).queue p = h.queue p := by rw [Hub.fetchOne_queue, if_neg hne]
      rw [hone, ih (hsame ▸ hp), hsame]

/-! ## A pair written by the host -/

/-- What the host has written to a pair: its doorbells, ENABLE, and whether it has stopped. -/
def Queue.hostPart (x : Queue) : Nat × Nat × Bool × Bool := (x.tail, x.cqHead, x.enable, x.error)

theorem Queue.fetch_hostPart (x : Queue) : x.fetch.hostPart = x.hostPart := rfl

theorem Queue.hostPart_eq {x y : Queue} (h : x.hostPart = y.hostPart) :
    x.tail = y.tail ∧ x.cqHead = y.cqHead ∧ x.enable = y.enable ∧ x.error = y.error := by simpa [Queue.hostPart] using h

theorem onlyPair_of_hostPart {t : State} (hhub : OnlyHub k s t)
    (hpart : ∀ p, p ≠ q → ((t.hub k).queue p).hostPart = ((s.hub k).queue p).hostPart) : OnlyPair k q s t :=
  ⟨hhub, fun p hp => Queue.hostPart_eq (hpart p hp)⟩

theorem State.updQueue_onlyHub (s : State) (k q : Nat) (f : Queue → Queue) : OnlyHub k s (s.updQueue k q f) := s.updHub_onlyHub k _

theorem State.updQueue_onlyPair (s : State) (k q : Nat) (f : Queue → Queue) : OnlyPair k q s (s.updQueue k q f) :=
  onlyPair_of_hostPart (s.updQueue_onlyHub k q f) fun _ hp => congrArg Queue.hostPart (s.updQueue_queue_ne k f hp)

theorem State.fetch_hub (s : State) (k : Nat) : (s.fetch k).hub k = (s.hub k).fetch 32 := State.updHub_hub_self _ _ _

theorem OnlyHub.trans {t u : State} (h : OnlyHub k s t) (h' : OnlyHub k t u) : OnlyHub k s u :=
  ⟨by rw [h'.1, h.1], fun j hj => (h'.2 j hj).trans (h.2 j hj)⟩

theorem State.updQueue_fetch_onlyPair (s : State) (k q : Nat) (f : Queue → Queue) : OnlyPair k q s ((s.updQueue k q f).fetch k) := by
  refine onlyPair_of_hostPart ((s.updQueue_onlyHub k q f).trans (State.updHub_onlyHub _ k _)) fun p hp => ?_
  rw [State.fetch_hub, Hub.fetch_queue _ Queue.fetch_hostPart, State.updQueue_queue_ne _ _ _ hp]

/-- What the host has written to a pair stands after what may be fetched from here has been asked for. -/
theorem State.updQueue_fetch_hostPart (s : State) (k q : Nat) (f : Queue → Queue) :
    ((((s.updQueue k q f).fetch k).hub k).queue q).hostPart = (f ((s.hub k).queue q)).hostPart := by
  rw [State.fetch_hub, Hub.fetch_queue _ Queue.fetch_hostPart, State.updQueue_queue_self]

/-- A pair that stops fetches nothing. -/
theorem Queue.stop_fetchable (x : Queue) (code : Nat) : (x.stop code).fetchable = false := by simp [Queue.fetchable, Queue.stop]

theorem State.updQueue_fetch_stop {f : Queue → Queue} {code : Nat} (hf : f ((s.hub k).queue q) = ((s.hub k).queue q).stop code) :
    (((s.updQueue k q f).fetch k).hub k).queue q = ((s.hub k).queue q).stop code := by
  rw [State.fetch_hub, Hub.fetch_queue_idle (by rw [State.updQueue_queue_self, hf, Queue.stop_fetchable]), State.updQueue_queue_self, hf]

theorem completes_sqtail (hready : s.hostReady k) (hq : q < 64) (henable : ((s.hub k).queue q).enable = true)
    (hclosing : ((s.hub k).queue q).closing = false) (herror : ((s.hub k).queue q).error = false) : Completes (.sqtailDoorbell k q v) s fun t =>
      OnlyPair k q s t ∧
      (if v % 4096 < 2 ^ ((s.hub k).queue q).sqLog then ((t.hub k).queue q).tail = v % 4096 ∧ ((t.hub k).queue q).error = false
       else (t.hub k).queue q = { (s.hub k).queue q with error := true, errCode := 3 }) := by
  have hring : ((s.hub k).queue q).ringTail v = if v % 4096 < 2 ^ ((s.hub k).queue q).sqLog then { (s.hub k).queue q with tail := v % 4096 }
      else ((s.hub k).queue q).stop 3 := if_neg (by simp [henable, hclosing, herror])
  refine ⟨s.sqtail k q v, ?_, s.updQueue_fetch_onlyPair k q _, ?_⟩
  · exact (if_pos hq).trans (congrArg Host.Outcome.next (State.hostAccess_of_hostReady hready _))
  · by_cases hv : v % 4096 < 2 ^ ((s.hub k).queue q).sqLog
    · rw [if_pos hv] at hring ⊢
      have hpart := s.updQueue_fetch_hostPart k q fun x => x.ringTail v
      rw [hring] at hpart
      obtain ⟨htail, -, -, herr⟩ := Queue.hostPart_eq hpart
      exact ⟨htail, herr.trans herror⟩
    · rw [if_neg hv] at hring ⊢
      exact State.updQueue_fetch_stop hring

theorem completes_cqhead (hready : s.hostReady k) (hq : q < 64) (henable : ((s.hub k).queue q).enable = true)
    (herror : ((s.hub k).queue q).error = false) : Completes (.cqheadDoorbell k q v) s fun t =>
      OnlyPair k q s t ∧
      (if v % 4096 < 2 ^ ((s.hub k).queue q).cqLog then ((t.hub k).queue q).cqHead = v % 4096 ∧ ((t.hub k).queue q).error = false
       else (t.hub k).queue q = { (s.hub k).queue q with error := true, errCode := 3 }) := by
  have hring : ((s.hub k).queue q).ringHead v = if v % 4096 < 2 ^ ((s.hub k).queue q).cqLog then
      { (s.hub k).queue q with
        cqHead := v % 4096
        cqUsed := ((s.hub k).queue q).cqUsed - consumed ((s.hub k).queue q).cqSize ((s.hub k).queue q).cqUsed ((s.hub k).queue q).cqHead (v % 4096) }
      else ((s.hub k).queue q).stop 3 := if_neg (by simp [henable, herror])
  refine ⟨s.cqhead k q v, ?_, s.updQueue_fetch_onlyPair k q _, ?_⟩
  · exact (if_pos hq).trans (congrArg Host.Outcome.next (State.hostAccess_of_hostReady hready _))
  · by_cases hv : v % 4096 < 2 ^ ((s.hub k).queue q).cqLog
    · rw [if_pos hv] at hring ⊢
      have hpart := s.updQueue_fetch_hostPart k q fun x => x.ringHead v
      rw [hring] at hpart
      obtain ⟨-, hhead, -, herr⟩ := Queue.hostPart_eq hpart
      exact ⟨hhead, herr.trans herror⟩
    · rw [if_neg hv] at hring ⊢
      exact State.updQueue_fetch_stop hring

theorem completes_eqhead (hready : s.hostReady k) (henable : (s.hub k).eqEnable = true) (hv : v % 4096 < 2 ^ (s.hub k).eqLog) :
    Completes (.eqheadDoorbell k v) s fun t => OnlyHub k s t ∧ t.hub k = { s.hub k with eqHead := v % 4096, eqUsed := (t.hub k).eqUsed } := by
  refine ⟨_, congrArg Host.Outcome.next (State.hostAccess_of_hostReady hready _), s.updHub_onlyHub k _, ?_⟩
  rw [State.updHub_hub_self, Hub.eqRing, if_pos (by simp [henable, hv])]

/-! ## Configuration -/

theorem exec_qcfgWrite (hready : s.hostReady k) (hq : q < 64) : exec (.qcfgWrite k q v) s = .next (s.updHub k fun h => h.qcfg q v) :=
  (if_pos hq).trans (congrArg Host.Outcome.next (State.hostAccess_of_hostReady hready _))

/-- A QCFG write leaves every other pair. -/
theorem Hub.qcfg_queue_ne (h : Hub) (v : Nat) {q p : Nat} (hp : p ≠ q) : (h.qcfg q v).queue p = h.queue p := by
  unfold Hub.qcfg
  dsimp only
  repeat' split
  all_goals exact Tab.get_set_ne _ _ _ hp

theorem State.qcfg_onlyPair (s : State) (k q v : Nat) : OnlyPair k q s (s.updHub k fun h => h.qcfg q v) := by
  refine onlyPair_of_hostPart (s.updHub_onlyHub k _) fun p hp => ?_
  rw [State.updHub_hub_self, Hub.qcfg_queue_ne _ _ hp]

/-- A pair as a QCFG write finds it, VECTOR written. -/
def Queue.vectored (x : Queue) (v : Nat) : Queue := { x with vector := vectorOf x.vector v }

/-- A pair that is not enabled, as a QCFG write finds it: VECTOR and the ring sizes written. -/
def Queue.resized (x : Queue) (v : Nat) : Queue := { x.vectored v with cqLog := bitsOf v 19 16, sqLog := bitsOf v 11 8 }

theorem Hub.qcfg_begins {h : Hub} (hoff : (h.queue q).enable = false) (hset : v.testBit 31 = true)
    (hsize : (sizeOk (bitsOf v 19 16) && sizeOk (bitsOf v 11 8)) = true) :
    (h.qcfg q v).queue q = ((h.queue q).resized v).begin_ (h.sessions + 1) := by
  unfold Hub.qcfg
  dsimp only
  rw [if_neg (by simp [hoff]), if_pos hset, if_pos hsize]
  exact Tab.get_set_self _ _ _ _

theorem Hub.qcfg_stops {h : Hub} (hoff : (h.queue q).enable = false) (hset : v.testBit 31 = true)
    (hsize : ¬(sizeOk (bitsOf v 19 16) && sizeOk (bitsOf v 11 8)) = true) : (h.qcfg q v).queue q = ((h.queue q).resized v).stop 1 := by
  unfold Hub.qcfg
  dsimp only
  rw [if_neg (by simp [hoff]), if_pos hset, if_neg hsize]
  exact Tab.get_set_self _ _ _ _

theorem Hub.qcfg_ends {h : Hub} (hon : (h.queue q).enable = true) (hclear : v.testBit 31 = false) :
    (h.qcfg q v).queue q = if (h.queue q).inflight = 0 then { (h.queue q).vectored v with enable := false, closing := false }
      else { (h.queue q).vectored v with closing := true } := by
  unfold Hub.qcfg
  dsimp only
  rw [if_pos hon, if_neg (by simp [hclear])]
  exact Tab.get_set_self _ _ _ _

/-- The ring sizes that R332 allows. -/
theorem sizeOk_and_iff (a b : Nat) : (sizeOk a && sizeOk b) = true ↔ 4 ≤ a ∧ a ≤ 12 ∧ 4 ≤ b ∧ b ≤ 12 := by
  simp [sizeOk, and_assoc]

theorem completes_eqcfg (hready : s.hostReady k) (hoff : (s.hub k).eqEnable = false) (hset : v.testBit 31 = true)
    (hlow : 4 ≤ bitsOf v 11 8) (hhigh : bitsOf v 11 8 ≤ 12) : Completes (.eqcfgWrite k v) s fun t => OnlyHub k s t ∧ t.hub k =
      { s.hub k with eqEnable := true, eqLog := bitsOf v 11 8, eqTail := 0, eqHead := 0, eqPhase := false, eqUsed := 0 } := by
  refine completes_updHub (congrArg Host.Outcome.next (State.hostAccess_of_hostReady hready _)) ?_
  unfold Hub.eqcfg
  dsimp only
  rw [if_neg (by simp [hoff]), if_pos (by simp [sizeOk, hset, hlow, hhigh])]

end Sys2Proof.Machine
end

section
/-! The obligation about the registers of the queue pairs. -/

namespace Sys2Proof.Machine

/-- Settles O17, by the register. That setting ENABLE puts the indices of a ring at 0 is the model's choice (log entry 23). -/
theorem hostQueuesAreDriven : Obligations.HostQueuesAreDriven := by
  unfold Obligations.HostQueuesAreDriven
  refine ⟨fun s k q v hready hq => ⟨completes_sqtail hready hq, completes_cqhead hready hq, completes_eqhead hready⟩,
    fun s k q v hready hq => ?_⟩
  intro x sized
  have hsized : (sizeOk (bitsOf v 19 16) && sizeOk (bitsOf v 11 8)) = true ↔ sized := sizeOk_and_iff _ _
  refine ⟨fun hoff hset hsize => ⟨_, exec_qcfgWrite hready hq, ?_⟩, fun hoff hset hsize => ⟨_, exec_qcfgWrite hready hq, ?_⟩,
    fun hon hclear => ⟨_, exec_qcfgWrite hready hq, ?_⟩, completes_eqcfg hready⟩
  · dsimp only
    rw [State.updHub_hub_self, Hub.qcfg_begins hoff hset (hsized.mpr hsize)]
    exact ⟨s.qcfg_onlyPair k q v, rfl, rfl, rfl, rfl, rfl, rfl, rfl, rfl, rfl, rfl⟩
  · dsimp only
    rw [State.updHub_hub_self, Hub.qcfg_stops hoff hset (mt hsized.mp hsize)]
    exact ⟨s.qcfg_onlyPair k q v, hoff, rfl, rfl⟩
  · dsimp only
    rw [State.updHub_hub_self, Hub.qcfg_ends hon hclear]
    refine ⟨s.qcfg_onlyPair k q v, ?_⟩
    split
    next h => exact ⟨by simp [x, h], by simp [x, h], rfl, rfl⟩
    next h => exact ⟨hon.trans (by simp [x, h]), by simp [x, h], rfl, rfl⟩

end Sys2Proof.Machine
end

section
/-! SUPPORT. The rings of a host link as they are served (R333 to R338): records that arrive, what a hub writes, links that go down. -/

namespace Sys2Proof.Machine

variable {s t u : State} {k q mc : Nat}

/-! ## Records that arrive -/

/-- The cycle of an arrival, after one that came before it. -/
def afterOne (k q n : Nat) (a : Nat × Cmd) : Nat := match a.2.src with | .host l p _ _ => if l = k ∧ p = q then max n a.1 else n | _ => n

theorem HostSide.cycleAfter_eq (h : HostSide) (k q mc : Nat) : h.cycleAfter k q mc = h.intake.foldl (afterOne k q) mc := rfl

theorem le_afterOne (k q n : Nat) (a : Nat × Cmd) : n ≤ afterOne k q n a := by
  unfold afterOne
  split
  · split
    · exact le_max_left _ _
    · exact le_rfl
  · exact le_rfl

/-- Only an arrival of the same pair counts, with its cycle. -/
theorem afterOne_le {n m : Nat} {a : Nat × Cmd} (hn : n ≤ m) (ha : ∀ y z, a.2.src = .host k q y z → a.1 ≤ m) : afterOne k q n a ≤ m := by
  unfold afterOne
  split
  next l p y z hsrc =>
    split
    next hlp => exact max_le hn (ha y z (by rw [hsrc, hlp.1, hlp.2]))
    next => exact hn
  next => exact hn

theorem le_afterOne_of_src {n y z : Nat} {a : Nat × Cmd} (ha : a.2.src = .host k q y z) : a.1 ≤ afterOne k q n a := by
  unfold afterOne
  rw [ha]
  dsimp only
  rw [if_pos ⟨rfl, rfl⟩]
  exact le_max_right _ _

theorem le_foldl_afterOne (l : List (Nat × Cmd)) (n : Nat) : n ≤ l.foldl (afterOne k q) n := by
  induction l generalizing n with
  | nil => exact le_rfl
  | cons a l ih => exact (le_afterOne k q n a).trans (ih _)

theorem foldl_afterOne_le {m : Nat} {l : List (Nat × Cmd)} (hl : ∀ a ∈ l, ∀ y z, a.2.src = .host k q y z → a.1 ≤ m) {n : Nat} (hn : n ≤ m) :
    l.foldl (afterOne k q) n ≤ m := by
  induction l generalizing n with
  | nil => exact hn
  | cons a l ih => exact ih (fun b hb => hl b (List.mem_cons_of_mem a hb)) (afterOne_le hn (hl a List.mem_cons_self))

theorem le_foldl_afterOne_of_mem {l : List (Nat × Cmd)} {a : Nat × Cmd} (hmem : a ∈ l) {y z : Nat} (ha : a.2.src = .host k q y z) (n : Nat) :
    a.1 ≤ l.foldl (afterOne k q) n := by
  induction l generalizing n with
  | nil => cases hmem
  | cons b l ih =>
    rcases List.mem_cons.mp hmem with rfl | hl
    · exact (le_afterOne_of_src ha).trans (le_foldl_afterOne l _)
    · exact ih hl _

/-- An arrival stands at no earlier a cycle than the arrivals of its pair that came before it, and at its own where none of them is later. -/
theorem HostSide.cycleAfter_spec (h : HostSide) (k q mc : Nat) : mc ≤ h.cycleAfter k q mc ∧
    ((∀ a ∈ h.intake, ∀ y z, a.2.src = .host k q y z → a.1 ≤ mc) → h.cycleAfter k q mc = mc) ∧
    ∀ a ∈ h.intake, ∀ y z, a.2.src = .host k q y z → a.1 ≤ h.cycleAfter k q mc := by
  rw [HostSide.cycleAfter_eq]
  exact ⟨le_foldl_afterOne _ _, fun hall => le_antisymm (foldl_afterOne_le hall le_rfl) (le_foldl_afterOne _ _),
    fun a hmem y z ha => le_foldl_afterOne_of_mem hmem ha mc⟩

section
variable (hk : k < s.fit.sleds) (hq : q < 64) (hup : (s.hub k).linkUp = true) (hfetch : 0 < ((s.hub k).queue q).toFetch)

include hk hq hup hfetch

theorem exec_commandRecordArrival_some (c : Cmd) : exec (.commandRecordArrival k q (some c) mc) s =
    .next ((s.updQueue k q fun y => y.arrive c.op).updHost fun h =>
      { h with
        intake := h.intake ++ [(h.cycleAfter k q mc,
          { c with src := .host k q ((s.hub k).queue q).session (((s.hub k).queue q).number + 1 - ((s.hub k).queue q).toFetch) })] }) := by
  show execCommandRecordArrival k q (some c) mc s = _
  unfold execCommandRecordArrival
  dsimp only
  rw [if_neg (by simp [hup]; omega)]

theorem exec_commandRecordArrival_none : exec (.commandRecordArrival k q none mc) s =
    .next (s.updQueue k q fun y => { y with toFetch := y.toFetch - 1, inflight := y.inflight - 1 }.stop 2) := by
  show execCommandRecordArrival k q none mc s = _
  unfold execCommandRecordArrival
  dsimp only
  rw [if_neg (by simp [hup]; omega)]

theorem completes_recordArrives (c : Cmd) : Completes (.commandRecordArrival k q (some c) mc) s fun t =>
    (∃ n, mc ≤ n ∧ ((∀ a ∈ s.host.intake, ∀ y z, a.2.src = .host k q y z → a.1 ≤ mc) → n = mc) ∧
      (∀ a ∈ s.host.intake, ∀ y z, a.2.src = .host k q y z → a.1 ≤ n) ∧
      t.host = { s.host with
          intake := s.host.intake ++ [(n,
          { c with src := .host k q ((s.hub k).queue q).session (((s.hub k).queue q).number + 1 - ((s.hub k).queue q).toFetch) })] }) ∧
    ((t.hub k).queue q).toFetch + 1 = ((s.hub k).queue q).toFetch ∧ OnlyPair k q s { t with host := s.host } := by
  obtain ⟨hle, heq, hall⟩ := s.host.cycleAfter_spec k q mc
  refine ⟨_, exec_commandRecordArrival_some hk hq hup hfetch c, ⟨_, hle, heq, hall, rfl⟩, ?_,
    s.updQueue_onlyPair k q fun y => y.arrive c.op⟩
  rw [State.updHost_hub, State.updQueue_queue_self]
  exact Nat.sub_add_cancel hfetch

theorem completes_recordFaults : Completes (.commandRecordArrival k q none mc) s fun t =>
    (t.hub k).queue q = { (s.hub k).queue q with
      toFetch := ((s.hub k).queue q).toFetch - 1, inflight := ((s.hub k).queue q).inflight - 1, error := true, errCode := 2 } ∧
    OnlyHub k s t ∧ ∀ p, p ≠ q → (t.hub k).queue p = (s.hub k).queue p :=
  ⟨_, exec_commandRecordArrival_none hk hq hup hfetch, State.updQueue_queue_self _ _ _ _, s.updQueue_onlyHub k q _,
    fun _ hp => State.updQueue_queue_ne _ _ _ hp⟩

end

/-! ## What a hub writes to the host -/

/-- Hub `k` has written `ws` to the host; nothing but the hub has changed. -/
def OnlyWrites (k : Nat) (ws : List Out) (s t : State) : Prop :=
  t = { s with hubs := t.hubs, host := { s.host with out := s.host.out ++ ws } } ∧ ∀ j, j ≠ k → t.hub j = s.hub j

theorem OnlyWrites.trans {ws vs : List Out} (h : OnlyWrites k ws s t) (h' : OnlyWrites k vs t u) : OnlyWrites k (ws ++ vs) s u := by
  obtain ⟨hrest, hhubs⟩ := h
  obtain ⟨hrest', hhubs'⟩ := h'
  refine ⟨?_, fun j hj => (hhubs' j hj).trans (hhubs j hj)⟩
  rw [hrest', hrest, List.append_assoc]

theorem OnlyWrites.out {ws : List Out} (h : OnlyWrites k ws s t) : t.host.out = s.host.out ++ ws := by rw [h.1]

theorem OnlyWrites.rest {ws : List Out} (h : OnlyWrites k ws s t) : t = { s with hubs := t.hubs, host := { s.host with out := t.host.out } } := by
  rw [h.out]
  exact h.1

theorem State.updHub_onlyWrites (s : State) (k : Nat) (f : Hub → Hub) : OnlyWrites k [] s (s.updHub k f) :=
  ⟨by rw [List.append_nil]; rfl, fun _ hj => State.updHub_hub_ne s f hj⟩

theorem State.emit_onlyWrites (s : State) (k : Nat) (w : Out) : OnlyWrites k [w] s (s.emit w) := ⟨rfl, fun _ _ => rfl⟩

/-- A message, or none where its vector has had one in the frame. -/
theorem State.message_onlyWrites (s : State) (k v : Nat) : ∃ ws, OnlyWrites k ws s (s.message k v) := by
  unfold State.message
  split
  · exact ⟨[], by rw [OnlyWrites, List.append_nil]; exact ⟨rfl, fun _ _ => rfl⟩⟩
  · exact ⟨_, (s.updHub_onlyWrites k _).trans (State.emit_onlyWrites _ k _)⟩

/-- A record written, the hub's indices moved on, and its message. -/
theorem State.record_onlyWrites (s : State) (k v : Nat) (w : Out) (f : Hub → Hub) :
    ∃ more, OnlyWrites k (w :: more) s (((s.emit w).updHub k f).message k v) := by
  obtain ⟨more, hmsg⟩ := ((s.emit w).updHub k f).message_onlyWrites k v
  exact ⟨more, ((s.emit_onlyWrites k w).trans ((s.emit w).updHub_onlyWrites k f)).trans hmsg⟩

/-- Of its hub a message changes which vectors have had one. -/
theorem State.message_hub (s : State) (k v : Nat) : ∃ sent, (s.message k v).hub k = { s.hub k with msiSent := sent } := by
  unfold State.message
  split
  · exact ⟨_, rfl⟩
  · exact ⟨_, State.updHub_hub_self s k fun h => { h with msiSent := v :: h.msiSent }⟩

/-! ## Completions -/

section
variable {c : Completion} {rest : List Completion} {l e n : Nat}

theorem exec_completionWrite (hcpls : (s.hub k).cpls = c :: rest) (hdue : (s.hub k).cplDue ≠ 0) : exec (.completionWrite k) s =
    .next ((s.updHub k fun h => { h with cpls := rest, cplDue := (s.hub k).cplDue - 1 }).writeCompletion k c) := by
  obtain ⟨m, hm⟩ := Nat.exists_eq_succ_of_ne_zero hdue
  show execCompletionWrite k s = _
  unfold execCompletionWrite
  rw [hcpls, hm]
  rfl

/-- A completion whose pair is still the one that fetched the command, over a link that is up. -/
theorem State.writeCompletion_written (hsrc : c.cmd.src = .host l q e n) (hup : (s.hub k).linkUp = true)
    (henable : ((s.hub k).queue q).enable = true) (hsession : ((s.hub k).queue q).session = e) : s.writeCompletion k c =
      (((s.emit (.hostWrite k (((s.hub k).queue q).cqBase + 32 * ((s.hub k).queue q).cqTail)
        (completionBytes c (n % 2 ^ ((s.hub k).queue q).sqLog) q !((s.hub k).queue q).phase))).updQueue k q fun y =>
          y.written c.interim n).message k ((s.hub k).queue q).vector).fetch k := by
  unfold State.writeCompletion
  rw [hsrc]
  dsimp only
  rw [if_pos (by simp [hup, henable, hsession])]
  rfl

theorem State.writeCompletion_lost (hsrc : c.cmd.src = .host l q e n)
    (hlost : (s.hub k).linkUp = false ∨ ((s.hub k).queue q).enable = false ∨ ((s.hub k).queue q).session ≠ e) :
    s.writeCompletion k c = s.updHub k fun h => { h with lostCpl := min 255 (h.lostCpl + 1) } := by
  unfold State.writeCompletion
  rw [hsrc]
  dsimp only
  rw [if_neg (by rcases hlost with h | h | h <;> simp [h])]
  rfl

/-- Of its hub a write of a completion leaves the completions that wait. -/
theorem State.fetch_message_cpls (s : State) (k v : Nat) : (((s.message k v).fetch k).hub k).cpls = (s.hub k).cpls := by
  obtain ⟨_, hsent⟩ := s.message_hub k v
  obtain ⟨_, _, _, hfetch⟩ := ((s.message k v).hub k).fetch_only 32
  rw [State.fetch_hub, hfetch, hsent]

theorem completes_completionWritten (hcpls : (s.hub k).cpls = c :: rest) (hdue : (s.hub k).cplDue ≠ 0) (hsrc : c.cmd.src = .host l q e n)
    (hup : (s.hub k).linkUp = true) (henable : ((s.hub k).queue q).enable = true) (hsession : ((s.hub k).queue q).session = e) :
    Completes (.completionWrite k) s fun t =>
      (∃ more, t.host.out = s.host.out ++ Out.hostWrite k (((s.hub k).queue q).cqBase + 32 * ((s.hub k).queue q).cqTail)
        (completionBytes c (n % 2 ^ ((s.hub k).queue q).sqLog) q !((s.hub k).queue q).phase) :: more) ∧
      (t.hub k).cpls = rest ∧ t = { s with hubs := t.hubs, host := { s.host with out := t.host.out } } ∧
      ∀ j, j ≠ k → t.hub j = s.hub j := by
  have htaken : (s.updHub k fun h => { h with cpls := rest, cplDue := (s.hub k).cplDue - 1 }).hub k =
      { s.hub k with cpls := rest, cplDue := (s.hub k).cplDue - 1 } := State.updHub_hub_self _ _ _
  have hqueue : ({ s.hub k with cpls := rest, cplDue := (s.hub k).cplDue - 1 } : Hub).queue q = (s.hub k).queue q := rfl
  have hwrite := State.writeCompletion_written (s := s.updHub k fun h => { h with cpls := rest, cplDue := (s.hub k).cplDue - 1 })
    (k := k) hsrc (by rw [htaken]; exact hup) (by rw [htaken]; exact henable) (by rw [htaken]; exact hsession)
  rw [htaken, hqueue] at hwrite
  have htake := s.updHub_onlyWrites k fun h => { h with cpls := rest, cplDue := (s.hub k).cplDue - 1 }
  have hexec := exec_completionWrite hcpls hdue
  generalize s.updHub k (fun h => { h with cpls := rest, cplDue := (s.hub k).cplDue - 1 }) = u at *
  obtain ⟨more, hmsg⟩ := u.record_onlyWrites k ((s.hub k).queue q).vector
    (.hostWrite k (((s.hub k).queue q).cqBase + 32 * ((s.hub k).queue q).cqTail)
      (completionBytes c (n % 2 ^ ((s.hub k).queue q).sqLog) q !((s.hub k).queue q).phase))
    fun h => { h with queues := h.queues.set q ((h.queue q).written c.interim n) }
  have hall := (htake.trans hmsg).trans (State.updHub_onlyWrites _ k fun h => h.fetch 32)
  rw [List.nil_append, List.append_nil] at hall
  rw [hwrite] at hexec
  refine ⟨_, hexec, ⟨more, hall.out⟩, ?_, hall.rest, hall.2⟩
  rw [State.fetch_message_cpls, State.updQueue, State.updHub_hub_self, State.emit, State.updHost_hub, htaken]

theorem completes_completionLost (hcpls : (s.hub k).cpls = c :: rest) (hdue : (s.hub k).cplDue ≠ 0) (hsrc : c.cmd.src = .host l q e n)
    (hlost : (s.hub k).linkUp = false ∨ ((s.hub k).queue q).enable = false ∨ ((s.hub k).queue q).session ≠ e) :
    Completes (.completionWrite k) s fun t => OnlyHub k s t ∧ t.hub k =
      { s.hub k with cpls := rest, cplDue := (s.hub k).cplDue - 1, lostCpl := min 255 ((s.hub k).lostCpl + 1) } := by
  refine ⟨_, (exec_completionWrite hcpls hdue).trans (congrArg Host.Outcome.next (State.writeCompletion_lost hsrc ?_)),
    (s.updHub_onlyHub k _).trans (State.updHub_onlyHub _ k _), ?_⟩
  · rw [State.updHub_hub_self]
    exact hlost
  · rw [State.updHub_hub_self, State.updHub_hub_self]

end

/-! ## Events -/

section
variable {e : EventRec} {rest : List EventRec}

theorem exec_eventRecordWrite (hevq : (s.hub k).evq = e :: rest) (hdue : (s.hub k).evDue ≠ 0) : exec (.eventRecordWrite k) s =
    .next ((s.updHub k fun h => { h with evq := rest, evDue := (s.hub k).evDue - 1 }).writeEvent k e) := by
  obtain ⟨m, hm⟩ := Nat.exists_eq_succ_of_ne_zero hdue
  show execEventRecordWrite k s = _
  unfold execEventRecordWrite
  rw [hevq, hm]
  rfl

/-- The link's SEQ taken by an event. -/
def Hub.numbered (h : Hub) : Hub := { h with seq := (h.seq + 1) % 2 ^ 24 }

theorem State.writeEvent_dropped (hup : (s.hub k).linkUp = true) (hoff : (s.hub k).eqEnable = false) :
    s.writeEvent k e = s.updHub k Hub.numbered := by
  unfold State.writeEvent
  dsimp only
  rw [if_neg (by simp [hup]), if_pos (by simp [hoff])]
  rfl

theorem State.writeEvent_lost (hup : (s.hub k).linkUp = true) (hon : (s.hub k).eqEnable = true)
    (hfull : 2 ^ (s.hub k).eqLog ≤ (s.hub k).eqUsed) :
    s.writeEvent k e = (s.updHub k Hub.numbered).updHub k fun h => { h with eqLost := min 65535 (h.eqLost + 1) } := by
  unfold State.writeEvent
  dsimp only
  rw [if_neg (by simp [hup]), if_neg (by simp [hon]), if_pos hfull]
  rfl

/-- A hub after its tail entry was written. -/
def Hub.eventPut (h : Hub) : Hub :=
  { h with
    eqTail := (h.eqTail + 1) % 2 ^ h.eqLog, eqUsed := h.eqUsed + 1
    eqPhase := if h.eqTail + 1 = 2 ^ h.eqLog then !h.eqPhase else h.eqPhase }

theorem State.writeEvent_written (hup : (s.hub k).linkUp = true) (hon : (s.hub k).eqEnable = true)
    (hroom : (s.hub k).eqUsed < 2 ^ (s.hub k).eqLog) : s.writeEvent k e =
      (((s.updHub k Hub.numbered).emit (.hostWrite k ((s.hub k).eqBase + 32 * (s.hub k).eqTail)
        (eventBytes e (s.hub k).seq !(s.hub k).eqPhase))).updHub k Hub.eventPut).message k 64 := by
  unfold State.writeEvent
  dsimp only
  rw [if_neg (by simp [hup]), if_neg (by simp [hon]), if_neg (Nat.not_le.mpr hroom)]
  rfl

theorem completes_eventDropped (hevq : (s.hub k).evq = e :: rest) (hdue : (s.hub k).evDue ≠ 0) (hup : (s.hub k).linkUp = true)
    (hoff : (s.hub k).eqEnable = false) : Completes (.eventRecordWrite k) s fun t => OnlyHub k s t ∧ t.hub k =
      { s.hub k with evq := rest, evDue := (s.hub k).evDue - 1, seq := ((s.hub k).seq + 1) % 2 ^ 24 } := by
  refine ⟨_, (exec_eventRecordWrite hevq hdue).trans (congrArg Host.Outcome.next (State.writeEvent_dropped ?_ ?_)),
    (s.updHub_onlyHub k _).trans (State.updHub_onlyHub _ k _), ?_⟩
  · rw [State.updHub_hub_self]
    exact hup
  · rw [State.updHub_hub_self]
    exact hoff
  · rw [State.updHub_hub_self, State.updHub_hub_self]
    rfl

theorem completes_eventLost (hevq : (s.hub k).evq = e :: rest) (hdue : (s.hub k).evDue ≠ 0) (hup : (s.hub k).linkUp = true)
    (hon : (s.hub k).eqEnable = true) (hfull : 2 ^ (s.hub k).eqLog ≤ (s.hub k).eqUsed) :
    Completes (.eventRecordWrite k) s fun t => OnlyHub k s t ∧ t.hub k =
      { s.hub k with
        evq := rest, evDue := (s.hub k).evDue - 1, seq := ((s.hub k).seq + 1) % 2 ^ 24, eqLost := min 65535 ((s.hub k).eqLost + 1) } := by
  refine ⟨_, (exec_eventRecordWrite hevq hdue).trans (congrArg Host.Outcome.next (State.writeEvent_lost ?_ ?_ ?_)),
    ((s.updHub_onlyHub k _).trans (State.updHub_onlyHub _ k _)).trans (State.updHub_onlyHub _ k _), ?_⟩
  · rw [State.updHub_hub_self]
    exact hup
  · rw [State.updHub_hub_self]
    exact hon
  · rw [State.updHub_hub_self]
    exact hfull
  · rw [State.updHub_hub_self, State.updHub_hub_self, State.updHub_hub_self]
    rfl

theorem completes_eventWritten (hevq : (s.hub k).evq = e :: rest) (hdue : (s.hub k).evDue ≠ 0) (hup : (s.hub k).linkUp = true)
    (hon : (s.hub k).eqEnable = true) (hroom : (s.hub k).eqUsed < 2 ^ (s.hub k).eqLog) : Completes (.eventRecordWrite k) s fun t =>
      (∃ more, t.host.out = s.host.out ++
        Out.hostWrite k ((s.hub k).eqBase + 32 * (s.hub k).eqTail) (eventBytes e (s.hub k).seq !(s.hub k).eqPhase) :: more) ∧
      (t.hub k).evq = rest ∧ (t.hub k).seq = ((s.hub k).seq + 1) % 2 ^ 24 ∧ (t.hub k).eqTail = ((s.hub k).eqTail + 1) % 2 ^ (s.hub k).eqLog ∧
      (t.hub k).eqLost = (s.hub k).eqLost ∧ t = { s with hubs := t.hubs, host := { s.host with out := t.host.out } } := by
  have htaken : (s.updHub k fun h => { h with evq := rest, evDue := (s.hub k).evDue - 1 }).hub k =
      { s.hub k with evq := rest, evDue := (s.hub k).evDue - 1 } := State.updHub_hub_self _ _ _
  have hwrite := State.writeEvent_written (s := s.updHub k fun h => { h with evq := rest, evDue := (s.hub k).evDue - 1 })
    (k := k) (e := e) (by rw [htaken]; exact hup) (by rw [htaken]; exact hon) (by rw [htaken]; exact hroom)
  rw [htaken] at hwrite
  have htake := s.updHub_onlyWrites k fun h => { h with evq := rest, evDue := (s.hub k).evDue - 1 }
  have hexec := exec_eventRecordWrite hevq hdue
  rw [hwrite] at hexec
  have hnumber := htake.trans (State.updHub_onlyWrites _ k Hub.numbered)
  have hnumbered : ((s.updHub k fun h => { h with evq := rest, evDue := (s.hub k).evDue - 1 }).updHub k Hub.numbered).hub k =
      { s.hub k with evq := rest, evDue := (s.hub k).evDue - 1, seq := ((s.hub k).seq + 1) % 2 ^ 24 } := by
    rw [State.updHub_hub_self, htaken]
    rfl
  generalize (s.updHub k fun h => { h with evq := rest, evDue := (s.hub k).evDue - 1 }).updHub k Hub.numbered = u at *
  obtain ⟨more, hmsg⟩ := u.record_onlyWrites k 64
    (.hostWrite k ((s.hub k).eqBase + 32 * (s.hub k).eqTail) (eventBytes e (s.hub k).seq !(s.hub k).eqPhase)) Hub.eventPut
  have hall := hnumber.trans hmsg
  obtain ⟨sent, hsent⟩ := (((u.emit (.hostWrite k ((s.hub k).eqBase + 32 * (s.hub k).eqTail)
    (eventBytes e (s.hub k).seq !(s.hub k).eqPhase))).updHub k Hub.eventPut).message_hub k 64)
  rw [State.updHub_hub_self, State.emit, State.updHost_hub, hnumbered] at hsent
  refine ⟨_, hexec, ⟨more, hall.out⟩, ?_, ?_, ?_, ?_, hall.rest⟩
  all_goals
    rw [State.emit, hsent]
    rfl

end

/-! ## Links that come and go -/

theorem completes_linkUp {g w : Nat} (hk : k < s.fit.sleds) (hoff : s.mgr.mode ≠ .off) (hdown : (s.hub k).linkUp = false) :
    Completes (.linkUp k g w) s fun t =>
      OnlyHub k s { t with host := s.host } ∧ t.hub k = { s.hub k with linkUp := true, gts := g % 256, width := w % 256 } ∧
      t.host = { s.host with latches := t.host.latches } ∧ ∀ l ∈ t.host.latches, l.path ≠ .host k := by
  refine ⟨_, if_neg (by simp [hoff, hdown]; omega),
    s.updHub_onlyHub k fun h => { h with linkUp := true, gts := g % 256, width := w % 256 },
    s.updHub_hub_self k fun h => { h with linkUp := true, gts := g % 256, width := w % 256 }, rfl, fun l hl => ?_⟩
  simpa using (List.mem_filter.mp hl).2

theorem completes_linkDown (hk : k < s.fit.sleds) (hup : (s.hub k).linkUp = true) : Completes (.linkDown k) s fun t =>
    OnlyHub k s t ∧ (t.hub k).linkUp = false ∧ (∀ q, (t.hub k).queue q = Queue.init q) ∧ (t.hub k).eqEnable = false ∧
    (t.hub k).eqTail = 0 ∧ (t.hub k).eqHead = 0 ∧ (t.hub k).eqLost = 0 ∧ (t.hub k).seq = (s.hub k).seq := by
  refine ⟨_, if_neg (by simp [hup]; omega), s.updHub_onlyHub k _, ?_⟩
  rw [State.updHub_hub_self]
  exact ⟨rfl, fun _ => rfl, rfl, rfl, rfl, rfl, rfl⟩

end Sys2Proof.Machine
end

section
/-! The obligation about the rings of a host link. -/

namespace Sys2Proof.Machine

/-- Settles O18, by the command. That a completion is lost where its pair has been enabled anew, or not at all, is the model's choice (log
entry 24). -/
theorem hostRingsAreServed : Obligations.HostRingsAreServed := by
  unfold Obligations.HostRingsAreServed
  exact ⟨fun s k q mc c hk hq hup hfetch => ⟨completes_recordArrives hk hq hup hfetch c, completes_recordFaults hk hq hup hfetch⟩,
    fun s k l q e n c rest hcpls hdue hsrc => ⟨completes_completionWritten hcpls hdue hsrc, completes_completionLost hcpls hdue hsrc⟩,
    fun s k e rest hevq hdue hup => ⟨completes_eventDropped hevq hdue hup, completes_eventWritten hevq hdue hup,
      completes_eventLost hevq hdue hup⟩,
    fun s k g w hk => ⟨completes_linkUp hk, completes_linkDown hk⟩⟩

end Sys2Proof.Machine
end

section
/-! SUPPORT. The cells, the sensor inputs and the calibration of an engine (chapters 11 and 12): what they are functions of, and what a change of
one of them leaves of the others. -/

namespace Sys2Proof.Machine

variable {s t u : State} {e : Engine} {g h : Nat}

/-! ## What cells, sensors and calibration are functions of -/

/-- The parts that hold cells, sensor inputs and calibration, with what sets the mode of a cell that nothing has changed. -/
def State.loopView (s : State) := (s.tiles, s.modules, s.workers, s.mgr.mode, s.mgr.stagesDone)

theorem State.loopView_eq (h : t.loopView = s.loopView) :
    t.tiles = s.tiles ∧ t.modules = s.modules ∧ t.workers = s.workers ∧ t.mgr.mode = s.mgr.mode ∧ t.mgr.stagesDone = s.mgr.stagesDone := by
  simpa [State.loopView] using h

theorem State.tile_of_loopView (h : t.loopView = s.loopView) : t.tile = s.tile := by
  unfold State.tile
  rw [(State.loopView_eq h).1]

theorem State.module_of_loopView (h : t.loopView = s.loopView) : t.module = s.module := by
  unfold State.module
  rw [(State.loopView_eq h).2.1]

theorem State.worker_of_loopView (h : t.loopView = s.loopView) : t.worker = s.worker := by
  unfold State.worker
  rw [(State.loopView_eq h).2.2.1]

theorem State.cal_of_loopView (h : t.loopView = s.loopView) : t.cal = s.cal := by
  unfold State.cal
  rw [State.tile_of_loopView h, State.module_of_loopView h, State.worker_of_loopView h]

theorem State.sensors_of_loopView (h : t.loopView = s.loopView) : t.sensors = s.sensors := by
  unfold State.sensors
  rw [State.tile_of_loopView h, State.module_of_loopView h]

theorem State.engineTab_of_loopView (h : t.loopView = s.loopView) : t.engineTab = s.engineTab := by
  unfold State.engineTab
  rw [State.tile_of_loopView h, State.module_of_loopView h, State.worker_of_loopView h]

theorem State.restMode_of_loopView (h : t.loopView = s.loopView) : t.restMode = s.restMode := by
  obtain ⟨-, -, -, hmode, hstages⟩ := State.loopView_eq h
  unfold State.restMode
  rw [State.tile_of_loopView h, State.module_of_loopView h, State.worker_of_loopView h, hmode, hstages]

theorem State.cell_of_loopView (h : t.loopView = s.loopView) : t.cell = s.cell := by
  unfold State.cell
  rw [State.engineTab_of_loopView h, State.restMode_of_loopView h, State.cal_of_loopView h]

theorem State.raise_loopView (s : State) (code : Nat) (fields : List (Nat × Nat × Nat)) : (s.raise code fields).loopView = s.loopView := by
  rw [State.raise_only]
  rfl

theorem State.final_loopView (s : State) (c : Cmd) (status : Nat) (res : List (Nat × Nat)) : (s.final c status res).loopView = s.loopView := by
  rw [State.final_only]
  rfl

theorem State.finalQ_loopView (s : State) (c : Option Cmd) (status : Nat) (res : List (Nat × Nat)) :
    (s.final? c status res).loopView = s.loopView := by
  obtain ⟨_, _, _, hfinal⟩ := s.finalQ_only c status res
  rw [hfinal]
  rfl

theorem State.interim_loopView (s : State) (c : Cmd) (res : List (Nat × Nat)) : (s.interim c res).loopView = s.loopView := by
  obtain ⟨_, _, _, hinterim⟩ := s.interim_only c res
  rw [hinterim]
  rfl

theorem State.draw_loopView (s : State) : s.draw.2.loopView = s.loopView := rfl

theorem State.judgeLock_loopView (s : State) (x : Nat) : (s.judgeLock x).loopView = s.loopView := by
  refine foldl_keeps State.loopView _ (fun st c => ?_) _ s
  dsimp only
  split
  · rfl
  · split <;> rfl

/-! ## Changes of cells -/

theorem State.setTab_only (s : State) (e : Engine) (c : Tab Cell) :
    s.setTab e c = { s with tiles := (s.setTab e c).tiles, modules := (s.setTab e c).modules, workers := (s.setTab e c).workers } := by
  cases e <;> rfl

theorem State.updCell_only (s : State) (e : Engine) (h : Nat) (f : Cell → Cell) :
    s.updCell e h f =
      { s with tiles := (s.updCell e h f).tiles, modules := (s.updCell e h f).modules, workers := (s.updCell e h f).workers } :=
  s.setTab_only e _

theorem State.updCells_cell_of_notMem {hs : List Nat} {f : Nat → Cell → Cell} (hg : g ∉ hs) : (s.updCells e hs f).cell e g = s.cell e g := by
  induction hs generalizing s with
  | nil => rfl
  | cons h hs ih =>
    obtain ⟨hne, hg⟩ := List.ne_and_not_mem_of_not_mem_cons hg
    exact (ih hg).trans (s.updCell_cell_ne e _ hne)

/-- A cell that one of several changes names once. -/
theorem State.updCells_cell {hs : List Nat} {f : Nat → Cell → Cell} (hnodup : hs.Nodup) (hg : g ∈ hs) :
    (s.updCells e hs f).cell e g = f g (s.cell e g) := by
  induction hs generalizing s with
  | nil => cases hg
  | cons h hs ih =>
    obtain ⟨hh, hs'⟩ := List.nodup_cons.mp hnodup
    show ((s.updCell e h (f h)).updCells e hs f).cell e g = _
    rcases List.mem_cons.mp hg with rfl | hmem
    · rw [State.updCells_cell_of_notMem hh, State.updCell_cell_self]
    · rw [ih hs' hmem, State.updCell_cell_ne _ _ _ fun heq : g = h => hh (heq ▸ hmem)]

/-- What every change of a cell brings about stands after several changes that name it. -/
theorem State.updCells_cell_of_all {hs : List Nat} {f : Nat → Cell → Cell} {Q : Cell → Prop} (hQ : ∀ x, Q (f g x)) (hg : g ∈ hs) :
    Q ((s.updCells e hs f).cell e g) := by
  induction hs generalizing s with
  | nil => cases hg
  | cons h hs ih =>
    show Q (((s.updCell e h (f h)).updCells e hs f).cell e g)
    by_cases hmem : g ∈ hs
    · exact ih hmem
    · obtain rfl := (List.mem_cons.mp hg).resolve_right hmem
      rw [State.updCells_cell_of_notMem hmem, State.updCell_cell_self]
      exact hQ _

/-- What a change of a cell leaves, several changes leave. -/
theorem State.updCells_keeps {β : Type} (part : State → β) (e : Engine) (hpart : ∀ st h f, part (State.updCell st e h f) = part st) (s : State)
    (hs : List Nat) (f : Nat → Cell → Cell) : part (s.updCells e hs f) = part s :=
  foldl_keeps part (fun st h => st.updCell e h (f h)) (fun st h => hpart st h (f h)) hs s

/-! ## Calibration -/

@[simp] theorem State.updCal_cal (s : State) (e : Engine) (f : Cal → Cal) : (s.updCal e f).cal e = f (s.cal e) := by
  cases e <;> simp [State.updCal, State.cal]

theorem State.updCal_only (s : State) (e : Engine) (f : Cal → Cal) :
    s.updCal e f = { s with tiles := (s.updCal e f).tiles, modules := (s.updCal e f).modules, workers := (s.updCal e f).workers } := by
  cases e <;> rfl

@[simp] theorem State.updCell_cal (s : State) (e : Engine) (h : Nat) (f : Cell → Cell) : (s.updCell e h f).cal e = s.cal e := s.setTab_cal e _

end Sys2Proof.Machine
end

section
/-! SUPPORT. Calibration commands and field verifies (R289 to R304). -/

namespace Sys2Proof.Machine

variable {s : State} {e : Engine} {c : Cmd} {bad : CalRec → Option Nat} {rs : List CalRec}

/-! ## Records rejected -/

/-- Records rejected for the reasons that a judgement gives. -/
def State.rejectBad (s : State) (e : Engine) (bad : CalRec → Option Nat) (rs : List CalRec) : State :=
  rs.foldl (fun st r => match bad r with | some n => st.rejectCal e r n | none => st) s

theorem State.rejectAll_eq (s : State) (e : Engine) (rs : List CalRec) :
    s.rejectAll e rs = s.rejectBad e (calReject (s.fit.reflectors e) e (s.cal e).sealed) rs := rfl

theorem State.rejectBad_of_pass (h : ∀ r ∈ rs, bad r = none) : s.rejectBad e bad rs = s := by
  induction rs with
  | nil => rfl
  | cons r rs ih =>
    obtain ⟨hr, hrs⟩ := List.forall_mem_cons.mp h
    rw [State.rejectBad, List.foldl_cons, hr]
    exact ih hrs

/-- A rejected record is counted. -/
theorem State.rejectCal_cal (s : State) (e : Engine) (r : CalRec) (n : Nat) :
    (s.rejectCal e r n).cal e = { s.cal e with rejects := min 255 ((s.cal e).rejects + 1) } := by
  rw [State.rejectCal, State.cal_of_loopView (State.raise_loopView _ _ _), State.updCal_cal]
  rfl

/-- Of the store rejections change the count. -/
theorem State.rejectBad_cal (s : State) (e : Engine) (bad : CalRec → Option Nat) (rs : List CalRec) :
    ∃ n, (s.rejectBad e bad rs).cal e = { s.cal e with rejects := n } := by
  induction rs generalizing s with
  | nil => exact ⟨(s.cal e).rejects, rfl⟩
  | cons r rs ih =>
    rw [State.rejectBad, List.foldl_cons]
    split
    next n _ =>
      obtain ⟨m, hm⟩ := ih (s.rejectCal e r n)
      exact ⟨m, hm.trans (by rw [State.rejectCal_cal])⟩
    next => exact ih s

/-- Where every record is rejected, the count rises by their number, and stops at 255. -/
theorem State.rejectBad_rejects (hne : rs ≠ []) (h : ∀ r ∈ rs, (bad r).isSome = true) :
    (s.rejectBad e bad rs).cal e = { s.cal e with rejects := min 255 ((s.cal e).rejects + rs.length) } := by
  induction rs generalizing s with
  | nil => exact absurd rfl hne
  | cons r rs ih =>
    obtain ⟨hr, hrs⟩ := List.forall_mem_cons.mp h
    obtain ⟨n, hn⟩ := Option.isSome_iff_exists.mp hr
    have hone : s.rejectBad e bad (r :: rs) = (s.rejectCal e r n).rejectBad e bad rs := by
      rw [State.rejectBad, List.foldl_cons, hn]
      rfl
    rw [hone]
    rcases rs with _ | ⟨q, rs⟩
    · exact s.rejectCal_cal e r n
    · rw [ih (List.cons_ne_nil q rs) hrs, State.rejectCal_cal]
      dsimp only
      rw [List.length_cons, List.length_cons, List.length_cons]
      congr 1
      omega

theorem length_calRecords (n : Nat) (b : List Byte) : (calRecords n b).length = n := by
  induction n generalizing b with
  | zero => rfl
  | succ n ih => exact congrArg Nat.succ (ih _)

theorem calRecords_ne_nil {n : Nat} (h : 0 < n) (b : List Byte) : calRecords n b ≠ [] := by
  rw [← List.length_pos_iff, length_calRecords]
  exact h

/-! ## CAL_FACTORY and CAL_WRITE -/

/-- The reason for which CAL_WRITE rejects a record; none for a LOOPDEF record that passes. -/
def State.writeReject (s : State) (e : Engine) (r : CalRec) : Option Nat :=
  (calReject 0 e (s.cal e).sealed r).orElse fun _ => if r.kind = 10 then none else some 2

section
variable (hmode : s.mgr.mode = .service) (he : s.cmdEngine c = some e)

include hmode he

/-- CAL_FACTORY accepted: what has been measured is judged, and stored and sealed where all of it passes. -/
theorem exec_calFactory {meas : List RecMeas} (hc : IsCmd c 0x70) (hsealed : (s.cal e).sealed = false) (huse : s.partInUse e = false) :
    exec (.calFactory c meas) s = .next (
      if s.factoryPasses e (s.measured e meas) then
        (((s.interim c).rejectAll e (s.measured e meas)).updCal e fun x =>
          { x with
            sealed := true, copyA := s.measured e meas ++ x.copyA.filter (·.kind == 10)
            copyB := s.measured e meas ++ x.copyB.filter (·.kind == 10), pending := true }).final c stOk
      else (((s.interim c).rejectAll e (s.measured e meas)).final c
        (1 + Config.openResult ((s.interim c).rejectAll e (s.measured e meas)).mgr.fresh % 255)).draw.2) := by
  refine congrArg Host.Outcome.next ?_
  unfold State.calFactory
  dsimp only
  rw [he]
  exact State.decideCmd_eff_of_ranges _ hc rfl rfl (by rw [hmode]; rfl) (by rw [hmode]; rfl) (by simp [hsealed, huse])

theorem completes_calFactory_passes {meas : List RecMeas} (hc : IsCmd c 0x70) (hsealed : (s.cal e).sealed = false)
    (huse : s.partInUse e = false) (hpass : s.factoryPasses e (s.measured e meas) = true) : Completes (.calFactory c meas) s fun t =>
      t = ((s.interim c).updCal e fun x => { x with
        sealed := true, copyA := s.measured e meas ++ x.copyA.filter (·.kind == 10)
        copyB := s.measured e meas ++ x.copyB.filter (·.kind == 10), pending := true }).final c 0 := by
  refine ⟨_, exec_calFactory hmode he hc hsealed huse, ?_⟩
  have hfit : (s.interim c).fit = s.fit := by
    obtain ⟨_, _, _, h⟩ := s.interim_only c []
    rw [h]
  have hjudged : (s.interim c).rejectAll e (s.measured e meas) = s.interim c := by
    rw [State.rejectAll_eq, hfit, State.cal_of_loopView (s.interim_loopView c []), hsealed]
    refine State.rejectBad_of_pass fun r hr => ?_
    simpa using List.all_eq_true.mp (Bool.and_eq_true_iff.mp hpass).2 r hr
  rw [if_pos hpass, hjudged]
  rfl

theorem completes_calFactory_fails {meas : List RecMeas} (hc : IsCmd c 0x70) (hsealed : (s.cal e).sealed = false)
    (huse : s.partInUse e = false) (hfail : s.factoryPasses e (s.measured e meas) = false) : Completes (.calFactory c meas) s fun t =>
      (t.cal e).sealed = false ∧ (t.cal e).copyA = (s.cal e).copyA ∧ (t.cal e).copyB = (s.cal e).copyB := by
  refine ⟨_, exec_calFactory hmode he hc hsealed huse, ?_⟩
  obtain ⟨n, hn⟩ := (s.interim c).rejectBad_cal e (calReject ((s.interim c).fit.reflectors e) e ((s.interim c).cal e).sealed) (s.measured e meas)
  rw [← State.rejectAll_eq, State.cal_of_loopView (s.interim_loopView c [])] at hn
  rw [if_neg (by simp [hfail]), State.cal_of_loopView (State.draw_loopView _), State.cal_of_loopView (State.final_loopView _ _ _ _), hn]
  exact ⟨hsealed, rfl, rfl⟩

/-- CAL_WRITE accepted: every record is judged before any is written. -/
theorem exec_calWrite {d : List Byte} (hc : IsCmd c 0x71) (hcount : c.count ≤ 1024) (hd : c.data = some d) (hlen : d.length = 64 * c.count) :
    exec (.calWrite c) s = .next (
      let s1 := s.rejectBad e (s.writeReject e) (calRecords c.count d)
      let good := (calRecords c.count d).filter fun r => (s.writeReject e r).isNone
      if good.isEmpty then s1.final c stOk
      else s1.updCal e fun x =>
        { x with
          gen := ((s.cal e).gen + 1) % 2 ^ 32
          copyB := putRecords x.copyB (good.map fun r => recStamp r (((s.cal e).gen + 1) % 2 ^ 32))
          copyA := putRecords x.copyA (good.map fun r => recStamp r (((s.cal e).gen + 1) % 2 ^ 32)), pending := true, cmd := some c }) := by
  refine congrArg Host.Outcome.next ?_
  unfold State.calWrite
  dsimp only
  rw [he, hd]
  exact State.decideCmd_eff_of_ranges _ hc (by simp [hcount]) (by simp [hlen]) (by rw [hmode]; rfl) (by rw [hmode]; rfl) (by simp)

theorem completes_calWrite_passes {d : List Byte} (hc : IsCmd c 0x71) (hpos : 0 < c.count) (hcount : c.count ≤ 1024) (hd : c.data = some d)
    (hlen : d.length = 64 * c.count) (hpass : ∀ r ∈ calRecords c.count d, r.kind = 10 ∧ calReject 0 e (s.cal e).sealed r = none) :
    Completes (.calWrite c) s fun t =>
      let gen := ((s.cal e).gen + 1) % 2 ^ 32
      let kept := (calRecords c.count d).map fun r => recStamp r gen
      t = s.updCal e fun x =>
        { x with gen := gen, copyB := putRecords x.copyB kept, copyA := putRecords x.copyA kept, pending := true, cmd := some c } := by
  refine ⟨_, exec_calWrite hmode he hc hcount hd hlen, ?_⟩
  have hnone : ∀ r ∈ calRecords c.count d, s.writeReject e r = none := by
    intro r hr
    obtain ⟨hkind, hrej⟩ := hpass r hr
    rw [State.writeReject, hrej, Option.orElse_none, if_pos hkind]
  have hgood : ((calRecords c.count d).filter fun r => (s.writeReject e r).isNone) = calRecords c.count d :=
    List.filter_eq_self.mpr fun r hr => by rw [hnone r hr]; rfl
  dsimp only
  rw [hgood, State.rejectBad_of_pass hnone, if_neg (by simpa using calRecords_ne_nil hpos d)]

theorem completes_calWrite_rejects {d : List Byte} (hc : IsCmd c 0x71) (hpos : 0 < c.count) (hcount : c.count ≤ 1024) (hd : c.data = some d)
    (hlen : d.length = 64 * c.count) (hkinds : ∀ r ∈ calRecords c.count d, r.kind ≠ 10) : Completes (.calWrite c) s fun t =>
      t.cal e = { s.cal e with rejects := min 255 ((s.cal e).rejects + c.count) } := by
  refine ⟨_, exec_calWrite hmode he hc hcount hd hlen, ?_⟩
  have hsome : ∀ r ∈ calRecords c.count d, (s.writeReject e r).isSome = true := by
    intro r hr
    rw [State.writeReject, if_neg (hkinds r hr)]
    cases calReject 0 e (s.cal e).sealed r <;> rfl
  have hgood : ((calRecords c.count d).filter fun r => (s.writeReject e r).isNone) = [] :=
    List.filter_eq_nil_iff.mpr fun r hr => by simpa using Option.isSome_iff_ne_none.mp (hsome r hr)
  dsimp only
  rw [hgood, if_pos List.isEmpty_nil, State.cal_of_loopView (State.final_loopView _ _ _ _), State.rejectBad_rejects (calRecords_ne_nil hpos d) hsome,
    length_calRecords]

end

/-! ## New values taken into force -/

/-- The LOOPDEF records among new values, taken by their cells. -/
def State.takeRecs (s : State) (e : Engine) (rs : List CalRec) : State :=
  rs.foldl (fun st r => st.updCell e r.index fun x => x.takeRec r.index (s.engineFrame e) 0 r.payload) s

theorem State.takeRecs_keeps {β : Type} (part : State → β) (hpart : ∀ st h f, part (State.updCell st e h f) = part st) (s : State)
    (rs : List CalRec) : part (s.takeRecs e rs) = part s :=
  foldl_keeps part (fun st (r : CalRec) => st.updCell e r.index fun x => x.takeRec r.index (s.engineFrame e) 0 r.payload)
    (fun st r => hpart st r.index _) rs s

theorem exec_calApply (hok : s.fit.engineOk e = true) (hpending : (s.cal e).pending = true) : exec (.calApply e) s =
    .next (((s.takeRecs e ((s.cal e).usable.filter fun r =>
      r.kind == 10 && decide (r.index < engineCells e) && !(s.cal e).inForce.contains r)).updCal e fun x =>
        { x with inForce := x.usable, pending := false, cmd := none }).final? (s.cal e).cmd stOk) :=
  if_pos (by simp [hok, hpending])

theorem completes_calApply (hok : s.fit.engineOk e = true) (hpending : (s.cal e).pending = true) : Completes (.calApply e) s fun t =>
    t.cal e = { s.cal e with inForce := (s.cal e).usable, pending := false, cmd := none } ∧ t.mgr = s.mgr ∧ t.circs = s.circs := by
  refine ⟨_, exec_calApply hok hpending, ?_⟩
  generalize ((s.cal e).usable.filter fun r => _) = rs
  refine ⟨?_, ?_⟩
  · rw [State.cal_of_loopView (State.finalQ_loopView _ _ _ _), State.updCal_cal,
      State.takeRecs_keeps (fun st => st.cal e) (fun st h f => st.updCell_cal e h f)]
  · obtain ⟨_, _, _, hfinal⟩ := State.finalQ_only ((s.takeRecs e rs).updCal e fun x =>
      { x with inForce := x.usable, pending := false, cmd := none }) (s.cal e).cmd stOk []
    rw [hfinal, State.updCal_only]
    exact ⟨State.takeRecs_keeps State.mgr (fun st h f => by rw [State.updCell_only]) s rs,
      State.takeRecs_keeps State.circs (fun st h f => by rw [State.updCell_only]) s rs⟩

/-! ## FIELD_VERIFY -/

/-- The states in which a tile may be verified, and what they ask for: a window in Running, a middle tile without circuits elsewhere (R300). -/
def State.tileVerifiable (s : State) (c : Cmd) : Prop :=
  (isMiddle c.unit = false ∧ (s.mgr.mode = .quiescent ∨ s.mgr.mode = .service)) ∨ (isMiddle c.unit = true ∧
    ((s.mgr.mode = .running ∧ (s.windowFor c).isSome = true) ∨
      (s.tileCircs c.unit = [] ∧ (s.mgr.mode = .quiescent ∨ s.mgr.mode = .loaded ∨ s.mgr.mode = .service))))

theorem State.tileVerifiable.passes (h : s.tileVerifiable c) : s.mgr.mode.deaf = false ∧
    (if isMiddle c.unit then [MState.quiescent, .loaded, .running, .service] else [.quiescent, .service]).contains s.mgr.mode = true ∧
    (s.mgr.mode != .running || (s.windowFor c).isSome) = true ∧
    (s.mgr.mode == .running || !isMiddle c.unit || (s.tileCircs c.unit).isEmpty) = true := by
  rcases h with ⟨hmid, h | h⟩ | ⟨hmid, ⟨h, hin⟩ | ⟨hcircs, h | h | h⟩⟩ <;> simp [*] <;> rfl

theorem exec_fieldVerifyTile (hc : IsCmd c 0x72) (hwindow : s.windowIndexOk c = true) (hdoze : s.mgr.doze = none) (hsel : c.sel = 0)
    (hplane : s.fit.lacewing = true) (hunit : c.unit < 104) (hok : s.fit.tileOk c.unit = true) (hfree : (s.tile c.unit).verify = none)
    (hmode : s.tileVerifiable c) : exec (.fieldVerifyTile c) s = .next ((s.interim c).updTile c.unit fun x =>
      { x with verify := some { start := none, window := if (s.windowFor c).isSome then some c.window else none
                                edgeWait := !isMiddle c.unit, cmd := c } }) := by
  obtain ⟨hdeaf, hstate, hin, hcircs⟩ := hmode.passes
  refine congrArg Host.Outcome.next ?_
  unfold State.verifyTile
  exact State.decideCmd_eff_of_ranges _ hc (by simp [hsel, hunit, hok, hwindow]) rfl hdeaf hstate
    (by simp [hplane, State.noLeadIn, hdoze, hfree, hin, hcircs])

theorem completes_fieldVerifyTile (hc : IsCmd c 0x72) (hwindow : s.windowIndexOk c = true) (hdoze : s.mgr.doze = none) (hsel : c.sel = 0)
    (hplane : s.fit.lacewing = true) (hunit : c.unit < 104) (hok : s.fit.tileOk c.unit = true) (hfree : (s.tile c.unit).verify = none)
    (hmode : s.tileVerifiable c) : Completes (.fieldVerifyTile c) s fun t =>
      (∃ z, (t.tile c.unit).verify = some z ∧ z.start = none ∧ z.cmd = c) ∧ (∀ y, y ≠ c.unit → t.tile y = s.tile y) ∧
      t = { s.interim c with tiles := t.tiles } := by
  refine ⟨_, exec_fieldVerifyTile hc hwindow hdoze hsel hplane hunit hok hfree hmode, ?_, fun y hy => ?_, rfl⟩
  · rw [State.updTile_tile_self]
    exact ⟨_, rfl, rfl, rfl⟩
  · rw [State.updTile_tile_ne _ _ hy, State.tile_of_loopView (s.interim_loopView c [])]

theorem completes_fieldVerifyPort (hc : IsCmd c 0x72) (hwindow : s.windowIndexOk c = true) (hdoze : s.mgr.doze = none) (hsel : c.sel = 1)
    (hok : s.fit.lportOk c.unit = true) (hunit : c.unit < s.fit.workerPorts)
    (hmode : s.mgr.mode = .quiescent ∨ s.mgr.mode = .loaded ∨ s.mgr.mode = .service ∨
      (s.mgr.mode = .running ∧ (s.windowFor c).isSome = true))
    (hfree : (s.worker (s.endOf c.unit).1).verify.get? (s.endOf c.unit).2 = none) : Completes (.fieldVerifyPort c) s fun t =>
      (∃ z, (t.worker (s.endOf c.unit).1).verify.get? (s.endOf c.unit).2 = some z ∧ z.start = none ∧ z.cmd = c) ∧
      t = { s.interim c with workers := t.workers } := by
  have hstate : s.mgr.mode.deaf = false ∧ [MState.quiescent, .loaded, .running, .service].contains s.mgr.mode = true ∧
      (s.mgr.mode != .running || (s.windowFor c).isSome) = true := by
    rcases hmode with h | h | h | ⟨h, hin⟩ <;> simp [*] <;> rfl
  obtain ⟨hdeaf, hstate, hin⟩ := hstate
  have hexec : exec (.fieldVerifyPort c) s = .next ((s.interim c).updWorker (s.endOf c.unit).1 fun x =>
      { x with verify := x.verify.set (s.endOf c.unit).2
                { start := none, window := if (s.windowFor c).isSome then some c.window else none, edgeWait := false, cmd := c } }) := by
    refine congrArg Host.Outcome.next ?_
    unfold State.verifyPort
    exact State.decideCmd_eff_of_ranges _ hc (by simp [hsel, hunit, hok, hwindow]) rfl hdeaf hstate
      (by simp [State.noLeadIn, hdoze, hfree, hin])
  refine ⟨_, hexec, ?_, rfl⟩
  rw [State.updWorker_worker_self, Tab.get?_set_self]
  exact ⟨_, rfl, rfl, rfl⟩

/-! ## Verifies that start -/

section
variable {x q f : Nat} {v : Verify}

theorem exec_verifyStart_tile (hv : (s.tile x).verify = some v) (hdue : s.verifyDue v = true) : exec (.verifyStart false x) s =
    if (s.tileCircs x).isEmpty && (!v.edgeWait || (!s.search.on && !s.checkRunning)) then
      .next (s.updTile x fun y => { y with verify := some { v with start := some s.mgr.frame }, verifying := true }).planInput
    else if v.edgeWait then .next s
    else .next ((s.updTile x fun y => { y with verify := none }).final v.cmd stBusy) := by
  show execVerifyStart false x s = _
  unfold execVerifyStart
  rw [if_neg (by decide), hv]
  exact if_pos hdue

theorem completes_verifyStart_tile (hv : (s.tile x).verify = some v) (hdue : s.verifyDue v = true) (hcircs : s.tileCircs x = [])
    (hwait : v.edgeWait = false ∨ (s.search.on = false ∧ s.checkRunning = false)) : Completes (.verifyStart false x) s fun t =>
      t.tile x = { s.tile x with verify := some { v with start := some s.mgr.frame }, verifying := true } ∧
      t = { s with tiles := t.tiles, plane := t.plane } := by
  refine ⟨_, (exec_verifyStart_tile hv hdue).trans (if_pos ?_),
    s.updTile_tile_self x fun y => { y with verify := some { v with start := some s.mgr.frame }, verifying := true }, rfl⟩
  rcases hwait with h | ⟨h, h'⟩ <;> simp [*]

theorem completes_verifyStart_busy (hv : (s.tile x).verify = some v) (hdue : s.verifyDue v = true) (hcircs : s.tileCircs x ≠ [])
    (hwait : v.edgeWait = false) : Completes (.verifyStart false x) s fun t =>
      t.tile x = { s.tile x with verify := none } ∧ t = ({ s with tiles := t.tiles } : State).final v.cmd 0x42 := by
  refine ⟨_, (exec_verifyStart_tile hv hdue).trans ((if_neg (by simp [hcircs])).trans (if_neg (by simp [hwait]))), ?_, ?_⟩
  · rw [State.tile_of_loopView (State.final_loopView _ _ _ _), State.updTile_tile_self]
  · rw [(State.loopView_eq (State.final_loopView _ _ _ _)).1]
    rfl

/-- The ring cells of a port put into a mode: the worker's port and its verifies stay, and everything but the workers. -/
theorem State.updCells_ring_port (s : State) (w p : Nat) (hs : List Nat) (g : Nat → Cell → Cell) :
    ((s.updCells (.ring w) hs g).worker w).port p = ((s.worker w).port p) :=
  State.updCells_keeps (fun st => (st.worker w).port p) (.ring w) (fun st h g => by simp [State.updCell, State.setTab, Worker.port]) s hs g

theorem State.updCells_ring_verify (s : State) (w : Nat) (hs : List Nat) (g : Nat → Cell → Cell) :
    ((s.updCells (.ring w) hs g).worker w).verify = (s.worker w).verify :=
  State.updCells_keeps (fun st => (st.worker w).verify) (.ring w) (fun st h g => by simp [State.updCell, State.setTab]) s hs g

theorem State.updCells_ring_onlyWorkers (s : State) (w : Nat) (hs : List Nat) (g : Nat → Cell → Cell) :
    State.OnlyWorkers s (s.updCells (.ring w) hs g) :=
  List.foldlRecOn (motive := State.OnlyWorkers s) hs _ rfl fun _ hu _ _ => hu.trans rfl

theorem completes_verifyStart_port (hv : (s.worker (s.endOf q).1).verify.get? (s.endOf q).2 = some v) (hdue : s.verifyDue v = true)
    (hup : s.workerUp (s.endOf q).1 = true) (hstart : (s.hub (sledOf (s.endOf q).1)).started = true) : Completes (.verifyStart true q) s fun t =>
      ((t.worker (s.endOf q).1).port (s.endOf q).2).loopback = true ∧
      (∀ h ∈ ringCells (s.endOf q).2, (t.cell (.ring (s.endOf q).1) h).mode = 4) ∧
      (t.worker (s.endOf q).1).verify.get? (s.endOf q).2 = some { v with start := some (s.hub (sledOf (s.endOf q).1)).frame } ∧
      t = { s with workers := t.workers } := by
  have hexec : exec (.verifyStart true q) s = execVerifyStart true q s := rfl
  unfold execVerifyStart at hexec
  rw [if_pos rfl] at hexec
  dsimp only at hexec
  rw [hv] at hexec
  dsimp only at hexec
  rw [if_pos (by simp [hdue, hup, hstart])] at hexec
  refine ⟨_, hexec, ?_, fun h hh => State.updCells_cell_of_all (Q := fun y => y.mode = 4) (fun _ => rfl) hh, ?_, ?_⟩
  · rw [State.updCells_ring_port, State.updPort_port_self]
  · rw [State.updCells_ring_verify, State.updPort, State.updWorker_worker_self, State.updWorker_worker_self]
    exact Tab.get?_set_self _ _ _
  · exact ((s.updWorker_onlyWorkers _ _).trans (State.updPort_onlyWorkers _ _ _ _)).trans (State.updCells_ring_onlyWorkers _ _ _ _)

/-! ## Verifies that end -/

/-- The grade of a port recorded with its L-port, and the command's completion. -/
theorem State.portGraded_loopView (s : State) (q : Nat) (g : LPort → LPort) (c : Cmd) :
    ((s.updLPort q g).planInput.final c stOk).loopView = s.loopView := State.final_loopView _ _ _ _

theorem State.portGraded_lport (s : State) (q : Nat) (g : LPort → LPort) (c : Cmd) :
    ((s.updLPort q g).planInput.final c stOk).lport q = g (s.lport q) := by
  rw [State.final_only]
  exact State.updLPort_lport_self s q g

theorem completes_portVerifyEnd {a b : Nat} (hv : (s.worker (s.endOf q).1).verify.get? (s.endOf q).2 = some v) (hstart : v.start = some f)
    (hframe : f + 64 ≤ (s.hub (sledOf (s.endOf q).1)).frame) : Completes (.portVerifyEnd q a b) s fun t =>
      ((t.worker (s.endOf q).1).port (s.endOf q).2).loopback = false ∧ (t.worker (s.endOf q).1).verify.get? (s.endOf q).2 = none ∧
      ((t.worker (s.endOf q).1).port (s.endOf q).2).verResult =
        portGrade a b (Config.snrLimit (s.endOf q).1 (s.endOf q).2 (s.portClass (s.endOf q).1 (s.endOf q).2)) ∧
      (t.lport q).verifyBad = decide (((t.worker (s.endOf q).1).port (s.endOf q).2).verResult = 3) ∧
      ∀ h ∈ ringCells (s.endOf q).2, (t.cell (.ring (s.endOf q).1) h).mode = 3 := by
  have hexec : exec (.portVerifyEnd q a b) s = execPortVerifyEnd q a b s := rfl
  unfold execPortVerifyEnd at hexec
  dsimp only at hexec
  rw [hv] at hexec
  dsimp only at hexec
  rw [hstart] at hexec
  dsimp only at hexec
  rw [if_pos hframe] at hexec
  refine ⟨_, hexec, ?_⟩
  beta_reduce
  rw [State.cell_of_loopView (State.portGraded_loopView _ _ _ _), State.worker_of_loopView (State.portGraded_loopView _ _ _ _),
    State.portGraded_lport, State.updCells_ring_port, State.updPort_port_self, State.updCells_ring_verify]
  refine ⟨rfl, ?_, rfl, rfl, fun h hh => State.updCells_cell_of_all (Q := fun y => y.mode = 3) (fun _ => rfl) hh⟩
  rw [State.updPort, State.updWorker_worker_self, State.updWorker_worker_self]
  exact Tab.get?_erase_self _ _

/-- A tile parked and graded at the end of its verify. -/
def Tile.judged (y : Tile) (ffDev gainDev snr grade : Nat) : Tile :=
  { y with
    verify := none, verifying := false, verRes := grade, ffDev := min 0xFFFF ffDev, gainDev := min 0xFF gainDev
    snr := min 0xFF snr, evacuated := false, failed := y.failed || grade == 3, elems := Tab.empty
    cells := y.cells.mapVals fun _ c => c.rest }

theorem exec_tileVerifyEnd_lost {a b n : Nat} (hv : (s.tile x).verify = some v) (hstart : v.start = some f) :
    exec (.tileVerifyEnd x a b n q true) s =
      .next ((s.updTile x fun y => { y with verify := none, verifying := false, verRes := 0 }).planInput.final v.cmd stOk) := by
  show execTileVerifyEnd x a b n q true s = _
  unfold execTileVerifyEnd
  rw [hv]
  dsimp only
  rw [hstart]
  rfl

theorem exec_tileVerifyEnd_judged {a b n : Nat} (hv : (s.tile x).verify = some v) (hstart : v.start = some f)
    (hend : f + 320 ≤ s.mgr.frame) : exec (.tileVerifyEnd x a b n q false) s =
      .next ((if tileGrade a b n q = 3 ∧ !(s.tile x).failed then
        (s.updTile x fun y => y.judged a b n (tileGrade a b n q)).planInput.arrive 10 1 0
        else (s.updTile x fun y => y.judged a b n (tileGrade a b n q)).planInput).final v.cmd stOk) := by
  show execTileVerifyEnd x a b n q false s = _
  unfold execTileVerifyEnd
  rw [hv]
  dsimp only
  rw [hstart]
  dsimp only
  rw [if_neg (by decide), if_pos hend]
  rfl

/-- What the end of a verify leaves beside a change of its tile: the other tiles, and the circuits. -/
theorem State.verified_tile {u : State} {g : Tile → Tile} (htiles : u.tiles = (s.updTile x g).tiles) (hcircs : u.circs = s.circs) :
    (u.final c stOk).tile x = g (s.tile x) ∧ (∀ y, y ≠ x → (u.final c stOk).tile y = s.tile y) ∧ (u.final c stOk).circs = s.circs := by
  have htile : (u.final c stOk).tile = (s.updTile x g).tile := by
    rw [State.tile_of_loopView (State.final_loopView _ _ _ _)]
    unfold State.tile
    rw [htiles]
  rw [htile, State.final_circs]
  exact ⟨State.updTile_tile_self _ _ _, fun y hy => State.updTile_tile_ne _ _ hy, hcircs⟩

theorem completes_tileVerifyEnd {a b n : Nat} {lost : Bool} (hv : (s.tile x).verify = some v) (hstart : v.start = some f)
    (hend : lost = true ∨ f + 320 ≤ s.mgr.frame) : Completes (.tileVerifyEnd x a b n q lost) s fun t =>
      (t.tile x).verify = none ∧ (t.tile x).verifying = false ∧ (∀ y, y ≠ x → t.tile y = s.tile y) ∧ t.circs = s.circs ∧
      (if lost then (t.tile x).verRes = 0 ∧ (t.tile x).failed = (s.tile x).failed ∧ (t.tile x).elems = (s.tile x).elems
       else (t.tile x).verRes = tileGrade a b n q ∧ (t.tile x).elems = Tab.empty ∧
         (tileGrade a b n q = 3 → (t.tile x).failed = true) ∧ (tileGrade a b n q ≠ 3 → (t.tile x).failed = (s.tile x).failed)) := by
  cases lost with
  | true =>
    refine ⟨_, exec_tileVerifyEnd_lost hv hstart, ?_⟩
    obtain ⟨htile, hothers, hcircs⟩ := State.verified_tile (s := s) (x := x) (c := v.cmd)
      (g := fun y => { y with verify := none, verifying := false, verRes := 0 })
      (u := (s.updTile x fun y => { y with verify := none, verifying := false, verRes := 0 }).planInput) rfl rfl
    rw [htile]
    exact ⟨rfl, rfl, hothers, hcircs, rfl, rfl, rfl⟩
  | false =>
    refine ⟨_, exec_tileVerifyEnd_judged hv hstart (hend.resolve_left Bool.false_ne_true), ?_⟩
    obtain ⟨htile, hothers, hcircs⟩ := State.verified_tile (s := s) (x := x) (c := v.cmd)
      (g := fun y => y.judged a b n (tileGrade a b n q))
      (u := if tileGrade a b n q = 3 ∧ !(s.tile x).failed then
        (s.updTile x fun y => y.judged a b n (tileGrade a b n q)).planInput.arrive 10 1 0
        else (s.updTile x fun y => y.judged a b n (tileGrade a b n q)).planInput) (by split <;> rfl) (by split <;> rfl)
    rw [htile]
    refine ⟨rfl, rfl, hothers, hcircs, rfl, rfl, fun hg => ?_, fun hg => ?_⟩ <;> simp [Tile.judged, hg]

end

end Sys2Proof.Machine
end

section
/-! The obligation about calibration. -/

namespace Sys2Proof.Machine

/-- Settles O57, by the command. The layout of a payload is the model's (log entry 130). -/
theorem calibrationIsKept : Obligations.CalibrationIsKept := by
  unfold Obligations.CalibrationIsKept
  refine ⟨fun s c e meas d => ⟨fun hmode he => ⟨fun hc hsealed huse => ⟨completes_calFactory_passes hmode he hc hsealed huse,
      completes_calFactory_fails hmode he hc hsealed huse⟩, fun hc hpos hcount hd hlen => ⟨completes_calWrite_passes hmode he hc hpos hcount hd hlen,
      completes_calWrite_rejects hmode he hc hpos hcount hd hlen⟩⟩, completes_calApply⟩, fun s c x q a b n lost v f => ?_⟩
  exact ⟨fun hc hwindow hdoze => ⟨completes_fieldVerifyTile hc hwindow hdoze, completes_fieldVerifyPort hc hwindow hdoze⟩,
    fun hv hdue => ⟨completes_verifyStart_tile hv hdue, completes_verifyStart_busy hv hdue⟩, completes_verifyStart_port,
    completes_tileVerifyEnd, completes_portVerifyEnd⟩

end Sys2Proof.Machine
end

section
/-! SUPPORT. Open sensor inputs, the trace and auto-tune (R272, R277 to R282). -/

namespace Sys2Proof.Machine

variable {s : State} {e : Engine} {c : Cmd} {n h : Nat} {z : Tune}

/-! ## Sensor inputs -/

theorem State.setSensors_sensors (hring : ∀ w, e ≠ .ring w) (x : Tab Sensor) : (s.setSensors e x).sensors e = x := by
  cases e with
  | tile t => simp [State.setSensors, State.sensors]
  | module k => simp [State.setSensors, State.sensors]
  | ring w => exact absurd rfl (hring w)

/-- A change of an engine's inputs leaves its cells. -/
theorem State.setSensors_cell (s : State) (e : Engine) (x : Tab Sensor) : (s.setSensors e x).cell e = s.cell e := by
  funext h
  cases e with
  | tile t => simp [State.setSensors, State.cell, State.engineTab, State.restMode, State.cal]
  | module k => simp [State.setSensors, State.cell, State.engineTab, State.restMode, State.cal]
  | ring w => rfl

theorem State.setSensors_only (s : State) (e : Engine) (x : Tab Sensor) :
    s.setSensors e x = { s with tiles := (s.setSensors e x).tiles, modules := (s.setSensors e x).modules } := by
  cases e <;> rfl

theorem State.updCell_sensors (s : State) (e : Engine) (h : Nat) (f : Cell → Cell) : (s.updCell e h f).sensors e = s.sensors e := by
  cases e <;> simp [State.updCell, State.setTab, State.sensors]

theorem State.updCells_sensors (s : State) (e : Engine) (hs : List Nat) (f : Nat → Cell → Cell) : (s.updCells e hs f).sensors e = s.sensors e :=
  State.updCells_keeps (fun st => st.sensors e) e (fun st h f => st.updCell_sensors e h f) s hs f

theorem State.updCell_fit (s : State) (e : Engine) (h : Nat) (f : Cell → Cell) : (s.updCell e h f).fit = s.fit := by
  rw [State.updCell_only]

theorem laserCells_nodup (n : Nat) : (laserCells n).Nodup := by simp [laserCells]

/-- An input declared open, and a laser's cells with it (R277, R279). -/
def State.declaredOpen (s : State) (e : Engine) (n : Nat) : State :=
  let s1 := s.setSensors e ((s.sensors e).set n { (s.sensors e).get Sensor.init n with isOpen := true, okRun := 0 })
  match e with
  | .module _ => s1.updCells e (laserCells (n / 2)) fun _ c => c.sensorHold
  | _ => s1

theorem exec_sensorOpen (hok : s.fit.engineOk e = true) (hopen : ((s.sensors e).get Sensor.init n).isOpen = false)
    (hrun : 2 ≤ ((s.sensors e).get Sensor.init n).openRun) : ∃ fields, exec (.sensorOpen e n) s = .next ((s.declaredOpen e n).raise 0x000C fields) :=
  ⟨_, if_pos (by simp [hok, hopen, hrun])⟩

theorem State.declaredOpen_sensors (s : State) (hring : ∀ w, e ≠ .ring w) (n : Nat) : (s.declaredOpen e n).sensors e =
    (s.sensors e).set n { (s.sensors e).get Sensor.init n with isOpen := true, okRun := 0 } := by
  unfold State.declaredOpen
  dsimp only
  split
  · rw [State.updCells_sensors, State.setSensors_sensors hring]
  · rw [State.setSensors_sensors hring]

theorem State.declaredOpen_fit (s : State) (e : Engine) (n : Nat) : (s.declaredOpen e n).fit = s.fit := by
  unfold State.declaredOpen
  dsimp only
  split
  · rw [State.updCells_keeps State.fit _ (fun st h f => st.updCell_fit _ h f), State.setSensors_only]
  · rw [State.setSensors_only]

/-- A CLOSED cell of the laser holds. -/
theorem State.declaredOpen_laser {k : Nat} (hh : h ∈ laserCells (n / 2)) (hmode : (s.cell (.module k) h).mode = 3) :
    ((s.declaredOpen (.module k) n).cell (.module k) h).mode = 4 := by
  unfold State.declaredOpen
  dsimp only
  rw [State.updCells_cell (laserCells_nodup _) hh, State.setSensors_cell, Cell.sensorHold, if_pos (.inl hmode)]

theorem completes_sensorOpen (hok : s.fit.engineOk e = true) (hring : ∀ w, e ≠ .ring w)
    (hopen : ((s.sensors e).get Sensor.init n).isOpen = false) (hrun : 2 ≤ ((s.sensors e).get Sensor.init n).openRun) :
    Completes (.sensorOpen e n) s fun t =>
      ((t.sensors e).get Sensor.init n).isOpen = true ∧ (∀ g, g ≠ n → (t.sensors e).get Sensor.init g = (s.sensors e).get Sensor.init g) ∧
      (∀ k, e = .module k → ∀ h ∈ laserCells (n / 2), (s.cell e h).mode = 3 → (t.cell e h).mode = 4) ∧
      ∀ k, k < s.fit.sleds → ∃ v ∈ (t.hub k).evq, v.code = 0x0C := by
  obtain ⟨fields, hexec⟩ := exec_sensorOpen hok hopen hrun
  refine ⟨_, hexec, ?_, fun g hg => ?_, ?_, fun k hk => ?_⟩
  · rw [State.sensors_of_loopView (State.raise_loopView _ _ _), State.declaredOpen_sensors s hring, Tab.get_set_self]
  · rw [State.sensors_of_loopView (State.raise_loopView _ _ _), State.declaredOpen_sensors s hring, Tab.get_set_ne _ _ _ hg]
  · rintro k rfl h hh hmode
    rw [State.cell_of_loopView (State.raise_loopView _ _ _), State.declaredOpen_laser hh hmode]
  · exact State.raise_records _ _ _ (by rwa [State.declaredOpen_fit])

/-- An input used again. -/
def State.usedAgain (s : State) (e : Engine) (n : Nat) : State :=
  s.setSensors e ((s.sensors e).set n { (s.sensors e).get Sensor.init n with isOpen := false })

/-- What an input used again brings about: itself, and in a module the release of the cells that its opening held. -/
theorem exec_sensorRestored (hok : s.fit.engineOk e = true) (hring : ∀ w, e ≠ .ring w) (hopen : ((s.sensors e).get Sensor.init n).isOpen = true)
    (hrun : 64 ≤ ((s.sensors e).get Sensor.init n).okRun) : exec (.sensorRestored e n) s = .next (s.usedAgain e n) ∨
      ∃ k hs f, e = .module k ∧ exec (.sensorRestored e n) s = .next ((s.usedAgain e n).updCells e hs f) := by
  have hexec : exec (.sensorRestored e n) s = execSensorRestored e n s := rfl
  unfold execSensorRestored at hexec
  dsimp only at hexec
  rw [if_pos (by simp [hok, hopen, hrun])] at hexec
  cases e with
  | tile t => exact .inl hexec
  | ring w => exact absurd rfl (hring w)
  | module k =>
    dsimp only at hexec
    generalize (if n % 2 = 0 then n + 1 else n - 1) = other at hexec
    split at hexec
    · exact .inl hexec
    · exact .inr ⟨k, _, _, rfl, hexec⟩

/-- A change of a module's cells leaves everything but the modules. -/
theorem State.updCells_module_only (s : State) (k : Nat) (hs : List Nat) (f : Nat → Cell → Cell) :
    s.updCells (.module k) hs f = { s with modules := (s.updCells (.module k) hs f).modules } := by
  induction hs generalizing s with
  | nil => rfl
  | cons h hs ih => exact (ih (s.updCell (.module k) h (f h))).trans rfl

theorem completes_sensorRestored (hok : s.fit.engineOk e = true) (hring : ∀ w, e ≠ .ring w)
    (hopen : ((s.sensors e).get Sensor.init n).isOpen = true) (hrun : 64 ≤ ((s.sensors e).get Sensor.init n).okRun) :
    Completes (.sensorRestored e n) s fun t =>
      ((t.sensors e).get Sensor.init n).isOpen = false ∧ (∀ g, g ≠ n → (t.sensors e).get Sensor.init g = (s.sensors e).get Sensor.init g) ∧
      t = { s with tiles := t.tiles, modules := t.modules } := by
  have hsensors : ∀ u : State, u.sensors e = (s.usedAgain e n).sensors e → ((u.sensors e).get Sensor.init n).isOpen = false ∧
      ∀ g, g ≠ n → (u.sensors e).get Sensor.init g = (s.sensors e).get Sensor.init g := by
    intro u hu
    rw [hu, State.usedAgain, State.setSensors_sensors hring]
    exact ⟨by rw [Tab.get_set_self], fun g hg => Tab.get_set_ne _ _ _ hg⟩
  rcases exec_sensorRestored hok hring hopen hrun with hexec | ⟨k, hs, f, rfl, hexec⟩
  · obtain ⟨hself, hothers⟩ := hsensors _ rfl
    exact ⟨_, hexec, hself, hothers, s.setSensors_only e _⟩
  · obtain ⟨hself, hothers⟩ := hsensors _ (State.updCells_sensors _ (.module k) hs f)
    refine ⟨_, hexec, hself, hothers, ?_⟩
    rw [State.updCells_module_only]
    rfl

theorem completes_lightBudgetInvalid (hvalid : s.light.valid = true)
    (hbad : if s.mgr.lbMode then 391 ≤ s.light.noEdge else 2600 < s.light.lastCode) : Completes .lightBudgetInvalid s fun t =>
      t.light = { s.light with valid := false } ∧ ∀ k, k < s.fit.sleds → ∃ v ∈ (t.hub k).evq, v.code = 0x0C := by
  refine ⟨_, if_pos ?_, ?_, fun k hk => State.raise_records _ _ _ hk⟩
  · cases hm : s.mgr.lbMode <;> simp_all
  · rw [State.raise_only]

theorem completes_traceTrigger {x : Nat} (hok : s.fit.tileOk x = true) (harm : (s.tile x).arm = true) (hpost : (s.tile x).postLeft = none)
    (htrig : (s.tile x).triggered = true) : Completes (.traceTrigger x) s fun t =>
      t.tile x = (if (s.tile x).post = 0 then { s.tile x with arm := false, stopped := true }
        else { s.tile x with postLeft := some (s.tile x).post }) ∧
      (∀ y, y ≠ x → t.tile y = s.tile y) ∧ t = { s with tiles := t.tiles } :=
  completes_updTile (if_pos (by simp [hok, harm, hpost, htrig])) rfl

/-! ## Auto-tune -/

/-- A cell put into TUNE by a command. -/
def Cell.tuned (x : Cell) (e : Engine) (c : Cmd) (since : Nat) : Cell :=
  { x with
    mode := 5, result := 0, setupAt := match e with | .tile _ => x.setupAt | _ => 0
    tune := some { amp := c.aux, limit := c.limit, frames := 0, since := since, changes := [], hi := 0, lo := 0, peaks := []
                   lastPos := decide (0 < x.e1), cmd := c } }

/-- The cells that a LOOP_TUNE names, put into TUNE. -/
def State.tuning (s : State) (c : Cmd) (e : Engine) (cells : List Nat) : State :=
  (s.interim c).updCells e cells fun _ x => x.tuned e c (s.engineFrame e)

theorem exec_loopTune {d : List Byte} (hc : IsCmd c 0x73) (hmode : s.mgr.mode = .service) (he : s.cmdEngine c = some e) (hcount : c.count ≤ 64)
    (haux : 1 ≤ c.aux) (haux' : c.aux ≤ 4000) (hlim : 64 ≤ c.limit) (hlim' : c.limit ≤ 1024) (hd : c.data = some d)
    (hlen : d.length = 2 * c.count) (hcells : ∀ g ∈ list16 d, g < engineCells e ∧ s.cellInUse e g = false) : exec (.loopTune c) s =
      .next (if (list16 d).isEmpty then (s.tuning c e (list16 d)).final c stOk else s.tuning c e (list16 d)) := by
  refine congrArg Host.Outcome.next ?_
  unfold State.loopTune
  dsimp only
  rw [he, hd]
  refine State.decideCmd_eff_of_ranges _ hc (by simp [*]) (by simp [hlen]) (by rw [hmode]; rfl) (by rw [hmode]; rfl) ?_
  simp only [List.mem_cons, List.not_mem_nil, or_false, forall_eq_or_imp, forall_eq, Option.elim, Option.getD_some, List.all_eq_true,
    decide_eq_true_eq, Bool.not_eq_true']
  exact ⟨fun g hg => (hcells g hg).1, fun g hg => (hcells g hg).2⟩

theorem completes_loopTune {d : List Byte} (hc : IsCmd c 0x73) (hmode : s.mgr.mode = .service) (he : s.cmdEngine c = some e)
    (hcount : c.count ≤ 64) (haux : 1 ≤ c.aux) (haux' : c.aux ≤ 4000) (hlim : 64 ≤ c.limit) (hlim' : c.limit ≤ 1024) (hd : c.data = some d)
    (hlen : d.length = 2 * c.count) (hcells : ∀ g ∈ list16 d, g < engineCells e ∧ s.cellInUse e g = false) : Completes (.loopTune c) s fun t =>
      (∀ g ∈ list16 d, (t.cell e g).mode = 5 ∧ (t.cell e g).result = 0 ∧
        ∃ y, (t.cell e g).tune = some y ∧ y.amp = c.aux ∧ y.limit = c.limit ∧ y.frames = 0 ∧ y.cmd = c) ∧
      ∀ g, g ∉ list16 d → t.cell e g = s.cell e g := by
  refine ⟨_, exec_loopTune hc hmode he hcount haux haux' hlim hlim' hd hlen hcells, ?_⟩
  have hview : (if (list16 d).isEmpty then (s.tuning c e (list16 d)).final c stOk else s.tuning c e (list16 d)).loopView =
      (s.tuning c e (list16 d)).loopView := by
    split
    · exact State.final_loopView _ _ _ _
    · rfl
  beta_reduce
  rw [State.cell_of_loopView hview]
  refine ⟨fun g hg => ?_, fun g hg => ?_⟩
  · exact State.updCells_cell_of_all (f := fun _ x => x.tuned e c (s.engineFrame e)) (Q := fun x : Cell => x.mode = 5 ∧ x.result = 0 ∧
      ∃ y, x.tune = some y ∧ y.amp = c.aux ∧ y.limit = c.limit ∧ y.frames = 0 ∧ y.cmd = c)
      (fun x => ⟨rfl, rfl, _, rfl, rfl, rfl, rfl, rfl⟩) hg
  · rw [State.tuning, State.updCells_cell_of_notMem hg, State.cell_of_loopView (s.interim_loopView c [])]

/-- The periods of a tune agree, and its peaks are known. -/
def Tune.done (z : Tune) : Bool :=
  decide (6 ≤ z.changes.length) && periodsAgree ((tunePeriods z.changes).take 4) && decide (0 < ((z.peaks.take 4).map fun a => a.natAbs).sum)

/-- A cell whose tune is over. -/
def Cell.tuneOver (x : Cell) (z : Tune) : Cell :=
  let r := tuneResult z.amp ((tunePeriods z.changes).take 4).sum ((z.peaks.take 4).map fun a => a.natAbs).sum
  if z.done then
    { x with mode := 1, tune := none, result := 1, tuneKu := toBits 24 r.1, tunePu := r.2.1 % 65536, tuneA1 := 0x100000
             tuneB0 := r.2.2.1, tuneB1 := r.2.2.2 }
  else { x with mode := 1, tune := none, result := 2 }

/-- The end of a tune, as its cells show it. -/
theorem completes_tuneEnd (hz : (s.cell e h).tune = some z) (hend : z.done = true ∨ z.limit ≤ z.frames) : Completes (.tuneEnd e h) s fun t =>
    t.cell e h = (s.cell e h).tuneOver z ∧ ∀ g, g ≠ h → t.cell e g = s.cell e g := by
  have hexec : exec (.tuneEnd e h) s = execTuneEnd e h s := rfl
  unfold execTuneEnd at hexec
  dsimp only at hexec
  rw [hz] at hexec
  dsimp only at hexec
  unfold Tune.done at hend
  rw [if_pos hend] at hexec
  refine ⟨_, hexec, ?_⟩
  beta_reduce
  have hview (p : Prop) [Decidable p] (u : State) : (if p then u else u.final z.cmd stOk).loopView = u.loopView := by
    split
    · rfl
    · exact State.final_loopView _ _ _ _
  rw [State.cell_of_loopView (hview _ _)]
  exact ⟨State.updCell_cell_self _ _ _ _, fun g hg => State.updCell_cell_ne _ _ _ hg⟩

theorem Cell.tuneOver_fails (x : Cell) (h : z.done = false) : x.tuneOver z = { x with mode := 1, tune := none, result := 2 } :=
  if_neg (by simp [h])

theorem Cell.tuneOver_agrees (x : Cell) (h : z.done = true) :
    (x.tuneOver z).mode = 1 ∧ (x.tuneOver z).tune = none ∧ (x.tuneOver z).result = 1 ∧ (x.tuneOver z).tuneA1 = 0x100000 := by
  unfold Cell.tuneOver
  dsimp only
  rw [if_pos h]
  exact ⟨rfl, rfl, rfl, rfl⟩

end Sys2Proof.Machine
end

section
/-! The obligation about sensors, traces and tuning. -/

namespace Sys2Proof.Machine

/-- Settles O56, by the command. -/
theorem cellsAreJudgedAndTuned : Obligations.CellsAreJudgedAndTuned := by
  unfold Obligations.CellsAreJudgedAndTuned
  refine ⟨fun s e n x => ⟨fun hok hring => ⟨completes_sensorOpen hok hring, completes_sensorRestored hok hring⟩, completes_lightBudgetInvalid,
    completes_traceTrigger⟩, fun s c e h d z => ⟨completes_loopTune, fun hz => ⟨fun hlimit hfails => ?_, fun hlen hagree hpeaks => ?_⟩⟩⟩
  · have hdone : z.done = false := by rcases hfails with h | h <;> simp [Tune.done, h]
    obtain ⟨t, hexec, hcell, hothers⟩ := completes_tuneEnd hz (.inr hlimit)
    exact ⟨t, hexec, hcell.trans (Cell.tuneOver_fails _ hdone), hothers⟩
  · have hdone : z.done = true := by simp only [Tune.done, hlen, hagree, hpeaks, decide_true, Bool.and_self]
    obtain ⟨t, hexec, hcell, hothers⟩ := completes_tuneEnd hz (.inl hdone)
    obtain ⟨hmode, htune, hresult, ha1⟩ := Cell.tuneOver_agrees (s.cell e h) hdone
    rw [← hcell] at hmode htune hresult ha1
    exact ⟨t, hexec, hmode, htune, hresult, ha1, hothers⟩

end Sys2Proof.Machine
end

section
/-! SUPPORT. The sequence, the lock and the supervision of a loop cell (R261, R270, R275). -/

namespace Sys2Proof.Machine

variable {s : State} {e : Engine} {h : Nat}

/-- A change of one cell, as the statements put it. -/
theorem completes_updCell {i : Instr} {f : Cell → Cell} (hexec : exec i s = .next (s.updCell e h f)) : Completes i s fun t =>
    t.cell e h = f (s.cell e h) ∧ (∀ g, g ≠ h → t.cell e g = s.cell e g) ∧
      t = { s with tiles := t.tiles, modules := t.modules, workers := t.workers } :=
  ⟨_, hexec, s.updCell_cell_self e h f, fun _ hg => s.updCell_cell_ne e f hg, s.updCell_only e h f⟩

section
variable (hok : s.fit.engineOk e = true) (hh : h < engineCells e)

include hok hh

/-- The sequence reaches PRIME at S + 12. -/
theorem completes_cellPrime (hrun : s.loopsRun = true) (hseq : s.inSequence e h = true) (hmode : (s.cell e h).mode = 1)
    (hbump : (s.cell e h).bumpless = none) (hdue : (s.cell e h).setupAt + 12 ≤ s.engineFrame e) : Completes (.cellSequenceStep e h) s fun t =>
      (t.cell e h).mode = 2 ∧ (∀ g, g ≠ h → t.cell e g = s.cell e g) ∧
      t = { s with tiles := t.tiles, modules := t.modules, workers := t.workers } := by
  have hexec : exec (.cellSequenceStep e h) s = execCellSequenceStep e h s := rfl
  unfold execCellSequenceStep at hexec
  dsimp only at hexec
  rw [if_pos (by simp [hok, hh, hrun, hseq]), if_pos ⟨hmode, hbump, hdue⟩] at hexec
  exact (completes_updCell hexec).mono fun t ⟨hcell, hrest⟩ => ⟨by rw [hcell], hrest⟩

/-- The sequence reaches CLOSED at S + 76. -/
theorem completes_cellClosed (hrun : s.loopsRun = true) (hseq : s.inSequence e h = true) (hmode : (s.cell e h).mode = 2)
    (hdue : (s.cell e h).setupAt + 76 ≤ s.engineFrame e) : Completes (.cellSequenceStep e h) s fun t =>
      (t.cell e h).mode = 3 ∧ (∀ g, g ≠ h → t.cell e g = s.cell e g) ∧
      t = { s with tiles := t.tiles, modules := t.modules, workers := t.workers } := by
  have hexec : exec (.cellSequenceStep e h) s = execCellSequenceStep e h s := rfl
  unfold execCellSequenceStep at hexec
  dsimp only at hexec
  rw [if_pos (by simp [hok, hh, hrun, hseq]), if_neg (by simp [hmode]), if_pos ⟨hmode, hdue⟩] at hexec
  exact (completes_updCell hexec).mono fun t ⟨hcell, hrest⟩ => ⟨by rw [hcell], hrest⟩

/-- The circuits that a change of LOCKED locks or unlocks: those through a tile. -/
def State.lockJudged (s : State) : Engine → State
  | .tile t => s.judgeLock t
  | _ => s

omit hok hh in
theorem State.lockJudged_loopView (s : State) (e : Engine) : (s.lockJudged e).loopView = s.loopView := by
  cases e with
  | tile t => exact s.judgeLock_loopView t
  | module k => rfl
  | ring w => rfl

/-- LOCKED changes after 16 frames within the tolerance, or beyond it. -/
theorem exec_cellLockChange (hmode : (s.cell e h).mode = 3) : exec (.cellLockChange e h) s =
    if !(s.cell e h).locked ∧ 16 ≤ (s.cell e h).within then .next ((s.updCell e h fun x => { x with locked := true }).lockJudged e)
    else if (s.cell e h).locked ∧ 16 ≤ (s.cell e h).beyond then .next ((s.updCell e h fun x => { x with locked := false }).lockJudged e)
    else .next s := by
  refine (if_pos (by simp [hok, hh, hmode])).trans ?_
  cases e <;> rfl

omit hok hh in
/-- A cell's LOCKED bit changed, as the cells show it. -/
theorem completes_lockJudged {b : Bool} (hexec : exec (.cellLockChange e h) s =
    .next ((s.updCell e h fun x => { x with locked := b }).lockJudged e)) : Completes (.cellLockChange e h) s fun t =>
      t.cell e h = { s.cell e h with locked := b } ∧ ∀ g, g ≠ h → t.cell e g = s.cell e g := by
  refine ⟨_, hexec, ?_⟩
  beta_reduce
  rw [State.cell_of_loopView (State.lockJudged_loopView _ e)]
  exact ⟨State.updCell_cell_self _ _ _ _, fun g hg => State.updCell_cell_ne _ _ _ hg⟩

theorem completes_cellLocks (hmode : (s.cell e h).mode = 3) (hlocked : (s.cell e h).locked = false) (hwithin : 16 ≤ (s.cell e h).within) :
    Completes (.cellLockChange e h) s fun t => t.cell e h = { s.cell e h with locked := true } ∧ ∀ g, g ≠ h → t.cell e g = s.cell e g :=
  completes_lockJudged ((exec_cellLockChange hok hh hmode).trans (if_pos ⟨by simp [hlocked], hwithin⟩))

theorem completes_cellUnlocks (hmode : (s.cell e h).mode = 3) (hlocked : (s.cell e h).locked = true) (hbeyond : 16 ≤ (s.cell e h).beyond) :
    Completes (.cellLockChange e h) s fun t => t.cell e h = { s.cell e h with locked := false } ∧ ∀ g, g ≠ h → t.cell e g = s.cell e g :=
  completes_lockJudged ((exec_cellLockChange hok hh hmode).trans ((if_neg (by simp [hlocked])).trans (if_pos ⟨hlocked, hbeyond⟩)))

/-- A condition declared (R275). -/
theorem completes_implausibility (hrun : s.loopsRun = true) (hmode : (s.cell e h).mode = 2 ∨ (s.cell e h).mode = 3)
    (hreason : (s.cell e h).reasons ≠ 0) : Completes (.implausibilityDeclared e h) s fun t =>
      (t.cell e h).mode = 4 ∧ (t.cell e h).impl = true ∧ (t.cell e h).reason = (s.cell e h).reasons ∧
      (t.cell e h).holdAt = some (s.engineFrame e) ∧ (t.cell e h).nextPower = (s.cell e h).nextPower ∧
      ∀ i, i < s.fit.sleds → ∃ v ∈ (t.hub i).evq, v.code = 0x0D := by
  have hexec : exec (.implausibilityDeclared e h) s = execImplausibilityDeclared e h s := rfl
  unfold execImplausibilityDeclared at hexec
  dsimp only at hexec
  rw [if_pos (by rcases hmode with hm | hm <;> simp [hok, hh, hrun, hm, hreason])] at hexec
  refine ⟨_, hexec, ?_⟩
  beta_reduce
  rw [State.cell_of_loopView (State.raise_loopView _ _ _), State.updCell_cell_self]
  exact ⟨rfl, rfl, rfl, rfl, rfl, fun i hi => State.raise_records _ _ _ (by rwa [State.updCell_fit])⟩

end

/-- The retry of a cell that has been in HOLD for 64 frames (R275). -/
theorem completes_cellRetry {f : Nat} (hhold : (s.cell e h).holdAt = some f) (hrun : s.loopsRun = true) (hmode : (s.cell e h).mode = 4)
    (hdue : f + 64 ≤ s.engineFrame e) (hretries : (s.cell e h).retries < 3) : Completes (.cellRetry e h) s fun t =>
      (t.cell e h).mode = 1 ∧ (t.cell e h).holdAt = none ∧ (t.cell e h).lastRetry = some (s.engineFrame e) ∧
      ∀ g, g ≠ h → t.cell e g = s.cell e g := by
  have hexec : exec (.cellRetry e h) s = execCellRetry e h s := rfl
  unfold execCellRetry at hexec
  dsimp only at hexec
  rw [hhold] at hexec
  dsimp only at hexec
  rw [if_pos (by simp [hrun, hmode, hdue, hretries])] at hexec
  refine (completes_updCell hexec).mono fun t ⟨hcell, hothers, _⟩ => ?_
  rw [hcell]
  exact ⟨rfl, rfl, rfl, hothers⟩

end Sys2Proof.Machine
end

section
/-! SUPPORT. One frame of a loop cell (R258, R262 to R265): what a frame makes of a cell, whatever its engine feeds it. -/

namespace Sys2Proof.Machine

variable {c x d : Cell} {i : CellIn}

/-! ## A cell's step -/

theorem natAbs_clamp24_le (z : Int) : (clamp24 z).natAbs ≤ 8388608 := by
  unfold clamp24
  omega

/-- A power clamped to a cell's limits (R264). -/
theorem Cell.clampP_bounds (x : Cell) (p : Int) :
    (x.clampP p).toNat ≤ max x.rc.umin (min 50000 x.rc.umax) ∧ x.rc.umin ≤ (x.clampP p).toNat := by
  unfold Cell.clampP
  omega

/-- What no frame changes of a cell: what is applied, its mode and its parameters. -/
def Cell.applied (x : Cell) : Nat × Nat × Nat × LoopRec := (x.dac, x.power, x.mode, x.rc)

theorem Cell.tuneStep_applied (x : Cell) (i : CellIn) : (x.tuneStep i).applied = x.applied := by
  unfold Cell.tuneStep
  split <;> rfl

theorem Cell.lockCount_applied (x : Cell) (eps : Int) : (x.lockCount eps).applied = x.applied := by
  unfold Cell.lockCount
  split <;> rfl

theorem Cell.closedStep_applied (x : Cell) (i : CellIn) : (x.closedStep i).applied = x.applied := Cell.lockCount_applied _ _

theorem Cell.frame_applied (x : Cell) (i : CellIn) : (x.frame i).applied = x.applied := by
  unfold Cell.frame
  extract_lets eps y
  repeat' split
  case isFalse.isFalse.isFalse.isTrue => exact y.closedStep_applied i
  case isFalse.isFalse.isFalse.isFalse.isFalse.isTrue => exact y.tuneStep_applied i
  all_goals rfl

/-- A frame of a cell that is OFF puts out nothing. -/
theorem Cell.frame_off (hbump : x.bumpless = none) (hmode : x.mode = 0) : (x.frame i).nextPower = 0 := by
  unfold Cell.frame
  dsimp only
  rw [if_neg (by simp [hbump]), if_neg (by omega), if_neg (by omega), if_neg (by omega), if_neg (by omega), if_neg (by omega)]
  rfl

/-- A frame of a cell in HOLD puts out its last power. -/
theorem Cell.frame_held (hbump : x.bumpless = none) (hmode : x.mode = 4) : (x.frame i).nextPower = x.nextPower := by
  unfold Cell.frame
  dsimp only
  rw [if_neg (by simp [hbump]), if_neg (by omega), if_neg (by omega), if_neg (by omega), if_pos hmode]
  rfl

/-- A frame of a CLOSED cell is the compensator's step. -/
theorem Cell.frame_closed (hbump : x.bumpless = none) (hmode : x.mode = 3) :
    ∃ log, x.frame i = ({ x with ff := i.ff, epsLog := log } : Cell).closedStep i := by
  unfold Cell.frame
  dsimp only
  rw [if_neg (by simp [hbump]), if_neg (by omega), if_neg (by omega), if_pos hmode]
  exact ⟨_, rfl⟩

/-- The history of a CLOSED cell moved on, its output within the limits. -/
def Cell.Stepped (x d : Cell) : Prop :=
  d.u2 = x.u1 ∧ d.u3 = x.u2 ∧ d.e2 = x.e1 ∧ d.e3 = x.e2 ∧ d.e1.natAbs ≤ 8388608 ∧ d.u1.natAbs ≤ 8388608 ∧
    d.nextPower ≤ max d.rc.umin (min 50000 d.rc.umax) ∧ d.rc.umin ≤ d.nextPower

theorem Cell.Stepped.lockCount (h : Cell.Stepped x d) (eps : Int) : Cell.Stepped x (d.lockCount eps) := by
  unfold Cell.lockCount
  split <;> exact h

theorem Cell.closedStep_stepped (x : Cell) (i : CellIn) : Cell.Stepped x (x.closedStep i) := by
  refine Cell.Stepped.lockCount ?_ _
  refine ⟨rfl, rfl, rfl, rfl, natAbs_clamp24_le _, ?_, (x.clampP_bounds _).1, (x.clampP_bounds _).2⟩
  show (ite _ _ _ : Int).natAbs ≤ 8388608
  split <;> exact natAbs_clamp24_le _

/-- What one frame makes of a cell `c`, however its engine feeds it. -/
def Cell.Framed (c d : Cell) : Prop :=
  d.dac = c.nextDac ∧ d.power = c.nextPower ∧ (c.bumpless = none → d.mode = 0 → d.nextPower = 0) ∧
    (c.bumpless = none → d.mode = 4 → d.nextPower = c.nextPower) ∧ (c.bumpless = none → d.mode = 3 → Cell.Stepped c d)

/-- A cell `c` at the boundary that starts a frame, as its engine goes on with it: what is applied is taken over, and a CLOSED one has its
history. -/
def Cell.Ready (c x : Cell) : Prop :=
  x.dac = c.nextDac ∧ x.power = c.nextPower ∧ x.nextPower = c.nextPower ∧ (c.bumpless = none → x.bumpless = none) ∧
    (c.bumpless = none → x.mode = 3 → x.u1 = c.u1 ∧ x.u2 = c.u2 ∧ x.e1 = c.e1 ∧ x.e2 = c.e2)

theorem Cell.boundary_ready (c : Cell) : Cell.Ready c c.boundary := by
  unfold Cell.boundary
  dsimp only
  split
  next m hm =>
    have hne : c.bumpless ≠ none := by simp [hm]
    split <;> exact ⟨rfl, rfl, rfl, fun h => absurd h hne, fun h => absurd h hne⟩
  next => exact ⟨rfl, rfl, rfl, fun h => h, fun _ _ => ⟨rfl, rfl, rfl, rfl⟩⟩

theorem Cell.Ready.frame (h : Cell.Ready c x) (i : CellIn) : Cell.Framed c (x.frame i) := by
  obtain ⟨hdac, hpower, hnext, hbump, hhist⟩ := h
  have happlied := x.frame_applied i
  simp only [Cell.applied, Prod.mk.injEq] at happlied
  obtain ⟨hdac', hpower', hmode', -⟩ := happlied
  refine ⟨hdac'.trans hdac, hpower'.trans hpower, fun hb hm => ?_, fun hb hm => ?_, fun hb hm => ?_⟩
  · exact Cell.frame_off (hbump hb) (hmode' ▸ hm)
  · exact (Cell.frame_held (hbump hb) (hmode' ▸ hm)).trans hnext
  · rw [hmode'] at hm
    obtain ⟨log, hframe⟩ := Cell.frame_closed (i := i) (hbump hb) hm
    obtain ⟨hu1, hu2, he1, he2⟩ := hhist hb hm
    rw [hframe]
    obtain ⟨hu2', hu3', he2', he3', hbounds⟩ := Cell.closedStep_stepped { x with ff := i.ff, epsLog := log } i
    exact ⟨hu2'.trans hu1, hu3'.trans hu2, he2'.trans he1, he3'.trans he2, hbounds⟩

/-- The drive of a cell's output leaves what a frame has made of it. -/
theorem Cell.Framed.drive (h : Cell.Framed c d) (code : Nat) (sat : Bool) : Cell.Framed c { d with nextDac := code, dacsat := sat } := h

end Sys2Proof.Machine
end

section
/-! SUPPORT. The frames of the three kinds of engine (R258): each makes of every cell of its engine what a frame makes of a cell. -/

namespace Sys2Proof.Machine

variable {s : State} {e : Engine} {h : Nat}

/-! ## Tables of cells -/

theorem Tab.find_map_mk {α : Type} (f : Nat → α) (l : List Nat) {k : Nat} (hk : k ∈ l) : Tab.find k (l.map fun j => (j, f j)) = some (f k) := by
  induction l with
  | nil => cases hk
  | cons j l ih =>
    rw [List.map_cons, Tab.find]
    split
    next hjk => rw [hjk]
    next hjk => exact ih ((List.mem_cons.mp hk).resolve_left fun heq => hjk heq.symm)

/-- A table made of one entry for each number below `n`. -/
theorem Tab.get?_range {α : Type} (f : Nat → α) {n k : Nat} (hk : k < n) :
    (⟨(List.range n).map fun j => (j, f j)⟩ : Tab α).get? k = some (f k) := Tab.find_map_mk f _ (List.mem_range.mpr hk)

theorem State.cell_of_get? {c : Cell} (hc : (s.engineTab e).get? h = some c) : s.cell e h = c := by
  rw [State.cell, Tab.get, hc]
  rfl

/-! ## A tile's frame -/

/-- What the cells of a tile are functions of. -/
def Tile.cellPart (x : Tile) : Tab Cell × Tab Elem × Cal := (x.cells, x.elems, x.cal)

theorem State.updTile_cell {f : Tile → Tile} (hf : ∀ x, (f x).cellPart = x.cellPart) (s : State) (t : Nat) :
    (s.updTile t f).cell (.tile t) = s.cell (.tile t) := by
  funext h
  have hpart := hf (s.tile t)
  simp only [Tile.cellPart, Prod.mk.injEq] at hpart
  obtain ⟨hcells, helems, hcal⟩ := hpart
  simp [State.cell, State.engineTab, State.restMode, State.cal, hcells, helems, hcal]

theorem Tile.takeTemp_cellPart (x : Tile) (t : Nat) : (x.takeTemp t).cellPart = x.cellPart := by
  unfold Tile.takeTemp
  extract_lets steady known
  have hsteady (y : Tile) : (steady y).cellPart = y.cellPart := by
    unfold steady
    split <;> rfl
  split <;> exact hsteady _

theorem Tile.traceFrame_cellPart (x : Tile) (frame : Nat) : (x.traceFrame frame).cellPart = x.cellPart := by
  have htraced (l : List Nat) (y : Tile) : (l.foldl (fun a h => a.trace1 frame h) y).cellPart = y.cellPart := by
    induction l generalizing y with
    | nil => rfl
    | cons h l ih => exact ih (y.trace1 frame h)
  unfold Tile.traceFrame
  split
  · split
    · rfl
    · dsimp only
      split <;> exact htraced _ _
    · exact htraced _ _
  · rfl

theorem State.heaterStep_eq (s : State) (t : Nat) (routes : List (Nat × Nat × List (Nat × Nat))) (m : LoopMeas) (h : Nat) :
    ∃ code window i, s.heaterStep t routes m h = ({ (s.cell (.tile t) h).boundary with code := code, window := window } : Cell).frame i :=
  ⟨_, _, _, rfl⟩

theorem State.heaterStep_framed (s : State) (t : Nat) (routes : List (Nat × Nat × List (Nat × Nat))) (m : LoopMeas) (h : Nat) :
    Cell.Framed (s.cell (.tile t) h) (s.heaterStep t routes m h) := by
  obtain ⟨code, window, i, hstep⟩ := s.heaterStep_eq t routes m h
  have hready : Cell.Ready (s.cell (.tile t) h) { (s.cell (.tile t) h).boundary with code := code, window := window } :=
    (s.cell (.tile t) h).boundary_ready
  rw [hstep]
  exact hready.frame i

theorem heaterDrive_framed {c d : Cell} (hd : Cell.Framed c d) (x : Cal) (t : Nat) (cells : Tab Cell) (h : Nat) :
    Cell.Framed c (heaterDrive x t cells h d) := by
  unfold heaterDrive
  split <;> exact hd

theorem State.tileFrame_framed (s : State) (t : Nat) (m : LoopMeas) (hh : h < tileHeaters t) :
    Cell.Framed (s.cell (.tile t) h) ((s.tileFrame t m).cell (.tile t) h) := by
  unfold State.tileFrame
  extract_lets s1 s2 routes stepped s3
  have hcell : s2.cell (.tile t) = s.cell (.tile t) := by
    calc s2.cell (.tile t)
      _ = s1.cell (.tile t) := State.updTile_cell (by exact fun _ => rfl) s1 t
      _ = (s.convertSensors (.tile t) _).cell (.tile t) := State.updTile_cell (fun x => x.takeTemp_cellPart t) _ t
      _ = s.cell (.tile t) := s.setSensors_cell (.tile t) _
  have hstepped : stepped.get? h = some (s2.heaterStep t routes m h) := Tab.get?_range (fun k => s2.heaterStep t routes m k) hh
  have htab : (s3.updTile t fun x => x.traceFrame s.mgr.frame).engineTab (.tile t) =
      stepped.mapVals fun h c => heaterDrive (s2.tile t).cal t stepped h c := by
    have hcells : ((s3.tile t).traceFrame s.mgr.frame).cells = s3.engineTab (.tile t) :=
      congrArg Prod.fst ((s3.tile t).traceFrame_cellPart s.mgr.frame)
    rw [State.engineTab, State.updTile_tile_self, hcells]
    exact State.setTab_engineTab _ _ _
  have hget : ((s3.updTile t fun x => x.traceFrame s.mgr.frame).engineTab (.tile t)).get? h =
      some (heaterDrive (s2.tile t).cal t stepped h (s2.heaterStep t routes m h)) := by
    rw [htab, Tab.get?_mapVals, hstepped]
    rfl
  rw [State.cell_of_loopView (State.draw_loopView _), State.cell_of_get? hget, ← hcell]
  exact heaterDrive_framed (s2.heaterStep_framed t routes m h) _ _ _ _

/-! ## A ring engine's frame -/

/-- The boundary leaves a cell's history. -/
theorem Cell.boundary_history (c : Cell) :
    c.boundary.u1 = c.u1 ∧ c.boundary.u2 = c.u2 ∧ c.boundary.e1 = c.e1 ∧ c.boundary.e2 = c.e2 := by
  unfold Cell.boundary
  dsimp only
  split
  · split <;> exact ⟨rfl, rfl, rfl, rfl⟩
  · exact ⟨rfl, rfl, rfl, rfl⟩

/-- A ring cell as its engine goes on with it at the boundary: released where it may be, and in the mode that its port gives it. -/
def State.ringCell (s : State) (w h : Nat) : Cell :=
  { s.ringRelease w h (s.cell (.ring w) h).boundary with
    mode := s.ringMode w h (s.ringRelease w h (s.cell (.ring w) h).boundary) }

theorem State.ringFrame_eq (s : State) (w : Nat) (m : LoopMeas) : ∃ f : Nat → Cell,
    s.ringFrame w m = (s.setTab (.ring w) ⟨(List.range 32).map fun h => (h, f h)⟩).draw.2 ∧
    ∀ h, ∃ code window i dac sat, f h =
      { ({ s.ringCell w h with code := code, window := window } : Cell).frame i with nextDac := dac, dacsat := sat } :=
  ⟨_, rfl, fun _ => ⟨_, _, _, _, _, rfl⟩⟩

/-- A cell that its port releases is OFF or OPEN. -/
theorem State.ringMode_released {w h : Nat} {c : Cell} (hmode : c.mode = 1) (hrx : ((s.worker w).port (h / 8)).rx = none) :
    s.ringMode w h c ≠ 3 := by
  unfold State.ringMode
  dsimp only
  rw [hrx]
  split_ifs <;> simp [hmode]

theorem State.ringCell_ready (s : State) (w h : Nat) : Cell.Ready (s.cell (.ring w) h) (s.ringCell w h) := by
  have hboundary := (s.cell (.ring w) h).boundary_ready
  unfold State.ringCell State.ringRelease
  split
  next hheld =>
    obtain ⟨hdac, hpower, hnext, hbump, -⟩ := hboundary
    exact ⟨hdac, hpower, hnext, fun _ => rfl, fun _ hm => absurd hm (State.ringMode_released rfl hheld.2.2)⟩
  next =>
    obtain ⟨hdac, hpower, hnext, hbump, -⟩ := hboundary
    exact ⟨hdac, hpower, hnext, hbump, fun _ _ => (s.cell (.ring w) h).boundary_history⟩

theorem State.ringFrame_framed (s : State) (w : Nat) (m : LoopMeas) (hh : h < 32) :
    Cell.Framed (s.cell (.ring w) h) ((s.ringFrame w m).cell (.ring w) h) := by
  obtain ⟨f, hframe, hcells⟩ := s.ringFrame_eq w m
  obtain ⟨code, window, i, dac, sat, hcell⟩ := hcells h
  have hget : ((s.setTab (.ring w) ⟨(List.range 32).map fun h => (h, f h)⟩).engineTab (.ring w)).get? h = some (f h) := by
    rw [State.setTab_engineTab]
    exact Tab.get?_range f hh
  have hready : Cell.Ready (s.cell (.ring w) h) { s.ringCell w h with code := code, window := window } := s.ringCell_ready w h
  rw [hframe, State.cell_of_loopView (State.draw_loopView _), State.cell_of_get? hget, hcell]
  exact (hready.frame i).drive dac sat

/-! ## A laser module's frame -/

/-- A module with its inputs converted and its power set-point moved, before its cells. -/
def State.moduleConverted (s : State) (k : Nat) (m : LoopMeas) : State :=
  (s.convertSensors (.module k) m.sensors.cells).updModule k fun x =>
    { x with power := (s.convertSensors (.module k) m.sensors.cells).powerStep x }

theorem State.moduleFrame_eq (s : State) (k : Nat) (m : LoopMeas) : ∃ f : Nat → Cell,
    s.moduleFrame k m = (s.moduleConverted k m).setTab (.module k) ⟨(List.range 20).map fun h => (h, f h)⟩ ∧
    ∀ h, ∃ aim i dac, f h =
      { ({ ((s.moduleConverted k m).cell (.module k) h).boundary with
            rc := { ((s.moduleConverted k m).cell (.module k) h).boundary.rc with setpoint := aim } } : Cell).frame i with nextDac := dac } :=
  ⟨_, rfl, fun _ => ⟨_, _, _, rfl⟩⟩

theorem State.updModule_cell {f : Module → Module} (s : State) (hf : ∀ x, (f x).cells = x.cells ∧ (f x).off = x.off ∧ (f x).cal = x.cal) :
    (s.updModule k f).cell (.module k) = s.cell (.module k) := by
  funext h
  obtain ⟨hcells, hoff, hcal⟩ := hf (s.module k)
  simp [State.cell, State.engineTab, State.restMode, State.cal, hcells, hoff, hcal]

theorem State.moduleConverted_cell (s : State) (k : Nat) (m : LoopMeas) : (s.moduleConverted k m).cell (.module k) = s.cell (.module k) := by
  unfold State.moduleConverted
  rw [State.updModule_cell]
  · unfold State.convertSensors
    exact s.setSensors_cell _ _
  · intro x
    exact ⟨rfl, rfl, rfl⟩

theorem State.moduleFrame_framed (s : State) (k : Nat) (m : LoopMeas) (hh : h < 20) :
    Cell.Framed (s.cell (.module k) h) ((s.moduleFrame k m).cell (.module k) h) := by
  obtain ⟨f, hframe, hcells⟩ := s.moduleFrame_eq k m
  obtain ⟨aim, i, dac, hcell⟩ := hcells h
  have hget : (((s.moduleConverted k m).setTab (.module k) ⟨(List.range 20).map fun h => (h, f h)⟩).engineTab (.module k)).get? h =
      some (f h) := by
    rw [State.setTab_engineTab]
    exact Tab.get?_range f hh
  rw [s.moduleConverted_cell k m] at hcell
  have hready : Cell.Ready (s.cell (.module k) h) { (s.cell (.module k) h).boundary with
      rc := { (s.cell (.module k) h).boundary.rc with setpoint := aim } } := (s.cell (.module k) h).boundary_ready
  rw [hframe, State.cell_of_get? hget, hcell]
  exact (hready.frame i).drive dac _

/-- Where nothing holds it elsewhere, a set-point moves by at most 0.05 dB (R273). -/
theorem State.powerStep_le (x : Module) (hglow : x.glowAll = false)
    (hmode : s.mgr.mode = .quiescent ∨ s.mgr.mode = .loaded ∨ s.mgr.mode = .running) : (s.powerStep x - x.power).natAbs ≤ 5 := by
  have hstep : s.powerStep x = x.power + max (-5) (min 5 (powerTarget s.light.level - x.power)) := by
    unfold State.powerStep
    dsimp only
    rw [if_neg (by simp [hglow])]
    rcases hmode with h | h | h <;> rw [h]
  rw [hstep]
  omega

theorem State.moduleFrame_power (s : State) (k : Nat) (m : LoopMeas) (hglow : (s.module k).glowAll = false)
    (hmode : s.mgr.mode = .quiescent ∨ s.mgr.mode = .loaded ∨ s.mgr.mode = .running) :
    (((s.moduleFrame k m).module k).power - (s.module k).power).natAbs ≤ 5 := by
  obtain ⟨f, hframe, -⟩ := s.moduleFrame_eq k m
  have hpower : ((s.moduleFrame k m).module k).power = (s.convertSensors (.module k) m.sensors.cells).powerStep
      ((s.convertSensors (.module k) m.sensors.cells).module k) := by
    rw [hframe]
    simp [State.setTab, State.moduleConverted]
  have hmodule : ((s.convertSensors (.module k) m.sensors.cells).module k).power = (s.module k).power ∧
      ((s.convertSensors (.module k) m.sensors.cells).module k).glowAll = (s.module k).glowAll := by
    simp [State.convertSensors, State.setSensors]
  rw [hpower, ← hmodule.1]
  exact State.powerStep_le _ (hmodule.2.trans hglow) hmode

/-! ## A frame of any engine -/

/-- The light-budget input is sampled with module G00's frame. -/
def State.budgeted (s : State) (e : Engine) (m : LoopMeas) : State := if e = .module 0 then s.lightFrame m.budget else s

theorem State.budgeted_loopView (s : State) (e : Engine) (m : LoopMeas) : (s.budgeted e m).loopView = s.loopView := by
  unfold State.budgeted State.lightFrame
  dsimp only
  repeat' split
  all_goals rfl

/-- The frame of an engine. -/
def State.engineStep (s : State) (m : LoopMeas) : Engine → State
  | .tile t => s.tileFrame t m
  | .module k => s.moduleFrame k m
  | .ring w => s.ringFrame w m

theorem State.engineStep_framed (s : State) (e : Engine) (m : LoopMeas) (hh : h < engineCells e) :
    Cell.Framed (s.cell e h) ((s.engineStep m e).cell e h) := by
  cases e with
  | tile t => exact s.tileFrame_framed t m hh
  | module k => exact s.moduleFrame_framed k m hh
  | ring w => exact s.ringFrame_framed w m hh

theorem exec_loopCellFrame {m : LoopMeas} (hoff : s.mgr.mode ≠ .off) (hok : s.fit.engineOk e = true)
    (hup : ∀ w, e = .ring w → s.workerUp w = true) : exec (.loopCellFrame e m) s = .next ((s.budgeted e m).engineStep m e) := by
  refine (if_neg hoff).trans ((if_pos hok).trans ?_)
  cases e with
  | tile t => rfl
  | module k => rfl
  | ring w => exact if_pos (hup w rfl)

theorem completes_loopCellFrame {m : LoopMeas} (hoff : s.mgr.mode ≠ .off) (hok : s.fit.engineOk e = true) (hh : h < engineCells e)
    (hup : ∀ w, e = .ring w → s.workerUp w = true) : Completes (.loopCellFrame e m) s fun t =>
      Cell.Framed (s.cell e h) (t.cell e h) ∧
      ∀ k, e = .module k → (s.module k).glowAll = false → s.mgr.mode = .quiescent ∨ s.mgr.mode = .loaded ∨ s.mgr.mode = .running →
        ((t.module k).power - (s.module k).power).natAbs ≤ 5 := by
  have hview := s.budgeted_loopView e m
  refine ⟨_, exec_loopCellFrame hoff hok hup, ?_, ?_⟩
  · rw [← State.cell_of_loopView hview]
    exact State.engineStep_framed _ e m hh
  · rintro k rfl hglow hmode
    rw [← State.module_of_loopView hview] at hglow ⊢
    rw [← (State.loopView_eq hview).2.2.2.1] at hmode
    exact State.moduleFrame_power _ k m hglow hmode

end Sys2Proof.Machine
end

section
/-! The obligation about loop cells. -/

namespace Sys2Proof.Machine

/-- Settles O55: the frame of a cell through what every engine makes of its cells, the rest by the command. -/
theorem loopCellsRun : Obligations.LoopCellsRun := by
  unfold Obligations.LoopCellsRun
  refine ⟨fun s e m h hoff hok hh hup => ?_, fun s e h hok hh => ⟨?_, fun hrun hseq => ⟨completes_cellPrime hok hh hrun hseq,
    completes_cellClosed hok hh hrun hseq⟩, completes_cellLocks hok hh, completes_cellUnlocks hok hh, completes_implausibility hok hh,
    fun f => completes_cellRetry⟩⟩
  · refine (completes_loopCellFrame hoff hok hh hup).mono fun t ht => ?_
    obtain ⟨⟨hdac, hpower, hzero, hheld, hclosed⟩, hmodule⟩ := ht
    exact ⟨hdac, hpower, hzero, hheld, hclosed, hmodule⟩
  · rintro x rfl
    rfl

end Sys2Proof.Machine
end
